-- ==== Sys2Proof/Word.lean ====
section
/-! DEFINITION. The word types of the GF8820 model: lines, addresses, identifiers, and the sparse list that holds every
large array of the part. -/

namespace Sys2Proof

/-- A byte. -/
abbrev Byte := BitVec 8
/-- A register word (R9: registers are 32 bits wide). -/
abbrev W32 := BitVec 32
/-- A 64-bit value: counters, stamps, the time base. -/
abbrev W64 := BitVec 64
/-- A 64 B line; byte n holds bits [8n+7:8n] (R199). -/
abbrev Line := BitVec 512
/-- A 58-bit global physical address (R16). -/
abbrev GAddr := BitVec 58
/-- A line address: global address [57:6] (R126 LADDR). -/
abbrev LAddr := BitVec 52
/-- A 52-bit domain-local address: member number, then offset (R18). -/
abbrev DAddr := BitVec 52
/-- An 18-bit node ID X, Y, Z (R16). -/
abbrev NodeId := BitVec 18
/-- A 12-bit member number (R17). -/
abbrev Member := BitVec 12
/-- A host port HP0 to HP3. -/
abbrev Port := Fin 4
/-- A slice SLC0 to SLC7. -/
abbrev SliceNo := Fin 8
/-- A fabric port FP0 to FP5. -/
abbrev FPortNo := Fin 6
/-- A master of the register fabric (R406): HP0 to HP3, then the management cores. -/
abbrev Master := Fin 5
/-- A way W0 to W14 of a set. -/
abbrev Way := Fin 15
/-- A large array held sparsely: pairs of index and content, indices strictly rising, no default content listed. -/
abbrev Sparse (α : Type) := List (Nat × α)

end Sys2Proof
end

