-- ==== Sys2Proof/Syntax.lean ====
section
/-! DEFINITION. The commands the GF8820 takes: one constructor of `Instr` for each row of spec/opcode_table.json, with the
messages and values a row carries. -/

namespace Sys2Proof

/-- A host-to-device Emhal message (R291, R292); the row gives its opcode. `data` is the payload, byte 0 in bits [7:0];
`opB` is operand B of CAS and CAS16; `dcmp` and `dsnp` are the DCMP and DSNP credits that the host gives the device with it, which it advertises
and which R295 keeps in no field (log 89). -/
structure EMsg where
  port   : Port
  etag   : BitVec 12 := 0
  strm   : BitVec 4 := 0
  rslot  : BitVec 8 := 0
  addr   : GAddr := 0
  len    : BitVec 7 := 0
  stamp  : Option W64 := none
  poison : Bool := false
  bkind  : BitVec 2 := 0
  bscope : Bool := false
  aop    : BitVec 5 := 0
  grant  : BitVec 2 := 0
  rsp    : BitVec 2 := 0
  data   : Line := 0
  opB    : BitVec 128 := 0
  dcmp   : Nat := 0
  dsnp   : Nat := 0
deriving DecidableEq, Repr

/-- The meta value of a CXL.mem request (R121). -/
inductive CMeta | any | shared | invalid
deriving DecidableEq, Repr

/-- A CXL.mem M2S request (R121); `be` are the byte enables of a MemWrPtl. -/
structure CMsg where
  port   : Port
  tag    : BitVec 16 := 0
  meta_  : CMeta := .any
  addr   : GAddr := 0
  data   : Line := 0
  be     : W64 := 0
  poison : Bool := false
deriving DecidableEq, Repr

/-- A Bervex message (R126 to R130); the row gives its class and opcode. `rsv` holds the OPC field when it is one of the
reserved opcodes of the row's class (R129). `aerr` marks the answer of R20 to an offset above the installed memory, for
which the spec gives no encoding (log 9). `res`: a Cmp that answers an AmoF and carries its 16 B result (R128). `allow`: the time in
ns that host snoops of the device that answers add to the bound of the request (R256), no field of the message (log 16). -/
structure BMsg where
  rsv     : Option (BitVec 5) := none
  dst     : NodeId := 0
  dstu    : BitVec 4 := 0
  src     : NodeId := 0
  srcu    : BitVec 4 := 0
  rtid    : BitVec 12 := 0
  laddr   : LAddr := 0
  age     : BitVec 6 := 0
  poison  : Bool := false
  keep    : Bool := false
  retain  : Bool := false
  nc      : Bool := false
  waitcmp : Bool := false
  fwdr    : Bool := false
  rqn     : NodeId := 0
  rqu     : BitVec 4 := 0
  htid    : BitVec 12 := 0
  osn     : BitVec 12 := 0
  gen     : BitVec 8 := 0
  reason  : BitVec 3 := 0
  port    : BitVec 2 := 0
  strm    : BitVec 4 := 0
  stamp   : Option W64 := none
  mask    : W64 := 0
  amo     : BitVec 256 := 0
  data    : Line := 0
  result  : BitVec 128 := 0
  aerr    : Bool := false
  res     : Bool := false
  allow   : Nat := 0
deriving DecidableEq, Repr

/-- The Bervex messages of R129, by name. -/
inductive BKind
  | rdS | rdX | upg | rdU | wrU | amoF | pfq
  | fwdS | fwdX | inv | bInv | probe
  | dataS | dataE | dataM | ack | invAck | nack | cmp | wbAck
  | putM | putO | putE | putS
deriving DecidableEq, Repr

/-- A write of software to one 32-bit register: the master (R406), the bytes enabled (R418) and the value. -/
structure RWr where
  master : Master
  be     : BitVec 4 := 0xF
  val    : W32 := 0
  etag   : BitVec 12 := 0
deriving DecidableEq, Repr

/-- A register access at a window offset: size in bytes and data (R418). `off` is the whole ADDR of the CsrRd or CsrWr
(R290). -/
structure RAcc where
  master : Master
  off    : GAddr := 0
  size   : Nat := 4
  val    : W64 := 0
  etag   : BitVec 12 := 0
deriving DecidableEq, Repr

/-- A fabric flit as received (R299), with the results of its checks: whether its codeword pair was corrected or not
correctable (R298), whether its CRC is good, and its place among the five flits of the pair. -/
structure FlitIn where
  slot   : BitVec 3 := 0
  fecCor : Bool := false
  fecUnc : Bool := false
  crcOk  : Bool := true
  ctrl   : Bool := false
  seq    : BitVec 10 := 0
  ack    : BitVec 10 := 0
  replay : Bool := false
  crvc   : BitVec 4 := 15
  crcnt  : BitVec 6 := 0
deriving DecidableEq, Repr

/-- A fabric packet in transit (R301): its header fields and, for VC0 to VC3, the Bervex message. -/
structure Packet where
  cls   : BitVec 3 := 0
  dl    : Bool := false
  bcast : Bool := false
  comb  : Bool := false
  dst   : NodeId := 0
  src   : NodeId := 0
  len   : BitVec 7 := 4
  birth : BitVec 16 := 0
  kind  : BKind := .rdS
  msg   : BMsg := {}
deriving DecidableEq, Repr

/-- What makes a fabric link lost (R311). -/
inductive LossCause | noFlit | missedHeartbeat | replayLimit
deriving DecidableEq, Repr

/-- What a decoder finds in the symbols it reads (R330, R335): a codeword, an error it corrects, with the fold of its syndrome (R346), or one
beyond correction. -/
inductive Cond | clean | corr (syn : BitVec 16) | unc
deriving DecidableEq, Repr

/-- The severity an HBM stack reports with a read (R331). -/
inductive Sev | none_ | cor | unc
deriving DecidableEq, Repr

/-- An upset of an on-die array or buffer, which its parity or check bits will find (R357, R358): a tag-shadow entry, a way hint, a
predictor counter, a byte of the policy map, a reservation, a history row, a directory cache entry; or a byte of a write-merge, combining,
Causeway or Reedbed entry, of a slice or home transaction's data, of a write a DDR5 queue holds, or of a response a host port holds, `unc`
when it is beyond correction. Or of a location of a memory: errors in symbols of an HBM slot (0: slot TS; way w in slot w + 1), with what its
stack will report, or of a DDR5 line, each symbol by its number with the bits that flip (R329 to R335). Or of a copy of a voted register (R416). -/
inductive Upset
  | shadow (s : SliceNo) (set : BitVec 12) (e : BitVec 3) | hint (s : SliceNo) (idx : BitVec 20) | predictor (s : SliceNo) (idx : BitVec 12)
  | policy (byte : BitVec 19) | rsv (p : Port) (slot : BitVec 8) | hist (row : BitVec 10) | dir (set : BitVec 17) (way : BitVec 4)
  | wmb (s : SliceNo) (id : Nat) (unc : Bool) | ntc (p : Port) (id : Nat) (unc : Bool) | cw (s : SliceNo) (l : LAddr) (unc : Bool)
  | rb (s : SliceNo) (l : LAddr) (unc : Bool) | slcTxn (s : SliceNo) (rtid : BitVec 12) (unc : Bool) | homeTxn (num : BitVec 12) (unc : Bool)
  | queued (frame : BitVec 34) (unc : Bool) | response (p : Port) (unc : Bool)
  | hbm (s : SliceNo) (set : BitVec 23) (slot : BitVec 4) (errs : List (BitVec 7 × Byte)) (sev : Sev)
  | line (frame : BitVec 34) (errs : List (BitVec 7 × Byte)) | vote (k : BitVec 6) (copy : BitVec 2) (bits : W32)
deriving DecidableEq, Repr

/-- A line of a region copied between homes (R186 steps 2 and 6): line number in the region, data, directory word. -/
structure RegLine where
  idx  : BitVec 24
  data : Line
  word : W32
deriving DecidableEq, Repr

/-- A relocation table entry (R183). `unack`: the relocations that are not yet acknowledged, whose number is the count of R183, each by its
generation and the home it left (R187). -/
structure RTab where
  orig   : Member
  region : BitVec 10
  gen    : BitVec 8
  home   : Member
  unack  : List (BitVec 8 × Member)
deriving DecidableEq, Repr

/-- The answer of a member to a relocation table query (R190): its table, the declarations in force there, and whether
the table was cleared by the member's own cold start. -/
structure TabAnswer where
  member  : Member
  table   : List RTab
  dead    : List NodeId
  cleared : Bool
deriving DecidableEq, Repr

/-- The answer of a member in the QUIET exchange (R460, R521). -/
structure QuietAnswer where
  member : Member
  quiet  : Bool
  dead   : List NodeId
deriving DecidableEq, Repr

/-- The system description of a firmware image (R24, R67, R183, R288, R309, R321). `wt` lists write-through regions as
member number and region number. -/
structure SysDesc where
  ident  : W32 := 0
  node   : NodeId := 0
  xsz    : Nat := 1
  ysz    : Nat := 1
  zsz    : Nat := 1
  root   : NodeId := 0
  wt     : List (Member × BitVec 10) := []
  modes  : List (BitVec 2) := []
  guests : Nat := 0
deriving DecidableEq, Repr

/-- The result of loading a firmware image (R464 step 4, R467, R469 step 4): whether the signature of the image kept over a warm reset verifies, and those
of the slots, and the
description the verified image holds. -/
structure ImageResult where
  kept : Bool := false
  sigA : Bool
  sigB : Bool
  desc : SysDesc
deriving DecidableEq, Repr

/-- A DDR5 DIMM found by training on a channel (R332, R333): whether it is an RDIMM with ECC and of x4 devices, its size, ranks and density code,
and whether it trained below DDR5-6400. -/
structure Dimm where
  rdimm : Bool := true
  x4    : Bool := true
  gib   : Nat
  rank2 : Bool
  dens  : BitVec 2
  slow  : Bool
deriving DecidableEq, Repr

/-- A request waiting for a resource (R37, R76, R84, R295): in a slice, or in a host port's queue, by place. -/
inductive WaitRef
  | slice (s : SliceNo) (i : Nat)
  | port  (p : Port) (i : Nat)
deriving DecidableEq, Repr

/-- What the self-test of a start finds wrong (R366, R354): the first wrong checker, and the on-die array rows that fail, each
with whether a spare is left for it. -/
structure SelfTest where
  checker : Option (BitVec 10) := none
  arrays  : List (BitVec 16 × Bool) := []
deriving DecidableEq, Repr

/-- What an SMBus command begins and ends with: the 7-bit address, and whether a packet error code is there and right (R518). -/
structure SmbHdr where
  addr : BitVec 7
  pec  : Bool
deriving DecidableEq, Repr

/-- The commands of spec/opcode_table.json, in its order. -/
inductive Instr
  | rdshared (m : EMsg) | rdown (m : EMsg) | upgrade (m : EMsg) | rdcur (m : EMsg)
  | write (m : EMsg) | writent (m : EMsg) | wbdirty (m : EMsg) | evictclean (m : EMsg)
  | atomic (m : EMsg) | rsvload (m : EMsg) | condstore (m : EMsg) | barrier (m : EMsg)
  | barDoneComplete (p : Port) (etag : BitVec 12)
  | pfhint (m : EMsg) | floor (m : EMsg) | exception (m : EMsg) | snprsp (m : EMsg)
  | memrd (c : CMsg) | memwr (c : CMsg) | memwrptl (c : CMsg) | memspecrd (c : CMsg)
  | birsp (p : Port) (etag : BitVec 12) (rsp : BitVec 2)
  | biconflict (p : Port) (etag : BitVec 12)
  | hdmDecoderCommit (p : Port) (d : Fin 4) (base size : W64)
  | snoopTimeout (p : Port) (etag : BitVec 12)
  | hostLinkTrained (p : Port) (x16 g6 : Bool)
  | hostLinkRecovery (p : Port) | recoveryTimeout (p : Port) | ltssmExit (p : Port)
  | portDownWalkDone (p : Port)
  | retrain (p : Port) (w : RWr) | hportLinkModeWrite (p : Port) (w : RWr)
  | rds (m : BMsg) | rdx (m : BMsg) | upg (m : BMsg) | rdu (m : BMsg) | wru (m : BMsg) | amof (m : BMsg) | pfq (m : BMsg)
  | putm (m : BMsg) | puto (m : BMsg) | pute (m : BMsg) | puts (m : BMsg)
  | ack (m : BMsg) | invack (m : BMsg) (comb : Bool) | probeResponse (m : BMsg) (dirty : Bool)
  | datas (m : BMsg) | datae (m : BMsg) | datam (m : BMsg) | cmp (m : BMsg) | nack (m : BMsg)
  | nackRetry (s : SliceNo) (rtid : BitVec 12)
  | wback (m : BMsg)
  | fwds (m : BMsg) | fwdx (m : BMsg) | inv (m : BMsg) | binv (m : BMsg) | probe (m : BMsg)
  | claimWindowExpiry (num : BitVec 12) | ownerPutTimeout (num : BitVec 12) | forwardedAckTimeout (num : BitVec 12)
  | wmbHoldExpiry (s : SliceNo) (id : Nat) | ntcHoldExpiry (p : Port) (id : Nat)
  | waiterResume (w : WaitRef)
  | prefetchWindowClose (s : SliceNo)
  | wayDisableDone (s : SliceNo) (region : BitVec 6) (way : Way)
  | waygroupPowerdownDone (g : BitVec 2) | waygroupPowerupDone (g : BitVec 2)
  | cacheDrainDone (s : SliceNo) | rangeWalkDone | policyWalkDone (m : Member) (region : BitVec 10)
  | purgeWalkDone (n : NodeId) | deadRequestTimeout (n : NodeId) | sweepPassDone (n : NodeId) | readmission (n : NodeId)
  | horizonPeriod (k : W64) (pendingLists : List (BitVec 6)) | floorReport (g : BitVec 6) (k d s : W64) (cnt : Nat)
  | horizonResult (g : BitVec 6) (k h s : W64) | stampStall
  | memberListUpdate (g : BitVec 6) (n : NodeId) (join : Bool)
  | flit (f : FPortNo) (x : FlitIn) | transitBypass (f : FPortNo) (x : Packet)
  | broadcastReplicate (f : Option FPortNo) (x : Packet) | combinedInvack (m : BMsg) (cnt : Nat)
  | heartbeatSend | heartbeat (f : FPortNo) (time : W64) (dist : BitVec 7) (delay : W64)
  | linkLost (f : FPortNo) (c : LossCause)
  | linklost (f : FPortNo) (n : NodeId) (peer : NodeId) (t : W64) | linklostDecision (f : FPortNo)
  | declaration (f : FPortNo) (n : NodeId) | packetAged (f : FPortNo) (x : Packet) | warm (f : FPortNo)
  | fabricLinkTrained (f : FPortNo) (neigh : NodeId) | fabricTrainingTimeout (f : FPortNo)
  | regionPolicyChange (m : Member) (region : BitVec 10) (wt : Bool) (src : NodeId)
  | regionSetAck (n : NodeId) | regionSetTimeout
  | contractShareReserve (n : NodeId) (p : Port) (missr : BitVec 11) (depth : Nat)
  | contractShareAnswer (n : NodeId) (p : Port) (ok : Bool) | contractReqTimeout (p : Port) | contractRelComplete (p : Port)
  | stampJoinCleanDone (p : Port) (hzn : W64) | stampLeaveComplete (p : Port)
  | frameReservationAnswer (n : NodeId) (orig : Member) (region : BitVec 10) (ok : Bool)
  | frameReservationTimeout (orig : Member) (region : BitVec 10)
  | relocationCopyDone (orig : Member) (region : BitVec 10) (copied : List RegLine)
  | relocationNotice (src : NodeId) (orig : Member) (region : BitVec 10) (gen : BitVec 8) (home : Member)
  | relocationDrainDone (orig : Member) (region : BitVec 10)
  | relocationFinalCopyDone (orig : Member) (region : BitVec 10) (copied : List RegLine)
  | readyNotice (src : NodeId) (orig : Member) (region : BitVec 10) (gen : BitVec 8)
  | relocationAck (n : NodeId) (orig : Member) (region : BitVec 10) (gen : BitVec 8)
  | stubRelease (orig : Member) (region : BitVec 10) (gen : BitVec 8)
  | relocationTableAnswer (a : List TabAnswer) | relocationTableRetry
  | patrolScrubRead (ddr : Bool) (ups : List (BitVec 16 × Upset)) | patrolPeriodEnd (ddr : Bool) | liveRepairDone (ok : Bool)
  | leak | backgroundFillBlock | fillSlotDone (block : BitVec 20) | heldWriteRelease | voteCheck
  | ping (p k : Port) | regionSet (p k : Port) | regionGet (p k : Port) | flushRange (p k : Port)
  | invalRange (p k : Port) | cleanAll (p k : Port) | waylock (p k : Port) | waylockLoad (p k : Port)
  | waygroupPowerDown (p k : Port) | waygroupPowerUp (p k : Port) | contractReq (p k : Port) | contractRel (p k : Port)
  | stampJoin (p k : Port) | stampLeave (p k : Port) | homeRelocate (p k : Port) | peatRead (p k : Port)
  | errlogRead (p k : Port) | nodeStatus (p k : Port) | fwInfo (p k : Port)
  | mbxOutack (p k : Port) (w : RWr) (late : Bool)
  | fwIdle | fwRestart (exc : Bool) (again : Bool) | fwRestartComplete | watchdog
  | genUnlock (w : RWr) | keyTimeout (m : Master)
  | genSemRead (a : RAcc) (n : Fin 8) | genSemRelease (n : Fin 8) (w : RWr)
  | counterLoRead (a : RAcc)
  | indDataRead (a : RAcc) | indDataWrite (a : RAcc) | slowWriteDone (m : Master)
  | evqRdWrite (p : Port) (w : RWr) | evqMarkWrite (p : Port) (w : RWr) | flush (p : Port) (w : RWr) | rewind (p : Port) (w : RWr)
  | evqHoldExpiry (p : Port)
  | cacheDisable (s : SliceNo) (w : RWr) | cacheEnable (s : SliceNo) (w : RWr)
  | slcWaylockWrite (s : SliceNo) (w : RWr) | shadowEnClear (s : SliceNo) (w : RWr)
  | hportSnpCtlWrite (p : Port) (w : RWr) | homeLaneCtlWrite (w : RWr) | slcRetryCtlWrite (s : SliceNo) (w : RWr)
  | stampWaysWrite (w : RWr) | sluiceClose (w : RWr) | walkhold (w : RWr) | fportCtlEnWrite (f : FPortNo) (w : RWr)
  | sw (w : RWr) | clear (w : RWr) | registerWrite (a : RAcc)
  | peatRecordWrite | summary | limitMinute
  | peatPtr (b : SmbHdr) | peatSel (b : SmbHdr) (seq : W32) | peatData (b : SmbHdr) | temp (b : SmbHdr) | power (b : SmbHdr)
  | warmAnnounce (b : SmbHdr) (ms : BitVec 16)
  | extest (bits : List Bool) | samplePreload (bits : List Bool) | idcode | highz | clamp
  | extestPulse (bits : List Bool) | extestTrain (bits : List Bool) | frzstat
  | chainsel (v : W32) | chainscan (tdi : List Bool) | arraysel (v : W32) | arrayrd | bypass (tdi : Bool)
  | powerOn | pwrOk (trstN : Bool) | resetN | wrstN | warmDrainDeadline | wrstNRelease
  | quietExchangeResult (a : List QuietAnswer) | quietTimeout
  | pfailN | pfailDrainDeadline | freezeN | railTrip (vaon : Bool) | refclkLoss
  | temperatureSample (t : List Byte) | pllLock | checkerSelfTestDone (r : SelfTest)
  | imageLoadDone (r : ImageResult) | hbmTrainingDone (trained : BitVec 4) | hbmZeroFillDone
  | ddr5TrainingDone (dimms : List (Option Dimm)) | firstGibFillDone | firmwareRelease | admissionOpen (p : Port)
  | hostLinkRecovered (p : Port) (x16 g6 : Bool) (flits : W64)
  | disabledWayTestDone (s : SliceNo) (region : BitVec 6) (way : Way) (cleanRes : Bool)
  | fuseAndMramReadDone
  | relocationTableQuery (n : NodeId) | frameReservationRequest (n : NodeId) (orig : Member) (region : BitVec 10)
  | contractShareRelease (n : NodeId) (p : Port)
  | reservedEmhalOpcode (m : EMsg) (opc : BitVec 6)
  | backInvalidationEnable (p : Port) | msiXEnable (p : Port)
  | powerDown (vaonToo : Bool)
deriving DecidableEq, Repr

end Sys2Proof
end

