-- ==== Sys2Proof/WellFormed.lean ====
section
/-! DEFINITION. Which commands the interfaces of the part can carry: the checks a command passes before a claim speaks of it. The
machine itself answers every command; an ill-formed one is a term that no message, pin or tool of the spec can send. -/

namespace Sys2Proof

/-- The opcodes of R129 by class: those below the count are assigned. -/
def assignedOpcodes (vc : Nat) : Nat :=
  match vc with
  | 0 => 7
  | 1 => 5
  | 2 => 8
  | _ => 4

/-- A Bervex message of a class: a reserved opcode it carries is not one of the assigned opcodes of the class (R129). -/
def BMsg.wf (vc : Nat) (m : BMsg) : Bool :=
  match m.rsv with
  | none => true
  | some o => decide (assignedOpcodes vc ≤ o.toNat)

/-- An Emhal message without payload has LEN 0 to 64 in its field of seven bits (R291). -/
def EMsg.wf (m : EMsg) : Bool := decide (m.len.toNat ≤ 64)

/-- A SnpRsp carries no data or a line (R292). -/
def EMsg.rspWf (m : EMsg) : Bool := decide (m.len = 0) || decide (m.len = 64)

/-- A relocation table entry counts at most eight relocations not acknowledged (R188). -/
def RTab.wf (e : RTab) : Bool := decide (e.unack.length ≤ 8)

/-- A command is well-formed. -/
def Instr.wf : Instr → Bool
  | .rdshared m | .rdown m | .upgrade m | .rdcur m | .write m | .writent m | .wbdirty m | .evictclean m | .atomic m
  | .rsvload m | .condstore m | .barrier m | .pfhint m | .floor m | .exception m => m.wf
  | .snprsp m => m.rspWf
  | .reservedEmhalOpcode m o => m.wf && decide (0x11 < o.toNat)
  | .rds m | .rdx m | .upg m | .rdu m | .wru m | .amof m | .pfq m => m.wf 0
  | .fwds m | .fwdx m | .inv m | .binv m | .probe m => m.wf 1
  | .ack m | .datas m | .datae m | .datam m | .cmp m | .nack m | .wback m => m.wf 2
  | .invack m _ | .probeResponse m _ => m.wf 2
  | .putm m | .puto m | .pute m | .puts m => m.wf 3
  | .broadcastReplicate _ x => x.msg.rsv.isNone
  | .flit _ x => decide (x.slot.toNat < 5)
  | .combinedInvack m n => m.rsv.isNone && decide (0 < n)
  | .transitBypass _ x | .packetAged _ x => decide (4 ≤ x.len.toNat)
  | .floorReport _ _ _ _ n => decide (0 < n)
  | .relocationTableAnswer a => a.all (fun x => x.table.all RTab.wf)
  | .temperatureSample t => decide (t.length = 5)
  | .ddr5TrainingDone d => decide (d.length = 8)
  | .genSemRead a _ | .counterLoRead a | .indDataRead a | .indDataWrite a => decide (a.size ≤ 64)
  | .registerWrite a => decide (a.size ≤ 64)
  | _ => true

end Sys2Proof
end

