-- ==== Sys2Proof/Decode.lean ====
section
/-! DEFINITION. The decoder of the opcode table's bits. No row of the table gives bits: the commands of this block arrive as messages,
pins and events, each with its operands, and no word spells one. -/

namespace Sys2Proof

/-- The command a word spells by the bits of the opcode table: no row gives bits, so no word spells any. -/
def decodeTableWord (_nbits _w : Nat) : Option Instr := none

/-! ### Emhal messages on a host link (R291, R292) -/

/-- The 128-bit header of a host message with an opcode (R291); a field that a host message does not use is 0. -/
def emhalHeader (opc : BitVec 6) (m : EMsg) : BitVec 128 :=
  let b (x : Bool) : BitVec 1 := if x then 1 else 0
  (0 : BitVec 14) ++ m.rsp ++ (0 : BitVec 1) ++ m.grant ++ (0 : BitVec 3) ++ m.aop ++ b m.bscope ++ m.bkind ++ b m.poison ++ b m.stamp.isSome ++
    (0 : BitVec 1) ++ m.len ++ m.addr ++ m.rslot ++ m.strm ++ m.etag ++ opc

/-- The message of a header received on a port, with the stamp word that follows where STMP is 1, and the payload (R291). -/
def emhalMsg (p : Port) (h : BitVec 128) (stamp : W64) (data : Line) (opB : BitVec 128) : EMsg :=
  { port := p, etag := h.extractLsb' 6 12, strm := h.extractLsb' 18 4, rslot := h.extractLsb' 22 8, addr := h.extractLsb' 30 58
    len := h.extractLsb' 88 7, stamp := if h.getLsbD 96 then some stamp else none, poison := h.getLsbD 97, bkind := h.extractLsb' 98 2
    bscope := h.getLsbD 100, aop := h.extractLsb' 101 5, grant := h.extractLsb' 109 2, rsp := h.extractLsb' 112 2, data := data, opB := opB }

/-- The register access of a CsrRd or CsrWr (R290): ADDR is the window offset, LEN the size. -/
def emhalAcc (m : EMsg) : RAcc :=
  { master := m.port.castSucc, off := m.addr, size := m.len.toNat, val := m.data.setWidth 64, etag := m.etag }

/-- The command of a host message by its opcode (R292); any opcode but those of a host is the reserved one. -/
def emhalCommand (opc : BitVec 6) (m : EMsg) : Instr :=
  match opc.toNat with
  | 0x00 => .rdshared m | 0x01 => .rdown m | 0x02 => .upgrade m | 0x03 => .rdcur m | 0x04 => .write m | 0x05 => .writent m
  | 0x06 => .wbdirty m | 0x07 => .evictclean m | 0x08 => .atomic m | 0x09 => .rsvload m | 0x0A => .condstore m | 0x0B => .barrier m
  | 0x0C => .pfhint m | 0x0D => .floor m | 0x0E => .exception m | 0x0F => .counterLoRead (emhalAcc m) | 0x10 => .registerWrite (emhalAcc m)
  | 0x11 => .snprsp m
  | _ => .reservedEmhalOpcode m opc

/-- The command of a message as it comes on the link of a port: header, stamp word and payload (R291, R292). -/
def emhalDecode (p : Port) (h : BitVec 128) (stamp : W64) (data : Line) (opB : BitVec 128) : Instr :=
  emhalCommand (h.extractLsb' 0 6) (emhalMsg p h stamp data opB)

end Sys2Proof
end

