-- ==== Sys2Proof/Config.lean ====
section
/-! DEFINITION. What the spec leaves open: constants of the part in hand and free values. None has a body, so no proof
can rest on a value of one (log 8). -/

namespace Sys2Proof

/-- GEN_ID.GRADE is 1 for a GF8820-X, from fuses (R425). -/
opaque Config.gradeX : Bool
/-- GEN_ID.STEP, from fuses (R425). -/
opaque Config.step : BitVec 4
/-- Tabwen's JEP106 code in IDCODE [11:1] (R491). -/
opaque Config.jep106 : BitVec 11
/-- Firmware version: major, then minor (R392 FW_INFO). -/
opaque Config.fwVersion : BitVec 16
/-- Build number of the firmware image (R394 FW_INFO). -/
opaque Config.fwBuild : BitVec 32
/-- Content of the fuse map at a byte offset (R422). -/
opaque Config.fuse : Nat → BitVec 32
/-- Status word of the xSPI controller at a byte offset, at the n-th free value (R422). -/
opaque Config.xspi : Nat → Nat → BitVec 32
/-- The low (0) and high (1) word of a field repair map entry in MRAM, by the code of what it records; 0: an entry not in use (R422 gives no
layout). -/
opaque Config.repairWord : Nat → Nat → BitVec 32
/-- Package power in units of 0.5 W, from the on-die monitors, at the n-th free value (R518). -/
opaque Config.power : Nat → BitVec 16
/-- Length in bits of scan chain c (R491, R492: in Tabwen's chain map). -/
opaque Config.chainLen : Nat → Nat
/-- Bit i of chain c in a frozen die, by the number of the freeze (R492). -/
opaque Config.chainBit : Nat → Nat → Nat → Bool
/-- Row width in bits of on-die array a (R491). -/
opaque Config.arrayWidth : Nat → Nat
/-- Bit i of row r of array a in a frozen die, by the number of the freeze (R492). -/
opaque Config.arrayBit : Nat → Nat → Nat → Nat → Bool
/-- Cells of the boundary scan register (R491: in Tabwen's ball map). -/
opaque Config.bscanLen : Nat
/-- Level captured in cell i of the boundary scan register, at the n-th free value (R491). -/
opaque Config.pinSample : Nat → Nat → Bool
/-- SMB_AD1, SMB_AD0 as strapped by the board (R518). -/
opaque Config.smbStrap : BitVec 2
/-- A free word: an unspecified value that a register read returns, at the n-th free value. -/
opaque Config.freeWord : Nat → BitVec 32
/-- 16-bit fold of the syndrome of an error in the slot code, or (`true`) in the line code, of which the spec gives only the width (R346). -/
opaque Config.synFold : Bool → List (Nat × BitVec 8) → BitVec 16
/-- A second device's trial also passes for an error confined to one device (R335: with probability below 2^−28). -/
opaque Config.secondTrial : List (Nat × BitVec 8) → Bool
/-- The check symbols of the slot code over data and metadata (R330 gives no generator). -/
opaque Config.slotCheck : BitVec 528 → BitVec 48
/-- The check symbols of the line code over data and directory word (R335 gives no generator). -/
opaque Config.lineCheck : BitVec 544 → BitVec 96
/-- Length of a VC4 or VC5 packet in words of 8 B above the least one of 4 (R301 gives 4 to 15), at the n-th free value. -/
opaque Config.mgmtLen : Nat → Nat
/-- Word i of the message of a VC4 or VC5 packet, of which the spec gives no layout, at the n-th free value. -/
opaque Config.mgmtWord : Nat → Nat → BitVec 64
/-- Word i of a control flit, of which the spec gives no layout (R299), at the n-th free value. -/
opaque Config.ctrlWord : Nat → Nat → BitVec 64
/-- A spare row is left for a start-up repair of a location, at the n-th free value (R351). -/
opaque Config.spareLeft : Nat → Nat → Bool
/-- What a repair map entry of a low and a high word records, as a code; 0: an entry not in use (R422). -/
opaque Config.repairCode : BitVec 32 → BitVec 32 → Nat

end Sys2Proof
end

