-- ==== Sys2Proof/Machine/State.lean ====
section
/-! DEFINITION. The whole state of one GF8820 as plain data, and the state after reset. INVENTORY.md names the rule of
spec/ for each field and its reset value; the structures follow the blocks of spec/01_architecture.md. -/

namespace Sys2Proof.Machine

/-- No command of this block raises a fault: the spec reports every error by status, Nack, event, record, interrupt or
stop. The one reason stands for a command whose effect would need a unit the spec does not describe; nothing raises it. -/
inductive Fault
  /-- Raised by nothing; kept so that the type of reasons is not empty. Safe. -/
  | undescribedUnit
deriving DecidableEq, Repr

/-- Why a command has no meaning. -/
inductive Refusal
  /-- A command whose meaning is not written. Safe: nothing is claimed of it. -/
  | notModelled (mnemonic : String)
deriving DecidableEq, Repr

/-- The states of a line in a device (R33, R113); `P` is fill pending. -/
inductive LState | I | S | F | E | O | M | P
deriving DecidableEq, Repr

/-- The directory states (R139, R147). -/
inductive DState | U | E1 | S1 | SM | OS | BC | QU
deriving DecidableEq, Repr

/-- A register that holds a /V field: the three stored copies (R416). -/
structure VReg where
  c0 : W32
  c1 : W32
  c2 : W32
deriving DecidableEq, Repr

/-- A tag word (R32). -/
structure TagWord where
  tag        : BitVec 20 := 0
  st         : LState := .I
  hp         : BitVec 4 := 0
  poison     : Bool := false
  prefetched : Bool := false
deriving DecidableEq, Repr

/-- A tag block: fifteen tag words and the set word (R32, R34). -/
structure TagBlock where
  ways : Vector TagWord 15 := Vector.replicate 15 {}
  plru : BitVec 14 := 0
  csum : BitVec 8 := 0
deriving DecidableEq, Repr

/-- A tag-shadow entry (R35); `bad` marks a parity error (R38). -/
structure ShEntry where
  valid : Bool := false
  idx   : BitVec 11 := 0
  dirty : Bool := false
  pin   : Bool := false
  bad   : Bool := false
  block : TagBlock := {}
deriving DecidableEq, Repr

/-- A set of the tag shadow: eight entries and the tree (R35). -/
structure ShSet where
  ents : Vector ShEntry 8 := Vector.replicate 8 {}
  tree : BitVec 7 := 0
deriving DecidableEq, Repr

/-- What is wrong with a stored location (R330, R331, R335): the bits that differ from a codeword, by symbol, and what an HBM stack reports when
it is read. A location that stands nowhere holds a codeword. -/
structure Flaw where
  errs : Sparse Byte := []
  sev  : Sev := .none_
deriving DecidableEq, Repr

/-- A data slot: line data and the ownership sequence number held with it (R329). -/
structure Slot where
  data : Line := 0
  osn  : BitVec 12 := 0
deriving DecidableEq, Repr

/-- A table cell guarded by a parity bit; `bad` marks a parity error (R358). -/
structure Cell4 where
  val : BitVec 4
  bad : Bool := false
deriving DecidableEq, Repr

/-- The host operations of a stream (R257, R292); `exc` is the host's exception, at its position of the stream (R216). -/
inductive Op
  | rdShared | rdOwn | upgrade | rdCur | write | writeNT | atomic | rsvLoad | condStore | pfHint | exc
deriving DecidableEq, Repr

/-- A host request accepted by its port. `bound`: accepted under the contract (R257); `start`: time of its arrival;
`wt`: the policy bit attached at admission (R67); `part`: 0 whole, 1 lower and 2 upper line of an access that crosses a
line (R198); `refusals`, `cww`, `snooped`, `missed`: what fixes its category of R256; `csBroken`: an invalidating snoop
for the line went to the port since the acceptance (R215); `pred`: the contention predictor chose near and the atomic has
opened no transaction of its own (R208); `waitAdm`: it arrived before admission opened (R466); `looked`: its demand lookup has been
made and counted (R35, R66); `moved`: it moved its line from the Reedbed (R33); `opened`: a transaction was opened for it (R203,
R256 row 1); `touched`: its demand hit has moved PLRU and cleared PREFETCHED (R33, R49); `pin`: it waits for a
pinned shadow set to unpin (R37); `allow`, `peers`: what the host snoops of this device, and of the others that served it, add to its bound in ns (R256);
`refunded`: its miss token has been given back (R257); `farPred`: the predictor chose far, and it has been counted (R209). -/
structure Req where
  port     : Port
  etag     : BitVec 16
  op       : Op
  strm     : BitVec 4 := 0
  addr     : GAddr := 0
  len      : Nat := 0
  data     : Line := 0
  mask     : W64 := 0
  opB      : BitVec 128 := 0
  aop      : BitVec 5 := 0
  rslot    : BitVec 8 := 0
  stamp    : Option W64 := none
  poison   : Bool := false
  cxl      : Bool := false
  bound    : Bool := false
  start    : W64 := 0
  seq      : Nat := 0
  wt       : Bool := false
  part     : Nat := 0
  refusals : Nat := 0
  cww      : Bool := false
  snooped  : Bool := false
  missed   : Bool := false
  csBroken : Bool := false
  pred     : Bool := false
  waitAdm  : Bool := false
  looked   : Bool := false
  moved    : Bool := false
  opened   : Bool := false
  touched  : Bool := false
  pin      : Bool := false
  allow    : Nat := 0
  peers    : Nat := 0
  refunded : Bool := false
  farPred  : Bool := false
deriving DecidableEq, Repr

/-- An action of a slice that waits for host snoop answers (R118), and is carried on when the last is in. -/
inductive Act
  /-- A host request. -/
  | host (r : Req)
  /-- A forward, probe or Inv from a home. -/
  | holder (k : BKind) (m : BMsg)
  /-- The eviction of a way by a walk: `discard` for INVAL_RANGE, `cmd` for a command that counts its lines (R93, R394). -/
  | evict (set : Nat) (way : Nat) (discard cmd : Bool)
  /-- The eviction of a way for a request that then proceeds. -/
  | evictFor (set : Nat) (way : Nat) (r : Req)
  /-- A clean step that keeps the line: of CLEAN_ALL (`cmd`), or of a drain (R93, R96). -/
  | clean (set : Nat) (way : Nat) (cmd : Bool)
  /-- Step 1 of the issue of a write-merge entry (R75). -/
  | wmb (id : Nat)
  /-- The issue of a combining entry (R79). -/
  | ntc (p : Port) (id : Nat)
  /-- The move of a Reedbed line whose first access was a read, already served (R89): the HP bits it leaves, and the way chosen while
  its hosts are snooped. -/
  | rbMove (l : LAddr) (hp : BitVec 4) (way : Option Nat)
  /-- The application of a stamped access (R248): the way to empty, and the entry to place. -/
  | apply (set : Nat) (way : Nat) (rtid : BitVec 12)
  /-- A stamped access whose grant has come (R248). -/
  | perform (rtid : BitVec 12)
  /-- A snoop whose answer changes only the HP bit. -/
  | nothing
deriving DecidableEq, Repr

/-- The states of a write-merge or combining entry (R72). -/
inductive BufSt | opened | closed | issued
deriving DecidableEq, Repr

/-- A write-merge or combining entry (R72, R77). `streams`: the streams that wrote it; `bound`: a store accepted with a
bound was merged (R257 CTR); `viaPut`: a combining entry merged into a dirty line, freed on WbAck (R79). -/
structure BufEnt where
  id      : Nat
  line    : LAddr
  port    : Port
  streams : BitVec 16
  mask    : W64
  data    : Line
  st      : BufSt := .opened
  stamp   : Option W64 := none
  bound   : Bool := false
  poison  : Bool := false
  viaPut  : Bool := false
  first   : Nat := 0
deriving DecidableEq, Repr

/-- A Causeway entry (R82), with the home its Put went to and under which generation (R186, R187), and the way group its line left (R55 step 4). -/
structure CwEnt where
  line   : LAddr
  st     : LState
  osn    : BitVec 12
  data   : Line
  dst    : NodeId := 0
  gen    : BitVec 8 := 0
  fwded  : Bool := false
  poison : Bool := false
  grp    : Nat := 0
deriving DecidableEq, Repr

/-- A Reedbed entry (03, The Reedbed); `awaited`: the Pfq has not been answered; port, stream and stamp are its key (R251). -/
structure RbEnt where
  line    : LAddr
  st      : LState
  data    : Line
  osn     : BitVec 12
  port    : Port
  poison  : Bool := false
  awaited : Bool := false
  stamp   : Option W64 := none
  strm    : BitVec 4 := 0
deriving DecidableEq, Repr

/-- The transient state of a slice transaction (R136); `fillWait`: the grant is in, and the line it cannot keep waits for a Causeway entry
(R84, R96); `heldGrant`: a stamped grant that waits by R248; `performed`: a stamped access that waits for its application; `retain`: a
Put with RETAIN awaiting its WbAck (R161). -/
inductive TSt | open_ | cmpAwaited | fillWait | heldGrant | performed | retain
deriving DecidableEq, Repr

/-- A slice transaction table entry (R136). `htid`: the home's number, for an Ack that is still to be sent; `hp`: the HP bits a performed
stamped access leaves its line (R247); `fromRb`: its line came from the Reedbed (R89); `seen`: what the host snoops of other devices have
added to the bound so far (R256). -/
structure STxn where
  rtid      : BitVec 12
  line      : LAddr
  kind      : BKind
  dst       : NodeId
  gen       : BitVec 8 := 0
  way       : Option Nat := none
  age       : BitVec 6 := 0
  st        : TSt := .open_
  req       : Option Req := none
  joined    : List Req := []
  data      : Line := 0
  gst       : LState := .I
  osn       : BitVec 12 := 0
  poison    : Bool := false
  invOnFill : Bool := false
  nacked    : Bool := false
  foreign   : Bool := false
  gap       : Bool := false
  wmb       : Option Nat := none
  ntc       : Option (Port × Nat) := none
  mask      : W64 := 0
  keep      : Bool := false
  amo       : BitVec 256 := 0
  port      : Port := 0
  strm      : BitVec 4 := 0
  stamp     : Option W64 := none
  reg       : Bool := false
  ctr       : Bool := false
  predict   : Bool := false
  lockFill  : Bool := false
  htid      : BitVec 12 := 0
  hp        : BitVec 4 := 0
  fromRb    : Bool := false
  seen      : Nat := 0
deriving DecidableEq, Repr

/-- A slice action awaiting the answers of the ports listed. -/
structure SnpGrp where
  id    : Nat
  act   : Act
  line  : LAddr
  await : List Port
deriving DecidableEq, Repr

/-- The walks of a slice (R265 WALK class). -/
inductive WalkKind
  | flush | inval | clean | drain
  | policy (m : Member) (region : BitVec 10)
  | powerDown (g : Nat) | disable (region way : Nat) (cnt : Nat) | stampClean | purge (n : NodeId)
deriving DecidableEq, Repr

/-- A walk with its progress count (R270): the key of the first place it has not yet visited. -/
structure Walk where
  kind : WalkKind
  pos  : Nat
deriving DecidableEq, Repr

/-- One slice controller. `tsFlaw`, `slotFlaw`: what is wrong with slot TS of a set, and with data slots. -/
structure Slice where
  wayLock   : VReg
  wdisCtl   : VReg
  lookupCtl : W32
  cacheCtl  : VReg
  draining  : Bool
  disabled  : Bool
  wmbCtl    : W32
  cwCtl     : W32
  rbCtl     : W32
  retryCtl  : W32
  amoCtl    : W32
  shHit     : W64
  shMiss    : W64
  hintOk    : W64
  hintBad   : W64
  pfUse     : W64
  pfWaste   : W64
  amoNear   : W64
  amoFar    : W64
  tags      : Sparse TagBlock
  slots     : Sparse Slot
  tsFlaw    : Sparse Flaw
  slotFlaw  : Sparse Flaw
  shadow    : Sparse ShSet
  hints     : Sparse Cell4
  wdis      : Sparse (BitVec 15)
  corCnt    : Sparse Nat
  wgOff     : BitVec 3
  wgDown    : BitVec 3
  walks     : List Walk
  wmb       : List BufEnt
  cw        : List CwEnt
  rb        : List RbEnt
  pfUseful  : Nat
  pfWasted  : Nat
  pfLimit   : Nat
  stt       : List STxn
  waiters   : List Req
  snpGrps   : List SnpGrp
  predict   : Sparse Cell4
  farCnt    : Nat
  seatNote  : Sparse (BitVec 12)
deriving DecidableEq, Repr

/-- A snoop outstanding to a host port (R118, R120): `excl`, whether the port was the line's exclusive host at the send;
`grp`, the action that waits; `sent`, the time of the send. -/
structure Snp where
  etag  : BitVec 12
  line  : LAddr
  inv   : Bool
  cur   : Bool
  excl  : Bool
  slice : SliceNo
  grp   : Nat
  sent  : W64 := 0
deriving DecidableEq, Repr

/-- An access of a port that is not yet performed or visible (R218, R222). -/
structure Acc where
  etag  : BitVec 16
  strm  : BitVec 4
  seq   : Nat
  op    : Op
  line  : LAddr
  unbuf : Bool
  bound : Bool
deriving DecidableEq, Repr

/-- A barrier of a port that still imposes order (R221). -/
structure Bar where
  kind : BitVec 2
  port : Bool
  strm : BitVec 4
  etag : BitVec 12
  seq  : Nat
deriving DecidableEq, Repr

/-- A stride tracker (R86). -/
structure Tracker where
  page   : BitVec 46
  last   : Nat
  stride : Int
  run    : Nat
deriving DecidableEq, Repr

/-- A CXL HDM decoder (R22, R287). -/
structure Hdm where
  base      : W64
  size      : W64
  commit    : Bool
  committed : Bool
  err       : Bool
deriving DecidableEq, Repr

/-- The link states of HPORT_LINK_STAT (R317). -/
inductive HLink | down | training | up | recovery | downBusy
deriving DecidableEq, Repr

/-- A service contract (R254, R261, R262) with its fractional tokens in units of 1/3200 token (R257). -/
structure Contract where
  rate  : BitVec 11
  missr : BitVec 11
  out   : BitVec 9
  hops  : BitVec 6
  burst : BitVec 8
  unc   : Bool
  valid : Bool
  tok   : Nat
  stok  : Vector Nat 8
  mtok  : Nat
deriving DecidableEq, Repr

/-- What the device sends to its hosts (R292, R122). -/
inductive ToHost
  | cmp (etag : BitVec 16) (status : BitVec 3) (grant : BitVec 2) (cmpeq poison : Bool)
  | cmpData (etag : BitVec 16) (status : BitVec 3) (grant : BitVec 2) (cmpeq poison : Bool) (len : Nat) (data : Line)
  | retry (etag : BitVec 16)
  | snpInv (etag : BitVec 12) (line : LAddr)
  | snpDown (etag : BitVec 12) (line : LAddr)
  | snpCur (etag : BitVec 12) (line : LAddr)
  | biConflictAck (etag : BitVec 12)
  | compAbort (etag : BitVec 16)
  | msix
deriving DecidableEq, Repr

/-- A register access of a port that waits behind a BAR.DONE (R221): the access, whether it reads, whether a notice acknowledge is late,
and its place in the port's order. -/
structure RegOp where
  acc  : RAcc
  read : Bool
  late : Bool
  seq  : Nat
deriving DecidableEq, Repr

/-- One host port. `heldOut`: messages to the host that wait for the end of Recovery (R289); `walking`: the HP walk of a port that
went down runs (R297); `regq`: register accesses held behind a BAR.DONE (R221); `txq`: messages that the link has yet to send; `dcmp`, `dsnp`: the
credits for them that the port holds (R295); `half`: accesses that cross a line of which one part has hit
(R257). -/
structure HPort where
  linkCtl  : VReg
  link     : HLink
  proto    : Bool
  width    : BitVec 2
  rate     : Bool
  degraded : Bool
  biEn     : Bool
  replay   : W64
  recov    : W64
  retry    : W64
  down     : W64
  hostErr  : W64
  cmiss    : W64
  crefuse  : W64
  caccept  : W64
  ntcCtl   : W32
  pfCtl    : W32
  snpCtl   : VReg
  ctr      : Contract
  ctrRel   : Bool
  outst    : BitVec 9
  ntc      : List BufEnt
  trackers : List Tracker
  rsv      : Sparse LAddr
  rsvBad   : List Nat
  bars     : List Bar
  accs     : List Acc
  queue    : List Req
  snps     : List Snp
  nextTag  : BitVec 12
  stamped  : Bool
  leaving  : Bool
  floor    : W64
  lastSt   : Sparse W64
  hdm      : Vector Hdm 4
  msix     : Bool
  msixLive : Bool
  admOpen    : Bool
  hpWalk   : List (Nat × Nat × Nat)
  quarCnt  : BitVec 16
  quarWait : Bool
  halves   : Sparse (Line × BitVec 3 × Bool)
  cstOk    : W64
  cstFail  : W64
  cstUnsup : W64
  atomErr  : W64
  heldOut  : List ToHost
  walking  : Bool
  regq     : List RegOp
  half     : List (BitVec 16)
  txq      : List ToHost
  dcmp     : Nat
  dsnp     : Nat
deriving DecidableEq, Repr

/-- The working form of a directory record (R139, R149): holders, the designated one, whether it is an owner. -/
structure DirRec where
  st      : DState := .U
  holders : List Member := []
  des     : Option Member := none
  own     : Bool := false
  osn     : BitVec 12 := 0
  poison  : Bool := false
deriving DecidableEq, Repr

/-- A directory cache entry (R149); `bad` marks a parity error (R154). -/
structure DirEnt where
  tag  : BitVec 17
  recd : DirRec
  bad  : Bool := false
deriving DecidableEq, Repr

/-- A directory cache set: sixteen entries and the tree (R148). -/
structure DirSet where
  ents : Vector (Option DirEnt) 16 := Vector.replicate 16 none
  tree : BitVec 15 := 0
deriving DecidableEq, Repr

/-- A pending claim (R167). -/
structure Claim where
  node : NodeId
  unit : BitVec 4
  age  : BitVec 6
  ctr  : Bool
deriving DecidableEq, Repr

/-- What a home still does when the answers it awaits are in (R140, R186): nothing, a grant of data to the requester, Cmp, the
merge of a WrU, an atomic, or the recall of a line. -/
inductive HAct
  | nothing | grant (k : BKind) (fwdr nc : Bool) | cmp | merge | amo | recall
deriving DecidableEq, Repr

/-- A home transaction table entry: an open transaction, or (`claim` not none) an entry held as a claim (R168). `recd`: the
record found, reclaimed; `after`: the record the transaction leaves; `act`: what is done when the answers are in, `acted`
that it has been; `waitInv`: holders whose InvAck is awaited; `waitB`: a broadcast is open; `probeOf`: the owner probed;
`fwdTo`, `fwdK`, `fwdr`, `waitcmp`: the holder a forward went to, and the forward; `putOf`: the owner whose Put is awaited
(R162); `waitAck`: the requester's Ack is awaited; `got`: data collected, whether poisoned and whether dirty; `read`: memory
was read with the record; `puts`: Puts taken, with whether current (R159, R160); `sweep`: opened by the sweep (R178); `allow`: what the host snoops of the
devices that answered add to the requester's bound (R256). -/
structure HTxn where
  num     : Nat
  line    : LAddr
  kind    : BKind := .rdS
  req     : BMsg := {}
  recd    : DirRec := {}
  after   : DirRec := {}
  act     : HAct := .nothing
  acted   : Bool := false
  waitInv : List Member := []
  waitB   : Bool := false
  probeOf : Option Member := none
  fwdTo   : Option Member := none
  fwdK    : BKind := .fwdS
  fwdr    : Bool := false
  waitcmp : Bool := false
  putOf   : Option Member := none
  waitAck : Bool := false
  got     : Option (Line × Bool × Bool) := none
  read    : Bool := false
  puts    : List (BKind × BMsg × Bool) := []
  sweep   : Bool := false
  pend    : Option Claim := none
  claim   : Option Claim := none
  allow   : Nat := 0
deriving DecidableEq, Repr

/-- A DDR5 line: data and directory word (R335, R151). -/
structure DLine where
  data : Line := 0
  word : W32 := 0
deriving DecidableEq, Repr

/-- A contract share held at a home: the bucket in units of 1/3200 token (R258). -/
structure Share where
  node  : NodeId
  port  : BitVec 2
  missr : BitVec 11
  depth : Nat
  tok   : Nat
deriving DecidableEq, Repr

/-- A seat of the stamp register (R240): key and line of one registered request. -/
structure Seat where
  stamp : W64
  node  : NodeId
  port  : BitVec 2
  strm  : BitVec 4
  line  : LAddr
  kind  : BKind
  group : BitVec 6
deriving DecidableEq, Repr

/-- A stub for a region given up (R183, R184), with the members whose acknowledge is awaited (R187). -/
structure Stub where
  orig   : Member
  region : BitVec 10
  gen    : BitVec 8
  home   : Member
  await  : List NodeId
deriving DecidableEq, Repr

/-- The phases of HOME_RELOC_STAT.PHASE (R193). -/
inductive RPhase | idle | copy | switch_ | recall | finalCopy | receiving
deriving DecidableEq, Repr

/-- A relocation in progress at this device (R186): as the old home (`giving`) or as the new one. `pk` is the mailbox of
the command. `marks`: 4 KiB pages marked. -/
structure Reloc where
  orig   : Member
  region : BitVec 10
  gen    : BitVec 8
  peer   : Member
  giving : Bool
  phase  : RPhase
  pk     : Option (Port × Port)
  marks  : List Nat
deriving DecidableEq, Repr

/-- The totals of the sweep for one dead node (R178, R179). -/
structure Sweep where
  node      : NodeId
  reclaimed : Nat
  poisoned  : Nat
  done      : Bool
deriving DecidableEq, Repr

/-- A notice of relocation that came while the relocation table was being copied (R190): of the old home, of the new home, of a stub's
release. -/
inductive RNote
  | moved (src : NodeId) (orig : Member) (region : BitVec 10) (gen : BitVec 8) (home : Member)
  | ready (src : NodeId) (orig : Member) (region : BitVec 10) (gen : BitVec 8)
  | release (orig : Member) (region : BitVec 10) (gen : BitVec 8)
deriving DecidableEq, Repr

/-- The home agent. `farReloc`: the far relocation cache, with the domain of each entry, least recently used first (R183, R189); `moving`: regions
whose notice has come and whose ready notice has not, with their old home: Puts still go there (R186); `unacked`: relocation notices not yet
acknowledged, with the home that sent them (R187);
`notices`: those held while the table is copied (R190). -/
structure Home where
  laneCtl   : VReg
  tt        : List HTxn
  tablePend : Option (LAddr × Claim)
  lastClaim : Sparse (NodeId × BitVec 4)
  dir       : Sparse DirSet
  nbusy     : W64
  nage      : W64
  nmoved    : W64
  ndead     : W64
  ncontract : W64
  stalePut  : W64
  dperr     : W64
  reclaim   : W64
  poisoned  : W64
  deadDisc  : W64
  stubs     : List Stub
  rtab      : List RTab
  farReloc  : List (BitVec 6 × RTab)
  frames    : List (Option (Member × BitVec 10))
  relocs    : List Reloc
  sweeps    : List Sweep
  shares    : List Share
  seats     : Sparse Seat
  protoErr  : W64
  moving    : List RTab
  unacked   : List RTab
  notices   : List RNote
deriving DecidableEq, Repr

/-- A floor combining slot of the switch (R310). -/
structure FSlot where
  k   : W64
  d   : W64
  s   : W64
  cnt : Nat
deriving DecidableEq, Repr

/-- A member list of a stamp group: the list in force and the one that takes effect in the next period (R310). -/
structure GMembers where
  cur  : List NodeId := []
  next : List NodeId := []
deriving DecidableEq, Repr

/-- The stamp-order unit (R273 to R279, R237, R310). `now`: the last period begun here; `hzns`: the horizon of each group whose result the device
has received. -/
structure Stamp where
  member   : Bool
  group    : BitVec 6
  lost     : Bool
  period   : VReg
  ways     : VReg
  stall    : W32
  hzn      : W64
  hzns     : Sparse W64
  settle   : W64
  viol     : W64
  nstamp   : W64
  turn     : W64
  stalled  : Bool
  now      : W64
  lists    : Sparse GMembers
  slots    : Sparse FSlot
deriving DecidableEq, Repr

/-- The arbiter of one slice pipeline (R265 to R268): decisions made; decisions since the last aged one fell due; whether an aged grant
is owed; the host port in a burst and how many decisions it has had; the ports last granted in the classes HOSTC and HOSTU; decisions
since the last WALK grant, up to 15; the decision at which the walk began to request. -/
structure Arbiter where
  dec    : Nat
  cnt    : Nat
  owed   : Bool
  burst  : Option (Port × Nat)
  lastC  : Port
  lastU  : Port
  gap    : Nat
  walkAt : Option Nat
deriving DecidableEq, Repr

/-- The arbiter settings and the Sluice (R280 to R283); `allShut`: a drain has closed every Sluice (R100); `units`: the arbiter of each
slice. -/
structure Arb where
  prio    : W32
  age     : W32
  burst   : W32
  sluice  : W32
  allShut : Bool
  units   : Vector Arbiter 8
deriving DecidableEq, Repr

/-- Firmware messages among devices on VC5. -/
inductive Vc5
  | policyChange (m : Member) (region : BitVec 10) (wt : Bool)
  | policyAck
  | shareReserve (p : Port) (missr : BitVec 11) (depth : Nat)
  | shareAnswer (p : Port) (ok : Bool)
  | shareRelease (p : Port)
  | memberUpdate (g : BitVec 6) (n : NodeId) (join : Bool)
  | frameReq (orig : Member) (region : BitVec 10)
  | frameAns (orig : Member) (region : BitVec 10) (ok : Bool)
  | copyRegion (orig : Member) (region : BitVec 10) (lines : List RegLine)
  | relocNotice (orig : Member) (region : BitVec 10) (gen : BitVec 8) (home : Member)
  | ready (orig : Member) (region : BitVec 10) (gen : BitVec 8)
  | relocAck (orig : Member) (region : BitVec 10) (gen : BitVec 8)
  | stubRelease (orig : Member) (region : BitVec 10) (gen : BitVec 8)
  | tableQuery
  | tableAnswer (a : TabAnswer)
  | quiet (q : Bool) (dead : List NodeId)
  | steps (n : NodeId) (purge pass : Bool)
  | readmit (n : NodeId)
  | horizon (g : BitVec 6) (h : W64)
deriving DecidableEq, Repr

/-- Time-class messages on VC4 and link-management flits. -/
inductive Vc4
  | heartbeat (time : W64) (dist : BitVec 7)
  | floorReport (g : BitVec 6) (k d s : W64) (cnt : Nat)
  | floorResult (g : BitVec 6) (k h s : W64)
  | linklost (n peer : NodeId) (t : W64)
  | declaration (n : NodeId)
  | warm
  | replayFlits (seqs : List (BitVec 10))
deriving DecidableEq, Repr

/-- What the units of the device send, in order: to a host port, to a home or slice over NOC or fabric, on VC5 to a node, on VC4 out
of a fabric port, a packet forwarded out of a port or a broadcast copied to it, with the port it came by and whether on the dateline channel, an SMBus answer, bits on TDO, a
read of the management cores. What goes to a fabric port passes its output queues (R304). -/
inductive Out
  | host (p : Port) (m : ToHost)
  | msg (k : BKind) (m : BMsg)
  | bcast (m : BMsg)
  | comb (to_ : Option NodeId) (m : BMsg) (cnt : Nat)
  | vc5 (to_ : NodeId) (m : Vc5)
  | vc4 (f : FPortNo) (m : Vc4)
  | pkt (f : FPortNo) (inp : Option (FPortNo × Bool)) (x : Packet)
  | smb (bytes : List Byte)
  | tdo (bits : List Bool)
  | mgmt (v : W64) (ok : Bool)
deriving DecidableEq, Repr

/-- A packet in the output queues of a fabric port (R301, R304): its header fields; the port it came by, none for local injection, and
whether on the dateline channel; the entry of `out` that carries it; the number of its free words. -/
structure TxPkt where
  hdr  : Packet
  inp  : Option FPortNo
  inDl : Bool
  body : Out
  free : Nat
deriving DecidableEq, Repr

/-- A flit held for replay (R300): its number, how often it has been replayed, and its 31 words. -/
structure HeldFlit where
  seq   : BitVec 10
  tries : Nat
  words : List W64
deriving DecidableEq, Repr

/-- The states of FPORT_STAT (R325). -/
inductive FLink | down | training | up | upMgmt | lost
deriving DecidableEq, Repr

/-- One fabric port. `en`: EN as the reset found it (R324); `askRep`: REPLAY is set in the next flit (R300); `credits`, `pool`: what the neighbour's
buffers have free, in 16 B (R302); `txq`: the packets of the output queues in order of arrival; `rest`: the words of the packet being sent;
`rr`: the source each channel last served, 6 for local injection; `run`: flits since the last control flit (R299); `vc5Gap`: flits
since one carried VC5 (R304); `owe`: credits to return, by channel. -/
structure FPort where
  ctl      : VReg
  en       : Bool
  link     : FLink
  neigh    : NodeId
  loss     : W64
  fecCor   : W64
  fecUnc   : W64
  crcErr   : W64
  replayC  : W64
  discard  : W64
  transit  : W64
  txSeq    : BitVec 10
  rxNext   : BitVec 10
  unacked  : List HeldFlit
  askRep   : Bool
  credits  : Vector Nat 12
  pool     : Nat
  txq      : List TxPkt
  rest     : List W64
  restCls  : BitVec 3
  rr       : Vector Nat 12
  run      : Nat
  vc5Gap   : Nat
  owe      : List (BitVec 4 × Nat)
  hbSeen   : Bool
  hbDist   : BitVec 7
  held     : Bool
  lostRep  : Bool
deriving DecidableEq, Repr

/-- A combining entry of a broadcast (R308): the BInv replicated, the answers summed so far by the neighbour or unit they came from, and
what host snoops of the members answered for add to the bound (R256). -/
structure Comb where
  msg   : BMsg
  got   : Sparse Nat
  allow : Nat
deriving DecidableEq, Repr

/-- Liveness of a node at this device (R174, R313), with the progress of the steps after a declaration (R181, R392): `told`, the members
that have reported both of theirs. -/
structure NodeSt where
  dead  : Bool := false
  purge : Bool := false
  pass  : Bool := false
  told  : List NodeId := []
deriving DecidableEq, Repr

/-- The fabric switch and its shared state. `fed`: how many entries of `out` have gone into the output queues; `wire`: the flits that have
left, each by its port (R299); `ring`: the inbound ring of the management cores, with the sender of each message (R305). -/
structure Fabric where
  live     : Sparse NodeSt
  reports  : List (NodeId × NodeId × W64)
  pause    : Option (FPortNo × W64)
  combs    : List Comb
  bcastQ   : List (Option FPortNo × Packet)
  stopped  : Bool
  selfDead : Bool
  heldOut  : List Out
  fed      : Nat
  wire     : List (FPortNo × BitVec 2048)
  ring     : List (NodeId × Vc5)
deriving DecidableEq, Repr

/-- The HBM and DDR5 controllers (R361 to R371). `wq`: the write queues of the channels, lines in the order accepted (R336); `ddrFlaw`: what is wrong
with DDR5 lines; `selfRef`: the DIMMs are in self-refresh. -/
structure Mem where
  hbmTrained : BitVec 4
  hbmFilled  : Bool
  hot        : BitVec 4
  sevCor     : Vector W64 4
  sevUnc     : Vector W64 4
  chan       : BitVec 8
  dimmGib    : BitVec 8
  ranks2     : Bool
  dens       : BitVec 2
  ddrTrained : BitVec 8
  fill1g     : Bool
  filled     : Bool
  slow       : Bool
  fillBlk    : Nat
  size       : W64
  ddr        : Sparse DLine
  fillMap    : List Nat
  fillSlots  : List (Nat × List Nat)
  wq         : List (Nat × DLine)
  ddrFlaw    : Sparse Flaw
  selfRef    : Bool
deriving DecidableEq, Repr

/-- A correction history row (R346); `born` orders rows by age (R349). -/
structure HistRow where
  ddr     : Bool
  loc     : BitVec 28
  count   : BitVec 2
  wb      : Bool
  repairq : Bool
  line    : BitVec 8
  syn     : BitVec 16
  carry   : Bool
  rw      : Bool
  born    : Nat
  bad     : Bool := false
deriving DecidableEq, Repr

/-- The states of a field repair map entry (R350). -/
inductive RepSt | pending | applied | exhausted
deriving DecidableEq, Repr

/-- A field repair map entry (R350): an HBM row, a DDR5 row or an on-die array row. -/
inductive RepLoc | hbm (loc : BitVec 28) | ddr (loc : BitVec 28) | array (i : BitVec 16)
deriving DecidableEq, Repr

/-- An entry in use of the field repair map, by its number of 4,096, with its state. -/
structure Repair where
  no  : Nat
  loc : RepLoc
  st  : RepSt
deriving DecidableEq, Repr

/-- The integrity block (R346 to R379). `passHbm`, `passDdr`: the pass of the memory's patrol period has finished; `arrayErrs`: times of the last corrections in a row of an on-die array (R354); `lateHbm`,
`lateDdr`: the pass that runs is one that a period's end found unfinished (R345); `posHbm`, `posDdr`: where the pass of the patrol scrub stands
(R344); `repRaw`: words of the repair map as the management cores wrote them (R422); `inForce`: the rows that a spare replaces since the last loss of DRAM power or reset (R352, R354). -/
structure Integ where
  scrubHbm  : VReg
  scrubDdr  : VReg
  repairCtl : VReg
  lbCtl     : VReg
  level     : BitVec 16
  overThr   : Bool
  bistDone  : Bool
  bistFail  : Bool
  checker   : BitVec 10
  hcor      : W64
  hunc      : W64
  dcor      : W64
  dunc      : W64
  repeat_   : W64
  bufCor    : W64
  bufUnc    : W64
  rowWb     : W64
  repairs   : W64
  chtOvfC   : W64
  scrubLate : W64
  hist      : Sparse HistRow
  ovf       : Bool
  ovfPosted : Bool
  repMap    : List Repair
  repRaw    : Sparse W32
  inForce   : List RepLoc
  posHbm    : Nat
  posDdr    : Nat
  live      : Option RepLoc
  passHbm   : Bool
  passDdr   : Bool
  lateHbm   : Bool
  lateDdr   : Bool
  arrayErrs : Sparse (List W64)
deriving DecidableEq, Repr

/-- The states of MBX_STAT.FW_STATE (R380). -/
inductive FwSt | loading | run | idle | restart | stopped
deriving DecidableEq, Repr

/-- One inbound mailbox and its outbound twin (R383 to R389). -/
structure Mail where
  inW     : W32 := 0
  inAck   : W32 := 0
  full    : Bool := false
  running : Option W32 := none
  order   : Nat := 0
  outW    : W32 := 0
  outAck  : W32 := 0
  outFull : Bool := false
deriving DecidableEq, Repr

/-- The mailbox block of a port (R383). -/
structure Mbx where
  box     : Vector Mail 4
  irqEn   : W32
  param   : Sparse Byte
  backlog : List (Byte × BitVec 16)
  dropped : Nat
  seq     : Byte
deriving DecidableEq, Repr

/-- The event queue of a port (R395 to R401). -/
structure Evq where
  ctl      : W32
  filter   : W32
  wr       : BitVec 13
  rd       : BitVec 13
  mark     : BitVec 13
  markV    : Bool
  markLost : Bool
  attn     : Bool
  dropped  : Bool
  lostNext : Bool
  lostEnd  : Option (BitVec 13)
  drop     : W64
  ring     : Sparse W64
  heads    : List (BitVec 13 × W64)
deriving DecidableEq, Repr

/-- A policy change at the region's home (R71): members not yet acknowledged, and how many have. -/
structure PolicyOp where
  member : Member
  region : BitVec 10
  wt     : Bool
  await  : List NodeId
  acks   : Nat
deriving DecidableEq, Repr

/-- A contract request in progress (R255): homes not yet answered, and those that granted. `k` is the mailbox of the command,
none once a restart has given it FAULT (R382). -/
structure CtrOp where
  port   : Port
  k      : Option Port
  want   : Contract
  await  : List NodeId
  granted : List NodeId
  failed : Bool
deriving DecidableEq, Repr

/-- A policy walk running in this member, with the node it answers (R71). -/
structure PolWalk where
  member : Member
  region : BitVec 10
  src    : NodeId
deriving DecidableEq, Repr

/-- A walk command in progress (R393): its mailbox, none once a restart has given it FAULT (R382), its opcode and counts for the outputs of R394. `first` and `last`: the byte range
from START to its end, or the way group and whether it powers up; `todo`: lines a lock-fill has not visited; `asked`: lines it
has asked the home for (R52); `start`: buffered entries with a lower number are waited for. -/
structure WalkCmd where
  pk        : Option (Port × Port)
  opc       : Byte
  written   : Nat
  discarded : Nat
  filled    : Nat
  refused   : Nat
  first     : Nat := 0
  last      : Nat := 0
  start     : Nat := 0
  todo      : List LAddr := []
  asked     : List LAddr := []
deriving DecidableEq, Repr

/-- The resident firmware (R380 to R393); the fields kept in MRAM across a restart are the operations. -/
structure Fw where
  st       : FwSt
  lost     : Nat
  walk     : Option WalkCmd
  policy   : Option PolicyOp
  polWalks : List PolWalk
  ctrOps   : List CtrOp
  ctrHomes : List (Port × List NodeId)
  relCmd   : List (Port × Port)
  joining  : Option Port
  joinWait : List (Port × Option Port × BitVec 6)
  leaveCmd : List (Port × Port)
  order    : Nat
  tabTry   : Bool
  tabDone  : Bool
  coldClr  : Bool
deriving DecidableEq, Repr

/-- The last access error of a master (R430). -/
structure AccErr where
  off   : BitVec 26 := 0
  kind  : BitVec 3 := 0
  valid : Bool := false
deriving DecidableEq, Repr

/-- The IND pair of a master (R421, R445 to R447). -/
structure Ind where
  addr  : W32 := 0
  ctl   : W32 := 1
  wpend : Option (W32 × W32) := none
  err   : Bool := false
deriving DecidableEq, Repr

/-- The GEN and IND blocks (R425 to R432, R445 to R447). -/
structure Gen where
  scratch : W32
  keys    : Vector Bool 5
  accErr  : Vector AccErr 5
  sem     : Vector (BitVec 3) 8
  time    : W64
  voteFix : W64
  keyFail : W64
  shadow  : Vector (Option (Nat × W32)) 5
  ind     : Vector Ind 5
deriving DecidableEq, Repr

/-- The always-on domain (R423, R460, R481, R513); `cycles` counts AON cycles of 40 ns, `sub` the TIME cycles within one;
`up`: its supply VAON is up. -/
structure Aon where
  cause   : BitVec 3
  stopHeld : Bool
  heldCnt : BitVec 16
  dirty   : BitVec 31
  fillBlk : BitVec 20
  warmCnt : BitVec 16
  quiet   : Bool
  temps   : Vector Byte 5
  hotMs   : Vector Nat 5
  cycles  : W64
  sub     : BitVec 4
  up      : Bool
  smbAd   : BitVec 2
deriving DecidableEq, Repr

/-- A Peat record before the writer gives it its number (R481): type, whether the writer formed it, cause and body. -/
structure PRec where
  type  : Byte
  hw    : Bool
  cause : W32
  body  : BitVec 288
deriving DecidableEq, Repr

/-- The Peat record and its writer (R479 to R487). -/
structure Peat where
  ring    : Sparse (BitVec 512)
  next    : W32
  copyA   : W32
  copyB   : W32
  wraps   : Bool
  starts  : BitVec 16
  own     : List PRec
  queue   : List PRec
  source  : List PRec
  suppr   : BitVec 16
  supprs  : Nat
  used    : Nat
  sums    : List Nat
  sel     : W32
  ctl     : VReg
deriving DecidableEq, Repr

/-- The freeze control and the performance counters (R489, R494, R497 to R503). -/
structure Dbg where
  frzCtl : VReg
  frozen : Bool
  src    : BitVec 3
  code   : Byte
  pmuCtl : W32
  pmuSel : Vector W32 8
  pmuCnt : Vector W64 8
deriving DecidableEq, Repr

/-- The test access port (R491, R492): its instruction and data registers, the chains shifted since the freeze, and the number
of the frozen content. -/
structure Tap where
  ir     : Byte
  bscan  : List Bool
  bypass : Bool
  chain  : Byte
  array  : Byte
  row    : Nat
  chains : Sparse (List Bool)
  snap   : Nat
deriving DecidableEq, Repr

/-- The phases of CRP_STAT (R475). -/
inductive Phase
  | pll | fuses | selfTest | training | fills | fwInit | links | running | warmDrain | pfDrain | stopped
deriving DecidableEq, Repr

/-- The xSPI controller and its flash (R517): the flash's SFDP has been read, the bus runs in 8D-8D-8D mode, and the address of the slot read last. -/
structure Flash where
  sfdp  : Bool := false
  octal : Bool := false
  slot  : BitVec 28 := 0
deriving DecidableEq, Repr

/-- Clock, reset and power control (R454 to R478). `refLost`: REFCLK or a lock was lost (R453); `powered`: every rail is up;
`started`: a start has begun and no reset holds the device; `waitRst`: held in a cold reset until the pin is released; `waitOn`:
inert after a power-fail drain (R474); `drained`: the warm drain has ended; `kind`: 0 power-on, 1 RESET_N, 2 warm (R482 START);
the done flags are the steps of R464 and R469; `startT`: AON time of the start; `quietOut`: this member has sent QUIET (R469 step 8). -/
structure Crp where
  phase    : Phase
  pllLock  : Bool
  refLost  : Bool
  kept     : Bool
  quietOut : Bool
  flash    : Flash
  bootTime : BitVec 16
  bootWarm : Bool
  slotB    : Bool
  warmCtl  : VReg
  powered  : Bool
  started  : Bool
  waitRst  : Bool
  waitOn   : Bool
  drained  : Bool
  kind     : BitVec 2
  testOk   : Bool
  imageOk  : Bool
  hbmOk    : Bool
  ddrOk    : Bool
  startT   : W64
deriving DecidableEq, Repr

/-- The sideband pins the board drives (R515); true is the high level. -/
structure Pins where
  resetN  : Bool
  wrstN   : Bool
  pfailN  : Bool
  freezeN : Bool
  trstN   : Bool
deriving DecidableEq, Repr

/-- The identity of the node and what the system description gives (R24, R67, R183, R321 to R323). -/
structure Node where
  loaded  : Bool
  node    : NodeId
  xsz     : BitVec 6
  ysz     : BitVec 6
  zsz     : BitVec 6
  root    : NodeId
  dist    : BitVec 7
  desc    : SysDesc
  guests  : Nat
  wtMap   : Sparse Unit
  wtBad   : List Nat
  wtCopy  : Sparse Unit
  changes : List (Member × BitVec 10 × Bool)
deriving DecidableEq, Repr

/-- The state of one GF8820. `out`: what its units have sent; `sent`: what has left on the host links (R295). -/
structure State where
  pending : List Instr
  out     : List Out
  sent    : List (Port × ToHost)
  freeCtr : Nat
  seqNo   : Nat
  node    : Node
  hports  : Vector HPort 4
  slices  : Vector Slice 8
  home    : Home
  stamp   : Stamp
  arb     : Arb
  fports  : Vector FPort 6
  fabric  : Fabric
  mem     : Mem
  integ   : Integ
  fw      : Fw
  mbx     : Vector Mbx 4
  evq     : Vector Evq 4
  gen     : Gen
  aon     : Aon
  peat    : Peat
  dbg     : Dbg
  tap     : Tap
  crp     : Crp
  pins    : Pins
deriving DecidableEq, Repr

/-- The three copies of a voted register holding one value. -/
def VReg.mk1 (v : W32) : VReg := ⟨v, v, v⟩

/-- A slice right after reset (R448 for the registers; the arrays emptied, R455). -/
def Slice.reset : Slice :=
  { wayLock := .mk1 0, wdisCtl := .mk1 0x140, lookupCtl := 3, cacheCtl := .mk1 1, draining := false, disabled := false,
    wmbCtl := 0x0804, cwCtl := 0x20, rbCtl := 0x60081, retryCtl := 0x0F, amoCtl := 0x40,
    shHit := 0, shMiss := 0, hintOk := 0, hintBad := 0, pfUse := 0, pfWaste := 0, amoNear := 0, amoFar := 0,
    tags := [], slots := [], tsFlaw := [], slotFlaw := [], shadow := [], hints := [], wdis := [], corCnt := [], wgOff := 0, wgDown := 0, walks := [],
    wmb := [], cw := [], rb := [], pfUseful := 0, pfWasted := 0, pfLimit := 0x40, stt := [], waiters := [],
    snpGrps := [], predict := [], farCnt := 0, seatNote := [] }

/-- No contract (R261, R262). -/
def Contract.none : Contract :=
  { rate := 0, missr := 0, out := 0, hops := 0, burst := 0, unc := false, valid := false, tok := 0,
    stok := Vector.replicate 8 0, mtok := 0 }

/-- A host port right after reset. -/
def HPort.reset : HPort :=
  { linkCtl := .mk1 0x18, link := .down, proto := false, width := 0, rate := false, degraded := false, biEn := false,
    replay := 0, recov := 0, retry := 0, down := 0, hostErr := 0, cmiss := 0, crefuse := 0, caccept := 0,
    ntcCtl := 0x08, pfCtl := 0x09, snpCtl := .mk1 0x0A28, ctr := .none, ctrRel := false, outst := 0, ntc := [],
    trackers := [], rsv := [], rsvBad := [], bars := [], accs := [], queue := [], snps := [], nextTag := 0,
    stamped := false, leaving := false, floor := 0, lastSt := [],
    hdm := Vector.replicate 4 ⟨0, 0, false, false, false⟩, msix := false, msixLive := false, admOpen := false,
    hpWalk := [], quarCnt := 0, quarWait := false, halves := [], cstOk := 0, cstFail := 0, cstUnsup := 0, atomErr := 0,
    heldOut := [], walking := false, regq := [], half := [], txq := [], dcmp := 0, dsnp := 0 }

/-- The home agent right after reset. -/
def Home.reset : Home :=
  { laneCtl := .mk1 0x40, tt := [], tablePend := .none, lastClaim := [], dir := [], nbusy := 0, nage := 0, nmoved := 0,
    ndead := 0, ncontract := 0, stalePut := 0, dperr := 0, reclaim := 0, poisoned := 0, deadDisc := 0, stubs := [],
    rtab := [], farReloc := [], frames := [], relocs := [], sweeps := [], shares := [], seats := [], protoErr := 0, moving := [], unacked := [], notices := [] }

/-- The stamp unit right after reset (R273 to R279). -/
def Stamp.reset : Stamp :=
  { member := false, group := 0, lost := false, period := .mk1 0x4B, ways := .mk1 7, stall := 0x3E8, hzn := 0, hzns := [],
    settle := 0, viol := 0, nstamp := 0, turn := 0, stalled := false, now := 0, lists := [], slots := [] }

/-- A fabric port right after reset, with the value of EN kept in MRAM (R324). -/
def FPort.reset (en : W32) : FPort :=
  { ctl := .mk1 en, en := en.getLsbD 0, link := .down, neigh := 0, loss := 0, fecCor := 0, fecUnc := 0, crcErr := 0, replayC := 0,
    discard := 0, transit := 0, txSeq := 0, rxNext := 0, unacked := [], askRep := false,
    credits := Vector.replicate 12 32, pool := 5760, txq := [], rest := [], restCls := 0, rr := Vector.replicate 12 6, run := 0, vc5Gap := 0,
    owe := [], hbSeen := false, hbDist := 0x7F, held := false, lostRep := false }

/-- A mailbox block right after reset (R388, R438, R439). -/
def Mbx.reset : Mbx :=
  { box := Vector.replicate 4 {}, irqEn := 0xF, param := [], backlog := [], dropped := 0, seq := 0 }

/-- An event queue right after reset (R440 to R444). -/
def Evq.reset : Evq :=
  { ctl := 0x0000A040, filter := 0x3FF, wr := 0, rd := 0, mark := 0, markV := false, markLost := false, attn := false,
    dropped := false, lostNext := false, lostEnd := none, drop := 0, ring := [], heads := [] }

/-- The firmware before it runs (R380). -/
def Fw.reset : Fw :=
  { st := .loading, lost := 0, walk := none, policy := none, polWalks := [], ctrOps := [], ctrHomes := [], relCmd := [],
    joining := none, joinWait := [], leaveCmd := [], order := 0, tabTry := false, tabDone := false, coldClr := true }

/-- The GEN and IND blocks right after reset; the time base is not a register a reset gives a value (R309). -/
def Gen.reset (time : W64) : Gen :=
  { scratch := 0, keys := Vector.replicate 5 false, accErr := Vector.replicate 5 {}, sem := Vector.replicate 8 0,
    time := time, voteFix := 0, keyFail := 0, shadow := Vector.replicate 5 none, ind := Vector.replicate 5 {} }

/-- The memory controllers right after a cold reset (R455). -/
def Mem.reset : Mem :=
  { hbmTrained := 0, hbmFilled := false, hot := 0, sevCor := Vector.replicate 4 0, sevUnc := Vector.replicate 4 0,
    chan := 0, dimmGib := 0, ranks2 := false, dens := 0, ddrTrained := 0, fill1g := false, filled := false, slow := false,
    fillBlk := 0, size := 0, ddr := [], fillMap := [], fillSlots := [], wq := [], ddrFlaw := [], selfRef := false }

/-- The integrity block right after a cold reset, with the field repair map of MRAM. -/
def Integ.reset (m : List Repair) (raw : Sparse W32) : Integ :=
  { scrubHbm := .mk1 0x104, scrubDdr := .mk1 0x118, repairCtl := .mk1 1, lbCtl := .mk1 0x3C0020, level := 0,
    overThr := false, bistDone := false, bistFail := false, checker := 0, hcor := 0, hunc := 0, dcor := 0, dunc := 0,
    repeat_ := 0, bufCor := 0, bufUnc := 0, rowWb := 0, repairs := 0, chtOvfC := 0, scrubLate := 0, hist := [],
    ovf := false, ovfPosted := false, repMap := m, repRaw := raw, inForce := [], posHbm := 0, posDdr := 0, live := none, passHbm := false, passDdr := false, lateHbm := false, lateDdr := false,
    arrayErrs := [] }

/-- The fabric switch right after reset: every node live (R455). -/
def Fabric.reset : Fabric :=
  { live := [], reports := [], pause := none, combs := [], bcastQ := [], stopped := false, selfDead := false,
    heldOut := [], fed := 0, wire := [], ring := [] }

/-- The arbiter of a slice before its first decision: the rotation starts at port 0, a walk may be granted (log 4). -/
def Arbiter.reset : Arbiter :=
  { dec := 0, cnt := 0, owed := false, burst := none, lastC := 3, lastU := 3, gap := 15, walkAt := none }

/-- The arbiters right after reset (R280 to R283). -/
def Arb.reset : Arb :=
  { prio := 0x189D, age := 8, burst := 8, sluice := 0, allShut := false, units := Vector.replicate 8 .reset }

/-- Freeze control and performance counters right after reset. -/
def Dbg.reset : Dbg :=
  { frzCtl := .mk1 0, frozen := false, src := 0, code := 0, pmuCtl := 0, pmuSel := Vector.replicate 8 0,
    pmuCnt := Vector.replicate 8 0 }

/-- Clock, reset and power control right after reset. -/
def Crp.reset : Crp :=
  { phase := .pll, pllLock := false, refLost := false, kept := false, quietOut := false, flash := {}, bootTime := 0, bootWarm := false,
    slotB := false, warmCtl := .mk1 1, powered := false, started := false, waitRst := false, waitOn := false, drained := false,
    kind := 0, testOk := false, imageOk := false, hbmOk := false, ddrOk := false, startT := 0 }

/-- The identity of the node before the system description is loaded (log 4). -/
def Node.reset : Node :=
  { loaded := false, node := 0, xsz := 0, ysz := 0, zsz := 0, root := 0, dist := 0x7F, desc := {}, guests := 0,
    wtMap := [], wtBad := [], wtCopy := [], changes := [] }

/-- The machine right after reset: a part as shipped (log 5), its AON supply risen and nothing else begun. -/
def State.reset : State :=
  { pending := [], out := [], sent := [], freeCtr := 0, seqNo := 0, node := .reset, hports := Vector.replicate 4 .reset,
    slices := Vector.replicate 8 .reset, home := .reset, stamp := .reset, arb := .reset,
    fports := Vector.replicate 6 (.reset 1), fabric := .reset, mem := .reset, integ := .reset [] [], fw := .reset,
    mbx := Vector.replicate 4 .reset, evq := Vector.replicate 4 .reset, gen := .reset 0,
    aon := { cause := 0, stopHeld := false, heldCnt := 0, dirty := 0, fillBlk := 0, warmCnt := 0, quiet := false,
             temps := Vector.replicate 5 0x80, hotMs := Vector.replicate 5 0, cycles := 0, sub := 0, smbAd := 0, up := true },
    peat := { ring := [], next := 0, copyA := 0, copyB := 0, wraps := false, starts := 0, own := [], queue := [],
              source := [], suppr := 0, supprs := 0, used := 0, sums := [], sel := 0, ctl := .mk1 0x403C },
    dbg := .reset,
    tap := { ir := 0x02, bscan := [], bypass := false, chain := 0, array := 0, row := 0, chains := [], snap := 0 },
    crp := .reset, pins := ⟨true, true, true, true, false⟩ }

end Sys2Proof.Machine
end

