-- ==== Sys2Proof/Machine/Bits.lean ====
section
/-! DEFINITION. Bit fields, byte masks of a line, sparse arrays, the CRC, and voted registers. -/

namespace Sys2Proof.Machine

/-- The content of a sparse array at an index. -/
def spGet {α : Type} (d : α) : Sparse α → Nat → α
  | [], _ => d
  | (k, v) :: t, n => if n < k then d else if n = k then v else spGet d t n

/-- Put a content at an index of a sparse array, listed even where it is the default. -/
def spIns {α : Type} (n : Nat) (v : α) : Sparse α → Sparse α
  | [] => [(n, v)]
  | (k, x) :: t => if n < k then (n, v) :: (k, x) :: t else if n = k then (n, v) :: t else (k, x) :: spIns n v t

/-- Remove an index of a sparse array. -/
def spDel {α : Type} (n : Nat) : Sparse α → Sparse α
  | [] => []
  | (k, x) :: t => if n < k then (k, x) :: t else if n = k then t else (k, x) :: spDel n t

/-- Write a sparse array, keeping its canonical form: the default content is not listed. -/
def spSet {α : Type} [DecidableEq α] (d : α) (n : Nat) (v : α) (m : Sparse α) : Sparse α :=
  if v = d then spDel n m else spIns n v m

/-- Change the content of a sparse array at an index. -/
def spMod {α : Type} [DecidableEq α] (d : α) (n : Nat) (f : α → α) (m : Sparse α) : Sparse α :=
  spSet d n (f (spGet d m n)) m

/-- The indices of a sparse array rise strictly, above `lo`. -/
def spSorted {α : Type} : Option Nat → Sparse α → Bool
  | _, [] => true
  | lo, (k, _) :: t => (match lo with | none => true | some l => decide (l < k)) && spSorted (some k) t

/-- The canonical form of a sparse array: indices strictly rising, no default content listed. -/
def spWf {α : Type} [DecidableEq α] (d : α) (m : Sparse α) : Bool :=
  spSorted none m && m.all (fun c => decide (c.2 ≠ d))

/-- Replace the first element that satisfies a test. -/
def modFirst {α : Type} (p : α → Bool) (f : α → α) : List α → List α
  | [] => []
  | x :: t => if p x then f x :: t else x :: modFirst p f t

/-- Remove the first element that satisfies a test. -/
def rmFirst {α : Type} (p : α → Bool) : List α → List α
  | [] => []
  | x :: t => if p x then t else x :: rmFirst p t

/-- Field [lo+n-1:lo] of a word. -/
def fld {w : Nat} (x : BitVec w) (lo n : Nat) : BitVec n := x.extractLsb' lo n

/-- A bit of a word. -/
def bit {w : Nat} (x : BitVec w) (i : Nat) : Bool := x.getLsbD i

/-- A word of width 32 with bit i set where b holds. -/
def bit32 (i : Nat) (b : Bool) : W32 := if b then (1 : W32) <<< i else 0

/-- Replace field [lo+n-1:lo] of a word. -/
def setFld {w : Nat} (x : BitVec w) (lo n : Nat) (v : BitVec n) : BitVec w :=
  (x &&& ~~~((BitVec.allOnes n).setWidth w <<< lo)) ||| (v.setWidth w <<< lo)

/-- Set or clear a bit of a word. -/
def setBit {w : Nat} (x : BitVec w) (i : Nat) (b : Bool) : BitVec w :=
  if b then x ||| ((1 : BitVec w) <<< i) else x &&& ~~~((1 : BitVec w) <<< i)

/-- How many bits of a word are 1. -/
def popCount {w : Nat} (x : BitVec w) : Nat := (List.range w).foldl (fun n i => if x.getLsbD i then n + 1 else n) 0

/-- The bits of a word that are 1, lowest first. -/
def bitsOf {w : Nat} (x : BitVec w) : List Nat := (List.range w).filter (fun i => x.getLsbD i)

/-- The bit mask of a byte mask, over the first n bytes. -/
def byteBits (m : W64) : Nat → Line
  | 0 => 0
  | n + 1 => if m.getLsbD n then byteBits m n ||| ((0xFF : Line) <<< (8 * n)) else byteBits m n

/-- Bytes of `new` where the byte mask is 1, of `old` elsewhere (R128: mask bit n for byte n). -/
def mergeLine (old new : Line) (m : W64) : Line :=
  let b := byteBits m 64
  (old &&& ~~~b) ||| (new &&& b)

/-- The byte mask of `len` bytes from byte `off` of a line. -/
def rangeMask (off len : Nat) : W64 := BitVec.ofNat 64 ((2 ^ len - 1) * 2 ^ off)

/-- Every byte of a line. -/
def fullMask : W64 := BitVec.allOnes 64

/-- A payload placed at a byte offset of a line. -/
def placeLine (d : Line) (off : Nat) : Line := d <<< (8 * off)

/-- `len` bytes from byte `off` of a line, at byte 0. -/
def takeLine (d : Line) (off len : Nat) : Line := (d >>> (8 * off)) &&& byteBits (rangeMask 0 len) 64

/-- Byte n of a line. -/
def byteAt {w : Nat} (d : BitVec w) (n : Nat) : Byte := d.extractLsb' (8 * n) 8

/-- Majority of the three copies (R416). -/
def VReg.maj (v : VReg) : W32 := (v.c0 &&& v.c1) ||| (v.c0 &&& v.c2) ||| (v.c1 &&& v.c2)

/-- The value of a register of which the bits of `vm` are /V fields: their majority, and the one stored copy of the
others (R416). -/
def VReg.get (vm : W32) (v : VReg) : W32 := (v.maj &&& vm) ||| (v.c0 &&& ~~~vm)

/-- The copies disagree in a /V bit. -/
def VReg.split (vm : W32) (v : VReg) : Bool :=
  decide ((v.c0 &&& vm) ≠ (v.c1 &&& vm)) || decide ((v.c0 &&& vm) ≠ (v.c2 &&& vm))

/-- One step of CRC-32C over a bit, bits in reflected order (log 13). -/
def crcBit (c : W32) : W32 := if c.getLsbD 0 then (c >>> 1) ^^^ 0x82F63B78 else c >>> 1

/-- One step of CRC-32C over a byte. -/
def crcByte (c : W32) (b : Byte) : W32 :=
  crcBit (crcBit (crcBit (crcBit (crcBit (crcBit (crcBit (crcBit (c ^^^ b.setWidth 32))))))))

/-- CRC-32C over bytes (R299: generator 0x1EDC6F41, initial value all ones; reflection and final inversion as the
standard CRC-32C has them, log 13). -/
def crc32c (bs : List Byte) : W32 := ~~~(bs.foldl crcByte 0xFFFFFFFF)

/-- XOR of bytes. -/
def xorBytes (bs : List Byte) : Byte := bs.foldl (· ^^^ ·) 0

/-- The first n bytes of a word, lowest first. -/
def bytesOf {w : Nat} (x : BitVec w) (n : Nat) : List Byte := (List.range n).map (byteAt x)

/-- Merge the enabled bytes of a 32-bit write into a value (R418). -/
def mergeBe (old new : W32) (be : BitVec 4) : W32 :=
  let m : W32 := (if be.getLsbD 0 then 0xFF else 0) ||| (if be.getLsbD 1 then 0xFF00 else 0) |||
    (if be.getLsbD 2 then 0xFF0000 else 0) ||| (if be.getLsbD 3 then 0xFF000000 else 0)
  (old &&& ~~~m) ||| (new &&& m)

/-- Saturating increment of a 16-bit count. -/
def satInc16 (x : BitVec 16) : BitVec 16 := if x = 0xFFFF then x else x + 1

end Sys2Proof.Machine
end

