-- ==== Sys2Proof/Machine/Operands.lean ====
section
/-! DEFINITION. Addresses, node IDs, the hashing of lines, routes over the torus, and the layouts of the words the part
stores or sends. -/

namespace Sys2Proof.Machine

/-- Node ID of the home of a global address (R16). -/
def homeOf (a : GAddr) : NodeId := fld a 40 18
/-- Line of a global address (R126 LADDR). -/
def lineOf (a : GAddr) : LAddr := fld a 6 52
/-- Byte of an address within its line. -/
def offOf (a : GAddr) : Nat := (fld a 0 6).toNat
/-- Node ID of the home of a line. -/
def lineHome (l : LAddr) : NodeId := fld l 34 18
/-- Global address of a line, with bits [5:0] = 0. -/
def lineAddr (l : LAddr) : GAddr := l ++ (0 : BitVec 6)
/-- Domain number of a node (R17). -/
def domOf (n : NodeId) : BitVec 6 := fld n 16 2 ++ fld n 10 2 ++ fld n 4 2
/-- Member number of a node (R17). -/
def memOf (n : NodeId) : Member := fld n 12 4 ++ fld n 6 4 ++ fld n 0 4
/-- The node that a domain number and a member number name (R17). -/
def nodeOf (d : BitVec 6) (m : Member) : NodeId :=
  fld d 4 2 ++ fld m 8 4 ++ fld d 2 2 ++ fld m 4 4 ++ fld d 0 2 ++ fld m 0 4
/-- Coordinate X, Y or Z of a node (R16). -/
def coord (n : NodeId) (axis : Nat) : Nat :=
  match axis with
  | 0 => (fld n 12 6).toNat
  | 1 => (fld n 6 6).toNat
  | _ => (fld n 0 6).toNat
/-- The node at three coordinates. -/
def mkNode (x y z : Nat) : NodeId := BitVec.ofNat 6 x ++ BitVec.ofNat 6 y ++ BitVec.ofNat 6 z

/-- Bits [51:6] of the domain-local address of a line (R18). -/
def dlaLine (l : LAddr) : BitVec 46 := memOf (lineHome l) ++ fld l 0 34
/-- The slice of a line (R30). -/
def sliceOf (l : LAddr) : SliceNo :=
  let a := dlaLine l
  let x : BitVec 3 := fld a 0 3 ^^^ fld a 3 3 ^^^ fld a 6 3 ^^^ fld a 9 3 ^^^ fld a 12 3 ^^^ fld a 15 3 ^^^ fld a 18 3 ^^^
    fld a 21 3 ^^^ fld a 24 3 ^^^ fld a 27 3 ^^^ fld a 30 3
  x.toFin
/-- The set index of a line within its slice (R31). -/
def setOf (l : LAddr) : BitVec 23 :=
  let a := dlaLine l
  fld a 3 23 ^^^ (fld a 26 7).setWidth 23
/-- The tag of a line (R31). -/
def tagOf (l : LAddr) : BitVec 20 := fld (dlaLine l) 26 20
/-- The line that a slice, a set index and a tag give back (R31), in domain d. -/
def lineBack (d : BitVec 6) (s : SliceNo) (i : BitVec 23) (t : BitVec 20) : LAddr :=
  let lo : BitVec 23 := i ^^^ (fld t 0 7).setWidth 23
  let up : BitVec 30 := fld t 0 7 ++ lo
  let g : BitVec 3 := fld up 0 3 ^^^ fld up 3 3 ^^^ fld up 6 3 ^^^ fld up 9 3 ^^^ fld up 12 3 ^^^ fld up 15 3 ^^^
    fld up 18 3 ^^^ fld up 21 3 ^^^ fld up 24 3 ^^^ fld up 27 3
  let low : BitVec 3 := BitVec.ofNat 3 s.val ^^^ g
  nodeOf d (fld t 8 12) ++ (fld t 0 8 ++ lo ++ low)
/-- The HBM region of a set (02, after R29). -/
def hbmRegion (set : Nat) : Nat := set % 64
/-- The region number of a line (R19). -/
def regionOf (l : LAddr) : BitVec 10 := fld l 24 10
/-- Index of a region in the region policy map (R67). -/
def policyIdx (m : Member) (r : BitVec 10) : Nat := m.toNat * 1024 + r.toNat

/-- The node lies in the configured torus (R24). -/
def inTorus (n : Node) (x : NodeId) : Bool :=
  decide (coord x 0 ≤ n.xsz.toNat) && decide (coord x 1 ≤ n.ysz.toNat) && decide (coord x 2 ≤ n.zsz.toNat)
/-- Size of an axis (R24, R322). -/
def axisSize (n : Node) (axis : Nat) : Nat :=
  (match axis with | 0 => n.xsz.toNat | 1 => n.ysz.toNat | _ => n.zsz.toNat) + 1
/-- A line homed in another domain: a far line (R23). -/
def farNode (n : Node) (x : NodeId) : Bool := decide (domOf x ≠ domOf n.node)

/-- Direction on an axis from coordinate s to t, `true` for +, `none` when they are equal (R306). -/
def axisDir (size s t : Nat) (sameDom : Bool) : Option Bool :=
  if s = t then none
  else if sameDom && decide (16 < size) then some (decide (s < t))
  else
    let d := (t + size - s) % size
    some (decide (d ≤ size - d))

/-- Hops on an axis (R306). -/
def axisHops (size s t : Nat) (sameDom : Bool) : Nat :=
  match axisDir size s t sameDom with
  | none => 0
  | some true => (t + size - s) % size
  | some false => (s + size - t) % size

/-- Hop count of the route from one node to another (R306). -/
def hops (n : Node) (a b : NodeId) : Nat :=
  let sd := decide (domOf a = domOf b)
  axisHops (axisSize n 0) (coord a 0) (coord b 0) sd + axisHops (axisSize n 1) (coord a 1) (coord b 1) sd +
    axisHops (axisSize n 2) (coord a 2) (coord b 2) sd

/-- Fabric port on which a packet from this hop leaves toward its destination, X then Y then Z (R306, R25). -/
def routePort (n : Node) (here src dst : NodeId) : Option FPortNo :=
  let sd := decide (domOf src = domOf dst)
  match axisDir (axisSize n 0) (coord here 0) (coord dst 0) sd with
  | some true => some 0
  | some false => some 1
  | none =>
    match axisDir (axisSize n 1) (coord here 1) (coord dst 1) sd with
    | some true => some 2
    | some false => some 3
    | none =>
      match axisDir (axisSize n 2) (coord here 2) (coord dst 2) sd with
      | some true => some 4
      | some false => some 5
      | none => none

/-- The neighbour of a node on a fabric port (R25); `none` on an axis of size 1. -/
def neighbour (n : Node) (a : NodeId) (f : FPortNo) : Option NodeId :=
  let axis := f.val / 2
  let sz := axisSize n axis
  if sz = 1 then none
  else
    let c := coord a axis
    let c' := if f.val % 2 = 0 then (c + 1) % sz else (c + sz - 1) % sz
    some (match axis with
      | 0 => mkNode c' (coord a 1) (coord a 2)
      | 1 => mkNode (coord a 0) c' (coord a 2)
      | _ => mkNode (coord a 0) (coord a 1) c')

/-- The link on a fabric port of a node is its axis's wrap link (R24, R303). -/
def isWrap (n : Node) (a : NodeId) (f : FPortNo) : Bool :=
  let axis := f.val / 2
  let sz := axisSize n axis
  if f.val % 2 = 0 then decide (coord a axis + 1 = sz) else decide (coord a axis = 0)

/-- Nodes on the route from a to b after a, b included (R306), by fuel over the longest route of 96 hops. -/
def routeNodes (n : Node) (src dst : NodeId) : Nat → NodeId → List NodeId
  | 0, _ => []
  | k + 1, here =>
    match routePort n here src dst with
    | none => []
    | some f =>
      match neighbour n here f with
      | none => []
      | some x => x :: routeNodes n src dst k x

/-- The port at the other end of a link (R306). -/
def farEnd (f : FPortNo) : FPortNo :=
  match f with
  | 0 => 1 | 1 => 0 | 2 => 3 | 3 => 2 | 4 => 5 | 5 => 4

/-- The port by which a packet of another node reaches this one, and whether on the dateline channel: along the last axis of its route it has
crossed the wrap link (R303, R306). -/
def arrivesBy (n : Node) (src : NodeId) : Option (FPortNo × Bool) :=
  let path := src :: routeNodes n src n.node 96 src
  let hops := (path.zip path.tail).filterMap (fun c => (routePort n c.1 src n.node).map (fun g => (c.1, g)))
  hops.getLast?.map (fun c => (farEnd c.2, hops.any (fun d => decide (d.2.val / 2 = c.2.val / 2) && isWrap n d.1 d.2)))

/-- The node is declared dead at this device (R174). -/
def isDead (fb : Fabric) (x : NodeId) : Bool := (spGet {} fb.live x.toNat).dead

/-- A live node is cut while the route to it, or from it, passes a declared node (R313). -/
def isCut (n : Node) (fb : Fabric) (x : NodeId) : Bool :=
  !fb.live.isEmpty && decide (x ≠ n.node) &&
    ((routeNodes n n.node x 96 n.node).any (isDead fb) || (routeNodes n x n.node 96 x).any (isDead fb))

/-- Declared dead or cut (R313: the rules for a dead node apply). -/
def isLost (n : Node) (fb : Fabric) (x : NodeId) : Bool := isDead fb x || isCut n fb x

/-- The members of this device's domain within the torus, by member number (R17, R24). -/
def members (n : Node) : List Member :=
  ((List.range 4096).map (BitVec.ofNat 12)).filter (fun m => inTorus n (nodeOf (domOf n.node) m))

/-- The live other members of the domain. -/
def livePeers (n : Node) (fb : Fabric) : List NodeId :=
  ((members n).map (nodeOf (domOf n.node))).filter (fun x => decide (x ≠ n.node) && !isLost n fb x)

/-- STATE encoding of a tag word (R33). -/
def LState.code : LState → BitVec 3
  | .I => 0 | .S => 1 | .F => 2 | .E => 3 | .O => 4 | .M => 5 | .P => 6

/-- The state an encoding stands for; the reserved encoding is an error of the tag slot (R33). -/
def lstateOf (x : BitVec 3) : Option LState :=
  match x.toNat with
  | 0 => some .I | 1 => some .S | 2 => some .F | 3 => some .E | 4 => some .O | 5 => some .M | 6 => some .P | _ => none

/-- A tag word as stored (R32). -/
def packTag (t : TagWord) : W32 :=
  (0 : BitVec 3) ++ (if t.prefetched then (1 : BitVec 1) else 0) ++ (if t.poison then (1 : BitVec 1) else 0) ++ t.hp ++
    t.st.code ++ t.tag

/-- A stored tag word read back (R32, R33). -/
def unpackTag (w : W32) : Option TagWord :=
  (lstateOf (fld w 20 3)).map fun st =>
    { tag := fld w 0 20, st := st, hp := fld w 23 4, poison := bit w 27, prefetched := bit w 28 }

/-- CSUM: XOR of the 60 bytes of the tag words (R34). -/
def csumOf (ws : Vector TagWord 15) : Byte := xorBytes (ws.toList.flatMap (fun t => bytesOf (packTag t) 4))

/-- The set word as stored (R34). -/
def packSetWord (b : TagBlock) : W32 := (0 : BitVec 10) ++ b.csum ++ b.plru

/-- Encoding of a directory state (R147). -/
def DState.code : DState → BitVec 3
  | .U => 0 | .E1 => 1 | .S1 => 2 | .SM => 3 | .OS => 4 | .BC => 5 | .QU => 6

/-- The directory word of a record (R151): INIT is 1 in every word written (R153). -/
def packWord (r : DirRec) : W32 :=
  let ptr : Member := match r.st with
    | .E1 | .OS | .SM | .BC => r.des.getD 0
    | .S1 => r.holders.headD 0
    | .U | .QU => 0
  let des : Bool := match r.st with
    | .U | .QU => false
    | _ => r.des.isSome
  (0 : BitVec 1) ++ (1 : BitVec 1) ++ (if r.poison then (1 : BitVec 1) else 0) ++ r.osn ++
    (if des && r.own then (1 : BitVec 1) else 0) ++ (if des then (1 : BitVec 1) else 0) ++ ptr ++ r.st.code

/-- The record loaded from a directory word (R153); `none` for the reserved state: a lost word (R155). -/
def loadWord (w : W32) : Option DirRec :=
  if !bit w 30 then some {}
  else
    let ptr : Member := fld w 3 12
    let des := bit w 15
    let own := bit w 16
    let osn : BitVec 12 := fld w 17 12
    let poison := bit w 29
    let d : Option Member := if des then some ptr else none
    match (fld w 0 3).toNat with
    | 0 => some { st := .U, osn := osn, poison := poison }
    | 1 => some { st := .E1, holders := [ptr], des := some ptr, own := true, osn := osn, poison := poison }
    | 2 => some { st := .S1, holders := [ptr], des := d, own := false, osn := osn, poison := poison }
    | 3 | 4 | 5 => some { st := .BC, holders := d.toList, des := d, own := des && own, osn := osn, poison := poison }
    | 6 => some { st := .QU, osn := osn, poison := poison }
    | _ => none

/-- The class and opcode of a Bervex message (R129). -/
def bkCode : BKind → BitVec 3 × BitVec 5
  | .rdS => (0, 0) | .rdX => (0, 1) | .upg => (0, 2) | .rdU => (0, 3) | .wrU => (0, 4) | .amoF => (0, 5) | .pfq => (0, 6)
  | .fwdS => (1, 0) | .fwdX => (1, 1) | .inv => (1, 2) | .bInv => (1, 3) | .probe => (1, 4)
  | .dataS => (2, 0) | .dataE => (2, 1) | .dataM => (2, 2) | .ack => (2, 3) | .invAck => (2, 4) | .nack => (2, 5)
  | .cmp => (2, 6) | .wbAck => (2, 7)
  | .putM => (3, 0) | .putO => (3, 1) | .putE => (3, 2) | .putS => (3, 3)

/-- The message opcode a class and an OPC field name; `none` when reserved (R129). -/
def bkindOf (vc : BitVec 3) (opc : BitVec 5) : Option BKind :=
  [BKind.rdS, .rdX, .upg, .rdU, .wrU, .amoF, .pfq, .fwdS, .fwdX, .inv, .bInv, .probe, .dataS, .dataE, .dataM, .ack,
    .invAck, .nack, .cmp, .wbAck, .putM, .putO, .putE, .putS].find? (fun k => decide (bkCode k = (vc, opc)))

/-- The 128-bit header of a Bervex message (R126). -/
def packHeader (k : BKind) (m : BMsg) : BitVec 128 :=
  let b (x : Bool) : BitVec 1 := if x then 1 else 0
  b m.fwdr ++ b m.waitcmp ++ b m.nc ++ b m.retain ++ b m.keep ++ b m.poison ++ m.age ++ m.laddr ++ m.rtid ++ m.srcu ++ m.src ++
    m.dstu ++ m.dst ++ ((bkCode k).2) ++ ((bkCode k).1)

/-- The 64-bit parameter word of a Bervex message (R127). -/
def packParam (m : BMsg) : BitVec 64 :=
  (if m.stamp.isSome then (1 : BitVec 1) else 0) ++ m.strm ++ m.port ++ m.reason ++ m.gen ++ m.osn ++ m.htid ++ m.rqu ++ m.rqn

/-- Bytes of a Bervex message (R128). -/
def msgBytes (k : BKind) (m : BMsg) : Nat :=
  24 + (if m.stamp.isSome && decide ((bkCode k).1 = 0) then 8 else 0) +
    (match k with
     | .wrU => 72 | .amoF => 32 | .dataS | .dataE | .dataM | .putM | .putO => 64
     | .cmp => if m.res then 16 else 0
     | _ => 0)

/-- A value as words of 8 B, the lowest first. -/
def wordsOf {w : Nat} (x : BitVec w) (n : Nat) : List W64 := (List.range n).map (fun i => x.extractLsb' (64 * i) 64)

/-- A Bervex message as words of 8 B: header, parameter word, and the parts that follow in the order of R128. -/
def packMsg (k : BKind) (m : BMsg) : List W64 :=
  let stamp : List W64 := match m.stamp with
    | some x => if (bkCode k).1 = 0 then [x] else []
    | none => []
  wordsOf (packHeader k m) 2 ++ [packParam m] ++ stamp ++
    (match k with
     | .wrU => m.mask :: wordsOf m.data 8
     | .amoF => wordsOf m.amo 4
     | .dataS | .dataE | .dataM | .putM | .putO => wordsOf m.data 8
     | .cmp => if m.res then wordsOf m.result 2 else []
     | _ => [])

/-- The fabric header of a packet (R301). -/
def fabricHeader (x : Packet) : W64 :=
  let b (v : Bool) : BitVec 1 := if v then 1 else 0
  (0 : BitVec 15) ++ x.birth ++ x.len ++ x.dst ++ (0 : BitVec 2) ++ b x.comb ++ b x.bcast ++ b x.dl ++ x.cls

/-- Packet length in words of 8 B, fabric header included (R301). -/
def packetWords (k : BKind) (m : BMsg) : BitVec 7 := BitVec.ofNat 7 (msgBytes k m / 8 + 1)

/-- The 128-bit Emhal header of what the device sends to a host (R291, R292); none for what only a CXL port sends. -/
def emhalOut (x : ToHost) : Option (BitVec 128) :=
  let b (v : Bool) : BitVec 1 := if v then 1 else 0
  let hdr (opc : BitVec 6) (etag : BitVec 12) (a : GAddr) (len : Nat) (poison : Bool) (status : BitVec 3) (grant : BitVec 2) (cmpeq : Bool) : BitVec 128 :=
    (0 : BitVec 16) ++ b cmpeq ++ grant ++ status ++ (0 : BitVec 8) ++ b poison ++ (0 : BitVec 2) ++ BitVec.ofNat 7 len ++ a ++ (0 : BitVec 12) ++ etag ++ opc
  match x with
  | .cmp e st g q p => some (hdr 0x20 (fld e 0 12) 0 0 p st g q)
  | .cmpData e st g q p n _ => some (hdr 0x21 (fld e 0 12) 0 n p st g q)
  | .retry e => some (hdr 0x22 (fld e 0 12) 0 0 false 0 0 false)
  | .snpInv e l => some (hdr 0x23 e (lineAddr l) 0 false 0 0 false)
  | .snpDown e l => some (hdr 0x24 e (lineAddr l) 0 false 0 0 false)
  | .snpCur e l => some (hdr 0x25 e (lineAddr l) 0 false 0 0 false)
  | .biConflictAck _ | .compAbort _ | .msix => none

/-- A request sent for host work accepted with a bound (R127 CTR). -/
def msgCtr (m : BMsg) : Bool := m.reason.getLsbD 0

/-- Bits of an event header (R396). -/
def eventHeader (code : Byte) (len : Nat) (lost : Bool) (cls : Nat) (time : W64) : W64 :=
  fld time 0 48 ++ BitVec.ofNat 4 cls ++ (if lost then (1 : BitVec 1) else 0) ++ BitVec.ofNat 3 len ++ code

/-- A correction history row as ERRLOG_READ returns it (R346). -/
def packHist (r : HistRow) : W64 :=
  let b (x : Bool) : BitVec 1 := if x then 1 else 0
  (0 : BitVec 4) ++ b r.rw ++ b r.carry ++ r.syn ++ r.line ++ b r.repairq ++ b r.wb ++ r.count ++ r.loc ++ b r.ddr ++ (1 : BitVec 1)

/-- LOC of an HBM DRAM row (R346) from slice, set and bank group, by the placement of R28 and R29. -/
def hbmLoc (s : SliceNo) (set : BitVec 23) (bg : Nat) : BitVec 28 :=
  (0 : BitVec 2) ++ fld set 8 15 ++ fld set 4 2 ++ BitVec.ofNat 2 bg ++ fld set 3 1 ++ ((BitVec.ofNat 3 s.val) ++ fld set 2 1) ++ fld set 0 2

/-- Bank group of a slot: way group (R28). -/
def wayGroup (w : Nat) : Nat := (w + 1) / 4

/-- Slot or line number within the DRAM row of an HBM slot: column quarter, then slot of the way group (R28, R29). -/
def hbmRowSlot (set : BitVec 23) (slot : Nat) : BitVec 8 :=
  BitVec.ofNat 8 ((fld set 6 2).toNat * 4 + slot % 4)

/-- DDR5 channel of a frame address given as line number (R334). -/
def ddrChannel (eight : Bool) (f : BitVec 34) : BitVec 3 :=
  if eight then fld f 2 3 ^^^ fld f 10 3 ^^^ fld f 18 3 else (fld f 2 2 ^^^ fld f 10 2 ^^^ fld f 18 2).setWidth 3

/-- LOC of a DDR5 DRAM row (R346). R334 gives channel and subchannel; column, bank group, bank, rank and row follow in
that order from the least significant bit (log 14 for the widths). -/
def ddrLoc (eight rank2 : Bool) (f : BitVec 34) : BitVec 28 :=
  let rest : Nat := f.toNat / (if eight then 32 else 16)
  let col := rest / 32
  let bg := col % 8
  let bank := col / 8 % 4
  let rk := if rank2 then col / 32 % 2 else 0
  let row := if rank2 then col / 64 else col / 32
  BitVec.ofNat 18 row ++ BitVec.ofNat 2 bank ++ BitVec.ofNat 3 bg ++ BitVec.ofNat 1 rk ++ fld f 0 1 ++ ddrChannel eight f

/-- Line number within the DRAM row of a DDR5 line: its column pair, then the column (R334, R346; log 14). -/
def ddrRowLine (eight : Bool) (f : BitVec 34) : BitVec 8 :=
  BitVec.ofNat 8 (f.toNat / (if eight then 32 else 16) % 32 * 2 + (fld f 1 1).toNat)

/-- A Peat record with its number, START count, time, node and CRC (R481). -/
def packPeat (r : PRec) (seq : W32) (start : BitVec 16) (timev : Bool) (time : W64) (nodev : Bool) (node : NodeId) (drain : Bool) : BitVec 512 :=
  let flags : Byte := (0 : BitVec 4) ++ (if drain then (1 : BitVec 1) else 0) ++ (if nodev then (1 : BitVec 1) else 0) ++
    (if timev then (1 : BitVec 1) else 0) ++ (if r.hw then (1 : BitVec 1) else 0)
  let nd : W32 := if nodev then node.setWidth 32 else 0
  let body : BitVec 480 := r.body ++ r.cause ++ nd ++ time ++ start ++ flags ++ r.type ++ seq
  crc32c (bytesOf body 60) ++ body

/-- Emhal opcodes of the messages host errors name (R292). -/
def opcWbDirty : BitVec 6 := 0x06
/-- Opcode of SnpRsp (R292). -/
def opcSnpRsp : BitVec 6 := 0x11

/-- Completion statuses (R294). -/
def stOK : BitVec 3 := 0
def stERR : BitVec 3 := 1
def stADDR : BitVec 3 := 2
def stFAIL : BitVec 3 := 3
def stUNSUP : BitVec 3 := 4
def stPOIS : BitVec 3 := 5
def stDEAD : BitVec 3 := 6

/-- Nack reasons (R131). -/
def rsnBUSY : BitVec 3 := 1
def rsnAGE : BitVec 3 := 2
def rsnMOVED : BitVec 3 := 3
def rsnDEAD : BitVec 3 := 4
def rsnCONTRACT : BitVec 3 := 5

/-- Return codes of R384. -/
def rcOK : Byte := 0
def rcBUSY : Byte := 1
def rcBADARG : Byte := 2
def rcDENIED : Byte := 3
def rcNORES : Byte := 4
def rcTIMEOUT : Byte := 5
def rcPENDING : Byte := 6
def rcFAULT : Byte := 7

end Sys2Proof.Machine
end

