-- ==== Sys2Proof/Machine/Ops.lean ====
section
/-! DEFINITION. The named operations over the state that every command uses: access to units, messages, events, Peat
records, notices, counters, freezes and stops. -/

namespace Sys2Proof.Machine

/-! ### Units -/

/-- Host port p. -/
def State.hp (s : State) (p : Port) : HPort := s.hports[p.val]
/-- Replace host port p. -/
def State.setHp (s : State) (p : Port) (h : HPort) : State := { s with hports := s.hports.set p.val h p.isLt }
/-- Change host port p. -/
def State.modHp (s : State) (p : Port) (f : HPort → HPort) : State := s.setHp p (f (s.hp p))
/-- The valid reservations of a port: one with bad parity is none (R358). -/
def HPort.goodRsv (h : HPort) : Sparse LAddr := h.rsv.filter (fun c => !h.rsvBad.contains c.1)
/-- Slice i. -/
def State.sl (s : State) (i : SliceNo) : Slice := s.slices[i.val]
/-- Replace slice i. -/
def State.setSl (s : State) (i : SliceNo) (x : Slice) : State := { s with slices := s.slices.set i.val x i.isLt }
/-- Change slice i. -/
def State.modSl (s : State) (i : SliceNo) (f : Slice → Slice) : State := s.setSl i (f (s.sl i))
/-- Fabric port f. -/
def State.fp (s : State) (f : FPortNo) : FPort := s.fports[f.val]
/-- Replace fabric port f. -/
def State.setFp (s : State) (f : FPortNo) (x : FPort) : State := { s with fports := s.fports.set f.val x f.isLt }
/-- Change fabric port f. -/
def State.modFp (s : State) (f : FPortNo) (g : FPort → FPort) : State := s.setFp f (g (s.fp f))
/-- Mailbox block of port p. -/
def State.mb (s : State) (p : Port) : Mbx := s.mbx[p.val]
/-- Replace the mailbox block of port p. -/
def State.setMb (s : State) (p : Port) (x : Mbx) : State := { s with mbx := s.mbx.set p.val x p.isLt }
/-- Change the mailbox block of port p. -/
def State.modMb (s : State) (p : Port) (f : Mbx → Mbx) : State := s.setMb p (f (s.mb p))
/-- Event queue of port p. -/
def State.eq (s : State) (p : Port) : Evq := s.evq[p.val]
/-- Replace the event queue of port p. -/
def State.setEq (s : State) (p : Port) (x : Evq) : State := { s with evq := s.evq.set p.val x p.isLt }
/-- Change the home agent. -/
def State.modHome (s : State) (f : Home → Home) : State := { s with home := f s.home }
/-- Change the fabric switch. -/
def State.modFabric (s : State) (f : Fabric → Fabric) : State := { s with fabric := f s.fabric }
/-- Mailbox k of a block. -/
def Mbx.at (m : Mbx) (k : Port) : Mail := m.box[k.val]
/-- Change mailbox k of a block. -/
def Mbx.modAt (m : Mbx) (k : Port) (f : Mail → Mail) : Mbx := { m with box := m.box.set k.val (f (m.at k)) k.isLt }
/-- The four host ports in order. -/
def ports : List Port := [0, 1, 2, 3]
/-- The eight slices in order. -/
def sliceNos : List SliceNo := [0, 1, 2, 3, 4, 5, 6, 7]
/-- The six fabric ports in order. -/
def fportNos : List FPortNo := [0, 1, 2, 3, 4, 5]

/-- The root-derived clocks run: the PLLs are locked (R464 step 1), the die is not frozen (R488) and the device is not
inert after a power-fail drain (R472). -/
def State.clk (s : State) : Bool := s.crp.pllLock && !s.dbg.frozen && !s.crp.waitOn

/-- What a command does in the clocked domains; with the clocks stopped the die keeps its state (R488). -/
def onClock (s : State) (f : State → State) : Host.Outcome State Fault Refusal := .next (if s.clk then f s else s)

/-- Append a message, answer or bit stream to what leaves the device. -/
def State.emit (s : State) (o : Out) : State := { s with out := s.out ++ [o] }
/-- Take the next free-value number. -/
def State.tick1 (s : State) : State := { s with freeCtr := s.freeCtr + 1 }
/-- Run a change for each element of a list, in order. -/
def State.each {α : Type} (s : State) (l : List α) (f : State → α → State) : State := l.foldl f s

/-- A message to the host of port p: it waits at its sender while the link is in Recovery (R289), and a port that is down discards it
(R297). -/
def toHost (p : Port) (m : ToHost) (s : State) : State :=
  let h := s.hp p
  match h.link with
  | .up => s.emit (.host p m)
  | .recovery => s.setHp p { h with heldOut := h.heldOut ++ [m] }
  | .down | .training | .downBusy => s

/-! ### Interrupt causes and MSI-X -/

/-- MBX_IRQ_STAT of port p: OUT, EVQ, DROP, FW (R402). -/
def irqCauses (s : State) (p : Port) : W32 :=
  bit32 0 ((s.mb p).box.toList.any (·.outFull)) ||| bit32 1 (s.eq p).attn ||| bit32 2 (s.eq p).dropped |||
    bit32 3 (decide (s.fw.st = .restart) || decide (s.fw.st = .stopped))

/-- The enabled live causes of port p are not empty (R403, R405). -/
def irqLive (s : State) (p : Port) : Bool := decide (irqCauses s p &&& (s.mb p).irqEn ≠ 0)

/-- A CXL port with MSI-X enabled sends vector 0 when the set of enabled live causes stops being empty (R403). -/
def msixCheck (p : Port) (s : State) : State :=
  let h := s.hp p
  if h.proto && h.msix then
    let l := irqLive s p
    let s1 := if l && !h.msixLive then toHost p .msix s else s
    s1.modHp p (fun h => { h with msixLive := l })
  else s

/-- MSI-X of every port after a change of the firmware state. -/
def msixAll (s : State) : State := s.each ports (fun s p => msixCheck p s)

/-- IRQ_N is asserted (R405): for a port that drives it under R404, or by the leaky-bucket mode. -/
def irqN (s : State) : Bool :=
  ports.any (fun p => !((s.hp p).proto && (s.hp p).msix) && irqLive s p) ||
    (bit (s.integ.lbCtl.get 1) 0 && s.integ.overThr)

/-! ### Freeze and Peat records -/

/-- A record that the writer forms itself, ahead of everything else (R480). -/
def peatOwn (r : PRec) (s : State) : State := { s with peat := { s.peat with own := s.peat.own ++ [r] } }

/-- Records of types LINE, WAY and REPAIR are limited (R484). -/
def peatLimited (t : Byte) : Bool := decide (t = 0x30) || decide (t = 0x31) || decide (t = 0x32)

/-- DBG_PEAT_CTL.LIMIT, 0 acting as 1 (R498). -/
def peatLimit (s : State) : Nat :=
  let l := (fld (s.peat.ctl.get 0xFF) 8 8).toNat
  if l = 0 then 1 else l

/-- Enter a record in the writer's queue (R480, R484): a limited record beyond the budget of the minute, or with the queue
full, is suppressed and counted; another record waits at its source while the queue is full. -/
def peatEnter (r : PRec) (s : State) : State :=
  let p := s.peat
  if peatLimited r.type then
    if decide (peatLimit s ≤ p.used) || decide (32 ≤ p.queue.length) then
      { s with peat := { p with suppr := satInc16 p.suppr, supprs := min (p.supprs + 1) (2 ^ 32 - 1) } }
    else { s with peat := { p with queue := p.queue ++ [r], used := p.used + 1 } }
  else if decide (32 ≤ p.queue.length) || !p.source.isEmpty then
    { s with peat := { p with source := p.source ++ [r] } }
  else { s with peat := { p with queue := p.queue ++ [r] } }

/-- A drain of the reset sequencer is running: the DRAIN flag of records written now (R481). That of a power failure lasts until power is lost, the writer
going on (R472, R480). -/
def draining (s : State) : Bool := decide (s.crp.phase = .warmDrain) || decide (s.crp.phase = .pfDrain) || s.crp.waitOn

/-- A record of a type with a cause, and a body given as 36 bytes from byte 24 (R481). -/
def mkRec (type : Byte) (cause : Nat) (body : BitVec 288) : PRec :=
  { type := type, hw := false, cause := BitVec.ofNat 32 cause, body := body }

/-- A body with a value of n bytes at byte b of the record (R481: BODY is bytes 24 to 59). -/
def bodyAt (b : Nat) (v : Nat) : BitVec 288 := BitVec.ofNat 288 (v * 2 ^ (8 * (b - 24)))

/-- The die freezes (R489): the clocks stop and the writer enters a FREEZE record naming the source. A frozen die takes
no second freeze. -/
def freezeDie (src : BitVec 3) (code : Byte) (s : State) : State :=
  if s.dbg.frozen then s
  else
    peatOwn { type := 0x12, hw := true, cause := (code ++ src).setWidth 32, body := 0 }
      { s with dbg := { s.dbg with frozen := true, src := src, code := code }
               tap := { s.tap with chains := [], snap := s.freeCtr }, freeCtr := s.freeCtr + 1 }

/-! ### Events -/

/-- EVQ_CTL.THRESH in words, 0 acting as 4,096 (R399). -/
def evqThresh (q : Evq) : Nat :=
  let t := (fld q.ctl 0 12).toNat
  if t = 0 then 4096 else t
/-- Words published and unread (R395). -/
def evqUsed (q : Evq) : Nat := (q.wr - q.rd).toNat
/-- MARK_HOLD (R440). -/
def evqMarkHold (q : Evq) : Bool := bit q.ctl 20
/-- Words free for new packets: measured to RD, or to MARK when the mark is held and valid (R400). -/
def evqFree (q : Evq) : Nat := 4096 - (if evqMarkHold q && q.markV then (q.wr - q.mark).toNat else evqUsed q)

/-- ATTN as the conditions in force set it, and clear when RD equals WR (R399); `hold` is EVQ_CTL.HOLD in µs. The time of
each packet is measured from its publication. -/
def evqAttn (now : W64) (q : Evq) : Evq :=
  if q.wr = q.rd then { q with attn := false }
  else
    let hold := (fld q.ctl 12 8).toNat
    let h := if hold = 0 then 1 else hold
    let aged := q.heads.any (fun x => decide ((x.1 - q.rd).toNat < evqUsed q) && decide (400 * h ≤ (now - x.2).toNat))
    if decide (evqThresh q ≤ evqUsed q) || aged then { q with attn := true } else q

/-- Write words into the ring from a pointer (R396: wrapping from word 4,095 to word 0). -/
def ringPut (ring : Sparse W64) (at_ : BitVec 13) : List W64 → Sparse W64
  | [] => ring
  | w :: t => ringPut (spSet 0 (at_.toNat % 4096) w ring) (at_ + 1) t

/-- One packet for one queue (R396, R400): written whole, or dropped for this queue. -/
def evqPush (now : W64) (code : Byte) (cls : Nat) (pl : List W64) (q : Evq) : Evq :=
  let n := 1 + pl.length
  if evqFree q < n then { q with drop := q.drop + 1, dropped := true, lostNext := true, lostEnd := none }
  else
    let wr' := q.wr + BitVec.ofNat 13 n
    let keep := (q.heads ++ [(q.wr, now)]).filter (fun x => decide ((wr' - x.1).toNat ≤ 4096))
    let ovr := q.markV && decide (4096 < (wr' - q.mark).toNat)
    evqAttn now { q with
      ring := ringPut q.ring q.wr (eventHeader code pl.length q.lostNext cls now :: pl)
      wr := wr', heads := keep
      markV := q.markV && !ovr, markLost := q.markLost || ovr
      lostEnd := if q.lostNext then some wr' else q.lostEnd
      lostNext := false }

/-- Freeze on the event armed in DBG_FRZ_CTL (R489): CODE 0x00 matches nothing. -/
def freezeOnEvent (code : Byte) (s : State) : State :=
  let c := s.dbg.frzCtl.get 0xE
  if bit c 3 && decide (fld c 4 8 = code) && decide (code ≠ 0) then freezeDie 3 code s else s

/-- Post an event of a class to the queue of one port, if its filter enables the class (R397). -/
def postTo (p : Port) (code : Byte) (cls : Nat) (pl : List W64) (s : State) : State :=
  if bit (s.eq p).filter cls then msixCheck p (s.setEq p (evqPush s.gen.time code cls pl (s.eq p))) else s

/-- Post an event to the queue of every port whose filter enables its class (R397). -/
def postEvent (code : Byte) (cls : Nat) (pl : List W64) (s : State) : State :=
  freezeOnEvent code (s.each ports (fun s p => postTo p code cls pl s))

/-- Post a CMD event to the port it concerns (R397). -/
def postCmd (p : Port) (code : Byte) (pl : List W64) (s : State) : State :=
  freezeOnEvent code (postTo p code 0 pl s)

/-- CFG_DISCARD: register offset, port that wrote, value (R398). The management cores are no port; their writes name
port 0 (log 15). -/
def evCfgDiscard (off : Nat) (m : Master) (v : W32) (s : State) : State :=
  postEvent 0x10 1 [v ++ ((0 : BitVec 2) ++ BitVec.ofNat 2 m.val ++ (0 : BitVec 2) ++ BitVec.ofNat 26 off)] s
/-- PROTO_ERR with a cause, source node and line (R398). -/
def evProto (cause : Nat) (src : NodeId) (l : LAddr) (s : State) : State :=
  postEvent 0x40 4 [BitVec.ofNat 64 (cause + src.toNat * 2 ^ 18), (lineAddr l).setWidth 64]
    { s with home := { s.home with protoErr := s.home.protoErr + 1 } }
/-- LINE_QUARANTINED (R398). -/
def evQuarantine (l : LAddr) (s : State) : State := postEvent 0x41 4 [(lineAddr l).setWidth 64] s
/-- LINE_POISONED, with the rule that poisoned it: 1 snoop, 2 forward, 3 dead-node transaction, 4 reclaim, 5 port down
(R398). -/
def evPoisoned (l : LAddr) (rule : Nat) (s : State) : State :=
  postEvent 0x42 4 [(lineAddr l).setWidth 64, BitVec.ofNat 64 rule] s
/-- ADDR_ERR (R398). -/
def evAddrErr (a : GAddr) (p : Port) (s : State) : State :=
  postEvent 0x43 4 [a.setWidth 64, BitVec.ofNat 64 p.val] s
/-- DEAD_DONE (R398): bit 2 for a store, an atomic or a buffered entry. -/
def evDeadDone (l : LAddr) (p : Port) (store : Bool) (s : State) : State :=
  postEvent 0x44 4 [(lineAddr l).setWidth 64, BitVec.ofNat 64 (p.val + if store then 4 else 0)] s
/-- SNOOP_LATE (R398). -/
def evSnoopLate (l : LAddr) (p : Port) (timedOut : Bool) (s : State) : State :=
  postEvent 0x50 5 [(lineAddr l).setWidth 64, BitVec.ofNat 64 (p.val + if timedOut then 4 else 0)] s
/-- A host error (R523): counted and posted with its cause, the opcode of the message and its line. -/
def hostErr (p : Port) (cause : Nat) (opc : BitVec 6) (l : Option LAddr) (s : State) : State :=
  let s1 := s.modHp p (fun h => { h with hostErr := h.hostErr + 1 })
  postEvent 0x54 5 [BitVec.ofNat 64 (p.val + cause * 2 ^ 8 + opc.toNat * 2 ^ 16),
    match l with | some x => (lineAddr x).setWidth 64 | none => 0] s1
/-- NODE_DEAD (R398). -/
def evNodeDead (n : NodeId) (s : State) : State := postEvent 0x60 6 [n.setWidth 64] s
/-- STAMP_STALL of a group with its cause: 1 stall, 2 host breach, 3 seats of two groups, 4 unregistered stamp below H (R398). -/
def evStampStall (g : BitVec 6) (mask : BitVec 4) (cause : Nat) (s : State) : State :=
  postEvent 0x71 7 [BitVec.ofNat 64 (mask.toNat + g.toNat * 2 ^ 8), BitVec.ofNat 64 cause] s
/-- A LINE record (R482): cause, line, location and port. -/
def recLine (cause : Nat) (l : LAddr) (loc : Nat) (port : Nat) (s : State) : State :=
  peatEnter (mkRec 0x30 cause (bodyAt 24 (lineAddr l).toNat ||| bodyAt 32 loc ||| bodyAt 36 port)) s

/-! ### Performance counters -/

/-- Count a performance event in every counter that is enabled and selects it (R494); `inst` is `none` for events that
have no instance. -/
def pmu (ev : Nat) (inst : Option Nat) (s : State) : State :=
  if fld s.dbg.pmuCtl 0 8 = 0 then s
  else
    let f (n : Nat) (c : W64) : W64 :=
      let sel : W32 := s.dbg.pmuSel.toList.getD n 0
      if bit s.dbg.pmuCtl n && decide ((fld sel 0 8).toNat = ev) &&
          (match inst with | some i => decide ((fld sel 8 4).toNat = i) | none => true) then c + 1 else c
    { s with dbg := { s.dbg with pmuCnt := s.dbg.pmuCnt.mapFinIdx (fun i x _ => f i x) } }

/-! ### Notices -/

/-- The firmware takes commands and messages (R380): in RUN, or in IDLE, from which it wakes (R381). -/
def State.fwUp (s : State) : Bool := decide (s.fw.st = .run) || decide (s.fw.st = .idle)
/-- The lowest-numbered outbound mailbox that is not full (R389). -/
def freeOut (m : Mbx) : Option Port := ports.find? (fun k => !(m.at k).outFull)

/-- Post a notice to an outbound mailbox of port p, or keep it in the backlog of 32; beyond that the newest is dropped and
counted (R389). The argument of a QUARANTINE notice is the count at its post, which returns to 0 (R390). -/
def postNotice (p : Port) (code : Byte) (arg : BitVec 16) (s : State) : State :=
  let m := s.mb p
  let wait (s : State) : State :=
    if m.backlog.length < 32 then s.setMb p { m with backlog := m.backlog ++ [(code, arg)] }
    else s.setMb p { m with dropped := m.dropped + 1 }
  match freeOut m with
  | some k =>
    if m.backlog.isEmpty && s.fwUp then
      let a := if code = 0xA3 then (s.hp p).quarCnt else arg
      let m1 := { m.modAt k (fun x => { x with outW := code ++ m.seq ++ a, outFull := true }) with seq := m.seq + 1 }
      let s1 := if code = 0xA3 then s.modHp p (fun h => { h with quarCnt := 0, quarWait := false }) else s
      msixCheck p ({ s1 with fw := { s1.fw with st := .run } }.setMb p m1)
    else wait s
  | none => wait s

/-- Post the next notice of the backlog when a mailbox is free (R389). -/
def postBacklog (p : Port) (s : State) : State :=
  let m := s.mb p
  match m.backlog, freeOut m with
  | (code, arg) :: rest, some _ =>
    if !s.fwUp then s else
    let s1 := postNotice p code arg (s.setMb p { m with backlog := [] })
    s1.modMb p (fun x => { x with backlog := rest })
  | _, _ => s

/-- The link of host port p is not down: it carries messages, or holds them back during Recovery (R289). -/
def HPort.linkUp (h : HPort) : Bool := decide (h.link = .up) || decide (h.link = .recovery)

/-- A QUARANTINE notice for port p (R390): a count at 0 enters a notice, further quarantines while it waits add to the
count; a port whose link is not up keeps none. -/
def noteQuarantine (s : State) (p : Port) : State :=
  let h := s.hp p
  if !h.linkUp then s
  else
    let s1 := s.setHp p { h with quarCnt := satInc16 h.quarCnt, quarWait := true }
    if h.quarWait then s1 else postNotice p 0xA3 0 s1

/-! ### Address to unit -/

/-- The entry is the region's. -/
def entryOf (m : Member) (r : BitVec 10) (e : RTab) : Bool := decide (e.orig = m) && decide (e.region = r)

/-- A generation is newer than another; it is a number of 8 bits, of which at most eight are in use at a time (R188). -/
def newerGen (old new : BitVec 8) : Bool := decide (0 < (new - old).toNat) && decide ((new - old).toNat < 128)

/-- Current home and generation of a line: by the relocation table for a line of this domain (R183, R186), by the far relocation cache for
another (R189). -/
def homeNow (s : State) (l : LAddr) : NodeId × BitVec 8 :=
  let h := lineHome l
  if farNode s.node h then
    match s.home.farReloc.find? (fun e => decide (e.1 = domOf h) && decide (e.2.orig = memOf h) && decide (e.2.region = regionOf l)) with
    | some e => (nodeOf (domOf h) e.2.home, e.2.gen)
    | none => (h, 0)
  else
    match s.home.rtab.find? (fun e => decide (e.orig = memOf h) && decide (e.region = regionOf l)) with
    | some e => (nodeOf (domOf h) e.home, e.gen)
    | none => (h, 0)

/-- The policy bit of a line of the domain (R67): 1 marks a write-through region. A byte with a parity error gives the bit of the management
cores' copy, from which it is corrected (R68). -/
def isWt (s : State) (l : LAddr) : Bool :=
  let i := policyIdx (memOf (lineHome l)) (regionOf l)
  let m := if s.node.wtBad.contains (i / 8) then s.node.wtCopy else s.node.wtMap
  m.any (fun c => decide (c.1 = i))

/-- A request meets a bad byte of the region policy map at its admission: it waits while the management cores correct the byte from their copy
(R68). -/
def policyFix (l : LAddr) (s : State) : State :=
  let b := policyIdx (memOf (lineHome l)) (regionOf l) / 8
  let n := s.node
  if !n.wtBad.contains b then s
  else { s with node := { n with
    wtMap := (n.wtCopy.filter (fun c => decide (c.1 / 8 = b))).foldl (fun m c => spIns c.1 c.2 m) (n.wtMap.filter (fun c => decide (c.1 / 8 ≠ b)))
    wtBad := n.wtBad.filter (fun x => decide (x ≠ b)) } }

/-- The slice reads ENABLED (R104). -/
def Slice.enabled (x : Slice) : Bool := !x.draining && !x.disabled

/-- A slice as the unit of a message (R126). -/
def unitOf (i : SliceNo) : BitVec 4 := BitVec.ofNat 4 i.val
/-- The home agent as the unit of a message (R126). -/
def homeUnit : BitVec 4 := 8
/-- The slice a unit names; the slice of the line for another unit. -/
def sliceOfUnit (u : BitVec 4) (l : LAddr) : SliceNo := if h : u.toNat < 8 then ⟨u.toNat, h⟩ else sliceOf l

/-- Offset of a line at its home is beyond the memory the home serves (R20, R183, R333): at or above the installed size
less the guest frames. -/
def beyondMem (s : State) (l : LAddr) : Bool :=
  decide (s.mem.size.toNat ≤ (fld l 0 34).toNat * 64 + s.node.guests * 2 ^ 30)

/-- Home and generation to which a Put of a line goes: the old home of a moving region until its ready notice (R186 step 4). -/
def putHome (s : State) (l : LAddr) : NodeId × BitVec 8 :=
  match s.home.moving.find? (fun e => decide (e.orig = memOf (lineHome l)) && decide (e.region = regionOf l)) with
  | some e => (nodeOf (domOf s.node.node) e.home, e.gen)
  | none => homeNow s l

/-- Count a packet the fabric discards (R314, R327), on the port its route takes. -/
def discardTo (n : NodeId) (s : State) : State :=
  match routePort s.node s.node.node s.node.node n with
  | some f => s.modFp f (fun x => { x with discard := x.discard + 1 })
  | none => s

/-- Send a message: not after the device has fallen silent (R182, R311); held at its source during a pause (R312); discarded
toward a node that is dead or cut (R314). A message between units of this device goes over the NOC, which a stop does not
still; its transactions end with the device. -/
def sendMsg (k : BKind) (m : BMsg) (s : State) : State :=
  if m.dst = s.node.node then s.emit (.msg k m)
  else if s.fabric.stopped then s
  else if isLost s.node s.fabric m.dst then discardTo m.dst s
  else if s.fabric.pause.isSome then { s with fabric := { s.fabric with heldOut := s.fabric.heldOut ++ [.msg k m] } }
  else s.emit (.msg k m)

/-- Send a VC5 message (R182: none after a stop; R312: held during a pause). -/
def sendVc5 (n : NodeId) (m : Vc5) (s : State) : State :=
  if s.fabric.stopped then s
  else if s.fabric.pause.isSome then { s with fabric := { s.fabric with heldOut := s.fabric.heldOut ++ [.vc5 n m] } }
  else s.emit (.vc5 n m)

end Sys2Proof.Machine
end

