-- ==== Sys2Proof/Machine/Flags.lean ====
section
/-! DEFINITION. The fields of the control registers as the part uses them: the masks of the voted fields, the values that
act as others, and the statuses read from them. -/

namespace Sys2Proof.Machine

/-! ### Masks of the /V fields (R416), by register -/

/-- SLC_WAYLOCK.LOCK (R61). -/
def vmWayLock : W32 := 0x7FFF
/-- SLC_WDIS_CTL.THR and AUTO_EN (R63). -/
def vmWdis : W32 := 0x1FF
/-- SLC_CACHE_CTL.EN (R103). -/
def vmCacheCtl : W32 := 1
/-- HPORT_LINK_CTL.MODE (R316). -/
def vmLinkCtl : W32 := 3
/-- HPORT_SNP_CTL.TMO (R146). -/
def vmSnpCtl : W32 := 0xFF00
/-- HOME_LANE_CTL.WIN (R191). -/
def vmLane : W32 := 0xFF
/-- STAMP_PERIOD.PERIOD (R274). -/
def vmPeriod : W32 := 0xFFF
/-- STAMP_WAYS.MASK (R275). -/
def vmStampWays : W32 := 0x7FFF
/-- FPORT_CTL.EN (R324). -/
def vmFport : W32 := 1
/-- INTEG_SCRUB_HBM and _DDR: PERIOD and EN (R372). -/
def vmScrub : W32 := 0x1FF
/-- INTEG_REPAIR_CTL.AUTO and LIVE (R374). -/
def vmRepair : W32 := 3
/-- INTEG_LB_CTL.EN (R376). -/
def vmLb : W32 := 1

/-- A number where 0 acts as 1. -/
def atLeast1 (n : Nat) : Nat := if n = 0 then 1 else n

/-! ### Slice -/

/-- Locked ways (R61). -/
def Slice.lock (x : Slice) : BitVec 15 := fld (x.wayLock.get vmWayLock) 0 15
/-- Corrected-error threshold of a way (R63). -/
def Slice.thr (x : Slice) : Nat := (fld (x.wdisCtl.get vmWdis) 0 8).toNat
/-- Automatic disable enabled (R63). -/
def Slice.autoEn (x : Slice) : Bool := bit (x.wdisCtl.get vmWdis) 8
/-- HINT_EN (R64). -/
def Slice.hintEn (x : Slice) : Bool := bit x.lookupCtl 0
/-- SHADOW_EN (R64). -/
def Slice.shadowEn (x : Slice) : Bool := bit x.lookupCtl 1
/-- SLC_WMB_CTL.HOLD (R105). -/
def Slice.wmbHold (x : Slice) : Nat := (fld x.wmbCtl 0 8).toNat
/-- SLC_WMB_CTL.LOWAT (R105). -/
def Slice.lowat (x : Slice) : Nat := (fld x.wmbCtl 8 7).toNat
/-- SLC_CW_CTL.RSV, values above 0x80 acting as 0x80 (R106). -/
def Slice.rsvCw (x : Slice) : Nat := min (fld x.cwCtl 0 8).toNat 0x80
/-- SLC_RB_CTL.PF_EN (R107). -/
def Slice.pfEn (x : Slice) : Bool := bit x.rbCtl 0
/-- SLC_RB_CTL.MAXOUT, 0 acting as 1 and values above 128 as 128 (R107). -/
def Slice.maxOut (x : Slice) : Nat := min (atLeast1 (fld x.rbCtl 1 8).toNat) 128
/-- SLC_RB_CTL.WASTE_THR (R107). -/
def Slice.wasteThr (x : Slice) : Nat := (fld x.rbCtl 9 10).toNat
/-- SLC_RETRY_CTL.GAP in units of 20 ns, 0 acting as 1 (R195). -/
def Slice.gap (x : Slice) : Nat := atLeast1 (fld x.retryCtl 0 8).toNat
/-- SLC_AMO_CTL.MODE (R227). -/
def Slice.amoMode (x : Slice) : BitVec 2 := fld x.amoCtl 0 2
/-- SLC_AMO_CTL.SAMPLE (R227). -/
def Slice.sample (x : Slice) : Nat := (fld x.amoCtl 2 5).toNat
/-- Entries of the slice transaction table in use: open transactions, and requests that wait there (R37, R72, R76, R84, R449). -/
def Slice.used (x : Slice) : Nat := x.stt.length + x.waiters.length
/-- Entries of the write-merge buffer free, of 128 (R72). -/
def Slice.wmbFree (x : Slice) : Nat := 128 - x.wmb.length
/-- Actions waiting for host answers that will take a Causeway entry. -/
def Slice.cwOwed (x : Slice) : Nat :=
  (x.snpGrps.filter (fun g => match g.act with
    | .evict _ _ _ _ | .evictFor _ _ _ | .ntc _ _ | .apply _ _ _ | .rbMove _ _ (some _) => true
    | _ => false)).length
/-- Entries of the Causeway free, of 192, those owed to waiting evictions set aside (R82). -/
def Slice.cwFree (x : Slice) : Nat := 192 - x.cw.length - x.cwOwed
/-- A free Causeway entry for a demand victim (R84). -/
def Slice.cwDemand (x : Slice) : Bool := decide (0 < x.cwFree)
/-- A free Causeway entry for a walk: more than RSV are free (R84). -/
def Slice.cwWalk (x : Slice) : Bool := decide (x.rsvCw < x.cwFree)

/-! ### Host port -/

/-- HPORT_NTC_CTL.HOLD (R111). -/
def HPort.ntcHold (h : HPort) : Nat := (fld h.ntcCtl 0 8).toNat
/-- HPORT_PF_CTL.EN (R112). -/
def HPort.strideEn (h : HPort) : Bool := bit h.pfCtl 0
/-- HPORT_PF_CTL.DEPTH, 0 acting as 1 (R112). -/
def HPort.depth (h : HPort) : Nat := atLeast1 (fld h.pfCtl 1 4).toNat
/-- HPORT_SNP_CTL.LIMIT in units of 10 ns, 0 acting as 1 (R146). -/
def HPort.limit (h : HPort) : Nat := atLeast1 (fld (h.snpCtl.get vmSnpCtl) 0 8).toNat
/-- HPORT_LINK_CTL.MODE, 0b11 acting as 0b00 (R316). -/
def HPort.mode (h : HPort) : BitVec 2 :=
  let m := fld (h.linkCtl.get vmLinkCtl) 0 2
  if m = 3 then 0 else m
/-- X8_OK (R316). -/
def HPort.x8ok (h : HPort) : Bool := bit (h.linkCtl.get vmLinkCtl) 3
/-- G5_OK (R316). -/
def HPort.g5ok (h : HPort) : Bool := bit (h.linkCtl.get vmLinkCtl) 4
/-- The port is up in CXL mode (R317 PROTO). -/
def HPort.cxl (h : HPort) : Bool := h.proto && h.linkUp

/-! ### Home, stamp unit, arbiters, integrity -/

/-- HOME_LANE_CTL.WIN in units of 100 ns, 0 acting as 1 (R191). -/
def Home.win (h : Home) : Nat := atLeast1 (fld (h.laneCtl.get vmLane) 0 8).toNat
/-- STAMP_WAYS.MASK (R275). -/
def Stamp.mask (x : Stamp) : BitVec 15 := fld (x.ways.get vmStampWays) 0 15
/-- STAMP_PERIOD.PERIOD in units of 10 ns, 0 acting as 1 (R274). -/
def Stamp.periodP (x : Stamp) : Nat := atLeast1 (fld (x.period.get vmPeriod) 0 12).toNat
/-- STAMP_STALL.LIMIT in µs (R276). -/
def Stamp.limit (x : Stamp) : Nat := (fld x.stall 0 16).toNat
/-- The Sluice of port p is closed (R271, R100). -/
def Arb.closed (a : Arb) (p : Port) : Bool := a.allShut || bit a.sluice p.val
/-- WALKHOLD (R272). -/
def Arb.walkHold (a : Arb) : Bool := bit a.sluice 4
/-- INTEG_LB_CTL.EN (R376). -/
def Integ.lbEn (x : Integ) : Bool := bit (x.lbCtl.get vmLb) 0
/-- INTEG_LB_CTL.THR (R376). -/
def Integ.lbThr (x : Integ) : Nat := (fld (x.lbCtl.get vmLb) 1 15).toNat
/-- INTEG_REPAIR_CTL.AUTO (R374). -/
def Integ.repAuto (x : Integ) : Bool := bit (x.repairCtl.get vmRepair) 0
/-- INTEG_REPAIR_CTL.LIVE (R374). -/
def Integ.repLive (x : Integ) : Bool := bit (x.repairCtl.get vmRepair) 1
/-- Eight channels are in use (R333). -/
def Mem.eight (m : Mem) : Bool := decide (m.chan = 0xFF)

/-! ### Completion of a request (R256, R294) -/

/-- One token in the units of the buckets (R257). -/
def tokenUnit : Nat := 3200

/-- A bucket gains tokens and holds at most its depth. -/
def gain (now rate depth : Nat) : Nat := min (now + rate) depth

/-- A miss token comes back to a bucket of depth BURST (R257). -/
def Contract.refund (c : Contract) : Contract := { c with mtok := gain c.mtok tokenUnit (c.burst.toNat * tokenUnit) }

/-- The hop count to a line's home that a bound uses (R254 HOPS). -/
def homeHops (s : State) (l : LAddr) : Nat := hops s.node s.node.node (homeNow s l).1

/-- What a snoop of host port p adds to the bound of the request that waits for it, in ns (R144, R256). -/
def snoopNs (s : State) (p : Port) : Nat := 48 + 10 * (s.hp p).limit

/-- Bound in ns of a contracted request by its category, and what the host snoops of this device and of the others that served it add
(R256, log 16). -/
def boundNs (s : State) (r : Req) : Nat :=
  let l := lineOf r.addr
  let base :=
    if !r.missed then 260
    else if (homeNow s l).1 = s.node.node then (if r.refusals = 0 && !r.cww then 520 else 1120)
    else 520 + 80 * homeHops s l + 600
  base + r.allow + r.peers

/-- Latency in ns of a request completing now: the time base counts 2.5 ns. -/
def latencyNs (s : State) (r : Req) : Nat := (s.gen.time - r.start).toNat * 5 / 2

/-- The far access of a line is one that leaves the domain (R23). -/
def isFar (s : State) (l : LAddr) : Bool := farNode s.node (lineHome l)

/-- The access of a request is done: it no longer orders others (R218). -/
def retireReq (r : Req) (s : State) : State :=
  s.modHp r.port (fun h => { h with accs := h.accs.filter (fun a => !(decide (a.etag = r.etag) && decide (a.seq = r.seq))) })

/-- A contracted request leaves its port: its place is given back, and it is counted when late (R8, R257, R264). An access that crosses a
line is charged and admitted by its first line, and its bound, and the address of the event, are those of the part that completes last:
R256 and R257 do not say which line counts (DESIGN CHOICE, log 74). -/
def endBound (r : Req) (s : State) : State :=
  if r.bound then
    let s1 := s.modHp r.port (fun h => { h with outst := h.outst - 1 })
    if 2 * boundNs s r < (s.gen.time - r.start).toNat * 5 then
      postEvent 0x80 8 [r.addr.setWidth 64, BitVec.ofNat 64 (r.port.val + latencyNs s r * 2 ^ 32)]
        (s1.modHp r.port (fun h => { h with cmiss := h.cmiss + 1 }))
    else s1
  else s

/-- The message that answers a request; a port that is down discards it (R297). -/
def answer (r : Req) (m : ToHost) (s : State) : State := toHost r.port m s

/-- A request of a stamp-mode port is answered non-cacheable (R247). -/
def grantFor (s : State) (r : Req) (g : BitVec 2) : BitVec 2 := if (s.hp r.port).stamped then 0 else g

/-- Complete a request without data (R293). The two parts of an access that crosses a line are answered as one, when both
are performed (R198); a status other than OK in either part is the status of the whole. -/
def complete (r : Req) (st : BitVec 3) (grant : BitVec 2) (cmpeq poison : Bool) (s : State) : State :=
  let s1 := retireReq r s
  let g := grantFor s r grant
  if r.part = 0 then answer r (.cmp r.etag st g cmpeq poison) (endBound r s1)
  else
    let h := s1.hp r.port
    match h.halves.find? (fun c => decide (c.1 = r.etag.toNat)) with
    | none => s1.setHp r.port { h with halves := spIns r.etag.toNat ((0 : Line), st, poison) h.halves }
    | some c => answer r (.cmp r.etag (if c.2.2.1 = stOK then st else c.2.2.1) g cmpeq (poison || c.2.2.2))
        (endBound r (s1.setHp r.port { h with halves := spDel r.etag.toNat h.halves, half := h.half.filter (fun e => decide (e ≠ r.etag)) }))

/-- Complete a request with data: `len` bytes at byte 0 (R293). For the parts of a load that crosses a line, the bytes of
the upper line follow those of the lower; `opB` of each part holds how many bytes the other gives. -/
def completeData (r : Req) (st : BitVec 3) (grant : BitVec 2) (cmpeq poison : Bool) (len : Nat) (d : Line) (s : State) : State :=
  let s1 := retireReq r s
  let g := grantFor s r grant
  if r.part = 0 then answer r (.cmpData r.etag st g cmpeq poison len d) (endBound r s1)
  else
    let h := s1.hp r.port
    let mine : Line := if r.part = 1 then d else d <<< (8 * r.opB.toNat)
    match h.halves.find? (fun c => decide (c.1 = r.etag.toNat)) with
    | none => s1.setHp r.port { h with halves := spIns r.etag.toNat (mine, st, poison) h.halves }
    | some c =>
      answer r (.cmpData r.etag (if c.2.2.1 = stOK then st else c.2.2.1) g cmpeq (poison || c.2.2.2) (r.len + r.opB.toNat)
          (mine ||| c.2.1)) (endBound r (s1.setHp r.port { h with halves := spDel r.etag.toNat h.halves, half := h.half.filter (fun e => decide (e ≠ r.etag)) }))

/-- The operations answered with data (R292, R293). -/
def opReads : Op → Bool
  | .rdShared | .rdOwn | .rdCur | .rsvLoad => true
  | .upgrade | .write | .writeNT | .atomic | .condStore | .pfHint | .exc => false
/-- The operations that store (R217). -/
def opStores : Op → Bool
  | .write | .writeNT | .atomic | .condStore => true
  | .rdShared | .rdOwn | .upgrade | .rdCur | .rsvLoad | .pfHint | .exc => false

/-- Complete a request that cannot be performed (R294): a read receives data, marked poisoned for DEAD (R165, R182). -/
def completeErr (r : Req) (st : BitVec 3) (s : State) : State :=
  if opReads r.op && decide (st = stDEAD) then completeData r st 0 false true r.len 0 s
  else complete r st 0 false false s

/-! ### The input buffers of the fabric ports (R302, R305) -/

/-- Credits a packet takes: its length in units of 16 B. -/
def TxPkt.cost (x : TxPkt) : Nat := (x.hdr.len.toNat + 1) / 2

/-- The packet holds a buffer of port i on the channel c: it is in transit, and no copy of a broadcast, whose buffer is free once it is replicated. -/
def TxPkt.cameBy (x : TxPkt) (i : FPortNo) (c : Nat) : Bool :=
  decide (x.inp = some i) && !x.hdr.bcast && decide (2 * x.hdr.cls.toNat + (if x.inDl then 1 else 0) = c)

/-- What the buffers of input port i hold of a channel: the packets in transit that no output port has taken, and the broadcasts that wait for a
combining entry (R302, R308). -/
def bufferUse (s : State) (i : FPortNo) (c : Nat) : Nat :=
  ((s.fports.toList.map (fun p => ((p.txq.filter (·.cameBy i c)).map (·.cost)).sum))).sum +
    ((s.fabric.bcastQ.filter (fun b => decide (b.1 = some i) && decide (2 + (if b.2.dl then 1 else 0) = c))).map (fun b => (b.2.len.toNat + 1) / 2)).sum

/-- A packet leaves its buffer of input port i, on channel c, while n credits more than the buffers say are held: its credits are owed back to
the neighbour. What the channel holds beyond its 512 B is the pool's, and is returned first (R302, log 97). -/
def bufferFreed (i : FPortNo) (c cost n : Nat) (s : State) : State :=
  let held := bufferUse s i c + n + cost
  let pool := min cost (held - 32)
  if (s.fp i).link = .up ∨ (s.fp i).link = .upMgmt then
    s.modFp i (fun p => { p with owe := p.owe ++ ([(BitVec.ofNat 4 c, cost - pool), (12, pool)].filter (fun d => decide (d.2 ≠ 0))) })
  else s

/-- A packet of another node with this class and length, addressed to this one, has been taken out of its input buffer. -/
def gotPkt (src : NodeId) (cls : Nat) (len : BitVec 7) (s : State) : State :=
  match arrivesBy s.node src with
  | some (i, dl) => bufferFreed i (2 * cls + (if dl then 1 else 0)) ((len.toNat + 1) / 2) 0 s
  | none => s

/-- Length of a VC4 or VC5 packet, which the spec leaves free (log 97). -/
def mgmtWords (s : State) : BitVec 7 := BitVec.ofNat 7 (4 + Config.mgmtLen s.freeCtr % 12)

/-- A VC5 packet of another node has entered the inbound ring (R305). -/
def gotVc5 (src : NodeId) (s : State) : State :=
  if src = s.node.node then s else (gotPkt src 5 (mgmtWords s) s).tick1

/-- A VC4 packet of the neighbour of a port is consumed (R305). -/
def gotVc4 (i : FPortNo) (s : State) : State :=
  (bufferFreed i (8 + (if isWrap s.node s.node.node i then 1 else 0)) (((mgmtWords s).toNat + 1) / 2) 0 s).tick1

/-! ### Stops (R182, R343, R454) -/

/-- The stamp-order guarantee of a group is broken by a cause of R252, numbered in its row order: event and record, which name the group (R5);
at a member device LOST, and notices to the group's ports. -/
def stampLostOf (g : BitVec 6) (cause : Nat) (l : LAddr) (s : State) : State :=
  let s1 := peatEnter (mkRec 0x41 cause (bodyAt 24 g.toNat ||| bodyAt 28 (lineAddr l).toNat)) (postEvent 0x70 7 [g.setWidth 64, BitVec.ofNat 64 cause] s)
  if s.stamp.member && decide (s.stamp.group = g) then
    ({ s1 with stamp := { s1.stamp with lost := true } } : State).each ports (fun s p =>
      if (s.hp p).stamped then postNotice p 0xA2 (g.setWidth 16) s else s)
  else s1

/-- The guarantee of the device's own group is broken by what it has itself detected as a member (R252). -/
def stampLost (cause : Nat) (l : LAddr) (s : State) : State := if s.stamp.member then stampLostOf s.stamp.group cause l s else s

/-- The group whose list names a node. -/
def groupOf (s : State) (n : NodeId) : BitVec 6 :=
  match s.stamp.lists.find? (fun c => c.2.cur.contains n || c.2.next.contains n) with
  | some c => BitVec.ofNat 6 c.1
  | none => s.stamp.group

/-- A line named in a seat or in an open stamped transaction of this home is poisoned or quarantined: a cause of R252 for each group concerned,
which the home detects (R5). -/
def stampHit (l : LAddr) (s : State) : State :=
  let seats := (s.home.seats.filter (fun c => decide (c.2.line = l))).map (·.2.group)
  let txns := (s.home.tt.filter (fun t => decide (t.line = l) && t.claim.isNone && t.req.stamp.isSome)).map (fun t => groupOf s t.req.src)
  s.each (seats ++ txns).dedup (fun s g => stampLostOf g 1 l s)

/-- A stamped access completed with DEAD, or served or refused on poisoned data, breaks the guarantee (R252). -/
def stampCheck (r : Req) (bad : Bool) (s : State) : State :=
  if bad && r.stamp.isSome && (s.hp r.port).stamped then stampLost 1 (lineOf r.addr) s else s

/-- A request completes with DEAD because the device has stopped (R182); a stamped one breaks the guarantee (R252). -/
def completeStop (r : Req) (s : State) : State := stampCheck r true (completeErr r stDEAD s)

/-- Every outstanding host request: waiting in a port or a slice, joined to a fill, or held by an action. -/
def Slice.reqs (x : Slice) : List Req :=
  x.waiters ++ x.stt.flatMap (fun t => t.req.toList ++ t.joined) ++
    x.snpGrps.filterMap (fun g => match g.act with | .host r => some r | .evictFor _ _ r => some r | _ => none)

/-- A barrier that returns a completion returns it with a status (R221, R294); a port that is down discards it (R297). -/
def endBar (p : Port) (b : Bar) (st : BitVec 3) (s : State) : State :=
  toHost p (.cmp (b.etag.setWidth 16) st 0 false false) (s.modHp p (fun h => { h with bars := rmFirst (fun c => decide (c = b)) h.bars }))

/-- Complete every outstanding host request with DEAD, the barriers that await completion among them (R182). -/
def completeAllDead (s : State) : State :=
  let s1 := s.each sliceNos (fun s i =>
    let x := s.sl i
    (s.each x.reqs (fun s r => completeStop r s)).modSl i (fun x =>
      { x with waiters := [], stt := x.stt.map (fun t => { t with req := none, joined := [] }),
               snpGrps := x.snpGrps.filter (fun g => match g.act with | .host _ => false | .evictFor _ _ _ => false | _ => true) }))
  s1.each ports (fun s p =>
    let s2 := s.each (s.hp p).queue (fun s r => completeStop r s)
    let s3 := s2.each ((s2.hp p).bars.filter (fun b => decide (b.kind = 3))) (fun s b => endBar p b stDEAD s)
    s3.modHp p (fun h => { h with queue := [] }))

/-- A STOP record of the writer (R480, R482): cause, phase, unit, index, location. -/
def recStop (cause unit idx loc : Nat) (s : State) : State :=
  peatOwn { type := 0x10, hw := true, cause := BitVec.ofNat 32 cause,
            body := bodyAt 24 (match s.crp.phase with
              | .pll => 0 | .fuses => 1 | .selfTest => 2 | .training => 3 | .fills => 4 | .fwInit => 5 | .links => 6
              | .running => 7 | .warmDrain => 8 | .pfDrain => 9 | .stopped => 10) ||| bodyAt 25 unit ||| bodyAt 26 idx ||| bodyAt 28 loc } s

/-- Fabric transmission stops on every link at once (R311). -/
def stopFabric (s : State) : State := { s with fabric := { s.fabric with stopped := true } }

end Sys2Proof.Machine
end

