-- ==== Sys2Proof/Machine/Arbiter.lean ====
section
/-! DEFINITION. The arbiter of a slice pipeline: requester classes, levels, rotation, aged grants, bursts and the share of walks
(R265 to R270, R280 to R282). -/

namespace Sys2Proof.Machine

/-- The requester classes, in the order that decides between equal levels (R265). -/
inductive Cls | rsp | fwd | hostC | scrub | hostU | walk | pfc
deriving DecidableEq, Repr

/-- A requester present at a decision: its class, the port of a host's request, and the decision at which it began to request. -/
structure Cand where
  cls   : Cls
  port  : Port := 0
  since : Nat := 0
deriving DecidableEq, Repr

/-- The order in which R265 lists the classes. -/
def Cls.rank : Cls → Nat
  | .rsp => 0 | .fwd => 1 | .hostC => 2 | .scrub => 3 | .hostU => 4 | .walk => 5 | .pfc => 6

/-- Level of a class: RSP and FWD stand above every programmable level (R265, R280). -/
def Arb.level (a : Arb) : Cls → Nat
  | .rsp => 9
  | .fwd => 8
  | .hostC => (fld a.prio 0 3).toNat
  | .hostU => (fld a.prio 3 3).toNat
  | .walk => (fld a.prio 6 3).toNat
  | .scrub => (fld a.prio 9 3).toNat
  | .pfc => (fld a.prio 12 3).toNat

/-- ARB_AGE.NTH (R281). -/
def Arb.nth (a : Arb) : Nat := (fld a.age 0 8).toNat
/-- ARB_BURST.HOST, 0 acting as 1 (R282). -/
def Arb.burstMax (a : Arb) : Nat := let n := (fld a.burst 0 5).toNat; if n = 0 then 1 else n

/-- The class is a host's (R268). -/
def Cls.host : Cls → Bool
  | .hostC | .hostU => true
  | .rsp | .fwd | .scrub | .walk | .pfc => false

/-- How far port p stands in the rotation of its class: the port after the one last granted comes first (R266). -/
def Arbiter.turn (x : Arbiter) (c : Cand) : Nat :=
  match c.cls with
  | .hostC => (c.port.val + 3 - x.lastC.val) % 4
  | .hostU => (c.port.val + 3 - x.lastU.val) % 4
  | .rsp | .fwd | .scrub | .walk | .pfc => 0

/-- The first of a list by a measure. -/
def leastBy (f : Cand → Nat) : List Cand → Option Cand
  | [] => none
  | c :: t => match leastBy f t with
    | none => some c
    | some d => if f c ≤ f d then some c else some d

/-- The requester that wins by level, then by the order of the classes, then by the rotation of its class (R265, R266). -/
def Arb.byLevel (a : Arb) (x : Arbiter) (cs : List Cand) : Option Cand :=
  leastBy (fun c => ((9 - a.level c.cls) * 8 + c.cls.rank) * 4 + x.turn c) cs

/-- The requester that has waited longest (R267); equal waits are settled as by level. -/
def Arb.byAge (a : Arb) (x : Arbiter) (cs : List Cand) : Option Cand :=
  (leastBy (·.since) cs).bind (fun c => a.byLevel x (cs.filter (fun d => decide (d.since = c.since))))

/-- The port that keeps the pipeline: it is in a burst, within its limit, and goes on requesting (R268, R269). -/
def Arb.burstOf (a : Arb) (x : Arbiter) (cs : List Cand) : Option Cand :=
  x.burst.bind (fun b => if b.2 < a.burstMax then a.byLevel x (cs.filter (fun c => c.cls.host && decide (c.port = b.1))) else none)

/-- An aged decision is due: the NTH-th since the last, or one that moved (R267). -/
def Arb.agedDue (a : Arb) (x : Arbiter) : Bool := decide (a.nth ≠ 0) && (x.owed || decide (a.nth ≤ x.cnt + 1))

/-- The grant of one decision among the requesters present (R265 to R268); a walk within 16 decisions of its last grant is not considered. -/
def Arb.choose (a : Arb) (x : Arbiter) (cs : List Cand) : Option Cand :=
  let ok := cs.filter (fun c => decide (c.cls ≠ .walk) || decide (15 ≤ x.gap))
  let fixed := ok.filter (fun c => decide (c.cls = .rsp) || decide (c.cls = .fwd))
  if !fixed.isEmpty then a.byLevel x fixed
  else match a.burstOf x ok with
    | some c => some c
    | none => if a.agedDue x then a.byAge x ok else a.byLevel x ok

/-- The aged grant has been made, or nobody was there to take it (R267). -/
def Arb.agedDone (a : Arb) (x : Arbiter) (cs : List Cand) : Bool :=
  a.agedDue x && !cs.any (fun c => decide (c.cls = .rsp) || decide (c.cls = .fwd)) && (a.burstOf x cs).isNone

/-- The arbiter after a decision. A burst that RSP or FWD pre-empts, or whose port does not request, is over (log 10). -/
def Arb.after (a : Arb) (x : Arbiter) (cs : List Cand) (g : Option Cand) : Arbiter :=
  let due := a.agedDue x
  { dec := x.dec + 1
    cnt := if decide (a.nth ≠ 0) && decide (a.nth ≤ x.cnt + 1) then 0 else x.cnt + 1
    owed := due && !a.agedDone x cs
    burst := match g with
      | some c => if c.cls.host then
          (match x.burst with
           | some b => if b.1 = c.port ∧ b.2 < a.burstMax then some (b.1, b.2 + 1) else some (c.port, 1)
           | none => some (c.port, 1))
        else none
      | none => none
    lastC := match g with | some c => if c.cls = .hostC then c.port else x.lastC | none => x.lastC
    lastU := match g with | some c => if c.cls = .hostU then c.port else x.lastU | none => x.lastU
    gap := match g with | some c => if c.cls = .walk then 0 else min (x.gap + 1) 15 | none => min (x.gap + 1) 15
    walkAt := if cs.any (fun c => decide (c.cls = .walk)) then
        (if g.any (fun c => decide (c.cls = .walk)) then some (x.dec + 1) else some (x.walkAt.getD x.dec))
      else none }

/-- The arbiter of slice i. -/
def State.arbiter (s : State) (i : SliceNo) : Arbiter := s.arb.units[i.val]

/-- The performance events of a grant (R494): a pass, one of class HOSTC or WALK, an aged grant. -/
def countPass (i : SliceNo) (g : Option Cand) (aged : Bool) (s : State) : State :=
  match g with
  | none => s
  | some c =>
    let n : Option Nat := some i.val
    let s1 := pmu 0x01 n s
    let s2 := if c.cls = .hostC then pmu 0x02 n s1 else if c.cls = .walk then pmu 0x03 n s1 else s1
    if aged then pmu 0x04 n s2 else s2

/-- One decision in slice i (R266): the grant, and the state with the arbiter moved on. -/
def decideIn (i : SliceNo) (cs : List Cand) (s : State) : Option Cand × State :=
  let x := s.arbiter i
  let g := s.arb.choose x cs
  (g, countPass i g (s.arb.agedDone x cs) { s with arb := { s.arb with units := s.arb.units.set i.val (s.arb.after x cs g) i.isLt } })

end Sys2Proof.Machine
end

