-- ==== Sys2Proof/Machine/Cache.lean ====
section
/-! DEFINITION. The arrays of a slice: tag blocks, tag shadow, way hints, replacement, eligibility, data slots. -/

namespace Sys2Proof.Machine

/-- The first of a list by a measure. -/
def firstBy {α : Type} (f : α → Nat) : List α → Option α
  | [] => none
  | c :: t => match firstBy f t with
    | none => some c
    | some d => if f c ≤ f d then some c else some d

/-- Element i of a vector. -/
def vget {α : Type} {n : Nat} (v : Vector α n) (i : Nat) (d : α) : α := if h : i < n then v[i] else d
/-- Replace element i of a vector. -/
def vset {α : Type} {n : Nat} (v : Vector α n) (i : Nat) (a : α) : Vector α n := if h : i < n then v.set i a h else v

/-! ### Tree-PLRU (R47, R35, R148) -/

/-- The walk of a tree over 2^d leaves from node h, whose leaves start at lo: at each node the node bit is followed, unless
that child covers no eligible leaf; then the other child is taken (R48). Nodes are numbered as in R47. -/
def treeWalk (bits elig : Nat → Bool) : Nat → Nat → Nat → Nat
  | 0, _, lo => lo
  | d + 1, h, lo =>
    let half := 2 ^ d
    let some_ (a : Nat) : Bool := (List.range half).any (fun i => elig (a + i))
    if (if bits h then some_ (lo + half) else !some_ lo) then treeWalk bits elig d (2 * h + 2) (lo + half)
    else treeWalk bits elig d (2 * h + 1) lo

/-- The node bits on the path to leaf i set to point away from it (R49). -/
def treeTouch {w : Nat} : Nat → Nat → Nat → BitVec w → BitVec w
  | 0, _, _, b => b
  | d + 1, h, i, b =>
    if i < 2 ^ d then treeTouch d (2 * h + 1) i (setBit b h true)
    else treeTouch d (2 * h + 2) (i - 2 ^ d) (setBit b h false)

/-! ### Tag blocks, tag slot and shadow -/

/-- The tag block of slot TS. -/
def Slice.tsBlock (x : Slice) (set : Nat) : TagBlock := spGet {} x.tags set
/-- Shadow set of a set index, I[11:0] (R35). -/
def shKey (set : Nat) : Nat := set % 4096
/-- Shadow tag of a set index, I[22:12] (R35). -/
def shTag (set : Nat) : BitVec 11 := BitVec.ofNat 11 (set / 4096)

/-- The shadow entry of a set, by its number; one with bad parity is dropped (R38). -/
def Slice.shEntry (x : Slice) (set : Nat) : Option (Nat × ShEntry) :=
  let q := spGet {} x.shadow (shKey set)
  (q.ents.toList.findIdx? (fun e => e.valid && !e.bad && decide (e.idx = shTag set))).map (fun i => (i, vget q.ents i {}))

/-- A tag block with the ways reserved for open fills of the set in fill pending: what a set without a good shadow entry
reads as (R37, R38). -/
def Slice.reread (x : Slice) (set : Nat) : TagBlock :=
  let b := x.tsBlock set
  x.stt.foldl (fun b t =>
    match t.way with
    | some w =>
      if (setOf t.line).toNat = set then { b with ways := vset b.ways w { tag := tagOf t.line, st := .P } } else b
    | none => b) b

/-- The tag block of a set as a lookup reads it (R36, R42). -/
def Slice.block (x : Slice) (set : Nat) : TagBlock :=
  match x.shEntry set with
  | some e => e.2.block
  | none => x.reread set

/-- A tag word of a set. -/
def Slice.word (x : Slice) (set w : Nat) : TagWord := vget (x.block set).ways w {}

/-- What slot TS holds after a change of tag words: a way in fill pending keeps the earlier word (R36, R37), CSUM follows
the tag words (R34). -/
def tsAfter (old new : TagBlock) : TagBlock :=
  let ws := Vector.zipWith (fun (o n : TagWord) => if n.st = .P then o else n) old.ways new.ways
  { ways := ws, plru := new.plru, csum := csumOf ws }

/-- Slot TS of a set written, with new check symbols (R329, R338). -/
def Slice.writeTS (x : Slice) (set : Nat) (b : TagBlock) : Slice :=
  { x with tags := spSet {} set b x.tags, tsFlaw := spDel set x.tsFlaw }

/-- The set word of a set written to slot TS (R36). -/
def Slice.writePlru (x : Slice) (set : Nat) (p : BitVec 14) : Slice := x.writeTS set { x.tsBlock set with plru := p }

/-- Write changed tag words to slot TS and to the shadow entry (R36). The set word goes with them. An entry is pinned while
it holds a way in fill pending; with SHADOW_EN 0 an entry that unpins is dropped (R37, R64). -/
def Slice.putBlock (x : Slice) (set : Nat) (b : TagBlock) : Slice :=
  let x1 := x.writeTS set (tsAfter (x.tsBlock set) b)
  match x.shEntry set with
  | none => x1
  | some (i, e) =>
    let pin := b.ways.toList.any (fun t => decide (t.st = .P))
    let e1 := { e with block := b, dirty := false, pin := pin, valid := pin || x.shadowEn }
    { x1 with shadow := spMod {} (shKey set) (fun q => { q with ents := vset q.ents i e1 }) x1.shadow }

/-- Write one tag word. -/
def Slice.putWord (x : Slice) (set w : Nat) (t : TagWord) : Slice :=
  let b := x.block set
  x.putBlock set { b with ways := vset b.ways w t }

/-- A change of the PLRU bits alone: in the shadow entry, which becomes PLRU-dirty, or in slot TS when the set has no entry
(R36). -/
def Slice.putPlru (x : Slice) (set : Nat) (p : BitVec 14) : Slice :=
  match x.shEntry set with
  | none => x.writePlru set p
  | some (i, e) =>
    let e1 := { e with block := { e.block with plru := p }, dirty := true }
    { x with shadow := spMod {} (shKey set) (fun q => { q with ents := vset q.ents i e1 }) x.shadow }

/-- PLRU pointed away from way w (R49). -/
def Slice.touchWay (x : Slice) (set w : Nat) : Slice := x.putPlru set (treeTouch 4 0 w (x.block set).plru)

/-- Allocate a shadow entry for a set that has none: the lowest-numbered invalid entry, else the walk among unpinned
entries; `none` when all eight are pinned. A PLRU-dirty entry given up writes its set word to slot TS (R35, R36). An entry with bad parity that the
allocation meets is taken as invalid, so ahead of the walk: the spec does not place it in the choice (DESIGN CHOICE, log 99). -/
def Slice.shAlloc (x : Slice) (set : Nat) : Option Slice :=
  let k := shKey set
  let q := spGet {} x.shadow k
  let es := q.ents.toList
  let free (e : ShEntry) : Bool := !e.valid || e.bad
  let pick : Option Nat :=
    match es.findIdx? free with
    | some i => some i
    | none =>
      if es.all (·.pin) then none
      else some (treeWalk (fun h => bit q.tree h) (fun i => !(vget q.ents i {}).pin) 3 0 0)
  pick.map fun i =>
    let old := vget q.ents i {}
    let x := if old.valid && !old.bad && old.dirty then x.writePlru (old.idx.toNat * 4096 + k) old.block.plru else x
    let b := x.reread set
    let e : ShEntry := { valid := true, idx := shTag set, block := b, pin := b.ways.toList.any (fun t => decide (t.st = .P)) }
    { x with shadow := spSet {} k { ents := vset q.ents i e, tree := treeTouch 3 0 i q.tree } x.shadow }

/-- The set has a shadow entry after this, or all eight entries of its shadow set are pinned (R37). -/
def Slice.ensureShadow (x : Slice) (set : Nat) : Option Slice :=
  match x.shEntry set with
  | some _ => some x
  | none => x.shAlloc set

/-- Index of a line in the way-hint table (R40). -/
def hintIdx (set : Nat) (tag : BitVec 20) : Nat := set % 2 ^ 20 ^^^ tag.toNat

/-! ### Ways -/

/-- Way group WG1 to WG3 powered down, or going down (R55). -/
def Slice.groupDown (x : Slice) (w : Nat) : Bool :=
  let g := wayGroup w
  decide (0 < g) && (bit x.wgOff (g - 1) || bit x.wgDown (g - 1))
/-- The way's group is off (R55 step 5). -/
def Slice.groupOff (x : Slice) (w : Nat) : Bool :=
  let g := wayGroup w
  decide (0 < g) && bit x.wgOff (g - 1)
/-- Disable map of an HBM region (R65). -/
def Slice.disMap (x : Slice) (region : Nat) : BitVec 15 := spGet 0 x.wdis region
/-- The way is disabled in the region, or being cleaned for it (R57 step 1). -/
def Slice.wayDis (x : Slice) (region w : Nat) : Bool :=
  bit (x.disMap region) w ||
    x.walks.any (fun k => match k.kind with | .disable r v _ => decide (r = region) && decide (v = w) | _ => false)

/-- A way takes fills in a region by what does not change from line to line: enabled, powered, unlocked (R48). -/
def Slice.usable (x : Slice) (region w : Nat) : Bool :=
  decide (w < 15) && !x.wayDis region w && !x.groupDown w && !bit x.lock w

/-- Fill-eligible (R48). -/
def Slice.eligible (x : Slice) (set : Nat) (b : TagBlock) (w : Nat) : Bool :=
  x.usable (hbmRegion set) w && decide ((vget b.ways w {}).st ≠ .P)

/-- Fill-eligible for an ordinary fill: on a member device the stamp ways take none (R249), nor while a first join cleans them
(R233). -/
def ordEligible (s : State) (x : Slice) (set : Nat) (b : TagBlock) (w : Nat) : Bool :=
  x.eligible set b w && !((s.stamp.member || s.fw.joining.isSome) && bit s.stamp.mask w)

/-- The line in way w is one that an action or an open transaction of the slice holds: it is no victim (log 17). -/
def Slice.held (x : Slice) (l : LAddr) : Bool :=
  x.stt.any (fun t => decide (t.line = l)) || x.snpGrps.any (fun g => decide (g.line = l))

/-- Choice of the victim of an ordinary fill (R48): the lowest fill-eligible way in I, else the walk. -/
def victim (elig : Nat → Bool) (b : TagBlock) : Option Nat :=
  match (List.range 15).find? (fun w => elig w && decide ((vget b.ways w {}).st = .I)) with
  | some w => some w
  | none => if (List.range 15).any elig then some (treeWalk (fun h => bit b.plru h) (fun w => decide (w < 15) && elig w) 4 0 0)
            else none

/-- The way that holds a line, with its tag word: a way disabled or off never hits (R60), one in I never. -/
def Slice.find (x : Slice) (l : LAddr) : Option (Nat × TagWord) :=
  let set := (setOf l).toNat
  let b := x.block set
  ((List.range 15).find? (fun w =>
      let t := vget b.ways w {}
      decide (t.st ≠ .I) && decide (t.tag = tagOf l) && !bit (x.disMap (hbmRegion set)) w && !x.groupOff w)).map
    (fun w => (w, vget b.ways w {}))

/-- The line held in a way, in the device's domain (R31). -/
def lineIn (s : State) (i : SliceNo) (set : Nat) (t : TagWord) : LAddr :=
  lineBack (domOf s.node.node) i (BitVec.ofNat 23 set) t.tag

/-- The demand lookup of a set (R35, R40, R66): counters, hint, shadow allocation. `hitWay` is the way that hits. `none`: it
needs a new entry and all eight are pinned, so it waits (R37). -/
def Slice.demandLook (x : Slice) (set : Nat) (tag : BitVec 20) (hitWay : Option Nat) : Option Slice :=
  match x.shEntry set with
  | some (i, _) =>
    some { x with shHit := x.shHit + 1
                  shadow := spMod {} (shKey set) (fun q => { q with tree := treeTouch 3 0 i q.tree }) x.shadow }
  | none =>
    let hi := hintIdx set tag
    let cell := spGet { val := 15 } x.hints hi
    let h0 : Nat := if x.hintEn && !cell.bad then cell.val.toNat else 15
    let hint : Nat := if h0 < 15 && !bit (x.disMap (hbmRegion set)) h0 && !x.groupOff h0 then h0 else 15
    let x1 := { x with shMiss := x.shMiss + 1 }
    let x2 := match hitWay with
      | none => x1
      | some w =>
        if hint = w then { x1 with hintOk := x1.hintOk + 1 }
        else { x1 with hintBad := x1.hintBad + 1
                       hints := spSet { val := 15 } hi { val := BitVec.ofNat 4 w } x1.hints }
    if x2.shadowEn then x2.shAlloc set else some x2

/-- The way-hint entry written by a fill (R40). -/
def Slice.hintFill (x : Slice) (set : Nat) (tag : BitVec 20) (w : Nat) : Slice :=
  { x with hints := spSet { val := 15 } (hintIdx set tag) { val := BitVec.ofNat 4 w } x.hints }

/-- A lookup other than a demand lookup that finds a line in way w with no shadow entry for its set: the hint names the way (R40). -/
def Slice.hintSeen (x : Slice) (set : Nat) (tag : BitVec 20) (w : Nat) : Slice :=
  if (x.shEntry set).isSome then x else x.hintFill set tag w

/-- Key of a data slot among the slots of a slice. -/
def slotKey (set w : Nat) : Nat := set * 15 + w
/-- Key of a data slot (`w + 1`) or of slot TS (0) among all HBM slots of the part. -/
def hbmKey (i : SliceNo) (set slot : Nat) : Nat := (i.val * 2 ^ 23 + set) * 16 + slot

/-- Place of a way in the order of the sets (R55). -/
def placeKey (set w : Nat) : Nat := set * 16 + w

/-- Every way of a slice that holds a line, by set and way, in index order. -/
def Slice.held_ (x : Slice) : List (Nat × Nat) :=
  x.tags.flatMap (fun c => ((List.range 15).filter (fun w =>
    let t := vget (x.block c.1).ways w {}
    decide (t.st ≠ .I) && decide (t.st ≠ .P))).map (fun w => (c.1, w)))

/-- SLC_DIRTY.COUNT: ways in M or O (R109). -/
def Slice.dirty (x : Slice) : Nat :=
  (x.held_.filter (fun c => let t := x.word c.1 c.2; decide (t.st = .M) || decide (t.st = .O))).length

/-- The sum of SLC_DIRTY.COUNT (R101). -/
def dirtySum (s : State) : Nat := (s.slices.toList.map Slice.dirty).foldl (· + ·) 0

end Sys2Proof.Machine
end

