-- ==== Sys2Proof/Machine/Codes.lean ====
section
/-! DEFINITION. The codes of the memories: what their decoders find in the symbols of a location, and the bytes a location stores (R329, R330,
R335). -/

namespace Sys2Proof.Machine

/-- What the slot code finds: an error in at most 2 of its 72 symbols is corrected, any other detected (R330; the probability below 2^−40 is
left out, log 12). -/
def slotCode (errs : Sparse Byte) : Cond :=
  if errs.isEmpty then .clean else if errs.length ≤ 2 then .corr (Config.synFold false errs) else .unc

/-- Every symbol in error lies in one device, which carries eight (R335). -/
def oneDevice (errs : Sparse Byte) : Bool := (List.range 10).any (fun d => errs.all (fun c => decide (c.1 / 8 = d)))

/-- What the line code finds in its 80 symbols: at most 6 are corrected by the first pass; an error confined to one device by the second, unless
another device's trial also passes; any other is detected (R335; the probability below 2^−28 is left out, log 12). -/
def lineCode (errs : Sparse Byte) : Cond :=
  if errs.isEmpty then .clean
  else if errs.length ≤ 6 then .corr (Config.synFold true errs)
  else if oneDevice errs && !Config.secondTrial errs then .corr (Config.synFold true errs)
  else .unc

/-- Bits that flip in symbols of a location of n symbols, added to what is wrong there. -/
def Flaw.hit (n : Nat) (es : List (BitVec 7 × Byte)) (sv : Sev) (x : Flaw) : Flaw :=
  { errs := (es.filter (fun e => decide (e.1.toNat < n))).foldl (fun m e => spMod 0 e.1.toNat (fun b => b ^^^ e.2) m) x.errs, sev := sv }

/-- The symbols in error of a location, as a word of its bytes in their order. -/
def errWord (n : Nat) (errs : Sparse Byte) : BitVec n := errs.foldl (fun b c => b ^^^ (c.2.setWidth n).shiftLeft (8 * c.1)) 0

/-- The 72 B of a data slot as stored: line, OSN, check symbols, and what is wrong with them (R329). -/
def Slot.stored (d : Slot) (x : Flaw) : BitVec 576 :=
  let info : BitVec 528 := (0 : BitVec 4) ++ d.osn ++ d.data
  (Config.slotCheck info ++ info) ^^^ errWord 576 x.errs

/-- The 72 B of a slot TS as stored: tag block, zero metadata, check symbols, and what is wrong with them (R32, R34, R329). -/
def TagBlock.stored (b : TagBlock) (x : Flaw) : BitVec 576 :=
  let words := b.ways.toList.map packTag ++ [packSetWord b]
  let info : BitVec 528 := words.reverse.foldl (fun v w => v.shiftLeft 32 ||| w.setWidth 528) 0
  (Config.slotCheck info ++ info) ^^^ errWord 576 x.errs

/-- The 80 B of a DDR5 line as stored: data, directory word, check symbols, and what is wrong with them (R335). -/
def DLine.stored (d : DLine) (x : Flaw) : BitVec 640 :=
  let info : BitVec 544 := d.word ++ d.data
  (Config.lineCheck info ++ info) ^^^ errWord 640 x.errs

end Sys2Proof.Machine
end

