-- ==== Sys2Proof/Machine/Reads.lean ====
section
/-! DEFINITION. Reads and writes of HBM slots and DDR5 lines with what their codes find: corrections, the correction
history, repair, way disable, poison, quarantine; and the stops. -/

namespace Sys2Proof.Machine

/-! ### Stops -/

/-- A stop of R454: the fabric falls silent, every outstanding host request completes with DEAD, the cause is kept, a STOP
record is written, and with ARM_STOP the clocks stop first (R182, R343, R456, R489). On a frozen die only the AON domain acts. -/
def stopAt (aonCause : BitVec 3) (cause : Nat) (idx loc : Nat) (s : State) : State :=
  if s.fabric.selfDead then s
  else
    let s0 := recStop cause 0 idx loc { s with aon := { s.aon with cause := aonCause, stopHeld := true } }
    if s.dbg.frozen then s0
    else if bit (s.dbg.frzCtl.get 0xE) 2 then freezeDie 4 (BitVec.ofNat 8 cause) s0
    else
      let s1 := stopFabric s0
      let s2 := { s1 with fabric := { s1.fabric with selfDead := true }, crp := { s1.crp with phase := .stopped } }
      completeAllDead s2

/-- A stop with no index to record. -/
def stopDevice (aonCause : BitVec 3) (cause : Nat) (loc : Nat) (s : State) : State := stopAt aonCause cause 0 loc s

/-- Integrity stop (R343). -/
def integrityStop (loc : Nat) (s : State) : State := stopDevice 4 1 loc s

/-! ### DDR5 lines and write queues (R336, R361 to R364) -/

/-- The location of a DRAM row in events and records: LOC, with MEM in bit 31 (R398). -/
def locWord (ddr : Bool) (loc : BitVec 28) : Nat := loc.toNat + if ddr then 2 ^ 31 else 0

/-- DDR5 DRAM row of a frame line (R346). -/
def ddrRow (s : State) (f : Nat) : BitVec 28 := ddrLoc s.mem.eight s.mem.ranks2 (BitVec.ofNat 34 f)

/-- Frame line of a line that this device serves: its offset, or the guest frame its region lies in; guest frame g is at
the top of the installed size (R148, R183). -/
def frameOf (s : State) (l : LAddr) : Nat :=
  let off := (fld l 0 34).toNat
  let h := lineHome l
  if h = s.node.node then off
  else
    match s.home.frames.findIdx? (fun f => decide (f = some (memOf h, regionOf l))) with
    | some g => (s.mem.size.toNat / 2 ^ 30 - 1 - g) * 2 ^ 24 + off % 2 ^ 24
    | none => off

/-- The first line of a region of this domain (R19). -/
def regionLine (s : State) (orig : Member) (region : BitVec 10) : LAddr :=
  nodeOf (domOf s.node.node) orig ++ (region ++ (0 : BitVec 24))

/-- The 2 MiB block of a frame line. -/
def blockOf (f : Nat) : Nat := f / 2 ^ 15

/-- The block has been filled: below the fill frame, or by a fill slot (R361, R363). -/
def Mem.isFilled (m : Mem) (blk : Nat) : Bool := decide (blk < m.fillBlk) || m.fillMap.contains blk

/-- Blocks of the installed size. -/
def ddrBlocks (s : State) : Nat := s.mem.size.toNat / 2 ^ 21

/-- The block of a frame line can take a write into DRAM: it is filled, or has a fill slot (R363). -/
def Mem.open_ (m : Mem) (f : Nat) : Bool := m.isFilled (blockOf f) || m.fillSlots.any (fun c => decide (c.1 = blockOf f))

/-- The line of a frame as the write queue, DRAM and the fill slots give it (R336, R362 to R364). -/
def ddrGet (s : State) (f : Nat) : DLine :=
  let m := s.mem
  match m.wq.reverse.find? (fun c => decide (c.1 = f)) with
  | some c => c.2
  | none =>
    let blk := blockOf f
    if m.isFilled blk then spGet {} m.ddr f
    else match m.fillSlots.find? (fun c => decide (c.1 = blk)) with
      | some c => if c.2.contains (f % 2 ^ 15) then spGet {} m.ddr f else {}
      | none => {}

/-- A read of a frame line goes to DRAM: it is not served from the write queue, nor by R362. -/
def inDram (s : State) (f : Nat) : Bool :=
  let m := s.mem
  !m.wq.any (fun c => decide (c.1 = f)) &&
    (m.isFilled (blockOf f) || m.fillSlots.any (fun c => decide (c.1 = blockOf f) && c.2.contains (f % 2 ^ 15)))

/-- What the line code finds in a frame line that is read (R335). -/
def ddrCond (s : State) (f : Nat) : Cond := if inDram s f then lineCode (spGet {} s.mem.ddrFlaw f).errs else .clean

/-- A line written to DRAM, with new check symbols; in a block not yet filled, its bit in the fill slot is set (R338, R363). -/
def Mem.toDram (m : Mem) (f : Nat) (d : DLine) : Mem :=
  let blk := blockOf f
  { m with ddr := spSet {} f d m.ddr, ddrFlaw := spDel f m.ddrFlaw
           fillSlots := m.fillSlots.map (fun c => if c.1 = blk ∧ !c.2.contains (f % 2 ^ 15) then (c.1, c.2 ++ [f % 2 ^ 15]) else c) }

/-- Channel of a frame line (R334). -/
def chanOf (s : State) (f : Nat) : Nat := (ddrChannel s.mem.eight (BitVec.ofNat 34 f)).toNat

/-- The oldest write of a channel's queue that no fill slot holds back reaches DRAM: so the writes of a line come in the order accepted (R336,
R364). -/
def drainOne (ch : Nat) (s : State) : State :=
  let go (c : Nat × DLine) : Bool := decide (chanOf s c.1 = ch) && s.mem.open_ c.1
  match s.mem.wq.find? go with
  | none => s
  | some c => pmu 0x42 (some ch) { s with mem := { s.mem with wq := rmFirst go s.mem.wq }.toDram c.1 c.2 }

/-- Every write of the queues reaches DRAM (R336, R472). -/
def drainAll (s : State) : State :=
  s.mem.wq.foldl (fun s c => pmu 0x42 (some (chanOf s c.1)) { s with mem := s.mem.toDram c.1 c.2 }) { s with mem := { s.mem with wq := [] } }

/-- The fill frame moves over every block that is filled, and the end of the installed size completes the fill (R361). -/
def fillAdvance (s : State) : State :=
  let m := s.mem
  let b := (List.range (m.fillMap.length + 1)).foldl (fun b _ => if m.fillMap.contains b then b + 1 else b) m.fillBlk
  { s with mem := { m with fillBlk := b, fillMap := m.fillMap.filter (fun c => decide (b ≤ c)), filled := m.filled || decide (ddrBlocks s ≤ b) }
           aon := { s.aon with fillBlk := BitVec.ofNat 20 b } }

/-- The oldest fill slot's block is done: its map bit is set and the slot is freed (R363). -/
def slotDone (blk : Nat) (s : State) : State :=
  let m := s.mem
  match m.fillSlots with
  | [] => s
  | c :: t => if c.1 = blk then fillAdvance { s with mem := { m with fillMap := blk :: m.fillMap, fillSlots := t } } else s

/-- The block of a frame line takes a fill slot, when it is not filled, has none and one is free (R363). -/
def takeSlot (f : Nat) (s : State) : State :=
  if s.mem.open_ f || decide (16 ≤ s.mem.fillSlots.length) then s
  else { s with mem := { s.mem with fillSlots := s.mem.fillSlots ++ [(blockOf f, [])] } }

/-- Lines that a channel's queue holds. -/
def queued (s : State) (ch : Nat) : Nat := (s.mem.wq.filter (fun c => decide (chanOf s c.1 = ch))).length

/-- Space in a channel's queue of 256 lines: a write waits until its oldest has reached DRAM; where all wait for fill slots, until the oldest
slot's block is done (R336, R364; log 27). -/
def makeRoom (ch : Nat) (s : State) : State :=
  if queued s ch < 256 then s
  else
    let s1 := drainOne ch s
    if queued s1 ch < 256 then s1
    else
      let s2 := match s1.mem.fillSlots with
        | c :: _ => slotDone c.1 s1
        | [] => s1
      drainOne ch (match s2.mem.wq.find? (fun c => decide (chanOf s2 c.1 = ch) && !s2.mem.open_ c.1) with
        | some c => takeSlot c.1 s2
        | none => s2)

/-- A line accepted into the write queue of its channel; in a block not yet filled it takes a fill slot for it, or is held while all sixteen are busy
(R336, R363, R364). -/
def ddrQueue (f : Nat) (d : DLine) (s : State) : State :=
  let s1 := takeSlot f (makeRoom (chanOf s f) s)
  { s1 with mem := { s1.mem with wq := s1.mem.wq ++ [(f, d)] } }

/-- Write a frame line: its page is marked while its region is being moved away (R186 step 2), and it is accepted (R336). -/
def ddrPut (f : Nat) (d : DLine) (s : State) : State :=
  let here (r : Reloc) : Bool := r.giving && decide (f / 2 ^ 24 = frameOf s (regionLine s r.orig r.region) / 2 ^ 24)
  let mark (r : Reloc) : Reloc := if here r && !r.marks.contains (f / 64) then { r with marks := r.marks ++ [f / 64] } else r
  ddrQueue f d (if s.home.relocs.any here then { s with home := { s.home with relocs := s.home.relocs.map mark } } else s)

/-- The line of a frame line of this device: its own, or one of the region the guest frame holds (R148, R183). -/
def lineOfFrame (s : State) (f : Nat) : LAddr :=
  let g := s.mem.size.toNat / 2 ^ 30 - 1 - f / 2 ^ 24
  match (if f / 2 ^ 24 + 1 ≤ s.mem.size.toNat / 2 ^ 30 then s.home.frames.getD g none else none) with
  | some x => nodeOf (domOf s.node.node) x.1 ++ (x.2 ++ BitVec.ofNat 24 (f % 2 ^ 24))
  | none => s.node.node ++ BitVec.ofNat 34 f

/-- Set of a frame line in the directory cache, F[22:6] ^ F[39:23] (R148). -/
def dirSetIdx (f : Nat) : Nat := f % 2 ^ 17 ^^^ f / 2 ^ 17 % 2 ^ 17
/-- Tag of a frame line in the directory cache, F[39:23] (R148). -/
def dirTag (f : Nat) : BitVec 17 := BitVec.ofNat 17 (f / 2 ^ 17)
/-- The directory cache no longer holds a frame line. -/
def dirDrop (f : Nat) (s : State) : State :=
  let drop (e : Option DirEnt) : Option DirEnt := if e.any (fun x => decide (x.tag = dirTag f)) then none else e
  s.modHome (fun h => { h with dir := spMod {} (dirSetIdx f) (fun q => { q with ents := q.ents.map drop }) h.dir })

/-- Quarantine of a line (R155): zero data, word QU with poison, event, record, notices. -/
def quarantine (l : LAddr) (f : Nat) (s : State) : State :=
  let s1 := dirDrop f (ddrPut f { data := 0, word := packWord { st := .QU, poison := true } } s)
  let s2 := { s1 with integ := { s1.integ with dunc := s1.integ.dunc + 1 } }
  let loc := locWord true (ddrRow s f)
  let s3 := recLine 2 l loc 0 (evQuarantine l (postEvent 0x20 2 [BitVec.ofNat 64 loc, (lineAddr l).setWidth 64] s2))
  stampHit l (s3.each ports noteQuarantine)

/-! ### HBM locations -/

/-- HBM DRAM row of a slot (R346). -/
def slotRow (i : SliceNo) (set slot : Nat) : BitVec 28 := hbmLoc i (BitVec.ofNat 23 set) (slot / 4)

/-- What the code of a data slot finds (R330). -/
def Slice.slotCond (x : Slice) (set w : Nat) : Cond := slotCode (spGet {} x.slotFlaw (slotKey set w)).errs
/-- What the code of slot TS of a set finds (R330). -/
def Slice.tsCond (x : Slice) (set : Nat) : Cond := slotCode (spGet {} x.tsFlaw set).errs
/-- A data slot rewritten with corrected data, and new check symbols (R338). -/
def Slice.mendSlot (x : Slice) (set w : Nat) : Slice := { x with slotFlaw := spDel (slotKey set w) x.slotFlaw }
/-- Slot TS of a set rewritten by a corrected copy: a set held in the shadow from there (R39, R338). -/
def Slice.mendTS (x : Slice) (set : Nat) : Slice :=
  match x.shEntry set with
  | some (_, e) => x.putBlock set e.block
  | none => x.writeTS set (x.tsBlock set)

/-- A way holds a line in a set. -/
def Slice.holds (x : Slice) (set w : Nat) : Bool := decide ((x.word set w).st ≠ .I) && decide ((x.word set w).st ≠ .P)

/-- A pass of class SCRUB, which writes a corrected copy or a POISON bit in HBM (R341, R342). -/
def scrubPass (i : SliceNo) (s : State) : State := (decideIn i [{ cls := .scrub, since := (s.arbiter i).dec }] s).2

/-- A slot TS that is lost is counted and posted, and stops the device (R342, R343, R359, R379). -/
def tsLost (i : SliceNo) (set : Nat) (s : State) : State :=
  let loc := locWord false (slotRow i set 0)
  let s1 := { s with integ := { s.integ with hunc := s.integ.hunc + 1 } }
  integrityStop loc (postEvent 0x20 2 [BitVec.ofNat 64 (loc + i.val * 2 ^ 40), 0] s1)

/-- A data slot of a valid way is beyond correction: counted, posted and recorded once, and POISON set by a pass of class SCRUB (R342, R359). -/
def slotLost (i : SliceNo) (set w : Nat) (s : State) : State :=
  let t := (s.sl i).word set w
  let l := lineIn s i set t
  let loc := locWord false (slotRow i set (w + 1))
  let s1 := { s with integ := { s.integ with hunc := s.integ.hunc + 1 } }
  let s2 := recLine 3 l loc 0 (postEvent 0x20 2 [BitVec.ofNat 64 (loc + i.val * 2 ^ 40), (lineAddr l).setWidth 64] s1)
  (scrubPass i s2).modSl i (fun x => x.putWord set w { t with poison := true })

/-! ### Correction history and repair -/

/-- History rows in their order of age, valid and with good parity (R346: a row with bad parity is cleared). -/
def Integ.rows (x : Integ) : Sparse HistRow := x.hist.filter (fun c => !c.2.bad)

/-- The lowest free row number of the history, of 1,024. -/
def freeRow (h : Sparse HistRow) : Option Nat := (List.range 1024).find? (fun n => !h.any (fun c => decide (c.1 = n)))

/-- REPAIR event (R398): 0 requested, 1 applied, 2 exhausted, 3 map full. -/
def evRepair (what loc : Nat) (s : State) : State := postEvent 0x22 2 [BitVec.ofNat 64 (what + loc * 2 ^ 32)] s

/-- Location word of a repair map entry (R398, R482). -/
def RepLoc.loc : RepLoc → Nat
  | .hbm l => locWord false l
  | .ddr l => locWord true l
  | .array i => i.toNat

/-- An on-die array row. -/
def RepLoc.onDie : RepLoc → Bool
  | .array _ => true
  | .hbm _ | .ddr _ => false

/-- A live repair may begin (R351): it is allowed, none runs, no host port holds a contract, one under release included, and no share is
held. -/
def mayLive (s : State) : Bool :=
  s.integ.repLive && s.integ.live.isNone && ports.all (fun p => !(s.hp p).ctr.valid && !(s.hp p).ctrRel) && s.home.shares.isEmpty

/-- The word of a repair map entry's content that the part's own layout gives is the one read: what software wrote there is overwritten. -/
def rawDel (n : Nat) (m : Sparse W32) : Sparse W32 := spDel (2 * n) (spDel (2 * n + 1) m)

/-- The entry of a row changes its state (R350, R351). -/
def repState (r : RepLoc) (st : RepSt) (s : State) : State :=
  let x := s.integ
  { s with integ := { x with
      repMap := x.repMap.map (fun e => if e.loc = r then { e with st := st } else e)
      repRaw := (x.repMap.filter (fun e => decide (e.loc = r))).foldl (fun m e => rawDel e.no m) x.repRaw } }

/-- A row takes the lowest entry of the repair map that is not in use, as pending (R350). -/
def repNew (r : RepLoc) (s : State) : State :=
  let x := s.integ
  match (List.range 4096).find? (fun n => !x.repMap.any (fun e => decide (e.no = n))) with
  | some n => { s with integ := { x with repMap := x.repMap ++ [⟨n, r, .pending⟩], repRaw := rawDel n x.repRaw } }
  | none => s

/-- A new repair finds the field repair map full: it is not recorded, and an event and a record say so (R350). -/
def mapIsFull (r : RepLoc) (s : State) : State := peatEnter (mkRec 0x32 1 (bodyAt 24 r.loc)) (evRepair 3 r.loc s)

/-- A row enters the field repair map as pending: in its entry, where it has one whose repair is applied or had no spare, else in a new one, unless the
map is full (R348, R350); a DRAM row is repaired live where it may be (R351). -/
def enterMap (r : RepLoc) (s : State) : State :=
  let x := s.integ
  let live := if mayLive s && !r.onDie then some r else x.live
  match x.repMap.find? (fun m => decide (m.loc = r)) with
  | some m => if m.st = .pending then s else repState r .pending { s with integ := { x with live := live } }
  | none =>
    if 4096 ≤ x.repMap.length then mapIsFull r s
    else repNew r { s with integ := { x with live := live } }

/-- A repair of a DRAM row is requested (R348). -/
def requestRepair (ddr : Bool) (loc : BitVec 28) (s : State) : State :=
  enterMap (if ddr then .ddr loc else .hbm loc) (if s.integ.lbEn then s else evRepair 0 (locWord ddr loc) s)

/-- The data slots of an HBM DRAM row in which something is wrong, by slice, set and way. -/
def rowSlots (loc : BitVec 28) (s : State) : List (SliceNo × Nat × Nat) :=
  sliceNos.flatMap (fun i => ((s.sl i).slotFlaw.map (fun c => (i, c.1 / 15, c.1 % 15))).filter (fun c =>
    decide (slotRow i c.2.1 (c.2.2 + 1) = loc)))
/-- The tag slots of an HBM DRAM row in which something is wrong. -/
def rowTags (loc : BitVec 28) (s : State) : List (SliceNo × Nat) :=
  sliceNos.flatMap (fun i => ((s.sl i).tsFlaw.map (fun c => (i, c.1))).filter (fun c => decide (slotRow i c.2 0 = loc)))
/-- The lines of a DDR5 DRAM row in which something is wrong. -/
def rowLines (loc : BitVec 28) (s : State) : List Nat := (s.mem.ddrFlaw.map (·.1)).filter (fun f => decide (ddrRow s f = loc))

/-- A data slot is read, corrected and rewritten with its row; one of an invalid way is left out, one beyond correction is lost (R341, R342, R347). -/
def mendRowSlot (i : SliceNo) (set w : Nat) (s : State) : State :=
  let x := s.sl i
  match x.slotCond set w with
  | .clean => s
  | .corr _ => if x.holds set w then (scrubPass i s).modSl i (fun x => x.mendSlot set w) else s
  | .unc => if x.holds set w && !(x.word set w).poison then slotLost i set w s else s

/-- Slot TS of a set is read, corrected and rewritten with its row (R39, R341, R342, R347). -/
def mendRowTS (i : SliceNo) (set : Nat) (s : State) : State :=
  let x := s.sl i
  match x.tsCond set with
  | .clean => s
  | .corr _ => (scrubPass i s).modSl i (fun x => x.mendTS set)
  | .unc => if (x.shEntry set).isSome then (scrubPass i s).modSl i (fun x => x.mendTS set) else tsLost i set s

/-- A DDR5 line is read, corrected and rewritten with its row (R341, R342, R347). -/
def mendRowLine (f : Nat) (s : State) : State :=
  match ddrCond s f with
  | .clean => s
  | .corr _ => ddrQueue f (ddrGet s f) s
  | .unc => quarantine (lineOfFrame s f) f s

/-- Every valid slot or every line of a DRAM row is read, corrected and rewritten. What is corrected so is no counted correction of its own (DESIGN
CHOICE, log 109). -/
def rewriteRow (ddr : Bool) (loc : BitVec 28) (s : State) : State :=
  if ddr then s.each (rowLines loc s) (fun s f => mendRowLine f s)
  else (s.each (rowTags loc s) (fun s c => mendRowTS c.1 c.2 s)).each (rowSlots loc s) (fun s c => mendRowSlot c.1 c.2.1 c.2.2 s)

/-- Row writeback (R347). -/
def rowWriteback (ddr : Bool) (loc : BitVec 28) (row : HistRow) (s : State) : State :=
  let s1 := rewriteRow ddr loc s
  let s2 := { s1 with integ := { s1.integ with rowWb := s1.integ.rowWb + 1 } }
  if s.integ.lbEn then s2 else postEvent 0x21 2 [packHist row] s2

/-- One unit added to the leaky bucket, in its mode (R360). -/
def bucketAdd (s : State) : State :=
  let x := s.integ
  if x.lbEn then
    let lv := satInc16 x.level
    let ovr := decide (x.lbThr < lv.toNat)
    let s1 := { s with integ := { x with level := lv, overThr := x.overThr || ovr } }
    if ovr && (!x.overThr || decide (x.level.toNat ≤ x.lbThr)) then postEvent 0x25 2 [lv.setWidth 64] s1 else s1
  else s

/-- An error in an on-die buffer is corrected: counted in INTEG_BUFCOR and in the leaky bucket (R357, R360). So is one of the tag shadow, which
R38 counts as corrected without naming a counter (DESIGN CHOICE, log 86). -/
def bufCorrected (s : State) : State := bucketAdd { s with integ := { s.integ with bufCor := s.integ.bufCor + 1 } }

/-- Record a counted correction in the history (R347 to R349). -/
def histCount (ddr : Bool) (loc : BitVec 28) (line : BitVec 8) (syn : BitVec 16) (s : State) : State :=
  let x := { s.integ with hist := s.integ.rows }
  let s := { s with integ := x }
  match x.hist.find? (fun c => decide (c.2.ddr = ddr) && decide (c.2.loc = loc)) with
  | some (n, r) =>
    if r.wb then
      if x.repAuto then
        requestRepair ddr loc { s with integ := { x with hist := spIns n { r with repairq := true, count := 0, line := line, syn := syn, rw := false } x.hist } }
      else s
    else
      let r1 := { r with count := r.count + 1, line := line, syn := syn, rw := false }
      if r1.count = 3 then
        let r2 := { r1 with count := 0, wb := true }
        rowWriteback ddr loc r2 { s with integ := { x with hist := spIns n r2 x.hist } }
      else { s with integ := { x with hist := spIns n r1 x.hist } }
  | none =>
    let r : HistRow := { ddr := ddr, loc := loc, count := 1, wb := false, repairq := false, line := line, syn := syn,
                         carry := false, rw := false, born := s.seqNo }
    let s0 := { s with seqNo := s.seqNo + 1 }
    match freeRow x.hist with
    | some n => { s0 with integ := { x with hist := spIns n r x.hist } }
    | none =>
      let old := x.hist.filter (fun c => decide (c.2.count = 1) && !c.2.wb && !c.2.repairq)
      match old with
      | [] =>
        let s1 := { s0 with integ := { x with chtOvfC := x.chtOvfC + 1, ovf := true, ovfPosted := true } }
        if x.ovfPosted then s1 else postEvent 0x23 2 [0] s1
      | o :: t =>
        let best := t.foldl (fun a c => if c.2.born < a.2.born then c else a) o
        { s0 with integ := { x with hist := spIns best.1 r x.hist } }

/-- The correction at a place repeats the one its row last recorded, not yet rewritten (R340). -/
def isRepeat (s : State) (ddr : Bool) (loc : BitVec 28) (line : BitVec 8) (syn : BitVec 16) : Bool :=
  s.integ.rows.any (fun c => decide (c.2.ddr = ddr) && decide (c.2.loc = loc) && decide (c.2.line = line) &&
    decide (c.2.syn = syn) && !c.2.rw)

/-- A repeat sighting counted, and RW set (R340). -/
def noteRepeat (ddr : Bool) (loc : BitVec 28) (s : State) : State :=
  { s with integ := { s.integ with
      repeat_ := s.integ.repeat_ + 1
      hist := s.integ.hist.map (fun c => if c.2.ddr = ddr ∧ c.2.loc = loc then (c.1, { c.2 with rw := true }) else c) } }

/-- A counted correction (R339). -/
def counted (ddr : Bool) (loc : BitVec 28) (line : BitVec 8) (syn : BitVec 16) (s : State) : State :=
  let x := s.integ
  histCount ddr loc line syn (bucketAdd { s with integ := if ddr then { x with dcor := x.dcor + 1 } else { x with hcor := x.hcor + 1 } })

/-! ### Way disable -/

/-- W0 of the events of classes CACHE and DISABLE_CLEARED (R398). A count above 255 fills its field (DESIGN CHOICE, log 75). -/
def wayW0 (i : SliceNo) (region w cnt : Nat) : W64 :=
  BitVec.ofNat 64 (i.val + region * 2 ^ 3 + w * 2 ^ 9 + min cnt 255 * 2 ^ 13)

/-- A WAY record (R482): 1 disabled, 2 exhausted. -/
def recWay (cause : Nat) (i : SliceNo) (region w cnt : Nat) (s : State) : State :=
  peatEnter (mkRec 0x31 cause (bodyAt 24 i.val ||| bodyAt 25 region ||| bodyAt 26 w ||| bodyAt 27 (min cnt 255))) s

/-- A way's corrected errors exceed THR: the clean of the way in the region begins, unless it would leave the region without
a fill-eligible way, or without a stamp way on a member device (R57, R58, R250). The event and the record of a region that can give up no way
come again at each further counted correction above THR: the spec does not say whether they come once (DESIGN CHOICE, log 75). -/
def disableStart (i : SliceNo) (region w cnt : Nat) (s : State) : State :=
  let x := s.sl i
  let isStamp := s.stamp.member && bit s.stamp.mask w
  let rest (p : Nat → Bool) : Bool := (List.range 15).any (fun v => decide (v ≠ w) && x.usable region v && p v)
  if x.wayDis region w then s
  else if !rest (fun _ => true) || (isStamp && !rest (fun v => bit s.stamp.mask v)) then
    recWay 2 i region w cnt (postEvent 0x31 3 [wayW0 i region w 0] s)
  else
    let s1 := s.modSl i (fun x => { x with walks := x.walks ++ [⟨.disable region w cnt, 0⟩] })
    if isStamp then stampLost 4 0 s1 else s1

/-- A counted correction of a data slot counts toward its way (R57). -/
def countWay (i : SliceNo) (set w : Nat) (s : State) : State :=
  let region := hbmRegion set
  let x := s.sl i
  let k := region * 15 + w
  let n := spGet 0 x.corCnt k + 1
  let s1 := s.setSl i { x with corCnt := spSet 0 k n x.corCnt }
  if x.autoEn && decide (x.thr < n) then disableStart i region w n s1 else s1

/-! ### HBM slots -/

/-- The stack's severity report recorded (R331, R368). One of an error that the slot code does not see is a counted correction of the row, with no
syndrome: SYN is 0 (DESIGN CHOICE, log 12). -/
def recordSev (i : SliceNo) (set slot : Nat) (sv : Sev) (clean : Bool) (s : State) : State :=
  let st := set % 4
  match sv with
  | .none_ => s
  | .cor => { s with mem := { s.mem with sevCor := vset s.mem.sevCor st (vget s.mem.sevCor st 0 + 1) } }
  | .unc =>
    let s1 := { s with mem := { s.mem with sevUnc := vset s.mem.sevUnc st (vget s.mem.sevUnc st 0 + 1) } }
    if clean then
      let s2 := counted false (slotRow i set slot) (hbmRowSlot (BitVec.ofNat 23 set) slot) 0 s1
      if slot = 0 then s2 else countWay i set (slot - 1) s2
    else s1

/-- The row of a set is opened in its stack (R494 event 0x40): once for an operation on the set, whose tags and data share it (DESIGN CHOICE, log
104). -/
def rowOpen (set : Nat) (s : State) : State := pmu 0x40 (some (set % 4)) s

/-- Read the data slot of a valid way: its content, whether it is served poisoned, and what the read records (R331, R338,
R340, R342). -/
def readSlot (i : SliceNo) (set w : Nat) (s : State) : Slot × Bool × State :=
  let x := s.sl i
  let t := x.word set w
  let d := spGet {} x.slots (slotKey set w)
  let c := x.slotCond set w
  let s1 := recordSev i set (w + 1) (spGet {} x.slotFlaw (slotKey set w)).sev (decide (c = .clean)) (rowOpen set s)
  match c with
  | .clean => (d, t.poison, s1)
  | .corr syn =>
    let loc := slotRow i set (w + 1)
    let ln := hbmRowSlot (BitVec.ofNat 23 set) (w + 1)
    if isRepeat s1 false loc ln syn then
      (d, t.poison, noteRepeat false loc ((scrubPass i s1).modSl i (fun x => x.mendSlot set w)))
    else (d, t.poison, countWay i set w (counted false loc ln syn s1))
  | .unc => (d, true, if t.poison then s1 else slotLost i set w s1)

/-- Write a data slot with new check bits (R329, R338). -/
def writeSlot (i : SliceNo) (set w : Nat) (d : Slot) (s : State) : State :=
  s.modSl i (fun x => ({ x with slots := spSet {} (slotKey set w) d x.slots } : Slice).mendSlot set w)

/-- Read slot TS of a set, when the lookup finds no shadow entry: a correction is counted, a slot beyond correction or with a
wrong CSUM stops the device (R33, R34, R342). `false`: the device has stopped. -/
def readTS (i : SliceNo) (set : Nat) (s : State) : Bool × State :=
  let x := s.sl i
  let b := x.tsBlock set
  let c := x.tsCond set
  let s1 := recordSev i set 0 (spGet {} x.tsFlaw set).sev (decide (c = .clean)) s
  let loc := slotRow i set 0
  if decide (c = .unc) || decide (b.csum ≠ csumOf b.ways) then (false, tsLost i set s1)
  else match c with
    | .corr syn =>
      let ln := hbmRowSlot (BitVec.ofNat 23 set) 0
      if isRepeat s1 false loc ln syn then
        (true, noteRepeat false loc ((scrubPass i s1).modSl i (fun x => x.mendTS set)))
      else (true, counted false loc ln syn s1)
    | _ => (true, s1)

/-- A read of a shadow set finds its entries with bad parity: each is dropped, and each error counted as corrected (R38). The eight entries of
the shadow set are read together, so a bad entry of another set goes too (DEDUCED, log 99). -/
def shadowError (i : SliceNo) (set : Nat) (s : State) : State :=
  let hit (e : ShEntry) : Bool := e.valid && e.bad
  let bad := (spGet {} (s.sl i).shadow (shKey set)).ents.toList.filter hit
  if bad.isEmpty then s
  else (s.modSl i (fun x => { x with shadow := spMod {} (shKey set) (fun q =>
      { q with ents := q.ents.map (fun e => if hit e then {} else e) }) x.shadow })).each bad (fun s _ => bufCorrected s)

/-- The set has a shadow entry after this; none where all eight entries of its shadow set are pinned (R37, R38). -/
def shadowFor (i : SliceNo) (set : Nat) (s : State) : Option State :=
  let s1 := shadowError i set s
  ((s1.sl i).ensureShadow set).map (fun x => s1.setSl i x)

/-- A lookup of a set, before and after, that has read slot TS and goes on to no data slot has opened the row (R494). -/
def tsRow (i : SliceNo) (set : Nat) (hit : Bool) (before s : State) : State :=
  if ((before.sl i).shEntry set).isNone && !hit then rowOpen set s else s

/-- The lookup's read of the tag block: from the shadow, or from slot TS (R38, R42). -/
def readTags (i : SliceNo) (set : Nat) (s : State) : Bool × State :=
  let s1 := shadowError i set s
  match (s1.sl i).shEntry set with
  | some _ => (true, s1)
  | none => readTS i set s1

/-! ### DDR5 reads -/

/-- Read a line at its home: its content and whether it could be read; corrections are counted, a line beyond correction is
quarantined (R335, R340, R342). A queued line, and an unfilled one, is read without a DRAM access (R336, R362). -/
def ddrRead (l : LAddr) (s : State) : Option DLine × State :=
  let f := frameOf s l
  let d := ddrGet s f
  let s0 := if inDram s f then pmu 0x41 (some (chanOf s f)) s else s
  match ddrCond s f with
  | .clean => (some d, s0)
  | .corr syn =>
    let loc := ddrRow s f
    let ln := ddrRowLine s.mem.eight (BitVec.ofNat 34 f)
    if isRepeat s0 true loc ln syn then (some d, noteRepeat true loc (ddrQueue f d s0))
    else (some d, counted true loc ln syn s0)
  | .unc => (none, quarantine l f s0)

end Sys2Proof.Machine
end

