-- ==== Sys2Proof/Machine/Atomics.lean ====
section
/-! DEFINITION. The atomic operations, the operand block of AmoF, and the order of accesses of a port. -/

namespace Sys2Proof.Machine

/-! ### Atomic operations (R199 to R202) -/

/-- The operation and size are ones the part executes (R199): sizes 4 and 8, CAS16 with 16. -/
def atomicOk (aop : BitVec 5) (len : Nat) : Bool :=
  if aop.toNat < 10 then decide (len = 4) || decide (len = 8) else decide (aop.toNat = 16) && decide (len = 16)

/-- New value of an operation on n-bit values, `none` where the location is not written; and CMPEQ (R199, R201). -/
def atomicVal {n : Nat} (aop : BitVec 5) (old a b : BitVec n) : Option (BitVec n) × Bool :=
  match aop.toNat with
  | 0 => (some (old + a), false)
  | 1 => (some (old &&& a), false)
  | 2 => (some (old ||| a), false)
  | 3 => (some (old ^^^ a), false)
  | 4 => (some (if old.slt a then a else old), false)
  | 5 => (some (if a.slt old then a else old), false)
  | 6 => (some (if old.ult a then a else old), false)
  | 7 => (some (if a.ult old then a else old), false)
  | 8 => (some a, false)
  | _ => if old = b then (some a, true) else (none, false)

/-- An atomic on a line at a byte offset: the new line, the old value zero-extended, CMPEQ (R199, R201). -/
def atomicLine (aop : BitVec 5) (len off : Nat) (a b : BitVec 128) (d : Line) : Line × BitVec 128 × Bool :=
  let put {n : Nat} (old : BitVec n) (r : Option (BitVec n) × Bool) : Line × BitVec 128 × Bool :=
    (match r.1 with
      | some v => mergeLine d (placeLine (v.setWidth 512) off) (rangeMask off len)
      | none => d, old.setWidth 128, r.2)
  if len = 4 then
    let old : BitVec 32 := d.extractLsb' (8 * off) 32
    put old (atomicVal aop old (a.setWidth 32) (b.setWidth 32))
  else if len = 8 then
    let old : BitVec 64 := d.extractLsb' (8 * off) 64
    put old (atomicVal aop old (a.setWidth 64) (b.setWidth 64))
  else
    let old : BitVec 128 := d.extractLsb' (8 * off) 128
    put old (atomicVal aop old a b)

/-- The operand block of an AmoF (R200): operand B for CAS only. -/
def amoBlock (aop : BitVec 5) (len off : Nat) (a b : BitVec 128) : BitVec 256 :=
  let sz : BitVec 2 := if len = 4 then 2 else 3
  let w := 8 * len
  let ctl : BitVec 64 := (0 : BitVec 51) ++ BitVec.ofNat 6 off ++ sz ++ aop
  let b64 : BitVec 64 := if aop = 9 then BitVec.ofNat 64 (b.toNat % 2 ^ w) else 0
  (0 : BitVec 64) ++ b64 ++ BitVec.ofNat 64 (a.toNat % 2 ^ w) ++ ctl

/-- An operand block read back: OP, size, offset and operands; `none` where R199 or R200 makes it an error. -/
def amoUnpack (x : BitVec 256) : Option (BitVec 5 × Nat × Nat × BitVec 128 × BitVec 128) :=
  let aop : BitVec 5 := fld x 0 5
  let sz : BitVec 2 := fld x 5 2
  let off := (fld x 7 6).toNat
  let len := if sz = 2 then 4 else 8
  if sz.toNat < 2 || decide (10 ≤ aop.toNat) || decide (off % len ≠ 0) then none
  else some (aop, len, off, (fld x 64 64).setWidth 128, (fld x 128 64).setWidth 128)

/-- The 16 B result of an atomic (R201). -/
def amoResult (old : BitVec 128) (cmpeq err pois : Bool) : BitVec 128 :=
  BitVec.ofNat 64 ((if cmpeq then 1 else 0) + (if err then 2 else 0) + (if pois then 4 else 0)) ++ old.setWidth 64

/-! ### The order of accesses of a port (R217 to R222) -/

/-- A load (R218): its value is bound when it is performed. -/
def isLoad (o : Op) : Bool := match o with | .rdShared | .rdOwn | .rdCur | .rsvLoad => true | _ => false
/-- An atomic or conditional store, which follows as if both load and unbuffered store (R218). -/
def isAtomicOp (o : Op) : Bool := match o with | .atomic | .condStore => true | _ => false

/-- An access X of a port, still to be performed or to become visible, holds back a later access Y (R218), in its stream or to the same line
(R220); an exception keeps its position in its stream (R216). `unbuf` of Y: it is an unbuffered store. -/
def orders (x : Acc) (op : Op) (strm : BitVec 4) (line : LAddr) (unbuf : Bool) : Bool :=
  let same := decide (x.strm = strm)
  let sameLine := decide (x.line = line)
  (same && (decide (x.op = .exc) || decide (op = .exc))) ||
    (sameLine && (isLoad x.op || opStores x.op) && (isLoad op || opStores op)) ||
    (same && isAtomicOp x.op) ||
    (same && isLoad x.op && (isLoad op || opStores op)) ||
    (same && x.unbuf && opStores x.op && (unbuf || isAtomicOp op) && opStores op)

/-- Scope of a barrier: its stream, or all of the port's (R221). -/
def inScope (b : Bar) (strm : BitVec 4) : Bool := b.port || decide (b.strm = strm)

/-- Buffered entries of port p that a barrier waits for: written before it by a stream in its scope (R221). -/
def barBuffers (s : State) (p : Port) (b : Bar) : Bool :=
  let hit (e : BufEnt) : Bool := decide (e.port = p) && decide (e.first < b.seq) && (b.port || bit e.streams b.strm.toNat)
  (s.hp p).ntc.any hit || s.slices.toList.any (fun x => x.wmb.any hit)

/-- The accesses before a barrier that it waits for are done (R221, R222). -/
def barMet (s : State) (p : Port) (b : Bar) : Bool :=
  let h := s.hp p
  let before := h.accs.filter (fun a => decide (a.seq < b.seq) && inScope b a.strm)
  let loads := before.all (fun a => !isLoad a.op && !isAtomicOp a.op)
  let stores := before.all (fun a => !opStores a.op) && !barBuffers s p b
  match b.kind.toNat with
  | 0 => loads
  | 1 => stores
  | 2 => loads && stores
  | _ => before.isEmpty && !barBuffers s p b && (!b.port || h.regq.all (fun q => decide (b.seq < q.seq)))

/-- A barrier of the port holds back an access issued after it (R221): BAR.DONE until it completes to the host. -/
def barHolds (s : State) (p : Port) (op : Op) (strm : BitVec 4) (seq : Nat) : Bool :=
  (s.hp p).bars.any (fun b => decide (b.seq < seq) && inScope b strm &&
    (match b.kind.toNat with
     | 0 => !barMet s p b
     | 1 => (opStores op) && !barMet s p b
     | 2 => !barMet s p b
     | _ => true))

/-- An access is an unbuffered store where it is performed (R217): a store to a write-back region in an ENABLED slice, an
atomic, a conditional store. -/
def isUnbuf (s : State) (r : Req) : Bool :=
  isAtomicOp r.op ||
    (decide (r.op = .write) && !r.wt && !isFar s (lineOf r.addr) && (s.sl (sliceOf (lineOf r.addr))).enabled)

/-- The order of R218 and the barriers let the access go on (log 3); the upper part of an access that crosses a line
follows the lower (R198). -/
def mayGo (s : State) (r : Req) : Bool :=
  !(s.hp r.port).accs.any (fun x => decide (x.seq < r.seq) &&
    (orders x r.op r.strm (lineOf r.addr) (isUnbuf s r) || (decide (r.part = 2) && decide (x.etag = r.etag)))) &&
    !barHolds s r.port r.op r.strm r.seq

/-- Barriers that are met and return nothing to the host are dropped (R221). -/
def dropBars (s : State) (p : Port) : State :=
  s.modHp p (fun h => { h with bars := h.bars.filter (fun b => decide (b.kind = 3) || !barMet s p b) })

/-! ### Reservations (R210 to R213) -/

/-- A look through the reservations of a port finds those with bad parity, and clears them (R358). -/
def HPort.rsvFix (h : HPort) : HPort := { h with rsv := h.goodRsv, rsvBad := [] }
/-- Clear reservations of port p on a granule, but for one slot. -/
def clearRsv (p : Port) (g : LAddr) (but : Option Nat) (s : State) : State :=
  s.modHp p (fun h => { h.rsvFix with rsv := h.goodRsv.filter (fun c => !(decide (c.2 = g) && decide (some c.1 ≠ but))) })
/-- Clear every reservation of port p. -/
def clearRsvAll (p : Port) (s : State) : State := s.modHp p (fun h => { h with rsv := [], rsvBad := [] })
/-- Slot k of port p holds a valid reservation on g; an entry with bad parity is cleared and fails (R358). -/
def hasRsv (h : HPort) (k : Nat) (g : LAddr) : Bool :=
  !h.rsvBad.contains k && h.rsv.any (fun c => decide (c.1 = k) && decide (c.2 = g))

end Sys2Proof.Machine
end

