-- ==== Sys2Proof/Machine/Lines.lean ====
section
/-! DEFINITION. What a slice does with a line: snoops of the hosts, evictions, requests to the home, the Reedbed, and the
waits. -/

namespace Sys2Proof.Machine

/-! ### Host presence and snoops (R115 to R120) -/

/-- Ports whose HP bit is set. -/
def hpPorts (t : TagWord) : List Port := ports.filter (fun p => bit t.hp p.val)

/-- The exclusive host of a line (R116). -/
def exclHost (t : TagWord) : Option Port :=
  if t.st = .E ∨ t.st = .M then
    match hpPorts t with
    | [p] => some p
    | _ => none
  else none

/-- The way of slice i that holds a line: none for a far line, which no way holds (R20, R31). -/
def State.wayOf (s : State) (i : SliceNo) (l : LAddr) : Option (Nat × TagWord) := if isFar s l then none else (s.sl i).find l

/-- Change the tag word of the way that holds a line, if one does. -/
def modWord (i : SliceNo) (l : LAddr) (f : TagWord → TagWord) (s : State) : State :=
  match s.wayOf i l with
  | some (w, t) => s.modSl i (fun x => x.putWord (setOf l).toNat w (f t))
  | none => s

/-- The HP bit of port p is left out of what the moves that wait in a slice leave their lines (R89), of those lines that satisfy a test. -/
def Slice.dropMove (x : Slice) (q : LAddr → Bool) (p : Port) : Slice :=
  { x with snpGrps := x.snpGrps.map (fun g => match g.act with
      | .rbMove e hp w => if q e then { g with act := .rbMove e (setBit hp p.val false) w } else g
      | _ => g) }

/-- Port p no longer holds the line, in its way or, its move still waiting, in the Reedbed. -/
def dropHp (i : SliceNo) (l : LAddr) (p : Port) (s : State) : State :=
  (modWord i l (fun t => { t with hp := setBit t.hp p.val false }) s).modSl i (fun x => x.dropMove (fun e => decide (e = l)) p)

/-- The line's newest data may be lost: POISON is set and the event names the rule (R120, R297). -/
def poisonLine (i : SliceNo) (l : LAddr) (rule : Nat) (s : State) : State :=
  evPoisoned l rule (modWord i l (fun t => { t with poison := true }) s)

/-- Mark the conditional stores of port p on a line that wait to be performed (R214 row 5). -/
def breakCs (p : Port) (l : LAddr) (s : State) : State :=
  let m (r : Req) : Req := if r.op = .condStore ∧ r.port = p ∧ lineOf r.addr = l then { r with csBroken := true } else r
  let s1 := s.modSl (sliceOf l) (fun x => { x with
    waiters := x.waiters.map m
    stt := x.stt.map (fun t => { t with req := t.req.map m, joined := t.joined.map m })
    snpGrps := x.snpGrps.map (fun g => match g.act with
      | .host r => { g with act := .host (m r) }
      | .evictFor a b r => { g with act := .evictFor a b (m r) }
      | _ => g) })
  s1.modHp p (fun h => { h with queue := h.queue.map m })

/-- One snoop to send: port, invalidating, of current data, exempt from R212 and R214 (the conditional store's own). -/
structure SnpReq where
  port   : Port
  inv    : Bool
  cur    : Bool := false
  exempt : Bool := false
deriving DecidableEq, Repr

/-- Send one snoop for a group (R118, R212). A port that is down completes it at once as RspI, with POISON where it was the
exclusive host (R297); in a warm drain no host holds write permission, and the HP bits stand (R461). `true`: an answer is awaited. -/
def sendSnoop (i : SliceNo) (l : LAddr) (grp : Nat) (excl : Option Port) (q : SnpReq) (s : State) : Bool × State :=
  let s1 := if q.inv && !q.exempt then breakCs q.port l (clearRsv q.port l none s) else s
  let h := s1.hp q.port
  let ex := decide (excl = some q.port)
  if h.linkUp then
    let e := h.nextTag
    let m : ToHost := if q.inv then .snpInv e l else if q.cur then .snpCur e l else .snpDown e l
    (true, pmu 0x22 (some q.port.val) (toHost q.port m
      (s1.setHp q.port { h with nextTag := e + 1, snps := h.snps ++ [⟨e, l, q.inv, q.cur, ex, i, grp, s1.gen.time⟩] })))
  else
    (false, if s1.crp.phase = .warmDrain then s1 else dropHp i l q.port (if ex then poisonLine i l 5 s1 else s1))

/-- A request that waits for host snoops has its bound extended once for its device, by the slowest of them (R256, log 16). -/
def Req.wait (r : Req) (n : Nat) : Req := { r with allow := max r.allow n }

/-- An action that waits for host snoops of n ns carries the time with the request it serves. -/
def Act.wait (a : Act) (n : Nat) : Act :=
  match a with
  | .host r => .host (r.wait n)
  | .evictFor set w r => .evictFor set w (r.wait n)
  | .holder k m => .holder k { m with allow := max m.allow n }
  | a => a

/-- Send the snoops of an action. `true`: none is awaited and the action goes on at once; otherwise it is kept with the
ports awaited. -/
def snoopFor (i : SliceNo) (l : LAddr) (a : Act) (excl : Option Port) (qs : List SnpReq) (s : State) : Bool × State :=
  let g := s.seqNo
  let r := qs.foldl (fun (z : List Port × State) q =>
      let y := sendSnoop i l g excl q z.2
      (if y.1 then z.1 ++ [q.port] else z.1, y.2)) (([] : List Port), { s with seqNo := g + 1 })
  if r.1.isEmpty then (true, r.2)
  else (false, r.2.modSl i (fun x => { x with snpGrps := x.snpGrps ++ [⟨g, a.wait ((r.1.map (snoopNs s)).foldl max 0), l, r.1⟩] }))

/-- Invalidating snoops of every port with HP set but one. -/
def snpInvAll (t : TagWord) (but : Option Port) : List SnpReq :=
  ((hpPorts t).filter (fun p => decide (some p ≠ but))).map (fun p => { port := p, inv := true })

/-- An action concerns a line besides the one whose hosts it snoops. -/
def Act.names (a : Act) (l : LAddr) : Bool :=
  match a with
  | .evictFor _ _ r => decide (lineOf r.addr = l)
  | .rbMove e _ _ => decide (e = l)
  | _ => false

/-- The line has an action waiting for host answers, or names one that waits (R44: actions on one set in order). -/
def Slice.grpOn (x : Slice) (l : LAddr) : Bool := x.snpGrps.any (fun g => decide (g.line = l) || g.act.names l)

/-! ### The Causeway and Puts (R82, R83, R175) -/

/-- Causeway entry of a line. -/
def Slice.cwOf (x : Slice) (l : LAddr) : Option CwEnt := x.cw.find? (fun e => decide (e.line = l))
/-- Reedbed entry of a line. -/
def Slice.rbOf (x : Slice) (l : LAddr) : Option RbEnt := x.rb.find? (fun e => decide (e.line = l))
/-- Open transactions of a line. -/
def Slice.txnOf (x : Slice) (l : LAddr) : Option STxn := x.stt.find? (fun t => decide (t.line = l) && decide (t.st ≠ .retain))

/-- An eviction of this state takes a Causeway entry (R82). -/
def needsCw (st : LState) (discard : Bool) : Bool :=
  match st with
  | .M => !discard
  | .O | .E | .F => true
  | .S | .I | .P => false

/-- A message from a slice to the home of a line. -/
def toHome (s : State) (i : SliceNo) (l : LAddr) : BMsg :=
  let h := homeNow s l
  { dst := h.1, dstu := homeUnit, src := s.node.node, srcu := unitOf i, laddr := l, gen := h.2,
    rqn := s.node.node, rqu := unitOf i }

/-- The line's home is declared dead or cut (R175, R313). -/
def homeLost (s : State) (l : LAddr) : Bool := isLost s.node s.fabric (homeNow s l).1

/-- Send the Put of an evicted line and hold it in the Causeway (R82). A line of a dead home is not sent: dirty data is
discarded and counted (R175). -/
def sendPut (i : SliceNo) (l : LAddr) (st : LState) (d : Slot) (poison discard retain : Bool) (s : State) : State :=
  let dirty := decide (st = .M) || decide (st = .O)
  let h := putHome s l
  if isLost s.node s.fabric h.1 then
    if dirty then s.modHome (fun h => { h with deadDisc := h.deadDisc + 1 }) else s
  else
    let withData := dirty && !(decide (st = .M) && discard)
    let m := { toHome s i l with dst := h.1, gen := h.2, osn := d.osn, retain := retain, fwdr := decide (st = .F),
                                 poison := poison && withData, data := if withData then d.data else 0 }
    let k : BKind := if withData then (if st = .M then .putM else .putO) else if st = .E ∨ st = .M then .putE else .putS
    let s1 := if needsCw st discard && !retain then
        s.modSl i (fun x => { x with cw := x.cw ++ [{ line := l, st := st, osn := d.osn, data := d.data, dst := h.1, gen := h.2, poison := poison }] })
      else s
    sendMsg k m (if withData then pmu 0x06 (some i.val) s1 else s1)

/-- A prefetch outcome (R91): useful or wasted, counted in the window. -/
def Slice.outcome (x : Slice) (useful : Bool) : Slice :=
  if useful then { x with pfUseful := x.pfUseful + 1, pfUse := x.pfUse + 1 }
  else { x with pfWasted := x.pfWasted + 1, pfWaste := x.pfWaste + 1 }

/-- Evict the line of a way whose hosts have been snooped (R49, R82): the way becomes I, the Put leaves. -/
def evictWay (i : SliceNo) (set w : Nat) (discard : Bool) (s : State) : State :=
  let r := readSlot i set w s
  let s1 := r.2.2
  let t := (s1.sl i).word set w
  if t.st = .I ∨ t.st = .P then s1
  else
    let l := lineIn s1 i set t
    let s2 := s1.modSl i (fun x => (if t.prefetched then x.outcome false else x).putWord set w {})
    (sendPut i l t.st r.1 r.2.1 discard false s2).modSl i (fun x => { x with
      cw := x.cw.map (fun e => if e.line = l then { e with grp := wayGroup w } else e) })

/-- A way set to I with no notice to the home: no eviction, so no outcome of R91 (R79, R137, R205). -/
def dropWay (i : SliceNo) (set w : Nat) (s : State) : State := s.modSl i (fun x => x.putWord set w {})

/-- A copy that an open Upg relied on has gone: its way is set to fill pending for the data now awaited, in a pinned shadow entry (R37,
R136). `false`: all eight entries of the shadow set are pinned, and the way is emptied. -/
def pendWay (i : SliceNo) (set w : Nat) (l : LAddr) (s : State) : Bool × State :=
  match shadowFor i set s with
  | some s1 => (true, s1.modSl i (fun x => x.putWord set w { tag := tagOf l, st := .P }))
  | none => (false, dropWay i set w s)

/-- Merge a host's dirty data into the line's way: E becomes M; poisoned data poisons it. A writeback (`wb`) is a write of all 64 bytes, whose
data clears POISON when it is not poisoned; after the answer to a snoop a poisoned line stays so (R117, R118, R356, log 71). -/
def mergeHost (i : SliceNo) (l : LAddr) (d : Line) (poison wb : Bool) (s : State) : State :=
  match s.wayOf i l with
  | none => s
  | some (w, t) =>
    let set := (setOf l).toNat
    let old := spGet {} (s.sl i).slots (slotKey set w)
    (writeSlot i set w { old with data := d } (rowOpen set s)).modSl i (fun x =>
      x.putWord set w { t with st := if t.st = .E then .M else t.st, poison := poison || (t.poison && !wb) })

/-! ### Requests to the home -/

/-- The lowest transaction number a slice has free: none while the 512 entries of its table are in use (R136, R495). -/
def Slice.freeRtid (x : Slice) : Option (BitVec 12) :=
  if 512 ≤ x.used then none
  else ((List.range 512).map (BitVec.ofNat 12)).find? (fun n => !x.stt.any (fun t => decide (t.rtid = n)))

/-- The request message of a transaction (R126 to R128). The key of a stamped request from a buffered entry names the lowest
stream (R234). -/
def txnMsg (s : State) (i : SliceNo) (t : STxn) : BMsg :=
  let b := toHome s i t.line
  { b with rtid := t.rtid, age := if t.stamp.isSome then 0 else t.age, keep := t.keep, reason := if t.ctr then 1 else 0,
           port := BitVec.ofNat 2 t.port.val, strm := t.strm, stamp := t.stamp,
           mask := if t.kind = .wrU then t.mask else 0, amo := t.amo,
           data := if t.kind = .wrU then t.data else 0, poison := t.poison && decide (t.kind = .wrU) }

/-- A request uses the entry of the far relocation cache that names its home: the entry becomes the most recently used (R189). -/
def useFar (l : LAddr) (s : State) : State :=
  let mine (e : BitVec 6 × RTab) : Bool := decide (e.1 = domOf (lineHome l)) && entryOf (memOf (lineHome l)) (regionOf l) e.2
  if isFar s l then s.modHome (fun h => { h with farReloc := h.farReloc.filter (fun e => !mine e) ++ h.farReloc.filter mine }) else s

/-- Enter a transaction in the table and send its request. -/
def openTxn (i : SliceNo) (t : STxn) (s : State) : State :=
  let h := homeNow s t.line
  let t1 := { t with dst := h.1, gen := h.2 }
  sendMsg t1.kind (txnMsg s i t1) (useFar t.line (s.modSl i (fun x => { x with stt := x.stt ++ [t1] })))

/-- Change the transaction of a number. -/
def modTxn (i : SliceNo) (rtid : BitVec 12) (f : STxn → STxn) (s : State) : State :=
  s.modSl i (fun x => { x with stt := modFirst (fun t => decide (t.rtid = rtid)) f x.stt })

/-- Remove the transaction of a number. -/
def closeTxn (i : SliceNo) (rtid : BitVec 12) (s : State) : State :=
  s.modSl i (fun x => { x with stt := rmFirst (fun t => decide (t.rtid = rtid)) x.stt })

/-- A request waits in the slice transaction table (R37, R76, R81, R84, R206); with its entries all in use it stays in the queue of its port, and
keeps its HREQ credit (R495). -/
def waitIn (i : SliceNo) (r : Req) (s : State) : State :=
  if (s.sl i).used < 512 then s.modSl i (fun x => { x with waiters := x.waiters ++ [r] })
  else s.modHp r.port (fun h => { h with queue := h.queue ++ [r] })

/-- Complete a request whose home is dead or cut (R165, R175): a read with poisoned data, a store with an error, an event. The reservation of a
conditional store that ends so, or with ADDRERR, stands: the table of R214 has no such row (DESIGN CHOICE, log 100). -/
def completeDead (r : Req) (s : State) : State :=
  stampCheck r true (completeErr r stDEAD (evDeadDone (lineOf r.addr) r.port (opStores r.op) s))

/-- Open a transaction for a host request: RdS, RdX, Upg, RdU or AmoF, the last counted (R228). With no free entry the request waits
(R495). -/
def requestFor (i : SliceNo) (k : BKind) (r : Req) (way : Option Nat) (amo : BitVec 256) (s : State) : State :=
  let l := lineOf r.addr
  let x := s.sl i
  if homeLost s l then completeDead r s
  else match x.freeRtid with
    | none => waitIn i r s
    | some n =>
      let r1 := { r with missed := true, pred := false, opened := true }
      let s1 := if k = .amoF then s.modSl i (fun x => { x with amoFar := x.amoFar + 1 }) else s
      openTxn i { rtid := n, line := l, kind := k, dst := 0, way := way, req := some r1, amo := amo, port := r.port,
                  strm := r.strm, stamp := r.stamp, ctr := r.bound, predict := r.pred } (pmu 0x05 (some i.val) s1)

/-- A miss that fills a way (R43 c5, R47): the set gets a pinned shadow entry, the way is set to fill pending and the
request leaves. The way has been emptied. -/
def missInto (i : SliceNo) (set w : Nat) (k : BKind) (r : Req) (s : State) : State :=
  let l := lineOf r.addr
  if homeLost s l then completeDead r s
  else match (s.sl i).freeRtid, shadowFor i set s with
    | some _, some s1 => requestFor i k r (some w) 0 (s1.modSl i (fun x => x.putWord set w { tag := tagOf l, st := .P }))
    | none, _ => waitIn i r s
    | some _, none => waitIn i { r with pin := true } s

/-- The request kind of a miss (R135); a line of a write-through region is only ever read shared (R70). -/
def missKind (r : Req) : BKind :=
  match r.op with
  | .rdOwn | .upgrade => if r.wt then .rdS else .rdX
  | .write | .atomic | .condStore => .rdX
  | .rdShared | .rdCur | .writeNT | .rsvLoad | .pfHint | .exc => .rdS

/-- A way for the line of a set that an ordinary fill may take: one in I, or a victim no action or transaction holds (R48, log 17). -/
def fillVictim (s : State) (i : SliceNo) (l : LAddr) : Option Nat :=
  let set := (setOf l).toNat
  let x := s.sl i
  let b := x.block set
  victim (fun w => ordEligible s x set b w && (let t := vget b.ways w {}; decide (t.st = .I) || !x.held (lineIn s i set t))) b

/-- Choose the victim of a demand miss and empty it: its hosts are snooped first, and a Causeway entry must be free where its
state needs one (R48, R49, R84); then the miss goes out. -/
def missFill (i : SliceNo) (r : Req) (s : State) : State :=
  let set := (setOf (lineOf r.addr)).toNat
  let x := s.sl i
  match fillVictim s i (lineOf r.addr) with
  | none => waitIn i r s
  | some w =>
    let t := x.word set w
    if t.st = .I then missInto i set w (missKind r) r s
    else if needsCw t.st false && !x.cwDemand then waitIn i { r with cww := true } s
    else
      let y := snoopFor i (lineIn s i set t) (.evictFor set w r) (exclHost t) (snpInvAll t none) s
      if y.1 then missInto i set w (missKind r) r (evictWay i set w false y.2) else y.2

/-! ### The Reedbed (R85 to R92) -/

/-- Pfq in flight in a slice. -/
def Slice.pfq (x : Slice) : Nat := (x.stt.filter (fun t => decide (t.kind = .pfq))).length

/-- A move from the Reedbed of a line that has been read already waits: the HP bits it will leave (R89). -/
def Slice.moveHp (x : Slice) (l : LAddr) : Option (BitVec 4) :=
  x.snpGrps.findSome? (fun g => match g.act with
    | .rbMove e hp _ => if e = l then some hp else none
    | _ => none)

/-- Remove the Reedbed entry of a line. -/
def dropRb (i : SliceNo) (l : LAddr) (s : State) : State :=
  s.modSl i (fun x => { x with rb := rmFirst (fun e => decide (e.line = l)) x.rb })

/-- Give up a Reedbed entry unused: S without notice, E and F through the Causeway; a wasted outcome (R88, R91). -/
def giveUpRb (i : SliceNo) (e : RbEnt) (s : State) : State :=
  let s1 := (dropRb i e.line s).modSl i (fun x => x.outcome false)
  if e.st = .E ∨ e.st = .F then sendPut i e.line e.st ⟨e.data, e.osn⟩ e.poison false false s1 else s1

/-- The key of a Reedbed entry in the order of R234: stamp, port, stream. -/
def RbEnt.key (e : RbEnt) : Nat := ((e.stamp.getD 0).toNat * 4 + e.port.val) * 16 + e.strm.toNat

/-- The Reedbed entry given up when none is free: the oldest that holds a line to give up, which one whose Pfq is unanswered does not, and one
whose line has been read and moves no more; for a stamped hint the one with the highest key, the younger of two equal keys, which is waited
for where it cannot be given up yet (R88, R92, R251). -/
def rbVictim (x : Slice) (stamped : Bool) : Option RbEnt :=
  if stamped then
    match x.rb.filter (fun e => (x.moveHp e.line).isNone) with
    | [] => none
    | e :: t => some (t.foldl (fun a b => if a.key ≤ b.key then b else a) e)
  else x.rb.find? (fun e => !e.awaited && (x.moveHp e.line).isNone)

/-- An entry can be given up now: its Pfq is answered, it does not wait for its move, and one in E or F takes a Causeway entry beyond the
reserve (R84, R88, R89). -/
def Slice.rbMayGo (x : Slice) (e : RbEnt) : Bool :=
  !e.awaited && (x.moveHp e.line).isNone && (!(decide (e.st = .E) || decide (e.st = .F)) || x.cwWalk)

/-- Give up the Reedbed entries that satisfy a test, as the Causeway has room (R84, R88). -/
def rbFree (p : LAddr → Bool) (i : SliceNo) (s : State) : State :=
  s.each ((s.sl i).rb.filter (fun e => p e.line)) (fun s e => if (s.sl i).rbMayGo e then giveUpRb i e s else s)

/-- A hit gives back the miss token of a contracted request, once (R257). An access that crosses a line has taken one token, and gives it back
when both its parts have hit (DESIGN CHOICE, log 74). -/
def refund (r : Req) (s : State) : State :=
  if r.bound && !r.missed && !r.refunded then
    s.modHp r.port (fun h =>
      if r.part = 0 then { h with ctr := h.ctr.refund }
      else if h.half.contains r.etag then { h with ctr := h.ctr.refund, half := rmFirst (fun e => decide (e = r.etag)) h.half }
      else { h with half := h.half ++ [r.etag] })
  else s

/-- The prefetch check of a hint and the Pfq it may issue (R87, R88, R251): a lookup that reads the tag block of a set without a shadow entry
(R342). The limit of R91 binds unstamped hints. `ctr`: the hint was accepted with a bound (R257); one that issues no Pfq is served as a hit,
and gives its miss token back. `true`: a stamped hint that finds no Reedbed entry to take, or no transaction number, waits for it, so that
its issue depends on stamped history alone (R92). -/
def prefetchTry (p : Port) (strm : BitVec 4) (stamp : Option W64) (ctr : Bool) (l : LAddr) (s0 : State) : Bool × State :=
  let i := sliceOf l
  let drop (s : State) : Bool × State := (false, refund { port := p, etag := 0, op := .pfHint, bound := ctr } s)
  if isFar s0 l || !inTorus s0.node (lineHome l) then drop s0
  else
    let y := readTags i (setOf l).toNat s0
    let s := tsRow i (setOf l).toNat false s0 y.2
    let x := s.sl i
    let f := x.find l
    let absent := f.isNone && (x.cwOf l).isNone && (x.rbOf l).isNone && !x.wmb.any (fun e => decide (e.line = l)) &&
      (x.txnOf l).isNone && !x.grpOn l
    let seen (s : State) : State := match f with
      | some (w, _) => s.modSl i (fun x => x.hintSeen (setOf l).toNat (tagOf l) w)
      | none => s
    if !y.1 then (false, s)
    else if homeLost s l || !absent || !x.enabled || !x.pfEn || (stamp.isNone && decide (x.pfLimit ≤ x.pfq)) then drop (seen s)
    else
      let room : Option State :=
        if x.rb.length < 256 then some s
        else (rbVictim x stamp.isSome).bind (fun e => if x.rbMayGo e then some (giveUpRb i e s) else none)
      match room, x.freeRtid with
      | some s1, some n =>
        let e : RbEnt := { line := l, st := .I, data := 0, osn := 0, port := p, awaited := true, stamp := stamp, strm := strm }
        (false, openTxn i { rtid := n, line := l, kind := .pfq, dst := 0, port := p, strm := strm, stamp := stamp, ctr := ctr }
          (s1.modSl i (fun x => { x with rb := x.rb ++ [e] })))
      | _, _ => if stamp.isSome then (true, s) else drop s

/-- The prefetch check of an unstamped hint (R87). -/
def prefetch (p : Port) (strm : BitVec 4) (ctr : Bool) (l : LAddr) (s : State) : State := (prefetchTry p strm none ctr l s).2

/-- The HP bit a read of port p leaves: none for a CXL port whose host has not enabled back-invalidation (R123). -/
def hpOf (s : State) (p : Port) : BitVec 4 := if (s.hp p).proto && !(s.hp p).biEn then 0 else setBit 0 p.val true

/-- Move a Reedbed line into a way that has been emptied (R89): state of the entry, PREFETCHED set, the HP bits of the host that has read it,
PLRU touched, a useful outcome. -/
def rbMove (i : SliceNo) (e : RbEnt) (w : Nat) (hp : BitVec 4) (s : State) : State :=
  let set := (setOf e.line).toNat
  let s1 := writeSlot i set w ⟨e.data, e.osn⟩ (rowOpen set (dropRb i e.line s))
  s1.modSl i (fun x => ((x.putWord set w { tag := tagOf e.line, st := e.st, hp := hp, poison := e.poison, prefetched := true }).touchWay
    set w).outcome true)

/-- What became of the search for a way to move a Reedbed line into: it was moved, its victim's hosts are snooped, or it must wait for a way or
a Causeway entry. -/
inductive RbStep | moved (w : Nat) | snooping | stuck
deriving DecidableEq, Repr

/-- One step of the move of a Reedbed line (R89, R270): a victim is chosen as for an ordinary fill and emptied; `act` is what its hosts'
answers carry on. -/
def rbStep (i : SliceNo) (e : RbEnt) (hp : BitVec 4) (act : Nat → Act) (s : State) : RbStep × State :=
  let set := (setOf e.line).toNat
  let x := s.sl i
  match fillVictim s i e.line with
  | none => (.stuck, s)
  | some w =>
    let t := x.word set w
    if t.st = .I then (.moved w, rbMove i e w hp s)
    else if needsCw t.st false && !x.cwDemand then (.stuck, s)
    else
      let y := snoopFor i (lineIn s i set t) (act w) (exclHost t) (snpInvAll t none) s
      if y.1 then (.moved w, rbMove i e w hp (evictWay i set w false y.2)) else (.snooping, y.2)

/-- The move of a Reedbed line that has been read already (R89): its progress is kept with the slice's actions (R270). -/
def rbCarry (i : SliceNo) (l : LAddr) (hp : BitVec 4) (s : State) : State :=
  match (s.sl i).rb.find? (fun e => decide (e.line = l) && !e.awaited) with
  | none => s
  | some e =>
    let y := rbStep i e hp (fun w => .rbMove l hp (some w)) s
    match y.1 with
    | .stuck => ({ y.2 with seqNo := y.2.seqNo + 1 } : State).modSl i (fun x => { x with
        snpGrps := x.snpGrps ++ [⟨y.2.seqNo, .rbMove l hp none, l, []⟩] })
    | _ => y.2

/-- The moves of Reedbed lines that wait for a way or a Causeway entry are tried again (R84, R270). -/
def rbRetry (i : SliceNo) (s : State) : State :=
  s.each ((s.sl i).snpGrps.filter (fun g => match g.act with | .rbMove _ _ none => true | _ => false)) (fun s g =>
    match g.act with
    | .rbMove l hp none => rbCarry i l hp (s.modSl i (fun x => { x with snpGrps := rmFirst (fun h => decide (h = g)) x.snpGrps }))
    | _ => s)

end Sys2Proof.Machine
end

