-- ==== Sys2Proof/Machine/Buffers.lean ====
section
/-! DEFINITION. The write-merge and combining buffers: merging, closing, issue (R69 to R80). -/

namespace Sys2Proof.Machine

/-- Add a store's bytes to an entry: later bytes overwrite (R72). -/
def BufEnt.add (e : BufEnt) (r : Req) : BufEnt :=
  { e with streams := setBit e.streams r.strm.toNat true, mask := e.mask ||| r.mask, data := mergeLine e.data r.data r.mask,
           bound := e.bound || r.bound, poison := e.poison || r.poison, first := min e.first r.seq }

/-- A new entry for a store (R72, R77). -/
def newEnt (id : Nat) (r : Req) : BufEnt :=
  { id := id, line := lineOf r.addr, port := r.port, streams := setBit 0 r.strm.toNat true, mask := r.mask,
    data := mergeLine 0 r.data r.mask, stamp := r.stamp, bound := r.bound, poison := r.poison, first := r.seq }

/-- Lowest stream recorded in an entry (R234). -/
def BufEnt.low (e : BufEnt) : BitVec 4 := BitVec.ofNat 4 ((bitsOf e.streams).headD 0)

/-- Close an entry on its full mask, or when HOLD is 0 (R74, R78). -/
def BufEnt.autoClose (e : BufEnt) (hold : Nat) : BufEnt :=
  if e.st = .opened ∧ (e.mask = fullMask ∨ hold = 0) then { e with st := .closed } else e

/-- Close the OPEN entries that satisfy a test. -/
def closeIf (p : BufEnt → Bool) (es : List BufEnt) : List BufEnt :=
  es.map (fun e => if e.st = .opened ∧ p e then { e with st := .closed } else e)

/-- Change the entry of an id. -/
def modEnt (id : Nat) (f : BufEnt → BufEnt) (es : List BufEnt) : List BufEnt := modFirst (fun e => decide (e.id = id)) f es
/-- Remove the entry of an id. -/
def rmEnt (id : Nat) (es : List BufEnt) : List BufEnt := rmFirst (fun e => decide (e.id = id)) es

/-- Free a write-merge entry. -/
def freeWmb (i : SliceNo) (id : Nat) (s : State) : State := s.modSl i (fun x => { x with wmb := rmEnt id x.wmb })
/-- Free a combining entry. -/
def freeNtc (p : Port) (id : Nat) (s : State) : State := s.modHp p (fun h => { h with ntc := rmEnt id h.ntc })

/-- Poison of a line after a store's bytes (R356). -/
def poisonAfter (old new : Bool) (m : W64) : Bool := if m = fullMask then new else old || new

/-- Write bytes into the way of a line, which becomes M when it may be written (R217). -/
def writeWay (i : SliceNo) (set w : Nat) (data : Line) (m : W64) (poison : Bool) (st : LState → LState) (s : State) : State :=
  let r := readSlot i set w s
  let s1 := writeSlot i set w { r.1 with data := mergeLine r.1.data data m } r.2.2
  s1.modSl i (fun x =>
    let t := x.word set w
    x.putWord set w { t with st := st t.st, poison := poisonAfter r.2.1 poison m })

/-- The slice's drain walk has already visited a way, or has ended (R75, R96). -/
def Slice.drained (x : Slice) (set w : Nat) : Bool :=
  !x.enabled && !x.walks.any (fun k => decide (k.kind = .drain) && decide (k.pos ≤ placeKey set w))

/-- The WrU of a buffered entry (R75, R79). -/
def sendWrU (i : SliceNo) (e : BufEnt) (n : BitVec 12) (keep : Bool) (wmb : Option Nat) (ntc : Option (Port × Nat)) (s : State) : State :=
  openTxn i { rtid := n, line := e.line, kind := .wrU, dst := 0, mask := e.mask, data := e.data, poison := e.poison,
              keep := keep, port := e.port, strm := e.low, stamp := e.stamp, ctr := e.bound, wmb := wmb, ntc := ntc } s

/-- The lookup of an entry's line in its slice (R75, R79): the tag block is read where the shadow lacks it, and a hit writes the hint (R40,
R342). `false`: the read has stopped the device. -/
def lookEntry (i : SliceNo) (l : LAddr) (s : State) : Bool × State :=
  if isFar s l then (true, s)
  else
    let y := readTags i (setOf l).toNat s
    let hit := (y.2.sl i).find l
    let s1 := tsRow i (setOf l).toNat hit.isSome s y.2
    (y.1, match hit with
      | some (w, _) => s1.modSl i (fun x => x.hintSeen (setOf l).toNat (tagOf l) w)
      | none => s1)

/-- The WrU of a write-merge entry leaves, or the entry ends with its dead home (R75, R175); with no transaction free it stays. -/
def wmbSend (i : SliceNo) (e : BufEnt) (keep : Bool) (s : State) : State :=
  if homeLost s e.line then freeWmb i e.id (evDeadDone e.line e.port true s)
  else match (s.sl i).freeRtid with
    | none => s
    | some n => sendWrU i e n keep (some e.id) none
        (s.modSl i (fun x => { x with wmb := modEnt e.id (fun e => { e with st := .issued }) x.wmb }))

/-- Issue of a CLOSED write-merge entry (R75). A stamped entry always goes to the home (R246): where the line is held in M, E or O, the home's
probe takes it. A line that lies in the Reedbed is moved into the cache first (R89), or given up by a slice that drains (R96). -/
def wmbGo (i : SliceNo) (e : BufEnt) (snooped : Bool) (s0 : State) : State :=
  let l := e.line
  let set := (setOf l).toNat
  match (s0.sl i).rbOf l with
  | some rb =>
    if rb.awaited then s0
    else if !(s0.sl i).enabled then (if (s0.sl i).rbMayGo rb then wmbSend i e false (giveUpRb i rb s0) else s0)
    else (rbStep i rb 0 (fun w => .rbMove l 0 (some w)) s0).2
  | none =>
  let z := if snooped then (true, s0) else lookEntry i l s0
  if !z.1 then z.2 else
  let s := z.2
  let f := s.wayOf i l
  let others : List SnpReq := match f with
    | some (_, t) => snpInvAll t (some e.port)
    | none => []
  let y := if snooped then (true, s) else snoopFor i l (.wmb e.id) (f.bind (fun c => exclHost c.2)) others s
  if !y.1 then y.2
  else
    let s1 := y.2
    match s1.wayOf i l with
    | none => wmbSend i e false s1
    | some (w, t) =>
      if t.st = .S ∨ t.st = .F then wmbSend i e true s1
      else if e.stamp.isSome || (decide (t.st = .E) && (s1.sl i).drained set w) then wmbSend i e false s1
      else if t.st = .O then
        match (s1.sl i).freeRtid with
        | none => s1
        | some n =>
          openTxn i { rtid := n, line := l, kind := .upg, dst := 0, port := e.port, strm := e.low, stamp := e.stamp,
                      ctr := e.bound, wmb := some e.id } s1
      else freeWmb i e.id (writeWay i set w e.data e.mask e.poison (fun _ => .M) s1)

/-- A combining entry has gone to the home. -/
def ntcIssued (p : Port) (id : Nat) (v : Bool) (s : State) : State :=
  s.modHp p (fun h => { h with ntc := modEnt id (fun e => { e with st := .issued, viaPut := v }) h.ntc })

/-- The WrU of a combining entry leaves, or the entry ends with its dead home (R79, R175); with no transaction free it stays. -/
def ntcSend (p : Port) (e : BufEnt) (s : State) : State :=
  let i := sliceOf e.line
  if homeLost s e.line then freeNtc p e.id (evDeadDone e.line p true s)
  else match (s.sl i).freeRtid with
    | none => s
    | some n => sendWrU i e n false none (some (p, e.id)) (ntcIssued p e.id false s)

/-- Issue of a CLOSED combining entry: the slice acts on the state found (R79). A stamped entry always goes to the home as a WrU (R246). A copy in
the Reedbed is given up, as the Causeway has room (R84, log 88). -/
def ntcGo (p : Port) (e : BufEnt) (snooped : Bool) (s0 : State) : State :=
  let l := e.line
  let i := sliceOf l
  let set := (setOf l).toNat
  if isFar s0 l then ntcSend p e s0
  else match (s0.sl i).rbOf l with
  | some rb => if !(s0.sl i).rbMayGo rb then s0 else ntcSend p e (giveUpRb i rb s0)
  | none =>
  let z := if snooped then (true, s0) else lookEntry i l s0
  if !z.1 then z.2 else
  let s := z.2
  match (s.sl i).find l with
  | none => ntcSend p e s
  | some (_, t) =>
    let own := decide (t.st = .E) || decide (t.st = .M) || decide (t.st = .O)
    if own && e.stamp.isSome then ntcSend p e s
    else if own && !(s.sl i).cwDemand then s
    else
      let y := if snooped then (true, s) else snoopFor i l (.ntc p e.id) (exclHost t) (snpInvAll t none) s
      if !y.1 then y.2
      else
        let s1 := y.2
        match (s1.sl i).find l with
        | none => ntcSend p e s1
        | some (w, t) =>
          match t.st with
          | .M | .O =>
            if homeLost s1 l then freeNtc p e.id (evDeadDone l p true (evictWay i set w false s1))
            else evictWay i set w false (writeWay i set w e.data e.mask e.poison id (ntcIssued p e.id true s1))
          | .E => ntcSend p e (evictWay i set w false s1)
          | _ => ntcSend p e (dropWay i set w s1)

/-- A transaction keeps a closed entry waiting: every one of its line; for a stamped entry, not one with a higher stamp, nor one that has been
performed (R242, R246). -/
def STxn.holds (t : STxn) (e : BufEnt) : Bool :=
  decide (t.line = e.line) &&
    (match e.stamp, t.stamp with
     | some a, some b => b.ule a && decide (t.st ≠ .performed)
     | _, _ => true)

/-- A CLOSED write-merge entry may go: it is the first of its line, nothing waits or is open on the line, and the Causeway holds it no more (R73,
R81). -/
def wmbReady (x : Slice) (e : BufEnt) : Bool :=
  decide (e.st = .closed) && !x.wmb.any (fun f => decide (f.line = e.line) && decide (f.id < e.id)) && !x.grpOn e.line &&
    !x.stt.any (fun t => t.holds e) && (x.cwOf e.line).isNone

/-- A CLOSED combining entry may go: no earlier entry of its port for the line is left, and the line is free (R79, R76, R81). -/
def ntcReady (s : State) (p : Port) (e : BufEnt) : Bool :=
  let x := s.sl (sliceOf e.line)
  decide (e.st = .closed) && !(s.hp p).ntc.any (fun f => decide (f.line = e.line) && decide (f.id < e.id)) &&
    !x.wmb.any (fun f => decide (f.line = e.line) && (decide (f.port = p) || decide (f.st = .issued))) && !x.grpOn e.line &&
    !x.stt.any (fun t => t.holds e) && (x.cwOf e.line).isNone

/-- Issue every CLOSED entry of a slice that may go, write-merge entries then combining entries, in order of allocation. -/
def issueAll (i : SliceNo) (s : State) : State :=
  let s1 := s.each ((s.sl i).wmb.map (·.id)) (fun s id =>
    match (s.sl i).wmb.find? (fun e => decide (e.id = id)) with
    | some e => if wmbReady (s.sl i) e then wmbGo i e false s else s
    | none => s)
  s1.each ports (fun s p => s.each ((s.hp p).ntc.map (·.id)) (fun s id =>
    match (s.hp p).ntc.find? (fun e => decide (e.id = id)) with
    | some e => if decide (sliceOf e.line = i) && ntcReady s p e then ntcGo p e false s else s
    | none => s))

/-- Issue in every slice. -/
def issueEvery (s : State) : State := s.each sliceNos (fun s i => issueAll i s)

/-- Close the write-merge entries of every slice, and the combining entries of every port, that satisfy a test. -/
def closeEntries (pw pn : BufEnt → Bool) (s : State) : State :=
  let s1 := s.each sliceNos (fun s i => s.modSl i (fun x => { x with wmb := closeIf pw x.wmb }))
  s1.each ports (fun s p => s.modHp p (fun h => { h with ntc := closeIf pn h.ntc }))

/-- LOWAT: while fewer entries are free, the oldest OPEN entry closes (R74). -/
def Slice.closeLow (x : Slice) : Slice :=
  if x.wmbFree < x.lowat then { x with wmb := modFirst (fun e => decide (e.st = .opened)) (fun e => { e with st := .closed }) x.wmb }
  else x

/-- A barrier of the port that comes after a store waits already: it closes the entry the store enters (R74, R78). -/
def lateBar (s : State) (r : Req) : Bool :=
  (s.hp r.port).bars.any (fun b => decide (r.seq < b.seq) && decide (b.kind ≠ 0) && inScope b r.strm)

/-- A store's entry closes as it is made: a later barrier waits, or the Sluice of the port is closed (R74, R78, R271). -/
def closeAtOnce (s : State) (r : Req) : Bool := lateBar s r || s.arb.closed r.port

/-- The entry as a store leaves it: closed by a full mask, a HOLD of 0, a barrier that waits, or a closed Sluice. -/
def BufEnt.after (e : BufEnt) (hold : Nat) (late : Bool) (r : Req) : BufEnt :=
  let e1 := e.autoClose hold
  if late && decide (e1.st = .opened) && decide (e1.port = r.port) && decide (e1.line = lineOf r.addr) then { e1 with st := .closed }
  else e1

/-- A store enters the write-merge buffer (R72): merged, in a new entry, or waiting for one. Its host is answered when the
bytes are in the entry, as for a hit (R256). -/
def wmbStore (i : SliceNo) (r : Req) (s : State) : State :=
  let l := lineOf r.addr
  let x := s.sl i
  let mine (e : BufEnt) : Bool :=
    decide (e.line = l) && decide (e.port = r.port) && decide (e.st = .opened) && decide (e.stamp = r.stamp)
  let fin (x : Slice) (s : State) : State :=
    issueAll i (complete r stOK 0 false false ((refund r s).setSl i { x with wmb := x.wmb.map (fun e => e.after x.wmbHold (closeAtOnce s r) r) }))
  if x.wmb.any mine then fin { x with wmb := modFirst mine (fun e => e.add r) x.wmb } s
  else if x.wmbFree = 0 then waitIn i r (s.setSl i x.closeLow)
  else fin ({ x with wmb := x.wmb ++ [newEnt s.seqNo r] } : Slice).closeLow { s with seqNo := s.seqNo + 1 }

/-- A non-temporal store enters the port's combining buffer (R77); with no entry free the oldest OPEN entry closes and the
store waits in the port. -/
def ntcStore (r : Req) (s : State) : State :=
  let l := lineOf r.addr
  let h := s.hp r.port
  let mine (e : BufEnt) : Bool := decide (e.line = l) && decide (e.st = .opened) && decide (e.stamp = r.stamp)
  let fin (es : List BufEnt) (s : State) : State :=
    issueAll (sliceOf l) (complete r stOK 0 false false
      ((refund r s).modHp r.port (fun h => { h with ntc := es.map (fun e => e.after h.ntcHold (closeAtOnce s r) r) })))
  if h.ntc.any mine then fin (modFirst mine (fun e => e.add r) h.ntc) s
  else if 32 ≤ h.ntc.length then
    issueEvery (s.setHp r.port { h with ntc := modFirst (fun e => decide (e.st = .opened)) (fun e => { e with st := .closed }) h.ntc
                                        queue := h.queue ++ [r] })
  else fin (h.ntc ++ [newEnt s.seqNo r]) { s with seqNo := s.seqNo + 1 }

/-- The newest bytes a port sees of a line: its write-merge entries over the line, its combining entries over those, newest
last (R80). -/
def overlay (s : State) (p : Port) (l : LAddr) (d : Line) : Line :=
  let w := (s.sl (sliceOf l)).wmb.filter (fun e => decide (e.port = p) && decide (e.line = l))
  let n := (s.hp p).ntc.filter (fun e => decide (e.line = l))
  (w ++ n).foldl (fun d e => mergeLine d e.data e.mask) d

/-- An entry of the port that lies over the line is poisoned (R355). -/
def overlayPoison (s : State) (p : Port) (l : LAddr) : Bool :=
  (s.sl (sliceOf l)).wmb.any (fun e => decide (e.port = p) && decide (e.line = l) && e.poison) ||
    (s.hp p).ntc.any (fun e => decide (e.line = l) && e.poison)

end Sys2Proof.Machine
end

