-- ==== Sys2Proof/Machine/Access.lean ====
section
/-! DEFINITION. A host access in its slice: hit, miss, store route, atomic, reservation (R20, R76, R81, R97, R117, R203,
R214). -/

namespace Sys2Proof.Machine

/-! ### Results -/

/-- Set reservation slot k of port p on a granule (R211). -/
def setRsv (p : Port) (k : Nat) (g : LAddr) (s : State) : State :=
  s.modHp p (fun h => { h with rsv := spIns k g h.rsv, rsvBad := h.rsvBad.filter (fun n => decide (n ≠ k)) })

/-- Give a read its value: the line under the port's own entries (R80); a reserved load sets its slot (R211). -/
def giveRead (r : Req) (d : Line) (poison : Bool) (grant : BitVec 2) (s : State) : State :=
  let l := lineOf r.addr
  let v := overlay s r.port l d
  let q := poison || overlayPoison s r.port l
  let s1 := if r.op = .rsvLoad then setRsv r.port r.rslot.toNat l s else s
  let s2 := stampCheck r q s1
  match r.op with
  | .rdCur | .rsvLoad => completeData r stOK grant false q r.len (takeLine v (offOf r.addr) r.len) s2
  | _ => completeData r stOK grant false q 64 v s2

/-- A demand hit on a way: PLRU points away from it, and PREFETCHED is cleared (R33, R49). -/
def Slice.hitWay (x : Slice) (set w : Nat) : Slice :=
  let t := x.word set w
  (if t.prefetched then x.putWord set w { t with prefetched := false } else x).touchWay set w

/-- The demand hit of a request, once: not where its lookup has made it, nor for the request that moved the line from the Reedbed or whose miss
filled the way (R33, R49). -/
def demandHit (i : SliceNo) (set w : Nat) (r : Req) (s : State) : State :=
  if r.touched || r.moved || r.missed then s else s.modSl i (fun x => x.hitWay set w)

/-- Set HP bit p, unless the port is a CXL port whose host has not enabled back-invalidation (R123). -/
def addHp (i : SliceNo) (set w : Nat) (p : Port) (only : Bool) (s : State) : State :=
  let b := hpOf s p
  if b = 0 then s
  else s.modSl i (fun x =>
    let t := x.word set w
    x.putWord set w { t with hp := if only then b else t.hp ||| b })

/-- Count an atomic error (R231). -/
def atomErr (r : Req) (s : State) : State :=
  complete r stERR 0 false false (s.modHp r.port (fun h => { h with atomErr := h.atomErr + 1 }))

/-- End a conditional store (R214): OK, FAIL or UNSUP, counted; `clear`: its slot is cleared. -/
def endCs (r : Req) (st : BitVec 3) (clear : Bool) (s : State) : State :=
  let s1 := s.modHp r.port (fun h =>
    let h1 := if clear then { h.rsvFix with rsv := spDel r.rslot.toNat h.goodRsv } else h
    if st = stOK then { h1 with cstOk := h1.cstOk + 1 }
    else if st = stFAIL then { h1 with cstFail := h1.cstFail + 1 }
    else { h1 with cstUnsup := h1.cstUnsup + 1 })
  complete r st 0 false false s1

/-! ### The contention predictor (R207 to R209) -/

/-- Index of a line in the predictor (R207). -/
def predIdx (l : LAddr) : Nat := (setOf l).toNat % 4096 ^^^ (tagOf l).toNat % 4096
/-- Counter of a line; one with bad parity is 0 (R207). -/
def Slice.predGet (x : Slice) (l : LAddr) : Nat :=
  let c := spGet { val := 0 } x.predict (predIdx l)
  if c.bad then 0 else c.val.toNat
/-- Raise or lower a counter, saturating at 0 and 3 (R208). -/
def Slice.predAdd (x : Slice) (l : LAddr) (up : Bool) : Slice :=
  let n := x.predGet l
  { x with predict := spSet { val := 0 } (predIdx l) { val := BitVec.ofNat 4 (if up then min (n + 1) 3 else n - 1) } x.predict }

/-! ### Hits -/

/-- Perform a near atomic on the way, its hosts snooped (R202, R204). One that is not applied because the line is poisoned answers CMPEQ 0, and is
counted as executed near: the spec says neither (DESIGN CHOICE, log 101). -/
def nearAtomic (i : SliceNo) (set w : Nat) (r : Req) (s : State) : State :=
  let x := readSlot i set w s
  let off := offOf r.addr
  let a := atomicLine r.aop r.len off (r.data.setWidth 128) r.opB x.1.data
  let s1 := (x.2.2).modSl i (fun y =>
    let y1 := { y with amoNear := y.amoNear + 1 }
    if r.pred then y1.predAdd (lineOf r.addr) false else y1)
  let old : Line := a.2.1.setWidth 512
  if x.2.1 then
    stampCheck r true (completeData r stPOIS 0 false true r.len old (demandHit i set w r
      (s1.modSl i (fun y => y.putWord set w { y.word set w with st := .M, hp := 0 }))))
  else
    let s2 := (writeSlot i set w { x.1 with data := a.1 } s1).modSl i (fun y => y.putWord set w { y.word set w with st := .M, hp := 0 })
    completeData r stOK 0 a.2.2 false r.len old (demandHit i set w r s2)

/-- Perform a store on the way, its hosts snooped (R217). -/
def storeWay (i : SliceNo) (set w : Nat) (r : Req) (s : State) : State :=
  let s1 := writeWay i set w r.data r.mask r.poison (fun _ => .M) s
  demandHit i set w r (s1.modSl i (fun x => x.putWord set w { x.word set w with hp := 0 }))

/-- A request that leaves the exclusive host, another port, without write permission (R116, R117): that host is snooped first. -/
def sharedAfter (i : SliceNo) (t : TagWord) (r : Req) (snooped : Bool) (k : State → State) (s : State) : State :=
  let q := exclHost t
  let need := !snooped && q.isSome && decide (q ≠ some r.port)
  let cur := decide (r.op = .rdCur)
  let y := if need then snoopFor i (lineOf r.addr) (.host { r with snooped := true }) q
      ((hpPorts t).map (fun p => { port := p, inv := false, cur := cur })) s
    else (true, s)
  if y.1 then k y.2 else y.2

/-- A read that hits (R117). -/
def hitRead (i : SliceNo) (set w : Nat) (t : TagWord) (r : Req) (snooped : Bool) (grant : BitVec 2) (addBit : Bool) (s : State) : State :=
  sharedAfter i t r snooped (fun s =>
    let x := readSlot i set w s
    let s1 := demandHit i set w r x.2.2
    giveRead r x.1.data x.2.1 grant (if addBit then addHp i set w r.port false s1 else s1)) s

/-- Ask for write permission on a line held in S, F or O (R135). -/
def askUpg (i : SliceNo) (r : Req) (s : State) : State := requestFor i .upg r none 0 s

/-- A request that hits a way is served here: every read, an ownership request that is granted shared, and a store to a line held in E or M;
otherwise it goes to the home (R97, R135, R256). -/
def servedHere (r : Req) (on : Bool) (st : LState) : Bool :=
  let own := decide (st = .E) || decide (st = .M)
  match r.op with
  | .rdShared | .rsvLoad | .rdCur => true
  | .rdOwn | .upgrade => r.wt || !on || own
  | .write | .atomic | .condStore => own
  | .writeNT | .pfHint | .exc => false

/-- A request that hits way w (R97, R117, R203, R214). One served here gives its miss token back (R257). An Upgrade on a line in E or M is
answered without data, write permission granted, also where the port's copy was invalidated after it was sent: the spec says no more than that
permission is granted (DESIGN CHOICE, log 102). -/
def hit (i : SliceNo) (w : Nat) (t : TagWord) (r0 : Req) (snooped : Bool) (s0 : State) : State :=
  let l := lineOf r0.addr
  let set := (setOf l).toNat
  let on := (s0.sl i).enabled
  let excl := exclHost t
  let own := decide (t.st = .E) || decide (t.st = .M)
  let here := servedHere r0 on t.st
  let r := { r0 with refunded := r0.refunded || here }
  let s := if here then refund r0 s0 else s0
  let snp (qs : List SnpReq) (k : State → State) : State :=
    if snooped then k s
    else
      let y := snoopFor i l (.host { r with snooped := r.snooped || !qs.isEmpty }) excl qs s
      if y.1 then k y.2 else y.2
  match r.op with
  | .rdShared | .rsvLoad => hitRead i set w t r snooped 1 true s
  | .rdCur => hitRead i set w t r snooped 0 false s
  | .rdOwn | .upgrade =>
    if r.wt || !on then
      if r.op = .upgrade then
        sharedAfter i t r snooped (fun s => complete r stOK 3 false false (addHp i set w r.port false (demandHit i set w r s))) s
      else hitRead i set w t r snooped 3 true s
    else
      snp (snpInvAll t (some r.port)) (fun s =>
        if own then
          let x := readSlot i set w s
          let s1 := addHp i set w r.port true (demandHit i set w r x.2.2)
          if r.op = .upgrade && !r.missed then complete r stOK 2 false x.2.1 s1
          else giveRead r x.1.data x.2.1 2 s1
        else askUpg i r s)
  | .write =>
    snp (snpInvAll t none) (fun s =>
      if own then complete r stOK 0 false false (storeWay i set w r s) else askUpg i r s)
  | .atomic =>
    if own then snp (snpInvAll t none) (fun s => nearAtomic i set w r s) else askUpg i r s
  | .condStore =>
    if own then
      snp ((hpPorts t).map (fun p => { port := p, inv := true, exempt := decide (p = r.port) }))
        (fun s => endCs r stOK true (storeWay i set w r s))
    else askUpg i r s
  | .writeNT | .pfHint | .exc => s

/-- AmoF leaves for the home (R205). -/
def sendAmoF (i : SliceNo) (r : Req) (s : State) : State :=
  requestFor i .amoF r none (amoBlock r.aop r.len (offOf r.addr) (r.data.setWidth 128) r.opB) s

/-- A far atomic (R205): a copy in S or F is dropped without notice, its hosts snooped; AmoF goes to the home. -/
def farAtomic (i : SliceNo) (r : Req) (snooped : Bool) (s : State) : State :=
  let l := lineOf r.addr
  let set := (setOf l).toNat
  if isFar s l then sendAmoF i r s
  else match (s.sl i).find l with
  | some (w, t) =>
    if t.st = .S ∨ t.st = .F then
      let y := if snooped then (true, s) else snoopFor i l (.host { r with snooped := true }) none (snpInvAll t none) s
      if y.1 then sendAmoF i r (dropWay i set w y.2) else y.2
    else sendAmoF i r s
  | none => sendAmoF i r s

/-- The bad counter of a line is rewritten with 0 as it is read (R207). -/
def Slice.predFix (x : Slice) (l : LAddr) : Slice :=
  if (spGet { val := 0 } x.predict (predIdx l)).bad then { x with predict := spSet { val := 0 } (predIdx l) { val := 0 } x.predict } else x

/-- Where an atomic is executed (R203 rows 3 to 9): `true` near. One that has opened its own transaction executes on its grant (R204). The
predictor's choice is marked in the request; a far prediction is counted once, and a sample goes near (R209). -/
def chooseNear (i : SliceNo) (r : Req) (st : LState) (s : State) : Bool × Req × State :=
  let l := lineOf r.addr
  let x := (s.sl i).predFix l
  if r.aop = 0x10 then (true, r, s)
  else if isFar s l || r.wt || !(s.sl i).enabled then (false, r, s)
  else if r.opened || r.pred then (true, r, s)
  else if st = .E ∨ st = .M ∨ st = .O then (true, r, s)
  else if x.amoMode = 1 then (true, r, s)
  else if x.amoMode = 2 || r.farPred then (false, r, s)
  else if x.predGet l < 2 then (true, { r with pred := true }, s.setSl i x)
  else
    let n := x.farCnt + 1
    let s1 := s.setSl i { x with farCnt := n }
    if x.sample ≠ 0 ∧ n % x.sample = 0 then (true, { r with pred := true }, s1) else (false, { r with farPred := true }, s1)

/-- A far read, or a read that allocates nothing (R20, R97, R117): RdU. -/
def readU (i : SliceNo) (r : Req) (s : State) : State := requestFor i .rdU r none 0 s

/-- A request that misses (R97, R117, R135). -/
def miss (i : SliceNo) (r : Req) (s : State) : State :=
  let on := (s.sl i).enabled
  match r.op with
  | .rdCur => readU i r s
  | .rdShared | .rsvLoad => if on then missFill i r s else readU i r s
  | .rdOwn | .upgrade =>
    if !on then readU i r s else missFill i { r with op := .rdOwn } s
  | _ => missFill i r s

/-! ### The access -/

/-- A store takes the route of R75: in a write-through region, to a far line, or in a slice that is not ENABLED (R69). -/
def buffered (s : State) (r : Req) : Bool :=
  decide (r.op = .write) && (r.wt || isFar s (lineOf r.addr) || !(s.sl (sliceOf (lineOf r.addr))).enabled)

/-- The port's own buffered entries of the line that an access waits for (R206): for a store that takes the write-back route also a
write-merge entry of the port, whose older bytes go before it (R218, R220). -/
def ownEntries (s : State) (r : Req) : Bool :=
  let l := lineOf r.addr
  let n := (s.hp r.port).ntc.any (fun e => decide (e.line = l))
  let w := (s.sl (sliceOf l)).wmb.any (fun e => decide (e.line = l) && decide (e.port = r.port))
  match r.op with
  | .atomic | .rsvLoad | .condStore => n || w
  | .write => n || (w && !buffered s r)
  | _ => false

/-- Row 2 of R214. -/
def csUnsup (r : Req) (s : State) : Bool :=
  let l := lineOf r.addr
  isFar s l || r.wt || !(s.sl (sliceOf l)).enabled

/-- Rows 2 to 5 of R214: the outcome that ends a conditional store before it is performed; one that fails clears its entry (R212). -/
def csEnd (r : Req) (s : State) : Option (State → State) :=
  let l := lineOf r.addr
  if csUnsup r s then some (endCs r stUNSUP true)
  else if !hasRsv (s.hp r.port) r.rslot.toNat l then some (endCs r stFAIL true)
  else if r.csBroken then some (endCs r stFAIL true)
  else none

/-- Row 2 of R203: a CAS16 that cannot be executed. -/
def cas16Bad (r : Req) (s : State) : Bool :=
  let l := lineOf r.addr
  decide (r.op = .atomic) && decide (r.aop = 0x10) && (r.wt || isFar s l || r.cxl || !(s.sl (sliceOf l)).enabled)

/-- A load hits its own port's open transaction only where the copy may still be read: an Upg keeps it (R136); a WrU of the
port leaves it (R75). -/
def joins (t : STxn) (r : Req) : Bool :=
  match t.kind with
  | .rdS | .rdX | .pfq => true
  | .upg => !isLoad r.op || decide (r.op = .rdOwn)
  | _ => false

/-- The service of a request from the way that holds its line; an atomic is executed near or far (R203). -/
def serveHit (i : SliceNo) (w : Nat) (t : TagWord) (r : Req) (snooped : Bool) (s : State) : State :=
  if r.op = .atomic then
    if snooped && (decide (t.st = .S) || decide (t.st = .F)) then farAtomic i r true s
    else
      let c := chooseNear i r t.st s
      if c.1 then hit i w t c.2.1 snooped c.2.2 else farAtomic i c.2.1 snooped c.2.2
  else hit i w t r snooped s

/-- The service of a request whose line is not held. -/
def serveMiss (i : SliceNo) (r : Req) (snooped : Bool) (s : State) : State :=
  if r.op = .atomic then
    let c := chooseNear i r .I s
    if c.1 then miss i c.2.1 c.2.2 else farAtomic i c.2.1 snooped c.2.2
  else miss i r s

/-- The grant of a read that a Reedbed entry serves at once, an ownership read of a write-back line held in S or F excepted (R89, R117). -/
def rbGrant (e : RbEnt) (r : Req) : Option (BitVec 2) :=
  match r.op with
  | .rdShared | .rsvLoad => some 1
  | .rdCur => some 0
  | .rdOwn => if r.wt then some 3 else if e.st = .E then some 2 else none
  | _ => none

/-- The first demand access to a Reedbed line (R89): a read is served at once and the line moved after it; any other access follows the move. A
slice that drains gives the line up, as its Causeway has room (R96). -/
def serveRb (i : SliceNo) (e : RbEnt) (r : Req) (k : Nat → Req → State → State) (s : State) : State :=
  if e.awaited then waitIn i r s
  else if !(s.sl i).enabled then
    if (s.sl i).rbMayGo e then serveMiss i r false (giveUpRb i e s) else waitIn i r s
  else match rbGrant e r with
  | some g =>
    rbCarry i e.line (if r.op = .rdCur then 0 else hpOf s r.port) (giveRead r e.data e.poison g (refund r s))
  | none =>
    let y := rbStep i e 0 (fun w => .evictFor (setOf e.line).toNat w r) s
    match y.1 with
    | .moved w => k w { r with moved := true } y.2
    | .snooping => y.2
    | .stuck => waitIn i r y.2

/-- The lookup and service of a request whose line nothing else holds back. -/
def lookupServe (i : SliceNo) (r : Req) (snooped : Bool) (s : State) : State :=
  let l := lineOf r.addr
  match (s.sl i).find l with
  | some (w, t) => if t.st = .P then waitIn i r s else serveHit i w t r snooped s
  | none =>
    match (s.sl i).rbOf l with
    | some e => serveRb i e r (fun w r s => serveHit i w ((s.sl i).word (setOf l).toNat w) r false s) s
    | none => serveMiss i r snooped s

/-- A store to a write-through region, to a far line or in a slice that is not ENABLED takes the route of R75; it moves a line of the Reedbed
first (R89). -/
def storeBuffered (i : SliceNo) (r : Req) (s : State) : State :=
  let x := s.sl i
  match x.rbOf (lineOf r.addr) with
  | some e =>
    if e.awaited || !x.enabled || (x.moveHp e.line).isSome then wmbStore i r s else serveRb i e r (fun _ r s => wmbStore i r s) s
  | none => wmbStore i r s

/-- The demand lookup of a request, made and counted once (R35, R40, R66, log 87): none where the request has ended with a stop of the device or
waits for a shadow entry. An unstamped one that hits touches PLRU and clears PREFETCHED (R33, R49, R249). -/
def demandOnce (i : SliceNo) (r : Req) (snooped : Bool) (s : State) : Option Req × State :=
  let l := lineOf r.addr
  if isFar s l || r.looked || snooped then (some r, s)
  else
    let y := readTags i (setOf l).toNat s
    if !y.1 then (none, completeStop r y.2)
    else
      let way := (((y.2.sl i).find l).filter (fun c => decide (c.2.st ≠ .P))).map (·.1)
      let s1 := tsRow i (setOf l).toNat way.isSome s y.2
      match (s1.sl i).demandLook (setOf l).toNat (tagOf l) way with
      | none => (none, waitIn i { r with pin := true } s1)
      | some x1 =>
        match way.filter (fun _ => !(s1.hp r.port).stamped) with
        | some w => (some { r with looked := true, touched := true }, s1.setSl i (x1.hitWay (setOf l).toNat w))
        | none => (some { r with looked := true }, s1.setSl i x1)

/-- A host request in its slice, its demand lookup made: what holds its line back, or its service. -/
def serveLine (i : SliceNo) (r : Req) (snooped : Bool) (s : State) : State :=
  let l := lineOf r.addr
  let x := s.sl i
  let far := isFar s l
  if x.wmb.any (fun e => decide (e.line = l) && decide (e.port ≠ r.port) && decide (e.st = .issued)) then waitIn i r s
  else if !far && (x.cwOf l).isSome then waitIn i { r with cww := true } s
  else if buffered s r then storeBuffered i r s
  else if far then
    (if x.stt.any (fun t => decide (t.line = l)) && !isLoad r.op then waitIn i r s
     else if r.op = .atomic then farAtomic i r snooped s else readU i r s)
  else if !snooped && x.grpOn l then waitIn i r s
  else
    let held := match x.find l with | some (_, t) => decide (t.st ≠ .P) | none => false
    match x.txnOf l with
    | some t =>
      if t.stamp.isSome then waitIn i r s
      else if joins t r then modTxn i t.rtid (fun t => { t with joined := t.joined ++ [{ r with missed := true }] }) s
      else if held && isLoad r.op then lookupServe i r snooped s
      else waitIn i r s
    | none => lookupServe i r snooped s

/-- A host request in its slice. `snooped`: its host snoops have been answered. -/
def access (r : Req) (snooped : Bool) (s : State) : State :=
  let l := lineOf r.addr
  let i := sliceOf l
  if s.fabric.selfDead then completeStop r s
  else if !inTorus s.node (lineHome l) then completeErr r stADDR (evAddrErr r.addr r.port s)
  else if r.op = .writeNT then ntcStore r s
  else if r.op = .pfHint then prefetch r.port r.strm r.bound l (complete r stOK 0 false false s)
  else if ownEntries s r then waitIn i r s
  else if cas16Bad r s then atomErr r s
  else match (if r.op = .condStore then csEnd r s else none) with
  | some k => k s
  | none =>
    let y := demandOnce i r snooped s
    match y.1 with
    | none => y.2
    | some r => serveLine i r snooped y.2

end Sys2Proof.Machine
end

