-- ==== Sys2Proof/Machine/Stamped.lean ====
section
/-! DEFINITION. The slice in stamp mode: requests, grants, performing and applying (R246 to R252). -/

namespace Sys2Proof.Machine

/-- The request a stamped access sends (R246). -/
def stampKind (o : Op) (aop : BitVec 5) (st : LState) : BKind :=
  let own : BKind := if st = .S ∨ st = .F ∨ st = .O then .upg else .rdX
  match o with
  | .atomic => if aop = 0x10 then own else .amoF
  | .write | .condStore | .upgrade => own
  | .rdShared | .rdOwn | .rdCur | .rsvLoad | .writeNT | .pfHint | .exc => .rdS

/-- A stamped far atomic (R205): the line of a Reedbed entry is moved into the cache first (R89); a copy in S or F then goes without notice. -/
def stampFar (i : SliceNo) (r : Req) (snooped : Bool) (s : State) : State :=
  match (s.sl i).rbOf (lineOf r.addr) with
  | some e =>
    if (s.sl i).enabled then serveRb i e r (fun _ r s => farAtomic i r false s) s
    else if (s.sl i).rbMayGo e then farAtomic i r snooped (giveUpRb i e s)
    else waitIn i r s
  | none => farAtomic i r snooped s

/-- The entry of a stamped access, performed and not yet applied, that holds a line (R248). -/
def Slice.entryOfLine (x : Slice) (l : LAddr) : Option STxn :=
  x.stt.find? (fun t => decide (t.line = l) && decide (t.st = .performed) && decide (t.gst ≠ .I))

/-- State of the slice's copy of a line: in a way, in the entry of an access not yet applied, or in the Reedbed. -/
def Slice.copySt (x : Slice) (l : LAddr) : LState :=
  match x.find l with
  | some (_, w) => w.st
  | none => match x.entryOfLine l with
    | some t => t.gst
    | none => match x.rbOf l with
      | some e => if e.awaited then .I else e.st
      | none => .I

/-- A stamped access whose lookup is made: sent to its home (R246). It waits behind another port's issued entry of its line (R76), but not behind a
stamped request of a higher stamp on its line (log 18). -/
def stampSend (i : SliceNo) (r : Req) (snooped : Bool) (s : State) : State :=
  let l := lineOf r.addr
  let x := s.sl i
  let before (u : W64) : Bool := u.ule (r.stamp.getD 0)
  if x.wmb.any (fun e => decide (e.line = l) && decide (e.port ≠ r.port) && decide (e.st = .issued)) then waitIn i r s
  else if (x.cwOf l).isSome then waitIn i r s
  else if buffered s r then storeBuffered i r s
  else if !snooped && x.grpOn l then waitIn i r s
  else if x.stt.any (fun u => decide (u.line = l) && decide (u.st ≠ .retain) && decide (u.st ≠ .performed) && u.stamp.all before) then
    waitIn i r s
  else
    let k := stampKind r.op r.aop (x.copySt l)
    if k = .amoF then stampFar i r snooped s else requestFor i k r none 0 s

/-- A stamped access in its slice: always sent to its home (R246), a conditional store too that has lost its reservation; one that row 2 of R214
refuses names no line that the slice may ask for (R70). `snooped`: the hosts a far atomic snoops have answered. A hint is checked at the apply
point of its stamp, and waits for its entry (R92, R251). -/
def stampAccess (r : Req) (snooped : Bool) (s : State) : State :=
  let l := lineOf r.addr
  let i := sliceOf l
  if s.fabric.selfDead then completeStop r s
  else if !inTorus s.node (lineHome l) then completeErr r stADDR (evAddrErr r.addr r.port s)
  else if r.op = .writeNT then ntcStore r s
  else if r.op = .pfHint then
    (if r.missed then
       (if (r.stamp.getD 0).ult s.stamp.settle then
          let y := prefetchTry r.port r.strm r.stamp false l s
          if y.1 then waitIn i r y.2 else y.2
        else waitIn i r s)
     else waitIn i { r with missed := true } (complete r stOK 0 false false s))
  else if ownEntries s r then waitIn i r s
  else if cas16Bad r s then atomErr r s
  else if r.op = .condStore && csUnsup r s then endCs r stUNSUP true s
  else
    let y := demandOnce i r snooped s
    match y.1 with
    | none => y.2
    | some r => stampSend i r snooped y.2

/-- The Ack of a transaction to its home (R133, R244). -/
def sendAck (i : SliceNo) (t : STxn) (home : NodeId) (htid : BitVec 12) (fwdr : Bool) (s : State) : State :=
  sendMsg .ack { dst := home, dstu := homeUnit, src := s.node.node, srcu := unitOf i, rtid := t.rtid, laddr := t.line,
                 htid := htid, rqn := s.node.node, rqu := unitOf i, fwdr := fwdr, gen := t.gen } s

/-- A grant for a stamp waits until the slice has applied every stamped access of a lower stamp it knows of: open, granted or performed, waiting,
or buffered (R248). -/
def grantWaits (s : State) (i : SliceNo) (t : STxn) : Bool :=
  let x := s.sl i
  let low (u : Option W64) : Bool := match u, t.stamp with | some a, some b => a.ult b | _, _ => false
  x.stt.any (fun u => decide (u.rtid ≠ t.rtid) && decide (u.kind ≠ .pfq) && decide (u.st ≠ .retain) && low u.stamp) ||
    x.waiters.any (fun r => decide (r.op ≠ .pfHint) && low r.stamp) || x.wmb.any (fun e => low e.stamp) ||
    x.snpGrps.any (fun g => match g.act with | .host r => low r.stamp | _ => false) ||
    ports.any (fun p => (s.hp p).ntc.any (fun e => decide (sliceOf e.line = i) && low e.stamp))

/-- Perform a stamped access on a value: the line it leaves, its state, and the answer to the host (R248). One served or refused on poisoned data
breaks the guarantee (R252). -/
def performOn (r : Req) (d : Line) (poison : Bool) (st : LState) (s : State) : Line × LState × Bool × State :=
  match r.op with
  | .write =>
    (mergeLine d r.data r.mask, .M, poisonAfter poison r.poison r.mask, stampCheck r poison (complete r stOK 0 false false s))
  | .condStore =>
    match csEnd r s with
    | some k => (d, st, poison, stampCheck r poison (k s))
    | none => (mergeLine d r.data r.mask, .M, poisonAfter poison r.poison r.mask, stampCheck r poison (endCs r stOK true s))
  | .atomic =>
    let a := atomicLine r.aop r.len (offOf r.addr) (r.data.setWidth 128) r.opB d
    let old : Line := a.2.1.setWidth 512
    let s1 := s.modSl (sliceOf (lineOf r.addr)) (fun x => { x with amoNear := x.amoNear + 1 })
    if poison then (d, .M, true, stampCheck r true (completeData r stPOIS 0 false true r.len old s1))
    else (a.1, .M, false, completeData r stOK 0 a.2.2 false r.len old s1)
  | _ => (d, st, poison, giveRead r d poison 0 s)

/-- The HP bits of a line after a stamped access: none after a store, the port's added after a load that its host may keep (R117, R247). -/
def stampHp (r : Req) (s : State) (old : BitVec 4) : BitVec 4 :=
  if opStores r.op then 0 else if r.op = .rdCur then old else old ||| hpOf s r.port

/-- A stamped access has been performed: the Ack leaves, and the entry waits for its application (R244, R248). -/
def performed (i : SliceNo) (t : STxn) (hp : BitVec 4) (s : State) : State :=
  sendAck i t t.dst t.htid false (modTxn i t.rtid (fun u => { u with st := .performed, req := none, hp := hp }) s)

/-- Perform a stamped access on the way that holds its line: its hosts are snooped first; PREFETCHED is cleared, PLRU kept (R249); the number of
a new grant of ownership goes into the slot (R134). -/
def performWay (i : SliceNo) (t : STxn) (r : Req) (w : Nat) (tw : TagWord) (snooped : Bool) (s : State) : State :=
  let set := (setOf t.line).toNat
  let stores := opStores r.op
  let qs : List SnpReq := if stores then
      (hpPorts tw).map (fun p => { port := p, inv := true, exempt := decide (r.op = .condStore) && decide (p = r.port) })
    else match exclHost tw with
      | some q => if q = r.port then [] else [{ port := q, inv := false, cur := decide (r.op = .rdCur) }]
      | none => []
  let y := if snooped then (true, s) else snoopFor i t.line (.perform t.rtid) (exclHost tw) qs s
  if !y.1 then y.2
  else
    let v := readSlot i set w y.2
    let st0 := ((v.2.2).sl i).word set w
    let p := performOn r v.1.data v.2.1 (if stores then .M else st0.st) v.2.2
    let osn := if t.kind = .upg ∨ t.gst ≠ .I then t.osn else v.1.osn
    let s1 := if stores then writeSlot i set w { data := p.1, osn := osn } p.2.2.2 else p.2.2.2
    performed i t 0 (s1.modSl i (fun x => x.putWord set w { x.word set w with
      st := p.2.1, poison := p.2.2.1, prefetched := false, hp := stampHp r s1 (x.word set w).hp }))

/-- Perform a stamped access on a line that the entry of another one holds, performed and not yet applied: the line stays there (R248). -/
def performOther (i : SliceNo) (t u : STxn) (r : Req) (s : State) : State :=
  let p := performOn r u.data u.poison (if opStores r.op then .M else u.gst) s
  let keep (v : STxn) : STxn := { v with
    data := p.1, gst := p.2.1, poison := p.2.2.1, hp := stampHp r p.2.2.2 v.hp
    osn := if t.kind = .upg then t.osn else v.osn }
  performed i t 0 (modTxn i u.rtid keep p.2.2.2)

/-- Perform a stamped access on the data its transaction entry holds. -/
def performEntry (i : SliceNo) (t : STxn) (r : Req) (s : State) : State :=
  let p := performOn r t.data t.poison (if opStores r.op then .M else t.gst) s
  performed i t (stampHp r p.2.2.2 t.hp)
    (modTxn i t.rtid (fun u => { u with data := p.1, gst := p.2.1, poison := p.2.2.1, osn := t.osn, fromRb := t.fromRb }) p.2.2.2)

/-- Perform a stamped transaction whose grant has come: on the way that holds the line, on the data of its entry or of another's, or on the copy
of the Reedbed, which the entry takes over (R89, R248). Without any it waits for data. `snooped`: the answers are in. -/
def stampPerform (i : SliceNo) (rtid : BitVec 12) (snooped : Bool) (s : State) : State :=
  match (s.sl i).stt.find? (fun t => decide (t.rtid = rtid)) with
  | none => s
  | some t =>
    match t.req with
    | none => closeTxn i rtid s
    | some r =>
      match (s.sl i).find t.line with
      | some (w, tw) => performWay i t r w tw snooped s
      | none =>
        if t.gst ≠ .I then performEntry i t r s
        else match (s.sl i).entryOfLine t.line with
        | some u => performOther i t u r s
        | none => match (s.sl i).rb.find? (fun e => decide (e.line = t.line) && !e.awaited) with
          | some e =>
            performEntry i { t with data := e.data, gst := e.st, poison := e.poison, fromRb := true, osn := if t.kind = .upg then t.osn else e.osn } r
              ((dropRb i t.line s).modSl i (fun x => x.outcome true))
          | none => s

/-- A grant of a stamped transaction: held until the lower stamps are applied, else performed and acknowledged (R248). -/
def stampGrant (i : SliceNo) (t : STxn) (htid : BitVec 12) (s : State) : State :=
  let s1 := modTxn i t.rtid (fun u => { u with st := .heldGrant, reg := true, htid := htid, osn := t.osn }) s
  if grantWaits s1 i t then s1 else stampPerform i t.rtid false s1

/-- The stamp ways of a set, in order (R249). -/
def stampWaysOf (s : State) (x : Slice) (set : Nat) : List Nat :=
  let b := x.block set
  (List.range 15).filter (fun w => bit s.stamp.mask w && x.eligible set b w)

/-- The way an applied access empties (R249). -/
def stampWay (s : State) (x : Slice) (l : LAddr) (stamp : W64) : Option Nat :=
  let ws := stampWaysOf s x (setOf l).toNat
  if ws.isEmpty then none else ws[((tagOf l).toNat ^^^ stamp.toNat % 2 ^ 20) % ws.length]?

/-- Place the line of an applied access in a way that has been emptied, or leave it empty when the line was taken (R248). A line that a miss
brought is a fill of that way for the hint (R40). -/
def placeApplied (i : SliceNo) (t : STxn) (w : Nat) (s : State) : State :=
  let set := (setOf t.line).toNat
  let x := s.sl i
  let s1 := match x.find t.line with
    | some (v, tw) =>
      let d := readSlot i set v s
      ((writeSlot i set w d.1 d.2.2).modSl i (fun x => (x.putWord set v {}).putWord set w { tw with poison := d.2.1 }))
    | none =>
      if t.gst = .I then s
      else (writeSlot i set w ⟨t.data, t.osn⟩ (rowOpen set s)).modSl i (fun x =>
        let y := x.putWord set w { tag := tagOf t.line, st := t.gst, poison := t.poison, hp := t.hp, prefetched := t.fromRb }
        if t.fromRb then y else y.hintFill set (tagOf t.line) w)
  closeTxn i t.rtid s1

/-- Apply one performed access (R248, R249). -/
def applyOne (i : SliceNo) (t : STxn) (s : State) : State :=
  let set := (setOf t.line).toNat
  let x := s.sl i
  let inStamp := match x.find t.line with | some (v, _) => bit s.stamp.mask v | none => false
  if inStamp then closeTxn i t.rtid s
  else match stampWay s x t.line (t.stamp.getD 0) with
    | none => closeTxn i t.rtid s
    | some w =>
      let tw := x.word set w
      if tw.st = .I then placeApplied i t w s
      else if x.grpOn (lineIn s i set tw) || (needsCw tw.st false && !x.cwDemand) then s
      else
        let y := snoopFor i (lineIn s i set tw) (.apply set w t.rtid) (exclHost tw) (snpInvAll tw none) s
        if y.1 then placeApplied i t w (evictWay i set w false y.2) else y.2

/-- Order of keys within a slice (R234): stamp, port, stream. -/
def keyLe (a b : STxn) : Bool :=
  let k (t : STxn) : Nat := ((t.stamp.getD 0).toNat * 4 + t.port.val) * 16 + t.strm.toNat
  decide (k a ≤ k b)

/-- Performed accesses of a slice below the settle point, in key order. -/
def dueApply (s : State) (i : SliceNo) : List STxn :=
  ((s.sl i).stt.filter (fun t => decide (t.st = .performed) &&
    (match t.stamp with | some u => u.ult s.stamp.settle | none => false))).mergeSort keyLe

/-- The access is the next of its set to be applied: the first in key order of those due (R248). -/
def nextOfSet (s : State) (i : SliceNo) (t : STxn) : Bool :=
  (dueApply s i).find? (fun u => decide (setOf u.line = setOf t.line)) |>.any (fun u => decide (u.rtid = t.rtid))

/-- Apply what the settle point has passed, in key order within each set, then perform the grants that waited for it (R248). -/
def applyDue (i : SliceNo) (s : State) : State :=
  let s1 := s.each (dueApply s i) (fun s t =>
    if nextOfSet s i t &&
        !(s.sl i).snpGrps.any (fun g => match g.act with | .apply _ _ n => decide (n = t.rtid) | _ => false) then applyOne i t s else s)
  s1.each (((s1.sl i).stt.filter (fun t => decide (t.st = .heldGrant))).mergeSort keyLe) (fun s t =>
    if grantWaits s i t || (s.sl i).grpOn t.line then s else stampPerform i t.rtid false s)

end Sys2Proof.Machine
end

