-- ==== Sys2Proof/Machine/Slices.lean ====
section
/-! DEFINITION. The slice as holder and as requester, its walks, and the actions that host answers release (R93, R118, R136,
R137, R161). -/

namespace Sys2Proof.Machine

/-! ### Holder (R85, R90, R137, R138, R161) -/

/-- Data to the requester that a forward names (R137). -/
def dataToQ (i : SliceNo) (k : BKind) (m : BMsg) (fwdr poison : Bool) (osn : BitVec 12) (d : Line) (s : State) : State :=
  sendMsg k { dst := m.rqn, dstu := m.rqu, src := s.node.node, srcu := unitOf i, rtid := m.rtid, laddr := m.laddr, poison := poison,
              waitcmp := m.waitcmp && decide (k ≠ .dataS), fwdr := fwdr, rqn := m.rqn, rqu := m.rqu, htid := m.htid, osn := osn,
              gen := m.gen, data := d, allow := m.allow } s

/-- Data to the home that sent a probe (R137). -/
def dataToH (i : SliceNo) (k : BKind) (m : BMsg) (poison : Bool) (osn : BitVec 12) (d : Line) (s : State) : State :=
  sendMsg k { dst := m.src, dstu := homeUnit, src := s.node.node, srcu := unitOf i, rtid := m.rtid, laddr := m.laddr, poison := poison,
              rqn := m.rqn, rqu := m.rqu, htid := m.htid, osn := osn, gen := m.gen, data := d, allow := m.allow } s

/-- InvAck to the home; the answer to a broadcast goes to this node's switch, to be combined (R137, R308). -/
def invAckTo (i : SliceNo) (k : BKind) (m : BMsg) (s : State) : State :=
  let a : BMsg := { dst := m.src, dstu := homeUnit, src := s.node.node, srcu := unitOf i, rtid := m.rtid, laddr := m.laddr,
                    rqn := m.rqn, rqu := m.rqu, htid := m.htid, gen := m.gen, allow := m.allow }
  if k = .bInv then (if s.fabric.stopped then s else s.emit (.comb (some s.node.node) a 1)) else sendMsg .invAck a s

/-- A message that cannot arise is counted, posted and recorded with its source, and VC‖OPC (R138, R9). -/
def protoErr (k : BKind) (m : BMsg) (s : State) : State :=
  let c := bkCode k
  recLine 4 m.laddr m.src.toNat (c.1.toNat * 32 + c.2.toNat) (evProto 2 m.src m.laddr s)

/-- A message that cannot arise is answered as for a line not held (R138). -/
def cannotArise (i : SliceNo) (k : BKind) (m : BMsg) (s : State) : State := invAckTo i k m (protoErr k m s)

/-- Whether a message can arise for a state (R137). -/
def arises (k : BKind) (st : LState) : Bool :=
  match k with
  | .fwdS => decide (st = .F) || decide (st = .E) || decide (st = .O) || decide (st = .M)
  | .fwdX | .probe => decide (st = .E) || decide (st = .O) || decide (st = .M)
  | _ => decide (st = .S) || decide (st = .F) || decide (st = .O)

/-- Answer of a copy in a state, its hosts snooped: the state left, and the message sent (R137). -/
def answerCopy (i : SliceNo) (k : BKind) (m : BMsg) (st : LState) (d : Slot) (poison : Bool) (s : State) : LState × State :=
  let dirty := decide (st = .M) || decide (st = .O)
  match k with
  | .fwdS =>
    if st = .F then (if m.fwdr then .S else .F, dataToQ i .dataS m m.fwdr poison m.osn d.data s)
    else if st = .E then (.S, dataToQ i .dataS m true poison m.osn d.data s)
    else (.O, dataToQ i .dataS m false poison m.osn d.data s)
  | .fwdX => (.I, dataToQ i (if dirty then .dataM else .dataE) m false poison m.osn d.data s)
  | .probe => (if m.keep then st else .I, dataToH i (if dirty then .dataM else .dataE) m poison d.osn d.data s)
  | _ => (.I, invAckTo i k m s)

/-- The state a copy answers in while a Put with RETAIN of its line awaits WbAck (R161). -/
def retainSt (x : Slice) (l : LAddr) (st : LState) : LState :=
  match x.stt.find? (fun t => decide (t.line = l) && decide (t.st = .retain) && decide (t.gst ≠ .I)) with
  | some t => if st = .E ∨ st = .M then .M else if st = .S then t.gst else st
  | none => st

/-- Snoops a holder makes before it answers from a way (R118, R137). -/
def holderSnoops (k : BKind) (m : BMsg) (t : TagWord) : List SnpReq :=
  let ex : List SnpReq := match exclHost t with
    | some q => [{ port := q, inv := false, cur := decide (k = .probe) }]
    | none => []
  match k with
  | .fwdS => ex
  | .probe => if m.keep then ex else snpInvAll t none
  | _ => snpInvAll t none

/-- A forward, probe or Inv answered from the transaction entry of a stamped access (R248). -/
def holderEntry (i : SliceNo) (k : BKind) (m : BMsg) (t : STxn) (s : State) : State :=
  if arises k t.gst then
    let a := answerCopy i k m t.gst ⟨t.data, t.osn⟩ t.poison s
    let s1 := modTxn i t.rtid (fun u => { u with gst := a.1 }) a.2
    if a.1 = .I then (snoopFor i m.laddr .nothing none [{ port := t.port, inv := true }] s1).2 else s1
  else cannotArise i k m s

/-- A forward, probe or Inv answered from a Causeway entry (R85). -/
def holderCw (i : SliceNo) (k : BKind) (m : BMsg) (e : CwEnt) (s : State) : State :=
  let l := m.laddr
  let st := retainSt (s.sl i) l e.st
  if st = .I then invAckTo i k m s
  else if arises k st then
    let a := answerCopy i k m st ⟨e.data, e.osn⟩ e.poison s
    a.2.modSl i (fun x => { x with cw := modFirst (fun e => decide (e.line = l)) (fun e => { e with st := a.1, fwded := true }) x.cw })
  else cannotArise i k m s

/-- A forward, probe or Inv answered from a Reedbed entry (R90). -/
def holderRb (i : SliceNo) (k : BKind) (m : BMsg) (e : RbEnt) (s : State) : State :=
  let l := m.laddr
  if arises k e.st then
    let a := answerCopy i k m e.st ⟨e.data, e.osn⟩ e.poison s
    if a.1 = .I then dropRb i l a.2
    else a.2.modSl i (fun x => { x with rb := modFirst (fun e => decide (e.line = l)) (fun e => { e with st := a.1 }) x.rb })
  else cannotArise i k m s

/-- A forward, probe or Inv answered from the way that holds the line, its hosts snooped (R137). A copy that an open Upg of the slice relies on leaves
its way in fill pending for the data the Upg now awaits (R37, R136); a locked way stays empty for a lock-fill (R53). -/
def holderWay (i : SliceNo) (k : BKind) (m : BMsg) (w : Nat) (s : State) : State :=
  let l := m.laddr
  let set := (setOf l).toNat
  let v := readSlot i set w s
  let t1 := ((v.2.2).sl i).word set w
  let st1 := retainSt ((v.2.2).sl i) l t1.st
  let a := answerCopy i k m st1 v.1 v.2.1 v.2.2
  let upg := (a.2.sl i).stt.find? (fun u => decide (u.line = l) && decide (u.kind = .upg) && decide (u.st = .open_) && u.stamp.isNone)
  let kept (s : State) : State := s.modSl i (fun x => { x with stt := x.stt.map (fun u =>
    if u.line = l ∧ u.st = .retain ∧ a.1 = .I then { u with gst := .I } else u) })
  if a.1 = .I then
    match upg.filter (fun _ => !bit (a.2.sl i).lock w) with
    | some u =>
      let y := pendWay i set w l a.2
      kept (if y.1 then modTxn i u.rtid (fun u => { u with way := some w }) y.2 else y.2)
    | none => kept (dropWay i set w a.2)
  else if k = .probe || a.1 = st1 then a.2
  else a.2.modSl i (fun x => x.putWord set w { t1 with st := a.1 })

/-- A forward, probe or Inv that finds no copy (R136, R138): answered as for a line not held, or from the line of a Put with RETAIN (R161). -/
def holderNone (i : SliceNo) (k : BKind) (m : BMsg) (s : State) : State :=
  let l := m.laddr
  let x := s.sl i
  match x.stt.find? (fun t => decide (t.line = l) && decide (t.st = .retain) && decide (t.gst ≠ .I)) with
  | some t =>
    let a := answerCopy i k m t.gst ⟨t.data, t.osn⟩ t.poison s
    modTxn i t.rtid (fun u => { u with gst := if a.1 = .I then .I else u.gst }) a.2
  | none =>
    let inv := decide (k = .inv) || decide (k = .bInv)
    match x.txnOf l with
    | some t =>
      if decide (k ≠ .probe) && (decide (t.st = .cmpAwaited) || (!inv && (decide (t.kind = .rdS) || decide (t.kind = .rdX)))) then
        cannotArise i k m s
      else if inv && (decide (t.kind = .rdS) || decide (t.kind = .pfq)) then
        invAckTo i k m (modTxn i t.rtid (fun u => { u with invOnFill := true }) s)
      else invAckTo i k m s
    | none => invAckTo i k m s

/-- A forward, probe or Inv in the slice of its line. `snooped`: the hosts have answered. Its lookup reads the tag block where the shadow lacks
it, and writes the hint of a way it hits (R40, R342). -/
def holderGo (i : SliceNo) (k : BKind) (m : BMsg) (snooped : Bool) (s0 : State) : State :=
  let l := m.laddr
  let z := if snooped then (true, s0) else lookEntry i l s0
  if !z.1 then z.2 else
  let s := z.2
  let x := s.sl i
  match x.stt.find? (fun t => decide (t.line = l) && t.stamp.isSome && decide (t.gst ≠ .I) && decide (t.st ≠ .retain)) with
  | some t => holderEntry i k m t s
  | none =>
  match x.cwOf l with
  | some e => holderCw i k m e s
  | none =>
  match x.rb.find? (fun e => decide (e.line = l) && !e.awaited) with
  | some e => holderRb i k m e s
  | none =>
  match (s.wayOf i l).filter (fun c => decide (c.2.st ≠ .P)) with
  | some (w, t) =>
    if !arises k (retainSt x l t.st) || (decide (k ≠ .probe) && x.stt.any (fun u => decide (u.line = l) && decide (u.st = .cmpAwaited))) then
      cannotArise i k m s
    else
      let y := if snooped then (true, s) else snoopFor i l (.holder k m) (exclHost t) (holderSnoops k m t) s
      if y.1 then holderWay i k m w y.2 else y.2
  | none => holderNone i k m s

/-- A forward, probe or Inv: it waits behind an action of the line that awaits host answers. -/
def holder (i : SliceNo) (k : BKind) (m : BMsg) (s : State) : State :=
  if (s.sl i).grpOn m.laddr then
    s.modSl i (fun x => { x with snpGrps := x.snpGrps ++ [⟨s.seqNo, .holder k m, m.laddr, []⟩] })
  else holderGo i k m false s

/-! ### Walks (R55, R57, R71, R93, R96, R175, R270) -/

/-- The walk keeps the line, cleaned. -/
def isCleanWalk (k : WalkKind) : Bool := match k with | .clean | .drain => true | _ => false

/-- Count a line of the running command in its outputs (R394). -/
def countCmd (wr disc : Nat) (s : State) : State :=
  { s with fw := { s.fw with walk := s.fw.walk.map (fun c => { c with written := c.written + wr, discarded := c.discarded + disc }) } }

/-- A line of a walk leaves its way, its hosts snooped (R55, R93), counted for a command; a line of a dead home is discarded
with no Put (R175). -/
def walkEvict (i : SliceNo) (set w : Nat) (discard cmd : Bool) (s : State) : State :=
  let t := (s.sl i).word set w
  let dirty := decide (t.st = .M) || decide (t.st = .O)
  let drop := discard && decide (t.st = .M)
  let kept := dirty && !drop && !isLost s.node s.fabric (putHome s (lineIn s i set t)).1
  let s1 := if cmd then countCmd (if kept then 1 else 0) (if drop then 1 else 0) s else s
  evictWay i set w discard s1

/-- A clean step: M to E and O to S with a Put that keeps the line (R93, R96, R161); the data of a line whose home is lost is discarded, and the
way set to I (R175). -/
def cleanStep (i : SliceNo) (set w : Nat) (cmd : Bool) (s : State) : State :=
  let t := (s.sl i).word set w
  if t.st = .M ∨ t.st = .O then
    if isLost s.node s.fabric (putHome s (lineIn s i set t)).1 then evictWay i set w false s
    else match (s.sl i).freeRtid with
    | none => s
    | some n =>
      let l := lineIn s i set t
      let v := readSlot i set w s
      let s1 := (v.2.2).modSl i (fun x => x.putWord set w { x.word set w with st := if t.st = .M then .E else .S })
      let h := putHome s l
      let k : BKind := if t.st = .M then .putM else .putO
      let u : STxn := { rtid := n, line := l, kind := k, dst := h.1, gen := h.2, st := .retain, data := v.1.data, gst := t.st,
                        osn := v.1.osn, poison := v.2.1 }
      let s2 := s1.modSl i (fun x => { x with stt := x.stt ++ [u] })
      sendPut i l t.st v.1 v.2.1 false true (if cmd then countCmd 1 0 s2 else s2)
  else s

/-- Every place of a slice not in I, those in fill pending included. -/
def Slice.occupied (x : Slice) : List (Nat × Nat) :=
  x.held_ ++ x.stt.filterMap (fun t => t.way.map (fun w => ((setOf t.line).toNat, w)))

/-- The line of a place. -/
def placeLineOf (s : State) (i : SliceNo) (c : Nat × Nat) : LAddr := lineIn s i c.1 ((s.sl i).word c.1 c.2)

/-- Member and region of a line. -/
def inRegion (m : Member) (r : BitVec 10) (l : LAddr) : Bool := decide (memOf (lineHome l) = m) && decide (regionOf l = r)

/-- A line lies in the scope of a range command or CLEAN_ALL (R93). -/
def WalkCmd.covers (c : WalkCmd) (l : LAddr) : Bool :=
  decide (c.opc = 0x22) || (decide (c.first ≤ l.toNat * 64) && decide (l.toNat * 64 < c.last))

/-- A place is one that a walk visits (R55, R57, R71, R93, R96, R175, R233). -/
def inWalk (s : State) (i : SliceNo) (k : WalkKind) (c : Nat × Nat) : Bool :=
  match k with
  | .flush | .inval => s.fw.walk.any (fun w => w.covers (placeLineOf s i c))
  | .clean | .drain => true
  | .powerDown g => decide (wayGroup c.2 = g)
  | .disable r w _ => decide (hbmRegion c.1 = r) && decide (c.2 = w)
  | .stampClean => bit s.stamp.mask c.2
  | .purge n => decide ((homeNow s (placeLineOf s i c)).1 = n)
  | .policy m r => inRegion m r (placeLineOf s i c)

/-- Place of a line in the order of a walk (R94): the sets in index order, or the lines of a range of at most 4 GiB. -/
def walkKey (s : State) (i : SliceNo) (k : WalkKind) (c : Nat × Nat) : Nat :=
  match k with
  | .flush | .inval => if s.fw.walk.any (fun w => decide (w.last - w.first ≤ 2 ^ 32)) then (placeLineOf s i c).toNat else placeKey c.1 c.2
  | .clean | .drain | .powerDown _ | .disable _ _ _ | .stampClean | .purge _ | .policy _ _ => placeKey c.1 c.2

/-- The next place of a walk: the first in its order that holds a line, or waits for one, from its progress count on (R94, R270). -/
def nextPlace (s : State) (i : SliceNo) (k : Walk) : Option (Nat × Nat) :=
  firstBy (walkKey s i k.kind) ((s.sl i).occupied.filter (fun c => inWalk s i k.kind c && decide (k.pos ≤ walkKey s i k.kind c)))

/-- Visit one place of a walk: `true` when the walk is done with it; a walk pauses at a place that it cannot clear yet, or whose fill is pending
(R84). -/
def visit (i : SliceNo) (k : WalkKind) (set w : Nat) (s : State) : Bool × State :=
  let x := s.sl i
  let t := x.word set w
  if t.st = .I then (true, s)
  else if t.st = .P then (false, s)
  else
    let l := lineIn s i set t
    if x.grpOn l || x.stt.any (fun u => decide (u.line = l) && decide (u.st ≠ .performed)) then (false, s)
    else if isCleanWalk k then
      let ex : List SnpReq := match exclHost t with | some q => [{ port := q, inv := false }] | none => []
      let dirty := decide (t.st = .M) || decide (t.st = .O)
      if ex.isEmpty && !dirty then (true, s)
      else if !x.cwWalk || x.freeRtid.isNone then (false, s)
      else
        let cmd := decide (k = .clean)
        let y := snoopFor i l (.clean set w cmd) (exclHost t) ex s
        (true, if y.1 then cleanStep i set w cmd y.2 else y.2)
    else
      let disc := decide (k = .inval)
      let cmd := disc || decide (k = .flush)
      let pol := match k with | .policy _ _ => true | _ => false
      if pol && (decide (t.st = .S) || decide (t.st = .F)) then (true, s) else
      if needsCw t.st disc && !homeLost s l && !x.cwWalk then (false, s)
      else
        let y := snoopFor i l (.evict set w disc cmd) (exclHost t) (snpInvAll t none) s
        (true, if y.1 then walkEvict i set w disc cmd y.2 else y.2)

/-- The next place of a walk is visited and its progress count moved on; none when it has none left or pauses there. -/
def visitNext (i : SliceNo) (k : WalkKind) (s : State) : Option State :=
  match (s.sl i).walks.find? (fun j => decide (j.kind = k)) with
  | none => none
  | some j =>
    match nextPlace s i j with
    | none => none
    | some c =>
      let n := walkKey s i k c + 1
      let y := visit i k c.1 c.2 s
      if y.1 then some (y.2.modSl i (fun x => { x with walks := x.walks.map (fun j => if j.kind = k then { j with pos := n } else j) })) else none

/-- A walk carried on over the places it has left, n at most, until it pauses. -/
def walkRun (i : SliceNo) (k : WalkKind) : Nat → State → State
  | 0, s => s
  | n + 1, s =>
    match visitNext i k s with
    | some t => walkRun i k n t
    | none => s

/-- Carry every walk of a slice on to its end, unless WALKHOLD holds them (R272): the passes it has been granted by the time its end is reported
(log 6). -/
def pumpWalks (i : SliceNo) (s : State) : State :=
  if s.arb.walkHold then s
  else s.each (s.sl i).walks (fun s k => walkRun i k.kind (s.sl i).occupied.length s)

/-- Begin a walk of a slice; its passes are granted by the arbiter (R265). -/
def startWalk (i : SliceNo) (k : WalkKind) (s : State) : State :=
  s.modSl i (fun x => { x with walks := x.walks ++ [⟨k, 0⟩] })

/-! ### Lock-fills (R52) -/

/-- Change the walk command in progress. -/
def modCmd (f : WalkCmd → WalkCmd) (s : State) : State := { s with fw := { s.fw with walk := s.fw.walk.map f } }

/-- The target of a lock-fill: the lowest locked way enabled in the region and in I (R52). A way whose disable clean still runs is not yet marked
disabled; the model takes it as no target (DESIGN CHOICE, log 76). -/
def lockTarget (x : Slice) (set : Nat) : Option Nat :=
  (List.range 15).find? (fun w => bit x.lock w && !x.wayDis (hbmRegion set) w && !x.groupDown w && decide ((x.word set w).st = .I))

/-- What a lock-fill does with a line: refused, moved or already locked (done), asked for, or not yet possible; or a Reedbed copy of it given up
first. -/
inductive LockStep | refused | moved | nothing | asked | freed | busy
deriving DecidableEq, Repr

/-- One line of a lock-fill (R52). A line moved into a locked way is a fill of that way for the hint and for PLRU (R40, R49). -/
def lockLine (l : LAddr) (s : State) : LockStep × State :=
  let i := sliceOf l
  let set := (setOf l).toNat
  let x := s.sl i
  if isFar s l || !inTorus s.node (lineHome l) then (.refused, s)
  else if x.grpOn l || x.stt.any (fun t => decide (t.line = l)) || (x.cwOf l).isSome then (.busy, s)
  else match x.find l with
  | some (w, t) =>
    if bit x.lock w then (.nothing, s)
    else match lockTarget x set with
      | none => (.refused, s)
      | some v =>
        let d := readSlot i set w s
        (.moved, (writeSlot i set v d.1 d.2.2).modSl i (fun x =>
          (((x.putWord set v { t with poison := d.2.1 }).putWord set w {}).hintFill set (tagOf l) v).touchWay set v))
  | none =>
    match x.rbOf l with
    | some e => if !x.rbMayGo e then (.busy, s) else (.freed, giveUpRb i e s)
    | none =>
    if !x.enabled || homeLost s l then (.refused, s)
    else match lockTarget x set with
      | none => (.refused, s)
      | some v =>
        match x.freeRtid, shadowFor i set s with
        | some n, some s1 =>
          (.asked, openTxn i { rtid := n, line := l, kind := .rdS, dst := 0, way := some v, lockFill := true }
            (s1.modSl i (fun x => x.putWord set v { tag := tagOf l, st := .P })))
        | _, _ => (.busy, s)

/-- The lock-fill has made its pass over a line, with the outcome counted (R394). -/
def lockCount (l : LAddr) (y : LockStep × State) : State :=
  let drop (c : WalkCmd) : WalkCmd := { c with todo := c.todo.filter (fun x => decide (x ≠ l)) }
  match y.1 with
  | .busy | .freed => y.2
  | .refused => modCmd (fun c => { drop c with refused := c.refused + 1 }) y.2
  | .moved => modCmd (fun c => { drop c with filled := c.filled + 1 }) y.2
  | .nothing => modCmd drop y.2
  | .asked => modCmd (fun c => { drop c with asked := c.asked ++ [l] }) y.2

/-- Carry the lock-fill on over the lines it has left, unless WALKHOLD holds it. -/
def lockPump (s : State) : State :=
  match s.fw.walk with
  | none => s
  | some c => if decide (c.opc ≠ 0x30) || s.arb.walkHold then s else s.each c.todo (fun s l => lockCount l (lockLine l s))

/-! ### Passes of the pipeline (R265 to R270) -/

/-- The next line of a lock-fill in slice i, filled, moved or refused. -/
def lockNext (i : SliceNo) (s : State) : Option State :=
  match s.fw.walk with
  | none => none
  | some c =>
    if c.opc ≠ 0x30 then none
    else match c.todo.find? (fun l => decide (sliceOf l = i)) with
      | none => none
      | some l =>
        let y := lockLine l s
        if y.1 = .busy then none else some (lockCount l y)

/-- One pass of a walk in slice i (R270): the first walk that can go on, else the lock-fill; none while WALKHOLD stops them (R272). -/
def walkPass (i : SliceNo) (s : State) : Option State :=
  if s.arb.walkHold then none
  else match (s.sl i).walks.findSome? (fun k => visitNext i k.kind s) with
    | some t => some t
    | none => lockNext i s

/-- A requester of slice i has its pass (R265, R266): a walk that wins the decision has one first. -/
def arbPass (i : SliceNo) (cls : Cls) (p : Port) (s : State) : State :=
  let x := s.arbiter i
  let me : Cand := { cls := cls, port := p, since := x.dec }
  match walkPass i s with
  | none => (decideIn i [me] s).2
  | some _ =>
    let y := decideIn i [me, { cls := .walk, since := x.walkAt.getD x.dec }] s
    if y.1.any (fun g => decide (g.cls = .walk)) then (decideIn i [me] ((walkPass i y.2).getD y.2)).2 else y.2

/-- A SLICE cycle in which no command has a pass: a walk may be granted (R265). -/
def arbIdle (i : SliceNo) (s : State) : State :=
  match walkPass i s with
  | none => (decideIn i [] s).2
  | some _ =>
    let x := s.arbiter i
    let y := decideIn i [{ cls := .walk, since := x.walkAt.getD x.dec }] s
    if y.1.isSome then (walkPass i y.2).getD y.2 else y.2

/-! ### Actions released by host answers (R118) -/

/-- The host on port p signals an exception (R74, R78, R100, R212): its OPEN entries close and complete, its reservations
are cleared. -/
def exceptionOf (r : Req) (s : State) : State :=
  let mine (e : BufEnt) : Bool := decide (e.port = r.port)
  complete r stOK 0 false false (issueEvery (closeEntries mine mine (clearRsvAll r.port s)))

/-- Run an access by the mode of its port. -/
def anyAccess (r : Req) (snooped : Bool) (s : State) : State :=
  if r.op = .exc then exceptionOf r s
  else if (s.hp r.port).stamped && r.stamp.isSome then stampAccess r snooped s else access r snooped s

/-- Move a Reedbed line into a way whose victim's hosts have answered (R89). -/
def rbInto (i : SliceNo) (l : LAddr) (set w : Nat) (hp : BitVec 4) (s : State) : Option State :=
  ((s.sl i).rb.find? (fun e => decide (e.line = l) && !e.awaited)).map (fun e => rbMove i e w hp (evictWay i set w false s))

/-- Carry on an action whose answers are in. -/
def runAct (i : SliceNo) (a : Act) (s : State) : State :=
  match a with
  | .host r => anyAccess r true s
  | .holder k m => holderGo i k m true s
  | .evict set w d c => walkEvict i set w d c s
  | .evictFor set w r =>
    match rbInto i (lineOf r.addr) set w 0 s with
    | some s1 => anyAccess { r with moved := true } false s1
    | none => missInto i set w (missKind r) r (evictWay i set w false s)
  | .rbMove l hp (some w) => (rbInto i l (setOf l).toNat w hp s).getD (evictWay i (setOf l).toNat w false s)
  | .rbMove l hp none => rbCarry i l hp s
  | .clean set w c => cleanStep i set w c s
  | .wmb id =>
    match (s.sl i).wmb.find? (fun e => decide (e.id = id)) with
    | some e => wmbGo i e true s
    | none => s
  | .ntc p id =>
    match (s.hp p).ntc.find? (fun e => decide (e.id = id)) with
    | some e => ntcGo p e true s
    | none => s
  | .apply set w n =>
    match (s.sl i).stt.find? (fun t => decide (t.rtid = n)) with
    | some t => placeApplied i t w (evictWay i set w false s)
    | none => evictWay i set w false s
  | .perform n => stampPerform i n true s
  | .nothing => s

/-- A forward waits behind an action of its line: one that awaits host answers, or a move from the Reedbed. -/
def Slice.behind (x : Slice) (l : LAddr) : Bool :=
  x.snpGrps.any (fun g => (!g.await.isEmpty || (match g.act with | .rbMove _ _ _ => true | _ => false)) &&
    (decide (g.line = l) || g.act.names l))

/-- Forwards that waited behind an action of their line are answered in order. -/
def runBlocked (i : SliceNo) : Nat → State → State
  | 0, s => s
  | n + 1, s =>
    match (s.sl i).snpGrps.find? (fun g => g.await.isEmpty && (match g.act with | .holder _ _ => true | _ => false) && !(s.sl i).behind g.line) with
    | none => s
    | some g =>
      let s1 := s.modSl i (fun x => { x with snpGrps := rmFirst (fun h => decide (h = g)) x.snpGrps })
      runBlocked i n (match g.act with
        | .holder k m => holderGo i k m false s1
        | _ => s1)

/-! ### Requester (R136, R165) -/

/-- Requests of a transaction, the first and those that joined, in order. -/
def STxn.all (t : STxn) : List Req := t.req.toList ++ t.joined

/-- The requests of a transaction have waited for host snoops of other devices: of those that worked at the same time, the slowest is on the
critical path (R256). -/
def STxn.peers (t : STxn) (n : Nat) : STxn :=
  let f (r : Req) : Req := { r with peers := r.peers + (n - t.seen) }
  { t with req := t.req.map f, joined := t.joined.map f, seen := max n t.seen }

/-- Run the requests of a closed transaction again (R45, R136). -/
def rerun (rs : List Req) (s : State) : State := s.each rs (fun s r => anyAccess { r with missed := true } false s)

/-- A way in fill pending goes back to I. -/
def unfill (i : SliceNo) (t : STxn) (s : State) : State :=
  match t.way with
  | some w => s.modSl i (fun x => x.putWord (setOf t.line).toNat w {})
  | none => s

/-- The predictor's change for a near atomic whose grant has come (R208). -/
def predGrant (i : SliceNo) (t : STxn) (fromHome waitcmp : Bool) (s : State) : State :=
  if !t.predict then s
  else if !fromHome || waitcmp then (if t.nacked then s else s.modSl i (fun x => x.predAdd t.line true))
  else if t.nacked then s
  else s.modSl i (fun x => x.predAdd t.line false)

/-- Reads served once from data that fills no way (R97, R136 INV-ON-FILL); other requests run again. -/
def serveOnce (rs : List Req) (d : Line) (poison : Bool) (s : State) : State :=
  s.each rs (fun s r => if isLoad r.op then giveRead { r with missed := true } d poison 0 s else anyAccess { r with missed := true } false s)

/-- A lock-fill has placed its line (R52, R394 FILLED). -/
def lockFilled (l : LAddr) (s : State) : State :=
  { s with fw := { s.fw with walk := s.fw.walk.map (fun c =>
      if c.asked.contains l then { c with asked := c.asked.filter (fun x => decide (x ≠ l)), filled := c.filled + 1 } else c) } }

/-- Fill with the data of a grant (R136): the way of the transaction takes it, or no way does: INV-ON-FILL, or a slice that
drains (R96), which gives the line back. -/
def fill (i : SliceNo) (t : STxn) (st : LState) (d : Slot) (poison : Bool) (s : State) : State :=
  let set := (setOf t.line).toNat
  let s1 := closeTxn i t.rtid s
  let s0 := modTxn i t.rtid (fun u => { u with way := none }) s
  let w? : Option Nat := match t.way with
    | some w => some w
    | none => ((s1.sl i).find t.line).map (·.1)
  if t.invOnFill then serveOnce t.all d.data poison (closeTxn i t.rtid (unfill i t s0))
  else match w? with
    | none => serveOnce t.all d.data poison (sendPut i t.line st d poison false false s1)
    | some w =>
      if !(s1.sl i).enabled && t.way.isSome then
        serveOnce t.all d.data poison (sendPut i t.line st d poison false false (closeTxn i t.rtid (unfill i t s0)))
      else
        let s2 := writeSlot i set w d (rowOpen set s0)
        let s3 := s2.modSl i (fun x => ((x.putWord set w { tag := tagOf t.line, st := st, poison := poison }).hintFill set (tagOf t.line) w).touchWay set w)
        rerun t.all (closeTxn i t.rtid (if t.lockFill then lockFilled t.line s3 else s3))

/-- A granted line that no way can take needs a Causeway entry, and none is free (R84, R96). -/
def fillBlocked (x : Slice) (t : STxn) : Bool :=
  !t.invOnFill && needsCw t.gst false && !x.cwDemand &&
    (if t.way.isSome then !x.enabled else (x.find t.line).isNone)

/-- The grant of an unstamped transaction, held in t, is taken (R133, R136): Ack where the grant asks for one, then the fill; a line that no way can
take and no Causeway entry yet waits, unacknowledged. -/
def grantIn (i : SliceNo) (t : STxn) (ack : Bool) (htid : BitVec 12) (s : State) : State :=
  if fillBlocked (s.sl i) t then modTxn i t.rtid (fun _ => { t with st := .fillWait, htid := htid }) s
  else fill i t t.gst ⟨t.data, t.osn⟩ t.poison (if ack then sendAck i t t.dst htid (decide (t.gst = .F)) s else s)

/-- The granted lines that wait for a Causeway entry are tried again (R84). -/
def fillRetry (i : SliceNo) (s : State) : State :=
  s.each ((s.sl i).stt.filter (fun t => decide (t.st = .fillWait))) (fun s t => if fillBlocked (s.sl i) t then s else grantIn i t true t.htid s)

/-- What follows a change in a slice: closed entries issue, lines and moves that waited for room go on, a slice that drains and a device in its warm
drain give up the Reedbed (R96, R100), stamped accesses are applied and held grants performed (R248). -/
def settle (i : SliceNo) (s : State) : State :=
  let s1 := rbRetry i (fillRetry i (issueAll i s))
  let s2 := runBlocked i ((s1.sl i).snpGrps.length) s1
  let s3 := if !(s2.sl i).enabled || decide (s2.crp.phase = .warmDrain) then rbFree (fun _ => true) i s2 else s2
  applyDue i s3

/-- One port's answer to a group is in; with the last, the action is carried on. -/
def groupAnswer (i : SliceNo) (grp : Nat) (p : Port) (s : State) : State :=
  match (s.sl i).snpGrps.find? (fun g => decide (g.id = grp) && g.await.contains p) with
  | none => s
  | some g =>
    let rest := g.await.filter (fun q => decide (q ≠ p))
    if rest.isEmpty then
      let s1 := runAct i g.act (s.modSl i (fun x => { x with snpGrps := rmFirst (fun h => decide (h = g)) x.snpGrps }))
      settle i (runBlocked i ((s1.sl i).snpGrps.length + 1) s1)
    else s.modSl i (fun x => { x with snpGrps := x.snpGrps.map (fun h => if h = g then { h with await := rest } else h) })

/-- A snoop ends (R118, R120): `gone` when the host holds the line no more; `data` when it answered with data, merged only
from the exclusive host and not for an action that discards; a port's other data is a host error. -/
def snoopEnds (p : Port) (n : Snp) (gone : Bool) (data : Option (Line × Bool)) (opc : BitVec 6) (s : State) : State :=
  let i := n.slice
  let s1 := s.modHp p (fun h => { h with snps := rmFirst (fun q => decide (q = n)) h.snps })
  let disc := (s1.sl i).snpGrps.any (fun g => decide (g.id = n.grp) && (match g.act with | .evict _ _ d _ => d | _ => false))
  let s2 := match data with
    | none => s1
    | some (d, q) => if n.excl then (if disc then s1 else mergeHost i n.line d q false s1) else hostErr p 3 opc (some n.line) s1
  groupAnswer i n.grp p (if gone then dropHp i n.line p s2 else s2)

/-- State a data message grants (R129). -/
def grantSt (k : BKind) (m : BMsg) : LState :=
  match k with
  | .dataE => .E
  | .dataM => .M
  | _ => if m.fwdr then .F else .S

/-- The transaction a VC2 message of a slice names. -/
def txnFor (s : State) (i : SliceNo) (m : BMsg) : Option STxn :=
  ((s.sl i).stt.find? (fun t => decide (t.rtid = m.rtid) && decide (t.line = m.laddr) && decide (t.st ≠ .retain))).map (·.peers m.allow)

/-- A message of no transaction that can take it, answered to the home (R138). -/
def strayData (i : SliceNo) (k : BKind) (m : BMsg) (s : State) : State :=
  invAckTo i k { m with src := (homeNow s m.laddr).1 } (protoErr k m s)

/-- The data of a Pfq reaches its Reedbed entry (R87, R133, R243); poisoned data of a stamped one is a cause of R252. -/
def pfqData (i : SliceNo) (t : STxn) (st : LState) (m : BMsg) (ack : Bool) (s : State) : State :=
  let s1 := closeTxn i t.rtid s
  let s2 := if t.stamp.isSome || ack then sendAck i t t.dst m.htid (t.stamp.isNone && decide (st = .F)) s1 else s1
  let got (e : RbEnt) : RbEnt := { e with st := st, data := m.data, osn := m.osn, poison := m.poison, awaited := false }
  let s3 := if t.stamp.isSome && m.poison && (s2.hp t.port).stamped then stampLost 1 t.line s2 else s2
  if t.invOnFill then serveOnce t.joined m.data m.poison (dropRb i t.line s3)
  else rerun t.joined (s3.modSl i (fun x => { x with rb := modFirst (fun e => decide (e.line = t.line)) got x.rb }))

/-- A grant under the current generation shows that the new home serves the region: Puts go there, as after its ready notice (R186; DEDUCED,
log 31). -/
def grantSeen (t : STxn) (s : State) : State :=
  let h := homeNow s t.line
  if !isFar s t.line && decide (t.dst = h.1) && decide (t.gen = h.2) && s.home.moving.any (fun e => entryOf (memOf (lineHome t.line)) (regionOf t.line) e) then
    s.modHome (fun x => { x with moving := x.moving.filter (fun e => !entryOf (memOf (lineHome t.line)) (regionOf t.line) e) })
  else s

/-- DataS, DataE or DataM reaches a requester (R133, R136). WAITCMP has no meaning in a DataS (R130). -/
def onData (k : BKind) (m : BMsg) (s0 : State) : State :=
  let i := sliceOfUnit m.dstu m.laddr
  match txnFor s0 i m with
  | none => strayData i k m s0
  | some t =>
    let s := grantSeen t s0
    let st := grantSt k m
    let waits := m.waitcmp && decide (k ≠ .dataS)
    let fromHome := decide (m.src = t.dst) && decide (m.srcu = homeUnit)
    let ack := !fromHome || decide (st ≠ .S) || decide (t.kind = .upg)
    let t1 := { t with data := m.data, gst := st, osn := m.osn, poison := m.poison }
    if t.st ≠ .open_ ∨ t.kind = .wrU ∨ t.kind = .amoF then strayData i k m s
    else if t.kind = .rdU then
      settle i (closeTxn i t.rtid (s.each t.all (fun s r => giveRead { r with missed := true } m.data m.poison 0 s)))
    else if t.kind = .pfq then settle i (pfqData i t st m ack s)
    else if waits then modTxn i t.rtid (fun _ => { t1 with st := .cmpAwaited }) (if t.stamp.isSome then s else predGrant i t fromHome true s)
    else if t.stamp.isSome then settle i (stampGrant i t1 m.htid (modTxn i t.rtid (fun _ => t1) s))
    else settle i (grantIn i t1 ack m.htid (predGrant i t fromHome false s))

/-- Complete the requests of a transaction that ends without service (R20, R165): address error or dead home. -/
def endReqs (t : STxn) (dead : Bool) (s : State) : State :=
  s.each t.all (fun s r => if dead then completeDead { r with missed := true } s else completeErr { r with missed := true } stADDR s)

/-- Free the buffered entry a transaction carries (R75, R79, R175). -/
def endEntries (i : SliceNo) (t : STxn) (s : State) : State :=
  let s1 := match t.wmb with | some id => freeWmb i id s | none => s
  match t.ntc with | some (p, id) => freeNtc p id s1 | none => s1

/-- A transaction leaves the table without a grant: its way goes back to I, the Reedbed entry of a Pfq and a buffered entry are freed. -/
def endTxn (i : SliceNo) (t : STxn) (s : State) : State :=
  let s1 := closeTxn i t.rtid (unfill i t (modTxn i t.rtid (fun u => { u with way := none }) s))
  endEntries i t (if t.kind = .pfq then dropRb i t.line s1 else s1)

/-- A transaction ends with its home dead or cut (R165, R175): its requests complete, an event is posted; those that joined a Pfq run again. -/
def deadTxn (i : SliceNo) (t : STxn) (s : State) : State :=
  let store := t.wmb.isSome || t.ntc.isSome
  let s1 := endTxn i t s
  let s2 := if t.kind = .pfq then rerun t.joined s1 else endReqs t true s1
  if store || t.req.isNone then evDeadDone t.line t.port store s2 else s2

/-- Cmp reaches an Upg (R136, R205): the copy held becomes M with the raised number. -/
def upgCmp (i : SliceNo) (t : STxn) (m : BMsg) (s : State) : State :=
  let set := (setOf t.line).toNat
  match ((s.sl i).find t.line).filter (fun c => decide (c.2.st ≠ .P)) with
  | some (w, tw) =>
    let v := readSlot i set w s
    let s1 := v.2.2.modSl i (fun x => x.putWord set w { tw with st := .M, poison := v.2.1 })
    let s2 := writeSlot i set w { v.1 with osn := m.osn } s1
    rerun t.all (closeTxn i t.rtid (sendAck i t t.dst m.htid false (predGrant i t true false s2)))
  | none => strayData i .cmp m s

/-- Cmp reaches a WrU (R75): the bytes go into a copy still held, and the entry is freed. -/
def wrUCmp (i : SliceNo) (t : STxn) (m : BMsg) (s : State) : State :=
  let s1 := match t.wmb, s.wayOf i t.line with
    | some _, some (w, tw) =>
      if tw.st = .S ∨ tw.st = .F then writeWay i (setOf t.line).toNat w t.data t.mask t.poison id s else s
    | _, _ => s
  closeTxn i t.rtid (endEntries i t (if t.stamp.isSome then sendAck i t t.dst m.htid false s1 else s1))

/-- Cmp with the result of a far atomic (R201, R205). -/
def amoCmp (i : SliceNo) (t : STxn) (m : BMsg) (s : State) : State :=
  let old : Line := (fld m.result 0 64).setWidth 512
  let s1 := s.each t.all (fun s r =>
    let r := { r with missed := true }
    if bit m.result 66 then stampCheck r true (completeData r stPOIS 0 false true r.len old s)
    else if bit m.result 65 then atomErr r s
    else completeData r stOK 0 (bit m.result 64) false r.len old s)
  closeTxn i t.rtid (if t.stamp.isSome then sendAck i t t.dst m.htid false s1 else s1)

/-- The slice holds a copy of a line on which a stamped access can be performed: in a way, in its entry, in the entry of an access performed and
not yet applied, or in the Reedbed (R248). -/
def hasCopy (x : Slice) (t : STxn) : Bool :=
  (x.find t.line).isSome || decide (t.gst ≠ .I) || (x.entryOfLine t.line).isSome || x.rb.any (fun e => decide (e.line = t.line) && !e.awaited)

/-- Cmp reaches a requester (R75, R136, R205, R243). -/
def onCmp (m : BMsg) (s0 : State) : State :=
  let i := sliceOfUnit m.dstu m.laddr
  match txnFor s0 i m with
  | none => strayData i .cmp m s0
  | some t =>
    let s := grantSeen t s0
    if m.aerr then settle i (if t.st = .open_ then endReqs t false (endTxn i t s) else strayData i .cmp m s)
    else if t.st = .cmpAwaited then
      settle i (if t.stamp.isSome then stampGrant i t m.htid s else grantIn i t true m.htid s)
    else if t.st ≠ .open_ then strayData i .cmp m s
    else match t.kind with
    | .wrU => settle i (wrUCmp i t m s)
    | .amoF => settle i (amoCmp i t m s)
    | .pfq => settle i (rerun t.joined (sendAck i t t.dst m.htid false (endTxn i t s)))
    | k =>
      if t.stamp.isSome && t.wmb.isNone then
        (if hasCopy (s.sl i) t then settle i (stampGrant i (if k = .upg then { t with osn := m.osn } else t) m.htid s) else strayData i .cmp m s)
      else if k = .upg then settle i (upgCmp i t m s)
      else strayData i .cmp m s

/-- Send a transaction's request again (R165, R136): an unstamped Upg whose copy has gone goes as RdX; the KEEP of a WrU
follows the copy still held; a home that has died ends it. -/
def resend (i : SliceNo) (t : STxn) (s : State) : State :=
  if homeLost s t.line then settle i (deadTxn i t s)
  else
    let held := (s.wayOf i t.line).filter (fun c => decide (c.2.st ≠ .P))
    let k : BKind := if t.kind = .upg ∧ held.isNone ∧ t.stamp.isNone then .rdX else t.kind
    let keep := t.keep && held.isSome
    let h := homeNow s t.line
    let t1 := { t with kind := k, keep := keep, gap := false, dst := h.1, gen := h.2 }
    sendMsg k (txnMsg s i t1) (useFar t.line (modTxn i t.rtid (fun _ => t1) s))

/-- The relocations of an entry that are not acknowledged, with one more (R187). -/
def tabMore (e : RTab) (u : List (BitVec 8 × Member)) : RTab := { e with unack := e.unack ++ u.filter (fun c => !e.unack.contains c) }

/-- Set the generation and the home of a region in the relocation table, and add what it counts as not acknowledged; a region without
an entry takes one of the 4,096 (R183). -/
def rtabSet (m : Member) (r : BitVec 10) (gen : BitVec 8) (home : Member) (u : List (BitVec 8 × Member)) (s : State) : State :=
  let put (t : List RTab) : List RTab :=
    if t.any (entryOf m r) then t.map (fun e => if entryOf m r e then tabMore { e with gen := gen, home := home } u else e)
    else if t.length < 4096 then t ++ [⟨m, r, gen, home, u⟩] else t
  s.modHome (fun h => { h with rtab := put h.rtab })

/-- Puts for a region go to its home in the table from now on (R186 step 7). -/
def endMoving (m : Member) (r : BitVec 10) (s : State) : State :=
  s.modHome (fun h => { h with moving := h.moving.filter (fun e => !entryOf m r e) })

/-- Puts for a region go to an old home from now on, until the new home's ready notice (R186 step 4). -/
def setMoving (m : Member) (r : BitVec 10) (gen : BitVec 8) (old : Member) (s : State) : State :=
  s.modHome (fun h => { h with moving := h.moving.filter (fun e => !entryOf m r e) ++ [⟨m, r, gen, old, []⟩] })

/-- Update the relocation knowledge from a Nack MOVED (R165, R184, R189): a member takes a newer entry, ahead of the notice, and sends its Puts to
the old home as after the notice, or, where the sender names itself and so serves the region, to the sender; a far requester fills its cache,
replacing the entry least recently used. -/
def learnMoved (l : LAddr) (src home : Member) (gen : BitVec 8) (s : State) : State :=
  let o := memOf (lineHome l)
  let r := regionOf l
  if isFar s l then
    let mine (e : BitVec 6 × RTab) : Bool := decide (e.1 = domOf (lineHome l)) && entryOf o r e.2
    s.modHome (fun h =>
      let es := h.farReloc.filter (fun e => !mine e)
      { h with farReloc := (if es.length < 256 then es else es.drop 1) ++ [(domOf (lineHome l), ⟨o, r, gen, home, []⟩)] })
  else
    let cur := homeNow s l
    let s1 := rtabSet o r gen home [] s
    if !newerGen cur.2 gen then s
    else if home = src then endMoving o r s1
    else setMoving o r cur.2 (memOf cur.1) s1

/-- Nack reaches a requester (R165, R184, R208, R242). An unstamped Pfq ends, whatever the reason, after a MOVED has been
learned (R88); a stamped one ends when it is refused at its turn (R243, log 94). -/
def onNack (m : BMsg) (s : State) : State :=
  let i := sliceOfUnit m.dstu m.laddr
  match txnFor s i m with
  | none => strayData i .nack m s
  | some t0 =>
    if t0.st ≠ .open_ then strayData i .nack m s
    else
      let s0 := if t0.predict && !t0.nacked then s.modSl i (fun x => x.predAdd t0.line true) else s
      let t := { t0 with nacked := true }
      if m.reason = rsnDEAD then settle i (deadTxn i t s0)
      else
        let s1 := if m.reason = rsnMOVED then learnMoved t.line (memOf m.src) m.htid m.gen s0 else s0
        if t.kind = .pfq ∧ (t.stamp.isNone ∨ m.res) then settle i (rerun t.joined (endTxn i t s1))
        else if m.reason = rsnMOVED then resend i t s1
        else
          let reg := t.stamp.isSome && decide (m.htid = 0x800)
          let up (r : Req) : Req := { r with refusals := r.refusals + 1 }
          let s2 := modTxn i t.rtid (fun _ => { t with
            age := if t.stamp.isSome then 0 else m.age, gap := true, reg := t.reg || reg, req := t.req.map up, joined := t.joined.map up }) s1
          if reg then
            s2.modSl i (fun x =>
              let old := spGet 0xFFF x.seatNote t.dst.toNat
              { x with stt := x.stt.map (fun u => if u.rtid = old ∧ u.rtid ≠ t.rtid ∧ u.dst = t.dst then { u with reg := false } else u)
                       seatNote := spIns t.dst.toNat t.rtid x.seatNote })
          else s2

/-- WbAck reaches the evicting slice (R79, R83, R161): the Causeway entry or the RETAIN entry of the line retires. -/
def onWback (m : BMsg) (s : State) : State :=
  let i := sliceOfUnit m.dstu m.laddr
  let l := m.laddr
  let x := s.sl i
  if x.stt.any (fun t => decide (t.line = l) && decide (t.st = .retain)) then
    settle i (s.setSl i { x with stt := rmFirst (fun t => decide (t.line = l) && decide (t.st = .retain)) x.stt })
  else
    let s1 := s.setSl i { x with cw := rmFirst (fun e => decide (e.line = l)) x.cw }
    settle i (s1.each ports (fun s p => s.modHp p (fun h => { h with
      ntc := h.ntc.filter (fun e => !(decide (e.line = l) && e.viaPut && decide (e.st = .issued))) })))

end Sys2Proof.Machine
end

