-- ==== Sys2Proof/Machine/Home.lean ====
section
/-! DEFINITION. The home agent: directory records and their cache, requests, transactions, Puts, answers, claims, and what it
does for dead nodes (R132 to R134, R139 to R142, R145 to R182, R241 to R244, R258, R259). -/

namespace Sys2Proof.Machine

/-! ### Directory records (R139, R141, R160, R177) -/

/-- No device holds the line. -/
def DirRec.toU (r : DirRec) : DirRec := { r with st := .U, holders := [], des := none, own := false }
/-- One device holds the line in E or M. -/
def DirRec.toE1 (r : DirRec) (q : Member) : DirRec := { r with st := .E1, holders := [q], des := some q, own := true }
/-- Devices hold the line in S or F, with a forwarder or none; beyond four, BC (R139). -/
def DirRec.shared (r : DirRec) (hs : List Member) (f : Option Member) : DirRec :=
  match hs with
  | [] => r.toU
  | [p] => { r with st := .S1, holders := [p], des := f, own := false }
  | _ => if hs.length ≤ 4 then { r with st := .SM, holders := hs, des := f, own := false }
         else { r with st := .BC, holders := f.toList, des := f, own := false }
/-- An owner in O with sharers; beyond three, BC with the owner as responder (R139). -/
def DirRec.toOS (r : DirRec) (p : Member) (sh : List Member) : DirRec :=
  if sh.length ≤ 3 then { r with st := .OS, holders := p :: sh, des := some p, own := true }
  else { r with st := .BC, holders := [p], des := some p, own := true }
/-- The recorded owner: of E1, of OS, or the owner responder of BC. -/
def DirRec.owner (r : DirRec) : Option Member := if r.own then r.des else none
/-- The recorded forwarder. -/
def DirRec.fwder (r : DirRec) : Option Member := if r.own then none else r.des
/-- The record holds a pointer to a member (R159). -/
def DirRec.names (r : DirRec) (p : Member) : Bool := r.holders.contains p
/-- A holder added (R139). -/
def addTo (hs : List Member) (q : Member) : List Member := if hs.contains q then hs else hs ++ [q]

/-- A member's pointer removed (R141, R160). -/
def DirRec.remove (r : DirRec) (p : Member) : DirRec :=
  match r.st with
  | .U | .QU => r
  | .BC => if r.des = some p then { r with holders := [], des := none, own := false } else r
  | .E1 => if r.names p then r.toU else r
  | .S1 | .SM => if r.names p then r.shared (r.holders.filter (· ≠ p)) (if r.des = some p then none else r.des) else r
  | .OS => if r.des = some p then r.shared (r.holders.filter (· ≠ p)) none
           else r.toOS (r.des.getD 0) (r.holders.filter (fun x => decide (x ≠ p) && decide (some x ≠ r.des)))

/-- A Put after which its sender still holds the line: a PutM or PutO with RETAIN, a flag that PutE and PutS ignore (R130, R161). -/
def retains (k : BKind) (m : BMsg) : Bool := m.retain && (decide (k = .putM) || decide (k = .putO))

/-- A current Put with no transaction open (R141). -/
def DirRec.put (r : DirRec) (k : BKind) (retain : Bool) (p : Member) : DirRec :=
  if retain then
    (if k = .putO then
      (match r.st with
       | .OS => if r.des = some p then r.shared r.holders none else r
       | .BC => r.remove p
       | _ => r)
     else r)
  else r.remove p

/-- The ownership sequence number raised when a new device is recorded as owner (R134). -/
def DirRec.raised (r old : DirRec) : DirRec :=
  match r.owner with
  | some q => if old.owner = some q then r else { r with osn := old.osn + 1 }
  | none => r

/-- Reclaim of a record from a member: the record after, the holders to invalidate, whether memory is poisoned (R177). -/
def DirRec.reclaim (r : DirRec) (d : Member) : DirRec × List Member × Bool :=
  if r.owner = some d then
    (match r.st with
     | .BC => ({ r with holders := [], des := none, own := false, poison := true }, [], true)
     | _ => ({ r.toU with poison := true }, r.holders.filter (· ≠ d), true))
  else (r.remove d, [], false)

/-! ### The directory cache and the word (R148, R152 to R154) -/

/-- The entry of a frame line, by its number. -/
def Home.entry (h : Home) (f : Nat) : Option (Nat × DirEnt) :=
  let q := spGet {} h.dir (dirSetIdx f)
  (List.range 16).findSome? (fun i => match vget q.ents i none with
    | some e => if e.tag = dirTag f then some (i, e) else none
    | none => none)

/-- The record of a line from its word, by a read of the line (R153, R155). -/
def wordRec (l : LAddr) (s : State) : DirRec × State :=
  match ddrRead l s with
  | (none, s1) => ({ st := .QU, poison := true }, s1)
  | (some d, s1) =>
    match loadWord d.word with
    | some r => (r, s1)
    | none => ({ st := .QU, poison := true }, quarantine l (frameOf s1 l) s1)

/-- Change the record of the entry a line has in the cache; a line whose entry has been evicted gets none by it, and the tree stands (R148). -/
def dirSet (f : Nat) (r : DirRec) (s : State) : State :=
  match s.home.entry f with
  | some (i, _) => s.modHome (fun h => { h with
      dir := spMod {} (dirSetIdx f) (fun q => { q with ents := vset q.ents i (some { tag := dirTag f, recd := r }) }) h.dir })
  | none => s

/-- An entry is allocated for an accepted request that finds none: an empty one, or the one the tree gives up (R148). -/
def dirPut (f : Nat) (r : DirRec) (s : State) : State :=
  let q := spGet {} s.home.dir (dirSetIdx f)
  let i := match (List.range 16).find? (fun i => (vget q.ents i none).isNone) with
    | some i => i
    | none => treeWalk (fun h => bit q.tree h) (fun i => decide (i < 16)) 4 0 0
  if (s.home.entry f).isSome then s else s.modHome (fun h => { h with
    dir := spSet {} (dirSetIdx f) { ents := vset q.ents i (some { tag := dirTag f, recd := r }), tree := treeTouch 4 0 i q.tree } h.dir })

/-- The entry of a line has bad parity: it is loaded again from the line's word, and the error is counted as corrected (R154). -/
def dirReload (l : LAddr) (s : State) : DirRec × State :=
  let y := wordRec l (s.modHome (fun h => { h with dperr := h.dperr + 1 }))
  (y.1, dirSet (frameOf s l) y.1 y.2)

/-- The directory lookup: the record, and whether memory was read for it. An entry with bad parity is loaded again (R154); a hit updates the
tree. -/
def dirLook (l : LAddr) (s : State) : DirRec × Bool × State :=
  let f := frameOf s l
  match s.home.entry f with
  | some (i, e) =>
    if e.bad then
      let y := dirReload l (pmu 0x13 none s)
      (y.1, true, y.2)
    else
      (e.recd, false, s.modHome (fun h => { h with
        dir := spMod {} (dirSetIdx f) (fun q => { q with tree := treeTouch 4 0 i q.tree }) h.dir }))
  | none =>
    let y := wordRec l (pmu 0x13 none s)
    (y.1, true, y.2)

/-- Write the data of a line at its home; the word stays. -/
def homeWrite (l : LAddr) (d : Line) (s : State) : State :=
  let f := frameOf s l
  ddrPut f { ddrGet s f with data := d } s

/-- Keep a record: in its cache entry, and in the word where that changes (R152). A line whose code has failed is quarantined
instead (R155). -/
def dirStore (l : LAddr) (r : DirRec) (s : State) : State :=
  let f := frameOf s l
  let d := ddrGet s f
  if d.word = packWord r ∨ (!bit d.word 30 ∧ r = {}) then dirSet f r s
  else if ddrCond s f = .unc then quarantine l f s
  else dirSet f r (ddrPut f { d with word := packWord r } s)

/-- The word of a line says that it is quarantined. -/
def wordQU (s : State) (l : LAddr) : Bool :=
  let w := (ddrGet s (frameOf s l)).word
  bit w 30 && decide ((fld w 0 3).toNat = 6)

/-! ### Poison at the home (R162, R176, R177, R252) -/

/-- Memory's data of a line is poisoned by R162 (rule 2) or R176 (rule 3). -/
def poisonedAt (l : LAddr) (rule : Nat) (s : State) : State :=
  stampHit l (evPoisoned l rule (s.modHome (fun h => { h with poisoned := h.poisoned + 1 })))

/-- One record reclaimed from a member is counted, and its line when poisoned; the first 1,024 poisoned lines of a dead node
are posted (R179). -/
def reclaimed (l : LAddr) (d : Member) (pois : Bool) (s : State) : State :=
  let n := nodeOf (domOf s.node.node) d
  let cnt := match s.home.sweeps.find? (fun w => decide (w.node = n)) with | some w => w.poisoned | none => 0
  let up (w : Sweep) : Sweep := if w.node = n then
    { w with reclaimed := w.reclaimed + 1, poisoned := w.poisoned + if pois then 1 else 0 } else w
  let s1 := s.modHome (fun h => { h with
    reclaim := h.reclaim + 1, poisoned := h.poisoned + (if pois then 1 else 0), sweeps := h.sweeps.map up })
  if pois then stampHit l (if cnt < 1024 then evPoisoned l 4 s1 else s1) else s1

/-! ### The transaction table (R132, R166 to R168) -/

/-- The open transaction of a line. -/
def Home.txn (h : Home) (l : LAddr) : Option HTxn := h.tt.find? (fun t => decide (t.line = l) && t.claim.isNone)
/-- The claim of a line. -/
def Home.claimOn (h : Home) (l : LAddr) : Option HTxn := h.tt.find? (fun t => decide (t.line = l) && t.claim.isSome)
/-- Entry n is in use. -/
def Home.used (h : Home) (n : Nat) : Bool := h.tt.any (fun t => decide (t.num = n))
/-- A lane entry: one in eight (R166). -/
def isLane (n : Nat) : Bool := decide (n % 8 = 7)
/-- The lowest free entry outside the lanes. -/
def Home.freeMain (h : Home) : Option Nat := (List.range 4096).find? (fun n => !isLane n && !h.used n)
/-- The lowest free lane entry. -/
def Home.freeLane (h : Home) : Option Nat := ((List.range 512).map (fun n => 8 * n + 7)).find? (fun n => !h.used n)
/-- Change an entry. -/
def modT (n : Nat) (f : HTxn → HTxn) (s : State) : State :=
  s.modHome (fun h => { h with tt := modFirst (fun t => decide (t.num = n)) f h.tt })
/-- An open transaction by its number. -/
def Home.at_ (h : Home) (n : Nat) : Option HTxn := h.tt.find? (fun t => decide (t.num = n) && t.claim.isNone)

/-- A request is old (R164). -/
def isOld (m : BMsg) : Bool := decide (16 ≤ m.age.toNat)
/-- A request as a pending claim (R167). -/
def claimOf (m : BMsg) : Claim := { node := m.src, unit := m.srcu, age := m.age, ctr := msgCtr m }
/-- (node ID, unit) as one number. -/
def nodeUnit (n : NodeId) (u : BitVec 4) : Nat := n.toNat * 16 + u.toNat

/-- A claim ranks above another on a line whose last claimant is given (R167, R259). With no earlier claim on the line the cyclic order starts at
node 0 (DESIGN CHOICE, log 78). -/
def Claim.beats (last : Option (NodeId × BitVec 4)) (a b : Claim) : Bool :=
  let ia := nodeUnit a.node a.unit
  let ib := nodeUnit b.node b.unit
  let base := match last with | some x => nodeUnit x.1 x.2 + 1 | none => 0
  let cyc (x : Nat) : Nat := (x + 2 ^ 22 - base) % 2 ^ 22
  if a.ctr ≠ b.ctr then a.ctr
  else if a.age ≠ b.age then decide (b.age.toNat < a.age.toNat)
  else if a.age = 63 then decide (cyc ia < cyc ib)
  else decide (ia < ib)

/-- The last request that took a claim on a line. -/
def Home.last (h : Home) (l : LAddr) : Option (NodeId × BitVec 4) :=
  (h.lastClaim.find? (fun c => decide (c.1 = l.toNat))).map (·.2)

/-- The higher of a pending claim held and a new one. -/
def Home.higher (h : Home) (l : LAddr) (old : Option Claim) (c : Claim) : Claim :=
  match old with
  | some o => if c.beats (h.last l) o then c else o
  | none => c

/-- A refusal may leave a pending claim: of an old request, or of a contracted one, which is old from its first refusal on (R167, R259); a stamped
one leaves none (R170). -/
def mayClaim (m : BMsg) : Bool := (isOld m || msgCtr m) && m.stamp.isNone

/-- Keep a request refused because of its line as the line's pending claim if it ranks higher (R167). -/
def notePend (m : BMsg) (s : State) : State :=
  if mayClaim m then
    s.modHome (fun h => { h with
      tt := modFirst (fun t => decide (t.line = m.laddr)) (fun t => { t with pend := some (h.higher m.laddr t.pend (claimOf m)) }) h.tt })
  else s

/-- Keep a request refused for want of an entry as the table's pending claim (R168). -/
def noteTable (m : BMsg) (s : State) : State :=
  if mayClaim m then
    s.modHome (fun h => { h with tablePend := match h.tablePend with
      | some (l, c) => if (claimOf m).beats (h.last m.laddr) c then some (m.laddr, claimOf m) else some (l, c)
      | none => some (m.laddr, claimOf m) })
  else s

/-- An entry is held as a claim (R168). Its claimant counts as the last to take a claim on the line from now on (DESIGN CHOICE, log 78). -/
def holdClaim (n : Nat) (l : LAddr) (c : Claim) (s : State) : State :=
  (pmu 0x11 none s).modHome (fun h => { h with
    tt := h.tt ++ [{ num := n, line := l, claim := some c }]
    lastClaim := spIns l.toNat (c.node, c.unit) h.lastClaim })

/-- An entry is given up: it becomes the claim of the line's pending claimant, or, for a lane entry, of the table's; else it is
free (R168). -/
def freeEntry (t : HTxn) (s : State) : State :=
  let s1 := s.modHome (fun h => { h with tt := h.tt.filter (fun u => decide (u.num ≠ t.num)) })
  match t.pend with
  | some c => holdClaim t.num t.line c s1
  | none =>
    if isLane t.num then
      match s1.home.tablePend with
      | some (l, c) => holdClaim t.num l c (s1.modHome (fun h => { h with tablePend := none }))
      | none => s1
    else s1

/-! ### Messages of the home -/

/-- A message of a transaction from the home to a unit. PORT and STRM, which R127 does not restrict to requests, are 0 in it, as in every message
that is no request (DESIGN CHOICE, log 105). -/
def homeMsg (s : State) (t : HTxn) (dst : NodeId) (dstu : BitVec 4) : BMsg :=
  { dst := dst, dstu := dstu, src := s.node.node, srcu := homeUnit, rtid := t.req.rtid, laddr := t.line,
    rqn := t.req.src, rqu := t.req.srcu, htid := BitVec.ofNat 12 t.num, osn := t.after.osn, gen := t.req.gen, allow := t.allow }
/-- To the requester. -/
def toReq (s : State) (t : HTxn) : BMsg := homeMsg s t t.req.src t.req.srcu
/-- To the slice of the line in a member. -/
def toHolder (s : State) (t : HTxn) (p : Member) : BMsg :=
  homeMsg s t (nodeOf (domOf s.node.node) p) (unitOf (sliceOf t.line))

/-- The answer WbAck to a Put. -/
def wbAck (m : BMsg) (s : State) : State :=
  sendMsg .wbAck { dst := m.src, dstu := m.srcu, src := s.node.node, srcu := homeUnit, rtid := m.rtid, laddr := m.laddr,
                   rqn := m.rqn, rqu := m.rqu, osn := m.osn, gen := m.gen } s

/-- A stamped request refused at this home is counted (R279). -/
def countStamped (m : BMsg) (s : State) : State :=
  if m.stamp.isSome then { s with stamp := { s.stamp with nstamp := s.stamp.nstamp + 1 } } else s

/-- Refuse a request (R131, R163, R164), counted (R194, R279). -/
def nack (m : BMsg) (reason : BitVec 3) (htid : BitVec 12) (gen : BitVec 8) (age : BitVec 6) (s : State) : State :=
  let s1 := (countStamped m s).modHome (fun h =>
    if reason = rsnBUSY then { h with nbusy := h.nbusy + 1 }
    else if reason = rsnAGE then { h with nage := h.nage + 1 }
    else if reason = rsnMOVED then { h with nmoved := h.nmoved + 1 }
    else if reason = rsnDEAD then { h with ndead := h.ndead + 1 }
    else { h with ncontract := h.ncontract + 1 })
  sendMsg .nack { dst := m.src, dstu := m.srcu, src := s.node.node, srcu := homeUnit, rtid := m.rtid, laddr := m.laddr,
                  rqn := m.src, rqu := m.srcu, htid := htid, gen := gen, reason := reason, age := age, res := m.res } s1

/-- AGE of a Nack BUSY, AGE or CONTRACT: one more, at most 63; at least 16 for a contracted request (R164); 0 for a stamped one
(R243). -/
def nackAge (m : BMsg) : BitVec 6 :=
  if m.stamp.isSome then 0
  else
    let a := min (m.age.toNat + 1) 63
    BitVec.ofNat 6 (if msgCtr m then max a 16 else a)

/-- Refuse with BUSY, AGE or CONTRACT. -/
def nackRetry (m : BMsg) (reason : BitVec 3) (s : State) : State := nack m reason 0 m.gen (nackAge m) s

/-! ### Finishing a transaction (R140, R142, R160, R205) -/

/-- The atomic of an AmoF on the line that results (R200 to R202, R205): the line to write, if any, and the Cmp's result. The
spec states no OLD for an operation that is not executed: it is a free value. -/
def amoOn (s : State) (block : BitVec 256) (d : Line) (poison : Bool) : Option Line × BitVec 128 :=
  match amoUnpack block with
  | none => (none, amoResult ((Config.freeWord s.freeCtr).setWidth 128) false true false)
  | some (aop, len, off, a, b) =>
    let r := atomicLine aop len off a b d
    if poison then (none, amoResult r.2.1 false false true) else (some r.1, amoResult r.2.1 r.2.2 false false)

/-- What memory gives a transaction: its line with the poison of the record, `none` when its code fails; the line is then
quarantined (R155). -/
def memLine (t : HTxn) (s : State) : Option (Line × Bool × Bool) × State :=
  if t.read then (some ((ddrGet s (frameOf s t.line)).data, t.after.poison, false), s)
  else match ddrRead t.line s with
    | (some d, s1) => (some (d.data, t.after.poison, false), s1)
    | (none, s1) => (none, s1)

/-- Do what a transaction was waiting to do. -/
def doAct (t : HTxn) (s : State) : State :=
  let s0 := modT t.num (fun u => { u with acted := true }) s
  let poison (p : Bool) (s : State) : State := modT t.num (fun u => { u with after := { u.after with poison := p } }) s
  let store (d : Line × Bool × Bool) (s : State) : State := if d.2.2 then poison d.2.1 (homeWrite t.line d.1 s) else s
  let full := decide (t.act = .merge) && decide (t.req.mask = fullMask)
  match t.act with
  | .nothing => s0
  | .cmp => sendMsg .cmp (toReq s t) s0
  | _ =>
    let y := match t.got with
      | some d => (some d, s0)
      | none => if full then (some ((0 : Line), false, false), s0) else memLine t s0
    match y.1 with
    | none =>
      nack t.req rsnDEAD 0 t.req.gen t.req.age
        (modT t.num (fun u => { u with after := { st := .QU, poison := true }, waitAck := false }) y.2)
    | some d =>
      match t.act with
      | .grant k fwdr nc =>
        let s1 := if nc then y.2 else store d y.2
        sendMsg k { toReq s t with data := d.1, poison := d.2.1, fwdr := fwdr, nc := nc } s1
      | .merge =>
        let p := poisonAfter d.2.1 t.req.poison t.req.mask
        sendMsg .cmp (toReq s t) (poison p (homeWrite t.line (mergeLine d.1 t.req.data t.req.mask) y.2))
      | .amo =>
        let r := amoOn y.2 t.req.amo d.1 d.2.1
        let s1 := match r.1 with
          | some l => poison false (homeWrite t.line l y.2)
          | none => store d y.2
        sendMsg .cmp { toReq s t with result := r.2, res := true, poison := bit r.2 66 } s1.tick1
      | _ => store d y.2

/-- Close a transaction: the current Puts taken are applied, the record is kept, the WbAcks leave, the entry is given up
(R160, R168). -/
def closeT (t : HTxn) (s : State) : State :=
  let rec_ := t.puts.foldl (fun (r : DirRec) p => if p.2.2 && !retains p.1 p.2.1 then r.remove (memOf p.2.1.src) else r) t.after
  let s1 := if wordQU s t.line && decide (rec_.st ≠ .QU) then s else dirStore t.line rec_ s
  let s2 := s1.each t.puts (fun s p => wbAck p.2.1 s)
  freeEntry t s2

/-- Carry a transaction on when what it awaits is in, and close it when nothing is left. -/
def advance (n : Nat) (s : State) : State :=
  match s.home.at_ n with
  | none => s
  | some t =>
    let ready := !t.acted && t.waitInv.isEmpty && !t.waitB && t.probeOf.isNone && (t.putOf.isNone || t.fwdTo.isSome)
    let s1 := if ready then doAct t s else s
    match s1.home.at_ n with
    | none => s1
    | some u => if u.acted && !u.waitAck && u.putOf.isNone then closeT u s1 else s1

/-! ### Service of an accepted request (R140, R145, R243) -/

/-- Broadcast of a transaction: to every member but the requester and the owner left out (R157, R519). -/
def sendBInv (t : HTxn) (but : Option Member) (s : State) : State :=
  let m : BMsg := { homeMsg s t s.node.node (unitOf (sliceOf t.line)) with
    keep := but.isSome, osn := match but with | some p => p | none => 0 }
  let s := pmu 0x12 none s
  if s.fabric.stopped then s
  else if s.fabric.pause.isSome then { s with fabric := { s.fabric with heldOut := s.fabric.heldOut ++ [.bcast m] } }
  else s.emit (.bcast m)

/-- How an accepted request is served: the transaction with what it sends and awaits, whether a broadcast goes out, and KEEP of
the probe. -/
structure Plan where
  t     : HTxn
  bcast : Bool := false
  keep  : Bool := false
deriving DecidableEq, Repr

/-- RdS and Pfq (R140, R243). -/
def planRdS (t : HTxn) (r : DirRec) (q : Member) (stamped wt : Bool) : Plan :=
  let f := !stamped
  let des (r : DirRec) : Option Member := if f then some q else r.des
  if stamped && r.names q then { t := { t with act := .cmp, after := r } }
  else match r.st with
  | .U | .QU =>
    if wt then { t := { t with act := .grant .dataS f false, after := r.shared [q] (des r), waitAck := f } }
    else { t := { t with act := .grant .dataE false false, after := r.toE1 q, waitAck := true } }
  | .E1 =>
    let p := r.holders.headD 0
    if stamped then { t := { t with act := .grant .dataS false false, after := r.shared [q] none, probeOf := some p } }
    else { t := { t with fwdTo := some p, fwdK := .fwdS, fwdr := true, after := r.toOS p [q], waitAck := true } }
  | .S1 | .SM =>
    let after := r.shared (addTo r.holders q) (des r)
    match r.des with
    | some p => { t := { t with fwdTo := some p, fwdK := .fwdS, fwdr := f, after := after, waitAck := true } }
    | none => { t := { t with act := .grant .dataS f false, after := after, waitAck := f } }
  | .OS =>
    let p := r.des.getD 0
    { t := { t with fwdTo := some p, fwdK := .fwdS, after := r.toOS p ((addTo r.holders q).filter (· ≠ p)), waitAck := true } }
  | .BC =>
    match r.des with
    | some p => { t := { t with fwdTo := some p, fwdK := .fwdS, after := r, waitAck := true } }
    | none => { t := { t with act := .grant .dataS f false, waitAck := f
                              after := if f then { r with holders := [q], des := some q, own := false } else r } }

/-- RdX, and an Upg served as one (R140, R243). -/
def planRdX (t : HTxn) (r : DirRec) (q : Member) (stamped : Bool) : Plan :=
  let t := { t with after := r.toE1 q, waitAck := true }
  let fromMem (t : HTxn) : HTxn := { t with act := .grant .dataE false false }
  match r.st with
  | .U | .QU => { t := fromMem t }
  | .E1 =>
    let p := r.holders.headD 0
    if stamped && decide (p = q) then { t := { t with act := .cmp, after := r } }
    else { t := { t with fwdTo := some p, fwdK := .fwdX } }
  | .S1 | .SM => { t := { fromMem t with waitInv := r.holders.filter (· ≠ q) } }
  | .OS =>
    let p := r.des.getD 0
    let others := r.holders.filter (fun x => decide (x ≠ p) && decide (x ≠ q))
    { t := { t with fwdTo := some p, fwdK := .fwdX, waitInv := others, waitcmp := !others.isEmpty
                    act := if others.isEmpty then .nothing else .cmp } }
  | .BC =>
    match r.owner with
    | some p => { t := { t with fwdTo := some p, fwdK := .fwdX, waitcmp := true, waitB := true, act := .cmp }, bcast := true }
    | none => { t := { fromMem t with waitB := true }, bcast := true }

/-- Upg (R140): in BC the requester is treated as recorded; elsewhere one that is not recorded is served as RdX (R242). -/
def planUpg (t : HTxn) (r : DirRec) (q : Member) (stamped : Bool) : Plan :=
  let t1 := { t with act := .cmp, after := r.toE1 q, waitAck := true }
  match r.st with
  | .BC => { t := { t1 with waitB := true }, bcast := true }
  | .E1 => if r.names q then { t := t1 } else planRdX t r q stamped
  | _ => if r.names q then { t := { t1 with waitInv := r.holders.filter (· ≠ q) } } else planRdX t r q stamped

/-- WrU and AmoF (R140, R205): the owner is probed with KEEP = 0, every other holder but Q invalidated. -/
def planWrU (t : HTxn) (r : DirRec) (q : Option Member) (keep amo : Bool) : Plan :=
  let k := keep && !amo && q.isSome
  let qm := q.getD 0
  let after := if k then (match r.st with
      | .U | .E1 | .QU => r.toU
      | _ => r.shared [qm] (if r.fwder = q then q else none)) else r.toU
  let others := r.holders.filter (fun x => decide (some x ≠ r.owner) && decide (some x ≠ q))
  let t1 := { t with act := if amo then .amo else .merge, after := after, probeOf := r.owner }
  match r.st with
  | .BC => { t := { t1 with waitB := true }, bcast := true }
  | _ => { t := { t1 with waitInv := others } }

/-- The plan of an accepted request (R140, R145, R243, R244). -/
def planOf (k : BKind) (t : HTxn) (r : DirRec) (far wt : Bool) : Plan :=
  let q := memOf t.req.src
  let stamped := t.req.stamp.isSome
  let p := match k with
    | .rdS | .pfq => planRdS t r q stamped wt
    | .rdX => planRdX t r q stamped
    | .upg => planUpg t r q stamped
    | .rdU =>
      match r.owner with
      | some p => { t := { t with act := .grant .dataS false true, after := r, probeOf := some p }, keep := true }
      | none => { t := { t with act := .grant .dataS false true, after := r } }
    | .wrU => planWrU t r (if far then none else some q) t.req.keep false
    | _ => planWrU t r (if far then none else some q) false true
  { p with t := { p.t with recd := r, after := p.t.after.raised r, waitAck := (p.t.waitAck || stamped) && !far } }

/-- Open a transaction by its plan: the forward or probe, the Invs, the broadcast; then what needs no answer. -/
def openT (p : Plan) (s : State) : State :=
  let t := p.t
  let s1 := (pmu 0x10 none s).modHome (fun h => { h with tt := h.tt ++ [t] })
  let s2 := match t.fwdTo with
    | some x => sendMsg t.fwdK { toHolder s t x with fwdr := t.fwdr, waitcmp := t.waitcmp } s1
    | none => s1
  let s3 := match t.probeOf with
    | some x => sendMsg .probe { toHolder s t x with keep := p.keep } s2
    | none => s2
  let s4 := s3.each t.waitInv (fun s x => sendMsg .inv (toHolder s t x) s)
  let s5 := if p.bcast then sendBInv t (t.fwdTo.orElse (fun _ => t.probeOf)) s4 else s4
  advance t.num s5

/-! ### Requests (R163, R164, R184, R241) -/

/-- What a device is for a line of a message (R184, R186). -/
inductive Served | taken | receiving | moved (home : Member) (gen : BitVec 8) | stub (home : Member) (gen : BitVec 8)
deriving DecidableEq, Repr

/-- The device checks region and generation (R184). From the switch on a Put for a region being given up is still taken (R186 step 4). Of two stubs of one region,
left twice, the later one answers (DESIGN CHOICE, log 79). -/
def served (s : State) (l : LAddr) (gen : BitVec 8) (put : Bool) : Served :=
  let o := memOf (lineHome l)
  let r := regionOf l
  let h := homeNow s l
  let receiving : Bool := s.home.relocs.any (fun x => !x.giving && decide (x.orig = o) && decide (x.region = r))
  if put && s.home.relocs.any (fun x => x.giving && decide (x.orig = o) && decide (x.region = r) && decide (x.phase ≠ .idle) &&
      decide (x.phase ≠ .copy)) then .taken
  else if h.1 = s.node.node then
    (if receiving then .receiving else if h.2 = gen then .taken else .moved (memOf s.node.node) h.2)
  else match s.home.stubs.reverse.find? (fun x => decide (x.orig = o) && decide (x.region = r)) with
    | some x => .stub x.home x.gen
    | none => .moved (memOf h.1) h.2

/-- The contract share a request is charged to (R258). -/
def Home.share (h : Home) (m : BMsg) : Option Share :=
  if msgCtr m then h.shares.find? (fun x => decide (x.node = m.rqn) && decide (x.port = m.port)) else none
/-- The request's contract share is exhausted (R258). -/
def Home.exhausted (h : Home) (m : BMsg) : Bool := match h.share m with | some x => decide (x.tok < 3200) | none => false
/-- Charge an accepted request (R258). -/
def chargeShare (m : BMsg) (s : State) : State :=
  if msgCtr m then
    s.modHome (fun h => { h with shares := h.shares.map (fun x =>
      if x.node = m.rqn ∧ x.port = m.port then { x with tok := x.tok - 3200 } else x) })
  else s

/-- R180: a RdS, Pfq, RdX or RdU from the recorded owner shows a stale record; not where R243 answers a stamped one with Cmp and leaves the record
as it is. -/
def staleOwner (k : BKind) (m : BMsg) (r : DirRec) : Bool :=
  (decide (k = .rdS) || decide (k = .pfq) || decide (k = .rdX) || decide (k = .rdU)) && decide (r.owner = some (memOf m.src)) &&
    (m.stamp.isNone || (decide (k = .rdX) && decide (r.st ≠ .E1)))

/-- The record with every holder that is dead or cut, and a stale owner, reclaimed (R177, R178, R180): the record, the holders
to invalidate, and the members reclaimed with whether the line was poisoned. -/
def reclaimAll (s : State) (k : BKind) (m : BMsg) (far : Bool) (r : DirRec) : DirRec × List Member × List (Member × Bool) :=
  let bad := r.holders.filter (fun p => isLost s.node s.fabric (nodeOf (domOf s.node.node) p) ||
    (!far && staleOwner k m r && decide (p = memOf m.src)))
  bad.foldl (fun z p =>
    let y := z.1.reclaim p
    (y.1, z.2.1 ++ y.2.1, z.2.2 ++ [(p, y.2.2)])) (r, [], [])

/-- Seat number of the slice that sent a request (R240). -/
def seatIdx (m : BMsg) : Nat := (memOf m.src).toNat * 8 + m.srcu.toNat % 8
/-- The key of a request as one number (R234): stamp, node, port, stream. -/
def keyNum (stamp : W64) (n : NodeId) (p : BitVec 2) (strm : BitVec 4) : Nat :=
  ((stamp.toNat * 2 ^ 18 + n.toNat) * 4 + p.toNat) * 16 + strm.toNat
/-- The key of a seat. -/
def Seat.key (x : Seat) : Nat := keyNum x.stamp x.node x.port x.strm
/-- The key of a request. -/
def msgKey (m : BMsg) : Nat := keyNum (m.stamp.getD 0) m.src m.port m.strm
/-- The seat of the slice that sent a request. -/
def Home.seatOf (h : Home) (m : BMsg) : Option Seat := (h.seats.find? (fun c => decide (c.1 = seatIdx m))).map (·.2)
/-- A seat holds a request: its key, line and kind (R240). -/
def Seat.holds (x : Seat) (k : BKind) (m : BMsg) : Bool :=
  decide (x.key = msgKey m) && decide (x.line = m.laddr) && decide (x.kind = k)
/-- A stamped request has its turn: the seat it holds is freed (R241 row 1). -/
def freeSeat (k : BKind) (m : BMsg) (s : State) : State :=
  if m.stamp.isSome && (s.home.seatOf m).any (·.holds k m) then s.modHome (fun h => { h with seats := spDel (seatIdx m) h.seats }) else s

/-- Accept a request into an entry (R163 row 8), with the pending claim that the entry keeps: charge it, reclaim what must be, free its seat, and
serve it. -/
def acceptT (k : BKind) (m : BMsg) (n : Nat) (pend : Option Claim) (r0 : DirRec) (read : Bool) (s : State) : State :=
  let far := farNode s.node m.src
  let l := m.laddr
  let rc := reclaimAll s k m far r0
  let s1 := s.each rc.2.2 (fun s p => reclaimed l p.1 p.2 s)
  let s2 := dirPut (frameOf s1 l) r0 (freeSeat k m (chargeShare m s1))
  let s3 := if rc.2.2.isEmpty then s2 else dirStore l rc.1 s2
  let s4 := if m.stamp.isSome then { s3 with stamp := { s3.stamp with turn := s3.stamp.turn + 1 } } else s3
  let p := planOf k { num := n, line := l, kind := k, req := m, read := read, pend := pend } rc.1 far (!isFar s l && isWt s l)
  let inv := (rc.2.1.filter (fun x => !isLost s.node s.fabric (nodeOf (domOf s.node.node) x) && !p.t.waitInv.contains x)).dedup
  openT { p with t := { p.t with waitInv := p.t.waitInv ++ inv } } s4

/-- Pfq that R140 refuses, by the record with every dead holder and a stale owner reclaimed (R178, R180). -/
def pfqRefused (s : State) (k : BKind) (m : BMsg) (r0 : DirRec) : Bool :=
  let r := (reclaimAll s k m (farNode s.node m.src) r0).1
  decide (k = .pfq) && !(m.stamp.isSome && r.names (memOf m.src)) && (decide (r.st = .E1) || decide (r.st = .OS) || decide (r.st = .BC))

/-- Rows 4 to 8 of R163 for an unstamped request. -/
def takeReq (k : BKind) (m : BMsg) (r : DirRec) (read : Bool) (s : State) : State :=
  let h := s.home
  let l := m.laddr
  let other (t : HTxn) : Bool := decide (t.line = l) && t.claim.any (fun x => !(decide (x.node = m.src) && decide (x.unit = m.srcu)))
  if (h.txn l).isSome || h.tt.any other then nackRetry m rsnBUSY (notePend m s)
  else if pfqRefused s k m r then nackRetry m rsnBUSY s
  else match h.claimOn l with
  | some c =>
    let s1 := s.modHome (fun h => { h with tt := h.tt.filter (fun t => decide (t.num ≠ c.num)) })
    acceptT k m c.num c.pend r read s1
  | none =>
    match h.freeMain, h.freeLane with
    | some n, _ => acceptT k m n none r read s
    | none, some n => if isOld m then acceptT k m n none r read s else nackRetry m rsnAGE s
    | none, none => nackRetry m rsnBUSY (noteTable m s)

/-- The horizon by which a request's stamp is judged: that of its node's group (R237, R241). -/
def horizonOf (s : State) (n : NodeId) : W64 :=
  let g := groupOf s n
  if s.stamp.member && decide (s.stamp.group = g) then s.stamp.hzn else spGet 0 s.stamp.hzns g.toNat

/-- A stamped request (R241). A Pfq that R140 refuses is refused at its turn and its seat is freed; the Nack is marked, since no field tells the
requester that the turn has been (R243; DESIGN CHOICE, log 94). No event marks a Pfq as unregistered: R251 sends it when its stamp is already below
the horizon (log 95). -/
def stampReq (k : BKind) (m : BMsg) (r : DirRec) (read : Bool) (s : State) : State :=
  let h := s.home
  let l := m.laddr
  let seat := h.seatOf m
  let mine := seat.any (·.holds k m)
  let below := (m.stamp.getD 0).ult (horizonOf s m.src)
  let free := !h.seats.any (fun c => decide (c.2.line = l) && decide (c.2.key < msgKey m)) && !h.tt.any (fun t => decide (t.line = l))
  let g := groupOf s m.src
  let s0 := if below && !mine && decide (k ≠ .pfq) then evStampStall g 0 4 s else s
  match (if below && free then h.freeMain else none) with
  | some n =>
    if pfqRefused s k m r then nack { m with res := true } rsnBUSY 0 m.gen 0 (freeSeat k m s0)
    else acceptT k m n none r read s0
  | none =>
    if mine || seat.all (fun x => decide (msgKey m < x.key)) then
      let s2 := s0.modHome (fun h => { h with
        seats := spIns (seatIdx m) { stamp := m.stamp.getD 0, node := m.src, port := m.port, strm := m.strm, line := l, kind := k, group := g } h.seats })
      let gs := ((s2.home.seats.filter (fun c => decide (c.2.line = l))).map (·.2.group)).dedup
      nack m rsnBUSY 0x800 m.gen 0
        (if decide (1 < gs.length) && !mine then (evStampStall g 0 3 s2).each gs (fun s g => stampLostOf g 3 l s) else s2)
    else nack m rsnBUSY 0 m.gen 0 s0

/-- The device answers no coherent message: it is stopped, or it has found itself declared dead (R182, R521). -/
def homeMute (s : State) : Bool := s.fabric.selfDead || isDead s.fabric s.node.node

/-- A request reaches the home (R163). A message from a node that is dead or cut has been discarded by the fabric (R314). -/
def onRequest (k : BKind) (m : BMsg) (s : State) : State :=
  let l := m.laddr
  if homeMute s || isLost s.node s.fabric m.src then s
  else match served s l m.gen false with
  | .moved h g => nack m rsnMOVED h g m.age s
  | .stub h g => nack m rsnMOVED h g m.age s
  | .receiving => nackRetry m rsnBUSY s
  | .taken =>
    if decide (lineHome l = s.node.node) && beyondMem s l then
      sendMsg .cmp { dst := m.src, dstu := m.srcu, src := s.node.node, srcu := homeUnit, rtid := m.rtid, laddr := l,
                     rqn := m.src, rqu := m.srcu, gen := m.gen, aerr := true }
        (evAddrErr (lineAddr l) m.port.toFin s)
    else
      let far := farNode s.node m.src
      let ok := match k with | .rdU | .amoF => true | .wrU => !m.keep | _ => false
      let y : DirRec × Bool × State := match s.home.txn l with
        | some t => (t.after, false, s)
        | none => dirLook l s
      if y.1.st = .QU then nack m rsnDEAD 0 m.gen m.age y.2.2
      else if far && !ok then nack m rsnDEAD 0 m.gen m.age (evProto 3 m.src l y.2.2)
      else if m.stamp.isSome then stampReq k m y.1 y.2.1 y.2.2
      else if y.2.2.home.exhausted m then nackRetry m rsnCONTRACT y.2.2
      else takeReq k m y.1 y.2.1 y.2.2

/-! ### Puts (R141, R156, R159 to R162, R184) -/

/-- A Put is current (R159). -/
def isCurrent (k : BKind) (m : BMsg) (r : DirRec) : Bool :=
  r.names (memOf m.src) && (decide (k = .putS) || decide (m.osn = r.osn))

/-- The data a transaction uses when the member it was sent to answers that it holds none: of a Put the member sent, else of
memory, poisoned when `rule` is not 0 (R162, R176). The forward's grant goes from the home. -/
def substitute (n : Nat) (p : Member) (rule : Nat) (s : State) : State :=
  match s.home.at_ n with
  | none => s
  | some t =>
    let put := t.puts.find? (fun x => decide (memOf x.2.1.src = p) && (decide (x.1 = .putM) || decide (x.1 = .putO)))
    let s1 := if rule ≠ 0 then poisonedAt t.line rule (modT n (fun u => { u with after := { u.after with poison := true } }) s)
      else match put with
        | some x => modT n (fun u => { u with after := { u.after with poison := x.2.1.poison } }) (homeWrite t.line x.2.1.data s)
        | none => s
    match s1.home.at_ n with
    | none => s1
    | some u =>
      let y := memLine u s1
      match y.1 with
      | none =>
        advance n (nack u.req rsnDEAD 0 u.req.gen u.req.age (modT n (fun v => { v with
          after := { st := .QU, poison := true }, waitAck := false, acted := true, putOf := none, probeOf := none, fwdTo := none }) y.2))
      | some d =>
        let s2 := modT n (fun v => { v with after := v.after.remove p, putOf := none, probeOf := none, fwdTo := none }) y.2
        if u.fwdTo.isSome then
          let k : BKind := if u.fwdK = .fwdS then .dataS else .dataE
          advance n (sendMsg k { toReq s2 u with data := d.1, poison := d.2.1, fwdr := u.fwdr && decide (u.fwdK = .fwdS),
                                                 waitcmp := u.waitcmp && !u.acted } s2)
        else advance n (modT n (fun v => { v with got := some (d.1, d.2.1, false) }) s2)

/-- A Put reaches the home. -/
def onPut (k : BKind) (m : BMsg) (s : State) : State :=
  let l := m.laddr
  let data := decide (k = .putM) || decide (k = .putO)
  if homeMute s || isLost s.node s.fabric m.src then s
  else match served s l m.gen true with
  | .stub _ _ => wbAck m s
  | .moved h _ => wbAck m (if h = memOf s.node.node then s else evProto 5 m.src l s)
  | .receiving => wbAck m s
  | .taken =>
    match s.home.txn l with
    | some t =>
      let cur := isCurrent k m t.after
      let s1 := if data && cur then
          modT t.num (fun u => { u with after := { u.after with poison := m.poison }, read := false }) (homeWrite l m.data s)
        else if data then s.modHome (fun h => { h with stalePut := h.stalePut + 1 }) else s
      let s2 := modT t.num (fun u => { u with puts := u.puts ++ [(k, m, cur)] }) s1
      if t.putOf = some (memOf m.src) then substitute t.num (memOf m.src) 0 s2 else s2
    | none =>
      let y := dirLook l s
      if y.1.st = .QU then
        wbAck m (if data then dirStore l { y.1 with poison := false } (homeWrite l m.data y.2.2) else y.2.2)
      else
        let cur := isCurrent k m y.1
        let s1 := if data && cur then homeWrite l m.data y.2.2
          else if data then y.2.2.modHome (fun h => { h with stalePut := h.stalePut + 1 }) else y.2.2
        let r := if cur then y.1.put k (retains k m) (memOf m.src) else y.1
        let r1 := if data && cur then { r with poison := m.poison } else r
        wbAck m (if cur then dirStore l r1 s1 else s1)

/-! ### Answers (R133, R162, R520) -/

/-- The transaction a VC2 message names; a message that names neither one nor a claim is discarded, counted and posted (R520). -/
def answered (m : BMsg) (s : State) (f : HTxn → State) : State :=
  if homeMute s || isLost s.node s.fabric m.src then s
  else match s.home.tt.find? (fun t => decide (t.num = m.htid.toNat) && decide (t.line = m.laddr)) with
  | none => evProto 6 m.src m.laddr s
  | some t => if t.claim.isSome then s else f t

/-- An Ack from the requester: for a shared read forwarded to E1, FWDR says whether the copy was clean (R140). -/
def onAck (m : BMsg) (s : State) : State :=
  answered m s (fun t =>
    if t.waitAck && decide (m.src = t.req.src) && decide (m.srcu = t.req.srcu) then
      let after := if m.fwdr && decide (t.recd.st = .E1) && decide (t.kind = .rdS) then
          t.after.shared t.after.holders (some (memOf m.src))
        else t.after
      advance t.num (modT t.num (fun u => { u with waitAck := false, after := after }) s)
    else s)

/-- An InvAck: of a holder invalidated, or of the whole broadcast (R157); or the answer of a device that a forward or probe
found without a copy (R162). -/
def onInvAck (m : BMsg) (comb : Bool) (s : State) : State :=
  answered m s (fun t =>
    let p := memOf m.src
    if comb then advance t.num (modT t.num (fun u => { u with waitB := false, allow := max u.allow m.allow }) s)
    else if t.waitInv.contains p then
      advance t.num (modT t.num (fun u => { u with waitInv := u.waitInv.filter (· ≠ p), allow := max u.allow m.allow }) s)
    else if (t.fwdTo = some p || t.probeOf = some p) && t.putOf.isNone then
      let taken := t.puts.any (fun x => decide (memOf x.2.1.src = p))
      if t.recd.owner = some p ∧ !taken then
        modT t.num (fun u => { u with putOf := some p, probeOf := none }) s
      else substitute t.num p 0 s
    else s)

/-- DataE or DataM of a probed owner. -/
def onProbe (m : BMsg) (dirty : Bool) (s : State) : State :=
  answered m s (fun t =>
    if t.probeOf = some (memOf m.src) then
      advance t.num (modT t.num (fun u => { u with probeOf := none, got := some (m.data, m.poison, dirty), allow := max u.allow m.allow }) s)
    else s)

/-- A claim window ends: the claim lapses (R168). -/
def claimLapse (n : Nat) (s : State) : State :=
  match s.home.tt.find? (fun t => decide (t.num = n) && t.claim.isSome) with
  | some t => freeEntry t s
  | none => s

/-- No Put has come from the owner within 10 µs (R162). -/
def putTimeout (n : Nat) (s : State) : State :=
  match s.home.at_ n with
  | some t =>
    match t.putOf with
    | some p => substitute n p 2 (evProto 4 (nodeOf (domOf s.node.node) p) t.line s)
    | none => s
  | none => s

/-- No Ack has come 10 µs after the declaration of the node that forwarded the data (R176). -/
def ackTimeout (n : Nat) (s : State) : State :=
  match s.home.at_ n with
  | some t =>
    match t.fwdTo with
    | some p => if t.waitAck && isLost s.node s.fabric (nodeOf (domOf s.node.node) p) then substitute n p 3 s else s
    | none => s
  | none => s

/-! ### Dead and cut nodes (R176 to R178) -/

/-- What a transaction does at the declaration of a node it depends on (R176). -/
def txnDead (n : NodeId) (t0 : HTxn) (s : State) : State :=
  let here := decide (domOf n = domOf s.node.node)
  let p := memOf n
  match s.home.at_ t0.num with
  | none => s
  | some t =>
    let s1 := if here && t.waitInv.contains p then
        advance t.num (modT t.num (fun u => { u with waitInv := u.waitInv.filter (· ≠ p) }) s) else s
    match s1.home.at_ t0.num with
    | none => s1
    | some u =>
      if u.waitAck && decide (u.req.src = n) then
        advance u.num (modT u.num (fun v => { v with waitAck := false }) s1)
      else if here && u.probeOf = some p then substitute u.num p 3 s1
      else s1

/-- The frame lines of the directory cache whose record names a member, or cannot be read (R154). -/
def Home.naming (h : Home) (p : Member) : List Nat :=
  h.dir.flatMap (fun c => c.2.ents.toList.filterMap (fun e => match e with
    | some e => if e.recd.names p || e.bad then
        some (e.tag.toNat * 2 ^ 17 + (c.1 ^^^ e.tag.toNat)) else none
    | none => none))

/-- The entries of the directory cache with bad parity whose frame line satisfies a test are loaded again (R154). -/
def dirFix (p : Nat → Bool) (s : State) : State :=
  let bad := s.home.dir.flatMap (fun c => c.2.ents.toList.filterMap (fun e => e.bind (fun e =>
    let f := e.tag.toNat * 2 ^ 17 + (c.1 ^^^ e.tag.toNat)
    if e.bad && p f then some f else none)))
  s.each bad (fun s f => (dirReload (lineOfFrame s f) s).2)

/-- Reclaim of a record from a member by the sweep: in a transaction of its own, in a non-lane entry; with none free the line is visited
again (R178). -/
def sweepRec (p : Member) (l : LAddr) (r : DirRec) (s : State) : State :=
  if !r.names p then s
  else match s.home.freeMain with
    | none => s
    | some n =>
      let y := r.reclaim p
      let inv := y.2.1.filter (fun x => !isLost s.node s.fabric (nodeOf (domOf s.node.node) x))
      let m : BMsg := { src := s.node.node, srcu := homeUnit, laddr := l, gen := (homeNow s l).2 }
      openT { t := { num := n, line := l, kind := .inv, req := m, recd := y.1, after := y.1, waitInv := inv, sweep := true } }
        (reclaimed l p y.2.2 s)

/-- The sweep visits one line of the directory cache: a busy or claimed one is skipped; an entry with bad parity is loaded again (R154, R178). -/
def sweepLine (p : Member) (f : Nat) (s : State) : State :=
  let l := lineOfFrame s f
  if s.home.tt.any (fun t => decide (t.line = l)) then s
  else match s.home.entry f with
  | none => s
  | some (_, e) => if e.bad then (let y := dirReload l s; sweepRec p l y.1 y.2) else sweepRec p l e.recd s

/-- One pass of the sweep for a member over the directory cache (R178). -/
def sweepPass (p : Member) (s : State) : State := s.each (s.home.naming p) (fun s f => sweepLine p f s)

/-- The pass for a member has nothing left: no record names it, no line is busy with its reclaim. -/
def sweepDone (s : State) (p : Member) : Bool := (s.home.naming p).isEmpty && !s.home.tt.any (fun t => t.sweep)

/-- The home at the declaration, or the cutting off, of a node (R176, R178). -/
def homeDead (n : NodeId) (s : State) : State :=
  let s1 := s.each s.home.tt (fun s t => txnDead n t s)
  if domOf n = domOf s.node.node then
    let s2 := if s1.home.sweeps.any (fun w => decide (w.node = n)) then s1
      else s1.modHome (fun h => { h with sweeps := h.sweeps ++ [⟨n, 0, 0, false⟩] })
    sweepPass (memOf n) s2
  else s1

end Sys2Proof.Machine
end

