-- ==== Sys2Proof/Machine/Ports.lean ====
section
/-! DEFINITION. The host ports: arrival, breaches of stamp mode, admission and contracts, the stride detector, barriers,
waiting requests, writebacks, snoop answers, and a port that goes down (R86, R117, R120, R221, R236, R257, R297). -/

namespace Sys2Proof.Machine

/-! ### Admission (R257) -/

/-- What admission control decides: refused, by the contract checks or not; accepted, with a bound or without. -/
inductive Verdict | refuse (byContract : Bool) | accept (bound : Bool)
deriving DecidableEq, Repr

/-- The decision on a request of a port for a line (R257). -/
def verdict (s : State) (p : Port) (l : LAddr) : Verdict :=
  let h := s.hp p
  let c := h.ctr
  if s.arb.closed p then .refuse false
  else if !c.valid then .accept false
  else if isFar s l || decide (c.hops.toNat < homeHops s l) then (if c.unc then .accept false else .refuse true)
  else if decide (c.out ≤ h.outst) || decide (c.tok < tokenUnit) || decide (vget c.stok (sliceOf l).val 0 < tokenUnit) ||
      decide (c.mtok < tokenUnit) then .refuse true
  else .accept true

/-- Take the tokens of a request accepted with a bound (R257). -/
def charge (p : Port) (l : LAddr) (s : State) : State :=
  s.modHp p (fun h =>
    let c := h.ctr
    let i := (sliceOf l).val
    { h with
      ctr := { c with tok := c.tok - tokenUnit, stok := vset c.stok i (vget c.stok i 0 - tokenUnit), mtok := c.mtok - tokenUnit }
      outst := h.outst + 1, caccept := h.caccept + 1 })

/-- A refused request: answered with Retry; on a CXL port not taken from the link (R257, R320). -/
def refuse (r : Req) (byContract : Bool) (s : State) : State :=
  let s1 := pmu 0x21 (some r.port.val) (retireReq r s)
  let s2 := if byContract then s1.modHp r.port (fun h => { h with crefuse := h.crefuse + 1 }) else s1
  if r.cxl then s2 else answer r (.retry r.etag) (s2.modHp r.port (fun h => { h with retry := h.retry + 1 }))

/-! ### Form of a request (R198, R199, R214) -/

/-- A size with a natural alignment (R197), and that alignment. -/
def natural (len off : Nat) : Bool := [1, 2, 4, 8, 16].contains len && decide (off % len = 0)

/-- A request that completes with ERR and no side effect for its size or alignment (R198, R199, R214; log 19 for a LEN that
is 0 or above 64). -/
def badForm (r : Req) : Bool :=
  match r.op with
  | .rsvLoad | .condStore => !natural r.len (offOf r.addr)
  | .atomic => !atomicOk r.aop r.len || decide (offOf r.addr % r.len ≠ 0)
  | .rdCur | .write | .writeNT => decide (r.len = 0) || decide (64 < r.len)
  | _ => false

/-- The accesses a request is performed as: the two lines of one that crosses a line, lower line first, the upper next after it in the order of
the port (R198). The payload moves to its place in the line, the policy bit of the region is attached (R67). -/
def partsOf (s : State) (r : Req) : List Req :=
  let off := offOf r.addr
  let wt (r : Req) : Req := { r with wt := !isFar s (lineOf r.addr) && isWt s (lineOf r.addr) }
  match r.op with
  | .rdCur | .write | .writeNT =>
    if r.cxl then [wt r]
    else if off + r.len ≤ 64 then [wt { r with data := placeLine r.data off, mask := rangeMask off r.len }]
    else
      let k := 64 - off
      [wt { r with len := k, part := 1, opB := BitVec.ofNat 128 (r.len - k), data := placeLine r.data off, mask := rangeMask off k },
       wt { r with addr := r.addr + BitVec.ofNat 58 k, len := r.len - k, part := 2, opB := BitVec.ofNat 128 k,
                   data := r.data >>> (8 * k), mask := rangeMask 0 (r.len - k), seq := r.seq + 1 }]
  | .condStore => [wt { r with data := placeLine r.data off, mask := rangeMask off r.len }]
  | _ => [wt r]

/-! ### The stride detector (R86) -/

/-- A demand read seen by the tracker of its page: strides counted, least recently used tracker replaced; the lines hinted.
Three reads at one constant stride, and each later one, hint the next DEPTH lines of the stride within the page. -/
def trackRead (h : HPort) (l : LAddr) : List LAddr × List Tracker :=
  let page : BitVec 46 := fld l 6 46
  let i : Nat := (fld l 0 6).toNat
  match h.trackers.find? (fun t => decide (t.page = page)) with
  | none => ([], (if h.trackers.length < 32 then h.trackers else h.trackers.drop 1) ++ [⟨page, i, 0, 1⟩])
  | some t =>
    let d : Int := (i : Int) - (t.last : Int)
    let t1 : Tracker := if d = 0 then t else if d = t.stride then { t with last := i, run := t.run + 1 }
      else { t with last := i, stride := d, run := 2 }
    let next := ((List.range h.depth).map (fun (k : Nat) => (i : Int) + t1.stride * ((k : Int) + 1))).filter
      (fun x => decide (0 ≤ x) && decide (x < 64))
    (if decide (3 ≤ t1.run) && decide (d ≠ 0) then next.map (fun x => page ++ BitVec.ofNat 6 x.toNat) else [],
      h.trackers.filter (fun u => decide (u.page ≠ page)) ++ [t1])

/-- The stride detector on a demand read: its hints are dropped in stamp mode (R251); each of the others has its pass in its slice (R265). While
HPORT_PF_CTL.EN is 0 it is off, and its trackers stand (R112; DESIGN CHOICE, log 77). -/
def stride (r : Req) (s : State) : State :=
  let h := s.hp r.port
  if isLoad r.op && h.strideEn then
    let y := trackRead h (lineOf r.addr)
    let s1 := s.setHp r.port { h with trackers := y.2 }
    if h.stamped then s1 else s1.each y.1 (fun s l => prefetch r.port r.strm false l (arbPass (sliceOf l) .pfc r.port s))
  else s

/-! ### Acceptance -/

/-- Note an access in its port's order (R218). -/
def noteAcc (s0 : State) (r : Req) (s : State) : State :=
  s.modHp r.port (fun h => { h with
    accs := h.accs ++ [⟨r.etag, r.strm, r.seq, r.op, lineOf r.addr, isUnbuf s0 r, r.bound⟩] })

/-- Reservations cleared when a store, an atomic or a conditional store is accepted (R212). -/
def acceptRsv (r : Req) (s : State) : State :=
  let l := lineOf r.addr
  match r.op with
  | .write | .writeNT | .atomic => clearRsv r.port l none s
  | .condStore => clearRsv r.port l (some r.rslot.toNat) s
  | _ => s

/-- The port's own entries of the line that an access closes (R74, R78). -/
def closeOwn (r : Req) (s : State) : State :=
  let mine (e : BufEnt) : Bool := decide (e.port = r.port) && decide (e.line = lineOf r.addr)
  let w := match r.op with | .rsvLoad | .condStore | .atomic => true | _ => false
  let n := match r.op with | .writeNT | .pfHint | .exc => false | _ => true
  closeEntries (fun e => w && mine e) (fun e => n && mine e) s

/-- The requester class of an access (R265): a prefetch hint, or a host's request with or without a bound. -/
def classOf (r : Req) : Cls := if r.op = .pfHint then .pfc else if r.bound then .hostC else .hostU

/-- An access has its pass of the slice pipeline (R265); one that enters a combining buffer of its port, and an exception, need none. -/
def passOf (r : Req) (s : State) : State :=
  if r.op = .writeNT ∨ r.op = .exc then s else arbPass (sliceOf (lineOf r.addr)) (classOf r) r.port s

/-- One access of an accepted request goes to its slice, or waits in the port for those it follows (R218, R221). Entries it
has closed are issued after it, so that a load is served with the overlay of R80. -/
def enter (r : Req) (s : State) : State :=
  let s1 := closeOwn r (acceptRsv r s)
  let s2 := if mayGo s1 r then anyAccess r false (passOf r s1)
    else s1.modHp r.port (fun h => { h with queue := h.queue ++ [r] })
  issueAll (sliceOf (lineOf r.addr)) s2

/-- An accepted request is checked for its form, split, and entered (R198). -/
def accept (r : Req) (bound : Bool) (s : State) : State :=
  let r1 := { r with bound := bound }
  let s1 := if bound then charge r.port (lineOf r.addr) s else s
  if badForm r1 then
    match r1.op with
    | .atomic | .rsvLoad | .condStore => atomErr r1 s1
    | _ => complete r1 stERR 0 false false s1
  else
    let s2 := retireReq r1 s1
    let ps := partsOf s2 r1
    let s3 := s2.each ps (fun s q => noteAcc s2 q (if isFar s (lineOf q.addr) then s else policyFix (lineOf q.addr) s))
    stride r1 (s3.each ps (fun s q => enter q s))

/-- Admission of a request (R257). An exception does not pass it. -/
def admitReq (r : Req) (s : State) : State :=
  let s1 (s : State) : State := match r.stamp with
    | some t => s.modHp r.port (fun h => { h with lastSt := spIns r.strm.toNat t h.lastSt })
    | none => s
  if r.op = .exc then accept r false (s1 s)
  else match verdict s r.port (lineOf r.addr) with
  | .refuse c => refuse r c s
  | .accept b => accept r b (pmu 0x20 (some r.port.val) (s1 s))

/-- A breach of the obligations of a stamp-mode host (R236): counted, an event, and a cause of R252. -/
def breach (p : Port) (s : State) : State :=
  stampLost 2 0 (evStampStall s.stamp.group (setBit 0 p.val true) 2 { s with stamp := { s.stamp with viol := s.stamp.viol + 1 } })

/-- Status with which a breach completes; `none` where the request keeps R235 (R236). A request with no stamp word counts as
one below the floor (log 20). -/
def breachOf (s : State) (r : Req) : Option (BitVec 3) :=
  let h := s.hp r.port
  if !h.stamped then none
  else match r.stamp with
  | none => some stERR
  | some t =>
    if t.ult h.floor || t.ult (spGet 0 h.lastSt r.strm.toNat) then some stERR
    else if r.op = .exc then none
    else if isFar s (lineOf r.addr) || (decide (64 < offOf r.addr + r.len) && isFar s (lineOf r.addr + 1)) then some stADDR
    else if r.op = .upgrade then some stERR
    else none

/-- The port receives host messages: its link is in L0 and of the protocol of the message (R289); CXL.mem is enabled once
every slice reads ENABLED (R98). -/
def receives (s : State) (p : Port) (cxl : Bool) : Bool :=
  decide ((s.hp p).link = .up) && decide ((s.hp p).proto = cxl) && (!cxl || s.slices.toList.all Slice.enabled)

/-! ### Credits of the host (R295) -/

/-- HREQ credits the host of a port has left: one is held by each request in the port's queue and by each register access held there. -/
def HPort.hreq (h : HPort) : Nat := 512 - (h.queue.length + h.regq.length)
/-- HDAT credits a request holds with its payload, of at most 64 B. -/
def hdatOf (op : Op) : Nat :=
  match op with
  | .write | .writeNT | .atomic | .condStore => 1
  | .rdShared | .rdOwn | .upgrade | .rdCur | .rsvLoad | .pfHint | .exc => 0
/-- HDAT credits the host of a port has left. -/
def HPort.hdat (h : HPort) : Nat :=
  256 - ((h.queue.map (fun r => hdatOf r.op)).foldl (· + ·) 0 + (h.regq.filter (fun q => !q.read)).length)
/-- HWB credits of a port: none is held beyond the take of its message, and each snoop outstanding reserves one more. -/
def HPort.hwb (h : HPort) : Nat := 64 + h.snps.length
/-- The host of a port holds the credits of an Emhal request: without them it cannot send one (log 89). -/
def credited (s : State) (r : Req) : Bool :=
  r.cxl || (decide (0 < (s.hp r.port).hreq) && decide (hdatOf r.op ≤ (s.hp r.port).hdat))

/-- DCMP and DSNP credits that the host gives with a message (R295). -/
def gives (m : EMsg) (s : State) : State :=
  if receives s m.port false && (decide (m.dcmp ≠ 0) || decide (m.dsnp ≠ 0)) then
    s.modHp m.port (fun h => { h with dcmp := h.dcmp + m.dcmp, dsnp := h.dsnp + m.dsnp })
  else s

/-! ### HDM decoders (R22) -/

/-- A committed decoder of a port maps an address. -/
def Hdm.maps (d : Hdm) (a : GAddr) : Bool := d.committed && decide (d.base.toNat ≤ a.toNat) && decide (a.toNat < d.base.toNat + d.size.toNat)
/-- A CXL.mem request names an address that a decoder of its port maps. -/
def decoded (s : State) (p : Port) (a : GAddr) : Bool := (s.hp p).hdm.toList.any (·.maps a)
/-- A CXL.mem request to an address no decoder maps reaches no line: it ends as an address error of R20 does (log 90). -/
def undecoded (r : Req) (s : State) : State := completeErr r stADDR (evAddrErr r.addr r.port s)

/-- A request arrives at its port, and takes its place in the port's order, two places for an access that may cross a line (R198, R221). Before
admission opens it waits in the port's queue (R466). -/
def arrive (r0 : Req) (s : State) : State :=
  if !receives s r0.port r0.cxl || !credited s r0 then s
  else
    let h := s.hp r0.port
    let r := { r0 with seq := s.seqNo, start := s.gen.time, stamp := if h.stamped then r0.stamp else none }
    let s0 := { s with seqNo := s.seqNo + 2 }
    if s.fabric.selfDead then completeStop r s0
    else if r.cxl && !decoded s r.port r.addr then undecoded r s0
    else match breachOf s r with
    | some st => complete r st 0 false false (breach r.port s0)
    | none =>
      let s1 := noteAcc s0 r s0
      if h.admOpen || decide (r.op = .exc) then admitReq r s1
      else s1.modHp r.port (fun h => { h with queue := h.queue ++ [{ r with waitAdm := true }] })

/-- The request an Emhal message makes (R291, R292). -/
def emReq (op : Op) (len : Nat) (m : EMsg) : Req :=
  { port := m.port, etag := m.etag.setWidth 16, op := op, strm := m.strm, addr := m.addr, len := len, data := m.data,
    opB := m.opB, aop := m.aop, rslot := m.rslot, stamp := m.stamp, poison := m.poison }

/-- The request a CXL.mem message makes (R121): line messages, with a byte mask. -/
def cxlReq (op : Op) (mask : W64) (c : CMsg) : Req :=
  { port := c.port, etag := c.tag, op := op, addr := lineAddr (lineOf c.addr), len := 64, data := c.data, mask := mask,
    poison := c.poison, cxl := true }

/-! ### Barriers (R221, R222) -/

/-- A barrier of a port: it closes the entries it names and imposes its order. -/
def barrier (m : EMsg) (s : State) : State :=
  let p := m.port
  let b : Bar := { kind := m.bkind, port := m.bscope, strm := m.strm, etag := m.etag, seq := s.seqNo }
  let hit (e : BufEnt) : Bool :=
    decide (b.kind ≠ 0) && decide (e.port = p) && (b.port || bit e.streams b.strm.toNat)
  let s1 := closeEntries hit hit { s with seqNo := s.seqNo + 1 }
  dropBars (issueEvery (s1.modHp p (fun h => { h with bars := h.bars ++ [b] }))) p

/-- BAR.DONE completes to the host when every access before it in its scope has reached its end point (R222). -/
def barDone (p : Port) (etag : BitVec 12) (s : State) : State :=
  match (s.hp p).bars.find? (fun b => decide (b.kind = 3) && decide (b.etag = etag)) with
  | none => s
  | some b =>
    if barMet s p b then endBar p b stOK s else s

/-! ### Writebacks and notices (R117, R213) -/

/-- A Reedbed line that port p has read with write permission, and whose move into the cache waits (R89). -/
def Slice.exclMove (x : Slice) (p : Port) (e : RbEnt) : Bool :=
  (decide (e.st = .E) || decide (e.st = .M)) && decide (x.moveHp e.line = some (setBit 0 p.val true))

/-- Port p is the exclusive host of a line (R116). -/
def isExcl (s : State) (p : Port) (l : LAddr) : Bool :=
  match s.wayOf (sliceOf l) l with
  | some (_, t) => decide (exclHost t = some p)
  | none => let x := s.sl (sliceOf l); x.rb.any (fun e => decide (e.line = l) && x.exclMove p e)

/-- The dirty writeback of the exclusive host: its lookup reads the tag block and writes the hint (R40, R42), the data is merged, the HP bit kept
or cleared (R117). A line whose move from the Reedbed waits takes it there. -/
def hostWb (p : Port) (l : LAddr) (d : Line) (poison keep : Bool) (s : State) : State :=
  let i := sliceOf l
  let z := lookEntry i l s
  if !z.1 then z.2
  else
    let take (e : RbEnt) : RbEnt := { e with st := .M, data := d, poison := poison }
    let s1 := (mergeHost i l d poison true z.2).modSl i (fun x => { x with rb := modFirst (fun e => decide (e.line = l) && x.exclMove p e) take x.rb })
    if keep then s1 else dropHp i l p s1

/-- A clean eviction notice: the HP bit stays while the port holds a reservation on the granule (R213). -/
def evictNotice (p : Port) (l : LAddr) (s : State) : State :=
  let h := s.hp p
  if h.goodRsv.any (fun c => decide (c.2 = l)) then s else dropHp (sliceOf l) l p s

/-! ### Waiting requests -/

/-- A request that waits is tried again when its resource may be free (log 3): from a slice, or from the port's queue. -/
def resume (w : WaitRef) (s : State) : State :=
  match w with
  | .slice i k =>
    match (s.sl i).waiters[k]? with
    | none => s
    | some r =>
      if mayGo s r then
        settle i (anyAccess { r with pin := false } false (passOf r (s.modSl i (fun x => { x with waiters := x.waiters.eraseIdx k }))))
      else s
  | .port p k =>
    match (s.hp p).queue[k]? with
    | none => s
    | some r =>
      let s1 := s.modHp p (fun h => { h with queue := h.queue.eraseIdx k })
      if r.waitAdm then (if (s.hp p).admOpen then admitReq { r with waitAdm := false } s1 else s)
      else if mayGo s r then settle (sliceOf (lineOf r.addr)) (anyAccess { r with pin := false } false (passOf r s1))
      else s

/-! ### A port that goes down (R288, R297, R414, R417) -/

/-- The contract of a port ends other than by CONTRACT_REL (R288, R297, R390): event and notice; the shares are freed when
the last contracted request completes (R255). -/
def ctrLost (p : Port) (s : State) : State :=
  if (s.hp p).ctr.valid then
    postNotice p 0xA1 0 (postEvent 0x81 8 [BitVec.ofNat 64 p.val]
      (s.modHp p (fun h => { h with ctr := { h.ctr with valid := false }, ctrRel := true })))
  else s

/-- A master goes: its key closes and its semaphores are released (R414, R417). -/
def masterGone (m : Master) (s : State) : State :=
  let g := s.gen
  { s with gen := { g with keys := vset g.keys m.val false
                           sem := g.sem.map (fun x => if x.toNat = m.val + 1 then 0 else x) } }

/-- A QUARANTINE notice that waits for a port goes with its link (R390). -/
def quarEnds (p : Port) (s : State) : State :=
  (s.modHp p (fun h => { h with quarCnt := 0, quarWait := false })).modMb p (fun m =>
    { m with backlog := m.backlog.filter (fun c => decide (c.1 ≠ 0xA3)) })

/-- A request not yet passed to a slice is discarded with its port (R297). -/
def discardReq (s : State) (r : Req) : State :=
  let s1 := retireReq r s
  let give (s : State) : State := if r.bound then s.modHp r.port (fun h => { h with outst := h.outst - 1 }) else s
  if r.part = 0 then give s1
  else
    let s1 := s1.modHp r.port (fun h => { h with half := h.half.filter (fun e => decide (e ≠ r.etag)) })
    let h := s1.hp r.port
    if h.halves.any (fun c => decide (c.1 = r.etag.toNat)) then give (s1.setHp r.port { h with halves := spDel r.etag.toNat h.halves })
    else s1.setHp r.port { h with halves := spIns r.etag.toNat ((0 : Line), stOK, false) h.halves }

/-- Every way of the part whose HP bit p is set. -/
def hpPlaces (s : State) (p : Port) : List (Nat × Nat × Nat) :=
  sliceNos.flatMap (fun i =>
    ((s.sl i).held_.filter (fun c => bit ((s.sl i).word c.1 c.2).hp p.val)).map (fun c => (i.val, c.1, c.2)))

/-- The lines of the Reedbed that a port going down has read, and whose moves wait: its HP bit will not be set, and one that it held with write
permission is poisoned (R89, R297). -/
def dropMoves (p : Port) (s : State) : State :=
  s.each sliceNos (fun s i =>
    let x := s.sl i
    let lost := x.rb.filter (x.exclMove p)
    (s.modSl i (fun x => { x with rb := x.rb.map (fun e => if x.exclMove p e then { e with poison := true } else e) }.dropMove (fun _ => true) p)).each
      lost (fun s e => evPoisoned e.line 5 s))

/-- A host port goes down (R297). -/
def portDown (p : Port) (s : State) : State :=
  let h := s.hp p
  if h.link = .down ∨ h.link = .downBusy then s
  else if h.link = .training then s.setHp p { h with link := .down }
  else
    let s1 := s.setHp p { h with
      link := .downBusy, proto := false, width := 0, rate := false, degraded := false, biEn := false, admOpen := false,
      down := h.down + 1, queue := [], bars := [], snps := [], rsv := [], rsvBad := [], trackers := [],
      msix := false, msixLive := false, hpWalk := hpPlaces s p, heldOut := [], txq := [], dcmp := 0, dsnp := 0, walking := true, regq := [] }
    let s2 := dropMoves p ((quarEnds p s1).each h.queue discardReq)
    let mine (e : BufEnt) : Bool := decide (e.port = p)
    let s3 := ctrLost p (masterGone ⟨p.val, by omega⟩ (closeEntries mine mine s2))
    let s4 := if h.stamped then
        (stampLost 6 0 s3).modHp p (fun h => { h with leaving := true })
      else s3
    let s5 := peatEnter (mkRec 0x40 2 (bodyAt 24 p.val)) (postEvent 0x51 5 [BitVec.ofNat 64 p.val] s4)
    let s6 := s5.each h.snps (fun s n =>
      let s1 := if n.excl then poisonLine n.slice n.line 5 s else s
      groupAnswer n.slice n.grp p (dropHp n.slice n.line p s1))
    issueEvery (msixCheck p s6)

/-- Every action of R297 for a port but the HP walk is complete. -/
def downDone (s : State) (p : Port) : Bool :=
  let h := s.hp p
  let mine (r : Req) : Bool := decide (r.port = p)
  h.ntc.isEmpty && !h.ctr.valid && !h.ctrRel && !h.stamped &&
    s.slices.toList.all (fun x => !x.reqs.any mine && !x.wmb.any (fun e => decide (e.port = p)) &&
      !x.stt.any (fun t => decide (t.port = p) && t.stamp.isSome))

/-- The state a port takes when it may train: training while its mode is not 00 and the firmware has enabled training
(R288, R316, R464). -/
def trainSt (s : State) (h : HPort) : HLink :=
  if h.mode ≠ 0 ∧ (s.crp.phase = .links ∨ s.crp.phase = .running) then .training else .down

/-- A port that went down may train again once its HP walk and every other action are complete (R297). -/
def downMove (s : State) (p : Port) : State :=
  let h := s.hp p
  if h.link = .downBusy ∧ !h.walking ∧ downDone s p then s.setHp p { h with link := trainSt s h } else s

/-- Every port that went down is looked at: what has just completed may have been the last of its actions (R297). -/
def downMoves (s : State) : State := s.each ports downMove

/-- The HP walk of a port that went down is done: the bits are cleared, with POISON where the port was the exclusive host;
the port may train again when every other action is complete (R297). WALKHOLD does not hold it: R265 does not list it in the class WALK
(DESIGN CHOICE, log 103). -/
def portWalkDone (p : Port) (s : State) : State :=
  if (s.hp p).link = .downBusy then
    let s1 := s.each (s.hp p).hpWalk (fun s c =>
      let i : SliceNo := (BitVec.ofNat 3 c.1).toFin
      let t := (s.sl i).word c.2.1 c.2.2
      if bit t.hp p.val && decide (t.st ≠ .I) && decide (t.st ≠ .P) then
        let l := lineIn s i c.2.1 t
        dropHp i l p (if exclHost t = some p then poisonLine i l 5 s else s)
      else s)
    downMove (s1.modHp p (fun h => { h with hpWalk := [], walking := false })) p
  else s

/-- The link enters Recovery (R289, R320); reservations are cleared (R212). -/
def enterRecovery (p : Port) (s : State) : State :=
  let h := s.hp p
  if h.link = .up then s.setHp p { h with link := .recovery, recov := h.recov + 1, rsv := [], rsvBad := [] } else s

/-- A width and a rate the port may use (R288). -/
def linkAllowed (h : HPort) (x16 g6 : Bool) : Bool := (x16 || h.x8ok) && (g6 || h.g5ok)

/-- The link is up at a width and rate, and the messages that waited for it leave (R289); a degraded one is posted and ends the contract
(R288). -/
def linkUpAt (p : Port) (x16 g6 : Bool) (s : State) : State :=
  let deg := !x16 || !g6
  let s0 := s.modHp p (fun h => { h with link := .up, width := if x16 then 2 else 1, rate := g6, degraded := deg, heldOut := [] })
  let s1 := s0.each (s.hp p).heldOut (fun s m => s.emit (.host p m))
  if deg then
    ctrLost p (postEvent 0x52 5 [BitVec.ofNat 64 (p.val + (if x16 then 2 else 1) * 2 ^ 4 + (if g6 then 1 else 0) * 2 ^ 6)] s1)
  else s1

/-- A host link completes training in its mode (R288). -/
def linkTrained (p : Port) (x16 g6 : Bool) (s : State) : State :=
  let h := s.hp p
  if h.link = .training ∧ linkAllowed h x16 g6 then
    linkUpAt p x16 g6 (s.setHp p { h with proto := decide (h.mode = 2), biEn := false })
  else s

/-- A host link leaves Recovery (R289); `flits` is how many FLITs its link layer has replayed (R287, R320). -/
def linkRecovered (p : Port) (x16 g6 : Bool) (flits : W64) (s : State) : State :=
  let h := s.hp p
  if h.link = .recovery then
    let s1 := s.setHp p { h with replay := h.replay + flits }
    if linkAllowed h x16 g6 then linkUpAt p x16 g6 s1 else portDown p s1
  else s

/-- A link whose width or rate the port no longer allows is not used (R288): the port goes down (log 91). -/
def linkKept (p : Port) (s : State) : State :=
  let h := s.hp p
  if h.linkUp && !linkAllowed h (decide (h.width = 2)) h.rate then portDown p s else s

/-- A snoop was not answered within TMO (R120). -/
def snoopTmo (p : Port) (etag : BitVec 12) (s : State) : State :=
  match (s.hp p).snps.find? (fun n => decide (n.etag = etag)) with
  | none => s
  | some n =>
    let s1 := recLine 1 n.line 0 p.val (evSnoopLate n.line p true s)
    let s2 := if n.excl then poisonLine n.slice n.line 1 s1 else s1
    portDown p (snoopEnds p n true none opcSnpRsp s2)

/-- The answer to a snoop (R118, R120). `gone`: RspI. -/
def snoopAnswer (p : Port) (etag : BitVec 12) (gone : Bool) (data : Option (Line × Bool)) (opc : BitVec 6) (s : State) : State :=
  match (s.hp p).snps.find? (fun n => decide (n.etag = etag)) with
  | none => hostErr p 2 opc none s
  | some n =>
    let s1 := if 4 * (s.hp p).limit < (s.gen.time - n.sent).toNat then evSnoopLate n.line p false s else s
    snoopEnds p n gone data opc s1

/-- A commit of an HDM decoder (R22): every address of the range must be homed in the device's own domain. -/
def hdmCommit (p : Port) (d : Fin 4) (base size : W64) (s : State) : State :=
  let h := s.hp p
  let last : Nat := base.toNat + size.toNat - 1
  let ok := decide (size = 0) ||
    (decide (last < 2 ^ 58) && decide (domOf (homeOf (base.setWidth 58)) = domOf s.node.node) &&
      decide (base.toNat / 2 ^ 44 = last / 2 ^ 44))
  let s1 := s.setHp p { h with hdm := h.hdm.set d.val ⟨base, size, true, ok, !ok⟩ d.isLt }
  if ok then s1 else postEvent 0x43 4 [base, BitVec.ofNat 64 p.val] s1

end Sys2Proof.Machine
end

