-- ==== Sys2Proof/Machine/Bervex.lean ====
section
/-! DEFINITION. The Bervex messages (R129) as commands, for the home, the holder and the requester, and the timers of their
transactions and buffers. A message with a reserved opcode is discarded, counted and posted (R129); one from a node that is
dead or cut has been discarded by the fabric (R314); a device that has stopped, or has found itself declared dead, takes none
(R182, R521). -/

namespace Sys2Proof.Machine

/-! ### Taking a message -/

/-- A message for a region sent under an older generation has not been answered (R187). -/
def relocOpen (s : State) (e : RTab) : Bool :=
  let old (l : LAddr) (g : BitVec 8) : Bool := entryOf (memOf (lineHome l)) (regionOf l) e && !isFar s l && newerGen g e.gen
  s.home.moving.any (entryOf e.orig e.region) ||
    s.slices.toList.any (fun x => x.stt.any (fun t => old t.line t.gen) || x.cw.any (fun c => old c.line c.gen))

/-- Acknowledge every relocation whose older messages have all been answered (R187). -/
def ackRelocs (s : State) : State :=
  s.each s.home.unacked (fun s e =>
    if relocOpen s e then s
    else sendVc5 (nodeOf (domOf s.node.node) e.home) (.relocAck e.orig e.region e.gen)
      (s.modHome (fun h => { h with unacked := rmFirst (fun x => decide (x = e)) h.unacked })))

/-- What a unit does with a message, whose input buffer is free with that (R302). -/
def take (k : BKind) (m : BMsg) (f : State → State) (s0 : State) : State :=
  if homeMute s0 then s0
  else
    let s := gotPkt m.src (bkCode k).1.toNat (packetWords k m) s0
    if isLost s.node s.fabric m.src then discardTo m.src s
    else if m.rsv.isSome then evProto 1 m.src m.laddr s
    else downMoves (ackRelocs (f s))

/-! ### The home: requests -/

/-- RdS (R140). -/
def execRds (m : BMsg) (s : State) : Host.Outcome State Fault Refusal := onClock s (take .rdS m (onRequest .rdS m))
/-- RdX (R140). -/
def execRdx (m : BMsg) (s : State) : Host.Outcome State Fault Refusal := onClock s (take .rdX m (onRequest .rdX m))
/-- Upg (R140). -/
def execUpg (m : BMsg) (s : State) : Host.Outcome State Fault Refusal := onClock s (take .upg m (onRequest .upg m))
/-- RdU (R140). -/
def execRdu (m : BMsg) (s : State) : Host.Outcome State Fault Refusal := onClock s (take .rdU m (onRequest .rdU m))
/-- WrU (R140). -/
def execWru (m : BMsg) (s : State) : Host.Outcome State Fault Refusal := onClock s (take .wrU m (onRequest .wrU m))
/-- AmoF (R205). -/
def execAmof (m : BMsg) (s : State) : Host.Outcome State Fault Refusal := onClock s (take .amoF m (onRequest .amoF m))
/-- Pfq (R140). -/
def execPfq (m : BMsg) (s : State) : Host.Outcome State Fault Refusal := onClock s (take .pfq m (onRequest .pfq m))

/-! ### The home: Puts and answers -/

/-- PutM (R141, R159). -/
def execPutm (m : BMsg) (s : State) : Host.Outcome State Fault Refusal := onClock s (take .putM m (onPut .putM m))
/-- PutO (R141, R159). -/
def execPuto (m : BMsg) (s : State) : Host.Outcome State Fault Refusal := onClock s (take .putO m (onPut .putO m))
/-- PutE (R141, R159). -/
def execPute (m : BMsg) (s : State) : Host.Outcome State Fault Refusal := onClock s (take .putE m (onPut .putE m))
/-- PutS (R141, R159). -/
def execPuts (m : BMsg) (s : State) : Host.Outcome State Fault Refusal := onClock s (take .putS m (onPut .putS m))
/-- Ack (R133). -/
def execAck (m : BMsg) (s : State) : Host.Outcome State Fault Refusal := onClock s (take .ack m (onAck m))
/-- InvAck, of one holder or combined (R140, R157). -/
def execInvack (m : BMsg) (comb : Bool) (s : State) : Host.Outcome State Fault Refusal := onClock s (take .invAck m (onInvAck m comb))
/-- DataE or DataM answering a probe (R140). -/
def execProbeResponse (m : BMsg) (dirty : Bool) (s : State) : Host.Outcome State Fault Refusal :=
  onClock s (take (if dirty then .dataM else .dataE) m (onProbe m dirty))

/-! ### The requester -/

/-- A response has its pass in the slice it names (R265). -/
def rspPass (m : BMsg) (f : State → State) (s : State) : State := f (arbPass (sliceOfUnit m.dstu m.laddr) .rsp 0 s)

/-- DataS (R136). -/
def execDatas (m : BMsg) (s : State) : Host.Outcome State Fault Refusal := onClock s (take .dataS m (rspPass m (onData .dataS m)))
/-- DataE (R136). -/
def execDatae (m : BMsg) (s : State) : Host.Outcome State Fault Refusal := onClock s (take .dataE m (rspPass m (onData .dataE m)))
/-- DataM (R136). -/
def execDatam (m : BMsg) (s : State) : Host.Outcome State Fault Refusal := onClock s (take .dataM m (rspPass m (onData .dataM m)))
/-- Cmp (R136). -/
def execCmp (m : BMsg) (s : State) : Host.Outcome State Fault Refusal := onClock s (take .cmp m (rspPass m (onCmp m)))
/-- Nack (R165). -/
def execNack (m : BMsg) (s : State) : Host.Outcome State Fault Refusal := onClock s (take .nack m (rspPass m (onNack m)))
/-- WbAck (R83, R161). -/
def execWback (m : BMsg) (s : State) : Host.Outcome State Fault Refusal := onClock s (take .wbAck m (rspPass m (onWback m)))

/-- The retry gap of a refused request ends (R165). -/
def retryGap (i : SliceNo) (rtid : BitVec 12) (s : State) : State :=
  if homeMute s then s
  else match (s.sl i).stt.find? (fun t => decide (t.rtid = rtid) && t.gap) with
    | some t => downMoves (resend i t s)
    | none => s
/-- The retry gap after a Nack expires (R165). -/
def execNackRetry (i : SliceNo) (rtid : BitVec 12) (s : State) : Host.Outcome State Fault Refusal := onClock s (retryGap i rtid)

/-! ### The holder -/

/-- A forward, probe or Inv reaches the slice it names, and has its pass (R265). -/
def held (k : BKind) (m : BMsg) (s : State) : State :=
  let i := sliceOfUnit m.dstu m.laddr
  settle i (holder i k m (arbPass i .fwd 0 s))
/-- FwdS (R137). -/
def execFwds (m : BMsg) (s : State) : Host.Outcome State Fault Refusal := onClock s (take .fwdS m (held .fwdS m))
/-- FwdX (R137). -/
def execFwdx (m : BMsg) (s : State) : Host.Outcome State Fault Refusal := onClock s (take .fwdX m (held .fwdX m))
/-- Inv (R137). -/
def execInv (m : BMsg) (s : State) : Host.Outcome State Fault Refusal := onClock s (take .inv m (held .inv m))
/-- BInv (R137, R157). -/
def execBinv (m : BMsg) (s : State) : Host.Outcome State Fault Refusal := onClock s (take .bInv m (held .bInv m))
/-- Probe (R137). -/
def execProbe (m : BMsg) (s : State) : Host.Outcome State Fault Refusal := onClock s (take .probe m (held .probe m))

/-! ### Timers -/

/-- A claim's window WIN expires (R168). -/
def execClaimWindowExpiry (num : BitVec 12) (s : State) : Host.Outcome State Fault Refusal := onClock s (claimLapse num.toNat)
/-- 10 µs without a Put from the owner (R162). -/
def execOwnerPutTimeout (num : BitVec 12) (s : State) : Host.Outcome State Fault Refusal := onClock s (putTimeout num.toNat)
/-- 10 µs after th without an Ack (R176). -/
def execForwardedAckTimeout (num : BitVec 12) (s : State) : Host.Outcome State Fault Refusal := onClock s (ackTimeout num.toNat)
/-- A write-merge entry has been open for HOLD (R74). -/
def execWmbHoldExpiry (i : SliceNo) (id : Nat) (s : State) : Host.Outcome State Fault Refusal :=
  onClock s (fun s => issueAll i (s.modSl i (fun x => { x with wmb := closeIf (fun e => decide (e.id = id)) x.wmb })))
/-- A combining entry has been open for HOLD (R78). -/
def execNtcHoldExpiry (p : Port) (id : Nat) (s : State) : Host.Outcome State Fault Refusal :=
  onClock s (fun s => issueEvery (s.modHp p (fun h => { h with ntc := closeIf (fun e => decide (e.id = id)) h.ntc })))

/-- A prefetch window closes: the limit of Pfq in flight halves, down to 1, or doubles, up to MAXOUT (R91). -/
def Slice.closeWindow (x : Slice) : Slice :=
  if x.pfUseful + x.pfWasted < 1024 then x
  else { x with pfUseful := 0, pfWasted := 0
                pfLimit := if x.wasteThr < x.pfWasted then max 1 (x.pfLimit / 2) else min (2 * x.pfLimit) x.maxOut }
/-- The window of 1,024 outcomes of a slice is complete (R91). -/
def execPrefetchWindowClose (i : SliceNo) (s : State) : Host.Outcome State Fault Refusal :=
  onClock s (fun s => s.modSl i Slice.closeWindow)

end Sys2Proof.Machine
end

