-- ==== Sys2Proof/Machine/Mailbox.lean ====
section
/-! DEFINITION. The mailboxes: parameter areas, take, acknowledge, notices (R380 to R393). -/

namespace Sys2Proof.Machine

/-! ### Parameter areas (R383, R394) -/

/-- A little-endian parameter of area k. -/
def Mbx.par (m : Mbx) (k : Port) (off n : Nat) : Nat :=
  (List.range n).foldr (fun i a => (spGet (0 : Byte) m.param (512 * k.val + off + i)).toNat + 256 * a) 0
/-- Write a little-endian parameter of area k. -/
def Mbx.setPar (m : Mbx) (k : Port) (off n v : Nat) : Mbx :=
  { m with param := (List.range n).foldl (fun q i => spSet 0 (512 * k.val + off + i) (BitVec.ofNat 8 (v / 2 ^ (8 * i))) q) m.param }
/-- Write an output field. -/
def outPar (p k : Port) (off n v : Nat) (s : State) : State := s.modMb p (fun m => m.setPar k off n v)

/-! ### Take and acknowledge (R385, R387) -/

/-- Mailbox k of port p is busy: posted or running (R386). -/
def Mail.busy (x : Mail) : Bool := x.full || x.running.isSome
/-- The firmware takes commands and messages. -/
def fwUp (s : State) : Bool := s.fwUp
/-- What the firmware does when it is up; it is in RUN then (R381). -/
def fwDo (f : State → State) (s : State) : State := if fwUp s then f { s with fw := { s.fw with st := .run } } else s

/-- The final acknowledge of a command that has been taken: the acknowledge is written, then CMD_DONE is posted (R385). -/
def finish (p k : Port) (rc : Byte) (val : BitVec 16) (s : State) : State :=
  match ((s.mb p).at k).running with
  | none => s
  | some w =>
    let a : W32 := fld w 16 8 ++ rc ++ val
    postCmd p 0x01 [a ++ BitVec.ofNat 32 k.val] (s.modMb p (fun m => m.modAt k (fun x => { x with inAck := a, running := none })))

/-- The final acknowledge of an operation of port p whose command may have had FAULT at a restart (R382). -/
def finishAs (p : Port) (k : Option Port) (rc : Byte) (val : BitVec 16) (s : State) : State :=
  match k with
  | some k => finish p k rc val s
  | none => s

/-- The word the firmware takes next from mailbox k of port p: the oldest posted one (R385). -/
def nextWord (s : State) (p k : Port) : Option W32 :=
  let x := (s.mb p).at k
  if fwUp s && x.full && ports.all (fun q => ports.all (fun j => !((s.mb q).at j).full || decide (x.order ≤ ((s.mb q).at j).order)))
  then some x.inW else none

/-- The take: IN_FULL clears and the interim acknowledge can be read (R385). -/
def taken (p k : Port) (s : State) : State :=
  { s with fw := { s.fw with st := .run } }.modMb p (fun m => m.modAt k (fun x =>
    { x with full := false, running := some x.inW, inAck := fld x.inW 16 8 ++ (0x06 : Byte) ++ (0 : BitVec 16) }))

/-- The opcodes of R392. -/
def opcodes : List Byte := [0x01, 0x10, 0x11, 0x20, 0x21, 0x22, 0x30, 0x31, 0x40, 0x41, 0x50, 0x51, 0x60, 0x70, 0x71, 0x80, 0xF0]

/-- A command is taken from mailbox k of port p when the word there is of its opcode and form; an unknown opcode is answered
BADARG (R392). -/
def command (p k : Port) (opc : Byte) (form : BitVec 16 → Bool) (f : BitVec 16 → State → State) (s : State) : State :=
  match nextWord s p k with
  | none => s
  | some w =>
    let o : Byte := fld w 24 8
    if o = opc ∧ form (fld w 0 16) then f (fld w 0 16) (taken p k s)
    else if !opcodes.contains o then finish p k rcBADARG 0 (taken p k s)
    else s

/-- A walk command runs (R393). -/
def walkBusy (s : State) : Bool := s.fw.walk.isSome

/-! ### Notices (R389) -/

/-- The host acknowledges a notice, which wakes the firmware whatever the word (R381): the posted sequence clears OUT_FULL, and the next notice of the backlog is posted. Later than
50 µs, the event MBX_LATE is posted (R389). -/
def outAck (p k : Port) (w : RWr) (late : Bool) (s : State) : State :=
  let x := (s.mb p).at k
  let v := mergeBe x.outAck w.val w.be
  if !x.outFull ∨ fld v 24 8 ≠ fld x.outW 16 8 then fwDo id s
  else
    let drop := (s.mb p).dropped
    let s1 := s.modMb p (fun m => m.modAt k (fun x => { x with outFull := false, outAck := v }))
    let s2 := if late then postCmd p 0x03 [x.outW ++ BitVec.ofNat 16 drop ++ BitVec.ofNat 16 k.val] (s1.modMb p (fun m => { m with dropped := 0 })) else s1
    msixCheck p (fwDo (postBacklog p) s2)

end Sys2Proof.Machine
end

