-- ==== Sys2Proof/Machine/Walks.lean ====
section
/-! DEFINITION. The walks of the slices and the commands that start them: range commands, CLEAN_ALL, way locks and lock-fills,
way groups, way disable, purge (R50 to R60, R93 to R97, R156, R175, R392 to R394). -/

namespace Sys2Proof.Machine

/-! ### Walks in general -/

/-- The places a walk still has to clear, wherever it stands (R55, R57, R71, R96, R175, R233). A range command visits each line once (R95). -/
def walkPlaces (s : State) (i : SliceNo) (k : WalkKind) : List (Nat × Nat) :=
  let x := s.sl i
  let left (p : TagWord → Bool) : List (Nat × Nat) := x.occupied.filter (fun c => inWalk s i k c && p (x.word c.1 c.2))
  match k with
  | .flush | .inval | .clean => []
  | .powerDown _ | .disable _ _ _ | .stampClean | .purge _ => left (fun _ => true)
  | .policy _ _ => left (fun t => !decide (t.st = .S) && !decide (t.st = .F))
  | .drain => left (fun t => decide (t.st = .M) || decide (t.st = .O) || (exclHost t).isSome)

/-- The walk of a kind has visited every place. -/
def visitedAll (s : State) (i : SliceNo) (k : WalkKind) : Bool :=
  (s.sl i).walks.any (fun j => decide (j.kind = k) && (nextPlace s i j).isNone)

/-- Carry on the walk of a kind; one that has visited every place begins again where it has some left. The Reedbed lines of a policy walk are
given up as the Causeway has room: those in E (R71). -/
def walkCarry (i : SliceNo) (k : WalkKind) (s0 : State) : State :=
  let s := match k with
    | .policy m r => s0.each ((s0.sl i).rb.filter (fun e => decide (e.st = .E) && inRegion m r e.line)) (fun s e =>
        if (s.sl i).rbMayGo e && !s.arb.walkHold then giveUpRb i e s else s)
    | _ => s0
  if visitedAll s i k && !(walkPlaces s i k).isEmpty then
    pumpWalks i (s.modSl i (fun x => { x with walks := x.walks.map (fun j => if j.kind = k then { j with pos := 0 } else j) }))
  else pumpWalks i s

/-- The walk of a kind has nothing left, in the Reedbed neither (R71); a walk that is held has not completed (R272). -/
def walkDone (s : State) (i : SliceNo) (k : WalkKind) : Bool :=
  !s.arb.walkHold && visitedAll s i k && (walkPlaces s i k).isEmpty &&
    (match k with
     | .policy m r => !(s.sl i).rb.any (fun e => (e.awaited || decide (e.st = .E) || decide (e.st = .M)) && inRegion m r e.line)
     | _ => true)

/-- Remove the walk of a kind. -/
def endWalk (k : WalkKind) (i : SliceNo) (s : State) : State :=
  s.modSl i (fun x => { x with walks := x.walks.filter (fun j => decide (j.kind ≠ k)) })

/-- Write the set word of every PLRU-dirty shadow entry to slot TS (R36). -/
def Slice.flushPlru (x : Slice) : Slice :=
  x.shadow.foldl (fun x c => c.2.ents.toList.foldl (fun x e =>
    if e.valid && !e.bad && e.dirty then x.writePlru (e.idx.toNat * 4096 + c.1) e.block.plru else x)
    { x with shadow := spMod {} c.1 (fun q => { q with ents := q.ents.map (fun e => { e with dirty := false }) }) x.shadow }) x

/-! ### Way disable and slice drain (R57, R96) -/

/-- The disable clean of a way in an HBM region is done (R57 steps 3 and 4). -/
def disableDone (i : SliceNo) (region w : Nat) (s : State) : State :=
  match (s.sl i).walks.find? (fun j => match j.kind with
      | .disable r v _ => decide (r = region) && decide (v = w)
      | _ => false) with
  | none => s
  | some j =>
    let s1 := walkCarry i j.kind s
    if walkDone s1 i j.kind then
      match j.kind with
      | .disable _ _ cnt =>
        recWay 1 i region w cnt (postEvent 0x30 3 [wayW0 i region w cnt]
          ((endWalk j.kind i s1).modSl i (fun x => { x with wdis := spSet 0 region (setBit (x.disMap region) w true) x.wdis })))
      | _ => s1
    else s1

/-- The drain of a slice may end: STATE reads DISABLED (R96 step 4). -/
def drainDone (i : SliceNo) (s : State) : State :=
  if (s.sl i).draining then
    let s1 := walkCarry i .drain (issueAll i (rbFree (fun _ => true) i s))
    let x := s1.sl i
    if walkDone s1 i .drain && x.wmb.isEmpty && x.cw.isEmpty && x.rb.isEmpty && decide (x.dirty = 0) then
      (endWalk .drain i s1).modSl i (fun x => { x with draining := false, disabled := true })
    else s1
  else s

/-! ### The walk command in progress (R393, R394) -/

/-- The walk command ends with its final acknowledge (R385, R393). -/
def endCmd (rc : Byte) (val : BitVec 16) (s : State) : State :=
  match s.fw.walk with
  | none => s
  | some c =>
    let s1 := { s with fw := { s.fw with walk := none } }
    match c.pk with
    | some x => finish x.1 x.2 rc val s1
    | none => s1

/-- Write an output of the walk command in progress. -/
def cmdOut (c : WalkCmd) (off n v : Nat) (s : State) : State :=
  match c.pk with
  | some x => outPar x.1 x.2 off n v s
  | none => s

/-- A new walk command of mailbox k of port p. -/
def newCmd (p k : Port) (opc : Byte) (first last : Nat) (s : State) : WalkCmd :=
  { pk := some (p, k), opc := opc, written := 0, discarded := 0, filled := 0, refused := 0, first := first, last := last, start := s.seqNo }

/-- START and the end of the range of parameter area k; `none`: out of range (R394). -/
def rangeOf (s : State) (p k : Port) : Option (Nat × Nat) :=
  let a := (s.mb p).par k 0 8
  let n := (s.mb p).par k 8 8
  if a % 64 = 0 ∧ a < 2 ^ 58 ∧ n ≠ 0 ∧ n % 64 = 0 ∧ a + n ≤ 2 ^ 58 then some (a, a + n) else none

/-- A range command or CLEAN_ALL begins in every slice (R93): entries close, Reedbed entries are freed, the walks run. -/
def rangeStart (c : WalkCmd) (k : WalkKind) (s : State) : State :=
  let inR (e : BufEnt) : Bool := c.covers e.line
  let s1 := issueEvery (closeEntries inR inR { s with fw := { s.fw with walk := some c } })
  s1.each sliceNos (fun s i =>
    let s1 := if k = .clean then s.modSl i Slice.flushPlru else rbFree c.covers i s
    startWalk i k s1)

/-- FLUSH_RANGE, INVAL_RANGE or CLEAN_ALL at its take: BADARG, then BUSY, then the walk (R392 to R394). -/
def rangeCmd (p k : Port) (opc : Byte) (kind : WalkKind) (arg : BitVec 16) (s : State) : State :=
  let r : Option (Nat × Nat) := if opc = 0x22 then some (0, 2 ^ 58) else rangeOf s p k
  match r with
  | none => finish p k rcBADARG 0 s
  | some r =>
    if arg ≠ 0 then finish p k rcBADARG 0 s
    else if walkBusy s then finish p k rcBUSY 0 s
    else rangeStart (newCmd p k opc r.1 r.2 s) kind s

/-- The walk of a range command ends: it is not held (R272), and every line has been visited, no entry, Causeway line or Put with RETAIN of its scope is
left (R93, R94). -/
def rangeDone (c : WalkCmd) (k : WalkKind) (s : State) : Bool :=
  let old (e : BufEnt) : Bool := c.covers e.line && decide (e.id < c.start)
  !s.arb.walkHold && sliceNos.all (fun i => !(s.sl i).walks.any (fun j => decide (j.kind = k)) || visitedAll s i k) && s.slices.toList.all (fun x =>
    !x.snpGrps.any (fun g => c.covers g.line && (match g.act with | .evict _ _ _ d => d | .clean _ _ d => d | _ => false)) &&
    !x.wmb.any old && !x.cw.any (fun e => c.covers e.line) &&
    !x.stt.any (fun t => decide (t.st = .retain) && c.covers t.line) &&
    (decide (k = .clean) || !x.rb.any (fun e => c.covers e.line))) &&
  ports.all (fun p => !(s.hp p).ntc.any old)

/-- INVAL_RANGE at the home lifts a quarantine: the word becomes U with OSN 0, POISON kept (R156). -/
def liftRange (c : WalkCmd) (s : State) : State :=
  s.each ((s.mem.ddr.map (·.1) ++ s.mem.wq.map (·.1)).dedup) (fun s f =>
    let l := lineOfFrame s f
    if c.covers l && wordQU s l && decide ((homeNow s l).1 = s.node.node) then
      let p := bit (ddrGet s f).word 29
      dirStore l { st := .U, poison := p } s
    else s)

/-! ### Locks (R50 to R53, R250) -/

/-- A value of LOCK that is refused for a slice: more than twelve ways, a way of a group that is down, an HBM region left with no
fill-eligible way, or a stamp way of a member device (R50, R250). -/
def lockBad (s : State) (x : Slice) (m : BitVec 15) : Bool :=
  decide (12 < popCount m) || (List.range 15).any (fun w => bit m w && x.groupDown w) ||
    (List.range 64).any (fun r => (List.range 15).all (fun w => bit m w || x.wayDis r w || x.groupDown w)) ||
    (s.stamp.member && decide (m &&& s.stamp.mask ≠ 0))

/-- Write LOCK of a slice. -/
def Slice.setLock (x : Slice) (m : BitVec 15) : Slice := { x with wayLock := .mk1 (m.setWidth 32) }

/-- WAYLOCK with LOAD 0 (R50): checked in every slice, written at the take. -/
def waylockCmd (p k : Port) (arg : BitVec 16) (s : State) : State :=
  let m := fld arg 0 15
  if s.slices.toList.any (fun x => lockBad s x m) then finish p k rcBADARG 0 s
  else finish p k rcOK 0 (s.each sliceNos (fun s i => s.modSl i (fun x => x.setLock m)))

/-- WAYLOCK with LOAD 1 (R50, R52): the locks, then a lock-fill of the range. -/
def waylockLoadCmd (p k : Port) (arg : BitVec 16) (s : State) : State :=
  let m := fld arg 0 15
  match rangeOf s p k with
  | none => finish p k rcBADARG 0 s
  | some r =>
    if s.slices.toList.any (fun x => lockBad s x m) then finish p k rcBADARG 0 s
    else if walkBusy s then finish p k rcBUSY 0 s
    else
      let lines := (List.range ((r.2 - r.1) / 64)).map (fun n => BitVec.ofNat 52 (r.1 / 64 + n))
      let s1 := s.each sliceNos (fun s i => s.modSl i (fun x => x.setLock m))
      lockPump { s1 with fw := { s1.fw with walk := some { newCmd p k 0x30 r.1 r.2 s with todo := lines } } }

/-- The running range command, CLEAN_ALL or lock-fill ends in every slice: its outputs, then its acknowledge (R94, R394). -/
def rangeWalkDone (s : State) : State :=
  match s.fw.walk with
  | none => s
  | some c =>
    let outs (s : State) (a b : Nat) : State := cmdOut c 0x18 8 b (cmdOut c 0x10 8 a s)
    if c.opc = 0x30 then
      let s1 := lockPump s
      match s1.fw.walk with
      | none => s1
      | some d =>
        if d.todo.isEmpty && !s1.arb.walkHold && !s1.slices.toList.any (fun x => x.stt.any (fun t => t.lockFill)) then
          endCmd rcOK 0 (outs s1 d.filled (d.refused + d.asked.length))
        else s1
    else
      let go (k : WalkKind) : State :=
        let s1 := s.each sliceNos (fun s i => walkCarry i k (issueAll i (if k = .clean then s else rbFree c.covers i s)))
        if rangeDone c k s1 then
          match s1.fw.walk with
          | none => s1
          | some d =>
            let s2 := s1.each sliceNos (fun s i => endWalk k i s)
            if k = .inval then endCmd rcOK 0 (outs (liftRange d s2) d.written d.discarded)
            else endCmd rcOK 0 (cmdOut c 0x10 8 d.written s2)
        else s1
      if c.opc = 0x20 then go .flush
      else if c.opc = 0x21 then go .inval
      else if c.opc = 0x22 then go .clean
      else s

/-! ### Way groups (R54 to R56, R250) -/

/-- WAYGROUP_POWER down is refused: a way of the group is locked in a slice, or is a stamp way of a member device. -/
def groupDenied (s : State) (g : Nat) : Bool :=
  (List.range 15).any (fun w => decide (wayGroup w = g) &&
    (s.slices.toList.any (fun x => bit x.lock w) || (s.stamp.member && bit s.stamp.mask w)))

/-- The group is powered down in every slice (R55 step 5). -/
def groupIsOff (s : State) (g : Nat) : Bool := s.slices.toList.all (fun x => bit x.wgOff (g - 1))

/-- WAYGROUP_POWER at its take: BADARG; OK in the state asked for; DENIED; BUSY; else the group goes down or up (R54 to R56, R392,
R393). -/
def groupCmd (p k : Port) (up : Bool) (arg : BitVec 16) (s : State) : State :=
  let g := (fld arg 0 2).toNat
  if g = 0 ∨ fld arg 2 6 ≠ 0 ∨ fld arg 9 7 ≠ 0 then finish p k rcBADARG 0 s
  else if groupIsOff s g = !up ∧ !(s.fw.walk.any (fun c => decide (c.opc = 0x31) && decide (c.first = g))) then finish p k rcOK 0 s
  else if !up && groupDenied s g then finish p k rcDENIED 0 s
  else if walkBusy s then finish p k rcBUSY 0 s
  else
    let s1 := { s with fw := { s.fw with walk := some (newCmd p k 0x31 g (if up then 1 else 0) s) } }
    if up then s1
    else s1.each sliceNos (fun s i =>
      let s2 := s.modSl i (fun x => { x with wgDown := setBit x.wgDown (g - 1) true })
      startWalk i (.powerDown g) s2)

/-- A slice has evicted the group and its Causeway holds no line of it: refresh stops there, WGOFF shows it and WG_BUSY clears (R55 steps 4
and 5). -/
def groupOffIn (n : Nat) (i : SliceNo) (s : State) : State :=
  let k : WalkKind := .powerDown n
  let s1 := walkCarry i k s
  if walkDone s1 i k && !(s1.sl i).cw.any (fun e => decide (e.grp = n)) then
    (endWalk k i s1).modSl i (fun x => { x with wgOff := setBit x.wgOff (n - 1) true, wgDown := setBit x.wgDown (n - 1) false })
  else s1

/-- The power-down of a group goes on in each slice; the command is acknowledged when every slice has reported (R55 step 5). -/
def powerDownDone (g : BitVec 2) (s : State) : State :=
  let n := g.toNat
  match s.fw.walk with
  | none => s
  | some c =>
    if c.opc = 0x31 ∧ c.first = n ∧ c.last = 0 then
      let s1 := s.each sliceNos (fun s i => groupOffIn n i s)
      if groupIsOff s1 n then endCmd rcOK 0 s1 else s1
    else s

/-- A group powered up becomes fill-eligible (R56). -/
def powerUpDone (g : BitVec 2) (s : State) : State :=
  let n := g.toNat
  match s.fw.walk with
  | none => s
  | some c =>
    if c.opc = 0x31 ∧ c.first = n ∧ c.last = 1 then
      endCmd rcOK 0 (s.each sliceNos (fun s i => s.modSl i (fun x => { x with wgOff := setBit x.wgOff (n - 1) false })))
    else s

/-! ### Purge (R175, R178, R181) -/

/-- Report the steps done for a declared node to the live members (R181). -/
def reportSteps (n : NodeId) (s : State) : State :=
  let d : NodeSt := spGet {} s.fabric.live n.toNat
  s.each (livePeers s.node s.fabric) (fun s m => sendVc5 m (.steps n d.purge d.pass) s)

/-- Change the progress kept for a node. -/
def modLive (n : NodeId) (f : NodeSt → NodeSt) (s : State) : State :=
  { s with fabric := { s.fabric with live := spMod {} n.toNat f s.fabric.live } }

/-- The purge walk for a node has finished in every slice (R175). -/
def purgeDone (n : NodeId) (s : State) : State :=
  let k : WalkKind := .purge n
  let s1 := s.each sliceNos (fun s i => walkCarry i k s)
  if sliceNos.all (fun i => walkDone s1 i k) then
    reportSteps n (modLive n (fun d => { d with purge := true }) (s1.each sliceNos (fun s i => endWalk k i s)))
  else s1

/-! ### The commands -/

/-- WAY_DISABLE_DONE (R57). -/
def execWayDisableDone (i : SliceNo) (region : BitVec 6) (w : Way) (s : State) : Host.Outcome State Fault Refusal :=
  onClock s (disableDone i region.toNat w.val)
/-- WAYGROUP_POWERDOWN_DONE (R55). -/
def execWaygroupPowerdownDone (g : BitVec 2) (s : State) : Host.Outcome State Fault Refusal := onClock s (fwDo (powerDownDone g))
/-- WAYGROUP_POWERUP_DONE (R56). -/
def execWaygroupPowerupDone (g : BitVec 2) (s : State) : Host.Outcome State Fault Refusal := onClock s (fwDo (powerUpDone g))
/-- CACHE_DRAIN_DONE (R96). -/
def execCacheDrainDone (i : SliceNo) (s : State) : Host.Outcome State Fault Refusal := onClock s (drainDone i)
/-- RANGE_WALK_DONE (R94). -/
def execRangeWalkDone (s : State) : Host.Outcome State Fault Refusal := onClock s (fwDo rangeWalkDone)
/-- PURGE_WALK_DONE (R175). -/
def execPurgeWalkDone (n : NodeId) (s : State) : Host.Outcome State Fault Refusal := onClock s (purgeDone n)
/-- FLUSH_RANGE (R93). -/
def execFlushRange (p k : Port) (s : State) : Host.Outcome State Fault Refusal :=
  onClock s (command p k 0x20 (fun _ => true) (rangeCmd p k 0x20 .flush))
/-- INVAL_RANGE (R93, R156). -/
def execInvalRange (p k : Port) (s : State) : Host.Outcome State Fault Refusal :=
  onClock s (command p k 0x21 (fun _ => true) (rangeCmd p k 0x21 .inval))
/-- CLEAN_ALL (R93). -/
def execCleanAll (p k : Port) (s : State) : Host.Outcome State Fault Refusal :=
  onClock s (command p k 0x22 (fun _ => true) (rangeCmd p k 0x22 .clean))
/-- WAYLOCK with LOAD 0 (R50). -/
def execWaylock (p k : Port) (s : State) : Host.Outcome State Fault Refusal :=
  onClock s (command p k 0x30 (fun a => !bit a 15) (waylockCmd p k))
/-- WAYLOCK with LOAD 1 (R52). -/
def execWaylockLoad (p k : Port) (s : State) : Host.Outcome State Fault Refusal :=
  onClock s (command p k 0x30 (fun a => bit a 15) (waylockLoadCmd p k))
/-- WAYGROUP_POWER down (R55). -/
def execWaygroupPowerDown (p k : Port) (s : State) : Host.Outcome State Fault Refusal :=
  onClock s (command p k 0x31 (fun a => !bit a 8) (groupCmd p k false))
/-- WAYGROUP_POWER up (R56). -/
def execWaygroupPowerUp (p k : Port) (s : State) : Host.Outcome State Fault Refusal :=
  onClock s (command p k 0x31 (fun a => bit a 8) (groupCmd p k true))

end Sys2Proof.Machine
end

