-- ==== Sys2Proof/Machine/Domain.lean ====
section
/-! DEFINITION. The firmware's operations over the domain: region policy, contracts, stamp groups' membership, home relocation
(R71, R183 to R190, R232, R233, R250, R254, R255, R524). -/

namespace Sys2Proof.Machine

/-- Change the firmware's state. -/
def modFw (f : Fw → Fw) (s : State) : State := { s with fw := f s.fw }
/-- A member number of a parameter names a node of this domain within the torus. -/
def memberOk (s : State) (n : Nat) : Bool := decide (n < 4096) && inTorus s.node (nodeOf (domOf s.node.node) (BitVec.ofNat 12 n))
/-- A member of this domain as a node. -/
def memNode (s : State) (m : Member) : NodeId := nodeOf (domOf s.node.node) m
/-- This device's member number. -/
def self (s : State) : Member := memOf s.node.node

/-! ### Region policy (R71) -/

/-- Set the policy bit of a region in the map, the firmware's copy and the record of changes (R67, R68, R455). -/
def setPolicy (m : Member) (r : BitVec 10) (wt : Bool) (s : State) : State :=
  let i := policyIdx m r
  let put (x : Sparse Unit) : Sparse Unit := if wt then spIns i () x else spDel i x
  let n := s.node
  { s with node := { n with wtMap := put n.wtMap, wtCopy := put n.wtCopy
                            changes := n.changes.filter (fun c => !(decide (c.1 = m) && decide (c.2.1 = r))) ++ [(m, r, wt)] } }

/-- A member applies a policy change and begins its own steps (R71 steps 1 and 2). -/
def applyPolicy (m : Member) (r : BitVec 10) (wt : Bool) (src : NodeId) (s : State) : State :=
  let k : WalkKind := .policy m r
  let mine (w : PolWalk) : Bool := decide (w.member = m) && decide (w.region = r)
  let s1 := modFw (fun f => { f with polWalks := f.polWalks.filter (fun w => !mine w) ++ [⟨m, r, src⟩] }) (setPolicy m r wt s)
  let s2 := s1.each sliceNos (fun s i => endWalk k i s)
  if wt then s2.each sliceNos (fun s i => startWalk i k s)
  else issueEvery (closeEntries (fun e => inRegion m r e.line) (fun _ => false) s2)

/-- A member's acknowledge reaches the region's home; with the last, REGION_SET returns OK with their number (R71, R392). -/
def policyAcked (n : NodeId) (s : State) : State :=
  match s.fw.policy with
  | none => s
  | some op =>
    if op.await.contains n then
      let op1 := { op with await := op.await.filter (fun x => decide (x ≠ n)), acks := op.acks + 1 }
      if op1.await.isEmpty then endCmd rcOK (BitVec.ofNat 16 op1.acks) (modFw (fun f => { f with policy := none }) s)
      else modFw (fun f => { f with policy := some op1 }) s
    else s

/-- A member that is declared dead is skipped (R71). -/
def policySkip (n : NodeId) (s : State) : State :=
  match s.fw.policy with
  | none => s
  | some op =>
    let op1 := { op with await := op.await.filter (fun x => decide (x ≠ n)) }
    if op1.await.isEmpty then endCmd rcOK (BitVec.ofNat 16 op1.acks) (modFw (fun f => { f with policy := none }) s)
    else modFw (fun f => { f with policy := some op1 }) s

/-- A member has not acknowledged within 200 ms (R71): TIMEOUT, with the number that have not (R392). -/
def policyTimeout (s : State) : State :=
  match s.fw.policy with
  | none => s
  | some op => endCmd rcTIMEOUT (BitVec.ofNat 16 op.await.length) (modFw (fun f => { f with policy := none }) s)

/-- A member's own steps of a policy change are done: it acknowledges (R71 step 4). -/
def policyDone (m : Member) (r : BitVec 10) (s : State) : State :=
  match s.fw.polWalks.find? (fun w => decide (w.member = m) && decide (w.region = r)) with
  | none => s
  | some w =>
    let k : WalkKind := .policy m r
    let s1 := s.each sliceNos (fun s i => walkCarry i k (issueAll i s))
    let wt := s1.node.wtMap.any (fun c => decide (c.1 = policyIdx m r))
    let done := if wt then sliceNos.all (fun i => walkDone s1 i k)
      else s1.slices.toList.all (fun x => !x.wmb.any (fun e => inRegion m r e.line && decide (e.st ≠ .opened)))
    if done then
      let s2 := modFw (fun f => { f with polWalks := f.polWalks.filter (fun x => decide (x ≠ w)) })
        (s1.each sliceNos (fun s i => endWalk k i s))
      if w.src = s.node.node then policyAcked s.node.node s2 else sendVc5 w.src .policyAck s2
    else s1

/-- REGION_SET at its take (R71, R392). -/
def regionSetCmd (p k : Port) (arg : BitVec 16) (s : State) : State :=
  let n := (s.mb p).par k 0 2
  let m : Member := BitVec.ofNat 12 n
  let r := fld arg 0 10
  let wt := bit arg 10
  if fld arg 11 5 ≠ 0 ∨ !memberOk s n then finish p k rcBADARG 0 s
  else if (homeNow s (regionLine s m r)).1 ≠ s.node.node then finish p k rcDENIED 0 s
  else if walkBusy s then finish p k rcBUSY 0 s
  else
    let peers := livePeers s.node s.fabric
    let s1 := modFw (fun f => { f with
      walk := some (newCmd p k 0x10 0 0 s), policy := some ⟨m, r, wt, s.node.node :: peers, 0⟩ }) s
    applyPolicy m r wt s.node.node (s1.each peers (fun s x => sendVc5 x (.policyChange m r wt) s))

/-- The relocation table entry of a region of this domain. -/
def rtabOf (s : State) (m : Member) (r : BitVec 10) : Option RTab :=
  s.home.rtab.find? (fun e => decide (e.orig = m) && decide (e.region = r))

/-- REGION_GET at its take (R392, R394). -/
def regionGetCmd (p k : Port) (arg : BitVec 16) (s : State) : State :=
  let n := (s.mb p).par k 0 2
  let m : Member := BitVec.ofNat 12 n
  let r := fld arg 0 10
  if fld arg 10 6 ≠ 0 ∨ !memberOk s n then finish p k rcBADARG 0 s
  else
    let e := (rtabOf s m r).getD ⟨m, r, 0, m, []⟩
    let wt := isWt s (regionLine s m r)
    finish p k rcOK (e.gen ++ (0 : BitVec 7) ++ (if wt then (1 : BitVec 1) else 0))
      (outPar p k 0x13 1 e.unack.length (outPar p k 0x12 1 e.gen.toNat (outPar p k 0x10 2 e.home.toNat s)))

/-! ### Contracts (R254, R255) -/

/-- Reserve a share at this home: refused while a channel is slow or the fill runs, without a free entry, or above 3,000 per µs
(R255, R337, R365). A share starts full (R258). -/
def shareGrant (n : NodeId) (p : Port) (missr : BitVec 11) (depth : Nat) (s : State) : Bool × State :=
  let others := s.home.shares.filter (fun x => !(decide (x.node = n) && decide (x.port = BitVec.ofNat 2 p.val)))
  let sum := others.foldl (fun a x => a + x.missr.toNat) missr.toNat
  if s.mem.slow || !s.mem.filled || decide (1024 ≤ others.length) || decide (3000 < sum) then (false, s)
  else (true, s.modHome (fun h => { h with shares := others ++ [⟨n, BitVec.ofNat 2 p.val, missr, depth, depth * 3200⟩] }))

/-- Free a share of this home. -/
def shareFree (n : NodeId) (p : Port) (s : State) : State :=
  s.modHome (fun h => { h with shares := h.shares.filter (fun x => !(decide (x.node = n) && decide (x.port = BitVec.ofNat 2 p.val))) })

/-- Free the share of port p at each of a list of homes. -/
def sharesDrop (p : Port) (homes : List NodeId) (s : State) : State :=
  s.each homes (fun s n => if n = s.node.node then shareFree n p s else sendVc5 n (.shareRelease p) s)

/-- Every reservation has been granted: the contract is held, its buckets full (R255, R257). A port that may no longer hold one is
DENIED. -/
def ctrGrant (op : CtrOp) (s : State) : State :=
  let h := s.hp op.port
  let full := op.want.burst.toNat * tokenUnit
  if h.stamped || h.degraded || !h.linkUp then finishAs op.port op.k rcDENIED 0 (sharesDrop op.port op.granted s)
  else
    finishAs op.port op.k rcOK 0
      (modFw (fun f => { f with ctrHomes := f.ctrHomes.filter (fun c => decide (c.1 ≠ op.port)) ++ [(op.port, op.granted)] })
        (s.setHp op.port { h with ctr := { op.want with valid := true, tok := full, stok := Vector.replicate 8 full, mtok := full } }))

/-- The reservations of a contract request are carried on: with none awaited it ends. -/
def ctrCheck (op : CtrOp) (s : State) : State :=
  let s1 := modFw (fun f => { f with ctrOps := f.ctrOps.filter (fun x => decide (x.port ≠ op.port)) }) s
  if !op.await.isEmpty then modFw (fun f => { f with ctrOps := f.ctrOps ++ [op] }) s1
  else if op.failed then finishAs op.port op.k rcNORES 0 (sharesDrop op.port op.granted s1)
  else ctrGrant op s1

/-- The contract that the parameters of area k ask for, and whether they are in range (R254, R394). -/
def ctrParams (s : State) (p k : Port) : Contract × Bool :=
  let g (o n : Nat) : Nat := (s.mb p).par k o n
  let rate := g 0 2
  let missr := g 2 2
  let out := g 4 2
  let burst := g 6 1
  let hops := g 7 1
  let unc := g 8 1
  ({ Contract.none with rate := BitVec.ofNat 11 rate, missr := BitVec.ofNat 11 missr, out := BitVec.ofNat 9 out, hops := BitVec.ofNat 6 hops,
                        burst := BitVec.ofNat 8 burst, unc := decide (unc = 1) },
   decide (1 ≤ rate) && decide (rate ≤ 1800) && decide (1 ≤ missr) && decide (missr ≤ rate) && decide (1 ≤ burst) &&
     decide (1 ≤ out) && decide (out ≤ 256) && decide (hops ≤ 45) && decide (unc ≤ 1))

/-- The contracts held and asked for in this device; one under release counts no more in the sums (DESIGN CHOICE, log 85). -/
def ctrsHeld (s : State) : List Contract :=
  (ports.filter (fun p => (s.hp p).ctr.valid)).map (fun p => (s.hp p).ctr) ++ s.fw.ctrOps.map (·.want)

/-- CONTRACT_REQ at its take: the checks in the order of R255. -/
def contractReqCmd (p k : Port) (arg : BitVec 16) (s : State) : State :=
  let h := s.hp p
  let w := ctrParams s p k
  let sum (f : Contract → Nat) : Nat := (ctrsHeld s).foldl (fun a c => a + f c) (f w.1)
  if arg ≠ 0 then finish p k rcBADARG 0 s
  else if h.stamped || h.degraded || h.ctr.valid || h.ctrRel || s.fw.ctrOps.any (fun o => decide (o.port = p)) then finish p k rcDENIED 0 s
  else if !w.2 then finish p k rcBADARG 0 s
  else if s.mem.slow || !s.mem.filled then finish p k rcNORES 0 s
  else if 12000 < sum (fun c => c.rate.toNat) ∨ 3000 < sum (fun c => c.missr.toNat) then finish p k rcNORES 0 s
  else
    let depth := w.1.burst.toNat + w.1.out.toNat
    let own := shareGrant s.node.node p w.1.missr depth s
    if !own.1 then finish p k rcNORES 0 s
    else
      let homes := (livePeers s.node s.fabric).filter (fun n => decide (hops s.node s.node.node n ≤ w.1.hops.toNat))
      let s1 := own.2.each homes (fun s n => sendVc5 n (.shareReserve p w.1.missr depth) s)
      ctrCheck ⟨p, some k, w.1, homes, [s.node.node], false⟩ s1

/-- A home's share answer (R255); one of a request that has ended gives its share back. -/
def shareAnswer (n : NodeId) (p : Port) (ok : Bool) (s : State) : State :=
  match s.fw.ctrOps.find? (fun o => decide (o.port = p) && o.await.contains n) with
  | none => if ok then sharesDrop p [n] s else s
  | some o =>
    ctrCheck { o with await := o.await.filter (fun x => decide (x ≠ n)), failed := o.failed || !ok
                      granted := if ok then o.granted ++ [n] else o.granted } s

/-- A home that is declared dead is awaited no more (R255: every live home). -/
def shareSkip (n : NodeId) (s : State) : State :=
  s.each s.fw.ctrOps (fun s o => if o.await.contains n then ctrCheck { o with await := o.await.filter (fun x => decide (x ≠ n)) } s else s)

/-- A home has not answered within 200 ms (R255). -/
def ctrTimeout (p : Port) (s : State) : State :=
  match s.fw.ctrOps.find? (fun o => decide (o.port = p)) with
  | none => s
  | some o => finishAs p o.k rcTIMEOUT 0 (sharesDrop p o.granted (modFw (fun f => { f with ctrOps := f.ctrOps.filter (fun x => decide (x.port ≠ p)) }) s))

/-- The last contracted request of a port has completed: the shares are freed and CONTRACT_REL returns OK (R255). -/
def relComplete (p : Port) (s : State) : State :=
  let h := s.hp p
  if h.ctrRel && decide (h.outst = 0) then
    let homes := (s.fw.ctrHomes.filter (fun c => decide (c.1 = p))).flatMap (·.2)
    let cmds := s.fw.relCmd.filter (fun c => decide (c.1 = p))
    let s1 := sharesDrop p homes (s.setHp p { h with ctr := .none, ctrRel := false })
    let s2 := modFw (fun f => { f with ctrHomes := f.ctrHomes.filter (fun c => decide (c.1 ≠ p)), relCmd := f.relCmd.filter (fun c => decide (c.1 ≠ p)) }) s1
    downMoves (s2.each cmds (fun s c => finish c.1 c.2 rcOK 0 s))
  else s

/-- CONTRACT_REL at its take (R255). -/
def contractRelCmd (p k : Port) (arg : BitVec 16) (s : State) : State :=
  let h := s.hp p
  if arg ≠ 0 then finish p k rcBADARG 0 s
  else if !h.ctr.valid then finish p k rcOK 0 s
  else
    relComplete p (modFw (fun f => { f with relCmd := f.relCmd ++ [(p, k)] })
      (s.setHp p { h with ctr := { h.ctr with valid := false }, ctrRel := true }))

/-! ### Stamp groups (R232, R233, R250, R524) -/

/-- The current horizon of a group for a device that joins it: what its members have answered on VC5, or 0 for a group with no member (R524). -/
def joinHzn (s : State) (g : BitVec 6) (told : W64) : W64 :=
  let l := spGet {} s.stamp.lists g.toNat
  if l.next.isEmpty && l.cur.isEmpty then 0 else told

/-- A change of a group's member list, to take effect in the next period (R233, R310); with its last member a group loses its
horizon (R524). -/
def listChange (g : BitVec 6) (n : NodeId) (join : Bool) (s : State) : State :=
  let l := spGet {} s.stamp.lists g.toNat
  let nx := if join then (if l.next.contains n then l.next else l.next ++ [n]) else l.next.filter (fun x => decide (x ≠ n))
  let st := s.stamp
  { s with stamp := { st with lists := spSet {} g.toNat { l with next := nx } st.lists
                              hzns := if nx.isEmpty then spDel g.toNat st.hzns else st.hzns } }

/-- Another device joins or leaves a group: a member device of the group gives one that joins its current horizon (R233, R524; log 107). -/
def memberChange (g : BitVec 6) (n : NodeId) (join : Bool) (s : State) : State :=
  let s1 := listChange g n join s
  if join && s.stamp.member && decide (s.stamp.group = g) && decide (n ≠ s.node.node) then sendVc5 n (.horizon g s.stamp.hzn) s1 else s1

/-- Tell the live members of a change of this device's membership (R233). -/
def tellMembers (g : BitVec 6) (join : Bool) (s : State) : State :=
  let s1 := listChange g s.node.node join s
  s1.each (livePeers s.node s.fabric) (fun s x => sendVc5 x (.memberUpdate g s.node.node join) s)

/-- A stamp way is locked, or an HBM region of a slice has no fill-eligible stamp way (R250). -/
def stampWaysBad (s : State) : Bool :=
  s.slices.toList.any (fun x => decide (x.lock &&& s.stamp.mask ≠ 0) ||
    (List.range 64).any (fun r => !(List.range 15).any (fun w => bit s.stamp.mask w && x.usable r w)))

/-- A port is turned away from a stamp group (R233, R250). -/
def joinDenied (s : State) (p : Port) : Bool :=
  let h := s.hp p
  h.cxl || h.ctr.valid || h.ctrRel || s.fw.ctrOps.any (fun o => decide (o.port = p)) || stampWaysBad s

/-- The port joins the group of a member device: its floor is the group's current horizon, which a member holds in STAMP_HZN (R233, R524). -/
def joinPort (p : Port) (k : Option Port) (s : State) : State :=
  finishAs p k rcOK 0 (s.modHp p (fun h => { h with stamped := true, floor := s.stamp.hzn, lastSt := [] }))

/-- A first join begins: every slice cleans the stamp ways (R233, R249). -/
def firstJoin (p : Port) (k : Option Port) (g : BitVec 6) (s : State) : State :=
  if walkBusy s then finishAs p k rcBUSY 0 s
  else
    let s1 := modFw (fun f => { f with walk := some { newCmd p 0 0x50 0 0 s with pk := k.map (fun k => (p, k)) }, joining := some p }) { s with stamp := { s.stamp with group := g } }
    s1.each sliceNos (fun s i => startWalk i .stampClean s)

/-- STAMP_JOIN at its take, and of a join that has waited for a first join (R233). While a first join runs the device counts as of the group it
joins: another group is BADARG (DESIGN CHOICE, log 83). -/
def joinGo (p : Port) (k : Option Port) (g : BitVec 6) (s : State) : State :=
  if joinDenied s p then finishAs p k rcDENIED 0 s
  else if (s.stamp.member || s.fw.joining.isSome) && decide (g ≠ s.stamp.group) then finishAs p k rcBADARG 0 s
  else if s.stamp.member then joinPort p k s
  else if s.fw.joining.isSome then modFw (fun f => { f with joinWait := f.joinWait ++ [(p, k, g)] }) s
  else firstJoin p k g s

/-- STAMP_JOIN at its take (R233). Where both DENIED and BADARG hold, DENIED comes first (DESIGN CHOICE, log 84). -/
def stampJoinCmd (p k : Port) (arg : BitVec 16) (s : State) : State :=
  if joinDenied s p then finish p k rcDENIED 0 s
  else if fld arg 6 10 ≠ 0 then finish p k rcBADARG 0 s
  else joinGo p (some k) (fld arg 0 6) s

/-- The joins that waited proceed (R233). -/
def joinWaiters (s : State) : State :=
  s.fw.joinWait.foldl (fun s c => joinGo c.1 c.2.1 c.2.2 s) (modFw (fun f => { f with joinWait := [] }) s)

/-- The stamp ways of every slice are clean: the device becomes a member and the first join returns OK (R233). A port that may no
longer join is DENIED. `told`: the current horizon as the group's members have given it on VC5 (R524, log 45). -/
def joinDone (p : Port) (told : W64) (s : State) : State :=
  match s.fw.joining with
  | none => s
  | some c =>
    if c ≠ p then s
    else
      let s1 := s.each sliceNos (fun s i => walkCarry i .stampClean s)
      if !sliceNos.all (fun i => walkDone s1 i .stampClean) then s1
      else
        let s2 := modFw (fun f => { f with joining := none }) (s1.each sliceNos (fun s i => endWalk .stampClean i s))
        if joinDenied s2 p || !(s2.hp p).linkUp then
          joinWaiters (endCmd rcDENIED 0 { s2 with stamp := { s2.stamp with group := 0 } })
        else
          let g := s2.stamp.group
          let h := joinHzn s2 g told
          let st := s2.stamp
          let s3 := tellMembers g true { s2 with stamp := { st with member := true, hzn := h, settle := 0, lost := false, stalled := false } }
          joinWaiters (endCmd rcOK 0 (s3.modHp p (fun x => { x with stamped := true, leaving := false, floor := h, lastSt := [] })))

/-- Every stamped access of a port has been applied (R233). -/
def portApplied (s : State) (p : Port) : Bool :=
  let mine (r : Req) : Bool := decide (r.port = p) && r.stamp.isSome
  !(s.hp p).queue.any mine && !(s.hp p).ntc.any (fun e => e.stamp.isSome) &&
    s.slices.toList.all (fun x => !x.reqs.any mine && !x.wmb.any (fun e => decide (e.port = p) && e.stamp.isSome) &&
      !x.stt.any (fun t => decide (t.port = p) && t.stamp.isSome))

/-- A leaving port has no stamped access left: it leaves stamp mode, and the last port ends the membership (R233, R524). -/
def leaveDone (p : Port) (s : State) : State :=
  if (s.hp p).leaving && portApplied s p then
    let s1 := s.modHp p (fun h => { h with stamped := false, leaving := false, floor := 0, lastSt := [] })
    let cmds := s1.fw.leaveCmd.filter (fun c => decide (c.1 = p))
    let s2 := modFw (fun f => { f with leaveCmd := f.leaveCmd.filter (fun c => decide (c.1 ≠ p)) }) s1
    let s3 := if ports.any (fun q => (s2.hp q).stamped) then s2
      else
        let t := tellMembers s2.stamp.group false s2
        let st := t.stamp
        { t with stamp := { st with member := false, group := 0, hzn := 0, settle := 0, lost := false, stalled := false } }
    downMoves (s3.each cmds (fun s c => finish c.1 c.2 rcOK 0 s))
  else s

/-- STAMP_LEAVE at its take (R233). -/
def stampLeaveCmd (p k : Port) (arg : BitVec 16) (s : State) : State :=
  if arg ≠ 0 then finish p k rcBADARG 0 s
  else if !(s.hp p).stamped then finish p k rcOK 0 s
  else leaveDone p (modFw (fun f => { f with leaveCmd := f.leaveCmd ++ [(p, k)] }) (s.modHp p (fun h => { h with leaving := true })))

/-! ### Home relocation (R183 to R188) -/

/-- The relocation is the region's. -/
def Reloc.of (x : Reloc) (m : Member) (r : BitVec 10) : Bool := decide (x.orig = m) && decide (x.region = r)

/-- The relocation of a region in progress here. -/
def relocHere (s : State) (m : Member) (r : BitVec 10) : Bool := s.home.relocs.any (fun x => x.of m r)

/-- The same relocation, whatever pages have been marked since. -/
def Reloc.same (x y : Reloc) : Bool := x.of y.orig y.region && decide (x.giving = y.giving)

/-- Remove a relocation in progress. -/
def dropReloc (x : Reloc) (s : State) : State := s.modHome (fun h => { h with relocs := rmFirst x.same h.relocs })

/-- Change a relocation in progress. -/
def modReloc (x : Reloc) (f : Reloc → Reloc) (s : State) : State := s.modHome (fun h => { h with relocs := modFirst x.same f h.relocs })

/-- Answer HOME_RELOCATE, if a mailbox issued it. -/
def relocEnd (x : Reloc) (rc : Byte) (val : BitVec 16) (s : State) : State :=
  match x.pk with
  | some c => finish c.1 c.2 rc val s
  | none => s

/-- Relocations of regions that need no acknowledge any more leave the counts of a table, and the entry of a region back at its original home with
none left is freed (R187, R189). -/
def tabLower (gone : RTab → BitVec 8 × Member → Bool) (t : List RTab) : List RTab :=
  t.filterMap (fun e =>
    let u := e.unack.filter (fun c => !gone e c)
    if u ≠ e.unack ∧ u = [] ∧ e.home = e.orig then none else some { e with unack := u })

/-- One relocation of a region is acknowledged by every live member: the count falls (R187). -/
def rtabLower (m : Member) (r : BitVec 10) (gen : BitVec 8) (s : State) : State :=
  s.modHome (fun h => { h with rtab := tabLower (fun e c => entryOf m r e && decide (c.1 = gen)) h.rtab })

/-- The acknowledge of a relocation is owed to the home that sent its notice (R187). -/
def oweAck (src : NodeId) (m : Member) (r : BitVec 10) (gen : BitVec 8) (s : State) : State :=
  s.modHome (fun h => { h with unacked := h.unacked ++ [⟨m, r, gen, memOf src, []⟩] })

/-- A notice counts one more relocation that is not yet acknowledged, the table standing (R187). -/
def rtabCount (m : Member) (r : BitVec 10) (c : BitVec 8 × Member) (s : State) : State :=
  s.modHome (fun h => { h with rtab := h.rtab.map (fun e => if entryOf m r e then tabMore e [c] else e) })

/-- A relocation notice applied at a member (R186 step 3, R187): the table, the old home to which Puts still go until the ready notice, and the
acknowledge owed to the sender. A notice in which the sender names itself takes a relocation back (R186): it is no relocation of its own, and
counts none (log 31). One whose generation a Nack MOVED or the ready notice has named before it, or that a newer one has overtaken, adds to the
count and is acknowledged; one that the table counts already is only acknowledged (R190). -/
def relocNote (src : NodeId) (m : Member) (r : BitVec 10) (gen : BitVec 8) (home : Member) (s : State) : State :=
  let cur := homeNow s (regionLine s m r)
  let c := (gen, memOf src)
  if home = memOf src then
    (if newerGen cur.2 gen then endMoving m r (rtabSet m r gen home [] s) else s)
  else if newerGen cur.2 gen then ackRelocs (oweAck src m r gen (setMoving m r cur.2 (memOf src) (rtabSet m r gen home [c] s)))
  else ackRelocs (oweAck src m r gen (rtabCount m r c s))

/-- Free the guest frame of a region. -/
def freeFrame (m : Member) (r : BitVec 10) (s : State) : State :=
  s.modHome (fun h => { h with frames := h.frames.map (fun f => if f = some (m, r) then none else f) })

/-- The frame that holds a region here, as its number in units of 1 GiB. -/
def frameNo (s : State) (m : Member) (r : BitVec 10) : Nat := frameOf s (regionLine s m r) / 2 ^ 24

/-- Every line of a frame as zero, and its records dropped. -/
def clearFrame (n : Nat) (s : State) : State :=
  let inF (f : Nat) : Bool := decide (f / 2 ^ 24 = n)
  let out {α : Type} (m : Sparse α) : Sparse α := m.filter (fun c => !inF c.1)
  let s1 := { s with mem := { s.mem with ddr := out s.mem.ddr, wq := out s.mem.wq, ddrFlaw := out s.mem.ddrFlaw } }
  let drop (k : Nat) (q : DirSet) : DirSet := { q with ents := q.ents.map (fun e =>
    if e.any (fun x => inF (x.tag.toNat * 2 ^ 17 + (k ^^^ x.tag.toNat))) then none else e) }
  s1.modHome (fun h => { h with dir := (h.dir.map (fun c => (c.1, drop c.1 c.2))).filter (fun c => decide (c.2 ≠ {})) })

/-- A stub whose region is acknowledged by every live member, its relocation over, is freed, and the members are told (R187). -/
def stubCheck (s : State) : State :=
  s.each (s.home.stubs.filter (fun x => x.await.isEmpty && !relocHere s x.orig x.region)) (fun s x =>
    let s1 := rtabLower x.orig x.region x.gen (s.modHome (fun h => { h with stubs := rmFirst (fun y => decide (y = x)) h.stubs }))
    s1.each (livePeers s.node s.fabric) (fun s n => sendVc5 n (.stubRelease x.orig x.region x.gen) s))

/-- The relocation is over at the old home: the new home serves the region, a guest frame is free again, and HOME_RELOCATE returns OK
(R186 step 7). -/
def relocOver (x : Reloc) (s : State) : State :=
  let s1 := if x.orig = self s then s else freeFrame x.orig x.region (clearFrame (frameNo s x.orig x.region) s)
  stubCheck (relocEnd x rcOK (x.gen.setWidth 16) (dropReloc x s1))

/-- The ready notice of the new home (R186 step 7): Puts go there from now on, and a relocation that this device gives to it is over. One that
comes before the notice of the relocation names the new home as that would. -/
def readyNote (src : NodeId) (m : Member) (r : BitVec 10) (gen : BitVec 8) (s : State) : State :=
  let cur := homeNow s (regionLine s m r)
  let s1 := if newerGen cur.2 gen then rtabSet m r gen (memOf src) [] s else s
  if cur.2 = gen ∨ newerGen cur.2 gen then
    let s2 := ackRelocs (endMoving m r s1)
    match s2.home.relocs.find? (fun x => x.giving && x.of m r && decide (x.phase = .finalCopy) && decide (x.gen = gen)) with
    | some x => relocOver x s2
    | none => s2
  else s

/-- The relocation table is being copied: notices wait until the copy ends (R190). -/
def copying (s : State) : Bool := s.fw.tabTry && !s.fw.tabDone

/-- Apply a notice, or hold it while the table is copied. -/
def onNotice (x : RNote) (s : State) : State :=
  if copying s then s.modHome (fun h => { h with notices := h.notices ++ [x] })
  else match x with
    | .moved src m r gen home => relocNote src m r gen home s
    | .ready src m r gen => readyNote src m r gen s
    | .release m r gen => rtabLower m r gen s

/-- The copy of the table has ended: the notices that came meanwhile are applied to it in order; what the copy holds of them already changes
nothing (R190, log 65). -/
def applyNotices (s : State) : State :=
  (s.modHome (fun h => { h with notices := [] })).each s.home.notices (fun s x => onNotice x s)

/-- A member's acknowledge reaches the old home (R187). -/
def stubAck (n : NodeId) (m : Member) (r : BitVec 10) (gen : BitVec 8) (s : State) : State :=
  stubCheck (s.modHome (fun h => { h with stubs := h.stubs.map (fun x =>
    if x.orig = m ∧ x.region = r ∧ x.gen = gen then { x with await := x.await.filter (fun y => decide (y ≠ n)) } else x) }))

/-- The relocations this device gives that have not reached step 3: each will take a stub (R183). -/
def givenSoon (s : State) : List Reloc := s.home.relocs.filter (fun x => x.giving && (decide (x.phase = .idle) || decide (x.phase = .copy)))
/-- The table entries that they will take. -/
def newEntries (s : State) : Nat := ((givenSoon s).filter (fun x => (rtabOf s x.orig x.region).isNone)).length

/-- HOME_RELOCATE at its take (R185, R186 step 1). What a relocation will take at step 3, a stub from that step on (DESIGN CHOICE, log 81) and a
table entry, is kept free for it (R183). -/
def relocateCmd (p k : Port) (arg : BitVec 16) (s : State) : State :=
  let g (o : Nat) : Nat := (s.mb p).par k o 2
  let m : Member := BitVec.ofNat 12 (g 0)
  let r : BitVec 10 := BitVec.ofNat 10 (g 2)
  let t : Member := BitVec.ofNat 12 (g 4)
  let now := homeNow s (regionLine s m r)
  let e := rtabOf s m r
  if arg ≠ 0 ∨ !memberOk s (g 0) ∨ 1024 ≤ g 2 ∨ !memberOk s (g 4) ∨ isLost s.node s.fabric (memNode s t) ∨ t = self s ∨ now.1 ≠ s.node.node then
    finish p k rcBADARG 0 s
  else if relocHere s m r || e.any (fun e => decide (8 ≤ e.unack.length)) then finish p k rcBUSY 0 s
  else if (e.isNone && decide (4096 ≤ s.home.rtab.length + newEntries s)) || decide (64 ≤ s.home.stubs.length + (givenSoon s).length) then
    finish p k rcNORES 0 s
  else
    let x : Reloc := { orig := m, region := r, gen := now.2, peer := t, giving := true, phase := .idle, pk := some (p, k), marks := [] }
    let gs := ((s.home.seats.filter (fun c => inRegion m r c.2.line)).map (·.2.group)).dedup
    let s1 := s.each gs (fun s g => stampLostOf g 5 (regionLine s m r) s)
    sendVc5 (memNode s t) (.frameReq m r) (s1.modHome (fun h => { h with relocs := h.relocs ++ [x] }))

/-- The relocation of a region that this device gives, in a phase. -/
def givingIn (s : State) (m : Member) (r : BitVec 10) (ph : RPhase) : Option Reloc :=
  s.home.relocs.find? (fun x => x.giving && x.of m r && decide (x.phase = ph))
/-- The relocation of a region that this device receives. -/
def receiving (s : State) (m : Member) (r : BitVec 10) : Option Reloc := s.home.relocs.find? (fun x => !x.giving && x.of m r)

/-- The target's answer to the frame reservation (R186 step 1, R185). After a TIMEOUT the target keeps the frame it reserved until it is asked for
it again, and an answer that comes late is ignored (DESIGN CHOICE, log 80). -/
def frameAnswer (n : NodeId) (m : Member) (r : BitVec 10) (ok : Bool) (s : State) : State :=
  match (givingIn s m r .idle).filter (fun x => decide (x.peer = memOf n)) with
  | none => s
  | some x => if ok then modReloc x (fun z => { z with phase := .copy }) s else relocEnd x rcNORES 0 (dropReloc x s)

/-- The target has not answered within 200 ms (R185). -/
def frameTimeout (m : Member) (r : BitVec 10) (s : State) : State :=
  match givingIn s m r .idle with
  | none => s
  | some x => relocEnd x rcTIMEOUT 0 (dropReloc x s)

/-- A member reserves a guest frame, or the original frame of its own region, for a relocation (R186 step 1, R183). -/
def frameReserve (n : NodeId) (m : Member) (r : BitVec 10) (s : State) : State :=
  let fs := (List.range s.node.guests).map (fun g => s.home.frames.getD g none)
  let pick : Option Nat := match fs.findIdx? (fun f => decide (f = some (m, r))) with
    | some g => some g
    | none => fs.findIdx? (fun f => f.isNone)
  let x : Reloc := { orig := m, region := r, gen := 0, peer := memOf n, giving := false, phase := .receiving, pk := none, marks := [] }
  let take (s : State) : State :=
    sendVc5 n (.frameAns m r true) (clearFrame (frameNo s m r)
      (s.modHome (fun h => { h with relocs := h.relocs.filter (fun y => !y.of m r) ++ [x] })))
  if m = self s then take s
  else match pick with
    | some g => take (s.modHome (fun h => { h with frames := fs.set g (some (m, r)) }))
    | none => sendVc5 n (.frameAns m r false) s

/-- The frame lines of a region held here, whatever is known of them. -/
def regionFrames (s : State) (m : Member) (r : BitVec 10) : List Nat :=
  let n := frameNo s m r
  ((s.mem.ddr.map (·.1) ++ s.mem.wq.map (·.1) ++ s.mem.ddrFlaw.map (·.1)).filter (fun f => decide (f / 2 ^ 24 = n))).dedup

/-- The lines of a region that a test names are read to be copied, data and word (R186 steps 2 and 6): one beyond correction is quarantined
(R342), and copied so. -/
def regionLines (m : Member) (r : BitVec 10) (p : Nat → Bool) (s : State) : List RegLine × State :=
  ((regionFrames s m r).filter p).foldl (fun z f =>
    let t := (ddrRead (lineOfFrame z.2 f) z.2).2
    let d := ddrGet t f
    (z.1 ++ [⟨BitVec.ofNat 24 (f % 2 ^ 24), d.data, d.word⟩], t)) ([], s)

/-- Write copied lines into the frame of a region. -/
def writeRegion (m : Member) (r : BitVec 10) (ls : List RegLine) (s : State) : State :=
  let n := frameNo s m r
  s.each ls (fun s l => dirDrop (n * 2 ^ 24 + l.idx.toNat) (ddrPut (n * 2 ^ 24 + l.idx.toNat) ⟨l.data, l.word⟩ s))

/-- The lines of a region that a device owns, with their records, no entry of the directory cache being bad (R154, R186 step 5). -/
def ownedLines (s : State) (m : Member) (r : BitVec 10) : List (Nat × DirRec) :=
  (regionFrames s m r).filterMap (fun f =>
    let known := match s.home.entry f with
      | some (_, e) => some e.recd
      | none => loadWord (ddrGet s f).word
    known.bind (fun x => if x.owner.isSome then some (f, x) else none))

/-- The bad entries of the directory cache for a region are loaded again before its records are looked through (R154). -/
def regionFix (m : Member) (r : BitVec 10) (s : State) : State :=
  let n := frameNo s m r
  dirFix (fun f => decide (f / 2 ^ 24 = n)) s

/-- The first copy is complete at the old home (R186 steps 2 and 3): the copy leaves, the pages that hold owned lines are marked,
the generation rises, the notices leave and a stub is kept. A table that the other members' relocations have filled meanwhile ends the command
NORES (R185, log 96). -/
def copyDone (x : Reloc) (s0 : State) : State :=
  if (rtabOf s0 x.orig x.region).isNone && decide (4096 ≤ s0.home.rtab.length) then relocEnd x rcNORES 0 (dropReloc x s0) else
  let c := regionLines x.orig x.region (fun _ => true) (regionFix x.orig x.region s0)
  let s := c.2
  let peers := livePeers s.node s.fabric
  let g := x.gen + 1
  let s1 := sendVc5 (memNode s x.peer) (.copyRegion x.orig x.region c.1) s
  let own := ((ownedLines s x.orig x.region).map (fun c => c.1 / 64)).dedup
  let s2 := (modReloc x (fun z => { z with phase := .switch_, gen := g, marks := z.marks ++ own.filter (fun q => !z.marks.contains q) }) s1).modHome (fun h => { h with stubs := h.stubs ++ [⟨x.orig, x.region, g, x.peer, s.node.node :: peers⟩] })
  relocNote s.node.node x.orig x.region g x.peer (s2.each peers (fun s n => sendVc5 n (.relocNotice x.orig x.region g x.peer) s))

/-- The first copy completes: at the new home the lines are written, at the old home the switch begins (R186). -/
def relocCopy (m : Member) (r : BitVec 10) (copied : List RegLine) (s : State) : State :=
  match givingIn s m r .copy, receiving s m r with
  | some x, _ => copyDone x s
  | none, some _ => writeRegion m r copied s
  | none, none => s

/-- A transaction is open on a line of a region. -/
def regionBusy (s : State) (m : Member) (r : BitVec 10) : Bool := s.home.tt.any (fun t => t.claim.isNone && inRegion m r t.line)

/-- Recall the owned lines of a region with Probe KEEP = 0 (R186 step 5); a line whose owner is dead or cut is reclaimed (R177, R178). -/
def recallAll (x : Reloc) (s0 : State) : State :=
  let s := regionFix x.orig x.region s0
  s.each (ownedLines s x.orig x.region) (fun s c =>
    match s.home.freeMain, c.2.owner with
    | some n, some p =>
      let l := lineOfFrame s c.1
      let m : BMsg := { src := s.node.node, srcu := homeUnit, laddr := l, gen := x.gen }
      if isLost s.node s.fabric (memNode s p) then sweepRec p l c.2 s
      else openT { t := { num := n, line := l, kind := .probe, req := m, recd := c.2, after := c.2.remove p, act := .recall, probeOf := some p } } s
    | _, _ => s)

/-- The transactions open at the old home have completed: the recall begins (R186 steps 4 and 5). -/
def drainRelocDone (m : Member) (r : BitVec 10) (s : State) : State :=
  match givingIn s m r .switch_ with
  | none => s
  | some x =>
    if regionBusy s x.orig x.region then s
    else recallAll x (modReloc x (fun z => { z with phase := .recall }) s)

/-- The final copy completes at the old home: the marked pages leave, and the new home's ready notice is awaited (R186 steps 6 and 7). -/
def finalCopy (x : Reloc) (s0 : State) : State :=
  let s := regionFix x.orig x.region s0
  if regionBusy s x.orig x.region then s
  else if !(ownedLines s x.orig x.region).isEmpty then recallAll x s
  else
    let c := regionLines x.orig x.region (fun f => x.marks.contains (f / 64)) s
    sendVc5 (memNode s x.peer) (.copyRegion x.orig x.region c.1) (modReloc x (fun z => { z with phase := .finalCopy }) c.2)

/-- The final copy completes: at the old home the pages leave, the new home serves the region and sends the ready notice (R186 steps 6, 7). -/
def relocFinal (m : Member) (r : BitVec 10) (copied : List RegLine) (s : State) : State :=
  match givingIn s m r .recall, receiving s m r with
  | some x, _ => finalCopy x s
  | none, none => s
  | none, some x =>
    let s1 := dropReloc x (writeRegion m r copied s)
    let g := (homeNow s1 (regionLine s1 m r)).2
    readyNote s.node.node m r g (s1.each (livePeers s.node s.fabric) (fun s n => sendVc5 n (.ready m r g) s))

/-- A relocation whose other home is declared dead before step 7 is abandoned (R186): the command returns FAULT; after the switch
the old home raises the generation once more and serves the region again; its stub stands until the relocation is acknowledged (R187). -/
def abandon (n : NodeId) (s : State) : State :=
  s.each (s.home.relocs.filter (fun x => decide (memNode s x.peer = n))) (fun s x =>
    let s1 := dropReloc x s
    if !x.giving then (if x.orig = self s then s1 else freeFrame x.orig x.region s1)
    else if x.phase = .idle ∨ x.phase = .copy then relocEnd x rcFAULT 0 s1
    else
      let g := x.gen + 1
      let s2 := s1.each (livePeers s.node s.fabric) (fun s m => sendVc5 m (.relocNotice x.orig x.region g (self s)) s)
      relocEnd x rcFAULT 0 (relocNote s.node.node x.orig x.region g (self s) s2))

/-- A region that was moving when its old or its new home is declared dead is left at the old home, or goes back to it (R186, R175). The
relocations of which that home still has the stub are acknowledged by no notice any more: they leave the counts (DESIGN CHOICE, log 106). -/
def movingDead (n : NodeId) (s : State) : State :=
  let now (e : RTab) : Member := ((s.home.rtab.find? (entryOf e.orig e.region)).map (·.home)).getD e.orig
  let gone := s.home.moving.filter (fun e => decide (memNode s e.home = n) || decide (memNode s (now e) = n))
  s.modHome (fun h => { h with
    rtab := tabLower (fun _ c => decide (memNode s c.2 = n)) (h.rtab.map (fun e =>
      match gone.find? (fun x => entryOf x.orig x.region e) with
      | some x => { e with home := x.home }
      | none => e))
    moving := h.moving.filter (fun e => !gone.contains e)
    unacked := h.unacked.filter (fun e => decide (memNode s e.home ≠ n)) })

/-- The firmware's operations at the declaration, or the cutting off, of a node: it is waited for no more. -/
def domainDead (n : NodeId) (s : State) : State :=
  let s1 := shareSkip n (policySkip n s)
  stubCheck (s1.modHome (fun h => { h with
    stubs := h.stubs.map (fun x => { x with await := x.await.filter (fun y => decide (y ≠ n)) }) }))

/-- Ask every other member of the domain for its relocation table (R190). -/
def askTables (s : State) : State :=
  (((members s.node).map (memNode s)).filter (fun n => decide (n ≠ s.node.node))).foldl (fun s n => sendVc5 n .tableQuery s)
    (modFw (fun f => { f with tabTry := true }) s)

/-- The nodes declared dead at this device. -/
def declared (s : State) : List NodeId := (s.fabric.live.filter (fun c => c.2.dead)).map (fun c => BitVec.ofNat 18 c.1)

/-- The answer to a relocation table query (R190, R521). -/
def tableAnswer (n : NodeId) (s : State) : State :=
  sendVc5 n (.tableAnswer { member := self s, table := s.home.rtab, dead := declared s, cleared := s.fw.coldClr && !s.fw.tabDone }) s

/-! ### The inbound ring (R305) -/

/-- What the firmware does with a message of another device. -/
def vc5Do (n : NodeId) (m : Vc5) (s : State) : State :=
  match m with
  | .policyChange x r wt => applyPolicy x r wt n s
  | .policyAck => policyAcked n s
  | .shareReserve p missr depth => let y := shareGrant n p missr depth s; sendVc5 n (.shareAnswer p y.1) y.2
  | .shareAnswer p ok => shareAnswer n p ok s
  | .shareRelease p => shareFree n p s
  | .memberUpdate g x join => memberChange g x join s
  | .frameReq o r => frameReserve n o r s
  | .frameAns o r ok => frameAnswer n o r ok s
  | .relocNotice o r gen home => onNotice (.moved n o r gen home) s
  | .ready o r gen => onNotice (.ready n o r gen) s
  | .relocAck o r gen => stubAck n o r gen s
  | .stubRelease o r g => onNotice (.release o r g) s
  | .steps x purge pass => if purge && pass then modLive x (fun d => { d with told := if d.told.contains n then d.told else d.told ++ [n] }) s else s
  | .tableQuery => tableAnswer n s
  | .copyRegion _ _ _ | .tableAnswer _ | .quiet _ _ | .readmit _ | .horizon _ _ => s

/-- A VC5 message arrives: the firmware takes it, or it waits in the ring of 256 entries. With the ring full it stays in its input buffer, and its
credits are withheld: of the list, the messages beyond the first 256 are those (R305). -/
def vc5In (n : NodeId) (m : Vc5) (s : State) : State :=
  if fwUp s then fwDo (vc5Do n m) (gotVc5 n s)
  else
    let s1 := if s.fabric.ring.length < 256 then gotVc5 n s else s
    { s1 with fabric := { s1.fabric with ring := s1.fabric.ring ++ [(n, m)] } }

/-- The firmware takes what has waited in the ring, and what could not enter it. -/
def ringRun (s : State) : State :=
  let s1 := (s.fabric.ring.drop 256).foldl (fun s c => gotVc5 c.1 s) s
  s.fabric.ring.foldl (fun s c => fwDo (vc5Do c.1 c.2) s) { s1 with fabric := { s1.fabric with ring := [] } }

/-! ### The commands -/

/-- REGION_SET (R71). -/
def execRegionSet (p k : Port) (s : State) : Host.Outcome State Fault Refusal := onClock s (command p k 0x10 (fun _ => true) (regionSetCmd p k))
/-- REGION_GET (R392). -/
def execRegionGet (p k : Port) (s : State) : Host.Outcome State Fault Refusal := onClock s (command p k 0x11 (fun _ => true) (regionGetCmd p k))
/-- CONTRACT_REQ (R255). -/
def execContractReq (p k : Port) (s : State) : Host.Outcome State Fault Refusal := onClock s (command p k 0x40 (fun _ => true) (contractReqCmd p k))
/-- CONTRACT_REL (R255). -/
def execContractRel (p k : Port) (s : State) : Host.Outcome State Fault Refusal := onClock s (command p k 0x41 (fun _ => true) (contractRelCmd p k))
/-- STAMP_JOIN (R233). -/
def execStampJoin (p k : Port) (s : State) : Host.Outcome State Fault Refusal := onClock s (command p k 0x50 (fun _ => true) (stampJoinCmd p k))
/-- STAMP_LEAVE (R233). -/
def execStampLeave (p k : Port) (s : State) : Host.Outcome State Fault Refusal := onClock s (command p k 0x51 (fun _ => true) (stampLeaveCmd p k))
/-- HOME_RELOCATE (R185, R186). -/
def execHomeRelocate (p k : Port) (s : State) : Host.Outcome State Fault Refusal := onClock s (command p k 0x60 (fun _ => true) (relocateCmd p k))
/-- POLICY_WALK_DONE (R71). -/
def execPolicyWalkDone (m : Member) (r : BitVec 10) (s : State) : Host.Outcome State Fault Refusal := onClock s (fwDo (policyDone m r))
/-- REGION_POLICY_CHANGE (R71). -/
def execRegionPolicyChange (m : Member) (r : BitVec 10) (wt : Bool) (src : NodeId) (s : State) : Host.Outcome State Fault Refusal :=
  onClock s (vc5In src (.policyChange m r wt))
/-- REGION_SET_ACK (R71). -/
def execRegionSetAck (n : NodeId) (s : State) : Host.Outcome State Fault Refusal := onClock s (vc5In n .policyAck)
/-- REGION_SET_TIMEOUT (R71). -/
def execRegionSetTimeout (s : State) : Host.Outcome State Fault Refusal := onClock s (fwDo policyTimeout)
/-- CONTRACT_SHARE_RESERVE (R255). -/
def execContractShareReserve (n : NodeId) (p : Port) (missr : BitVec 11) (depth : Nat) (s : State) : Host.Outcome State Fault Refusal :=
  onClock s (vc5In n (.shareReserve p missr depth))
/-- CONTRACT_SHARE_ANSWER (R255). -/
def execContractShareAnswer (n : NodeId) (p : Port) (ok : Bool) (s : State) : Host.Outcome State Fault Refusal :=
  onClock s (vc5In n (.shareAnswer p ok))
/-- CONTRACT_SHARE_RELEASE (R255). -/
def execContractShareRelease (n : NodeId) (p : Port) (s : State) : Host.Outcome State Fault Refusal := onClock s (vc5In n (.shareRelease p))
/-- CONTRACT_REQ_TIMEOUT (R255). -/
def execContractReqTimeout (p : Port) (s : State) : Host.Outcome State Fault Refusal := onClock s (fwDo (ctrTimeout p))
/-- CONTRACT_REL_COMPLETE (R255). -/
def execContractRelComplete (p : Port) (s : State) : Host.Outcome State Fault Refusal := onClock s (fwDo (relComplete p))
/-- STAMP_JOIN_CLEAN_DONE (R233). -/
def execStampJoinCleanDone (p : Port) (hzn : W64) (s : State) : Host.Outcome State Fault Refusal := onClock s (fwDo (joinDone p hzn))
/-- STAMP_LEAVE_COMPLETE (R233). -/
def execStampLeaveComplete (p : Port) (s : State) : Host.Outcome State Fault Refusal := onClock s (fwDo (leaveDone p))
/-- MEMBER_LIST_UPDATE (R233). -/
def execMemberListUpdate (g : BitVec 6) (n : NodeId) (join : Bool) (s : State) : Host.Outcome State Fault Refusal :=
  onClock s (vc5In n (.memberUpdate g n join))
/-- FRAME_RESERVATION_REQUEST (R186). -/
def execFrameReservationRequest (n : NodeId) (orig : Member) (region : BitVec 10) (s : State) : Host.Outcome State Fault Refusal :=
  onClock s (vc5In n (.frameReq orig region))
/-- FRAME_RESERVATION_ANSWER (R186). -/
def execFrameReservationAnswer (n : NodeId) (orig : Member) (region : BitVec 10) (ok : Bool) (s : State) : Host.Outcome State Fault Refusal :=
  onClock s (vc5In n (.frameAns orig region ok))
/-- FRAME_RESERVATION_TIMEOUT (R185). -/
def execFrameReservationTimeout (orig : Member) (region : BitVec 10) (s : State) : Host.Outcome State Fault Refusal :=
  onClock s (fwDo (frameTimeout orig region))
/-- RELOCATION_COPY_DONE (R186). -/
def execRelocationCopyDone (orig : Member) (region : BitVec 10) (copied : List RegLine) (s : State) : Host.Outcome State Fault Refusal :=
  onClock s (fwDo (relocCopy orig region copied))
/-- RELOCATION_NOTICE (R186, R187). -/
def execRelocationNotice (src : NodeId) (orig : Member) (region : BitVec 10) (gen : BitVec 8) (home : Member) (s : State) :
    Host.Outcome State Fault Refusal := onClock s (vc5In src (.relocNotice orig region gen home))
/-- RELOCATION_DRAIN_DONE (R186). -/
def execRelocationDrainDone (orig : Member) (region : BitVec 10) (s : State) : Host.Outcome State Fault Refusal :=
  onClock s (fwDo (drainRelocDone orig region))
/-- RELOCATION_FINAL_COPY_DONE (R186). -/
def execRelocationFinalCopyDone (orig : Member) (region : BitVec 10) (copied : List RegLine) (s : State) : Host.Outcome State Fault Refusal :=
  onClock s (fwDo (relocFinal orig region copied))
/-- READY_NOTICE (R186). -/
def execReadyNotice (src : NodeId) (orig : Member) (region : BitVec 10) (gen : BitVec 8) (s : State) : Host.Outcome State Fault Refusal :=
  onClock s (vc5In src (.ready orig region gen))
/-- RELOCATION_ACK (R187). -/
def execRelocationAck (n : NodeId) (orig : Member) (region : BitVec 10) (gen : BitVec 8) (s : State) : Host.Outcome State Fault Refusal :=
  onClock s (vc5In n (.relocAck orig region gen))
/-- STUB_RELEASE (R187). -/
def execStubRelease (orig : Member) (region : BitVec 10) (gen : BitVec 8) (s : State) : Host.Outcome State Fault Refusal :=
  onClock s (vc5In s.node.node (.stubRelease orig region gen))
/-- RELOCATION_TABLE_QUERY (R190). -/
def execRelocationTableQuery (n : NodeId) (s : State) : Host.Outcome State Fault Refusal := onClock s (vc5In n .tableQuery)
/-- RELOCATION_TABLE_RETRY (R190). -/
def execRelocationTableRetry (s : State) : Host.Outcome State Fault Refusal :=
  onClock s (fwDo (fun s => if s.fw.tabDone then s else askTables s))

end Sys2Proof.Machine
end

