-- ==== Sys2Proof/Machine/Links.lean ====
section
/-! DEFINITION. The fabric switch and its links: flits, transit, broadcast and combining, heartbeats and time, loss, declarations
and readmission (R174 to R181, R298 to R315, R459). -/

namespace Sys2Proof.Machine

/-! ### Links -/

/-- The link carries traffic: all classes, or VC4 and VC5 only (R315). -/
def FPort.carries (x : FPort) : Bool := decide (x.link = .up) || decide (x.link = .upMgmt)
/-- Send a VC4 message or link-management flit out of a port (R182, R311: none after a stop). -/
def sendVc4 (f : FPortNo) (m : Vc4) (s : State) : State := if s.fabric.stopped then s else s.emit (.vc4 f m)
/-- Flood a VC4 message over the up links but one (R312). -/
def flood (but : Option FPortNo) (m : Vc4) (s : State) : State :=
  s.each (fportNos.filter (fun f => decide (some f ≠ but) && (s.fp f).carries)) (fun s f => sendVc4 f m s)

/-- Ask the neighbour to send again: the next flit has REPLAY set (R299, R300). -/
def askReplay (f : FPortNo) (s : State) : State := s.modFp f (fun x => { x with askRep := true })

/-- ACK of a flit: the flits up to it need no replay (R299, R300). -/
def FPort.acked (x : FPort) (a : BitVec 10) : FPort :=
  if x.unacked.any (fun h => decide (h.seq = a)) then { x with unacked := (x.unacked.dropWhile (fun h => decide (h.seq ≠ a))).drop 1 } else x

/-- The flits held are sent again: each counts one more replay (R300, R327). -/
def FPort.replayed (x : FPort) : FPort :=
  { x with unacked := x.unacked.map (fun h => { h with tries := h.tries + 1 }), replayC := x.replayC + BitVec.ofNat 64 x.unacked.length }

/-- Credits returned with a flit (R299, R302): to a channel, or to the pool. -/
def FPort.credited (x : FPort) (vc : BitVec 4) (n : BitVec 6) : FPort :=
  if vc.toNat < 12 then { x with credits := vset x.credits vc.toNat (min (vget x.credits vc.toNat 0 + n.toNat) 32) }
  else if vc.toNat = 12 then { x with pool := min (x.pool + n.toNat) 5760 } else x

/-- A flit received (R298 to R300): its codeword pair, counted once (R327), and its CRC are checked; ACK, credits, a replay request and the
sequence number are applied. -/
def flitIn (f : FPortNo) (x : FlitIn) (s : State) : State :=
  if !(s.fp f).carries then s
  else if x.fecUnc then askReplay f (if x.slot = 0 then s.modFp f (fun p => { p with fecUnc := p.fecUnc + 1 }) else s)
  else
    let s1 := if x.fecCor ∧ x.slot = 0 then s.modFp f (fun p => { p with fecCor := p.fecCor + 1 }) else s
    if !x.crcOk then askReplay f (s1.modFp f (fun p => { p with crcErr := p.crcErr + 1 }))
    else
      let s2 := s1.modFp f (fun p => (p.acked x.ack).credited x.crvc x.crcnt)
      let u := (s2.fp f).unacked
      let s3 := if x.replay && !u.isEmpty && !s2.fabric.stopped then sendVc4 f (.replayFlits (u.map (·.seq))) (s2.modFp f FPort.replayed) else s2
      let p := s3.fp f
      if x.ctrl then s3
      else if x.seq = p.rxNext then s3.modFp f (fun p => { p with rxNext := p.rxNext + 1, askRep := false })
      else if (p.rxNext - x.seq).toNat ≤ 256 then s3
      else askReplay f s3

/-! ### Transit (R303, R307, R314) -/

/-- Dateline channel of a packet that leaves by a port: kept along an axis, base after a turn, dateline across a wrap link. -/
def dlOut (s : State) (inp : Option FPortNo) (out : FPortNo) (dl : Bool) : Bool :=
  ((match inp with | some i => decide (i.val / 2 = out.val / 2) | none => false) && dl) || isWrap s.node s.node.node out

/-- The port passes no packet on: its link is lost, or does not train (R314). -/
def FPort.gone (x : FPort) : Bool := decide (x.link = .lost) || decide (x.link = .down)

/-- A packet that goes no further leaves the buffer of the port it came by (R302). -/
def pktFreed (f : FPortNo) (x : Packet) (s : State) : State :=
  bufferFreed f (2 * x.cls.toNat + (if x.dl then 1 else 0)) ((x.len.toNat + 1) / 2) 0 s

/-- A packet that leaves its output queue unsent or sent gives up the buffer it held at its input port (R302). -/
def txFreed (s : State) (x : TxPkt) : State :=
  match x.inp with
  | some i => if x.hdr.bcast then s else bufferFreed i (2 * x.hdr.cls.toNat + (if x.inDl then 1 else 0)) x.cost 0 s
  | none => s

/-- A packet for another node is forwarded, or discarded where its next link is lost or its source or destination is dead or cut
(R307, R314). VC4 is consumed at every hop, and a broadcast or a combined answer is no transit packet. -/
def transit (f : FPortNo) (x : Packet) (s : State) : State :=
  if decide (x.dst = s.node.node) || x.bcast || x.comb || s.fabric.stopped || decide (x.cls = 4) || decide (5 < x.cls.toNat) then s
  else match routePort s.node s.node.node x.src x.dst with
  | none => s
  | some out =>
    if (s.fp out).gone || (decide (x.cls.toNat ≤ 3) && (isLost s.node s.fabric x.dst || isLost s.node s.fabric x.src)) then
      pktFreed f x (s.modFp out (fun p => { p with discard := p.discard + 1 }))
    else
      (s.modFp out (fun p => { p with transit := p.transit + 1 })).emit (.pkt out (some (f, x.dl)) { x with dl := dlOut s (some f) out x.dl })

/-! ### Broadcast and combining (R157, R308, R519) -/

/-- Two nodes are cut from each other: a route between them, in either direction, passes a declared node (R313). -/
def pairCut (s : State) (a b : NodeId) : Bool :=
  (routeNodes s.node a b 96 a).any (isDead s.fabric) || (routeNodes s.node b a 96 b).any (isDead s.fabric)

/-- The tree path from a root to a member passes no node, the member included, that is declared dead, or cut from the root and so
discards what the root sends (R308, R313). -/
def pathLive (s : State) (root x : NodeId) : Bool :=
  (routeNodes s.node root x 96 root).all (fun y => !isDead s.fabric y && !pairCut s root y)

/-- The members a BInv covers (R157, R308, R519). -/
def bcCovered (s : State) (m : BMsg) : List NodeId :=
  (((List.range 4096).map (fun k => nodeOf (domOf m.src) (BitVec.ofNat 12 k))).filter (fun x =>
    inTorus s.node x && decide (x ≠ m.rqn) && !(m.keep && decide (memOf x = m.osn)))).filter (pathLive s m.src)

/-- The covered members below this switch in the tree of the root, itself included. -/
def bcBelow (s : State) (m : BMsg) : List NodeId :=
  let here := s.node.node
  (bcCovered s m).filter (fun x => decide (here = m.src) || (routeNodes s.node m.src x 96 m.src).contains here)

/-- The neighbour toward the root of a tree. -/
def bcUp (s : State) (root : NodeId) : Option NodeId :=
  if root = s.node.node then none else (root :: routeNodes s.node root s.node.node 96 root).dropLast.getLast?

/-- Send what this device originates over the fabric: held during a pause (R312), nothing after a stop (R311). -/
def originate (o : Out) (s : State) : State :=
  if s.fabric.stopped then s
  else if s.fabric.pause.isSome then { s with fabric := { s.fabric with heldOut := s.fabric.heldOut ++ [o] } }
  else s.emit o

/-- The covered members that a neighbour, or this device for its own, answers for. -/
def bcVia (s : State) (m : BMsg) (c : NodeId) : List NodeId :=
  let here := s.node.node
  (bcBelow s m).filter (fun x => if x = here then decide (c = here)
    else decide ((routePort s.node here m.src x).bind (neighbour s.node here) = some c))

/-- The live members below this switch that have answered: a member declared dead or cut since it did counts no more (R308). -/
def Comb.count (e : Comb) (s : State) : Nat :=
  e.got.foldl (fun n c => n + min c.2 (bcVia s e.msg (BitVec.ofNat 18 c.1)).length) 0

/-- An entry whose count is complete forwards one InvAck: up the tree, or to the home at the root (R308). -/
def combSend (e : Comb) (s : State) : State :=
  let m := e.msg
  let a : BMsg := { dst := m.src, dstu := homeUnit, src := s.node.node, rtid := m.rtid, laddr := m.laddr, rqn := m.rqn,
                    rqu := m.rqu, htid := m.htid, gen := m.gen, allow := e.allow }
  match bcUp s m.src with
  | none => s.emit (.comb none a (e.count s))
  | some n => originate (.comb (some n) a (e.count s)) s

/-- The copy of a broadcast that leaves by a port: of a root's own BInv, or of one that came on a port (R301, R303, R308). -/
def bcCopy (s : State) (f : Option FPortNo) (x : Packet) (g : FPortNo) : Packet :=
  { x with cls := 1, dl := dlOut s f g x.dl, bcast := true, comb := false, dst := x.msg.src, src := x.msg.src
           len := packetWords .bInv x.msg, kind := .bInv }

/-- Replicate a BInv along its tree: its input buffer is free, a combining entry is taken, copies leave by the ports that have members below them, and it is
delivered here where this device is covered; with nothing below, it is answered at once (R308). A root in a pause holds its copies (R312). -/
def bcRun (f : Option FPortNo) (x : Packet) (s0 : State) : State :=
  let s := match f with | some i => pktFreed i { x with cls := 1 } s0 | none => s0
  let here := s.node.node
  let m := x.msg
  let b := bcBelow s m
  let e : Comb := ⟨m, [], 0⟩
  if s.fabric.stopped then s
  else if b.isEmpty then combSend e s
  else
    let outs := fportNos.filter (fun g => b.any (fun y => decide (y ≠ here) && decide (routePort s.node here m.src y = some g)))
    let s1 := { s with fabric := { s.fabric with combs := s.fabric.combs ++ [e] } }
    let s2 := s1.each outs (fun s g => match f with
      | none => originate (.pkt g none (bcCopy s none x g)) s
      | some i => s.emit (.pkt g (some (i, x.dl)) (bcCopy s (some i) x g)))
    if b.contains here then s2.emit (.msg .bInv { m with dst := here, dstu := unitOf (sliceOf m.laddr) }) else s2

/-- Combining entries of a switch (R308). -/
def combRoom (s : State) : Bool := decide (s.fabric.combs.length < 1024)

/-- A BInv reaches this switch, from its home's unit or on a port: it waits on VC1 while no combining entry is free (R308); one whose root is
dead or cut is discarded (R314), counted at the port it came by (DESIGN CHOICE, log 72). -/
def bcArrive (f : Option FPortNo) (x : Packet) (s : State) : State :=
  if s.fabric.stopped then s
  else if isLost s.node s.fabric x.msg.src then
    (match f with | some g => pktFreed g { x with cls := 1 } (s.modFp g (fun p => { p with discard := p.discard + 1 })) | none => s)
  else if combRoom s && s.fabric.bcastQ.isEmpty then bcRun f x s
  else { s with fabric := { s.fabric with bcastQ := s.fabric.bcastQ ++ [(f, x)] } }

/-- Waiting broadcasts take the entries that are free, oldest first. -/
def bcPump : Nat → State → State
  | 0, s => s
  | n + 1, s =>
    match s.fabric.bcastQ with
    | c :: t => if combRoom s && !s.fabric.stopped then bcPump n (bcRun c.1 c.2 { s with fabric := { s.fabric with bcastQ := t } }) else s
    | [] => s

/-- Forward every entry whose count is complete (R308); nothing after a stop (R311). -/
def combFlush (s : State) : State :=
  if s.fabric.stopped then s
  else
    let done := s.fabric.combs.filter (fun e => decide ((bcBelow s e.msg).length ≤ e.count s))
    let s1 := { s with fabric := { s.fabric with combs := s.fabric.combs.filter (fun e => !done.contains e) } }
    let s2 := s1.each done (fun s e => combSend e s)
    bcPump s2.fabric.bcastQ.length s2

/-- The port to a neighbour. -/
def portTo (s : State) (n : NodeId) : Option FPortNo := fportNos.find? (fun f => decide (neighbour s.node s.node.node f = some n))

/-- An InvAck with COMB = 1 is summed into its entry, by the neighbour or the own unit it came from (R308); one whose root or sender is dead or cut
is discarded, counted at the port it came by (R314; DESIGN CHOICE, log 72). -/
def combGot (m : BMsg) (cnt : Nat) (s0 : State) : State :=
  let s := gotPkt m.src 2 (packetWords .invAck m) s0
  let mine (e : Comb) : Bool := decide (e.msg.src = m.dst) && decide (e.msg.htid = m.htid) && decide (e.msg.laddr = m.laddr)
  if isLost s.node s.fabric m.dst || isLost s.node s.fabric m.src then
    (match portTo s m.src with | some g => s.modFp g (fun p => { p with discard := p.discard + 1 }) | none => s)
  else combFlush { s with fabric := { s.fabric with combs := modFirst mine (fun e =>
    { e with got := spMod 0 m.src.toNat (· + cnt) e.got, allow := max e.allow m.allow }) s.fabric.combs } }

/-! ### Heartbeats and time (R309, R311) -/

/-- The time parent (R309): the neighbour on the first hop toward the root, or, with that link lost, the port whose neighbour
reports the least distance, lowest port first. -/
def timeParent (s : State) : Option FPortNo :=
  match routePort s.node s.node.node s.node.node s.node.root with
  | none => none
  | some f =>
    if (s.fp f).carries then some f
    else (fportNos.filter (fun g => (s.fp g).carries)).foldl (fun (a : Option FPortNo) g =>
      match a with
      | some b => if (s.fp g).hbDist.toNat < (s.fp b).hbDist.toNat then some g else some b
      | none => some g) none

/-- A heartbeat arrives (R309): the time parent's sets the time base and the hop distance to the root (R323). -/
def heartbeatIn (f : FPortNo) (time : W64) (dist : BitVec 7) (delay : W64) (s : State) : State :=
  if !(s.fp f).carries then s
  else
    let s1 := (gotVc4 f s).modFp f (fun x => { x with hbSeen := true, hbDist := dist })
    if timeParent s1 = some f then
      { s1 with gen := { s1.gen with time := time + delay }
                node := { s1.node with dist := if dist.toNat < 0x7E then dist + 1 else 0x7F } }
    else s1

/-- The health monitors hold (R311): the firmware pair, whose watchdog is one, has not stopped. -/
def healthy (s : State) : Bool := decide (s.fw.st ≠ .stopped)

/-- A heartbeat leaves on every up link (R311). -/
def heartbeatOut (s : State) : State :=
  if !healthy s then stopFabric s
  else s.each (fportNos.filter (fun f => (s.fp f).carries)) (fun s f =>
    sendVc4 f (.heartbeat s.gen.time s.node.dist) (s.modFp f (fun x => { x with hbSeen := false })))

/-! ### Declarations (R174 to R178, R312, R313) -/

/-- What a slice does at the loss of a home (R175): the purge walk begins, Causeway and Reedbed lines and Puts with RETAIN go, requests
not yet sent and entries not yet issued end. -/
def sliceLost (n : NodeId) (i : SliceNo) (s : State) : State :=
  let at_ (l : LAddr) : Bool := decide ((homeNow s l).1 = n)
  let x := s.sl i
  let lost := (x.cw.filter (fun e => decide (e.dst = n))).length
  let ents := x.wmb.filter (fun e => at_ e.line && decide (e.st ≠ .issued))
  let s1 := s.modSl i (fun x => { x with
    cw := x.cw.filter (fun e => decide (e.dst ≠ n))
    rb := x.rb.filter (fun e => !(at_ e.line && !e.awaited))
    wmb := x.wmb.filter (fun e => !ents.contains e)
    stt := x.stt.filter (fun t => !(decide (t.st = .retain) && decide (t.dst = n))) })
  let s2 := s1.modHome (fun h => { h with deadDisc := h.deadDisc + BitVec.ofNat 64 lost })
  let s3 := s2.each ents (fun s e => evDeadDone e.line e.port true s)
  let s4 := s3.each ((s3.sl i).stt.filter (fun t => t.gap && at_ t.line)) (fun s t => resend i t s)
  if domOf n = domOf s.node.node ∧ !(s4.sl i).walks.any (fun w => decide (w.kind = .purge n)) then
    startWalk i (.purge n) s4
  else s4

/-- The combining entries of a port at the loss of a home (R175): those not issued, and those sent as a Put, whose WbAck does not come. -/
def portLost (n : NodeId) (p : Port) (s : State) : State :=
  let put (l : LAddr) : Bool := ((s.sl (sliceOf l)).cwOf l).any (fun e => decide (e.dst = n))
  let ents := (s.hp p).ntc.filter (fun e => if e.st = .issued then e.viaPut && put e.line else decide ((homeNow s e.line).1 = n))
  (s.modHp p (fun h => { h with ntc := h.ntc.filter (fun e => !ents.contains e) })).each ents (fun s e => evDeadDone e.line p true s)

/-- A node is lost to this device: declared dead, or cut (R175 to R178, R313). What was moving to or from it is settled first, so that its lines
are those of their home by then (R186). -/
def nodeLost (n : NodeId) (s : State) : State :=
  let s1 := (movingDead n (abandon n s)).each ports (fun s p => portLost n p s)
  let s2 := s1.each sliceNos (fun s i => sliceLost n i s)
  domainDead n (homeDead n s2)

/-- The group's order is broken by the declaration of a member device, and its lists lose the node (R252, R310). -/
def stampDead (n : NodeId) (s : State) : State :=
  let inG := s.stamp.member &&
    (let l := spGet {} s.stamp.lists s.stamp.group.toNat; l.cur.contains n || l.next.contains n)
  let s1 := if inG then stampLost 1 0 s else s
  s1.each (s1.stamp.lists.map (·.1)) (fun s g => listChange (BitVec.ofNat 6 g) n false s)

/-- The nodes this device has dealings with: the live members, and the requesters and homes of open transactions. -/
def partners (s : State) : List NodeId :=
  (livePeers s.node s.fabric ++ s.home.tt.map (fun t => t.req.src) ++ s.slices.toList.flatMap (fun x => x.stt.map (·.dst) ++ x.wmb.map (fun e => (homeNow s e.line).1)) ++
    s.hports.toList.flatMap (fun h => h.ntc.map (fun e => (homeNow s e.line).1))).dedup

/-- This device is declared dead, or declares itself: it falls silent and completes its host requests with DEAD (R182). -/
def selfDeclare (s : State) : State :=
  if s.fabric.selfDead then s else stopDevice 6 4 0 (evNodeDead s.node.node s)

/-- A declaration is applied on its first arrival (R174, R312): the liveness map is set, and the node and those it cuts off are lost. -/
def declareApply (n : NodeId) (s : State) : State :=
  if n = s.node.node then selfDeclare s
  else if isDead s.fabric n then s
  else
    let before := partners s
    let s1 := evNodeDead n (modLive n (fun d => { d with dead := true }) s)
    let lost := (n :: before.filter (fun x => decide (x ≠ s.node.node) && !isLost s.node s.fabric x && isLost s1.node s1.fabric x)).dedup
    downMoves (ackRelocs (combFlush (stampDead n (s1.each lost (fun s x => nodeLost x s)))))

/-- Declare a node: flooded, and applied here (R312). -/
def declare (n : NodeId) (s : State) : State :=
  if isDead s.fabric n then s else declareApply n (flood none (.declaration n) s)

/-- A declaration arrives on a port: forwarded once, and applied (R312). A device it names falls silent (R182). -/
def declarationIn (f : FPortNo) (n : NodeId) (s0 : State) : State :=
  let s := gotVc4 f s0
  if isDead s.fabric n then s
  else if n = s.node.node then selfDeclare s
  else declareApply n (flood (some f) (.declaration n) s)

/-- 300 µs after a declaration, every request still unanswered at the node completes as Nack DEAD (R175), one that has its data and awaits Cmp
among them. -/
def deadTimeout (n : NodeId) (s : State) : State :=
  if !isLost s.node s.fabric n then s
  else downMoves (ackRelocs (s.each sliceNos (fun s i =>
    s.each ((s.sl i).stt.filter (fun t => decide (t.dst = n) && (decide (t.st = .open_) || decide (t.st = .cmpAwaited)))) (fun s t =>
      if t.st = .cmpAwaited then settle i (deadTxn i t s)
      else onNack { dst := s.node.node, dstu := unitOf i, src := n, srcu := homeUnit, rtid := t.rtid, laddr := t.line, reason := rsnDEAD } s))))

/-- The directory-cache pass of the sweep for a node completes: its totals are recorded (R178, R179). -/
def sweepDoneFor (n : NodeId) (s : State) : State :=
  if !s.home.sweeps.any (fun w => decide (w.node = n) && !w.done) then s
  else
    let s1 := sweepPass (memOf n) s
    if !sweepDone s1 (memOf n) then s1
    else
      let s2 := s1.modHome (fun h => { h with sweeps := h.sweeps.map (fun w => if w.node = n then { w with done := true } else w) })
      let w := (s2.home.sweeps.find? (fun w => decide (w.node = n))).getD ⟨n, 0, 0, true⟩
      reportSteps n (modLive n (fun d => { d with pass := true })
        (peatEnter (mkRec 0x40 1 (bodyAt 24 n.toNat ||| bodyAt 28 w.reclaimed ||| bodyAt 36 w.poisoned)) s2))

/-! ### Lost links (R311, R312) -/

/-- Remember a LINKLOST report, of the last 256 (R312). -/
def noteReport (r : NodeId × NodeId × W64) (s : State) : State :=
  let l := s.fabric.reports ++ [r]
  { s with fabric := { s.fabric with reports := l.drop (l.length - 256) } }

/-- A fabric link is lost (R311, R312): the loss is noted and flooded, and the device with the higher node ID pauses. A link held by
WARM is no loss (R459). -/
def loseLink (f : FPortNo) (c : LossCause) (s : State) : State :=
  let x := s.fp f
  if !x.carries || x.held || (decide (c = .replayLimit) && !x.unacked.any (fun h => decide (8 ≤ h.tries))) then s
  else
    let t := s.gen.time
    let s1 := s.setFp f { x with link := .lost, loss := t, lostRep := true }
    if isDead s.fabric x.neigh then s1
    else
      let s2 := flood none (.linklost s.node.node x.neigh t) (noteReport (s.node.node, x.neigh, t) s1)
      if x.neigh.toNat < s.node.node.toNat then { s2 with fabric := { s2.fabric with pause := some (f, t) } } else s2

/-- A LINKLOST report arrives: forwarded once and recorded (R312). -/
def linklostIn (f : FPortNo) (n peer : NodeId) (t : W64) (s0 : State) : State :=
  let s := gotVc4 f s0
  if s.fabric.reports.contains (n, peer, t) then s
  else flood (some f) (.linklost n peer t) (noteReport (n, peer, t) s)

/-- The pause ends: the packets held at their source leave in order, those for a node now dead or cut discarded (R312). -/
def endPause (s : State) : State :=
  let q := s.fabric.heldOut
  let s1 := { s with fabric := { s.fabric with pause := none, heldOut := [] } }
  s1.each q (fun s o =>
    match o with
    | .msg k m => sendMsg k m s
    | .vc5 n m => sendVc5 n m s
    | o => if s.fabric.stopped then s else s.emit o)

/-- The decision on a lost link at T + 24 µs (R312). -/
def linkDecision (f : FPortNo) (s : State) : State :=
  let x := s.fp f
  if x.link ≠ .lost ∨ !x.lostRep then s
  else
    let n := x.neigh
    let me := s.node.node
    let s1 := s.setFp f { x with lostRep := false }
    let told := s.fabric.reports.any (fun r => decide (r.1 = n) && decide (r.2.1 = me))
    let mine := s.fabric.pause.any (fun q => decide (q.1 = f))
    if told && decide (n.toNat < me.toNat) then
      selfDeclare { s1 with fabric := { s1.fabric with pause := none, heldOut := [] } }
    else
      let s2 := declare n s1
      if mine then endPause s2 else s2

/-- The packet of an output queue is the one that a command names: its channel may have changed as it was queued (R303). -/
def TxPkt.is (y : TxPkt) (x : Packet) : Bool := decide ({ y.hdr with dl := x.dl } = x)

/-- A packet older than 10 µs (R314): discarded, out of the queue it waits in, and counted at the port the command names (DESIGN CHOICE, log 72);
where neither its next link nor its ends are lost, the device stops. -/
def agedPacket (f : FPortNo) (x : Packet) (s : State) : State :=
  let old := s.fports.toList.flatMap (fun p => p.txq.filter (·.is x))
  let s0 : State := { s with fports := s.fports.map (fun p => { p with txq := p.txq.filter (fun y => !y.is x) }) }
  let s1 := (s0.each old txFreed).modFp f (fun p => { p with discard := p.discard + 1 })
  let dead := decide (x.cls.toNat ≤ 3) && (isLost s.node s.fabric x.dst || isLost s.node s.fabric x.src)
  let gone := match routePort s.node s.node.node x.src x.dst with
    | some out => !(s.fp out).carries
    | none => false
  if dead || gone || s.fabric.stopped then s1
  else stopDevice 7 5 0 (postEvent 0x53 5 [BitVec.ofNat 64 f.val] s1)

/-- A WARM flit (R459): held without loss in this device's own warm drain; else its sender is declared dead at once, and the link is lost from
then on, FPORT_LOSS holding the time (R311 does not list WARM among the causes of loss: DESIGN CHOICE, log 108). -/
def warmIn (f : FPortNo) (s : State) : State :=
  if !(s.fp f).carries then s
  else if s.crp.phase = .warmDrain then s.modFp f (fun x => { x with held := true })
  else declare (s.fp f).neigh (s.modFp f (fun x => { x with link := .lost, loss := s.gen.time }))

/-- A fabric link completes training (R315): for all traffic, or for VC4 and VC5 while its neighbour stands declared dead. -/
def fabricTrained (f : FPortNo) (neigh : NodeId) (s : State) : State :=
  let x := s.fp f
  if (decide (x.link = .training) || decide (x.link = .lost)) && x.en then
    let r := { s.fabric with reports := s.fabric.reports.filter (fun q => !(decide (q.1 = neigh) && decide (q.2.1 = s.node.node))) }
    { s with fabric := r }.setFp f { x with
      link := if isDead s.fabric neigh || isDead s.fabric s.node.node then .upMgmt else .up
      neigh := neigh, txSeq := 0, rxNext := 0, unacked := [], askRep := false, credits := Vector.replicate 12 32, pool := 5760, rest := [], run := 0,
      vc5Gap := 0, owe := [], hbSeen := false, hbDist := 0x7F, held := false, lostRep := false }
  else s

/-- A port not trained within 100 ms of step 10 is taken as lost, and its neighbour is declared dead (R468). -/
def trainTimeout (f : FPortNo) (s : State) : State :=
  let x := s.fp f
  if x.link ≠ .training then s
  else
    let s1 := s.setFp f { x with link := .lost, loss := s.gen.time }
    match neighbour s.node s.node.node f with
    | some n => declare n s1
    | none => s1

/-- A declared node is readmitted (R181, R313): its purge walk and directory-cache pass here, those for the nodes it cut off, and those of every
live member, which it has reported, are complete; a node of another domain, whose lines no cache of this one holds and no record of this one names, needs neither (R23). Links toward it carry all traffic again. -/
def readmit (n : NodeId) (s : State) : State :=
  let d := spGet {} s.fabric.live n.toNat
  if !d.dead then s
  else
    let s1 := { s with fabric := { s.fabric with live := spDel n.toNat s.fabric.live } }
    let back := ((s.fabric.live.map (fun c => BitVec.ofNat 18 c.1) ++ (members s.node).map (memNode s)).dedup).filter (fun x =>
      decide (x ≠ n) && decide (x ≠ s.node.node) && isLost s.node s.fabric x && !isLost s1.node s1.fabric x)
    let told := (livePeers s.node s.fabric).all (fun x => decide (domOf n ≠ domOf s.node.node) || d.told.contains x)
    let ready (x : NodeId) : Bool := let e := spGet {} s.fabric.live x.toNat; decide (domOf x ≠ domOf s.node.node) || (e.purge && e.pass)
    if n = s.node.node then
      (if s.fw.tabDone then
        postEvent 0x61 6 [n.setWidth 64] (s1.each fportNos (fun s f => s.modFp f (fun x =>
          if x.link = .upMgmt ∧ !isDead s.fabric x.neigh then { x with link := .up } else x)))
       else s)
    else if !(ready n && told && back.all ready) then s
    else
      let gone (x : NodeId) : Bool := decide (x = n) || back.contains x
      let s2 := { s1 with fabric := { s1.fabric with live := s1.fabric.live.filter (fun c => !gone (BitVec.ofNat 18 c.1)) } }
      let s3 := s2.modHome (fun h => { h with sweeps := h.sweeps.filter (fun w => !gone w.node) })
      postEvent 0x61 6 [n.setWidth 64] (s3.each fportNos (fun s f => s.modFp f (fun x =>
        if x.link = .upMgmt ∧ x.neigh = n then { x with link := .up } else x)))

/-! ### The commands -/

/-- FLIT (R299). -/
def execFlit (f : FPortNo) (x : FlitIn) (s : State) : Host.Outcome State Fault Refusal := onClock s (flitIn f x)
/-- TRANSIT_BYPASS (R307). -/
def execTransitBypass (f : FPortNo) (x : Packet) (s : State) : Host.Outcome State Fault Refusal := onClock s (transit f x)
/-- BROADCAST_REPLICATE (R308). -/
def execBroadcastReplicate (f : Option FPortNo) (x : Packet) (s : State) : Host.Outcome State Fault Refusal := onClock s (bcArrive f x)
/-- COMBINED_INVACK (R308). -/
def execCombinedInvack (m : BMsg) (cnt : Nat) (s : State) : Host.Outcome State Fault Refusal := onClock s (combGot m cnt)
/-- HEARTBEAT_SEND (R311). -/
def execHeartbeatSend (s : State) : Host.Outcome State Fault Refusal := onClock s heartbeatOut
/-- HEARTBEAT (R309). -/
def execHeartbeat (f : FPortNo) (time : W64) (dist : BitVec 7) (delay : W64) (s : State) : Host.Outcome State Fault Refusal :=
  onClock s (heartbeatIn f time dist delay)
/-- LINK_LOST (R311). -/
def execLinkLost (f : FPortNo) (c : LossCause) (s : State) : Host.Outcome State Fault Refusal := onClock s (loseLink f c)
/-- LINKLOST (R312). -/
def execLinklost (f : FPortNo) (n peer : NodeId) (t : W64) (s : State) : Host.Outcome State Fault Refusal := onClock s (linklostIn f n peer t)
/-- LINKLOST_DECISION (R312). -/
def execLinklostDecision (f : FPortNo) (s : State) : Host.Outcome State Fault Refusal := onClock s (linkDecision f)
/-- DECLARATION (R174, R312). -/
def execDeclaration (f : FPortNo) (n : NodeId) (s : State) : Host.Outcome State Fault Refusal := onClock s (declarationIn f n)
/-- PACKET_AGED (R314). -/
def execPacketAged (f : FPortNo) (x : Packet) (s : State) : Host.Outcome State Fault Refusal := onClock s (agedPacket f x)
/-- WARM (R459). -/
def execWarm (f : FPortNo) (s : State) : Host.Outcome State Fault Refusal := onClock s (warmIn f)
/-- FABRIC_LINK_TRAINED (R315). -/
def execFabricLinkTrained (f : FPortNo) (neigh : NodeId) (s : State) : Host.Outcome State Fault Refusal := onClock s (fabricTrained f neigh)
/-- FABRIC_TRAINING_TIMEOUT (R468). -/
def execFabricTrainingTimeout (f : FPortNo) (s : State) : Host.Outcome State Fault Refusal := onClock s (trainTimeout f)
/-- DEAD_REQUEST_TIMEOUT (R175). -/
def execDeadRequestTimeout (n : NodeId) (s : State) : Host.Outcome State Fault Refusal := onClock s (deadTimeout n)
/-- SWEEP_PASS_DONE (R178). -/
def execSweepPassDone (n : NodeId) (s : State) : Host.Outcome State Fault Refusal := onClock s (sweepDoneFor n)
/-- READMISSION (R181). -/
def execReadmission (n : NodeId) (s : State) : Host.Outcome State Fault Refusal := onClock s (fwDo (readmit n))

end Sys2Proof.Machine
end

