-- ==== Sys2Proof/Machine/Horizon.lean ====
section
/-! DEFINITION. Floors, horizons and settle points, and their combining in the fabric (R237 to R239, R253, R310). -/

namespace Sys2Proof.Machine

/-- The lower of two stamps. -/
def minW (a b : W64) : W64 := if b.ult a then b else a

/-- A request that counts as a stamped access: no hint and no exception (R237, R251). -/
def countsStamped (r : Req) : Bool := r.stamp.isSome && decide (r.op ≠ .pfHint) && decide (r.op ≠ .exc)

/-- Stamps of a port's unregistered stamped accesses (R237): waiting requests, requests sent and not registered, and buffered stores not
issued. -/
def unregistered (s : State) (p : Port) : List W64 :=
  let rs (l : List Req) : List W64 := (l.filter (fun r => decide (r.port = p) && countsStamped r)).filterMap (·.stamp)
  let es (l : List BufEnt) : List W64 := (l.filter (fun e => decide (e.port = p) && decide (e.st ≠ .issued))).filterMap (·.stamp)
  let ts (l : List STxn) : List W64 :=
    (l.filter (fun t => decide (t.port = p) && !t.reg && decide (t.st = .open_) && decide (t.kind ≠ .pfq))).filterMap (·.stamp)
  rs (s.hp p).queue ++ es (s.hp p).ntc ++ s.slices.toList.flatMap (fun x => rs x.waiters ++ rs (x.snpGrps.filterMap (fun g =>
    match g.act with | .host r => some r | .evictFor _ _ r => some r | _ => none)) ++ es x.wmb ++ ts x.stt)

/-- Port floor E_p (R237). -/
def portFloor (s : State) (p : Port) : W64 := (unregistered s p).foldl minW (s.hp p).floor

/-- Device floor D_d (R237). -/
def deviceFloor (s : State) : W64 :=
  (ports.filter (fun p => (s.hp p).stamped)).foldl (fun a p => minW a (portFloor s p)) (BitVec.allOnes 64)

/-- The device's settle value (R238). -/
def settleValue (s : State) : W64 :=
  let seats := s.home.seats.map (fun c => c.2.stamp)
  let txns := s.home.tt.filterMap (fun t => if t.claim.isNone then t.req.stamp else none)
  let granted := s.slices.toList.flatMap (fun x =>
    (x.stt.filter (fun t => decide (t.st = .heldGrant) || decide (t.st = .cmpAwaited))).filterMap (·.stamp))
  (seats ++ txns ++ granted).foldl minW (deviceFloor s)

/-- The tree root of a group: the member with the lowest node ID (R310). -/
def groupRoot (l : List NodeId) : Option NodeId :=
  match l with
  | [] => none
  | a :: t => some (t.foldl (fun x y => if y.toNat < x.toNat then y else x) a)

/-- The member list of a group in force for a period: that of a period which has not begun here yet is the one to come (R310). -/
def listFor (s : State) (g : BitVec 6) (k : W64) : List NodeId :=
  let l := spGet {} s.stamp.lists g.toNat
  if s.stamp.now.ult k then l.next else l.cur

/-- Members of a list that lie below this switch in the tree of a root, itself included. -/
def belowHere (s : State) (root : NodeId) (l : List NodeId) : List NodeId :=
  let here := s.node.node
  l.filter (fun x => decide (here = root) || decide (x = here) || (routeNodes s.node root x 96 root).contains here)

/-- Ports that lead to members below this switch. -/
def downPorts (s : State) (root : NodeId) (l : List NodeId) : List FPortNo :=
  let here := s.node.node
  fportNos.filter (fun f => (belowHere s root l).any (fun x => decide (x ≠ here) && decide (routePort s.node here root x = some f)))

/-- Send a report or a result of floors over a fabric port: a device that is a member of the group originates it, and holds it during a
pause (R312); another one forwards it. -/
def sendFloor (g : BitVec 6) (f : FPortNo) (m : Vc4) (s : State) : State :=
  if (spGet {} s.stamp.lists g.toNat).cur.contains s.node.node then originate (.vc4 f m) s else sendVc4 f m s

/-- A combined H and S reaches this device: passed on down the tree, and taken by a member where it is no lower than what it holds; the
grants below it are performed and the accesses below the settle point applied (R239, R248, R310). -/
def horizonResult (g : BitVec 6) (k h v : W64) (s : State) : State :=
  let l := listFor s g k
  let s1 := match groupRoot l with
    | some root => s.each (downPorts s root l) (fun s f => sendFloor g f (.floorResult g k h v) s)
    | none => s
  let st := s1.stamp
  if st.member && decide (st.group = g) then
    let up := st.hzn.ult h
    let s2 := { s1 with stamp := { st with
      hzn := if up then h else st.hzn, settle := if st.settle.ult v then v else st.settle, stalled := st.stalled && !up } }
    downMoves (s2.each sliceNos (fun s i => settle i (applyDue i s)))
  else
    let old := spGet 0 st.hzns g.toNat
    { s1 with stamp := { st with hzns := if old.ult h then spIns g.toNat h st.hzns else st.hzns } }

/-- A report enters the group's combining slot of this switch (R310): an earlier period's is dropped, a later period's abandons the slot;
with every member below counted it goes up the tree, or becomes the result at the root. -/
def floorCombine (g : BitVec 6) (k d v : W64) (cnt : Nat) (s : State) : State :=
  let l := listFor s g k
  let old := s.stamp.slots.find? (fun c => decide (c.1 = g.toNat))
  let put (x : FSlot) (s : State) : State := { s with stamp := { s.stamp with slots := spIns g.toNat x s.stamp.slots } }
  let clear (s : State) : State := { s with stamp := { s.stamp with slots := spDel g.toNat s.stamp.slots } }
  let go (x : FSlot) : State :=
    match groupRoot l with
    | none => put x s
    | some root =>
      if x.cnt ≠ (belowHere s root l).length then put x s
      else if root = s.node.node then horizonResult g x.k x.d x.s (clear s)
      else match (bcUp s root).bind (portTo s) with
        | some f => sendFloor g f (.floorReport g x.k x.d x.s x.cnt) (clear s)
        | none => clear s
  match old with
  | none => go ⟨k, d, v, cnt⟩
  | some (_, x) =>
    if k.ult x.k then s
    else if x.k.ult k then go ⟨k, d, v, cnt⟩
    else go ⟨k, minW x.d d, minW x.s v, x.cnt + cnt⟩

/-- A horizon period begins: the list changes that have reached every member take effect, and a member reports its floor and settle value
(R239, R310). `late`: the groups whose new list has not reached every member (log 45). -/
def periodStart (k : W64) (late : List (BitVec 6)) (s : State) : State :=
  let st := s.stamp
  let s1 := { s with stamp := { st with now := k, lists := (st.lists.map (fun c =>
    (c.1, if late.contains (BitVec.ofNat 6 c.1) then c.2 else { c.2 with cur := c.2.next }))).filter (fun c => decide (c.2 ≠ {})) } }
  if st.member then floorCombine st.group k (deviceFloor s1) (settleValue s1) 1 s1 else s1

/-- A stamped access of the device is outstanding (R253). -/
def stampedOut (s : State) : Bool := ports.any (fun p => (s.hp p).stamped && !portApplied s p)

/-- H has not advanced for LIMIT µs while a stamped access is outstanding: one stall event, which names the ports whose E_p is H
(R253). -/
def stampStalled (s : State) : State :=
  let st := s.stamp
  if st.member && decide (st.limit ≠ 0) && !st.stalled && stampedOut s then
    let mask := ports.foldl (fun (m : BitVec 4) p => setBit m p.val ((s.hp p).stamped && decide (portFloor s p = st.hzn))) 0
    evStampStall st.group mask 1 { s with stamp := { st with stalled := true } }
  else s

/-- HORIZON_PERIOD (R310). -/
def execHorizonPeriod (k : W64) (late : List (BitVec 6)) (s : State) : Host.Outcome State Fault Refusal := onClock s (periodStart k late)
/-- FLOOR_REPORT (R310). -/
def execFloorReport (g : BitVec 6) (k d v : W64) (cnt : Nat) (s : State) : Host.Outcome State Fault Refusal := onClock s (floorCombine g k d v cnt)
/-- HORIZON_RESULT (R239). -/
def execHorizonResult (g : BitVec 6) (k h v : W64) (s : State) : Host.Outcome State Fault Refusal := onClock s (horizonResult g k h v)
/-- STAMP_STALL (R253). -/
def execStampStall (s : State) : Host.Outcome State Fault Refusal := onClock s stampStalled

end Sys2Proof.Machine
end

