-- ==== Sys2Proof/Machine/Integrity.lean ====
section
/-! DEFINITION. The integrity block at work: patrol scrub, patrol periods, live repair, the leaky bucket, background zero-fill
and the voter check (R338 to R365, R416). -/

namespace Sys2Proof.Machine

/-! ### Voted registers (R416) -/

/-- A copy of a voted register with its minority bits rewritten. -/
def VReg.fixed (vm : W32) (v : VReg) : VReg :=
  let f (c : W32) : W32 := (c &&& ~~~vm) ||| (v.maj &&& vm)
  ⟨f v.c0, f v.c1, f v.c2⟩
/-- Copies of a voted register that differ from the majority. -/
def VReg.minority (vm : W32) (v : VReg) : Nat :=
  ([v.c0, v.c1, v.c2].filter (fun c => decide (c &&& vm ≠ v.maj &&& vm))).length

/-- Every register with voted fields, with their mask. -/
def State.vregs (s : State) : List (W32 × VReg) :=
  s.slices.toList.flatMap (fun x => [(vmWayLock, x.wayLock), (vmWdis, x.wdisCtl), (vmCacheCtl, x.cacheCtl)]) ++
    s.hports.toList.flatMap (fun h => [(vmLinkCtl, h.linkCtl), (vmSnpCtl, h.snpCtl)]) ++
    s.fports.toList.map (fun f => (vmFport, f.ctl)) ++
    [(vmLane, s.home.laneCtl), (vmPeriod, s.stamp.period), (vmStampWays, s.stamp.ways), (vmScrub, s.integ.scrubHbm),
     (vmScrub, s.integ.scrubDdr), (vmRepair, s.integ.repairCtl), (vmLb, s.integ.lbCtl), (0xFF, s.peat.ctl), (0xE, s.dbg.frzCtl),
     (1, s.crp.warmCtl)]

/-- A change of every register with voted fields, by its place in their order. -/
def State.mapVs (s : State) (f : Nat → W32 → VReg → VReg) : State :=
  { s with
    slices := s.slices.mapFinIdx (fun i x _ => { x with
      wayLock := f (3 * i) vmWayLock x.wayLock, wdisCtl := f (3 * i + 1) vmWdis x.wdisCtl, cacheCtl := f (3 * i + 2) vmCacheCtl x.cacheCtl })
    hports := s.hports.mapFinIdx (fun p h _ => { h with linkCtl := f (24 + 2 * p) vmLinkCtl h.linkCtl, snpCtl := f (25 + 2 * p) vmSnpCtl h.snpCtl })
    fports := s.fports.mapFinIdx (fun i x _ => { x with ctl := f (32 + i) vmFport x.ctl })
    home := { s.home with laneCtl := f 38 vmLane s.home.laneCtl }
    stamp := { s.stamp with period := f 39 vmPeriod s.stamp.period, ways := f 40 vmStampWays s.stamp.ways }
    integ := { s.integ with scrubHbm := f 41 vmScrub s.integ.scrubHbm, scrubDdr := f 42 vmScrub s.integ.scrubDdr,
                            repairCtl := f 43 vmRepair s.integ.repairCtl, lbCtl := f 44 vmLb s.integ.lbCtl }
    peat := { s.peat with ctl := f 45 0xFF s.peat.ctl }
    dbg := { s.dbg with frzCtl := f 46 0xE s.dbg.frzCtl }
    crp := { s.crp with warmCtl := f 47 1 s.crp.warmCtl } }

/-- A change of every register with voted fields. -/
def State.mapV (s : State) (f : W32 → VReg → VReg) : State := s.mapVs (fun _ => f)

/-- Bits of one copy of a voted register flip. -/
def VReg.hit (copy : BitVec 2) (bits : W32) (v : VReg) : VReg :=
  if copy = 0 then { v with c0 := v.c0 ^^^ bits } else if copy = 1 then { v with c1 := v.c1 ^^^ bits } else { v with c2 := v.c2 ^^^ bits }

/-- Every minority copy is rewritten from the majority, and counted in GEN_VOTEFIX (R416). -/
def voteRepair (s : State) : State :=
  let n := (s.vregs.map (fun c => c.2.minority c.1)).foldl (· + ·) 0
  let s1 := s.mapV VReg.fixed
  { s1 with gen := { s1.gen with voteFix := s1.gen.voteFix + BitVec.ofNat 64 n } }

/-! ### Patrol scrub (R344) -/

/-- Scrub reads run for a memory (R372 EN). -/
def scrubOn (x : Integ) (ddr : Bool) : Bool := bit ((if ddr then x.scrubDdr else x.scrubHbm).get vmScrub) 8

/-- A corrected copy that a scrub read leaves to write takes a pass of class SCRUB, once the walks that win against it have had theirs (R265,
R341). -/
def scrubbed (i : SliceNo) (again : Bool) (s : State) : State := if again then arbPass i .scrub 0 s else s

/-- Scrub of a slot TS: a set held in the shadow has it rewritten from there, the others are corrected or stop the device
(R39, R342). -/
def scrubTS (i : SliceNo) (set : Nat) (s : State) : State :=
  let x := s.sl i
  let mend (s : State) : State := scrubbed i true (s.modSl i (fun x => x.mendTS set))
  match x.shEntry set with
  | none =>
    let y := readTags i set s
    if y.1 && decide ((y.2.sl i).tsCond set ≠ .clean) then mend y.2 else y.2
  | some _ =>
    let c := x.tsCond set
    let s1 := recordSev i set 0 (spGet {} x.tsFlaw set).sev (decide (c = .clean)) s
    let errs := (spGet {} x.tsFlaw set).errs
    let loc := slotRow i set 0
    let ln := hbmRowSlot (BitVec.ofNat 23 set) 0
    match c with
    | .clean => s1
    | .corr syn => mend (if isRepeat s1 false loc ln syn then noteRepeat false loc s1 else counted false loc ln syn s1)
    | .unc => mend (counted false loc ln (Config.synFold false errs) s1)

/-- A data slot is read by the scrub: its way holds a line, is enabled and powered, and is not poisoned (R344). -/
def scrubs (x : Slice) (set w : Nat) : Bool :=
  x.holds set w && !bit (x.disMap (hbmRegion set)) w && !x.groupOff w && !(x.word set w).poison

/-- Scrub of a data slot: a corrected copy is written back (R341). -/
def scrubSlot (i : SliceNo) (set w : Nat) (s : State) : State :=
  let s1 := (readSlot i set w s).2.2
  match (s1.sl i).slotCond set w with
  | .corr _ => scrubbed i true (s1.modSl i (fun x => x.mendSlot set w))
  | _ => s1

/-- Lines of the installed size. -/
def ddrLines (s : State) : Nat := s.mem.size.toNat / 64

/-- Scrub of a DDR5 line: a corrected copy enters the write queue (R341); its pass carries the sweep of R178. -/
def scrubDdr (f : Nat) (s : State) : State :=
  let l := lineOfFrame s f
  let y := ddrRead l s
  let s1 := match ddrCond y.2 f with
    | .corr _ => ddrQueue f (ddrGet y.2 f) y.2
    | _ => y.2
  if s1.home.tt.any (fun t => decide (t.line = l)) then s1
  else match s1.home.entry f, y.1.bind (fun d => loadWord d.word) with
  | none, some r =>
    match s1.home.sweeps.find? (fun w => r.names (memOf w.node)) with
    | some w => sweepRec (memOf w.node) l r s1
    | none => s1
  | _, _ => s1

/-! ### Upsets of the on-die arrays (R357, R358) -/

/-- An error in an entry of a buffer, found as its data is read: corrected and counted, or beyond correction: counted, posted with the unit
and the line, and the entry's data marked poisoned (R342, R357, R359). -/
def bufError (unit : Nat) (l : Option LAddr) (unc : Bool) (mark : State → State) (s : State) : State :=
  if unc then
    mark (postEvent 0x20 2 [BitVec.ofNat 64 (unit * 2 ^ 40), match l with | some x => (lineAddr x).setWidth 64 | none => 0]
      { s with integ := { s.integ with bufUnc := s.integ.bufUnc + 1 } })
  else bufCorrected s

/-- The data of a write that waits in a DDR5 queue is poisoned: its directory word says so, and the record of a line that the cache or a
transaction holds (R355). -/
def poisonQueued (f : Nat) (s : State) : State :=
  let l := lineOfFrame s f
  let word (w : W32) : W32 := packWord { (loadWord w).getD {} with poison := true }
  let s1 := { s with mem := { s.mem with wq := s.mem.wq.map (fun (c : Nat × DLine) => if c.1 = f then (f, { c.2 with word := word c.2.word }) else c) } }
  let s2 := match s1.home.entry f with
    | some (_, e) => dirSet f { e.recd with poison := true } s1
    | none => s1
  stampHit l (s2.modHome (fun h => { h with tt := h.tt.map (fun (t : HTxn) =>
    if t.line = l then { t with recd := { t.recd with poison := true }, after := { t.after with poison := true } } else t) }))

/-- The oldest response with data that a host port holds is poisoned (R355). -/
def poisonHeld : List ToHost → List ToHost
  | [] => []
  | .cmpData e st g q _ n d :: t => .cmpData e st g q true n d :: t
  | m :: t => m :: poisonHeld t

/-- A transaction of a slice holds line data in its buffer. -/
def STxn.hasData (t : STxn) : Bool := decide (t.st ≠ .open_) || decide (t.kind = .wrU)

/-- What an upset leaves: a table cell with bad parity, found when it is next read; an error in a buffer entry, found at once (log 86). -/
def upset (u : Upset) (s : State) : State :=
  match u with
  | .shadow i set e => s.modSl i (fun x => { x with shadow := spMod {} set.toNat (fun q =>
      { q with ents := vset q.ents e.toNat { vget q.ents e.toNat {} with bad := (vget q.ents e.toNat {}).valid } }) x.shadow })
  | .hint i n => s.modSl i (fun x => { x with hints := spMod { val := 15 } n.toNat (fun c => { c with bad := true }) x.hints })
  | .predictor i n => s.modSl i (fun x => { x with predict := spMod { val := 0 } n.toNat (fun c => { c with bad := true }) x.predict })
  | .policy b => { s with node := { s.node with wtBad := if s.node.wtBad.contains b.toNat then s.node.wtBad else s.node.wtBad ++ [b.toNat] } }
  | .rsv p k => s.modHp p (fun h =>
      if h.rsv.any (fun c => decide (c.1 = k.toNat)) && !h.rsvBad.contains k.toNat then { h with rsvBad := h.rsvBad ++ [k.toNat] } else h)
  | .hist n => { s with integ := { s.integ with hist := s.integ.hist.map (fun c => if c.1 = n.toNat then (c.1, { c.2 with bad := true }) else c) } }
  | .dir set w => s.modHome (fun h => { h with dir := spMod {} set.toNat (fun q =>
      { q with ents := vset q.ents w.toNat ((vget q.ents w.toNat none).map (fun e => { e with bad := true })) }) h.dir })
  | .wmb i id unc =>
    match (s.sl i).wmb.find? (fun e => decide (e.id = id)) with
    | some e => bufError i.val (some e.line) unc (fun s => s.modSl i (fun x => { x with wmb := modEnt id (fun e => { e with poison := true }) x.wmb })) s
    | none => s
  | .ntc p id unc =>
    match (s.hp p).ntc.find? (fun e => decide (e.id = id)) with
    | some e => bufError (sliceOf e.line).val (some e.line) unc
        (fun s => s.modHp p (fun h => { h with ntc := modEnt id (fun e => { e with poison := true }) h.ntc })) s
    | none => s
  | .cw i l unc =>
    if (s.sl i).cw.any (fun e => decide (e.line = l)) then
      bufError i.val (some l) unc (fun s => s.modSl i (fun x => { x with cw := modFirst (fun e => decide (e.line = l)) (fun e => { e with poison := true }) x.cw })) s
    else s
  | .rb i l unc =>
    if (s.sl i).rb.any (fun e => decide (e.line = l) && !e.awaited) then
      bufError i.val (some l) unc (fun s => s.modSl i (fun x => { x with rb := modFirst (fun e => decide (e.line = l)) (fun e => { e with poison := true }) x.rb })) s
    else s
  | .slcTxn i n unc =>
    match (s.sl i).stt.find? (fun t => decide (t.rtid = n) && t.hasData) with
    | some t => bufError i.val (some t.line) unc (modTxn i n (fun t => { t with poison := true })) s
    | none => s
  | .homeTxn n unc =>
    match s.home.at_ n.toNat with
    | some t => if t.got.isSome || decide (t.kind = .wrU) || !t.puts.isEmpty then
        bufError 8 (some t.line) unc (modT n.toNat (fun t => { t with
          got := t.got.map (fun g => (g.1, true, g.2.2))
          req := { t.req with poison := t.req.poison || decide (t.kind = .wrU) }
          puts := t.puts.map (fun p => (p.1, { p.2.1 with poison := true }, p.2.2)) })) s
      else s
    | none => s
  | .queued f unc =>
    if s.mem.wq.any (fun c => decide (c.1 = f.toNat)) then bufError 8 (some (lineOfFrame s f.toNat)) unc (poisonQueued f.toNat) s else s
  | .response p unc =>
    let data (m : ToHost) : Bool := match m with | .cmpData _ _ _ _ _ _ _ => true | _ => false
    if (s.hp p).txq.any data then bufError 0 none unc (fun s => s.modHp p (fun h => { h with txq := poisonHeld h.txq })) s
    else if (s.hp p).heldOut.any data then bufError 0 none unc (fun s => s.modHp p (fun h => { h with heldOut := poisonHeld h.heldOut })) s
    else s
  | .hbm i set slot es sv =>
    s.modSl i (fun x =>
      if slot = 0 then { x with tsFlaw := spMod {} set.toNat (Flaw.hit 72 es sv) x.tsFlaw }
      else { x with slotFlaw := spMod {} (slotKey set.toNat (slot.toNat - 1)) (Flaw.hit 72 es sv) x.slotFlaw })
  | .vote k copy bits => s.mapVs (fun j vm v => if j = k.toNat then v.hit copy (bits &&& vm) else v)
  | .line f es => { s with mem := { s.mem with ddrFlaw := spMod {} f.toNat (Flaw.hit 80 es .none_) s.mem.ddrFlaw } }

/-- Corrections of an on-die array row within 24 h, by the AON clock of 25 MHz (R354, R450). -/
def dayCycles : Nat := 24 * 3600 * 25000000

/-- A parity or SEC-DED error in a row of an on-die array is corrected: the fourth within 24 h records the row, whose spare is switched in at
the next reset (R354). -/
def arrayCount (row : BitVec 16) (s : State) : State :=
  let now := s.aon.cycles
  let ts := ((spGet [] s.integ.arrayErrs row.toNat).filter (fun t => decide ((now - t).toNat < dayCycles))) ++ [now]
  let s1 := { s with integ := { s.integ with arrayErrs := spSet [] row.toNat ts s.integ.arrayErrs } }
  if ts.length < 4 then s1 else enterMap (.array row) s1

/-- The error of an upset is one that its checker corrects (R357, R358). -/
def upsetFixed : Upset → Bool
  | .wmb _ _ unc | .ntc _ _ unc | .cw _ _ unc | .rb _ _ unc | .slcTxn _ _ unc | .homeTxn _ unc | .queued _ unc | .response _ unc => !unc
  | .shadow _ _ _ | .hint _ _ | .predictor _ _ | .policy _ | .rsv _ _ | .hist _ | .dir _ _ => true
  | .hbm _ _ _ _ _ | .line _ _ | .vote _ _ _ => false

/-- The pass of a memory has read its last location: it waits for the end of the period, or, when it was late, the next pass begins
at once (R345). -/
def passEnd (ddr : Bool) (s : State) : State :=
  let x := if ddr then { s.integ with posDdr := 0 } else { s.integ with posHbm := 0 }
  { s with integ :=
    if ddr then (if x.lateDdr then { x with lateDdr := false } else { x with passDdr := true })
    else (if x.lateHbm then { x with lateHbm := false } else { x with passHbm := true }) }

/-- The HBM location at a place of the pass, by slice, set and slot, or the next one that the scrub does not skip: each set's slot TS, then the data slots of
its ways (R344). The slices come one after another (DESIGN CHOICE, log 110). -/
def hbmNext (s : State) (p : Nat) : Option (SliceNo × Nat × Nat) :=
  let at_ (k : Nat) : Option (SliceNo × Nat × Nat) :=
    if k < 2 ^ 30 then some ((BitVec.ofNat 3 (k / 2 ^ 27)).toFin, k / 16 % 2 ^ 23, k % 16) else none
  match at_ p with
  | none => none
  | some (i, set, slot) =>
    if slot = 0 then some (i, set, 0)
    else match (List.range 15).find? (fun w => decide (slot ≤ w + 1) && scrubs (s.sl i) set w) with
      | some w => some (i, set, w + 1)
      | none => at_ ((p / 16 + 1) * 16)

/-- The DDR5 line at a place of the pass, or the next one in a block that is filled, in frame order (R344). -/
def ddrNext (s : State) (p : Nat) : Option Nat :=
  let m := s.mem
  let f : Option Nat := if m.isFilled (blockOf p) then some p
    else ((m.fillMap.filter (fun b => decide (blockOf p ≤ b))).min?).map (fun b => b * 2 ^ 15)
  f.filter (fun f => decide (f < ddrLines s))

/-- The next location of the pass of a memory is read (R344): once in a pass, which waits for its period's end when it is done. -/
def scrubRead (ddr : Bool) (s : State) : State :=
  let x := s.integ
  if !scrubOn x ddr || (if ddr then x.passDdr || decide (s.mem.size = 0) else x.passHbm) then s
  else if ddr then
    match ddrNext s x.posDdr with
    | none => passEnd true s
    | some f =>
      let s1 := scrubDdr f { s with integ := { x with posDdr := f + 1 } }
      if (ddrNext s1 s1.integ.posDdr).isNone then passEnd true s1 else s1
  else match hbmNext s x.posHbm with
    | none => passEnd false s
    | some (i, set, slot) =>
      let s0 := { s with integ := { x with posHbm := hbmKey i set slot + 1 } }
      let s1 := if slot = 0 then scrubTS i set s0 else scrubSlot i set (slot - 1) s0
      if (hbmNext s1 s1.integ.posHbm).isNone then passEnd false s1 else s1

/-! ### Patrol periods (R345, R347) -/

/-- A history row at the end of its memory's period (R347); `none`: freed. -/
def HistRow.aged (r : HistRow) : Option HistRow :=
  if r.carry then none
  else if r.wb then some { r with carry := true, count := 0 }
  else if r.repairq then some r
  else none

/-- A patrol period of a memory ends by time (R345, R347, R349, R57). -/
def periodEnd (ddr : Bool) (s : State) : State :=
  let x := s.integ
  let done := if ddr then x.passDdr else x.passHbm
  let x1 := { x with
    hist := x.rows.filterMap (fun (c : Nat × HistRow) => if c.2.ddr = ddr then c.2.aged.map (fun r => (c.1, r)) else some c)
    ovf := false, ovfPosted := false }
  let x2 := if done then (if ddr then { x1 with passDdr := false } else { x1 with passHbm := false })
    else (if ddr then { x1 with lateDdr := true, scrubLate := x1.scrubLate + 1 } else { x1 with lateHbm := true, scrubLate := x1.scrubLate + 1 })
  let s1 := { s with integ := x2 }
  let s2 := if done then s1 else postEvent 0x24 2 [if ddr then 1 else 0] s1
  if ddr then s2 else s2.each sliceNos (fun s i => s.modSl i (fun x => { x with corCnt := [] }))

/-! ### Live repair (R350, R351) -/

/-- The data of a repaired DRAM row is written back into its spare (R351). -/
def respared (r : RepLoc) (s : State) : State :=
  match r with
  | .hbm l => rewriteRow false l s
  | .ddr l => rewriteRow true l s
  | .array _ => s

/-- A pending entry is applied, or finds no spare left (R347, R351). -/
def repairEnd (r : RepLoc) (ok : Bool) (s : State) : State :=
  let x := s.integ
  if ok then
    let freed (h : HistRow) : Bool := match r with
      | .hbm l => !h.ddr && decide (h.loc = l)
      | .ddr l => h.ddr && decide (h.loc = l)
      | .array _ => false
    evRepair 1 r.loc <| respared r <| repState r .applied { s with integ := { x with
      repairs := x.repairs + 1, inForce := if x.inForce.contains r then x.inForce else x.inForce ++ [r], hist := x.hist.filter (fun c => !freed c.2) } }
  else
    peatEnter (mkRec 0x32 2 (bodyAt 24 r.loc)) (evRepair 2 r.loc (repState r .exhausted s))

/-- The live repair in progress ends. -/
def liveEnd (ok : Bool) (s : State) : State :=
  match s.integ.live with
  | none => s
  | some r => repairEnd r ok { s with integ := { s.integ with live := none } }

/-! ### The leaky bucket (R360) -/

/-- One unit leaks. -/
def leakOne (s : State) : State :=
  let x := s.integ
  if !x.lbEn ∨ x.level = 0 then s
  else
    let lv := x.level - 1
    { s with integ := { x with level := lv, overThr := x.overThr && decide (x.lbThr / 2 < lv.toNat) } }

/-! ### Background zero-fill (R361 to R364) -/

/-- The filler completes a block in background order; it serves the fill slots first (R363). -/
def fillBlock (s : State) : State :=
  let m := s.mem
  if !m.fill1g || m.filled || !m.fillSlots.isEmpty || decide (ddrBlocks s ≤ m.fillBlk) then s
  else fillAdvance { s with mem := { m with fillMap := m.fillBlk :: m.fillMap } }

/-- The oldest write that is held takes a slot that is free, for its block and every write of it (R364). -/
def heldRelease (s : State) : State :=
  match s.mem.wq.find? (fun c => !s.mem.open_ c.1) with
  | none => s
  | some c => takeSlot c.1 s

/-! ### The commands -/

/-- PATROL_SCRUB_READ (R344). -/
def execPatrolScrubRead (ddr : Bool) (ups : List (BitVec 16 × Upset)) (s : State) :
    Host.Outcome State Fault Refusal :=
  onClock s (fun s => scrubRead ddr (s.each ups (fun s u => if upsetFixed u.2 then arrayCount u.1 (upset u.2 s) else upset u.2 s)))
/-- PATROL_PERIOD_END (R345). -/
def execPatrolPeriodEnd (ddr : Bool) (s : State) : Host.Outcome State Fault Refusal := onClock s (periodEnd ddr)
/-- LIVE_REPAIR_DONE (R351). -/
def execLiveRepairDone (ok : Bool) (s : State) : Host.Outcome State Fault Refusal := onClock s (liveEnd ok)
/-- LEAK (R360). -/
def execLeak (s : State) : Host.Outcome State Fault Refusal := onClock s leakOne
/-- BACKGROUND_FILL_BLOCK (R361). -/
def execBackgroundFillBlock (s : State) : Host.Outcome State Fault Refusal := onClock s fillBlock
/-- FILL_SLOT_DONE (R363). -/
def execFillSlotDone (b : BitVec 20) (s : State) : Host.Outcome State Fault Refusal := onClock s (slotDone b.toNat)
/-- HELD_WRITE_RELEASE (R364). -/
def execHeldWriteRelease (s : State) : Host.Outcome State Fault Refusal := onClock s heldRelease
/-- VOTE_CHECK (R416). -/
def execVoteCheck (s : State) : Host.Outcome State Fault Refusal := onClock s voteRepair

end Sys2Proof.Machine
end

