-- ==== Sys2Proof/Machine/Regs.lean ====
section
/-! DEFINITION. The register map (R422 to R449 and the register tables of every chapter): which register an offset names, and what
a read of it returns. -/

namespace Sys2Proof.Machine

/-! ### The registers -/

/-- The registers of the window; `none_`: an offset of a block that names no register, `half`: a word of a 64-bit value. -/
inductive Reg
  | genId | genSelf | genScratch | genUnlock | genKeystat | genAccerr | genSem (n : Fin 8)
  | mbxIn (p k : Port) | mbxInack (p k : Port) | mbxOut (p k : Port) | mbxOutack (p k : Port) | mbxStat (p : Port)
  | mbxIrqEn (p : Port) | mbxIrqStat (p : Port) | mbxParam (p : Port) (word : Nat)
  | evqCtl | evqFilter | evqWr | evqRd | evqMark | evqStat
  | indAddr | indData | indCtl | indStat
  | slcId (s : SliceNo) | slcTtStat (s : SliceNo) | slcWaylock (s : SliceNo) | slcWaystat (s : SliceNo)
  | slcWdisCtl (s : SliceNo) | slcLookupCtl (s : SliceNo) | slcCacheCtl (s : SliceNo) | slcCacheStat (s : SliceNo)
  | slcWmbCtl (s : SliceNo) | slcCwCtl (s : SliceNo) | slcRbCtl (s : SliceNo) | slcBufstat (s : SliceNo)
  | slcRetryCtl (s : SliceNo) | slcAmoCtl (s : SliceNo) | slcDirty (s : SliceNo) | slcWdisMap (s : SliceNo) (n : Nat)
  | homeLaneCtl | homeStat | homeRelocStat | ordRsv (p : Port) | ordBar (p : Port)
  | stampCtl | stampPeriod | stampWays | stampStall | stampSeats
  | arbPrio | arbAge | arbBurst | arbSluice | arbSluiceStat
  | hportLinkCtl (p : Port) | hportLinkStat (p : Port) | hportEmhId (p : Port) | hportCredit (p : Port)
  | hportNtcCtl (p : Port) | hportPfCtl (p : Port) | hportSnpCtl (p : Port) | hportCtrA (p : Port) | hportCtrB (p : Port)
  | hportCtrStat (p : Port)
  | fportNode | fportTopo | fportTroot | fportCtl (f : FPortNo) | fportStat (f : FPortNo)
  | memhStat | memdCfg | memdStat
  | integScrub (ddr : Bool) | integChtStat | integRepairCtl | integRepairStat | integLbCtl | integLbStat | integBist
  | crpStat | crpClkstat | crpBoot | crpWarmCtl
  | dbgFrzCtl | dbgPeatCtl | dbgPeatNext | dbgPeatOldest | dbgPeatStat | dbgPmuCtl | dbgPmuSel (n : Fin 8)
  | half | none_
deriving DecidableEq, Repr

/-- Port number of an index. -/
def portNo (n : Nat) : Port := ⟨n % 4, Nat.mod_lt n (by decide)⟩
/-- Slice number of an index. -/
def sliceNo (n : Nat) : SliceNo := ⟨n % 8, Nat.mod_lt n (by decide)⟩
/-- Fabric port number of an index. -/
def fportNo (n : Nat) : FPortNo := ⟨n % 6, Nat.mod_lt n (by decide)⟩

/-- The offset lies in a block (R422, R424). -/
def inBlock (off : Nat) : Bool :=
  decide (off < 0x14000) || (decide (0x20000 ≤ off) && decide (off < 0x40000)) ||
    (decide (0x100000 ≤ off) && decide (off < 0x180000)) || (decide (0x200000 ≤ off) && decide (off < 0x240000)) ||
    (decide (0x300000 ≤ off) && decide (off < 0x340000)) || (decide (0x380000 ≤ off) && decide (off < 0x3E0000)) ||
    (decide (0x400000 ≤ off) && decide (off < 0x430000)) || (decide (0x500000 ≤ off) && decide (off < 0x510000)) ||
    (decide (0x600000 ≤ off) && decide (off < 0x610000))

/-- The mailbox block an offset lies in (R383). -/
def mbxBlock (off : Nat) : Option Port := if 0x10000 ≤ off ∧ off < 0x14000 then some (portNo ((off - 0x10000) / 0x1000)) else none

/-- The register of GEN at an offset (R425 to R431). -/
def regGen (o : Nat) : Reg :=
  match o with
  | 0x00 => .genId | 0x04 => .genSelf | 0x08 => .genScratch | 0x0C => .genUnlock | 0x10 => .genKeystat | 0x14 => .genAccerr
  | 0x20 => .genSem 0 | 0x24 => .genSem 1 | 0x28 => .genSem 2 | 0x2C => .genSem 3
  | 0x30 => .genSem 4 | 0x34 => .genSem 5 | 0x38 => .genSem 6 | 0x3C => .genSem 7
  | _ => .none_

/-- The register of a mailbox block at an offset (R433 to R439). -/
def regMbx (p : Port) (o : Nat) : Reg :=
  if o < 0x10 then .mbxIn p (portNo (o / 4))
  else if o < 0x20 then .mbxInack p (portNo (o / 4))
  else if o < 0x30 then .mbxOut p (portNo (o / 4))
  else if o < 0x40 then .mbxOutack p (portNo (o / 4))
  else if o = 0x40 then .mbxStat p
  else if o = 0x44 then .mbxIrqEn p
  else if o = 0x48 then .mbxIrqStat p
  else if 0x800 ≤ o then .mbxParam p ((o - 0x800) / 4)
  else .none_

/-- The register of EVQ at an offset (R440 to R443). -/
def regEvq (o : Nat) : Reg :=
  match o with
  | 0x00 => .evqCtl | 0x04 => .evqFilter | 0x08 => .evqWr | 0x0C => .evqRd | 0x10 => .evqMark | 0x14 => .evqStat | _ => .none_

/-- The register of IND at an offset (R445 to R447). -/
def regInd (o : Nat) : Reg :=
  match o with
  | 0x00 => .indAddr | 0x04 => .indData | 0x08 => .indCtl | 0x0C => .indStat | _ => .none_

/-- The register of a slice at an offset (R448). -/
def regSlc (s : SliceNo) (o : Nat) : Reg :=
  if 0x100 ≤ o ∧ o < 0x200 then .slcWdisMap s ((o - 0x100) / 4)
  else
    match o with
    | 0x00 => .slcId s | 0x04 => .slcTtStat s | 0x40 => .slcWaylock s | 0x44 => .slcWaystat s | 0x48 => .slcWdisCtl s
    | 0x4C => .slcLookupCtl s | 0x50 => .slcCacheCtl s | 0x54 => .slcCacheStat s | 0x58 => .slcWmbCtl s | 0x5C => .slcCwCtl s
    | 0x60 => .slcRbCtl s | 0x64 => .slcBufstat s | 0x68 => .slcRetryCtl s | 0x6C => .slcAmoCtl s | 0xA0 => .slcDirty s
    | _ => .none_

/-- The register of a host port at an offset (R316 to R319, R111, R112, R146, R261 to R263). -/
def regHport (p : Port) (o : Nat) : Reg :=
  match o with
  | 0x00 => .hportLinkCtl p | 0x04 => .hportLinkStat p | 0x08 => .hportEmhId p | 0x0C => .hportCredit p
  | 0x100 => .hportNtcCtl p | 0x104 => .hportPfCtl p | 0x108 => .hportSnpCtl p
  | 0x110 => .hportCtrA p | 0x114 => .hportCtrB p | 0x118 => .hportCtrStat p | _ => .none_

/-- The register of a fabric port at an offset (R321 to R325). -/
def regFport (f : FPortNo) (o : Nat) : Reg :=
  match o with
  | 0x00 => .fportNode | 0x04 => .fportTopo | 0x08 => .fportTroot | 0x0C => .fportCtl f | 0x10 => .fportStat f | _ => .none_

/-- The register of one of the single blocks at an offset, by the block's number of 64 KiB. -/
def regMisc (b o : Nat) : Reg :=
  match b, o with
  | 0x20, 0x00 => .homeLaneCtl | 0x20, 0x04 => .homeStat | 0x20, 0x08 => .homeRelocStat
  | 0x21, 0x00 => .ordRsv 0 | 0x21, 0x04 => .ordRsv 1 | 0x21, 0x08 => .ordRsv 2 | 0x21, 0x0C => .ordRsv 3
  | 0x21, 0x10 => .ordBar 0 | 0x21, 0x14 => .ordBar 1 | 0x21, 0x18 => .ordBar 2 | 0x21, 0x1C => .ordBar 3
  | 0x22, 0x00 => .stampCtl | 0x22, 0x04 => .stampPeriod | 0x22, 0x08 => .stampWays | 0x22, 0x0C => .stampStall
  | 0x22, 0x40 => .stampSeats
  | 0x23, 0x00 => .arbPrio | 0x23, 0x04 => .arbAge | 0x23, 0x08 => .arbBurst | 0x23, 0x10 => .arbSluice | 0x23, 0x14 => .arbSluiceStat
  | 0x40, 0x00 => .memhStat
  | 0x41, 0x00 => .memdCfg | 0x41, 0x04 => .memdStat
  | 0x42, 0x00 => .integScrub false | 0x42, 0x04 => .integScrub true | 0x42, 0x08 => .integChtStat | 0x42, 0x0C => .integRepairCtl
  | 0x42, 0x10 => .integRepairStat | 0x42, 0x14 => .integLbCtl | 0x42, 0x18 => .integLbStat | 0x42, 0x1C => .integBist
  | 0x50, 0x00 => .crpStat | 0x50, 0x04 => .crpClkstat | 0x50, 0x08 => .crpBoot | 0x50, 0x0C => .crpWarmCtl
  | 0x60, 0x00 => .dbgFrzCtl | 0x60, 0x10 => .dbgPeatCtl | 0x60, 0x14 => .dbgPeatNext | 0x60, 0x18 => .dbgPeatOldest
  | 0x60, 0x1C => .dbgPeatStat | 0x60, 0x40 => .dbgPmuCtl
  | 0x60, 0x60 => .dbgPmuSel 0 | 0x60, 0x64 => .dbgPmuSel 1 | 0x60, 0x68 => .dbgPmuSel 2 | 0x60, 0x6C => .dbgPmuSel 3
  | 0x60, 0x70 => .dbgPmuSel 4 | 0x60, 0x74 => .dbgPmuSel 5 | 0x60, 0x78 => .dbgPmuSel 6 | 0x60, 0x7C => .dbgPmuSel 7
  | _, _ => .none_

/-- The register at a window offset, a multiple of 4 (R422). -/
def regAt (off : Nat) : Reg :=
  let b := off / 0x10000
  let o := off % 0x10000
  if b = 0 then regGen o
  else if b = 1 then (match mbxBlock off with | some p => regMbx p (off % 0x1000) | none => .none_)
  else if b = 2 then regEvq o
  else if b = 3 then regInd o
  else if 0x10 ≤ b ∧ b < 0x18 then regSlc (sliceNo (b - 0x10)) o
  else if 0x30 ≤ b ∧ b < 0x34 then regHport (portNo (b - 0x30)) o
  else if 0x38 ≤ b ∧ b < 0x3E then regFport (fportNo (b - 0x38)) o
  else regMisc b o

/-! ### 64-bit values (R420) -/

/-- The 64-bit value of a slice whose _LO lies at an offset (R66, R110, R228). -/
def slcVal (x : Slice) (o : Nat) : Option W64 :=
  match o with
  | 0x80 => some x.shHit | 0x88 => some x.shMiss | 0x90 => some x.hintOk | 0x98 => some x.hintBad
  | 0xA8 => some x.pfUse | 0xB0 => some x.pfWaste | 0xB8 => some x.amoNear | 0xC0 => some x.amoFar | _ => none
/-- The 64-bit values of a host port (R320, R264). -/
def hportVal (h : HPort) (o : Nat) : Option W64 :=
  match o with
  | 0x40 => some h.replay | 0x48 => some h.recov | 0x50 => some h.retry | 0x58 => some h.down | 0x60 => some h.hostErr
  | 0x120 => some h.cmiss | 0x128 => some h.crefuse | 0x130 => some h.caccept | _ => none
/-- The 64-bit values of a fabric port (R326, R327). -/
def fportVal (x : FPort) (o : Nat) : Option W64 :=
  match o with
  | 0x18 => some x.loss | 0x40 => some x.fecCor | 0x48 => some x.fecUnc | 0x50 => some x.crcErr | 0x58 => some x.replayC
  | 0x60 => some x.discard | 0x68 => some x.transit | _ => none
/-- The 64-bit values of the home (R194). -/
def homeVal (h : Home) (o : Nat) : Option W64 :=
  match o with
  | 0x80 => some h.nbusy | 0x88 => some h.nage | 0x90 => some h.nmoved | 0x98 => some h.ndead | 0xA0 => some h.ncontract
  | 0xA8 => some h.stalePut | 0xB0 => some h.dperr | 0xB8 => some h.reclaim | 0xC0 => some h.poisoned | 0xC8 => some h.deadDisc
  | _ => none
/-- The ORD counters of a port (R231). -/
def ordVal (h : HPort) (o : Nat) : Option W64 :=
  match o with
  | 0x00 => some h.cstOk | 0x08 => some h.cstFail | 0x10 => some h.cstUnsup | 0x18 => some h.atomErr | _ => none
/-- The 64-bit values of STAMP (R277, R279). -/
def stampVal (s : State) (o : Nat) : Option W64 :=
  match o with
  | 0x10 => some s.stamp.hzn | 0x18 => some s.stamp.settle
  | 0x20 => some (portFloor s 0) | 0x28 => some (portFloor s 1) | 0x30 => some (portFloor s 2) | 0x38 => some (portFloor s 3)
  | 0x80 => some s.stamp.viol | 0x88 => some s.stamp.nstamp | 0x90 => some s.stamp.turn | _ => none
/-- The integrity counters (R379). -/
def integVal (x : Integ) (o : Nat) : Option W64 :=
  match o with
  | 0x80 => some x.hcor | 0x88 => some x.hunc | 0x90 => some x.dcor | 0x98 => some x.dunc | 0xA0 => some x.repeat_
  | 0xA8 => some x.bufCor | 0xB0 => some x.bufUnc | 0xB8 => some x.rowWb | 0xC0 => some x.repairs | 0xC8 => some x.chtOvfC
  | 0xD0 => some x.scrubLate | _ => none
/-- The queue a master reads; the management cores have none (R408). -/
def masterPort (m : Master) : Option Port := if h : m.val < 4 then some ⟨m.val, h⟩ else none

/-- The 64-bit value whose _LO lies at an offset of the window, as a master reads it (R420). -/
def val64 (s : State) (m : Master) (off : Nat) : Option W64 :=
  let b := off / 0x10000
  let o := off % 0x10000
  if off % 8 ≠ 0 then none
  else if b = 0 then (match o with | 0x40 => some s.gen.time | 0x80 => some s.gen.voteFix | 0x88 => some s.gen.keyFail | _ => none)
  else if b = 2 then
    (if o = 0x18 then some (match masterPort m with | some p => (s.eq p).drop | none => 0)
     else if 0x8000 ≤ o then some (match masterPort m with | some p => spGet 0 (s.eq p).ring ((o - 0x8000) / 8) | none => 0)
     else none)
  else if 0x10 ≤ b ∧ b < 0x18 then slcVal (s.sl (sliceNo (b - 0x10))) o
  else if b = 0x20 then homeVal s.home o
  else if b = 0x21 then (if 0x80 ≤ o ∧ o < 0x100 then ordVal (s.hp (portNo ((o - 0x80) / 0x20))) ((o - 0x80) % 0x20) else none)
  else if b = 0x22 then stampVal s o
  else if 0x30 ≤ b ∧ b < 0x34 then hportVal (s.hp (portNo (b - 0x30))) o
  else if 0x38 ≤ b ∧ b < 0x3E then fportVal (s.fp (fportNo (b - 0x38))) o
  else if b = 0x40 then
    (if 0x80 ≤ o ∧ o < 0xC0 then
       some (if (o - 0x80) % 16 = 0 then vget s.mem.sevCor ((o - 0x80) / 16) 0 else vget s.mem.sevUnc ((o - 0x80) / 16) 0)
     else none)
  else if b = 0x41 then (match o with | 0x08 => some (BitVec.ofNat 64 (s.mem.fillBlk * 2 ^ 21)) | 0x10 => some s.mem.size | _ => none)
  else if b = 0x42 then integVal s.integ o
  else if b = 0x60 then (if 0x80 ≤ o ∧ o < 0xC0 then some (vget s.dbg.pmuCnt ((o - 0x80) / 8) 0) else none)
  else none

/-! ### Registers with voted fields (R416) -/

/-- A register with voted fields, with their mask. -/
def State.vreg (s : State) : Reg → Option (W32 × VReg)
  | .slcWaylock i => some (vmWayLock, (s.sl i).wayLock)
  | .slcWdisCtl i => some (vmWdis, (s.sl i).wdisCtl)
  | .slcCacheCtl i => some (vmCacheCtl, (s.sl i).cacheCtl)
  | .homeLaneCtl => some (vmLane, s.home.laneCtl)
  | .stampPeriod => some (vmPeriod, s.stamp.period)
  | .stampWays => some (vmStampWays, s.stamp.ways)
  | .hportLinkCtl p => some (vmLinkCtl, (s.hp p).linkCtl)
  | .hportSnpCtl p => some (vmSnpCtl, (s.hp p).snpCtl)
  | .fportCtl f => some (vmFport, (s.fp f).ctl)
  | .integScrub d => some (vmScrub, if d then s.integ.scrubDdr else s.integ.scrubHbm)
  | .integRepairCtl => some (vmRepair, s.integ.repairCtl)
  | .integLbCtl => some (vmLb, s.integ.lbCtl)
  | .crpWarmCtl => some (1, s.crp.warmCtl)
  | .dbgFrzCtl => some (0xE, s.dbg.frzCtl)
  | .dbgPeatCtl => some (0xFF, s.peat.ctl)
  | _ => none

/-- Replace a register with voted fields. -/
def State.setV (s : State) (r : Reg) (v : VReg) : State :=
  match r with
  | .slcWaylock i => s.modSl i (fun x => { x with wayLock := v })
  | .slcWdisCtl i => s.modSl i (fun x => { x with wdisCtl := v })
  | .slcCacheCtl i => s.modSl i (fun x => { x with cacheCtl := v })
  | .homeLaneCtl => s.modHome (fun h => { h with laneCtl := v })
  | .stampPeriod => { s with stamp := { s.stamp with period := v } }
  | .stampWays => { s with stamp := { s.stamp with ways := v } }
  | .hportLinkCtl p => s.modHp p (fun h => { h with linkCtl := v })
  | .hportSnpCtl p => s.modHp p (fun h => { h with snpCtl := v })
  | .fportCtl f => s.modFp f (fun x => { x with ctl := v })
  | .integScrub d => { s with integ := if d then { s.integ with scrubDdr := v } else { s.integ with scrubHbm := v } }
  | .integRepairCtl => { s with integ := { s.integ with repairCtl := v } }
  | .integLbCtl => { s with integ := { s.integ with lbCtl := v } }
  | .crpWarmCtl => { s with crp := { s.crp with warmCtl := v } }
  | .dbgFrzCtl => { s with dbg := { s.dbg with frzCtl := v } }
  | .dbgPeatCtl => { s with peat := { s.peat with ctl := v } }
  | _ => s

/-- A read of a voted register repairs its minority copies and counts them (R416). -/
def voteRead (r : Reg) (s : State) : State :=
  match s.vreg r with
  | none => s
  | some (vm, v) =>
    if v.split vm then
      let s1 := s.setV r (v.fixed vm)
      { s1 with gen := { s1.gen with voteFix := s1.gen.voteFix + BitVec.ofNat 64 (v.minority vm) } }
    else s

/-! ### Values of the other registers -/

/-- A flag as a bit of a word. -/
def nb (pos : Nat) (b : Bool) : Nat := if b then 2 ^ pos else 0

/-- The phase of CRP_STAT (R475). -/
def Phase.code : Phase → Nat
  | .pll => 0 | .fuses => 1 | .selfTest => 2 | .training => 3 | .fills => 4 | .fwInit => 5 | .links => 6 | .running => 7
  | .warmDrain => 8 | .pfDrain => 9 | .stopped => 10
/-- FW_STATE (R380). -/
def FwSt.code : FwSt → Nat
  | .loading => 0 | .run => 1 | .idle => 2 | .restart => 3 | .stopped => 4
/-- HPORT_LINK_STAT.STATE (R317). -/
def HLink.code : HLink → Nat
  | .down => 0 | .training => 1 | .up => 2 | .recovery => 3 | .downBusy => 4
/-- FPORT_STAT.STATE (R325). -/
def FLink.code : FLink → Nat
  | .down => 0 | .training => 1 | .up => 2 | .upMgmt => 3 | .lost => 4

/-- HOME_RELOC_STAT.PHASE (R193): recall with nothing left to recall is the final copy. With several relocations in progress it shows the first
of the list (DESIGN CHOICE, log 82). -/
def relocPhase (s : State) : Nat :=
  match s.home.relocs with
  | [] => 0
  | x :: _ =>
    match x.phase with
    | .idle => 0
    | .copy => 1
    | .switch_ => 2
    | .recall => if regionBusy s x.orig x.region || !(ownedLines s x.orig x.region).isEmpty then 3 else 4
    | .finalCopy => 4
    | .receiving => 5

/-- A lookup of a slice waits for a pinned shadow set (R449 PINWAIT). -/
def pinWait (x : Slice) : Bool :=
  x.waiters.any (·.pin)

/-- The Sluice of a port is closed and drained (R271). -/
def drained (s : State) (p : Port) : Bool :=
  let h := s.hp p
  s.arb.closed p && h.queue.isEmpty && h.ntc.isEmpty && h.outst.toNat == 0 &&
    s.slices.toList.all (fun x => !x.wmb.any (fun e => decide (e.port = p)) && !x.reqs.any (fun r => decide (r.port = p)))

/-- OLDEST of the Peat ring (R479). -/
def Peat.oldest (x : Peat) : W32 := if x.wraps then x.next - 16384 else 0

/-- SLC_WAYSTAT.DIS_ANY (R62). -/
def disAny (x : Slice) : BitVec 15 := x.wdis.foldl (fun a c => a ||| c.2) 0

/-- The last access error as GEN_ACCERR holds it (R430). -/
def AccErr.word (e : AccErr) : W32 := (if e.valid then (1 : BitVec 1) else 0) ++ (0 : BitVec 2) ++ e.kind ++ e.off

/-- A word of the parameter page (R439). -/
def paramWord (x : Mbx) (n : Nat) : W32 :=
  spGet 0 x.param (4 * n + 3) ++ spGet 0 x.param (4 * n + 2) ++ spGet 0 x.param (4 * n + 1) ++ spGet 0 x.param (4 * n)

/-- Pending BAR.DONE of a port (R230). -/
def barWord (h : HPort) : Nat :=
  let d := h.bars.filter (fun b => decide (b.kind = 3))
  ((List.range 16).map (fun n => nb n (d.any (fun b => decide (b.strm.toNat = n))))).foldl (· + ·) 0 + nb 16 (d.any (·.port))

/-- What a read of a register of a slice returns. -/
def slcRead (s : State) (r : Reg) : Nat :=
  match r with
  | .slcId i => i.val
  | .slcTtStat i => (s.sl i).used + nb 10 (pinWait (s.sl i))
  | .slcWaystat i =>
    let x := s.sl i
    (disAny x).toNat + x.wgOff.toNat * 2 ^ 15 + nb 18 (decide (x.wgDown ≠ 0) || x.walks.any (fun k => match k.kind with | .disable _ _ _ => true | _ => false))
  | .slcLookupCtl i => (s.sl i).lookupCtl.toNat
  | .slcCacheStat i =>
    let x := s.sl i
    (if x.draining then 1 else if x.disabled then 2 else 0) + nb 2 (x.walks.any (fun k => match k.kind with
      | .flush | .inval | .clean | .policy _ _ => true
      | _ => false))
  | .slcWmbCtl i => (s.sl i).wmbCtl.toNat
  | .slcCwCtl i => (s.sl i).cwCtl.toNat
  | .slcRbCtl i => (s.sl i).rbCtl.toNat
  | .slcBufstat i =>
    let x := s.sl i
    x.wmb.length % 2 ^ 8 + x.cw.length % 2 ^ 8 * 2 ^ 8 + x.rb.length % 2 ^ 9 * 2 ^ 16 + nb 25 (decide (x.pfLimit < x.maxOut))
  | .slcRetryCtl i => (s.sl i).retryCtl.toNat
  | .slcAmoCtl i => (s.sl i).amoCtl.toNat
  | .slcDirty i => (s.sl i).dirty
  | .slcWdisMap i n => ((s.sl i).disMap n).toNat
  | _ => 0

/-- What a read of a register of a host port returns. -/
def hportRead (s : State) (r : Reg) : Nat :=
  match r with
  | .hportLinkStat p =>
    let h := s.hp p
    h.link.code + nb 3 h.proto + h.width.toNat * 2 ^ 4 + nb 6 h.rate + nb 7 h.degraded + nb 8 h.biEn
  | .hportEmhId _ => 0x0E41
  | .hportCredit _ => 0x200 + 0x100 * 2 ^ 10 + 0x40 * 2 ^ 19
  | .hportNtcCtl p => (s.hp p).ntcCtl.toNat
  | .hportPfCtl p => (s.hp p).pfCtl.toNat
  | .hportCtrA p => let c := (s.hp p).ctr; if c.valid || (s.hp p).ctrRel then c.rate.toNat + c.missr.toNat * 2 ^ 11 else 0
  | .hportCtrB p =>
    let c := (s.hp p).ctr
    if c.valid || (s.hp p).ctrRel then c.out.toNat + c.hops.toNat * 2 ^ 9 + c.burst.toNat * 2 ^ 15 + nb 23 c.unc + nb 24 c.valid else 0
  | .hportCtrStat p => (s.hp p).outst.toNat
  | _ => 0

/-- RUN (R476, R450): the domains of the root and DDR PLLs run while REFCLK and the locks hold and the die is not frozen; AON and TCK always. The receivers'
domains read 1 from reset until their links have begun to train, as the reset value has it, and then while a link has a signal (DEDUCED, log 113). -/
def clkRun (s : State) : BitVec 18 :=
  let root := !s.crp.refLost && !s.dbg.frozen
  let early := match s.crp.phase with
    | .pll | .fuses | .selfTest | .training | .fills | .fwInit => true
    | .links | .running | .warmDrain | .pfDrain | .stopped => false
  let host := early || s.hports.toList.any (fun h => decide (h.link ≠ .down) && decide (h.link ≠ .downBusy))
  let fab := !s.crp.imageOk || s.fports.toList.any (fun x => decide (x.link ≠ .down) && decide (x.link ≠ .lost))
  (1 : BitVec 1) ++ BitVec.ofNat 1 (nb 0 (!s.dbg.frozen && fab)) ++ BitVec.ofNat 1 (nb 0 (!s.dbg.frozen && host)) ++ (1 : BitVec 1) ++
    (if root then (0x3FFF : BitVec 14) else 0)

/-- What a read of a register of HOME, ORD, STAMP or ARB returns. -/
def unitRead (s : State) (r : Reg) : Nat :=
  match r with
  | .homeStat =>
    s.home.tt.length + (s.home.tt.filter (fun t => isLane t.num)).length * 2 ^ 13 + nb 23 (s.home.sweeps.any (fun w => !w.done)) +
      nb 24 (!s.home.relocs.isEmpty)
  | .homeRelocStat => s.home.stubs.length + s.home.rtab.length * 2 ^ 7 + relocPhase s * 2 ^ 20
  | .ordRsv p => (s.hp p).goodRsv.length
  | .ordBar p => barWord (s.hp p)
  | .stampCtl =>
    let x := s.stamp
    nb 0 x.member + (if x.member then x.group.toNat * 2 else 0) + ((ports.map (fun p => nb (7 + p.val) (s.hp p).stamped)).foldl (· + ·) 0) + nb 11 x.lost
  | .stampStall => s.stamp.stall.toNat
  | .stampSeats => s.home.seats.length
  | .arbPrio => s.arb.prio.toNat
  | .arbAge => s.arb.age.toNat
  | .arbBurst => s.arb.burst.toNat
  | .arbSluice => s.arb.sluice.toNat
  | .arbSluiceStat => ((ports.map (fun p => nb p.val (drained s p))).foldl (· + ·) 0) + nb 4 s.arb.walkHold
  | _ => 0

/-- What a read of a register of the fabric, the memories, CRP or DBG returns. -/
def partRead (s : State) (r : Reg) : Nat :=
  match r with
  | .fportNode => s.node.node.toNat + (domOf s.node.node).toNat * 2 ^ 18
  | .fportTopo => s.node.xsz.toNat + s.node.ysz.toNat * 2 ^ 6 + s.node.zsz.toNat * 2 ^ 12
  | .fportTroot => s.node.root.toNat + s.node.dist.toNat * 2 ^ 18
  | .fportStat f => (s.fp f).link.code + nb 3 s.fabric.pause.isSome + (s.fp f).neigh.toNat * 2 ^ 4
  | .memhStat => s.mem.hbmTrained.toNat + nb 4 s.mem.hbmFilled + s.mem.hot.toNat * 2 ^ 5
  | .memdCfg => s.mem.chan.toNat + s.mem.dimmGib.toNat * 2 ^ 8 + nb 16 s.mem.ranks2 + s.mem.dens.toNat * 2 ^ 17
  | .memdStat =>
    s.mem.ddrTrained.toNat + nb 8 s.mem.fill1g + nb 9 s.mem.filled + nb 10 s.mem.slow + s.mem.fillSlots.length * 2 ^ 11
  | .integChtStat => s.integ.rows.length + nb 11 s.integ.ovf
  | .integRepairStat =>
    let x := s.integ
    (x.repMap.filter (fun e => decide (e.st = .pending))).length + x.repMap.length * 2 ^ 13 + nb 26 (decide (4096 ≤ x.repMap.length)) + nb 27 x.live.isSome
  | .integLbStat => s.integ.level.toNat + nb 16 s.integ.overThr
  | .integBist => nb 0 s.integ.bistDone + nb 1 s.integ.bistFail + (if s.integ.bistFail then s.integ.checker.toNat * 4 else 0)
  | .crpStat => s.crp.phase.code + nb 4 (s.crp.pllLock && !s.crp.refLost) + nb 5 s.crp.kept + nb 6 s.aon.quiet
  | .crpClkstat => (clkRun s).toNat
  | .crpBoot => s.crp.bootTime.toNat + nb 16 s.crp.bootWarm + nb 17 s.crp.slotB
  | .dbgPeatNext => s.peat.next.toNat
  | .dbgPeatOldest => s.peat.oldest.toNat
  | .dbgPeatStat => s.peat.suppr.toNat + nb 16 (decide (32 ≤ s.peat.queue.length))
  | .dbgPmuCtl => s.dbg.pmuCtl.toNat
  | .dbgPmuSel n => (vget s.dbg.pmuSel n.val 0).toNat
  | _ => 0

/-- What a read of a register of GEN, MBX, EVQ or IND by a master returns. -/
def genRead (s : State) (m : Master) (r : Reg) : W32 :=
  match r with
  | .genId => BitVec.ofNat 32 (0x8820 + nb 16 Config.gradeX + Config.step.toNat * 2 ^ 20)
  | .genSelf => BitVec.ofNat 32 m.val
  | .genScratch => s.gen.scratch
  | .genKeystat => BitVec.ofNat 32 (((List.range 5).map (fun n => nb n (vget s.gen.keys n false))).foldl (· + ·) 0)
  | .genAccerr => (vget s.gen.accErr m.val {}).word
  | .genSem n => (vget s.gen.sem n.val 0).setWidth 32
  | .mbxIn p k => ((s.mb p).at k).inW
  | .mbxInack p k => ((s.mb p).at k).inAck
  | .mbxOut p k => ((s.mb p).at k).outW
  | .mbxOutack p k => ((s.mb p).at k).outAck
  | .mbxStat p =>
    BitVec.ofNat 32 (((ports.map (fun k => nb k.val ((s.mb p).at k).full + nb (4 + k.val) ((s.mb p).at k).outFull)).foldl (· + ·) 0) + s.fw.st.code * 2 ^ 8)
  | .mbxIrqEn p => (s.mb p).irqEn
  | .mbxIrqStat p => irqCauses s p
  | .mbxParam p n => paramWord (s.mb p) n
  | .evqCtl => match masterPort m with | some p => (s.eq p).ctl | none => 0
  | .evqFilter => match masterPort m with | some p => (s.eq p).filter | none => 0
  | .evqWr => match masterPort m with | some p => (s.eq p).wr.setWidth 32 | none => 0
  | .evqRd => match masterPort m with | some p => (s.eq p).rd.setWidth 32 | none => 0
  | .evqMark => match masterPort m with
    | some p => BitVec.ofNat 32 ((s.eq p).mark.toNat + nb 13 (s.eq p).markV)
    | none => 0
  | .evqStat => match masterPort m with
    | some p => let q := s.eq p; BitVec.ofNat 32 (evqUsed q + nb 13 q.attn + nb 14 q.dropped + nb 15 q.markLost)
    | none => 0
  | .indAddr => (vget s.gen.ind m.val {}).addr
  | .indCtl => (vget s.gen.ind m.val {}).ctl
  | .indStat => let x := vget s.gen.ind m.val {}; BitVec.ofNat 32 (nb 0 x.wpend.isSome + nb 1 x.err)
  | _ => 0

/-- What a read of a register returns, its reads with side effects apart. -/
def regVal (s : State) (m : Master) (r : Reg) : W32 :=
  match s.vreg r with
  | some (vm, v) => v.get vm
  | none => genRead s m r ||| BitVec.ofNat 32 (slcRead s r + hportRead s r + unitRead s r + partRead s r)

end Sys2Proof.Machine
end

