-- ==== Sys2Proof/Machine/Registers.lean ====
section
/-! DEFINITION. Accesses to the register window: access codes, the key, sizes, 64-bit reads, semaphores, the indirect pair, and
the commands that write and read registers (R225, R290, R381 to R389, R395 to R401, R406 to R421). -/

namespace Sys2Proof.Machine

/-! ### Errors and completions (R411, R415, R418, R419) -/

/-- Change the GEN block. -/
def State.modGen (s : State) (f : Gen → Gen) : State := { s with gen := f s.gen }
/-- Change the IND pair of a master. -/
def modInd (m : Master) (f : Ind → Ind) (s : State) : State :=
  s.modGen (fun g => { g with ind := vset g.ind m.val (f (vget g.ind m.val {})) })
/-- The last access error of a master (R430). -/
def accErr (m : Master) (off kind : Nat) (s : State) : State :=
  s.modGen (fun g => { g with accErr := vset g.accErr m.val ⟨BitVec.ofNat 26 off, BitVec.ofNat 3 kind, true⟩ })
/-- The key of a master is open (R414). -/
def keyOpen (s : State) (m : Master) : Bool := vget s.gen.keys m.val false
/-- Open or close the key of a master. -/
def setKey (m : Master) (b : Bool) (s : State) : State := s.modGen (fun g => { g with keys := vset g.keys m.val b })

/-- A master can reach the window: a host through its link, the firmware while it runs. -/
def reaches (s : State) (m : Master) : Bool :=
  match masterPort m with
  | some p => decide ((s.hp p).link = .up)
  | none => fwUp s

/-- A write completes: CXL.io writes are posted (R226). -/
def doneWr (m : Master) (etag : BitVec 12) (ok : Bool) (s : State) : State :=
  if s.dbg.frozen then s
  else match masterPort m with
  | none => s.emit (.mgmt 0 ok)
  | some p =>
    if (s.hp p).proto then s
    else toHost p (.cmp (etag.setWidth 16) (if ok then stOK else stERR) 0 false false) s

/-- A read completes. -/
def doneRd (m : Master) (etag : BitVec 12) (ok : Bool) (size : Nat) (v : W64) (s : State) : State :=
  match masterPort m with
  | none => s.emit (.mgmt v ok)
  | some p =>
    if ok then toHost p (.cmpData (etag.setWidth 16) stOK 0 false false size (v.setWidth 512)) s
    else if (s.hp p).proto then toHost p (.compAbort (etag.setWidth 16)) s
    else toHost p (.cmp (etag.setWidth 16) stERR 0 false false) s

/-! ### What a write of a register does -/

/-- The registers that hold an RWK field (R415). -/
def Reg.keyed : Reg → Bool
  | .slcWaylock _ | .slcWdisCtl _ | .slcLookupCtl _ | .slcCacheCtl _ | .hportLinkCtl _ | .hportSnpCtl _ | .stampWays
  | .fportCtl _ | .integScrub _ | .integRepairCtl | .integLbCtl | .crpWarmCtl | .dbgFrzCtl => true
  | _ => false

/-- The stored value of a register with voted fields, of which `k` low bits are stored. -/
def putV (r : Reg) (k : Nat) (v : W32) (s : State) : State := s.setV r (.mk1 (v &&& BitVec.ofNat 32 (2 ^ k - 1)))

/-- The low n bits of a word. -/
def low (n : Nat) (v : W32) : W32 := v &&& BitVec.ofNat 32 (2 ^ n - 1)

/-- A drain of a slice begins (R96): its entries close, and the combining entries of its lines (R74, R78). -/
def drainStart (i : SliceNo) (s : State) : State :=
  let x := s.sl i
  if x.draining || x.disabled then s
  else
    let s0 := closeEntries (fun e => decide (sliceOf e.line = i)) (fun e => decide (sliceOf e.line = i)) (s.modSl i (fun x => { x with draining := true }))
    let s1 := rbFree (fun _ => true) i s0
    startWalk i .drain (issueEvery s1)

/-- SLC_CACHE_CTL.EN (R96, R98, R99). -/
def writeCacheCtl (off : Nat) (i : SliceNo) (m : Master) (raw v : W32) (s : State) : State :=
  if bit v 0 then
    putV (.slcCacheCtl i) 1 v ((endWalk .drain i s).modSl i (fun x => { x with draining := false, disabled := false }))
  else if ports.any (fun p => (s.hp p).cxl) then evCfgDiscard off m raw s
  else drainStart i (putV (.slcCacheCtl i) 1 v s)

/-- SLC_LOOKUP_CTL (R64): a cleared SHADOW_EN writes PLRU-dirty entries to TS and drops the unpinned ones; an entry read with bad parity is
dropped, and the error counted as corrected (R38). -/
def writeLookupCtl (i : SliceNo) (v : W32) (s : State) : State :=
  let was := (s.sl i).shadowEn
  let s1 := s.modSl i (fun x => { x with lookupCtl := low 2 v })
  if was && !bit v 1 then
    let bad := (s1.sl i).shadow.flatMap (fun c => c.2.ents.toList.filter (fun e => e.valid && e.bad))
    (s1.each bad (fun s _ => bufCorrected s)).modSl i (fun x =>
      let y := x.flushPlru
      let keep (q : ShSet) : ShSet := { q with ents := q.ents.map (fun e => if e.pin && !e.bad then e else {}) }
      { y with shadow := (y.shadow.map (fun c => (c.1, keep c.2))).filter (fun c => decide (c.2 ≠ {})) })
  else s1

/-- The claim window falls below the retry gap of a slice (R196): units of 100 ns and of 20 ns. -/
def winBelow (win gap : Nat) : Bool := decide (atLeast1 win * 5 < atLeast1 gap)

/-- HOME_LANE_CTL (R196). -/
def writeLaneCtl (off : Nat) (m : Master) (raw v : W32) (s : State) : State :=
  if s.slices.toList.any (fun x => winBelow (fld v 0 8).toNat x.gap) then evCfgDiscard off m raw s else putV .homeLaneCtl 8 v s

/-- SLC_RETRY_CTL (R196). -/
def writeRetryCtl (off : Nat) (i : SliceNo) (m : Master) (raw v : W32) (s : State) : State :=
  if winBelow s.home.win (fld v 0 8).toNat then evCfgDiscard off m raw s
  else s.modSl i (fun x => { x with retryCtl := low 8 v })

/-- HPORT_SNP_CTL (R146): TMO in µs must exceed LIMIT in units of 10 ns. -/
def writeSnpCtl (off : Nat) (p : Port) (m : Master) (raw v : W32) (s : State) : State :=
  if atLeast1 (fld v 8 8).toNat * 100 ≤ atLeast1 (fld v 0 8).toNat then evCfgDiscard off m raw s else putV (.hportSnpCtl p) 16 v s

/-- HPORT_LINK_CTL (R316): a change of MODE takes the port down, and so does clearing X8_OK or G5_OK under a link that needs it (R288);
RETRAIN enters Recovery. -/
def writeLinkCtl (p : Port) (act v : W32) (s : State) : State :=
  let was := (s.hp p).mode
  let s1 := putV (.hportLinkCtl p) 5 (setBit v 2 false) s
  let s2 := if (s1.hp p).mode ≠ was then
      let s2 := portDown p s1
      if (s2.hp p).link = .down then s2.modHp p (fun h => { h with link := trainSt s2 h }) else s2
    else s1
  let s3 := linkKept p s2
  if bit act 2 then enterRecovery p s3 else s3

/-- STAMP_WAYS (R275): the conditions under which a write is discarded. -/
def stampMaskBad (s : State) (m : BitVec 15) : Bool :=
  s.stamp.member || decide (m = 0) || s.slices.toList.any (fun x => decide (x.lock &&& m ≠ 0) ||
    (List.range 64).any (fun r => (List.range 15).all (fun w => bit m w || !x.usable r w)))

/-- ARB_SLUICE (R271, R272); walks that WALKHOLD releases go on by the passes they are granted (R265). -/
def writeSluice (v : W32) (s : State) : State :=
  let was := s.arb
  let s1 := { s with arb := { was with sluice := low 5 v } }
  let shut (e : BufEnt) : Bool := !was.closed e.port && s1.arb.closed e.port
  issueEvery (closeEntries shut shut s1)

/-- DBG_FRZ_CTL (R489, R497): SW freezes while ARM_SW is 1. -/
def writeFrzCtl (act v : W32) (s : State) : State :=
  let armed := bit (s.dbg.frzCtl.get 0xE) 1
  let s1 := putV .dbgFrzCtl 12 (setBit v 0 false) s
  if bit act 0 && armed then freezeDie 2 0 s1 else s1

/-- DBG_PMU_CTL (R501). -/
def writePmuCtl (act v : W32) (s : State) : State :=
  { s with dbg := { s.dbg with pmuCtl := low 8 v, pmuCnt := if bit act 8 then Vector.replicate 8 0 else s.dbg.pmuCnt } }

/-- EVQ_CTL (R399, R401): the new settings, then FLUSH and REWIND; attention is tested against the values in force. -/
def writeEvqCtl (p : Port) (act v : W32) (s : State) : State :=
  let q := { s.eq p with ctl := low 21 v }
  let q1 := if bit act 21 && decide (q.rd ≠ q.wr) then { q with attn := true } else q
  let q2 := if bit act 22 && q1.markV then { q1 with rd := q1.mark } else q1
  msixCheck p (s.setEq p (evqAttn s.gen.time q2))

/-- EVQ_RD (R395, R400): only a forward move no further than WR. -/
def writeEvqRd (p : Port) (v : W32) (s : State) : State :=
  let q := s.eq p
  let to_ : BitVec 13 := fld v 0 13
  let n := (to_ - q.rd).toNat
  if n = 0 ∨ evqUsed q < n then s
  else
    let passed := match q.lostEnd with | some e => decide ((e - q.rd).toNat ≤ n) | none => false
    let q1 := { q with rd := to_, dropped := q.dropped && !passed, lostEnd := if passed then none else q.lostEnd }
    msixCheck p (s.setEq p (evqAttn s.gen.time q1))

/-- EVQ_MARK (R401): only the header of a packet between the oldest word not overwritten and RD, inclusive. -/
def writeEvqMark (p : Port) (v : W32) (s : State) : State :=
  let q := s.eq p
  let to_ : BitVec 13 := fld v 0 13
  let back := (q.wr - to_).toNat
  if q.heads.any (fun h => decide (h.1 = to_)) && decide (back ≤ 4096) && decide (evqUsed q ≤ back) then
    s.setEq p { q with mark := to_, markV := true, markLost := false }
  else s

/-- MBX_IN (R385, R386): a write while the mailbox is busy is discarded; the write of the whole word posts the command. Each wakes the firmware
(R381). -/
def writeMbxIn (p k : Port) (be : BitVec 4) (v : W32) (s : State) : State :=
  let s := fwDo id s
  if ((s.mb p).at k).busy then postCmd p 0x02 [v ++ BitVec.ofNat 32 k.val] s
  else if be = 0xF then
    let n := s.fw.order
    let s1 := s.modMb p (fun m => m.modAt k (fun x => { x with inW := v, full := true, order := n }))
    { s1 with fw := { s1.fw with order := n + 1 } }
  else s.modMb p (fun m => m.modAt k (fun x => { x with inW := v }))

/-- MBX_PARAM (R386, R439): discarded while the mailbox of the area is busy. -/
def writeParam (p : Port) (n : Nat) (m : Master) (be : BitVec 4) (v : W32) (s : State) : State :=
  if decide (m.val < 4) && ((s.mb p).at (portNo (n / 128))).busy then s
  else s.modMb p (fun x => { x with
    param := [0, 1, 2, 3].foldl (fun q i => if bit be i then spSet 0 (4 * n + i) (byteAt v i) q else q) x.param })

/-- Code of what a repair map entry records. -/
def Repair.code (e : Repair) : Nat :=
  let k := match e.loc with | .hbm l => 3 * l.toNat | .ddr l => 3 * l.toNat + 1 | .array i => 3 * i.toNat + 2
  1 + 3 * k + (match e.st with | .pending => 0 | .applied => 1 | .exhausted => 2)
/-- The entry of a number that a code, less 1, stands for. -/
def repOf (n c : Nat) : Repair :=
  ⟨n, if c / 3 % 3 = 0 then .hbm (BitVec.ofNat 28 (c / 9)) else if c / 3 % 3 = 1 then .ddr (BitVec.ofNat 28 (c / 9)) else .array (BitVec.ofNat 16 (c / 9)),
    if c % 3 = 0 then .pending else if c % 3 = 1 then .applied else .exhausted⟩
/-- A word of the repair map, of two to an entry: as software wrote it, or as the part's layout, which the spec does not give, has the entry
(R422, log 8). -/
def Integ.repWord (x : Integ) (k : Nat) : W32 :=
  match x.repRaw.find? (fun c => decide (c.1 = k)) with
  | some c => c.2
  | none => Config.repairWord (k % 2) (match x.repMap.find? (fun e => decide (e.no = k / 2)) with | some e => e.code | none => 0)

/-- The posted slow write of a master is made (R421). Only the management cores write, and only the field repair map; the spec
gives its entries no layout, so what an entry records is a free value of its words (log 8). -/
def slowWrite (m : Master) (s : State) : State :=
  match (vget s.gen.ind m.val {}).wpend with
  | none => s
  | some (a, v) =>
    let off := (fld a 0 24).toNat
    let mapped := slowMapped a
    let s1 := modInd m (fun x => { x with wpend := none, err := !mapped }) s
    if mapped && decide (fld a 28 4 = 2) && decide (m.val = 4) then
      let n := off / 8
      let x := s1.integ
      let lo := if off % 8 = 0 then v else x.repWord (2 * n)
      let hi := if off % 8 = 0 then x.repWord (2 * n + 1) else v
      let c := Config.repairCode lo hi
      { s1 with integ := { x with
          repMap := x.repMap.filter (fun e => decide (e.no ≠ n)) ++ (if c = 0 then [] else [repOf n (c - 1)])
          repRaw := spIns (2 * n) lo (spIns (2 * n + 1) hi x.repRaw) } }
    else s1
where
  /-- A slow address that is mapped (R422, R423). -/
  slowMapped (a : W32) : Bool :=
    let off := (fld a 0 24).toNat
    decide (off % 4 = 0) &&
      (match (fld a 28 4).toNat with
       | 0 => decide (off < 0x14)
       | 1 => decide (off < 0x1000)
       | 2 => decide (off < 0x8000)
       | 3 => decide (off < 0x100)
       | _ => false)

/-- A slow register (R422, R423). The fuse map, the entries of the repair map and the xSPI status have contents the spec does
not give (log 8). -/
def slowVal (s : State) (a : W32) : W32 :=
  let off := (fld a 0 24).toNat
  if !slowWrite.slowMapped a then 0
  else match (fld a 28 4).toNat with
  | 0 =>
    if off = 0x00 then s.aon.cause.setWidth 32
    else if off = 0x04 then s.aon.heldCnt.setWidth 32
    else if off = 0x08 then s.aon.dirty.setWidth 32
    else if off = 0x0C then s.aon.fillBlk.setWidth 32
    else s.aon.warmCnt.setWidth 32
  | 1 => Config.fuse off
  | 2 => s.integ.repWord (off / 4)
  | _ => Config.xspi off s.freeCtr

/-- AINC adds 4 to the offset of IND_ADDR, modulo 2^24 (R421). -/
def Ind.advance (x : Ind) : Ind := if bit x.ctl 0 then { x with addr := setFld x.addr 0 24 (fld x.addr 0 24 + 4) } else x

/-- A read of IND_DATA (R421): an earlier posted write is made first. -/
def indRead (m : Master) (s : State) : W32 × State :=
  let s1 := slowWrite m s
  let x := vget s1.gen.ind m.val {}
  (slowVal s1 x.addr, (modInd m (fun x => ({ x with err := !slowWrite.slowMapped x.addr } : Ind).advance) s1).tick1)

/-- A write of IND_DATA is posted (R421). -/
def indWrite (m : Master) (v : W32) (s : State) : State :=
  modInd m (fun x => ({ x with wpend := some (x.addr, v) } : Ind).advance) (slowWrite m s)

/-- GEN_SEM (R417): a write of 0 by the holder releases it. -/
def writeSem (n : Fin 8) (m : Master) (v : W32) (s : State) : State :=
  if (vget s.gen.sem n.val 0).toNat = m.val + 1 ∧ low 3 v = 0 then s.modGen (fun g => { g with sem := vset g.sem n.val 0 }) else s

/-- A write of a register of GEN, MBX, EVQ or IND. -/
def genWrite (r : Reg) (m : Master) (be : BitVec 4) (late : Bool) (act v : W32) (s : State) : State :=
  match r with
  | .genScratch => s.modGen (fun g => { g with scratch := v })
  | .genSem n => writeSem n m v s
  | .mbxIn p k => writeMbxIn p k be v s
  | .mbxOutack p k => outAck p k { master := m, be := be, val := act } late s
  | .mbxIrqEn p => msixCheck p (s.modMb p (fun x => { x with irqEn := low 4 v }))
  | .mbxParam p n => writeParam p n m be v s
  | .evqCtl => match masterPort m with | some p => writeEvqCtl p act v s | none => s
  | .evqFilter => match masterPort m with | some p => s.setEq p { s.eq p with filter := low 10 v } | none => s
  | .evqRd => match masterPort m with | some p => writeEvqRd p v s | none => s
  | .evqMark => match masterPort m with | some p => writeEvqMark p v s | none => s
  | .indAddr => modInd m (fun x => { x with addr := v &&& 0xF0FFFFFF }) s
  | .indData => indWrite m v s
  | .indCtl => modInd m (fun x => { x with ctl := low 1 v }) s
  | _ => s

/-- A write of a register of a slice. -/
def slcWrite (off : Nat) (r : Reg) (m : Master) (raw v : W32) (s : State) : State :=
  match r with
  | .slcWaylock i => if lockBad s (s.sl i) (fld v 0 15) then evCfgDiscard off m raw s else putV r 15 v s
  | .slcWdisCtl _ => putV r 9 v s
  | .slcLookupCtl i => writeLookupCtl i v s
  | .slcCacheCtl i => writeCacheCtl off i m raw v s
  | .slcWmbCtl i => issueAll i (s.modSl i (fun x => ({ x with wmbCtl := low 15 v } : Slice).closeLow))
  | .slcCwCtl i => s.modSl i (fun x => { x with cwCtl := low 8 v })
  | .slcRbCtl i => s.modSl i (fun x =>
      let y := { x with rbCtl := low 19 v }
      { y with pfLimit := min y.pfLimit y.maxOut })
  | .slcRetryCtl i => writeRetryCtl off i m raw v s
  | .slcAmoCtl i => s.modSl i (fun x => { x with amoCtl := low 7 v })
  | _ => s

/-- A write of a register of the other blocks. -/
def partWrite (off : Nat) (r : Reg) (m : Master) (raw act v : W32) (s : State) : State :=
  match r with
  | .homeLaneCtl => writeLaneCtl off m raw v s
  | .stampPeriod => putV r 12 v s
  | .stampWays => if stampMaskBad s (fld v 0 15) then evCfgDiscard off m raw s else putV r 15 v s
  | .stampStall => { s with stamp := { s.stamp with stall := low 16 v } }
  | .arbPrio => { s with arb := { s.arb with prio := low 15 v } }
  | .arbAge => { s with arb := { s.arb with age := low 8 v } }
  | .arbBurst => { s with arb := { s.arb with burst := low 5 v } }
  | .arbSluice => writeSluice v s
  | .hportLinkCtl p => writeLinkCtl p act v s
  | .hportNtcCtl p => s.modHp p (fun h => { h with ntcCtl := low 8 v })
  | .hportPfCtl p => s.modHp p (fun h => { h with pfCtl := low 5 v })
  | .hportSnpCtl p => writeSnpCtl off p m raw v s
  | .fportCtl _ => putV r 1 v s
  | .integScrub _ => putV r 9 v s
  | .integRepairCtl => putV r 2 v s
  | .integLbCtl => putV r 24 v s
  | .crpWarmCtl => putV r 1 v s
  | .dbgFrzCtl => writeFrzCtl act v s
  | .dbgPeatCtl => putV r 16 v s
  | .dbgPmuCtl => writePmuCtl act v s
  | .dbgPmuSel n => { s with dbg := { s.dbg with pmuSel := vset s.dbg.pmuSel n.val (low 12 v) } }
  | _ => s

/-- GEN_UNLOCK (R414): KEY in bytes 0 and 1, bytes 2 and 3 not enabled or 0. -/
def unlocks (be : BitVec 4) (v : W32) : Bool :=
  bit be 0 && bit be 1 && decide (fld v 0 16 = 0x7A3C) && (!bit be 2 || decide (fld v 16 8 = 0)) && (!bit be 3 || decide (fld v 24 8 = 0))

/-- One 32-bit write of a register (R411 to R415): the key, the bytes enabled, the register's own rule. `late`: a notice
acknowledge that comes later than 50 µs (R389). -/
def write32 (off : Nat) (m : Master) (be : BitVec 4) (late : Bool) (raw : W32) (s : State) : State :=
  let r := regAt off
  if r = .genUnlock then setKey m (unlocks be raw) s
  else if r.keyed && !keyOpen s m then
    evCfgDiscard off m raw (accErr m (off + ((List.range 4).find? (fun i => bit be i)).getD 0) 4 ((setKey m false s).modGen (fun g => { g with keyFail := g.keyFail + 1 })))
  else
    let act := mergeBe 0 raw be
    let v := mergeBe (if r = .indData then 0 else regVal s m r) raw be
    setKey m false (partWrite off r m raw act v (slcWrite off r m raw v (genWrite r m be late act v s)))

/-! ### Reads -/

/-- One 32-bit read of a register, with the semaphore's take (R417) and the slow read (R421). -/
def readReg (off : Nat) (m : Master) (s : State) : W32 × State :=
  match regAt off with
  | .genSem n =>
    let h := vget s.gen.sem n.val 0
    let h1 : BitVec 3 := if h = 0 then BitVec.ofNat 3 (m.val + 1) else h
    (h1.setWidth 32, s.modGen (fun g => { g with sem := vset g.sem n.val h1 }))
  | .indData => indRead m s
  | r => (regVal s m r, voteRead r s)

/-- Set the shadow of a master (R420). -/
def setShadow (m : Master) (x : Option (Nat × W32)) (s : State) : State := s.modGen (fun g => { g with shadow := vset g.shadow m.val x })

/-- One 32-bit read at an offset, through the 64-bit shadow (R420). -/
def read32 (off : Nat) (m : Master) (s : State) : W32 × State :=
  match val64 s m off with
  | some v => (fld v 0 32, setShadow m (some (off, fld v 32 32)) s)
  | none =>
    match (if off % 8 = 4 then val64 s m (off - 4) else none) with
    | some v =>
      let w := match vget s.gen.shadow m.val none with
        | some (t, h) => if t = off - 4 then h else fld v 32 32
        | none => fld v 32 32
      (w, setShadow m none s)
    | none => readReg off m (setShadow m none s)

/-- An 8 B read (R418, R420): both halves of one value, or two reads, low word first. -/
def read64 (off : Nat) (m : Master) (s : State) : W64 × State :=
  match val64 s m off with
  | some v => (v, s)
  | none =>
    let a := read32 off m s
    let b := read32 (off + 4) m a.2
    (b.1 ++ a.1, b.2)

/-! ### Accesses (R290, R383, R406, R418, R419) -/

/-- The error of an access: 1 size or alignment, 2 no block, 3 another port's MBX, 5 IND_DATA size; 0 none (R430). -/
def accKind (m : Master) (off size : Nat) (wr : Bool) : Nat :=
  if !(decide (size = 1) || decide (size = 2) || decide (size = 4) || decide (size = 8)) || decide (off % size ≠ 0) then 1
  else if !inBlock off then 2
  else if wr && (match mbxBlock off with | some p => decide (m.val < 4) && decide (m.val ≠ p.val) | none => false) then 3
  else if decide (size ≠ 4) && decide (off / 8 = 0x30000 / 8) && (decide (size = 8) || decide (4 ≤ off % 8)) then 5
  else 0

/-- ADDR[57:26] of a CsrRd or CsrWr is not 0 (R290); a CXL.io access names an offset of BAR0. -/
def beyondWindow (s : State) (a : RAcc) : Bool :=
  match masterPort a.master with
  | some p => !(s.hp p).proto && decide (fld a.off 26 32 ≠ 0)
  | none => false

/-- The window offset of an access. -/
def winOff (a : RAcc) : Nat := (fld a.off 0 26).toNat

/-- A write access to the window is performed. -/
def regWriteNow (a : RAcc) (late : Bool) (s : State) : State :=
  if beyondWindow s a then doneWr a.master a.etag false (setKey a.master false s)
  else
    let off := winOff a
    let k := accKind a.master off a.size true
    if k ≠ 0 then doneWr a.master a.etag false (setKey a.master false (accErr a.master off k s))
    else if a.size = 8 then
      doneWr a.master a.etag true (write32 (off + 4) a.master 0xF late (fld a.val 32 32) (write32 off a.master 0xF late (fld a.val 0 32) s))
    else
      let w : W32 := (fld a.val 0 32) <<< (8 * (off % 4))
      let be : BitVec 4 := BitVec.ofNat 4 ((2 ^ a.size - 1) * 2 ^ (off % 4))
      doneWr a.master a.etag true (write32 (off / 4 * 4) a.master be late w s)

/-- A read access to the window is performed. -/
def regReadNow (a : RAcc) (s : State) : State :=
  if beyondWindow s a then doneRd a.master a.etag false a.size 0 s
  else
    let off := winOff a
    let k := accKind a.master off a.size false
    if k ≠ 0 then doneRd a.master a.etag false a.size 0 (accErr a.master off k s)
    else if a.size = 8 then
      let y := read64 off a.master s
      doneRd a.master a.etag true 8 y.1 y.2
    else
      let y := read32 (off / 4 * 4) a.master s
      let v : W32 := (y.1 >>> (8 * (off % 4))) &&& BitVec.ofNat 32 (2 ^ (8 * a.size) - 1)
      doneRd a.master a.etag true a.size (v.setWidth 64) y.2

/-- Run a register access that a port has held. -/
def RegOp.run (q : RegOp) (s : State) : State := if q.read then regReadNow q.acc s else regWriteNow q.acc q.late s

/-- A BAR.DONE with port scope issued before a number of the port's order has not completed (R221). A register access is of no stream
(log 93). -/
def barsBefore (h : HPort) (n : Nat) : Bool := h.bars.any (fun b => decide (b.kind = 3) && b.port && decide (b.seq < n))

/-- The register accesses a port has held that no BAR.DONE holds any longer are performed, one at a time and in order (R221, R224). -/
def runRegs (p : Port) : Nat → State → State
  | 0, s => s
  | n + 1, s =>
    match (s.hp p).regq with
    | [] => s
    | q :: t => if barsBefore (s.hp p) q.seq then s else runRegs p n (q.run (s.modHp p (fun h => { h with regq := t })))

/-- A register access: performed at once, or held at its port behind a BAR.DONE (R221) or an access that is held (R224). -/
def regAccess (a : RAcc) (read late : Bool) (s : State) : State :=
  if !reaches s a.master then s
  else match masterPort a.master with
  | none => RegOp.run ⟨a, read, late, s.seqNo⟩ s
  | some p =>
    let q : RegOp := ⟨a, read, late, s.seqNo⟩
    let h := s.hp p
    if h.regq.isEmpty && !barsBefore h s.seqNo then q.run s
    else if decide (h.hreq = 0) || (!read && decide (h.hdat = 0)) then s
    else runRegs p (h.regq.length + 1) { s.setHp p { h with regq := h.regq ++ [q] } with seqNo := s.seqNo + 1 }

/-- A write access to the window. -/
def regWrite (a : RAcc) (late : Bool) (s : State) : State := regAccess a false late s
/-- A read access to the window. -/
def regRead (a : RAcc) (s : State) : State := regAccess a true false s

/-- BAR.DONE completes to the host, and the register accesses it held are performed (R221, R222). -/
def barDoneRun (p : Port) (etag : BitVec 12) (s : State) : State :=
  let s1 := barDone p etag s
  runRegs p (s1.hp p).regq.length s1

/-- The access of a write to one register: its size and offset from the bytes enabled; bytes not contiguous make a size that is
refused (R418). -/
def accOf (off : Nat) (w : RWr) : RAcc :=
  let lo := ((List.range 4).find? (fun i => bit w.be i)).getD 0
  let n := popCount w.be
  let whole := decide (w.be = BitVec.ofNat 4 ((2 ^ n - 1) * 2 ^ lo))
  { master := w.master, off := BitVec.ofNat 58 (off + lo), size := if whole then n else 0,
    val := (w.val >>> (8 * lo)).setWidth 64, etag := w.etag }

/-- A write to one register of the window. -/
def softWrite (off : Nat) (w : RWr) (s : State) : State := regWrite (accOf off w) false s

/-! ### Window offsets -/

/-- Offset of a register of a slice. -/
def offSlc (i : SliceNo) (o : Nat) : Nat := 0x100000 + i.val * 0x10000 + o
/-- Offset of a register of a host port. -/
def offHport (p : Port) (o : Nat) : Nat := 0x300000 + p.val * 0x10000 + o
/-- Offset of a register of a fabric port. -/
def offFport (f : FPortNo) (o : Nat) : Nat := 0x380000 + f.val * 0x10000 + o

/-- The access of a read of IND_DATA: an 8 B access covers the pair of IND_ADDR and IND_DATA. -/
def indAcc (a : RAcc) : RAcc := { a with off := if a.size = 8 then 0x30000 else 0x30004 + (fld a.off 0 2).setWidth 58 }

/-! ### The commands -/

/-- A BAR.DONE whose earlier accesses have reached their end points completes (R222). -/
def execBarDoneComplete (p : Port) (etag : BitVec 12) (s : State) : Host.Outcome State Fault Refusal := onClock s (barDoneRun p etag)
/-- GEN_UNLOCK (R414). -/
def execGenUnlock (w : RWr) (s : State) : Host.Outcome State Fault Refusal := onClock s (softWrite 0xC w)
/-- KEY_TIMEOUT (R414). -/
def execKeyTimeout (m : Master) (s : State) : Host.Outcome State Fault Refusal := onClock s (setKey m false)
/-- GEN_SEM_READ (R417). -/
def execGenSemRead (a : RAcc) (n : Fin 8) (s : State) : Host.Outcome State Fault Refusal :=
  onClock s (regRead { a with off := BitVec.ofNat 58 (0x20 + 4 * n.val + (fld a.off 0 2).toNat) })
/-- GEN_SEM_RELEASE (R417). -/
def execGenSemRelease (n : Fin 8) (w : RWr) (s : State) : Host.Outcome State Fault Refusal := onClock s (softWrite (0x20 + 4 * n.val) w)
/-- COUNTER_LO_READ, and a read of any register without a row of its own (R410, R420). -/
def execCounterLoRead (a : RAcc) (s : State) : Host.Outcome State Fault Refusal := onClock s (regRead a)
/-- IND_DATA_READ (R421). -/
def execIndDataRead (a : RAcc) (s : State) : Host.Outcome State Fault Refusal := onClock s (regRead (indAcc a))
/-- IND_DATA_WRITE (R421). -/
def execIndDataWrite (a : RAcc) (s : State) : Host.Outcome State Fault Refusal := onClock s (regWrite (indAcc a) false)
/-- SLOW_WRITE_DONE (R421). -/
def execSlowWriteDone (m : Master) (s : State) : Host.Outcome State Fault Refusal := onClock s (slowWrite m)
/-- EVQ_RD_WRITE (R395). -/
def execEvqRdWrite (p : Port) (w : RWr) (s : State) : Host.Outcome State Fault Refusal :=
  onClock s (softWrite 0x2000C { w with master := ⟨p.val, by omega⟩ })
/-- EVQ_MARK_WRITE (R401). -/
def execEvqMarkWrite (p : Port) (w : RWr) (s : State) : Host.Outcome State Fault Refusal :=
  onClock s (softWrite 0x20010 { w with master := ⟨p.val, by omega⟩ })
/-- FLUSH (R399). -/
def execFlush (p : Port) (w : RWr) (s : State) : Host.Outcome State Fault Refusal :=
  onClock s (softWrite 0x20000 { w with master := ⟨p.val, by omega⟩ })
/-- REWIND (R401). -/
def execRewind (p : Port) (w : RWr) (s : State) : Host.Outcome State Fault Refusal :=
  onClock s (softWrite 0x20000 { w with master := ⟨p.val, by omega⟩ })
/-- A published packet has been unread for HOLD µs (R399). -/
def evqHold (p : Port) (s : State) : State := msixCheck p (s.setEq p (evqAttn s.gen.time (s.eq p)))
/-- EVQ_HOLD_EXPIRY (R399). -/
def execEvqHoldExpiry (p : Port) (s : State) : Host.Outcome State Fault Refusal := onClock s (evqHold p)
/-- CACHE_DISABLE (R96). -/
def execCacheDisable (i : SliceNo) (w : RWr) (s : State) : Host.Outcome State Fault Refusal := onClock s (softWrite (offSlc i 0x50) w)
/-- CACHE_ENABLE (R99). -/
def execCacheEnable (i : SliceNo) (w : RWr) (s : State) : Host.Outcome State Fault Refusal := onClock s (softWrite (offSlc i 0x50) w)
/-- SLC_WAYLOCK_WRITE (R50). -/
def execSlcWaylockWrite (i : SliceNo) (w : RWr) (s : State) : Host.Outcome State Fault Refusal := onClock s (softWrite (offSlc i 0x40) w)
/-- SHADOW_EN_CLEAR (R64). -/
def execShadowEnClear (i : SliceNo) (w : RWr) (s : State) : Host.Outcome State Fault Refusal := onClock s (softWrite (offSlc i 0x4C) w)
/-- HPORT_SNP_CTL_WRITE (R146). -/
def execHportSnpCtlWrite (p : Port) (w : RWr) (s : State) : Host.Outcome State Fault Refusal := onClock s (softWrite (offHport p 0x108) w)
/-- HOME_LANE_CTL_WRITE (R196). -/
def execHomeLaneCtlWrite (w : RWr) (s : State) : Host.Outcome State Fault Refusal := onClock s (softWrite 0x200000 w)
/-- SLC_RETRY_CTL_WRITE (R196). -/
def execSlcRetryCtlWrite (i : SliceNo) (w : RWr) (s : State) : Host.Outcome State Fault Refusal := onClock s (softWrite (offSlc i 0x68) w)
/-- STAMP_WAYS_WRITE (R275). -/
def execStampWaysWrite (w : RWr) (s : State) : Host.Outcome State Fault Refusal := onClock s (softWrite 0x220008 w)
/-- SLUICE_CLOSE (R271). -/
def execSluiceClose (w : RWr) (s : State) : Host.Outcome State Fault Refusal := onClock s (softWrite 0x230010 w)
/-- WALKHOLD (R272). -/
def execWalkhold (w : RWr) (s : State) : Host.Outcome State Fault Refusal := onClock s (softWrite 0x230010 w)
/-- FPORT_CTL_EN_WRITE (R324). -/
def execFportCtlEnWrite (f : FPortNo) (w : RWr) (s : State) : Host.Outcome State Fault Refusal := onClock s (softWrite (offFport f 0xC) w)
/-- SW (R489). -/
def execSw (w : RWr) (s : State) : Host.Outcome State Fault Refusal := onClock s (softWrite 0x600000 w)
/-- CLEAR (R501). -/
def execClear (w : RWr) (s : State) : Host.Outcome State Fault Refusal := onClock s (softWrite 0x600040 w)
/-- REGISTER_WRITE (R411). -/
def execRegisterWrite (a : RAcc) (s : State) : Host.Outcome State Fault Refusal := onClock s (regWrite a false)
/-- RETRAIN (R316): through the port's own window. -/
def execRetrain (p : Port) (w : RWr) (s : State) : Host.Outcome State Fault Refusal := onClock s (softWrite (offHport p 0x0) w)
/-- HPORT_LINK_MODE_WRITE (R316). -/
def execHportLinkModeWrite (p : Port) (w : RWr) (s : State) : Host.Outcome State Fault Refusal := onClock s (softWrite (offHport p 0x0) w)
/-- MBX_OUTACK (R389). -/
def execMbxOutack (p k : Port) (w : RWr) (late : Bool) (s : State) : Host.Outcome State Fault Refusal :=
  onClock s (regWrite (accOf (0x10030 + p.val * 0x1000 + 4 * k.val) w) late)

end Sys2Proof.Machine
end

