-- ==== Sys2Proof/Machine/Records.lean ====
section
/-! DEFINITION. The Peat record's ring and writer, its summaries and limits, and the SMBus target (R479 to R487, R518). -/

namespace Sys2Proof.Machine

/-! ### The ring (R479, R481, R485, R486) -/

/-- TIMEV: the device is the time root, or knows its distance to it (R481). -/
def timeValid (s : State) : Bool :=
  (s.node.loaded && decide (s.node.node = s.node.root)) || decide (s.node.dist.toNat < 0x7F)
/-- NODEV: valid from step 11 of the start-up (R481). -/
def nodeValid (s : State) : Bool := s.node.loaded && decide (s.fw.st ≠ .loading)

/-- Slots of the ring (R479). -/
def peatSlots : Nat := 16384
/-- A stored record is the valid record of a number: its CRC holds and it carries that number (R485). -/
def recValid (w : BitVec 512) (n : W32) : Bool := decide (fld w 0 32 = n) && decide (crc32c (bytesOf w 60) = fld w 480 32)
/-- The VOID record of a number (R486). -/
def voidRec (n : W32) : BitVec 512 :=
  let b : BitVec 480 := n.setWidth 480
  crc32c (bytesOf b 60) ++ b
/-- The record of a number as it is read: a void slot reads as VOID (R485, R486). -/
def Peat.recAt (x : Peat) (n : W32) : BitVec 512 :=
  let w := spGet 0 x.ring (n.toNat % peatSlots)
  if recValid w n then w else voidRec n

/-- The first record a read from a number returns (R486). -/
def Peat.first (x : Peat) (seq : W32) : Option W32 :=
  let a := (seq - x.oldest).toNat
  let span := (x.next - x.oldest).toNat
  if a < span then some seq else if 2 ^ 31 ≤ a ∧ 0 < span then some x.oldest else none

/-- Write a record at NEXT (R479, R481, R485), DRAIN set in a drain, and in the drain's own record: NEXT advances, its two copies are written in turn. -/
def peatStore (r : PRec) (s : State) : State :=
  let x := s.peat
  let tv := timeValid s
  let w := packPeat r x.next x.starts tv (if tv then s.gen.time else s.aon.cycles) (nodeValid s) s.node.node (draining s || decide (r.type = 0x20))
  let n := x.next + 1
  { s with peat := { x with
      ring := spSet 0 (x.next.toNat % peatSlots) w x.ring
      next := n, wraps := x.wraps || decide (n.toNat = peatSlots)
      copyA := if bit n 0 then x.copyA else n
      copyB := if bit n 0 then n else x.copyB } }

/-- Records that waited at their source enter the queue as it has room (R480). -/
def Peat.admOpen (x : Peat) : Peat :=
  let k := 32 - x.queue.length
  { x with queue := x.queue ++ x.source.take k, source := x.source.drop k }

/-- The writer writes its next record: its own records first, then the queue (R480). -/
def peatWrite (s : State) : State :=
  if !(s.aon.up && s.crp.powered) then s
  else match s.peat.own, s.peat.queue with
  | r :: t, _ => peatStore r { s with peat := { s.peat with own := t } }
  | [], r :: t => peatStore r { s with peat := ({ s.peat with queue := t } : Peat).admOpen }
  | [], [] => s

/-! ### Summaries and limits (R483, R484) -/

/-- The nine counts of a summary, the suppressed records apart (R483). -/
def sumCounts (s : State) : List Nat :=
  let x := s.integ
  [x.hcor.toNat, x.dcor.toNat, x.hunc.toNat, x.dunc.toNat, x.bufCor.toNat, x.rowWb.toNat, x.repairs.toNat,
   (s.hports.toList.map (fun h => h.cmiss.toNat)).foldl (· + ·) 0]

/-- A count of a summary since the previous one, saturating at 32 bits. -/
def since (now before : Nat) : Nat := min (now - before) (2 ^ 32 - 1)

/-- Minutes between summaries (R498). -/
def summaryMin (s : State) : Nat := (fld (s.peat.ctl.get 0xFF) 0 8).toNat

/-- A SUMMARY record is entered (R483). -/
def summarize (s : State) : State :=
  if summaryMin s = 0 then s
  else
    let now := sumCounts s
    let old := if s.peat.sums.isEmpty then List.replicate 8 0 else s.peat.sums
    let cs := List.zipWith since now old ++ [s.peat.supprs]
    let body := (cs.zipIdx).foldl (fun b c => b ||| bodyAt (24 + 4 * c.2) c.1) (0 : BitVec 288)
    peatEnter (mkRec 0x50 (summaryMin s) body) { s with peat := { s.peat with sums := now, suppr := 0, supprs := 0 } }

/-! ### SMBus (R487, R518) -/

/-- Bytes of a value, lowest first. -/
def leBytes {w : Nat} (v : BitVec w) (n : Nat) : List Byte := (List.range n).map (byteAt v)

/-- What the always-on domain does, while its supply is up (R487). -/
def onAon (s : State) (f : State → State) : Host.Outcome State Fault Refusal := .next (if s.aon.up then f s else s)

/-- A command of the SMBus target: at its own address, 0x58 and the straps, and with a good PEC (R518); to any other the target does nothing. -/
def onSmb (b : SmbHdr) (s : State) (f : State → State) : Host.Outcome State Fault Refusal :=
  onAon s (fun s => if b.addr = 0x58 + s.aon.smbAd.setWidth 7 ∧ b.pec = true then f s else s)

/-- PEAT_DATA (R487). -/
def smbData (s : State) : State :=
  match s.peat.first s.peat.sel with
  | some n => ({ s with peat := { s.peat with sel := n + 1 } }).emit (.smb (leBytes (s.peat.recAt n) 64))
  | none => s.emit (.smb [])

/-- WARM_ANNOUNCE (R390, R518). -/
def smbWarm (ms : BitVec 16) (s : State) : State :=
  if s.clk then fwDo (fun s => s.each ports (fun s p => postNotice p 0xA0 ms s)) s else s

/-! ### The commands -/

/-- PEAT_RECORD_WRITE (R480). -/
def execPeatRecordWrite (s : State) : Host.Outcome State Fault Refusal := .next (peatWrite s)
/-- SUMMARY (R483). -/
def execSummary (s : State) : Host.Outcome State Fault Refusal := onClock s summarize
/-- LIMIT_MINUTE (R484). -/
def execLimitMinute (s : State) : Host.Outcome State Fault Refusal := onAon s (fun s => { s with peat := { s.peat with used := 0 } })
/-- PEAT_PTR (R487). -/
def execPeatPtr (b : SmbHdr) (s : State) : Host.Outcome State Fault Refusal :=
  onSmb b s (fun s => s.emit (.smb (leBytes s.peat.oldest 4 ++ leBytes s.peat.next 4)))
/-- PEAT_SEL (R487). -/
def execPeatSel (b : SmbHdr) (seq : W32) (s : State) : Host.Outcome State Fault Refusal :=
  onSmb b s (fun s => { s with peat := { s.peat with sel := seq } })
/-- PEAT_DATA (R487). -/
def execPeatData (b : SmbHdr) (s : State) : Host.Outcome State Fault Refusal := onSmb b s smbData
/-- TEMP (R518). -/
def execTemp (b : SmbHdr) (s : State) : Host.Outcome State Fault Refusal := onSmb b s (fun s => s.emit (.smb s.aon.temps.toList))
/-- POWER (R518). -/
def execPower (b : SmbHdr) (s : State) : Host.Outcome State Fault Refusal :=
  onSmb b s (fun s => (s.emit (.smb (leBytes (Config.power s.freeCtr) 2))).tick1)
/-- WARM_ANNOUNCE (R518). -/
def execWarmAnnounce (b : SmbHdr) (ms : BitVec 16) (s : State) : Host.Outcome State Fault Refusal := onSmb b s (smbWarm ms)

end Sys2Proof.Machine
end

