-- ==== Sys2Proof/Machine/Firmware.lean ====
section
/-! DEFINITION. The remaining commands of the resident firmware, its states, its restart, and the relocation table answers of a start
(R190, R380 to R394, R521). -/

namespace Sys2Proof.Machine

/-! ### Commands answered at the take (R392, R394) -/

/-- PING returns its argument. -/
def pingCmd (p k : Port) (arg : BitVec 16) (s : State) : State := finish p k rcOK arg s

/-- PEAT_READ copies up to seven records from the first one chosen by R486, and stops before NEXT. -/
def peatReadCmd (p k : Port) (arg : BitVec 16) (s : State) : State :=
  let cnt := (fld arg 0 3).toNat
  let x := s.peat
  if fld arg 3 13 ≠ 0 ∨ cnt = 0 then finish p k rcBADARG 0 s
  else
    let s1 := outPar p k 0x08 4 x.next.toNat (outPar p k 0x04 4 x.oldest.toNat s)
    match x.first (BitVec.ofNat 32 ((s.mb p).par k 0 4)) with
    | none => finish p k rcOK 0 s1
    | some f =>
      let n := min cnt (x.next - f).toNat
      let s2 := s1.each (List.range n) (fun s i => outPar p k (0x40 + 64 * i) 64 (x.recAt (f + BitVec.ofNat 32 i)).toNat s)
      finish p k rcOK (BitVec.ofNat 16 n) s2

/-- ERRLOG_READ copies rows of the correction history, empty ones included, up to row 1,023; a row with bad parity is cleared (R346). -/
def errlogCmd (p k : Port) (arg : BitVec 16) (s : State) : State :=
  let a := (fld arg 0 10).toNat
  let cnt := (fld arg 10 6).toNat
  if cnt = 0 ∨ 56 < cnt then finish p k rcBADARG 0 s
  else
    let n := min cnt (1024 - a)
    let rows := s.integ.rows
    let word (r : Nat) : Nat := match rows.find? (fun c => decide (c.1 = r)) with
      | some c => (packHist c.2).toNat
      | none => 0
    let s1 := { s with integ := { s.integ with hist := rows } }
    finish p k rcOK (BitVec.ofNat 16 n) (s1.each (List.range n) (fun s i => outPar p k (0x40 + 8 * i) 8 (word (a + i)) s))

/-- The liveness code of a node: 0 live, 1 declared dead, 2 cut, 3 outside the torus. -/
def nodeCode (s : State) (n : NodeId) : BitVec 2 :=
  if !inTorus s.node n then 3 else if isDead s.fabric n then 1 else if isCut s.node s.fabric n then 2 else 0

/-- NODE_STATUS. -/
def nodeStatusCmd (p k : Port) (arg : BitVec 16) (s : State) : State :=
  let v := (s.mb p).par k 0 4
  let n : NodeId := BitVec.ofNat 18 v
  let d : NodeSt := spGet {} s.fabric.live n.toNat
  if arg ≠ 0 ∨ 2 ^ 18 ≤ v then finish p k rcBADARG 0 s
  else finish p k rcOK (setBit (setBit ((nodeCode s n).setWidth 16) 2 d.purge) 3 d.pass) s

/-- FW_INFO. -/
def fwInfoCmd (p k : Port) (arg : BitVec 16) (s : State) : State :=
  if arg ≠ 0 then finish p k rcBADARG 0 s
  else finish p k rcOK Config.fwVersion (outPar p k 0x04 4 s.node.desc.ident.toNat (outPar p k 0x00 4 Config.fwBuild.toNat s))

/-! ### IDLE, restart, watchdog (R380 to R382) -/

/-- The pair enters IDLE when no command is posted or running (R381). -/
def fwIdle (s : State) : State :=
  if s.fw.st = .run ∧ s.mbx.toList.all (fun m => m.box.toList.all (fun x => !x.busy)) then { s with fw := { s.fw with st := .idle } } else s

/-- The walk command in progress at a restart: REGION_SET and a first STAMP_JOIN are carried on without their command, the walks of
the others end (R382). -/
def severWalk (s : State) : State :=
  match s.fw.walk with
  | none => s
  | some c =>
    if c.opc = 0x10 ∨ c.opc = 0x50 then modFw (fun f => { f with walk := some { c with pk := none } }) s
    else
      let mine (k : WalkKind) : Bool := match k with
        | .flush => decide (c.opc = 0x20)
        | .inval => decide (c.opc = 0x21)
        | .clean => decide (c.opc = 0x22)
        | .powerDown _ => decide (c.opc = 0x31)
        | _ => false
      modFw (fun f => { f with walk := none })
        (s.each sliceNos (fun s i => s.modSl i (fun x => { x with
          walks := x.walks.filter (fun j => !mine j.kind), wgDown := if c.opc = 0x31 then 0 else x.wgDown })))

/-- Multi-device operations go on without the command that asked for them (R382). -/
def severOps (s : State) : State :=
  let s1 := modFw (fun f => { f with
    ctrOps := f.ctrOps.map (fun o => { o with k := none }), joinWait := f.joinWait.map (fun c => (c.1, none, c.2.2))
    relCmd := [], leaveCmd := [] }) (severWalk s)
  s1.modHome (fun h => { h with relocs := h.relocs.map (fun x => { x with pk := none }) })

/-- Every port and mailbox. -/
def boxes : List (Port × Port) := ports.flatMap (fun p => ports.map (fun k => (p, k)))

/-- The pair restarts after a lockstep mismatch or an exception; a second fault within 1 s of a restart leaves it stopped (R382). -/
def fwFault (exc again : Bool) (s : State) : State :=
  if s.fw.st = .loading ∨ s.fw.st = .stopped then s
  else if again then msixAll { s with fw := { s.fw with st := .stopped } }
  else if s.fw.st = .restart then s
  else
    let run := boxes.filter (fun c => ((s.mb c.1).at c.2).running.isSome)
    let lost := (ports.map (fun p => (s.mb p).backlog.length)).foldl (· + ·) 0
    let s1 := run.foldl (fun s c => finish c.1 c.2 rcFAULT 0 s) (severOps s)
    let s2 := s1.each ports (fun s p => (s.modMb p (fun m => { m with backlog := [] })).modHp p (fun h => { h with quarCnt := 0, quarWait := false }))
    let s3 := modFw (fun f => { f with st := .restart, lost := lost }) (masterGone 4 s2)
    let s4 := peatEnter (mkRec 0x11 (if exc then 2 else 1) (bodyAt 24 lost ||| bodyAt 26 run.length)) s3
    msixAll (postEvent 0x90 9 [BitVec.ofNat 64 lost] s4)

/-- Post what waits for the mailboxes of a port that are free. -/
def postAll (p : Port) (s : State) : State := postBacklog p (postBacklog p (postBacklog p (postBacklog p s)))

/-- The pair returns to RUN and takes the messages that have waited for it (R305): FW_RESTARTED with the notices lost, those dropped for the port included (R382, R389, R390). -/
def fwBack (s : State) : State :=
  if s.fw.st = .restart then
    let s1 := modFw (fun f => { f with st := .run, lost := 0 }) s
    ringRun <| msixAll (s1.each ports (fun t p =>
      let a := BitVec.ofNat 16 (min (s.fw.lost + (t.mb p).dropped) 0xFFFF)
      postAll p (postNotice p 0xA4 a (t.modMb p (fun m => { m with dropped := 0 })))))
  else s

/-- The watchdog has not been served for 10 ms: only a stopped pair does not serve it (R382). -/
def watchdog (s : State) : State := if s.fw.st = .stopped then stopDevice 5 3 0 s else s

/-! ### Declarations and tables learnt at a start (R190, R521) -/

/-- The device learns that it is declared dead: its links carry only VC4 and VC5 and its admission stays closed (R521). -/
def learnSelf (s : State) : State :=
  (modLive s.node.node (fun d => { d with dead := true }) s).each fportNos (fun s f =>
    s.modFp f (fun x => if x.link = .up then { x with link := .upMgmt } else x))

/-- Every node declared in an answer is set in the liveness map (R521). -/
def learnDead (ns : List NodeId) (s : State) : State :=
  s.each ns.dedup (fun s n => if n = s.node.node then learnSelf s else declareApply n s)

/-- The answer of the lowest-numbered live member whose table its own cold start did not clear. -/
def bestAnswer (s : State) (a : List TabAnswer) : Option TabAnswer :=
  (a.filter (fun x => !x.cleared && !isLost s.node s.fabric (memNode s x.member))).foldl (fun (b : Option TabAnswer) x =>
    match b with
    | some y => if x.member.toNat < y.member.toNat then some x else some y
    | none => some x) none

/-- The answers to the query are evaluated (R190). -/
def tableAnswers (a : List TabAnswer) (s : State) : State :=
  if !s.fw.tabTry || s.fw.tabDone then s
  else
    let s1 := learnDead (a.flatMap (·.dead)) s
    match bestAnswer s1 a with
    | some x => applyNotices (modFw (fun f => { f with tabDone := true }) (s1.modHome (fun h => { h with rtab := x.table })))
    | none =>
      if (livePeers s1.node s1.fabric).all (fun n => a.any (fun x => decide (memNode s1 x.member = n))) then
        applyNotices (modFw (fun f => { f with tabDone := true }) s1)
      else s1

/-! ### The commands -/

/-- PING (R392). -/
def execPing (p k : Port) (s : State) : Host.Outcome State Fault Refusal := onClock s (command p k 0x01 (fun _ => true) (pingCmd p k))
/-- PEAT_READ (R486). -/
def execPeatRead (p k : Port) (s : State) : Host.Outcome State Fault Refusal := onClock s (command p k 0x70 (fun _ => true) (peatReadCmd p k))
/-- ERRLOG_READ (R392). -/
def execErrlogRead (p k : Port) (s : State) : Host.Outcome State Fault Refusal := onClock s (command p k 0x71 (fun _ => true) (errlogCmd p k))
/-- NODE_STATUS (R392). -/
def execNodeStatus (p k : Port) (s : State) : Host.Outcome State Fault Refusal := onClock s (command p k 0x80 (fun _ => true) (nodeStatusCmd p k))
/-- FW_INFO (R392). -/
def execFwInfo (p k : Port) (s : State) : Host.Outcome State Fault Refusal := onClock s (command p k 0xF0 (fun _ => true) (fwInfoCmd p k))
/-- FW_IDLE (R381). -/
def execFwIdle (s : State) : Host.Outcome State Fault Refusal := onClock s fwIdle
/-- FW_RESTART (R382). -/
def execFwRestart (exc again : Bool) (s : State) : Host.Outcome State Fault Refusal := onClock s (fwFault exc again)
/-- FW_RESTART_COMPLETE (R382). -/
def execFwRestartComplete (s : State) : Host.Outcome State Fault Refusal := onClock s fwBack
/-- WATCHDOG (R382). -/
def execWatchdog (s : State) : Host.Outcome State Fault Refusal := onClock s watchdog
/-- RELOCATION_TABLE_ANSWER (R190, R521). -/
def execRelocationTableAnswer (a : List TabAnswer) (s : State) : Host.Outcome State Fault Refusal := onClock s (fwDo (tableAnswers a))

end Sys2Proof.Machine
end

