-- ==== Sys2Proof/Machine/Host.lean ====
section
/-! DEFINITION. The commands of the hosts: Emhal messages (R292), CXL.mem messages (R121, R122), and the events of the host
links (R287 to R297). Every command acts in the clocked domains only. -/

namespace Sys2Proof.Machine

/-! ### Emhal requests -/

/-- RdShared: a shared read of a line (R117). -/
def execRdshared (m : EMsg) (s : State) : Host.Outcome State Fault Refusal := onClock s (fun s => arrive (emReq .rdShared 64 m) (gives m s))
/-- RdOwn: an ownership read of a line (R117). -/
def execRdown (m : EMsg) (s : State) : Host.Outcome State Fault Refusal := onClock s (fun s => arrive (emReq .rdOwn 64 m) (gives m s))
/-- Upgrade: write permission for a line held shared (R117); a breach in stamp mode (R236). -/
def execUpgrade (m : EMsg) (s : State) : Host.Outcome State Fault Refusal := onClock s (fun s => arrive (emReq .upgrade 64 m) (gives m s))
/-- RdCur: a read of LEN bytes with no grant (R117). -/
def execRdcur (m : EMsg) (s : State) : Host.Outcome State Fault Refusal := onClock s (fun s => arrive (emReq .rdCur m.len.toNat m) (gives m s))
/-- Write: an ordinary store (R69). -/
def execWrite (m : EMsg) (s : State) : Host.Outcome State Fault Refusal := onClock s (fun s => arrive (emReq .write m.len.toNat m) (gives m s))
/-- WriteNT: a non-temporal store (R77). -/
def execWritent (m : EMsg) (s : State) : Host.Outcome State Fault Refusal := onClock s (fun s => arrive (emReq .writeNT m.len.toNat m) (gives m s))

/-- A WbDirty in its port (R117): merged from the exclusive host, else a host error. It passes no admission control. -/
def wbDirty (m : EMsg) (s : State) : State :=
  let l := lineOf m.addr
  if !receives s m.port false then s
  else if isExcl s m.port l then hostWb m.port l m.data m.poison (decide (m.grant = 1)) s
  else hostErr m.port 4 opcWbDirty (some l) s
/-- WbDirty: a dirty writeback (R117, R523). -/
def execWbdirty (m : EMsg) (s : State) : Host.Outcome State Fault Refusal := onClock s (fun s => wbDirty m (gives m s))

/-- EvictClean: a clean eviction notice (R117, R213). -/
def execEvictclean (m : EMsg) (s : State) : Host.Outcome State Fault Refusal :=
  onClock s (fun s => if receives s m.port false then evictNotice m.port (lineOf m.addr) (gives m s) else s)
/-- Atomic: LEN is 4, 8 or 16 (R199, R203). -/
def execAtomic (m : EMsg) (s : State) : Host.Outcome State Fault Refusal := onClock s (fun s => arrive (emReq .atomic m.len.toNat m) (gives m s))
/-- RsvLoad: a reserved load on slot RSLOT (R211). -/
def execRsvload (m : EMsg) (s : State) : Host.Outcome State Fault Refusal := onClock s (fun s => arrive (emReq .rsvLoad m.len.toNat m) (gives m s))
/-- CondStore: a conditional store on slot RSLOT (R214). -/
def execCondstore (m : EMsg) (s : State) : Host.Outcome State Fault Refusal := onClock s (fun s => arrive (emReq .condStore m.len.toNat m) (gives m s))

/-- A Barrier in its port (R221). In stamp mode it carries the stamp of its position (R292), whose breach is a breach of
R235; only BAR.DONE is answered (R293). -/
def barrierMsg (m : EMsg) (s : State) : State :=
  let p := m.port
  let h := s.hp p
  let reply (st : BitVec 3) (s : State) : State :=
    if m.bkind = 3 then toHost p (.cmp (m.etag.setWidth 16) st 0 false false) s else s
  if !receives s p false || decide (h.hreq = 0) then s
  else if s.fabric.selfDead then reply stDEAD s
  else if (breachOf s { emReq .exc 0 m with stamp := m.stamp }).isSome then reply stERR (breach p s)
  else
    let s1 := match h.stamped, m.stamp with
      | true, some t => s.setHp p { h with lastSt := spIns m.strm.toNat t h.lastSt }
      | _, _ => s
    barrier m s1
/-- Barrier: BKIND, BSCOPE, STRM (R221). -/
def execBarrier (m : EMsg) (s : State) : Host.Outcome State Fault Refusal := onClock s (fun s => barrierMsg m (gives m s))
/-- PfHint: a prefetch hint for a line (R87, R251). -/
def execPfhint (m : EMsg) (s : State) : Host.Outcome State Fault Refusal := onClock s (fun s => arrive (emReq .pfHint 64 m) (gives m s))

/-- A Floor in its port (R235, R236): the floor rises; one below the current floor, or with no stamp word, is a breach. -/
def floorMsg (m : EMsg) (s : State) : State :=
  let h := s.hp m.port
  if !receives s m.port false || !h.stamped || decide (h.hreq = 0) then s
  else match m.stamp with
  | none => breach m.port s
  | some f => if f.ult h.floor then breach m.port s else s.setHp m.port { h with floor := f }
/-- Floor: the stamp word is the floor (R235, R292). -/
def execFloor (m : EMsg) (s : State) : Host.Outcome State Fault Refusal := onClock s (fun s => floorMsg m (gives m s))
/-- Exception: the host signals an exception at this position of STRM (R100, R212). -/
def execException (m : EMsg) (s : State) : Host.Outcome State Fault Refusal := onClock s (fun s => arrive (emReq .exc 0 m) (gives m s))
/-- SnpRsp: the answer to a snoop, with 64 B of data when LEN is 64 (R118, R120). -/
def execSnprsp (m : EMsg) (s : State) : Host.Outcome State Fault Refusal :=
  onClock s (fun s => if receives s m.port false then
    downMoves (snoopAnswer m.port m.etag (decide (m.rsp = 0)) (if m.len = 64 then some (m.data, m.poison) else none) opcSnpRsp (gives m s)) else s)

/-- The opcode is one a host sends (R292). -/
def hostOpcode (o : BitVec 6) : Bool := decide (o.toNat ≤ 0x11)
/-- A message with a reserved opcode is discarded, counted and posted (R292, R523). -/
def execReservedEmhalOpcode (m : EMsg) (opc : BitVec 6) (s : State) : Host.Outcome State Fault Refusal :=
  onClock s (fun s => if receives s m.port false && !hostOpcode opc then hostErr m.port 1 opc none (gives m s) else s)

/-! ### CXL.mem -/

/-- MemRd: an ownership read, a shared read or a read of current data by its meta value; a read of current data while the host
has not enabled back-invalidation (R121, R123). -/
def memRdOp (s : State) (c : CMsg) : Op :=
  if !(s.hp c.port).biEn then .rdCur
  else match c.meta_ with
  | .any => .rdOwn
  | .shared => .rdShared
  | .invalid => .rdCur
/-- MemRd (R121). -/
def execMemrd (c : CMsg) (s : State) : Host.Outcome State Fault Refusal :=
  onClock s (fun s => arrive (cxlReq (memRdOp s c) fullMask c) s)

/-- A contracted request of the hit category is done at once: its miss token and its place are given back (R257). -/
def HPort.served (h : HPort) : HPort :=
  { h with outst := h.outst - 1, ctr := h.ctr.refund }

/-- Admission of a CXL request that is done at once; one refused is not taken from the link (R257, R320, R494). -/
def admitCxl (p : Port) (l : LAddr) (done : State → State) (s : State) : State :=
  match verdict s p l with
  | .refuse b =>
    let s1 := pmu 0x21 (some p.val) s
    if b then s1.modHp p (fun h => { h with crefuse := h.crefuse + 1 }) else s1
  | .accept b =>
    let s1 := pmu 0x20 (some p.val) s
    if b then (done (charge p l s1)).modHp p HPort.served else done s1

/-- A full-line MemWr (R121): the writeback of the exclusive host, its state after taken from the meta value; otherwise a
non-temporal store. While a BISnp for the line is outstanding it is accepted whatever admission says (R122). -/
def memWr (c : CMsg) (s : State) : State :=
  let p := c.port
  let l := lineOf c.addr
  if !receives s p true then s
  else if s.fabric.selfDead || !decoded s p (lineAddr l) || !isExcl s p l then arrive (cxlReq .writeNT fullMask c) s
  else
    let done (s : State) : State :=
      toHost p (.cmp c.tag stOK 0 false false) (hostWb p l c.data c.poison (decide (c.meta_ ≠ .invalid)) s)
    if (s.hp p).snps.any (fun n => decide (n.line = l)) then done s
    else if !(s.hp p).admOpen then s
    else admitCxl p l done s
/-- MemWr (R121). -/
def execMemwr (c : CMsg) (s : State) : Host.Outcome State Fault Refusal := onClock s (memWr c)
/-- MemWrPtl: a non-temporal store of the enabled bytes (R121). -/
def execMemwrptl (c : CMsg) (s : State) : Host.Outcome State Fault Refusal := onClock s (arrive (cxlReq .writeNT c.be c))

/-- MemSpecRd (R121): accepted, at the price of admission, and ignored; it needs no home, so its miss token comes back (R257). -/
def memSpecRd (c : CMsg) (s : State) : State :=
  let p := c.port
  if !receives s p true || !(s.hp p).admOpen || s.fabric.selfDead || !decoded s p (lineAddr (lineOf c.addr)) then s
  else admitCxl p (lineOf c.addr) id s
/-- MemSpecRd (R121). -/
def execMemspecrd (c : CMsg) (s : State) : Host.Outcome State Fault Refusal := onClock s (memSpecRd c)
/-- BIRsp: BIRspI, BIRspS or BIRspE completes its BISnp (R122). -/
def execBirsp (p : Port) (etag : BitVec 12) (rsp : BitVec 2) (s : State) : Host.Outcome State Fault Refusal :=
  onClock s (fun s => if receives s p true then downMoves (snoopAnswer p etag (decide (rsp = 0)) none 0 s) else s)
/-- BIConflict: answered by BIConflictAck (R122). -/
def execBiconflict (p : Port) (etag : BitVec 12) (s : State) : Host.Outcome State Fault Refusal :=
  onClock s (fun s => if receives s p true then toHost p (.biConflictAck etag) s else s)
/-- Host software commits an HDM decoder (R22). -/
def execHdmDecoderCommit (p : Port) (d : Fin 4) (base size : W64) (s : State) : Host.Outcome State Fault Refusal :=
  onClock s (fun s => if (s.hp p).cxl then hdmCommit p d base size s else s)
/-- The CXL host enables back-invalidation (R123, R317 BI_EN). -/
def execBackInvalidationEnable (p : Port) (s : State) : Host.Outcome State Fault Refusal :=
  onClock s (fun s => if (s.hp p).cxl then s.modHp p (fun h => { h with biEn := true }) else s)
/-- The CXL host enables MSI-X (R403). -/
def execMsiXEnable (p : Port) (s : State) : Host.Outcome State Fault Refusal :=
  onClock s (fun s => if (s.hp p).cxl then msixCheck p (s.modHp p (fun h => { h with msix := true })) else s)

/-! ### Links and waits -/

/-- A snoop unanswered for TMO (R120). -/
def execSnoopTimeout (p : Port) (etag : BitVec 12) (s : State) : Host.Outcome State Fault Refusal := onClock s (fun s => downMoves (snoopTmo p etag s))
/-- A host link completes training (R288). -/
def execHostLinkTrained (p : Port) (x16 g6 : Bool) (s : State) : Host.Outcome State Fault Refusal := onClock s (linkTrained p x16 g6)
/-- A host link enters Recovery (R289). -/
def execHostLinkRecovery (p : Port) (s : State) : Host.Outcome State Fault Refusal := onClock s (enterRecovery p)
/-- A host link leaves Recovery (R289). -/
def execHostLinkRecovered (p : Port) (x16 g6 : Bool) (flits : W64) (s : State) : Host.Outcome State Fault Refusal :=
  onClock s (linkRecovered p x16 g6 flits)
/-- Recovery has lasted longer than 10 ms (R289). -/
def execRecoveryTimeout (p : Port) (s : State) : Host.Outcome State Fault Refusal :=
  onClock s (fun s => if (s.hp p).link = .recovery then portDown p s else s)
/-- The LTSSM leaves L0 and Recovery for another state (R289). -/
def execLtssmExit (p : Port) (s : State) : Host.Outcome State Fault Refusal := onClock s (portDown p)
/-- The walk that clears HP bit p is done (R297). -/
def execPortDownWalkDone (p : Port) (s : State) : Host.Outcome State Fault Refusal := onClock s (portWalkDone p)
/-- A waiting request is tried again (R37, R76, R84, R295). -/
def execWaiterResume (w : WaitRef) (s : State) : Host.Outcome State Fault Refusal := onClock s (fun s => downMoves (resume w s))

end Sys2Proof.Machine
end

