-- ==== Sys2Proof/Machine/Tap.lean ====
section
/-! DEFINITION. The test access port: boundary scan, identification, freeze status, chains and arrays of a frozen die (R491, R492). -/

namespace Sys2Proof.Machine

/-- Load the instruction register. -/
def setIr (c : Byte) (s : State) : State := { s with tap := { s.tap with ir := c } }

/-- Bits shifted through a register of the given content: what leaves on TDO, and what the register then holds. -/
def shiftThrough (reg tdi : List Bool) : List Bool × List Bool := ((reg ++ tdi).take tdi.length, (reg ++ tdi).drop tdi.length)

/-- Bits shifted through the one-bit bypass register. -/
def viaBypass (tdi : List Bool) (s : State) : State :=
  let y := shiftThrough [s.tap.bypass] tdi
  { s with tap := { s.tap with bypass := y.2.headD s.tap.bypass } }.emit (.tdo y.1)

/-- The boundary scan register: the pins' levels are captured, the bits shifted in are held (R491). -/
def viaBscan (bits : List Bool) (s : State) : State :=
  let cap := (List.range Config.bscanLen).map (Config.pinSample s.freeCtr)
  let y := shiftThrough cap bits
  ({ s with tap := { s.tap with bscan := y.2 } }.emit (.tdo y.1)).tick1

/-- An instruction with its condition of R491: outside it, it acts as BYPASS. -/
def tapIf (c : Byte) (ok : Bool) (tdi : List Bool) (f : State → State) (s : State) : State :=
  if ok then f (setIr c s) else viaBypass tdi (setIr c s)

/-- RESET_N is held low. -/
def resetLow (s : State) : Bool := !s.pins.resetN

/-- Outputs are in high impedance: HIGHZ is the current instruction and RESET_N is low (R491). -/
def tapHighZ (s : State) : Bool := decide (s.tap.ir = 0x03) && resetLow s

/-- The levels that the boundary scan register drives onto the outputs, while it does (R491). -/
def tapDrives (s : State) : Option (List Bool) :=
  if resetLow s ∧ [0x00, 0x04, 0x05, 0x06].contains s.tap.ir then some s.tap.bscan else none

/-- The bits of a 32-bit data register as they leave, least significant first. -/
def wordBits (v : W32) : List Bool := (List.range 32).map v.getLsbD

/-- IDCODE (R491). -/
def idcodeWord : W32 := Config.step ++ (0x8820 : BitVec 16) ++ Config.jep106 ++ (1 : BitVec 1)
/-- FRZSTAT (R491). -/
def frzstatWord (s : State) : W32 :=
  (0 : BitVec 20) ++ s.dbg.code ++ s.dbg.src ++ (if s.dbg.frozen then (1 : BitVec 1) else 0)

/-- The content of a chain: as shifted since the freeze, else what the freeze holds (R492). -/
def chainBits (s : State) (c : Nat) : List Bool :=
  match s.tap.chains.find? (fun x => decide (x.1 = c)) with
  | some x => x.2
  | none => (List.range (Config.chainLen c)).map (Config.chainBit c s.tap.snap)

/-- CHAINSEL with the length read back: [7:0] chain, [31:8] its length (R491, R492). -/
def chainSelect (v : W32) (s : State) : State :=
  let c : Byte := fld v 0 8
  { s with tap := { s.tap with chain := c } }.emit (.tdo (wordBits (BitVec.ofNat 24 (Config.chainLen c.toNat) ++ c)))

/-- CHAINSCAN: shifting a chain leaves it with the bits shifted in (R492). -/
def chainShift (tdi : List Bool) (s : State) : State :=
  let c := s.tap.chain.toNat
  let y := shiftThrough (chainBits s c) tdi
  { s with tap := { s.tap with chains := spIns c y.2 s.tap.chains } }.emit (.tdo y.1)

/-- ARRAYSEL with the row width read back: [7:0] array, [31:8] first row, its width (R491). -/
def arraySelect (v : W32) (s : State) : State :=
  let a : Byte := fld v 0 8
  { s with tap := { s.tap with array := a, row := (fld v 8 24).toNat } }.emit (.tdo (wordBits (BitVec.ofNat 24 (Config.arrayWidth a.toNat) ++ a)))

/-- ARRAYRD: the current row, which then advances by 1 (R491). -/
def arrayRead (s : State) : State :=
  let a := s.tap.array.toNat
  let r := s.tap.row
  { s with tap := { s.tap with row := r + 1 } }.emit
    (.tdo ((List.range (Config.arrayWidth a)).map (Config.arrayBit a r s.tap.snap)))

/-- The test logic works while TRST_N is high, whatever the other clocks do (R488); with TRST_N low it stays reset and drives nothing (R515). -/
def onTap (s : State) (f : State → State) : Host.Outcome State Fault Refusal := .next (if s.pins.trstN then f s else s)

/-! ### The commands -/

/-- EXTEST (R491). -/
def execExtest (bits : List Bool) (s : State) : Host.Outcome State Fault Refusal := onTap s (fun s => tapIf 0x00 (resetLow s) bits (viaBscan bits) s)
/-- SAMPLE/PRELOAD (R491). -/
def execSamplePreload (bits : List Bool) (s : State) : Host.Outcome State Fault Refusal := onTap s (fun s => viaBscan bits (setIr 0x01 s))
/-- IDCODE (R491). -/
def execIdcode (s : State) : Host.Outcome State Fault Refusal := onTap s (fun s => (setIr 0x02 s).emit (.tdo (wordBits idcodeWord)))
/-- HIGHZ (R491): it selects bypass, within its condition and outside it. -/
def execHighz (s : State) : Host.Outcome State Fault Refusal := onTap s (fun s => setIr 0x03 s)
/-- CLAMP (R491): it selects bypass, within its condition and outside it. -/
def execClamp (s : State) : Host.Outcome State Fault Refusal := onTap s (fun s => setIr 0x04 s)
/-- EXTEST_PULSE (R491). -/
def execExtestPulse (bits : List Bool) (s : State) : Host.Outcome State Fault Refusal := onTap s (fun s => tapIf 0x05 (resetLow s) bits (viaBscan bits) s)
/-- EXTEST_TRAIN (R491). -/
def execExtestTrain (bits : List Bool) (s : State) : Host.Outcome State Fault Refusal := onTap s (fun s => tapIf 0x06 (resetLow s) bits (viaBscan bits) s)
/-- FRZSTAT (R491). -/
def execFrzstat (s : State) : Host.Outcome State Fault Refusal := onTap s (fun s => (setIr 0xC0 s).emit (.tdo (wordBits (frzstatWord s))))
/-- CHAINSEL (R491, R492). -/
def execChainsel (v : W32) (s : State) : Host.Outcome State Fault Refusal := onTap s (fun s => tapIf 0xC1 s.dbg.frozen (wordBits v) (chainSelect v) s)
/-- CHAINSCAN (R491, R492). -/
def execChainscan (tdi : List Bool) (s : State) : Host.Outcome State Fault Refusal := onTap s (fun s => tapIf 0xC2 s.dbg.frozen tdi (chainShift tdi) s)
/-- ARRAYSEL (R491). -/
def execArraysel (v : W32) (s : State) : Host.Outcome State Fault Refusal := onTap s (fun s => tapIf 0xC3 s.dbg.frozen (wordBits v) (arraySelect v) s)
/-- ARRAYRD (R491). -/
def execArrayrd (s : State) : Host.Outcome State Fault Refusal := onTap s (fun s => tapIf 0xC4 s.dbg.frozen [] arrayRead s)
/-- BYPASS (R491). -/
def execBypass (tdi : Bool) (s : State) : Host.Outcome State Fault Refusal := onTap s (fun s => viaBypass [tdi] (setIr 0xFF s))

end Sys2Proof.Machine
end

