-- ==== Sys2Proof/Machine/Startup.lean ====
section
/-! DEFINITION. What a cold or warm start keeps, and the steps of the start-up to the opening of admission (R24, R68, R328, R333,
R351 to R354, R361, R366, R455, R463 to R469, R521). -/

namespace Sys2Proof.Machine

/-! ### What each start keeps (R455) -/

/-- The fabric ports with their EN, which MRAM keeps (R324). -/
def fportsKept (s : State) : Vector FPort 6 := s.fports.map (fun x => .reset (x.ctl.get vmFport))

/-- The Peat record and its writer across a reset: the registers of DBG and the summary counts start anew (R455, R493). -/
def Peat.kept (x : Peat) : Peat := { x with suppr := 0, supprs := 0, sums := [], ctl := .mk1 0x403C }

/-- The state right after a cold reset of a kind: MRAM and the AON registers other than AON_FILLBLK are kept (R455). -/
def coldReset (kind : BitVec 2) (s : State) : State :=
  { State.reset with
    pending := s.pending, out := s.out, sent := s.sent, freeCtr := s.freeCtr, seqNo := s.seqNo
    fabric := { Fabric.reset with fed := s.out.length, wire := s.fabric.wire }
    slices := s.slices.map (fun x => { Slice.reset with wdis := x.wdis })
    fports := fportsKept s, integ := .reset s.integ.repMap s.integ.repRaw, gen := .reset s.gen.time
    aon := { s.aon with fillBlk := 0 }, peat := s.peat.kept, tap := { s.tap with chains := [] }, pins := s.pins
    crp := { Crp.reset with powered := s.crp.powered, kind := kind } }

/-- The state a warm start begins with: HBM and DDR5 content, the fill, the correction history and the relocation state are kept
as well (R455). -/
def warmReset (s : State) : State :=
  let h := s.home
  { State.reset with
    pending := s.pending, out := s.out, sent := s.sent, freeCtr := s.freeCtr, seqNo := s.seqNo
    fabric := { Fabric.reset with fed := s.out.length, wire := s.fabric.wire }
    node := { Node.reset with changes := s.node.changes }
    slices := s.slices.map (fun x => { Slice.reset with wdis := x.wdis, tags := x.tags, slots := x.slots, tsFlaw := x.tsFlaw, slotFlaw := x.slotFlaw })
    home := { Home.reset with rtab := h.rtab, notices := h.notices, stubs := h.stubs, frames := h.frames, moving := h.moving, unacked := h.unacked
                              relocs := h.relocs.map (fun x => { x with pk := none }) }
    fports := fportsKept s
    mem := { s.mem with hbmTrained := 0, ddrTrained := 0, hot := 0, sevCor := Vector.replicate 4 0, sevUnc := Vector.replicate 4 0 }
    integ := { Integ.reset s.integ.repMap s.integ.repRaw with hist := s.integ.hist, inForce := s.integ.inForce.filter (fun r => !r.onDie) }
    fw := { Fw.reset with tabDone := s.fw.tabDone, coldClr := s.fw.coldClr }
    gen := .reset s.gen.time, aon := s.aon, peat := s.peat.kept, tap := s.tap, pins := s.pins
    crp := { Crp.reset with powered := s.crp.powered, kind := 2, pllLock := true, started := true, bootWarm := true, slotB := s.crp.slotB
                            phase := .fuses, startT := s.aon.cycles } }

/-- A cold start begins (R463, R464 step 1). -/
def beginCold (s : State) : State :=
  { s with crp := { s.crp with started := true, waitRst := false, phase := .pll, startT := s.aon.cycles } }

/-- The device restarts as after RESET_N (R460, R462). -/
def restartCold (s : State) : State := beginCold (coldReset 1 s)

/-! ### Failures (R467) -/

/-- The start-up stops: a STOP record of cause 6, PHASE 0xA, and no link trains. -/
def startFail (unit idx : Nat) (s : State) : State :=
  let s1 := recStop 6 unit idx 0 s
  { s1 with
    crp := { s1.crp with phase := .stopped }
    fports := s1.fports.map (fun x => { x with link := .down })
    hports := s1.hports.map (fun h => { h with link := .down }) }

/-! ### Steps 1 to 3: clocks, fuses, MRAM, self-test -/

/-- Both PLLs lock (R464 step 1). -/
def pllLocked (s : State) : State :=
  if s.crp.started ∧ s.crp.phase = .pll then { s with crp := { s.crp with pllLock := true, phase := .fuses } } else s

/-- The higher of the two stored copies of NEXT, in arithmetic modulo 2^32 (R485). -/
def Peat.higher (x : Peat) : W32 := if (x.copyA - x.copyB).toNat < 2 ^ 31 then x.copyA else x.copyB

/-- NEXT advances while the slot there holds the valid record of its number (R485). -/
def Peat.advance (x : Peat) : Nat → W32 → W32
  | 0, n => n
  | k + 1, n => if recValid (spGet 0 x.ring (n.toNat % peatSlots)) n then x.advance k (n + 1) else n

/-- The START record, ahead of everything else (R101, R482). -/
def startRec (s : State) : PRec :=
  { type := 0x01, hw := true, cause := s.aon.cause.setWidth 32
    body := bodyAt 24 s.aon.heldCnt.toNat ||| bodyAt 26 s.aon.dirty.toNat ||| bodyAt 30 s.crp.kind.toNat }

/-- At every start the recorded rows of the on-die arrays are switched in (R354). At a cold start every applied repair of DRAM is applied again,
and counted, with no event of its own (R352; DESIGN CHOICE, log 48). -/
def again (p : RepLoc → Bool) (s : State) : State :=
  let es := (s.integ.repMap.filter (fun e => decide (e.st = .applied) && p e.loc && (e.loc.onDie || decide (s.crp.kind ≠ 2)))).map (·.loc)
  { s with integ := { s.integ with
      inForce := s.integ.inForce ++ es.filter (fun r => !s.integ.inForce.contains r)
      repairs := s.integ.repairs + BitVec.ofNat 64 (es.filter (fun r => !r.onDie)).length } }

/-- The repairs that wait for a start are applied, where a spare is left (R351, R354). -/
def startRepairs (p : RepLoc → Bool) (s : State) : State :=
  (again p s).each ((s.integ.repMap.filter (fun e => decide (e.st = .pending) && p e.loc)).map (·.loc)) (fun s r =>
    repairEnd r (Config.spareLeft r.loc s.freeCtr) s.tick1)

/-- An HBM row. -/
def RepLoc.inHbm : RepLoc → Bool
  | .hbm _ => true
  | _ => false
/-- A DDR5 row. -/
def RepLoc.inDdr : RepLoc → Bool
  | .ddr _ => true
  | _ => false

/-- Fuses and MRAM are read (R464 step 2): the ring's pointer, the count of starts, the START record, the spares. -/
def mramRead (s : State) : State :=
  if s.crp.phase = .fuses then
    let x := s.peat
    let n := x.advance peatSlots x.higher
    let s1 := { s with peat := { x with next := n, copyA := n, copyB := n, starts := x.starts + 1, own := startRec s :: x.own }
                       aon := { s.aon with stopHeld := false }, crp := { s.crp with phase := .selfTest } }
    startRepairs RepLoc.onDie s1
  else s

/-- On-die array rows that fail the start-up test are recorded and their spares switched in; with the map full a row is not recorded, and no spare is
switched in for it (DESIGN CHOICE, log 48); without a spare the start-up stops (R350, R354). -/
def arrayFails : List (BitVec 16 × Bool) → State → State
  | [], s => s
  | (i, true) :: t, s =>
    let m := s.integ.repMap
    arrayFails t (
      if m.any (fun e => decide (e.loc = .array i)) then repairEnd (.array i) true s
      else if 4096 ≤ m.length then mapIsFull (.array i) s
      else repairEnd (.array i) true (repNew (.array i) s))
  | (i, false) :: _, s => startFail 4 i.toNat (peatEnter (mkRec 0x32 3 (bodyAt 24 i.toNat)) s)

/-- The self-test ends (R366, R354). -/
def selfTested (r : SelfTest) (s : State) : State :=
  if s.crp.phase = .selfTest then
    match r.checker with
    | some c => startFail 3 c.toNat { s with integ := { s.integ with bistFail := true, checker := c } }
    | none => arrayFails r.arrays { s with integ := { s.integ with bistDone := true }, crp := { s.crp with testOk := true, phase := .training } }
  else s

/-! ### Steps 4 to 9: image, memories -/

/-- The steps between the self-test and the release of the management cores run (R464, R469). -/
def preparing (s : State) : Bool := s.crp.testOk && (decide (s.crp.phase = .training) || decide (s.crp.phase = .fills))

/-- The phase while the parallel steps run: repairs and zero-fill once HBM is trained; firmware initialisation when all are done. -/
def nextPhase (s : State) : State :=
  let c := s.crp
  if !preparing s then s
  else { s with crp := { c with phase :=
    if c.imageOk && c.hbmOk && c.ddrOk && s.mem.hbmFilled && s.mem.fill1g then .fwInit
    else if c.hbmOk then .fills else .training } }

/-- The system description passes R24: every axis of 1 to 64, and every coordinate less than its axis's size. -/
def descOk (d : SysDesc) : Bool :=
  let ax (n : Nat) : Bool := decide (1 ≤ n) && decide (n ≤ 64)
  let inside (x : NodeId) : Bool := decide (coord x 0 < d.xsz) && decide (coord x 1 < d.ysz) && decide (coord x 2 < d.zsz)
  ax d.xsz && ax d.ysz && ax d.zsz && inside d.node && inside d.root

/-- The node ID, torus sizes and time root are loaded, and the enabled fabric ports begin to train (R315, R464 steps 4 and 10). -/
def loadDesc (d : SysDesc) (s : State) : State :=
  let n : Node := { s.node with
    loaded := true, node := d.node, xsz := BitVec.ofNat 6 (d.xsz - 1), ysz := BitVec.ofNat 6 (d.ysz - 1), zsz := BitVec.ofNat 6 (d.zsz - 1)
    root := d.root, dist := if d.node = d.root then 0 else 0x7F, desc := d }
  { s with node := n }.each fportNos (fun s f =>
    match neighbour n n.node f with
    | some _ => if (s.fp f).en then s.modFp f (fun p => { p with link := .training }) else s
    | none => s)

/-- Flash address of an image slot of 16 MiB: slot A, or slot B (R517). -/
def slotAddr (b : Bool) : BitVec 28 := if b then 0x1000000 else 0

/-- The image of a slot is read from flash, whose SFDP is read first (R517). -/
def flashRead (b : Bool) (s : State) : State := { s with crp := { s.crp with slotB := b, flash := ⟨true, true, slotAddr b⟩ } }

/-- The image is read and its signature checked: after a warm reset the one kept, where it still verifies (R469 step 4); else slot A, else slot B, else
the start-up stops (R464 step 4, R467, R24). -/
def imageLoaded (r : ImageResult) (s : State) : State :=
  if !preparing s || s.crp.imageOk then s
  else
    let s1 := if s.crp.kind = 2 ∧ r.kept = true then s else if r.sigA then flashRead false s else flashRead true (flashRead false s)
    if !(decide (s.crp.kind = 2) && r.kept) && !r.sigA && !r.sigB then startFail 5 0 s1
    else if !descOk r.desc then startFail 6 0 s1
    else nextPhase (loadDesc r.desc { s1 with crp := { s1.crp with imageOk := true } })

/-- HBM training ends; the waiting repairs are made (R328, R351). -/
def hbmTrained (t : BitVec 4) (s : State) : State :=
  if !preparing s || s.crp.hbmOk then s
  else
    let s1 := { s with mem := { s.mem with hbmTrained := t } }
    if t ≠ 0xF then startFail 1 (~~~t).toNat s1
    else nextPhase (startRepairs RepLoc.inHbm { s1 with crp := { s1.crp with hbmOk := true } })

/-- The HBM zero-fill completes (R361). -/
def hbmFill (s : State) : State :=
  if preparing s && s.crp.hbmOk then nextPhase { s with mem := { s.mem with hbmFilled := true } } else s

/-- The test of a disabled way ends before DDR5 training does (R353). -/
def wayTested (i : SliceNo) (region : BitVec 6) (w : Way) (clean : Bool) (s : State) : State :=
  let r := region.toNat
  if preparing s && s.crp.hbmOk && s.mem.hbmFilled && !s.crp.ddrOk && clean && bit ((s.sl i).disMap r) w.val then
    postEvent 0x26 2 [wayW0 i r w.val 0] (s.modSl i (fun x => { x with wdis := spSet 0 r (setBit (x.disMap r) w.val false) x.wdis }))
  else s

/-- A DIMM that the controller accepts (R332). -/
def dimmOk (d : Dimm) : Bool :=
  let die : Nat := match d.dens.toNat with | 0 => 32 | 1 => 48 | 2 => 64 | _ => 0
  d.rdimm && d.x4 && decide (d.gib = die * (if d.rank2 then 2 else 1)) && decide (die ≠ 0)

/-- The DIMM of a channel, when it is accepted and is of the kind of channel 0 (R332, R333). -/
def dimmLike (dimms : List (Option Dimm)) (c : Nat) : Option Dimm :=
  match dimms.getD c none, dimms.getD 0 none with
  | some d, some e => if dimmOk d ∧ d.gib = e.gib ∧ d.rank2 = e.rank2 ∧ d.dens = e.dens then some d else none
  | _, _ => none

/-- The channels of a range that do not carry the same accepted DIMM. -/
def badChannels (dimms : List (Option Dimm)) (n : Nat) : List Nat := (List.range n).filter (fun c => (dimmLike dimms c).isNone)

/-- DDR5 training ends: TRAINED names the channels whose DIMM trained (R370), channels are selected, the waiting repairs made, or the start-up stops (R332, R333, R337, R351). -/
def ddrTrain (dimms : List (Option Dimm)) (s : State) : State :=
  if !preparing s || s.crp.ddrOk then s
  else
    let up : BitVec 8 := (List.range 8).foldl (fun b c => setBit b c (dimms.getD c none).isSome) 0
    let s := { s with mem := { s.mem with ddrTrained := up, selfRef := false } }
    let n := if (badChannels dimms 8).isEmpty then 8 else 4
    match dimmLike dimms 0 with
    | some d =>
      if (badChannels dimms n).isEmpty then
        let slow := (List.range n).any (fun c => match dimmLike dimms c with | some x => x.slow | none => false)
        let s1 := { s with mem := { s.mem with
          chan := if n = 8 then 0xFF else 0x0F, dimmGib := BitVec.ofNat 8 d.gib
          ranks2 := d.rank2, dens := d.dens, slow := slow, size := BitVec.ofNat 64 (n * d.gib * 2 ^ 30) } }
        nextPhase (startRepairs RepLoc.inDdr { s1 with crp := { s1.crp with ddrOk := true } })
      else startFail 2 ((badChannels dimms 4).foldl (fun a c => a + 2 ^ c) 0) s
    | none => startFail 2 ((badChannels dimms 4).foldl (fun a c => a + 2 ^ c) 0) s

/-- The first GiB of DDR5 is filled and the background fill begins (R361, R464 step 9). -/
def firstFill (s : State) : State :=
  if preparing s && s.crp.ddrOk && !s.mem.fill1g then
    nextPhase { s with mem := { s.mem with fill1g := true, fillBlk := 512 }, aon := { s.aon with fillBlk := 512 } }
  else s

/-! ### Steps 11 to 13: firmware, links, admission -/

/-- The policy map of the description, and, after a warm start, the changes made since the image was loaded (R68, R455). -/
def loadPolicy (s : State) : State :=
  let m0 : Sparse Unit := s.node.desc.wt.foldl (fun m c => spIns (policyIdx c.1 c.2) () m) []
  let m := s.node.changes.foldl (fun m c => if c.2.2 then spIns (policyIdx c.1 c.2.1) () m else spDel (policyIdx c.1 c.2.1) m) m0
  { s with node := { s.node with wtMap := m, wtCopy := m, wtBad := [], guests := s.node.desc.guests } }

/-- MODE of each host port from the description; a port with a mode begins to train (R288, R464 steps 11 and 12). -/
def loadModes (s : State) : State :=
  s.each ports (fun s p =>
    let m : BitVec 2 := s.node.desc.modes.getD p.val 0
    s.modHp p (fun h =>
      let h1 := { h with linkCtl := .mk1 (setFld (h.linkCtl.get vmLinkCtl) 0 2 m) }
      { h1 with link := if h1.mode = 0 then .down else .training }))

/-- What this member reports in the QUIET exchange goes to the others (R460, R521). -/
def sendQuiet (s : State) : State :=
  (((members s.node).map (memNode s)).filter (fun n => decide (n ≠ s.node.node))).foldl
    (fun s n => sendVc5 n (.quiet s.aon.quiet (declared s)) s) s

/-- The management cores are released (R464 step 11, R469 step 5): FW_STATE reads RUN, the description is applied, the relocation
table is asked for after a cold start. -/
def fwRelease (s : State) : State :=
  if s.crp.phase = .fwInit then
    let s1 := loadModes (loadPolicy { s with fw := { s.fw with st := .run }, crp := { s.crp with phase := .links } })
    let s2 := if s1.fw.tabDone then s1
      else if (members s1.node).all (fun m => decide (m = self s1)) then modFw (fun f => { f with tabTry := true, tabDone := true }) s1
      else askTables s1
    ringRun (msixAll (s2.each ports (fun s p => postAll p s)))
  else s

/-- Every enabled fabric port is up, or taken as lost (R466, R468). -/
def fabricReady (s : State) : Bool :=
  fportNos.all (fun f => let x := s.fp f; decide (x.link ≠ .training))

/-- After a warm start QUIET is sent once the fabric links have retrained (R469 steps 6 and 8). -/
def quietStep (s : State) : State :=
  if s.crp.kind = 2 ∧ !s.crp.kept ∧ s.crp.phase = .links ∧ !s.crp.quietOut ∧ fabricReady s then
    fwDo (fun s => sendQuiet { s with crp := { s.crp with quietOut := true } }) s
  else s

/-- Admission may open on a port (R466, R190, R460, R521). -/
def mayOpen (s : State) (p : Port) : Bool :=
  (decide (s.crp.phase = .links) || decide (s.crp.phase = .running)) && decide ((s.hp p).link = .up) && fabricReady s &&
    s.fw.tabDone && !isDead s.fabric s.node.node && (decide (s.crp.kind ≠ 2) || s.crp.kept)

/-- Admission opens on a port; the first of a start ends it (R466, R477). -/
def openAdmission (p : Port) (s : State) : State :=
  if mayOpen s p then
    let s1 := s.modHp p (fun h => { h with admOpen := true })
    if s.crp.phase = .links then
      { s1 with crp := { s1.crp with phase := .running, bootTime := BitVec.ofNat 16 (min ((s.aon.cycles - s.crp.startT).toNat / 2500) 0xFFFF) } }
    else s1
  else s

/-! ### The commands -/

/-- PWR_OK (R463): with the rails in tolerance and REFCLK running, RESET_N is high, the other pins released (log 22), and the cold
start begins. The board drives TRST_N high, or its pull-down keeps the test logic reset (R515). -/
def execPwrOk (trstN : Bool) (s : State) : Host.Outcome State Fault Refusal :=
  onAon s (fun s => if s.crp.started then s
    else beginCold { s with pins := ⟨true, true, true, true, trstN⟩, crp := { s.crp with powered := true }, tap := if trstN then s.tap else State.reset.tap })
/-- PLL_LOCK (R464). -/
def execPllLock (s : State) : Host.Outcome State Fault Refusal := onAon s pllLocked
/-- FUSE_AND_MRAM_READ_DONE (R464). -/
def execFuseAndMramReadDone (s : State) : Host.Outcome State Fault Refusal := onClock s mramRead
/-- CHECKER_SELF_TEST_DONE (R366). -/
def execCheckerSelfTestDone (r : SelfTest) (s : State) : Host.Outcome State Fault Refusal := onClock s (selfTested r)
/-- IMAGE_LOAD_DONE (R464). -/
def execImageLoadDone (r : ImageResult) (s : State) : Host.Outcome State Fault Refusal := onClock s (imageLoaded r)
/-- HBM_TRAINING_DONE (R328). -/
def execHbmTrainingDone (t : BitVec 4) (s : State) : Host.Outcome State Fault Refusal := onClock s (hbmTrained t)
/-- HBM_ZERO_FILL_DONE (R361). -/
def execHbmZeroFillDone (s : State) : Host.Outcome State Fault Refusal := onClock s hbmFill
/-- DDR5_TRAINING_DONE (R333). -/
def execDdr5TrainingDone (dimms : List (Option Dimm)) (s : State) : Host.Outcome State Fault Refusal := onClock s (ddrTrain dimms)
/-- FIRST_GIB_FILL_DONE (R361). -/
def execFirstGibFillDone (s : State) : Host.Outcome State Fault Refusal := onClock s firstFill
/-- FIRMWARE_RELEASE (R464). -/
def execFirmwareRelease (s : State) : Host.Outcome State Fault Refusal := onClock s fwRelease
/-- ADMISSION_OPEN (R466). -/
def execAdmissionOpen (p : Port) (s : State) : Host.Outcome State Fault Refusal := onClock s (openAdmission p)
/-- DISABLED_WAY_TEST_DONE (R353). -/
def execDisabledWayTestDone (i : SliceNo) (region : BitVec 6) (w : Way) (clean : Bool) (s : State) : Host.Outcome State Fault Refusal :=
  onClock s (wayTested i region w clean)

end Sys2Proof.Machine
end

