-- ==== Sys2Proof/Machine/Power.lean ====
section
/-! DEFINITION. Supplies and pins: power-on and -off, RESET_N, the warm and power-fail drains, the freeze pin, rail and temperature
monitors (R100 to R102, R453 to R462, R472 to R474, R488 to R490, R507, R508, R513). -/

namespace Sys2Proof.Machine

/-! ### Counts and drains -/

/-- Write-merge and combining entries. -/
def mergeEntries (s : State) : Nat :=
  (s.slices.toList.map (fun x => x.wmb.length)).foldl (· + ·) 0 + (s.hports.toList.map (fun h => h.ntc.length)).foldl (· + ·) 0

/-- Entries that hold data not yet accepted by a home (R101): write-merge and combining entries, and dirty lines of the Causeway. -/
def heldData (s : State) : Nat :=
  mergeEntries s +
    (s.slices.toList.map (fun x => (x.cw.filter (fun e => decide (e.st = .M) || decide (e.st = .O))).length)).foldl (· + ·) 0

/-- Entries of the buffers left over at a drain's deadline (R100), those of the Reedbed that hold a line among them. -/
def leftOver (s : State) : Nat :=
  mergeEntries s + (s.slices.toList.map (fun x => x.cw.length + (x.rb.filter (fun e => !e.awaited)).length)).foldl (· + ·) 0

/-- The counts of R101 are latched in the always-on domain. -/
def latchCounts (s : State) : State :=
  { s with aon := { s.aon with heldCnt := BitVec.ofNat 16 (heldData s), dirty := BitVec.ofNat 31 (dirtySum s) } }

/-- The DRAIN record (R482): cause 1 warm, 2 power-fail, 3 power-fail while frozen. -/
def drainRec (cause left : Nat) (s : State) : State :=
  peatOwn { type := 0x20, hw := true, cause := BitVec.ofNat 32 cause
            body := bodyAt 24 left ||| bodyAt 28 (dirtySum s) ||| bodyAt 32 s.peat.queue.length |||
              bodyAt 33 (if cause = 1 ∧ s.aon.quiet then 1 else 0) } s

/-- What is left in the buffers is discarded. -/
def dropEntries (s : State) : State :=
  { s with slices := s.slices.map (fun x => { x with wmb := [], cw := [], rb := [] }), hports := s.hports.map (fun h => { h with ntc := [] }) }

/-- Admission stops, and the buffers are completed to the reachable homes (R100): in a warm drain the E and F entries of the Reedbed
go through the Causeway and the shadow's PLRU is written to TS; in a power-fail drain they are freed without notice. -/
def drainBegin (warm : Bool) (s : State) : State :=
  let s1 := { s with arb := { s.arb with allShut := true } }
  let s2 := issueEvery (closeEntries (fun _ => true) (fun _ => true) s1)
  s2.each sliceNos (fun s i =>
    if warm then (rbFree (fun _ => true) i s).modSl i Slice.flushPlru else s.modSl i (fun x => { x with rb := x.rb.filter (·.awaited) }))

/-- Host ports go down at the assertion of WRST_N; the actions of R297 are not performed, and snoops outstanding end as answered by a
host, the HP bits standing as they are (R461). -/
def portsDrop (s : State) : State :=
  s.each ports (fun s p =>
    let h := s.hp p
    let s1 := quarEnds p (masterGone ⟨p.val, by omega⟩ (s.setHp p { h with link := .down, admOpen := false, msix := false, msixLive := false }))
    s1.each h.snps (fun s n => snoopEnds p n false none opcSnpRsp s))

/-! ### RESET_N (R101, R454, R457) -/

/-- The device is inert or stopped with its cause kept (R456, R474). -/
def causeKept (s : State) : Bool := s.aon.stopHeld || s.crp.waitOn

/-- A cold reset is asserted: the counts are latched, any drain is abandoned, and everything but AON and MRAM is lost. -/
def assertCold (s : State) : State :=
  let s1 := latchCounts s
  let c : BitVec 3 := if causeKept s then s.aon.cause else 1
  let s2 := coldReset 1 { s1 with aon := { s1.aon with cause := c } }
  { s2 with crp := { s2.crp with waitRst := true } }

/-! ### Warm drain and start (R457 to R462) -/

/-- WRST_N acts as RESET_N: during a stop, or a start-up before the first fill has ended, and with EN = 0 (R457, R478). -/
def warmAsCold (s : State) : Bool :=
  decide (s.crp.phase = .stopped) || s.fabric.selfDead || !s.mem.fill1g || !bit (s.crp.warmCtl.get 1) 0

/-- WRST_N falls (R457, R459); a frozen device takes it for RESET_N (R490). -/
def warmPin (s : State) : State :=
  let s1 := { s with pins := { s.pins with wrstN := false } }
  if s.crp.waitOn || s.crp.waitRst || !s.crp.started then s1
  else if s.dbg.frozen then assertCold s1
  else if s.crp.phase = .pfDrain ∨ s.crp.phase = .warmDrain then s1
  else if warmAsCold s then assertCold s1
  else
    drainBegin true (portsDrop { s1 with aon := { s1.aon with cause := 2 }, crp := { s1.crp with phase := .warmDrain, drained := false } })

/-- A stand-alone device: every axis has size 1 (R462). -/
def standAlone (s : State) : Bool := decide (s.node.xsz = 0) && decide (s.node.ysz = 0) && decide (s.node.zsz = 0)

/-- The start after the warm drain: a warm one, or cold for a stand-alone device that is not quiet (R460, R462, R469). -/
def warmStart (s : State) : State :=
  let s1 := { s with aon := { s.aon with warmCnt := satInc16 s.aon.warmCnt } }
  if standAlone s then
    (if s.aon.quiet then let s2 := warmReset s1; { s2 with crp := { s2.crp with kept := true } } else restartCold s1)
  else warmReset s1

/-- The deadline of the warm drain (R102, R459, R460): leftovers are discarded and counted, QUIET is recorded, WARM leaves on every
up link and the device falls silent. With WRST_N released already, the start begins (R454). -/
def warmDeadline (s : State) : State :=
  if s.crp.phase = .warmDrain ∧ !s.crp.drained then
    let left := leftOver s
    let q := decide (left = 0) && s.slices.toList.all (fun x => x.stt.isEmpty) && s.home.tt.isEmpty
    let s1 := s.each sliceNos (fun s i => s.modSl i Slice.flushPlru)
    let s2 := flood none .warm { s1 with aon := { s1.aon with quiet := q } }
    let s3 := drainRec 1 left s2
    let s4 := stopFabric { dropEntries s3 with crp := { s3.crp with drained := true } }
    if s.pins.wrstN then warmStart s4 else s4
  else s

/-- WRST_N is released: the start begins, once the drain has ended (R454). Where WRST_N acted as RESET_N the start is cold; so it is where the die was
frozen in the drain, since a frozen device takes WRST_N for RESET_N (R490). -/
def warmRelease (s : State) : State :=
  let s0 := { s with pins := { s.pins with wrstN := true } }
  if s.crp.waitRst then (if !s.pins.wrstN ∧ s.pins.resetN then beginCold s0 else s0)
  else if s.crp.phase = .warmDrain then
    if s.dbg.frozen then beginCold (assertCold s0) else if s.crp.drained then warmStart s0 else s0
  else s0

/-- A warm start waits for the QUIET exchange. -/
def quietWaits (s : State) : Bool := decide (s.crp.kind = 2) && !s.crp.kept && decide (s.crp.phase = .links)

/-- The answers of the QUIET exchange (R460, R521). -/
def quietResult (a : List QuietAnswer) (s : State) : State :=
  if !quietWaits s then s
  else
    let others := (members s.node).filter (fun m => decide (m ≠ self s))
    let dead := a.flatMap (·.dead)
    if dead.contains s.node.node || !s.aon.quiet || a.any (fun x => !x.quiet) then restartCold s
    else if others.all (fun m => a.any (fun x => decide (x.member = m))) then
      let s1 := learnDead dead s
      { s1 with crp := { s1.crp with kept := true } }
    else s

/-! ### Power failure (R457, R472 to R474, R508) -/

/-- The drain of a power failure begins, and every reservation ends (R212); a start-up stops, with nothing to drain, and a stop before it no longer gives
the cause (R457). On a frozen die the counts are latched and the record is written, a drain that the freeze met included. -/
def failDrain (s : State) : State :=
  if s.crp.waitOn || s.crp.waitRst || !s.crp.started then s
  else if s.dbg.frozen then drainRec 3 (leftOver s) (latchCounts s)
  else if s.crp.phase = .pfDrain then s
  else
    let was := s.crp.phase
    let held := s.aon.stopHeld && (decide (was = .running) || decide (was = .warmDrain) || decide (was = .stopped))
    let s1 := { s with crp := { s.crp with phase := .pfDrain }, aon := { s.aon with stopHeld := held }, hports := s.hports.map (fun h => { h with rsv := [], rsvBad := [] }) }
    if was = .running ∨ was = .warmDrain then drainBegin false s1 else s1

/-- A record of a limited type is discarded (R480). -/
def keepRec (r : PRec) : Bool := !peatLimited r.type

/-- 100 µs after PFAIL_N: leftovers are abandoned and counted, held writes are in DRAM, transmission stops, the DRAIN record comes
next, and the device is inert (R336, R472, R480). -/
def failDeadline (s : State) : State :=
  if s.crp.phase = .pfDrain ∧ !s.crp.waitOn ∧ !s.dbg.frozen then
    let left := leftOver s
    let s1 := drainAll s
    let s2 := dropEntries { s1 with mem := { s1.mem with selfRef := true }
                                    peat := { s1.peat with queue := s1.peat.queue.filter keepRec, source := s1.peat.source.filter keepRec } }
    let s3 := stopFabric (drainRec 2 left s2)
    { s3 with crp := { s3.crp with phase := .stopped, waitOn := true }
              aon := { s3.aon with cause := if s3.aon.stopHeld then s3.aon.cause else 3 } }
  else s

/-! ### Supplies (R454, R507, R508) -/

/-- The rails fall: the die's, HBM's and DDR5's state is lost, that of the test logic with VDDIO; without VAON the AON content as well (R507, R423,
R515). -/
def railsDown (vaonToo : Bool) (s : State) : State :=
  let s1 := coldReset 1 s
  let s2 := { s1 with crp := { s1.crp with powered := false }, tap := State.reset.tap, pins := { s1.pins with trstN := false } }
  if vaonToo then { s2 with aon := { State.reset.aon with up := false }, peat := { s2.peat with own := [], queue := [], source := [], sel := 0, used := 0 } }
  else s2

/-- The AON supply rises, and the straps of the SMBus address are sampled (R454, R455, R423, R515). -/
def supplyRise (s : State) : State :=
  let s1 := coldReset 0 s
  { s1 with aon := { State.reset.aon with smbAd := Config.smbStrap }, crp := { s1.crp with powered := false }, tap := State.reset.tap
            pins := { s1.pins with trstN := false }
            peat := { s1.peat with own := [], queue := [], source := [], sel := 0, used := 0 } }

/-- A rail trips while operating (R508). -/
def railTrip (vaon : Bool) (s : State) : State :=
  if vaon then railsDown true s
  else if s.crp.started && s.pins.pfailN then failDrain s
  else s

/-! ### Monitors (R453, R513) -/

/-- REFCLK or a lock is lost (R453). -/
def refLoss (s : State) : State :=
  if s.crp.started && !s.crp.waitOn then stopDevice 4 2 0 { s with crp := { s.crp with refLost := true } } else s

/-- The temperature at which the device stops (R513): 115 °C, or 125 °C for grade X. -/
def hotLimit : Int := if Config.gradeX then 125 else 115

/-- Temperatures are sampled (R513): refresh of a stack above 85 °C is doubled, and a die at the limit for 1 ms, that is in two
samples in a row, stops the device. -/
def tempSample (t : List Byte) (s : State) : State :=
  let ts : Vector Byte 5 := s.aon.temps.mapFinIdx (fun i x _ => t.getD i x)
  let ms : Vector Nat 5 := s.aon.hotMs.mapFinIdx (fun i n h => if hotLimit ≤ (ts[i]).toInt then n + 1 else 0)
  let s1 := { s with aon := { s.aon with temps := ts, hotMs := ms } }
  let hot : BitVec 4 := (List.range 4).foldl (fun b k => setBit b k (decide (85 < (vget ts (k + 1) 0).toInt))) 0
  let s2 := if s.clk then { s1 with mem := { s1.mem with hot := hot } } else s1
  match (List.range 5).find? (fun i => decide (2 ≤ vget ms i 0)) with
  | some i => if s.crp.started && !s.crp.waitOn then stopAt 4 1 i 0 s2 else s2
  | none => s2

/-! ### The commands -/

/-- POWER_ON (R454). -/
def execPowerOn (s : State) : Host.Outcome State Fault Refusal := .next (supplyRise s)
/-- RESET_N (R457). -/
def execResetN (s : State) : Host.Outcome State Fault Refusal :=
  onAon s (fun s => assertCold { s with pins := { s.pins with resetN := false } })
/-- WRST_N (R459). -/
def execWrstN (s : State) : Host.Outcome State Fault Refusal := onAon s warmPin
/-- WARM_DRAIN_DEADLINE (R460). -/
def execWarmDrainDeadline (s : State) : Host.Outcome State Fault Refusal := onClock s warmDeadline
/-- WRST_N_RELEASE (R469). -/
def execWrstNRelease (s : State) : Host.Outcome State Fault Refusal := onAon s warmRelease
/-- QUIET_EXCHANGE_RESULT (R460). -/
def execQuietExchangeResult (a : List QuietAnswer) (s : State) : Host.Outcome State Fault Refusal := onClock s (fwDo (quietResult a))
/-- QUIET_TIMEOUT (R460). -/
def execQuietTimeout (s : State) : Host.Outcome State Fault Refusal :=
  onClock s (fwDo (fun s => if quietWaits s then restartCold s else s))
/-- PFAIL_N (R472). -/
def execPfailN (s : State) : Host.Outcome State Fault Refusal :=
  onAon s (fun s => failDrain { s with pins := { s.pins with pfailN := false } })
/-- PFAIL_DRAIN_DEADLINE (R472). -/
def execPfailDrainDeadline (s : State) : Host.Outcome State Fault Refusal := onAon s failDeadline
/-- FREEZE_N (R488). -/
def execFreezeN (s : State) : Host.Outcome State Fault Refusal :=
  onAon s (fun s =>
    let s1 := { s with pins := { s.pins with freezeN := false } }
    if s.crp.started && !s.crp.waitOn then freezeDie 1 0 s1 else s1)
/-- RAIL_TRIP (R508). -/
def execRailTrip (vaon : Bool) (s : State) : Host.Outcome State Fault Refusal := onAon s (railTrip vaon)
/-- REFCLK_LOSS (R453). -/
def execRefclkLoss (s : State) : Host.Outcome State Fault Refusal := onAon s refLoss
/-- TEMPERATURE_SAMPLE (R513). -/
def execTemperatureSample (t : List Byte) (s : State) : Host.Outcome State Fault Refusal := onAon s (tempSample t)
/-- POWER_DOWN (R507). -/
def execPowerDown (vaonToo : Bool) (s : State) : Host.Outcome State Fault Refusal := onAon s (railsDown vaonToo)

end Sys2Proof.Machine
end

