-- ==== Sys2Proof/Machine/Dispatch.lean ====
section
/-! DEFINITION. The dispatch of the commands: one arm per constructor, each one direct call of its meaning. -/

namespace Sys2Proof.Machine

/-- The effect of a command on everything but the queue. -/
def exec (i : Instr) (s : State) : Host.Outcome State Fault Refusal :=
  match i with
  | .rdshared m => Sys2Proof.Machine.execRdshared m s
  | .rdown m => Sys2Proof.Machine.execRdown m s
  | .upgrade m => Sys2Proof.Machine.execUpgrade m s
  | .rdcur m => Sys2Proof.Machine.execRdcur m s
  | .write m => Sys2Proof.Machine.execWrite m s
  | .writent m => Sys2Proof.Machine.execWritent m s
  | .wbdirty m => Sys2Proof.Machine.execWbdirty m s
  | .evictclean m => Sys2Proof.Machine.execEvictclean m s
  | .atomic m => Sys2Proof.Machine.execAtomic m s
  | .rsvload m => Sys2Proof.Machine.execRsvload m s
  | .condstore m => Sys2Proof.Machine.execCondstore m s
  | .barrier m => Sys2Proof.Machine.execBarrier m s
  | .barDoneComplete p etag => Sys2Proof.Machine.execBarDoneComplete p etag s
  | .pfhint m => Sys2Proof.Machine.execPfhint m s
  | .floor m => Sys2Proof.Machine.execFloor m s
  | .exception m => Sys2Proof.Machine.execException m s
  | .snprsp m => Sys2Proof.Machine.execSnprsp m s
  | .memrd c => Sys2Proof.Machine.execMemrd c s
  | .memwr c => Sys2Proof.Machine.execMemwr c s
  | .memwrptl c => Sys2Proof.Machine.execMemwrptl c s
  | .memspecrd c => Sys2Proof.Machine.execMemspecrd c s
  | .birsp p etag rsp => Sys2Proof.Machine.execBirsp p etag rsp s
  | .biconflict p etag => Sys2Proof.Machine.execBiconflict p etag s
  | .hdmDecoderCommit p d base size => Sys2Proof.Machine.execHdmDecoderCommit p d base size s
  | .snoopTimeout p etag => Sys2Proof.Machine.execSnoopTimeout p etag s
  | .hostLinkTrained p x16 g6 => Sys2Proof.Machine.execHostLinkTrained p x16 g6 s
  | .hostLinkRecovery p => Sys2Proof.Machine.execHostLinkRecovery p s
  | .recoveryTimeout p => Sys2Proof.Machine.execRecoveryTimeout p s
  | .ltssmExit p => Sys2Proof.Machine.execLtssmExit p s
  | .portDownWalkDone p => Sys2Proof.Machine.execPortDownWalkDone p s
  | .retrain p w => Sys2Proof.Machine.execRetrain p w s
  | .hportLinkModeWrite p w => Sys2Proof.Machine.execHportLinkModeWrite p w s
  | .rds m => Sys2Proof.Machine.execRds m s
  | .rdx m => Sys2Proof.Machine.execRdx m s
  | .upg m => Sys2Proof.Machine.execUpg m s
  | .rdu m => Sys2Proof.Machine.execRdu m s
  | .wru m => Sys2Proof.Machine.execWru m s
  | .amof m => Sys2Proof.Machine.execAmof m s
  | .pfq m => Sys2Proof.Machine.execPfq m s
  | .putm m => Sys2Proof.Machine.execPutm m s
  | .puto m => Sys2Proof.Machine.execPuto m s
  | .pute m => Sys2Proof.Machine.execPute m s
  | .puts m => Sys2Proof.Machine.execPuts m s
  | .ack m => Sys2Proof.Machine.execAck m s
  | .invack m comb => Sys2Proof.Machine.execInvack m comb s
  | .probeResponse m dirty => Sys2Proof.Machine.execProbeResponse m dirty s
  | .datas m => Sys2Proof.Machine.execDatas m s
  | .datae m => Sys2Proof.Machine.execDatae m s
  | .datam m => Sys2Proof.Machine.execDatam m s
  | .cmp m => Sys2Proof.Machine.execCmp m s
  | .nack m => Sys2Proof.Machine.execNack m s
  | .nackRetry z rtid => Sys2Proof.Machine.execNackRetry z rtid s
  | .wback m => Sys2Proof.Machine.execWback m s
  | .fwds m => Sys2Proof.Machine.execFwds m s
  | .fwdx m => Sys2Proof.Machine.execFwdx m s
  | .inv m => Sys2Proof.Machine.execInv m s
  | .binv m => Sys2Proof.Machine.execBinv m s
  | .probe m => Sys2Proof.Machine.execProbe m s
  | .claimWindowExpiry num => Sys2Proof.Machine.execClaimWindowExpiry num s
  | .ownerPutTimeout num => Sys2Proof.Machine.execOwnerPutTimeout num s
  | .forwardedAckTimeout num => Sys2Proof.Machine.execForwardedAckTimeout num s
  | .wmbHoldExpiry z id => Sys2Proof.Machine.execWmbHoldExpiry z id s
  | .ntcHoldExpiry p id => Sys2Proof.Machine.execNtcHoldExpiry p id s
  | .waiterResume w => Sys2Proof.Machine.execWaiterResume w s
  | .prefetchWindowClose z => Sys2Proof.Machine.execPrefetchWindowClose z s
  | .wayDisableDone z region way => Sys2Proof.Machine.execWayDisableDone z region way s
  | .waygroupPowerdownDone g => Sys2Proof.Machine.execWaygroupPowerdownDone g s
  | .waygroupPowerupDone g => Sys2Proof.Machine.execWaygroupPowerupDone g s
  | .cacheDrainDone z => Sys2Proof.Machine.execCacheDrainDone z s
  | .rangeWalkDone => Sys2Proof.Machine.execRangeWalkDone s
  | .policyWalkDone m region => Sys2Proof.Machine.execPolicyWalkDone m region s
  | .purgeWalkDone n => Sys2Proof.Machine.execPurgeWalkDone n s
  | .deadRequestTimeout n => Sys2Proof.Machine.execDeadRequestTimeout n s
  | .sweepPassDone n => Sys2Proof.Machine.execSweepPassDone n s
  | .readmission n => Sys2Proof.Machine.execReadmission n s
  | .horizonPeriod k l => Sys2Proof.Machine.execHorizonPeriod k l s
  | .floorReport g k d z cnt => Sys2Proof.Machine.execFloorReport g k d z cnt s
  | .horizonResult g k h z => Sys2Proof.Machine.execHorizonResult g k h z s
  | .stampStall => Sys2Proof.Machine.execStampStall s
  | .memberListUpdate g n join => Sys2Proof.Machine.execMemberListUpdate g n join s
  | .flit f x => Sys2Proof.Machine.execFlit f x s
  | .transitBypass f x => Sys2Proof.Machine.execTransitBypass f x s
  | .broadcastReplicate f m => Sys2Proof.Machine.execBroadcastReplicate f m s
  | .combinedInvack m cnt => Sys2Proof.Machine.execCombinedInvack m cnt s
  | .heartbeatSend => Sys2Proof.Machine.execHeartbeatSend s
  | .heartbeat f time dist delay => Sys2Proof.Machine.execHeartbeat f time dist delay s
  | .linkLost f c => Sys2Proof.Machine.execLinkLost f c s
  | .linklost f n peer t => Sys2Proof.Machine.execLinklost f n peer t s
  | .linklostDecision f => Sys2Proof.Machine.execLinklostDecision f s
  | .declaration f n => Sys2Proof.Machine.execDeclaration f n s
  | .packetAged f x => Sys2Proof.Machine.execPacketAged f x s
  | .warm f => Sys2Proof.Machine.execWarm f s
  | .fabricLinkTrained f neigh => Sys2Proof.Machine.execFabricLinkTrained f neigh s
  | .fabricTrainingTimeout f => Sys2Proof.Machine.execFabricTrainingTimeout f s
  | .regionPolicyChange m region wt src => Sys2Proof.Machine.execRegionPolicyChange m region wt src s
  | .regionSetAck n => Sys2Proof.Machine.execRegionSetAck n s
  | .regionSetTimeout => Sys2Proof.Machine.execRegionSetTimeout s
  | .contractShareReserve n p missr depth => Sys2Proof.Machine.execContractShareReserve n p missr depth s
  | .contractShareAnswer n p ok => Sys2Proof.Machine.execContractShareAnswer n p ok s
  | .contractReqTimeout p => Sys2Proof.Machine.execContractReqTimeout p s
  | .contractRelComplete p => Sys2Proof.Machine.execContractRelComplete p s
  | .stampJoinCleanDone p hzn => Sys2Proof.Machine.execStampJoinCleanDone p hzn s
  | .stampLeaveComplete p => Sys2Proof.Machine.execStampLeaveComplete p s
  | .frameReservationAnswer n orig region ok => Sys2Proof.Machine.execFrameReservationAnswer n orig region ok s
  | .frameReservationTimeout orig region => Sys2Proof.Machine.execFrameReservationTimeout orig region s
  | .relocationCopyDone orig region copied => Sys2Proof.Machine.execRelocationCopyDone orig region copied s
  | .relocationNotice src orig region gen home => Sys2Proof.Machine.execRelocationNotice src orig region gen home s
  | .relocationDrainDone orig region => Sys2Proof.Machine.execRelocationDrainDone orig region s
  | .relocationFinalCopyDone orig region copied => Sys2Proof.Machine.execRelocationFinalCopyDone orig region copied s
  | .readyNotice src orig region gen => Sys2Proof.Machine.execReadyNotice src orig region gen s
  | .relocationAck n orig region gen => Sys2Proof.Machine.execRelocationAck n orig region gen s
  | .stubRelease orig region gen => Sys2Proof.Machine.execStubRelease orig region gen s
  | .relocationTableAnswer a => Sys2Proof.Machine.execRelocationTableAnswer a s
  | .relocationTableRetry => Sys2Proof.Machine.execRelocationTableRetry s
  | .patrolScrubRead ddr ups => Sys2Proof.Machine.execPatrolScrubRead ddr ups s
  | .patrolPeriodEnd ddr => Sys2Proof.Machine.execPatrolPeriodEnd ddr s
  | .liveRepairDone ok => Sys2Proof.Machine.execLiveRepairDone ok s
  | .leak => Sys2Proof.Machine.execLeak s
  | .backgroundFillBlock => Sys2Proof.Machine.execBackgroundFillBlock s
  | .fillSlotDone block => Sys2Proof.Machine.execFillSlotDone block s
  | .heldWriteRelease => Sys2Proof.Machine.execHeldWriteRelease s
  | .voteCheck => Sys2Proof.Machine.execVoteCheck s
  | .ping p k => Sys2Proof.Machine.execPing p k s
  | .regionSet p k => Sys2Proof.Machine.execRegionSet p k s
  | .regionGet p k => Sys2Proof.Machine.execRegionGet p k s
  | .flushRange p k => Sys2Proof.Machine.execFlushRange p k s
  | .invalRange p k => Sys2Proof.Machine.execInvalRange p k s
  | .cleanAll p k => Sys2Proof.Machine.execCleanAll p k s
  | .waylock p k => Sys2Proof.Machine.execWaylock p k s
  | .waylockLoad p k => Sys2Proof.Machine.execWaylockLoad p k s
  | .waygroupPowerDown p k => Sys2Proof.Machine.execWaygroupPowerDown p k s
  | .waygroupPowerUp p k => Sys2Proof.Machine.execWaygroupPowerUp p k s
  | .contractReq p k => Sys2Proof.Machine.execContractReq p k s
  | .contractRel p k => Sys2Proof.Machine.execContractRel p k s
  | .stampJoin p k => Sys2Proof.Machine.execStampJoin p k s
  | .stampLeave p k => Sys2Proof.Machine.execStampLeave p k s
  | .homeRelocate p k => Sys2Proof.Machine.execHomeRelocate p k s
  | .peatRead p k => Sys2Proof.Machine.execPeatRead p k s
  | .errlogRead p k => Sys2Proof.Machine.execErrlogRead p k s
  | .nodeStatus p k => Sys2Proof.Machine.execNodeStatus p k s
  | .fwInfo p k => Sys2Proof.Machine.execFwInfo p k s
  | .mbxOutack p k w late => Sys2Proof.Machine.execMbxOutack p k w late s
  | .fwIdle => Sys2Proof.Machine.execFwIdle s
  | .fwRestart exc again => Sys2Proof.Machine.execFwRestart exc again s
  | .fwRestartComplete => Sys2Proof.Machine.execFwRestartComplete s
  | .watchdog => Sys2Proof.Machine.execWatchdog s
  | .genUnlock w => Sys2Proof.Machine.execGenUnlock w s
  | .keyTimeout m => Sys2Proof.Machine.execKeyTimeout m s
  | .genSemRead a n => Sys2Proof.Machine.execGenSemRead a n s
  | .genSemRelease n w => Sys2Proof.Machine.execGenSemRelease n w s
  | .counterLoRead a => Sys2Proof.Machine.execCounterLoRead a s
  | .indDataRead a => Sys2Proof.Machine.execIndDataRead a s
  | .indDataWrite a => Sys2Proof.Machine.execIndDataWrite a s
  | .slowWriteDone m => Sys2Proof.Machine.execSlowWriteDone m s
  | .evqRdWrite p w => Sys2Proof.Machine.execEvqRdWrite p w s
  | .evqMarkWrite p w => Sys2Proof.Machine.execEvqMarkWrite p w s
  | .flush p w => Sys2Proof.Machine.execFlush p w s
  | .rewind p w => Sys2Proof.Machine.execRewind p w s
  | .evqHoldExpiry p => Sys2Proof.Machine.execEvqHoldExpiry p s
  | .cacheDisable z w => Sys2Proof.Machine.execCacheDisable z w s
  | .cacheEnable z w => Sys2Proof.Machine.execCacheEnable z w s
  | .slcWaylockWrite z w => Sys2Proof.Machine.execSlcWaylockWrite z w s
  | .shadowEnClear z w => Sys2Proof.Machine.execShadowEnClear z w s
  | .hportSnpCtlWrite p w => Sys2Proof.Machine.execHportSnpCtlWrite p w s
  | .homeLaneCtlWrite w => Sys2Proof.Machine.execHomeLaneCtlWrite w s
  | .slcRetryCtlWrite z w => Sys2Proof.Machine.execSlcRetryCtlWrite z w s
  | .stampWaysWrite w => Sys2Proof.Machine.execStampWaysWrite w s
  | .sluiceClose w => Sys2Proof.Machine.execSluiceClose w s
  | .walkhold w => Sys2Proof.Machine.execWalkhold w s
  | .fportCtlEnWrite f w => Sys2Proof.Machine.execFportCtlEnWrite f w s
  | .sw w => Sys2Proof.Machine.execSw w s
  | .clear w => Sys2Proof.Machine.execClear w s
  | .registerWrite a => Sys2Proof.Machine.execRegisterWrite a s
  | .peatRecordWrite => Sys2Proof.Machine.execPeatRecordWrite s
  | .summary => Sys2Proof.Machine.execSummary s
  | .limitMinute => Sys2Proof.Machine.execLimitMinute s
  | .peatPtr b => Sys2Proof.Machine.execPeatPtr b s
  | .peatSel b seq => Sys2Proof.Machine.execPeatSel b seq s
  | .peatData b => Sys2Proof.Machine.execPeatData b s
  | .temp b => Sys2Proof.Machine.execTemp b s
  | .power b => Sys2Proof.Machine.execPower b s
  | .warmAnnounce b ms => Sys2Proof.Machine.execWarmAnnounce b ms s
  | .extest bits => Sys2Proof.Machine.execExtest bits s
  | .samplePreload bits => Sys2Proof.Machine.execSamplePreload bits s
  | .idcode => Sys2Proof.Machine.execIdcode s
  | .highz => Sys2Proof.Machine.execHighz s
  | .clamp => Sys2Proof.Machine.execClamp s
  | .extestPulse bits => Sys2Proof.Machine.execExtestPulse bits s
  | .extestTrain bits => Sys2Proof.Machine.execExtestTrain bits s
  | .frzstat => Sys2Proof.Machine.execFrzstat s
  | .chainsel v => Sys2Proof.Machine.execChainsel v s
  | .chainscan tdi => Sys2Proof.Machine.execChainscan tdi s
  | .arraysel v => Sys2Proof.Machine.execArraysel v s
  | .arrayrd => Sys2Proof.Machine.execArrayrd s
  | .bypass tdi => Sys2Proof.Machine.execBypass tdi s
  | .powerOn => Sys2Proof.Machine.execPowerOn s
  | .pwrOk t => Sys2Proof.Machine.execPwrOk t s
  | .resetN => Sys2Proof.Machine.execResetN s
  | .wrstN => Sys2Proof.Machine.execWrstN s
  | .warmDrainDeadline => Sys2Proof.Machine.execWarmDrainDeadline s
  | .wrstNRelease => Sys2Proof.Machine.execWrstNRelease s
  | .quietExchangeResult a => Sys2Proof.Machine.execQuietExchangeResult a s
  | .quietTimeout => Sys2Proof.Machine.execQuietTimeout s
  | .pfailN => Sys2Proof.Machine.execPfailN s
  | .pfailDrainDeadline => Sys2Proof.Machine.execPfailDrainDeadline s
  | .freezeN => Sys2Proof.Machine.execFreezeN s
  | .railTrip vaon => Sys2Proof.Machine.execRailTrip vaon s
  | .refclkLoss => Sys2Proof.Machine.execRefclkLoss s
  | .temperatureSample t => Sys2Proof.Machine.execTemperatureSample t s
  | .pllLock => Sys2Proof.Machine.execPllLock s
  | .checkerSelfTestDone r => Sys2Proof.Machine.execCheckerSelfTestDone r s
  | .imageLoadDone r => Sys2Proof.Machine.execImageLoadDone r s
  | .hbmTrainingDone trained => Sys2Proof.Machine.execHbmTrainingDone trained s
  | .hbmZeroFillDone => Sys2Proof.Machine.execHbmZeroFillDone s
  | .ddr5TrainingDone dimms => Sys2Proof.Machine.execDdr5TrainingDone dimms s
  | .firstGibFillDone => Sys2Proof.Machine.execFirstGibFillDone s
  | .firmwareRelease => Sys2Proof.Machine.execFirmwareRelease s
  | .admissionOpen p => Sys2Proof.Machine.execAdmissionOpen p s
  | .hostLinkRecovered p x16 g6 flits => Sys2Proof.Machine.execHostLinkRecovered p x16 g6 flits s
  | .disabledWayTestDone z region way cleanRes => Sys2Proof.Machine.execDisabledWayTestDone z region way cleanRes s
  | .fuseAndMramReadDone => Sys2Proof.Machine.execFuseAndMramReadDone s
  | .relocationTableQuery n => Sys2Proof.Machine.execRelocationTableQuery n s
  | .frameReservationRequest n orig region => Sys2Proof.Machine.execFrameReservationRequest n orig region s
  | .contractShareRelease n p => Sys2Proof.Machine.execContractShareRelease n p s
  | .reservedEmhalOpcode m opc => Sys2Proof.Machine.execReservedEmhalOpcode m opc s
  | .backInvalidationEnable p => Sys2Proof.Machine.execBackInvalidationEnable p s
  | .msiXEnable p => Sys2Proof.Machine.execMsiXEnable p s
  | .powerDown vaonToo => Sys2Proof.Machine.execPowerDown vaonToo s

end Sys2Proof.Machine
end

