-- ==== Sys2Proof/Machine/Switch.lean ====
section
/-! DEFINITION. The output queues of the fabric ports and the flits that leave them: injection, channel buffers and credits, the service
order, and the flit format (R173, R299 to R304, R314). -/

namespace Sys2Proof.Machine

/-! ### Injection -/

/-- Class of the packet an entry of `out` becomes, and the port it leaves by; none for what does not cross a fabric link. A combined answer
goes to the neighbour up its tree, a time-class message to a neighbour (R301, R305, R308). -/
def leaves (s : State) (o : Out) : Option (FPortNo × BitVec 3 × NodeId) :=
  let n := s.node
  let route (c : BitVec 3) (x : NodeId) : Option (FPortNo × BitVec 3 × NodeId) :=
    (routePort n n.node n.node x).map (fun f => (f, c, x))
  match o with
  | .msg k m => if m.dst = n.node then none else route (bkCode k).1 m.dst
  | .comb (some x) m _ => (portTo s x).map (fun f => (f, 2, m.dst))
  | .vc5 x _ => if x = n.node then none else route 5 x
  | .vc4 f (.heartbeat _ _) | .vc4 f (.floorReport _ _ _ _ _) | .vc4 f (.floorResult _ _ _ _) | .vc4 f (.linklost _ _ _)
  | .vc4 f (.declaration _) => (neighbour n n.node f).map (fun x => (f, 4, x))
  | .pkt f _ x => some (f, x.cls, x.dst)
  | .host _ _ | .bcast _ | .comb none _ _ | .vc4 _ .warm | .vc4 _ (.replayFlits _) | .smb _ | .tdo _ | .mgmt _ _ => none

/-- Packet of an entry of `out` that leaves by a port (R301): a packet in transit keeps its BIRTH; one injected here is born now, on the
dateline channel where its first link is a wrap link (R303). The length of a VC4 or VC5 packet is free (log 97). -/
def packetOf (s : State) (o : Out) (f : FPortNo) (c : BitVec 3) (dst : NodeId) : TxPkt :=
  let born : BitVec 16 := fld s.gen.time 2 16
  let here : Packet := { cls := c, dl := isWrap s.node s.node.node f, dst := dst, src := s.node.node, birth := born
                         len := mgmtWords s }
  match o with
  | .msg k m => ⟨{ here with len := packetWords k m, kind := k, msg := m }, none, false, o, s.freeCtr⟩
  | .comb _ m _ => ⟨{ here with comb := true, len := packetWords .invAck m, kind := .invAck, msg := m }, none, false, o, s.freeCtr⟩
  | .pkt _ (some i) x => ⟨x, some i.1, i.2, o, s.freeCtr⟩
  | .pkt _ none x => ⟨{ x with birth := born }, none, false, o, s.freeCtr⟩
  | _ => ⟨here, none, false, o, s.freeCtr⟩

/-- An end of a VC0 to VC3 packet is declared dead or cut (R314). -/
def TxPkt.lost (s : State) (x : TxPkt) : Bool :=
  decide (x.hdr.cls.toNat ≤ 3) && (isLost s.node s.fabric x.hdr.dst || isLost s.node s.fabric x.hdr.src)

/-- One entry of `out` goes into the output queue of its port, a host's or a fabric link's; where the next link is lost, or an end of a packet is
dead or cut, it is discarded (R297, R314). After a stop nothing goes out on the fabric (R311). -/
def inject (s : State) (o : Out) : State :=
  match o with
  | .host p m => if (s.hp p).linkUp then s.modHp p (fun h => { h with txq := h.txq ++ [m] }) else s
  | o =>
    match leaves s o with
    | none => s
    | some (f, c, dst) =>
      let x := packetOf s o f c dst
      if s.fabric.stopped then s
      else if (s.fp f).gone || x.lost s then txFreed (s.modFp f (fun p => { p with discard := p.discard + 1 })) x
      else (s.modFp f (fun p => { p with txq := p.txq ++ [x] })).tick1

/-- What the units have sent since the last cycle goes into the output queues. -/
def injectAll (s : State) : State :=
  ((s.out.drop s.fabric.fed).foldl inject s).modFabric (fun f => { f with fed := s.out.length })

/-! ### The host links (R295) -/

/-- A message to an Emhal host is a snoop, of the class DSNP, and no completion, of the class DCMP. -/
def ToHost.isSnoop : ToHost → Bool
  | .snpInv _ _ | .snpDown _ _ | .snpCur _ _ => true
  | .cmp _ _ _ _ _ | .cmpData _ _ _ _ _ _ _ | .retry _ | .biConflictAck _ | .compAbort _ | .msix => false

/-- A port may send a message: on a CXL link at once (log 89); on an Emhal link with a credit of its class, behind what waits in the class. -/
def HPort.maySend (h : HPort) (m : ToHost) : Bool :=
  h.proto || (decide (0 < (if m.isSnoop then h.dsnp else h.dcmp)) && !h.txq.any (fun x => decide (x.isSnoop = m.isSnoop)))

/-- A port sends what it has credits for, in order within each class (R295). -/
def hostTick (s : State) (p : Port) : State :=
  if (s.hp p).link = .up then
    (s.modHp p (fun h => { h with txq := [] })).each (s.hp p).txq (fun s m =>
      let h := s.hp p
      if h.maySend m then
        ({ s with sent := s.sent ++ [(p, m)] } : State).setHp p (if h.proto then h else if m.isSnoop then { h with dsnp := h.dsnp - 1 } else { h with dcmp := h.dcmp - 1 })
      else s.setHp p { h with txq := h.txq ++ [m] })
  else s

/-! ### Service (R302, R304) -/

/-- Virtual channel of a packet (R302). -/
def TxPkt.chan (x : TxPkt) : Nat := 2 * x.hdr.cls.toNat + (if x.hdr.dl then 1 else 0)
/-- Source of a packet for the round-robin: an input port, or 6 for local injection. -/
def TxPkt.srcNo (x : TxPkt) : Nat := match x.inp with | some f => f.val | none => 6
/-- The words of a packet: the fabric header and the message of its class (R301). -/
def TxPkt.words (x : TxPkt) : List W64 :=
  fabricHeader x.hdr :: (if x.hdr.cls.toNat ≤ 3 then packMsg x.hdr.kind x.hdr.msg
    else (List.range (x.hdr.len.toNat - 1)).map (Config.mgmtWord x.free))

/-- Credits a channel can draw on: its own, and then the pool (R302). -/
def FPort.canSend (p : FPort) (x : TxPkt) : Bool := decide (x.cost ≤ vget p.credits x.chan 0 + p.pool)
/-- Spend the credits of a packet: the channel's own first (R302). -/
def FPort.spend (p : FPort) (x : TxPkt) : FPort :=
  let own := min x.cost (vget p.credits x.chan 0)
  { p with credits := vset p.credits x.chan (vget p.credits x.chan 0 - own), pool := p.pool - (x.cost - own) }

/-- The packet a channel sends next: the oldest of the first source after the one last served that has one (R304). -/
def FPort.nextOf (p : FPort) (c : Nat) : Option TxPkt :=
  let last := vget p.rr c 6
  ((List.range 7).map (fun k => (last + 1 + k) % 7)).findSome? (fun n => p.txq.find? (fun x => decide (x.chan = c) && decide (x.srcNo = n)))

/-- The link carries packets of a class: with the neighbour declared dead, VC4 and VC5 only (R315). -/
def FPort.passes (p : FPort) (c : Nat) : Bool := decide (p.link = .up) || (decide (p.link = .upMgmt) && decide (8 ≤ c))

/-- Channels in the order of R304; of a class the dateline channel first (log 97). -/
def chanOrder : List Nat := [9, 8, 5, 4, 7, 6, 3, 2, 1, 0, 11, 10]

/-- The packet served next (R304): VC5 is first where it is owed its flit in 16; one for want of credits waits. -/
def FPort.pick (p : FPort) (owed : Bool) : Option TxPkt :=
  ((if owed then [11, 10] else []) ++ chanOrder).findSome? (fun c =>
    if p.passes c then (p.nextOf c).filter p.canSend else none)

/-- Take a packet out of the queues to send it: its credits are spent, and the buffer it leaves at its input port is owed back (R302). -/
def FPort.takePkt (p : FPort) (x : TxPkt) : FPort :=
  { p.spend x with txq := rmFirst (fun y => decide (y = x)) p.txq, rr := vset p.rr x.chan x.srcNo, rest := x.words, restCls := x.hdr.cls }

/-- Fill the words of a flit (R299: a packet may span flits): the packet begun goes on first, then packets are chosen while there are
any; VC5 is owed its place until it has had it. Answers the words, whether VC5 was carried, and the packets taken. -/
def fillFlit : Nat → Nat → Bool → FPort → List W64 × Bool × List TxPkt × FPort
  | 0, _, _, p => ([], false, [], p)
  | n + 1, room, owed, p =>
    if room = 0 then ([], false, [], p)
    else if p.rest.isEmpty then
      match p.pick owed with
      | none => ([], false, [], p)
      | some x => let r := fillFlit n room (owed && decide (x.hdr.cls ≠ 5)) (p.takePkt x); (r.1, r.2.1, x :: r.2.2.1, r.2.2.2)
    else
      let w := p.rest.take room
      let r := fillFlit n (room - w.length) (owed && decide (p.restCls ≠ 5)) { p with rest := p.rest.drop room }
      (w ++ r.1, decide (p.restCls = 5) || r.2.1, r.2.2.1, r.2.2.2)

/-! ### Flits (R299, R300) -/

/-- The words of a flit's payload, padded: a word whose LEN is 0 is padding (R299). -/
def payload (ws : List W64) : List W64 := ws ++ List.replicate (31 - ws.length) 0

/-- The word of a flit's first four bytes (R299): SEQ, ACK, REPLAY, CRVC, CRCNT and CTRL. -/
def flitHeader (p : FPort) (ctrl : Bool) : W32 :=
  let b (v : Bool) : BitVec 1 := if v then 1 else 0
  let cr : BitVec 6 × BitVec 4 := match p.owe with
    | c :: _ => (BitVec.ofNat 6 (min c.2 63), c.1)
    | [] => (0, 15)
  b ctrl ++ cr.1 ++ cr.2 ++ b p.askRep ++ (p.rxNext - 1) ++ (if ctrl then 0 else p.txSeq)

/-- A flit of 256 B (R299): its first word, 31 words of payload and the CRC over both. -/
def flitBits (h : W32) (ws : List W64) : BitVec 2048 :=
  let body : BitVec 2016 := (ws.foldr (fun w (a : BitVec 1984) => (a <<< 64) ||| w.setWidth 1984) 0) ++ h
  crc32c (bytesOf body 252) ++ body

/-- Credits that the next flit returns are owed no more. -/
def FPort.returned (p : FPort) : FPort :=
  match p.owe with
  | c :: t => { p with owe := if c.2 ≤ 63 then t else (c.1, c.2 - 63) :: t }
  | [] => p

/-- The buffer that the first of the packets leaves is owed back to the neighbour it came from, while the others still hold theirs (R302). -/
def oweBack (s : State) (xs : List TxPkt) : State :=
  match xs with
  | [] => s
  | x :: others =>
    match x.inp with
    | none => s
    | some i =>
      let c := 2 * x.hdr.cls.toNat + (if x.inDl then 1 else 0)
      if x.hdr.bcast then s else bufferFreed i c x.cost ((others.filter (·.cameBy i c)).map (·.cost)).sum s

/-- One flit leaves a port (R299, R300, R304): a control flit after 127 others; else as many words of packets as it holds, kept for
replay. -/
def sendFlit (f : FPortNo) (s : State) : State :=
  let p := s.fp f
  if p.run = 127 then
    let ws := (List.range 31).map (Config.ctrlWord s.freeCtr)
    ((s.setFp f { p.returned with run := 0, askRep := false }).modFabric (fun b => { b with wire := b.wire ++ [(f, flitBits (flitHeader p true) ws)] })).tick1
  else
    let r := fillFlit 64 31 (decide (15 ≤ p.vc5Gap)) p
    let ws := payload r.1
    let s1 := (s.setFp f { r.2.2.2.returned with
        run := p.run + 1, askRep := false, txSeq := p.txSeq + 1, unacked := p.unacked ++ [⟨p.txSeq, 0, ws⟩]
        vc5Gap := if r.2.1 then 0 else min (p.vc5Gap + 1) 15 }).modFabric (fun b => { b with wire := b.wire ++ [(f, flitBits (flitHeader p false) ws)] })
    r.2.2.1.tails.foldl oweBack s1

/-- A packet waits in a queue of VC0 for credits (R494 event 0x31). -/
def FPort.vc0Waits (p : FPort) : Bool :=
  [1, 0].any (fun c => p.passes c && (p.nextOf c).any (fun x => !p.canSend x))

/-- Packets waiting on a port that satisfy a test are discarded and counted (R314). -/
def dropQueued (f : FPortNo) (q : TxPkt → Bool) (s : State) : State :=
  let xs := (s.fp f).txq.filter q
  (s.modFp f (fun p => { p with discard := p.discard + BitVec.ofNat 64 xs.length, txq := p.txq.filter (fun x => !q x) })).each xs txFreed

/-- The link of a port has been lost: every packet waiting on it is discarded, the one that is partly sent among them (R314). -/
def dropLost (f : FPortNo) (s : State) : State :=
  (dropQueued f (fun _ => true) s).modFp f (fun p => { p with discard := p.discard + (if p.rest.isEmpty then 0 else 1), rest := [] })

/-- A fabric port in one TIME cycle: the queue of a lost link goes, and what waits of a node that is dead or cut; a flit leaves a link that carries traffic, while fewer than 256 are
held for replay (R299, R300; log 2); the cycles of the FPL clock with VC0 blocked, four of them, are counted (R450, R494). -/
def portTick (s : State) (f : FPortNo) : State :=
  let p := s.fp f
  if p.gone then dropLost f s
  else if p.carries ∧ p.unacked.length < 256 then
    let s1 := pmu 0x30 (some f.val) (sendFlit f (dropQueued f (·.lost s) s))
    if (s1.fp f).vc0Waits then s1.each (List.range 4) (fun s _ => pmu 0x31 (some f.val) s) else s1
  else s

/-- The host and fabric links in one TIME cycle; a device that has stopped sends nothing on the fabric (R311). -/
def switchTick (s : State) : State :=
  let s1 := (injectAll s).each ports hostTick
  if s.fabric.stopped then s1 else s1.each fportNos portTick

end Sys2Proof.Machine
end

