-- ==== Sys2Proof/Machine/Time.lean ====
section
/-! DEFINITION. What the clocks do by themselves in one cycle of the TIME domain, 2.5 ns (log 2): the time bases, the contract buckets, the
arbiters with nothing to grant, the register accesses whose barrier has ended (R182, R221), the flits that leave, the performance counters of cycles, and a live repair that may begin (R257, R258, R299, R309, R351, R481, R494). -/

namespace Sys2Proof.Machine

/-- The AON clock: sixteen TIME cycles make one cycle of 40 ns (R450, R481). -/
def aonTick (s : State) : State :=
  let a := s.aon
  if a.up then { s with aon := { a with sub := a.sub + 1, cycles := if a.sub = 15 then a.cycles + 1 else a.cycles } } else s

/-- The buckets of a contract in one TIME cycle (R257): RATE per µs in all, an eighth of it per slice, MISSR per µs. -/
def Contract.refill (c : Contract) : Contract :=
  let top := c.burst.toNat * tokenUnit
  { c with tok := gain c.tok (8 * c.rate.toNat) top
           stok := c.stok.map (fun n => gain n c.rate.toNat top)
           mtok := gain c.mtok (8 * c.missr.toNat) top }

/-- The bucket of a share in one TIME cycle (R258). -/
def Share.refill (x : Share) : Share := { x with tok := gain x.tok (8 * x.missr.toNat) (x.depth * tokenUnit) }

/-- Performance event 0x07: six SLICE cycles in a TIME cycle with the transaction table full (R450, R494). -/
def fullCycles (s : State) : State :=
  s.each sliceNos (fun s i =>
    if 512 ≤ (s.sl i).used then s.each (List.range 6) (fun s _ => pmu 0x07 (some i.val) s) else s)

/-- A pending repair begins live when no contract and no share can be hurt (R351). -/
def startLive (s : State) : State :=
  let x := s.integ
  if mayLive s then
    match x.repMap.find? (fun e => decide (e.st = .pending) && !e.loc.onDie) with
    | some e => { s with integ := { x with live := some e.loc } }
    | none => s
  else s

/-- The arbiters of the slices make six decisions in a TIME cycle, with no request before them (R266 to R268, R450). -/
def arbTick (s : State) : State :=
  s.each sliceNos (fun s i => s.each (List.range 6) (fun s _ => arbIdle i s))

/-- The write queues empty into DRAM by time: a line of each channel in a TIME cycle (R336; DESIGN CHOICE, log 27). -/
def queueTick (s : State) : State := s.each (List.range 8) (fun s ch => drainOne ch s)

/-- What the root-derived domains do in one TIME cycle. Hardware uses the voted fields in every cycle, and their minority copies are rewritten and
counted (R416; DEDUCED, log 112). -/
def clockTick (s : State) : State :=
  let s := voteRepair s
  let s1 : State := { s with
    gen := { s.gen with time := s.gen.time + 1 }
    hports := s.hports.map (fun h => { h with ctr := h.ctr.refill })
    home := { s.home with shares := s.home.shares.map Share.refill } }
  quietStep (downMoves (startLive (queueTick (fullCycles (arbTick (switchTick (s1.each ports (fun s p => runRegs p (s.hp p).regq.length s))))))))

/-- One TIME cycle of the device. -/
def tick (s : State) : State := if s.clk then clockTick (aonTick s) else aonTick s

/-- The step on an empty queue. -/
def timeStep (s : State) : Host.Outcome State Fault Refusal := .next (tick s)

end Sys2Proof.Machine
end

