-- ==== Sys2Proof/Safety.lean ====
section
/-! DEFINITION. The notions the claims use: what every step keeps, the parts of the machine that only their own commands change, the
frozen die, and the devices a claim speaks of. -/

namespace Sys2Proof.Machine

/-! ### The memories -/

/-- CSUM of a tag block is the XOR of its tag words' bytes (R34). -/
def TagBlock.summed (b : TagBlock) : Bool := decide (b.csum = csumOf b.ways)

/-- The tag and data slots of a slice are in canonical form, and every tag block has its check byte. -/
def Slice.good (x : Slice) : Bool := spWf {} x.tags && spWf {} x.slots && x.tags.all (fun c => c.2.summed)

/-- The DDR5 memory and the HBM arrays are in canonical form, and every tag block has its check byte (R34, R335). -/
def State.good (s : State) : Prop := spWf {} s.mem.ddr = true ∧ ∀ i : SliceNo, (s.sl i).good = true

/-- Nothing is listed in a memory, and nothing is wrong with a location of one: every line of DDR5, tag block and slot reads as one never written. -/
def State.blank (s : State) : Prop :=
  (s.mem.ddr, s.mem.wq, s.mem.ddrFlaw) = ([], [], []) ∧ ∀ i : SliceNo, ((s.sl i).tags, (s.sl i).slots, (s.sl i).tsFlaw, (s.sl i).slotFlaw) = ([], [], [], [])

/-! ### The always-on parts (R423, R481, R491, R513) -/

/-- What only a supply, a sample, a tick or a reset changes of the always-on registers: the supply, AON_TIME, the temperatures and the hot samples,
AON_WARMCNT and the straps. -/
abbrev Aon.still (a : Aon) : Bool × W64 × BitVec 4 × Vector Byte 5 × Vector Nat 5 × BitVec 16 × BitVec 2 :=
  (a.up, a.cycles, a.sub, a.temps, a.hotMs, a.warmCnt, a.smbAd)
/-- What only the Peat writer, a read of the record or a start changes of it. -/
abbrev Peat.still (x : Peat) : Sparse (BitVec 512) × W32 × W32 × W32 × Bool × BitVec 16 × W32 :=
  (x.ring, x.next, x.copyA, x.copyB, x.wraps, x.starts, x.sel)
/-- The registers of the test port. -/
abbrev Tap.still (x : Tap) : Byte × List Bool × Bool × Byte × Byte × Nat := (x.ir, x.bscan, x.bypass, x.chain, x.array, x.row)

/-- From state s to state t the queue, the pins, the supplies, and the registers of the always-on domain, the Peat record and the test port that `still`
names stay as they are, and the memories stay good. -/
structure Kept (s t : State) : Prop where
  pending : t.pending = s.pending
  pins    : t.pins = s.pins
  powered : t.crp.powered = s.crp.powered
  aon     : t.aon.still = s.aon.still
  peat    : t.peat.still = s.peat.still
  tap     : t.tap.still = s.tap.still
  good    : s.good → t.good

/-- The commands of the pins, the supplies, the monitors, the SMBus record, the Peat writer and the test port, and the reading of MRAM at
a start: those that may change an always-on part (the deadline of a warm drain begins the start whose release came first, R454). -/
def alwaysOn : Instr → Bool
  | .peatRecordWrite | .warmDrainDeadline | .peatSel _ _ | .peatData _ | .extest _ | .samplePreload _ | .idcode | .highz | .clamp | .extestPulse _
  | .extestTrain _ | .frzstat | .chainsel _ | .chainscan _ | .arraysel _ | .arrayrd | .bypass _ | .powerOn | .pwrOk _ | .resetN
  | .wrstN | .wrstNRelease | .pfailN | .freezeN | .railTrip _ | .temperatureSample _ | .fuseAndMramReadDone | .powerDown _ => true
  | _ => false

/-! ### The home agent and DDR5 -/

/-- The state of the home agent but for its counters (R139 to R191). -/
abbrev Home.core (h : Home) : List HTxn × Sparse DirSet × List Stub × List RTab × List Reloc × List Share × Sparse Seat :=
  (h.tt, h.dir, h.stubs, h.rtab, h.relocs, h.shares, h.seats)
/-- The lines of DDR5 as written and as held in the write queue (R335, R364). -/
abbrev Mem.lines (m : Mem) : Sparse DLine × List (Nat × DLine) := (m.ddr, m.wq)

/-- From state s to state t the home agent's state and every line of DDR5 stay as they are. -/
structure HomeKept (s t : State) : Prop where
  home : t.home.core = s.home.core
  mem  : t.mem.lines = s.mem.lines

/-! ### Starts (R455) -/

/-- What a reset of a kind before a cold start leaves of the state: the ways disabled, the repair map, EN of the fabric ports, the Peat
record, the time base and what has left the device are kept; the content of the memories, of every queue and
of every other register is that of State.reset. -/
structure ColdFrom (kind : BitVec 2) (s t : State) : Prop where
  lost   : (t.node, t.hports, t.home, t.stamp, t.arb, t.mem, t.fw, t.mbx, t.evq, t.dbg) =
    (State.reset.node, State.reset.hports, State.reset.home, State.reset.stamp, State.reset.arb, State.reset.mem,
      State.reset.fw, State.reset.mbx, State.reset.evq, State.reset.dbg)
  fabric : t.fabric = { Fabric.reset with fed := s.out.length, wire := s.fabric.wire }
  slices : ∀ i : SliceNo, t.sl i = { Slice.reset with wdis := (s.sl i).wdis }
  fports : ∀ f : FPortNo, t.fp f = FPort.reset ((s.fp f).ctl.get vmFport)
  integ  : t.integ = Integ.reset s.integ.repMap s.integ.repRaw
  gen    : t.gen = Gen.reset s.gen.time
  record : (t.peat.ring, t.peat.next, t.peat.copyA, t.peat.copyB, t.peat.wraps, t.peat.starts) =
    (s.peat.ring, s.peat.next, s.peat.copyA, s.peat.copyB, s.peat.wraps, s.peat.starts)
  chains : t.tap.chains = []
  kind   : t.crp.kind = kind
  out    : t.out = s.out

/-- What the reset before a warm start leaves: beside what a cold one keeps, the cache's tags and data, DDR5 with the state of its fill,
the correction history and the relocation state (R455). -/
structure WarmFrom (s t : State) : Prop where
  lost   : (t.hports, t.stamp, t.arb, t.mbx, t.evq, t.dbg) =
    (State.reset.hports, State.reset.stamp, State.reset.arb, State.reset.mbx, State.reset.evq, State.reset.dbg)
  fabric : t.fabric = { Fabric.reset with fed := s.out.length, wire := s.fabric.wire }
  slices : ∀ i : SliceNo, t.sl i = { Slice.reset with
    wdis := (s.sl i).wdis, tags := (s.sl i).tags, slots := (s.sl i).slots, tsFlaw := (s.sl i).tsFlaw, slotFlaw := (s.sl i).slotFlaw }
  mem    : (t.mem.lines, t.mem.ddrFlaw, t.mem.fill1g, t.mem.fillBlk, t.mem.hbmFilled) =
    (s.mem.lines, s.mem.ddrFlaw, s.mem.fill1g, s.mem.fillBlk, s.mem.hbmFilled)
  reloc  : (t.home.rtab, t.home.stubs, t.home.frames, t.home.moving, t.home.unacked, t.home.notices, t.node.changes) =
    (s.home.rtab, s.home.stubs, s.home.frames, s.home.moving, s.home.unacked, s.home.notices, s.node.changes)
  home   : t.home.tt = [] ∧ t.home.seats = [] ∧ t.home.shares = []
  integ  : t.integ = { Integ.reset s.integ.repMap s.integ.repRaw with hist := s.integ.hist, inForce := s.integ.inForce.filter (fun r => !r.onDie) }
  record : (t.peat.ring, t.peat.next, t.peat.copyA, t.peat.copyB, t.peat.wraps, t.peat.starts) =
    (s.peat.ring, s.peat.next, s.peat.copyA, s.peat.copyB, s.peat.wraps, s.peat.starts)
  start  : t.crp.kind = 2 ∧ t.crp.phase = .fuses ∧ t.crp.started = true ∧ t.crp.pllLock = true

/-! ### Quiet states -/

/-- Port p takes requests of its protocol, and nothing is in flight in the part: the port's link is in L0 with admission open, no contract
and no stamp mode; no access, barrier or buffered store of any port waits; every slice is without a transaction, a group of snoops, a
Causeway or a Reedbed entry, and no walk runs; the stride detector of the port and the performance counters are off. -/
structure Idle (s : State) (p : Port) (cxl : Bool) : Prop where
  clk    : s.clk = true
  alive  : s.fabric.selfDead = false
  link   : receives s p cxl = true
  admOpen  : (s.hp p).admOpen = true
  shut   : s.arb.closed p = false
  plain  : (s.hp p).stamped = false ∧ (s.hp p).ctr.valid = false ∧ (s.hp p).strideEn = false
  order  : (s.hp p).accs = [] ∧ (s.hp p).bars = [] ∧ (s.hp p).halves = [] ∧ (s.hp p).queue = [] ∧ (s.hp p).regq = []
  walks  : s.fw.walk = none ∧ ∀ i : SliceNo, (s.sl i).walks = []
  ntc    : ∀ q : Port, (s.hp q).ntc = []
  slices : ∀ i : SliceNo, (s.sl i).wmb = [] ∧ (s.sl i).cw = [] ∧ (s.sl i).rb = [] ∧ (s.sl i).stt = [] ∧ (s.sl i).snpGrps = []
  pmu    : fld s.dbg.pmuCtl 0 8 = 0

/-- The line can be asked for: its home lies in the torus, is neither dead nor cut, and transmission is neither stopped nor paused. -/
structure Reachable (s : State) (l : LAddr) : Prop where
  inside : inTorus s.node (lineHome l) = true
  home   : homeLost s l = false
  sends  : s.fabric.stopped = false ∧ s.fabric.pause = none

/-- A set of a slice has its entry in the tag shadow, and no entry of its shadow set has bad parity. -/
abbrev Shadowed (x : Slice) (set : Nat) : Prop :=
  (x.shEntry set).isSome = true ∧ x.shadowEn = true ∧ (spGet {} x.shadow (shKey set)).ents.toList.all (fun e => !e.bad) = true

/-- No line that a host has read in the Reedbed waits for its move (R89). -/
abbrev NoMoves (s : State) : Prop := ∀ i : SliceNo,
  (s.sl i).snpGrps.all (fun g => match g.act with | .rbMove _ _ _ => false | _ => true) = true

/-- Way w of the line's set holds the line, with the tag word t, in an ENABLED slice: no host has it, the set has a shadow entry, the slot
reads clean, and the line is of a write-back region of this domain. -/
structure Resident (s : State) (l : LAddr) (w : Nat) (t : TagWord) : Prop where
  near    : isFar s l = false ∧ isWt s l = false
  inside  : inTorus s.node (lineHome l) = true
  enabled : (s.sl (sliceOf l)).enabled = true
  shadow  : Shadowed (s.sl (sliceOf l)) (setOf l).toNat
  found   : (s.sl (sliceOf l)).find l = some (w, t)
  alone   : t.hp = 0 ∧ t.prefetched = false
  clean   : spGet {} (s.sl (sliceOf l)).slotFlaw (slotKey (setOf l).toNat w) = {}

/-- What a served request leaves alone: the home agent, DDR5, the pins, the arbiters' registers, the other ports, the other slices, and every
other line of the slice. -/
structure ServedAlone (s t : State) (p : Port) (l : LAddr) (w : Nat) : Prop where
  home   : t.home = s.home
  ddr    : t.mem.lines = s.mem.lines
  ports  : ∀ q : Port, q ≠ p → t.hp q = s.hp q
  slices : ∀ i : SliceNo, i ≠ sliceOf l → t.sl i = s.sl i
  slots  : ∀ k : Nat, k ≠ slotKey (setOf l).toNat w → spGet {} (t.sl (sliceOf l)).slots k = spGet {} (s.sl (sliceOf l)).slots k
  words  : ∀ set v : Nat, set < 2 ^ 23 → (set ≠ (setOf l).toNat ∨ v ≠ w) → (t.sl (sliceOf l)).word set v = (s.sl (sliceOf l)).word set v
  pins   : t.pins = s.pins ∧ t.crp = s.crp ∧ t.aon = s.aon
  arb    : t.arb = { s.arb with units := t.arb.units }

/-! ### The frozen die (R488 to R490) -/

/-- What a freeze holds still: every part but the queue, what has left the device, the AON domain, the Peat record, the test port, the
reset sequencer and the pins. -/
abbrev State.die (s : State) := (s.node, s.hports, s.slices, s.home, s.stamp, s.arb, s.fports, s.fabric, s.mem, s.integ, s.fw, s.mbx, s.evq,
  s.gen, s.dbg, s.seqNo)

/-- The commands that end a freeze, or that a device without a running start takes: resets and the supplies (R490). -/
def releases : Instr → Bool
  | .powerOn | .pwrOk _ | .resetN | .wrstN | .wrstNRelease | .powerDown _ | .railTrip true => true
  | _ => false

/-- A frozen device with the die d, and no command waiting that ends the freeze. -/
def FrozenAs (d : State) (s : State) : Prop := s.dbg.frozen = true ∧ s.die = d.die ∧ s.pending.all (fun c => !releases c) = true

/-! ### Situations the statements about single commands speak of -/

/-- A message m of a live node of the domain, unstamped and not under contract, reaches the home, which serves its region; no host port is going
down. -/
structure Reaches (s : State) (m : BMsg) : Prop where
  clk    : s.clk = true
  heard  : homeMute s = false ∧ isLost s.node s.fabric m.src = false ∧ m.rsv = none
  region : served s m.laddr m.gen false = .taken ∧ served s m.laddr m.gen true = .taken ∧ beyondMem s m.laddr = false
  near   : farNode s.node m.src = false ∧ isFar s m.laddr = false
  plain  : m.stamp = none ∧ msgCtr m = false
  told   : s.home.unacked = [] ∧ s.home.relocs = []
  ports  : ∀ q : Port, (s.hp q).link ≠ .downBusy
  sends  : s.fabric.stopped = false ∧ s.fabric.pause = none
  pmu    : fld s.dbg.pmuCtl 0 8 = 0

/-- The home has nothing open, the directory cache holds the record of the message's line in entry e, whose holders live, and nothing is
wrong with the line in memory. -/
structure AtHome (s : State) (m : BMsg) (i : Nat) (e : DirEnt) : Prop extends Reaches s m where
  idle   : s.home.tt = [] ∧ s.home.tablePend = none
  cached : s.home.entry (frameOf s m.laddr) = some (i, e) ∧ e.bad = false
  alive  : ∀ p ∈ e.recd.holders, isLost s.node s.fabric (nodeOf (domOf s.node.node) p) = false
  clean  : spGet {} s.mem.ddrFlaw (frameOf s m.laddr) = {}

/-- The write queue of a frame line's channel has room for a line and its directory word (R336). -/
abbrev Room (s : State) (f : Nat) : Prop := queued s (chanOf s f) + 2 ≤ 256

/-- The home keeps the record r of frame line f: in entry i of the directory cache, and in the directory word, or the word has never been written and r is
what it then stands for. -/
def Keeps (t : State) (f i : Nat) (r : DirRec) : Prop :=
  t.home.entry f = some (i, { tag := dirTag f, recd := r }) ∧ ((ddrGet t f).word = packWord r ∨ (bit (ddrGet t f).word 30 = false ∧ r = {}))

/-- What a message of the home leaves alone: the slices, the host ports, the stamp unit, the pins and the AON domain, and every line of
DDR5 but one. -/
structure HomeAlone (s t : State) (f : Nat) : Prop where
  slices : t.slices = s.slices
  hports : t.hports = s.hports
  stamp  : t.stamp = s.stamp
  aon    : t.aon = s.aon ∧ t.pins = s.pins ∧ t.crp = s.crp
  lines  : ∀ g : Nat, g ≠ f → ddrGet t g = ddrGet s g

/-- The home answers the unit that sent m with the message b. -/
structure Answers (s : State) (m b : BMsg) : Prop where
  dst  : b.dst = m.src ∧ b.dstu = m.srcu
  src  : b.src = s.node.node ∧ b.srcu = homeUnit
  line : b.laddr = m.laddr ∧ b.rtid = m.rtid

/-- The home sends the message b for the request m to the slice of the line in member p. -/
structure Asks (s : State) (m b : BMsg) (p : Member) : Prop where
  dst  : b.dst = nodeOf (domOf s.node.node) p ∧ b.dstu = unitOf (sliceOf m.laddr)
  src  : b.src = s.node.node ∧ b.srcu = homeUnit
  line : b.laddr = m.laddr ∧ b.rtid = m.rtid
  req  : b.rqn = m.src ∧ b.rqu = m.srcu

/-- The message m names the one entry x of the home's table, an open transaction without Put, claimant or stamp; its requester lives, and
nothing is wrong with its line in memory. -/
structure Opened (s : State) (m : BMsg) (x : HTxn) : Prop where
  clk   : s.clk = true
  heard : homeMute s = false ∧ isLost s.node s.fabric m.src = false ∧ m.rsv = none
  table : s.home.tt = [x] ∧ s.home.tablePend = none ∧ s.home.unacked = [] ∧ s.home.relocs = []
  names : x.num = m.htid.toNat ∧ x.line = m.laddr
  plain : x.claim = none ∧ x.pend = none ∧ x.puts = [] ∧ x.read = false ∧ x.putOf = none ∧ x.req.stamp = none
  alive : isLost s.node s.fabric x.req.src = false
  clean : spGet {} s.mem.ddrFlaw (frameOf s x.line) = {} ∧ wordQU s x.line = false
  ports : ∀ q : Port, (s.hp q).link ≠ .downBusy
  sends : s.fabric.stopped = false ∧ s.fabric.pause = none
  pmu   : fld s.dbg.pmuCtl 0 8 = 0

/-- The line's record is kept: the directory word of its frame says r, or the word has never been written and r is the record it then stands for. -/
def Recorded (t : State) (f : Nat) (r : DirRec) : Prop := (ddrGet t f).word = packWord r ∨ (bit (ddrGet t f).word 30 = false ∧ r = {})

/-- A message m of a live node, on its line's own slice i, whose other work is done: no buffered store, Causeway or Reedbed entry, action, walk
or waiting request of the slice, no combining entry of any port, no lock-fill, no region that moves, no host port that is going down, and no slot with an
error. -/
structure AtSlice (s : State) (i : SliceNo) (m : BMsg) : Prop where
  clk   : s.clk = true
  heard : homeMute s = false ∧ isLost s.node s.fabric m.src = false ∧ m.rsv = none ∧ s.home.unacked = [] ∧ s.home.moving = []
  unit  : sliceOfUnit m.dstu m.laddr = i ∧ sliceOf m.laddr = i
  quiet : (s.sl i).wmb = [] ∧ (s.sl i).cw = [] ∧ (s.sl i).rb = [] ∧ (s.sl i).snpGrps = [] ∧ (s.sl i).walks = [] ∧ (s.sl i).waiters = []
  ntc   : ∀ q : Port, (s.hp q).ntc = [] ∧ (s.hp q).link ≠ .downBusy
  fill  : s.fw.walk = none
  sends : s.fabric.stopped = false ∧ s.fabric.pause = none
  pmu   : fld s.dbg.pmuCtl 0 8 = 0
  clean : (s.sl i).slotFlaw = [] ∧ (s.sl i).tsFlaw = [] ∧ (s.sl i).shadowEn = true
  parity : (s.sl i).shadow.all (fun c => c.2.ents.toList.all (fun e => !e.bad)) = true

/-- The message names the slice's one transaction x, open and unstamped, of a live home, for the host request r alone, which its port accepted
without a bound, whole, for a near line of a write-back region in an ENABLED slice. -/
structure ForTxn (s : State) (i : SliceNo) (m : BMsg) (x : STxn) (r : Req) : Prop extends AtSlice s i m where
  stt   : (s.sl i).stt = [x] ∧ x.rtid = m.rtid ∧ x.line = m.laddr ∧ x.st = .open_
  plain : x.stamp = none ∧ x.predict = false ∧ x.invOnFill = false ∧ x.lockFill = false ∧ x.wmb = none ∧ x.ntc = none ∧ x.keep = false
  req   : x.req = some r ∧ x.joined = [] ∧ lineOf r.addr = m.laddr
  host  : r.bound = false ∧ r.part = 0 ∧ r.wt = false ∧ r.stamp = none ∧ (s.hp r.port).stamped = false ∧ (s.hp r.port).proto = false ∧
    (s.hp r.port).link = .up
  near  : isFar s m.laddr = false ∧ inTorus s.node (lineHome m.laddr) = true ∧ (s.sl i).enabled = true ∧ homeLost s m.laddr = false ∧
    isLost s.node s.fabric x.dst = false
  shown : ((s.sl i).shEntry (setOf m.laddr).toNat).isSome = true

/-- What a message of a slice leaves alone: the other slices, the host ports but for the accesses of port p, the home agent, DDR5, the
pins, the arbiters' registers. -/
structure SliceAlone (s t : State) (i : SliceNo) (p : Port) : Prop where
  slices : ∀ j : SliceNo, j ≠ i → t.sl j = s.sl j
  ports  : ∀ q : Port, t.hp q = { s.hp q with accs := (t.hp q).accs } ∧ (q ≠ p → t.hp q = s.hp q)
  home   : t.home = s.home
  mem    : t.mem = s.mem
  pins   : t.pins = s.pins ∧ t.crp = s.crp ∧ t.aon = s.aon
  arb    : t.arb = { s.arb with units := t.arb.units }

/-- Mailbox k of port p, which holds the word w as running in s, has its final acknowledge in t: the sequence of the word, the return code and
the value. -/
def Acked (s t : State) (p k : Port) (rc : Byte) (val : BitVec 16) : Prop :=
  ∀ w : W32, ((s.mb p).at k).running = some w → ((t.mb p).at k).inAck = fld w 16 8 ++ rc ++ val ∧ ((t.mb p).at k).running = none

/-- The walk of a kind is the only one of slice i, has visited every place, and finds none left; walks are not held. -/
abbrev Walked (s : State) (i : SliceNo) (k : WalkKind) : Prop :=
  s.arb.walkHold = false ∧ walkPlaces s i k = [] ∧ (s.sl i).walks.map (·.kind) = [k] ∧ ∀ w ∈ (s.sl i).walks, nextPlace s i w = none

/-- Nothing is wrong with a line of DDR5 or with an entry of the directory cache, and the performance counters are off. -/
abbrev Sound (s : State) : Prop := s.mem.ddrFlaw = [] ∧ fld s.dbg.pmuCtl 0 8 = 0 ∧
  s.home.dir.all (fun c => c.2.ents.toList.all (fun e => !e.any (·.bad))) = true

/-- No host port is going down. -/
abbrev NoneDown (s : State) : Prop := ∀ q : Port, (s.hp q).link ≠ .downBusy

/-- The part's slices and ports have nothing of their own under way but walks: no buffered store, Causeway entry, transaction, action or waiting
request. -/
def NoWork (s : State) : Prop := (∀ q : Port, (s.hp q).ntc = []) ∧
  ∀ i : SliceNo, (s.sl i).wmb = [] ∧ (s.sl i).cw = [] ∧ (s.sl i).stt = [] ∧ (s.sl i).snpGrps = [] ∧ (s.sl i).waiters = []

/-- The host ports stay as they are; only whether an MSI-X message is out may change with a port's interrupt causes. -/
def SamePorts (s t : State) : Prop := ∀ q : Port, t.hp q = { s.hp q with msixLive := (t.hp q).msixLive }

/-- Node n, another one, is declared or cut nowhere yet, is the only live peer of this device in its domain, and neither holds anything of the other: no
line is cached or recorded, no work, transaction, relocation, operation or broadcast is open, and the device is in no stamp group. -/
structure Peer (s : State) (n : NodeId) : Prop where
  node   : n ≠ s.node.node ∧ domOf n = domOf s.node.node ∧ isDead s.fabric n = false ∧ livePeers s.node s.fabric = [n]
  idle   : NoWork s ∧ ∀ i : SliceNo, (s.sl i).tags = [] ∧ (s.sl i).rb = [] ∧ (s.sl i).walks = []
  home   : s.home.tt = [] ∧ s.home.dir = [] ∧ s.home.sweeps = [] ∧ s.home.stubs = [] ∧ s.home.relocs = [] ∧ s.home.moving = [] ∧ s.home.unacked = [] ∧ s.home.rtab = []
  ports  : NoneDown s
  fw     : s.fw.policy = none ∧ s.fw.ctrOps = []
  fabric : s.fabric.combs = [] ∧ s.fabric.bcastQ = [] ∧ s.fabric.stopped = false ∧ s.fabric.selfDead = false ∧ s.fabric.pause = none
  stamp  : s.stamp.member = false ∧ s.stamp.lists = []

/-- Node n has been declared dead at the device: its purge walk runs in every slice, its sweep has begun, and its declaration is flooded on every link
that carries traffic but one. -/
structure Declared (s t : State) (n : NodeId) (but : Option FPortNo) : Prop where
  dead   : isDead t.fabric n = true
  purge  : ∀ i : SliceNo, t.sl i = { s.sl i with walks := [⟨.purge n, 0⟩] }
  sweep  : t.home = { s.home with sweeps := [⟨n, 0, 0, false⟩] }
  told   : ∀ f : FPortNo, (t.fp f).carries = true → some f ≠ but → .vc4 f (.declaration n) ∈ t.out.drop s.out.length
  others : t.mem = s.mem ∧ SamePorts s t

/-- The device has stopped by R454: it is silent on the fabric and knows itself dead, and the cause is kept. -/
structure StoppedBy (t : State) (cause : BitVec 3) : Prop where
  silent : t.fabric.stopped = true ∧ t.fabric.selfDead = true
  phase  : t.crp.phase = .stopped
  cause  : t.aon.cause = cause ∧ t.aon.stopHeld = true

/-- Mailbox k of port p holds the one posted word of the device, a command of an opcode and an argument, and the firmware takes commands. -/
structure Posted (s : State) (p k : Port) (opc : Byte) (arg : BitVec 16) : Prop where
  clk  : s.clk = true
  up   : s.fwUp = true
  word : ((s.mb p).at k).full = true ∧ fld ((s.mb p).at k).inW 24 8 = opc ∧ fld ((s.mb p).at k).inW 0 16 = arg
  only : ∀ q j : Port, (q, j) ≠ (p, k) → ((s.mb q).at j).full = false

/-- The command of mailbox k of port p was taken and is running in t: its interim acknowledge can be read (R385). -/
def Taken (s t : State) (p k : Port) : Prop :=
  (t.mb p).at k = { (s.mb p).at k with
    full := false, running := some ((s.mb p).at k).inW, inAck := fld ((s.mb p).at k).inW 16 8 ++ (0x06 : Byte) ++ (0 : BitVec 16) }

/-- The command of mailbox k of port p was taken and has its final acknowledge in t: its sequence, the return code and the value (R385). -/
def Finished (s t : State) (p k : Port) (rc : Byte) (val : BitVec 16) : Prop :=
  (t.mb p).at k = { (s.mb p).at k with full := false, running := none, inAck := fld ((s.mb p).at k).inW 16 8 ++ rc ++ val }

/-- The device but its firmware, port p's mailboxes and event queue, and what a freeze on the posted event takes. -/
structure MailOnly (s t : State) (p : Port) : Prop where
  parts  : t.node = s.node ∧ t.stamp = s.stamp ∧ t.fabric = s.fabric ∧ t.fports = s.fports ∧ t.arb = s.arb ∧ t.gen = s.gen
  lines  : t.slices = s.slices ∧ t.mem = s.mem ∧ t.integ = s.integ ∧ t.home = s.home
  power  : t.aon = s.aon ∧ t.crp = s.crp ∧ t.pins = s.pins
  others : ∀ q : Port, q ≠ p → t.mb q = s.mb q ∧ t.eq q = s.eq q
  hports : SamePorts s t

/-- No slice holds a line, or has any work under way, a walk included. -/
def NothingCached (s : State) : Prop := NoWork s ∧ ∀ i : SliceNo, (s.sl i).tags = [] ∧ (s.sl i).rb = [] ∧ (s.sl i).walks = []

/-- The policy of a region of a member is wt in t, and that of every other region as it was; no line, record or port is touched. -/
structure PolicySet (s t : State) (m : Member) (r : BitVec 10) (wt : Bool) : Prop where
  here   : ∀ l : LAddr, inRegion m r l = true → isWt t l = wt
  others : ∀ l : LAddr, inRegion m r l = false → isWt t l = isWt s l
  walks  : ∀ i : SliceNo, t.sl i = { s.sl i with walks := if wt then [⟨.policy m r, 0⟩] else [] }
  same   : t.home = s.home ∧ t.mem = s.mem ∧ ∀ q : Port, t.hp q = s.hp q

/-- Messages leave on the fabric: the device is not stopped and its links are not paused. -/
def Sends (s : State) : Prop := s.fabric.stopped = false ∧ s.fabric.pause = none

/-- Software reaches the register window through host port p: its link is up, and neither a BAR.DONE nor a register access held there comes
first (R221, R224). -/
structure Reaching (s : State) (p : Port) : Prop where
  link : (s.hp p).link = .up
  free : (s.hp p).regq = [] ∧ barsBefore (s.hp p) s.seqNo = false

/-- Software behind host port p writes all four bytes of a register: its accesses reach the window and the clocks run. -/
structure Software (s : State) (p : Port) (w : RWr) : Prop extends Reaching s p where
  clk  : s.clk = true
  who  : w.master.val = p.val ∧ w.be = 0xF

/-- What answers a register write of port p: a Cmp with OK on an Emhal port, nothing on a CXL port (R226, R411). -/
def writeAnswer (s : State) (p : Port) (etag : BitVec 12) : List Out :=
  if (s.hp p).proto then [] else [.host p (.cmp (etag.setWidth 16) stOK 0 false false)]

/-- What answers a register read of port p: a CmpData with the value (R411). -/
def readAnswer (p : Port) (etag : BitVec 12) (size : Nat) (v : W64) : List Out :=
  [.host p (.cmpData (etag.setWidth 16) stOK 0 false false size (v.setWidth 512))]

/-- The state with the key of a master closed, as every write leaves it (R414), and a write of port p answered. -/
def wroteBy (p : Port) (w : RWr) (s : State) : State :=
  { setKey w.master false s with out := s.out ++ writeAnswer s p w.etag }

/-- What a write of an event queue's register leaves alone: the queue of every other port, the ports but for MSI-X, the rest of the part;
the write is answered, an MSI-X message apart. -/
structure QueueOnly (s t : State) (p : Port) (w : RWr) : Prop where
  queues : ∀ q : Port, q ≠ p → t.eq q = s.eq q
  ports  : SamePorts s t
  rest   : t.slices = s.slices ∧ t.home = s.home ∧ t.mem = s.mem ∧ t.fw = s.fw ∧ t.mbx = s.mbx ∧ t.gen = (setKey w.master false s).gen
  out    : ∃ o : List Out, t.out = s.out ++ o ++ writeAnswer s p w.etag

end Sys2Proof.Machine
end

