-- ==== Sys2Proof/Certificates/Slice0/Obligations.lean ====
section
/-! DEFINITION. The statements of slice 0, for the provers. Each docstring names the rules its statement rests on. Where a statement
speaks of what the spec leaves to the model, this is the model's choice and no rule of the spec: what leaves the device is read in
`out` (log 1); an idle step is one TIME cycle (log 2); a waiting request goes on by WAITER_RESUME (log 3); a register or field without a
reset value starts at the value of log 4; walks end by the commands that report their end (log 6); a free value is read through
`freeCtr` (log 8). -/

open Sys2Proof Sys2Proof.Machine

/-! ### The machine -/

/-- A step with a command at the front of the queue runs that command on the rest of the queue. -/
def Obligations.StepRunsFrontCommand : Prop :=
  ∀ (c : Instr) (rest : List Instr) (s : State),
    step { s with pending := c :: rest } = exec c { s with pending := rest }

/-- On an empty queue a step is one TIME cycle (log 2, a design choice): the time base counts with the clocks, the AON clock with its
supply, sixteen TIME cycles to one AON cycle; every line of DDR5 reads as before, whatever the write queues have written to DRAM. -/
def Obligations.IdleStepIsOneTimeCycle : Prop :=
  ∀ s : State, s.pending = [] → ∃ t : State, step s = .next t ∧ t.pending = [] ∧
    t.gen.time = (if s.clk then s.gen.time + 1 else s.gen.time) ∧
    t.aon.cycles = (if s.aon.up = true ∧ s.aon.sub = 15 then s.aon.cycles + 1 else s.aon.cycles) ∧
    t.aon.sub = (if s.aon.up then s.aon.sub + 1 else s.aon.sub) ∧
    (s.clk = false → t = { s with aon := t.aon }) ∧ t.pins = s.pins ∧ t.peat.ring = s.peat.ring ∧
    (s.good → ∀ f : Nat, ddrGet t f = ddrGet s f)

/-- The block never stops: every command in every state answers a next state, and leaves the queue as it is. -/
def Obligations.EveryCommandAnswers : Prop :=
  ∀ (c : Instr) (s : State), ∃ t : State, exec c s = .next t ∧ t.pending = s.pending

/-- The queue is first in, first out: a step takes the front command and nothing else. -/
def Obligations.QueueIsFirstInFirstOut : Prop :=
  ∀ s t : State, step s = .next t → t.pending = s.pending.tail

/-- Every step keeps the memories canonical, and every tag block's check byte the XOR of its tag words. -/
def Obligations.EveryStepKeepsMemoriesGood : Prop :=
  ∀ s t : State, s.good → step s = .next t → t.good

/-- The reset state lists nothing in its memories, nor anything wrong with them, and so they are canonical (the model's choice of log 5: a part as
shipped). -/
def Obligations.ResetMemoriesAreGood : Prop :=
  State.reset.blank ∧ State.reset.good

/-- A command that is none of the pins', the supplies', the monitors', the SMBus', the Peat writer's, the test port's or the start's
own changes no pin, no supply of the die, none of the always-on supply's state, AON_TIME, the temperatures, the hot samples, AON_WARMCNT and the straps,
no slot, pointer, copy or selection of the Peat record, and no register of the test port; and it keeps the queue, and the memories good. -/
def Obligations.OnlyOwnCommandsChangeAlwaysOnParts : Prop :=
  ∀ (c : Instr) (s : State), alwaysOn c = false → ∃ t : State, exec c s = .next t ∧ Kept s t

/-- A frozen die stays frozen and keeps its state under every step, as long as no command that ends a freeze is taken. -/
def Obligations.EveryStepKeepsFrozenDie : Prop :=
  ∀ d s t : State, FrozenAs d s → step s = .next t → FrozenAs d t

/-- The commands that arrive from the hosts, and the events of their ports, complete, and leave the home agent alone: its transactions,
directory, stubs and table, the relocations, the shares and seats of contracts, and what DDR5 and its write queues hold: a request for a line goes to
its home as a message in `out` (the model's choice of log 1). -/
def Obligations.HostCommandsLeaveTheHomeAlone : Prop :=
  ∀ (s : State) (m : EMsg) (c : CMsg) (p : Port) (e : BitVec 12) (r : BitVec 2) (o : BitVec 6) (x16 g6 : Bool) (v : W64) (w : WaitRef),
    ∀ i ∈ [Instr.rdshared m, .rdown m, .upgrade m, .rdcur m, .write m, .writent m, .wbdirty m, .evictclean m, .atomic m, .rsvload m,
      .condstore m, .barrier m, .barDoneComplete p e, .pfhint m, .floor m, .exception m, .snprsp m, .memrd c, .memwr c, .memwrptl c,
      .memspecrd c, .birsp p e r, .biconflict p e, .snoopTimeout p e, .hostLinkTrained p x16 g6, .hostLinkRecovery p,
      .recoveryTimeout p, .ltssmExit p, .portDownWalkDone p, .hostLinkRecovered p x16 g6 v, .waiterResume w, .reservedEmhalOpcode m o,
      .backInvalidationEnable p, .msiXEnable p],
      ∃ t : State, exec i s = .next t ∧ HomeKept s t

/-! ### The test port, SMBus and the Peat record (R479 to R487, R491, R492, R518) -/

/-- Every test instruction is taken in every state; it loads the instruction register, and changes only the test port, what has left the
device and, where it samples pins, the free-value count. BYPASS shifts through one bit; outside its condition a conditioned instruction
acts as BYPASS (R491). With TRST_N low the test logic takes none of them (R515).
The SMBus commands are answered while the always-on supply is up, whatever the other clocks do, and change nothing but what has left
the device, the selected record number and the free-value count; a command to another address, or without its PEC, does nothing (R487, R518).
The model's choices it rests on: logs 1, 8, 56, 58. -/
def Obligations.TestAndSmbusCommandsComplete : Prop :=
  (∀ (s : State) (bits : List Bool) (tdi : Bool) (v : W32), s.pins.trstN = false →
    ∀ i ∈ [Instr.idcode, .frzstat, .highz, .clamp, .bypass tdi, .samplePreload bits, .extest bits, .extestPulse bits, .extestTrain bits, .chainsel v,
      .chainscan bits, .arraysel v, .arrayrd], exec i s = .next s) ∧
  (∀ (s : State) (bits : List Bool) (tdi : Bool) (v : W32), s.pins.trstN = true →
    exec .idcode s = .next { s with tap := { s.tap with ir := 0x02 }, out := s.out ++ [.tdo (wordBits idcodeWord)] } ∧
    exec .frzstat s = .next { s with tap := { s.tap with ir := 0xC0 }, out := s.out ++ [.tdo (wordBits (frzstatWord s))] } ∧
    exec .highz s = .next { s with tap := { s.tap with ir := 0x03 } } ∧
    exec .clamp s = .next { s with tap := { s.tap with ir := 0x04 } } ∧
    exec (.bypass tdi) s = .next { s with tap := { s.tap with ir := 0xFF, bypass := tdi }, out := s.out ++ [.tdo [s.tap.bypass]] } ∧
    (∀ i ∈ [(Instr.samplePreload bits, (0x01 : Byte), true), (.extest bits, 0x00, !s.pins.resetN), (.extestPulse bits, 0x05, !s.pins.resetN),
        (.extestTrain bits, 0x06, !s.pins.resetN)],
      ∃ t : State, exec i.1 s = .next t ∧ t.tap.ir = i.2.1 ∧ t = { s with tap := t.tap, out := t.out, freeCtr := t.freeCtr } ∧
        (i.2.2 = true → t.tap = { s.tap with ir := i.2.1, bscan := t.tap.bscan } ∧ t.freeCtr = s.freeCtr + 1 ∧
          t.tap.bscan.length = Config.bscanLen ∧ (bits.length = Config.bscanLen → t.tap.bscan = bits) ∧
          ∃ d : List Bool, t.out = s.out ++ [.tdo d] ∧ d.length = bits.length) ∧
        (i.2.2 = false → t.tap = { s.tap with ir := i.2.1, bypass := (s.tap.bypass :: bits).getLastD false } ∧ t.freeCtr = s.freeCtr ∧
          t.out = s.out ++ [.tdo ((s.tap.bypass :: bits).take bits.length)])) ∧
    (s.dbg.frozen = true →
      (∃ t : State, exec (.chainsel v) s = .next t ∧ t.tap = { s.tap with ir := 0xC1, chain := v.setWidth 8 } ∧
        t = { s with tap := t.tap, out := t.out } ∧
        t.out = s.out ++ [.tdo (wordBits (BitVec.ofNat 24 (Config.chainLen (v.setWidth 8 : Byte).toNat) ++ (v.setWidth 8 : Byte)))]) ∧
      (∃ t : State, exec (.chainscan bits) s = .next t ∧ t.tap = { s.tap with ir := 0xC2, chains := t.tap.chains } ∧
        t = { s with tap := t.tap, out := t.out } ∧
        t.out = s.out ++ [.tdo ((chainBits s s.tap.chain.toNat ++ bits).take bits.length)] ∧
        chainBits t s.tap.chain.toNat = (chainBits s s.tap.chain.toNat ++ bits).drop bits.length) ∧
      (∃ t : State, exec (.arraysel v) s = .next t ∧
        t.tap = { s.tap with ir := 0xC3, array := v.setWidth 8, row := (v.extractLsb' 8 24).toNat } ∧ t = { s with tap := t.tap, out := t.out } ∧
        t.out = s.out ++ [.tdo (wordBits (BitVec.ofNat 24 (Config.arrayWidth (v.setWidth 8 : Byte).toNat) ++ (v.setWidth 8 : Byte)))]) ∧
      (∃ t : State, exec .arrayrd s = .next t ∧ t.tap = { s.tap with ir := 0xC4, row := s.tap.row + 1 } ∧
        t = { s with tap := t.tap, out := t.out } ∧
        ∃ d : List Bool, t.out = s.out ++ [.tdo d] ∧ d.length = Config.arrayWidth s.tap.array.toNat)) ∧
    (s.dbg.frozen = false →
      (∀ i ∈ [(Instr.chainsel v, (0xC1 : Byte), wordBits v), (.chainscan bits, 0xC2, bits), (.arraysel v, 0xC3, wordBits v), (.arrayrd, 0xC4, [])],
        exec i.1 s = .next { s with
          tap := { s.tap with ir := i.2.1, bypass := (s.tap.bypass :: i.2.2).getLastD false }
          out := s.out ++ [.tdo ((s.tap.bypass :: i.2.2).take i.2.2.length)] }))) ∧
  (∀ (s : State) (seq : W32) (b : SmbHdr) (ms : BitVec 16), s.aon.up = true → b.addr ≠ 0x58 + s.aon.smbAd.setWidth 7 ∨ b.pec = false →
    ∀ i ∈ [Instr.peatPtr b, .peatSel b seq, .peatData b, .temp b, .power b, .warmAnnounce b ms], exec i s = .next s) ∧
  (∀ (s : State) (seq : W32) (b : SmbHdr), s.aon.up = true → b.addr = 0x58 + s.aon.smbAd.setWidth 7 → b.pec = true →
    exec (.peatPtr b) s = .next { s with out := s.out ++ [.smb (leBytes s.peat.oldest 4 ++ leBytes s.peat.next 4)] } ∧
    exec (.peatSel b seq) s = .next { s with peat := { s.peat with sel := seq } } ∧
    exec (.temp b) s = .next { s with out := s.out ++ [.smb s.aon.temps.toList] } ∧
    exec (.power b) s = .next { s with out := s.out ++ [.smb (leBytes (Config.power s.freeCtr) 2)], freeCtr := s.freeCtr + 1 } ∧
    exec (.peatData b) s = .next (match s.peat.first s.peat.sel with
      | some n => { s with peat := { s.peat with sel := n + 1 }, out := s.out ++ [.smb (leBytes (s.peat.recAt n) 64)] }
      | none => { s with out := s.out ++ [.smb []] }))

/-- A record read from the ring carries the number it was read under, and its CRC holds, whether the slot held it or reads as VOID
(R485, R486). -/
def Obligations.RecordReadCarriesItsNumber : Prop :=
  ∀ (x : Peat) (n : W32), recValid (x.recAt n) n = true

/-- Every step keeps the slots of the Peat record canonical: no slot listed that holds the empty record. -/
def Obligations.EveryStepKeepsPeatRingCanonical : Prop :=
  ∀ s t : State, spWf 0 s.peat.ring = true → step s = .next t → spWf 0 t.peat.ring = true

/-- The Peat writer writes its own records first, then the front of the queue; its 64 bytes stand at NEXT modulo 16,384, packed with the number, the
count of starts, the time and the node as they then are, and with DRAIN in a drain; NEXT advances by 1, and one of its two copies in turn follows it. Nothing outside the Peat record changes (R479, R480, R485).
A minute of the record limits empties the count of limited records, and nothing else (R484); a summary enters one SUMMARY record when
its interval is not 0, remembers the counts it carries, and empties the count of suppressed records (R483).
The model's choices it rests on: log 5. -/
def Obligations.PeatWriterAndLimitsWork : Prop :=
  (∀ (s : State), s.aon.up = true → s.crp.powered = true → spWf 0 s.peat.ring = true → ∃ t : State, exec .peatRecordWrite s = .next t ∧ t = { s with peat := t.peat } ∧
    (s.peat.own = [] → s.peat.queue = [] → t = s) ∧
    (∀ (r : PRec) (l : List PRec), s.peat.own ++ s.peat.queue = r :: l →
      spGet 0 t.peat.ring (s.peat.next.toNat % 16384) = packPeat r s.peat.next s.peat.starts (timeValid s)
        (if timeValid s then s.gen.time else s.aon.cycles) (nodeValid s) s.node.node (draining s || decide (r.type = 0x20)) ∧
      t.peat.next = s.peat.next + 1 ∧ fld (spGet 0 t.peat.ring (s.peat.next.toNat % 16384)) 0 32 = s.peat.next ∧
      (∀ k : Nat, k ≠ s.peat.next.toNat % 16384 → spGet 0 t.peat.ring k = spGet 0 s.peat.ring k) ∧
      (t.peat.copyA = t.peat.next ∧ t.peat.copyB = s.peat.copyB ∨ t.peat.copyA = s.peat.copyA ∧ t.peat.copyB = t.peat.next) ∧
      t.peat.starts = s.peat.starts ∧ t.peat.sums = s.peat.sums ∧ t.peat.sel = s.peat.sel ∧ t.peat.ctl = s.peat.ctl) ∧
    (s.peat.own ≠ [] → t.peat.own = s.peat.own.tail ∧ t.peat.queue = s.peat.queue ∧ t.peat.source = s.peat.source) ∧
    (s.peat.own = [] → s.peat.queue ≠ [] → t.peat.own = [] ∧
      t.peat.queue ++ t.peat.source = s.peat.queue.tail ++ s.peat.source)) ∧
  (∀ s : State, s.aon.up = true →
    exec .limitMinute s = .next { s with peat := { s.peat with used := 0 } } ∧
    (s.clk = true → ∃ t : State, exec .summary s = .next t ∧ t = { s with peat := t.peat } ∧
      (summaryMin s = 0 → t = s) ∧
      (summaryMin s ≠ 0 → t.peat.sums = sumCounts s ∧ t.peat.suppr = 0 ∧ t.peat.supprs = 0 ∧ t.peat.own = s.peat.own ∧ t.peat.ring = s.peat.ring ∧
        t.peat.next = s.peat.next ∧ ∃ r : PRec, r.type = 0x50 ∧
          t.peat.queue ++ t.peat.source = s.peat.queue ++ s.peat.source ++ [r])))

/-! ### Supplies, resets and drains (R100 to R102, R453 to R462, R472 to R474, R488 to R490, R507, R508, R513) -/

/-- Power-on, a power-down, a trip of the always-on rail and RESET_N lose everything but MRAM and, for those that keep the always-on
supply, the always-on registers (R101, R423, R454, R455, R457, R507, R508). The straps of the SMBus address are sampled as the always-on supply rises, and the test
logic is reset with its supply (R515).
The model's choices it rests on: logs 4, 5, 59. -/
def Obligations.ResetsLoseAllButMramAndAon : Prop :=
  ∀ (s : State) (v : Bool),
    (∃ t : State, exec .powerOn s = .next t ∧ ColdFrom 0 s t ∧ t.aon = { State.reset.aon with smbAd := Config.smbStrap } ∧ t.tap = State.reset.tap ∧
      t.pins = { s.pins with trstN := false } ∧ t.crp.powered = false ∧
      t.crp.started = false ∧ t.peat.own = [] ∧ t.peat.queue = [] ∧ t.peat.source = []) ∧
    (s.aon.up = true → ∃ t : State, exec (.powerDown v) s = .next t ∧ ColdFrom 1 s t ∧ t.tap = State.reset.tap ∧
      t.pins = { s.pins with trstN := false } ∧ t.crp.powered = false ∧
      t.crp.started = false ∧ (v = false → t.aon = { s.aon with fillBlk := 0 } ∧ t.peat.own = s.peat.own ∧ t.peat.queue = s.peat.queue) ∧
      (v = true → t.aon = { State.reset.aon with up := false } ∧ t.peat.own = [] ∧ t.peat.queue = [])) ∧
    (s.aon.up = true → exec (.railTrip true) s = exec (.powerDown true) s ∧ ∃ t : State, exec (.railTrip true) s = .next t ∧ ColdFrom 1 s t ∧
      t.pins = { s.pins with trstN := false } ∧ t.crp.powered = false ∧ t.aon = { State.reset.aon with up := false } ∧ t.peat.own = [] ∧ t.peat.queue = []) ∧
    (s.aon.up = true → ∃ t : State, exec .resetN s = .next t ∧ ColdFrom 1 s t ∧ t.pins = { s.pins with resetN := false } ∧ t.tap = { s.tap with chains := [] } ∧
      t.aon = { s.aon with
        fillBlk := 0, heldCnt := BitVec.ofNat 16 (heldData s), dirty := BitVec.ofNat 31 (dirtySum s)
        cause := if s.aon.stopHeld || s.crp.waitOn then s.aon.cause else 1 } ∧
      t.crp.waitRst = true ∧ t.crp.started = false ∧ t.crp.powered = s.crp.powered ∧ t.clk = false ∧ t.peat.own = s.peat.own)

/-- Where the device keeps its content, WRST_N begins the warm drain: admission closes, the host ports go down, with their keys and semaphores and MSI-X, and
the cause is recorded (R403, R414, R417, R457, R459, R461); stated for a device whose buffers are empty and that has no snoop outstanding. Where it does not, and on a frozen
die, WRST_N acts as RESET_N (R457, R478, R490).
PFAIL_N, and a trip of another rail while PFAIL_N is high, begin the power-fail drain: admission closes and every reservation is cleared
(R212, R457, R472, R508), and a cause that a stop has kept is given up where the failure comes in a start-up (R457); stated for empty buffers. A frozen device only latches its counts and enters the DRAIN record (R490).
The model's choices it rests on: logs 1, 62, 63. -/
def Obligations.PinsBeginTheDrains : Prop :=
  (∀ s : State, s.aon.up = true → s.crp.waitOn = false → s.crp.waitRst = false → s.crp.started = true →
    (s.dbg.frozen = true ∨ s.crp.phase ≠ .pfDrain ∧ s.crp.phase ≠ .warmDrain ∧ warmAsCold s = true → ∃ t : State, exec .wrstN s = .next t ∧ ColdFrom 1 s t ∧ t.pins = { s.pins with wrstN := false } ∧
      t.crp.waitRst = true ∧ t.clk = false) ∧
    (s.dbg.frozen = false → s.crp.phase ≠ .pfDrain → s.crp.phase ≠ .warmDrain → warmAsCold s = false → (∀ i : SliceNo, (s.sl i).wmb = [] ∧ (s.sl i).rb = []) → (∀ p : Port, (s.hp p).ntc = [] ∧ (s.hp p).snps = []) →
      ∃ t : State, exec .wrstN s = .next t ∧ t.pins = { s.pins with wrstN := false } ∧ t.aon = { s.aon with cause := 2 } ∧
        t.crp = { s.crp with phase := .warmDrain, drained := false } ∧ t.arb = { s.arb with allShut := true } ∧
        (∀ p : Port, t.hp p = { s.hp p with link := .down, admOpen := false, msix := false, msixLive := false, quarCnt := 0, quarWait := false } ∧
          vget t.gen.keys p.val true = false) ∧
        (∀ n : Fin 8, t.gen.sem[n] = if 1 ≤ (s.gen.sem[n]).toNat ∧ (s.gen.sem[n]).toNat ≤ 4 then 0 else s.gen.sem[n]) ∧
        t.home = s.home ∧ t.mem = s.mem ∧ t.out = s.out)) ∧
  (∀ s : State, s.aon.up = true → s.crp.waitOn = false → s.crp.waitRst = false → s.crp.started = true →
    ∀ c ∈ [(Instr.pfailN, { s.pins with pfailN := false }), (Instr.railTrip false, s.pins)], (c.1 = .railTrip false → s.pins.pfailN = true) →
    (s.dbg.frozen = true → ∃ t : State, exec c.1 s = .next t ∧
      (∃ r : PRec, r.type = 0x20 ∧ r.cause = 3 ∧ t = { s with
        pins := c.2, peat := { s.peat with own := s.peat.own ++ [r] }
        aon := { s.aon with heldCnt := BitVec.ofNat 16 (heldData s), dirty := BitVec.ofNat 31 (dirtySum s) } })) ∧
    (s.dbg.frozen = false → s.crp.phase ≠ .pfDrain → (∀ i : SliceNo, (s.sl i).wmb = []) → (∀ p : Port, (s.hp p).ntc = []) →
      ∃ t : State, exec c.1 s = .next t ∧ t.pins = c.2 ∧ t.crp = { s.crp with phase := .pfDrain } ∧ t.home = s.home ∧ t.mem = s.mem ∧
        (∀ p : Port, t.hp p = { s.hp p with rsv := [], rsvBad := [] }) ∧ t.peat = s.peat ∧
        t.aon = { s.aon with stopHeld := s.aon.stopHeld && [Phase.running, .warmDrain, .stopped].contains s.crp.phase } ∧
        (s.crp.phase = .running ∨ s.crp.phase = .warmDrain → t.arb = { s.arb with allShut := true } ∧
          ∀ i : SliceNo, t.sl i = { s.sl i with rb := (s.sl i).rb.filter (·.awaited) }) ∧
        (s.crp.phase ≠ .running → s.crp.phase ≠ .warmDrain → t = { s with pins := c.2, aon := t.aon, crp := { s.crp with phase := .pfDrain }, hports := t.hports })))

/-- At the deadline of the warm drain what is left in the buffers is discarded and counted, QUIET is recorded, the DRAIN record is
entered with that count, and the device falls silent (R102, R459, R460, R482); with WRST_N released already, the start begins (R454).
100 µs after PFAIL_N the leftovers are abandoned and counted, every write of the queues is in DDR5, the last of its line there, and the DIMMs are in
self-refresh, the limited records are discarded, the DRAIN record comes next with that count, and the device is inert with cause 3 (R336, R456, R472, R480).
The model's choices it rests on: log 63. -/
def Obligations.DrainDeadlinesEndTheDrains : Prop :=
  (∀ s : State, s.clk = true → s.crp.phase = .warmDrain → s.crp.drained = false → s.pins.wrstN = true →
    ∃ t : State, exec .warmDrainDeadline s = .next t ∧ t.aon.warmCnt = satInc16 s.aon.warmCnt ∧ t.crp.started = true ∧ t.out.length ≥ s.out.length ∧
      (standAlone s = false → t.crp.kind = 2 ∧ t.crp.phase = .fuses ∧ t.crp.kept = false ∧ t.mem.lines = s.mem.lines)) ∧
  (∀ s : State, s.clk = true → s.crp.phase = .warmDrain → s.crp.drained = false → s.pins.wrstN = false →
    ∃ t : State, exec .warmDrainDeadline s = .next t ∧ t.crp = { s.crp with drained := true } ∧ t.fabric.stopped = true ∧
      (∀ i : SliceNo, (t.sl i).wmb = [] ∧ (t.sl i).cw = [] ∧ (t.sl i).rb = []) ∧ (∀ p : Port, (t.hp p).ntc = []) ∧
      (t.aon.quiet = true → leftOver s = 0 ∧ s.home.tt = [] ∧ ∀ i : SliceNo, (s.sl i).stt = []) ∧
      (leftOver s = 0 → s.home.tt = [] → (∀ i : SliceNo, (s.sl i).stt = []) → t.aon.quiet = true) ∧
      t.aon = { s.aon with quiet := t.aon.quiet } ∧
      (∃ r : PRec, r.type = 0x20 ∧ r.cause = 1 ∧ fld r.body 0 32 = BitVec.ofNat 32 (leftOver s) ∧ t.peat = { s.peat with own := s.peat.own ++ [r] }) ∧
      t.home.core = s.home.core ∧ t.mem = s.mem ∧ t.pins = s.pins) ∧
  (∀ s : State, s.aon.up = true → s.crp.phase = .pfDrain → s.crp.waitOn = false → s.dbg.frozen = false → s.good →
    ∃ t : State, exec .pfailDrainDeadline s = .next t ∧ t.clk = false ∧ t.crp = { s.crp with phase := .stopped, waitOn := true } ∧
      t.fabric.stopped = true ∧ t.aon = { s.aon with cause := if s.aon.stopHeld then s.aon.cause else 3 } ∧
      (∀ i : SliceNo, (t.sl i).wmb = [] ∧ (t.sl i).cw = [] ∧ (t.sl i).rb = []) ∧ (∀ p : Port, (t.hp p).ntc = []) ∧ t.mem.wq = [] ∧ t.mem.selfRef = true ∧
      (∀ n : Nat, (∀ c ∈ s.mem.wq, c.1 ≠ n) → spGet {} t.mem.ddr n = spGet {} s.mem.ddr n) ∧
      (∀ c : Nat × DLine, s.mem.wq.reverse.find? (fun d => decide (d.1 = c.1)) = some c → spGet {} t.mem.ddr c.1 = c.2) ∧
      (∃ r : PRec, r.type = 0x20 ∧ r.cause = 2 ∧ fld r.body 0 32 = BitVec.ofNat 32 (leftOver s) ∧ t.peat.own = s.peat.own ++ [r]) ∧
      t.peat.queue = s.peat.queue.filter (fun r => !peatLimited r.type) ∧ t.home = s.home)

/-- The release of WRST_N starts the device: cold where it acted as RESET_N, or where the die was frozen in the drain (R490); warm after the drain, with HBM and DDR5 content kept; a
stand-alone device keeps its content when QUIET is 1 and restarts cold when it is 0 (R454, R460, R462, R469).
The QUIET exchange of a warm start (R460, R521): with every member quiet and answering the content is kept; one that is not, or no
answer in time, restarts the device cold.
The model's choices it rests on: logs 61, 62. -/
def Obligations.WarmStartAsksWhetherAllWereQuiet : Prop :=
  (∀ s : State, s.aon.up = true →
    (s.crp.waitRst = true → s.pins.wrstN = false → s.pins.resetN = true →
      exec .wrstNRelease s = .next { s with
        pins := { s.pins with wrstN := true }
        crp := { s.crp with started := true, waitRst := false, phase := .pll, startT := s.aon.cycles } }) ∧
    (s.crp.waitRst = false → s.crp.phase = .warmDrain → s.dbg.frozen = true → ∃ t : State, exec .wrstNRelease s = .next t ∧ ColdFrom 1 s t ∧
      t.pins = { s.pins with wrstN := true } ∧ t.crp.started = true ∧ t.crp.phase = .pll) ∧
    (s.crp.waitRst = false → s.crp.phase = .warmDrain → s.crp.drained = false → s.dbg.frozen = false →
      exec .wrstNRelease s = .next { s with pins := { s.pins with wrstN := true } }) ∧
    (s.crp.waitRst = false → s.crp.phase = .warmDrain → s.crp.drained = true → s.dbg.frozen = false →
      ∃ t : State, exec .wrstNRelease s = .next t ∧ t.pins = { s.pins with wrstN := true } ∧ t.aon.warmCnt = satInc16 s.aon.warmCnt ∧
        (standAlone s = false ∨ s.aon.quiet = true → WarmFrom s t ∧ t.crp.kept = standAlone s ∧ t.aon.cause = s.aon.cause) ∧
        (standAlone s = true → s.aon.quiet = false → ColdFrom 1 s t ∧ t.crp.started = true ∧ t.crp.phase = .pll))) ∧
  (∀ (s : State) (a : List QuietAnswer), s.clk = true → fwUp s = true → s.crp.kind = 2 → s.crp.kept = false → s.crp.phase = .links →
    ((s.aon.quiet = false ∨ (∃ x ∈ a, x.quiet = false) ∨ (∃ x ∈ a, s.node.node ∈ x.dead)) →
      ∃ t : State, exec (.quietExchangeResult a) s = .next t ∧ ColdFrom 1 s t ∧ t.crp.phase = .pll ∧ t.crp.started = true) ∧
    (s.aon.quiet = true → (∀ x ∈ a, x.quiet = true ∧ x.dead = []) → (∀ m ∈ members s.node, m ≠ self s → ∃ x ∈ a, x.member = m) →
      exec (.quietExchangeResult a) s = .next { s with fw := { s.fw with st := .run }, crp := { s.crp with kept := true } }) ∧
    (∃ t : State, exec .quietTimeout s = .next t ∧ ColdFrom 1 s t ∧ t.crp.phase = .pll ∧ t.crp.started = true))

/-- FREEZE_N freezes a device whose start has begun: its die keeps every bit, only the pin, the freeze state, the free-value number under
which the chains are read and the FREEZE record changing (R488, R489).
The loss of REFCLK or of a lock stops the device, with the cause kept and a STOP record entered (R343, R453, R454); a temperature
sample is recorded, refresh of each stack above 85 °C is doubled, and a die at its limit in two samples in a row stops (R513).
The model's choices it rests on: log 64. -/
def Obligations.PinsAndMonitorsStopTheDevice : Prop :=
  (∀ s : State, s.aon.up = true → s.crp.started = true → s.crp.waitOn = false → s.dbg.frozen = false →
    ∃ t : State, exec .freezeN s = .next t ∧ t.clk = false ∧ (∃ r : PRec, r.type = 0x12 ∧ r.cause = 1 ∧ t = { s with
      pins := { s.pins with freezeN := false }, dbg := { s.dbg with frozen := true, src := 1, code := 0 }
      tap := { s.tap with chains := [], snap := s.freeCtr }, freeCtr := s.freeCtr + 1, peat := { s.peat with own := s.peat.own ++ [r] } })) ∧
  (∀ (s : State) (x : List Byte), s.aon.up = true → s.crp.started = true → s.crp.waitOn = false → s.fabric.selfDead = false →
    (∃ t : State, exec .refclkLoss s = .next t ∧ t.crp.refLost = true ∧ t.aon = { s.aon with cause := 4, stopHeld := true } ∧
      t.pins = s.pins ∧ t.mem.ddr = s.mem.ddr ∧
      (∃ (r : PRec) (l : List PRec), r.type = 0x10 ∧ r.cause = 2 ∧ t.peat.own = s.peat.own ++ r :: l) ∧
      (s.dbg.frozen = false → bit (s.dbg.frzCtl.get 0xE) 2 = true → t.dbg.frozen = true ∧ t.dbg.src = 4 ∧ t.dbg.code = 2) ∧
      (s.dbg.frozen = false → bit (s.dbg.frzCtl.get 0xE) 2 = false →
        t.crp.phase = .stopped ∧ t.fabric.stopped = true ∧ t.fabric.selfDead = true)) ∧
    (x.length = 5 → ∃ t : State, exec (.temperatureSample x) s = .next t ∧ t.aon.temps.toList = x ∧ t.pins = s.pins ∧
      t.mem.ddr = s.mem.ddr ∧ (s.clk = true → ∀ k : Fin 4, t.mem.hot.getLsbD k.val = decide (85 < (x.getD (k.val + 1) 0).toInt)) ∧
      ((∀ k : Fin 5, vget s.aon.hotMs k.val 0 = 0) → (∀ k : Fin 5, vget t.aon.hotMs k.val 0 = if hotLimit ≤ (x.getD k.val 0).toInt then 1 else 0) ∧
        t = { s with aon := t.aon, mem := t.mem }) ∧
      ((∃ k : Fin 5, 1 ≤ vget s.aon.hotMs k.val 0 ∧ hotLimit ≤ (x.getD k.val 0).toInt) → t.aon.cause = 4 ∧ t.aon.stopHeld = true ∧
        (∃ (r : PRec) (l : List PRec), r.type = 0x10 ∧ r.cause = 1 ∧ t.peat.own = s.peat.own ++ r :: l) ∧
        (s.dbg.frozen = false → bit (s.dbg.frzCtl.get 0xE) 2 = true → t.dbg.frozen = true ∧ t.dbg.src = 4 ∧ t.dbg.code = 1) ∧
        (s.dbg.frozen = false → bit (s.dbg.frzCtl.get 0xE) 2 = false →
          t.crp.phase = .stopped ∧ t.fabric.stopped = true ∧ t.fabric.selfDead = true))))

/-! ### The start-up (R24, R332, R333, R351 to R354, R361, R366, R463 to R469, R485) -/

/-- PWR_OK and the lock of the PLLs begin a cold start (R463, R464 step 1). The board's release of the other pins, and its drive of TRST_N, are log 22.
The read of MRAM at a start: the count of starts advances, NEXT is taken from the higher copy and advances over the valid records, both
copies follow it, the START record with the reset cause and the latched counts goes ahead of every other, and the on-die rows repaired are in force (R101, R354, R464, R482, R485).
Stated for a device with no on-die repair waiting.
The model's choices it rests on: logs 22, 60. -/
def Obligations.ColdStartReadsTheMram : Prop :=
  (∀ s : State, s.aon.up = true →
    (s.crp.started = false → ∀ v : Bool, exec (.pwrOk v) s = .next { s with
      pins := ⟨true, true, true, true, v⟩, tap := if v then s.tap else State.reset.tap
      crp := { s.crp with powered := true, started := true, waitRst := false, phase := .pll, startT := s.aon.cycles } }) ∧
    (s.crp.started = true → s.crp.phase = .pll → exec .pllLock s = .next { s with crp := { s.crp with pllLock := true, phase := .fuses } })) ∧
  (∀ s : State, s.clk = true → s.crp.phase = .fuses → (∀ e ∈ s.integ.repMap, e.loc.onDie = false ∨ e.st ≠ .pending) →
    ∃ (t : State) (k : Nat), exec .fuseAndMramReadDone s = .next t ∧ t.peat.next = s.peat.higher + BitVec.ofNat 32 k ∧ k ≤ 16384 ∧
      (∀ j : Nat, j < k → recValid (spGet 0 s.peat.ring ((s.peat.higher + BitVec.ofNat 32 j).toNat % 16384)) (s.peat.higher + BitVec.ofNat 32 j) = true) ∧
      (k < 16384 → recValid (spGet 0 s.peat.ring (t.peat.next.toNat % 16384)) t.peat.next = false) ∧
      t = { s with
        peat := { s.peat with next := t.peat.next, copyA := t.peat.next, copyB := t.peat.next, starts := s.peat.starts + 1
                              own := startRec s :: s.peat.own }
        aon := { s.aon with stopHeld := false }, crp := { s.crp with phase := .selfTest }, integ := { s.integ with inForce := t.integ.inForce } } ∧
      ∀ r : RepLoc, r ∈ t.integ.inForce ↔ r ∈ s.integ.inForce ∨ ∃ e ∈ s.integ.repMap, e.loc = r ∧ r.onDie = true ∧ e.st = .applied)

/-- The self-test: with every checker and array good the parallel steps begin; the first failing checker, and an array row without a
spare, stop the start-up with a STOP record of cause 6, and a row with a spare is recorded, and its spare switched in (R354, R366, R464 step 3, R467); stated for a
repair map that has room (log 48).
A disabled way that tests clean between the zero-fill of HBM and the end of DDR5 training is enabled again (R353); a way that does not
stays disabled. Stated for a freeze not armed on the event.
The model's choices it rests on: logs 48, 60. -/
def Obligations.SelfTestsDecide : Prop :=
  (∀ (s : State) (r : SelfTest), s.clk = true → s.crp.phase = .selfTest →
    (r.checker = none → r.arrays = [] → exec (.checkerSelfTestDone r) s = .next { s with
      integ := { s.integ with bistDone := true }, crp := { s.crp with testOk := true, phase := .training } }) ∧
    (∀ c : BitVec 10, r.checker = some c → ∃ t : State, exec (.checkerSelfTestDone r) s = .next t ∧ t.crp = { s.crp with phase := .stopped } ∧
      t.integ = { s.integ with bistFail := true, checker := c } ∧ (∀ p : Port, (t.hp p).link = .down) ∧ (∀ f : FPortNo, (t.fp f).link = .down) ∧
      ∃ q : PRec, q.type = 0x10 ∧ q.cause = 6 ∧ t.peat = { s.peat with own := s.peat.own ++ [q] }) ∧
    (∀ (i : BitVec 16) (l : List (BitVec 16 × Bool)), r.checker = none → r.arrays = (i, false) :: l →
      ∃ t : State, exec (.checkerSelfTestDone r) s = .next t ∧ t.crp.phase = .stopped ∧ (∀ f : FPortNo, (t.fp f).link = .down) ∧
        ∃ q : PRec, q.type = 0x10 ∧ q.cause = 6 ∧ t.peat.own = s.peat.own ++ [q]) ∧
    (∀ i : BitVec 16, r.checker = none → r.arrays = [(i, true)] → s.integ.repMap.length < 4096 →
      ∃ t : State, exec (.checkerSelfTestDone r) s = .next t ∧ t.crp = { s.crp with testOk := true, phase := .training } ∧ t.integ.bistDone = true ∧
        (∃ e ∈ t.integ.repMap, e.loc = .array i ∧ e.st = .applied) ∧ RepLoc.array i ∈ t.integ.inForce ∧ t.integ.repairs = s.integ.repairs + 1)) ∧
  (∀ (s : State) (i : SliceNo) (region : BitVec 6) (w : Way), s.clk = true → preparing s = true → s.crp.hbmOk = true → s.mem.hbmFilled = true →
    s.crp.ddrOk = false → bit ((s.sl i).disMap region.toNat) w.val = true → spWf 0 (s.sl i).wdis = true →
    exec (.disabledWayTestDone i region w false) s = .next s ∧
    ∃ t : State, exec (.disabledWayTestDone i region w true) s = .next t ∧
      (∀ v : Way, bit ((t.sl i).disMap region.toNat) v.val = (decide (v ≠ w) && bit ((s.sl i).disMap region.toNat) v.val)) ∧
      (∀ r : BitVec 6, r ≠ region → (t.sl i).disMap r.toNat = (s.sl i).disMap r.toNat) ∧ (∀ j : SliceNo, j ≠ i → t.sl j = s.sl j) ∧
      t.home = s.home ∧ t.mem = s.mem ∧ t.crp = s.crp ∧ t.pins = s.pins)

/-- The memories' steps (R328, R332, R333, R361, R464, R467): HBM trained in all four stacks or the start-up stops, HBM zero-filled, DDR5
with eight like RDIMMs of x4 devices, else four, else the start-up stops, TRAINED naming the channels that trained (R370), and the first GiB of DDR5 filled. Stated
for a device with no repair waiting.
A firmware image: after a warm reset the one kept, where it verifies (R469 step 4); else slot A, else slot B, each at its flash address (R517), else, and with a
description R24 refuses, the start-up stops; a good one loads the node ID, the torus sizes and the time root, and every fabric port enabled at the reset that has a neighbour begins to train (R24, R315, R324,
R464 steps 4 and 10, R467).
The model's choices it rests on: log 60. -/
def Obligations.MemoriesAndImageComeUp : Prop :=
  (∀ (s : State) (x : BitVec 4) (dimms : List (Option Dimm)), s.clk = true → preparing s = true → (∀ e ∈ s.integ.repMap, e.st ≠ .pending) →
    (s.crp.hbmOk = false → x = 0xF → ∃ t : State, exec (.hbmTrainingDone x) s = .next t ∧ t.crp.hbmOk = true ∧
      t = { s with mem := { s.mem with hbmTrained := 0xF }, crp := t.crp, integ := { s.integ with repairs := t.integ.repairs, inForce := t.integ.inForce } }) ∧
    (s.crp.hbmOk = false → x ≠ 0xF → ∃ t : State, exec (.hbmTrainingDone x) s = .next t ∧ t.crp = { s.crp with phase := .stopped } ∧
      t.mem = { s.mem with hbmTrained := x } ∧ ∀ f : FPortNo, (t.fp f).link = .down) ∧
    (s.crp.hbmOk = true → ∃ t : State, exec .hbmZeroFillDone s = .next t ∧ t.mem = { s.mem with hbmFilled := true } ∧
      t = { s with mem := t.mem, crp := t.crp }) ∧
    (s.crp.ddrOk = false → (∃ d : Dimm, dimmLike dimms 0 = some d) → (∀ c < 4, (dimmLike dimms c).isSome) →
      ∃ (t : State) (d : Dimm) (n : Nat), exec (.ddr5TrainingDone dimms) s = .next t ∧ dimms.getD 0 none = some d ∧ dimmOk d = true ∧
        (n = 8 ∧ (∀ c < 8, (dimmLike dimms c).isSome) ∨ n = 4 ∧ (∃ c < 8, dimmLike dimms c = none)) ∧ t.crp.ddrOk = true ∧ t.mem.size = BitVec.ofNat 64 (n * d.gib * 2 ^ 30) ∧
        t.mem.chan = (if n = 8 then 0xFF else 0x0F) ∧ t.mem.ddr = s.mem.ddr ∧
        t.mem.selfRef = false ∧ (∀ c : Fin 8, t.mem.ddrTrained.getLsbD c.val = (dimms.getD c.val none).isSome) ∧
        t = { s with mem := t.mem, crp := t.crp, integ := { s.integ with repairs := t.integ.repairs, inForce := t.integ.inForce } }) ∧
    (s.crp.ddrOk = false → (∃ c < 4, dimmLike dimms c = none) → ∃ t : State, exec (.ddr5TrainingDone dimms) s = .next t ∧
      t.crp = { s.crp with phase := .stopped } ∧ (∀ f : FPortNo, (t.fp f).link = .down) ∧
      t.mem = { s.mem with ddrTrained := t.mem.ddrTrained, selfRef := false } ∧
      ∀ c : Fin 8, t.mem.ddrTrained.getLsbD c.val = (dimms.getD c.val none).isSome) ∧
    (s.crp.ddrOk = true → s.mem.fill1g = false → ∃ t : State, exec .firstGibFillDone s = .next t ∧
      t.mem = { s.mem with fill1g := true, fillBlk := 512 } ∧ t.aon = { s.aon with fillBlk := 512 } ∧
      t = { s with mem := t.mem, aon := t.aon, crp := t.crp })) ∧
  (∀ (s : State) (r : ImageResult) (k : Bool), s.clk = true → preparing s = true → s.crp.imageOk = false →
    k = (decide (s.crp.kind = 2) && r.kept) →
    (k = false → r.sigA = false → r.sigB = false → ∃ t : State, exec (.imageLoadDone r) s = .next t ∧ t.crp.phase = .stopped ∧ t.crp.imageOk = false ∧
      t.node = s.node ∧ ∀ f : FPortNo, (t.fp f).link = .down) ∧
    (k = true ∨ r.sigA = true ∨ r.sigB = true → descOk r.desc = false → ∃ t : State, exec (.imageLoadDone r) s = .next t ∧ t.crp.phase = .stopped ∧
      t.crp.imageOk = false ∧ t.node = s.node ∧ ∀ f : FPortNo, (t.fp f).link = .down) ∧
    (k = true ∨ r.sigA = true ∨ r.sigB = true → descOk r.desc = true → ∃ t : State, exec (.imageLoadDone r) s = .next t ∧
      t.crp.imageOk = true ∧ t.crp.slotB = (if k then s.crp.slotB else !r.sigA) ∧
      t.crp.flash = (if k then s.crp.flash else ⟨true, true, slotAddr (!r.sigA)⟩) ∧
      t.node.node = r.desc.node ∧ t.node.root = r.desc.root ∧ t.node.xsz.toNat = r.desc.xsz - 1 ∧ t.node.ysz.toNat = r.desc.ysz - 1 ∧
      t.node.zsz.toNat = r.desc.zsz - 1 ∧ t.node.loaded = true ∧ (t.node.dist = 0 ↔ r.desc.node = r.desc.root) ∧
      (∀ f : FPortNo, t.fp f = match neighbour t.node t.node.node f with
        | some _ => if (s.fp f).en then { s.fp f with link := .training } else s.fp f
        | none => s.fp f) ∧
      t = { s with node := t.node, fports := t.fports, crp := t.crp }))

/-- When every step is done the firmware is released (R464 step 11): FW_STATE reads RUN, and MODE of each host port is that of the
description, a port with a mode beginning to train and one without staying down (R288, R464 step 12). Stated for a start with no
notice and no message of another device waiting, of a device whose relocation table needs no query: it is its domain's only member, or the exchange is done.
Admission opens on a port when its link is up, the fabric is ready, the relocation tables are exchanged and the node is not declared
dead; the first opening ends the start-up (R460, R466, R477). Else the command changes nothing.
The model's choices it rests on: logs 1, 65. -/
def Obligations.FirmwareReleasesAndAdmissionOpens : Prop :=
  (∀ s : State, s.clk = true → s.crp.phase = .fwInit →
    (s.fw.tabDone = true ∨ ∀ m ∈ members s.node, m = self s) → (∀ p : Port, (s.mb p).backlog = [] ∧ (s.hp p).msix = false) →
    s.fabric.ring = [] →
    ∃ t : State, exec .firmwareRelease s = .next t ∧ t.fw.st = .run ∧ t.fw.tabDone = true ∧ t.crp = { s.crp with phase := .links } ∧
      (∀ p : Port, (t.hp p).mode = (if s.node.desc.modes.getD p.val 0 = 3 then 0 else s.node.desc.modes.getD p.val 0) ∧
        (t.hp p).link = (if (t.hp p).mode = 0 then .down else .training) ∧ (t.hp p).admOpen = (s.hp p).admOpen) ∧
      t.node.guests = s.node.desc.guests ∧ t.node.node = s.node.node ∧ t.slices = s.slices ∧ t.home = s.home ∧ t.mem = s.mem ∧
      t.mbx = s.mbx ∧ t.out = s.out) ∧
  (∀ (s : State) (p : Port), s.clk = true →
    (mayOpen s p = false → exec (.admissionOpen p) s = .next s) ∧
    (mayOpen s p = true → ∃ t : State, exec (.admissionOpen p) s = .next t ∧ t.hp p = { s.hp p with admOpen := true } ∧
      (∀ q : Port, q ≠ p → t.hp q = s.hp q) ∧ t.crp.phase = .running ∧ (s.crp.phase = .running → t.crp = s.crp) ∧
      t = { s with hports := t.hports, crp := t.crp }))

/-! ### Host links (R22, R120, R122, R123, R288, R289, R297, R403) -/

/-- A host link trains at a width and rate it may use, in the protocol of its mode; below x16 or 64 GT/s it is up and DEGRADED, and the
port's contract is lost (R288). The other ports, the slices, the home and DDR5 stay.
Recovery is entered from L0, and the port's reservations are cleared; it ends in L0 at a width and rate the port may use, the messages held for
it leaving in their order and the FLITs its link layer has replayed being counted, and else, or after 10 ms, as an exit from L0 does (R212,
R289, R320).
The model's choices it rests on: logs 30, 91, 92. -/
def Obligations.HostLinksTrainAndRecover : Prop :=
  (∀ (s : State) (p : Port) (x16 g6 : Bool), s.clk = true → (s.hp p).link = .training →
    (linkAllowed (s.hp p) x16 g6 = false → exec (.hostLinkTrained p x16 g6) s = .next s) ∧
    (x16 = true → g6 = true → exec (.hostLinkTrained p x16 g6) s = .next { s.setHp p { s.hp p with
      link := .up, width := 2, rate := true, degraded := false, proto := decide ((s.hp p).mode = 2), biEn := false, heldOut := [] } with
        out := s.out ++ (s.hp p).heldOut.map (Out.host p) }) ∧
    (linkAllowed (s.hp p) x16 g6 = true → x16 = false ∨ g6 = false → ∃ t : State, exec (.hostLinkTrained p x16 g6) s = .next t ∧
      (t.hp p).link = .up ∧ (t.hp p).degraded = true ∧ (t.hp p).width = (if x16 then 2 else 1) ∧ (t.hp p).rate = g6 ∧
      (t.hp p).proto = decide ((s.hp p).mode = 2) ∧ (t.hp p).biEn = false ∧ (t.hp p).ctr.valid = false ∧
      (∀ q : Port, q ≠ p → (t.hp q).link = (s.hp q).link ∧ (t.hp q).ctr = (s.hp q).ctr) ∧ t.slices = s.slices ∧ HomeKept s t)) ∧
  (∀ (s : State) (p : Port) (x16 g6 : Bool) (v : W64), s.clk = true →
    ((s.hp p).link = .up → exec (.hostLinkRecovery p) s = .next (s.setHp p { s.hp p with
      link := .recovery, recov := (s.hp p).recov + 1, rsv := [], rsvBad := [] })) ∧
    ((s.hp p).link = .recovery → exec (.hostLinkRecovered p true true v) s = .next { s.setHp p { s.hp p with
      link := .up, width := 2, rate := true, degraded := false, replay := (s.hp p).replay + v, heldOut := [] } with
        out := s.out ++ (s.hp p).heldOut.map (Out.host p) }) ∧
    ((s.hp p).link = .recovery → linkAllowed (s.hp p) x16 g6 = false → exec (.hostLinkRecovered p x16 g6 v) s =
      exec (.ltssmExit p) (s.setHp p { s.hp p with replay := (s.hp p).replay + v })) ∧
    ((s.hp p).link = .recovery → exec (.recoveryTimeout p) s = exec (.ltssmExit p) s) ∧
    ((s.hp p).link ≠ .recovery → exec (.recoveryTimeout p) s = .next s ∧ exec (.hostLinkRecovered p x16 g6 v) s = .next s))

/-- A port that leaves L0 or Recovery, or whose Recovery lasts longer than 10 ms, goes down (R289, R297, R414, R417): its requests and register
accesses not yet passed on, the messages held for its host, barriers, snoops and reservations go, its contract is lost, its key closes and its
semaphores are released, and the walk that clears its HP bits begins. Stated for a port out of stamp mode with no buffered store, no snoop
outstanding and no Reedbed line of a host that waits for its move; one that is down stays as it is.
The walk over the HP bits of a port that went down: the bit is cleared in every place it visits, and the port may train again when every
other action of R297 is done. Stated for one place, a line that the port does not hold exclusively, and for a walk that has nothing to
visit.
The model's choices it rests on: log 30. -/
def Obligations.HostPortsGoDown : Prop :=
  (∀ (s : State) (p : Port), s.clk = true →
    ((s.hp p).link = .down ∨ (s.hp p).link = .downBusy → exec (.ltssmExit p) s = .next s) ∧
    ((s.hp p).link = .training → exec (.ltssmExit p) s = .next (s.setHp p { s.hp p with link := .down })) ∧
    (∀ c ∈ [(Instr.ltssmExit p, true), (.recoveryTimeout p, false)], (c.2 = true ∧ (s.hp p).link = .up) ∨ (s.hp p).link = .recovery →
      (s.hp p).stamped = false → (s.hp p).snps = [] → (∀ q : Port, (s.hp q).ntc = []) →
      (∀ i : SliceNo, (s.sl i).wmb = []) → NoMoves s → ∃ t : State, exec c.1 s = .next t ∧
        (t.hp p).link = .downBusy ∧ (t.hp p).admOpen = false ∧ (t.hp p).queue = [] ∧ (t.hp p).bars = [] ∧ (t.hp p).rsv = [] ∧
        (t.hp p).heldOut = [] ∧ (t.hp p).txq = [] ∧ (t.hp p).msix = false ∧ (t.hp p).regq = [] ∧ (t.hp p).walking = true ∧
        (t.hp p).ctr.valid = false ∧ (t.hp p).down = (s.hp p).down + 1 ∧ (t.hp p).hpWalk = hpPlaces s p ∧
        t.gen.keys = vset s.gen.keys p.val false ∧ (∀ n : Fin 8, (t.gen.sem[n]).toNat ≠ p.val + 1) ∧
        (∀ q : Port, q ≠ p → (t.hp q).link = (s.hp q).link ∧ (t.hp q).queue = (s.hp q).queue ∧ (t.hp q).rsv = (s.hp q).rsv) ∧
        t.slices = s.slices ∧ HomeKept s t)) ∧
  (∀ (s : State) (p : Port), s.clk = true → (s.hp p).link = .downBusy →
    ((s.hp p).hpWalk = [] → exec (.portDownWalkDone p) s = .next (s.setHp p { s.hp p with
      walking := false, link := if downDone s p then trainSt s (s.hp p) else .downBusy })) ∧
    (∀ (i : SliceNo) (set w : Nat) (x : TagWord), (s.hp p).hpWalk = [(i.val, set, w)] → set < 2 ^ 23 → w < 15 → (s.sl i).word set w = x →
      x.st ≠ .I → x.st ≠ .P → bit x.hp p.val = true → exclHost x ≠ some p →
      Shadowed (s.sl i) set → NoMoves s →
      s.wayOf i (lineIn s i set x) = some (w, x) → setOf (lineIn s i set x) = BitVec.ofNat 23 set →
      ∃ t : State, exec (.portDownWalkDone p) s = .next t ∧ (t.sl i).word set w = { x with hp := setBit x.hp p.val false } ∧
        (t.hp p).hpWalk = [] ∧ (t.hp p).walking = false ∧ (∀ j : SliceNo, j ≠ i → t.sl j = s.sl j) ∧ t.home = s.home ∧ t.mem = s.mem))

/-- A CXL port's configuration: back-invalidation, MSI-X, whose first message leaves at once or waits for the end of Recovery, and the HDM
decoders (R22, R123, R289, R403); an Emhal port takes none of it.
The model's choices it rests on: log 1. -/
def Obligations.CxlHostConfigures : Prop :=
  ∀ (s : State) (p : Port) (d : Fin 4) (base size : W64), s.clk = true →
    ((s.hp p).cxl = true →
      exec (.backInvalidationEnable p) s = .next (s.setHp p { s.hp p with biEn := true }) ∧
      (∃ t : State, exec (.msiXEnable p) s = .next t ∧
        t = { s.setHp p { s.hp p with msix := true, msixLive := irqLive s p, heldOut := (t.hp p).heldOut } with out := t.out } ∧
        (irqLive s p = false ∨ (s.hp p).msixLive = true → t.out = s.out ∧ (t.hp p).heldOut = (s.hp p).heldOut) ∧
        (irqLive s p = true → (s.hp p).msixLive = false → (s.hp p).link = .up →
          t.out = s.out ++ [.host p .msix] ∧ (t.hp p).heldOut = (s.hp p).heldOut) ∧
        (irqLive s p = true → (s.hp p).msixLive = false → (s.hp p).link = .recovery →
          t.out = s.out ∧ (t.hp p).heldOut = (s.hp p).heldOut ++ [.msix])) ∧
      ((size = 0 ∨ (base.toNat + size.toNat ≤ 2 ^ 58 ∧ domOf (homeOf (base.setWidth 58)) = domOf s.node.node ∧
          base.toNat / 2 ^ 44 = (base.toNat + size.toNat - 1) / 2 ^ 44)) →
        exec (.hdmDecoderCommit p d base size) s = .next (s.setHp p { s.hp p with hdm := (s.hp p).hdm.set d.val ⟨base, size, true, true, false⟩ d.isLt })) ∧
      (size ≠ 0 → domOf (homeOf (base.setWidth 58)) ≠ domOf s.node.node → ∃ t : State, exec (.hdmDecoderCommit p d base size) s = .next t ∧
        (t.hp p).hdm = (s.hp p).hdm.set d.val ⟨base, size, true, false, true⟩ d.isLt ∧ t.slices = s.slices ∧ HomeKept s t)) ∧
    ((s.hp p).cxl = false → exec (.backInvalidationEnable p) s = .next s ∧ exec (.msiXEnable p) s = .next s ∧
      exec (.hdmDecoderCommit p d base size) s = .next s)

/-- The answer of a host to a snoop, by SnpRsp on an Emhal port and by BIRsp on a CXL port, and a snoop unanswered for too long, of a host
that does not hold the line exclusively: the snoop ends, the port's HP bit is cleared with RspI and at the timeout, and its part of the
action is done; stated for an answer in time while another host's answer is still awaited and no port is going down (R118, R120, R122). An answer to no snoop
counts as a host error; a BIConflict is answered at once.
A snoop unanswered for TMO (R120): the port goes down, and the snoop ends as one answered by RspI, the line's HP bit of the port cleared. Stated for a snoop of a shared line
while another host's answer is awaited, on a port with no buffered store, out of stamp mode; an ETAG of no snoop changes nothing.
The model's choices it rests on: log 1. -/
def Obligations.SnoopsEnd : Prop :=
  (∀ (s : State) (m : EMsg) (p : Port) (e : BitVec 12) (r : BitVec 2) (n : Snp) (g : SnpGrp) (w : Nat) (x : TagWord) (b : BitVec 4), s.clk = true →
    (receives s p true = true → exec (.biconflict p e) s = .next { s with out := s.out ++ [.host p (.biConflictAck e)] }) ∧
    (∀ c ∈ [(Instr.snprsp { m with port := p, etag := e, rsp := r, len := 0 }, false), (Instr.birsp p e r, true)], receives s p c.2 = true →
      (s.hp p).snps.find? (fun q => decide (q.etag = e)) = some n → n.excl = false → (s.gen.time - n.sent).toNat ≤ 4 * (s.hp p).limit →
      (s.sl n.slice).snpGrps.find? (fun h => decide (h.id = n.grp) && h.await.contains p) = some g → g.await.filter (fun q => decide (q ≠ p)) ≠ [] →
      s.wayOf n.slice n.line = some (w, x) → Shadowed (s.sl n.slice) (setOf n.line).toNat → NoMoves s →
      b = (if r = 0 then setBit x.hp p.val false else x.hp) → (∀ q : Port, (s.hp q).link ≠ .downBusy) →
      ∃ t : State, exec c.1 s = .next t ∧ (t.hp p).snps = rmFirst (fun q => decide (q = n)) (s.hp p).snps ∧
        (t.sl n.slice).snpGrps = (s.sl n.slice).snpGrps.map (fun h => if h = g then { h with await := h.await.filter (fun q => decide (q ≠ p)) } else h) ∧
        (t.sl n.slice).word (setOf n.line).toNat w = { x with hp := b } ∧ (∀ j : SliceNo, j ≠ n.slice → t.sl j = s.sl j) ∧
        (∀ q : Port, q ≠ p → t.hp q = s.hp q) ∧ HomeKept s t ∧ t.out = s.out) ∧
    (receives s p false = true → (s.hp p).snps.find? (fun q => decide (q.etag = e)) = none →
      ∃ t : State, exec (.snprsp { m with port := p, etag := e }) s = .next t ∧ (t.hp p).hostErr = (s.hp p).hostErr + 1 ∧
        (t.hp p).snps = (s.hp p).snps ∧ t.slices = s.slices ∧ HomeKept s t)) ∧
  (∀ (s : State) (p : Port) (e : BitVec 12) (n : Snp) (g : SnpGrp) (w : Nat) (x : TagWord), s.clk = true →
    ((s.hp p).snps.find? (fun q => decide (q.etag = e)) = none → exec (.snoopTimeout p e) s = .next s) ∧
    ((s.hp p).snps = [n] → n.etag = e → n.excl = false → (s.hp p).link = .up → (s.hp p).stamped = false →
      (∀ q : Port, (s.hp q).ntc = []) → (∀ i : SliceNo, (s.sl i).wmb = []) → NoMoves s →
      s.wayOf n.slice n.line = some (w, x) → Shadowed (s.sl n.slice) (setOf n.line).toNat →
      (s.sl n.slice).snpGrps.find? (fun h => decide (h.id = n.grp) && h.await.contains p) = some g → g.await.filter (fun q => decide (q ≠ p)) ≠ [] →
      ∃ t : State, exec (.snoopTimeout p e) s = .next t ∧ (t.hp p).link = .downBusy ∧ (t.hp p).snps = [] ∧ (t.hp p).admOpen = false ∧
        (t.sl n.slice).snpGrps = (s.sl n.slice).snpGrps.map (fun h => if h = g then { h with await := h.await.filter (fun q => decide (q ≠ p)) } else h) ∧
        (t.sl n.slice).word (setOf n.line).toNat w = { x with hp := setBit x.hp p.val false } ∧
        (∀ j : SliceNo, j ≠ n.slice → t.sl j = s.sl j) ∧ HomeKept s t))

/-! ### Host requests (R20, R21, R69, R77, R117, R121, R198 to R217, R221, R235) -/

/-- A read of a far line allocates nothing: the slice asks the home with RdU, whatever the request's grant would be (R20, R21, R117, R121).
Stores (R20, R69, R77, R121, R203 to R205, R214): an ordinary store to a far line enters the write-merge buffer and a non-temporal one, to any
line, the combining buffer, answered OK when the bytes are in the entry; so does a MemWr of a host that does not hold the line, whose entry
leaves at once as a WrU; an atomic to a far line leaves as AmoF; a conditional store to one ends UNSUP. Stated for entries that stay open
but for MemWr: not the whole line, and HOLD not 0.
A CXL request reaches a line only where a decoder of its port maps the address; a read where none does ends ADDR (R20, R22).
The model's choices it rests on: logs 1, 36, 90. -/
def Obligations.FarAccessesAskTheHomeOrAreBuffered : Prop :=
  (∀ (s : State) (m : EMsg) (c : CMsg) (i : Instr) (p : Port) (a : GAddr) (cxl : Bool), (i, p, a, cxl) ∈ [(Instr.rdshared m, m.port, m.addr, false),
      (.rdown m, m.port, m.addr, false), (.upgrade m, m.port, m.addr, false), (.rdcur m, m.port, m.addr, false), (.rsvload m, m.port, m.addr, false),
      (.memrd c, c.port, c.addr, true)] →
    Idle s p cxl → isFar s (lineOf a) = true → Reachable s (lineOf a) → (cxl = true → decoded s p (lineAddr (lineOf a)) = true) →
    (i = .rdcur m → 0 < m.len.toNat ∧ offOf a + m.len.toNat ≤ 64) → (i = .rsvload m → natural m.len.toNat (offOf a) = true) →
    ∃ (t : State) (x : STxn) (b : BMsg), exec i s = .next t ∧ (t.sl (sliceOf (lineOf a))).stt = [x] ∧ x.kind = .rdU ∧ x.line = lineOf a ∧
      x.port = p ∧ x.way = none ∧ t.out = s.out ++ [.msg .rdU b] ∧ b.laddr = lineOf a ∧ b.dst = (homeNow s (lineOf a)).1 ∧ b.rtid = x.rtid ∧
      (∀ j : SliceNo, j ≠ sliceOf (lineOf a) → t.sl j = s.sl j) ∧ (t.sl (sliceOf (lineOf a))).tags = (s.sl (sliceOf (lineOf a))).tags ∧
      (∀ q : Port, q ≠ p → t.hp q = s.hp q) ∧ HomeKept s t ∧ t.mem = s.mem) ∧
  (∀ (s : State) (m : EMsg) (c : CMsg), Reachable s (lineOf m.addr) →
    (isFar s (lineOf m.addr) = true → Idle s m.port false → 0 < m.len.toNat → offOf m.addr + m.len.toNat ≤ 64 → m.len.toNat < 64 →
      (s.sl (sliceOf (lineOf m.addr))).wmbHold ≠ 0 →
      ∃ (t : State) (e : BufEnt), exec (.write m) s = .next t ∧ (t.sl (sliceOf (lineOf m.addr))).wmb = [e] ∧ e.line = lineOf m.addr ∧
        e.port = m.port ∧ e.mask = rangeMask (offOf m.addr) m.len.toNat ∧ e.data = mergeLine 0 (placeLine m.data (offOf m.addr)) e.mask ∧
        t.out = s.out ++ [.host m.port (.cmp (m.etag.setWidth 16) stOK 0 false false)] ∧ t.home = s.home ∧ t.mem = s.mem ∧
        (∀ j : SliceNo, j ≠ sliceOf (lineOf m.addr) → t.sl j = s.sl j)) ∧
    (Idle s m.port false → 0 < m.len.toNat → offOf m.addr + m.len.toNat ≤ 64 → m.len.toNat < 64 → (s.hp m.port).ntcHold ≠ 0 →
      ∃ (t : State) (e : BufEnt), exec (.writent m) s = .next t ∧ (t.hp m.port).ntc = [e] ∧ e.line = lineOf m.addr ∧ e.port = m.port ∧
        e.mask = rangeMask (offOf m.addr) m.len.toNat ∧ e.data = mergeLine 0 (placeLine m.data (offOf m.addr)) e.mask ∧
        t.out = s.out ++ [.host m.port (.cmp (m.etag.setWidth 16) stOK 0 false false)] ∧ t.home = s.home ∧ t.mem = s.mem ∧
        (∀ j : SliceNo, (t.sl j).tags = (s.sl j).tags ∧ (t.sl j).slots = (s.sl j).slots)) ∧
    (c.addr = m.addr → Idle s c.port true → decoded s c.port (lineAddr (lineOf c.addr)) = true → c.be ≠ fullMask → (s.hp c.port).ntcHold ≠ 0 →
      ∃ (t : State) (e : BufEnt), exec (.memwrptl c) s = .next t ∧ (t.hp c.port).ntc = [e] ∧ e.line = lineOf c.addr ∧ e.mask = c.be ∧
        e.data = mergeLine 0 c.data c.be ∧ t.out = s.out ++ [.host c.port (.cmp c.tag stOK 0 false false)] ∧ t.home = s.home ∧ t.mem = s.mem) ∧
    (c.addr = m.addr → Idle s c.port true → decoded s c.port (lineAddr (lineOf c.addr)) = true →
      (isFar s (lineOf c.addr) = true ∨ (s.sl (sliceOf (lineOf c.addr))).find (lineOf c.addr) = none ∧
        Shadowed (s.sl (sliceOf (lineOf c.addr))) (setOf (lineOf c.addr)).toNat) →
      ∃ (t : State) (x : STxn) (b : BMsg), exec (.memwr c) s = .next t ∧ (t.sl (sliceOf (lineOf c.addr))).stt = [x] ∧ x.kind = .wrU ∧
        x.data = mergeLine 0 c.data fullMask ∧ t.out = s.out ++ [.host c.port (.cmp c.tag stOK 0 false false), .msg .wrU b] ∧
        b.laddr = lineOf c.addr ∧ HomeKept s t ∧ t.mem = s.mem) ∧
    (c.addr = m.addr → Idle s c.port true → decoded s c.port (lineAddr (lineOf c.addr)) = false → (∀ q : Port, (s.hp q).msix = false) →
      ∃ t : State, exec (.memrd c) s = .next t ∧ t.out = s.out ++ [.host c.port (.cmp c.tag stADDR 0 false false)] ∧ t.slices = s.slices ∧
        t.mem = s.mem ∧ HomeKept s t) ∧
    (isFar s (lineOf m.addr) = true → Idle s m.port false → atomicOk m.aop m.len.toNat = true → m.aop.toNat < 10 → offOf m.addr % m.len.toNat = 0 →
      ∃ (t : State) (x : STxn) (b : BMsg), exec (.atomic m) s = .next t ∧ (t.sl (sliceOf (lineOf m.addr))).stt = [x] ∧ x.kind = .amoF ∧
        x.amo = amoBlock m.aop m.len.toNat (offOf m.addr) (m.data.setWidth 128) m.opB ∧ t.out = s.out ++ [.msg .amoF b] ∧
        b.laddr = lineOf m.addr ∧ b.amo = x.amo ∧ (t.sl (sliceOf (lineOf m.addr))).amoFar = (s.sl (sliceOf (lineOf m.addr))).amoFar + 1 ∧
        HomeKept s t ∧ t.mem = s.mem) ∧
    (isFar s (lineOf m.addr) = true → Idle s m.port false → natural m.len.toNat (offOf m.addr) = true → ∃ t : State, exec (.condstore m) s = .next t ∧
      t.out = s.out ++ [.host m.port (.cmp (m.etag.setWidth 16) stUNSUP 0 false false)] ∧ (t.hp m.port).cstUnsup = (s.hp m.port).cstUnsup + 1 ∧
      (∀ j : SliceNo, (t.sl j).tags = (s.sl j).tags ∧ (t.sl j).slots = (s.sl j).slots) ∧ t.home = s.home ∧ t.mem = s.mem))

/-- Requests that hit a line held with write permission and by no host (R117, R199, R203, R211, R214): a shared and an ownership read and an
upgrade give the line with the grant their kind has and set the port's HP bit, a read of current data sets none; a store, a near atomic and a
conditional store whose reservation holds write the bytes, leaving the line M. Nothing else changes.
A MemRd of a CXL host that has enabled back-invalidation gets the line with the grant its meta value asks for, one of a host that has not a
read of current data (R121, R123).
The model's choices it rests on: log 1. -/
def Obligations.HitsAreServed : Prop :=
  (∀ (s : State) (c : CMsg) (w : Nat) (x : TagWord), Idle s c.port true → decoded s c.port (lineAddr (lineOf c.addr)) = true →
    Resident s (lineOf c.addr) w x → x.st = .E ∨ x.st = .M → (∀ i : SliceNo, (s.sl i).good = true) →
    ∃ t : State, exec (.memrd c) s = .next t ∧
      t.out = s.out ++ [.host c.port (.cmpData c.tag stOK (if (s.hp c.port).biEn = false ∨ c.meta_ = .invalid then 0 else if c.meta_ = .any then 2 else 1)
        false x.poison 64 (spGet {} (s.sl (sliceOf (lineOf c.addr))).slots (slotKey (setOf (lineOf c.addr)).toNat w)).data)] ∧
      (t.sl (sliceOf (lineOf c.addr))).word (setOf (lineOf c.addr)).toNat w =
        (if (s.hp c.port).biEn = false ∨ c.meta_ = .invalid then x else { x with hp := setBit 0 c.port.val true }) ∧
      (t.sl (sliceOf (lineOf c.addr))).slots = (s.sl (sliceOf (lineOf c.addr))).slots ∧ ServedAlone s t c.port (lineOf c.addr) w) ∧
  ∀ (s : State) (m : EMsg) (w : Nat) (x : TagWord), Idle s m.port false → (s.hp m.port).proto = false → Resident s (lineOf m.addr) w x →
    x.st = .E ∨ x.st = .M → (∀ i : SliceNo, (s.sl i).good = true) → ∀ (l : LAddr) (i : SliceNo) (off len : Nat) (d : Line) (e : BitVec 16),
    l = lineOf m.addr → i = sliceOf l → off = offOf m.addr → len = m.len.toNat → d = (spGet {} (s.sl i).slots (slotKey (setOf l).toNat w)).data →
    e = m.etag.setWidth 16 →
    (∃ t : State, exec (.rdshared m) s = .next t ∧ t.out = s.out ++ [.host m.port (.cmpData e stOK 1 false x.poison 64 d)] ∧
      (t.sl i).word (setOf l).toNat w = { x with hp := setBit 0 m.port.val true } ∧ (t.sl i).slots = (s.sl i).slots ∧ ServedAlone s t m.port l w) ∧
    (∃ t : State, exec (.rdown m) s = .next t ∧ t.out = s.out ++ [.host m.port (.cmpData e stOK 2 false x.poison 64 d)] ∧
      (t.sl i).word (setOf l).toNat w = { x with hp := setBit 0 m.port.val true } ∧ (t.sl i).slots = (s.sl i).slots ∧ ServedAlone s t m.port l w) ∧
    (∃ t : State, exec (.upgrade m) s = .next t ∧ t.out = s.out ++ [.host m.port (.cmp e stOK 2 false x.poison)] ∧
      (t.sl i).word (setOf l).toNat w = { x with hp := setBit 0 m.port.val true } ∧ (t.sl i).slots = (s.sl i).slots ∧ ServedAlone s t m.port l w) ∧
    (0 < len → off + len ≤ 64 → ∃ t : State, exec (.rdcur m) s = .next t ∧
      t.out = s.out ++ [.host m.port (.cmpData e stOK 0 false x.poison len (takeLine d off len))] ∧
      (t.sl i).word (setOf l).toNat w = x ∧ (t.sl i).slots = (s.sl i).slots ∧ ServedAlone s t m.port l w) ∧
    (natural len off = true → ∃ t : State, exec (.rsvload m) s = .next t ∧
      t.out = s.out ++ [.host m.port (.cmpData e stOK 1 false x.poison len (takeLine d off len))] ∧ hasRsv (t.hp m.port) m.rslot.toNat l = true ∧
      (t.sl i).word (setOf l).toNat w = { x with hp := setBit 0 m.port.val true } ∧ ServedAlone s t m.port l w) ∧
    (0 < len → off + len ≤ 64 → ∃ t : State, exec (.write m) s = .next t ∧ t.out = s.out ++ [.host m.port (.cmp e stOK 0 false false)] ∧
      (t.sl i).word (setOf l).toNat w = { x with st := .M, poison := poisonAfter x.poison m.poison (rangeMask off len) } ∧
      (spGet {} (t.sl i).slots (slotKey (setOf l).toNat w)).data = mergeLine d (placeLine m.data off) (rangeMask off len) ∧
      ServedAlone s t m.port l w) ∧
    (atomicOk m.aop len = true → off % len = 0 → x.poison = false → ∃ t : State, exec (.atomic m) s = .next t ∧
      t.out = s.out ++ [.host m.port (.cmpData e stOK 0 (atomicLine m.aop len off (m.data.setWidth 128) m.opB d).2.2 false len
        ((atomicLine m.aop len off (m.data.setWidth 128) m.opB d).2.1.setWidth 512))] ∧
      (t.sl i).word (setOf l).toNat w = { x with st := .M } ∧
      (spGet {} (t.sl i).slots (slotKey (setOf l).toNat w)).data = (atomicLine m.aop len off (m.data.setWidth 128) m.opB d).1 ∧
      ServedAlone s t m.port l w) ∧
    (natural len off = true → hasRsv (s.hp m.port) m.rslot.toNat l = true → ∃ t : State, exec (.condstore m) s = .next t ∧
      t.out = s.out ++ [.host m.port (.cmp e stOK 0 false false)] ∧ (t.hp m.port).cstOk = (s.hp m.port).cstOk + 1 ∧
      (t.sl i).word (setOf l).toNat w = { x with st := .M, poison := poisonAfter x.poison m.poison (rangeMask off len) } ∧
      (spGet {} (t.sl i).slots (slotKey (setOf l).toNat w)).data = mergeLine d (placeLine m.data off) (rangeMask off len) ∧
      ServedAlone s t m.port l w)

/-- A dirty writeback of the exclusive host is merged into the line, which becomes M and is poisoned when the data is, and the HP bit stays or
goes as the message says; of
another host it is a host error. A clean eviction clears the HP bit, unless the port holds a reservation on the line (R117, R213, R523); a
MemWr of the exclusive CXL host is its writeback, answered at once (R121). The credits that a message carries are the port's (R295).
The model's choices it rests on: logs 1, 71. -/
def Obligations.WritebacksAreMerged : Prop :=
  ∀ (s : State) (m : EMsg) (c : CMsg) (w : Nat) (x : TagWord), s.clk = true →
    (receives s m.port false = true → isExcl s m.port (lineOf m.addr) = true → (∀ i : SliceNo, (s.sl i).good = true) →
      (s.sl (sliceOf (lineOf m.addr))).find (lineOf m.addr) = some (w, x) → Shadowed (s.sl (sliceOf (lineOf m.addr))) (setOf (lineOf m.addr)).toNat →
      isFar s (lineOf m.addr) = false → ∃ t : State, exec (.wbdirty m) s = .next t ∧ (t.sl (sliceOf (lineOf m.addr))).word (setOf (lineOf m.addr)).toNat w =
          { x with st := .M, poison := m.poison, hp := if m.grant = 1 then x.hp else setBit x.hp m.port.val false } ∧
        (spGet {} (t.sl (sliceOf (lineOf m.addr))).slots (slotKey (setOf (lineOf m.addr)).toNat w)).data = m.data ∧
        ServedAlone s t m.port (lineOf m.addr) w ∧ t.out = s.out) ∧
    (receives s m.port false = true → isExcl s m.port (lineOf m.addr) = false → ∃ t : State, exec (.wbdirty m) s = .next t ∧
      (t.hp m.port).hostErr = (s.hp m.port).hostErr + 1 ∧ t.slices = s.slices ∧ HomeKept s t) ∧
    (receives s m.port false = true → isFar s (lineOf m.addr) = false → (∀ k ∈ (s.hp m.port).rsv, k.2 ≠ lineOf m.addr) →
      (s.sl (sliceOf (lineOf m.addr))).find (lineOf m.addr) = some (w, x) → Shadowed (s.sl (sliceOf (lineOf m.addr))) (setOf (lineOf m.addr)).toNat →
      ∃ t : State, exec (.evictclean m) s = .next t ∧ t = { gives m s with slices := t.slices } ∧
        (t.sl (sliceOf (lineOf m.addr))).word (setOf (lineOf m.addr)).toNat w = { x with hp := setBit x.hp m.port.val false } ∧
        (t.sl (sliceOf (lineOf m.addr))).slots = (s.sl (sliceOf (lineOf m.addr))).slots ∧
        (∀ j : SliceNo, j ≠ sliceOf (lineOf m.addr) → t.sl j = s.sl j)) ∧
    (receives s m.port false = true → (∃ k ∈ (s.hp m.port).rsv, k.2 = lineOf m.addr ∧ (s.hp m.port).rsvBad.contains k.1 = false) →
      exec (.evictclean m) s = .next (gives m s)) ∧
    (receives s c.port true = true → s.fabric.selfDead = false → decoded s c.port (lineAddr (lineOf c.addr)) = true →
      isExcl s c.port (lineOf c.addr) = true → (s.hp c.port).admOpen = true → s.arb.closed c.port = false → (s.hp c.port).ctr.valid = false →
      Shadowed (s.sl (sliceOf (lineOf c.addr))) (setOf (lineOf c.addr)).toNat → ∃ t : State, exec (.memwr c) s = .next t ∧ t.out = s.out ++ [.host c.port (.cmp c.tag stOK 0 false false)] ∧
      t.slices = (hostWb c.port (lineOf c.addr) c.data c.poison (decide (c.meta_ ≠ .invalid)) s).slices ∧ t.home = s.home ∧
      (∀ q : Port, t.hp q = s.hp q))

/-- Messages that hosts send beside their requests (R87, R100, R121, R212, R216, R221, R222, R235, R236, R251, R257, R292). A prefetch hint is
answered OK; for a near line that nothing in the slice holds or awaits, with room under the limit, its Pfq leaves and awaits the answer in the
Reedbed, and for a far line it is dropped. An exception with nothing of its stream before it is answered OK, the port's reservations cleared and no other port's;
one with an access of its stream before it waits. A barrier with nothing before it is over at once, but for BAR.DONE, which stays until its
completion is sent; a barrier of another kind than loads closes the entry it names, and stays while the entry is there; BAR.DONE is answered
when what is before it is done, and not before. A speculative read is accepted and ignored: its price under a contract is a token of the
port's and the slice's bucket. A floor rises, and a lower one is a breach of a stamp-mode host; a reserved opcode is a host error.
The model's choices it rests on: logs 1, 20, 72. -/
def Obligations.OtherHostMessagesAndBarriersComplete : Prop :=
  (∀ (s : State) (m : EMsg) (l : LAddr) (i : SliceNo), l = lineOf m.addr → i = sliceOf l → Idle s m.port false → Reachable s l →
    (isFar s l = true → ∃ t : State, exec (.pfhint m) s = .next t ∧
      t.out = s.out ++ [.host m.port (.cmp (m.etag.setWidth 16) stOK 0 false false)] ∧ t.home = s.home ∧ t.mem = s.mem ∧
      (∀ j : SliceNo, (t.sl j).stt = (s.sl j).stt ∧ (t.sl j).rb = (s.sl j).rb) ∧ (∀ q : Port, q ≠ m.port → t.hp q = s.hp q)) ∧
    (isFar s l = false → (s.sl i).enabled = true → (s.sl i).pfEn = true → 0 < (s.sl i).pfLimit → (s.sl i).find l = none →
      Shadowed (s.sl i) (setOf l).toNat →
      ∃ (t : State) (x : STxn) (e : RbEnt) (b : BMsg), exec (.pfhint m) s = .next t ∧ (t.sl i).stt = [x] ∧ x.kind = .pfq ∧ x.line = l ∧
        (t.sl i).rb = [e] ∧ e.line = l ∧ e.awaited = true ∧ e.port = m.port ∧
        t.out = s.out ++ [.host m.port (.cmp (m.etag.setWidth 16) stOK 0 false false), .msg .pfq b] ∧ b.laddr = l ∧ b.rtid = x.rtid ∧
        b.dst = (homeNow s l).1 ∧ t.home = s.home ∧ t.mem = s.mem ∧ (∀ j : SliceNo, j ≠ i → t.sl j = s.sl j) ∧
        (∀ q : Port, q ≠ m.port → t.hp q = s.hp q))) ∧
  (∀ (s : State) (m : EMsg), Idle s m.port false →
    (∃ t : State, exec (.exception m) s = .next t ∧ t.out = s.out ++ [.host m.port (.cmp (m.etag.setWidth 16) stOK 0 false false)] ∧
      (t.hp m.port).rsv = [] ∧ t.home = s.home ∧ t.mem = s.mem ∧ (∀ q : Port, q ≠ m.port → (t.hp q).rsv = (s.hp q).rsv)) ∧
    (m.bkind ≠ 3 → exec (.barrier m) s = .next { gives m s with seqNo := s.seqNo + 1 }) ∧
    (m.bkind = 3 → exec (.barrier m) s = .next { (gives m s).setHp m.port { (gives m s).hp m.port with
      bars := [{ kind := 3, port := m.bscope, strm := m.strm, etag := m.etag, seq := s.seqNo }] } with seqNo := s.seqNo + 1 })) ∧
  (∀ (s : State) (m : EMsg) (i : SliceNo) (e : BufEnt), s.clk = true → receives s m.port false = true → s.fabric.selfDead = false →
    (s.hp m.port).stamped = false → (s.hp m.port).queue = [] → (s.hp m.port).regq = [] → (∀ q : Port, (s.hp q).ntc = []) →
    ((∀ j : SliceNo, (s.sl j).wmb = []) → (∃ a ∈ (s.hp m.port).accs, a.strm = m.strm ∧ a.seq < s.seqNo) →
      ∃ (t : State) (r : Req), exec (.exception m) s = .next t ∧ (t.hp m.port).queue = [r] ∧ r.op = .exc ∧ r.strm = m.strm ∧ t.out = s.out ∧
        (t.hp m.port).rsv = (s.hp m.port).rsv ∧ t.home = s.home ∧ t.mem = s.mem) ∧
    ((∀ j : SliceNo, j ≠ i → (s.sl j).wmb = []) → (s.sl i).wmb = [e] → e.st = .opened → e.port = m.port → e.first < s.seqNo →
      (m.bscope = true ∨ bit e.streams m.strm.toNat = true) → (∃ x ∈ (s.sl i).stt, x.holds e = true) → (s.hp m.port).bars = [] → m.bkind ≠ 0 →
      ∃ t : State, exec (.barrier m) s = .next t ∧ (t.sl i).wmb = [{ e with st := .closed }] ∧ t.out = s.out ∧ t.home = s.home ∧ t.mem = s.mem ∧
        (t.hp m.port).bars = [{ kind := m.bkind, port := m.bscope, strm := m.strm, etag := m.etag, seq := s.seqNo }])) ∧
  (∀ (s : State) (p : Port) (e : BitVec 12) (b : Bar), s.clk = true → (s.hp p).link = .up → (s.hp p).bars = [b] → b.kind = 3 → b.etag = e →
    (s.hp p).regq = [] →
    (barMet s p b = true → exec (.barDoneComplete p e) s = .next { s.setHp p { s.hp p with bars := [] } with
      out := s.out ++ [.host p (.cmp (e.setWidth 16) stOK 0 false false)] }) ∧
    (barMet s p b = false → exec (.barDoneComplete p e) s = .next s)) ∧
  (∀ (s : State) (m : EMsg) (c : CMsg) (o : BitVec 6), s.clk = true →
    (Idle s c.port true → exec (.memspecrd c) s = .next s) ∧
    (receives s c.port true = true → (s.hp c.port).admOpen = true → s.fabric.selfDead = false → decoded s c.port (lineAddr (lineOf c.addr)) = true →
      verdict s c.port (lineOf c.addr) = .accept true → ∃ t : State, exec (.memspecrd c) s = .next t ∧
        (t.hp c.port).caccept = (s.hp c.port).caccept + 1 ∧ (t.hp c.port).outst = (s.hp c.port).outst ∧
        (t.hp c.port).ctr.tok = (s.hp c.port).ctr.tok - tokenUnit ∧
        vget (t.hp c.port).ctr.stok (sliceOf (lineOf c.addr)).val 0 = vget (s.hp c.port).ctr.stok (sliceOf (lineOf c.addr)).val 0 - tokenUnit ∧
        t = { s with hports := t.hports, dbg := t.dbg } ∧ ∀ q : Port, q ≠ c.port → t.hp q = s.hp q) ∧
    (receives s m.port false = true → (s.hp m.port).stamped = true → 0 < (s.hp m.port).hreq → ∀ f : W64, m.stamp = some f →
      (f.ult (s.hp m.port).floor = false → exec (.floor m) s = .next ((gives m s).setHp m.port { (gives m s).hp m.port with floor := f })) ∧
      (f.ult (s.hp m.port).floor = true → ∃ t : State, exec (.floor m) s = .next t ∧ t.stamp.viol = s.stamp.viol + 1 ∧
        (t.hp m.port).floor = (s.hp m.port).floor ∧ t.slices = s.slices ∧ HomeKept s t)) ∧
    (receives s m.port false = true → 0x11 < o.toNat → ∃ t : State, exec (.reservedEmhalOpcode m o) s = .next t ∧
      (t.hp m.port).hostErr = (s.hp m.port).hostErr + 1 ∧ t.slices = s.slices ∧ HomeKept s t))

/-! ### The home agent (R131 to R134, R139 to R142, R159, R160, R162 to R168, R205) -/

/-- Requests for a line that no device holds (R134, R140, R145, R205): a shared and an ownership read, a prefetch and an upgrade whose copy
is gone are granted DataE from memory, DataS with FWDR for a shared read of a write-through region, the requester recorded and its Ack awaited; a
read with no allocation gets the data and leaves the record; a write and an atomic change memory and leave no holder in the record, kept in the directory
cache and in the word, with the poison that results; stated for a write queue with room.
Requests for a line that other devices hold, and for one that is busy (R134, R140, R163, R164, R205): a line in E1 is fetched from its
owner, with a forward for a shared and an ownership read and an upgrade, with a probe for a read with no allocation (KEEP) and a write or an
atomic; a prefetch of it is refused. Before an ownership read or an upgrade of a shared line is granted, every other holder recorded is
invalidated. A line with an open transaction refuses every request with BUSY, whose AGE is one more.
The model's choices it rests on: log 1. -/
def Obligations.RequestsAreServedByTheHome : Prop :=
  (∀ (s : State) (m : BMsg) (i : Nat) (e : DirEnt) (f : Nat) (d : DLine), AtHome s m i e → s.good → f = frameOf s m.laddr → d = ddrGet s f →
    e.recd = { st := .U, osn := e.recd.osn, poison := e.recd.poison } →
    (∀ c ∈ [Instr.rds m, .rdx m, .pfq m, .upg m], isWt s m.laddr = false ∨ c = .rdx m ∨ c = .upg m →
      ∃ (t : State) (x : HTxn) (b : BMsg), exec c s = .next t ∧ t.home.tt = [x] ∧ x.line = m.laddr ∧ x.waitAck = true ∧
        x.after = { e.recd.toE1 (memOf m.src) with osn := e.recd.osn + 1 } ∧ t.out = s.out ++ [.msg .dataE b] ∧ Answers s m b ∧
        b.htid = BitVec.ofNat 12 x.num ∧ b.data = d.data ∧ b.poison = e.recd.poison ∧ b.osn = e.recd.osn + 1 ∧ t.mem = s.mem ∧ HomeAlone s t f) ∧
    (isWt s m.laddr = true → ∀ c ∈ [Instr.rds m, .pfq m], ∃ (t : State) (x : HTxn) (b : BMsg), exec c s = .next t ∧ t.home.tt = [x] ∧
      x.waitAck = true ∧ x.after = e.recd.shared [memOf m.src] (some (memOf m.src)) ∧ t.out = s.out ++ [.msg .dataS b] ∧ Answers s m b ∧
      b.fwdr = true ∧ b.nc = false ∧ b.data = d.data ∧ b.poison = e.recd.poison ∧ t.mem = s.mem ∧ HomeAlone s t f) ∧
    (d.word = packWord e.recd → ∃ (t : State) (b : BMsg), exec (.rdu m) s = .next t ∧ t.home.tt = [] ∧ t.out = s.out ++ [.msg .dataS b] ∧
      Answers s m b ∧ b.nc = true ∧ b.data = d.data ∧ b.poison = e.recd.poison ∧ Keeps t f i e.recd ∧ t.mem = s.mem ∧ HomeAlone s t f) ∧
    (Room s f → ∃ (t : State) (b : BMsg), exec (.wru m) s = .next t ∧ t.home.tt = [] ∧ t.out = s.out ++ [.msg .cmp b] ∧ Answers s m b ∧
      (ddrGet t f).data = mergeLine (if m.mask = fullMask then 0 else d.data) m.data m.mask ∧
      Keeps t f i { e.recd with poison := poisonAfter e.recd.poison m.poison m.mask } ∧ HomeAlone s t f) ∧
    (∀ (op : BitVec 5) (len off : Nat) (a b' : BitVec 128), Room s f → amoUnpack m.amo = some (op, len, off, a, b') → e.recd.poison = false →
      ∃ (t : State) (b : BMsg), exec (.amof m) s = .next t ∧ t.home.tt = [] ∧ t.out = s.out ++ [.msg .cmp b] ∧ Answers s m b ∧
        b.result = amoResult (atomicLine op len off a b' d.data).2.1 (atomicLine op len off a b' d.data).2.2 false false ∧
        (ddrGet t f).data = (atomicLine op len off a b' d.data).1 ∧ Keeps t f i e.recd ∧ HomeAlone s t f)) ∧
  (∀ (s : State) (m : BMsg) (i : Nat) (e : DirEnt) (p : Member),
    (AtHome s m i e → e.recd = { st := .E1, holders := [p], des := some p, own := true, osn := e.recd.osn, poison := e.recd.poison } → p ≠ memOf m.src →
      (∃ (t : State) (x : HTxn) (b : BMsg), exec (.rds m) s = .next t ∧ t.out = s.out ++ [.msg .fwdS b] ∧ Asks s m b p ∧ b.fwdr = true ∧
        t.home.tt = [x] ∧ x.fwdTo = some p ∧ x.waitAck = true ∧ x.after = { e.recd with st := .OS, holders := [p, memOf m.src] } ∧
        t.mem = s.mem ∧ HomeAlone s t 0) ∧
      (∀ c ∈ [Instr.rdx m, .upg m], ∃ (t : State) (x : HTxn) (b : BMsg), exec c s = .next t ∧ t.out = s.out ++ [.msg .fwdX b] ∧ Asks s m b p ∧
        b.waitcmp = false ∧ b.osn = e.recd.osn + 1 ∧ t.home.tt = [x] ∧ x.fwdTo = some p ∧ x.waitAck = true ∧
        x.after = { e.recd.toE1 (memOf m.src) with osn := e.recd.osn + 1 } ∧ t.mem = s.mem ∧ HomeAlone s t 0) ∧
      (∃ (t : State) (x : HTxn) (b : BMsg), exec (.rdu m) s = .next t ∧ t.out = s.out ++ [.msg .probe b] ∧ Asks s m b p ∧ b.keep = true ∧
        t.home.tt = [x] ∧ x.probeOf = some p ∧ x.after = e.recd ∧ t.mem = s.mem ∧ HomeAlone s t 0) ∧
      (∀ c ∈ [Instr.wru m, .amof m], ∃ (t : State) (x : HTxn) (b : BMsg), exec c s = .next t ∧ t.out = s.out ++ [.msg .probe b] ∧ Asks s m b p ∧
        b.keep = false ∧ t.home.tt = [x] ∧ x.probeOf = some p ∧ x.after = e.recd.toU ∧ t.mem = s.mem ∧ HomeAlone s t 0) ∧
      (∃ (t : State) (b : BMsg), exec (.pfq m) s = .next t ∧ t.out = s.out ++ [.msg .nack b] ∧ Answers s m b ∧ b.reason = rsnBUSY ∧
        t.home.tt = [] ∧ t.home.nbusy = s.home.nbusy + 1 ∧ t.mem = s.mem ∧ HomeAlone s t 0)) ∧
    (AtHome s m i e → e.recd.st = .S1 ∨ e.recd.st = .SM → e.recd.own = false → e.recd.holders.filter (· ≠ memOf m.src) ≠ [] →
      ∀ c ∈ [Instr.rdx m, .upg m], c = .rdx m ∨ memOf m.src ∈ e.recd.holders →
        ∃ (t : State) (x : HTxn) (b : Member → BMsg), exec c s = .next t ∧
          t.out = s.out ++ (e.recd.holders.filter (· ≠ memOf m.src)).map (fun q => .msg .inv (b q)) ∧
          (∀ q ∈ e.recd.holders.filter (· ≠ memOf m.src), Asks s m (b q) q) ∧ t.home.tt = [x] ∧
          x.waitInv = e.recd.holders.filter (· ≠ memOf m.src) ∧ x.waitAck = true ∧ x.acted = false ∧
          x.after = { e.recd.toE1 (memOf m.src) with osn := e.recd.osn + 1 } ∧ t.mem = s.mem ∧ HomeAlone s t 0) ∧
    (∀ x : HTxn, Reaches s m → s.home.txn m.laddr = some x → x.after.st ≠ .QU →
      ∀ c ∈ [Instr.rds m, .rdx m, .upg m, .rdu m, .wru m, .amof m, .pfq m], ∃ (t : State) (b : BMsg), exec c s = .next t ∧
        t.out = s.out ++ [.msg .nack b] ∧ Answers s m b ∧ b.reason = rsnBUSY ∧ b.age.toNat = min (m.age.toNat + 1) 63 ∧
        t.home.nbusy = s.home.nbusy + 1 ∧ t.home.tt.length = s.home.tt.length ∧ t.home.dir = s.home.dir ∧ t.mem = s.mem ∧ HomeAlone s t 0))

/-- Puts with no transaction open (R130, R134, R141, R159, R160): a Put of a holder, with the sequence number of the record unless it is a PutS,
takes the holder out of the record as its kind says, RETAIN counting for PutM and PutO alone, and its data, if any, goes to memory; any other Put changes nothing, and one with data is counted
as stale. Each is answered WbAck. Stated for a write queue with room.
The model's choices it rests on: logs 1, 32. -/
def Obligations.PutsAreTakenOrStale : Prop :=
  ∀ (s : State) (m : BMsg) (i : Nat) (e : DirEnt) (f : Nat) (k : BKind) (c : Instr), AtHome s m i e → s.good → f = frameOf s m.laddr →
    e.recd.st ≠ .QU → Room s f → (k, c) ∈ [(BKind.putM, Instr.putm m), (.putO, .puto m), (.putE, .pute m), (.putS, .puts m)] →
    ∃ (t : State) (b : BMsg), exec c s = .next t ∧ t.out = s.out ++ [.msg .wbAck b] ∧ Answers s m b ∧ t.home.tt = [] ∧ HomeAlone s t f ∧
      (e.recd.names (memOf m.src) = true → k = .putS ∨ m.osn = e.recd.osn →
        t.home.stalePut = s.home.stalePut ∧
        (k = .putM ∨ k = .putO → (ddrGet t f).data = m.data ∧ Recorded t f { e.recd.put k m.retain (memOf m.src) with poison := m.poison }) ∧
        (k = .putE ∨ k = .putS → (ddrGet t f).data = (ddrGet s f).data ∧ Recorded t f (e.recd.put k false (memOf m.src)))) ∧
      (e.recd.names (memOf m.src) = false ∨ (k ≠ .putS ∧ m.osn ≠ e.recd.osn) →
        t.mem = s.mem ∧ t.home.stalePut = s.home.stalePut + if k = .putM ∨ k = .putO then 1 else 0)

/-- Answers that a transaction awaits (R133, R140, R157): the requester's Ack closes a transaction that has done its work and keeps its record;
the last InvAck of the holders, or the combined one of a broadcast, lets an upgrade be granted with Cmp; the data of a probed owner goes to the
requester of a read with no allocation, and is merged with a write's bytes in memory.
Timers of the home (R162, R168, R176): a claim whose window ends lapses, to the line's pending claimant if it has one; an owner that has sent
no Put in time, and a dead node that has sent no data in time, are replaced by memory's data, poisoned, and the owner leaves the record.
Stated for a write queue with room, and the performance counters off.
The model's choices it rests on: logs 1, 33, 78. -/
def Obligations.AnswersAndTimersAdvanceTransactions : Prop :=
  (∀ (s : State) (m : BMsg) (x : HTxn) (f : Nat), Opened s m x → s.good → f = frameOf s m.laddr → Room s f →
    (x.acted = true → x.waitAck = true → m.src = x.req.src → m.srcu = x.req.srcu →
      ∃ t : State, exec (.ack m) s = .next t ∧ t.home.tt = [] ∧ t.out = s.out ∧ (ddrGet t f).data = (ddrGet s f).data ∧ Recorded t f
        (if m.fwdr = true ∧ x.recd.st = .E1 ∧ x.kind = .rdS then x.after.shared x.after.holders (some (memOf m.src)) else x.after) ∧
        HomeAlone s t f) ∧
    (∀ comb : Bool, x.acted = false → x.act = .cmp → x.waitAck = true → x.fwdTo = none → x.probeOf = none →
      (comb = true → x.waitB = true ∧ x.waitInv = []) → (comb = false → x.waitB = false ∧ x.waitInv = [memOf m.src]) →
      ∃ (t : State) (b : BMsg), exec (.invack m comb) s = .next t ∧ t.home.tt = [{ x with acted := true, waitInv := [], waitB := false, allow := max x.allow m.allow }] ∧
        t.out = s.out ++ [.msg .cmp b] ∧ b.dst = x.req.src ∧ b.dstu = x.req.srcu ∧ b.rtid = x.req.rtid ∧ b.osn = x.after.osn ∧ t.mem = s.mem ∧
        HomeAlone s t f) ∧
    (∀ dirty : Bool, x.acted = false → x.waitAck = false → x.fwdTo = none → x.waitInv = [] → x.waitB = false → x.probeOf = some (memOf m.src) →
      (x.act = .grant .dataS false true → ∃ (t : State) (b : BMsg), exec (.probeResponse m dirty) s = .next t ∧ t.home.tt = [] ∧
        t.out = s.out ++ [.msg .dataS b] ∧ b.dst = x.req.src ∧ b.dstu = x.req.srcu ∧ b.rtid = x.req.rtid ∧ b.nc = true ∧ b.data = m.data ∧
        b.poison = m.poison ∧ (ddrGet t f).data = (ddrGet s f).data ∧ Recorded t f x.after ∧ HomeAlone s t f) ∧
      (x.act = .merge → ∃ (t : State) (b : BMsg), exec (.probeResponse m dirty) s = .next t ∧ t.home.tt = [] ∧ t.out = s.out ++ [.msg .cmp b] ∧
        b.dst = x.req.src ∧ b.dstu = x.req.srcu ∧ b.rtid = x.req.rtid ∧ (ddrGet t f).data = mergeLine m.data x.req.data x.req.mask ∧
        Recorded t f { x.after with poison := poisonAfter m.poison x.req.poison x.req.mask } ∧ HomeAlone s t f))) ∧
  (∀ (s : State) (n : BitVec 12) (x : HTxn) (p : Member), s.clk = true → fld s.dbg.pmuCtl 0 8 = 0 → s.home.tt = [x] → x.num = n.toNat →
    (∀ c : Claim, x.claim = some c → x.pend = none → s.home.tablePend = none → exec (.claimWindowExpiry n) s = .next { s with home := { s.home with tt := [] } }) ∧
    (∀ c d : Claim, x.claim = some c → x.pend = some d → exec (.claimWindowExpiry n) s = .next { s with home := { s.home with
      tt := [{ num := x.num, line := x.line, claim := some d }], lastClaim := spIns x.line.toNat (d.node, d.unit) s.home.lastClaim } }) ∧
    (x.claim = none → x.puts = [] → x.acted = true → x.waitAck = true → x.fwdTo = some p → x.fwdK = .fwdX → x.read = false →
      spGet {} s.mem.ddrFlaw (frameOf s x.line) = {} → isLost s.node s.fabric x.req.src = false → s.fabric.stopped = false → s.fabric.pause = none →
      ∀ c ∈ [Instr.ownerPutTimeout n, .forwardedAckTimeout n], (c = .ownerPutTimeout n → x.putOf = some p) →
        (c = .forwardedAckTimeout n → x.putOf = none ∧ isLost s.node s.fabric (nodeOf (domOf s.node.node) p) = true) →
        ∃ (t : State) (y : HTxn) (b : BMsg) (o : List Out), exec c s = .next t ∧ t.home.tt = [y] ∧ y.putOf = none ∧ y.fwdTo = none ∧ y.waitAck = true ∧
          y.after = ({ x.after with poison := true } : DirRec).remove p ∧ t.out = s.out ++ o ∧ .msg .dataE b ∈ o ∧ b.dst = x.req.src ∧
          b.rtid = x.req.rtid ∧ b.data = (ddrGet s (frameOf s x.line)).data ∧ b.poison = true ∧ t.home.poisoned = s.home.poisoned + 1 ∧
          t.home.protoErr = s.home.protoErr + (if c = .ownerPutTimeout n then 1 else 0) ∧ t.slices = s.slices ∧ HomeKept s { t with home := s.home }))

/-! ### The slices (R85, R90, R133, R136 to R138, R157, R161, R165) -/

/-- Answers to a slice's request (R83, R133, R136, R165): data fills the way that waits for it, in F, E or M as the message grants, with its
sequence number, is acknowledged to the home, and the host's read is answered from it; Cmp raises an upgrade's line to M; a Nack keeps the
request, with the AGE it carries, for its retry gap, after which it is sent again; WbAck frees the Causeway entry.
The model's choices it rests on: logs 1, 28, 68. -/
def Obligations.AnswersReachTheSlice : Prop :=
  ∀ (s : State) (i : SliceNo) (m : BMsg) (x : STxn) (r : Req) (w : Nat) (y : TagWord) (set : Nat), set = (setOf m.laddr).toNat → s.good →
    (∀ (c : Instr) (st : LState) (g : BitVec 2), (c, st, g) ∈ [(Instr.datas m, LState.F, (1 : BitVec 2)), (.datae m, .E, 1), (.datam m, .M, 1),
        (.datae m, .E, 2), (.datam m, .M, 2)] → ForTxn s i m x r → x.kind = .rdS ∨ x.kind = .rdX → x.way = some w →
      (s.sl i).find m.laddr = some (w, y) → y.st = .P → y.prefetched = false → m.waitcmp = false → (st = .F → m.fwdr = true) →
      r.op = (if g = 1 then .rdShared else .rdOwn) →
      ∃ (t : State) (b : BMsg), exec c s = .next t ∧
        t.out = s.out ++ [.msg .ack b, .host r.port (.cmpData r.etag stOK g false m.poison 64 m.data)] ∧
        b.dst = x.dst ∧ b.dstu = homeUnit ∧ b.htid = m.htid ∧ b.rtid = x.rtid ∧ b.laddr = m.laddr ∧
        (t.sl i).word set w = { tag := tagOf m.laddr, st := st, hp := setBit 0 r.port.val true, poison := m.poison } ∧
        spGet {} (t.sl i).slots (slotKey set w) = ⟨m.data, m.osn⟩ ∧ (t.sl i).stt = [] ∧ SliceAlone s t i r.port) ∧
    (ForTxn s i m x r → x.kind = .upg → x.way = none → (s.sl i).find m.laddr = some (w, y) → y.st = .S ∨ y.st = .F ∨ y.st = .O → y.hp = 0 →
      y.prefetched = false → m.aerr = false → r.op = .rdOwn →
      ∃ (t : State) (b : BMsg), exec (.cmp m) s = .next t ∧ t.out = s.out ++ [.msg .ack b, .host r.port (.cmpData r.etag stOK 2 false y.poison 64
          (spGet {} (s.sl i).slots (slotKey set w)).data)] ∧ b.dst = x.dst ∧ b.htid = m.htid ∧ b.rtid = x.rtid ∧
        (t.sl i).word set w = { y with st := .M, hp := setBit 0 r.port.val true } ∧
        spGet {} (t.sl i).slots (slotKey set w) = { spGet {} (s.sl i).slots (slotKey set w) with osn := m.osn } ∧ (t.sl i).stt = [] ∧
        SliceAlone s t i r.port) ∧
    (ForTxn s i m x r → x.kind = .rdS ∨ x.kind = .rdX → m.reason = rsnBUSY ∨ m.reason = rsnAGE ∨ m.reason = rsnCONTRACT →
      ∃ (t : State) (y : STxn), y = { x with
          age := m.age, nacked := true, gap := true
          req := some { r with refusals := r.refusals + 1, peers := r.peers + (m.allow - x.seen) }, seen := max m.allow x.seen } ∧
        exec (.nack m) s = .next t ∧
        t = { s.setSl i { s.sl i with stt := [y] } with arb := { s.arb with units := t.arb.units } }) ∧
    (ForTxn s i m x r → x.kind = .rdS ∨ x.kind = .rdX → x.gap = true → ∃ (t : State) (b : BMsg), exec (.nackRetry i x.rtid) s = .next t ∧
      t.out = s.out ++ [.msg x.kind b] ∧ b.dst = (homeNow s m.laddr).1 ∧ b.gen = (homeNow s m.laddr).2 ∧ b.dstu = homeUnit ∧ b.rtid = x.rtid ∧
      b.laddr = m.laddr ∧ b.age = x.age ∧ (t.sl i).stt = [{ x with gap := false, dst := b.dst, gen := b.gen }] ∧
      (t.sl i).tags = (s.sl i).tags ∧ SliceAlone s t i r.port) ∧
    (∀ e : CwEnt, e.line = m.laddr → s.clk = true → homeMute s = false ∧ isLost s.node s.fabric m.src = false ∧ m.rsv = none ∧ s.home.unacked = [] →
      sliceOfUnit m.dstu m.laddr = i → (s.sl i).wmb = [] ∧ (s.sl i).walks = [] ∧ (s.sl i).stt = [] ∧ (s.sl i).snpGrps = [] ∧ (s.sl i).rb = [] →
      s.fw.walk = none → (∀ q : Port, (s.hp q).ntc = [] ∧ (s.hp q).link ≠ .downBusy) →
      (s.sl i).cw = [e] → ∃ t : State, exec (.wback m) s = .next t ∧
        t = { s.setSl i { s.sl i with cw := [] } with arb := { s.arb with units := t.arb.units } })

/-- A forward, an Inv, a broadcast invalidation or a probe of a line that a slice holds and no host (R137, R138, R157): a forward takes the data
from the way to the requester, shared or exclusive, and leaves the way as the message says; an invalidation empties the way; a probe sends the
data to the home. A slice that does not hold the line answers an invalidation all the same, and a forward that cannot arise is counted as an
error and answered as for a line not held. Stated for a set in the tag shadow.
The model's choices it rests on: logs 1, 33. -/
def Obligations.ForwardsAndInvalidations : Prop :=
  ∀ (s : State) (i : SliceNo) (m : BMsg) (w : Nat) (y : TagWord) (set : Nat) (d : Slot), set = (setOf m.laddr).toNat → s.good → AtSlice s i m →
    (s.sl i).stt = [] → d = spGet {} (s.sl i).slots (slotKey set w) →
    isLost s.node s.fabric m.rqn = false →
    (s.wayOf i m.laddr = some (w, y) → y.hp = 0 → y.prefetched = false → Shadowed (s.sl i) set →
      (∀ (st st' : LState) (fw : Bool), (st, st', fw) ∈ [(LState.F, if m.fwdr then LState.S else .F, m.fwdr), (.E, .S, true), (.O, .O, false),
          (.M, .O, false)] → y.st = st →
        ∃ (t : State) (b : BMsg), exec (.fwds m) s = .next t ∧ t.out = s.out ++ [.msg .dataS b] ∧ b.dst = m.rqn ∧ b.dstu = m.rqu ∧ b.rtid = m.rtid ∧
          b.htid = m.htid ∧ b.data = d.data ∧ b.poison = y.poison ∧ b.fwdr = fw ∧ (t.sl i).word set w = { y with st := st' } ∧
          (t.sl i).slots = (s.sl i).slots ∧ SliceAlone s t i 0) ∧
      (∀ (st : LState) (k : BKind), (st, k) ∈ [(LState.E, BKind.dataE), (.O, .dataM), (.M, .dataM)] → y.st = st →
        (∃ (t : State) (b : BMsg), exec (.fwdx m) s = .next t ∧ t.out = s.out ++ [.msg k b] ∧ b.dst = m.rqn ∧ b.dstu = m.rqu ∧ b.rtid = m.rtid ∧
          b.htid = m.htid ∧ b.data = d.data ∧ b.poison = y.poison ∧ b.osn = m.osn ∧ b.waitcmp = m.waitcmp ∧ (t.sl i).word set w = {} ∧
          SliceAlone s t i 0) ∧
        (∃ (t : State) (b : BMsg), exec (.probe m) s = .next t ∧ t.out = s.out ++ [.msg k b] ∧ b.dst = m.src ∧ b.dstu = homeUnit ∧
          b.htid = m.htid ∧ b.data = d.data ∧ b.poison = y.poison ∧ b.osn = d.osn ∧ (t.sl i).word set w = (if m.keep then y else {}) ∧
          SliceAlone s t i 0)) ∧
      (y.st = .S ∨ y.st = .F ∨ y.st = .O →
        (∃ (t : State) (b : BMsg), exec (.inv m) s = .next t ∧ t.out = s.out ++ [.msg .invAck b] ∧ b.dst = m.src ∧ b.dstu = homeUnit ∧
          b.htid = m.htid ∧ (t.sl i).word set w = {} ∧ SliceAlone s t i 0) ∧
        (∃ (t : State) (b : BMsg), exec (.binv m) s = .next t ∧ t.out = s.out ++ [.comb (some s.node.node) b 1] ∧ b.dst = m.src ∧
          b.htid = m.htid ∧ (t.sl i).word set w = {} ∧ SliceAlone s t i 0)) ∧
      (y.st = .S → ∃ (t : State) (b : BMsg) (o : List Out), exec (.fwdx m) s = .next t ∧ t.out = s.out ++ o ∧ .msg .invAck b ∈ o ∧ b.dst = m.src ∧
        b.htid = m.htid ∧ t.home.protoErr = s.home.protoErr + 1 ∧ t.slices = s.slices)) ∧
    (s.wayOf i m.laddr = none → isFar s m.laddr = true ∨ Shadowed (s.sl i) set → ∀ c ∈ [Instr.inv m, .fwds m, .fwdx m, .probe m], ∃ (t : State) (b : BMsg), exec c s = .next t ∧
      t.out = s.out ++ [.msg .invAck b] ∧ b.dst = m.src ∧ b.htid = m.htid ∧ t.slices = s.slices ∧ SliceAlone s t i 0)

/-- Timers of the buffers and of the prefetch window, waiting requests, and the arbiter (R74, R75, R78, R79, R91, R265 to R268, R476): an entry
whose HOLD is over closes and, for a far line, leaves as a WrU; a window of 1,024 outcomes halves or doubles the limit of prefetches in flight; a
read that waited, in its slice or in its port, is served when it is tried again and nothing it follows is left; a decision of the arbiter grants a
requester whenever one may be granted, RSP first and FWD next, a walk only 15 decisions after the last, and else, with no burst and no aged grant
due, one of the highest level.
The model's choices it rests on: logs 1, 3, 10. -/
def Obligations.HeldWorkGoesOn : Prop :=
  ∀ (s : State) (i : SliceNo) (p : Port) (e : BufEnt) (r : Req) (w : Nat) (x : TagWord), s.clk = true → s.fabric.selfDead = false →
    s.fabric.stopped = false → s.fabric.pause = none → fld s.dbg.pmuCtl 0 8 = 0 →
    (∀ j : SliceNo, (s.sl j).cw = [] ∧ (s.sl j).rb = [] ∧ (s.sl j).stt = [] ∧ (s.sl j).snpGrps = [] ∧ (s.sl j).walks = []) →
    (e.st = .opened → e.port = p → sliceOf e.line = i → isFar s e.line = true → homeLost s e.line = false →
      ((s.sl i).wmb = [e] → (∀ j : SliceNo, j ≠ i → (s.sl j).wmb = []) → (∀ q : Port, (s.hp q).ntc = []) →
        ∃ (t : State) (y : STxn) (b : BMsg), exec (.wmbHoldExpiry i e.id) s = .next t ∧ t.out = s.out ++ [.msg .wrU b] ∧ b.laddr = e.line ∧
          b.mask = e.mask ∧ b.data = e.data ∧ b.keep = false ∧ (t.sl i).wmb = [{ e with st := .issued }] ∧ (t.sl i).stt = [y] ∧ y.wmb = some e.id ∧
          (t.sl i).tags = (s.sl i).tags ∧ (∀ j : SliceNo, j ≠ i → t.sl j = s.sl j) ∧ t.hports = s.hports ∧
          t.home = { s.home with farReloc := t.home.farReloc } ∧ t.mem = s.mem) ∧
      ((s.hp p).ntc = [e] → (∀ q : Port, q ≠ p → (s.hp q).ntc = []) → (∀ j : SliceNo, (s.sl j).wmb = []) →
        ∃ (t : State) (y : STxn) (b : BMsg), exec (.ntcHoldExpiry p e.id) s = .next t ∧ t.out = s.out ++ [.msg .wrU b] ∧ b.laddr = e.line ∧
          b.mask = e.mask ∧ b.data = e.data ∧ (t.hp p).ntc = [{ e with st := .issued, viaPut := false }] ∧ (t.sl i).stt = [y] ∧
          y.ntc = some (p, e.id) ∧ (t.sl i).tags = (s.sl i).tags ∧ (∀ j : SliceNo, j ≠ i → t.sl j = s.sl j) ∧
          (∀ q : Port, q ≠ p → t.hp q = s.hp q) ∧ t.home = { s.home with farReloc := t.home.farReloc } ∧ t.mem = s.mem)) ∧
    (∀ n : Nat, n = (s.sl i).pfWasted → 1024 ≤ (s.sl i).pfUseful + n →
      exec (.prefetchWindowClose i) s = .next (s.setSl i {
        s.sl i with
          pfUseful := 0, pfWasted := 0,
          pfLimit := if (s.sl i).wasteThr < n then max 1 ((s.sl i).pfLimit / 2) else min (2 * (s.sl i).pfLimit) (s.sl i).maxOut })) ∧
    (∀ c : WaitRef, s.fw.walk = none → (∀ q : Port, (s.hp q).link ≠ .downBusy) →
      (c = .slice i 0 ∧ (s.sl i).waiters = [r]) ∨ (c = .port r.port 0 ∧ (s.hp r.port).queue = [r] ∧ r.waitAdm = false) →
      r.op = .rdShared → r.missed = true → r.bound = false → r.part = 0 → r.stamp = none → r.wt = false → sliceOf (lineOf r.addr) = i →
      (s.hp r.port).link = .up → (s.hp r.port).proto = false → (s.hp r.port).stamped = false → (∀ q : Port, (s.hp q).ntc = []) →
      (∀ j : SliceNo, (s.sl j).wmb = []) → mayGo s r = true → Resident s (lineOf r.addr) w x →
      ∃ t : State, exec (.waiterResume c) s = .next t ∧ t.out = s.out ++ [.host r.port (.cmpData r.etag stOK 1 false x.poison 64
          (spGet {} (s.sl i).slots (slotKey (setOf (lineOf r.addr)).toNat w)).data)] ∧
        (t.sl i).word (setOf (lineOf r.addr)).toNat w = { x with hp := setBit 0 r.port.val true } ∧
        (c = .slice i 0 → (t.sl i).waiters = []) ∧ (c = .port r.port 0 → (t.hp r.port).queue = []) ∧
        ServedAlone s t r.port (lineOf r.addr) w) ∧
    (∀ c : WaitRef, (∀ q : Port, (s.hp q).link ≠ .downBusy) →
      (c = .slice i 0 ∧ (s.sl i).waiters = []) ∨ (c = .port p 0 ∧ (s.hp p).queue = []) → exec (.waiterResume c) s = .next s) ∧
    (∀ (j : SliceNo) (cs : List Cand), (∀ c ∈ cs, c.cls ≠ .walk ∨ 15 ≤ (s.arbiter j).gap → ∃ g : Cand, s.arb.choose (s.arbiter j) cs = some g) ∧
      ∀ g : Cand, s.arb.choose (s.arbiter j) cs = some g → g ∈ cs ∧ (cs.any (fun c => decide (c.cls = .rsp)) = true → g.cls = .rsp) ∧
        (cs.any (fun c => decide (c.cls = .rsp)) = false → cs.any (fun c => decide (c.cls = .fwd)) = true → g.cls = .fwd) ∧
        (g.cls = .walk → 15 ≤ (s.arbiter j).gap) ∧
        (cs.any (fun c => decide (c.cls = .rsp) || decide (c.cls = .fwd)) = false → (s.arbiter j).burst = none →
          s.arb.agedDue (s.arbiter j) = false → ∀ c ∈ cs, c.cls ≠ .walk ∨ 15 ≤ (s.arbiter j).gap → s.arb.level c.cls ≤ s.arb.level g.cls))

/-! ### Walks (R55 to R57, R71, R93, R94, R96, R175, R178, R181) -/

/-- The ends of the walks over the ways (R55, R56, R57, R94, R96): a way cleaned for its errors is disabled in its region; a way group that every
slice has evicted is off, and one powered up is on again, the command answered OK; a slice drained of its dirty lines reads DISABLED; a
CLEAN_ALL whose lines are written back is answered OK.
The model's choices it rests on: log 6. -/
def Obligations.WalksOfTheWaysEnd : Prop :=
  ∀ (s : State) (i : SliceNo) (p k : Port) (c : WalkCmd), s.clk = true →
    (∀ (region : BitVec 6) (w : Way) (cnt : Nat), Walked s i (.disable region.toNat w.val cnt) → ∃ t : State,
      exec (.wayDisableDone i region w) s = .next t ∧ t.sl i =
        { s.sl i with walks := [], wdis := spSet 0 region.toNat (setBit ((s.sl i).disMap region.toNat) w.val true) (s.sl i).wdis } ∧
      (∀ j : SliceNo, j ≠ i → t.sl j = s.sl j) ∧ t.home = s.home ∧ t.mem = s.mem ∧ SamePorts s t) ∧
    (∀ g : BitVec 2, s.fw.st = .run → s.fw.walk = some c → c.pk = some (p, k) → c.opc = 0x31 → c.first = g.toNat →
      (c.last = 0 → (∀ j : SliceNo, Walked s j (.powerDown g.toNat) ∧ (s.sl j).cw = []) → ∃ t : State,
        exec (.waygroupPowerdownDone g) s = .next t ∧ (∀ j : SliceNo, t.sl j =
          { s.sl j with walks := [], wgOff := setBit (s.sl j).wgOff (g.toNat - 1) true, wgDown := setBit (s.sl j).wgDown (g.toNat - 1) false }) ∧
        t.fw.walk = none ∧ Acked s t p k rcOK 0 ∧ t.home = s.home ∧ t.mem = s.mem ∧ SamePorts s t) ∧
      (c.last = 1 → ∃ t : State, exec (.waygroupPowerupDone g) s = .next t ∧
        (∀ j : SliceNo, t.sl j = { s.sl j with wgOff := setBit (s.sl j).wgOff (g.toNat - 1) false }) ∧
        t.fw.walk = none ∧ Acked s t p k rcOK 0 ∧ t.home = s.home ∧ t.mem = s.mem ∧ SamePorts s t)) ∧
    (NoWork s → (s.sl i).rb = [] → (s.sl i).draining = true → Walked s i .drain → (s.sl i).dirty = 0 →
      exec (.cacheDrainDone i) s = .next (s.setSl i { s.sl i with draining := false, disabled := true, walks := [] })) ∧
    (NoWork s → s.fw.st = .run → s.fw.walk = some c → c.pk = some (p, k) → c.opc = 0x22 → (∀ j : SliceNo, Walked s j .clean) →
      ∃ t : State, exec .rangeWalkDone s = .next t ∧ (∀ j : SliceNo, t.sl j = { s.sl j with walks := [] }) ∧ t.fw.walk = none ∧
        Acked s t p k rcOK 0 ∧ t.home = s.home ∧ t.mem = s.mem ∧ SamePorts s t)

/-- The ends of the walks that a change of the domain needs (R71, R175, R178, R179, R181): a member that has applied a policy change
acknowledges it to the region's home; a finished purge walk or sweep pass is noted for the node and reported to every live member; a
read still unanswered by a lost node ends with poisoned data; a node whose steps are done here and at every live member, or that is of another
domain, and that cuts off no other, is readmitted, and links held to management traffic carry all of it again.
A request that a lost node has not answered ends with DEAD (R165, R175): the read that waits for it gets poisoned data, and the transaction
closes.
The model's choices it rests on: logs 1, 6, 45. -/
def Obligations.WalksOfTheDomainAndLostRequestsEnd : Prop :=
  (∀ (s : State) (n : NodeId), s.clk = true → s.fabric.stopped = false → s.fabric.pause = none → NoWork s →
    (∀ (m : Member) (r : BitVec 10), s.fw.st = .run → s.fw.polWalks = [⟨m, r, n⟩] → n ≠ s.node.node →
      s.node.wtMap.any (fun c => decide (c.1 = policyIdx m r)) = true → (∀ j : SliceNo, Walked s j (.policy m r) ∧ (s.sl j).rb = []) → ∃ t : State,
      exec (.policyWalkDone m r) s = .next t ∧ t.out = s.out ++ [.vc5 n .policyAck] ∧ t.fw = { s.fw with polWalks := [] } ∧
      (∀ j : SliceNo, t.sl j = { s.sl j with walks := [] }) ∧ t.home = s.home ∧ t.mem = s.mem ∧ t.hports = s.hports) ∧
    ((∀ j : SliceNo, Walked s j (.purge n)) → ∃ t : State, exec (.purgeWalkDone n) s = .next t ∧
      t.fabric = { s.fabric with live := spMod {} n.toNat (fun d => { d with purge := true }) s.fabric.live } ∧
      t.out = s.out ++ (livePeers t.node t.fabric).map (fun x => .vc5 x (.steps n true (spGet {} t.fabric.live n.toNat).pass)) ∧
      (∀ j : SliceNo, t.sl j = { s.sl j with walks := [] }) ∧ t.home = s.home ∧ t.mem = s.mem ∧ t.hports = s.hports) ∧
    (∀ a b : Nat, s.home.sweeps = [⟨n, a, b, false⟩] → s.home.naming (memOf n) = [] → s.home.tt = [] → ∃ t : State,
      exec (.sweepPassDone n) s = .next t ∧ t.home = { s.home with sweeps := [⟨n, a, b, true⟩] } ∧
      t.fabric = { s.fabric with live := spMod {} n.toNat (fun d => { d with pass := true }) s.fabric.live } ∧
      t.out = s.out ++ (livePeers t.node t.fabric).map (fun x => .vc5 x (.steps n (spGet {} t.fabric.live n.toNat).purge true)) ∧
      t.slices = s.slices ∧ t.mem = s.mem ∧ t.hports = s.hports) ∧
    (∀ d : NodeSt, s.fw.st = .run → n ≠ s.node.node → s.fabric.live = [(n.toNat, d)] → d.dead = true →
      (∀ m ∈ members s.node, memNode s m ≠ n → isLost s.node s.fabric (memNode s m) = false) →
      domOf n ≠ domOf s.node.node ∨ (d.purge = true ∧ d.pass = true ∧ ∀ x ∈ livePeers s.node s.fabric, x ∈ d.told) →
      ∃ t : State, exec (.readmission n) s = .next t ∧
      t.fabric = { s.fabric with live := [] } ∧ isLost t.node t.fabric n = false ∧
      (∀ f : FPortNo, t.fp f = { s.fp f with link := if (s.fp f).link = .upMgmt ∧ (s.fp f).neigh = n then .up else (s.fp f).link }) ∧
      t.home = { s.home with sweeps := s.home.sweeps.filter (fun w => decide (w.node ≠ n)) } ∧ t.slices = s.slices ∧ t.mem = s.mem) ∧
    (s.fw.st = .run → n ≠ s.node.node → domOf n = domOf s.node.node → ∀ d : NodeSt, s.fabric.live = [(n.toNat, d)] →
      d.purge = false ∨ d.pass = false ∨ (∃ x ∈ livePeers s.node s.fabric, x ∉ d.told) → exec (.readmission n) s = .next s)) ∧
  (∀ (s : State) (i : SliceNo) (n : NodeId) (x : STxn) (r : Req), s.clk = true → (∀ q : Port, (s.hp q).ntc = []) →
    (∀ j : SliceNo, (s.sl j).wmb = [] ∧ (s.sl j).walks = []) → (s.sl i).rb = [] → (s.sl i).snpGrps = [] → (s.sl i).waiters = [] →
    NoneDown s → s.home.unacked = [] → isLost s.node s.fabric n = true → (s.sl i).stt = [x] →
    (∀ j : SliceNo, j ≠ i → (s.sl j).stt = []) → x.dst = n → x.st = .open_ → x.kind = .rdU → x.req = some r → x.joined = [] →
    x.wmb = none → x.ntc = none → x.way = none → r.op = .rdCur ∨ r.op = .rdShared → r.part = 0 → r.stamp = none → r.bound = false →
    (s.hp r.port).link = .up → (s.hp r.port).stamped = false →
    ∃ (t : State) (o : List Out), exec (.deadRequestTimeout n) s = .next t ∧ t.out = s.out ++ o ∧
      .host r.port (.cmpData r.etag stDEAD 0 false true r.len 0) ∈ o ∧ (t.sl i).stt = [] ∧ (t.sl i).tags = (s.sl i).tags ∧
      (∀ j : SliceNo, j ≠ i → t.sl j = s.sl j) ∧ t.home = s.home ∧ t.mem = s.mem)

/-! ### The stamp unit (R233, R237 to R239, R253, R310) -/

/-- Floors and horizons (R237 to R239, R253, R310): a period lets the list changes that have reached every member take effect, and the horizon of a group whose one member is this
device follows its floor and settle value, never falling; reports of a period are combined, the lowest floor and settle value and the sum of the
counts, until every member below by the list in force for the period is counted, and those of an earlier period are dropped; a result for another
group is noted where it is higher; an outstanding stamped access that sees no advance is reported once; a device that joins a group of which this one is
a member is given its horizon, and a group that loses its last member loses its own.
The model's choices it rests on: logs 34, 45, 97, 107. -/
def Obligations.HorizonsAreCombined : Prop :=
  ∀ (s : State) (g : BitVec 6) (k d v h : W64) (cnt : Nat) (x : FSlot) (n root : NodeId) (l : List NodeId) (late : List (BitVec 6)), s.clk = true →
    s.fabric.stopped = false →
    (s.stamp.member = false → exec (.horizonPeriod k late) s = .next { s with stamp := { s.stamp with
      now := k
      lists := (s.stamp.lists.map (fun c => (c.1, if late.contains (BitVec.ofNat 6 c.1) then c.2 else { c.2 with cur := c.2.next }))).filter
        (fun c => decide (c.2 ≠ {})) } }) ∧
    (NoWork s → NoneDown s → (∀ i : SliceNo, (s.sl i).walks = [] ∧ (s.sl i).rb = []) → s.stamp.member = true → s.stamp.group = g → s.stamp.slots = [] →
      s.stamp.lists = [(g.toNat, { cur := [s.node.node], next := [s.node.node] })] → exec (.horizonPeriod k late) s = .next { s with stamp := { s.stamp with
        now := k
        hzn := if s.stamp.hzn.ult (deviceFloor s) then deviceFloor s else s.stamp.hzn
        settle := if s.stamp.settle.ult (settleValue s) then settleValue s else s.stamp.settle
        stalled := s.stamp.stalled && !s.stamp.hzn.ult (deviceFloor s) } }) ∧
    (l = listFor s g k → groupRoot l = some root →
      (s.stamp.slots = [] → cnt ≠ (belowHere s root l).length →
        exec (.floorReport g k d v cnt) s = .next { s with stamp := { s.stamp with slots := [(g.toNat, ⟨k, d, v, cnt⟩)] } }) ∧
      (s.stamp.slots = [(g.toNat, x)] → x.k = k → x.cnt + cnt ≠ (belowHere s root l).length →
        exec (.floorReport g k d v cnt) s = .next { s with stamp := { s.stamp with slots := [(g.toNat, ⟨k, minW x.d d, minW x.s v, x.cnt + cnt⟩)] } }) ∧
      (s.stamp.slots = [(g.toNat, x)] → k.ult x.k = true → exec (.floorReport g k d v cnt) s = .next s)) ∧
    (s.stamp.member = false ∨ s.stamp.group ≠ g → listFor s g k = [] →
      exec (.horizonResult g k h v) s = .next { s with stamp := { s.stamp with
        hzns := if (spGet 0 s.stamp.hzns g.toNat).ult h then spIns g.toNat h s.stamp.hzns else s.stamp.hzns } }) ∧
    (NoWork s → NoneDown s → (∀ i : SliceNo, (s.sl i).walks = [] ∧ (s.sl i).rb = []) → s.stamp.member = true → s.stamp.group = g →
      listFor s g k = [s.node.node] → s.stamp.hzn.ult h = true → s.stamp.settle.ult v = true →
      exec (.horizonResult g k h v) s = .next { s with stamp := { s.stamp with hzn := h, settle := v, stalled := false } }) ∧
    (s.stamp.member = true → s.stamp.limit ≠ 0 → s.stamp.stalled = false →
      (stampedOut s = true → ∃ t : State, exec .stampStall s = .next t ∧ t.stamp = { s.stamp with stalled := true } ∧ t.slices = s.slices ∧
        SamePorts s t ∧ t.home = s.home ∧ t.mem = s.mem) ∧
      (stampedOut s = false → exec .stampStall s = .next s)) ∧
    (s.fw.st = .run → l = (spGet {} s.stamp.lists g.toNat).next → n ∉ l → s.fabric.pause = none →
      exec (.memberListUpdate g n true) s = .next { gotVc5 n s with
        stamp := { s.stamp with lists := spSet {} g.toNat { spGet {} s.stamp.lists g.toNat with next := l ++ [n] } s.stamp.lists }
        out := s.out ++ (if s.stamp.member = true ∧ s.stamp.group = g ∧ n ≠ s.node.node then [.vc5 n (.horizon g s.stamp.hzn)] else []) }) ∧
    (s.fw.st = .run → (spGet {} s.stamp.lists g.toNat).next = [n] →
      exec (.memberListUpdate g n false) s = .next { gotVc5 n s with stamp := { s.stamp with
        lists := spSet {} g.toNat { spGet {} s.stamp.lists g.toNat with next := [] } s.stamp.lists, hzns := spDel g.toNat s.stamp.hzns } })

/-! ### The fabric (R157, R298 to R315, R459, R468) -/

/-- Flits and packets (R298 to R300, R302 to R304, R306 to R308, R314): a good data flit in sequence is taken, one with an uncorrectable codeword is asked
for again from the number awaited; a packet for another node goes on by the port of its route, counted there, or is discarded, leaving its input
buffer, where that link is not up; a broadcast that covers nothing below this switch is answered at once, one that covers only this device is delivered to it; answers are
summed until every member below is counted; the packet a port serves next is one that waits there and has the credits it takes, which it spends of
its own channel and the pool alone, VC5 first where its flit is owed and VC4 first where not.
The model's choices it rests on: logs 1, 11, 43, 66, 72, 97. -/
def Obligations.PacketsCrossTheSwitch : Prop :=
  ∀ (s : State) (f o : FPortNo) (x : FlitIn) (y : Packet) (m : BMsg) (e e' : Comb) (cnt : Nat), s.clk = true → s.fabric.stopped = false →
    ((s.fp f).carries = true → x.fecUnc = false → x.fecCor = false → x.crcOk = true → x.replay = false → x.ctrl = false → x.seq = (s.fp f).rxNext →
      exec (.flit f x) s = .next (s.setFp f
        { ((s.fp f).acked x.ack).credited x.crvc x.crcnt with rxNext := (s.fp f).rxNext + 1, askRep := false })) ∧
    ((s.fp f).carries = true → x.fecUnc = true → exec (.flit f x) s = .next (s.setFp f
        { s.fp f with fecUnc := (s.fp f).fecUnc + if x.slot = 0 then 1 else 0, askRep := true })) ∧
    (y.dst ≠ s.node.node → y.bcast = false → y.comb = false → y.cls.toNat ≤ 3 → routePort s.node s.node.node y.src y.dst = some o →
      ((s.fp o).gone = false → isLost s.node s.fabric y.dst = false → isLost s.node s.fabric y.src = false →
        exec (.transitBypass f y) s = .next { s.setFp o { s.fp o with transit := (s.fp o).transit + 1 } with
          out := s.out ++ [.pkt o (some (f, y.dl)) { y with dl := dlOut s (some f) o y.dl }] }) ∧
      ((s.fp o).gone = true ∨ isLost s.node s.fabric y.dst = true ∨ isLost s.node s.fabric y.src = true →
        exec (.transitBypass f y) s = .next (pktFreed f y (s.setFp o { s.fp o with discard := (s.fp o).discard + 1 })))) ∧
    (isLost s.node s.fabric m.src = false → s.fabric.pause = none → s.fabric.combs = [] → s.fabric.bcastQ = [] → y.msg = m →
      (bcBelow s m = [] → ∃ (t : State) (b : BMsg), exec (.broadcastReplicate none y) s = .next t ∧ t = { s with out := t.out } ∧
        t.out = s.out ++ [.comb (bcUp s m.src) b 0] ∧ b.dst = m.src ∧ b.htid = m.htid ∧ b.laddr = m.laddr) ∧
      (bcBelow s m = [s.node.node] → exec (.broadcastReplicate none y) s = .next { s with
        fabric := { s.fabric with combs := [⟨m, [], 0⟩] }, out := s.out ++ [.msg .bInv { m with dst := s.node.node, dstu := unitOf (sliceOf m.laddr) }] })) ∧
    (∀ s1 : State, s1 = gotPkt m.src 2 (packetWords .invAck m) s → s.fabric.pause = none → s.fabric.combs = [e] → s.fabric.bcastQ = [] →
      isLost s.node s.fabric m.dst = false → isLost s.node s.fabric m.src = false → e.msg.src = m.dst → e.msg.htid = m.htid → e.msg.laddr = m.laddr →
      e' = { e with got := spMod 0 m.src.toNat (· + cnt) e.got, allow := max e.allow m.allow } →
      ((bcBelow s e.msg).length ≤ e'.count s → ∃ (t : State) (b : BMsg), exec (.combinedInvack m cnt) s = .next t ∧
        t = { s1 with fabric := { s.fabric with combs := [] }, out := t.out } ∧ t.out = s.out ++ [.comb (bcUp s e.msg.src) b (e'.count s)] ∧
        b.dst = e.msg.src ∧ b.htid = m.htid ∧ b.laddr = m.laddr) ∧
      (e'.count s < (bcBelow s e.msg).length →
        exec (.combinedInvack m cnt) s = .next { s1 with fabric := { s.fabric with combs := [e'] } })) ∧
    (∀ (owed : Bool) (z : TxPkt) (q : FPort), q = s.fp f → q.pick owed = some z → z ∈ q.txq ∧ z.cost ≤ vget q.credits z.chan 0 + q.pool ∧
      vget (q.takePkt z).credits z.chan 0 + (q.takePkt z).pool + z.cost = vget q.credits z.chan 0 + q.pool ∧
      (∀ c : Nat, c ≠ z.chan → vget (q.takePkt z).credits c 0 = vget q.credits c 0) ∧
      (∀ (c : Nat) (n : TxPkt), q.passes c = true → q.nextOf c = some n → q.canSend n = true →
        (owed = true → c = 10 ∨ c = 11 → z.hdr.cls = 5) ∧ (owed = false → c = 8 ∨ c = 9 → z.hdr.cls = 4)))

/-- Heartbeats, time and links (R309, R311, R312, R315, R323, R459): a healthy device sends its time on every link that carries traffic, one that is not
falls silent; the parent's heartbeat sets the time and the distance; a lost link is noted, reported on the others once, and pauses the device of
the higher node ID; a link held by WARM in a warm drain is not lost; one that trains starts fresh.
The model's choices it rests on: logs 1, 21. -/
def Obligations.LinksAreWatched : Prop :=
  ∀ (s : State) (f : FPortNo) (c : LossCause) (n p : NodeId) (time delay t0 : W64) (dist : BitVec 7), s.clk = true → s.fabric.stopped = false →
    (s.fw.st ≠ .stopped → ∃ t : State, exec .heartbeatSend s = .next t ∧
      t.out = s.out ++ (fportNos.filter (fun f => (s.fp f).carries)).map (fun f => .vc4 f (.heartbeat s.gen.time s.node.dist)) ∧
      (∀ g : FPortNo, t.fp g = if (s.fp g).carries then { s.fp g with hbSeen := false } else s.fp g) ∧ t.slices = s.slices ∧ t.home = s.home) ∧
    (s.fw.st = .stopped → exec .heartbeatSend s = .next { s with fabric := { s.fabric with stopped := true } }) ∧
    ((s.fp f).carries = true → (∀ s1 : State, s1 = (gotVc4 f s).setFp f { (gotVc4 f s).fp f with hbSeen := true, hbDist := dist } →
      (timeParent s1 = some f → exec (.heartbeat f time dist delay) s = .next { s1 with gen := { s.gen with time := time + delay }, node := { s.node with
        dist := if dist.toNat < 0x7E then dist + 1 else 0x7F } }) ∧
      (timeParent s1 ≠ some f → exec (.heartbeat f time dist delay) s = .next s1))) ∧
    ((s.fp f).carries = true → (s.fp f).held = false → c ≠ .replayLimit → isDead s.fabric (s.fp f).neigh = false → ∃ t : State,
      exec (.linkLost f c) s = .next t ∧ t.fp f = { s.fp f with link := .lost, loss := s.gen.time, lostRep := true } ∧
      (∀ g : FPortNo, g ≠ f → t.fp g = s.fp g) ∧ (s.node.node, (s.fp f).neigh, s.gen.time) ∈ t.fabric.reports ∧
      t.out = s.out ++ (fportNos.filter (fun g => decide (g ≠ f) && (s.fp g).carries)).map (fun g =>
        .vc4 g (.linklost s.node.node (s.fp f).neigh s.gen.time)) ∧
      t.fabric.pause = (if (s.fp f).neigh.toNat < s.node.node.toNat then some (f, s.gen.time) else s.fabric.pause) ∧ t.slices = s.slices ∧ t.home = s.home) ∧
    ((s.fp f).held = true → exec (.linkLost f c) s = .next s) ∧
    (s.fabric.reports.contains (n, p, t0) = true → exec (.linklost f n p t0) s = .next (gotVc4 f s)) ∧
    (s.fabric.reports.contains (n, p, t0) = false → ∃ t : State, exec (.linklost f n p t0) s = .next t ∧ (n, p, t0) ∈ t.fabric.reports ∧
      t.fabric.reports.length ≤ max 256 s.fabric.reports.length ∧
      t.out = s.out ++ (fportNos.filter (fun g => decide (g ≠ f) && (s.fp g).carries)).map (fun g => .vc4 g (.linklost n p t0)) ∧
      t.slices = s.slices ∧ t.home = s.home ∧ t.fports = (gotVc4 f s).fports) ∧
    ((s.fp f).carries = true → s.crp.phase = .warmDrain → exec (.warm f) s = .next (s.setFp f { s.fp f with held := true })) ∧
    ((s.fp f).link = .training ∨ (s.fp f).link = .lost → (s.fp f).en = true → ∃ t : State,
      exec (.fabricLinkTrained f n) s = .next t ∧ (t.fp f).link = (if isDead s.fabric n || isDead s.fabric s.node.node then .upMgmt else .up) ∧
      (t.fp f).neigh = n ∧ (t.fp f).txSeq = 0 ∧ (t.fp f).rxNext = 0 ∧ (t.fp f).unacked = [] ∧ (t.fp f).credits = Vector.replicate 12 32 ∧ (t.fp f).pool = 5760 ∧
      (∀ g : FPortNo, g ≠ f → t.fp g = s.fp g) ∧ t.slices = s.slices ∧ t.home = s.home ∧ t.out = s.out) ∧
    ((s.fp f).link = .up → exec (.fabricLinkTrained f n) s = .next s)

/-- Declarations (R174 to R178, R182, R312 to R314, R459, R468): a declaration that arrives, a lost link that its neighbour has not claimed, a port that has not
trained in time and a WARM flit outside a warm drain declare the node dead: it is flooded, its lines are purged and its records swept. The device of
the higher node ID that its neighbour reports, and one that finds itself declared, stops; so does one that finds an aged packet with no node lost. An
aged packet leaves the queue it waits in, and is counted.
The model's choices it rests on: logs 44, 72, 106, 108. -/
def Obligations.DeclarationsAreApplied : Prop :=
  ∀ (s : State) (f o : FPortNo) (n : NodeId) (x : Packet), s.clk = true →
    (Peer s n → ∃ t : State, exec (.declaration f n) s = .next t ∧ Declared s t n (some f) ∧ t.fports = (gotVc4 f s).fports) ∧
    (Peer s n → (s.fp f).carries = true → (s.fp f).neigh = n → s.crp.phase ≠ .warmDrain → ∃ t : State, exec (.warm f) s = .next t ∧
      Declared s t n none ∧ t.fp f = { s.fp f with link := .lost, loss := s.gen.time }) ∧
    (Peer s n → (s.fp f).link = .training → neighbour s.node s.node.node f = some n → ∃ t : State, exec (.fabricTrainingTimeout f) s = .next t ∧
      Declared s t n none ∧ t.fp f = { s.fp f with link := .lost, loss := s.gen.time }) ∧
    (Peer s n → (s.fp f).link = .lost → (s.fp f).lostRep = true → (s.fp f).neigh = n → s.fabric.reports = [] → ∃ t : State,
      exec (.linklostDecision f) s = .next t ∧ Declared s t n none ∧ t.fp f = { s.fp f with lostRep := false }) ∧
    ((s.fp f).link ≠ .lost ∨ (s.fp f).lostRep = false → exec (.linklostDecision f) s = .next s) ∧
    (isDead s.fabric n = true → exec (.declaration f n) s = .next (gotVc4 f s)) ∧
    (fld (s.dbg.frzCtl.get 0xE) 2 2 = 0 → s.fabric.selfDead = false →
      (n = s.node.node → isDead s.fabric n = false → ∃ t : State, exec (.declaration f n) s = .next t ∧ StoppedBy t 6 ∧ t.mem.lines = s.mem.lines) ∧
      ((s.fp f).link = .lost → (s.fp f).lostRep = true → (s.fp f).neigh = n → n.toNat < s.node.node.toNat → (∃ t0 : W64, (n, s.node.node, t0) ∈ s.fabric.reports) →
        ∃ t : State, exec (.linklostDecision f) s = .next t ∧ StoppedBy t 6 ∧ t.mem.lines = s.mem.lines) ∧
      (s.fabric.stopped = false → isLost s.node s.fabric x.dst = false → isLost s.node s.fabric x.src = false →
        routePort s.node s.node.node x.src x.dst = some o → (s.fp o).carries = true →
        ∃ t : State, exec (.packetAged f x) s = .next t ∧ StoppedBy t 7 ∧ (t.fp f).discard = (s.fp f).discard + 1 ∧ t.mem.lines = s.mem.lines)) ∧
    (x.cls.toNat ≤ 3 → isLost s.node s.fabric x.dst = true → ∃ t : State, exec (.packetAged f x) s = .next t ∧
      (∀ g : FPortNo, (t.fp g).txq = (s.fp g).txq.filter (fun y => !y.is x) ∧ (t.fp g).discard = (s.fp g).discard + (if g = f then 1 else 0)) ∧
      ((∀ g : FPortNo, ∀ y ∈ (s.fp g).txq, y.is x = false) → t = s.setFp f { s.fp f with discard := (s.fp f).discard + 1 }) ∧
      t.slices = s.slices ∧ t.home = s.home ∧ t.mem = s.mem ∧ t.hports = s.hports ∧ t.out = s.out)

/-! ### Operations of the domain (R71, R233, R254, R255) -/

/-- REGION_SET at the region's home asks every live member, itself included, to apply the policy; a member applies it at once, in its map and by
a walk of its slices for a change to write-through; the home's command ends OK with the number of acknowledges when the last comes, and
TIMEOUT with the number missing when one does not (R71, R392).
The model's choices it rests on: log 1. -/
def Obligations.RegionPoliciesChange : Prop :=
  ∀ (s : State) (n : NodeId) (p k : Port), s.clk = true → Sends s → spSorted none s.node.wtMap = true → spSorted none s.node.wtCopy = true →
    (∀ (arg : BitVec 16) (m : Member) (r : BitVec 10), Posted s p k 0x10 arg → fld arg 11 5 = 0 → memberOk s ((s.mb p).par k 0 2) = true →
      m = BitVec.ofNat 12 ((s.mb p).par k 0 2) → r = fld arg 0 10 → (homeNow s (regionLine s m r)).1 = s.node.node → s.fw.walk = none →
      NothingCached s → s.fw.polWalks = [] → ∃ (t : State) (c : WalkCmd), exec (.regionSet p k) s = .next t ∧ c.pk = some (p, k) ∧ c.opc = 0x10 ∧
        t.fw = { s.fw with st := .run, walk := some c, polWalks := [⟨m, r, s.node.node⟩],
                           policy := some ⟨m, r, bit arg 10, s.node.node :: livePeers s.node s.fabric, 0⟩ } ∧
        t.out = s.out ++ (livePeers s.node s.fabric).map (fun x => .vc5 x (.policyChange m r (bit arg 10))) ∧
        PolicySet s t m r (bit arg 10) ∧ Taken s t p k) ∧
    (∀ (m : Member) (r : BitVec 10) (wt : Bool), s.fwUp = true → NothingCached s → s.fw.polWalks = [] → ∃ t : State,
      exec (.regionPolicyChange m r wt n) s = .next t ∧ PolicySet s t m r wt ∧ t.out = s.out ∧ t.mbx = s.mbx ∧
        t.fw = { s.fw with st := .run, polWalks := [⟨m, r, n⟩] }) ∧
    (∀ (op : PolicyOp) (c : WalkCmd), s.fw.st = .run → s.fw.policy = some op → s.fw.walk = some c → c.pk = some (p, k) →
      (n ∈ op.await → op.await.filter (fun x => decide (x ≠ n)) ≠ [] → exec (.regionSetAck n) s = .next { gotVc5 n s with
        fw := { s.fw with policy := some { op with await := op.await.filter (fun x => decide (x ≠ n)), acks := op.acks + 1 } } }) ∧
      (op.await = [n] → ∃ t : State, exec (.regionSetAck n) s = .next t ∧ t.fw = { s.fw with walk := none, policy := none } ∧
        Acked s t p k rcOK (BitVec.ofNat 16 (op.acks + 1)) ∧ MailOnly (gotVc5 n s) t p) ∧
      (∃ t : State, exec .regionSetTimeout s = .next t ∧ t.fw = { s.fw with walk := none, policy := none } ∧
        Acked s t p k rcTIMEOUT (BitVec.ofNat 16 op.await.length) ∧ MailOnly s t p))

/-- A contract within the bounds of R255 is granted when every live home within its hops has reserved its share: at once where no other
home is that near; otherwise when the last answers. A refusal ends it NORES and a missing answer TIMEOUT, the shares already reserved given
back. A released contract ends, its shares given back, when its last request has completed. A home reserves a share while its sums stay within
R255, and answers.
The model's choices it rests on: logs 1, 35, 85. -/
def Obligations.ContractsAreGranted : Prop :=
  ∀ (s : State) (n : NodeId) (p k : Port) (op : CtrOp) (full : Nat) (x : Share), s.clk = true → Sends s →
    (∀ (w : Contract) (homes : List NodeId), Posted s p k 0x40 0 → w = (ctrParams s p k).1 → (ctrParams s p k).2 = true →
      homes = (livePeers s.node s.fabric).filter (fun n => decide (hops s.node s.node.node n ≤ w.hops.toNat)) →
      (∀ q : Port, (s.hp q).ctr.valid = false) → s.fw.ctrOps = [] → s.home.shares = [] → (s.hp p).ctrRel = false → (s.hp p).stamped = false →
      (s.hp p).degraded = false → (s.hp p).linkUp = true → s.mem.slow = false → s.mem.filled = true → full = w.burst.toNat * tokenUnit →
      x = ⟨s.node.node, BitVec.ofNat 2 p.val, w.missr, w.burst.toNat + w.out.toNat, (w.burst.toNat + w.out.toNat) * 3200⟩ →
      ∃ t : State, exec (.contractReq p k) s = .next t ∧ t.home = { s.home with shares := [x] } ∧ t.slices = s.slices ∧ t.mem = s.mem ∧
        (homes ≠ [] → t.fw = { s.fw with st := .run, ctrOps := [⟨p, some k, w, homes, [s.node.node], false⟩] } ∧ Taken s t p k ∧
          t.out = s.out ++ homes.map (fun n => .vc5 n (.shareReserve p w.missr x.depth)) ∧ t.hports = s.hports) ∧
        (homes = [] → Finished s t p k rcOK 0 ∧ t.hp p = { s.hp p with
          msixLive := (t.hp p).msixLive
          ctr := { w with valid := true, tok := full, stok := Vector.replicate 8 full, mtok := full } })) ∧
    (∀ (q : Port) (missr : BitVec 11) (depth : Nat) (others : List Share) (ok : Bool), s.fw.st = .run →
      others = s.home.shares.filter (fun x => !(decide (x.node = n) && decide (x.port = BitVec.ofNat 2 q.val))) →
      ok = (!s.mem.slow && s.mem.filled && decide (others.length < 1024) &&
        decide (others.foldl (fun a x => a + x.missr.toNat) missr.toNat ≤ 3000)) →
      exec (.contractShareReserve n q missr depth) s = .next { gotVc5 n s with
        home := if ok then { s.home with shares := others ++ [⟨n, BitVec.ofNat 2 q.val, missr, depth, depth * 3200⟩] } else s.home
        out := s.out ++ [.vc5 n (.shareAnswer q ok)] } ∧
      exec (.contractShareRelease n q) s = .next { gotVc5 n s with home := { s.home with shares := others } }) ∧
    (s.fw.st = .run → s.fw.ctrOps = [op] → op.port = p → op.k = some k → full = op.want.burst.toNat * tokenUnit →
      op.granted = [s.node.node] → x.node = s.node.node → x.port = BitVec.ofNat 2 p.val → s.home.shares = [x] →
      (∀ (ok : Bool) (m : NodeId) (l : List NodeId), op.await = n :: m :: l → n ∉ m :: l → exec (.contractShareAnswer n p ok) s = .next { gotVc5 n s with
        fw := { s.fw with ctrOps := [{ op with
          await := m :: l, failed := op.failed || !ok, granted := if ok then op.granted ++ [n] else op.granted }] } }) ∧
      (op.await = [n] → op.failed = false → (s.hp p).stamped = false → (s.hp p).degraded = false → (s.hp p).linkUp = true → ∃ t : State,
        exec (.contractShareAnswer n p true) s = .next t ∧ Acked s t p k rcOK 0 ∧ t.fw.ctrOps = [] ∧ (p, [s.node.node, n]) ∈ t.fw.ctrHomes ∧
        t.home = s.home ∧ t.slices = s.slices ∧ t.mem = s.mem ∧ t.hp p = { s.hp p with
          msixLive := (t.hp p).msixLive
          ctr := { op.want with valid := true, tok := full, stok := Vector.replicate 8 full, mtok := full } }) ∧
      (op.await = [n] → ∃ t : State, exec (.contractShareAnswer n p false) s = .next t ∧ Acked s t p k rcNORES 0 ∧ t.fw.ctrOps = [] ∧
        t.home = { s.home with shares := [] } ∧ t.slices = s.slices ∧ t.mem = s.mem ∧ SamePorts s t) ∧
      (∃ t : State, exec (.contractReqTimeout p) s = .next t ∧ Acked s t p k rcTIMEOUT 0 ∧ t.fw.ctrOps = [] ∧
        t.home = { s.home with shares := [] } ∧ t.slices = s.slices ∧ t.mem = s.mem ∧ SamePorts s t)) ∧
    (Posted s p k 0x41 0 → (s.hp p).ctr.valid = false → ∃ t : State, exec (.contractRel p k) s = .next t ∧ Finished s t p k rcOK 0 ∧
      t.fw = { s.fw with st := .run } ∧ MailOnly s t p) ∧
    (Posted s p k 0x41 0 → (s.hp p).ctr.valid = true → (s.hp p).outst ≠ 0 → ∃ t : State, exec (.contractRel p k) s = .next t ∧
      Taken s t p k ∧ t.fw = { s.fw with st := .run, relCmd := s.fw.relCmd ++ [(p, k)] } ∧
      t.hp p = { s.hp p with ctr := { (s.hp p).ctr with valid := false }, ctrRel := true } ∧ (∀ q : Port, q ≠ p → t.hp q = s.hp q) ∧
      t.home = s.home ∧ t.slices = s.slices ∧ t.mem = s.mem) ∧
    (s.fw.st = .run → (∀ q : Port, (s.hp q).link ≠ .downBusy) → (s.hp p).ctrRel = true → (s.hp p).outst = 0 → s.fw.ctrHomes = [(p, [s.node.node])] → s.fw.relCmd = [(p, k)] →
      x.node = s.node.node → x.port = BitVec.ofNat 2 p.val → s.home.shares = [x] → ∃ t : State,
      exec (.contractRelComplete p) s = .next t ∧ Acked s t p k rcOK 0 ∧ t.fw = { s.fw with ctrHomes := [], relCmd := [] } ∧
      t.home = { s.home with shares := [] } ∧ t.slices = s.slices ∧ t.mem = s.mem ∧
      t.hp p = { s.hp p with ctr := .none, ctrRel := false, msixLive := (t.hp p).msixLive })

/-- A port joins a stamp group: at once where the device is a member of that group; else the first join cleans the stamp ways of every
slice, and the device then enters its own list and tells the live members. A port that leaves stays until its stamped accesses have been
applied; with the last port the device's membership ends (R233, R524).
The model's choices it rests on: logs 1, 6, 40, 45. -/
def Obligations.StampGroupsAreJoinedAndLeft : Prop :=
  ∀ (s : State) (p k : Port) (g : BitVec 6) (told : W64), s.clk = true → Sends s →
    (∀ arg : BitVec 16, Posted s p k 0x50 arg → joinDenied s p = false → fld arg 6 10 = 0 → g = fld arg 0 6 →
      (s.stamp.member = true → s.stamp.group = g → ∃ t : State, exec (.stampJoin p k) s = .next t ∧ Finished s t p k rcOK 0 ∧
        t.hp p = { s.hp p with stamped := true, floor := s.stamp.hzn, lastSt := [], msixLive := (t.hp p).msixLive } ∧
        t.stamp = s.stamp ∧ t.home = s.home ∧ t.slices = s.slices ∧ t.mem = s.mem) ∧
      (s.stamp.member = false → s.fw.joining = none → s.fw.walk = none → NothingCached s → ∃ (t : State) (c : WalkCmd),
        exec (.stampJoin p k) s = .next t ∧ Taken s t p k ∧ c.pk = some (p, k) ∧ c.opc = 0x50 ∧
        t.fw = { s.fw with st := .run, walk := some c, joining := some p } ∧ t.stamp = { s.stamp with group := g } ∧
        (∀ i : SliceNo, t.sl i = { s.sl i with walks := [⟨.stampClean, 0⟩] }) ∧ t.hports = s.hports ∧ t.home = s.home ∧ t.mem = s.mem)) ∧
    (∀ (c : WalkCmd) (old next : List NodeId), s.fw.st = .run → s.fw.joining = some p → s.fw.joinWait = [] → s.fw.walk = some c →
      c.pk = some (p, k) → (∀ i : SliceNo, Walked s i .stampClean) → joinDenied s p = false → (s.hp p).linkUp = true → s.stamp.member = false →
      s.stamp.group = g → old = (spGet {} s.stamp.lists g.toNat).next → next = (if old.contains s.node.node then old else old ++ [s.node.node]) →
      ∃ (t : State) (o : List Out), exec (.stampJoinCleanDone p told) s = .next t ∧ Acked s t p k rcOK 0 ∧ t.fw = { s.fw with walk := none, joining := none } ∧
        t.stamp = { s.stamp with member := true, hzn := joinHzn s g told, settle := 0, lost := false, stalled := false, lists := t.stamp.lists } ∧
        (spGet {} t.stamp.lists g.toNat).next = next ∧
        t.out = s.out ++ (livePeers s.node s.fabric).map (fun x => .vc5 x (.memberUpdate g s.node.node true)) ++ o ∧
        t.hp p = { s.hp p with stamped := true, leaving := false, floor := joinHzn s g told, lastSt := [], msixLive := (t.hp p).msixLive } ∧
        (∀ i : SliceNo, t.sl i = { s.sl i with walks := [] }) ∧ t.home = s.home ∧ t.mem = s.mem) ∧
    (Posted s p k 0x51 0 →
      ((s.hp p).stamped = false → ∃ t : State, exec (.stampLeave p k) s = .next t ∧ Finished s t p k rcOK 0 ∧ t.fw = { s.fw with st := .run } ∧
        MailOnly s t p) ∧
      ((s.hp p).stamped = true → portApplied s p = false → ∃ t : State, exec (.stampLeave p k) s = .next t ∧ Taken s t p k ∧
        t.fw = { s.fw with st := .run, leaveCmd := s.fw.leaveCmd ++ [(p, k)] } ∧ t.hp p = { s.hp p with leaving := true } ∧
        (∀ q : Port, q ≠ p → t.hp q = s.hp q) ∧ t.stamp = s.stamp ∧ t.home = s.home ∧ t.slices = s.slices ∧ t.mem = s.mem ∧ t.out = s.out)) ∧
    (s.fw.st = .run → (∀ q : Port, (s.hp q).link ≠ .downBusy) → (s.hp p).leaving = true → portApplied s p = true → s.fw.leaveCmd = [(p, k)] → s.stamp.group = g →
      spSorted none s.stamp.lists = true →
      ∃ (t : State) (o : List Out), exec (.stampLeaveComplete p) s = .next t ∧ Acked s t p k rcOK 0 ∧ t.fw = { s.fw with leaveCmd := [] } ∧
        t.hp p = { s.hp p with stamped := false, leaving := false, floor := 0, lastSt := [], msixLive := (t.hp p).msixLive } ∧
        t.home = s.home ∧ t.slices = s.slices ∧ t.mem = s.mem ∧
        ((∃ q : Port, q ≠ p ∧ (s.hp q).stamped = true) → t.stamp = s.stamp ∧ t.out = s.out ++ o) ∧
        ((∀ q : Port, q ≠ p → (s.hp q).stamped = false) → t.stamp.member = false ∧ t.stamp.group = 0 ∧ t.stamp.hzn = 0 ∧
          s.node.node ∉ (spGet {} t.stamp.lists g.toNat).next ∧
          t.out = s.out ++ (livePeers s.node s.fabric).map (fun x => .vc5 x (.memberUpdate g s.node.node false)) ++ o))

/-! ### Home relocation (R183 to R190) -/

/-- The home that gives a region away (R185 to R188): HOME_RELOCATE asks the target for a frame and waits; a frame granted begins the
first copy, one refused or not answered ends the command NORES or TIMEOUT. The first copy done, the lines leave, the generation rises, the
table names the new home, a stub is kept and every live member is told. With no transaction open the recall begins; with nothing owned the final copy
leaves, and with the new home's ready notice the command is answered OK with the generation, a guest frame freed. A stub ends with its last acknowledge.
The model's choices it rests on: logs 1, 6, 31, 81, 96, 97. -/
def Obligations.RegionIsGivenAway : Prop :=
  ∀ (s : State) (n : NodeId) (p k : Port) (x : Reloc) (y : Stub), s.clk = true → Sends s →
    (∀ (m t' : Member) (r : BitVec 10), Posted s p k 0x60 0 → memberOk s ((s.mb p).par k 0 2) = true → (s.mb p).par k 2 2 < 1024 →
      memberOk s ((s.mb p).par k 4 2) = true → m = BitVec.ofNat 12 ((s.mb p).par k 0 2) → r = BitVec.ofNat 10 ((s.mb p).par k 2 2) →
      t' = BitVec.ofNat 12 ((s.mb p).par k 4 2) → isLost s.node s.fabric (memNode s t') = false → t' ≠ self s →
      (homeNow s (regionLine s m r)).1 = s.node.node → s.home.relocs = [] → s.home.rtab = [] → s.home.stubs = [] → s.home.seats = [] →
      exec (.homeRelocate p k) s = .next { taken p k s with
        home := { s.home with relocs := [{ orig := m, region := r, gen := (homeNow s (regionLine s m r)).2, peer := t', giving := true
                                           phase := .idle, pk := some (p, k), marks := [] }] }
        out := s.out ++ [.vc5 (memNode s t') (.frameReq m r)] }) ∧
    (s.fw.st = .run → s.home.relocs = [x] → x.giving = true → x.pk = some (p, k) →
      (x.phase = .idle → x.peer = memOf n → exec (.frameReservationAnswer n x.orig x.region true) s = .next { gotVc5 n s with
          home := { s.home with relocs := [{ x with phase := .copy }] } }) ∧
      (x.phase = .idle → x.peer = memOf n → ∃ t : State, exec (.frameReservationAnswer n x.orig x.region false) s = .next t ∧ Acked s t p k rcNORES 0 ∧
        t.home = { s.home with relocs := [] } ∧ t.slices = s.slices ∧ t.mem = s.mem ∧ t.fw = s.fw ∧ SamePorts s t) ∧
      (x.phase = .idle → ∃ t : State, exec (.frameReservationTimeout x.orig x.region) s = .next t ∧ Acked s t p k rcTIMEOUT 0 ∧
        t.home = { s.home with relocs := [] } ∧ t.slices = s.slices ∧ t.mem = s.mem ∧ t.fw = s.fw ∧ SamePorts s t) ∧
      (∀ own : List Nat, Sound s → x.phase = .copy → x.orig = self s → x.gen = 0 → x.peer ≠ self s → s.home.rtab = [] → s.home.stubs = [] →
        s.home.moving = [] → s.home.unacked = [] →
        own = ((ownedLines s x.orig x.region).map (fun c => c.1 / 64)).filter (fun q => !x.marks.contains q) →
        exec (.relocationCopyDone x.orig x.region []) s = .next { s with
          home := { s.home with
            relocs := [{ x with phase := .switch_, gen := 1, marks := x.marks ++ own.dedup }]
            stubs := [⟨x.orig, x.region, 1, x.peer, s.node.node :: livePeers s.node s.fabric⟩]
            rtab := [⟨x.orig, x.region, 1, x.peer, [(1, x.orig)]⟩], moving := [⟨x.orig, x.region, 0, x.orig, []⟩]
            unacked := [⟨x.orig, x.region, 1, x.orig, []⟩] }
          out := s.out ++ .vc5 (memNode s x.peer) (.copyRegion x.orig x.region (regionLines x.orig x.region (fun _ => true) s).1) ::
            (livePeers s.node s.fabric).map (fun n => .vc5 n (.relocNotice x.orig x.region 1 x.peer)) }) ∧
      (x.phase = .switch_ → Sound s → regionBusy s x.orig x.region = false → ownedLines s x.orig x.region = [] →
        exec (.relocationDrainDone x.orig x.region) s = .next { s with home := { s.home with relocs := [{ x with phase := .recall }] } }) ∧
      (∀ (f : Nat) (c : DirRec) (o : Member), x.phase = .switch_ → s.home.tt = [] → ownedLines s x.orig x.region = [(f, c)] → c.owner = some o →
        isLost s.node s.fabric (nodeOf (domOf s.node.node) o) = false → Sound s → ∃ (t : State) (b : BMsg) (z : HTxn),
        exec (.relocationDrainDone x.orig x.region) s = .next t ∧ t.out = s.out ++ [.msg .probe b] ∧ b.laddr = lineOfFrame s f ∧ b.keep = false ∧
          b.dst = nodeOf (domOf s.node.node) o ∧ t.home.tt = [z] ∧ z.probeOf = some o ∧ z.after = c.remove o ∧ t.home.relocs = [{ x with phase := .recall }] ∧
          t.slices = s.slices ∧ t.mem = s.mem) ∧
      (x.phase = .switch_ → regionBusy s x.orig x.region = true → exec (.relocationDrainDone x.orig x.region) s = .next s) ∧
      (x.phase = .recall → Sound s → regionBusy s x.orig x.region = false → ownedLines s x.orig x.region = [] →
        exec (.relocationFinalCopyDone x.orig x.region []) s = .next { s with
          home := { s.home with relocs := [{ x with phase := .finalCopy }] }
          out := s.out ++ [.vc5 (memNode s x.peer) (.copyRegion x.orig x.region
            (regionLines x.orig x.region (fun f => x.marks.contains (f / 64)) s).1)] }) ∧
      (x.phase = .finalCopy → copying s = false → memNode s x.peer = n → x.gen = (homeNow s (regionLine s x.orig x.region)).2 → s.home.unacked = [] →
        (∀ z ∈ s.home.stubs, z.await ≠ []) → ∃ t : State, exec (.readyNotice n x.orig x.region x.gen) s = .next t ∧
        Acked s t p k rcOK (x.gen.setWidth 16) ∧ t.home.relocs = [] ∧ t.home.stubs = s.home.stubs ∧ t.home.rtab = s.home.rtab ∧ t.home.tt = s.home.tt ∧
        t.home.moving = s.home.moving.filter (fun e => !(decide (e.orig = x.orig) && decide (e.region = x.region))) ∧
        t.home.frames = (if x.orig = self s then s.home.frames else s.home.frames.map (fun f => if f = some (x.orig, x.region) then none else f)) ∧
        (∀ f : Nat, ddrGet t f = if x.orig ≠ self s ∧ f / 2 ^ 24 = frameNo s x.orig x.region then {} else ddrGet s f) ∧
        t.slices = s.slices ∧ t.fw = s.fw ∧ SamePorts s t)) ∧
    (s.fw.st = .run → s.home.relocs = [] → s.home.stubs = [y] →
      (y.await.filter (fun q => decide (q ≠ n)) ≠ [] → exec (.relocationAck n y.orig y.region y.gen) s = .next { gotVc5 n s with
        home := { s.home with stubs := [{ y with await := y.await.filter (fun q => decide (q ≠ n)) }] } }) ∧
      (∀ (e : RTab) (u : List (BitVec 8 × Member)), y.await = [n] → s.home.rtab = [e] → e.orig = y.orig → e.region = y.region →
        u = e.unack.filter (fun c => decide (c.1 ≠ y.gen)) → exec (.relocationAck n y.orig y.region y.gen) s = .next { gotVc5 n s with
        home := { s.home with stubs := [], rtab := if u ≠ e.unack ∧ u = [] ∧ e.home = e.orig then [] else [{ e with unack := u }] }
        out := s.out ++ (livePeers s.node s.fabric).map (fun q => .vc5 q (.stubRelease y.orig y.region y.gen)) }))

/-- The home that receives a region, and the other members (R183, R186, R187, R190): a member reserves a frame, cleared, and grants it, or
refuses with none free; copied lines are written into the frame; the final copy ends the reception and the ready notice leaves. A notice changes the
table, and is acknowledged to the old home, to which Puts go until the ready notice; one overtaken by a newer generation is counted and acknowledged,
and one that takes a region back counts none; a ready notice that comes first names the new home; a released stub takes its generation from what the
entry counts. Notices that come while the table is copied wait for the end of the copy. A table
query is answered with the table, and an asking member takes over the table of a live member that had not lost its own.
The model's choices it rests on: logs 1, 31, 65, 80, 97. -/
def Obligations.RegionIsReceived : Prop :=
  ∀ (s : State) (n : NodeId) (m : Member) (r : BitVec 10) (gen : BitVec 8), s.clk = true → s.fw.st = .run → Sends s → s.good →
    (∀ fs : List (Option (Member × BitVec 10)), m ≠ self s → fs = (List.range s.node.guests).map (fun g => s.home.frames.getD g none) →
      fs.findIdx? (fun f => decide (f = some (m, r))) = none →
      (fs.findIdx? (fun f => f.isNone) = none →
        exec (.frameReservationRequest n m r) s = .next { gotVc5 n s with out := s.out ++ [.vc5 n (.frameAns m r false)] }) ∧
      (∀ g : Nat, fs.findIdx? (fun f => f.isNone) = some g → ∃ t : State, exec (.frameReservationRequest n m r) s = .next t ∧
        t.out = s.out ++ [.vc5 n (.frameAns m r true)] ∧ t.home.frames = fs.set g (some (m, r)) ∧ t.home.relocs.any (fun x =>
          decide (x.orig = m) && decide (x.region = r) && !x.giving && decide (x.phase = .receiving) && decide (x.peer = memOf n)) = true ∧
        t.home.tt = s.home.tt ∧ t.slices = s.slices ∧ t.hports = s.hports ∧
        (∀ f : Nat, ddrGet t f = if f / 2 ^ 24 = frameNo t m r then {} else ddrGet s f))) ∧
    (m = self s → ∃ t : State, exec (.frameReservationRequest n m r) s = .next t ∧ t.out = s.out ++ [.vc5 n (.frameAns m r true)] ∧
      t.home.frames = s.home.frames ∧ t.home.relocs.any (fun x => decide (x.orig = m) && decide (x.region = r) && !x.giving &&
        decide (x.phase = .receiving) && decide (x.peer = memOf n)) = true ∧ t.home.tt = s.home.tt ∧ t.slices = s.slices ∧ t.hports = s.hports ∧
      (∀ f : Nat, ddrGet t f = if f / 2 ^ 24 = frameNo s m r then {} else ddrGet s f)) ∧
    (∀ (x : Reloc) (copied : List RegLine), s.home.relocs = [x] → x.giving = false → x.orig = m → x.region = r →
      copied.Pairwise (fun a b => a.idx ≠ b.idx) →
      (∃ t : State, exec (.relocationCopyDone m r copied) s = .next t ∧ t.home.relocs = [x] ∧ t.home.tt = s.home.tt ∧ t.slices = s.slices ∧
        t.out = s.out ∧ (∀ l ∈ copied, ddrGet t (frameNo s m r * 2 ^ 24 + l.idx.toNat) = ⟨l.data, l.word⟩) ∧
        (∀ f : Nat, (∀ l ∈ copied, f ≠ frameNo s m r * 2 ^ 24 + l.idx.toNat) → ddrGet t f = ddrGet s f)) ∧
      (s.home.unacked = [] → ∃ t : State, exec (.relocationFinalCopyDone m r copied) s = .next t ∧ t.home.relocs = [] ∧ t.home.tt = s.home.tt ∧
        t.slices = s.slices ∧ t.home.moving = s.home.moving.filter (fun e => !(decide (e.orig = m) && decide (e.region = r))) ∧
        t.out = s.out ++ (livePeers s.node s.fabric).map (fun q => .vc5 q (.ready m r (homeNow s (regionLine s m r)).2)) ∧
        (∀ l ∈ copied, ddrGet t (frameNo s m r * 2 ^ 24 + l.idx.toNat) = ⟨l.data, l.word⟩) ∧
        (∀ f : Nat, (∀ l ∈ copied, f ≠ frameNo s m r * 2 ^ 24 + l.idx.toNat) → ddrGet t f = ddrGet s f))) ∧
    (copying s = true → ∀ home : Member,
      exec (.relocationNotice n m r gen home) s = .next { gotVc5 n s with home := { s.home with notices := s.home.notices ++ [.moved n m r gen home] } } ∧
      exec (.readyNotice n m r gen) s = .next { gotVc5 n s with home := { s.home with notices := s.home.notices ++ [.ready n m r gen] } } ∧
      exec (.stubRelease m r gen) s = .next { s with home := { s.home with notices := s.home.notices ++ [.release m r gen] } }) ∧
    (∀ home : Member, copying s = false → s.home.rtab = [] → s.home.moving = [] → s.home.unacked = [] → home ≠ memOf n → newerGen 0 gen = true →
      exec (.relocationNotice n m r gen home) s = .next { gotVc5 n s with home := { s.home with
        rtab := [⟨m, r, gen, home, [(gen, memOf n)]⟩], moving := [⟨m, r, 0, memOf n, []⟩], unacked := [⟨m, r, gen, memOf n, []⟩] } }) ∧
    (∀ (home : Member) (e : RTab), copying s = false → s.home.rtab = [e] → e.orig = m → e.region = r → s.home.moving = [] → s.home.unacked = [] →
      (home = memOf n → newerGen e.gen gen = true → exec (.relocationNotice n m r gen home) s = .next { gotVc5 n s with home := { s.home with
        rtab := [{ e with gen := gen, home := home }] } }) ∧
      (home = memOf n → newerGen e.gen gen = false → exec (.relocationNotice n m r gen home) s = .next (gotVc5 n s)) ∧
      (home ≠ memOf n → newerGen e.gen gen = false → NoWork s → exec (.relocationNotice n m r gen home) s = .next { gotVc5 n s with
        home := { s.home with rtab := [{ e with unack := if e.unack.contains (gen, memOf n) then e.unack else e.unack ++ [(gen, memOf n)] }] }
        out := s.out ++ [.vc5 (memNode s (memOf n)) (.relocAck m r gen)] })) ∧
    (∀ old : Member, copying s = false → NoWork s → s.home.relocs = [] → s.home.moving = [⟨m, r, 0, old, []⟩] → s.home.unacked = [⟨m, r, gen, old, []⟩] →
      (homeNow s (regionLine s m r)).2 = gen → exec (.readyNotice n m r gen) s = .next { gotVc5 n s with
        home := { s.home with moving := [], unacked := [] }
        out := s.out ++ [.vc5 (memNode s old) (.relocAck m r gen)] }) ∧
    (copying s = false → s.home.relocs = [] → s.home.unacked = [] → newerGen (homeNow s (regionLine s m r)).2 gen = false →
      exec (.readyNotice n m r gen) s = .next { gotVc5 n s with home := { s.home with
        moving := if (homeNow s (regionLine s m r)).2 = gen then s.home.moving.filter (fun e => !(decide (e.orig = m) && decide (e.region = r)))
          else s.home.moving } }) ∧
    (copying s = false → s.home.relocs = [] → s.home.unacked = [] → s.home.rtab = [] → newerGen 0 gen = true →
      exec (.readyNotice n m r gen) s = .next { gotVc5 n s with home := { s.home with
        rtab := [⟨m, r, gen, memOf n, []⟩]
        moving := s.home.moving.filter (fun e => !(decide (e.orig = m) && decide (e.region = r))) } }) ∧
    (∀ (e : RTab) (u : List (BitVec 8 × Member)), copying s = false → s.home.rtab = [e] → e.orig = m → e.region = r →
      u = e.unack.filter (fun c => decide (c.1 ≠ gen)) → exec (.stubRelease m r gen) s = .next { s with home := { s.home with
      rtab := if u ≠ e.unack ∧ u = [] ∧ e.home = e.orig then [] else [{ e with unack := u }] } }) ∧
    exec (.relocationTableQuery n) s = .next { gotVc5 n s with out := s.out ++ [.vc5 n (.tableAnswer
      { member := self s, table := s.home.rtab, dead := declared s, cleared := s.fw.coldClr && !s.fw.tabDone })] } ∧
    (∀ a : TabAnswer, s.fw.tabTry = true → s.fw.tabDone = false → s.home.notices = [] → a.dead = [] → s.home.rtab = [] → isLost s.node s.fabric (memNode s a.member) = false →
      (a.cleared = false → exec (.relocationTableAnswer [a]) s = .next { s with
        fw := { s.fw with tabDone := true }, home := { s.home with rtab := a.table } }) ∧
      (a.cleared = true → livePeers s.node s.fabric = [memNode s a.member] → exec (.relocationTableAnswer [a]) s = .next { s with
        fw := { s.fw with tabDone := true } })) ∧
    (s.fw.tabDone = true → exec .relocationTableRetry s = .next s) ∧
    (s.fw.tabDone = false → exec .relocationTableRetry s = .next { s with
      fw := { s.fw with tabTry := true }
      out := s.out ++ (((members s.node).map (memNode s)).filter (fun q => decide (q ≠ s.node.node))).map (fun q => .vc5 q .tableQuery) })

/-! ### Integrity and the background fill (R338 to R365, R416) -/

/-- The patrol scrub: a clean place read leaves everything as it is but for the place the pass has reached; the last one ends the pass, or begins the
next where the pass was late; with EN off or its pass done a memory is not read. A correctable DDR5 line is counted, entered in the history and
rewritten, its data kept. A period ends: an unfinished pass is counted late; the rows of its memory age, the others
stay; HBM's counts of corrections per way begin anew (R338, R339, R344, R345, R347). A live repair ends applied, its spare in force, or exhausted
(R351). One unit leaks (R360).
The background fill completes blocks in order and serves its slots first; FILL's count in the AON domain follows it, and the last
block completes the fill (R361 to R364, R423). The oldest write held for a fill takes a slot that is free.
The model's choices it rests on: logs 1, 12, 27, 47, 48, 49, 109, 110. -/
def Obligations.PatrolRepairAndFillAdvance : Prop :=
  (∀ (s : State) (x : Integ), s.clk = true → s.good → s.home.tt = [] → s.home.sweeps = [] → x = s.integ →
    (∀ f : Nat, Sound s → scrubOn x true = true → x.passDdr = false → s.mem.size ≠ 0 → ddrNext s x.posDdr = some f →
      exec (.patrolScrubRead true []) s = .next { s with integ := if (ddrNext s (f + 1)).isSome then { x with posDdr := f + 1 }
        else { x with posDdr := 0, passDdr := !x.lateDdr, lateDdr := false } }) ∧
    (∀ (i : SliceNo) (set slot n : Nat), Sound s → scrubOn x false = true → x.passHbm = false → hbmNext s x.posHbm = some (i, set, slot) →
      (∀ j : SliceNo, (s.sl j).tsFlaw = [] ∧ (s.sl j).slotFlaw = [] ∧
        (s.sl j).shadow.all (fun c => c.2.ents.toList.all (fun e => !e.bad)) = true) → n = hbmKey i set slot + 1 →
      exec (.patrolScrubRead false []) s = .next { s with integ := if (hbmNext s n).isSome then { x with posHbm := n }
        else { x with posHbm := 0, passHbm := !x.lateHbm, lateHbm := false } }) ∧
    (∀ ddr : Bool, scrubOn x ddr = false ∨ (if ddr then x.passDdr else x.passHbm) = true → exec (.patrolScrubRead ddr []) s = .next s) ∧
    (∀ (f : Nat) (syn : BitVec 16) (e : Flaw), fld s.dbg.pmuCtl 0 8 = 0 → scrubOn x true = true → x.passDdr = false → s.mem.size ≠ 0 →
      ddrNext s x.posDdr = some f → f < 2 ^ 34 → s.home.frames = [] → s.mem.ddrFlaw = [(f, e)] → inDram s f = true → lineCode e.errs = .corr syn →
      x.hist = [] → ∃ (t : State) (r : HistRow), exec (.patrolScrubRead true []) s = .next t ∧
        t.integ.dcor = x.dcor + 1 ∧ t.integ.hist = [(0, r)] ∧ r.ddr = true ∧ r.loc = ddrRow s f ∧ r.line = ddrRowLine s.mem.eight (BitVec.ofNat 34 f) ∧
        r.syn = syn ∧ r.count = 1 ∧ (f, ddrGet s f) ∈ t.mem.wq ∧ ddrCond t f = .clean ∧ (∀ g : Nat, ddrGet t g = ddrGet s g) ∧
        t.slices = s.slices ∧ t.home = s.home ∧ SamePorts s t) ∧
    (∀ ddr done : Bool, done = (if ddr then s.integ.passDdr else s.integ.passHbm) → ∃ t : State, exec (.patrolPeriodEnd ddr) s = .next t ∧
      t.integ = { s.integ with
        hist := t.integ.hist, ovf := false, ovfPosted := false
        passDdr := if ddr then false else s.integ.passDdr
        passHbm := if ddr then s.integ.passHbm else false
        lateDdr := if ddr && !done then true else s.integ.lateDdr
        lateHbm := if !ddr && !done then true else s.integ.lateHbm
        scrubLate := if done then s.integ.scrubLate else s.integ.scrubLate + 1 } ∧
      (∀ c : Nat × HistRow, c ∈ t.integ.hist ↔ ∃ r : HistRow, (c.1, r) ∈ s.integ.rows ∧ (if r.ddr = ddr then r.aged = some c.2 else r = c.2)) ∧
      (∀ i : SliceNo, t.sl i = if ddr then s.sl i else { s.sl i with corCnt := [] }) ∧ t.home = s.home ∧ t.mem = s.mem ∧ SamePorts s t) ∧
    (∀ (l : RepLoc) (ok : Bool), s.integ.live = some l → ∃ t : State, exec (.liveRepairDone ok) s = .next t ∧ t.integ.live = none ∧
      t.integ.repMap = s.integ.repMap.map (fun e => if e.loc = l then { e with st := if ok then .applied else .exhausted } else e) ∧
      t.integ.repairs = (if ok then s.integ.repairs + 1 else s.integ.repairs) ∧
      t.integ.inForce = (if ok ∧ l ∉ s.integ.inForce then s.integ.inForce ++ [l] else s.integ.inForce) ∧ (ok = false → t.integ.hist = s.integ.hist) ∧
      (ok = false ∨ (s.mem.ddrFlaw = [] ∧ ∀ i : SliceNo, (s.sl i).slotFlaw = [] ∧ (s.sl i).tsFlaw = []) →
        t.slices = s.slices ∧ t.home = s.home ∧ t.mem = s.mem ∧ SamePorts s t)) ∧
    (s.integ.lbEn = true → s.integ.level ≠ 0 → exec .leak s = .next { s with integ := { s.integ with
      level := s.integ.level - 1
      overThr := s.integ.overThr && decide (s.integ.lbThr / 2 < (s.integ.level - 1).toNat) } }) ∧
    (s.integ.lbEn = false ∨ s.integ.level = 0 → exec .leak s = .next s)) ∧
  (∀ (s : State) (b f : Nat) (d : DLine) (v w : List (Nat × DLine)) (l : List Nat) (rest : List (Nat × List Nat)), s.clk = true →
    (s.mem.fill1g = true → s.mem.filled = false → s.mem.fillSlots = [] → s.mem.fillMap = [] → s.mem.fillBlk = b → b < ddrBlocks s →
      exec .backgroundFillBlock s = .next { s with
        mem := { s.mem with fillBlk := b + 1, filled := decide (ddrBlocks s = b + 1) }
        aon := { s.aon with fillBlk := BitVec.ofNat 20 (b + 1) } }) ∧
    (s.mem.fillSlots ≠ [] → exec .backgroundFillBlock s = .next s) ∧
    (s.mem.fillSlots = (b, l) :: rest → s.mem.fillMap = [] → b < 2 ^ 20 → s.mem.fillBlk < b → s.mem.fillBlk < ddrBlocks s →
      s.aon.fillBlk = BitVec.ofNat 20 s.mem.fillBlk → exec (.fillSlotDone (BitVec.ofNat 20 b)) s = .next { s with
        mem := { s.mem with fillMap := [b], fillSlots := rest } }) ∧
    (s.mem.wq = v ++ (f, d) :: w → (∀ c ∈ v, s.mem.open_ c.1 = true) → s.mem.open_ f = false → exec .heldWriteRelease s = .next { s with
      mem := { s.mem with fillSlots := if s.mem.fillSlots.length < 16 then s.mem.fillSlots ++ [(blockOf f, [])] else s.mem.fillSlots } }) ∧
    ((∀ c ∈ s.mem.wq, s.mem.open_ c.1 = true) → exec .heldWriteRelease s = .next s))

/-- The voter check leaves every register with voted fields agreeing in its copies and reading as before, and counts each copy it
rewrites (R416).
The model's choices it rests on: log 50. -/
def Obligations.VoterCheckRepairsEveryRegister : Prop :=
  ∀ s : State, s.clk = true → ∃ t : State, exec .voteCheck s = .next t ∧ (∀ c ∈ t.vregs, c.2.split c.1 = false) ∧
    t.vregs.map (fun c => c.2.get c.1) = s.vregs.map (fun c => c.2.get c.1) ∧
    t.gen = { s.gen with voteFix := s.gen.voteFix + BitVec.ofNat 64 ((s.vregs.map (fun c => c.2.minority c.1)).foldl (· + ·) 0) } ∧
    t.mem = s.mem ∧ t.fw = s.fw ∧ t.out = s.out ∧ t.pending = s.pending ∧ t.node = s.node ∧ t.fabric = s.fabric ∧ t.mbx = s.mbx ∧ t.evq = s.evq

/-! ### The mailbox commands (R380 to R394, R486) -/

/-- The commands answered at their take (R385, R392, R394): PING its argument, REGION_GET the home, generation and policy of a region,
PEAT_READ records from the first one chosen, ERRLOG_READ rows of the history, NODE_STATUS what the device knows of a node, FW_INFO
version, build and description. An unknown opcode is BADARG. The acknowledge is posted as CMD_DONE to the port's queue.
The model's choices it rests on: log 1. -/
def Obligations.CommandsAreAnsweredAtTheTake : Prop :=
  ∀ (s : State) (p k : Port) (opc : Byte) (arg : BitVec 16), Posted s p k opc arg → spSorted none (s.mb p).param = true →
    (opc = 0x01 → ∃ t : State, exec (.ping p k) s = .next t ∧ Finished s t p k rcOK arg ∧ t.fw = { s.fw with st := .run } ∧ MailOnly s t p ∧
      (bit (s.eq p).filter 0 = true → 2 ≤ evqFree (s.eq p) → (t.eq p).wr = (s.eq p).wr + 2 ∧
        spGet 0 (t.eq p).ring (((s.eq p).wr + 1).toNat % 4096) = (fld ((s.mb p).at k).inW 16 8 ++ rcOK ++ arg) ++ BitVec.ofNat 32 k.val)) ∧
    (opcodes.contains opc = false → ∃ t : State, exec (.ping p k) s = .next t ∧ Finished s t p k rcBADARG 0 ∧ MailOnly s t p) ∧
    (∀ (m : Member) (r : BitVec 10) (e : RTab), opc = 0x11 → fld arg 10 6 = 0 → memberOk s ((s.mb p).par k 0 2) = true →
      m = BitVec.ofNat 12 ((s.mb p).par k 0 2) → r = fld arg 0 10 → e = (rtabOf s m r).getD ⟨m, r, 0, m, []⟩ → e.unack.length < 256 → ∃ t : State,
      exec (.regionGet p k) s = .next t ∧ Finished s t p k rcOK (e.gen ++ (if isWt s (regionLine s m r) then (1 : Byte) else 0)) ∧ MailOnly s t p ∧
        (t.mb p).par k 0x10 2 = e.home.toNat ∧ (t.mb p).par k 0x12 1 = e.gen.toNat ∧ (t.mb p).par k 0x13 1 = e.unack.length) ∧
    (∀ cnt : Nat, opc = 0x70 → fld arg 3 13 = 0 → cnt = (fld arg 0 3).toNat → cnt ≠ 0 →
      (s.peat.first (BitVec.ofNat 32 ((s.mb p).par k 0 4)) = none → ∃ t : State, exec (.peatRead p k) s = .next t ∧ Finished s t p k rcOK 0 ∧
        MailOnly s t p ∧ (t.mb p).par k 0x04 4 = s.peat.oldest.toNat ∧ (t.mb p).par k 0x08 4 = s.peat.next.toNat) ∧
      (∀ (f : W32) (n : Nat), s.peat.first (BitVec.ofNat 32 ((s.mb p).par k 0 4)) = some f → n = min cnt (s.peat.next - f).toNat →
        ∃ t : State, exec (.peatRead p k) s = .next t ∧ Finished s t p k rcOK (BitVec.ofNat 16 n) ∧ MailOnly s t p ∧
        (∀ i : Nat, i < n → (t.mb p).par k (0x40 + 64 * i) 64 = (s.peat.recAt (f + BitVec.ofNat 32 i)).toNat))) ∧
    (∀ a n : Nat, opc = 0x71 → a = (fld arg 0 10).toNat → n = min (fld arg 10 6).toNat (1024 - a) → fld arg 10 6 ≠ 0 → (fld arg 10 6).toNat ≤ 56 →
      ∃ t : State, exec (.errlogRead p k) s = .next t ∧ Finished s t p k rcOK (BitVec.ofNat 16 n) ∧
        t.integ = { s.integ with hist := s.integ.rows } ∧ t.slices = s.slices ∧ t.home = s.home ∧ t.mem = s.mem ∧ SamePorts s t ∧
        (∀ i : Nat, i < n → (t.mb p).par k (0x40 + 8 * i) 8 = match s.integ.rows.find? (fun c => decide (c.1 = a + i)) with
          | some c => (packHist c.2).toNat
          | none => 0)) ∧
    (∀ (n : NodeId) (d : NodeSt), opc = 0x80 → arg = 0 → (s.mb p).par k 0 4 = n.toNat → d = spGet {} s.fabric.live n.toNat → ∃ t : State,
      exec (.nodeStatus p k) s = .next t ∧ MailOnly s t p ∧ Finished s t p k rcOK (BitVec.ofNat 16 (
        (if inTorus s.node n = false then 3 else if isDead s.fabric n then 1 else if isCut s.node s.fabric n then 2 else 0) +
        (if d.purge then 4 else 0) + (if d.pass then 8 else 0)))) ∧
    (opc = 0xF0 → arg = 0 → ∃ t : State, exec (.fwInfo p k) s = .next t ∧ Finished s t p k rcOK Config.fwVersion ∧ MailOnly s t p ∧
      (t.mb p).par k 0x00 4 = Config.fwBuild.toNat ∧ (t.mb p).par k 0x04 4 = s.node.desc.ident.toNat)

/-- The commands that start a walk (R50 to R56, R93, R392 to R394): a range out of form is BADARG, a second walk BUSY; FLUSH_RANGE, INVAL_RANGE and
CLEAN_ALL start their walk in every slice and run; WAYLOCK writes the locks of every slice, or none, and with LOAD asks the home for the
line of its range; WAYGROUP_POWER down starts the eviction of the group, up the return of its ways.
The model's choices it rests on: logs 1, 6, 41. -/
def Obligations.WalkCommandsStart : Prop :=
  ∀ (s : State) (p k : Port) (opc : Byte) (arg : BitVec 16), Posted s p k opc arg →
    (∀ (c : Instr) (kind : WalkKind) (r : Option (Nat × Nat)),
      (opc = 0x20 ∧ c = .flushRange p k ∧ kind = .flush ∧ r = rangeOf s p k) ∨ (opc = 0x21 ∧ c = .invalRange p k ∧ kind = .inval ∧ r = rangeOf s p k) ∨
        (opc = 0x22 ∧ c = .cleanAll p k ∧ kind = .clean ∧ r = some (0, 2 ^ 58)) →
      (r = none ∨ arg ≠ 0 → ∃ t : State, exec c s = .next t ∧ Finished s t p k rcBADARG 0 ∧ t.fw = { s.fw with st := .run } ∧ MailOnly s t p) ∧
      (r ≠ none → arg = 0 → s.fw.walk ≠ none → ∃ t : State, exec c s = .next t ∧ Finished s t p k rcBUSY 0 ∧ t.fw = { s.fw with st := .run } ∧
        MailOnly s t p) ∧
      (∀ a b : Nat, r = some (a, b) → arg = 0 → s.fw.walk = none → NothingCached s → (∀ i : SliceNo, (s.sl i).shadow = []) →
        ∃ (t : State) (w : WalkCmd), exec c s = .next t ∧ Taken s t p k ∧ t.fw = { s.fw with st := .run, walk := some w } ∧
          w.pk = some (p, k) ∧ w.opc = opc ∧ w.first = a ∧ w.last = b ∧ (∀ i : SliceNo, t.sl i = { s.sl i with walks := [⟨kind, 0⟩] }) ∧
          t.hports = s.hports ∧ t.home = s.home ∧ t.mem = s.mem ∧ t.out = s.out)) ∧
    (∀ m : BitVec 15, opc = 0x30 → bit arg 15 = false → m = fld arg 0 15 →
      ((∃ i : SliceNo, lockBad s (s.sl i) m = true) → ∃ t : State, exec (.waylock p k) s = .next t ∧ Finished s t p k rcBADARG 0 ∧ MailOnly s t p) ∧
      ((∀ i : SliceNo, lockBad s (s.sl i) m = false) → ∃ t : State, exec (.waylock p k) s = .next t ∧ Finished s t p k rcOK 0 ∧
        (∀ i : SliceNo, t.sl i = { s.sl i with wayLock := .mk1 (m.setWidth 32) } ∧ (t.sl i).lock = m) ∧ t.home = s.home ∧ t.mem = s.mem ∧ SamePorts s t)) ∧
    (∀ (m : BitVec 15) (l : LAddr) (v : Nat), opc = 0x30 → bit arg 15 = true → m = fld arg 0 15 → rangeOf s p k = some (l.toNat * 64, l.toNat * 64 + 64) →
      (∀ i : SliceNo, lockBad s (s.sl i) m = false) → s.fw.walk = none → NothingCached s → (s.sl (sliceOf l)).shadow = [] →
      (s.sl (sliceOf l)).enabled = true → isFar s l = false → inTorus s.node (lineHome l) = true → homeLost s l = false → s.arb.walkHold = false →
      Sends s → fld s.dbg.pmuCtl 0 8 = 0 → lockTarget ((s.sl (sliceOf l)).setLock m) (setOf l).toNat = some v → ∃ (t : State) (w : WalkCmd) (b : BMsg) (y : STxn),
      exec (.waylockLoad p k) s = .next t ∧ Taken s t p k ∧ t.fw.walk = some w ∧ w.opc = 0x30 ∧ w.todo = [] ∧ w.asked = [l] ∧
        t.out = s.out ++ [.msg .rdS b] ∧ b.laddr = l ∧ (∀ i : SliceNo, (t.sl i).lock = m) ∧ (t.sl (sliceOf l)).stt = [y] ∧ y.lockFill = true ∧
        ((t.sl (sliceOf l)).word (setOf l).toNat v).st = .P ∧ t.home = s.home ∧ t.mem = s.mem ∧ t.hports = s.hports) ∧
    (∀ (g : Nat) (up : Bool) (c : Instr), opc = 0x31 → bit arg 8 = up → g = (fld arg 0 2).toNat → g ≠ 0 → fld arg 2 6 = 0 → fld arg 9 7 = 0 →
      c = (if up then .waygroupPowerUp p k else .waygroupPowerDown p k) → s.fw.walk = none →
      (groupIsOff s g = !up → ∃ t : State, exec c s = .next t ∧ Finished s t p k rcOK 0 ∧ t.fw = { s.fw with st := .run } ∧ MailOnly s t p) ∧
      (groupIsOff s g = false → up = false → groupDenied s g = true → ∃ t : State, exec c s = .next t ∧ Finished s t p k rcDENIED 0 ∧ MailOnly s t p) ∧
      (groupIsOff s g = up → (up = false → groupDenied s g = false) → NothingCached s → ∃ (t : State) (w : WalkCmd),
        exec c s = .next t ∧ Taken s t p k ∧ t.fw = { s.fw with st := .run, walk := some w } ∧ w.opc = 0x31 ∧ w.first = g ∧
        w.last = (if up then 1 else 0) ∧ w.pk = some (p, k) ∧ (∀ i : SliceNo, t.sl i = (if up then s.sl i else
          { s.sl i with wgDown := setBit (s.sl i).wgDown (g - 1) true, walks := [⟨.powerDown g, 0⟩] })) ∧
        t.hports = s.hports ∧ t.home = s.home ∧ t.mem = s.mem ∧ t.out = s.out))

/-- The states of the firmware (R381, R382, R389, R390, R518): it idles with no command posted or running; a fault restarts it, every
running command FAULT, the waiting notices lost; a second fault leaves it stopped, and the watchdog then stops the device; back in RUN it posts
FW_RESTARTED, with the notices lost, on every port. WARM_ANNOUNCE is posted on every port. The acknowledge of a notice frees its mailbox, and any write
of one wakes the firmware.
The model's choices it rests on: logs 46, 57. -/
def Obligations.FirmwareChangesState : Prop :=
  ∀ s : State, s.clk = true →
    (s.fw.st = .run → exec .fwIdle s = .next (if s.mbx.toList.all (fun m => m.box.toList.all (fun x => !x.busy)) then
      { s with fw := { s.fw with st := .idle } } else s)) ∧
    (∀ exc again : Bool, s.fw.st = .run ∨ s.fw.st = .idle →
      (again = true → ∃ t : State, exec (.fwRestart exc again) s = .next t ∧ t.fw = { s.fw with st := .stopped } ∧ t.slices = s.slices ∧
        t.home = s.home ∧ t.mem = s.mem ∧ t.mbx = s.mbx ∧ SamePorts s t) ∧
      (again = false → s.fw.walk = none → ∃ t : State, exec (.fwRestart exc again) s = .next t ∧ t.fw.st = .restart ∧
        t.fw.lost = (ports.map (fun p => (s.mb p).backlog.length)).foldl (· + ·) 0 ∧
        (∀ p k : Port, Acked s t p k rcFAULT 0 ∧ ((t.mb p).at k).outFull = ((s.mb p).at k).outFull ∧ (t.mb p).backlog = []) ∧
        keyOpen t 4 = false ∧ t.home = { s.home with relocs := s.home.relocs.map (fun x => { x with pk := none }) } ∧
        t.slices = s.slices ∧ t.mem = s.mem)) ∧
    (s.fw.st = .restart → s.fabric.ring = [] → (∀ p : Port, (s.mb p).backlog = [] ∧ ((s.mb p).at 0).outFull = false) → ∃ t : State,
      exec .fwRestartComplete s = .next t ∧ t.fw = { s.fw with st := .run, lost := 0 } ∧ (∀ p : Port, ((t.mb p).at 0).outFull = true ∧
        ((t.mb p).at 0).outW = (0xA4 : Byte) ++ (s.mb p).seq ++ BitVec.ofNat 16 (min (s.fw.lost + (s.mb p).dropped) 0xFFFF) ∧ (t.mb p).dropped = 0) ∧
      t.slices = s.slices ∧ t.home = s.home ∧ t.mem = s.mem ∧ SamePorts s t) ∧
    (∀ (b : SmbHdr) (ms : BitVec 16), s.aon.up = true → b.addr = 0x58 + s.aon.smbAd.setWidth 7 → b.pec = true → s.fw.st = .run → (∀ p : Port, (s.mb p).backlog = [] ∧ ((s.mb p).at 0).outFull = false) → ∃ t : State,
      exec (.warmAnnounce b ms) s = .next t ∧ t.fw = s.fw ∧ (∀ p : Port, ((t.mb p).at 0).outFull = true ∧
        ((t.mb p).at 0).outW = (0xA0 : Byte) ++ (s.mb p).seq ++ ms) ∧ t.slices = s.slices ∧ t.home = s.home ∧ t.mem = s.mem ∧ SamePorts s t) ∧
    (s.fw.st = .stopped → s.fabric.selfDead = false → bit (s.dbg.frzCtl.get 0xE) 2 = false → ∃ t : State, exec .watchdog s = .next t ∧ StoppedBy t 5) ∧
    (s.fw.st ≠ .stopped → exec .watchdog s = .next s) ∧
    (∀ (p k : Port) (w : RWr) (late : Bool), Software s p w → ((s.mb p).at k).outFull = true →
      (fld w.val 24 8 ≠ fld ((s.mb p).at k).outW 16 8 → exec (.mbxOutack p k w late) s = .next (wroteBy p w
        { s with fw := { s.fw with st := if s.fwUp then .run else s.fw.st } })) ∧
      (fld w.val 24 8 = fld ((s.mb p).at k).outW 16 8 → (s.mb p).backlog = [] → ∃ t : State, exec (.mbxOutack p k w late) s = .next t ∧
        (t.mb p).at k = { (s.mb p).at k with outFull := false, outAck := w.val } ∧ (∀ j : Port, j ≠ k → (t.mb p).at j = (s.mb p).at j) ∧
        t.fw = { s.fw with st := if s.fwUp then .run else s.fw.st } ∧
        (∀ q : Port, q ≠ p → t.mb q = s.mb q) ∧ t.slices = s.slices ∧ t.home = s.home ∧ t.mem = s.mem ∧ SamePorts s t))

/-! ### The register window (R395 to R447) -/

/-- The key, the semaphores, register reads and writes in general (R221, R290, R411, R414, R415, R417 to R420, R426, R427): KEY opens the
writer's key and any other value closes it, as its time does; a semaphore read while free is taken, and the holder's write of 0 frees
it; a read of a 64-bit value takes both halves at once, one of its low word leaves the high word for the next read; a write closes the key; an access out of form
is recorded and answered ERR; a keyed register does not change without the key, and the write is counted and posted. Behind a BAR.DONE of the
port an access waits at the port (R221).
The model's choices it rests on: logs 1, 51, 52, 93. -/
def Obligations.RegisterAccessesComplete : Prop :=
  ∀ (s : State) (p : Port) (w : RWr) (a : RAcc) (m : Master), s.clk = true → m.val = p.val → a.master = m →
    (Software s p w → exec (.genUnlock w) s = .next { setKey w.master (decide (w.val = 0x7A3C)) s with out := s.out ++ writeAnswer s p w.etag }) ∧
    (∀ q : Master, exec (.keyTimeout q) s = .next (setKey q false s)) ∧
    (∀ (n : Fin 8) (h : BitVec 3), Reaching s p → fld a.off 0 2 = 0 → a.size = 4 →
      h = (if vget s.gen.sem n.val 0 = 0 then BitVec.ofNat 3 (p.val + 1) else vget s.gen.sem n.val 0) →
      exec (.genSemRead a n) s = .next { s with
        gen := { s.gen with sem := vset s.gen.sem n.val h, shadow := vset s.gen.shadow p.val none }
        out := s.out ++ readAnswer p a.etag 4 (h.setWidth 64) }) ∧
    (∀ n : Fin 8, Software s p w → exec (.genSemRelease n w) s = .next (wroteBy p w (
      if (vget s.gen.sem n.val 0).toNat = p.val + 1 ∧ fld w.val 0 3 = 0 then { s with gen := { s.gen with sem := vset s.gen.sem n.val 0 } } else s))) ∧
    (∀ (off : Nat) (v : W64), Reaching s p → a.off = BitVec.ofNat 58 off → off < 2 ^ 26 → inBlock off = true → val64 s m off = some v →
      (a.size = 8 → exec (.counterLoRead a) s = .next { s with out := s.out ++ readAnswer p a.etag 8 v }) ∧
      (a.size = 4 → exec (.counterLoRead a) s = .next { s with
        gen := { s.gen with shadow := vset s.gen.shadow p.val (some (off, fld v 32 32)) }
        out := s.out ++ readAnswer p a.etag 4 ((fld v 0 32).setWidth 64) })) ∧
    (∀ (off : Nat) (hi v : W32) (w : W64), Reaching s p → a.off = BitVec.ofNat 58 (off + 4) → off + 4 < 2 ^ 26 → inBlock (off + 4) = true → a.size = 4 →
      val64 s m off = some w → val64 s m (off + 4) = none → hi = fld w 32 32 →
      v = (match vget s.gen.shadow p.val none with | some (t, h) => if t = off then h else hi | none => hi) →
      exec (.counterLoRead a) s = .next { s with
        gen := { s.gen with shadow := vset s.gen.shadow p.val none }, out := s.out ++ readAnswer p a.etag 4 (v.setWidth 64) }) ∧
    (Software s p w → exec (.registerWrite { master := m, off := 0x8, size := 4, val := w.val.setWidth 64, etag := w.etag }) s =
      .next (wroteBy p w { s with gen := { s.gen with scratch := w.val } })) ∧
    (∀ off : Nat, Reaching s p → (s.hp p).proto = false → a.off = BitVec.ofNat 58 off → off < 2 ^ 26 → accKind m off a.size true ≠ 0 →
      exec (.registerWrite a) s = .next { s with
        gen := { s.gen with
          accErr := vset s.gen.accErr p.val ⟨BitVec.ofNat 26 off, BitVec.ofNat 3 (accKind m off a.size true), true⟩
          keys := vset s.gen.keys p.val false }
        out := s.out ++ [.host p (.cmp (a.etag.setWidth 16) stERR 0 false false)] }) ∧
    (∀ off : Nat, Reaching s p → a.off = BitVec.ofNat 58 off → off < 2 ^ 26 → accKind m off 4 true = 0 → a.size = 4 →
      (regAt off).keyed = true → keyOpen s m = false → ∃ t : State, exec (.registerWrite a) s = .next t ∧
        t.gen.keyFail = s.gen.keyFail + 1 ∧ vget t.gen.accErr p.val {} = ⟨BitVec.ofNat 26 off, 4, true⟩ ∧
        t.slices = s.slices ∧ t.home = s.home ∧ t.stamp = s.stamp ∧ t.fports = s.fports ∧ t.integ = s.integ ∧ t.crp = s.crp ∧ SamePorts s t) ∧
    ((s.hp p).link = .up → (s.hp p).regq = [] → barsBefore (s.hp p) s.seqNo = true → (s.hp p).hreq ≠ 0 →
      exec (.counterLoRead a) s = .next { s.setHp p { s.hp p with regq := [⟨a, true, false, s.seqNo⟩] } with seqNo := s.seqNo + 1 } ∧
      ((s.hp p).hdat ≠ 0 →
        exec (.registerWrite a) s = .next { s.setHp p { s.hp p with regq := [⟨a, false, false, s.seqNo⟩] } with seqNo := s.seqNo + 1 }))

/-- The indirect pair (R421 to R423): with no write posted, a read of IND_DATA returns the slow register named; a
write is posted with the address; with AINC both step the offset by 4, modulo 2^24. The posted write is made when it is done: on the repair map by the
management cores alone, where its word reads as written and the other entries stay, with an error where no register is.
The model's choices it rests on: logs 1, 8, 53. -/
def Obligations.IndirectAccessesComplete : Prop :=
  ∀ (s : State) (p : Port) (a : RAcc) (m : Master) (x y : Ind), s.clk = true → m.val = p.val → a.master = m → Reaching s p →
    x = vget s.gen.ind p.val {} →
    y.addr = (if bit x.ctl 0 then setFld x.addr 0 24 (fld x.addr 0 24 + 4) else x.addr) → y.ctl = x.ctl →
    (x.wpend = none → a.size = 4 → fld a.off 0 2 = 0 → y.wpend = none → y.err = !slowWrite.slowMapped x.addr →
      exec (.indDataRead a) s = .next { s with
        gen := { s.gen with ind := vset s.gen.ind p.val y, shadow := vset s.gen.shadow p.val none }, freeCtr := s.freeCtr + 1
        out := s.out ++ readAnswer p a.etag 4 ((slowVal s x.addr).setWidth 64) }) ∧
    (x.wpend = none → a.size = 4 → fld a.off 0 2 = 0 → y.wpend = some (x.addr, fld a.val 0 32) → y.err = x.err →
      exec (.indDataWrite a) s = .next { s with
        gen := { s.gen with ind := vset s.gen.ind p.val y, keys := vset s.gen.keys p.val false }, out := s.out ++ writeAnswer s p a.etag }) ∧
    (∀ (q : Master) (b : W32 × W32), (vget s.gen.ind q.val {}).wpend = some b →
      (slowWrite.slowMapped b.1 = false ∨ fld b.1 28 4 ≠ 2 ∨ q.val ≠ 4 → exec (.slowWriteDone q) s = .next { s with gen := { s.gen with
        ind := vset s.gen.ind q.val { vget s.gen.ind q.val {} with wpend := none, err := !slowWrite.slowMapped b.1 } } }) ∧
      (∀ n : Nat, slowWrite.slowMapped b.1 = true → fld b.1 28 4 = 2 → q.val = 4 → n = (fld b.1 0 24).toNat / 4 → spSorted none s.integ.repRaw = true →
        ∃ t : State, exec (.slowWriteDone q) s = .next t ∧ t = { s with gen := t.gen, integ := t.integ } ∧
        t.gen = { s.gen with ind := vset s.gen.ind q.val { vget s.gen.ind q.val {} with wpend := none, err := false } } ∧
        t.integ = { s.integ with repMap := t.integ.repMap, repRaw := t.integ.repRaw } ∧
        (∀ k : Nat, t.integ.repWord k = if k = n then b.2 else s.integ.repWord k) ∧
        (∀ e : Repair, e.no ≠ n / 2 → (e ∈ t.integ.repMap ↔ e ∈ s.integ.repMap)))) ∧
    (∀ q : Master, (vget s.gen.ind q.val {}).wpend = none → exec (.slowWriteDone q) s = .next s)

/-- The event queue's registers (R395, R399 to R401, R440 to R444): RD moves forward, no further than WR, and the attention ends when nothing is
unread; the mark takes the header of a packet still in the ring, and no other place; REWIND takes RD back to a valid mark; FLUSH or the age of a packet raises attention.
The model's choices it rests on: logs 1, 54. -/
def Obligations.EventQueueRegistersWork : Prop :=
  ∀ (s : State) (p : Port) (w : RWr) (q : Evq), q = s.eq p →
    (∀ (to_ : BitVec 13) (n : Nat), Software s p w → to_ = fld w.val 0 13 → n = (to_ - q.rd).toNat →
      (n = 0 ∨ evqUsed q < n → exec (.evqRdWrite p w) s = .next (wroteBy p w s)) ∧
      (n ≠ 0 → n ≤ evqUsed q → ∃ t : State, exec (.evqRdWrite p w) s = .next t ∧ (t.eq p).rd = to_ ∧ (t.eq p).wr = q.wr ∧ (t.eq p).ring = q.ring ∧
        (t.eq p).heads = q.heads ∧ (t.eq p).mark = q.mark ∧ (t.eq p).markV = q.markV ∧ (to_ = q.wr → (t.eq p).attn = false) ∧
        QueueOnly s t p w)) ∧
    (∀ (to_ : BitVec 13) (back : Nat), Software s p w → to_ = fld w.val 0 13 → back = (q.wr - to_).toNat →
      exec (.evqMarkWrite p w) s = .next (wroteBy p w (
        if q.heads.any (fun h => decide (h.1 = to_)) = true ∧ back ≤ 4096 ∧ evqUsed q ≤ back then
          s.setEq p { q with mark := to_, markV := true, markLost := false } else s))) ∧
    (Software s p w → bit w.val 21 = true → bit w.val 22 = false → q.rd ≠ q.wr → ∃ t : State, exec (.flush p w) s = .next t ∧
      t.eq p = { q with ctl := (t.eq p).ctl, attn := true } ∧ fld (t.eq p).ctl 0 21 = fld w.val 0 21 ∧ QueueOnly s t p w) ∧
    (Software s p w → bit w.val 21 = false → bit w.val 22 = true → q.markV = true → ∃ t : State, exec (.rewind p w) s = .next t ∧
      t.eq p = { q with ctl := (t.eq p).ctl, rd := q.mark, attn := (t.eq p).attn } ∧ fld (t.eq p).ctl 0 21 = fld w.val 0 21 ∧
      (q.mark = q.wr → (t.eq p).attn = false) ∧ QueueOnly s t p w) ∧
    (∀ (h : BitVec 13 × W64) (hold : Nat), s.clk = true → h ∈ q.heads → q.rd ≠ q.wr → (h.1 - q.rd).toNat < evqUsed q →
      hold = max 1 (fld q.ctl 12 8).toNat → 400 * hold ≤ (s.gen.time - h.2).toNat → ∃ t : State,
      exec (.evqHoldExpiry p) s = .next t ∧ t.eq p = { q with attn := true } ∧ (∀ r : Port, r ≠ p → t.eq r = s.eq r) ∧ SamePorts s t ∧
        t.slices = s.slices ∧ t.home = s.home ∧ t.mem = s.mem ∧ t.fw = s.fw)

/-- The registers with an effect of their own (R50, R64, R96, R98, R99, R146, R196, R271, R272, R275, R288, R289, R316, R324, R489, R501): a value within its bounds
takes effect, the key closes, the write is answered; one outside them leaves the register and is posted. RETRAIN takes a link that is up into
Recovery, which holds the answer to its own port's write back (R289), and another value of MODE takes the port down (R316).
The model's choices it rests on: logs 55, 91. -/
def Obligations.ControlRegistersWork : Prop :=
  ∀ (s : State) (p : Port) (w : RWr) (i : SliceNo), Software s p w →
    (keyOpen s w.master = true → bit w.val 0 = true → (∃ t : State, exec (.cacheEnable i w) s = .next t ∧ t = wroteBy p w (s.setSl i (t.sl i)) ∧
      t.sl i = { s.sl i with cacheCtl := .mk1 1, draining := false, disabled := false
                             walks := (s.sl i).walks.filter (fun j => decide (j.kind ≠ .drain)) })) ∧
    (keyOpen s w.master = true → bit w.val 0 = false → (∀ q : Port, (s.hp q).cxl = false) → NothingCached s → (s.sl i).draining = false →
      (s.sl i).disabled = false → exec (.cacheDisable i w) s = .next (wroteBy p w (s.setSl i { s.sl i with
        cacheCtl := .mk1 0, draining := true, walks := [⟨.drain, 0⟩] }))) ∧
    (keyOpen s w.master = true → lockBad s (s.sl i) (fld w.val 0 15) = false →
      exec (.slcWaylockWrite i w) s = .next (wroteBy p w (s.setSl i { s.sl i with wayLock := .mk1 ((fld w.val 0 15).setWidth 32) }))) ∧
    (keyOpen s w.master = true → lockBad s (s.sl i) (fld w.val 0 15) = true → ∃ t : State, exec (.slcWaylockWrite i w) s = .next t ∧
      t.slices = s.slices ∧ keyOpen t w.master = false ∧ t.home = s.home ∧ t.mem = s.mem ∧ SamePorts s t) ∧
    (keyOpen s w.master = true → (s.sl i).shadowEn = true → bit w.val 1 = false → spSorted none (s.sl i).shadow = true →
      (s.sl i).shadow.all (fun c => c.2.ents.toList.all (fun e => !e.bad)) = true → ∃ t : State, exec (.shadowEnClear i w) s = .next t ∧
      t = wroteBy p w (s.setSl i (t.sl i)) ∧ (t.sl i).shadowEn = false ∧ (t.sl i).slots = (s.sl i).slots ∧
      (∀ c ∈ (t.sl i).shadow, ∀ e ∈ c.2.ents.toList, e = {} ∨ e.pin = true ∧ e.bad = false ∧ e.dirty = false)) ∧
    (keyOpen s w.master = true → max 1 (fld w.val 0 8).toNat < max 1 (fld w.val 8 8).toNat * 100 → ∀ q : Port,
      exec (.hportSnpCtlWrite q w) s = .next (wroteBy p w (s.setHp q { s.hp q with snpCtl := .mk1 ((fld w.val 0 16).setWidth 32) }))) ∧
    (keyOpen s w.master = true → max 1 (fld w.val 8 8).toNat * 100 ≤ max 1 (fld w.val 0 8).toNat → ∀ q : Port, ∃ t : State,
      exec (.hportSnpCtlWrite q w) s = .next t ∧ keyOpen t w.master = false ∧ t.slices = s.slices ∧ t.home = s.home ∧ t.mem = s.mem ∧ SamePorts s t) ∧
    ((∀ j : SliceNo, max 1 (s.sl j).gap ≤ 5 * max 1 (fld w.val 0 8).toNat) → exec (.homeLaneCtlWrite w) s = .next (wroteBy p w { s with
      home := { s.home with laneCtl := .mk1 ((fld w.val 0 8).setWidth 32) } })) ∧
    (max 1 (fld w.val 0 8).toNat ≤ 5 * max 1 s.home.win → exec (.slcRetryCtlWrite i w) s = .next (wroteBy p w (s.setSl i { s.sl i with
      retryCtl := (fld w.val 0 8).setWidth 32 }))) ∧
    (keyOpen s w.master = true → stampMaskBad s (fld w.val 0 15) = false → exec (.stampWaysWrite w) s = .next (wroteBy p w { s with
      stamp := { s.stamp with ways := .mk1 ((fld w.val 0 15).setWidth 32) } })) ∧
    (∀ c : Instr, c = .sluiceClose w ∨ c = .walkhold w → NothingCached s → exec c s = .next (wroteBy p w { s with
      arb := { s.arb with sluice := (fld w.val 0 5).setWidth 32 } })) ∧
    (keyOpen s w.master = true → ∀ f : FPortNo, exec (.fportCtlEnWrite f w) s = .next (wroteBy p w (s.setFp f { s.fp f with
      ctl := .mk1 ((fld w.val 0 1).setWidth 32) }))) ∧
    (keyOpen s w.master = true → bit w.val 0 = true → ∃ t : State, exec (.sw w) s = .next t ∧ keyOpen t w.master = false ∧
      t.dbg.frzCtl = .mk1 (fld w.val 1 11 ++ (0 : BitVec 1) |>.setWidth 32) ∧ t.dbg.frozen = bit (s.dbg.frzCtl.get 0xE) 1 ∧
      (t.dbg.frozen = true → t.dbg.src = 2 ∧ t.clk = false) ∧ t.slices = s.slices ∧ t.home = s.home ∧ t.mem = s.mem ∧ t.hports = s.hports) ∧
    (bit w.val 8 = true → exec (.clear w) s = .next (wroteBy p w { s with
      dbg := { s.dbg with pmuCtl := (fld w.val 0 8).setWidth 32, pmuCnt := Vector.replicate 8 0 } })) ∧
    (∀ (q : Port) (h : HPort) (c : Instr), keyOpen s w.master = true → (if fld w.val 0 2 = 3 then 0 else fld w.val 0 2) = (s.hp q).mode →
      h = { s.hp q with linkCtl := .mk1 (fld w.val 3 2 ++ (0 : BitVec 1) ++ fld w.val 0 2 |>.setWidth 32) } →
      (h.linkUp = true → linkAllowed h (decide (h.width = 2)) h.rate = true) → c = .retrain q w ∨ c = .hportLinkModeWrite q w →
      bit w.val 2 = false ∨ h.link ≠ .up → exec c s = .next (wroteBy p w (s.setHp q h))) ∧
    (keyOpen s w.master = true → bit w.val 2 = true → ∀ (q : Port) (h : HPort), fld w.val 0 2 = (s.hp q).mode → (s.hp q).link = .up →
      h = { s.hp q with linkCtl := .mk1 (fld w.val 3 2 ++ (0 : BitVec 1) ++ fld w.val 0 2 |>.setWidth 32) } →
      linkAllowed h (decide (h.width = 2)) h.rate = true →
      (q ≠ p → exec (.retrain q w) s = .next (wroteBy p w (s.setHp q { h with link := .recovery, recov := h.recov + 1, rsv := [], rsvBad := [] }))) ∧
      (q = p → exec (.retrain q w) s = .next (setKey w.master false (s.setHp q { h with
        link := .recovery, recov := h.recov + 1, rsv := [], rsvBad := []
        heldOut := if h.proto then h.heldOut else h.heldOut ++ [.cmp (w.etag.setWidth 16) stOK 0 false false] })))) ∧
    (keyOpen s w.master = true → ∀ (q : Port) (m : BitVec 2), m = (if fld w.val 0 2 = 3 then 0 else fld w.val 0 2) → m ≠ (s.hp q).mode →
      ((s.hp q).link = .training ∨ (s.hp q).link = .down → exec (.hportLinkModeWrite q w) s = .next (wroteBy p w (s.setHp q { s.hp q with
        linkCtl := .mk1 (fld w.val 3 2 ++ (0 : BitVec 1) ++ fld w.val 0 2 |>.setWidth 32)
        link := if m ≠ 0 ∧ (s.crp.phase = .links ∨ s.crp.phase = .running) then .training else .down }))) ∧
      ((s.hp q).linkUp = true → ∃ t : State, exec (.hportLinkModeWrite q w) s = .next t ∧ (t.hp q).mode = m ∧
        (t.hp q).link = .downBusy ∧ (t.hp q).down = (s.hp q).down + 1))

/-! ### Numbers, memory, interrupts, reset -/

/-- A node ID divides into a domain and a member number, of the bits R17 names, and the two name the node exactly; a line of the own domain
has the slice, set index and tag that R30 and R31 form of its address, and slice, set index and tag together give the line back, so no two
lines of a domain share all three. -/
def Obligations.NodeAndLineNumbersDivide : Prop :=
  (∀ n : NodeId, domOf n = fld n 16 2 ++ fld n 10 2 ++ fld n 4 2 ∧ memOf n = fld n 12 4 ++ fld n 6 4 ++ fld n 0 4 ∧ nodeOf (domOf n) (memOf n) = n) ∧
  (∀ (d : BitVec 6) (m : Member), domOf (nodeOf d m) = d ∧ memOf (nodeOf d m) = m) ∧
  (∀ (l : LAddr) (a : BitVec 52), a = (memOf (lineHome l) ++ fld l 0 34 : BitVec 46) ++ (0 : BitVec 6) →
    setOf l = fld a 9 23 ^^^ (fld a 32 7).setWidth 23 ∧ tagOf l = fld a 32 20 ∧
    (sliceOf l).val = (fld a 6 3 ^^^ fld a 9 3 ^^^ fld a 12 3 ^^^ fld a 15 3 ^^^ fld a 18 3 ^^^ fld a 21 3 ^^^ fld a 24 3 ^^^ fld a 27 3 ^^^
      fld a 30 3 ^^^ fld a 33 3 ^^^ fld a 36 3).toNat ∧
    lineBack (domOf (lineHome l)) (sliceOf l) (setOf l) (tagOf l) = l) ∧
  (∀ l k : LAddr, domOf (lineHome l) = domOf (lineHome k) → sliceOf l = sliceOf k → setOf l = setOf k → tagOf l = tagOf k → l = k)

/-- A DDR5 line reads as it was last written, and a write leaves every other line as it reads, whether its block is filled, has a fill
slot, takes one, or the write is held in the queue (R336, R361 to R364).
The model's choices it rests on: log 27. -/
def Obligations.DdrReadsWhatWasWritten : Prop :=
  ∀ (s : State) (f g : Nat) (d : DLine), s.good → ddrGet (ddrPut f d s) g = if g = f then d else ddrGet s g

/-- MBX_IRQ_STAT of a port holds its live interrupt causes: a full outbound mailbox, attention or dropped packets of its event queue, a
firmware in RESTART or STOPPED, and nothing else (R402). IRQ_N is asserted while a port that drives it has an enabled cause, or the leaky
bucket is on and over its threshold, and released when neither holds (R405). -/
def Obligations.InterruptsFollowTheirCauses : Prop :=
  ∀ (s : State) (p : Port) (m : Master),
    (∀ k : Nat, bit (regVal s m (.mbxIrqStat p)) k = (
      (decide (k = 0) && (s.mb p).box.toList.any (·.outFull)) || (decide (k = 1) && (s.eq p).attn) || (decide (k = 2) && (s.eq p).dropped) ||
        (decide (k = 3) && (decide (s.fw.st = .restart) || decide (s.fw.st = .stopped))))) ∧
    (irqN s = true ↔ (∃ q : Port, ¬((s.hp q).proto = true ∧ (s.hp q).msix = true) ∧
      regVal s m (.mbxIrqStat q) &&& regVal s m (.mbxIrqEn q) ≠ 0) ∨ (bit (regVal s m .integLbCtl) 0 = true ∧ bit (regVal s m .integLbStat) 16 = true))

/-- The registers whose reset value the spec gives read it right after reset, for every master (R425 to R449 and the register tables of
the chapters): offset and value. -/
def Obligations.RegistersReadTheirResetValues : Prop :=
  ∀ (m : Master), ∀ c ∈ ([(0x8, 0), (0x10, 0), (0x14, 0), (0x20, 0), (0x10040, 0), (0x10044, 0xF), (0x20008, 0), (0x2000C, 0), (0x20010, 0),
    (0x20014, 0), (0x30000, 0), (0x30008, 1), (0x100040, 0), (0x100044, 0), (0x100048, 0x140), (0x10004C, 3), (0x100050, 1), (0x100054, 0),
    (0x100058, 0x0804), (0x10005C, 0x20), (0x100060, 0x60081), (0x100068, 0x0F), (0x10006C, 0x40), (0x1000A0, 0), (0x200000, 0x40),
    (0x220004, 0x4B), (0x220008, 7), (0x22000C, 0x3E8), (0x230000, 0x189D), (0x230004, 8), (0x230008, 8), (0x230010, 0), (0x300000, 0x18),
    (0x30000C, 0x2040200), (0x300100, 8), (0x300104, 9), (0x300108, 0x0A28), (0x38000C, 1), (0x420000, 0x104), (0x420004, 0x118), (0x42000C, 1),
    (0x420014, 0x3C0020), (0x50000C, 1), (0x600000, 0), (0x600010, 0x403C), (0x600040, 0), (0x600060, 0)] : List (Nat × W32)),
    regVal State.reset m (regAt c.1) = c.2
end

