-- ==== Sys2Proof/Laws/Sparse.lean ====
section
/-! SUPPORT. The sparse arrays: a read after a write, the canonical form, and what a write leaves of the other places. -/

set_option Elab.async false

namespace Sys2Proof.Machine

variable {α : Type}

@[simp] theorem spGet_nil (d : α) (n : Nat) : spGet d [] n = d := rfl

/-- Every listed index lies above a bound. -/
theorem spSorted_lt {lo : Nat} {m : Sparse α} (h : spSorted (some lo) m = true) : ∀ c ∈ m, lo < c.1 := by
  induction m generalizing lo with
  | nil => simp
  | cons x t ih =>
    obtain ⟨k, v⟩ := x
    simp only [spSorted, Bool.and_eq_true, decide_eq_true_eq] at h
    intro c hc
    rcases List.mem_cons.1 hc with rfl | hc
    · exact h.1
    · exact Nat.lt_trans h.1 (ih h.2 c hc)

theorem spSorted_weaken {m : Sparse α} {lo : Option Nat} (h : spSorted lo m = true) : spSorted none m = true := by
  cases m with
  | nil => rfl
  | cons x t => obtain ⟨k, v⟩ := x; simp only [spSorted, Bool.and_eq_true] at h ⊢; exact ⟨trivial, h.2⟩

theorem spSorted_mono {m : Sparse α} {lo hi : Nat} (hl : lo ≤ hi) (h : spSorted (some hi) m = true) : spSorted (some lo) m = true := by
  cases m with
  | nil => rfl
  | cons x t =>
    obtain ⟨k, v⟩ := x
    simp only [spSorted, Bool.and_eq_true, decide_eq_true_eq] at h ⊢
    exact ⟨by omega, h.2⟩

theorem spSorted_spIns (n : Nat) (v : α) (m : Sparse α) (lo : Option Nat) (hlo : ∀ l, lo = some l → l < n)
    (h : spSorted lo m = true) : spSorted lo (spIns n v m) = true := by
  induction m generalizing lo with
  | nil => cases lo with
    | none => rfl
    | some l => simp [spIns, spSorted, hlo l rfl]
  | cons x t ih =>
    obtain ⟨k, y⟩ := x
    simp only [spSorted, Bool.and_eq_true] at h
    unfold spIns
    split
    · rename_i hn
      simp only [spSorted, Bool.and_eq_true, decide_eq_true_eq]
      refine ⟨?_, hn, h.2⟩
      cases lo with
      | none => rfl
      | some l => simpa using hlo l rfl
    · split
      · rename_i hn; subst hn; simp only [spSorted, Bool.and_eq_true]; exact h
      · simp only [spSorted, Bool.and_eq_true]
        refine ⟨h.1, ih (some k) ?_ h.2⟩
        intro l hl; cases hl; omega

theorem spSorted_spDel (n : Nat) (m : Sparse α) (lo : Option Nat) (h : spSorted lo m = true) : spSorted lo (spDel n m) = true := by
  induction m generalizing lo with
  | nil => rfl
  | cons x t ih =>
    obtain ⟨k, y⟩ := x
    unfold spDel
    have h' := h
    simp only [spSorted, Bool.and_eq_true] at h'
    split
    · exact h
    · split
      · cases lo with
        | none => exact spSorted_weaken h'.2
        | some l => exact spSorted_mono (Nat.le_of_lt (by simpa using h'.1)) h'.2
      · simp only [spSorted, Bool.and_eq_true]; exact ⟨h'.1, ih _ h'.2⟩

theorem mem_spIns {n : Nat} {v : α} {m : Sparse α} {c : Nat × α} (h : c ∈ spIns n v m) : c = (n, v) ∨ c ∈ m := by
  induction m with
  | nil => simpa [spIns] using h
  | cons x t ih =>
    obtain ⟨k, y⟩ := x
    unfold spIns at h
    split at h
    · rcases List.mem_cons.1 h with h | h
      · exact .inl h
      · exact .inr h
    · split at h
      · rcases List.mem_cons.1 h with h | h
        · exact .inl h
        · exact .inr (List.mem_cons_of_mem _ h)
      · rcases List.mem_cons.1 h with h | h
        · exact .inr (h ▸ List.mem_cons_self)
        · rcases ih h with h | h
          · exact .inl h
          · exact .inr (List.mem_cons_of_mem _ h)

theorem mem_spDel {n : Nat} {m : Sparse α} {c : Nat × α} (h : c ∈ spDel n m) : c ∈ m := by
  induction m with
  | nil => simp [spDel] at h
  | cons x t ih =>
    obtain ⟨k, y⟩ := x
    unfold spDel at h
    split at h
    · exact h
    · split at h
      · exact List.mem_cons_of_mem _ h
      · rcases List.mem_cons.1 h with h | h
        · exact h ▸ List.mem_cons_self
        · exact List.mem_cons_of_mem _ (ih h)

theorem spGet_mem (d : α) (m : Sparse α) (n : Nat) : spGet d m n = d ∨ (n, spGet d m n) ∈ m := by
  induction m with
  | nil => exact .inl rfl
  | cons x t ih =>
    obtain ⟨k, y⟩ := x
    unfold spGet
    split
    · exact .inl rfl
    · split
      · rename_i h; subst h; exact .inr List.mem_cons_self
      · rcases ih with h | h
        · exact .inl h
        · exact .inr (List.mem_cons_of_mem _ h)

/-- A read of a place just written gives the value written. -/
theorem spGet_spIns_same (d : α) (n : Nat) (v : α) (m : Sparse α) : spGet d (spIns n v m) n = v := by
  induction m with
  | nil => simp [spIns, spGet]
  | cons x t ih =>
    obtain ⟨k, y⟩ := x
    unfold spIns
    split
    · simp [spGet]
    · split
      · simp [spGet]
      · rename_i h1 h2; simp [spGet, h1, h2, ih]

/-- A write leaves every other place alone. -/
theorem spGet_spIns_other (d : α) {n k : Nat} (v : α) (m : Sparse α) (h : k ≠ n) : spGet d (spIns n v m) k = spGet d m k := by
  induction m with
  | nil => simp [spIns, spGet, h]
  | cons x t ih =>
    obtain ⟨j, y⟩ := x
    unfold spIns
    split
    · rename_i h1
      rcases Nat.lt_or_ge k n with h2 | h2
      · simp [spGet, h2, show k < j by omega]
      · simp [spGet, h, show ¬ k < n by omega]
    · split
      · rename_i h1 h2; subst h2; simp [spGet, h]
      · simp only [spGet, ih]

/-- The canonical form: sorted, and no default content listed. -/
theorem spWf_iff [DecidableEq α] (d : α) (m : Sparse α) : spWf d m = true ↔ spSorted none m = true ∧ ∀ c ∈ m, c.2 ≠ d := by
  simp [spWf, List.all_eq_true]

theorem spGet_spDel_same (d : α) (n : Nat) (m : Sparse α) (lo : Option Nat) (h : spSorted lo m = true) : spGet d (spDel n m) n = d := by
  induction m generalizing lo with
  | nil => rfl
  | cons x t ih =>
    obtain ⟨k, y⟩ := x
    simp only [spSorted, Bool.and_eq_true] at h
    unfold spDel
    split
    · rename_i h1; simp [spGet, h1]
    · split
      · rename_i h1 h2; subst h2
        rcases spGet_mem d t n with h3 | h3
        · exact h3
        · exact absurd (spSorted_lt h.2 _ h3) (by simp)
      · rename_i h1 h2; simp [spGet, h1, h2, ih _ h.2]

theorem spGet_spDel_other (d : α) {n k : Nat} (m : Sparse α) (lo : Option Nat) (hs : spSorted lo m = true) (h : k ≠ n) :
    spGet d (spDel n m) k = spGet d m k := by
  induction m generalizing lo with
  | nil => rfl
  | cons x t ih =>
    obtain ⟨j, y⟩ := x
    simp only [spSorted, Bool.and_eq_true] at hs
    unfold spDel
    split
    · rfl
    · split
      · rename_i h1 h2; subst h2
        rcases Nat.lt_or_ge k n with h3 | h3
        · rw [show spGet d ((n, y) :: t) k = d by simp [spGet, h3]]
          rcases spGet_mem d t k with h4 | h4
          · exact h4
          · exact absurd (spSorted_lt hs.2 _ h4) (by simp; omega)
        · simp [spGet, h, show ¬ k < n by omega]
      · simp only [spGet, ih _ hs.2]

theorem spWf_spIns [DecidableEq α] {d : α} {n : Nat} {v : α} {m : Sparse α} (hv : v ≠ d) (h : spWf d m = true) :
    spWf d (spIns n v m) = true := by
  rw [spWf_iff] at h ⊢
  refine ⟨spSorted_spIns n v m none (by simp) h.1, fun c hc => ?_⟩
  rcases mem_spIns hc with rfl | hc
  · exact hv
  · exact h.2 c hc

theorem spWf_spDel [DecidableEq α] {d : α} {n : Nat} {m : Sparse α} (h : spWf d m = true) : spWf d (spDel n m) = true := by
  rw [spWf_iff] at h ⊢
  exact ⟨spSorted_spDel n m none h.1, fun c hc => h.2 c (mem_spDel hc)⟩

/-- A write keeps the canonical form. -/
theorem spWf_spSet [DecidableEq α] {d : α} {n : Nat} {v : α} {m : Sparse α} (h : spWf d m = true) : spWf d (spSet d n v m) = true := by
  unfold spSet
  split
  · exact spWf_spDel h
  · rename_i hv; exact spWf_spIns hv h

theorem spWf_spMod [DecidableEq α] {d : α} {n : Nat} {f : α → α} {m : Sparse α} (h : spWf d m = true) :
    spWf d (spMod d n f m) = true := spWf_spSet h

/-- A read of a place just written gives the value written, whatever is listed. -/
theorem spGet_spSet_same [DecidableEq α] {d : α} {n : Nat} {v : α} {m : Sparse α} (h : spWf d m = true) :
    spGet d (spSet d n v m) n = v := by
  unfold spSet
  split
  · rename_i hv; rw [hv]; exact spGet_spDel_same d n m none ((spWf_iff d m).1 h).1
  · exact spGet_spIns_same d n v m

/-- A write leaves every other place alone. -/
theorem spGet_spSet_other [DecidableEq α] {d : α} {n k : Nat} {v : α} {m : Sparse α} (h : spWf d m = true) (hk : k ≠ n) :
    spGet d (spSet d n v m) k = spGet d m k := by
  unfold spSet
  split
  · exact spGet_spDel_other d m none ((spWf_iff d m).1 h).1 hk
  · exact spGet_spIns_other d v m hk

/-- What holds of every listed content and of the one written holds after the write. -/
theorem all_spSet [DecidableEq α] {d : α} {n : Nat} {v : α} {m : Sparse α} {p : α → Bool} (hv : p v = true)
    (h : m.all (fun c => p c.2) = true) : (spSet d n v m).all (fun c => p c.2) = true := by
  rw [List.all_eq_true] at h ⊢
  unfold spSet
  split
  · exact fun c hc => h c (mem_spDel hc)
  · intro c hc
    rcases mem_spIns hc with rfl | hc
    · exact hv
    · exact h c hc

/-- What holds of every listed content and of the default holds of what is read. -/
theorem all_spGet {d : α} {m : Sparse α} {p : α → Bool} (hd : p d = true) (h : m.all (fun c => p c.2) = true) (n : Nat) :
    p (spGet d m n) = true := by
  rcases spGet_mem d m n with e | e
  · rw [e]; exact hd
  · exact (List.all_eq_true.1 h) _ e

theorem spSorted_filter (q : Nat × α → Bool) (m : Sparse α) (lo : Option Nat) (h : spSorted lo m = true) :
    spSorted lo (m.filter q) = true := by
  induction m generalizing lo with
  | nil => exact h
  | cons x t ih =>
    obtain ⟨k, y⟩ := x
    have h' := h
    simp only [spSorted, Bool.and_eq_true] at h'
    rw [List.filter_cons]
    split
    · simp only [spSorted, Bool.and_eq_true]; exact ⟨h'.1, ih _ h'.2⟩
    · have := ih _ h'.2
      cases lo with
      | none => exact spSorted_weaken this
      | some l => exact spSorted_mono (Nat.le_of_lt (by simpa using h'.1)) this

/-- Dropping entries keeps the canonical form. -/
theorem spWf_filter [DecidableEq α] {d : α} {q : Nat × α → Bool} {m : Sparse α} (h : spWf d m = true) :
    spWf d (m.filter q) = true := by
  rw [spWf_iff] at h ⊢
  exact ⟨spSorted_filter q m none h.1, fun c hc => h.2 c (List.mem_filter.1 hc).1⟩

end Sys2Proof.Machine
end

