-- ==== Sys2Proof/Laws/Arrays.lean ====
section
/-! SUPPORT. The HBM arrays of a slice: their canonical form and the check byte of every tag block, and the operations that keep them. -/

set_option Elab.async false

namespace Sys2Proof.Machine

theorem Slice.good_iff (x : Slice) : x.good = true ↔
    spWf {} x.tags = true ∧ spWf {} x.slots = true ∧ x.tags.all (fun c => c.2.summed) = true := by
  simp [Slice.good, and_assoc]

/-- An update of other parts of a slice. -/
theorem Slice.good_of {x y : Slice} (h : x.good = true) (e1 : y.tags = x.tags) (e2 : y.slots = x.slots) : y.good = true := by
  rw [Slice.good_iff] at h ⊢; rw [e1, e2]; exact h

theorem summed_default : ({} : TagBlock).summed = true := by decide

theorem summed_plru (b : TagBlock) (p : BitVec 14) : ({ b with plru := p } : TagBlock).summed = b.summed := rfl

theorem summed_tsAfter (a b : TagBlock) : (tsAfter a b).summed = true := by simp [TagBlock.summed, tsAfter]

theorem Slice.good_tags {x : Slice} {n : Nat} {b : TagBlock} (h : x.good = true) (hb : b.summed = true) :
    ({ x with tags := spSet {} n b x.tags } : Slice).good = true := by
  rw [Slice.good_iff] at h ⊢
  exact ⟨spWf_spSet h.1, h.2.1, all_spSet hb h.2.2⟩

theorem Slice.good_plru {x : Slice} {n : Nat} {p : BitVec 14} (h : x.good = true) :
    ({ x with tags := spMod {} n (fun b => { b with plru := p }) x.tags } : Slice).good = true := by
  refine Slice.good_tags h ?_
  rw [summed_plru]
  exact all_spGet summed_default ((Slice.good_iff x).1 h).2.2 n

theorem Slice.good_slots {x : Slice} {n : Nat} {d : Slot} (h : x.good = true) :
    ({ x with slots := spSet {} n d x.slots } : Slice).good = true := by
  rw [Slice.good_iff] at h ⊢
  exact ⟨h.1, spWf_spSet h.2.1, h.2.2⟩

theorem Slice.putBlock_good {x : Slice} {set : Nat} {b : TagBlock} (h : x.good = true) : (x.putBlock set b).good = true := by
  unfold Slice.putBlock
  have h1 : ({ x with tags := spSet {} set (tsAfter (x.tsBlock set) b) x.tags } : Slice).good = true :=
    Slice.good_tags h (summed_tsAfter _ _)
  dsimp only
  split
  · exact h1
  · exact Slice.good_of h1 rfl rfl

theorem Slice.putWord_good {x : Slice} {set w : Nat} {t : TagWord} (h : x.good = true) : (x.putWord set w t).good = true :=
  Slice.putBlock_good h

theorem Slice.putPlru_good {x : Slice} {set : Nat} {p : BitVec 14} (h : x.good = true) : (x.putPlru set p).good = true := by
  unfold Slice.putPlru
  split
  · exact Slice.good_plru h
  · exact Slice.good_of h rfl rfl

theorem Slice.touchWay_good {x : Slice} {set w : Nat} (h : x.good = true) : (x.touchWay set w).good = true := Slice.putPlru_good h

theorem Slice.shAlloc_good {x y : Slice} {set : Nat} (h : x.good = true) (e : x.shAlloc set = some y) : y.good = true := by
  unfold Slice.shAlloc at e
  obtain ⟨i, -, rfl⟩ := Option.map_eq_some_iff.1 e
  dsimp only
  split
  · exact Slice.good_of (Slice.good_plru h) rfl rfl
  · exact Slice.good_of h rfl rfl

theorem Slice.ensureShadow_good {x y : Slice} {set : Nat} (h : x.good = true) (e : x.ensureShadow set = some y) : y.good = true := by
  unfold Slice.ensureShadow at e
  split at e
  · cases e; exact h
  · exact Slice.shAlloc_good h e

theorem Slice.demandLook_good {x y : Slice} {set : Nat} {tag : BitVec 20} {hw : Option Nat} (h : x.good = true)
    (e : x.demandLook set tag hw = some y) : y.good = true := by
  have key : ∀ z : Slice, z.good = true → (if z.shadowEn then z.shAlloc set else some z) = some y → y.good = true := by
    intro z hz e
    split at e
    · exact Slice.shAlloc_good hz e
    · cases e; exact hz
  unfold Slice.demandLook at e
  split at e
  · cases e; exact Slice.good_of h rfl rfl
  · refine key _ ?_ e
    dsimp only
    repeat' split
    all_goals exact Slice.good_of h rfl rfl

theorem Slice.outcome_good {x : Slice} {u : Bool} (h : x.good = true) : (x.outcome u).good = true := by
  unfold Slice.outcome; split <;> exact Slice.good_of h rfl rfl
theorem Slice.hintFill_good {x : Slice} {set w : Nat} {t : BitVec 20} (h : x.good = true) : (x.hintFill set t w).good = true :=
  Slice.good_of h rfl rfl
theorem Slice.hintSeen_good {x : Slice} {set w : Nat} {t : BitVec 20} (h : x.good = true) : (x.hintSeen set t w).good = true := by
  unfold Slice.hintSeen; split
  · exact h
  · exact hintFill_good h
theorem Slice.predAdd_good {x : Slice} {l : LAddr} {u : Bool} (h : x.good = true) : (x.predAdd l u).good = true := Slice.good_of h rfl rfl
theorem Slice.predFix_good {x : Slice} {l : LAddr} (h : x.good = true) : (x.predFix l).good = true := by
  unfold Slice.predFix; split
  · exact Slice.good_of h rfl rfl
  · exact h
theorem Slice.closeLow_good {x : Slice} (h : x.good = true) : x.closeLow.good = true := by
  unfold Slice.closeLow; split
  · exact Slice.good_of h rfl rfl
  · exact h
theorem Slice.setLock_good {x : Slice} {m : BitVec 15} (h : x.good = true) : (x.setLock m).good = true := Slice.good_of h rfl rfl

theorem Slice.mendSlot_good {x : Slice} {set w : Nat} (h : x.good = true) : (x.mendSlot set w).good = true := Slice.good_of h rfl rfl
theorem Slice.mendTS_good {x : Slice} {set : Nat} (h : x.good = true) : (x.mendTS set).good = true := by
  unfold Slice.mendTS
  split
  · exact Slice.putBlock_good h
  · exact Slice.good_of (Slice.good_tags h (all_spGet summed_default ((Slice.good_iff x).1 h).2.2 set)) rfl rfl
theorem Slice.hitWay_good {x : Slice} {set w : Nat} (h : x.good = true) : (x.hitWay set w).good = true := by
  unfold Slice.hitWay
  dsimp only
  split
  · exact Slice.touchWay_good (Slice.putWord_good h)
  · exact Slice.touchWay_good h
theorem Slice.dropMove_good {x : Slice} {q : LAddr → Bool} {p : Port} (h : x.good = true) : (x.dropMove q p).good = true := Slice.good_of h rfl rfl

theorem List.foldl_keeps {α β : Type} {p : β → Prop} {f : β → α → β} (hf : ∀ b a, p b → p (f b a)) (l : List α) {b : β} (h : p b) :
    p (l.foldl f b) := by
  induction l generalizing b with
  | nil => exact h
  | cons a l ih => exact ih (hf b a h)

theorem Slice.flushPlru_good {x : Slice} (h : x.good = true) : x.flushPlru.good = true := by
  unfold Slice.flushPlru
  refine List.foldl_keeps (p := fun x : Slice => x.good = true) (fun b c hb => ?_) _ h
  refine List.foldl_keeps (p := fun x : Slice => x.good = true) (fun b c hb => ?_) _ (Slice.good_of hb rfl rfl)
  split
  · exact Slice.good_plru hb
  · exact hb

end Sys2Proof.Machine
end

