-- ==== Sys2Proof/Laws/Kept.lean ====
section
/-! SUPPORT. How `Kept` is proved of a function: by the updates, choices and runs it is made of. -/

set_option Elab.async false

namespace Sys2Proof.Machine

theorem Kept.refl (s : State) : Kept s s := ⟨rfl, rfl, rfl, rfl, rfl, rfl, id⟩

theorem Kept.trans {a b c : State} (h : Kept a b) (g : Kept b c) : Kept a c :=
  ⟨g.1.trans h.1, g.2.trans h.2, g.3.trans h.3, g.4.trans h.4, g.5.trans h.5, g.6.trans h.6, fun x => g.7 (h.7 x)⟩

/-- An update of other parts. -/
theorem Kept.mk1 {a s : State} {out sent freeCtr seqNo node hports slices home stamp arb fports fabric mem integ fw mbx evq gen aon peat dbg tap crp pins}
    (h : Kept a s) (e2 : pins = s.pins) (e3 : crp.powered = s.crp.powered) (e4 : aon.still = s.aon.still)
    (e5 : peat.still = s.peat.still) (e6 : tap.still = s.tap.still) (e7 : mem.ddr = s.mem.ddr) (e8 : slices = s.slices) :
    Kept a (State.mk s.pending out sent freeCtr seqNo node hports slices home stamp arb fports fabric mem integ fw mbx evq gen aon peat
      dbg tap crp pins) :=
  h.trans ⟨rfl, e2, e3, e4, e5, e6, fun g => ⟨by rw [e7]; exact g.1, fun i => by subst e8; exact g.2 i⟩⟩

/-- A run over a list. -/
theorem Kept.foldl {α : Type} {a s : State} {l : List α} {f : State → α → State} (hf : ∀ t x, Kept a t → Kept a (f t x))
    (h : Kept a s) : Kept a (l.foldl f s) := by
  induction l generalizing s with
  | nil => exact h
  | cons x l ih => exact ih (hf s x h)

/-- The state of a pair. -/
theorem Kept.of_snd {α : Type} {a s : State} {p : α × State} {x : α} (e : p = (x, s)) (h : Kept a p.2) : Kept a s := by
  rw [e] at h; exact h

/-- A choice. -/
theorem Kept.ite {a x y : State} {c : Prop} [Decidable c] (h1 : c → Kept a x) (h2 : ¬c → Kept a y) :
    Kept a (if c then x else y) := by
  split
  · exact h1 ‹_›
  · exact h2 ‹_›

theorem Kept.foldl2 {α β : Type} {a : State} {z : β × State} {l : List α} {f : β × State → α → β × State}
    (hf : ∀ y x, Kept a y.2 → Kept a (f y x).2) (h : Kept a z.2) : Kept a (l.foldl f z).2 := by
  induction l generalizing z with
  | nil => exact h
  | cons x l ih => exact ih (hf z x h)

theorem Kept.each {α : Type} {a s : State} {l : List α} {f : State → α → State} (hf : ∀ t x, Kept a t → Kept a (f t x))
    (h : Kept a s) : Kept a (s.each l f) := Kept.foldl hf h

/-- An update of the memory controllers. -/
theorem Kept.mem {z0 s : State} {m : Mem} (h : Kept z0 s) (hm : z0.good → spWf {} m.ddr = true) : Kept z0 { s with mem := m } :=
  ⟨h.1, h.2, h.3, h.4, h.5, h.6, fun g => ⟨hm g, (h.good g).2⟩⟩

/-- An update of every slice and other parts. -/
theorem Kept.mk2 {a s t : State} (h : Kept a s) (e1 : t.pending = s.pending) (e2 : t.pins = s.pins)
    (e3 : t.crp.powered = s.crp.powered) (e4 : t.aon.still = s.aon.still) (e5 : t.peat.still = s.peat.still)
    (e6 : t.tap.still = s.tap.still) (e7 : a.good → spWf {} t.mem.ddr = true) (e8 : a.good → ∀ i : SliceNo, (t.sl i).good = true) :
    Kept a t :=
  ⟨e1.trans h.1, e2.trans h.2, e3.trans h.3, e4.trans h.4, e5.trans h.5, e6.trans h.6, fun g => ⟨e7 g, e8 g⟩⟩

/-- Every slice of a mapped vector. -/
theorem map_good {v : Vector Slice 8} {f : Slice → Slice} (i : SliceNo) (h : (v[i.val]).good = true)
    (hf : ∀ x : Slice, x.good = true → (f x).good = true) : ((v.map f)[i.val]).good = true := by
  rw [Vector.getElem_map]; exact hf _ h

theorem Slice.good_mk {s : Slice} {wayLock wdisCtl lookupCtl cacheCtl draining disabled wmbCtl cwCtl rbCtl retryCtl amoCtl shHit shMiss
    hintOk hintBad pfUse pfWaste amoNear amoFar slots tsFlaw slotFlaw shadow hints wdis corCnt wgOff wgDown walks wmb cw rb pfUseful pfWasted pfLimit
    stt waiters snpGrps predict farCnt seatNote} (h : s.good = true) (e : slots = s.slots) :
    (Slice.mk wayLock wdisCtl lookupCtl cacheCtl draining disabled wmbCtl cwCtl rbCtl retryCtl amoCtl shHit shMiss
      hintOk hintBad pfUse pfWaste amoNear amoFar s.tags slots tsFlaw slotFlaw shadow hints wdis corCnt wgOff wgDown walks wmb cw rb pfUseful pfWasted
      pfLimit stt waiters snpGrps predict farCnt seatNote).good = true := Slice.good_of h rfl e

theorem Kept.slGood {z0 s : State} {i : SliceNo} (h : Kept z0 s) (hz : z0.good) : (s.sl i).good = true := (h.good hz).2 i

theorem State.setSl_kept {z0 s : State} {i : SliceNo} {x : Slice} (h : Kept z0 s) (hx : z0.good → x.good = true) :
    Kept z0 (s.setSl i x) := by
  refine ⟨h.1, h.2, h.3, h.4, h.5, h.6, fun g => ⟨(h.good g).1, fun j => ?_⟩⟩
  show ((s.slices.set i.val x i.isLt)[j.val]).good = true
  rw [Vector.getElem_set]
  split
  · exact hx g
  · exact (h.good g).2 j

theorem State.modSl_kept {z0 s : State} {i : SliceNo} {f : Slice → Slice} (h : Kept z0 s)
    (hf : ∀ x : Slice, x.good = true → (f x).good = true) : Kept z0 (s.modSl i f) :=
  State.setSl_kept h fun g => hf _ ((h.good g).2 i)

end Sys2Proof.Machine
end

