-- ==== Sys2Proof/Laws/KeptOps.lean ====
section
/-! SUPPORT. `Kept` of the functions of the named operations, completions, stops, and reads and writes of the memories: one lemma per function. -/

set_option linter.unusedVariables false
set_option linter.unusedTactic false
set_option linter.unreachableTactic false

namespace Sys2Proof.Machine

theorem State.setHp_kept {z0 : State} (s : State) (p : Port) (h : HPort)
    (hK : Kept z0 s) : Kept z0 (State.setHp s p h) := by
  unfold State.setHp
  repeat' (first
    | with_reducible assumption
    | with_reducible refine Kept.ite (fun _ => ?_) (fun _ => ?_)
    | fail_if_no_progress ((with_reducible apply Kept.mk1) <;> (first | with_reducible assumption | with_reducible rfl | skip)))

theorem State.modHp_kept {z0 : State} (s : State) (p : Port) (f : HPort → HPort)
    (hK : Kept z0 s) : Kept z0 (State.modHp s p f) := by
  unfold State.modHp
  repeat' (first
    | with_reducible assumption
    | with_reducible apply State.setHp_kept)

theorem State.setFp_kept {z0 : State} (s : State) (f : FPortNo) (x : FPort)
    (hK : Kept z0 s) : Kept z0 (State.setFp s f x) := by
  unfold State.setFp
  repeat' (first
    | with_reducible assumption
    | with_reducible refine Kept.ite (fun _ => ?_) (fun _ => ?_)
    | fail_if_no_progress ((with_reducible apply Kept.mk1) <;> (first | with_reducible assumption | with_reducible rfl | skip)))

theorem State.modFp_kept {z0 : State} (s : State) (f : FPortNo) (g : FPort → FPort)
    (hK : Kept z0 s) : Kept z0 (State.modFp s f g) := by
  unfold State.modFp
  repeat' (first
    | with_reducible assumption
    | with_reducible apply State.setFp_kept)

theorem State.setMb_kept {z0 : State} (s : State) (p : Port) (x : Mbx)
    (hK : Kept z0 s) : Kept z0 (State.setMb s p x) := by
  unfold State.setMb
  repeat' (first
    | with_reducible assumption
    | with_reducible refine Kept.ite (fun _ => ?_) (fun _ => ?_)
    | fail_if_no_progress ((with_reducible apply Kept.mk1) <;> (first | with_reducible assumption | with_reducible rfl | skip)))

theorem State.modMb_kept {z0 : State} (s : State) (p : Port) (f : Mbx → Mbx)
    (hK : Kept z0 s) : Kept z0 (State.modMb s p f) := by
  unfold State.modMb
  repeat' (first
    | with_reducible assumption
    | with_reducible apply State.setMb_kept)

theorem State.setEq_kept {z0 : State} (s : State) (p : Port) (x : Evq)
    (hK : Kept z0 s) : Kept z0 (State.setEq s p x) := by
  unfold State.setEq
  repeat' (first
    | with_reducible assumption
    | with_reducible refine Kept.ite (fun _ => ?_) (fun _ => ?_)
    | fail_if_no_progress ((with_reducible apply Kept.mk1) <;> (first | with_reducible assumption | with_reducible rfl | skip)))

theorem State.modHome_kept {z0 : State} (s : State) (f : Home → Home)
    (hK : Kept z0 s) : Kept z0 (State.modHome s f) := by
  unfold State.modHome
  repeat' (first
    | with_reducible assumption
    | with_reducible refine Kept.ite (fun _ => ?_) (fun _ => ?_)
    | fail_if_no_progress ((with_reducible apply Kept.mk1) <;> (first | with_reducible assumption | with_reducible rfl | skip)))

theorem State.modFabric_kept {z0 : State} (s : State) (f : Fabric → Fabric)
    (hK : Kept z0 s) : Kept z0 (State.modFabric s f) := by
  unfold State.modFabric
  repeat' (first
    | with_reducible assumption
    | with_reducible refine Kept.ite (fun _ => ?_) (fun _ => ?_)
    | fail_if_no_progress ((with_reducible apply Kept.mk1) <;> (first | with_reducible assumption | with_reducible rfl | skip)))

theorem State.emit_kept {z0 : State} (s : State) (o : Out)
    (hK : Kept z0 s) : Kept z0 (State.emit s o) := by
  unfold State.emit
  repeat' (first
    | with_reducible assumption
    | with_reducible refine Kept.ite (fun _ => ?_) (fun _ => ?_)
    | fail_if_no_progress ((with_reducible apply Kept.mk1) <;> (first | with_reducible assumption | with_reducible rfl | skip)))

theorem State.tick1_kept {z0 : State} (s : State)
    (hK : Kept z0 s) : Kept z0 (State.tick1 s) := by
  unfold State.tick1
  repeat' (first
    | with_reducible assumption
    | with_reducible refine Kept.ite (fun _ => ?_) (fun _ => ?_)
    | fail_if_no_progress ((with_reducible apply Kept.mk1) <;> (first | with_reducible assumption | with_reducible rfl | skip)))

theorem toHost_kept {z0 : State} (p : Port) (m : ToHost) (s : State)
    (hK : Kept z0 s) : Kept z0 (toHost p m s) := by
  unfold toHost
  repeat' (first
    | with_reducible assumption
    | with_reducible apply State.setHp_kept
    | with_reducible apply State.emit_kept
    | with_reducible refine Kept.ite (fun _ => ?_) (fun _ => ?_)
    | fail_if_no_progress ((with_reducible apply Kept.mk1) <;> (first | with_reducible assumption | with_reducible rfl | skip))
    | with_reducible refine Kept.each (fun _ _ _ => ?_) ?_
    | with_reducible refine Kept.foldl2 (fun _ _ _ => ?_) ?_
    | with_reducible refine Kept.foldl (fun _ _ _ => ?_) ?_
    | extract_lets
    | with_reducible refine Kept.slGood (z0 := z0) ?_ ?_
    | with_reducible apply Slice.good_slots
    | with_reducible apply Slice.putBlock_good
    | with_reducible apply Slice.putWord_good
    | with_reducible apply Slice.putPlru_good
    | with_reducible apply Slice.touchWay_good
    | with_reducible apply Slice.mendSlot_good
    | with_reducible apply Slice.mendTS_good
    | with_reducible apply Slice.hitWay_good
    | with_reducible apply Slice.dropMove_good
    | with_reducible apply Slice.outcome_good
    | with_reducible apply Slice.hintFill_good
    | with_reducible apply Slice.predFix_good
    | with_reducible apply Slice.hintSeen_good
    | with_reducible apply Slice.predAdd_good
    | with_reducible apply Slice.closeLow_good
    | with_reducible apply Slice.setLock_good
    | with_reducible apply Slice.flushPlru_good
    | with_reducible refine Slice.shAlloc_good ?_ (by with_reducible assumption)
    | with_reducible refine Slice.ensureShadow_good ?_ (by with_reducible assumption)
    | with_reducible refine Slice.demandLook_good ?_ (by with_reducible assumption)
    | fail_if_no_progress ((with_reducible apply Slice.good_mk) <;> (first | with_reducible assumption | with_reducible rfl | skip))
    | split)

theorem msixCheck_kept {z0 : State} (p : Port) (s : State)
    (hK : Kept z0 s) : Kept z0 (msixCheck p s) := by
  unfold msixCheck
  repeat' (first
    | with_reducible assumption
    | with_reducible apply State.modHp_kept
    | with_reducible apply toHost_kept
    | with_reducible refine Kept.ite (fun _ => ?_) (fun _ => ?_))

theorem msixAll_kept {z0 : State} (s : State)
    (hK : Kept z0 s) : Kept z0 (msixAll s) := by
  unfold msixAll
  repeat' (first
    | with_reducible assumption
    | with_reducible apply msixCheck_kept
    | with_reducible refine Kept.ite (fun _ => ?_) (fun _ => ?_)
    | fail_if_no_progress ((with_reducible apply Kept.mk1) <;> (first | with_reducible assumption | with_reducible rfl | skip))
    | with_reducible refine Kept.each (fun _ _ _ => ?_) ?_)

theorem peatOwn_kept {z0 : State} (r : PRec) (s : State)
    (hK : Kept z0 s) : Kept z0 (peatOwn r s) := by
  unfold peatOwn
  repeat' (first
    | with_reducible assumption
    | with_reducible refine Kept.ite (fun _ => ?_) (fun _ => ?_)
    | fail_if_no_progress ((with_reducible apply Kept.mk1) <;> (first | with_reducible assumption | with_reducible rfl | skip)))

theorem peatEnter_kept {z0 : State} (r : PRec) (s : State)
    (hK : Kept z0 s) : Kept z0 (peatEnter r s) := by
  unfold peatEnter
  repeat' (first
    | with_reducible assumption
    | with_reducible refine Kept.ite (fun _ => ?_) (fun _ => ?_)
    | fail_if_no_progress ((with_reducible apply Kept.mk1) <;> (first | with_reducible assumption | with_reducible rfl | skip)))

theorem freezeDie_kept {z0 : State} (src : BitVec 3) (code : Byte) (s : State)
    (hK : Kept z0 s) : Kept z0 (freezeDie src code s) := by
  unfold freezeDie
  repeat' (first
    | with_reducible assumption
    | with_reducible apply peatOwn_kept
    | with_reducible refine Kept.ite (fun _ => ?_) (fun _ => ?_)
    | fail_if_no_progress ((with_reducible apply Kept.mk1) <;> (first | with_reducible assumption | with_reducible rfl | skip)))

theorem freezeOnEvent_kept {z0 : State} (code : Byte) (s : State)
    (hK : Kept z0 s) : Kept z0 (freezeOnEvent code s) := by
  unfold freezeOnEvent
  repeat' (first
    | with_reducible assumption
    | with_reducible apply freezeDie_kept
    | with_reducible refine Kept.ite (fun _ => ?_) (fun _ => ?_))

theorem postTo_kept {z0 : State} (p : Port) (code : Byte) (cls : Nat) (pl : List W64) (s : State)
    (hK : Kept z0 s) : Kept z0 (postTo p code cls pl s) := by
  unfold postTo
  repeat' (first
    | with_reducible assumption
    | with_reducible apply State.setEq_kept
    | with_reducible apply msixCheck_kept
    | with_reducible refine Kept.ite (fun _ => ?_) (fun _ => ?_))

theorem postEvent_kept {z0 : State} (code : Byte) (cls : Nat) (pl : List W64) (s : State)
    (hK : Kept z0 s) : Kept z0 (postEvent code cls pl s) := by
  unfold postEvent
  repeat' (first
    | with_reducible assumption
    | with_reducible apply freezeOnEvent_kept
    | with_reducible apply postTo_kept
    | with_reducible refine Kept.ite (fun _ => ?_) (fun _ => ?_)
    | fail_if_no_progress ((with_reducible apply Kept.mk1) <;> (first | with_reducible assumption | with_reducible rfl | skip))
    | with_reducible refine Kept.each (fun _ _ _ => ?_) ?_)

theorem postCmd_kept {z0 : State} (p : Port) (code : Byte) (pl : List W64) (s : State)
    (hK : Kept z0 s) : Kept z0 (postCmd p code pl s) := by
  unfold postCmd
  repeat' (first
    | with_reducible assumption
    | with_reducible apply freezeOnEvent_kept
    | with_reducible apply postTo_kept)

theorem evCfgDiscard_kept {z0 : State} (off : Nat) (m : Master) (v : W32) (s : State)
    (hK : Kept z0 s) : Kept z0 (evCfgDiscard off m v s) := by
  unfold evCfgDiscard
  repeat' (first
    | with_reducible assumption
    | with_reducible apply postEvent_kept)

theorem evProto_kept {z0 : State} (cause : Nat) (src : NodeId) (l : LAddr) (s : State)
    (hK : Kept z0 s) : Kept z0 (evProto cause src l s) := by
  unfold evProto
  repeat' (first
    | with_reducible assumption
    | with_reducible apply postEvent_kept
    | with_reducible refine Kept.ite (fun _ => ?_) (fun _ => ?_)
    | fail_if_no_progress ((with_reducible apply Kept.mk1) <;> (first | with_reducible assumption | with_reducible rfl | skip)))

theorem evQuarantine_kept {z0 : State} (l : LAddr) (s : State)
    (hK : Kept z0 s) : Kept z0 (evQuarantine l s) := by
  unfold evQuarantine
  repeat' (first
    | with_reducible assumption
    | with_reducible apply postEvent_kept)

theorem evPoisoned_kept {z0 : State} (l : LAddr) (rule : Nat) (s : State)
    (hK : Kept z0 s) : Kept z0 (evPoisoned l rule s) := by
  unfold evPoisoned
  repeat' (first
    | with_reducible assumption
    | with_reducible apply postEvent_kept)

theorem evAddrErr_kept {z0 : State} (a : GAddr) (p : Port) (s : State)
    (hK : Kept z0 s) : Kept z0 (evAddrErr a p s) := by
  unfold evAddrErr
  repeat' (first
    | with_reducible assumption
    | with_reducible apply postEvent_kept)

theorem evDeadDone_kept {z0 : State} (l : LAddr) (p : Port) (store : Bool) (s : State)
    (hK : Kept z0 s) : Kept z0 (evDeadDone l p store s) := by
  unfold evDeadDone
  repeat' (first
    | with_reducible assumption
    | with_reducible apply postEvent_kept)

theorem evSnoopLate_kept {z0 : State} (l : LAddr) (p : Port) (timedOut : Bool) (s : State)
    (hK : Kept z0 s) : Kept z0 (evSnoopLate l p timedOut s) := by
  unfold evSnoopLate
  repeat' (first
    | with_reducible assumption
    | with_reducible apply postEvent_kept)

theorem hostErr_kept {z0 : State} (p : Port) (cause : Nat) (opc : BitVec 6) (l : Option LAddr) (s : State)
    (hK : Kept z0 s) : Kept z0 (hostErr p cause opc l s) := by
  unfold hostErr
  repeat' (first
    | with_reducible assumption
    | with_reducible apply State.modHp_kept
    | with_reducible apply postEvent_kept)

theorem evNodeDead_kept {z0 : State} (n : NodeId) (s : State)
    (hK : Kept z0 s) : Kept z0 (evNodeDead n s) := by
  unfold evNodeDead
  repeat' (first
    | with_reducible assumption
    | with_reducible apply postEvent_kept)

theorem evStampStall_kept {z0 : State} (g : BitVec 6) (mask : BitVec 4) (cause : Nat) (s : State)
    (hK : Kept z0 s) : Kept z0 (evStampStall g mask cause s) := by
  unfold evStampStall
  repeat' (first
    | with_reducible assumption
    | with_reducible apply postEvent_kept)

theorem recLine_kept {z0 : State} (cause : Nat) (l : LAddr) (loc : Nat) (port : Nat) (s : State)
    (hK : Kept z0 s) : Kept z0 (recLine cause l loc port s) := by
  unfold recLine
  repeat' (first
    | with_reducible assumption
    | with_reducible apply peatEnter_kept)

theorem pmu_kept {z0 : State} (ev : Nat) (inst : Option Nat) (s : State)
    (hK : Kept z0 s) : Kept z0 (pmu ev inst s) := by
  unfold pmu
  repeat' (first
    | with_reducible assumption
    | with_reducible refine Kept.ite (fun _ => ?_) (fun _ => ?_)
    | fail_if_no_progress ((with_reducible apply Kept.mk1) <;> (first | with_reducible assumption | with_reducible rfl | skip)))

theorem postNotice_kept {z0 : State} (p : Port) (code : Byte) (arg : BitVec 16) (s : State)
    (hK : Kept z0 s) : Kept z0 (postNotice p code arg s) := by
  unfold postNotice
  repeat' (first
    | with_reducible assumption
    | with_reducible apply State.modHp_kept
    | with_reducible apply State.setMb_kept
    | with_reducible apply msixCheck_kept
    | with_reducible refine Kept.ite (fun _ => ?_) (fun _ => ?_)
    | fail_if_no_progress ((with_reducible apply Kept.mk1) <;> (first | with_reducible assumption | with_reducible rfl | skip))
    | with_reducible refine Kept.each (fun _ _ _ => ?_) ?_
    | with_reducible refine Kept.foldl2 (fun _ _ _ => ?_) ?_
    | with_reducible refine Kept.foldl (fun _ _ _ => ?_) ?_
    | extract_lets
    | with_reducible refine Kept.slGood (z0 := z0) ?_ ?_
    | with_reducible apply Slice.good_slots
    | with_reducible apply Slice.putBlock_good
    | with_reducible apply Slice.putWord_good
    | with_reducible apply Slice.putPlru_good
    | with_reducible apply Slice.touchWay_good
    | with_reducible apply Slice.mendSlot_good
    | with_reducible apply Slice.mendTS_good
    | with_reducible apply Slice.hitWay_good
    | with_reducible apply Slice.dropMove_good
    | with_reducible apply Slice.outcome_good
    | with_reducible apply Slice.hintFill_good
    | with_reducible apply Slice.predFix_good
    | with_reducible apply Slice.hintSeen_good
    | with_reducible apply Slice.predAdd_good
    | with_reducible apply Slice.closeLow_good
    | with_reducible apply Slice.setLock_good
    | with_reducible apply Slice.flushPlru_good
    | with_reducible refine Slice.shAlloc_good ?_ (by with_reducible assumption)
    | with_reducible refine Slice.ensureShadow_good ?_ (by with_reducible assumption)
    | with_reducible refine Slice.demandLook_good ?_ (by with_reducible assumption)
    | fail_if_no_progress ((with_reducible apply Slice.good_mk) <;> (first | with_reducible assumption | with_reducible rfl | skip))
    | split)

theorem postBacklog_kept {z0 : State} (p : Port) (s : State)
    (hK : Kept z0 s) : Kept z0 (postBacklog p s) := by
  unfold postBacklog
  repeat' (first
    | with_reducible assumption
    | with_reducible apply State.setMb_kept
    | with_reducible apply State.modMb_kept
    | with_reducible apply postNotice_kept
    | with_reducible refine Kept.ite (fun _ => ?_) (fun _ => ?_)
    | fail_if_no_progress ((with_reducible apply Kept.mk1) <;> (first | with_reducible assumption | with_reducible rfl | skip))
    | with_reducible refine Kept.each (fun _ _ _ => ?_) ?_
    | with_reducible refine Kept.foldl2 (fun _ _ _ => ?_) ?_
    | with_reducible refine Kept.foldl (fun _ _ _ => ?_) ?_
    | extract_lets
    | with_reducible refine Kept.slGood (z0 := z0) ?_ ?_
    | with_reducible apply Slice.good_slots
    | with_reducible apply Slice.putBlock_good
    | with_reducible apply Slice.putWord_good
    | with_reducible apply Slice.putPlru_good
    | with_reducible apply Slice.touchWay_good
    | with_reducible apply Slice.mendSlot_good
    | with_reducible apply Slice.mendTS_good
    | with_reducible apply Slice.hitWay_good
    | with_reducible apply Slice.dropMove_good
    | with_reducible apply Slice.outcome_good
    | with_reducible apply Slice.hintFill_good
    | with_reducible apply Slice.predFix_good
    | with_reducible apply Slice.hintSeen_good
    | with_reducible apply Slice.predAdd_good
    | with_reducible apply Slice.closeLow_good
    | with_reducible apply Slice.setLock_good
    | with_reducible apply Slice.flushPlru_good
    | with_reducible refine Slice.shAlloc_good ?_ (by with_reducible assumption)
    | with_reducible refine Slice.ensureShadow_good ?_ (by with_reducible assumption)
    | with_reducible refine Slice.demandLook_good ?_ (by with_reducible assumption)
    | fail_if_no_progress ((with_reducible apply Slice.good_mk) <;> (first | with_reducible assumption | with_reducible rfl | skip))
    | split)

theorem noteQuarantine_kept {z0 : State} (s : State) (p : Port)
    (hK : Kept z0 s) : Kept z0 (noteQuarantine s p) := by
  unfold noteQuarantine
  repeat' (first
    | with_reducible assumption
    | with_reducible apply State.setHp_kept
    | with_reducible apply postNotice_kept
    | with_reducible refine Kept.ite (fun _ => ?_) (fun _ => ?_))

theorem policyFix_kept {z0 : State} (l : LAddr) (s : State)
    (hK : Kept z0 s) : Kept z0 (policyFix l s) := by
  unfold policyFix
  repeat' (first
    | with_reducible assumption
    | with_reducible refine Kept.ite (fun _ => ?_) (fun _ => ?_)
    | fail_if_no_progress ((with_reducible apply Kept.mk1) <;> (first | with_reducible assumption | with_reducible rfl | skip)))

theorem discardTo_kept {z0 : State} (n : NodeId) (s : State)
    (hK : Kept z0 s) : Kept z0 (discardTo n s) := by
  unfold discardTo
  repeat' (first
    | with_reducible assumption
    | with_reducible apply State.modFp_kept
    | with_reducible refine Kept.ite (fun _ => ?_) (fun _ => ?_)
    | fail_if_no_progress ((with_reducible apply Kept.mk1) <;> (first | with_reducible assumption | with_reducible rfl | skip))
    | with_reducible refine Kept.each (fun _ _ _ => ?_) ?_
    | with_reducible refine Kept.foldl2 (fun _ _ _ => ?_) ?_
    | with_reducible refine Kept.foldl (fun _ _ _ => ?_) ?_
    | extract_lets
    | with_reducible refine Kept.slGood (z0 := z0) ?_ ?_
    | with_reducible apply Slice.good_slots
    | with_reducible apply Slice.putBlock_good
    | with_reducible apply Slice.putWord_good
    | with_reducible apply Slice.putPlru_good
    | with_reducible apply Slice.touchWay_good
    | with_reducible apply Slice.mendSlot_good
    | with_reducible apply Slice.mendTS_good
    | with_reducible apply Slice.hitWay_good
    | with_reducible apply Slice.dropMove_good
    | with_reducible apply Slice.outcome_good
    | with_reducible apply Slice.hintFill_good
    | with_reducible apply Slice.predFix_good
    | with_reducible apply Slice.hintSeen_good
    | with_reducible apply Slice.predAdd_good
    | with_reducible apply Slice.closeLow_good
    | with_reducible apply Slice.setLock_good
    | with_reducible apply Slice.flushPlru_good
    | with_reducible refine Slice.shAlloc_good ?_ (by with_reducible assumption)
    | with_reducible refine Slice.ensureShadow_good ?_ (by with_reducible assumption)
    | with_reducible refine Slice.demandLook_good ?_ (by with_reducible assumption)
    | fail_if_no_progress ((with_reducible apply Slice.good_mk) <;> (first | with_reducible assumption | with_reducible rfl | skip))
    | split)

theorem sendMsg_kept {z0 : State} (k : BKind) (m : BMsg) (s : State)
    (hK : Kept z0 s) : Kept z0 (sendMsg k m s) := by
  unfold sendMsg
  repeat' (first
    | with_reducible assumption
    | with_reducible apply State.emit_kept
    | with_reducible apply discardTo_kept
    | with_reducible refine Kept.ite (fun _ => ?_) (fun _ => ?_)
    | fail_if_no_progress ((with_reducible apply Kept.mk1) <;> (first | with_reducible assumption | with_reducible rfl | skip)))

theorem sendVc5_kept {z0 : State} (n : NodeId) (m : Vc5) (s : State)
    (hK : Kept z0 s) : Kept z0 (sendVc5 n m s) := by
  unfold sendVc5
  repeat' (first
    | with_reducible assumption
    | with_reducible apply State.emit_kept
    | with_reducible refine Kept.ite (fun _ => ?_) (fun _ => ?_)
    | fail_if_no_progress ((with_reducible apply Kept.mk1) <;> (first | with_reducible assumption | with_reducible rfl | skip)))

theorem retireReq_kept {z0 : State} (r : Req) (s : State)
    (hK : Kept z0 s) : Kept z0 (retireReq r s) := by
  unfold retireReq
  repeat' (first
    | with_reducible assumption
    | with_reducible apply State.modHp_kept)

theorem endBound_kept {z0 : State} (r : Req) (s : State)
    (hK : Kept z0 s) : Kept z0 (endBound r s) := by
  unfold endBound
  repeat' (first
    | with_reducible assumption
    | with_reducible apply State.modHp_kept
    | with_reducible apply postEvent_kept
    | with_reducible refine Kept.ite (fun _ => ?_) (fun _ => ?_))

theorem answer_kept {z0 : State} (r : Req) (m : ToHost) (s : State)
    (hK : Kept z0 s) : Kept z0 (answer r m s) := by
  unfold answer
  repeat' (first
    | with_reducible assumption
    | with_reducible apply toHost_kept)

theorem complete_kept {z0 : State} (r : Req) (st : BitVec 3) (grant : BitVec 2) (cmpeq poison : Bool) (s : State)
    (hK : Kept z0 s) : Kept z0 (complete r st grant cmpeq poison s) := by
  unfold complete
  repeat' (first
    | with_reducible assumption
    | with_reducible apply State.setHp_kept
    | with_reducible apply retireReq_kept
    | with_reducible apply endBound_kept
    | with_reducible apply answer_kept
    | with_reducible refine Kept.ite (fun _ => ?_) (fun _ => ?_)
    | fail_if_no_progress ((with_reducible apply Kept.mk1) <;> (first | with_reducible assumption | with_reducible rfl | skip))
    | with_reducible refine Kept.each (fun _ _ _ => ?_) ?_
    | with_reducible refine Kept.foldl2 (fun _ _ _ => ?_) ?_
    | with_reducible refine Kept.foldl (fun _ _ _ => ?_) ?_
    | extract_lets
    | with_reducible refine Kept.slGood (z0 := z0) ?_ ?_
    | with_reducible apply Slice.good_slots
    | with_reducible apply Slice.putBlock_good
    | with_reducible apply Slice.putWord_good
    | with_reducible apply Slice.putPlru_good
    | with_reducible apply Slice.touchWay_good
    | with_reducible apply Slice.mendSlot_good
    | with_reducible apply Slice.mendTS_good
    | with_reducible apply Slice.hitWay_good
    | with_reducible apply Slice.dropMove_good
    | with_reducible apply Slice.outcome_good
    | with_reducible apply Slice.hintFill_good
    | with_reducible apply Slice.predFix_good
    | with_reducible apply Slice.hintSeen_good
    | with_reducible apply Slice.predAdd_good
    | with_reducible apply Slice.closeLow_good
    | with_reducible apply Slice.setLock_good
    | with_reducible apply Slice.flushPlru_good
    | with_reducible refine Slice.shAlloc_good ?_ (by with_reducible assumption)
    | with_reducible refine Slice.ensureShadow_good ?_ (by with_reducible assumption)
    | with_reducible refine Slice.demandLook_good ?_ (by with_reducible assumption)
    | fail_if_no_progress ((with_reducible apply Slice.good_mk) <;> (first | with_reducible assumption | with_reducible rfl | skip))
    | split)

theorem completeData_kept {z0 : State} (r : Req) (st : BitVec 3) (grant : BitVec 2) (cmpeq poison : Bool) (len : Nat) (d : Line) (s : State)
    (hK : Kept z0 s) : Kept z0 (completeData r st grant cmpeq poison len d s) := by
  unfold completeData
  repeat' (first
    | with_reducible assumption
    | with_reducible apply State.setHp_kept
    | with_reducible apply retireReq_kept
    | with_reducible apply endBound_kept
    | with_reducible apply answer_kept
    | with_reducible refine Kept.ite (fun _ => ?_) (fun _ => ?_)
    | fail_if_no_progress ((with_reducible apply Kept.mk1) <;> (first | with_reducible assumption | with_reducible rfl | skip))
    | with_reducible refine Kept.each (fun _ _ _ => ?_) ?_
    | with_reducible refine Kept.foldl2 (fun _ _ _ => ?_) ?_
    | with_reducible refine Kept.foldl (fun _ _ _ => ?_) ?_
    | extract_lets
    | with_reducible refine Kept.slGood (z0 := z0) ?_ ?_
    | with_reducible apply Slice.good_slots
    | with_reducible apply Slice.putBlock_good
    | with_reducible apply Slice.putWord_good
    | with_reducible apply Slice.putPlru_good
    | with_reducible apply Slice.touchWay_good
    | with_reducible apply Slice.mendSlot_good
    | with_reducible apply Slice.mendTS_good
    | with_reducible apply Slice.hitWay_good
    | with_reducible apply Slice.dropMove_good
    | with_reducible apply Slice.outcome_good
    | with_reducible apply Slice.hintFill_good
    | with_reducible apply Slice.predFix_good
    | with_reducible apply Slice.hintSeen_good
    | with_reducible apply Slice.predAdd_good
    | with_reducible apply Slice.closeLow_good
    | with_reducible apply Slice.setLock_good
    | with_reducible apply Slice.flushPlru_good
    | with_reducible refine Slice.shAlloc_good ?_ (by with_reducible assumption)
    | with_reducible refine Slice.ensureShadow_good ?_ (by with_reducible assumption)
    | with_reducible refine Slice.demandLook_good ?_ (by with_reducible assumption)
    | fail_if_no_progress ((with_reducible apply Slice.good_mk) <;> (first | with_reducible assumption | with_reducible rfl | skip))
    | split)

theorem completeErr_kept {z0 : State} (r : Req) (st : BitVec 3) (s : State)
    (hK : Kept z0 s) : Kept z0 (completeErr r st s) := by
  unfold completeErr
  repeat' (first
    | with_reducible assumption
    | with_reducible apply complete_kept
    | with_reducible apply completeData_kept
    | with_reducible refine Kept.ite (fun _ => ?_) (fun _ => ?_))

theorem bufferFreed_kept {z0 : State} (i : FPortNo) (c cost n : Nat) (s : State)
    (hK : Kept z0 s) : Kept z0 (bufferFreed i c cost n s) := by
  unfold bufferFreed
  repeat' (first
    | with_reducible assumption
    | with_reducible apply State.modFp_kept
    | with_reducible refine Kept.ite (fun _ => ?_) (fun _ => ?_))

theorem gotPkt_kept {z0 : State} (src : NodeId) (cls : Nat) (len : BitVec 7) (s : State)
    (hK : Kept z0 s) : Kept z0 (gotPkt src cls len s) := by
  unfold gotPkt
  repeat' (first
    | with_reducible assumption
    | with_reducible apply bufferFreed_kept
    | with_reducible refine Kept.ite (fun _ => ?_) (fun _ => ?_)
    | fail_if_no_progress ((with_reducible apply Kept.mk1) <;> (first | with_reducible assumption | with_reducible rfl | skip))
    | with_reducible refine Kept.each (fun _ _ _ => ?_) ?_
    | with_reducible refine Kept.foldl2 (fun _ _ _ => ?_) ?_
    | with_reducible refine Kept.foldl (fun _ _ _ => ?_) ?_
    | extract_lets
    | with_reducible refine Kept.slGood (z0 := z0) ?_ ?_
    | with_reducible apply Slice.good_slots
    | with_reducible apply Slice.putBlock_good
    | with_reducible apply Slice.putWord_good
    | with_reducible apply Slice.putPlru_good
    | with_reducible apply Slice.touchWay_good
    | with_reducible apply Slice.mendSlot_good
    | with_reducible apply Slice.mendTS_good
    | with_reducible apply Slice.hitWay_good
    | with_reducible apply Slice.dropMove_good
    | with_reducible apply Slice.outcome_good
    | with_reducible apply Slice.hintFill_good
    | with_reducible apply Slice.predFix_good
    | with_reducible apply Slice.hintSeen_good
    | with_reducible apply Slice.predAdd_good
    | with_reducible apply Slice.closeLow_good
    | with_reducible apply Slice.setLock_good
    | with_reducible apply Slice.flushPlru_good
    | with_reducible refine Slice.shAlloc_good ?_ (by with_reducible assumption)
    | with_reducible refine Slice.ensureShadow_good ?_ (by with_reducible assumption)
    | with_reducible refine Slice.demandLook_good ?_ (by with_reducible assumption)
    | fail_if_no_progress ((with_reducible apply Slice.good_mk) <;> (first | with_reducible assumption | with_reducible rfl | skip))
    | split)

theorem gotVc5_kept {z0 : State} (src : NodeId) (s : State)
    (hK : Kept z0 s) : Kept z0 (gotVc5 src s) := by
  unfold gotVc5
  repeat' (first
    | with_reducible assumption
    | with_reducible apply State.tick1_kept
    | with_reducible apply gotPkt_kept
    | with_reducible refine Kept.ite (fun _ => ?_) (fun _ => ?_))

theorem gotVc4_kept {z0 : State} (i : FPortNo) (s : State)
    (hK : Kept z0 s) : Kept z0 (gotVc4 i s) := by
  unfold gotVc4
  repeat' (first
    | with_reducible assumption
    | with_reducible apply State.tick1_kept
    | with_reducible apply bufferFreed_kept)

theorem stampLostOf_kept {z0 : State} (g : BitVec 6) (cause : Nat) (l : LAddr) (s : State)
    (hK : Kept z0 s) : Kept z0 (stampLostOf g cause l s) := by
  unfold stampLostOf
  repeat' (first
    | with_reducible assumption
    | with_reducible apply peatEnter_kept
    | with_reducible apply postEvent_kept
    | with_reducible apply postNotice_kept
    | with_reducible refine Kept.ite (fun _ => ?_) (fun _ => ?_)
    | fail_if_no_progress ((with_reducible apply Kept.mk1) <;> (first | with_reducible assumption | with_reducible rfl | skip))
    | with_reducible refine Kept.each (fun _ _ _ => ?_) ?_)

theorem stampLost_kept {z0 : State} (cause : Nat) (l : LAddr) (s : State)
    (hK : Kept z0 s) : Kept z0 (stampLost cause l s) := by
  unfold stampLost
  repeat' (first
    | with_reducible assumption
    | with_reducible apply stampLostOf_kept
    | with_reducible refine Kept.ite (fun _ => ?_) (fun _ => ?_))

theorem stampHit_kept {z0 : State} (l : LAddr) (s : State)
    (hK : Kept z0 s) : Kept z0 (stampHit l s) := by
  unfold stampHit
  repeat' (first
    | with_reducible assumption
    | with_reducible apply stampLostOf_kept
    | with_reducible refine Kept.ite (fun _ => ?_) (fun _ => ?_)
    | fail_if_no_progress ((with_reducible apply Kept.mk1) <;> (first | with_reducible assumption | with_reducible rfl | skip))
    | with_reducible refine Kept.each (fun _ _ _ => ?_) ?_)

theorem stampCheck_kept {z0 : State} (r : Req) (bad : Bool) (s : State)
    (hK : Kept z0 s) : Kept z0 (stampCheck r bad s) := by
  unfold stampCheck
  repeat' (first
    | with_reducible assumption
    | with_reducible apply stampLost_kept
    | with_reducible refine Kept.ite (fun _ => ?_) (fun _ => ?_))

theorem completeStop_kept {z0 : State} (r : Req) (s : State)
    (hK : Kept z0 s) : Kept z0 (completeStop r s) := by
  unfold completeStop
  repeat' (first
    | with_reducible assumption
    | with_reducible apply completeErr_kept
    | with_reducible apply stampCheck_kept)

theorem endBar_kept {z0 : State} (p : Port) (b : Bar) (st : BitVec 3) (s : State)
    (hK : Kept z0 s) : Kept z0 (endBar p b st s) := by
  unfold endBar
  repeat' (first
    | with_reducible assumption
    | with_reducible apply State.modHp_kept
    | with_reducible apply toHost_kept)

theorem completeAllDead_kept {z0 : State} (s : State)
    (hK : Kept z0 s) : Kept z0 (completeAllDead s) := by
  unfold completeAllDead
  repeat' (first
    | with_reducible assumption
    | with_reducible apply State.modHp_kept
    | with_reducible apply State.modSl_kept
    | with_reducible apply completeStop_kept
    | with_reducible apply endBar_kept
    | with_reducible refine Kept.ite (fun _ => ?_) (fun _ => ?_)
    | fail_if_no_progress ((with_reducible apply Kept.mk1) <;> (first | with_reducible assumption | with_reducible rfl | skip))
    | with_reducible refine Kept.each (fun _ _ _ => ?_) ?_
    | with_reducible refine Kept.foldl2 (fun _ _ _ => ?_) ?_
    | with_reducible refine Kept.foldl (fun _ _ _ => ?_) ?_
    | extract_lets
    | with_reducible refine Kept.slGood (z0 := z0) ?_ ?_
    | with_reducible apply Slice.good_slots
    | with_reducible apply Slice.putBlock_good
    | with_reducible apply Slice.putWord_good
    | with_reducible apply Slice.putPlru_good
    | with_reducible apply Slice.touchWay_good
    | with_reducible apply Slice.mendSlot_good
    | with_reducible apply Slice.mendTS_good
    | with_reducible apply Slice.hitWay_good
    | with_reducible apply Slice.dropMove_good
    | with_reducible apply Slice.outcome_good
    | with_reducible apply Slice.hintFill_good
    | with_reducible apply Slice.predFix_good
    | with_reducible apply Slice.hintSeen_good
    | with_reducible apply Slice.predAdd_good
    | with_reducible apply Slice.closeLow_good
    | with_reducible apply Slice.setLock_good
    | with_reducible apply Slice.flushPlru_good
    | with_reducible refine Slice.shAlloc_good ?_ (by with_reducible assumption)
    | with_reducible refine Slice.ensureShadow_good ?_ (by with_reducible assumption)
    | with_reducible refine Slice.demandLook_good ?_ (by with_reducible assumption)
    | fail_if_no_progress ((with_reducible apply Slice.good_mk) <;> (first | with_reducible assumption | with_reducible rfl | skip))
    | split
    | with_reducible refine Kept.of_snd (by with_reducible assumption) ?_
    | dsimp +zetaDelta only
    | intro)

theorem recStop_kept {z0 : State} (cause unit idx loc : Nat) (s : State)
    (hK : Kept z0 s) : Kept z0 (recStop cause unit idx loc s) := by
  unfold recStop
  repeat' (first
    | with_reducible assumption
    | with_reducible apply peatOwn_kept)

theorem stopFabric_kept {z0 : State} (s : State)
    (hK : Kept z0 s) : Kept z0 (stopFabric s) := by
  unfold stopFabric
  repeat' (first
    | with_reducible assumption
    | with_reducible refine Kept.ite (fun _ => ?_) (fun _ => ?_)
    | fail_if_no_progress ((with_reducible apply Kept.mk1) <;> (first | with_reducible assumption | with_reducible rfl | skip)))

theorem countPass_kept {z0 : State} (i : SliceNo) (g : Option Cand) (aged : Bool) (s : State)
    (hK : Kept z0 s) : Kept z0 (countPass i g aged s) := by
  unfold countPass
  repeat' (first
    | with_reducible assumption
    | with_reducible apply pmu_kept
    | with_reducible refine Kept.ite (fun _ => ?_) (fun _ => ?_)
    | fail_if_no_progress ((with_reducible apply Kept.mk1) <;> (first | with_reducible assumption | with_reducible rfl | skip))
    | with_reducible refine Kept.each (fun _ _ _ => ?_) ?_
    | with_reducible refine Kept.foldl2 (fun _ _ _ => ?_) ?_
    | with_reducible refine Kept.foldl (fun _ _ _ => ?_) ?_
    | extract_lets
    | with_reducible refine Kept.slGood (z0 := z0) ?_ ?_
    | with_reducible apply Slice.good_slots
    | with_reducible apply Slice.putBlock_good
    | with_reducible apply Slice.putWord_good
    | with_reducible apply Slice.putPlru_good
    | with_reducible apply Slice.touchWay_good
    | with_reducible apply Slice.mendSlot_good
    | with_reducible apply Slice.mendTS_good
    | with_reducible apply Slice.hitWay_good
    | with_reducible apply Slice.dropMove_good
    | with_reducible apply Slice.outcome_good
    | with_reducible apply Slice.hintFill_good
    | with_reducible apply Slice.predFix_good
    | with_reducible apply Slice.hintSeen_good
    | with_reducible apply Slice.predAdd_good
    | with_reducible apply Slice.closeLow_good
    | with_reducible apply Slice.setLock_good
    | with_reducible apply Slice.flushPlru_good
    | with_reducible refine Slice.shAlloc_good ?_ (by with_reducible assumption)
    | with_reducible refine Slice.ensureShadow_good ?_ (by with_reducible assumption)
    | with_reducible refine Slice.demandLook_good ?_ (by with_reducible assumption)
    | fail_if_no_progress ((with_reducible apply Slice.good_mk) <;> (first | with_reducible assumption | with_reducible rfl | skip))
    | split)

theorem decideIn_kept {z0 : State} (i : SliceNo) (cs : List Cand) (s : State)
    (hK : Kept z0 s) : Kept z0 (decideIn i cs s).2 := by
  unfold decideIn
  repeat' (first
    | with_reducible assumption
    | with_reducible apply countPass_kept
    | with_reducible refine Kept.ite (fun _ => ?_) (fun _ => ?_)
    | fail_if_no_progress ((with_reducible apply Kept.mk1) <;> (first | with_reducible assumption | with_reducible rfl | skip)))

theorem stopAt_kept {z0 : State} (aonCause : BitVec 3) (cause : Nat) (idx loc : Nat) (s : State)
    (hK : Kept z0 s) : Kept z0 (stopAt aonCause cause idx loc s) := by
  unfold stopAt
  repeat' (first
    | with_reducible assumption
    | with_reducible apply freezeDie_kept
    | with_reducible apply completeAllDead_kept
    | with_reducible apply recStop_kept
    | with_reducible apply stopFabric_kept
    | with_reducible refine Kept.ite (fun _ => ?_) (fun _ => ?_)
    | fail_if_no_progress ((with_reducible apply Kept.mk1) <;> (first | with_reducible assumption | with_reducible rfl | skip)))

theorem stopDevice_kept {z0 : State} (aonCause : BitVec 3) (cause : Nat) (loc : Nat) (s : State)
    (hK : Kept z0 s) : Kept z0 (stopDevice aonCause cause loc s) := by
  unfold stopDevice
  repeat' (first
    | with_reducible assumption
    | with_reducible apply stopAt_kept)

theorem integrityStop_kept {z0 : State} (loc : Nat) (s : State)
    (hK : Kept z0 s) : Kept z0 (integrityStop loc s) := by
  unfold integrityStop
  repeat' (first
    | with_reducible assumption
    | with_reducible apply stopDevice_kept)

theorem Mem.toDram_ddr (m : Mem) (f : Nat) (d : DLine) : (m.toDram f d).ddr = spSet {} f d m.ddr := rfl

theorem drainOne_kept {z0 : State} (ch : Nat) (s : State)
    (hK : Kept z0 s) : Kept z0 (drainOne ch s) := by
  unfold drainOne
  extract_lets go
  split
  · exact hK
  · exact pmu_kept _ _ _ (Kept.mem hK fun g => spWf_spSet (hK.good g).1)

theorem drainAll_kept {z0 : State} (s : State)
    (hK : Kept z0 s) : Kept z0 (drainAll s) := by
  unfold drainAll
  exact Kept.foldl (fun t c h => pmu_kept _ _ _ (Kept.mem h fun g => spWf_spSet (h.good g).1)) (Kept.mem hK fun g => (hK.good g).1)

theorem fillAdvance_kept {z0 : State} (s : State)
    (hK : Kept z0 s) : Kept z0 (fillAdvance s) := by
  unfold fillAdvance
  repeat' (first
    | with_reducible assumption
    | with_reducible refine Kept.ite (fun _ => ?_) (fun _ => ?_)
    | fail_if_no_progress ((with_reducible apply Kept.mk1) <;> (first | with_reducible assumption | with_reducible rfl | skip)))

theorem slotDone_kept {z0 : State} (blk : Nat) (s : State)
    (hK : Kept z0 s) : Kept z0 (slotDone blk s) := by
  unfold slotDone
  repeat' (first
    | with_reducible assumption
    | with_reducible apply fillAdvance_kept
    | with_reducible refine Kept.ite (fun _ => ?_) (fun _ => ?_)
    | fail_if_no_progress ((with_reducible apply Kept.mk1) <;> (first | with_reducible assumption | with_reducible rfl | skip))
    | with_reducible refine Kept.each (fun _ _ _ => ?_) ?_
    | with_reducible refine Kept.foldl2 (fun _ _ _ => ?_) ?_
    | with_reducible refine Kept.foldl (fun _ _ _ => ?_) ?_
    | extract_lets
    | with_reducible refine Kept.slGood (z0 := z0) ?_ ?_
    | with_reducible apply Slice.good_slots
    | with_reducible apply Slice.putBlock_good
    | with_reducible apply Slice.putWord_good
    | with_reducible apply Slice.putPlru_good
    | with_reducible apply Slice.touchWay_good
    | with_reducible apply Slice.mendSlot_good
    | with_reducible apply Slice.mendTS_good
    | with_reducible apply Slice.hitWay_good
    | with_reducible apply Slice.dropMove_good
    | with_reducible apply Slice.outcome_good
    | with_reducible apply Slice.hintFill_good
    | with_reducible apply Slice.predFix_good
    | with_reducible apply Slice.hintSeen_good
    | with_reducible apply Slice.predAdd_good
    | with_reducible apply Slice.closeLow_good
    | with_reducible apply Slice.setLock_good
    | with_reducible apply Slice.flushPlru_good
    | with_reducible refine Slice.shAlloc_good ?_ (by with_reducible assumption)
    | with_reducible refine Slice.ensureShadow_good ?_ (by with_reducible assumption)
    | with_reducible refine Slice.demandLook_good ?_ (by with_reducible assumption)
    | fail_if_no_progress ((with_reducible apply Slice.good_mk) <;> (first | with_reducible assumption | with_reducible rfl | skip))
    | split)

theorem takeSlot_kept {z0 : State} (f : Nat) (s : State)
    (hK : Kept z0 s) : Kept z0 (takeSlot f s) := by
  unfold takeSlot
  repeat' (first
    | with_reducible assumption
    | with_reducible refine Kept.ite (fun _ => ?_) (fun _ => ?_)
    | fail_if_no_progress ((with_reducible apply Kept.mk1) <;> (first | with_reducible assumption | with_reducible rfl | skip)))

theorem makeRoom_kept {z0 : State} (ch : Nat) (s : State)
    (hK : Kept z0 s) : Kept z0 (makeRoom ch s) := by
  unfold makeRoom
  repeat' (first
    | with_reducible assumption
    | with_reducible apply drainOne_kept
    | with_reducible apply slotDone_kept
    | with_reducible apply takeSlot_kept
    | with_reducible refine Kept.ite (fun _ => ?_) (fun _ => ?_)
    | fail_if_no_progress ((with_reducible apply Kept.mk1) <;> (first | with_reducible assumption | with_reducible rfl | skip))
    | with_reducible refine Kept.each (fun _ _ _ => ?_) ?_
    | with_reducible refine Kept.foldl2 (fun _ _ _ => ?_) ?_
    | with_reducible refine Kept.foldl (fun _ _ _ => ?_) ?_
    | extract_lets
    | with_reducible refine Kept.slGood (z0 := z0) ?_ ?_
    | with_reducible apply Slice.good_slots
    | with_reducible apply Slice.putBlock_good
    | with_reducible apply Slice.putWord_good
    | with_reducible apply Slice.putPlru_good
    | with_reducible apply Slice.touchWay_good
    | with_reducible apply Slice.mendSlot_good
    | with_reducible apply Slice.mendTS_good
    | with_reducible apply Slice.hitWay_good
    | with_reducible apply Slice.dropMove_good
    | with_reducible apply Slice.outcome_good
    | with_reducible apply Slice.hintFill_good
    | with_reducible apply Slice.predFix_good
    | with_reducible apply Slice.hintSeen_good
    | with_reducible apply Slice.predAdd_good
    | with_reducible apply Slice.closeLow_good
    | with_reducible apply Slice.setLock_good
    | with_reducible apply Slice.flushPlru_good
    | with_reducible refine Slice.shAlloc_good ?_ (by with_reducible assumption)
    | with_reducible refine Slice.ensureShadow_good ?_ (by with_reducible assumption)
    | with_reducible refine Slice.demandLook_good ?_ (by with_reducible assumption)
    | fail_if_no_progress ((with_reducible apply Slice.good_mk) <;> (first | with_reducible assumption | with_reducible rfl | skip))
    | split)

theorem ddrQueue_kept {z0 : State} (f : Nat) (d : DLine) (s : State)
    (hK : Kept z0 s) : Kept z0 (ddrQueue f d s) := by
  unfold ddrQueue
  repeat' (first
    | with_reducible assumption
    | with_reducible apply takeSlot_kept
    | with_reducible apply makeRoom_kept
    | with_reducible refine Kept.ite (fun _ => ?_) (fun _ => ?_)
    | fail_if_no_progress ((with_reducible apply Kept.mk1) <;> (first | with_reducible assumption | with_reducible rfl | skip)))

theorem ddrPut_kept {z0 : State} (f : Nat) (d : DLine) (s : State)
    (hK : Kept z0 s) : Kept z0 (ddrPut f d s) := by
  unfold ddrPut
  repeat' (first
    | with_reducible assumption
    | with_reducible apply ddrQueue_kept
    | with_reducible refine Kept.ite (fun _ => ?_) (fun _ => ?_)
    | fail_if_no_progress ((with_reducible apply Kept.mk1) <;> (first | with_reducible assumption | with_reducible rfl | skip)))

theorem dirDrop_kept {z0 : State} (f : Nat) (s : State)
    (hK : Kept z0 s) : Kept z0 (dirDrop f s) := by
  unfold dirDrop
  repeat' (first
    | with_reducible assumption
    | with_reducible apply State.modHome_kept)

theorem quarantine_kept {z0 : State} (l : LAddr) (f : Nat) (s : State)
    (hK : Kept z0 s) : Kept z0 (quarantine l f s) := by
  unfold quarantine
  repeat' (first
    | with_reducible assumption
    | with_reducible apply postEvent_kept
    | with_reducible apply evQuarantine_kept
    | with_reducible apply recLine_kept
    | with_reducible apply noteQuarantine_kept
    | with_reducible apply stampHit_kept
    | with_reducible apply ddrPut_kept
    | with_reducible apply dirDrop_kept
    | with_reducible refine Kept.ite (fun _ => ?_) (fun _ => ?_)
    | fail_if_no_progress ((with_reducible apply Kept.mk1) <;> (first | with_reducible assumption | with_reducible rfl | skip))
    | with_reducible refine Kept.each (fun _ _ _ => ?_) ?_)

theorem scrubPass_kept {z0 : State} (i : SliceNo) (s : State)
    (hK : Kept z0 s) : Kept z0 (scrubPass i s) := by
  unfold scrubPass
  repeat' (first
    | with_reducible assumption
    | with_reducible apply decideIn_kept)

theorem tsLost_kept {z0 : State} (i : SliceNo) (set : Nat) (s : State)
    (hK : Kept z0 s) : Kept z0 (tsLost i set s) := by
  unfold tsLost
  repeat' (first
    | with_reducible assumption
    | with_reducible apply postEvent_kept
    | with_reducible apply integrityStop_kept
    | with_reducible refine Kept.ite (fun _ => ?_) (fun _ => ?_)
    | fail_if_no_progress ((with_reducible apply Kept.mk1) <;> (first | with_reducible assumption | with_reducible rfl | skip)))

theorem slotLost_kept {z0 : State} (i : SliceNo) (set w : Nat) (s : State)
    (hK : Kept z0 s) : Kept z0 (slotLost i set w s) := by
  unfold slotLost
  repeat' (first
    | with_reducible assumption
    | with_reducible apply State.modSl_kept
    | with_reducible apply postEvent_kept
    | with_reducible apply recLine_kept
    | with_reducible apply scrubPass_kept
    | with_reducible refine Kept.ite (fun _ => ?_) (fun _ => ?_)
    | fail_if_no_progress ((with_reducible apply Kept.mk1) <;> (first | with_reducible assumption | with_reducible rfl | skip))
    | with_reducible refine Kept.each (fun _ _ _ => ?_) ?_
    | with_reducible refine Kept.foldl2 (fun _ _ _ => ?_) ?_
    | with_reducible refine Kept.foldl (fun _ _ _ => ?_) ?_
    | extract_lets
    | with_reducible refine Kept.slGood (z0 := z0) ?_ ?_
    | with_reducible apply Slice.good_slots
    | with_reducible apply Slice.putBlock_good
    | with_reducible apply Slice.putWord_good
    | with_reducible apply Slice.putPlru_good
    | with_reducible apply Slice.touchWay_good
    | with_reducible apply Slice.mendSlot_good
    | with_reducible apply Slice.mendTS_good
    | with_reducible apply Slice.hitWay_good
    | with_reducible apply Slice.dropMove_good
    | with_reducible apply Slice.outcome_good
    | with_reducible apply Slice.hintFill_good
    | with_reducible apply Slice.predFix_good
    | with_reducible apply Slice.hintSeen_good
    | with_reducible apply Slice.predAdd_good
    | with_reducible apply Slice.closeLow_good
    | with_reducible apply Slice.setLock_good
    | with_reducible apply Slice.flushPlru_good
    | with_reducible refine Slice.shAlloc_good ?_ (by with_reducible assumption)
    | with_reducible refine Slice.ensureShadow_good ?_ (by with_reducible assumption)
    | with_reducible refine Slice.demandLook_good ?_ (by with_reducible assumption)
    | fail_if_no_progress ((with_reducible apply Slice.good_mk) <;> (first | with_reducible assumption | with_reducible rfl | skip))
    | split
    | with_reducible refine Kept.of_snd (by with_reducible assumption) ?_
    | dsimp +zetaDelta only
    | intro)

theorem evRepair_kept {z0 : State} (what loc : Nat) (s : State)
    (hK : Kept z0 s) : Kept z0 (evRepair what loc s) := by
  unfold evRepair
  repeat' (first
    | with_reducible assumption
    | with_reducible apply postEvent_kept)

theorem repState_kept {z0 : State} (r : RepLoc) (st : RepSt) (s : State)
    (hK : Kept z0 s) : Kept z0 (repState r st s) := by
  unfold repState
  repeat' (first
    | with_reducible assumption
    | with_reducible refine Kept.ite (fun _ => ?_) (fun _ => ?_)
    | fail_if_no_progress ((with_reducible apply Kept.mk1) <;> (first | with_reducible assumption | with_reducible rfl | skip)))

theorem repNew_kept {z0 : State} (r : RepLoc) (s : State)
    (hK : Kept z0 s) : Kept z0 (repNew r s) := by
  unfold repNew
  repeat' (first
    | with_reducible assumption
    | with_reducible refine Kept.ite (fun _ => ?_) (fun _ => ?_)
    | fail_if_no_progress ((with_reducible apply Kept.mk1) <;> (first | with_reducible assumption | with_reducible rfl | skip))
    | with_reducible refine Kept.each (fun _ _ _ => ?_) ?_
    | with_reducible refine Kept.foldl2 (fun _ _ _ => ?_) ?_
    | with_reducible refine Kept.foldl (fun _ _ _ => ?_) ?_
    | extract_lets
    | with_reducible refine Kept.slGood (z0 := z0) ?_ ?_
    | with_reducible apply Slice.good_slots
    | with_reducible apply Slice.putBlock_good
    | with_reducible apply Slice.putWord_good
    | with_reducible apply Slice.putPlru_good
    | with_reducible apply Slice.touchWay_good
    | with_reducible apply Slice.mendSlot_good
    | with_reducible apply Slice.mendTS_good
    | with_reducible apply Slice.hitWay_good
    | with_reducible apply Slice.dropMove_good
    | with_reducible apply Slice.outcome_good
    | with_reducible apply Slice.hintFill_good
    | with_reducible apply Slice.predFix_good
    | with_reducible apply Slice.hintSeen_good
    | with_reducible apply Slice.predAdd_good
    | with_reducible apply Slice.closeLow_good
    | with_reducible apply Slice.setLock_good
    | with_reducible apply Slice.flushPlru_good
    | with_reducible refine Slice.shAlloc_good ?_ (by with_reducible assumption)
    | with_reducible refine Slice.ensureShadow_good ?_ (by with_reducible assumption)
    | with_reducible refine Slice.demandLook_good ?_ (by with_reducible assumption)
    | fail_if_no_progress ((with_reducible apply Slice.good_mk) <;> (first | with_reducible assumption | with_reducible rfl | skip))
    | split)

theorem mapIsFull_kept {z0 : State} (r : RepLoc) (s : State)
    (hK : Kept z0 s) : Kept z0 (mapIsFull r s) := by
  unfold mapIsFull
  repeat' (first
    | with_reducible assumption
    | with_reducible apply peatEnter_kept
    | with_reducible apply evRepair_kept)

theorem enterMap_kept {z0 : State} (r : RepLoc) (s : State)
    (hK : Kept z0 s) : Kept z0 (enterMap r s) := by
  unfold enterMap
  repeat' (first
    | with_reducible assumption
    | with_reducible apply repState_kept
    | with_reducible apply repNew_kept
    | with_reducible apply mapIsFull_kept
    | with_reducible refine Kept.ite (fun _ => ?_) (fun _ => ?_)
    | fail_if_no_progress ((with_reducible apply Kept.mk1) <;> (first | with_reducible assumption | with_reducible rfl | skip))
    | with_reducible refine Kept.each (fun _ _ _ => ?_) ?_
    | with_reducible refine Kept.foldl2 (fun _ _ _ => ?_) ?_
    | with_reducible refine Kept.foldl (fun _ _ _ => ?_) ?_
    | extract_lets
    | with_reducible refine Kept.slGood (z0 := z0) ?_ ?_
    | with_reducible apply Slice.good_slots
    | with_reducible apply Slice.putBlock_good
    | with_reducible apply Slice.putWord_good
    | with_reducible apply Slice.putPlru_good
    | with_reducible apply Slice.touchWay_good
    | with_reducible apply Slice.mendSlot_good
    | with_reducible apply Slice.mendTS_good
    | with_reducible apply Slice.hitWay_good
    | with_reducible apply Slice.dropMove_good
    | with_reducible apply Slice.outcome_good
    | with_reducible apply Slice.hintFill_good
    | with_reducible apply Slice.predFix_good
    | with_reducible apply Slice.hintSeen_good
    | with_reducible apply Slice.predAdd_good
    | with_reducible apply Slice.closeLow_good
    | with_reducible apply Slice.setLock_good
    | with_reducible apply Slice.flushPlru_good
    | with_reducible refine Slice.shAlloc_good ?_ (by with_reducible assumption)
    | with_reducible refine Slice.ensureShadow_good ?_ (by with_reducible assumption)
    | with_reducible refine Slice.demandLook_good ?_ (by with_reducible assumption)
    | fail_if_no_progress ((with_reducible apply Slice.good_mk) <;> (first | with_reducible assumption | with_reducible rfl | skip))
    | split)

theorem requestRepair_kept {z0 : State} (ddr : Bool) (loc : BitVec 28) (s : State)
    (hK : Kept z0 s) : Kept z0 (requestRepair ddr loc s) := by
  unfold requestRepair
  repeat' (first
    | with_reducible assumption
    | with_reducible apply evRepair_kept
    | with_reducible apply enterMap_kept
    | with_reducible refine Kept.ite (fun _ => ?_) (fun _ => ?_))

theorem mendRowSlot_kept {z0 : State} (i : SliceNo) (set w : Nat) (s : State)
    (hK : Kept z0 s) : Kept z0 (mendRowSlot i set w s) := by
  unfold mendRowSlot
  repeat' (first
    | with_reducible assumption
    | with_reducible apply State.modSl_kept
    | with_reducible apply scrubPass_kept
    | with_reducible apply slotLost_kept
    | with_reducible refine Kept.ite (fun _ => ?_) (fun _ => ?_)
    | fail_if_no_progress ((with_reducible apply Kept.mk1) <;> (first | with_reducible assumption | with_reducible rfl | skip))
    | with_reducible refine Kept.each (fun _ _ _ => ?_) ?_
    | with_reducible refine Kept.foldl2 (fun _ _ _ => ?_) ?_
    | with_reducible refine Kept.foldl (fun _ _ _ => ?_) ?_
    | extract_lets
    | with_reducible refine Kept.slGood (z0 := z0) ?_ ?_
    | with_reducible apply Slice.good_slots
    | with_reducible apply Slice.putBlock_good
    | with_reducible apply Slice.putWord_good
    | with_reducible apply Slice.putPlru_good
    | with_reducible apply Slice.touchWay_good
    | with_reducible apply Slice.mendSlot_good
    | with_reducible apply Slice.mendTS_good
    | with_reducible apply Slice.hitWay_good
    | with_reducible apply Slice.dropMove_good
    | with_reducible apply Slice.outcome_good
    | with_reducible apply Slice.hintFill_good
    | with_reducible apply Slice.predFix_good
    | with_reducible apply Slice.hintSeen_good
    | with_reducible apply Slice.predAdd_good
    | with_reducible apply Slice.closeLow_good
    | with_reducible apply Slice.setLock_good
    | with_reducible apply Slice.flushPlru_good
    | with_reducible refine Slice.shAlloc_good ?_ (by with_reducible assumption)
    | with_reducible refine Slice.ensureShadow_good ?_ (by with_reducible assumption)
    | with_reducible refine Slice.demandLook_good ?_ (by with_reducible assumption)
    | fail_if_no_progress ((with_reducible apply Slice.good_mk) <;> (first | with_reducible assumption | with_reducible rfl | skip))
    | split
    | with_reducible refine Kept.of_snd (by with_reducible assumption) ?_
    | dsimp +zetaDelta only
    | intro)

theorem mendRowTS_kept {z0 : State} (i : SliceNo) (set : Nat) (s : State)
    (hK : Kept z0 s) : Kept z0 (mendRowTS i set s) := by
  unfold mendRowTS
  repeat' (first
    | with_reducible assumption
    | with_reducible apply State.modSl_kept
    | with_reducible apply scrubPass_kept
    | with_reducible apply tsLost_kept
    | with_reducible refine Kept.ite (fun _ => ?_) (fun _ => ?_)
    | fail_if_no_progress ((with_reducible apply Kept.mk1) <;> (first | with_reducible assumption | with_reducible rfl | skip))
    | with_reducible refine Kept.each (fun _ _ _ => ?_) ?_
    | with_reducible refine Kept.foldl2 (fun _ _ _ => ?_) ?_
    | with_reducible refine Kept.foldl (fun _ _ _ => ?_) ?_
    | extract_lets
    | with_reducible refine Kept.slGood (z0 := z0) ?_ ?_
    | with_reducible apply Slice.good_slots
    | with_reducible apply Slice.putBlock_good
    | with_reducible apply Slice.putWord_good
    | with_reducible apply Slice.putPlru_good
    | with_reducible apply Slice.touchWay_good
    | with_reducible apply Slice.mendSlot_good
    | with_reducible apply Slice.mendTS_good
    | with_reducible apply Slice.hitWay_good
    | with_reducible apply Slice.dropMove_good
    | with_reducible apply Slice.outcome_good
    | with_reducible apply Slice.hintFill_good
    | with_reducible apply Slice.predFix_good
    | with_reducible apply Slice.hintSeen_good
    | with_reducible apply Slice.predAdd_good
    | with_reducible apply Slice.closeLow_good
    | with_reducible apply Slice.setLock_good
    | with_reducible apply Slice.flushPlru_good
    | with_reducible refine Slice.shAlloc_good ?_ (by with_reducible assumption)
    | with_reducible refine Slice.ensureShadow_good ?_ (by with_reducible assumption)
    | with_reducible refine Slice.demandLook_good ?_ (by with_reducible assumption)
    | fail_if_no_progress ((with_reducible apply Slice.good_mk) <;> (first | with_reducible assumption | with_reducible rfl | skip))
    | split
    | with_reducible refine Kept.of_snd (by with_reducible assumption) ?_
    | dsimp +zetaDelta only
    | intro)

theorem mendRowLine_kept {z0 : State} (f : Nat) (s : State)
    (hK : Kept z0 s) : Kept z0 (mendRowLine f s) := by
  unfold mendRowLine
  repeat' (first
    | with_reducible assumption
    | with_reducible apply ddrQueue_kept
    | with_reducible apply quarantine_kept
    | with_reducible refine Kept.ite (fun _ => ?_) (fun _ => ?_)
    | fail_if_no_progress ((with_reducible apply Kept.mk1) <;> (first | with_reducible assumption | with_reducible rfl | skip))
    | with_reducible refine Kept.each (fun _ _ _ => ?_) ?_
    | with_reducible refine Kept.foldl2 (fun _ _ _ => ?_) ?_
    | with_reducible refine Kept.foldl (fun _ _ _ => ?_) ?_
    | extract_lets
    | with_reducible refine Kept.slGood (z0 := z0) ?_ ?_
    | with_reducible apply Slice.good_slots
    | with_reducible apply Slice.putBlock_good
    | with_reducible apply Slice.putWord_good
    | with_reducible apply Slice.putPlru_good
    | with_reducible apply Slice.touchWay_good
    | with_reducible apply Slice.mendSlot_good
    | with_reducible apply Slice.mendTS_good
    | with_reducible apply Slice.hitWay_good
    | with_reducible apply Slice.dropMove_good
    | with_reducible apply Slice.outcome_good
    | with_reducible apply Slice.hintFill_good
    | with_reducible apply Slice.predFix_good
    | with_reducible apply Slice.hintSeen_good
    | with_reducible apply Slice.predAdd_good
    | with_reducible apply Slice.closeLow_good
    | with_reducible apply Slice.setLock_good
    | with_reducible apply Slice.flushPlru_good
    | with_reducible refine Slice.shAlloc_good ?_ (by with_reducible assumption)
    | with_reducible refine Slice.ensureShadow_good ?_ (by with_reducible assumption)
    | with_reducible refine Slice.demandLook_good ?_ (by with_reducible assumption)
    | fail_if_no_progress ((with_reducible apply Slice.good_mk) <;> (first | with_reducible assumption | with_reducible rfl | skip))
    | split)

theorem rewriteRow_kept {z0 : State} (ddr : Bool) (loc : BitVec 28) (s : State)
    (hK : Kept z0 s) : Kept z0 (rewriteRow ddr loc s) := by
  unfold rewriteRow
  repeat' (first
    | with_reducible assumption
    | with_reducible apply mendRowSlot_kept
    | with_reducible apply mendRowTS_kept
    | with_reducible apply mendRowLine_kept
    | with_reducible refine Kept.ite (fun _ => ?_) (fun _ => ?_)
    | fail_if_no_progress ((with_reducible apply Kept.mk1) <;> (first | with_reducible assumption | with_reducible rfl | skip))
    | with_reducible refine Kept.each (fun _ _ _ => ?_) ?_)

theorem rowWriteback_kept {z0 : State} (ddr : Bool) (loc : BitVec 28) (row : HistRow) (s : State)
    (hK : Kept z0 s) : Kept z0 (rowWriteback ddr loc row s) := by
  unfold rowWriteback
  repeat' (first
    | with_reducible assumption
    | with_reducible apply postEvent_kept
    | with_reducible apply rewriteRow_kept
    | with_reducible refine Kept.ite (fun _ => ?_) (fun _ => ?_)
    | fail_if_no_progress ((with_reducible apply Kept.mk1) <;> (first | with_reducible assumption | with_reducible rfl | skip)))

theorem bucketAdd_kept {z0 : State} (s : State)
    (hK : Kept z0 s) : Kept z0 (bucketAdd s) := by
  unfold bucketAdd
  repeat' (first
    | with_reducible assumption
    | with_reducible apply postEvent_kept
    | with_reducible refine Kept.ite (fun _ => ?_) (fun _ => ?_)
    | fail_if_no_progress ((with_reducible apply Kept.mk1) <;> (first | with_reducible assumption | with_reducible rfl | skip)))

theorem bufCorrected_kept {z0 : State} (s : State)
    (hK : Kept z0 s) : Kept z0 (bufCorrected s) := by
  unfold bufCorrected
  repeat' (first
    | with_reducible assumption
    | with_reducible apply bucketAdd_kept
    | with_reducible refine Kept.ite (fun _ => ?_) (fun _ => ?_)
    | fail_if_no_progress ((with_reducible apply Kept.mk1) <;> (first | with_reducible assumption | with_reducible rfl | skip)))

theorem histCount_kept {z0 : State} (ddr : Bool) (loc : BitVec 28) (line : BitVec 8) (syn : BitVec 16) (s : State)
    (hK : Kept z0 s) : Kept z0 (histCount ddr loc line syn s) := by
  unfold histCount
  repeat' (first
    | with_reducible assumption
    | with_reducible apply postEvent_kept
    | with_reducible apply requestRepair_kept
    | with_reducible apply rowWriteback_kept
    | with_reducible refine Kept.ite (fun _ => ?_) (fun _ => ?_)
    | fail_if_no_progress ((with_reducible apply Kept.mk1) <;> (first | with_reducible assumption | with_reducible rfl | skip))
    | with_reducible refine Kept.each (fun _ _ _ => ?_) ?_
    | with_reducible refine Kept.foldl2 (fun _ _ _ => ?_) ?_
    | with_reducible refine Kept.foldl (fun _ _ _ => ?_) ?_
    | extract_lets
    | with_reducible refine Kept.slGood (z0 := z0) ?_ ?_
    | with_reducible apply Slice.good_slots
    | with_reducible apply Slice.putBlock_good
    | with_reducible apply Slice.putWord_good
    | with_reducible apply Slice.putPlru_good
    | with_reducible apply Slice.touchWay_good
    | with_reducible apply Slice.mendSlot_good
    | with_reducible apply Slice.mendTS_good
    | with_reducible apply Slice.hitWay_good
    | with_reducible apply Slice.dropMove_good
    | with_reducible apply Slice.outcome_good
    | with_reducible apply Slice.hintFill_good
    | with_reducible apply Slice.predFix_good
    | with_reducible apply Slice.hintSeen_good
    | with_reducible apply Slice.predAdd_good
    | with_reducible apply Slice.closeLow_good
    | with_reducible apply Slice.setLock_good
    | with_reducible apply Slice.flushPlru_good
    | with_reducible refine Slice.shAlloc_good ?_ (by with_reducible assumption)
    | with_reducible refine Slice.ensureShadow_good ?_ (by with_reducible assumption)
    | with_reducible refine Slice.demandLook_good ?_ (by with_reducible assumption)
    | fail_if_no_progress ((with_reducible apply Slice.good_mk) <;> (first | with_reducible assumption | with_reducible rfl | skip))
    | split
    | with_reducible refine Kept.of_snd (by with_reducible assumption) ?_
    | dsimp +zetaDelta only)

theorem noteRepeat_kept {z0 : State} (ddr : Bool) (loc : BitVec 28) (s : State)
    (hK : Kept z0 s) : Kept z0 (noteRepeat ddr loc s) := by
  unfold noteRepeat
  repeat' (first
    | with_reducible assumption
    | with_reducible refine Kept.ite (fun _ => ?_) (fun _ => ?_)
    | fail_if_no_progress ((with_reducible apply Kept.mk1) <;> (first | with_reducible assumption | with_reducible rfl | skip)))

theorem counted_kept {z0 : State} (ddr : Bool) (loc : BitVec 28) (line : BitVec 8) (syn : BitVec 16) (s : State)
    (hK : Kept z0 s) : Kept z0 (counted ddr loc line syn s) := by
  unfold counted
  repeat' (first
    | with_reducible assumption
    | with_reducible apply bucketAdd_kept
    | with_reducible apply histCount_kept
    | with_reducible refine Kept.ite (fun _ => ?_) (fun _ => ?_)
    | fail_if_no_progress ((with_reducible apply Kept.mk1) <;> (first | with_reducible assumption | with_reducible rfl | skip)))

theorem recWay_kept {z0 : State} (cause : Nat) (i : SliceNo) (region w cnt : Nat) (s : State)
    (hK : Kept z0 s) : Kept z0 (recWay cause i region w cnt s) := by
  unfold recWay
  repeat' (first
    | with_reducible assumption
    | with_reducible apply peatEnter_kept)

theorem disableStart_kept {z0 : State} (i : SliceNo) (region w cnt : Nat) (s : State)
    (hK : Kept z0 s) : Kept z0 (disableStart i region w cnt s) := by
  unfold disableStart
  repeat' (first
    | with_reducible assumption
    | with_reducible apply State.modSl_kept
    | with_reducible apply postEvent_kept
    | with_reducible apply stampLost_kept
    | with_reducible apply recWay_kept
    | with_reducible refine Kept.ite (fun _ => ?_) (fun _ => ?_)
    | fail_if_no_progress ((with_reducible apply Kept.mk1) <;> (first | with_reducible assumption | with_reducible rfl | skip))
    | with_reducible refine Kept.each (fun _ _ _ => ?_) ?_
    | with_reducible refine Kept.foldl2 (fun _ _ _ => ?_) ?_
    | with_reducible refine Kept.foldl (fun _ _ _ => ?_) ?_
    | extract_lets
    | with_reducible refine Kept.slGood (z0 := z0) ?_ ?_
    | with_reducible apply Slice.good_slots
    | with_reducible apply Slice.putBlock_good
    | with_reducible apply Slice.putWord_good
    | with_reducible apply Slice.putPlru_good
    | with_reducible apply Slice.touchWay_good
    | with_reducible apply Slice.mendSlot_good
    | with_reducible apply Slice.mendTS_good
    | with_reducible apply Slice.hitWay_good
    | with_reducible apply Slice.dropMove_good
    | with_reducible apply Slice.outcome_good
    | with_reducible apply Slice.hintFill_good
    | with_reducible apply Slice.predFix_good
    | with_reducible apply Slice.hintSeen_good
    | with_reducible apply Slice.predAdd_good
    | with_reducible apply Slice.closeLow_good
    | with_reducible apply Slice.setLock_good
    | with_reducible apply Slice.flushPlru_good
    | with_reducible refine Slice.shAlloc_good ?_ (by with_reducible assumption)
    | with_reducible refine Slice.ensureShadow_good ?_ (by with_reducible assumption)
    | with_reducible refine Slice.demandLook_good ?_ (by with_reducible assumption)
    | fail_if_no_progress ((with_reducible apply Slice.good_mk) <;> (first | with_reducible assumption | with_reducible rfl | skip))
    | split
    | with_reducible refine Kept.of_snd (by with_reducible assumption) ?_
    | dsimp +zetaDelta only
    | intro)

theorem countWay_kept {z0 : State} (i : SliceNo) (set w : Nat) (s : State)
    (hK : Kept z0 s) : Kept z0 (countWay i set w s) := by
  unfold countWay
  repeat' (first
    | with_reducible assumption
    | with_reducible apply State.setSl_kept
    | with_reducible apply disableStart_kept
    | with_reducible refine Kept.ite (fun _ => ?_) (fun _ => ?_)
    | fail_if_no_progress ((with_reducible apply Kept.mk1) <;> (first | with_reducible assumption | with_reducible rfl | skip))
    | with_reducible refine Kept.each (fun _ _ _ => ?_) ?_
    | with_reducible refine Kept.foldl2 (fun _ _ _ => ?_) ?_
    | with_reducible refine Kept.foldl (fun _ _ _ => ?_) ?_
    | extract_lets
    | with_reducible refine Kept.slGood (z0 := z0) ?_ ?_
    | with_reducible apply Slice.good_slots
    | with_reducible apply Slice.putBlock_good
    | with_reducible apply Slice.putWord_good
    | with_reducible apply Slice.putPlru_good
    | with_reducible apply Slice.touchWay_good
    | with_reducible apply Slice.mendSlot_good
    | with_reducible apply Slice.mendTS_good
    | with_reducible apply Slice.hitWay_good
    | with_reducible apply Slice.dropMove_good
    | with_reducible apply Slice.outcome_good
    | with_reducible apply Slice.hintFill_good
    | with_reducible apply Slice.predFix_good
    | with_reducible apply Slice.hintSeen_good
    | with_reducible apply Slice.predAdd_good
    | with_reducible apply Slice.closeLow_good
    | with_reducible apply Slice.setLock_good
    | with_reducible apply Slice.flushPlru_good
    | with_reducible refine Slice.shAlloc_good ?_ (by with_reducible assumption)
    | with_reducible refine Slice.ensureShadow_good ?_ (by with_reducible assumption)
    | with_reducible refine Slice.demandLook_good ?_ (by with_reducible assumption)
    | fail_if_no_progress ((with_reducible apply Slice.good_mk) <;> (first | with_reducible assumption | with_reducible rfl | skip))
    | split
    | with_reducible refine Kept.of_snd (by with_reducible assumption) ?_
    | dsimp +zetaDelta only
    | intro)

theorem recordSev_kept {z0 : State} (i : SliceNo) (set slot : Nat) (sv : Sev) (clean : Bool) (s : State)
    (hK : Kept z0 s) : Kept z0 (recordSev i set slot sv clean s) := by
  unfold recordSev
  repeat' (first
    | with_reducible assumption
    | with_reducible apply counted_kept
    | with_reducible apply countWay_kept
    | with_reducible refine Kept.ite (fun _ => ?_) (fun _ => ?_)
    | fail_if_no_progress ((with_reducible apply Kept.mk1) <;> (first | with_reducible assumption | with_reducible rfl | skip))
    | with_reducible refine Kept.each (fun _ _ _ => ?_) ?_
    | with_reducible refine Kept.foldl2 (fun _ _ _ => ?_) ?_
    | with_reducible refine Kept.foldl (fun _ _ _ => ?_) ?_
    | extract_lets
    | with_reducible refine Kept.slGood (z0 := z0) ?_ ?_
    | with_reducible apply Slice.good_slots
    | with_reducible apply Slice.putBlock_good
    | with_reducible apply Slice.putWord_good
    | with_reducible apply Slice.putPlru_good
    | with_reducible apply Slice.touchWay_good
    | with_reducible apply Slice.mendSlot_good
    | with_reducible apply Slice.mendTS_good
    | with_reducible apply Slice.hitWay_good
    | with_reducible apply Slice.dropMove_good
    | with_reducible apply Slice.outcome_good
    | with_reducible apply Slice.hintFill_good
    | with_reducible apply Slice.predFix_good
    | with_reducible apply Slice.hintSeen_good
    | with_reducible apply Slice.predAdd_good
    | with_reducible apply Slice.closeLow_good
    | with_reducible apply Slice.setLock_good
    | with_reducible apply Slice.flushPlru_good
    | with_reducible refine Slice.shAlloc_good ?_ (by with_reducible assumption)
    | with_reducible refine Slice.ensureShadow_good ?_ (by with_reducible assumption)
    | with_reducible refine Slice.demandLook_good ?_ (by with_reducible assumption)
    | fail_if_no_progress ((with_reducible apply Slice.good_mk) <;> (first | with_reducible assumption | with_reducible rfl | skip))
    | split)

theorem rowOpen_kept {z0 : State} (set : Nat) (s : State)
    (hK : Kept z0 s) : Kept z0 (rowOpen set s) := by
  unfold rowOpen
  repeat' (first
    | with_reducible assumption
    | with_reducible apply pmu_kept)

theorem readSlot_kept {z0 : State} (i : SliceNo) (set w : Nat) (s : State)
    (hK : Kept z0 s) : Kept z0 (readSlot i set w s).2.2 := by
  unfold readSlot
  repeat' (first
    | with_reducible assumption
    | with_reducible apply State.modSl_kept
    | with_reducible apply scrubPass_kept
    | with_reducible apply slotLost_kept
    | with_reducible apply noteRepeat_kept
    | with_reducible apply counted_kept
    | with_reducible apply countWay_kept
    | with_reducible apply recordSev_kept
    | with_reducible apply rowOpen_kept
    | with_reducible refine Kept.ite (fun _ => ?_) (fun _ => ?_)
    | fail_if_no_progress ((with_reducible apply Kept.mk1) <;> (first | with_reducible assumption | with_reducible rfl | skip))
    | with_reducible refine Kept.each (fun _ _ _ => ?_) ?_
    | with_reducible refine Kept.foldl2 (fun _ _ _ => ?_) ?_
    | with_reducible refine Kept.foldl (fun _ _ _ => ?_) ?_
    | extract_lets
    | with_reducible refine Kept.slGood (z0 := z0) ?_ ?_
    | with_reducible apply Slice.good_slots
    | with_reducible apply Slice.putBlock_good
    | with_reducible apply Slice.putWord_good
    | with_reducible apply Slice.putPlru_good
    | with_reducible apply Slice.touchWay_good
    | with_reducible apply Slice.mendSlot_good
    | with_reducible apply Slice.mendTS_good
    | with_reducible apply Slice.hitWay_good
    | with_reducible apply Slice.dropMove_good
    | with_reducible apply Slice.outcome_good
    | with_reducible apply Slice.hintFill_good
    | with_reducible apply Slice.predFix_good
    | with_reducible apply Slice.hintSeen_good
    | with_reducible apply Slice.predAdd_good
    | with_reducible apply Slice.closeLow_good
    | with_reducible apply Slice.setLock_good
    | with_reducible apply Slice.flushPlru_good
    | with_reducible refine Slice.shAlloc_good ?_ (by with_reducible assumption)
    | with_reducible refine Slice.ensureShadow_good ?_ (by with_reducible assumption)
    | with_reducible refine Slice.demandLook_good ?_ (by with_reducible assumption)
    | fail_if_no_progress ((with_reducible apply Slice.good_mk) <;> (first | with_reducible assumption | with_reducible rfl | skip))
    | split
    | with_reducible refine Kept.of_snd (by with_reducible assumption) ?_
    | dsimp +zetaDelta only
    | intro)

theorem writeSlot_kept {z0 : State} (i : SliceNo) (set w : Nat) (d : Slot) (s : State)
    (hK : Kept z0 s) : Kept z0 (writeSlot i set w d s) := by
  unfold writeSlot
  repeat' (first
    | with_reducible assumption
    | with_reducible apply State.modSl_kept
    | with_reducible refine Kept.ite (fun _ => ?_) (fun _ => ?_)
    | fail_if_no_progress ((with_reducible apply Kept.mk1) <;> (first | with_reducible assumption | with_reducible rfl | skip))
    | with_reducible refine Kept.each (fun _ _ _ => ?_) ?_
    | with_reducible refine Kept.foldl2 (fun _ _ _ => ?_) ?_
    | with_reducible refine Kept.foldl (fun _ _ _ => ?_) ?_
    | extract_lets
    | with_reducible refine Kept.slGood (z0 := z0) ?_ ?_
    | with_reducible apply Slice.good_slots
    | with_reducible apply Slice.putBlock_good
    | with_reducible apply Slice.putWord_good
    | with_reducible apply Slice.putPlru_good
    | with_reducible apply Slice.touchWay_good
    | with_reducible apply Slice.mendSlot_good
    | with_reducible apply Slice.mendTS_good
    | with_reducible apply Slice.hitWay_good
    | with_reducible apply Slice.dropMove_good
    | with_reducible apply Slice.outcome_good
    | with_reducible apply Slice.hintFill_good
    | with_reducible apply Slice.predFix_good
    | with_reducible apply Slice.hintSeen_good
    | with_reducible apply Slice.predAdd_good
    | with_reducible apply Slice.closeLow_good
    | with_reducible apply Slice.setLock_good
    | with_reducible apply Slice.flushPlru_good
    | with_reducible refine Slice.shAlloc_good ?_ (by with_reducible assumption)
    | with_reducible refine Slice.ensureShadow_good ?_ (by with_reducible assumption)
    | with_reducible refine Slice.demandLook_good ?_ (by with_reducible assumption)
    | fail_if_no_progress ((with_reducible apply Slice.good_mk) <;> (first | with_reducible assumption | with_reducible rfl | skip))
    | split
    | with_reducible refine Kept.of_snd (by with_reducible assumption) ?_
    | dsimp +zetaDelta only
    | intro)

theorem readTS_kept {z0 : State} (i : SliceNo) (set : Nat) (s : State)
    (hK : Kept z0 s) : Kept z0 (readTS i set s).2 := by
  unfold readTS
  repeat' (first
    | with_reducible assumption
    | with_reducible apply State.modSl_kept
    | with_reducible apply scrubPass_kept
    | with_reducible apply tsLost_kept
    | with_reducible apply noteRepeat_kept
    | with_reducible apply counted_kept
    | with_reducible apply recordSev_kept
    | with_reducible refine Kept.ite (fun _ => ?_) (fun _ => ?_)
    | fail_if_no_progress ((with_reducible apply Kept.mk1) <;> (first | with_reducible assumption | with_reducible rfl | skip))
    | with_reducible refine Kept.each (fun _ _ _ => ?_) ?_
    | with_reducible refine Kept.foldl2 (fun _ _ _ => ?_) ?_
    | with_reducible refine Kept.foldl (fun _ _ _ => ?_) ?_
    | extract_lets
    | with_reducible refine Kept.slGood (z0 := z0) ?_ ?_
    | with_reducible apply Slice.good_slots
    | with_reducible apply Slice.putBlock_good
    | with_reducible apply Slice.putWord_good
    | with_reducible apply Slice.putPlru_good
    | with_reducible apply Slice.touchWay_good
    | with_reducible apply Slice.mendSlot_good
    | with_reducible apply Slice.mendTS_good
    | with_reducible apply Slice.hitWay_good
    | with_reducible apply Slice.dropMove_good
    | with_reducible apply Slice.outcome_good
    | with_reducible apply Slice.hintFill_good
    | with_reducible apply Slice.predFix_good
    | with_reducible apply Slice.hintSeen_good
    | with_reducible apply Slice.predAdd_good
    | with_reducible apply Slice.closeLow_good
    | with_reducible apply Slice.setLock_good
    | with_reducible apply Slice.flushPlru_good
    | with_reducible refine Slice.shAlloc_good ?_ (by with_reducible assumption)
    | with_reducible refine Slice.ensureShadow_good ?_ (by with_reducible assumption)
    | with_reducible refine Slice.demandLook_good ?_ (by with_reducible assumption)
    | fail_if_no_progress ((with_reducible apply Slice.good_mk) <;> (first | with_reducible assumption | with_reducible rfl | skip))
    | split
    | with_reducible refine Kept.of_snd (by with_reducible assumption) ?_
    | dsimp +zetaDelta only
    | intro)

theorem shadowError_kept {z0 : State} (i : SliceNo) (set : Nat) (s : State)
    (hK : Kept z0 s) : Kept z0 (shadowError i set s) := by
  unfold shadowError
  repeat' (first
    | with_reducible assumption
    | with_reducible apply State.modSl_kept
    | with_reducible apply bufCorrected_kept
    | with_reducible refine Kept.ite (fun _ => ?_) (fun _ => ?_)
    | fail_if_no_progress ((with_reducible apply Kept.mk1) <;> (first | with_reducible assumption | with_reducible rfl | skip))
    | with_reducible refine Kept.each (fun _ _ _ => ?_) ?_
    | with_reducible refine Kept.foldl2 (fun _ _ _ => ?_) ?_
    | with_reducible refine Kept.foldl (fun _ _ _ => ?_) ?_
    | extract_lets
    | with_reducible refine Kept.slGood (z0 := z0) ?_ ?_
    | with_reducible apply Slice.good_slots
    | with_reducible apply Slice.putBlock_good
    | with_reducible apply Slice.putWord_good
    | with_reducible apply Slice.putPlru_good
    | with_reducible apply Slice.touchWay_good
    | with_reducible apply Slice.mendSlot_good
    | with_reducible apply Slice.mendTS_good
    | with_reducible apply Slice.hitWay_good
    | with_reducible apply Slice.dropMove_good
    | with_reducible apply Slice.outcome_good
    | with_reducible apply Slice.hintFill_good
    | with_reducible apply Slice.predFix_good
    | with_reducible apply Slice.hintSeen_good
    | with_reducible apply Slice.predAdd_good
    | with_reducible apply Slice.closeLow_good
    | with_reducible apply Slice.setLock_good
    | with_reducible apply Slice.flushPlru_good
    | with_reducible refine Slice.shAlloc_good ?_ (by with_reducible assumption)
    | with_reducible refine Slice.ensureShadow_good ?_ (by with_reducible assumption)
    | with_reducible refine Slice.demandLook_good ?_ (by with_reducible assumption)
    | fail_if_no_progress ((with_reducible apply Slice.good_mk) <;> (first | with_reducible assumption | with_reducible rfl | skip))
    | split
    | with_reducible refine Kept.of_snd (by with_reducible assumption) ?_
    | dsimp +zetaDelta only
    | intro)

theorem shadowFor_kept {z0 t : State} {i : SliceNo} {set : Nat} {s : State} (hK : Kept z0 s) (e : shadowFor i set s = some t) :
    Kept z0 t := by
  obtain ⟨x, hx, rfl⟩ := Option.map_eq_some_iff.1 e
  have h := shadowError_kept i set s hK
  exact State.setSl_kept h fun g => Slice.ensureShadow_good (h.slGood g) hx

theorem tsRow_kept {z0 : State} (i : SliceNo) (set : Nat) (hit : Bool) (before s : State)
    (hK : Kept z0 s) : Kept z0 (tsRow i set hit before s) := by
  unfold tsRow
  repeat' (first
    | with_reducible assumption
    | with_reducible apply rowOpen_kept
    | with_reducible refine Kept.ite (fun _ => ?_) (fun _ => ?_))

theorem readTags_kept {z0 : State} (i : SliceNo) (set : Nat) (s : State)
    (hK : Kept z0 s) : Kept z0 (readTags i set s).2 := by
  unfold readTags
  repeat' (first
    | with_reducible assumption
    | with_reducible apply readTS_kept
    | with_reducible apply shadowError_kept
    | with_reducible refine Kept.ite (fun _ => ?_) (fun _ => ?_)
    | fail_if_no_progress ((with_reducible apply Kept.mk1) <;> (first | with_reducible assumption | with_reducible rfl | skip))
    | with_reducible refine Kept.each (fun _ _ _ => ?_) ?_
    | with_reducible refine Kept.foldl2 (fun _ _ _ => ?_) ?_
    | with_reducible refine Kept.foldl (fun _ _ _ => ?_) ?_
    | extract_lets
    | with_reducible refine Kept.slGood (z0 := z0) ?_ ?_
    | with_reducible apply Slice.good_slots
    | with_reducible apply Slice.putBlock_good
    | with_reducible apply Slice.putWord_good
    | with_reducible apply Slice.putPlru_good
    | with_reducible apply Slice.touchWay_good
    | with_reducible apply Slice.mendSlot_good
    | with_reducible apply Slice.mendTS_good
    | with_reducible apply Slice.hitWay_good
    | with_reducible apply Slice.dropMove_good
    | with_reducible apply Slice.outcome_good
    | with_reducible apply Slice.hintFill_good
    | with_reducible apply Slice.predFix_good
    | with_reducible apply Slice.hintSeen_good
    | with_reducible apply Slice.predAdd_good
    | with_reducible apply Slice.closeLow_good
    | with_reducible apply Slice.setLock_good
    | with_reducible apply Slice.flushPlru_good
    | with_reducible refine Slice.shAlloc_good ?_ (by with_reducible assumption)
    | with_reducible refine Slice.ensureShadow_good ?_ (by with_reducible assumption)
    | with_reducible refine Slice.demandLook_good ?_ (by with_reducible assumption)
    | fail_if_no_progress ((with_reducible apply Slice.good_mk) <;> (first | with_reducible assumption | with_reducible rfl | skip))
    | split)

theorem ddrRead_kept {z0 : State} (l : LAddr) (s : State)
    (hK : Kept z0 s) : Kept z0 (ddrRead l s).2 := by
  unfold ddrRead
  repeat' (first
    | with_reducible assumption
    | with_reducible apply pmu_kept
    | with_reducible apply ddrQueue_kept
    | with_reducible apply quarantine_kept
    | with_reducible apply noteRepeat_kept
    | with_reducible apply counted_kept
    | with_reducible refine Kept.ite (fun _ => ?_) (fun _ => ?_)
    | fail_if_no_progress ((with_reducible apply Kept.mk1) <;> (first | with_reducible assumption | with_reducible rfl | skip))
    | with_reducible refine Kept.each (fun _ _ _ => ?_) ?_
    | with_reducible refine Kept.foldl2 (fun _ _ _ => ?_) ?_
    | with_reducible refine Kept.foldl (fun _ _ _ => ?_) ?_
    | extract_lets
    | with_reducible refine Kept.slGood (z0 := z0) ?_ ?_
    | with_reducible apply Slice.good_slots
    | with_reducible apply Slice.putBlock_good
    | with_reducible apply Slice.putWord_good
    | with_reducible apply Slice.putPlru_good
    | with_reducible apply Slice.touchWay_good
    | with_reducible apply Slice.mendSlot_good
    | with_reducible apply Slice.mendTS_good
    | with_reducible apply Slice.hitWay_good
    | with_reducible apply Slice.dropMove_good
    | with_reducible apply Slice.outcome_good
    | with_reducible apply Slice.hintFill_good
    | with_reducible apply Slice.predFix_good
    | with_reducible apply Slice.hintSeen_good
    | with_reducible apply Slice.predAdd_good
    | with_reducible apply Slice.closeLow_good
    | with_reducible apply Slice.setLock_good
    | with_reducible apply Slice.flushPlru_good
    | with_reducible refine Slice.shAlloc_good ?_ (by with_reducible assumption)
    | with_reducible refine Slice.ensureShadow_good ?_ (by with_reducible assumption)
    | with_reducible refine Slice.demandLook_good ?_ (by with_reducible assumption)
    | fail_if_no_progress ((with_reducible apply Slice.good_mk) <;> (first | with_reducible assumption | with_reducible rfl | skip))
    | split)

theorem dropBars_kept {z0 : State} (s : State) (p : Port)
    (hK : Kept z0 s) : Kept z0 (dropBars s p) := by
  unfold dropBars
  repeat' (first
    | with_reducible assumption
    | with_reducible apply State.modHp_kept)

theorem clearRsv_kept {z0 : State} (p : Port) (g : LAddr) (but : Option Nat) (s : State)
    (hK : Kept z0 s) : Kept z0 (clearRsv p g but s) := by
  unfold clearRsv
  repeat' (first
    | with_reducible assumption
    | with_reducible apply State.modHp_kept)

theorem clearRsvAll_kept {z0 : State} (p : Port) (s : State)
    (hK : Kept z0 s) : Kept z0 (clearRsvAll p s) := by
  unfold clearRsvAll
  repeat' (first
    | with_reducible assumption
    | with_reducible apply State.modHp_kept)

end Sys2Proof.Machine
end

