-- ==== Sys2Proof/Laws/KeptSlices.lean ====
section
/-! SUPPORT. `Kept` of the functions of the slices: one lemma per function. -/

set_option linter.unusedVariables false
set_option linter.unusedTactic false
set_option linter.unreachableTactic false

namespace Sys2Proof.Machine

theorem modWord_kept {z0 : State} (i : SliceNo) (l : LAddr) (f : TagWord → TagWord) (s : State)
    (hK : Kept z0 s) : Kept z0 (modWord i l f s) := by
  unfold modWord
  repeat' (first
    | with_reducible assumption
    | with_reducible apply State.modSl_kept
    | with_reducible refine Kept.ite (fun _ => ?_) (fun _ => ?_)
    | fail_if_no_progress ((with_reducible apply Kept.mk1) <;> (first | with_reducible assumption | with_reducible rfl | skip))
    | with_reducible refine Kept.each (fun _ _ _ => ?_) ?_
    | with_reducible refine Kept.foldl2 (fun _ _ _ => ?_) ?_
    | with_reducible refine Kept.foldl (fun _ _ _ => ?_) ?_
    | extract_lets
    | with_reducible refine Kept.slGood (z0 := z0) ?_ ?_
    | with_reducible apply Slice.good_slots
    | with_reducible apply Slice.putBlock_good
    | with_reducible apply Slice.putWord_good
    | with_reducible apply Slice.putPlru_good
    | with_reducible apply Slice.touchWay_good
    | with_reducible apply Slice.mendSlot_good
    | with_reducible apply Slice.mendTS_good
    | with_reducible apply Slice.hitWay_good
    | with_reducible apply Slice.dropMove_good
    | with_reducible apply Slice.outcome_good
    | with_reducible apply Slice.hintFill_good
    | with_reducible apply Slice.predFix_good
    | with_reducible apply Slice.hintSeen_good
    | with_reducible apply Slice.predAdd_good
    | with_reducible apply Slice.closeLow_good
    | with_reducible apply Slice.setLock_good
    | with_reducible apply Slice.flushPlru_good
    | with_reducible refine Slice.shAlloc_good ?_ (by with_reducible assumption)
    | with_reducible refine Slice.ensureShadow_good ?_ (by with_reducible assumption)
    | with_reducible refine Slice.demandLook_good ?_ (by with_reducible assumption)
    | fail_if_no_progress ((with_reducible apply Slice.good_mk) <;> (first | with_reducible assumption | with_reducible rfl | skip))
    | split
    | with_reducible refine Kept.of_snd (by with_reducible assumption) ?_
    | dsimp +zetaDelta only
    | intro)

theorem dropHp_kept {z0 : State} (i : SliceNo) (l : LAddr) (p : Port) (s : State)
    (hK : Kept z0 s) : Kept z0 (dropHp i l p s) := by
  unfold dropHp
  repeat' (first
    | with_reducible assumption
    | with_reducible apply State.modSl_kept
    | with_reducible apply modWord_kept
    | with_reducible refine Kept.ite (fun _ => ?_) (fun _ => ?_)
    | fail_if_no_progress ((with_reducible apply Kept.mk1) <;> (first | with_reducible assumption | with_reducible rfl | skip))
    | with_reducible refine Kept.each (fun _ _ _ => ?_) ?_
    | with_reducible refine Kept.foldl2 (fun _ _ _ => ?_) ?_
    | with_reducible refine Kept.foldl (fun _ _ _ => ?_) ?_
    | extract_lets
    | with_reducible refine Kept.slGood (z0 := z0) ?_ ?_
    | with_reducible apply Slice.good_slots
    | with_reducible apply Slice.putBlock_good
    | with_reducible apply Slice.putWord_good
    | with_reducible apply Slice.putPlru_good
    | with_reducible apply Slice.touchWay_good
    | with_reducible apply Slice.mendSlot_good
    | with_reducible apply Slice.mendTS_good
    | with_reducible apply Slice.hitWay_good
    | with_reducible apply Slice.dropMove_good
    | with_reducible apply Slice.outcome_good
    | with_reducible apply Slice.hintFill_good
    | with_reducible apply Slice.predFix_good
    | with_reducible apply Slice.hintSeen_good
    | with_reducible apply Slice.predAdd_good
    | with_reducible apply Slice.closeLow_good
    | with_reducible apply Slice.setLock_good
    | with_reducible apply Slice.flushPlru_good
    | with_reducible refine Slice.shAlloc_good ?_ (by with_reducible assumption)
    | with_reducible refine Slice.ensureShadow_good ?_ (by with_reducible assumption)
    | with_reducible refine Slice.demandLook_good ?_ (by with_reducible assumption)
    | fail_if_no_progress ((with_reducible apply Slice.good_mk) <;> (first | with_reducible assumption | with_reducible rfl | skip))
    | split
    | with_reducible refine Kept.of_snd (by with_reducible assumption) ?_
    | dsimp +zetaDelta only
    | intro)

theorem poisonLine_kept {z0 : State} (i : SliceNo) (l : LAddr) (rule : Nat) (s : State)
    (hK : Kept z0 s) : Kept z0 (poisonLine i l rule s) := by
  unfold poisonLine
  repeat' (first
    | with_reducible assumption
    | with_reducible apply evPoisoned_kept
    | with_reducible apply modWord_kept)

theorem breakCs_kept {z0 : State} (p : Port) (l : LAddr) (s : State)
    (hK : Kept z0 s) : Kept z0 (breakCs p l s) := by
  unfold breakCs
  repeat' (first
    | with_reducible assumption
    | with_reducible apply State.modHp_kept
    | with_reducible apply State.modSl_kept
    | with_reducible refine Kept.ite (fun _ => ?_) (fun _ => ?_)
    | fail_if_no_progress ((with_reducible apply Kept.mk1) <;> (first | with_reducible assumption | with_reducible rfl | skip))
    | with_reducible refine Kept.each (fun _ _ _ => ?_) ?_
    | with_reducible refine Kept.foldl2 (fun _ _ _ => ?_) ?_
    | with_reducible refine Kept.foldl (fun _ _ _ => ?_) ?_
    | extract_lets
    | with_reducible refine Kept.slGood (z0 := z0) ?_ ?_
    | with_reducible apply Slice.good_slots
    | with_reducible apply Slice.putBlock_good
    | with_reducible apply Slice.putWord_good
    | with_reducible apply Slice.putPlru_good
    | with_reducible apply Slice.touchWay_good
    | with_reducible apply Slice.mendSlot_good
    | with_reducible apply Slice.mendTS_good
    | with_reducible apply Slice.hitWay_good
    | with_reducible apply Slice.dropMove_good
    | with_reducible apply Slice.outcome_good
    | with_reducible apply Slice.hintFill_good
    | with_reducible apply Slice.predFix_good
    | with_reducible apply Slice.hintSeen_good
    | with_reducible apply Slice.predAdd_good
    | with_reducible apply Slice.closeLow_good
    | with_reducible apply Slice.setLock_good
    | with_reducible apply Slice.flushPlru_good
    | with_reducible refine Slice.shAlloc_good ?_ (by with_reducible assumption)
    | with_reducible refine Slice.ensureShadow_good ?_ (by with_reducible assumption)
    | with_reducible refine Slice.demandLook_good ?_ (by with_reducible assumption)
    | fail_if_no_progress ((with_reducible apply Slice.good_mk) <;> (first | with_reducible assumption | with_reducible rfl | skip))
    | split
    | with_reducible refine Kept.of_snd (by with_reducible assumption) ?_
    | dsimp +zetaDelta only
    | intro)

theorem sendSnoop_kept {z0 : State} (i : SliceNo) (l : LAddr) (grp : Nat) (excl : Option Port) (q : SnpReq) (s : State)
    (hK : Kept z0 s) : Kept z0 (sendSnoop i l grp excl q s).2 := by
  unfold sendSnoop
  repeat' (first
    | with_reducible assumption
    | with_reducible apply State.setHp_kept
    | with_reducible apply toHost_kept
    | with_reducible apply pmu_kept
    | with_reducible apply clearRsv_kept
    | with_reducible apply dropHp_kept
    | with_reducible apply poisonLine_kept
    | with_reducible apply breakCs_kept
    | with_reducible refine Kept.ite (fun _ => ?_) (fun _ => ?_)
    | fail_if_no_progress ((with_reducible apply Kept.mk1) <;> (first | with_reducible assumption | with_reducible rfl | skip))
    | with_reducible refine Kept.each (fun _ _ _ => ?_) ?_
    | with_reducible refine Kept.foldl2 (fun _ _ _ => ?_) ?_
    | with_reducible refine Kept.foldl (fun _ _ _ => ?_) ?_
    | extract_lets
    | with_reducible refine Kept.slGood (z0 := z0) ?_ ?_
    | with_reducible apply Slice.good_slots
    | with_reducible apply Slice.putBlock_good
    | with_reducible apply Slice.putWord_good
    | with_reducible apply Slice.putPlru_good
    | with_reducible apply Slice.touchWay_good
    | with_reducible apply Slice.mendSlot_good
    | with_reducible apply Slice.mendTS_good
    | with_reducible apply Slice.hitWay_good
    | with_reducible apply Slice.dropMove_good
    | with_reducible apply Slice.outcome_good
    | with_reducible apply Slice.hintFill_good
    | with_reducible apply Slice.predFix_good
    | with_reducible apply Slice.hintSeen_good
    | with_reducible apply Slice.predAdd_good
    | with_reducible apply Slice.closeLow_good
    | with_reducible apply Slice.setLock_good
    | with_reducible apply Slice.flushPlru_good
    | with_reducible refine Slice.shAlloc_good ?_ (by with_reducible assumption)
    | with_reducible refine Slice.ensureShadow_good ?_ (by with_reducible assumption)
    | with_reducible refine Slice.demandLook_good ?_ (by with_reducible assumption)
    | fail_if_no_progress ((with_reducible apply Slice.good_mk) <;> (first | with_reducible assumption | with_reducible rfl | skip))
    | split)

theorem snoopFor_kept {z0 : State} (i : SliceNo) (l : LAddr) (a : Act) (excl : Option Port) (qs : List SnpReq) (s : State)
    (hK : Kept z0 s) : Kept z0 (snoopFor i l a excl qs s).2 := by
  unfold snoopFor
  repeat' (first
    | with_reducible assumption
    | with_reducible apply State.modSl_kept
    | with_reducible apply sendSnoop_kept
    | with_reducible refine Kept.ite (fun _ => ?_) (fun _ => ?_)
    | fail_if_no_progress ((with_reducible apply Kept.mk1) <;> (first | with_reducible assumption | with_reducible rfl | skip))
    | with_reducible refine Kept.each (fun _ _ _ => ?_) ?_
    | with_reducible refine Kept.foldl2 (fun _ _ _ => ?_) ?_
    | with_reducible refine Kept.foldl (fun _ _ _ => ?_) ?_
    | extract_lets
    | with_reducible refine Kept.slGood (z0 := z0) ?_ ?_
    | with_reducible apply Slice.good_slots
    | with_reducible apply Slice.putBlock_good
    | with_reducible apply Slice.putWord_good
    | with_reducible apply Slice.putPlru_good
    | with_reducible apply Slice.touchWay_good
    | with_reducible apply Slice.mendSlot_good
    | with_reducible apply Slice.mendTS_good
    | with_reducible apply Slice.hitWay_good
    | with_reducible apply Slice.dropMove_good
    | with_reducible apply Slice.outcome_good
    | with_reducible apply Slice.hintFill_good
    | with_reducible apply Slice.predFix_good
    | with_reducible apply Slice.hintSeen_good
    | with_reducible apply Slice.predAdd_good
    | with_reducible apply Slice.closeLow_good
    | with_reducible apply Slice.setLock_good
    | with_reducible apply Slice.flushPlru_good
    | with_reducible refine Slice.shAlloc_good ?_ (by with_reducible assumption)
    | with_reducible refine Slice.ensureShadow_good ?_ (by with_reducible assumption)
    | with_reducible refine Slice.demandLook_good ?_ (by with_reducible assumption)
    | fail_if_no_progress ((with_reducible apply Slice.good_mk) <;> (first | with_reducible assumption | with_reducible rfl | skip))
    | split
    | with_reducible refine Kept.of_snd (by with_reducible assumption) ?_
    | dsimp +zetaDelta only
    | intro)

theorem sendPut_kept {z0 : State} (i : SliceNo) (l : LAddr) (st : LState) (d : Slot) (poison discard retain : Bool) (s : State)
    (hK : Kept z0 s) : Kept z0 (sendPut i l st d poison discard retain s) := by
  unfold sendPut
  repeat' (first
    | with_reducible assumption
    | with_reducible apply State.modSl_kept
    | with_reducible apply State.modHome_kept
    | with_reducible apply pmu_kept
    | with_reducible apply sendMsg_kept
    | with_reducible refine Kept.ite (fun _ => ?_) (fun _ => ?_)
    | fail_if_no_progress ((with_reducible apply Kept.mk1) <;> (first | with_reducible assumption | with_reducible rfl | skip))
    | with_reducible refine Kept.each (fun _ _ _ => ?_) ?_
    | with_reducible refine Kept.foldl2 (fun _ _ _ => ?_) ?_
    | with_reducible refine Kept.foldl (fun _ _ _ => ?_) ?_
    | extract_lets
    | with_reducible refine Kept.slGood (z0 := z0) ?_ ?_
    | with_reducible apply Slice.good_slots
    | with_reducible apply Slice.putBlock_good
    | with_reducible apply Slice.putWord_good
    | with_reducible apply Slice.putPlru_good
    | with_reducible apply Slice.touchWay_good
    | with_reducible apply Slice.mendSlot_good
    | with_reducible apply Slice.mendTS_good
    | with_reducible apply Slice.hitWay_good
    | with_reducible apply Slice.dropMove_good
    | with_reducible apply Slice.outcome_good
    | with_reducible apply Slice.hintFill_good
    | with_reducible apply Slice.predFix_good
    | with_reducible apply Slice.hintSeen_good
    | with_reducible apply Slice.predAdd_good
    | with_reducible apply Slice.closeLow_good
    | with_reducible apply Slice.setLock_good
    | with_reducible apply Slice.flushPlru_good
    | with_reducible refine Slice.shAlloc_good ?_ (by with_reducible assumption)
    | with_reducible refine Slice.ensureShadow_good ?_ (by with_reducible assumption)
    | with_reducible refine Slice.demandLook_good ?_ (by with_reducible assumption)
    | fail_if_no_progress ((with_reducible apply Slice.good_mk) <;> (first | with_reducible assumption | with_reducible rfl | skip))
    | split
    | with_reducible refine Kept.of_snd (by with_reducible assumption) ?_
    | dsimp +zetaDelta only
    | intro)

theorem evictWay_kept {z0 : State} (i : SliceNo) (set w : Nat) (discard : Bool) (s : State)
    (hK : Kept z0 s) : Kept z0 (evictWay i set w discard s) := by
  unfold evictWay
  repeat' (first
    | with_reducible assumption
    | with_reducible apply State.modSl_kept
    | with_reducible apply readSlot_kept
    | with_reducible apply sendPut_kept
    | with_reducible refine Kept.ite (fun _ => ?_) (fun _ => ?_)
    | fail_if_no_progress ((with_reducible apply Kept.mk1) <;> (first | with_reducible assumption | with_reducible rfl | skip))
    | with_reducible refine Kept.each (fun _ _ _ => ?_) ?_
    | with_reducible refine Kept.foldl2 (fun _ _ _ => ?_) ?_
    | with_reducible refine Kept.foldl (fun _ _ _ => ?_) ?_
    | extract_lets
    | with_reducible refine Kept.slGood (z0 := z0) ?_ ?_
    | with_reducible apply Slice.good_slots
    | with_reducible apply Slice.putBlock_good
    | with_reducible apply Slice.putWord_good
    | with_reducible apply Slice.putPlru_good
    | with_reducible apply Slice.touchWay_good
    | with_reducible apply Slice.mendSlot_good
    | with_reducible apply Slice.mendTS_good
    | with_reducible apply Slice.hitWay_good
    | with_reducible apply Slice.dropMove_good
    | with_reducible apply Slice.outcome_good
    | with_reducible apply Slice.hintFill_good
    | with_reducible apply Slice.predFix_good
    | with_reducible apply Slice.hintSeen_good
    | with_reducible apply Slice.predAdd_good
    | with_reducible apply Slice.closeLow_good
    | with_reducible apply Slice.setLock_good
    | with_reducible apply Slice.flushPlru_good
    | with_reducible refine Slice.shAlloc_good ?_ (by with_reducible assumption)
    | with_reducible refine Slice.ensureShadow_good ?_ (by with_reducible assumption)
    | with_reducible refine Slice.demandLook_good ?_ (by with_reducible assumption)
    | fail_if_no_progress ((with_reducible apply Slice.good_mk) <;> (first | with_reducible assumption | with_reducible rfl | skip))
    | split
    | with_reducible refine Kept.of_snd (by with_reducible assumption) ?_
    | dsimp +zetaDelta only
    | intro)

theorem dropWay_kept {z0 : State} (i : SliceNo) (set w : Nat) (s : State)
    (hK : Kept z0 s) : Kept z0 (dropWay i set w s) := by
  unfold dropWay
  repeat' (first
    | with_reducible assumption
    | with_reducible apply State.modSl_kept
    | with_reducible refine Kept.ite (fun _ => ?_) (fun _ => ?_)
    | fail_if_no_progress ((with_reducible apply Kept.mk1) <;> (first | with_reducible assumption | with_reducible rfl | skip))
    | with_reducible refine Kept.each (fun _ _ _ => ?_) ?_
    | with_reducible refine Kept.foldl2 (fun _ _ _ => ?_) ?_
    | with_reducible refine Kept.foldl (fun _ _ _ => ?_) ?_
    | extract_lets
    | with_reducible refine Kept.slGood (z0 := z0) ?_ ?_
    | with_reducible apply Slice.good_slots
    | with_reducible apply Slice.putBlock_good
    | with_reducible apply Slice.putWord_good
    | with_reducible apply Slice.putPlru_good
    | with_reducible apply Slice.touchWay_good
    | with_reducible apply Slice.mendSlot_good
    | with_reducible apply Slice.mendTS_good
    | with_reducible apply Slice.hitWay_good
    | with_reducible apply Slice.dropMove_good
    | with_reducible apply Slice.outcome_good
    | with_reducible apply Slice.hintFill_good
    | with_reducible apply Slice.predFix_good
    | with_reducible apply Slice.hintSeen_good
    | with_reducible apply Slice.predAdd_good
    | with_reducible apply Slice.closeLow_good
    | with_reducible apply Slice.setLock_good
    | with_reducible apply Slice.flushPlru_good
    | with_reducible refine Slice.shAlloc_good ?_ (by with_reducible assumption)
    | with_reducible refine Slice.ensureShadow_good ?_ (by with_reducible assumption)
    | with_reducible refine Slice.demandLook_good ?_ (by with_reducible assumption)
    | fail_if_no_progress ((with_reducible apply Slice.good_mk) <;> (first | with_reducible assumption | with_reducible rfl | skip))
    | split
    | with_reducible refine Kept.of_snd (by with_reducible assumption) ?_
    | dsimp +zetaDelta only
    | intro)

theorem pendWay_kept {z0 : State} (i : SliceNo) (set w : Nat) (l : LAddr) (s : State)
    (hK : Kept z0 s) : Kept z0 (pendWay i set w l s).2 := by
  unfold pendWay
  repeat' (first
    | with_reducible assumption
    | refine shadowFor_kept ?_ (by with_reducible assumption)
    | with_reducible apply State.modSl_kept
    | with_reducible apply dropWay_kept
    | with_reducible refine Kept.ite (fun _ => ?_) (fun _ => ?_)
    | fail_if_no_progress ((with_reducible apply Kept.mk1) <;> (first | with_reducible assumption | with_reducible rfl | skip))
    | with_reducible refine Kept.each (fun _ _ _ => ?_) ?_
    | with_reducible refine Kept.foldl2 (fun _ _ _ => ?_) ?_
    | with_reducible refine Kept.foldl (fun _ _ _ => ?_) ?_
    | extract_lets
    | with_reducible refine Kept.slGood (z0 := z0) ?_ ?_
    | with_reducible apply Slice.good_slots
    | with_reducible apply Slice.putBlock_good
    | with_reducible apply Slice.putWord_good
    | with_reducible apply Slice.putPlru_good
    | with_reducible apply Slice.touchWay_good
    | with_reducible apply Slice.mendSlot_good
    | with_reducible apply Slice.mendTS_good
    | with_reducible apply Slice.hitWay_good
    | with_reducible apply Slice.dropMove_good
    | with_reducible apply Slice.outcome_good
    | with_reducible apply Slice.hintFill_good
    | with_reducible apply Slice.predFix_good
    | with_reducible apply Slice.hintSeen_good
    | with_reducible apply Slice.predAdd_good
    | with_reducible apply Slice.closeLow_good
    | with_reducible apply Slice.setLock_good
    | with_reducible apply Slice.flushPlru_good
    | with_reducible refine Slice.shAlloc_good ?_ (by with_reducible assumption)
    | with_reducible refine Slice.ensureShadow_good ?_ (by with_reducible assumption)
    | with_reducible refine Slice.demandLook_good ?_ (by with_reducible assumption)
    | fail_if_no_progress ((with_reducible apply Slice.good_mk) <;> (first | with_reducible assumption | with_reducible rfl | skip))
    | split
    | with_reducible refine Kept.of_snd (by with_reducible assumption) ?_
    | dsimp +zetaDelta only
    | intro)

theorem mergeHost_kept {z0 : State} (i : SliceNo) (l : LAddr) (d : Line) (poison wb : Bool) (s : State)
    (hK : Kept z0 s) : Kept z0 (mergeHost i l d poison wb s) := by
  unfold mergeHost
  repeat' (first
    | with_reducible assumption
    | with_reducible apply State.modSl_kept
    | with_reducible apply rowOpen_kept
    | with_reducible apply writeSlot_kept
    | with_reducible refine Kept.ite (fun _ => ?_) (fun _ => ?_)
    | fail_if_no_progress ((with_reducible apply Kept.mk1) <;> (first | with_reducible assumption | with_reducible rfl | skip))
    | with_reducible refine Kept.each (fun _ _ _ => ?_) ?_
    | with_reducible refine Kept.foldl2 (fun _ _ _ => ?_) ?_
    | with_reducible refine Kept.foldl (fun _ _ _ => ?_) ?_
    | extract_lets
    | with_reducible refine Kept.slGood (z0 := z0) ?_ ?_
    | with_reducible apply Slice.good_slots
    | with_reducible apply Slice.putBlock_good
    | with_reducible apply Slice.putWord_good
    | with_reducible apply Slice.putPlru_good
    | with_reducible apply Slice.touchWay_good
    | with_reducible apply Slice.mendSlot_good
    | with_reducible apply Slice.mendTS_good
    | with_reducible apply Slice.hitWay_good
    | with_reducible apply Slice.dropMove_good
    | with_reducible apply Slice.outcome_good
    | with_reducible apply Slice.hintFill_good
    | with_reducible apply Slice.predFix_good
    | with_reducible apply Slice.hintSeen_good
    | with_reducible apply Slice.predAdd_good
    | with_reducible apply Slice.closeLow_good
    | with_reducible apply Slice.setLock_good
    | with_reducible apply Slice.flushPlru_good
    | with_reducible refine Slice.shAlloc_good ?_ (by with_reducible assumption)
    | with_reducible refine Slice.ensureShadow_good ?_ (by with_reducible assumption)
    | with_reducible refine Slice.demandLook_good ?_ (by with_reducible assumption)
    | fail_if_no_progress ((with_reducible apply Slice.good_mk) <;> (first | with_reducible assumption | with_reducible rfl | skip))
    | split
    | with_reducible refine Kept.of_snd (by with_reducible assumption) ?_
    | dsimp +zetaDelta only
    | intro)

theorem useFar_kept {z0 : State} (l : LAddr) (s : State)
    (hK : Kept z0 s) : Kept z0 (useFar l s) := by
  unfold useFar
  repeat' (first
    | with_reducible assumption
    | with_reducible apply State.modHome_kept
    | with_reducible refine Kept.ite (fun _ => ?_) (fun _ => ?_))

theorem openTxn_kept {z0 : State} (i : SliceNo) (t : STxn) (s : State)
    (hK : Kept z0 s) : Kept z0 (openTxn i t s) := by
  unfold openTxn
  repeat' (first
    | with_reducible assumption
    | with_reducible apply State.modSl_kept
    | with_reducible apply sendMsg_kept
    | with_reducible apply useFar_kept
    | with_reducible refine Kept.ite (fun _ => ?_) (fun _ => ?_)
    | fail_if_no_progress ((with_reducible apply Kept.mk1) <;> (first | with_reducible assumption | with_reducible rfl | skip))
    | with_reducible refine Kept.each (fun _ _ _ => ?_) ?_
    | with_reducible refine Kept.foldl2 (fun _ _ _ => ?_) ?_
    | with_reducible refine Kept.foldl (fun _ _ _ => ?_) ?_
    | extract_lets
    | with_reducible refine Kept.slGood (z0 := z0) ?_ ?_
    | with_reducible apply Slice.good_slots
    | with_reducible apply Slice.putBlock_good
    | with_reducible apply Slice.putWord_good
    | with_reducible apply Slice.putPlru_good
    | with_reducible apply Slice.touchWay_good
    | with_reducible apply Slice.mendSlot_good
    | with_reducible apply Slice.mendTS_good
    | with_reducible apply Slice.hitWay_good
    | with_reducible apply Slice.dropMove_good
    | with_reducible apply Slice.outcome_good
    | with_reducible apply Slice.hintFill_good
    | with_reducible apply Slice.predFix_good
    | with_reducible apply Slice.hintSeen_good
    | with_reducible apply Slice.predAdd_good
    | with_reducible apply Slice.closeLow_good
    | with_reducible apply Slice.setLock_good
    | with_reducible apply Slice.flushPlru_good
    | with_reducible refine Slice.shAlloc_good ?_ (by with_reducible assumption)
    | with_reducible refine Slice.ensureShadow_good ?_ (by with_reducible assumption)
    | with_reducible refine Slice.demandLook_good ?_ (by with_reducible assumption)
    | fail_if_no_progress ((with_reducible apply Slice.good_mk) <;> (first | with_reducible assumption | with_reducible rfl | skip))
    | split
    | with_reducible refine Kept.of_snd (by with_reducible assumption) ?_
    | dsimp +zetaDelta only
    | intro)

theorem modTxn_kept {z0 : State} (i : SliceNo) (rtid : BitVec 12) (f : STxn → STxn) (s : State)
    (hK : Kept z0 s) : Kept z0 (modTxn i rtid f s) := by
  unfold modTxn
  repeat' (first
    | with_reducible assumption
    | with_reducible apply State.modSl_kept
    | with_reducible refine Kept.ite (fun _ => ?_) (fun _ => ?_)
    | fail_if_no_progress ((with_reducible apply Kept.mk1) <;> (first | with_reducible assumption | with_reducible rfl | skip))
    | with_reducible refine Kept.each (fun _ _ _ => ?_) ?_
    | with_reducible refine Kept.foldl2 (fun _ _ _ => ?_) ?_
    | with_reducible refine Kept.foldl (fun _ _ _ => ?_) ?_
    | extract_lets
    | with_reducible refine Kept.slGood (z0 := z0) ?_ ?_
    | with_reducible apply Slice.good_slots
    | with_reducible apply Slice.putBlock_good
    | with_reducible apply Slice.putWord_good
    | with_reducible apply Slice.putPlru_good
    | with_reducible apply Slice.touchWay_good
    | with_reducible apply Slice.mendSlot_good
    | with_reducible apply Slice.mendTS_good
    | with_reducible apply Slice.hitWay_good
    | with_reducible apply Slice.dropMove_good
    | with_reducible apply Slice.outcome_good
    | with_reducible apply Slice.hintFill_good
    | with_reducible apply Slice.predFix_good
    | with_reducible apply Slice.hintSeen_good
    | with_reducible apply Slice.predAdd_good
    | with_reducible apply Slice.closeLow_good
    | with_reducible apply Slice.setLock_good
    | with_reducible apply Slice.flushPlru_good
    | with_reducible refine Slice.shAlloc_good ?_ (by with_reducible assumption)
    | with_reducible refine Slice.ensureShadow_good ?_ (by with_reducible assumption)
    | with_reducible refine Slice.demandLook_good ?_ (by with_reducible assumption)
    | fail_if_no_progress ((with_reducible apply Slice.good_mk) <;> (first | with_reducible assumption | with_reducible rfl | skip))
    | split
    | with_reducible refine Kept.of_snd (by with_reducible assumption) ?_
    | dsimp +zetaDelta only
    | intro)

theorem closeTxn_kept {z0 : State} (i : SliceNo) (rtid : BitVec 12) (s : State)
    (hK : Kept z0 s) : Kept z0 (closeTxn i rtid s) := by
  unfold closeTxn
  repeat' (first
    | with_reducible assumption
    | with_reducible apply State.modSl_kept
    | with_reducible refine Kept.ite (fun _ => ?_) (fun _ => ?_)
    | fail_if_no_progress ((with_reducible apply Kept.mk1) <;> (first | with_reducible assumption | with_reducible rfl | skip))
    | with_reducible refine Kept.each (fun _ _ _ => ?_) ?_
    | with_reducible refine Kept.foldl2 (fun _ _ _ => ?_) ?_
    | with_reducible refine Kept.foldl (fun _ _ _ => ?_) ?_
    | extract_lets
    | with_reducible refine Kept.slGood (z0 := z0) ?_ ?_
    | with_reducible apply Slice.good_slots
    | with_reducible apply Slice.putBlock_good
    | with_reducible apply Slice.putWord_good
    | with_reducible apply Slice.putPlru_good
    | with_reducible apply Slice.touchWay_good
    | with_reducible apply Slice.mendSlot_good
    | with_reducible apply Slice.mendTS_good
    | with_reducible apply Slice.hitWay_good
    | with_reducible apply Slice.dropMove_good
    | with_reducible apply Slice.outcome_good
    | with_reducible apply Slice.hintFill_good
    | with_reducible apply Slice.predFix_good
    | with_reducible apply Slice.hintSeen_good
    | with_reducible apply Slice.predAdd_good
    | with_reducible apply Slice.closeLow_good
    | with_reducible apply Slice.setLock_good
    | with_reducible apply Slice.flushPlru_good
    | with_reducible refine Slice.shAlloc_good ?_ (by with_reducible assumption)
    | with_reducible refine Slice.ensureShadow_good ?_ (by with_reducible assumption)
    | with_reducible refine Slice.demandLook_good ?_ (by with_reducible assumption)
    | fail_if_no_progress ((with_reducible apply Slice.good_mk) <;> (first | with_reducible assumption | with_reducible rfl | skip))
    | split
    | with_reducible refine Kept.of_snd (by with_reducible assumption) ?_
    | dsimp +zetaDelta only
    | intro)

theorem waitIn_kept {z0 : State} (i : SliceNo) (r : Req) (s : State)
    (hK : Kept z0 s) : Kept z0 (waitIn i r s) := by
  unfold waitIn
  repeat' (first
    | with_reducible assumption
    | with_reducible apply State.modHp_kept
    | with_reducible apply State.modSl_kept
    | with_reducible refine Kept.ite (fun _ => ?_) (fun _ => ?_)
    | fail_if_no_progress ((with_reducible apply Kept.mk1) <;> (first | with_reducible assumption | with_reducible rfl | skip))
    | with_reducible refine Kept.each (fun _ _ _ => ?_) ?_
    | with_reducible refine Kept.foldl2 (fun _ _ _ => ?_) ?_
    | with_reducible refine Kept.foldl (fun _ _ _ => ?_) ?_
    | extract_lets
    | with_reducible refine Kept.slGood (z0 := z0) ?_ ?_
    | with_reducible apply Slice.good_slots
    | with_reducible apply Slice.putBlock_good
    | with_reducible apply Slice.putWord_good
    | with_reducible apply Slice.putPlru_good
    | with_reducible apply Slice.touchWay_good
    | with_reducible apply Slice.mendSlot_good
    | with_reducible apply Slice.mendTS_good
    | with_reducible apply Slice.hitWay_good
    | with_reducible apply Slice.dropMove_good
    | with_reducible apply Slice.outcome_good
    | with_reducible apply Slice.hintFill_good
    | with_reducible apply Slice.predFix_good
    | with_reducible apply Slice.hintSeen_good
    | with_reducible apply Slice.predAdd_good
    | with_reducible apply Slice.closeLow_good
    | with_reducible apply Slice.setLock_good
    | with_reducible apply Slice.flushPlru_good
    | with_reducible refine Slice.shAlloc_good ?_ (by with_reducible assumption)
    | with_reducible refine Slice.ensureShadow_good ?_ (by with_reducible assumption)
    | with_reducible refine Slice.demandLook_good ?_ (by with_reducible assumption)
    | fail_if_no_progress ((with_reducible apply Slice.good_mk) <;> (first | with_reducible assumption | with_reducible rfl | skip))
    | split
    | with_reducible refine Kept.of_snd (by with_reducible assumption) ?_
    | dsimp +zetaDelta only
    | intro)

theorem completeDead_kept {z0 : State} (r : Req) (s : State)
    (hK : Kept z0 s) : Kept z0 (completeDead r s) := by
  unfold completeDead
  repeat' (first
    | with_reducible assumption
    | with_reducible apply evDeadDone_kept
    | with_reducible apply completeErr_kept
    | with_reducible apply stampCheck_kept)

theorem requestFor_kept {z0 : State} (i : SliceNo) (k : BKind) (r : Req) (way : Option Nat) (amo : BitVec 256) (s : State)
    (hK : Kept z0 s) : Kept z0 (requestFor i k r way amo s) := by
  unfold requestFor
  repeat' (first
    | with_reducible assumption
    | with_reducible apply State.modSl_kept
    | with_reducible apply pmu_kept
    | with_reducible apply openTxn_kept
    | with_reducible apply waitIn_kept
    | with_reducible apply completeDead_kept
    | with_reducible refine Kept.ite (fun _ => ?_) (fun _ => ?_)
    | fail_if_no_progress ((with_reducible apply Kept.mk1) <;> (first | with_reducible assumption | with_reducible rfl | skip))
    | with_reducible refine Kept.each (fun _ _ _ => ?_) ?_
    | with_reducible refine Kept.foldl2 (fun _ _ _ => ?_) ?_
    | with_reducible refine Kept.foldl (fun _ _ _ => ?_) ?_
    | extract_lets
    | with_reducible refine Kept.slGood (z0 := z0) ?_ ?_
    | with_reducible apply Slice.good_slots
    | with_reducible apply Slice.putBlock_good
    | with_reducible apply Slice.putWord_good
    | with_reducible apply Slice.putPlru_good
    | with_reducible apply Slice.touchWay_good
    | with_reducible apply Slice.mendSlot_good
    | with_reducible apply Slice.mendTS_good
    | with_reducible apply Slice.hitWay_good
    | with_reducible apply Slice.dropMove_good
    | with_reducible apply Slice.outcome_good
    | with_reducible apply Slice.hintFill_good
    | with_reducible apply Slice.predFix_good
    | with_reducible apply Slice.hintSeen_good
    | with_reducible apply Slice.predAdd_good
    | with_reducible apply Slice.closeLow_good
    | with_reducible apply Slice.setLock_good
    | with_reducible apply Slice.flushPlru_good
    | with_reducible refine Slice.shAlloc_good ?_ (by with_reducible assumption)
    | with_reducible refine Slice.ensureShadow_good ?_ (by with_reducible assumption)
    | with_reducible refine Slice.demandLook_good ?_ (by with_reducible assumption)
    | fail_if_no_progress ((with_reducible apply Slice.good_mk) <;> (first | with_reducible assumption | with_reducible rfl | skip))
    | split
    | with_reducible refine Kept.of_snd (by with_reducible assumption) ?_
    | dsimp +zetaDelta only
    | intro)

theorem missInto_kept {z0 : State} (i : SliceNo) (set w : Nat) (k : BKind) (r : Req) (s : State)
    (hK : Kept z0 s) : Kept z0 (missInto i set w k r s) := by
  unfold missInto
  repeat' (first
    | with_reducible assumption
    | refine shadowFor_kept ?_ (by with_reducible assumption)
    | with_reducible apply State.modSl_kept
    | with_reducible apply waitIn_kept
    | with_reducible apply completeDead_kept
    | with_reducible apply requestFor_kept
    | with_reducible refine Kept.ite (fun _ => ?_) (fun _ => ?_)
    | fail_if_no_progress ((with_reducible apply Kept.mk1) <;> (first | with_reducible assumption | with_reducible rfl | skip))
    | with_reducible refine Kept.each (fun _ _ _ => ?_) ?_
    | with_reducible refine Kept.foldl2 (fun _ _ _ => ?_) ?_
    | with_reducible refine Kept.foldl (fun _ _ _ => ?_) ?_
    | extract_lets
    | with_reducible refine Kept.slGood (z0 := z0) ?_ ?_
    | with_reducible apply Slice.good_slots
    | with_reducible apply Slice.putBlock_good
    | with_reducible apply Slice.putWord_good
    | with_reducible apply Slice.putPlru_good
    | with_reducible apply Slice.touchWay_good
    | with_reducible apply Slice.mendSlot_good
    | with_reducible apply Slice.mendTS_good
    | with_reducible apply Slice.hitWay_good
    | with_reducible apply Slice.dropMove_good
    | with_reducible apply Slice.outcome_good
    | with_reducible apply Slice.hintFill_good
    | with_reducible apply Slice.predFix_good
    | with_reducible apply Slice.hintSeen_good
    | with_reducible apply Slice.predAdd_good
    | with_reducible apply Slice.closeLow_good
    | with_reducible apply Slice.setLock_good
    | with_reducible apply Slice.flushPlru_good
    | with_reducible refine Slice.shAlloc_good ?_ (by with_reducible assumption)
    | with_reducible refine Slice.ensureShadow_good ?_ (by with_reducible assumption)
    | with_reducible refine Slice.demandLook_good ?_ (by with_reducible assumption)
    | fail_if_no_progress ((with_reducible apply Slice.good_mk) <;> (first | with_reducible assumption | with_reducible rfl | skip))
    | split
    | with_reducible refine Kept.of_snd (by with_reducible assumption) ?_
    | dsimp +zetaDelta only
    | intro)

theorem missFill_kept {z0 : State} (i : SliceNo) (r : Req) (s : State)
    (hK : Kept z0 s) : Kept z0 (missFill i r s) := by
  unfold missFill
  repeat' (first
    | with_reducible assumption
    | with_reducible apply snoopFor_kept
    | with_reducible apply evictWay_kept
    | with_reducible apply waitIn_kept
    | with_reducible apply missInto_kept
    | with_reducible refine Kept.ite (fun _ => ?_) (fun _ => ?_)
    | fail_if_no_progress ((with_reducible apply Kept.mk1) <;> (first | with_reducible assumption | with_reducible rfl | skip))
    | with_reducible refine Kept.each (fun _ _ _ => ?_) ?_
    | with_reducible refine Kept.foldl2 (fun _ _ _ => ?_) ?_
    | with_reducible refine Kept.foldl (fun _ _ _ => ?_) ?_
    | extract_lets
    | with_reducible refine Kept.slGood (z0 := z0) ?_ ?_
    | with_reducible apply Slice.good_slots
    | with_reducible apply Slice.putBlock_good
    | with_reducible apply Slice.putWord_good
    | with_reducible apply Slice.putPlru_good
    | with_reducible apply Slice.touchWay_good
    | with_reducible apply Slice.mendSlot_good
    | with_reducible apply Slice.mendTS_good
    | with_reducible apply Slice.hitWay_good
    | with_reducible apply Slice.dropMove_good
    | with_reducible apply Slice.outcome_good
    | with_reducible apply Slice.hintFill_good
    | with_reducible apply Slice.predFix_good
    | with_reducible apply Slice.hintSeen_good
    | with_reducible apply Slice.predAdd_good
    | with_reducible apply Slice.closeLow_good
    | with_reducible apply Slice.setLock_good
    | with_reducible apply Slice.flushPlru_good
    | with_reducible refine Slice.shAlloc_good ?_ (by with_reducible assumption)
    | with_reducible refine Slice.ensureShadow_good ?_ (by with_reducible assumption)
    | with_reducible refine Slice.demandLook_good ?_ (by with_reducible assumption)
    | fail_if_no_progress ((with_reducible apply Slice.good_mk) <;> (first | with_reducible assumption | with_reducible rfl | skip))
    | split)

theorem dropRb_kept {z0 : State} (i : SliceNo) (l : LAddr) (s : State)
    (hK : Kept z0 s) : Kept z0 (dropRb i l s) := by
  unfold dropRb
  repeat' (first
    | with_reducible assumption
    | with_reducible apply State.modSl_kept
    | with_reducible refine Kept.ite (fun _ => ?_) (fun _ => ?_)
    | fail_if_no_progress ((with_reducible apply Kept.mk1) <;> (first | with_reducible assumption | with_reducible rfl | skip))
    | with_reducible refine Kept.each (fun _ _ _ => ?_) ?_
    | with_reducible refine Kept.foldl2 (fun _ _ _ => ?_) ?_
    | with_reducible refine Kept.foldl (fun _ _ _ => ?_) ?_
    | extract_lets
    | with_reducible refine Kept.slGood (z0 := z0) ?_ ?_
    | with_reducible apply Slice.good_slots
    | with_reducible apply Slice.putBlock_good
    | with_reducible apply Slice.putWord_good
    | with_reducible apply Slice.putPlru_good
    | with_reducible apply Slice.touchWay_good
    | with_reducible apply Slice.mendSlot_good
    | with_reducible apply Slice.mendTS_good
    | with_reducible apply Slice.hitWay_good
    | with_reducible apply Slice.dropMove_good
    | with_reducible apply Slice.outcome_good
    | with_reducible apply Slice.hintFill_good
    | with_reducible apply Slice.predFix_good
    | with_reducible apply Slice.hintSeen_good
    | with_reducible apply Slice.predAdd_good
    | with_reducible apply Slice.closeLow_good
    | with_reducible apply Slice.setLock_good
    | with_reducible apply Slice.flushPlru_good
    | with_reducible refine Slice.shAlloc_good ?_ (by with_reducible assumption)
    | with_reducible refine Slice.ensureShadow_good ?_ (by with_reducible assumption)
    | with_reducible refine Slice.demandLook_good ?_ (by with_reducible assumption)
    | fail_if_no_progress ((with_reducible apply Slice.good_mk) <;> (first | with_reducible assumption | with_reducible rfl | skip))
    | split
    | with_reducible refine Kept.of_snd (by with_reducible assumption) ?_
    | dsimp +zetaDelta only
    | intro)

theorem giveUpRb_kept {z0 : State} (i : SliceNo) (e : RbEnt) (s : State)
    (hK : Kept z0 s) : Kept z0 (giveUpRb i e s) := by
  unfold giveUpRb
  repeat' (first
    | with_reducible assumption
    | with_reducible apply State.modSl_kept
    | with_reducible apply sendPut_kept
    | with_reducible apply dropRb_kept
    | with_reducible refine Kept.ite (fun _ => ?_) (fun _ => ?_)
    | fail_if_no_progress ((with_reducible apply Kept.mk1) <;> (first | with_reducible assumption | with_reducible rfl | skip))
    | with_reducible refine Kept.each (fun _ _ _ => ?_) ?_
    | with_reducible refine Kept.foldl2 (fun _ _ _ => ?_) ?_
    | with_reducible refine Kept.foldl (fun _ _ _ => ?_) ?_
    | extract_lets
    | with_reducible refine Kept.slGood (z0 := z0) ?_ ?_
    | with_reducible apply Slice.good_slots
    | with_reducible apply Slice.putBlock_good
    | with_reducible apply Slice.putWord_good
    | with_reducible apply Slice.putPlru_good
    | with_reducible apply Slice.touchWay_good
    | with_reducible apply Slice.mendSlot_good
    | with_reducible apply Slice.mendTS_good
    | with_reducible apply Slice.hitWay_good
    | with_reducible apply Slice.dropMove_good
    | with_reducible apply Slice.outcome_good
    | with_reducible apply Slice.hintFill_good
    | with_reducible apply Slice.predFix_good
    | with_reducible apply Slice.hintSeen_good
    | with_reducible apply Slice.predAdd_good
    | with_reducible apply Slice.closeLow_good
    | with_reducible apply Slice.setLock_good
    | with_reducible apply Slice.flushPlru_good
    | with_reducible refine Slice.shAlloc_good ?_ (by with_reducible assumption)
    | with_reducible refine Slice.ensureShadow_good ?_ (by with_reducible assumption)
    | with_reducible refine Slice.demandLook_good ?_ (by with_reducible assumption)
    | fail_if_no_progress ((with_reducible apply Slice.good_mk) <;> (first | with_reducible assumption | with_reducible rfl | skip))
    | split
    | with_reducible refine Kept.of_snd (by with_reducible assumption) ?_
    | dsimp +zetaDelta only
    | intro)

theorem rbFree_kept {z0 : State} (p : LAddr → Bool) (i : SliceNo) (s : State)
    (hK : Kept z0 s) : Kept z0 (rbFree p i s) := by
  unfold rbFree
  repeat' (first
    | with_reducible assumption
    | with_reducible apply giveUpRb_kept
    | with_reducible refine Kept.ite (fun _ => ?_) (fun _ => ?_)
    | fail_if_no_progress ((with_reducible apply Kept.mk1) <;> (first | with_reducible assumption | with_reducible rfl | skip))
    | with_reducible refine Kept.each (fun _ _ _ => ?_) ?_)

theorem refund_kept {z0 : State} (r : Req) (s : State)
    (hK : Kept z0 s) : Kept z0 (refund r s) := by
  unfold refund
  repeat' (first
    | with_reducible assumption
    | with_reducible apply State.modHp_kept
    | with_reducible refine Kept.ite (fun _ => ?_) (fun _ => ?_))

theorem prefetchTry_kept {z0 : State} (p : Port) (strm : BitVec 4) (stamp : Option W64) (ctr : Bool) (l : LAddr) (s0 : State)
    (hK : Kept z0 s0) : Kept z0 (prefetchTry p strm stamp ctr l s0).2 := by
  unfold prefetchTry
  extract_lets i drop y s x f absent seen room
  have hd : ∀ t, Kept z0 t → Kept z0 (drop t).2 := fun t h => refund_kept _ _ h
  split
  · exact hd _ hK
  · have hs : Kept z0 s := tsRow_kept _ _ _ _ _ (readTags_kept _ _ _ hK)
    have hse : ∀ t, Kept z0 t → Kept z0 (seen t) := by
      intro t h
      unfold seen
      generalize f = g
      cases g with
      | none => exact h
      | some c => exact State.modSl_kept h fun x h => Slice.hintSeen_good h
    have hr : ∀ t, room = some t → Kept z0 t := by
      intro t e
      simp only [room] at e
      split at e
      · cases e; exact hs
      · obtain ⟨y, -, e2⟩ := Option.bind_eq_some_iff.1 e
        split at e2
        · cases e2; exact giveUpRb_kept _ _ _ hs
        · cases e2
    split
    · exact hs
    · split
      · exact hd _ (hse _ hs)
      · split
        · rename_i s1 n e1 e2
          exact openTxn_kept _ _ _ (State.modSl_kept (hr s1 e1) fun x h => Slice.good_of h rfl rfl)
        · split
          · exact hs
          · exact hd _ hs

theorem prefetch_kept {z0 : State} (p : Port) (strm : BitVec 4) (ctr : Bool) (l : LAddr) (s : State)
    (hK : Kept z0 s) : Kept z0 (prefetch p strm ctr l s) := by
  unfold prefetch
  repeat' (first
    | with_reducible assumption
    | with_reducible apply prefetchTry_kept)

theorem rbMove_kept {z0 : State} (i : SliceNo) (e : RbEnt) (w : Nat) (hp : BitVec 4) (s : State)
    (hK : Kept z0 s) : Kept z0 (rbMove i e w hp s) := by
  unfold rbMove
  repeat' (first
    | with_reducible assumption
    | with_reducible apply State.modSl_kept
    | with_reducible apply rowOpen_kept
    | with_reducible apply writeSlot_kept
    | with_reducible apply dropRb_kept
    | with_reducible refine Kept.ite (fun _ => ?_) (fun _ => ?_)
    | fail_if_no_progress ((with_reducible apply Kept.mk1) <;> (first | with_reducible assumption | with_reducible rfl | skip))
    | with_reducible refine Kept.each (fun _ _ _ => ?_) ?_
    | with_reducible refine Kept.foldl2 (fun _ _ _ => ?_) ?_
    | with_reducible refine Kept.foldl (fun _ _ _ => ?_) ?_
    | extract_lets
    | with_reducible refine Kept.slGood (z0 := z0) ?_ ?_
    | with_reducible apply Slice.good_slots
    | with_reducible apply Slice.putBlock_good
    | with_reducible apply Slice.putWord_good
    | with_reducible apply Slice.putPlru_good
    | with_reducible apply Slice.touchWay_good
    | with_reducible apply Slice.mendSlot_good
    | with_reducible apply Slice.mendTS_good
    | with_reducible apply Slice.hitWay_good
    | with_reducible apply Slice.dropMove_good
    | with_reducible apply Slice.outcome_good
    | with_reducible apply Slice.hintFill_good
    | with_reducible apply Slice.predFix_good
    | with_reducible apply Slice.hintSeen_good
    | with_reducible apply Slice.predAdd_good
    | with_reducible apply Slice.closeLow_good
    | with_reducible apply Slice.setLock_good
    | with_reducible apply Slice.flushPlru_good
    | with_reducible refine Slice.shAlloc_good ?_ (by with_reducible assumption)
    | with_reducible refine Slice.ensureShadow_good ?_ (by with_reducible assumption)
    | with_reducible refine Slice.demandLook_good ?_ (by with_reducible assumption)
    | fail_if_no_progress ((with_reducible apply Slice.good_mk) <;> (first | with_reducible assumption | with_reducible rfl | skip))
    | split
    | with_reducible refine Kept.of_snd (by with_reducible assumption) ?_
    | dsimp +zetaDelta only
    | intro)

theorem rbStep_kept {z0 : State} (i : SliceNo) (e : RbEnt) (hp : BitVec 4) (act : Nat → Act) (s : State)
    (hK : Kept z0 s) : Kept z0 (rbStep i e hp act s).2 := by
  unfold rbStep
  repeat' (first
    | with_reducible assumption
    | with_reducible apply snoopFor_kept
    | with_reducible apply evictWay_kept
    | with_reducible apply rbMove_kept
    | with_reducible refine Kept.ite (fun _ => ?_) (fun _ => ?_)
    | fail_if_no_progress ((with_reducible apply Kept.mk1) <;> (first | with_reducible assumption | with_reducible rfl | skip))
    | with_reducible refine Kept.each (fun _ _ _ => ?_) ?_
    | with_reducible refine Kept.foldl2 (fun _ _ _ => ?_) ?_
    | with_reducible refine Kept.foldl (fun _ _ _ => ?_) ?_
    | extract_lets
    | with_reducible refine Kept.slGood (z0 := z0) ?_ ?_
    | with_reducible apply Slice.good_slots
    | with_reducible apply Slice.putBlock_good
    | with_reducible apply Slice.putWord_good
    | with_reducible apply Slice.putPlru_good
    | with_reducible apply Slice.touchWay_good
    | with_reducible apply Slice.mendSlot_good
    | with_reducible apply Slice.mendTS_good
    | with_reducible apply Slice.hitWay_good
    | with_reducible apply Slice.dropMove_good
    | with_reducible apply Slice.outcome_good
    | with_reducible apply Slice.hintFill_good
    | with_reducible apply Slice.predFix_good
    | with_reducible apply Slice.hintSeen_good
    | with_reducible apply Slice.predAdd_good
    | with_reducible apply Slice.closeLow_good
    | with_reducible apply Slice.setLock_good
    | with_reducible apply Slice.flushPlru_good
    | with_reducible refine Slice.shAlloc_good ?_ (by with_reducible assumption)
    | with_reducible refine Slice.ensureShadow_good ?_ (by with_reducible assumption)
    | with_reducible refine Slice.demandLook_good ?_ (by with_reducible assumption)
    | fail_if_no_progress ((with_reducible apply Slice.good_mk) <;> (first | with_reducible assumption | with_reducible rfl | skip))
    | split)

theorem rbCarry_kept {z0 : State} (i : SliceNo) (l : LAddr) (hp : BitVec 4) (s : State)
    (hK : Kept z0 s) : Kept z0 (rbCarry i l hp s) := by
  unfold rbCarry
  repeat' (first
    | with_reducible assumption
    | with_reducible apply State.modSl_kept
    | with_reducible apply rbMove_kept
    | with_reducible apply rbStep_kept
    | with_reducible refine Kept.ite (fun _ => ?_) (fun _ => ?_)
    | fail_if_no_progress ((with_reducible apply Kept.mk1) <;> (first | with_reducible assumption | with_reducible rfl | skip))
    | with_reducible refine Kept.each (fun _ _ _ => ?_) ?_
    | with_reducible refine Kept.foldl2 (fun _ _ _ => ?_) ?_
    | with_reducible refine Kept.foldl (fun _ _ _ => ?_) ?_
    | extract_lets
    | with_reducible refine Kept.slGood (z0 := z0) ?_ ?_
    | with_reducible apply Slice.good_slots
    | with_reducible apply Slice.putBlock_good
    | with_reducible apply Slice.putWord_good
    | with_reducible apply Slice.putPlru_good
    | with_reducible apply Slice.touchWay_good
    | with_reducible apply Slice.mendSlot_good
    | with_reducible apply Slice.mendTS_good
    | with_reducible apply Slice.hitWay_good
    | with_reducible apply Slice.dropMove_good
    | with_reducible apply Slice.outcome_good
    | with_reducible apply Slice.hintFill_good
    | with_reducible apply Slice.predFix_good
    | with_reducible apply Slice.hintSeen_good
    | with_reducible apply Slice.predAdd_good
    | with_reducible apply Slice.closeLow_good
    | with_reducible apply Slice.setLock_good
    | with_reducible apply Slice.flushPlru_good
    | with_reducible refine Slice.shAlloc_good ?_ (by with_reducible assumption)
    | with_reducible refine Slice.ensureShadow_good ?_ (by with_reducible assumption)
    | with_reducible refine Slice.demandLook_good ?_ (by with_reducible assumption)
    | fail_if_no_progress ((with_reducible apply Slice.good_mk) <;> (first | with_reducible assumption | with_reducible rfl | skip))
    | split
    | with_reducible refine Kept.of_snd (by with_reducible assumption) ?_
    | dsimp +zetaDelta only
    | intro)

theorem rbRetry_kept {z0 : State} (i : SliceNo) (s : State)
    (hK : Kept z0 s) : Kept z0 (rbRetry i s) := by
  unfold rbRetry
  repeat' (first
    | with_reducible assumption
    | with_reducible apply State.modSl_kept
    | with_reducible apply rbMove_kept
    | with_reducible apply rbCarry_kept
    | with_reducible refine Kept.ite (fun _ => ?_) (fun _ => ?_)
    | fail_if_no_progress ((with_reducible apply Kept.mk1) <;> (first | with_reducible assumption | with_reducible rfl | skip))
    | with_reducible refine Kept.each (fun _ _ _ => ?_) ?_
    | with_reducible refine Kept.foldl2 (fun _ _ _ => ?_) ?_
    | with_reducible refine Kept.foldl (fun _ _ _ => ?_) ?_
    | extract_lets
    | with_reducible refine Kept.slGood (z0 := z0) ?_ ?_
    | with_reducible apply Slice.good_slots
    | with_reducible apply Slice.putBlock_good
    | with_reducible apply Slice.putWord_good
    | with_reducible apply Slice.putPlru_good
    | with_reducible apply Slice.touchWay_good
    | with_reducible apply Slice.mendSlot_good
    | with_reducible apply Slice.mendTS_good
    | with_reducible apply Slice.hitWay_good
    | with_reducible apply Slice.dropMove_good
    | with_reducible apply Slice.outcome_good
    | with_reducible apply Slice.hintFill_good
    | with_reducible apply Slice.predFix_good
    | with_reducible apply Slice.hintSeen_good
    | with_reducible apply Slice.predAdd_good
    | with_reducible apply Slice.closeLow_good
    | with_reducible apply Slice.setLock_good
    | with_reducible apply Slice.flushPlru_good
    | with_reducible refine Slice.shAlloc_good ?_ (by with_reducible assumption)
    | with_reducible refine Slice.ensureShadow_good ?_ (by with_reducible assumption)
    | with_reducible refine Slice.demandLook_good ?_ (by with_reducible assumption)
    | fail_if_no_progress ((with_reducible apply Slice.good_mk) <;> (first | with_reducible assumption | with_reducible rfl | skip))
    | split
    | with_reducible refine Kept.of_snd (by with_reducible assumption) ?_
    | dsimp +zetaDelta only
    | intro)

theorem freeWmb_kept {z0 : State} (i : SliceNo) (id : Nat) (s : State)
    (hK : Kept z0 s) : Kept z0 (freeWmb i id s) := by
  unfold freeWmb
  repeat' (first
    | with_reducible assumption
    | with_reducible apply State.modSl_kept
    | with_reducible refine Kept.ite (fun _ => ?_) (fun _ => ?_)
    | fail_if_no_progress ((with_reducible apply Kept.mk1) <;> (first | with_reducible assumption | with_reducible rfl | skip))
    | with_reducible refine Kept.each (fun _ _ _ => ?_) ?_
    | with_reducible refine Kept.foldl2 (fun _ _ _ => ?_) ?_
    | with_reducible refine Kept.foldl (fun _ _ _ => ?_) ?_
    | extract_lets
    | with_reducible refine Kept.slGood (z0 := z0) ?_ ?_
    | with_reducible apply Slice.good_slots
    | with_reducible apply Slice.putBlock_good
    | with_reducible apply Slice.putWord_good
    | with_reducible apply Slice.putPlru_good
    | with_reducible apply Slice.touchWay_good
    | with_reducible apply Slice.mendSlot_good
    | with_reducible apply Slice.mendTS_good
    | with_reducible apply Slice.hitWay_good
    | with_reducible apply Slice.dropMove_good
    | with_reducible apply Slice.outcome_good
    | with_reducible apply Slice.hintFill_good
    | with_reducible apply Slice.predFix_good
    | with_reducible apply Slice.hintSeen_good
    | with_reducible apply Slice.predAdd_good
    | with_reducible apply Slice.closeLow_good
    | with_reducible apply Slice.setLock_good
    | with_reducible apply Slice.flushPlru_good
    | with_reducible refine Slice.shAlloc_good ?_ (by with_reducible assumption)
    | with_reducible refine Slice.ensureShadow_good ?_ (by with_reducible assumption)
    | with_reducible refine Slice.demandLook_good ?_ (by with_reducible assumption)
    | fail_if_no_progress ((with_reducible apply Slice.good_mk) <;> (first | with_reducible assumption | with_reducible rfl | skip))
    | split
    | with_reducible refine Kept.of_snd (by with_reducible assumption) ?_
    | dsimp +zetaDelta only
    | intro)

theorem freeNtc_kept {z0 : State} (p : Port) (id : Nat) (s : State)
    (hK : Kept z0 s) : Kept z0 (freeNtc p id s) := by
  unfold freeNtc
  repeat' (first
    | with_reducible assumption
    | with_reducible apply State.modHp_kept)

theorem writeWay_kept {z0 : State} (i : SliceNo) (set w : Nat) (data : Line) (m : W64) (poison : Bool) (st : LState → LState) (s : State)
    (hK : Kept z0 s) : Kept z0 (writeWay i set w data m poison st s) := by
  unfold writeWay
  repeat' (first
    | with_reducible assumption
    | with_reducible apply State.modSl_kept
    | with_reducible apply readSlot_kept
    | with_reducible apply writeSlot_kept
    | with_reducible refine Kept.ite (fun _ => ?_) (fun _ => ?_)
    | fail_if_no_progress ((with_reducible apply Kept.mk1) <;> (first | with_reducible assumption | with_reducible rfl | skip))
    | with_reducible refine Kept.each (fun _ _ _ => ?_) ?_
    | with_reducible refine Kept.foldl2 (fun _ _ _ => ?_) ?_
    | with_reducible refine Kept.foldl (fun _ _ _ => ?_) ?_
    | extract_lets
    | with_reducible refine Kept.slGood (z0 := z0) ?_ ?_
    | with_reducible apply Slice.good_slots
    | with_reducible apply Slice.putBlock_good
    | with_reducible apply Slice.putWord_good
    | with_reducible apply Slice.putPlru_good
    | with_reducible apply Slice.touchWay_good
    | with_reducible apply Slice.mendSlot_good
    | with_reducible apply Slice.mendTS_good
    | with_reducible apply Slice.hitWay_good
    | with_reducible apply Slice.dropMove_good
    | with_reducible apply Slice.outcome_good
    | with_reducible apply Slice.hintFill_good
    | with_reducible apply Slice.predFix_good
    | with_reducible apply Slice.hintSeen_good
    | with_reducible apply Slice.predAdd_good
    | with_reducible apply Slice.closeLow_good
    | with_reducible apply Slice.setLock_good
    | with_reducible apply Slice.flushPlru_good
    | with_reducible refine Slice.shAlloc_good ?_ (by with_reducible assumption)
    | with_reducible refine Slice.ensureShadow_good ?_ (by with_reducible assumption)
    | with_reducible refine Slice.demandLook_good ?_ (by with_reducible assumption)
    | fail_if_no_progress ((with_reducible apply Slice.good_mk) <;> (first | with_reducible assumption | with_reducible rfl | skip))
    | split
    | with_reducible refine Kept.of_snd (by with_reducible assumption) ?_
    | dsimp +zetaDelta only
    | intro)

theorem sendWrU_kept {z0 : State} (i : SliceNo) (e : BufEnt) (n : BitVec 12) (keep : Bool) (wmb : Option Nat) (ntc : Option (Port × Nat)) (s : State)
    (hK : Kept z0 s) : Kept z0 (sendWrU i e n keep wmb ntc s) := by
  unfold sendWrU
  repeat' (first
    | with_reducible assumption
    | with_reducible apply openTxn_kept)

theorem lookEntry_kept {z0 : State} (i : SliceNo) (l : LAddr) (s : State)
    (hK : Kept z0 s) : Kept z0 (lookEntry i l s).2 := by
  unfold lookEntry
  split
  · exact hK
  · extract_lets y hit s1
    have h1 : Kept z0 s1 := tsRow_kept _ _ _ _ _ (readTags_kept _ _ _ hK)
    clear_value hit s1
    cases hit with
    | none => exact h1
    | some c => exact State.modSl_kept h1 fun x h => Slice.hintSeen_good h

theorem wmbSend_kept {z0 : State} (i : SliceNo) (e : BufEnt) (keep : Bool) (s : State)
    (hK : Kept z0 s) : Kept z0 (wmbSend i e keep s) := by
  unfold wmbSend
  repeat' (first
    | with_reducible assumption
    | with_reducible apply State.modSl_kept
    | with_reducible apply evDeadDone_kept
    | with_reducible apply freeWmb_kept
    | with_reducible apply sendWrU_kept
    | with_reducible refine Kept.ite (fun _ => ?_) (fun _ => ?_)
    | fail_if_no_progress ((with_reducible apply Kept.mk1) <;> (first | with_reducible assumption | with_reducible rfl | skip))
    | with_reducible refine Kept.each (fun _ _ _ => ?_) ?_
    | with_reducible refine Kept.foldl2 (fun _ _ _ => ?_) ?_
    | with_reducible refine Kept.foldl (fun _ _ _ => ?_) ?_
    | extract_lets
    | with_reducible refine Kept.slGood (z0 := z0) ?_ ?_
    | with_reducible apply Slice.good_slots
    | with_reducible apply Slice.putBlock_good
    | with_reducible apply Slice.putWord_good
    | with_reducible apply Slice.putPlru_good
    | with_reducible apply Slice.touchWay_good
    | with_reducible apply Slice.mendSlot_good
    | with_reducible apply Slice.mendTS_good
    | with_reducible apply Slice.hitWay_good
    | with_reducible apply Slice.dropMove_good
    | with_reducible apply Slice.outcome_good
    | with_reducible apply Slice.hintFill_good
    | with_reducible apply Slice.predFix_good
    | with_reducible apply Slice.hintSeen_good
    | with_reducible apply Slice.predAdd_good
    | with_reducible apply Slice.closeLow_good
    | with_reducible apply Slice.setLock_good
    | with_reducible apply Slice.flushPlru_good
    | with_reducible refine Slice.shAlloc_good ?_ (by with_reducible assumption)
    | with_reducible refine Slice.ensureShadow_good ?_ (by with_reducible assumption)
    | with_reducible refine Slice.demandLook_good ?_ (by with_reducible assumption)
    | fail_if_no_progress ((with_reducible apply Slice.good_mk) <;> (first | with_reducible assumption | with_reducible rfl | skip))
    | split
    | with_reducible refine Kept.of_snd (by with_reducible assumption) ?_
    | dsimp +zetaDelta only
    | intro)

theorem wmbGo_kept {z0 : State} (i : SliceNo) (e : BufEnt) (snooped : Bool) (s0 : State)
    (hK : Kept z0 s0) : Kept z0 (wmbGo i e snooped s0) := by
  unfold wmbGo
  repeat' (first
    | with_reducible assumption
    | with_reducible apply snoopFor_kept
    | with_reducible apply openTxn_kept
    | with_reducible apply giveUpRb_kept
    | with_reducible apply rbMove_kept
    | with_reducible apply rbStep_kept
    | with_reducible apply freeWmb_kept
    | with_reducible apply writeWay_kept
    | with_reducible apply lookEntry_kept
    | with_reducible apply wmbSend_kept
    | with_reducible refine Kept.ite (fun _ => ?_) (fun _ => ?_)
    | fail_if_no_progress ((with_reducible apply Kept.mk1) <;> (first | with_reducible assumption | with_reducible rfl | skip))
    | with_reducible refine Kept.each (fun _ _ _ => ?_) ?_
    | with_reducible refine Kept.foldl2 (fun _ _ _ => ?_) ?_
    | with_reducible refine Kept.foldl (fun _ _ _ => ?_) ?_
    | extract_lets
    | with_reducible refine Kept.slGood (z0 := z0) ?_ ?_
    | with_reducible apply Slice.good_slots
    | with_reducible apply Slice.putBlock_good
    | with_reducible apply Slice.putWord_good
    | with_reducible apply Slice.putPlru_good
    | with_reducible apply Slice.touchWay_good
    | with_reducible apply Slice.mendSlot_good
    | with_reducible apply Slice.mendTS_good
    | with_reducible apply Slice.hitWay_good
    | with_reducible apply Slice.dropMove_good
    | with_reducible apply Slice.outcome_good
    | with_reducible apply Slice.hintFill_good
    | with_reducible apply Slice.predFix_good
    | with_reducible apply Slice.hintSeen_good
    | with_reducible apply Slice.predAdd_good
    | with_reducible apply Slice.closeLow_good
    | with_reducible apply Slice.setLock_good
    | with_reducible apply Slice.flushPlru_good
    | with_reducible refine Slice.shAlloc_good ?_ (by with_reducible assumption)
    | with_reducible refine Slice.ensureShadow_good ?_ (by with_reducible assumption)
    | with_reducible refine Slice.demandLook_good ?_ (by with_reducible assumption)
    | fail_if_no_progress ((with_reducible apply Slice.good_mk) <;> (first | with_reducible assumption | with_reducible rfl | skip))
    | split
    | with_reducible refine Kept.of_snd (by with_reducible assumption) ?_
    | dsimp +zetaDelta only)

theorem ntcIssued_kept {z0 : State} (p : Port) (id : Nat) (v : Bool) (s : State)
    (hK : Kept z0 s) : Kept z0 (ntcIssued p id v s) := by
  unfold ntcIssued
  repeat' (first
    | with_reducible assumption
    | with_reducible apply State.modHp_kept)

theorem ntcSend_kept {z0 : State} (p : Port) (e : BufEnt) (s : State)
    (hK : Kept z0 s) : Kept z0 (ntcSend p e s) := by
  unfold ntcSend
  repeat' (first
    | with_reducible assumption
    | with_reducible apply evDeadDone_kept
    | with_reducible apply freeNtc_kept
    | with_reducible apply sendWrU_kept
    | with_reducible apply ntcIssued_kept
    | with_reducible refine Kept.ite (fun _ => ?_) (fun _ => ?_)
    | fail_if_no_progress ((with_reducible apply Kept.mk1) <;> (first | with_reducible assumption | with_reducible rfl | skip))
    | with_reducible refine Kept.each (fun _ _ _ => ?_) ?_
    | with_reducible refine Kept.foldl2 (fun _ _ _ => ?_) ?_
    | with_reducible refine Kept.foldl (fun _ _ _ => ?_) ?_
    | extract_lets
    | with_reducible refine Kept.slGood (z0 := z0) ?_ ?_
    | with_reducible apply Slice.good_slots
    | with_reducible apply Slice.putBlock_good
    | with_reducible apply Slice.putWord_good
    | with_reducible apply Slice.putPlru_good
    | with_reducible apply Slice.touchWay_good
    | with_reducible apply Slice.mendSlot_good
    | with_reducible apply Slice.mendTS_good
    | with_reducible apply Slice.hitWay_good
    | with_reducible apply Slice.dropMove_good
    | with_reducible apply Slice.outcome_good
    | with_reducible apply Slice.hintFill_good
    | with_reducible apply Slice.predFix_good
    | with_reducible apply Slice.hintSeen_good
    | with_reducible apply Slice.predAdd_good
    | with_reducible apply Slice.closeLow_good
    | with_reducible apply Slice.setLock_good
    | with_reducible apply Slice.flushPlru_good
    | with_reducible refine Slice.shAlloc_good ?_ (by with_reducible assumption)
    | with_reducible refine Slice.ensureShadow_good ?_ (by with_reducible assumption)
    | with_reducible refine Slice.demandLook_good ?_ (by with_reducible assumption)
    | fail_if_no_progress ((with_reducible apply Slice.good_mk) <;> (first | with_reducible assumption | with_reducible rfl | skip))
    | split)

theorem ntcGo_kept {z0 : State} (p : Port) (e : BufEnt) (snooped : Bool) (s0 : State)
    (hK : Kept z0 s0) : Kept z0 (ntcGo p e snooped s0) := by
  unfold ntcGo
  repeat' (first
    | with_reducible assumption
    | with_reducible apply evDeadDone_kept
    | with_reducible apply snoopFor_kept
    | with_reducible apply evictWay_kept
    | with_reducible apply dropWay_kept
    | with_reducible apply giveUpRb_kept
    | with_reducible apply freeNtc_kept
    | with_reducible apply writeWay_kept
    | with_reducible apply lookEntry_kept
    | with_reducible apply ntcIssued_kept
    | with_reducible apply ntcSend_kept
    | with_reducible refine Kept.ite (fun _ => ?_) (fun _ => ?_)
    | fail_if_no_progress ((with_reducible apply Kept.mk1) <;> (first | with_reducible assumption | with_reducible rfl | skip))
    | with_reducible refine Kept.each (fun _ _ _ => ?_) ?_
    | with_reducible refine Kept.foldl2 (fun _ _ _ => ?_) ?_
    | with_reducible refine Kept.foldl (fun _ _ _ => ?_) ?_
    | extract_lets
    | with_reducible refine Kept.slGood (z0 := z0) ?_ ?_
    | with_reducible apply Slice.good_slots
    | with_reducible apply Slice.putBlock_good
    | with_reducible apply Slice.putWord_good
    | with_reducible apply Slice.putPlru_good
    | with_reducible apply Slice.touchWay_good
    | with_reducible apply Slice.mendSlot_good
    | with_reducible apply Slice.mendTS_good
    | with_reducible apply Slice.hitWay_good
    | with_reducible apply Slice.dropMove_good
    | with_reducible apply Slice.outcome_good
    | with_reducible apply Slice.hintFill_good
    | with_reducible apply Slice.predFix_good
    | with_reducible apply Slice.hintSeen_good
    | with_reducible apply Slice.predAdd_good
    | with_reducible apply Slice.closeLow_good
    | with_reducible apply Slice.setLock_good
    | with_reducible apply Slice.flushPlru_good
    | with_reducible refine Slice.shAlloc_good ?_ (by with_reducible assumption)
    | with_reducible refine Slice.ensureShadow_good ?_ (by with_reducible assumption)
    | with_reducible refine Slice.demandLook_good ?_ (by with_reducible assumption)
    | fail_if_no_progress ((with_reducible apply Slice.good_mk) <;> (first | with_reducible assumption | with_reducible rfl | skip))
    | split
    | with_reducible refine Kept.of_snd (by with_reducible assumption) ?_
    | dsimp +zetaDelta only)

theorem issueAll_kept {z0 : State} (i : SliceNo) (s : State)
    (hK : Kept z0 s) : Kept z0 (issueAll i s) := by
  unfold issueAll
  repeat' (first
    | with_reducible assumption
    | with_reducible apply wmbGo_kept
    | with_reducible apply ntcGo_kept
    | with_reducible refine Kept.ite (fun _ => ?_) (fun _ => ?_)
    | fail_if_no_progress ((with_reducible apply Kept.mk1) <;> (first | with_reducible assumption | with_reducible rfl | skip))
    | with_reducible refine Kept.each (fun _ _ _ => ?_) ?_
    | with_reducible refine Kept.foldl2 (fun _ _ _ => ?_) ?_
    | with_reducible refine Kept.foldl (fun _ _ _ => ?_) ?_
    | extract_lets
    | with_reducible refine Kept.slGood (z0 := z0) ?_ ?_
    | with_reducible apply Slice.good_slots
    | with_reducible apply Slice.putBlock_good
    | with_reducible apply Slice.putWord_good
    | with_reducible apply Slice.putPlru_good
    | with_reducible apply Slice.touchWay_good
    | with_reducible apply Slice.mendSlot_good
    | with_reducible apply Slice.mendTS_good
    | with_reducible apply Slice.hitWay_good
    | with_reducible apply Slice.dropMove_good
    | with_reducible apply Slice.outcome_good
    | with_reducible apply Slice.hintFill_good
    | with_reducible apply Slice.predFix_good
    | with_reducible apply Slice.hintSeen_good
    | with_reducible apply Slice.predAdd_good
    | with_reducible apply Slice.closeLow_good
    | with_reducible apply Slice.setLock_good
    | with_reducible apply Slice.flushPlru_good
    | with_reducible refine Slice.shAlloc_good ?_ (by with_reducible assumption)
    | with_reducible refine Slice.ensureShadow_good ?_ (by with_reducible assumption)
    | with_reducible refine Slice.demandLook_good ?_ (by with_reducible assumption)
    | fail_if_no_progress ((with_reducible apply Slice.good_mk) <;> (first | with_reducible assumption | with_reducible rfl | skip))
    | split)

theorem issueEvery_kept {z0 : State} (s : State)
    (hK : Kept z0 s) : Kept z0 (issueEvery s) := by
  unfold issueEvery
  repeat' (first
    | with_reducible assumption
    | with_reducible apply issueAll_kept
    | with_reducible refine Kept.ite (fun _ => ?_) (fun _ => ?_)
    | fail_if_no_progress ((with_reducible apply Kept.mk1) <;> (first | with_reducible assumption | with_reducible rfl | skip))
    | with_reducible refine Kept.each (fun _ _ _ => ?_) ?_)

theorem closeEntries_kept {z0 : State} (pw pn : BufEnt → Bool) (s : State)
    (hK : Kept z0 s) : Kept z0 (closeEntries pw pn s) := by
  unfold closeEntries
  repeat' (first
    | with_reducible assumption
    | with_reducible apply State.modHp_kept
    | with_reducible apply State.modSl_kept
    | with_reducible refine Kept.ite (fun _ => ?_) (fun _ => ?_)
    | fail_if_no_progress ((with_reducible apply Kept.mk1) <;> (first | with_reducible assumption | with_reducible rfl | skip))
    | with_reducible refine Kept.each (fun _ _ _ => ?_) ?_
    | with_reducible refine Kept.foldl2 (fun _ _ _ => ?_) ?_
    | with_reducible refine Kept.foldl (fun _ _ _ => ?_) ?_
    | extract_lets
    | with_reducible refine Kept.slGood (z0 := z0) ?_ ?_
    | with_reducible apply Slice.good_slots
    | with_reducible apply Slice.putBlock_good
    | with_reducible apply Slice.putWord_good
    | with_reducible apply Slice.putPlru_good
    | with_reducible apply Slice.touchWay_good
    | with_reducible apply Slice.mendSlot_good
    | with_reducible apply Slice.mendTS_good
    | with_reducible apply Slice.hitWay_good
    | with_reducible apply Slice.dropMove_good
    | with_reducible apply Slice.outcome_good
    | with_reducible apply Slice.hintFill_good
    | with_reducible apply Slice.predFix_good
    | with_reducible apply Slice.hintSeen_good
    | with_reducible apply Slice.predAdd_good
    | with_reducible apply Slice.closeLow_good
    | with_reducible apply Slice.setLock_good
    | with_reducible apply Slice.flushPlru_good
    | with_reducible refine Slice.shAlloc_good ?_ (by with_reducible assumption)
    | with_reducible refine Slice.ensureShadow_good ?_ (by with_reducible assumption)
    | with_reducible refine Slice.demandLook_good ?_ (by with_reducible assumption)
    | fail_if_no_progress ((with_reducible apply Slice.good_mk) <;> (first | with_reducible assumption | with_reducible rfl | skip))
    | split
    | with_reducible refine Kept.of_snd (by with_reducible assumption) ?_
    | dsimp +zetaDelta only
    | intro)

theorem wmbStore_kept {z0 : State} (i : SliceNo) (r : Req) (s : State)
    (hK : Kept z0 s) : Kept z0 (wmbStore i r s) := by
  unfold wmbStore
  repeat' (first
    | with_reducible assumption
    | with_reducible apply State.setSl_kept
    | with_reducible apply complete_kept
    | with_reducible apply waitIn_kept
    | with_reducible apply refund_kept
    | with_reducible apply issueAll_kept
    | with_reducible refine Kept.ite (fun _ => ?_) (fun _ => ?_)
    | fail_if_no_progress ((with_reducible apply Kept.mk1) <;> (first | with_reducible assumption | with_reducible rfl | skip))
    | with_reducible refine Kept.each (fun _ _ _ => ?_) ?_
    | with_reducible refine Kept.foldl2 (fun _ _ _ => ?_) ?_
    | with_reducible refine Kept.foldl (fun _ _ _ => ?_) ?_
    | extract_lets
    | with_reducible refine Kept.slGood (z0 := z0) ?_ ?_
    | with_reducible apply Slice.good_slots
    | with_reducible apply Slice.putBlock_good
    | with_reducible apply Slice.putWord_good
    | with_reducible apply Slice.putPlru_good
    | with_reducible apply Slice.touchWay_good
    | with_reducible apply Slice.mendSlot_good
    | with_reducible apply Slice.mendTS_good
    | with_reducible apply Slice.hitWay_good
    | with_reducible apply Slice.dropMove_good
    | with_reducible apply Slice.outcome_good
    | with_reducible apply Slice.hintFill_good
    | with_reducible apply Slice.predFix_good
    | with_reducible apply Slice.hintSeen_good
    | with_reducible apply Slice.predAdd_good
    | with_reducible apply Slice.closeLow_good
    | with_reducible apply Slice.setLock_good
    | with_reducible apply Slice.flushPlru_good
    | with_reducible refine Slice.shAlloc_good ?_ (by with_reducible assumption)
    | with_reducible refine Slice.ensureShadow_good ?_ (by with_reducible assumption)
    | with_reducible refine Slice.demandLook_good ?_ (by with_reducible assumption)
    | fail_if_no_progress ((with_reducible apply Slice.good_mk) <;> (first | with_reducible assumption | with_reducible rfl | skip))
    | split
    | with_reducible refine Kept.of_snd (by with_reducible assumption) ?_
    | dsimp +zetaDelta only
    | intro)

theorem ntcStore_kept {z0 : State} (r : Req) (s : State)
    (hK : Kept z0 s) : Kept z0 (ntcStore r s) := by
  unfold ntcStore
  repeat' (first
    | with_reducible assumption
    | with_reducible apply State.setHp_kept
    | with_reducible apply State.modHp_kept
    | with_reducible apply complete_kept
    | with_reducible apply refund_kept
    | with_reducible apply issueAll_kept
    | with_reducible apply issueEvery_kept
    | with_reducible refine Kept.ite (fun _ => ?_) (fun _ => ?_)
    | fail_if_no_progress ((with_reducible apply Kept.mk1) <;> (first | with_reducible assumption | with_reducible rfl | skip)))

theorem setRsv_kept {z0 : State} (p : Port) (k : Nat) (g : LAddr) (s : State)
    (hK : Kept z0 s) : Kept z0 (setRsv p k g s) := by
  unfold setRsv
  repeat' (first
    | with_reducible assumption
    | with_reducible apply State.modHp_kept)

theorem giveRead_kept {z0 : State} (r : Req) (d : Line) (poison : Bool) (grant : BitVec 2) (s : State)
    (hK : Kept z0 s) : Kept z0 (giveRead r d poison grant s) := by
  unfold giveRead
  repeat' (first
    | with_reducible assumption
    | with_reducible apply completeData_kept
    | with_reducible apply stampCheck_kept
    | with_reducible apply setRsv_kept
    | with_reducible refine Kept.ite (fun _ => ?_) (fun _ => ?_)
    | fail_if_no_progress ((with_reducible apply Kept.mk1) <;> (first | with_reducible assumption | with_reducible rfl | skip))
    | with_reducible refine Kept.each (fun _ _ _ => ?_) ?_
    | with_reducible refine Kept.foldl2 (fun _ _ _ => ?_) ?_
    | with_reducible refine Kept.foldl (fun _ _ _ => ?_) ?_
    | extract_lets
    | with_reducible refine Kept.slGood (z0 := z0) ?_ ?_
    | with_reducible apply Slice.good_slots
    | with_reducible apply Slice.putBlock_good
    | with_reducible apply Slice.putWord_good
    | with_reducible apply Slice.putPlru_good
    | with_reducible apply Slice.touchWay_good
    | with_reducible apply Slice.mendSlot_good
    | with_reducible apply Slice.mendTS_good
    | with_reducible apply Slice.hitWay_good
    | with_reducible apply Slice.dropMove_good
    | with_reducible apply Slice.outcome_good
    | with_reducible apply Slice.hintFill_good
    | with_reducible apply Slice.predFix_good
    | with_reducible apply Slice.hintSeen_good
    | with_reducible apply Slice.predAdd_good
    | with_reducible apply Slice.closeLow_good
    | with_reducible apply Slice.setLock_good
    | with_reducible apply Slice.flushPlru_good
    | with_reducible refine Slice.shAlloc_good ?_ (by with_reducible assumption)
    | with_reducible refine Slice.ensureShadow_good ?_ (by with_reducible assumption)
    | with_reducible refine Slice.demandLook_good ?_ (by with_reducible assumption)
    | fail_if_no_progress ((with_reducible apply Slice.good_mk) <;> (first | with_reducible assumption | with_reducible rfl | skip))
    | split)

theorem demandHit_kept {z0 : State} (i : SliceNo) (set w : Nat) (r : Req) (s : State)
    (hK : Kept z0 s) : Kept z0 (demandHit i set w r s) := by
  unfold demandHit
  repeat' (first
    | with_reducible assumption
    | with_reducible apply State.modSl_kept
    | with_reducible refine Kept.ite (fun _ => ?_) (fun _ => ?_)
    | fail_if_no_progress ((with_reducible apply Kept.mk1) <;> (first | with_reducible assumption | with_reducible rfl | skip))
    | with_reducible refine Kept.each (fun _ _ _ => ?_) ?_
    | with_reducible refine Kept.foldl2 (fun _ _ _ => ?_) ?_
    | with_reducible refine Kept.foldl (fun _ _ _ => ?_) ?_
    | extract_lets
    | with_reducible refine Kept.slGood (z0 := z0) ?_ ?_
    | with_reducible apply Slice.good_slots
    | with_reducible apply Slice.putBlock_good
    | with_reducible apply Slice.putWord_good
    | with_reducible apply Slice.putPlru_good
    | with_reducible apply Slice.touchWay_good
    | with_reducible apply Slice.mendSlot_good
    | with_reducible apply Slice.mendTS_good
    | with_reducible apply Slice.hitWay_good
    | with_reducible apply Slice.dropMove_good
    | with_reducible apply Slice.outcome_good
    | with_reducible apply Slice.hintFill_good
    | with_reducible apply Slice.predFix_good
    | with_reducible apply Slice.hintSeen_good
    | with_reducible apply Slice.predAdd_good
    | with_reducible apply Slice.closeLow_good
    | with_reducible apply Slice.setLock_good
    | with_reducible apply Slice.flushPlru_good
    | with_reducible refine Slice.shAlloc_good ?_ (by with_reducible assumption)
    | with_reducible refine Slice.ensureShadow_good ?_ (by with_reducible assumption)
    | with_reducible refine Slice.demandLook_good ?_ (by with_reducible assumption)
    | fail_if_no_progress ((with_reducible apply Slice.good_mk) <;> (first | with_reducible assumption | with_reducible rfl | skip))
    | split
    | with_reducible refine Kept.of_snd (by with_reducible assumption) ?_
    | dsimp +zetaDelta only
    | intro)

theorem addHp_kept {z0 : State} (i : SliceNo) (set w : Nat) (p : Port) (only : Bool) (s : State)
    (hK : Kept z0 s) : Kept z0 (addHp i set w p only s) := by
  unfold addHp
  repeat' (first
    | with_reducible assumption
    | with_reducible apply State.modSl_kept
    | with_reducible refine Kept.ite (fun _ => ?_) (fun _ => ?_)
    | fail_if_no_progress ((with_reducible apply Kept.mk1) <;> (first | with_reducible assumption | with_reducible rfl | skip))
    | with_reducible refine Kept.each (fun _ _ _ => ?_) ?_
    | with_reducible refine Kept.foldl2 (fun _ _ _ => ?_) ?_
    | with_reducible refine Kept.foldl (fun _ _ _ => ?_) ?_
    | extract_lets
    | with_reducible refine Kept.slGood (z0 := z0) ?_ ?_
    | with_reducible apply Slice.good_slots
    | with_reducible apply Slice.putBlock_good
    | with_reducible apply Slice.putWord_good
    | with_reducible apply Slice.putPlru_good
    | with_reducible apply Slice.touchWay_good
    | with_reducible apply Slice.mendSlot_good
    | with_reducible apply Slice.mendTS_good
    | with_reducible apply Slice.hitWay_good
    | with_reducible apply Slice.dropMove_good
    | with_reducible apply Slice.outcome_good
    | with_reducible apply Slice.hintFill_good
    | with_reducible apply Slice.predFix_good
    | with_reducible apply Slice.hintSeen_good
    | with_reducible apply Slice.predAdd_good
    | with_reducible apply Slice.closeLow_good
    | with_reducible apply Slice.setLock_good
    | with_reducible apply Slice.flushPlru_good
    | with_reducible refine Slice.shAlloc_good ?_ (by with_reducible assumption)
    | with_reducible refine Slice.ensureShadow_good ?_ (by with_reducible assumption)
    | with_reducible refine Slice.demandLook_good ?_ (by with_reducible assumption)
    | fail_if_no_progress ((with_reducible apply Slice.good_mk) <;> (first | with_reducible assumption | with_reducible rfl | skip))
    | split
    | with_reducible refine Kept.of_snd (by with_reducible assumption) ?_
    | dsimp +zetaDelta only
    | intro)

theorem atomErr_kept {z0 : State} (r : Req) (s : State)
    (hK : Kept z0 s) : Kept z0 (atomErr r s) := by
  unfold atomErr
  repeat' (first
    | with_reducible assumption
    | with_reducible apply State.modHp_kept
    | with_reducible apply complete_kept)

theorem endCs_kept {z0 : State} (r : Req) (st : BitVec 3) (clear : Bool) (s : State)
    (hK : Kept z0 s) : Kept z0 (endCs r st clear s) := by
  unfold endCs
  repeat' (first
    | with_reducible assumption
    | with_reducible apply State.modHp_kept
    | with_reducible apply complete_kept)

theorem nearAtomic_kept {z0 : State} (i : SliceNo) (set w : Nat) (r : Req) (s : State)
    (hK : Kept z0 s) : Kept z0 (nearAtomic i set w r s) := by
  unfold nearAtomic
  repeat' (first
    | with_reducible assumption
    | with_reducible apply State.modSl_kept
    | with_reducible apply completeData_kept
    | with_reducible apply stampCheck_kept
    | with_reducible apply readSlot_kept
    | with_reducible apply writeSlot_kept
    | with_reducible apply demandHit_kept
    | with_reducible refine Kept.ite (fun _ => ?_) (fun _ => ?_)
    | fail_if_no_progress ((with_reducible apply Kept.mk1) <;> (first | with_reducible assumption | with_reducible rfl | skip))
    | with_reducible refine Kept.each (fun _ _ _ => ?_) ?_
    | with_reducible refine Kept.foldl2 (fun _ _ _ => ?_) ?_
    | with_reducible refine Kept.foldl (fun _ _ _ => ?_) ?_
    | extract_lets
    | with_reducible refine Kept.slGood (z0 := z0) ?_ ?_
    | with_reducible apply Slice.good_slots
    | with_reducible apply Slice.putBlock_good
    | with_reducible apply Slice.putWord_good
    | with_reducible apply Slice.putPlru_good
    | with_reducible apply Slice.touchWay_good
    | with_reducible apply Slice.mendSlot_good
    | with_reducible apply Slice.mendTS_good
    | with_reducible apply Slice.hitWay_good
    | with_reducible apply Slice.dropMove_good
    | with_reducible apply Slice.outcome_good
    | with_reducible apply Slice.hintFill_good
    | with_reducible apply Slice.predFix_good
    | with_reducible apply Slice.hintSeen_good
    | with_reducible apply Slice.predAdd_good
    | with_reducible apply Slice.closeLow_good
    | with_reducible apply Slice.setLock_good
    | with_reducible apply Slice.flushPlru_good
    | with_reducible refine Slice.shAlloc_good ?_ (by with_reducible assumption)
    | with_reducible refine Slice.ensureShadow_good ?_ (by with_reducible assumption)
    | with_reducible refine Slice.demandLook_good ?_ (by with_reducible assumption)
    | fail_if_no_progress ((with_reducible apply Slice.good_mk) <;> (first | with_reducible assumption | with_reducible rfl | skip))
    | split
    | with_reducible refine Kept.of_snd (by with_reducible assumption) ?_
    | dsimp +zetaDelta only
    | intro)

theorem storeWay_kept {z0 : State} (i : SliceNo) (set w : Nat) (r : Req) (s : State)
    (hK : Kept z0 s) : Kept z0 (storeWay i set w r s) := by
  unfold storeWay
  repeat' (first
    | with_reducible assumption
    | with_reducible apply State.modSl_kept
    | with_reducible apply writeWay_kept
    | with_reducible apply demandHit_kept
    | with_reducible refine Kept.ite (fun _ => ?_) (fun _ => ?_)
    | fail_if_no_progress ((with_reducible apply Kept.mk1) <;> (first | with_reducible assumption | with_reducible rfl | skip))
    | with_reducible refine Kept.each (fun _ _ _ => ?_) ?_
    | with_reducible refine Kept.foldl2 (fun _ _ _ => ?_) ?_
    | with_reducible refine Kept.foldl (fun _ _ _ => ?_) ?_
    | extract_lets
    | with_reducible refine Kept.slGood (z0 := z0) ?_ ?_
    | with_reducible apply Slice.good_slots
    | with_reducible apply Slice.putBlock_good
    | with_reducible apply Slice.putWord_good
    | with_reducible apply Slice.putPlru_good
    | with_reducible apply Slice.touchWay_good
    | with_reducible apply Slice.mendSlot_good
    | with_reducible apply Slice.mendTS_good
    | with_reducible apply Slice.hitWay_good
    | with_reducible apply Slice.dropMove_good
    | with_reducible apply Slice.outcome_good
    | with_reducible apply Slice.hintFill_good
    | with_reducible apply Slice.predFix_good
    | with_reducible apply Slice.hintSeen_good
    | with_reducible apply Slice.predAdd_good
    | with_reducible apply Slice.closeLow_good
    | with_reducible apply Slice.setLock_good
    | with_reducible apply Slice.flushPlru_good
    | with_reducible refine Slice.shAlloc_good ?_ (by with_reducible assumption)
    | with_reducible refine Slice.ensureShadow_good ?_ (by with_reducible assumption)
    | with_reducible refine Slice.demandLook_good ?_ (by with_reducible assumption)
    | fail_if_no_progress ((with_reducible apply Slice.good_mk) <;> (first | with_reducible assumption | with_reducible rfl | skip))
    | split
    | with_reducible refine Kept.of_snd (by with_reducible assumption) ?_
    | dsimp +zetaDelta only
    | intro)

theorem sharedAfter_kept {z0 : State} (i : SliceNo) (t : TagWord) (r : Req) (snooped : Bool) (k : State → State) (s : State)
    (hk : ∀ x0, Kept z0 x0 → Kept z0 (k x0)) (hK : Kept z0 s) : Kept z0 (sharedAfter i t r snooped k s) := by
  unfold sharedAfter
  repeat' (first
    | with_reducible assumption
    | with_reducible apply hk
    | with_reducible apply snoopFor_kept
    | with_reducible refine Kept.ite (fun _ => ?_) (fun _ => ?_)
    | fail_if_no_progress ((with_reducible apply Kept.mk1) <;> (first | with_reducible assumption | with_reducible rfl | skip))
    | with_reducible refine Kept.each (fun _ _ _ => ?_) ?_
    | with_reducible refine Kept.foldl2 (fun _ _ _ => ?_) ?_
    | with_reducible refine Kept.foldl (fun _ _ _ => ?_) ?_
    | extract_lets
    | with_reducible refine Kept.slGood (z0 := z0) ?_ ?_
    | with_reducible apply Slice.good_slots
    | with_reducible apply Slice.putBlock_good
    | with_reducible apply Slice.putWord_good
    | with_reducible apply Slice.putPlru_good
    | with_reducible apply Slice.touchWay_good
    | with_reducible apply Slice.mendSlot_good
    | with_reducible apply Slice.mendTS_good
    | with_reducible apply Slice.hitWay_good
    | with_reducible apply Slice.dropMove_good
    | with_reducible apply Slice.outcome_good
    | with_reducible apply Slice.hintFill_good
    | with_reducible apply Slice.predFix_good
    | with_reducible apply Slice.hintSeen_good
    | with_reducible apply Slice.predAdd_good
    | with_reducible apply Slice.closeLow_good
    | with_reducible apply Slice.setLock_good
    | with_reducible apply Slice.flushPlru_good
    | with_reducible refine Slice.shAlloc_good ?_ (by with_reducible assumption)
    | with_reducible refine Slice.ensureShadow_good ?_ (by with_reducible assumption)
    | with_reducible refine Slice.demandLook_good ?_ (by with_reducible assumption)
    | fail_if_no_progress ((with_reducible apply Slice.good_mk) <;> (first | with_reducible assumption | with_reducible rfl | skip))
    | split)

theorem hitRead_kept {z0 : State} (i : SliceNo) (set w : Nat) (t : TagWord) (r : Req) (snooped : Bool) (grant : BitVec 2) (addBit : Bool) (s : State)
    (hK : Kept z0 s) : Kept z0 (hitRead i set w t r snooped grant addBit s) := by
  unfold hitRead
  repeat' (first
    | with_reducible assumption
    | with_reducible apply readSlot_kept
    | with_reducible apply giveRead_kept
    | with_reducible apply demandHit_kept
    | with_reducible apply addHp_kept
    | with_reducible apply sharedAfter_kept
    | with_reducible refine Kept.ite (fun _ => ?_) (fun _ => ?_)
    | fail_if_no_progress ((with_reducible apply Kept.mk1) <;> (first | with_reducible assumption | with_reducible rfl | skip))
    | with_reducible refine Kept.each (fun _ _ _ => ?_) ?_
    | with_reducible refine Kept.foldl2 (fun _ _ _ => ?_) ?_
    | with_reducible refine Kept.foldl (fun _ _ _ => ?_) ?_
    | extract_lets
    | with_reducible refine Kept.slGood (z0 := z0) ?_ ?_
    | with_reducible apply Slice.good_slots
    | with_reducible apply Slice.putBlock_good
    | with_reducible apply Slice.putWord_good
    | with_reducible apply Slice.putPlru_good
    | with_reducible apply Slice.touchWay_good
    | with_reducible apply Slice.mendSlot_good
    | with_reducible apply Slice.mendTS_good
    | with_reducible apply Slice.hitWay_good
    | with_reducible apply Slice.dropMove_good
    | with_reducible apply Slice.outcome_good
    | with_reducible apply Slice.hintFill_good
    | with_reducible apply Slice.predFix_good
    | with_reducible apply Slice.hintSeen_good
    | with_reducible apply Slice.predAdd_good
    | with_reducible apply Slice.closeLow_good
    | with_reducible apply Slice.setLock_good
    | with_reducible apply Slice.flushPlru_good
    | with_reducible refine Slice.shAlloc_good ?_ (by with_reducible assumption)
    | with_reducible refine Slice.ensureShadow_good ?_ (by with_reducible assumption)
    | with_reducible refine Slice.demandLook_good ?_ (by with_reducible assumption)
    | fail_if_no_progress ((with_reducible apply Slice.good_mk) <;> (first | with_reducible assumption | with_reducible rfl | skip))
    | split
    | with_reducible refine Kept.of_snd (by with_reducible assumption) ?_
    | dsimp +zetaDelta only
    | intro)

theorem askUpg_kept {z0 : State} (i : SliceNo) (r : Req) (s : State)
    (hK : Kept z0 s) : Kept z0 (askUpg i r s) := by
  unfold askUpg
  repeat' (first
    | with_reducible assumption
    | with_reducible apply requestFor_kept)

theorem hit_kept {z0 : State} (i : SliceNo) (w : Nat) (t : TagWord) (r0 : Req) (snooped : Bool) (s0 : State)
    (hK : Kept z0 s0) : Kept z0 (hit i w t r0 snooped s0) := by
  unfold hit
  repeat' (first
    | with_reducible assumption
    | with_reducible apply complete_kept
    | with_reducible apply readSlot_kept
    | with_reducible apply snoopFor_kept
    | with_reducible apply refund_kept
    | with_reducible apply giveRead_kept
    | with_reducible apply demandHit_kept
    | with_reducible apply addHp_kept
    | with_reducible apply endCs_kept
    | with_reducible apply nearAtomic_kept
    | with_reducible apply storeWay_kept
    | with_reducible apply sharedAfter_kept
    | with_reducible apply hitRead_kept
    | with_reducible apply askUpg_kept
    | with_reducible refine Kept.ite (fun _ => ?_) (fun _ => ?_)
    | fail_if_no_progress ((with_reducible apply Kept.mk1) <;> (first | with_reducible assumption | with_reducible rfl | skip))
    | with_reducible refine Kept.each (fun _ _ _ => ?_) ?_
    | with_reducible refine Kept.foldl2 (fun _ _ _ => ?_) ?_
    | with_reducible refine Kept.foldl (fun _ _ _ => ?_) ?_
    | extract_lets
    | with_reducible refine Kept.slGood (z0 := z0) ?_ ?_
    | with_reducible apply Slice.good_slots
    | with_reducible apply Slice.putBlock_good
    | with_reducible apply Slice.putWord_good
    | with_reducible apply Slice.putPlru_good
    | with_reducible apply Slice.touchWay_good
    | with_reducible apply Slice.mendSlot_good
    | with_reducible apply Slice.mendTS_good
    | with_reducible apply Slice.hitWay_good
    | with_reducible apply Slice.dropMove_good
    | with_reducible apply Slice.outcome_good
    | with_reducible apply Slice.hintFill_good
    | with_reducible apply Slice.predFix_good
    | with_reducible apply Slice.hintSeen_good
    | with_reducible apply Slice.predAdd_good
    | with_reducible apply Slice.closeLow_good
    | with_reducible apply Slice.setLock_good
    | with_reducible apply Slice.flushPlru_good
    | with_reducible refine Slice.shAlloc_good ?_ (by with_reducible assumption)
    | with_reducible refine Slice.ensureShadow_good ?_ (by with_reducible assumption)
    | with_reducible refine Slice.demandLook_good ?_ (by with_reducible assumption)
    | fail_if_no_progress ((with_reducible apply Slice.good_mk) <;> (first | with_reducible assumption | with_reducible rfl | skip))
    | split
    | with_reducible refine Kept.of_snd (by with_reducible assumption) ?_
    | dsimp +zetaDelta only
    | intro)

theorem sendAmoF_kept {z0 : State} (i : SliceNo) (r : Req) (s : State)
    (hK : Kept z0 s) : Kept z0 (sendAmoF i r s) := by
  unfold sendAmoF
  repeat' (first
    | with_reducible assumption
    | with_reducible apply requestFor_kept)

theorem farAtomic_kept {z0 : State} (i : SliceNo) (r : Req) (snooped : Bool) (s : State)
    (hK : Kept z0 s) : Kept z0 (farAtomic i r snooped s) := by
  unfold farAtomic
  repeat' (first
    | with_reducible assumption
    | with_reducible apply snoopFor_kept
    | with_reducible apply dropWay_kept
    | with_reducible apply sendAmoF_kept
    | with_reducible refine Kept.ite (fun _ => ?_) (fun _ => ?_)
    | fail_if_no_progress ((with_reducible apply Kept.mk1) <;> (first | with_reducible assumption | with_reducible rfl | skip))
    | with_reducible refine Kept.each (fun _ _ _ => ?_) ?_
    | with_reducible refine Kept.foldl2 (fun _ _ _ => ?_) ?_
    | with_reducible refine Kept.foldl (fun _ _ _ => ?_) ?_
    | extract_lets
    | with_reducible refine Kept.slGood (z0 := z0) ?_ ?_
    | with_reducible apply Slice.good_slots
    | with_reducible apply Slice.putBlock_good
    | with_reducible apply Slice.putWord_good
    | with_reducible apply Slice.putPlru_good
    | with_reducible apply Slice.touchWay_good
    | with_reducible apply Slice.mendSlot_good
    | with_reducible apply Slice.mendTS_good
    | with_reducible apply Slice.hitWay_good
    | with_reducible apply Slice.dropMove_good
    | with_reducible apply Slice.outcome_good
    | with_reducible apply Slice.hintFill_good
    | with_reducible apply Slice.predFix_good
    | with_reducible apply Slice.hintSeen_good
    | with_reducible apply Slice.predAdd_good
    | with_reducible apply Slice.closeLow_good
    | with_reducible apply Slice.setLock_good
    | with_reducible apply Slice.flushPlru_good
    | with_reducible refine Slice.shAlloc_good ?_ (by with_reducible assumption)
    | with_reducible refine Slice.ensureShadow_good ?_ (by with_reducible assumption)
    | with_reducible refine Slice.demandLook_good ?_ (by with_reducible assumption)
    | fail_if_no_progress ((with_reducible apply Slice.good_mk) <;> (first | with_reducible assumption | with_reducible rfl | skip))
    | split)

theorem chooseNear_kept {z0 : State} (i : SliceNo) (r : Req) (st : LState) (s : State)
    (hK : Kept z0 s) : Kept z0 (chooseNear i r st s).2.2 := by
  unfold chooseNear
  repeat' (first
    | with_reducible assumption
    | with_reducible apply State.setSl_kept
    | with_reducible refine Kept.ite (fun _ => ?_) (fun _ => ?_)
    | fail_if_no_progress ((with_reducible apply Kept.mk1) <;> (first | with_reducible assumption | with_reducible rfl | skip))
    | with_reducible refine Kept.each (fun _ _ _ => ?_) ?_
    | with_reducible refine Kept.foldl2 (fun _ _ _ => ?_) ?_
    | with_reducible refine Kept.foldl (fun _ _ _ => ?_) ?_
    | extract_lets
    | with_reducible refine Kept.slGood (z0 := z0) ?_ ?_
    | with_reducible apply Slice.good_slots
    | with_reducible apply Slice.putBlock_good
    | with_reducible apply Slice.putWord_good
    | with_reducible apply Slice.putPlru_good
    | with_reducible apply Slice.touchWay_good
    | with_reducible apply Slice.mendSlot_good
    | with_reducible apply Slice.mendTS_good
    | with_reducible apply Slice.hitWay_good
    | with_reducible apply Slice.dropMove_good
    | with_reducible apply Slice.outcome_good
    | with_reducible apply Slice.hintFill_good
    | with_reducible apply Slice.predFix_good
    | with_reducible apply Slice.hintSeen_good
    | with_reducible apply Slice.predAdd_good
    | with_reducible apply Slice.closeLow_good
    | with_reducible apply Slice.setLock_good
    | with_reducible apply Slice.flushPlru_good
    | with_reducible refine Slice.shAlloc_good ?_ (by with_reducible assumption)
    | with_reducible refine Slice.ensureShadow_good ?_ (by with_reducible assumption)
    | with_reducible refine Slice.demandLook_good ?_ (by with_reducible assumption)
    | fail_if_no_progress ((with_reducible apply Slice.good_mk) <;> (first | with_reducible assumption | with_reducible rfl | skip))
    | split
    | with_reducible refine Kept.of_snd (by with_reducible assumption) ?_
    | dsimp +zetaDelta only
    | intro)

theorem readU_kept {z0 : State} (i : SliceNo) (r : Req) (s : State)
    (hK : Kept z0 s) : Kept z0 (readU i r s) := by
  unfold readU
  repeat' (first
    | with_reducible assumption
    | with_reducible apply requestFor_kept)

theorem miss_kept {z0 : State} (i : SliceNo) (r : Req) (s : State)
    (hK : Kept z0 s) : Kept z0 (miss i r s) := by
  unfold miss
  repeat' (first
    | with_reducible assumption
    | with_reducible apply missFill_kept
    | with_reducible apply readU_kept
    | with_reducible refine Kept.ite (fun _ => ?_) (fun _ => ?_)
    | fail_if_no_progress ((with_reducible apply Kept.mk1) <;> (first | with_reducible assumption | with_reducible rfl | skip))
    | with_reducible refine Kept.each (fun _ _ _ => ?_) ?_
    | with_reducible refine Kept.foldl2 (fun _ _ _ => ?_) ?_
    | with_reducible refine Kept.foldl (fun _ _ _ => ?_) ?_
    | extract_lets
    | with_reducible refine Kept.slGood (z0 := z0) ?_ ?_
    | with_reducible apply Slice.good_slots
    | with_reducible apply Slice.putBlock_good
    | with_reducible apply Slice.putWord_good
    | with_reducible apply Slice.putPlru_good
    | with_reducible apply Slice.touchWay_good
    | with_reducible apply Slice.mendSlot_good
    | with_reducible apply Slice.mendTS_good
    | with_reducible apply Slice.hitWay_good
    | with_reducible apply Slice.dropMove_good
    | with_reducible apply Slice.outcome_good
    | with_reducible apply Slice.hintFill_good
    | with_reducible apply Slice.predFix_good
    | with_reducible apply Slice.hintSeen_good
    | with_reducible apply Slice.predAdd_good
    | with_reducible apply Slice.closeLow_good
    | with_reducible apply Slice.setLock_good
    | with_reducible apply Slice.flushPlru_good
    | with_reducible refine Slice.shAlloc_good ?_ (by with_reducible assumption)
    | with_reducible refine Slice.ensureShadow_good ?_ (by with_reducible assumption)
    | with_reducible refine Slice.demandLook_good ?_ (by with_reducible assumption)
    | fail_if_no_progress ((with_reducible apply Slice.good_mk) <;> (first | with_reducible assumption | with_reducible rfl | skip))
    | split)

theorem csEnd_kept {z0 t : State} {r : Req} {s : State} {k : State → State} (e : csEnd r s = some k) (hK : Kept z0 t) :
    Kept z0 (k t) := by
  unfold csEnd at e
  dsimp only at e
  split at e
  · cases e; exact endCs_kept _ _ _ _ hK
  · split at e
    · cases e; exact endCs_kept _ _ _ _ hK
    · split at e
      · cases e; exact endCs_kept _ _ _ _ hK
      · cases e

theorem csEnd_kept2 {z0 t : State} {r : Req} {s : State} {k : State → State} {c : Prop} [Decidable c]
    (e : (if c then csEnd r s else none) = some k) (hK : Kept z0 t) : Kept z0 (k t) := by
  split at e
  · exact csEnd_kept e hK
  · cases e

theorem serveHit_kept {z0 : State} (i : SliceNo) (w : Nat) (t : TagWord) (r : Req) (snooped : Bool) (s : State)
    (hK : Kept z0 s) : Kept z0 (serveHit i w t r snooped s) := by
  unfold serveHit
  repeat' (first
    | with_reducible assumption
    | with_reducible apply hit_kept
    | with_reducible apply farAtomic_kept
    | with_reducible apply chooseNear_kept
    | with_reducible refine Kept.ite (fun _ => ?_) (fun _ => ?_))

theorem serveMiss_kept {z0 : State} (i : SliceNo) (r : Req) (snooped : Bool) (s : State)
    (hK : Kept z0 s) : Kept z0 (serveMiss i r snooped s) := by
  unfold serveMiss
  repeat' (first
    | with_reducible assumption
    | with_reducible apply farAtomic_kept
    | with_reducible apply chooseNear_kept
    | with_reducible apply miss_kept
    | with_reducible refine Kept.ite (fun _ => ?_) (fun _ => ?_))

theorem serveRb_kept {z0 : State} (i : SliceNo) (e : RbEnt) (r : Req) (k : Nat → Req → State → State) (s : State)
    (hk : ∀ x0 x1 x2, Kept z0 x2 → Kept z0 (k x0 x1 x2)) (hK : Kept z0 s) : Kept z0 (serveRb i e r k s) := by
  unfold serveRb
  repeat' (first
    | with_reducible assumption
    | with_reducible apply hk
    | with_reducible apply waitIn_kept
    | with_reducible apply giveUpRb_kept
    | with_reducible apply refund_kept
    | with_reducible apply rbStep_kept
    | with_reducible apply rbCarry_kept
    | with_reducible apply giveRead_kept
    | with_reducible apply serveMiss_kept
    | with_reducible refine Kept.ite (fun _ => ?_) (fun _ => ?_)
    | fail_if_no_progress ((with_reducible apply Kept.mk1) <;> (first | with_reducible assumption | with_reducible rfl | skip))
    | with_reducible refine Kept.each (fun _ _ _ => ?_) ?_
    | with_reducible refine Kept.foldl2 (fun _ _ _ => ?_) ?_
    | with_reducible refine Kept.foldl (fun _ _ _ => ?_) ?_
    | extract_lets
    | with_reducible refine Kept.slGood (z0 := z0) ?_ ?_
    | with_reducible apply Slice.good_slots
    | with_reducible apply Slice.putBlock_good
    | with_reducible apply Slice.putWord_good
    | with_reducible apply Slice.putPlru_good
    | with_reducible apply Slice.touchWay_good
    | with_reducible apply Slice.mendSlot_good
    | with_reducible apply Slice.mendTS_good
    | with_reducible apply Slice.hitWay_good
    | with_reducible apply Slice.dropMove_good
    | with_reducible apply Slice.outcome_good
    | with_reducible apply Slice.hintFill_good
    | with_reducible apply Slice.predFix_good
    | with_reducible apply Slice.hintSeen_good
    | with_reducible apply Slice.predAdd_good
    | with_reducible apply Slice.closeLow_good
    | with_reducible apply Slice.setLock_good
    | with_reducible apply Slice.flushPlru_good
    | with_reducible refine Slice.shAlloc_good ?_ (by with_reducible assumption)
    | with_reducible refine Slice.ensureShadow_good ?_ (by with_reducible assumption)
    | with_reducible refine Slice.demandLook_good ?_ (by with_reducible assumption)
    | fail_if_no_progress ((with_reducible apply Slice.good_mk) <;> (first | with_reducible assumption | with_reducible rfl | skip))
    | split)

theorem lookupServe_kept {z0 : State} (i : SliceNo) (r : Req) (snooped : Bool) (s : State)
    (hK : Kept z0 s) : Kept z0 (lookupServe i r snooped s) := by
  unfold lookupServe
  repeat' (first
    | with_reducible assumption
    | with_reducible apply waitIn_kept
    | with_reducible apply serveHit_kept
    | with_reducible apply serveMiss_kept
    | with_reducible apply serveRb_kept
    | with_reducible refine Kept.ite (fun _ => ?_) (fun _ => ?_)
    | fail_if_no_progress ((with_reducible apply Kept.mk1) <;> (first | with_reducible assumption | with_reducible rfl | skip))
    | with_reducible refine Kept.each (fun _ _ _ => ?_) ?_
    | with_reducible refine Kept.foldl2 (fun _ _ _ => ?_) ?_
    | with_reducible refine Kept.foldl (fun _ _ _ => ?_) ?_
    | extract_lets
    | with_reducible refine Kept.slGood (z0 := z0) ?_ ?_
    | with_reducible apply Slice.good_slots
    | with_reducible apply Slice.putBlock_good
    | with_reducible apply Slice.putWord_good
    | with_reducible apply Slice.putPlru_good
    | with_reducible apply Slice.touchWay_good
    | with_reducible apply Slice.mendSlot_good
    | with_reducible apply Slice.mendTS_good
    | with_reducible apply Slice.hitWay_good
    | with_reducible apply Slice.dropMove_good
    | with_reducible apply Slice.outcome_good
    | with_reducible apply Slice.hintFill_good
    | with_reducible apply Slice.predFix_good
    | with_reducible apply Slice.hintSeen_good
    | with_reducible apply Slice.predAdd_good
    | with_reducible apply Slice.closeLow_good
    | with_reducible apply Slice.setLock_good
    | with_reducible apply Slice.flushPlru_good
    | with_reducible refine Slice.shAlloc_good ?_ (by with_reducible assumption)
    | with_reducible refine Slice.ensureShadow_good ?_ (by with_reducible assumption)
    | with_reducible refine Slice.demandLook_good ?_ (by with_reducible assumption)
    | fail_if_no_progress ((with_reducible apply Slice.good_mk) <;> (first | with_reducible assumption | with_reducible rfl | skip))
    | split
    | with_reducible refine Kept.of_snd (by with_reducible assumption) ?_
    | dsimp +zetaDelta only
    | intro)

theorem storeBuffered_kept {z0 : State} (i : SliceNo) (r : Req) (s : State)
    (hK : Kept z0 s) : Kept z0 (storeBuffered i r s) := by
  unfold storeBuffered
  repeat' (first
    | with_reducible assumption
    | with_reducible apply wmbStore_kept
    | with_reducible apply serveRb_kept
    | with_reducible refine Kept.ite (fun _ => ?_) (fun _ => ?_)
    | fail_if_no_progress ((with_reducible apply Kept.mk1) <;> (first | with_reducible assumption | with_reducible rfl | skip))
    | with_reducible refine Kept.each (fun _ _ _ => ?_) ?_
    | with_reducible refine Kept.foldl2 (fun _ _ _ => ?_) ?_
    | with_reducible refine Kept.foldl (fun _ _ _ => ?_) ?_
    | extract_lets
    | with_reducible refine Kept.slGood (z0 := z0) ?_ ?_
    | with_reducible apply Slice.good_slots
    | with_reducible apply Slice.putBlock_good
    | with_reducible apply Slice.putWord_good
    | with_reducible apply Slice.putPlru_good
    | with_reducible apply Slice.touchWay_good
    | with_reducible apply Slice.mendSlot_good
    | with_reducible apply Slice.mendTS_good
    | with_reducible apply Slice.hitWay_good
    | with_reducible apply Slice.dropMove_good
    | with_reducible apply Slice.outcome_good
    | with_reducible apply Slice.hintFill_good
    | with_reducible apply Slice.predFix_good
    | with_reducible apply Slice.hintSeen_good
    | with_reducible apply Slice.predAdd_good
    | with_reducible apply Slice.closeLow_good
    | with_reducible apply Slice.setLock_good
    | with_reducible apply Slice.flushPlru_good
    | with_reducible refine Slice.shAlloc_good ?_ (by with_reducible assumption)
    | with_reducible refine Slice.ensureShadow_good ?_ (by with_reducible assumption)
    | with_reducible refine Slice.demandLook_good ?_ (by with_reducible assumption)
    | fail_if_no_progress ((with_reducible apply Slice.good_mk) <;> (first | with_reducible assumption | with_reducible rfl | skip))
    | split
    | with_reducible refine Kept.of_snd (by with_reducible assumption) ?_
    | dsimp +zetaDelta only
    | intro)

theorem demandOnce_kept {z0 : State} (i : SliceNo) (r : Req) (snooped : Bool) (s : State)
    (hK : Kept z0 s) : Kept z0 (demandOnce i r snooped s).2 := by
  unfold demandOnce
  repeat' (first
    | with_reducible assumption
    | with_reducible apply State.setSl_kept
    | with_reducible apply completeStop_kept
    | with_reducible apply tsRow_kept
    | with_reducible apply readTags_kept
    | with_reducible apply waitIn_kept
    | with_reducible refine Kept.ite (fun _ => ?_) (fun _ => ?_)
    | fail_if_no_progress ((with_reducible apply Kept.mk1) <;> (first | with_reducible assumption | with_reducible rfl | skip))
    | with_reducible refine Kept.each (fun _ _ _ => ?_) ?_
    | with_reducible refine Kept.foldl2 (fun _ _ _ => ?_) ?_
    | with_reducible refine Kept.foldl (fun _ _ _ => ?_) ?_
    | extract_lets
    | with_reducible refine Kept.slGood (z0 := z0) ?_ ?_
    | with_reducible apply Slice.good_slots
    | with_reducible apply Slice.putBlock_good
    | with_reducible apply Slice.putWord_good
    | with_reducible apply Slice.putPlru_good
    | with_reducible apply Slice.touchWay_good
    | with_reducible apply Slice.mendSlot_good
    | with_reducible apply Slice.mendTS_good
    | with_reducible apply Slice.hitWay_good
    | with_reducible apply Slice.dropMove_good
    | with_reducible apply Slice.outcome_good
    | with_reducible apply Slice.hintFill_good
    | with_reducible apply Slice.predFix_good
    | with_reducible apply Slice.hintSeen_good
    | with_reducible apply Slice.predAdd_good
    | with_reducible apply Slice.closeLow_good
    | with_reducible apply Slice.setLock_good
    | with_reducible apply Slice.flushPlru_good
    | with_reducible refine Slice.shAlloc_good ?_ (by with_reducible assumption)
    | with_reducible refine Slice.ensureShadow_good ?_ (by with_reducible assumption)
    | with_reducible refine Slice.demandLook_good ?_ (by with_reducible assumption)
    | fail_if_no_progress ((with_reducible apply Slice.good_mk) <;> (first | with_reducible assumption | with_reducible rfl | skip))
    | split
    | with_reducible refine Kept.of_snd (by with_reducible assumption) ?_
    | dsimp +zetaDelta only
    | intro)

theorem serveLine_kept {z0 : State} (i : SliceNo) (r : Req) (snooped : Bool) (s : State)
    (hK : Kept z0 s) : Kept z0 (serveLine i r snooped s) := by
  unfold serveLine
  repeat' (first
    | with_reducible assumption
    | with_reducible apply modTxn_kept
    | with_reducible apply waitIn_kept
    | with_reducible apply farAtomic_kept
    | with_reducible apply readU_kept
    | with_reducible apply lookupServe_kept
    | with_reducible apply storeBuffered_kept
    | with_reducible refine Kept.ite (fun _ => ?_) (fun _ => ?_)
    | fail_if_no_progress ((with_reducible apply Kept.mk1) <;> (first | with_reducible assumption | with_reducible rfl | skip))
    | with_reducible refine Kept.each (fun _ _ _ => ?_) ?_
    | with_reducible refine Kept.foldl2 (fun _ _ _ => ?_) ?_
    | with_reducible refine Kept.foldl (fun _ _ _ => ?_) ?_
    | extract_lets
    | with_reducible refine Kept.slGood (z0 := z0) ?_ ?_
    | with_reducible apply Slice.good_slots
    | with_reducible apply Slice.putBlock_good
    | with_reducible apply Slice.putWord_good
    | with_reducible apply Slice.putPlru_good
    | with_reducible apply Slice.touchWay_good
    | with_reducible apply Slice.mendSlot_good
    | with_reducible apply Slice.mendTS_good
    | with_reducible apply Slice.hitWay_good
    | with_reducible apply Slice.dropMove_good
    | with_reducible apply Slice.outcome_good
    | with_reducible apply Slice.hintFill_good
    | with_reducible apply Slice.predFix_good
    | with_reducible apply Slice.hintSeen_good
    | with_reducible apply Slice.predAdd_good
    | with_reducible apply Slice.closeLow_good
    | with_reducible apply Slice.setLock_good
    | with_reducible apply Slice.flushPlru_good
    | with_reducible refine Slice.shAlloc_good ?_ (by with_reducible assumption)
    | with_reducible refine Slice.ensureShadow_good ?_ (by with_reducible assumption)
    | with_reducible refine Slice.demandLook_good ?_ (by with_reducible assumption)
    | fail_if_no_progress ((with_reducible apply Slice.good_mk) <;> (first | with_reducible assumption | with_reducible rfl | skip))
    | split)

theorem access_kept {z0 : State} (r : Req) (snooped : Bool) (s : State)
    (hK : Kept z0 s) : Kept z0 (access r snooped s) := by
  unfold access
  repeat' (first
    | with_reducible assumption
    | refine csEnd_kept2 (by with_reducible assumption) ?_
    | with_reducible apply evAddrErr_kept
    | with_reducible apply complete_kept
    | with_reducible apply completeErr_kept
    | with_reducible apply completeStop_kept
    | with_reducible apply waitIn_kept
    | with_reducible apply prefetch_kept
    | with_reducible apply ntcStore_kept
    | with_reducible apply atomErr_kept
    | with_reducible apply demandOnce_kept
    | with_reducible apply serveLine_kept
    | with_reducible refine Kept.ite (fun _ => ?_) (fun _ => ?_)
    | fail_if_no_progress ((with_reducible apply Kept.mk1) <;> (first | with_reducible assumption | with_reducible rfl | skip))
    | with_reducible refine Kept.each (fun _ _ _ => ?_) ?_
    | with_reducible refine Kept.foldl2 (fun _ _ _ => ?_) ?_
    | with_reducible refine Kept.foldl (fun _ _ _ => ?_) ?_
    | extract_lets
    | with_reducible refine Kept.slGood (z0 := z0) ?_ ?_
    | with_reducible apply Slice.good_slots
    | with_reducible apply Slice.putBlock_good
    | with_reducible apply Slice.putWord_good
    | with_reducible apply Slice.putPlru_good
    | with_reducible apply Slice.touchWay_good
    | with_reducible apply Slice.mendSlot_good
    | with_reducible apply Slice.mendTS_good
    | with_reducible apply Slice.hitWay_good
    | with_reducible apply Slice.dropMove_good
    | with_reducible apply Slice.outcome_good
    | with_reducible apply Slice.hintFill_good
    | with_reducible apply Slice.predFix_good
    | with_reducible apply Slice.hintSeen_good
    | with_reducible apply Slice.predAdd_good
    | with_reducible apply Slice.closeLow_good
    | with_reducible apply Slice.setLock_good
    | with_reducible apply Slice.flushPlru_good
    | with_reducible refine Slice.shAlloc_good ?_ (by with_reducible assumption)
    | with_reducible refine Slice.ensureShadow_good ?_ (by with_reducible assumption)
    | with_reducible refine Slice.demandLook_good ?_ (by with_reducible assumption)
    | fail_if_no_progress ((with_reducible apply Slice.good_mk) <;> (first | with_reducible assumption | with_reducible rfl | skip))
    | split)

theorem stampFar_kept {z0 : State} (i : SliceNo) (r : Req) (snooped : Bool) (s : State)
    (hK : Kept z0 s) : Kept z0 (stampFar i r snooped s) := by
  unfold stampFar
  repeat' (first
    | with_reducible assumption
    | with_reducible apply waitIn_kept
    | with_reducible apply giveUpRb_kept
    | with_reducible apply farAtomic_kept
    | with_reducible apply serveRb_kept
    | with_reducible refine Kept.ite (fun _ => ?_) (fun _ => ?_)
    | fail_if_no_progress ((with_reducible apply Kept.mk1) <;> (first | with_reducible assumption | with_reducible rfl | skip))
    | with_reducible refine Kept.each (fun _ _ _ => ?_) ?_
    | with_reducible refine Kept.foldl2 (fun _ _ _ => ?_) ?_
    | with_reducible refine Kept.foldl (fun _ _ _ => ?_) ?_
    | extract_lets
    | with_reducible refine Kept.slGood (z0 := z0) ?_ ?_
    | with_reducible apply Slice.good_slots
    | with_reducible apply Slice.putBlock_good
    | with_reducible apply Slice.putWord_good
    | with_reducible apply Slice.putPlru_good
    | with_reducible apply Slice.touchWay_good
    | with_reducible apply Slice.mendSlot_good
    | with_reducible apply Slice.mendTS_good
    | with_reducible apply Slice.hitWay_good
    | with_reducible apply Slice.dropMove_good
    | with_reducible apply Slice.outcome_good
    | with_reducible apply Slice.hintFill_good
    | with_reducible apply Slice.predFix_good
    | with_reducible apply Slice.hintSeen_good
    | with_reducible apply Slice.predAdd_good
    | with_reducible apply Slice.closeLow_good
    | with_reducible apply Slice.setLock_good
    | with_reducible apply Slice.flushPlru_good
    | with_reducible refine Slice.shAlloc_good ?_ (by with_reducible assumption)
    | with_reducible refine Slice.ensureShadow_good ?_ (by with_reducible assumption)
    | with_reducible refine Slice.demandLook_good ?_ (by with_reducible assumption)
    | fail_if_no_progress ((with_reducible apply Slice.good_mk) <;> (first | with_reducible assumption | with_reducible rfl | skip))
    | split
    | with_reducible refine Kept.of_snd (by with_reducible assumption) ?_
    | dsimp +zetaDelta only
    | intro)

theorem stampSend_kept {z0 : State} (i : SliceNo) (r : Req) (snooped : Bool) (s : State)
    (hK : Kept z0 s) : Kept z0 (stampSend i r snooped s) := by
  unfold stampSend
  repeat' (first
    | with_reducible assumption
    | with_reducible apply waitIn_kept
    | with_reducible apply requestFor_kept
    | with_reducible apply storeBuffered_kept
    | with_reducible apply stampFar_kept
    | with_reducible refine Kept.ite (fun _ => ?_) (fun _ => ?_))

theorem stampAccess_kept {z0 : State} (r : Req) (snooped : Bool) (s : State)
    (hK : Kept z0 s) : Kept z0 (stampAccess r snooped s) := by
  unfold stampAccess
  repeat' (first
    | with_reducible assumption
    | refine csEnd_kept2 (by with_reducible assumption) ?_
    | with_reducible apply evAddrErr_kept
    | with_reducible apply complete_kept
    | with_reducible apply completeErr_kept
    | with_reducible apply completeStop_kept
    | with_reducible apply waitIn_kept
    | with_reducible apply prefetchTry_kept
    | with_reducible apply ntcStore_kept
    | with_reducible apply atomErr_kept
    | with_reducible apply endCs_kept
    | with_reducible apply demandOnce_kept
    | with_reducible apply stampSend_kept
    | with_reducible refine Kept.ite (fun _ => ?_) (fun _ => ?_)
    | fail_if_no_progress ((with_reducible apply Kept.mk1) <;> (first | with_reducible assumption | with_reducible rfl | skip))
    | with_reducible refine Kept.each (fun _ _ _ => ?_) ?_
    | with_reducible refine Kept.foldl2 (fun _ _ _ => ?_) ?_
    | with_reducible refine Kept.foldl (fun _ _ _ => ?_) ?_
    | extract_lets
    | with_reducible refine Kept.slGood (z0 := z0) ?_ ?_
    | with_reducible apply Slice.good_slots
    | with_reducible apply Slice.putBlock_good
    | with_reducible apply Slice.putWord_good
    | with_reducible apply Slice.putPlru_good
    | with_reducible apply Slice.touchWay_good
    | with_reducible apply Slice.mendSlot_good
    | with_reducible apply Slice.mendTS_good
    | with_reducible apply Slice.hitWay_good
    | with_reducible apply Slice.dropMove_good
    | with_reducible apply Slice.outcome_good
    | with_reducible apply Slice.hintFill_good
    | with_reducible apply Slice.predFix_good
    | with_reducible apply Slice.hintSeen_good
    | with_reducible apply Slice.predAdd_good
    | with_reducible apply Slice.closeLow_good
    | with_reducible apply Slice.setLock_good
    | with_reducible apply Slice.flushPlru_good
    | with_reducible refine Slice.shAlloc_good ?_ (by with_reducible assumption)
    | with_reducible refine Slice.ensureShadow_good ?_ (by with_reducible assumption)
    | with_reducible refine Slice.demandLook_good ?_ (by with_reducible assumption)
    | fail_if_no_progress ((with_reducible apply Slice.good_mk) <;> (first | with_reducible assumption | with_reducible rfl | skip))
    | split)

theorem sendAck_kept {z0 : State} (i : SliceNo) (t : STxn) (home : NodeId) (htid : BitVec 12) (fwdr : Bool) (s : State)
    (hK : Kept z0 s) : Kept z0 (sendAck i t home htid fwdr s) := by
  unfold sendAck
  repeat' (first
    | with_reducible assumption
    | with_reducible apply sendMsg_kept)

theorem performOn_kept {z0 : State} (r : Req) (d : Line) (poison : Bool) (st : LState) (s : State)
    (hK : Kept z0 s) : Kept z0 (performOn r d poison st s).2.2.2 := by
  unfold performOn
  repeat' (first
    | with_reducible assumption
    | refine csEnd_kept (by with_reducible assumption) ?_
    | with_reducible apply State.modSl_kept
    | with_reducible apply complete_kept
    | with_reducible apply completeData_kept
    | with_reducible apply stampCheck_kept
    | with_reducible apply giveRead_kept
    | with_reducible apply endCs_kept
    | with_reducible refine Kept.ite (fun _ => ?_) (fun _ => ?_)
    | fail_if_no_progress ((with_reducible apply Kept.mk1) <;> (first | with_reducible assumption | with_reducible rfl | skip))
    | with_reducible refine Kept.each (fun _ _ _ => ?_) ?_
    | with_reducible refine Kept.foldl2 (fun _ _ _ => ?_) ?_
    | with_reducible refine Kept.foldl (fun _ _ _ => ?_) ?_
    | extract_lets
    | with_reducible refine Kept.slGood (z0 := z0) ?_ ?_
    | with_reducible apply Slice.good_slots
    | with_reducible apply Slice.putBlock_good
    | with_reducible apply Slice.putWord_good
    | with_reducible apply Slice.putPlru_good
    | with_reducible apply Slice.touchWay_good
    | with_reducible apply Slice.mendSlot_good
    | with_reducible apply Slice.mendTS_good
    | with_reducible apply Slice.hitWay_good
    | with_reducible apply Slice.dropMove_good
    | with_reducible apply Slice.outcome_good
    | with_reducible apply Slice.hintFill_good
    | with_reducible apply Slice.predFix_good
    | with_reducible apply Slice.hintSeen_good
    | with_reducible apply Slice.predAdd_good
    | with_reducible apply Slice.closeLow_good
    | with_reducible apply Slice.setLock_good
    | with_reducible apply Slice.flushPlru_good
    | with_reducible refine Slice.shAlloc_good ?_ (by with_reducible assumption)
    | with_reducible refine Slice.ensureShadow_good ?_ (by with_reducible assumption)
    | with_reducible refine Slice.demandLook_good ?_ (by with_reducible assumption)
    | fail_if_no_progress ((with_reducible apply Slice.good_mk) <;> (first | with_reducible assumption | with_reducible rfl | skip))
    | split
    | with_reducible refine Kept.of_snd (by with_reducible assumption) ?_
    | dsimp +zetaDelta only
    | intro)

theorem performed_kept {z0 : State} (i : SliceNo) (t : STxn) (hp : BitVec 4) (s : State)
    (hK : Kept z0 s) : Kept z0 (performed i t hp s) := by
  unfold performed
  repeat' (first
    | with_reducible assumption
    | with_reducible apply modTxn_kept
    | with_reducible apply sendAck_kept)

theorem performWay_kept {z0 : State} (i : SliceNo) (t : STxn) (r : Req) (w : Nat) (tw : TagWord) (snooped : Bool) (s : State)
    (hK : Kept z0 s) : Kept z0 (performWay i t r w tw snooped s) := by
  unfold performWay
  repeat' (first
    | with_reducible assumption
    | with_reducible apply State.modSl_kept
    | with_reducible apply readSlot_kept
    | with_reducible apply writeSlot_kept
    | with_reducible apply snoopFor_kept
    | with_reducible apply performOn_kept
    | with_reducible apply performed_kept
    | with_reducible refine Kept.ite (fun _ => ?_) (fun _ => ?_)
    | fail_if_no_progress ((with_reducible apply Kept.mk1) <;> (first | with_reducible assumption | with_reducible rfl | skip))
    | with_reducible refine Kept.each (fun _ _ _ => ?_) ?_
    | with_reducible refine Kept.foldl2 (fun _ _ _ => ?_) ?_
    | with_reducible refine Kept.foldl (fun _ _ _ => ?_) ?_
    | extract_lets
    | with_reducible refine Kept.slGood (z0 := z0) ?_ ?_
    | with_reducible apply Slice.good_slots
    | with_reducible apply Slice.putBlock_good
    | with_reducible apply Slice.putWord_good
    | with_reducible apply Slice.putPlru_good
    | with_reducible apply Slice.touchWay_good
    | with_reducible apply Slice.mendSlot_good
    | with_reducible apply Slice.mendTS_good
    | with_reducible apply Slice.hitWay_good
    | with_reducible apply Slice.dropMove_good
    | with_reducible apply Slice.outcome_good
    | with_reducible apply Slice.hintFill_good
    | with_reducible apply Slice.predFix_good
    | with_reducible apply Slice.hintSeen_good
    | with_reducible apply Slice.predAdd_good
    | with_reducible apply Slice.closeLow_good
    | with_reducible apply Slice.setLock_good
    | with_reducible apply Slice.flushPlru_good
    | with_reducible refine Slice.shAlloc_good ?_ (by with_reducible assumption)
    | with_reducible refine Slice.ensureShadow_good ?_ (by with_reducible assumption)
    | with_reducible refine Slice.demandLook_good ?_ (by with_reducible assumption)
    | fail_if_no_progress ((with_reducible apply Slice.good_mk) <;> (first | with_reducible assumption | with_reducible rfl | skip))
    | split
    | with_reducible refine Kept.of_snd (by with_reducible assumption) ?_
    | dsimp +zetaDelta only
    | intro)

theorem performOther_kept {z0 : State} (i : SliceNo) (t u : STxn) (r : Req) (s : State)
    (hK : Kept z0 s) : Kept z0 (performOther i t u r s) := by
  unfold performOther
  repeat' (first
    | with_reducible assumption
    | with_reducible apply modTxn_kept
    | with_reducible apply performOn_kept
    | with_reducible apply performed_kept)

theorem performEntry_kept {z0 : State} (i : SliceNo) (t : STxn) (r : Req) (s : State)
    (hK : Kept z0 s) : Kept z0 (performEntry i t r s) := by
  unfold performEntry
  repeat' (first
    | with_reducible assumption
    | with_reducible apply modTxn_kept
    | with_reducible apply performOn_kept
    | with_reducible apply performed_kept)

theorem stampPerform_kept {z0 : State} (i : SliceNo) (rtid : BitVec 12) (snooped : Bool) (s : State)
    (hK : Kept z0 s) : Kept z0 (stampPerform i rtid snooped s) := by
  unfold stampPerform
  repeat' (first
    | with_reducible assumption
    | with_reducible apply State.modSl_kept
    | with_reducible apply closeTxn_kept
    | with_reducible apply dropRb_kept
    | with_reducible apply performWay_kept
    | with_reducible apply performOther_kept
    | with_reducible apply performEntry_kept
    | with_reducible refine Kept.ite (fun _ => ?_) (fun _ => ?_)
    | fail_if_no_progress ((with_reducible apply Kept.mk1) <;> (first | with_reducible assumption | with_reducible rfl | skip))
    | with_reducible refine Kept.each (fun _ _ _ => ?_) ?_
    | with_reducible refine Kept.foldl2 (fun _ _ _ => ?_) ?_
    | with_reducible refine Kept.foldl (fun _ _ _ => ?_) ?_
    | extract_lets
    | with_reducible refine Kept.slGood (z0 := z0) ?_ ?_
    | with_reducible apply Slice.good_slots
    | with_reducible apply Slice.putBlock_good
    | with_reducible apply Slice.putWord_good
    | with_reducible apply Slice.putPlru_good
    | with_reducible apply Slice.touchWay_good
    | with_reducible apply Slice.mendSlot_good
    | with_reducible apply Slice.mendTS_good
    | with_reducible apply Slice.hitWay_good
    | with_reducible apply Slice.dropMove_good
    | with_reducible apply Slice.outcome_good
    | with_reducible apply Slice.hintFill_good
    | with_reducible apply Slice.predFix_good
    | with_reducible apply Slice.hintSeen_good
    | with_reducible apply Slice.predAdd_good
    | with_reducible apply Slice.closeLow_good
    | with_reducible apply Slice.setLock_good
    | with_reducible apply Slice.flushPlru_good
    | with_reducible refine Slice.shAlloc_good ?_ (by with_reducible assumption)
    | with_reducible refine Slice.ensureShadow_good ?_ (by with_reducible assumption)
    | with_reducible refine Slice.demandLook_good ?_ (by with_reducible assumption)
    | fail_if_no_progress ((with_reducible apply Slice.good_mk) <;> (first | with_reducible assumption | with_reducible rfl | skip))
    | split
    | with_reducible refine Kept.of_snd (by with_reducible assumption) ?_
    | dsimp +zetaDelta only
    | intro)

theorem stampGrant_kept {z0 : State} (i : SliceNo) (t : STxn) (htid : BitVec 12) (s : State)
    (hK : Kept z0 s) : Kept z0 (stampGrant i t htid s) := by
  unfold stampGrant
  repeat' (first
    | with_reducible assumption
    | with_reducible apply modTxn_kept
    | with_reducible apply stampPerform_kept
    | with_reducible refine Kept.ite (fun _ => ?_) (fun _ => ?_))

theorem placeApplied_kept {z0 : State} (i : SliceNo) (t : STxn) (w : Nat) (s : State)
    (hK : Kept z0 s) : Kept z0 (placeApplied i t w s) := by
  unfold placeApplied
  repeat' (first
    | with_reducible assumption
    | with_reducible apply State.modSl_kept
    | with_reducible apply rowOpen_kept
    | with_reducible apply readSlot_kept
    | with_reducible apply writeSlot_kept
    | with_reducible apply closeTxn_kept
    | with_reducible refine Kept.ite (fun _ => ?_) (fun _ => ?_)
    | fail_if_no_progress ((with_reducible apply Kept.mk1) <;> (first | with_reducible assumption | with_reducible rfl | skip))
    | with_reducible refine Kept.each (fun _ _ _ => ?_) ?_
    | with_reducible refine Kept.foldl2 (fun _ _ _ => ?_) ?_
    | with_reducible refine Kept.foldl (fun _ _ _ => ?_) ?_
    | extract_lets
    | with_reducible refine Kept.slGood (z0 := z0) ?_ ?_
    | with_reducible apply Slice.good_slots
    | with_reducible apply Slice.putBlock_good
    | with_reducible apply Slice.putWord_good
    | with_reducible apply Slice.putPlru_good
    | with_reducible apply Slice.touchWay_good
    | with_reducible apply Slice.mendSlot_good
    | with_reducible apply Slice.mendTS_good
    | with_reducible apply Slice.hitWay_good
    | with_reducible apply Slice.dropMove_good
    | with_reducible apply Slice.outcome_good
    | with_reducible apply Slice.hintFill_good
    | with_reducible apply Slice.predFix_good
    | with_reducible apply Slice.hintSeen_good
    | with_reducible apply Slice.predAdd_good
    | with_reducible apply Slice.closeLow_good
    | with_reducible apply Slice.setLock_good
    | with_reducible apply Slice.flushPlru_good
    | with_reducible refine Slice.shAlloc_good ?_ (by with_reducible assumption)
    | with_reducible refine Slice.ensureShadow_good ?_ (by with_reducible assumption)
    | with_reducible refine Slice.demandLook_good ?_ (by with_reducible assumption)
    | fail_if_no_progress ((with_reducible apply Slice.good_mk) <;> (first | with_reducible assumption | with_reducible rfl | skip))
    | split
    | with_reducible refine Kept.of_snd (by with_reducible assumption) ?_
    | dsimp +zetaDelta only
    | intro)

theorem applyOne_kept {z0 : State} (i : SliceNo) (t : STxn) (s : State)
    (hK : Kept z0 s) : Kept z0 (applyOne i t s) := by
  unfold applyOne
  repeat' (first
    | with_reducible assumption
    | with_reducible apply snoopFor_kept
    | with_reducible apply evictWay_kept
    | with_reducible apply closeTxn_kept
    | with_reducible apply placeApplied_kept
    | with_reducible refine Kept.ite (fun _ => ?_) (fun _ => ?_)
    | fail_if_no_progress ((with_reducible apply Kept.mk1) <;> (first | with_reducible assumption | with_reducible rfl | skip))
    | with_reducible refine Kept.each (fun _ _ _ => ?_) ?_
    | with_reducible refine Kept.foldl2 (fun _ _ _ => ?_) ?_
    | with_reducible refine Kept.foldl (fun _ _ _ => ?_) ?_
    | extract_lets
    | with_reducible refine Kept.slGood (z0 := z0) ?_ ?_
    | with_reducible apply Slice.good_slots
    | with_reducible apply Slice.putBlock_good
    | with_reducible apply Slice.putWord_good
    | with_reducible apply Slice.putPlru_good
    | with_reducible apply Slice.touchWay_good
    | with_reducible apply Slice.mendSlot_good
    | with_reducible apply Slice.mendTS_good
    | with_reducible apply Slice.hitWay_good
    | with_reducible apply Slice.dropMove_good
    | with_reducible apply Slice.outcome_good
    | with_reducible apply Slice.hintFill_good
    | with_reducible apply Slice.predFix_good
    | with_reducible apply Slice.hintSeen_good
    | with_reducible apply Slice.predAdd_good
    | with_reducible apply Slice.closeLow_good
    | with_reducible apply Slice.setLock_good
    | with_reducible apply Slice.flushPlru_good
    | with_reducible refine Slice.shAlloc_good ?_ (by with_reducible assumption)
    | with_reducible refine Slice.ensureShadow_good ?_ (by with_reducible assumption)
    | with_reducible refine Slice.demandLook_good ?_ (by with_reducible assumption)
    | fail_if_no_progress ((with_reducible apply Slice.good_mk) <;> (first | with_reducible assumption | with_reducible rfl | skip))
    | split)

theorem applyDue_kept {z0 : State} (i : SliceNo) (s : State)
    (hK : Kept z0 s) : Kept z0 (applyDue i s) := by
  unfold applyDue
  repeat' (first
    | with_reducible assumption
    | with_reducible apply stampPerform_kept
    | with_reducible apply applyOne_kept
    | with_reducible refine Kept.ite (fun _ => ?_) (fun _ => ?_)
    | fail_if_no_progress ((with_reducible apply Kept.mk1) <;> (first | with_reducible assumption | with_reducible rfl | skip))
    | with_reducible refine Kept.each (fun _ _ _ => ?_) ?_)

theorem dataToQ_kept {z0 : State} (i : SliceNo) (k : BKind) (m : BMsg) (fwdr poison : Bool) (osn : BitVec 12) (d : Line) (s : State)
    (hK : Kept z0 s) : Kept z0 (dataToQ i k m fwdr poison osn d s) := by
  unfold dataToQ
  repeat' (first
    | with_reducible assumption
    | with_reducible apply sendMsg_kept)

theorem dataToH_kept {z0 : State} (i : SliceNo) (k : BKind) (m : BMsg) (poison : Bool) (osn : BitVec 12) (d : Line) (s : State)
    (hK : Kept z0 s) : Kept z0 (dataToH i k m poison osn d s) := by
  unfold dataToH
  repeat' (first
    | with_reducible assumption
    | with_reducible apply sendMsg_kept)

theorem invAckTo_kept {z0 : State} (i : SliceNo) (k : BKind) (m : BMsg) (s : State)
    (hK : Kept z0 s) : Kept z0 (invAckTo i k m s) := by
  unfold invAckTo
  repeat' (first
    | with_reducible assumption
    | with_reducible apply State.emit_kept
    | with_reducible apply sendMsg_kept
    | with_reducible refine Kept.ite (fun _ => ?_) (fun _ => ?_))

theorem protoErr_kept {z0 : State} (k : BKind) (m : BMsg) (s : State)
    (hK : Kept z0 s) : Kept z0 (protoErr k m s) := by
  unfold protoErr
  repeat' (first
    | with_reducible assumption
    | with_reducible apply evProto_kept
    | with_reducible apply recLine_kept)

theorem cannotArise_kept {z0 : State} (i : SliceNo) (k : BKind) (m : BMsg) (s : State)
    (hK : Kept z0 s) : Kept z0 (cannotArise i k m s) := by
  unfold cannotArise
  repeat' (first
    | with_reducible assumption
    | with_reducible apply invAckTo_kept
    | with_reducible apply protoErr_kept)

theorem answerCopy_kept {z0 : State} (i : SliceNo) (k : BKind) (m : BMsg) (st : LState) (d : Slot) (poison : Bool) (s : State)
    (hK : Kept z0 s) : Kept z0 (answerCopy i k m st d poison s).2 := by
  unfold answerCopy
  repeat' (first
    | with_reducible assumption
    | with_reducible apply dataToQ_kept
    | with_reducible apply dataToH_kept
    | with_reducible apply invAckTo_kept
    | with_reducible refine Kept.ite (fun _ => ?_) (fun _ => ?_)
    | fail_if_no_progress ((with_reducible apply Kept.mk1) <;> (first | with_reducible assumption | with_reducible rfl | skip))
    | with_reducible refine Kept.each (fun _ _ _ => ?_) ?_
    | with_reducible refine Kept.foldl2 (fun _ _ _ => ?_) ?_
    | with_reducible refine Kept.foldl (fun _ _ _ => ?_) ?_
    | extract_lets
    | with_reducible refine Kept.slGood (z0 := z0) ?_ ?_
    | with_reducible apply Slice.good_slots
    | with_reducible apply Slice.putBlock_good
    | with_reducible apply Slice.putWord_good
    | with_reducible apply Slice.putPlru_good
    | with_reducible apply Slice.touchWay_good
    | with_reducible apply Slice.mendSlot_good
    | with_reducible apply Slice.mendTS_good
    | with_reducible apply Slice.hitWay_good
    | with_reducible apply Slice.dropMove_good
    | with_reducible apply Slice.outcome_good
    | with_reducible apply Slice.hintFill_good
    | with_reducible apply Slice.predFix_good
    | with_reducible apply Slice.hintSeen_good
    | with_reducible apply Slice.predAdd_good
    | with_reducible apply Slice.closeLow_good
    | with_reducible apply Slice.setLock_good
    | with_reducible apply Slice.flushPlru_good
    | with_reducible refine Slice.shAlloc_good ?_ (by with_reducible assumption)
    | with_reducible refine Slice.ensureShadow_good ?_ (by with_reducible assumption)
    | with_reducible refine Slice.demandLook_good ?_ (by with_reducible assumption)
    | fail_if_no_progress ((with_reducible apply Slice.good_mk) <;> (first | with_reducible assumption | with_reducible rfl | skip))
    | split)

theorem holderEntry_kept {z0 : State} (i : SliceNo) (k : BKind) (m : BMsg) (t : STxn) (s : State)
    (hK : Kept z0 s) : Kept z0 (holderEntry i k m t s) := by
  unfold holderEntry
  repeat' (first
    | with_reducible assumption
    | with_reducible apply snoopFor_kept
    | with_reducible apply modTxn_kept
    | with_reducible apply cannotArise_kept
    | with_reducible apply answerCopy_kept
    | with_reducible refine Kept.ite (fun _ => ?_) (fun _ => ?_))

theorem holderCw_kept {z0 : State} (i : SliceNo) (k : BKind) (m : BMsg) (e : CwEnt) (s : State)
    (hK : Kept z0 s) : Kept z0 (holderCw i k m e s) := by
  unfold holderCw
  repeat' (first
    | with_reducible assumption
    | with_reducible apply State.modSl_kept
    | with_reducible apply invAckTo_kept
    | with_reducible apply cannotArise_kept
    | with_reducible apply answerCopy_kept
    | with_reducible refine Kept.ite (fun _ => ?_) (fun _ => ?_)
    | fail_if_no_progress ((with_reducible apply Kept.mk1) <;> (first | with_reducible assumption | with_reducible rfl | skip))
    | with_reducible refine Kept.each (fun _ _ _ => ?_) ?_
    | with_reducible refine Kept.foldl2 (fun _ _ _ => ?_) ?_
    | with_reducible refine Kept.foldl (fun _ _ _ => ?_) ?_
    | extract_lets
    | with_reducible refine Kept.slGood (z0 := z0) ?_ ?_
    | with_reducible apply Slice.good_slots
    | with_reducible apply Slice.putBlock_good
    | with_reducible apply Slice.putWord_good
    | with_reducible apply Slice.putPlru_good
    | with_reducible apply Slice.touchWay_good
    | with_reducible apply Slice.mendSlot_good
    | with_reducible apply Slice.mendTS_good
    | with_reducible apply Slice.hitWay_good
    | with_reducible apply Slice.dropMove_good
    | with_reducible apply Slice.outcome_good
    | with_reducible apply Slice.hintFill_good
    | with_reducible apply Slice.predFix_good
    | with_reducible apply Slice.hintSeen_good
    | with_reducible apply Slice.predAdd_good
    | with_reducible apply Slice.closeLow_good
    | with_reducible apply Slice.setLock_good
    | with_reducible apply Slice.flushPlru_good
    | with_reducible refine Slice.shAlloc_good ?_ (by with_reducible assumption)
    | with_reducible refine Slice.ensureShadow_good ?_ (by with_reducible assumption)
    | with_reducible refine Slice.demandLook_good ?_ (by with_reducible assumption)
    | fail_if_no_progress ((with_reducible apply Slice.good_mk) <;> (first | with_reducible assumption | with_reducible rfl | skip))
    | split
    | with_reducible refine Kept.of_snd (by with_reducible assumption) ?_
    | dsimp +zetaDelta only
    | intro)

theorem holderRb_kept {z0 : State} (i : SliceNo) (k : BKind) (m : BMsg) (e : RbEnt) (s : State)
    (hK : Kept z0 s) : Kept z0 (holderRb i k m e s) := by
  unfold holderRb
  repeat' (first
    | with_reducible assumption
    | with_reducible apply State.modSl_kept
    | with_reducible apply dropRb_kept
    | with_reducible apply cannotArise_kept
    | with_reducible apply answerCopy_kept
    | with_reducible refine Kept.ite (fun _ => ?_) (fun _ => ?_)
    | fail_if_no_progress ((with_reducible apply Kept.mk1) <;> (first | with_reducible assumption | with_reducible rfl | skip))
    | with_reducible refine Kept.each (fun _ _ _ => ?_) ?_
    | with_reducible refine Kept.foldl2 (fun _ _ _ => ?_) ?_
    | with_reducible refine Kept.foldl (fun _ _ _ => ?_) ?_
    | extract_lets
    | with_reducible refine Kept.slGood (z0 := z0) ?_ ?_
    | with_reducible apply Slice.good_slots
    | with_reducible apply Slice.putBlock_good
    | with_reducible apply Slice.putWord_good
    | with_reducible apply Slice.putPlru_good
    | with_reducible apply Slice.touchWay_good
    | with_reducible apply Slice.mendSlot_good
    | with_reducible apply Slice.mendTS_good
    | with_reducible apply Slice.hitWay_good
    | with_reducible apply Slice.dropMove_good
    | with_reducible apply Slice.outcome_good
    | with_reducible apply Slice.hintFill_good
    | with_reducible apply Slice.predFix_good
    | with_reducible apply Slice.hintSeen_good
    | with_reducible apply Slice.predAdd_good
    | with_reducible apply Slice.closeLow_good
    | with_reducible apply Slice.setLock_good
    | with_reducible apply Slice.flushPlru_good
    | with_reducible refine Slice.shAlloc_good ?_ (by with_reducible assumption)
    | with_reducible refine Slice.ensureShadow_good ?_ (by with_reducible assumption)
    | with_reducible refine Slice.demandLook_good ?_ (by with_reducible assumption)
    | fail_if_no_progress ((with_reducible apply Slice.good_mk) <;> (first | with_reducible assumption | with_reducible rfl | skip))
    | split
    | with_reducible refine Kept.of_snd (by with_reducible assumption) ?_
    | dsimp +zetaDelta only
    | intro)

theorem holderWay_kept {z0 : State} (i : SliceNo) (k : BKind) (m : BMsg) (w : Nat) (s : State)
    (hK : Kept z0 s) : Kept z0 (holderWay i k m w s) := by
  unfold holderWay
  repeat' (first
    | with_reducible assumption
    | with_reducible apply State.modSl_kept
    | with_reducible apply readSlot_kept
    | with_reducible apply dropWay_kept
    | with_reducible apply pendWay_kept
    | with_reducible apply modTxn_kept
    | with_reducible apply answerCopy_kept
    | with_reducible refine Kept.ite (fun _ => ?_) (fun _ => ?_)
    | fail_if_no_progress ((with_reducible apply Kept.mk1) <;> (first | with_reducible assumption | with_reducible rfl | skip))
    | with_reducible refine Kept.each (fun _ _ _ => ?_) ?_
    | with_reducible refine Kept.foldl2 (fun _ _ _ => ?_) ?_
    | with_reducible refine Kept.foldl (fun _ _ _ => ?_) ?_
    | extract_lets
    | with_reducible refine Kept.slGood (z0 := z0) ?_ ?_
    | with_reducible apply Slice.good_slots
    | with_reducible apply Slice.putBlock_good
    | with_reducible apply Slice.putWord_good
    | with_reducible apply Slice.putPlru_good
    | with_reducible apply Slice.touchWay_good
    | with_reducible apply Slice.mendSlot_good
    | with_reducible apply Slice.mendTS_good
    | with_reducible apply Slice.hitWay_good
    | with_reducible apply Slice.dropMove_good
    | with_reducible apply Slice.outcome_good
    | with_reducible apply Slice.hintFill_good
    | with_reducible apply Slice.predFix_good
    | with_reducible apply Slice.hintSeen_good
    | with_reducible apply Slice.predAdd_good
    | with_reducible apply Slice.closeLow_good
    | with_reducible apply Slice.setLock_good
    | with_reducible apply Slice.flushPlru_good
    | with_reducible refine Slice.shAlloc_good ?_ (by with_reducible assumption)
    | with_reducible refine Slice.ensureShadow_good ?_ (by with_reducible assumption)
    | with_reducible refine Slice.demandLook_good ?_ (by with_reducible assumption)
    | fail_if_no_progress ((with_reducible apply Slice.good_mk) <;> (first | with_reducible assumption | with_reducible rfl | skip))
    | split
    | with_reducible refine Kept.of_snd (by with_reducible assumption) ?_
    | dsimp +zetaDelta only
    | intro)

theorem holderNone_kept {z0 : State} (i : SliceNo) (k : BKind) (m : BMsg) (s : State)
    (hK : Kept z0 s) : Kept z0 (holderNone i k m s) := by
  unfold holderNone
  repeat' (first
    | with_reducible assumption
    | with_reducible apply modTxn_kept
    | with_reducible apply invAckTo_kept
    | with_reducible apply cannotArise_kept
    | with_reducible apply answerCopy_kept
    | with_reducible refine Kept.ite (fun _ => ?_) (fun _ => ?_)
    | fail_if_no_progress ((with_reducible apply Kept.mk1) <;> (first | with_reducible assumption | with_reducible rfl | skip))
    | with_reducible refine Kept.each (fun _ _ _ => ?_) ?_
    | with_reducible refine Kept.foldl2 (fun _ _ _ => ?_) ?_
    | with_reducible refine Kept.foldl (fun _ _ _ => ?_) ?_
    | extract_lets
    | with_reducible refine Kept.slGood (z0 := z0) ?_ ?_
    | with_reducible apply Slice.good_slots
    | with_reducible apply Slice.putBlock_good
    | with_reducible apply Slice.putWord_good
    | with_reducible apply Slice.putPlru_good
    | with_reducible apply Slice.touchWay_good
    | with_reducible apply Slice.mendSlot_good
    | with_reducible apply Slice.mendTS_good
    | with_reducible apply Slice.hitWay_good
    | with_reducible apply Slice.dropMove_good
    | with_reducible apply Slice.outcome_good
    | with_reducible apply Slice.hintFill_good
    | with_reducible apply Slice.predFix_good
    | with_reducible apply Slice.hintSeen_good
    | with_reducible apply Slice.predAdd_good
    | with_reducible apply Slice.closeLow_good
    | with_reducible apply Slice.setLock_good
    | with_reducible apply Slice.flushPlru_good
    | with_reducible refine Slice.shAlloc_good ?_ (by with_reducible assumption)
    | with_reducible refine Slice.ensureShadow_good ?_ (by with_reducible assumption)
    | with_reducible refine Slice.demandLook_good ?_ (by with_reducible assumption)
    | fail_if_no_progress ((with_reducible apply Slice.good_mk) <;> (first | with_reducible assumption | with_reducible rfl | skip))
    | split)

theorem holderGo_kept {z0 : State} (i : SliceNo) (k : BKind) (m : BMsg) (snooped : Bool) (s0 : State)
    (hK : Kept z0 s0) : Kept z0 (holderGo i k m snooped s0) := by
  unfold holderGo
  repeat' (first
    | with_reducible assumption
    | with_reducible apply snoopFor_kept
    | with_reducible apply lookEntry_kept
    | with_reducible apply cannotArise_kept
    | with_reducible apply holderEntry_kept
    | with_reducible apply holderCw_kept
    | with_reducible apply holderRb_kept
    | with_reducible apply holderWay_kept
    | with_reducible apply holderNone_kept
    | with_reducible refine Kept.ite (fun _ => ?_) (fun _ => ?_)
    | fail_if_no_progress ((with_reducible apply Kept.mk1) <;> (first | with_reducible assumption | with_reducible rfl | skip))
    | with_reducible refine Kept.each (fun _ _ _ => ?_) ?_
    | with_reducible refine Kept.foldl2 (fun _ _ _ => ?_) ?_
    | with_reducible refine Kept.foldl (fun _ _ _ => ?_) ?_
    | extract_lets
    | with_reducible refine Kept.slGood (z0 := z0) ?_ ?_
    | with_reducible apply Slice.good_slots
    | with_reducible apply Slice.putBlock_good
    | with_reducible apply Slice.putWord_good
    | with_reducible apply Slice.putPlru_good
    | with_reducible apply Slice.touchWay_good
    | with_reducible apply Slice.mendSlot_good
    | with_reducible apply Slice.mendTS_good
    | with_reducible apply Slice.hitWay_good
    | with_reducible apply Slice.dropMove_good
    | with_reducible apply Slice.outcome_good
    | with_reducible apply Slice.hintFill_good
    | with_reducible apply Slice.predFix_good
    | with_reducible apply Slice.hintSeen_good
    | with_reducible apply Slice.predAdd_good
    | with_reducible apply Slice.closeLow_good
    | with_reducible apply Slice.setLock_good
    | with_reducible apply Slice.flushPlru_good
    | with_reducible refine Slice.shAlloc_good ?_ (by with_reducible assumption)
    | with_reducible refine Slice.ensureShadow_good ?_ (by with_reducible assumption)
    | with_reducible refine Slice.demandLook_good ?_ (by with_reducible assumption)
    | fail_if_no_progress ((with_reducible apply Slice.good_mk) <;> (first | with_reducible assumption | with_reducible rfl | skip))
    | split
    | with_reducible refine Kept.of_snd (by with_reducible assumption) ?_
    | dsimp +zetaDelta only)

theorem holder_kept {z0 : State} (i : SliceNo) (k : BKind) (m : BMsg) (s : State)
    (hK : Kept z0 s) : Kept z0 (holder i k m s) := by
  unfold holder
  repeat' (first
    | with_reducible assumption
    | with_reducible apply State.modSl_kept
    | with_reducible apply holderGo_kept
    | with_reducible refine Kept.ite (fun _ => ?_) (fun _ => ?_)
    | fail_if_no_progress ((with_reducible apply Kept.mk1) <;> (first | with_reducible assumption | with_reducible rfl | skip))
    | with_reducible refine Kept.each (fun _ _ _ => ?_) ?_
    | with_reducible refine Kept.foldl2 (fun _ _ _ => ?_) ?_
    | with_reducible refine Kept.foldl (fun _ _ _ => ?_) ?_
    | extract_lets
    | with_reducible refine Kept.slGood (z0 := z0) ?_ ?_
    | with_reducible apply Slice.good_slots
    | with_reducible apply Slice.putBlock_good
    | with_reducible apply Slice.putWord_good
    | with_reducible apply Slice.putPlru_good
    | with_reducible apply Slice.touchWay_good
    | with_reducible apply Slice.mendSlot_good
    | with_reducible apply Slice.mendTS_good
    | with_reducible apply Slice.hitWay_good
    | with_reducible apply Slice.dropMove_good
    | with_reducible apply Slice.outcome_good
    | with_reducible apply Slice.hintFill_good
    | with_reducible apply Slice.predFix_good
    | with_reducible apply Slice.hintSeen_good
    | with_reducible apply Slice.predAdd_good
    | with_reducible apply Slice.closeLow_good
    | with_reducible apply Slice.setLock_good
    | with_reducible apply Slice.flushPlru_good
    | with_reducible refine Slice.shAlloc_good ?_ (by with_reducible assumption)
    | with_reducible refine Slice.ensureShadow_good ?_ (by with_reducible assumption)
    | with_reducible refine Slice.demandLook_good ?_ (by with_reducible assumption)
    | fail_if_no_progress ((with_reducible apply Slice.good_mk) <;> (first | with_reducible assumption | with_reducible rfl | skip))
    | split
    | with_reducible refine Kept.of_snd (by with_reducible assumption) ?_
    | dsimp +zetaDelta only
    | intro)

theorem countCmd_kept {z0 : State} (wr disc : Nat) (s : State)
    (hK : Kept z0 s) : Kept z0 (countCmd wr disc s) := by
  unfold countCmd
  repeat' (first
    | with_reducible assumption
    | with_reducible refine Kept.ite (fun _ => ?_) (fun _ => ?_)
    | fail_if_no_progress ((with_reducible apply Kept.mk1) <;> (first | with_reducible assumption | with_reducible rfl | skip)))

theorem walkEvict_kept {z0 : State} (i : SliceNo) (set w : Nat) (discard cmd : Bool) (s : State)
    (hK : Kept z0 s) : Kept z0 (walkEvict i set w discard cmd s) := by
  unfold walkEvict
  repeat' (first
    | with_reducible assumption
    | with_reducible apply evictWay_kept
    | with_reducible apply countCmd_kept
    | with_reducible refine Kept.ite (fun _ => ?_) (fun _ => ?_))

theorem cleanStep_kept {z0 : State} (i : SliceNo) (set w : Nat) (cmd : Bool) (s : State)
    (hK : Kept z0 s) : Kept z0 (cleanStep i set w cmd s) := by
  unfold cleanStep
  repeat' (first
    | with_reducible assumption
    | with_reducible apply State.modSl_kept
    | with_reducible apply readSlot_kept
    | with_reducible apply sendPut_kept
    | with_reducible apply evictWay_kept
    | with_reducible apply countCmd_kept
    | with_reducible refine Kept.ite (fun _ => ?_) (fun _ => ?_)
    | fail_if_no_progress ((with_reducible apply Kept.mk1) <;> (first | with_reducible assumption | with_reducible rfl | skip))
    | with_reducible refine Kept.each (fun _ _ _ => ?_) ?_
    | with_reducible refine Kept.foldl2 (fun _ _ _ => ?_) ?_
    | with_reducible refine Kept.foldl (fun _ _ _ => ?_) ?_
    | extract_lets
    | with_reducible refine Kept.slGood (z0 := z0) ?_ ?_
    | with_reducible apply Slice.good_slots
    | with_reducible apply Slice.putBlock_good
    | with_reducible apply Slice.putWord_good
    | with_reducible apply Slice.putPlru_good
    | with_reducible apply Slice.touchWay_good
    | with_reducible apply Slice.mendSlot_good
    | with_reducible apply Slice.mendTS_good
    | with_reducible apply Slice.hitWay_good
    | with_reducible apply Slice.dropMove_good
    | with_reducible apply Slice.outcome_good
    | with_reducible apply Slice.hintFill_good
    | with_reducible apply Slice.predFix_good
    | with_reducible apply Slice.hintSeen_good
    | with_reducible apply Slice.predAdd_good
    | with_reducible apply Slice.closeLow_good
    | with_reducible apply Slice.setLock_good
    | with_reducible apply Slice.flushPlru_good
    | with_reducible refine Slice.shAlloc_good ?_ (by with_reducible assumption)
    | with_reducible refine Slice.ensureShadow_good ?_ (by with_reducible assumption)
    | with_reducible refine Slice.demandLook_good ?_ (by with_reducible assumption)
    | fail_if_no_progress ((with_reducible apply Slice.good_mk) <;> (first | with_reducible assumption | with_reducible rfl | skip))
    | split
    | with_reducible refine Kept.of_snd (by with_reducible assumption) ?_
    | dsimp +zetaDelta only
    | intro)

theorem visit_kept {z0 : State} (i : SliceNo) (k : WalkKind) (set w : Nat) (s : State)
    (hK : Kept z0 s) : Kept z0 (visit i k set w s).2 := by
  unfold visit
  repeat' (first
    | with_reducible assumption
    | with_reducible apply snoopFor_kept
    | with_reducible apply performed_kept
    | with_reducible apply walkEvict_kept
    | with_reducible apply cleanStep_kept
    | with_reducible refine Kept.ite (fun _ => ?_) (fun _ => ?_)
    | fail_if_no_progress ((with_reducible apply Kept.mk1) <;> (first | with_reducible assumption | with_reducible rfl | skip))
    | with_reducible refine Kept.each (fun _ _ _ => ?_) ?_
    | with_reducible refine Kept.foldl2 (fun _ _ _ => ?_) ?_
    | with_reducible refine Kept.foldl (fun _ _ _ => ?_) ?_
    | extract_lets
    | with_reducible refine Kept.slGood (z0 := z0) ?_ ?_
    | with_reducible apply Slice.good_slots
    | with_reducible apply Slice.putBlock_good
    | with_reducible apply Slice.putWord_good
    | with_reducible apply Slice.putPlru_good
    | with_reducible apply Slice.touchWay_good
    | with_reducible apply Slice.mendSlot_good
    | with_reducible apply Slice.mendTS_good
    | with_reducible apply Slice.hitWay_good
    | with_reducible apply Slice.dropMove_good
    | with_reducible apply Slice.outcome_good
    | with_reducible apply Slice.hintFill_good
    | with_reducible apply Slice.predFix_good
    | with_reducible apply Slice.hintSeen_good
    | with_reducible apply Slice.predAdd_good
    | with_reducible apply Slice.closeLow_good
    | with_reducible apply Slice.setLock_good
    | with_reducible apply Slice.flushPlru_good
    | with_reducible refine Slice.shAlloc_good ?_ (by with_reducible assumption)
    | with_reducible refine Slice.ensureShadow_good ?_ (by with_reducible assumption)
    | with_reducible refine Slice.demandLook_good ?_ (by with_reducible assumption)
    | fail_if_no_progress ((with_reducible apply Slice.good_mk) <;> (first | with_reducible assumption | with_reducible rfl | skip))
    | split)

theorem visitNext_kept {z0 t : State} {i : SliceNo} {k : WalkKind} {s : State} (hK : Kept z0 s) (e : visitNext i k s = some t) :
    Kept z0 t := by
  unfold visitNext at e
  split at e
  · cases e
  · split at e
    · cases e
    · dsimp only at e
      split at e
      · cases e
        exact State.modSl_kept (visit_kept _ _ _ _ _ hK) fun x h => Slice.good_of h rfl rfl
      · cases e

theorem walkRun_kept {z0 : State} (i : SliceNo) (k : WalkKind) (n : Nat) (s : State) (hK : Kept z0 s) : Kept z0 (walkRun i k n s) := by
  induction n generalizing s with
  | zero => exact hK
  | succ n ih =>
    unfold walkRun
    split
    · exact ih _ (visitNext_kept hK ‹_›)
    · exact hK

theorem pumpWalks_kept {z0 : State} (i : SliceNo) (s : State)
    (hK : Kept z0 s) : Kept z0 (pumpWalks i s) := by
  unfold pumpWalks
  repeat' (first
    | with_reducible assumption
    | with_reducible apply walkRun_kept
    | with_reducible refine Kept.ite (fun _ => ?_) (fun _ => ?_)
    | fail_if_no_progress ((with_reducible apply Kept.mk1) <;> (first | with_reducible assumption | with_reducible rfl | skip))
    | with_reducible refine Kept.each (fun _ _ _ => ?_) ?_)

theorem startWalk_kept {z0 : State} (i : SliceNo) (k : WalkKind) (s : State)
    (hK : Kept z0 s) : Kept z0 (startWalk i k s) := by
  unfold startWalk
  repeat' (first
    | with_reducible assumption
    | with_reducible apply State.modSl_kept
    | with_reducible refine Kept.ite (fun _ => ?_) (fun _ => ?_)
    | fail_if_no_progress ((with_reducible apply Kept.mk1) <;> (first | with_reducible assumption | with_reducible rfl | skip))
    | with_reducible refine Kept.each (fun _ _ _ => ?_) ?_
    | with_reducible refine Kept.foldl2 (fun _ _ _ => ?_) ?_
    | with_reducible refine Kept.foldl (fun _ _ _ => ?_) ?_
    | extract_lets
    | with_reducible refine Kept.slGood (z0 := z0) ?_ ?_
    | with_reducible apply Slice.good_slots
    | with_reducible apply Slice.putBlock_good
    | with_reducible apply Slice.putWord_good
    | with_reducible apply Slice.putPlru_good
    | with_reducible apply Slice.touchWay_good
    | with_reducible apply Slice.mendSlot_good
    | with_reducible apply Slice.mendTS_good
    | with_reducible apply Slice.hitWay_good
    | with_reducible apply Slice.dropMove_good
    | with_reducible apply Slice.outcome_good
    | with_reducible apply Slice.hintFill_good
    | with_reducible apply Slice.predFix_good
    | with_reducible apply Slice.hintSeen_good
    | with_reducible apply Slice.predAdd_good
    | with_reducible apply Slice.closeLow_good
    | with_reducible apply Slice.setLock_good
    | with_reducible apply Slice.flushPlru_good
    | with_reducible refine Slice.shAlloc_good ?_ (by with_reducible assumption)
    | with_reducible refine Slice.ensureShadow_good ?_ (by with_reducible assumption)
    | with_reducible refine Slice.demandLook_good ?_ (by with_reducible assumption)
    | fail_if_no_progress ((with_reducible apply Slice.good_mk) <;> (first | with_reducible assumption | with_reducible rfl | skip))
    | split
    | with_reducible refine Kept.of_snd (by with_reducible assumption) ?_
    | dsimp +zetaDelta only
    | intro)

theorem modCmd_kept {z0 : State} (f : WalkCmd → WalkCmd) (s : State)
    (hK : Kept z0 s) : Kept z0 (modCmd f s) := by
  unfold modCmd
  repeat' (first
    | with_reducible assumption
    | with_reducible refine Kept.ite (fun _ => ?_) (fun _ => ?_)
    | fail_if_no_progress ((with_reducible apply Kept.mk1) <;> (first | with_reducible assumption | with_reducible rfl | skip)))

theorem lockLine_kept {z0 : State} (l : LAddr) (s : State)
    (hK : Kept z0 s) : Kept z0 (lockLine l s).2 := by
  unfold lockLine
  repeat' (first
    | with_reducible assumption
    | refine shadowFor_kept ?_ (by with_reducible assumption)
    | with_reducible apply State.modSl_kept
    | with_reducible apply readSlot_kept
    | with_reducible apply writeSlot_kept
    | with_reducible apply openTxn_kept
    | with_reducible apply giveUpRb_kept
    | with_reducible refine Kept.ite (fun _ => ?_) (fun _ => ?_)
    | fail_if_no_progress ((with_reducible apply Kept.mk1) <;> (first | with_reducible assumption | with_reducible rfl | skip))
    | with_reducible refine Kept.each (fun _ _ _ => ?_) ?_
    | with_reducible refine Kept.foldl2 (fun _ _ _ => ?_) ?_
    | with_reducible refine Kept.foldl (fun _ _ _ => ?_) ?_
    | extract_lets
    | with_reducible refine Kept.slGood (z0 := z0) ?_ ?_
    | with_reducible apply Slice.good_slots
    | with_reducible apply Slice.putBlock_good
    | with_reducible apply Slice.putWord_good
    | with_reducible apply Slice.putPlru_good
    | with_reducible apply Slice.touchWay_good
    | with_reducible apply Slice.mendSlot_good
    | with_reducible apply Slice.mendTS_good
    | with_reducible apply Slice.hitWay_good
    | with_reducible apply Slice.dropMove_good
    | with_reducible apply Slice.outcome_good
    | with_reducible apply Slice.hintFill_good
    | with_reducible apply Slice.predFix_good
    | with_reducible apply Slice.hintSeen_good
    | with_reducible apply Slice.predAdd_good
    | with_reducible apply Slice.closeLow_good
    | with_reducible apply Slice.setLock_good
    | with_reducible apply Slice.flushPlru_good
    | with_reducible refine Slice.shAlloc_good ?_ (by with_reducible assumption)
    | with_reducible refine Slice.ensureShadow_good ?_ (by with_reducible assumption)
    | with_reducible refine Slice.demandLook_good ?_ (by with_reducible assumption)
    | fail_if_no_progress ((with_reducible apply Slice.good_mk) <;> (first | with_reducible assumption | with_reducible rfl | skip))
    | split
    | with_reducible refine Kept.of_snd (by with_reducible assumption) ?_
    | dsimp +zetaDelta only
    | intro)

theorem lockCount_kept {z0 : State} (l : LAddr) (y : LockStep × State) (hK : Kept z0 y.2) : Kept z0 (lockCount l y) := by
  unfold lockCount
  repeat' (first
    | with_reducible assumption
    | with_reducible apply modCmd_kept
    | with_reducible refine Kept.ite (fun _ => ?_) (fun _ => ?_)
    | fail_if_no_progress ((with_reducible apply Kept.mk1) <;> (first | with_reducible assumption | with_reducible rfl | skip))
    | with_reducible refine Kept.each (fun _ _ _ => ?_) ?_
    | with_reducible refine Kept.foldl2 (fun _ _ _ => ?_) ?_
    | with_reducible refine Kept.foldl (fun _ _ _ => ?_) ?_
    | extract_lets
    | with_reducible refine Kept.slGood (z0 := z0) ?_ ?_
    | with_reducible apply Slice.good_slots
    | with_reducible apply Slice.putBlock_good
    | with_reducible apply Slice.putWord_good
    | with_reducible apply Slice.putPlru_good
    | with_reducible apply Slice.touchWay_good
    | with_reducible apply Slice.mendSlot_good
    | with_reducible apply Slice.mendTS_good
    | with_reducible apply Slice.hitWay_good
    | with_reducible apply Slice.dropMove_good
    | with_reducible apply Slice.outcome_good
    | with_reducible apply Slice.hintFill_good
    | with_reducible apply Slice.predFix_good
    | with_reducible apply Slice.hintSeen_good
    | with_reducible apply Slice.predAdd_good
    | with_reducible apply Slice.closeLow_good
    | with_reducible apply Slice.setLock_good
    | with_reducible apply Slice.flushPlru_good
    | with_reducible refine Slice.shAlloc_good ?_ (by with_reducible assumption)
    | with_reducible refine Slice.ensureShadow_good ?_ (by with_reducible assumption)
    | with_reducible refine Slice.demandLook_good ?_ (by with_reducible assumption)
    | fail_if_no_progress ((with_reducible apply Slice.good_mk) <;> (first | with_reducible assumption | with_reducible rfl | skip))
    | split)

theorem lockPump_kept {z0 : State} (s : State)
    (hK : Kept z0 s) : Kept z0 (lockPump s) := by
  unfold lockPump
  repeat' (first
    | with_reducible assumption
    | with_reducible apply lockLine_kept
    | with_reducible apply lockCount_kept
    | with_reducible refine Kept.ite (fun _ => ?_) (fun _ => ?_)
    | fail_if_no_progress ((with_reducible apply Kept.mk1) <;> (first | with_reducible assumption | with_reducible rfl | skip))
    | with_reducible refine Kept.each (fun _ _ _ => ?_) ?_
    | with_reducible refine Kept.foldl2 (fun _ _ _ => ?_) ?_
    | with_reducible refine Kept.foldl (fun _ _ _ => ?_) ?_
    | extract_lets
    | with_reducible refine Kept.slGood (z0 := z0) ?_ ?_
    | with_reducible apply Slice.good_slots
    | with_reducible apply Slice.putBlock_good
    | with_reducible apply Slice.putWord_good
    | with_reducible apply Slice.putPlru_good
    | with_reducible apply Slice.touchWay_good
    | with_reducible apply Slice.mendSlot_good
    | with_reducible apply Slice.mendTS_good
    | with_reducible apply Slice.hitWay_good
    | with_reducible apply Slice.dropMove_good
    | with_reducible apply Slice.outcome_good
    | with_reducible apply Slice.hintFill_good
    | with_reducible apply Slice.predFix_good
    | with_reducible apply Slice.hintSeen_good
    | with_reducible apply Slice.predAdd_good
    | with_reducible apply Slice.closeLow_good
    | with_reducible apply Slice.setLock_good
    | with_reducible apply Slice.flushPlru_good
    | with_reducible refine Slice.shAlloc_good ?_ (by with_reducible assumption)
    | with_reducible refine Slice.ensureShadow_good ?_ (by with_reducible assumption)
    | with_reducible refine Slice.demandLook_good ?_ (by with_reducible assumption)
    | fail_if_no_progress ((with_reducible apply Slice.good_mk) <;> (first | with_reducible assumption | with_reducible rfl | skip))
    | split)

theorem lockNext_kept {z0 t : State} (i : SliceNo) (s : State) (hK : Kept z0 s) (e : lockNext i s = some t) : Kept z0 t := by
  unfold lockNext at e
  split at e
  · cases e
  · split at e
    · cases e
    · split at e
      · cases e
      · dsimp only at e
        split at e
        · cases e
        · cases e; exact lockCount_kept _ _ (lockLine_kept _ _ hK)

theorem walkPass_kept {z0 t : State} (i : SliceNo) (s : State) (hK : Kept z0 s) (e : walkPass i s = some t) : Kept z0 t := by
  unfold walkPass at e
  split at e
  · cases e
  · split at e
    · rename_i u h
      cases e
      obtain ⟨k, -, hk⟩ := List.exists_of_findSome?_eq_some h
      exact visitNext_kept hK hk
    · exact lockNext_kept _ _ hK e

theorem walkPass_getD_kept {z0 : State} (i : SliceNo) (s : State) (hK : Kept z0 s) : Kept z0 ((walkPass i s).getD s) := by
  cases e : walkPass i s with
  | none => exact hK
  | some t => exact walkPass_kept _ _ hK e

theorem arbPass_kept {z0 : State} (i : SliceNo) (cls : Cls) (p : Port) (s : State)
    (hK : Kept z0 s) : Kept z0 (arbPass i cls p s) := by
  unfold arbPass
  repeat' (first
    | with_reducible assumption
    | apply walkPass_getD_kept
    | with_reducible apply decideIn_kept
    | with_reducible refine Kept.ite (fun _ => ?_) (fun _ => ?_)
    | fail_if_no_progress ((with_reducible apply Kept.mk1) <;> (first | with_reducible assumption | with_reducible rfl | skip))
    | with_reducible refine Kept.each (fun _ _ _ => ?_) ?_
    | with_reducible refine Kept.foldl2 (fun _ _ _ => ?_) ?_
    | with_reducible refine Kept.foldl (fun _ _ _ => ?_) ?_
    | extract_lets
    | with_reducible refine Kept.slGood (z0 := z0) ?_ ?_
    | with_reducible apply Slice.good_slots
    | with_reducible apply Slice.putBlock_good
    | with_reducible apply Slice.putWord_good
    | with_reducible apply Slice.putPlru_good
    | with_reducible apply Slice.touchWay_good
    | with_reducible apply Slice.mendSlot_good
    | with_reducible apply Slice.mendTS_good
    | with_reducible apply Slice.hitWay_good
    | with_reducible apply Slice.dropMove_good
    | with_reducible apply Slice.outcome_good
    | with_reducible apply Slice.hintFill_good
    | with_reducible apply Slice.predFix_good
    | with_reducible apply Slice.hintSeen_good
    | with_reducible apply Slice.predAdd_good
    | with_reducible apply Slice.closeLow_good
    | with_reducible apply Slice.setLock_good
    | with_reducible apply Slice.flushPlru_good
    | with_reducible refine Slice.shAlloc_good ?_ (by with_reducible assumption)
    | with_reducible refine Slice.ensureShadow_good ?_ (by with_reducible assumption)
    | with_reducible refine Slice.demandLook_good ?_ (by with_reducible assumption)
    | fail_if_no_progress ((with_reducible apply Slice.good_mk) <;> (first | with_reducible assumption | with_reducible rfl | skip))
    | split)

theorem arbIdle_kept {z0 : State} (i : SliceNo) (s : State)
    (hK : Kept z0 s) : Kept z0 (arbIdle i s) := by
  unfold arbIdle
  repeat' (first
    | with_reducible assumption
    | apply walkPass_getD_kept
    | with_reducible apply decideIn_kept
    | with_reducible refine Kept.ite (fun _ => ?_) (fun _ => ?_)
    | fail_if_no_progress ((with_reducible apply Kept.mk1) <;> (first | with_reducible assumption | with_reducible rfl | skip))
    | with_reducible refine Kept.each (fun _ _ _ => ?_) ?_
    | with_reducible refine Kept.foldl2 (fun _ _ _ => ?_) ?_
    | with_reducible refine Kept.foldl (fun _ _ _ => ?_) ?_
    | extract_lets
    | with_reducible refine Kept.slGood (z0 := z0) ?_ ?_
    | with_reducible apply Slice.good_slots
    | with_reducible apply Slice.putBlock_good
    | with_reducible apply Slice.putWord_good
    | with_reducible apply Slice.putPlru_good
    | with_reducible apply Slice.touchWay_good
    | with_reducible apply Slice.mendSlot_good
    | with_reducible apply Slice.mendTS_good
    | with_reducible apply Slice.hitWay_good
    | with_reducible apply Slice.dropMove_good
    | with_reducible apply Slice.outcome_good
    | with_reducible apply Slice.hintFill_good
    | with_reducible apply Slice.predFix_good
    | with_reducible apply Slice.hintSeen_good
    | with_reducible apply Slice.predAdd_good
    | with_reducible apply Slice.closeLow_good
    | with_reducible apply Slice.setLock_good
    | with_reducible apply Slice.flushPlru_good
    | with_reducible refine Slice.shAlloc_good ?_ (by with_reducible assumption)
    | with_reducible refine Slice.ensureShadow_good ?_ (by with_reducible assumption)
    | with_reducible refine Slice.demandLook_good ?_ (by with_reducible assumption)
    | fail_if_no_progress ((with_reducible apply Slice.good_mk) <;> (first | with_reducible assumption | with_reducible rfl | skip))
    | split)

theorem exceptionOf_kept {z0 : State} (r : Req) (s : State)
    (hK : Kept z0 s) : Kept z0 (exceptionOf r s) := by
  unfold exceptionOf
  repeat' (first
    | with_reducible assumption
    | with_reducible apply complete_kept
    | with_reducible apply clearRsvAll_kept
    | with_reducible apply issueEvery_kept
    | with_reducible apply closeEntries_kept)

theorem anyAccess_kept {z0 : State} (r : Req) (snooped : Bool) (s : State)
    (hK : Kept z0 s) : Kept z0 (anyAccess r snooped s) := by
  unfold anyAccess
  repeat' (first
    | with_reducible assumption
    | with_reducible apply access_kept
    | with_reducible apply stampAccess_kept
    | with_reducible apply exceptionOf_kept
    | with_reducible refine Kept.ite (fun _ => ?_) (fun _ => ?_))

theorem rbInto_kept {z0 t : State} {i : SliceNo} {l : LAddr} {set w : Nat} {hp : BitVec 4} {s : State} (hK : Kept z0 s)
    (e : rbInto i l set w hp s = some t) : Kept z0 t := by
  obtain ⟨y, -, rfl⟩ := Option.map_eq_some_iff.1 e
  exact rbMove_kept _ _ _ _ _ (evictWay_kept _ _ _ _ _ hK)

theorem rbInto_getD_kept {z0 d : State} {i : SliceNo} {l : LAddr} {set w : Nat} {hp : BitVec 4} {s : State} (hK : Kept z0 s)
    (hd : Kept z0 d) : Kept z0 ((rbInto i l set w hp s).getD d) := by
  cases e : rbInto i l set w hp s with
  | none => exact hd
  | some t => exact rbInto_kept hK e

theorem runAct_kept {z0 : State} (i : SliceNo) (a : Act) (s : State)
    (hK : Kept z0 s) : Kept z0 (runAct i a s) := by
  unfold runAct
  repeat' (first
    | with_reducible assumption
    | refine rbInto_kept (by with_reducible assumption) (by with_reducible assumption)
    | refine rbInto_getD_kept ?_ ?_
    | with_reducible apply evictWay_kept
    | with_reducible apply missInto_kept
    | with_reducible apply rbMove_kept
    | with_reducible apply rbCarry_kept
    | with_reducible apply wmbGo_kept
    | with_reducible apply ntcGo_kept
    | with_reducible apply stampPerform_kept
    | with_reducible apply placeApplied_kept
    | with_reducible apply holderGo_kept
    | with_reducible apply holder_kept
    | with_reducible apply walkEvict_kept
    | with_reducible apply cleanStep_kept
    | with_reducible apply anyAccess_kept
    | with_reducible refine Kept.ite (fun _ => ?_) (fun _ => ?_)
    | fail_if_no_progress ((with_reducible apply Kept.mk1) <;> (first | with_reducible assumption | with_reducible rfl | skip))
    | with_reducible refine Kept.each (fun _ _ _ => ?_) ?_
    | with_reducible refine Kept.foldl2 (fun _ _ _ => ?_) ?_
    | with_reducible refine Kept.foldl (fun _ _ _ => ?_) ?_
    | extract_lets
    | with_reducible refine Kept.slGood (z0 := z0) ?_ ?_
    | with_reducible apply Slice.good_slots
    | with_reducible apply Slice.putBlock_good
    | with_reducible apply Slice.putWord_good
    | with_reducible apply Slice.putPlru_good
    | with_reducible apply Slice.touchWay_good
    | with_reducible apply Slice.mendSlot_good
    | with_reducible apply Slice.mendTS_good
    | with_reducible apply Slice.hitWay_good
    | with_reducible apply Slice.dropMove_good
    | with_reducible apply Slice.outcome_good
    | with_reducible apply Slice.hintFill_good
    | with_reducible apply Slice.predFix_good
    | with_reducible apply Slice.hintSeen_good
    | with_reducible apply Slice.predAdd_good
    | with_reducible apply Slice.closeLow_good
    | with_reducible apply Slice.setLock_good
    | with_reducible apply Slice.flushPlru_good
    | with_reducible refine Slice.shAlloc_good ?_ (by with_reducible assumption)
    | with_reducible refine Slice.ensureShadow_good ?_ (by with_reducible assumption)
    | with_reducible refine Slice.demandLook_good ?_ (by with_reducible assumption)
    | fail_if_no_progress ((with_reducible apply Slice.good_mk) <;> (first | with_reducible assumption | with_reducible rfl | skip))
    | split)

theorem runBlocked_kept {z0 : State} (i : SliceNo) (n : Nat) (s : State)
    (hK : Kept z0 s) : Kept z0 (runBlocked i n s) := by
  induction n generalizing s with
  | zero => exact hK
  | succ n ih =>
    unfold runBlocked
    repeat' (first
    | with_reducible assumption
    | with_reducible apply ih
    | with_reducible apply holderGo_kept
    | with_reducible apply runAct_kept
    | with_reducible apply State.modSl_kept
    | with_reducible refine Kept.ite (fun _ => ?_) (fun _ => ?_)
    | fail_if_no_progress ((with_reducible apply Kept.mk1) <;> (first | with_reducible assumption | with_reducible rfl | skip))
    | with_reducible refine Kept.each (fun _ _ _ => ?_) ?_
    | with_reducible refine Kept.foldl2 (fun _ _ _ => ?_) ?_
    | with_reducible refine Kept.foldl (fun _ _ _ => ?_) ?_
    | extract_lets
    | with_reducible refine Kept.slGood (z0 := z0) ?_ ?_
    | with_reducible apply Slice.good_slots
    | with_reducible apply Slice.putBlock_good
    | with_reducible apply Slice.putWord_good
    | with_reducible apply Slice.putPlru_good
    | with_reducible apply Slice.touchWay_good
    | with_reducible apply Slice.mendSlot_good
    | with_reducible apply Slice.mendTS_good
    | with_reducible apply Slice.hitWay_good
    | with_reducible apply Slice.dropMove_good
    | with_reducible apply Slice.outcome_good
    | with_reducible apply Slice.hintFill_good
    | with_reducible apply Slice.predFix_good
    | with_reducible apply Slice.hintSeen_good
    | with_reducible apply Slice.predAdd_good
    | with_reducible apply Slice.closeLow_good
    | with_reducible apply Slice.setLock_good
    | with_reducible apply Slice.flushPlru_good
    | with_reducible refine Slice.shAlloc_good ?_ (by with_reducible assumption)
    | with_reducible refine Slice.ensureShadow_good ?_ (by with_reducible assumption)
    | with_reducible refine Slice.demandLook_good ?_ (by with_reducible assumption)
    | fail_if_no_progress ((with_reducible apply Slice.good_mk) <;> (first | with_reducible assumption | with_reducible rfl | skip))
    | split
    | with_reducible refine Kept.of_snd (by with_reducible assumption) ?_
    | dsimp +zetaDelta only
    | intro)

theorem rerun_kept {z0 : State} (rs : List Req) (s : State)
    (hK : Kept z0 s) : Kept z0 (rerun rs s) := by
  unfold rerun
  repeat' (first
    | with_reducible assumption
    | with_reducible apply anyAccess_kept
    | with_reducible refine Kept.ite (fun _ => ?_) (fun _ => ?_)
    | fail_if_no_progress ((with_reducible apply Kept.mk1) <;> (first | with_reducible assumption | with_reducible rfl | skip))
    | with_reducible refine Kept.each (fun _ _ _ => ?_) ?_)

theorem unfill_kept {z0 : State} (i : SliceNo) (t : STxn) (s : State)
    (hK : Kept z0 s) : Kept z0 (unfill i t s) := by
  unfold unfill
  repeat' (first
    | with_reducible assumption
    | with_reducible apply State.modSl_kept
    | with_reducible refine Kept.ite (fun _ => ?_) (fun _ => ?_)
    | fail_if_no_progress ((with_reducible apply Kept.mk1) <;> (first | with_reducible assumption | with_reducible rfl | skip))
    | with_reducible refine Kept.each (fun _ _ _ => ?_) ?_
    | with_reducible refine Kept.foldl2 (fun _ _ _ => ?_) ?_
    | with_reducible refine Kept.foldl (fun _ _ _ => ?_) ?_
    | extract_lets
    | with_reducible refine Kept.slGood (z0 := z0) ?_ ?_
    | with_reducible apply Slice.good_slots
    | with_reducible apply Slice.putBlock_good
    | with_reducible apply Slice.putWord_good
    | with_reducible apply Slice.putPlru_good
    | with_reducible apply Slice.touchWay_good
    | with_reducible apply Slice.mendSlot_good
    | with_reducible apply Slice.mendTS_good
    | with_reducible apply Slice.hitWay_good
    | with_reducible apply Slice.dropMove_good
    | with_reducible apply Slice.outcome_good
    | with_reducible apply Slice.hintFill_good
    | with_reducible apply Slice.predFix_good
    | with_reducible apply Slice.hintSeen_good
    | with_reducible apply Slice.predAdd_good
    | with_reducible apply Slice.closeLow_good
    | with_reducible apply Slice.setLock_good
    | with_reducible apply Slice.flushPlru_good
    | with_reducible refine Slice.shAlloc_good ?_ (by with_reducible assumption)
    | with_reducible refine Slice.ensureShadow_good ?_ (by with_reducible assumption)
    | with_reducible refine Slice.demandLook_good ?_ (by with_reducible assumption)
    | fail_if_no_progress ((with_reducible apply Slice.good_mk) <;> (first | with_reducible assumption | with_reducible rfl | skip))
    | split
    | with_reducible refine Kept.of_snd (by with_reducible assumption) ?_
    | dsimp +zetaDelta only
    | intro)

theorem predGrant_kept {z0 : State} (i : SliceNo) (t : STxn) (fromHome waitcmp : Bool) (s : State)
    (hK : Kept z0 s) : Kept z0 (predGrant i t fromHome waitcmp s) := by
  unfold predGrant
  repeat' (first
    | with_reducible assumption
    | with_reducible apply State.modSl_kept
    | with_reducible refine Kept.ite (fun _ => ?_) (fun _ => ?_)
    | fail_if_no_progress ((with_reducible apply Kept.mk1) <;> (first | with_reducible assumption | with_reducible rfl | skip))
    | with_reducible refine Kept.each (fun _ _ _ => ?_) ?_
    | with_reducible refine Kept.foldl2 (fun _ _ _ => ?_) ?_
    | with_reducible refine Kept.foldl (fun _ _ _ => ?_) ?_
    | extract_lets
    | with_reducible refine Kept.slGood (z0 := z0) ?_ ?_
    | with_reducible apply Slice.good_slots
    | with_reducible apply Slice.putBlock_good
    | with_reducible apply Slice.putWord_good
    | with_reducible apply Slice.putPlru_good
    | with_reducible apply Slice.touchWay_good
    | with_reducible apply Slice.mendSlot_good
    | with_reducible apply Slice.mendTS_good
    | with_reducible apply Slice.hitWay_good
    | with_reducible apply Slice.dropMove_good
    | with_reducible apply Slice.outcome_good
    | with_reducible apply Slice.hintFill_good
    | with_reducible apply Slice.predFix_good
    | with_reducible apply Slice.hintSeen_good
    | with_reducible apply Slice.predAdd_good
    | with_reducible apply Slice.closeLow_good
    | with_reducible apply Slice.setLock_good
    | with_reducible apply Slice.flushPlru_good
    | with_reducible refine Slice.shAlloc_good ?_ (by with_reducible assumption)
    | with_reducible refine Slice.ensureShadow_good ?_ (by with_reducible assumption)
    | with_reducible refine Slice.demandLook_good ?_ (by with_reducible assumption)
    | fail_if_no_progress ((with_reducible apply Slice.good_mk) <;> (first | with_reducible assumption | with_reducible rfl | skip))
    | split
    | with_reducible refine Kept.of_snd (by with_reducible assumption) ?_
    | dsimp +zetaDelta only
    | intro)

theorem serveOnce_kept {z0 : State} (rs : List Req) (d : Line) (poison : Bool) (s : State)
    (hK : Kept z0 s) : Kept z0 (serveOnce rs d poison s) := by
  unfold serveOnce
  repeat' (first
    | with_reducible assumption
    | with_reducible apply giveRead_kept
    | with_reducible apply anyAccess_kept
    | with_reducible refine Kept.ite (fun _ => ?_) (fun _ => ?_)
    | fail_if_no_progress ((with_reducible apply Kept.mk1) <;> (first | with_reducible assumption | with_reducible rfl | skip))
    | with_reducible refine Kept.each (fun _ _ _ => ?_) ?_)

theorem lockFilled_kept {z0 : State} (l : LAddr) (s : State)
    (hK : Kept z0 s) : Kept z0 (lockFilled l s) := by
  unfold lockFilled
  repeat' (first
    | with_reducible assumption
    | with_reducible refine Kept.ite (fun _ => ?_) (fun _ => ?_)
    | fail_if_no_progress ((with_reducible apply Kept.mk1) <;> (first | with_reducible assumption | with_reducible rfl | skip)))

theorem fill_kept {z0 : State} (i : SliceNo) (t : STxn) (st : LState) (d : Slot) (poison : Bool) (s : State)
    (hK : Kept z0 s) : Kept z0 (fill i t st d poison s) := by
  unfold fill
  repeat' (first
    | with_reducible assumption
    | with_reducible apply State.modSl_kept
    | with_reducible apply rowOpen_kept
    | with_reducible apply writeSlot_kept
    | with_reducible apply sendPut_kept
    | with_reducible apply modTxn_kept
    | with_reducible apply closeTxn_kept
    | with_reducible apply rerun_kept
    | with_reducible apply unfill_kept
    | with_reducible apply serveOnce_kept
    | with_reducible apply lockFilled_kept
    | with_reducible refine Kept.ite (fun _ => ?_) (fun _ => ?_)
    | fail_if_no_progress ((with_reducible apply Kept.mk1) <;> (first | with_reducible assumption | with_reducible rfl | skip))
    | with_reducible refine Kept.each (fun _ _ _ => ?_) ?_
    | with_reducible refine Kept.foldl2 (fun _ _ _ => ?_) ?_
    | with_reducible refine Kept.foldl (fun _ _ _ => ?_) ?_
    | extract_lets
    | with_reducible refine Kept.slGood (z0 := z0) ?_ ?_
    | with_reducible apply Slice.good_slots
    | with_reducible apply Slice.putBlock_good
    | with_reducible apply Slice.putWord_good
    | with_reducible apply Slice.putPlru_good
    | with_reducible apply Slice.touchWay_good
    | with_reducible apply Slice.mendSlot_good
    | with_reducible apply Slice.mendTS_good
    | with_reducible apply Slice.hitWay_good
    | with_reducible apply Slice.dropMove_good
    | with_reducible apply Slice.outcome_good
    | with_reducible apply Slice.hintFill_good
    | with_reducible apply Slice.predFix_good
    | with_reducible apply Slice.hintSeen_good
    | with_reducible apply Slice.predAdd_good
    | with_reducible apply Slice.closeLow_good
    | with_reducible apply Slice.setLock_good
    | with_reducible apply Slice.flushPlru_good
    | with_reducible refine Slice.shAlloc_good ?_ (by with_reducible assumption)
    | with_reducible refine Slice.ensureShadow_good ?_ (by with_reducible assumption)
    | with_reducible refine Slice.demandLook_good ?_ (by with_reducible assumption)
    | fail_if_no_progress ((with_reducible apply Slice.good_mk) <;> (first | with_reducible assumption | with_reducible rfl | skip))
    | split
    | with_reducible refine Kept.of_snd (by with_reducible assumption) ?_
    | dsimp +zetaDelta only
    | intro)

theorem grantIn_kept {z0 : State} (i : SliceNo) (t : STxn) (ack : Bool) (htid : BitVec 12) (s : State)
    (hK : Kept z0 s) : Kept z0 (grantIn i t ack htid s) := by
  unfold grantIn
  repeat' (first
    | with_reducible assumption
    | with_reducible apply modTxn_kept
    | with_reducible apply sendAck_kept
    | with_reducible apply fill_kept
    | with_reducible refine Kept.ite (fun _ => ?_) (fun _ => ?_))

theorem fillRetry_kept {z0 : State} (i : SliceNo) (s : State)
    (hK : Kept z0 s) : Kept z0 (fillRetry i s) := by
  unfold fillRetry
  repeat' (first
    | with_reducible assumption
    | with_reducible apply grantIn_kept
    | with_reducible refine Kept.ite (fun _ => ?_) (fun _ => ?_)
    | fail_if_no_progress ((with_reducible apply Kept.mk1) <;> (first | with_reducible assumption | with_reducible rfl | skip))
    | with_reducible refine Kept.each (fun _ _ _ => ?_) ?_)

theorem settle_kept {z0 : State} (i : SliceNo) (s : State)
    (hK : Kept z0 s) : Kept z0 (settle i s) := by
  unfold settle
  repeat' (first
    | with_reducible assumption
    | with_reducible apply rbFree_kept
    | with_reducible apply rbRetry_kept
    | with_reducible apply issueAll_kept
    | with_reducible apply applyDue_kept
    | with_reducible apply runBlocked_kept
    | with_reducible apply fillRetry_kept
    | with_reducible refine Kept.ite (fun _ => ?_) (fun _ => ?_))

theorem groupAnswer_kept {z0 : State} (i : SliceNo) (grp : Nat) (p : Port) (s : State)
    (hK : Kept z0 s) : Kept z0 (groupAnswer i grp p s) := by
  unfold groupAnswer
  repeat' (first
    | with_reducible assumption
    | with_reducible apply State.modSl_kept
    | with_reducible apply runAct_kept
    | with_reducible apply runBlocked_kept
    | with_reducible apply settle_kept
    | with_reducible refine Kept.ite (fun _ => ?_) (fun _ => ?_)
    | fail_if_no_progress ((with_reducible apply Kept.mk1) <;> (first | with_reducible assumption | with_reducible rfl | skip))
    | with_reducible refine Kept.each (fun _ _ _ => ?_) ?_
    | with_reducible refine Kept.foldl2 (fun _ _ _ => ?_) ?_
    | with_reducible refine Kept.foldl (fun _ _ _ => ?_) ?_
    | extract_lets
    | with_reducible refine Kept.slGood (z0 := z0) ?_ ?_
    | with_reducible apply Slice.good_slots
    | with_reducible apply Slice.putBlock_good
    | with_reducible apply Slice.putWord_good
    | with_reducible apply Slice.putPlru_good
    | with_reducible apply Slice.touchWay_good
    | with_reducible apply Slice.mendSlot_good
    | with_reducible apply Slice.mendTS_good
    | with_reducible apply Slice.hitWay_good
    | with_reducible apply Slice.dropMove_good
    | with_reducible apply Slice.outcome_good
    | with_reducible apply Slice.hintFill_good
    | with_reducible apply Slice.predFix_good
    | with_reducible apply Slice.hintSeen_good
    | with_reducible apply Slice.predAdd_good
    | with_reducible apply Slice.closeLow_good
    | with_reducible apply Slice.setLock_good
    | with_reducible apply Slice.flushPlru_good
    | with_reducible refine Slice.shAlloc_good ?_ (by with_reducible assumption)
    | with_reducible refine Slice.ensureShadow_good ?_ (by with_reducible assumption)
    | with_reducible refine Slice.demandLook_good ?_ (by with_reducible assumption)
    | fail_if_no_progress ((with_reducible apply Slice.good_mk) <;> (first | with_reducible assumption | with_reducible rfl | skip))
    | split
    | with_reducible refine Kept.of_snd (by with_reducible assumption) ?_
    | dsimp +zetaDelta only
    | intro)

theorem snoopEnds_kept {z0 : State} (p : Port) (n : Snp) (gone : Bool) (data : Option (Line × Bool)) (opc : BitVec 6) (s : State)
    (hK : Kept z0 s) : Kept z0 (snoopEnds p n gone data opc s) := by
  unfold snoopEnds
  repeat' (first
    | with_reducible assumption
    | with_reducible apply State.modHp_kept
    | with_reducible apply hostErr_kept
    | with_reducible apply dropHp_kept
    | with_reducible apply mergeHost_kept
    | with_reducible apply groupAnswer_kept
    | with_reducible refine Kept.ite (fun _ => ?_) (fun _ => ?_)
    | fail_if_no_progress ((with_reducible apply Kept.mk1) <;> (first | with_reducible assumption | with_reducible rfl | skip))
    | with_reducible refine Kept.each (fun _ _ _ => ?_) ?_
    | with_reducible refine Kept.foldl2 (fun _ _ _ => ?_) ?_
    | with_reducible refine Kept.foldl (fun _ _ _ => ?_) ?_
    | extract_lets
    | with_reducible refine Kept.slGood (z0 := z0) ?_ ?_
    | with_reducible apply Slice.good_slots
    | with_reducible apply Slice.putBlock_good
    | with_reducible apply Slice.putWord_good
    | with_reducible apply Slice.putPlru_good
    | with_reducible apply Slice.touchWay_good
    | with_reducible apply Slice.mendSlot_good
    | with_reducible apply Slice.mendTS_good
    | with_reducible apply Slice.hitWay_good
    | with_reducible apply Slice.dropMove_good
    | with_reducible apply Slice.outcome_good
    | with_reducible apply Slice.hintFill_good
    | with_reducible apply Slice.predFix_good
    | with_reducible apply Slice.hintSeen_good
    | with_reducible apply Slice.predAdd_good
    | with_reducible apply Slice.closeLow_good
    | with_reducible apply Slice.setLock_good
    | with_reducible apply Slice.flushPlru_good
    | with_reducible refine Slice.shAlloc_good ?_ (by with_reducible assumption)
    | with_reducible refine Slice.ensureShadow_good ?_ (by with_reducible assumption)
    | with_reducible refine Slice.demandLook_good ?_ (by with_reducible assumption)
    | fail_if_no_progress ((with_reducible apply Slice.good_mk) <;> (first | with_reducible assumption | with_reducible rfl | skip))
    | split)

theorem strayData_kept {z0 : State} (i : SliceNo) (k : BKind) (m : BMsg) (s : State)
    (hK : Kept z0 s) : Kept z0 (strayData i k m s) := by
  unfold strayData
  repeat' (first
    | with_reducible assumption
    | with_reducible apply invAckTo_kept
    | with_reducible apply protoErr_kept)

theorem pfqData_kept {z0 : State} (i : SliceNo) (t : STxn) (st : LState) (m : BMsg) (ack : Bool) (s : State)
    (hK : Kept z0 s) : Kept z0 (pfqData i t st m ack s) := by
  unfold pfqData
  repeat' (first
    | with_reducible assumption
    | with_reducible apply State.modSl_kept
    | with_reducible apply stampLost_kept
    | with_reducible apply closeTxn_kept
    | with_reducible apply dropRb_kept
    | with_reducible apply sendAck_kept
    | with_reducible apply rerun_kept
    | with_reducible apply serveOnce_kept
    | with_reducible refine Kept.ite (fun _ => ?_) (fun _ => ?_)
    | fail_if_no_progress ((with_reducible apply Kept.mk1) <;> (first | with_reducible assumption | with_reducible rfl | skip))
    | with_reducible refine Kept.each (fun _ _ _ => ?_) ?_
    | with_reducible refine Kept.foldl2 (fun _ _ _ => ?_) ?_
    | with_reducible refine Kept.foldl (fun _ _ _ => ?_) ?_
    | extract_lets
    | with_reducible refine Kept.slGood (z0 := z0) ?_ ?_
    | with_reducible apply Slice.good_slots
    | with_reducible apply Slice.putBlock_good
    | with_reducible apply Slice.putWord_good
    | with_reducible apply Slice.putPlru_good
    | with_reducible apply Slice.touchWay_good
    | with_reducible apply Slice.mendSlot_good
    | with_reducible apply Slice.mendTS_good
    | with_reducible apply Slice.hitWay_good
    | with_reducible apply Slice.dropMove_good
    | with_reducible apply Slice.outcome_good
    | with_reducible apply Slice.hintFill_good
    | with_reducible apply Slice.predFix_good
    | with_reducible apply Slice.hintSeen_good
    | with_reducible apply Slice.predAdd_good
    | with_reducible apply Slice.closeLow_good
    | with_reducible apply Slice.setLock_good
    | with_reducible apply Slice.flushPlru_good
    | with_reducible refine Slice.shAlloc_good ?_ (by with_reducible assumption)
    | with_reducible refine Slice.ensureShadow_good ?_ (by with_reducible assumption)
    | with_reducible refine Slice.demandLook_good ?_ (by with_reducible assumption)
    | fail_if_no_progress ((with_reducible apply Slice.good_mk) <;> (first | with_reducible assumption | with_reducible rfl | skip))
    | split
    | with_reducible refine Kept.of_snd (by with_reducible assumption) ?_
    | dsimp +zetaDelta only
    | intro)

theorem grantSeen_kept {z0 : State} (t : STxn) (s : State)
    (hK : Kept z0 s) : Kept z0 (grantSeen t s) := by
  unfold grantSeen
  repeat' (first
    | with_reducible assumption
    | with_reducible apply State.modHome_kept
    | with_reducible refine Kept.ite (fun _ => ?_) (fun _ => ?_))

theorem onData_kept {z0 : State} (k : BKind) (m : BMsg) (s0 : State)
    (hK : Kept z0 s0) : Kept z0 (onData k m s0) := by
  unfold onData
  repeat' (first
    | with_reducible assumption
    | with_reducible apply modTxn_kept
    | with_reducible apply closeTxn_kept
    | with_reducible apply giveRead_kept
    | with_reducible apply stampGrant_kept
    | with_reducible apply predGrant_kept
    | with_reducible apply grantIn_kept
    | with_reducible apply settle_kept
    | with_reducible apply strayData_kept
    | with_reducible apply pfqData_kept
    | with_reducible apply grantSeen_kept
    | with_reducible refine Kept.ite (fun _ => ?_) (fun _ => ?_)
    | fail_if_no_progress ((with_reducible apply Kept.mk1) <;> (first | with_reducible assumption | with_reducible rfl | skip))
    | with_reducible refine Kept.each (fun _ _ _ => ?_) ?_
    | with_reducible refine Kept.foldl2 (fun _ _ _ => ?_) ?_
    | with_reducible refine Kept.foldl (fun _ _ _ => ?_) ?_
    | extract_lets
    | with_reducible refine Kept.slGood (z0 := z0) ?_ ?_
    | with_reducible apply Slice.good_slots
    | with_reducible apply Slice.putBlock_good
    | with_reducible apply Slice.putWord_good
    | with_reducible apply Slice.putPlru_good
    | with_reducible apply Slice.touchWay_good
    | with_reducible apply Slice.mendSlot_good
    | with_reducible apply Slice.mendTS_good
    | with_reducible apply Slice.hitWay_good
    | with_reducible apply Slice.dropMove_good
    | with_reducible apply Slice.outcome_good
    | with_reducible apply Slice.hintFill_good
    | with_reducible apply Slice.predFix_good
    | with_reducible apply Slice.hintSeen_good
    | with_reducible apply Slice.predAdd_good
    | with_reducible apply Slice.closeLow_good
    | with_reducible apply Slice.setLock_good
    | with_reducible apply Slice.flushPlru_good
    | with_reducible refine Slice.shAlloc_good ?_ (by with_reducible assumption)
    | with_reducible refine Slice.ensureShadow_good ?_ (by with_reducible assumption)
    | with_reducible refine Slice.demandLook_good ?_ (by with_reducible assumption)
    | fail_if_no_progress ((with_reducible apply Slice.good_mk) <;> (first | with_reducible assumption | with_reducible rfl | skip))
    | split)

theorem endReqs_kept {z0 : State} (t : STxn) (dead : Bool) (s : State)
    (hK : Kept z0 s) : Kept z0 (endReqs t dead s) := by
  unfold endReqs
  repeat' (first
    | with_reducible assumption
    | with_reducible apply completeErr_kept
    | with_reducible apply completeDead_kept
    | with_reducible refine Kept.ite (fun _ => ?_) (fun _ => ?_)
    | fail_if_no_progress ((with_reducible apply Kept.mk1) <;> (first | with_reducible assumption | with_reducible rfl | skip))
    | with_reducible refine Kept.each (fun _ _ _ => ?_) ?_)

theorem endEntries_kept {z0 : State} (i : SliceNo) (t : STxn) (s : State)
    (hK : Kept z0 s) : Kept z0 (endEntries i t s) := by
  unfold endEntries
  repeat' (first
    | with_reducible assumption
    | with_reducible apply freeWmb_kept
    | with_reducible apply freeNtc_kept
    | with_reducible refine Kept.ite (fun _ => ?_) (fun _ => ?_)
    | fail_if_no_progress ((with_reducible apply Kept.mk1) <;> (first | with_reducible assumption | with_reducible rfl | skip))
    | with_reducible refine Kept.each (fun _ _ _ => ?_) ?_
    | with_reducible refine Kept.foldl2 (fun _ _ _ => ?_) ?_
    | with_reducible refine Kept.foldl (fun _ _ _ => ?_) ?_
    | extract_lets
    | with_reducible refine Kept.slGood (z0 := z0) ?_ ?_
    | with_reducible apply Slice.good_slots
    | with_reducible apply Slice.putBlock_good
    | with_reducible apply Slice.putWord_good
    | with_reducible apply Slice.putPlru_good
    | with_reducible apply Slice.touchWay_good
    | with_reducible apply Slice.mendSlot_good
    | with_reducible apply Slice.mendTS_good
    | with_reducible apply Slice.hitWay_good
    | with_reducible apply Slice.dropMove_good
    | with_reducible apply Slice.outcome_good
    | with_reducible apply Slice.hintFill_good
    | with_reducible apply Slice.predFix_good
    | with_reducible apply Slice.hintSeen_good
    | with_reducible apply Slice.predAdd_good
    | with_reducible apply Slice.closeLow_good
    | with_reducible apply Slice.setLock_good
    | with_reducible apply Slice.flushPlru_good
    | with_reducible refine Slice.shAlloc_good ?_ (by with_reducible assumption)
    | with_reducible refine Slice.ensureShadow_good ?_ (by with_reducible assumption)
    | with_reducible refine Slice.demandLook_good ?_ (by with_reducible assumption)
    | fail_if_no_progress ((with_reducible apply Slice.good_mk) <;> (first | with_reducible assumption | with_reducible rfl | skip))
    | split
    | with_reducible refine Kept.of_snd (by with_reducible assumption) ?_
    | dsimp +zetaDelta only)

theorem endTxn_kept {z0 : State} (i : SliceNo) (t : STxn) (s : State)
    (hK : Kept z0 s) : Kept z0 (endTxn i t s) := by
  unfold endTxn
  repeat' (first
    | with_reducible assumption
    | with_reducible apply modTxn_kept
    | with_reducible apply closeTxn_kept
    | with_reducible apply dropRb_kept
    | with_reducible apply unfill_kept
    | with_reducible apply endEntries_kept
    | with_reducible refine Kept.ite (fun _ => ?_) (fun _ => ?_))

theorem deadTxn_kept {z0 : State} (i : SliceNo) (t : STxn) (s : State)
    (hK : Kept z0 s) : Kept z0 (deadTxn i t s) := by
  unfold deadTxn
  repeat' (first
    | with_reducible assumption
    | with_reducible apply evDeadDone_kept
    | with_reducible apply rerun_kept
    | with_reducible apply endReqs_kept
    | with_reducible apply endTxn_kept
    | with_reducible refine Kept.ite (fun _ => ?_) (fun _ => ?_))

theorem upgCmp_kept {z0 : State} (i : SliceNo) (t : STxn) (m : BMsg) (s : State)
    (hK : Kept z0 s) : Kept z0 (upgCmp i t m s) := by
  unfold upgCmp
  repeat' (first
    | with_reducible assumption
    | with_reducible apply State.modSl_kept
    | with_reducible apply readSlot_kept
    | with_reducible apply writeSlot_kept
    | with_reducible apply closeTxn_kept
    | with_reducible apply sendAck_kept
    | with_reducible apply rerun_kept
    | with_reducible apply predGrant_kept
    | with_reducible apply strayData_kept
    | with_reducible refine Kept.ite (fun _ => ?_) (fun _ => ?_)
    | fail_if_no_progress ((with_reducible apply Kept.mk1) <;> (first | with_reducible assumption | with_reducible rfl | skip))
    | with_reducible refine Kept.each (fun _ _ _ => ?_) ?_
    | with_reducible refine Kept.foldl2 (fun _ _ _ => ?_) ?_
    | with_reducible refine Kept.foldl (fun _ _ _ => ?_) ?_
    | extract_lets
    | with_reducible refine Kept.slGood (z0 := z0) ?_ ?_
    | with_reducible apply Slice.good_slots
    | with_reducible apply Slice.putBlock_good
    | with_reducible apply Slice.putWord_good
    | with_reducible apply Slice.putPlru_good
    | with_reducible apply Slice.touchWay_good
    | with_reducible apply Slice.mendSlot_good
    | with_reducible apply Slice.mendTS_good
    | with_reducible apply Slice.hitWay_good
    | with_reducible apply Slice.dropMove_good
    | with_reducible apply Slice.outcome_good
    | with_reducible apply Slice.hintFill_good
    | with_reducible apply Slice.predFix_good
    | with_reducible apply Slice.hintSeen_good
    | with_reducible apply Slice.predAdd_good
    | with_reducible apply Slice.closeLow_good
    | with_reducible apply Slice.setLock_good
    | with_reducible apply Slice.flushPlru_good
    | with_reducible refine Slice.shAlloc_good ?_ (by with_reducible assumption)
    | with_reducible refine Slice.ensureShadow_good ?_ (by with_reducible assumption)
    | with_reducible refine Slice.demandLook_good ?_ (by with_reducible assumption)
    | fail_if_no_progress ((with_reducible apply Slice.good_mk) <;> (first | with_reducible assumption | with_reducible rfl | skip))
    | split
    | with_reducible refine Kept.of_snd (by with_reducible assumption) ?_
    | dsimp +zetaDelta only
    | intro)

theorem wrUCmp_kept {z0 : State} (i : SliceNo) (t : STxn) (m : BMsg) (s : State)
    (hK : Kept z0 s) : Kept z0 (wrUCmp i t m s) := by
  unfold wrUCmp
  repeat' (first
    | with_reducible assumption
    | with_reducible apply closeTxn_kept
    | with_reducible apply writeWay_kept
    | with_reducible apply sendAck_kept
    | with_reducible apply endEntries_kept
    | with_reducible refine Kept.ite (fun _ => ?_) (fun _ => ?_)
    | fail_if_no_progress ((with_reducible apply Kept.mk1) <;> (first | with_reducible assumption | with_reducible rfl | skip))
    | with_reducible refine Kept.each (fun _ _ _ => ?_) ?_
    | with_reducible refine Kept.foldl2 (fun _ _ _ => ?_) ?_
    | with_reducible refine Kept.foldl (fun _ _ _ => ?_) ?_
    | extract_lets
    | with_reducible refine Kept.slGood (z0 := z0) ?_ ?_
    | with_reducible apply Slice.good_slots
    | with_reducible apply Slice.putBlock_good
    | with_reducible apply Slice.putWord_good
    | with_reducible apply Slice.putPlru_good
    | with_reducible apply Slice.touchWay_good
    | with_reducible apply Slice.mendSlot_good
    | with_reducible apply Slice.mendTS_good
    | with_reducible apply Slice.hitWay_good
    | with_reducible apply Slice.dropMove_good
    | with_reducible apply Slice.outcome_good
    | with_reducible apply Slice.hintFill_good
    | with_reducible apply Slice.predFix_good
    | with_reducible apply Slice.hintSeen_good
    | with_reducible apply Slice.predAdd_good
    | with_reducible apply Slice.closeLow_good
    | with_reducible apply Slice.setLock_good
    | with_reducible apply Slice.flushPlru_good
    | with_reducible refine Slice.shAlloc_good ?_ (by with_reducible assumption)
    | with_reducible refine Slice.ensureShadow_good ?_ (by with_reducible assumption)
    | with_reducible refine Slice.demandLook_good ?_ (by with_reducible assumption)
    | fail_if_no_progress ((with_reducible apply Slice.good_mk) <;> (first | with_reducible assumption | with_reducible rfl | skip))
    | split)

theorem amoCmp_kept {z0 : State} (i : SliceNo) (t : STxn) (m : BMsg) (s : State)
    (hK : Kept z0 s) : Kept z0 (amoCmp i t m s) := by
  unfold amoCmp
  repeat' (first
    | with_reducible assumption
    | with_reducible apply completeData_kept
    | with_reducible apply stampCheck_kept
    | with_reducible apply closeTxn_kept
    | with_reducible apply atomErr_kept
    | with_reducible apply sendAck_kept
    | with_reducible refine Kept.ite (fun _ => ?_) (fun _ => ?_)
    | fail_if_no_progress ((with_reducible apply Kept.mk1) <;> (first | with_reducible assumption | with_reducible rfl | skip))
    | with_reducible refine Kept.each (fun _ _ _ => ?_) ?_)

theorem onCmp_kept {z0 : State} (m : BMsg) (s0 : State)
    (hK : Kept z0 s0) : Kept z0 (onCmp m s0) := by
  unfold onCmp
  repeat' (first
    | with_reducible assumption
    | with_reducible apply sendAck_kept
    | with_reducible apply stampGrant_kept
    | with_reducible apply rerun_kept
    | with_reducible apply grantIn_kept
    | with_reducible apply settle_kept
    | with_reducible apply strayData_kept
    | with_reducible apply grantSeen_kept
    | with_reducible apply endReqs_kept
    | with_reducible apply endTxn_kept
    | with_reducible apply upgCmp_kept
    | with_reducible apply wrUCmp_kept
    | with_reducible apply amoCmp_kept
    | with_reducible refine Kept.ite (fun _ => ?_) (fun _ => ?_)
    | fail_if_no_progress ((with_reducible apply Kept.mk1) <;> (first | with_reducible assumption | with_reducible rfl | skip))
    | with_reducible refine Kept.each (fun _ _ _ => ?_) ?_
    | with_reducible refine Kept.foldl2 (fun _ _ _ => ?_) ?_
    | with_reducible refine Kept.foldl (fun _ _ _ => ?_) ?_
    | extract_lets
    | with_reducible refine Kept.slGood (z0 := z0) ?_ ?_
    | with_reducible apply Slice.good_slots
    | with_reducible apply Slice.putBlock_good
    | with_reducible apply Slice.putWord_good
    | with_reducible apply Slice.putPlru_good
    | with_reducible apply Slice.touchWay_good
    | with_reducible apply Slice.mendSlot_good
    | with_reducible apply Slice.mendTS_good
    | with_reducible apply Slice.hitWay_good
    | with_reducible apply Slice.dropMove_good
    | with_reducible apply Slice.outcome_good
    | with_reducible apply Slice.hintFill_good
    | with_reducible apply Slice.predFix_good
    | with_reducible apply Slice.hintSeen_good
    | with_reducible apply Slice.predAdd_good
    | with_reducible apply Slice.closeLow_good
    | with_reducible apply Slice.setLock_good
    | with_reducible apply Slice.flushPlru_good
    | with_reducible refine Slice.shAlloc_good ?_ (by with_reducible assumption)
    | with_reducible refine Slice.ensureShadow_good ?_ (by with_reducible assumption)
    | with_reducible refine Slice.demandLook_good ?_ (by with_reducible assumption)
    | fail_if_no_progress ((with_reducible apply Slice.good_mk) <;> (first | with_reducible assumption | with_reducible rfl | skip))
    | split)

theorem resend_kept {z0 : State} (i : SliceNo) (t : STxn) (s : State)
    (hK : Kept z0 s) : Kept z0 (resend i t s) := by
  unfold resend
  repeat' (first
    | with_reducible assumption
    | with_reducible apply sendMsg_kept
    | with_reducible apply useFar_kept
    | with_reducible apply modTxn_kept
    | with_reducible apply settle_kept
    | with_reducible apply deadTxn_kept
    | with_reducible refine Kept.ite (fun _ => ?_) (fun _ => ?_))

theorem rtabSet_kept {z0 : State} (m : Member) (r : BitVec 10) (gen : BitVec 8) (home : Member) (u : List (BitVec 8 × Member)) (s : State)
    (hK : Kept z0 s) : Kept z0 (rtabSet m r gen home u s) := by
  unfold rtabSet
  repeat' (first
    | with_reducible assumption
    | with_reducible apply State.modHome_kept)

theorem endMoving_kept {z0 : State} (m : Member) (r : BitVec 10) (s : State)
    (hK : Kept z0 s) : Kept z0 (endMoving m r s) := by
  unfold endMoving
  repeat' (first
    | with_reducible assumption
    | with_reducible apply State.modHome_kept)

theorem setMoving_kept {z0 : State} (m : Member) (r : BitVec 10) (gen : BitVec 8) (old : Member) (s : State)
    (hK : Kept z0 s) : Kept z0 (setMoving m r gen old s) := by
  unfold setMoving
  repeat' (first
    | with_reducible assumption
    | with_reducible apply State.modHome_kept)

theorem learnMoved_kept {z0 : State} (l : LAddr) (src home : Member) (gen : BitVec 8) (s : State)
    (hK : Kept z0 s) : Kept z0 (learnMoved l src home gen s) := by
  unfold learnMoved
  repeat' (first
    | with_reducible assumption
    | with_reducible apply State.modHome_kept
    | with_reducible apply rtabSet_kept
    | with_reducible apply endMoving_kept
    | with_reducible apply setMoving_kept
    | with_reducible refine Kept.ite (fun _ => ?_) (fun _ => ?_))

theorem onNack_kept {z0 : State} (m : BMsg) (s : State)
    (hK : Kept z0 s) : Kept z0 (onNack m s) := by
  unfold onNack
  repeat' (first
    | with_reducible assumption
    | with_reducible apply State.modSl_kept
    | with_reducible apply modTxn_kept
    | with_reducible apply rerun_kept
    | with_reducible apply settle_kept
    | with_reducible apply strayData_kept
    | with_reducible apply endTxn_kept
    | with_reducible apply deadTxn_kept
    | with_reducible apply resend_kept
    | with_reducible apply learnMoved_kept
    | with_reducible refine Kept.ite (fun _ => ?_) (fun _ => ?_)
    | fail_if_no_progress ((with_reducible apply Kept.mk1) <;> (first | with_reducible assumption | with_reducible rfl | skip))
    | with_reducible refine Kept.each (fun _ _ _ => ?_) ?_
    | with_reducible refine Kept.foldl2 (fun _ _ _ => ?_) ?_
    | with_reducible refine Kept.foldl (fun _ _ _ => ?_) ?_
    | extract_lets
    | with_reducible refine Kept.slGood (z0 := z0) ?_ ?_
    | with_reducible apply Slice.good_slots
    | with_reducible apply Slice.putBlock_good
    | with_reducible apply Slice.putWord_good
    | with_reducible apply Slice.putPlru_good
    | with_reducible apply Slice.touchWay_good
    | with_reducible apply Slice.mendSlot_good
    | with_reducible apply Slice.mendTS_good
    | with_reducible apply Slice.hitWay_good
    | with_reducible apply Slice.dropMove_good
    | with_reducible apply Slice.outcome_good
    | with_reducible apply Slice.hintFill_good
    | with_reducible apply Slice.predFix_good
    | with_reducible apply Slice.hintSeen_good
    | with_reducible apply Slice.predAdd_good
    | with_reducible apply Slice.closeLow_good
    | with_reducible apply Slice.setLock_good
    | with_reducible apply Slice.flushPlru_good
    | with_reducible refine Slice.shAlloc_good ?_ (by with_reducible assumption)
    | with_reducible refine Slice.ensureShadow_good ?_ (by with_reducible assumption)
    | with_reducible refine Slice.demandLook_good ?_ (by with_reducible assumption)
    | fail_if_no_progress ((with_reducible apply Slice.good_mk) <;> (first | with_reducible assumption | with_reducible rfl | skip))
    | split
    | with_reducible refine Kept.of_snd (by with_reducible assumption) ?_
    | dsimp +zetaDelta only
    | intro)

theorem onWback_kept {z0 : State} (m : BMsg) (s : State)
    (hK : Kept z0 s) : Kept z0 (onWback m s) := by
  unfold onWback
  repeat' (first
    | with_reducible assumption
    | with_reducible apply State.modHp_kept
    | with_reducible apply State.setSl_kept
    | with_reducible apply settle_kept
    | with_reducible refine Kept.ite (fun _ => ?_) (fun _ => ?_)
    | fail_if_no_progress ((with_reducible apply Kept.mk1) <;> (first | with_reducible assumption | with_reducible rfl | skip))
    | with_reducible refine Kept.each (fun _ _ _ => ?_) ?_
    | with_reducible refine Kept.foldl2 (fun _ _ _ => ?_) ?_
    | with_reducible refine Kept.foldl (fun _ _ _ => ?_) ?_
    | extract_lets
    | with_reducible refine Kept.slGood (z0 := z0) ?_ ?_
    | with_reducible apply Slice.good_slots
    | with_reducible apply Slice.putBlock_good
    | with_reducible apply Slice.putWord_good
    | with_reducible apply Slice.putPlru_good
    | with_reducible apply Slice.touchWay_good
    | with_reducible apply Slice.mendSlot_good
    | with_reducible apply Slice.mendTS_good
    | with_reducible apply Slice.hitWay_good
    | with_reducible apply Slice.dropMove_good
    | with_reducible apply Slice.outcome_good
    | with_reducible apply Slice.hintFill_good
    | with_reducible apply Slice.predFix_good
    | with_reducible apply Slice.hintSeen_good
    | with_reducible apply Slice.predAdd_good
    | with_reducible apply Slice.closeLow_good
    | with_reducible apply Slice.setLock_good
    | with_reducible apply Slice.flushPlru_good
    | with_reducible refine Slice.shAlloc_good ?_ (by with_reducible assumption)
    | with_reducible refine Slice.ensureShadow_good ?_ (by with_reducible assumption)
    | with_reducible refine Slice.demandLook_good ?_ (by with_reducible assumption)
    | fail_if_no_progress ((with_reducible apply Slice.good_mk) <;> (first | with_reducible assumption | with_reducible rfl | skip))
    | split
    | with_reducible refine Kept.of_snd (by with_reducible assumption) ?_
    | dsimp +zetaDelta only
    | intro)

end Sys2Proof.Machine
end

