-- ==== Sys2Proof/Laws/KeptPorts.lean ====
section
/-! SUPPORT. `Kept` of the functions of the host ports: one lemma per function. -/

set_option linter.unusedVariables false
set_option linter.unusedTactic false
set_option linter.unreachableTactic false

namespace Sys2Proof.Machine

theorem charge_kept {z0 : State} (p : Port) (l : LAddr) (s : State)
    (hK : Kept z0 s) : Kept z0 (charge p l s) := by
  unfold charge
  repeat' (first
    | with_reducible assumption
    | with_reducible apply State.modHp_kept)

theorem refuse_kept {z0 : State} (r : Req) (byContract : Bool) (s : State)
    (hK : Kept z0 s) : Kept z0 (refuse r byContract s) := by
  unfold refuse
  repeat' (first
    | with_reducible assumption
    | with_reducible apply State.modHp_kept
    | with_reducible apply pmu_kept
    | with_reducible apply retireReq_kept
    | with_reducible apply answer_kept
    | with_reducible refine Kept.ite (fun _ => ?_) (fun _ => ?_))

theorem stride_kept {z0 : State} (r : Req) (s : State)
    (hK : Kept z0 s) : Kept z0 (stride r s) := by
  unfold stride
  repeat' (first
    | with_reducible assumption
    | with_reducible apply State.setHp_kept
    | with_reducible apply prefetch_kept
    | with_reducible apply arbPass_kept
    | with_reducible refine Kept.ite (fun _ => ?_) (fun _ => ?_)
    | fail_if_no_progress ((with_reducible apply Kept.mk1) <;> (first | with_reducible assumption | with_reducible rfl | skip))
    | with_reducible refine Kept.each (fun _ _ _ => ?_) ?_)

theorem noteAcc_kept {z0 : State} (s0 : State) (r : Req) (s : State)
    (hK : Kept z0 s) : Kept z0 (noteAcc s0 r s) := by
  unfold noteAcc
  repeat' (first
    | with_reducible assumption
    | with_reducible apply State.modHp_kept)

theorem acceptRsv_kept {z0 : State} (r : Req) (s : State)
    (hK : Kept z0 s) : Kept z0 (acceptRsv r s) := by
  unfold acceptRsv
  repeat' (first
    | with_reducible assumption
    | with_reducible apply clearRsv_kept
    | with_reducible refine Kept.ite (fun _ => ?_) (fun _ => ?_)
    | fail_if_no_progress ((with_reducible apply Kept.mk1) <;> (first | with_reducible assumption | with_reducible rfl | skip))
    | with_reducible refine Kept.each (fun _ _ _ => ?_) ?_
    | with_reducible refine Kept.foldl2 (fun _ _ _ => ?_) ?_
    | with_reducible refine Kept.foldl (fun _ _ _ => ?_) ?_
    | extract_lets
    | with_reducible refine Kept.slGood (z0 := z0) ?_ ?_
    | with_reducible apply Slice.good_slots
    | with_reducible apply Slice.putBlock_good
    | with_reducible apply Slice.putWord_good
    | with_reducible apply Slice.putPlru_good
    | with_reducible apply Slice.touchWay_good
    | with_reducible apply Slice.mendSlot_good
    | with_reducible apply Slice.mendTS_good
    | with_reducible apply Slice.hitWay_good
    | with_reducible apply Slice.dropMove_good
    | with_reducible apply Slice.outcome_good
    | with_reducible apply Slice.hintFill_good
    | with_reducible apply Slice.predFix_good
    | with_reducible apply Slice.hintSeen_good
    | with_reducible apply Slice.predAdd_good
    | with_reducible apply Slice.closeLow_good
    | with_reducible apply Slice.setLock_good
    | with_reducible apply Slice.flushPlru_good
    | with_reducible refine Slice.shAlloc_good ?_ (by with_reducible assumption)
    | with_reducible refine Slice.ensureShadow_good ?_ (by with_reducible assumption)
    | with_reducible refine Slice.demandLook_good ?_ (by with_reducible assumption)
    | fail_if_no_progress ((with_reducible apply Slice.good_mk) <;> (first | with_reducible assumption | with_reducible rfl | skip))
    | split)

theorem closeOwn_kept {z0 : State} (r : Req) (s : State)
    (hK : Kept z0 s) : Kept z0 (closeOwn r s) := by
  unfold closeOwn
  repeat' (first
    | with_reducible assumption
    | with_reducible apply closeEntries_kept)

theorem passOf_kept {z0 : State} (r : Req) (s : State)
    (hK : Kept z0 s) : Kept z0 (passOf r s) := by
  unfold passOf
  repeat' (first
    | with_reducible assumption
    | with_reducible apply arbPass_kept
    | with_reducible refine Kept.ite (fun _ => ?_) (fun _ => ?_))

theorem enter_kept {z0 : State} (r : Req) (s : State)
    (hK : Kept z0 s) : Kept z0 (enter r s) := by
  unfold enter
  repeat' (first
    | with_reducible assumption
    | with_reducible apply State.modHp_kept
    | with_reducible apply issueAll_kept
    | with_reducible apply anyAccess_kept
    | with_reducible apply acceptRsv_kept
    | with_reducible apply closeOwn_kept
    | with_reducible apply passOf_kept
    | with_reducible refine Kept.ite (fun _ => ?_) (fun _ => ?_))

theorem accept_kept {z0 : State} (r : Req) (bound : Bool) (s : State)
    (hK : Kept z0 s) : Kept z0 (accept r bound s) := by
  unfold accept
  repeat' (first
    | with_reducible assumption
    | with_reducible apply policyFix_kept
    | with_reducible apply retireReq_kept
    | with_reducible apply complete_kept
    | with_reducible apply atomErr_kept
    | with_reducible apply charge_kept
    | with_reducible apply stride_kept
    | with_reducible apply noteAcc_kept
    | with_reducible apply enter_kept
    | with_reducible refine Kept.ite (fun _ => ?_) (fun _ => ?_)
    | fail_if_no_progress ((with_reducible apply Kept.mk1) <;> (first | with_reducible assumption | with_reducible rfl | skip))
    | with_reducible refine Kept.each (fun _ _ _ => ?_) ?_
    | with_reducible refine Kept.foldl2 (fun _ _ _ => ?_) ?_
    | with_reducible refine Kept.foldl (fun _ _ _ => ?_) ?_
    | extract_lets
    | with_reducible refine Kept.slGood (z0 := z0) ?_ ?_
    | with_reducible apply Slice.good_slots
    | with_reducible apply Slice.putBlock_good
    | with_reducible apply Slice.putWord_good
    | with_reducible apply Slice.putPlru_good
    | with_reducible apply Slice.touchWay_good
    | with_reducible apply Slice.mendSlot_good
    | with_reducible apply Slice.mendTS_good
    | with_reducible apply Slice.hitWay_good
    | with_reducible apply Slice.dropMove_good
    | with_reducible apply Slice.outcome_good
    | with_reducible apply Slice.hintFill_good
    | with_reducible apply Slice.predFix_good
    | with_reducible apply Slice.hintSeen_good
    | with_reducible apply Slice.predAdd_good
    | with_reducible apply Slice.closeLow_good
    | with_reducible apply Slice.setLock_good
    | with_reducible apply Slice.flushPlru_good
    | with_reducible refine Slice.shAlloc_good ?_ (by with_reducible assumption)
    | with_reducible refine Slice.ensureShadow_good ?_ (by with_reducible assumption)
    | with_reducible refine Slice.demandLook_good ?_ (by with_reducible assumption)
    | fail_if_no_progress ((with_reducible apply Slice.good_mk) <;> (first | with_reducible assumption | with_reducible rfl | skip))
    | split)

theorem admitReq_kept {z0 : State} (r : Req) (s : State)
    (hK : Kept z0 s) : Kept z0 (admitReq r s) := by
  unfold admitReq
  repeat' (first
    | with_reducible assumption
    | with_reducible apply State.modHp_kept
    | with_reducible apply pmu_kept
    | with_reducible apply refuse_kept
    | with_reducible apply accept_kept
    | with_reducible refine Kept.ite (fun _ => ?_) (fun _ => ?_)
    | fail_if_no_progress ((with_reducible apply Kept.mk1) <;> (first | with_reducible assumption | with_reducible rfl | skip))
    | with_reducible refine Kept.each (fun _ _ _ => ?_) ?_
    | with_reducible refine Kept.foldl2 (fun _ _ _ => ?_) ?_
    | with_reducible refine Kept.foldl (fun _ _ _ => ?_) ?_
    | extract_lets
    | with_reducible refine Kept.slGood (z0 := z0) ?_ ?_
    | with_reducible apply Slice.good_slots
    | with_reducible apply Slice.putBlock_good
    | with_reducible apply Slice.putWord_good
    | with_reducible apply Slice.putPlru_good
    | with_reducible apply Slice.touchWay_good
    | with_reducible apply Slice.mendSlot_good
    | with_reducible apply Slice.mendTS_good
    | with_reducible apply Slice.hitWay_good
    | with_reducible apply Slice.dropMove_good
    | with_reducible apply Slice.outcome_good
    | with_reducible apply Slice.hintFill_good
    | with_reducible apply Slice.predFix_good
    | with_reducible apply Slice.hintSeen_good
    | with_reducible apply Slice.predAdd_good
    | with_reducible apply Slice.closeLow_good
    | with_reducible apply Slice.setLock_good
    | with_reducible apply Slice.flushPlru_good
    | with_reducible refine Slice.shAlloc_good ?_ (by with_reducible assumption)
    | with_reducible refine Slice.ensureShadow_good ?_ (by with_reducible assumption)
    | with_reducible refine Slice.demandLook_good ?_ (by with_reducible assumption)
    | fail_if_no_progress ((with_reducible apply Slice.good_mk) <;> (first | with_reducible assumption | with_reducible rfl | skip))
    | split)

theorem breach_kept {z0 : State} (p : Port) (s : State)
    (hK : Kept z0 s) : Kept z0 (breach p s) := by
  unfold breach
  repeat' (first
    | with_reducible assumption
    | with_reducible apply evStampStall_kept
    | with_reducible apply stampLost_kept
    | with_reducible refine Kept.ite (fun _ => ?_) (fun _ => ?_)
    | fail_if_no_progress ((with_reducible apply Kept.mk1) <;> (first | with_reducible assumption | with_reducible rfl | skip)))

theorem gives_kept {z0 : State} (m : EMsg) (s : State)
    (hK : Kept z0 s) : Kept z0 (gives m s) := by
  unfold gives
  repeat' (first
    | with_reducible assumption
    | with_reducible apply State.modHp_kept
    | with_reducible refine Kept.ite (fun _ => ?_) (fun _ => ?_))

theorem undecoded_kept {z0 : State} (r : Req) (s : State)
    (hK : Kept z0 s) : Kept z0 (undecoded r s) := by
  unfold undecoded
  repeat' (first
    | with_reducible assumption
    | with_reducible apply evAddrErr_kept
    | with_reducible apply completeErr_kept)

theorem arrive_kept {z0 : State} (r0 : Req) (s : State)
    (hK : Kept z0 s) : Kept z0 (arrive r0 s) := by
  unfold arrive
  repeat' (first
    | with_reducible assumption
    | with_reducible apply State.modHp_kept
    | with_reducible apply complete_kept
    | with_reducible apply completeStop_kept
    | with_reducible apply noteAcc_kept
    | with_reducible apply admitReq_kept
    | with_reducible apply breach_kept
    | with_reducible apply undecoded_kept
    | with_reducible refine Kept.ite (fun _ => ?_) (fun _ => ?_)
    | fail_if_no_progress ((with_reducible apply Kept.mk1) <;> (first | with_reducible assumption | with_reducible rfl | skip))
    | with_reducible refine Kept.each (fun _ _ _ => ?_) ?_
    | with_reducible refine Kept.foldl2 (fun _ _ _ => ?_) ?_
    | with_reducible refine Kept.foldl (fun _ _ _ => ?_) ?_
    | extract_lets
    | with_reducible refine Kept.slGood (z0 := z0) ?_ ?_
    | with_reducible apply Slice.good_slots
    | with_reducible apply Slice.putBlock_good
    | with_reducible apply Slice.putWord_good
    | with_reducible apply Slice.putPlru_good
    | with_reducible apply Slice.touchWay_good
    | with_reducible apply Slice.mendSlot_good
    | with_reducible apply Slice.mendTS_good
    | with_reducible apply Slice.hitWay_good
    | with_reducible apply Slice.dropMove_good
    | with_reducible apply Slice.outcome_good
    | with_reducible apply Slice.hintFill_good
    | with_reducible apply Slice.predFix_good
    | with_reducible apply Slice.hintSeen_good
    | with_reducible apply Slice.predAdd_good
    | with_reducible apply Slice.closeLow_good
    | with_reducible apply Slice.setLock_good
    | with_reducible apply Slice.flushPlru_good
    | with_reducible refine Slice.shAlloc_good ?_ (by with_reducible assumption)
    | with_reducible refine Slice.ensureShadow_good ?_ (by with_reducible assumption)
    | with_reducible refine Slice.demandLook_good ?_ (by with_reducible assumption)
    | fail_if_no_progress ((with_reducible apply Slice.good_mk) <;> (first | with_reducible assumption | with_reducible rfl | skip))
    | split)

theorem barrier_kept {z0 : State} (m : EMsg) (s : State)
    (hK : Kept z0 s) : Kept z0 (barrier m s) := by
  unfold barrier
  repeat' (first
    | with_reducible assumption
    | with_reducible apply State.modHp_kept
    | with_reducible apply dropBars_kept
    | with_reducible apply issueEvery_kept
    | with_reducible apply closeEntries_kept
    | with_reducible apply hit_kept
    | with_reducible refine Kept.ite (fun _ => ?_) (fun _ => ?_)
    | fail_if_no_progress ((with_reducible apply Kept.mk1) <;> (first | with_reducible assumption | with_reducible rfl | skip)))

theorem barDone_kept {z0 : State} (p : Port) (etag : BitVec 12) (s : State)
    (hK : Kept z0 s) : Kept z0 (barDone p etag s) := by
  unfold barDone
  repeat' (first
    | with_reducible assumption
    | with_reducible apply endBar_kept
    | with_reducible refine Kept.ite (fun _ => ?_) (fun _ => ?_)
    | fail_if_no_progress ((with_reducible apply Kept.mk1) <;> (first | with_reducible assumption | with_reducible rfl | skip))
    | with_reducible refine Kept.each (fun _ _ _ => ?_) ?_
    | with_reducible refine Kept.foldl2 (fun _ _ _ => ?_) ?_
    | with_reducible refine Kept.foldl (fun _ _ _ => ?_) ?_
    | extract_lets
    | with_reducible refine Kept.slGood (z0 := z0) ?_ ?_
    | with_reducible apply Slice.good_slots
    | with_reducible apply Slice.putBlock_good
    | with_reducible apply Slice.putWord_good
    | with_reducible apply Slice.putPlru_good
    | with_reducible apply Slice.touchWay_good
    | with_reducible apply Slice.mendSlot_good
    | with_reducible apply Slice.mendTS_good
    | with_reducible apply Slice.hitWay_good
    | with_reducible apply Slice.dropMove_good
    | with_reducible apply Slice.outcome_good
    | with_reducible apply Slice.hintFill_good
    | with_reducible apply Slice.predFix_good
    | with_reducible apply Slice.hintSeen_good
    | with_reducible apply Slice.predAdd_good
    | with_reducible apply Slice.closeLow_good
    | with_reducible apply Slice.setLock_good
    | with_reducible apply Slice.flushPlru_good
    | with_reducible refine Slice.shAlloc_good ?_ (by with_reducible assumption)
    | with_reducible refine Slice.ensureShadow_good ?_ (by with_reducible assumption)
    | with_reducible refine Slice.demandLook_good ?_ (by with_reducible assumption)
    | fail_if_no_progress ((with_reducible apply Slice.good_mk) <;> (first | with_reducible assumption | with_reducible rfl | skip))
    | split)

theorem hostWb_kept {z0 : State} (p : Port) (l : LAddr) (d : Line) (poison keep : Bool) (s : State)
    (hK : Kept z0 s) : Kept z0 (hostWb p l d poison keep s) := by
  unfold hostWb
  repeat' (first
    | with_reducible assumption
    | with_reducible apply State.modSl_kept
    | with_reducible apply dropHp_kept
    | with_reducible apply mergeHost_kept
    | with_reducible apply lookEntry_kept
    | with_reducible refine Kept.ite (fun _ => ?_) (fun _ => ?_)
    | fail_if_no_progress ((with_reducible apply Kept.mk1) <;> (first | with_reducible assumption | with_reducible rfl | skip))
    | with_reducible refine Kept.each (fun _ _ _ => ?_) ?_
    | with_reducible refine Kept.foldl2 (fun _ _ _ => ?_) ?_
    | with_reducible refine Kept.foldl (fun _ _ _ => ?_) ?_
    | extract_lets
    | with_reducible refine Kept.slGood (z0 := z0) ?_ ?_
    | with_reducible apply Slice.good_slots
    | with_reducible apply Slice.putBlock_good
    | with_reducible apply Slice.putWord_good
    | with_reducible apply Slice.putPlru_good
    | with_reducible apply Slice.touchWay_good
    | with_reducible apply Slice.mendSlot_good
    | with_reducible apply Slice.mendTS_good
    | with_reducible apply Slice.hitWay_good
    | with_reducible apply Slice.dropMove_good
    | with_reducible apply Slice.outcome_good
    | with_reducible apply Slice.hintFill_good
    | with_reducible apply Slice.predFix_good
    | with_reducible apply Slice.hintSeen_good
    | with_reducible apply Slice.predAdd_good
    | with_reducible apply Slice.closeLow_good
    | with_reducible apply Slice.setLock_good
    | with_reducible apply Slice.flushPlru_good
    | with_reducible refine Slice.shAlloc_good ?_ (by with_reducible assumption)
    | with_reducible refine Slice.ensureShadow_good ?_ (by with_reducible assumption)
    | with_reducible refine Slice.demandLook_good ?_ (by with_reducible assumption)
    | fail_if_no_progress ((with_reducible apply Slice.good_mk) <;> (first | with_reducible assumption | with_reducible rfl | skip))
    | split
    | with_reducible refine Kept.of_snd (by with_reducible assumption) ?_
    | dsimp +zetaDelta only
    | intro)

theorem evictNotice_kept {z0 : State} (p : Port) (l : LAddr) (s : State)
    (hK : Kept z0 s) : Kept z0 (evictNotice p l s) := by
  unfold evictNotice
  repeat' (first
    | with_reducible assumption
    | with_reducible apply dropHp_kept
    | with_reducible refine Kept.ite (fun _ => ?_) (fun _ => ?_))

theorem resume_kept {z0 : State} (w : WaitRef) (s : State)
    (hK : Kept z0 s) : Kept z0 (resume w s) := by
  unfold resume
  repeat' (first
    | with_reducible assumption
    | with_reducible apply State.modHp_kept
    | with_reducible apply State.modSl_kept
    | with_reducible apply anyAccess_kept
    | with_reducible apply settle_kept
    | with_reducible apply passOf_kept
    | with_reducible apply admitReq_kept
    | with_reducible refine Kept.ite (fun _ => ?_) (fun _ => ?_)
    | fail_if_no_progress ((with_reducible apply Kept.mk1) <;> (first | with_reducible assumption | with_reducible rfl | skip))
    | with_reducible refine Kept.each (fun _ _ _ => ?_) ?_
    | with_reducible refine Kept.foldl2 (fun _ _ _ => ?_) ?_
    | with_reducible refine Kept.foldl (fun _ _ _ => ?_) ?_
    | extract_lets
    | with_reducible refine Kept.slGood (z0 := z0) ?_ ?_
    | with_reducible apply Slice.good_slots
    | with_reducible apply Slice.putBlock_good
    | with_reducible apply Slice.putWord_good
    | with_reducible apply Slice.putPlru_good
    | with_reducible apply Slice.touchWay_good
    | with_reducible apply Slice.mendSlot_good
    | with_reducible apply Slice.mendTS_good
    | with_reducible apply Slice.hitWay_good
    | with_reducible apply Slice.dropMove_good
    | with_reducible apply Slice.outcome_good
    | with_reducible apply Slice.hintFill_good
    | with_reducible apply Slice.predFix_good
    | with_reducible apply Slice.hintSeen_good
    | with_reducible apply Slice.predAdd_good
    | with_reducible apply Slice.closeLow_good
    | with_reducible apply Slice.setLock_good
    | with_reducible apply Slice.flushPlru_good
    | with_reducible refine Slice.shAlloc_good ?_ (by with_reducible assumption)
    | with_reducible refine Slice.ensureShadow_good ?_ (by with_reducible assumption)
    | with_reducible refine Slice.demandLook_good ?_ (by with_reducible assumption)
    | fail_if_no_progress ((with_reducible apply Slice.good_mk) <;> (first | with_reducible assumption | with_reducible rfl | skip))
    | split
    | with_reducible refine Kept.of_snd (by with_reducible assumption) ?_
    | dsimp +zetaDelta only
    | intro)

theorem ctrLost_kept {z0 : State} (p : Port) (s : State)
    (hK : Kept z0 s) : Kept z0 (ctrLost p s) := by
  unfold ctrLost
  repeat' (first
    | with_reducible assumption
    | with_reducible apply State.modHp_kept
    | with_reducible apply postEvent_kept
    | with_reducible apply postNotice_kept
    | with_reducible refine Kept.ite (fun _ => ?_) (fun _ => ?_))

theorem masterGone_kept {z0 : State} (m : Master) (s : State)
    (hK : Kept z0 s) : Kept z0 (masterGone m s) := by
  unfold masterGone
  repeat' (first
    | with_reducible assumption
    | with_reducible refine Kept.ite (fun _ => ?_) (fun _ => ?_)
    | fail_if_no_progress ((with_reducible apply Kept.mk1) <;> (first | with_reducible assumption | with_reducible rfl | skip)))

theorem quarEnds_kept {z0 : State} (p : Port) (s : State)
    (hK : Kept z0 s) : Kept z0 (quarEnds p s) := by
  unfold quarEnds
  repeat' (first
    | with_reducible assumption
    | with_reducible apply State.modHp_kept
    | with_reducible apply State.modMb_kept)

theorem discardReq_kept {z0 : State} (s : State) (r : Req)
    (hK : Kept z0 s) : Kept z0 (discardReq s r) := by
  unfold discardReq
  repeat' (first
    | with_reducible assumption
    | with_reducible apply State.setHp_kept
    | with_reducible apply State.modHp_kept
    | with_reducible apply retireReq_kept
    | with_reducible refine Kept.ite (fun _ => ?_) (fun _ => ?_))

theorem dropMoves_kept {z0 : State} (p : Port) (s : State)
    (hK : Kept z0 s) : Kept z0 (dropMoves p s) := by
  unfold dropMoves
  repeat' (first
    | with_reducible assumption
    | with_reducible apply State.modSl_kept
    | with_reducible apply evPoisoned_kept
    | with_reducible refine Kept.ite (fun _ => ?_) (fun _ => ?_)
    | fail_if_no_progress ((with_reducible apply Kept.mk1) <;> (first | with_reducible assumption | with_reducible rfl | skip))
    | with_reducible refine Kept.each (fun _ _ _ => ?_) ?_
    | with_reducible refine Kept.foldl2 (fun _ _ _ => ?_) ?_
    | with_reducible refine Kept.foldl (fun _ _ _ => ?_) ?_
    | extract_lets
    | with_reducible refine Kept.slGood (z0 := z0) ?_ ?_
    | with_reducible apply Slice.good_slots
    | with_reducible apply Slice.putBlock_good
    | with_reducible apply Slice.putWord_good
    | with_reducible apply Slice.putPlru_good
    | with_reducible apply Slice.touchWay_good
    | with_reducible apply Slice.mendSlot_good
    | with_reducible apply Slice.mendTS_good
    | with_reducible apply Slice.hitWay_good
    | with_reducible apply Slice.dropMove_good
    | with_reducible apply Slice.outcome_good
    | with_reducible apply Slice.hintFill_good
    | with_reducible apply Slice.predFix_good
    | with_reducible apply Slice.hintSeen_good
    | with_reducible apply Slice.predAdd_good
    | with_reducible apply Slice.closeLow_good
    | with_reducible apply Slice.setLock_good
    | with_reducible apply Slice.flushPlru_good
    | with_reducible refine Slice.shAlloc_good ?_ (by with_reducible assumption)
    | with_reducible refine Slice.ensureShadow_good ?_ (by with_reducible assumption)
    | with_reducible refine Slice.demandLook_good ?_ (by with_reducible assumption)
    | fail_if_no_progress ((with_reducible apply Slice.good_mk) <;> (first | with_reducible assumption | with_reducible rfl | skip))
    | split
    | with_reducible refine Kept.of_snd (by with_reducible assumption) ?_
    | dsimp +zetaDelta only
    | intro)

theorem portDown_kept {z0 : State} (p : Port) (s : State)
    (hK : Kept z0 s) : Kept z0 (portDown p s) := by
  unfold portDown
  repeat' (first
    | with_reducible assumption
    | with_reducible apply State.setHp_kept
    | with_reducible apply State.modHp_kept
    | with_reducible apply msixCheck_kept
    | with_reducible apply peatEnter_kept
    | with_reducible apply postEvent_kept
    | with_reducible apply stampLost_kept
    | with_reducible apply dropHp_kept
    | with_reducible apply poisonLine_kept
    | with_reducible apply issueEvery_kept
    | with_reducible apply closeEntries_kept
    | with_reducible apply groupAnswer_kept
    | with_reducible apply ctrLost_kept
    | with_reducible apply masterGone_kept
    | with_reducible apply quarEnds_kept
    | with_reducible apply discardReq_kept
    | with_reducible apply dropMoves_kept
    | with_reducible refine Kept.ite (fun _ => ?_) (fun _ => ?_)
    | fail_if_no_progress ((with_reducible apply Kept.mk1) <;> (first | with_reducible assumption | with_reducible rfl | skip))
    | with_reducible refine Kept.each (fun _ _ _ => ?_) ?_)

theorem downMove_kept {z0 : State} (s : State) (p : Port)
    (hK : Kept z0 s) : Kept z0 (downMove s p) := by
  unfold downMove
  repeat' (first
    | with_reducible assumption
    | with_reducible apply State.setHp_kept
    | with_reducible refine Kept.ite (fun _ => ?_) (fun _ => ?_))

theorem downMoves_kept {z0 : State} (s : State)
    (hK : Kept z0 s) : Kept z0 (downMoves s) := by
  unfold downMoves
  repeat' (first
    | with_reducible assumption
    | with_reducible apply downMove_kept
    | with_reducible refine Kept.ite (fun _ => ?_) (fun _ => ?_)
    | fail_if_no_progress ((with_reducible apply Kept.mk1) <;> (first | with_reducible assumption | with_reducible rfl | skip))
    | with_reducible refine Kept.each (fun _ _ _ => ?_) ?_)

theorem portWalkDone_kept {z0 : State} (p : Port) (s : State)
    (hK : Kept z0 s) : Kept z0 (portWalkDone p s) := by
  unfold portWalkDone
  repeat' (first
    | with_reducible assumption
    | with_reducible apply State.modHp_kept
    | with_reducible apply dropHp_kept
    | with_reducible apply poisonLine_kept
    | with_reducible apply downMove_kept
    | with_reducible refine Kept.ite (fun _ => ?_) (fun _ => ?_)
    | fail_if_no_progress ((with_reducible apply Kept.mk1) <;> (first | with_reducible assumption | with_reducible rfl | skip))
    | with_reducible refine Kept.each (fun _ _ _ => ?_) ?_)

theorem enterRecovery_kept {z0 : State} (p : Port) (s : State)
    (hK : Kept z0 s) : Kept z0 (enterRecovery p s) := by
  unfold enterRecovery
  repeat' (first
    | with_reducible assumption
    | with_reducible apply State.setHp_kept
    | with_reducible refine Kept.ite (fun _ => ?_) (fun _ => ?_))

theorem linkUpAt_kept {z0 : State} (p : Port) (x16 g6 : Bool) (s : State)
    (hK : Kept z0 s) : Kept z0 (linkUpAt p x16 g6 s) := by
  unfold linkUpAt
  repeat' (first
    | with_reducible assumption
    | with_reducible apply State.modHp_kept
    | with_reducible apply State.emit_kept
    | with_reducible apply postEvent_kept
    | with_reducible apply ctrLost_kept
    | with_reducible refine Kept.ite (fun _ => ?_) (fun _ => ?_)
    | fail_if_no_progress ((with_reducible apply Kept.mk1) <;> (first | with_reducible assumption | with_reducible rfl | skip))
    | with_reducible refine Kept.each (fun _ _ _ => ?_) ?_)

theorem linkTrained_kept {z0 : State} (p : Port) (x16 g6 : Bool) (s : State)
    (hK : Kept z0 s) : Kept z0 (linkTrained p x16 g6 s) := by
  unfold linkTrained
  repeat' (first
    | with_reducible assumption
    | with_reducible apply State.setHp_kept
    | with_reducible apply linkUpAt_kept
    | with_reducible refine Kept.ite (fun _ => ?_) (fun _ => ?_))

theorem linkRecovered_kept {z0 : State} (p : Port) (x16 g6 : Bool) (flits : W64) (s : State)
    (hK : Kept z0 s) : Kept z0 (linkRecovered p x16 g6 flits s) := by
  unfold linkRecovered
  repeat' (first
    | with_reducible assumption
    | with_reducible apply State.setHp_kept
    | with_reducible apply portDown_kept
    | with_reducible apply linkUpAt_kept
    | with_reducible refine Kept.ite (fun _ => ?_) (fun _ => ?_))

theorem linkKept_kept {z0 : State} (p : Port) (s : State)
    (hK : Kept z0 s) : Kept z0 (linkKept p s) := by
  unfold linkKept
  repeat' (first
    | with_reducible assumption
    | with_reducible apply portDown_kept
    | with_reducible refine Kept.ite (fun _ => ?_) (fun _ => ?_))

theorem snoopTmo_kept {z0 : State} (p : Port) (etag : BitVec 12) (s : State)
    (hK : Kept z0 s) : Kept z0 (snoopTmo p etag s) := by
  unfold snoopTmo
  repeat' (first
    | with_reducible assumption
    | with_reducible apply evSnoopLate_kept
    | with_reducible apply recLine_kept
    | with_reducible apply poisonLine_kept
    | with_reducible apply snoopEnds_kept
    | with_reducible apply portDown_kept
    | with_reducible refine Kept.ite (fun _ => ?_) (fun _ => ?_)
    | fail_if_no_progress ((with_reducible apply Kept.mk1) <;> (first | with_reducible assumption | with_reducible rfl | skip))
    | with_reducible refine Kept.each (fun _ _ _ => ?_) ?_
    | with_reducible refine Kept.foldl2 (fun _ _ _ => ?_) ?_
    | with_reducible refine Kept.foldl (fun _ _ _ => ?_) ?_
    | extract_lets
    | with_reducible refine Kept.slGood (z0 := z0) ?_ ?_
    | with_reducible apply Slice.good_slots
    | with_reducible apply Slice.putBlock_good
    | with_reducible apply Slice.putWord_good
    | with_reducible apply Slice.putPlru_good
    | with_reducible apply Slice.touchWay_good
    | with_reducible apply Slice.mendSlot_good
    | with_reducible apply Slice.mendTS_good
    | with_reducible apply Slice.hitWay_good
    | with_reducible apply Slice.dropMove_good
    | with_reducible apply Slice.outcome_good
    | with_reducible apply Slice.hintFill_good
    | with_reducible apply Slice.predFix_good
    | with_reducible apply Slice.hintSeen_good
    | with_reducible apply Slice.predAdd_good
    | with_reducible apply Slice.closeLow_good
    | with_reducible apply Slice.setLock_good
    | with_reducible apply Slice.flushPlru_good
    | with_reducible refine Slice.shAlloc_good ?_ (by with_reducible assumption)
    | with_reducible refine Slice.ensureShadow_good ?_ (by with_reducible assumption)
    | with_reducible refine Slice.demandLook_good ?_ (by with_reducible assumption)
    | fail_if_no_progress ((with_reducible apply Slice.good_mk) <;> (first | with_reducible assumption | with_reducible rfl | skip))
    | split)

theorem snoopAnswer_kept {z0 : State} (p : Port) (etag : BitVec 12) (gone : Bool) (data : Option (Line × Bool)) (opc : BitVec 6) (s : State)
    (hK : Kept z0 s) : Kept z0 (snoopAnswer p etag gone data opc s) := by
  unfold snoopAnswer
  repeat' (first
    | with_reducible assumption
    | with_reducible apply evSnoopLate_kept
    | with_reducible apply hostErr_kept
    | with_reducible apply snoopEnds_kept
    | with_reducible refine Kept.ite (fun _ => ?_) (fun _ => ?_)
    | fail_if_no_progress ((with_reducible apply Kept.mk1) <;> (first | with_reducible assumption | with_reducible rfl | skip))
    | with_reducible refine Kept.each (fun _ _ _ => ?_) ?_
    | with_reducible refine Kept.foldl2 (fun _ _ _ => ?_) ?_
    | with_reducible refine Kept.foldl (fun _ _ _ => ?_) ?_
    | extract_lets
    | with_reducible refine Kept.slGood (z0 := z0) ?_ ?_
    | with_reducible apply Slice.good_slots
    | with_reducible apply Slice.putBlock_good
    | with_reducible apply Slice.putWord_good
    | with_reducible apply Slice.putPlru_good
    | with_reducible apply Slice.touchWay_good
    | with_reducible apply Slice.mendSlot_good
    | with_reducible apply Slice.mendTS_good
    | with_reducible apply Slice.hitWay_good
    | with_reducible apply Slice.dropMove_good
    | with_reducible apply Slice.outcome_good
    | with_reducible apply Slice.hintFill_good
    | with_reducible apply Slice.predFix_good
    | with_reducible apply Slice.hintSeen_good
    | with_reducible apply Slice.predAdd_good
    | with_reducible apply Slice.closeLow_good
    | with_reducible apply Slice.setLock_good
    | with_reducible apply Slice.flushPlru_good
    | with_reducible refine Slice.shAlloc_good ?_ (by with_reducible assumption)
    | with_reducible refine Slice.ensureShadow_good ?_ (by with_reducible assumption)
    | with_reducible refine Slice.demandLook_good ?_ (by with_reducible assumption)
    | fail_if_no_progress ((with_reducible apply Slice.good_mk) <;> (first | with_reducible assumption | with_reducible rfl | skip))
    | split)

theorem hdmCommit_kept {z0 : State} (p : Port) (d : Fin 4) (base size : W64) (s : State)
    (hK : Kept z0 s) : Kept z0 (hdmCommit p d base size s) := by
  unfold hdmCommit
  repeat' (first
    | with_reducible assumption
    | with_reducible apply State.setHp_kept
    | with_reducible apply postEvent_kept
    | with_reducible refine Kept.ite (fun _ => ?_) (fun _ => ?_))

theorem wbDirty_kept {z0 : State} (m : EMsg) (s : State)
    (hK : Kept z0 s) : Kept z0 (wbDirty m s) := by
  unfold wbDirty
  repeat' (first
    | with_reducible assumption
    | with_reducible apply hostErr_kept
    | with_reducible apply hostWb_kept
    | with_reducible refine Kept.ite (fun _ => ?_) (fun _ => ?_))

theorem barrierMsg_kept {z0 : State} (m : EMsg) (s : State)
    (hK : Kept z0 s) : Kept z0 (barrierMsg m s) := by
  unfold barrierMsg
  repeat' (first
    | with_reducible assumption
    | with_reducible apply State.setHp_kept
    | with_reducible apply toHost_kept
    | with_reducible apply breach_kept
    | with_reducible apply barrier_kept
    | with_reducible refine Kept.ite (fun _ => ?_) (fun _ => ?_)
    | fail_if_no_progress ((with_reducible apply Kept.mk1) <;> (first | with_reducible assumption | with_reducible rfl | skip))
    | with_reducible refine Kept.each (fun _ _ _ => ?_) ?_
    | with_reducible refine Kept.foldl2 (fun _ _ _ => ?_) ?_
    | with_reducible refine Kept.foldl (fun _ _ _ => ?_) ?_
    | extract_lets
    | with_reducible refine Kept.slGood (z0 := z0) ?_ ?_
    | with_reducible apply Slice.good_slots
    | with_reducible apply Slice.putBlock_good
    | with_reducible apply Slice.putWord_good
    | with_reducible apply Slice.putPlru_good
    | with_reducible apply Slice.touchWay_good
    | with_reducible apply Slice.mendSlot_good
    | with_reducible apply Slice.mendTS_good
    | with_reducible apply Slice.hitWay_good
    | with_reducible apply Slice.dropMove_good
    | with_reducible apply Slice.outcome_good
    | with_reducible apply Slice.hintFill_good
    | with_reducible apply Slice.predFix_good
    | with_reducible apply Slice.hintSeen_good
    | with_reducible apply Slice.predAdd_good
    | with_reducible apply Slice.closeLow_good
    | with_reducible apply Slice.setLock_good
    | with_reducible apply Slice.flushPlru_good
    | with_reducible refine Slice.shAlloc_good ?_ (by with_reducible assumption)
    | with_reducible refine Slice.ensureShadow_good ?_ (by with_reducible assumption)
    | with_reducible refine Slice.demandLook_good ?_ (by with_reducible assumption)
    | fail_if_no_progress ((with_reducible apply Slice.good_mk) <;> (first | with_reducible assumption | with_reducible rfl | skip))
    | split)

theorem floorMsg_kept {z0 : State} (m : EMsg) (s : State)
    (hK : Kept z0 s) : Kept z0 (floorMsg m s) := by
  unfold floorMsg
  repeat' (first
    | with_reducible assumption
    | with_reducible apply State.setHp_kept
    | with_reducible apply breach_kept
    | with_reducible refine Kept.ite (fun _ => ?_) (fun _ => ?_)
    | fail_if_no_progress ((with_reducible apply Kept.mk1) <;> (first | with_reducible assumption | with_reducible rfl | skip))
    | with_reducible refine Kept.each (fun _ _ _ => ?_) ?_
    | with_reducible refine Kept.foldl2 (fun _ _ _ => ?_) ?_
    | with_reducible refine Kept.foldl (fun _ _ _ => ?_) ?_
    | extract_lets
    | with_reducible refine Kept.slGood (z0 := z0) ?_ ?_
    | with_reducible apply Slice.good_slots
    | with_reducible apply Slice.putBlock_good
    | with_reducible apply Slice.putWord_good
    | with_reducible apply Slice.putPlru_good
    | with_reducible apply Slice.touchWay_good
    | with_reducible apply Slice.mendSlot_good
    | with_reducible apply Slice.mendTS_good
    | with_reducible apply Slice.hitWay_good
    | with_reducible apply Slice.dropMove_good
    | with_reducible apply Slice.outcome_good
    | with_reducible apply Slice.hintFill_good
    | with_reducible apply Slice.predFix_good
    | with_reducible apply Slice.hintSeen_good
    | with_reducible apply Slice.predAdd_good
    | with_reducible apply Slice.closeLow_good
    | with_reducible apply Slice.setLock_good
    | with_reducible apply Slice.flushPlru_good
    | with_reducible refine Slice.shAlloc_good ?_ (by with_reducible assumption)
    | with_reducible refine Slice.ensureShadow_good ?_ (by with_reducible assumption)
    | with_reducible refine Slice.demandLook_good ?_ (by with_reducible assumption)
    | fail_if_no_progress ((with_reducible apply Slice.good_mk) <;> (first | with_reducible assumption | with_reducible rfl | skip))
    | split)

theorem admitCxl_kept {z0 : State} (p : Port) (l : LAddr) (done : State → State) (s : State)
    (hdone : ∀ x0, Kept z0 x0 → Kept z0 (done x0)) (hK : Kept z0 s) : Kept z0 (admitCxl p l done s) := by
  unfold admitCxl
  repeat' (first
    | with_reducible assumption
    | with_reducible apply hdone
    | with_reducible apply State.modHp_kept
    | with_reducible apply pmu_kept
    | with_reducible apply charge_kept
    | with_reducible apply refuse_kept
    | with_reducible apply accept_kept
    | with_reducible refine Kept.ite (fun _ => ?_) (fun _ => ?_)
    | fail_if_no_progress ((with_reducible apply Kept.mk1) <;> (first | with_reducible assumption | with_reducible rfl | skip))
    | with_reducible refine Kept.each (fun _ _ _ => ?_) ?_
    | with_reducible refine Kept.foldl2 (fun _ _ _ => ?_) ?_
    | with_reducible refine Kept.foldl (fun _ _ _ => ?_) ?_
    | extract_lets
    | with_reducible refine Kept.slGood (z0 := z0) ?_ ?_
    | with_reducible apply Slice.good_slots
    | with_reducible apply Slice.putBlock_good
    | with_reducible apply Slice.putWord_good
    | with_reducible apply Slice.putPlru_good
    | with_reducible apply Slice.touchWay_good
    | with_reducible apply Slice.mendSlot_good
    | with_reducible apply Slice.mendTS_good
    | with_reducible apply Slice.hitWay_good
    | with_reducible apply Slice.dropMove_good
    | with_reducible apply Slice.outcome_good
    | with_reducible apply Slice.hintFill_good
    | with_reducible apply Slice.predFix_good
    | with_reducible apply Slice.hintSeen_good
    | with_reducible apply Slice.predAdd_good
    | with_reducible apply Slice.closeLow_good
    | with_reducible apply Slice.setLock_good
    | with_reducible apply Slice.flushPlru_good
    | with_reducible refine Slice.shAlloc_good ?_ (by with_reducible assumption)
    | with_reducible refine Slice.ensureShadow_good ?_ (by with_reducible assumption)
    | with_reducible refine Slice.demandLook_good ?_ (by with_reducible assumption)
    | fail_if_no_progress ((with_reducible apply Slice.good_mk) <;> (first | with_reducible assumption | with_reducible rfl | skip))
    | split)

theorem memWr_kept {z0 : State} (c : CMsg) (s : State)
    (hK : Kept z0 s) : Kept z0 (memWr c s) := by
  unfold memWr
  repeat' (first
    | with_reducible assumption
    | with_reducible apply toHost_kept
    | with_reducible apply arrive_kept
    | with_reducible apply hostWb_kept
    | with_reducible apply admitCxl_kept
    | with_reducible refine Kept.ite (fun _ => ?_) (fun _ => ?_)
    | fail_if_no_progress ((with_reducible apply Kept.mk1) <;> (first | with_reducible assumption | with_reducible rfl | skip))
    | with_reducible refine Kept.each (fun _ _ _ => ?_) ?_
    | with_reducible refine Kept.foldl2 (fun _ _ _ => ?_) ?_
    | with_reducible refine Kept.foldl (fun _ _ _ => ?_) ?_
    | extract_lets
    | with_reducible refine Kept.slGood (z0 := z0) ?_ ?_
    | with_reducible apply Slice.good_slots
    | with_reducible apply Slice.putBlock_good
    | with_reducible apply Slice.putWord_good
    | with_reducible apply Slice.putPlru_good
    | with_reducible apply Slice.touchWay_good
    | with_reducible apply Slice.mendSlot_good
    | with_reducible apply Slice.mendTS_good
    | with_reducible apply Slice.hitWay_good
    | with_reducible apply Slice.dropMove_good
    | with_reducible apply Slice.outcome_good
    | with_reducible apply Slice.hintFill_good
    | with_reducible apply Slice.predFix_good
    | with_reducible apply Slice.hintSeen_good
    | with_reducible apply Slice.predAdd_good
    | with_reducible apply Slice.closeLow_good
    | with_reducible apply Slice.setLock_good
    | with_reducible apply Slice.flushPlru_good
    | with_reducible refine Slice.shAlloc_good ?_ (by with_reducible assumption)
    | with_reducible refine Slice.ensureShadow_good ?_ (by with_reducible assumption)
    | with_reducible refine Slice.demandLook_good ?_ (by with_reducible assumption)
    | fail_if_no_progress ((with_reducible apply Slice.good_mk) <;> (first | with_reducible assumption | with_reducible rfl | skip))
    | split
    | with_reducible refine Kept.of_snd (by with_reducible assumption) ?_
    | dsimp +zetaDelta only
    | intro)

theorem memSpecRd_kept {z0 : State} (c : CMsg) (s : State)
    (hK : Kept z0 s) : Kept z0 (memSpecRd c s) := by
  unfold memSpecRd
  repeat' (first
    | with_reducible assumption
    | (simp only [id_eq]; with_reducible assumption)
    | with_reducible apply admitCxl_kept
    | with_reducible refine Kept.ite (fun _ => ?_) (fun _ => ?_)
    | fail_if_no_progress ((with_reducible apply Kept.mk1) <;> (first | with_reducible assumption | with_reducible rfl | skip))
    | with_reducible refine Kept.each (fun _ _ _ => ?_) ?_
    | with_reducible refine Kept.foldl2 (fun _ _ _ => ?_) ?_
    | with_reducible refine Kept.foldl (fun _ _ _ => ?_) ?_
    | extract_lets
    | with_reducible refine Kept.slGood (z0 := z0) ?_ ?_
    | with_reducible apply Slice.good_slots
    | with_reducible apply Slice.putBlock_good
    | with_reducible apply Slice.putWord_good
    | with_reducible apply Slice.putPlru_good
    | with_reducible apply Slice.touchWay_good
    | with_reducible apply Slice.mendSlot_good
    | with_reducible apply Slice.mendTS_good
    | with_reducible apply Slice.hitWay_good
    | with_reducible apply Slice.dropMove_good
    | with_reducible apply Slice.outcome_good
    | with_reducible apply Slice.hintFill_good
    | with_reducible apply Slice.predFix_good
    | with_reducible apply Slice.hintSeen_good
    | with_reducible apply Slice.predAdd_good
    | with_reducible apply Slice.closeLow_good
    | with_reducible apply Slice.setLock_good
    | with_reducible apply Slice.flushPlru_good
    | with_reducible refine Slice.shAlloc_good ?_ (by with_reducible assumption)
    | with_reducible refine Slice.ensureShadow_good ?_ (by with_reducible assumption)
    | with_reducible refine Slice.demandLook_good ?_ (by with_reducible assumption)
    | fail_if_no_progress ((with_reducible apply Slice.good_mk) <;> (first | with_reducible assumption | with_reducible rfl | skip))
    | split
    | with_reducible refine Kept.of_snd (by with_reducible assumption) ?_
    | dsimp +zetaDelta only
    | intro)

end Sys2Proof.Machine
end

