-- ==== Sys2Proof/Laws/KeptHome.lean ====
section
/-! SUPPORT. `Kept` of the functions of the home agent, the mailboxes, the walks and the operations over the domain: one lemma per function. -/

set_option linter.unusedVariables false
set_option linter.unusedTactic false
set_option linter.unreachableTactic false

namespace Sys2Proof.Machine

theorem wordRec_kept {z0 : State} (l : LAddr) (s : State)
    (hK : Kept z0 s) : Kept z0 (wordRec l s).2 := by
  unfold wordRec
  repeat' (first
    | with_reducible assumption
    | with_reducible apply quarantine_kept
    | with_reducible apply ddrRead_kept
    | with_reducible refine Kept.ite (fun _ => ?_) (fun _ => ?_)
    | fail_if_no_progress ((with_reducible apply Kept.mk1) <;> (first | with_reducible assumption | with_reducible rfl | skip))
    | with_reducible refine Kept.each (fun _ _ _ => ?_) ?_
    | with_reducible refine Kept.foldl2 (fun _ _ _ => ?_) ?_
    | with_reducible refine Kept.foldl (fun _ _ _ => ?_) ?_
    | extract_lets
    | with_reducible refine Kept.slGood (z0 := z0) ?_ ?_
    | with_reducible apply Slice.good_slots
    | with_reducible apply Slice.putBlock_good
    | with_reducible apply Slice.putWord_good
    | with_reducible apply Slice.putPlru_good
    | with_reducible apply Slice.touchWay_good
    | with_reducible apply Slice.mendSlot_good
    | with_reducible apply Slice.mendTS_good
    | with_reducible apply Slice.hitWay_good
    | with_reducible apply Slice.dropMove_good
    | with_reducible apply Slice.outcome_good
    | with_reducible apply Slice.hintFill_good
    | with_reducible apply Slice.predFix_good
    | with_reducible apply Slice.hintSeen_good
    | with_reducible apply Slice.predAdd_good
    | with_reducible apply Slice.closeLow_good
    | with_reducible apply Slice.setLock_good
    | with_reducible apply Slice.flushPlru_good
    | with_reducible refine Slice.shAlloc_good ?_ (by with_reducible assumption)
    | with_reducible refine Slice.ensureShadow_good ?_ (by with_reducible assumption)
    | with_reducible refine Slice.demandLook_good ?_ (by with_reducible assumption)
    | fail_if_no_progress ((with_reducible apply Slice.good_mk) <;> (first | with_reducible assumption | with_reducible rfl | skip))
    | split
    | with_reducible refine Kept.of_snd (by with_reducible assumption) ?_)

theorem dirSet_kept {z0 : State} (f : Nat) (r : DirRec) (s : State)
    (hK : Kept z0 s) : Kept z0 (dirSet f r s) := by
  unfold dirSet
  repeat' (first
    | with_reducible assumption
    | with_reducible apply State.modHome_kept
    | with_reducible refine Kept.ite (fun _ => ?_) (fun _ => ?_)
    | fail_if_no_progress ((with_reducible apply Kept.mk1) <;> (first | with_reducible assumption | with_reducible rfl | skip))
    | with_reducible refine Kept.each (fun _ _ _ => ?_) ?_
    | with_reducible refine Kept.foldl2 (fun _ _ _ => ?_) ?_
    | with_reducible refine Kept.foldl (fun _ _ _ => ?_) ?_
    | extract_lets
    | with_reducible refine Kept.slGood (z0 := z0) ?_ ?_
    | with_reducible apply Slice.good_slots
    | with_reducible apply Slice.putBlock_good
    | with_reducible apply Slice.putWord_good
    | with_reducible apply Slice.putPlru_good
    | with_reducible apply Slice.touchWay_good
    | with_reducible apply Slice.mendSlot_good
    | with_reducible apply Slice.mendTS_good
    | with_reducible apply Slice.hitWay_good
    | with_reducible apply Slice.dropMove_good
    | with_reducible apply Slice.outcome_good
    | with_reducible apply Slice.hintFill_good
    | with_reducible apply Slice.predFix_good
    | with_reducible apply Slice.hintSeen_good
    | with_reducible apply Slice.predAdd_good
    | with_reducible apply Slice.closeLow_good
    | with_reducible apply Slice.setLock_good
    | with_reducible apply Slice.flushPlru_good
    | with_reducible refine Slice.shAlloc_good ?_ (by with_reducible assumption)
    | with_reducible refine Slice.ensureShadow_good ?_ (by with_reducible assumption)
    | with_reducible refine Slice.demandLook_good ?_ (by with_reducible assumption)
    | fail_if_no_progress ((with_reducible apply Slice.good_mk) <;> (first | with_reducible assumption | with_reducible rfl | skip))
    | split)

theorem dirPut_kept {z0 : State} (f : Nat) (r : DirRec) (s : State)
    (hK : Kept z0 s) : Kept z0 (dirPut f r s) := by
  unfold dirPut
  repeat' (first
    | with_reducible assumption
    | with_reducible apply State.modHome_kept
    | with_reducible refine Kept.ite (fun _ => ?_) (fun _ => ?_))

theorem dirReload_kept {z0 : State} (l : LAddr) (s : State)
    (hK : Kept z0 s) : Kept z0 (dirReload l s).2 := by
  unfold dirReload
  repeat' (first
    | with_reducible assumption
    | with_reducible apply State.modHome_kept
    | with_reducible apply wordRec_kept
    | with_reducible apply dirSet_kept)

theorem dirLook_kept {z0 : State} (l : LAddr) (s : State)
    (hK : Kept z0 s) : Kept z0 (dirLook l s).2.2 := by
  unfold dirLook
  repeat' (first
    | with_reducible assumption
    | with_reducible apply State.modHome_kept
    | with_reducible apply pmu_kept
    | with_reducible apply wordRec_kept
    | with_reducible apply dirReload_kept
    | with_reducible refine Kept.ite (fun _ => ?_) (fun _ => ?_)
    | fail_if_no_progress ((with_reducible apply Kept.mk1) <;> (first | with_reducible assumption | with_reducible rfl | skip))
    | with_reducible refine Kept.each (fun _ _ _ => ?_) ?_
    | with_reducible refine Kept.foldl2 (fun _ _ _ => ?_) ?_
    | with_reducible refine Kept.foldl (fun _ _ _ => ?_) ?_
    | extract_lets
    | with_reducible refine Kept.slGood (z0 := z0) ?_ ?_
    | with_reducible apply Slice.good_slots
    | with_reducible apply Slice.putBlock_good
    | with_reducible apply Slice.putWord_good
    | with_reducible apply Slice.putPlru_good
    | with_reducible apply Slice.touchWay_good
    | with_reducible apply Slice.mendSlot_good
    | with_reducible apply Slice.mendTS_good
    | with_reducible apply Slice.hitWay_good
    | with_reducible apply Slice.dropMove_good
    | with_reducible apply Slice.outcome_good
    | with_reducible apply Slice.hintFill_good
    | with_reducible apply Slice.predFix_good
    | with_reducible apply Slice.hintSeen_good
    | with_reducible apply Slice.predAdd_good
    | with_reducible apply Slice.closeLow_good
    | with_reducible apply Slice.setLock_good
    | with_reducible apply Slice.flushPlru_good
    | with_reducible refine Slice.shAlloc_good ?_ (by with_reducible assumption)
    | with_reducible refine Slice.ensureShadow_good ?_ (by with_reducible assumption)
    | with_reducible refine Slice.demandLook_good ?_ (by with_reducible assumption)
    | fail_if_no_progress ((with_reducible apply Slice.good_mk) <;> (first | with_reducible assumption | with_reducible rfl | skip))
    | split)

theorem homeWrite_kept {z0 : State} (l : LAddr) (d : Line) (s : State)
    (hK : Kept z0 s) : Kept z0 (homeWrite l d s) := by
  unfold homeWrite
  repeat' (first
    | with_reducible assumption
    | with_reducible apply ddrPut_kept)

theorem dirStore_kept {z0 : State} (l : LAddr) (r : DirRec) (s : State)
    (hK : Kept z0 s) : Kept z0 (dirStore l r s) := by
  unfold dirStore
  repeat' (first
    | with_reducible assumption
    | with_reducible apply ddrPut_kept
    | with_reducible apply quarantine_kept
    | with_reducible apply dirSet_kept
    | with_reducible refine Kept.ite (fun _ => ?_) (fun _ => ?_))

theorem poisonedAt_kept {z0 : State} (l : LAddr) (rule : Nat) (s : State)
    (hK : Kept z0 s) : Kept z0 (poisonedAt l rule s) := by
  unfold poisonedAt
  repeat' (first
    | with_reducible assumption
    | with_reducible apply State.modHome_kept
    | with_reducible apply evPoisoned_kept
    | with_reducible apply stampHit_kept)

theorem reclaimed_kept {z0 : State} (l : LAddr) (d : Member) (pois : Bool) (s : State)
    (hK : Kept z0 s) : Kept z0 (reclaimed l d pois s) := by
  unfold reclaimed
  repeat' (first
    | with_reducible assumption
    | with_reducible apply State.modHome_kept
    | with_reducible apply evPoisoned_kept
    | with_reducible apply stampHit_kept
    | with_reducible refine Kept.ite (fun _ => ?_) (fun _ => ?_))

theorem modT_kept {z0 : State} (n : Nat) (f : HTxn → HTxn) (s : State)
    (hK : Kept z0 s) : Kept z0 (modT n f s) := by
  unfold modT
  repeat' (first
    | with_reducible assumption
    | with_reducible apply State.modHome_kept)

theorem notePend_kept {z0 : State} (m : BMsg) (s : State)
    (hK : Kept z0 s) : Kept z0 (notePend m s) := by
  unfold notePend
  repeat' (first
    | with_reducible assumption
    | with_reducible apply State.modHome_kept
    | with_reducible refine Kept.ite (fun _ => ?_) (fun _ => ?_))

theorem noteTable_kept {z0 : State} (m : BMsg) (s : State)
    (hK : Kept z0 s) : Kept z0 (noteTable m s) := by
  unfold noteTable
  repeat' (first
    | with_reducible assumption
    | with_reducible apply State.modHome_kept
    | with_reducible refine Kept.ite (fun _ => ?_) (fun _ => ?_))

theorem holdClaim_kept {z0 : State} (n : Nat) (l : LAddr) (c : Claim) (s : State)
    (hK : Kept z0 s) : Kept z0 (holdClaim n l c s) := by
  unfold holdClaim
  repeat' (first
    | with_reducible assumption
    | with_reducible apply State.modHome_kept
    | with_reducible apply pmu_kept)

theorem freeEntry_kept {z0 : State} (t : HTxn) (s : State)
    (hK : Kept z0 s) : Kept z0 (freeEntry t s) := by
  unfold freeEntry
  repeat' (first
    | with_reducible assumption
    | with_reducible apply State.modHome_kept
    | with_reducible apply holdClaim_kept
    | with_reducible refine Kept.ite (fun _ => ?_) (fun _ => ?_)
    | fail_if_no_progress ((with_reducible apply Kept.mk1) <;> (first | with_reducible assumption | with_reducible rfl | skip))
    | with_reducible refine Kept.each (fun _ _ _ => ?_) ?_
    | with_reducible refine Kept.foldl2 (fun _ _ _ => ?_) ?_
    | with_reducible refine Kept.foldl (fun _ _ _ => ?_) ?_
    | extract_lets
    | with_reducible refine Kept.slGood (z0 := z0) ?_ ?_
    | with_reducible apply Slice.good_slots
    | with_reducible apply Slice.putBlock_good
    | with_reducible apply Slice.putWord_good
    | with_reducible apply Slice.putPlru_good
    | with_reducible apply Slice.touchWay_good
    | with_reducible apply Slice.mendSlot_good
    | with_reducible apply Slice.mendTS_good
    | with_reducible apply Slice.hitWay_good
    | with_reducible apply Slice.dropMove_good
    | with_reducible apply Slice.outcome_good
    | with_reducible apply Slice.hintFill_good
    | with_reducible apply Slice.predFix_good
    | with_reducible apply Slice.hintSeen_good
    | with_reducible apply Slice.predAdd_good
    | with_reducible apply Slice.closeLow_good
    | with_reducible apply Slice.setLock_good
    | with_reducible apply Slice.flushPlru_good
    | with_reducible refine Slice.shAlloc_good ?_ (by with_reducible assumption)
    | with_reducible refine Slice.ensureShadow_good ?_ (by with_reducible assumption)
    | with_reducible refine Slice.demandLook_good ?_ (by with_reducible assumption)
    | fail_if_no_progress ((with_reducible apply Slice.good_mk) <;> (first | with_reducible assumption | with_reducible rfl | skip))
    | split)

theorem wbAck_kept {z0 : State} (m : BMsg) (s : State)
    (hK : Kept z0 s) : Kept z0 (wbAck m s) := by
  unfold wbAck
  repeat' (first
    | with_reducible assumption
    | with_reducible apply sendMsg_kept)

theorem countStamped_kept {z0 : State} (m : BMsg) (s : State)
    (hK : Kept z0 s) : Kept z0 (countStamped m s) := by
  unfold countStamped
  repeat' (first
    | with_reducible assumption
    | with_reducible refine Kept.ite (fun _ => ?_) (fun _ => ?_)
    | fail_if_no_progress ((with_reducible apply Kept.mk1) <;> (first | with_reducible assumption | with_reducible rfl | skip)))

theorem nack_kept {z0 : State} (m : BMsg) (reason : BitVec 3) (htid : BitVec 12) (gen : BitVec 8) (age : BitVec 6) (s : State)
    (hK : Kept z0 s) : Kept z0 (nack m reason htid gen age s) := by
  unfold nack
  repeat' (first
    | with_reducible assumption
    | with_reducible apply State.modHome_kept
    | with_reducible apply sendMsg_kept
    | with_reducible apply countStamped_kept)

theorem nackRetry_kept {z0 : State} (m : BMsg) (reason : BitVec 3) (s : State)
    (hK : Kept z0 s) : Kept z0 (nackRetry m reason s) := by
  unfold nackRetry
  repeat' (first
    | with_reducible assumption
    | with_reducible apply nack_kept)

theorem memLine_kept {z0 : State} (t : HTxn) (s : State)
    (hK : Kept z0 s) : Kept z0 (memLine t s).2 := by
  unfold memLine
  repeat' (first
    | with_reducible assumption
    | with_reducible apply ddrRead_kept
    | with_reducible refine Kept.ite (fun _ => ?_) (fun _ => ?_)
    | fail_if_no_progress ((with_reducible apply Kept.mk1) <;> (first | with_reducible assumption | with_reducible rfl | skip))
    | with_reducible refine Kept.each (fun _ _ _ => ?_) ?_
    | with_reducible refine Kept.foldl2 (fun _ _ _ => ?_) ?_
    | with_reducible refine Kept.foldl (fun _ _ _ => ?_) ?_
    | extract_lets
    | with_reducible refine Kept.slGood (z0 := z0) ?_ ?_
    | with_reducible apply Slice.good_slots
    | with_reducible apply Slice.putBlock_good
    | with_reducible apply Slice.putWord_good
    | with_reducible apply Slice.putPlru_good
    | with_reducible apply Slice.touchWay_good
    | with_reducible apply Slice.mendSlot_good
    | with_reducible apply Slice.mendTS_good
    | with_reducible apply Slice.hitWay_good
    | with_reducible apply Slice.dropMove_good
    | with_reducible apply Slice.outcome_good
    | with_reducible apply Slice.hintFill_good
    | with_reducible apply Slice.predFix_good
    | with_reducible apply Slice.hintSeen_good
    | with_reducible apply Slice.predAdd_good
    | with_reducible apply Slice.closeLow_good
    | with_reducible apply Slice.setLock_good
    | with_reducible apply Slice.flushPlru_good
    | with_reducible refine Slice.shAlloc_good ?_ (by with_reducible assumption)
    | with_reducible refine Slice.ensureShadow_good ?_ (by with_reducible assumption)
    | with_reducible refine Slice.demandLook_good ?_ (by with_reducible assumption)
    | fail_if_no_progress ((with_reducible apply Slice.good_mk) <;> (first | with_reducible assumption | with_reducible rfl | skip))
    | split
    | with_reducible refine Kept.of_snd (by with_reducible assumption) ?_)

theorem doAct_kept {z0 : State} (t : HTxn) (s : State)
    (hK : Kept z0 s) : Kept z0 (doAct t s) := by
  unfold doAct
  repeat' (first
    | with_reducible assumption
    | with_reducible apply State.tick1_kept
    | with_reducible apply sendMsg_kept
    | with_reducible apply homeWrite_kept
    | with_reducible apply modT_kept
    | with_reducible apply nack_kept
    | with_reducible apply memLine_kept
    | with_reducible refine Kept.ite (fun _ => ?_) (fun _ => ?_)
    | fail_if_no_progress ((with_reducible apply Kept.mk1) <;> (first | with_reducible assumption | with_reducible rfl | skip))
    | with_reducible refine Kept.each (fun _ _ _ => ?_) ?_
    | with_reducible refine Kept.foldl2 (fun _ _ _ => ?_) ?_
    | with_reducible refine Kept.foldl (fun _ _ _ => ?_) ?_
    | extract_lets
    | with_reducible refine Kept.slGood (z0 := z0) ?_ ?_
    | with_reducible apply Slice.good_slots
    | with_reducible apply Slice.putBlock_good
    | with_reducible apply Slice.putWord_good
    | with_reducible apply Slice.putPlru_good
    | with_reducible apply Slice.touchWay_good
    | with_reducible apply Slice.mendSlot_good
    | with_reducible apply Slice.mendTS_good
    | with_reducible apply Slice.hitWay_good
    | with_reducible apply Slice.dropMove_good
    | with_reducible apply Slice.outcome_good
    | with_reducible apply Slice.hintFill_good
    | with_reducible apply Slice.predFix_good
    | with_reducible apply Slice.hintSeen_good
    | with_reducible apply Slice.predAdd_good
    | with_reducible apply Slice.closeLow_good
    | with_reducible apply Slice.setLock_good
    | with_reducible apply Slice.flushPlru_good
    | with_reducible refine Slice.shAlloc_good ?_ (by with_reducible assumption)
    | with_reducible refine Slice.ensureShadow_good ?_ (by with_reducible assumption)
    | with_reducible refine Slice.demandLook_good ?_ (by with_reducible assumption)
    | fail_if_no_progress ((with_reducible apply Slice.good_mk) <;> (first | with_reducible assumption | with_reducible rfl | skip))
    | split
    | with_reducible refine Kept.of_snd (by with_reducible assumption) ?_
    | dsimp +zetaDelta only)

theorem closeT_kept {z0 : State} (t : HTxn) (s : State)
    (hK : Kept z0 s) : Kept z0 (closeT t s) := by
  unfold closeT
  repeat' (first
    | with_reducible assumption
    | with_reducible apply dirStore_kept
    | with_reducible apply freeEntry_kept
    | with_reducible apply wbAck_kept
    | with_reducible refine Kept.ite (fun _ => ?_) (fun _ => ?_)
    | fail_if_no_progress ((with_reducible apply Kept.mk1) <;> (first | with_reducible assumption | with_reducible rfl | skip))
    | with_reducible refine Kept.each (fun _ _ _ => ?_) ?_)

theorem advance_kept {z0 : State} (n : Nat) (s : State)
    (hK : Kept z0 s) : Kept z0 (advance n s) := by
  unfold advance
  repeat' (first
    | with_reducible assumption
    | with_reducible apply doAct_kept
    | with_reducible apply closeT_kept
    | with_reducible refine Kept.ite (fun _ => ?_) (fun _ => ?_)
    | fail_if_no_progress ((with_reducible apply Kept.mk1) <;> (first | with_reducible assumption | with_reducible rfl | skip))
    | with_reducible refine Kept.each (fun _ _ _ => ?_) ?_
    | with_reducible refine Kept.foldl2 (fun _ _ _ => ?_) ?_
    | with_reducible refine Kept.foldl (fun _ _ _ => ?_) ?_
    | extract_lets
    | with_reducible refine Kept.slGood (z0 := z0) ?_ ?_
    | with_reducible apply Slice.good_slots
    | with_reducible apply Slice.putBlock_good
    | with_reducible apply Slice.putWord_good
    | with_reducible apply Slice.putPlru_good
    | with_reducible apply Slice.touchWay_good
    | with_reducible apply Slice.mendSlot_good
    | with_reducible apply Slice.mendTS_good
    | with_reducible apply Slice.hitWay_good
    | with_reducible apply Slice.dropMove_good
    | with_reducible apply Slice.outcome_good
    | with_reducible apply Slice.hintFill_good
    | with_reducible apply Slice.predFix_good
    | with_reducible apply Slice.hintSeen_good
    | with_reducible apply Slice.predAdd_good
    | with_reducible apply Slice.closeLow_good
    | with_reducible apply Slice.setLock_good
    | with_reducible apply Slice.flushPlru_good
    | with_reducible refine Slice.shAlloc_good ?_ (by with_reducible assumption)
    | with_reducible refine Slice.ensureShadow_good ?_ (by with_reducible assumption)
    | with_reducible refine Slice.demandLook_good ?_ (by with_reducible assumption)
    | fail_if_no_progress ((with_reducible apply Slice.good_mk) <;> (first | with_reducible assumption | with_reducible rfl | skip))
    | split)

theorem sendBInv_kept {z0 : State} (t : HTxn) (but : Option Member) (s : State)
    (hK : Kept z0 s) : Kept z0 (sendBInv t but s) := by
  unfold sendBInv
  repeat' (first
    | with_reducible assumption
    | with_reducible apply State.emit_kept
    | with_reducible apply pmu_kept
    | with_reducible refine Kept.ite (fun _ => ?_) (fun _ => ?_)
    | fail_if_no_progress ((with_reducible apply Kept.mk1) <;> (first | with_reducible assumption | with_reducible rfl | skip)))

theorem openT_kept {z0 : State} (p : Plan) (s : State)
    (hK : Kept z0 s) : Kept z0 (openT p s) := by
  unfold openT
  repeat' (first
    | with_reducible assumption
    | with_reducible apply State.modHome_kept
    | with_reducible apply pmu_kept
    | with_reducible apply sendMsg_kept
    | with_reducible apply advance_kept
    | with_reducible apply sendBInv_kept
    | with_reducible refine Kept.ite (fun _ => ?_) (fun _ => ?_)
    | fail_if_no_progress ((with_reducible apply Kept.mk1) <;> (first | with_reducible assumption | with_reducible rfl | skip))
    | with_reducible refine Kept.each (fun _ _ _ => ?_) ?_
    | with_reducible refine Kept.foldl2 (fun _ _ _ => ?_) ?_
    | with_reducible refine Kept.foldl (fun _ _ _ => ?_) ?_
    | extract_lets
    | with_reducible refine Kept.slGood (z0 := z0) ?_ ?_
    | with_reducible apply Slice.good_slots
    | with_reducible apply Slice.putBlock_good
    | with_reducible apply Slice.putWord_good
    | with_reducible apply Slice.putPlru_good
    | with_reducible apply Slice.touchWay_good
    | with_reducible apply Slice.mendSlot_good
    | with_reducible apply Slice.mendTS_good
    | with_reducible apply Slice.hitWay_good
    | with_reducible apply Slice.dropMove_good
    | with_reducible apply Slice.outcome_good
    | with_reducible apply Slice.hintFill_good
    | with_reducible apply Slice.predFix_good
    | with_reducible apply Slice.hintSeen_good
    | with_reducible apply Slice.predAdd_good
    | with_reducible apply Slice.closeLow_good
    | with_reducible apply Slice.setLock_good
    | with_reducible apply Slice.flushPlru_good
    | with_reducible refine Slice.shAlloc_good ?_ (by with_reducible assumption)
    | with_reducible refine Slice.ensureShadow_good ?_ (by with_reducible assumption)
    | with_reducible refine Slice.demandLook_good ?_ (by with_reducible assumption)
    | fail_if_no_progress ((with_reducible apply Slice.good_mk) <;> (first | with_reducible assumption | with_reducible rfl | skip))
    | split)

theorem chargeShare_kept {z0 : State} (m : BMsg) (s : State)
    (hK : Kept z0 s) : Kept z0 (chargeShare m s) := by
  unfold chargeShare
  repeat' (first
    | with_reducible assumption
    | with_reducible apply State.modHome_kept
    | with_reducible refine Kept.ite (fun _ => ?_) (fun _ => ?_))

theorem freeSeat_kept {z0 : State} (k : BKind) (m : BMsg) (s : State)
    (hK : Kept z0 s) : Kept z0 (freeSeat k m s) := by
  unfold freeSeat
  repeat' (first
    | with_reducible assumption
    | with_reducible apply State.modHome_kept
    | with_reducible refine Kept.ite (fun _ => ?_) (fun _ => ?_))

theorem acceptT_kept {z0 : State} (k : BKind) (m : BMsg) (n : Nat) (pend : Option Claim) (r0 : DirRec) (read : Bool) (s : State)
    (hK : Kept z0 s) : Kept z0 (acceptT k m n pend r0 read s) := by
  unfold acceptT
  repeat' (first
    | with_reducible assumption
    | with_reducible apply dirPut_kept
    | with_reducible apply dirStore_kept
    | with_reducible apply reclaimed_kept
    | with_reducible apply openT_kept
    | with_reducible apply chargeShare_kept
    | with_reducible apply freeSeat_kept
    | with_reducible refine Kept.ite (fun _ => ?_) (fun _ => ?_)
    | fail_if_no_progress ((with_reducible apply Kept.mk1) <;> (first | with_reducible assumption | with_reducible rfl | skip))
    | with_reducible refine Kept.each (fun _ _ _ => ?_) ?_)

theorem takeReq_kept {z0 : State} (k : BKind) (m : BMsg) (r : DirRec) (read : Bool) (s : State)
    (hK : Kept z0 s) : Kept z0 (takeReq k m r read s) := by
  unfold takeReq
  repeat' (first
    | with_reducible assumption
    | with_reducible apply State.modHome_kept
    | with_reducible apply notePend_kept
    | with_reducible apply noteTable_kept
    | with_reducible apply nackRetry_kept
    | with_reducible apply acceptT_kept
    | with_reducible refine Kept.ite (fun _ => ?_) (fun _ => ?_)
    | fail_if_no_progress ((with_reducible apply Kept.mk1) <;> (first | with_reducible assumption | with_reducible rfl | skip))
    | with_reducible refine Kept.each (fun _ _ _ => ?_) ?_
    | with_reducible refine Kept.foldl2 (fun _ _ _ => ?_) ?_
    | with_reducible refine Kept.foldl (fun _ _ _ => ?_) ?_
    | extract_lets
    | with_reducible refine Kept.slGood (z0 := z0) ?_ ?_
    | with_reducible apply Slice.good_slots
    | with_reducible apply Slice.putBlock_good
    | with_reducible apply Slice.putWord_good
    | with_reducible apply Slice.putPlru_good
    | with_reducible apply Slice.touchWay_good
    | with_reducible apply Slice.mendSlot_good
    | with_reducible apply Slice.mendTS_good
    | with_reducible apply Slice.hitWay_good
    | with_reducible apply Slice.dropMove_good
    | with_reducible apply Slice.outcome_good
    | with_reducible apply Slice.hintFill_good
    | with_reducible apply Slice.predFix_good
    | with_reducible apply Slice.hintSeen_good
    | with_reducible apply Slice.predAdd_good
    | with_reducible apply Slice.closeLow_good
    | with_reducible apply Slice.setLock_good
    | with_reducible apply Slice.flushPlru_good
    | with_reducible refine Slice.shAlloc_good ?_ (by with_reducible assumption)
    | with_reducible refine Slice.ensureShadow_good ?_ (by with_reducible assumption)
    | with_reducible refine Slice.demandLook_good ?_ (by with_reducible assumption)
    | fail_if_no_progress ((with_reducible apply Slice.good_mk) <;> (first | with_reducible assumption | with_reducible rfl | skip))
    | split)

theorem stampReq_kept {z0 : State} (k : BKind) (m : BMsg) (r : DirRec) (read : Bool) (s : State)
    (hK : Kept z0 s) : Kept z0 (stampReq k m r read s) := by
  unfold stampReq
  repeat' (first
    | with_reducible assumption
    | with_reducible apply State.modHome_kept
    | with_reducible apply evStampStall_kept
    | with_reducible apply stampLostOf_kept
    | with_reducible apply nack_kept
    | with_reducible apply freeSeat_kept
    | with_reducible apply acceptT_kept
    | with_reducible refine Kept.ite (fun _ => ?_) (fun _ => ?_)
    | fail_if_no_progress ((with_reducible apply Kept.mk1) <;> (first | with_reducible assumption | with_reducible rfl | skip))
    | with_reducible refine Kept.each (fun _ _ _ => ?_) ?_
    | with_reducible refine Kept.foldl2 (fun _ _ _ => ?_) ?_
    | with_reducible refine Kept.foldl (fun _ _ _ => ?_) ?_
    | extract_lets
    | with_reducible refine Kept.slGood (z0 := z0) ?_ ?_
    | with_reducible apply Slice.good_slots
    | with_reducible apply Slice.putBlock_good
    | with_reducible apply Slice.putWord_good
    | with_reducible apply Slice.putPlru_good
    | with_reducible apply Slice.touchWay_good
    | with_reducible apply Slice.mendSlot_good
    | with_reducible apply Slice.mendTS_good
    | with_reducible apply Slice.hitWay_good
    | with_reducible apply Slice.dropMove_good
    | with_reducible apply Slice.outcome_good
    | with_reducible apply Slice.hintFill_good
    | with_reducible apply Slice.predFix_good
    | with_reducible apply Slice.hintSeen_good
    | with_reducible apply Slice.predAdd_good
    | with_reducible apply Slice.closeLow_good
    | with_reducible apply Slice.setLock_good
    | with_reducible apply Slice.flushPlru_good
    | with_reducible refine Slice.shAlloc_good ?_ (by with_reducible assumption)
    | with_reducible refine Slice.ensureShadow_good ?_ (by with_reducible assumption)
    | with_reducible refine Slice.demandLook_good ?_ (by with_reducible assumption)
    | fail_if_no_progress ((with_reducible apply Slice.good_mk) <;> (first | with_reducible assumption | with_reducible rfl | skip))
    | split)

theorem onRequest_kept {z0 : State} (k : BKind) (m : BMsg) (s : State)
    (hK : Kept z0 s) : Kept z0 (onRequest k m s) := by
  unfold onRequest
  repeat' (first
    | with_reducible assumption
    | with_reducible apply evProto_kept
    | with_reducible apply evAddrErr_kept
    | with_reducible apply sendMsg_kept
    | with_reducible apply dirLook_kept
    | with_reducible apply nack_kept
    | with_reducible apply nackRetry_kept
    | with_reducible apply takeReq_kept
    | with_reducible apply stampReq_kept
    | with_reducible refine Kept.ite (fun _ => ?_) (fun _ => ?_)
    | fail_if_no_progress ((with_reducible apply Kept.mk1) <;> (first | with_reducible assumption | with_reducible rfl | skip))
    | with_reducible refine Kept.each (fun _ _ _ => ?_) ?_
    | with_reducible refine Kept.foldl2 (fun _ _ _ => ?_) ?_
    | with_reducible refine Kept.foldl (fun _ _ _ => ?_) ?_
    | extract_lets
    | with_reducible refine Kept.slGood (z0 := z0) ?_ ?_
    | with_reducible apply Slice.good_slots
    | with_reducible apply Slice.putBlock_good
    | with_reducible apply Slice.putWord_good
    | with_reducible apply Slice.putPlru_good
    | with_reducible apply Slice.touchWay_good
    | with_reducible apply Slice.mendSlot_good
    | with_reducible apply Slice.mendTS_good
    | with_reducible apply Slice.hitWay_good
    | with_reducible apply Slice.dropMove_good
    | with_reducible apply Slice.outcome_good
    | with_reducible apply Slice.hintFill_good
    | with_reducible apply Slice.predFix_good
    | with_reducible apply Slice.hintSeen_good
    | with_reducible apply Slice.predAdd_good
    | with_reducible apply Slice.closeLow_good
    | with_reducible apply Slice.setLock_good
    | with_reducible apply Slice.flushPlru_good
    | with_reducible refine Slice.shAlloc_good ?_ (by with_reducible assumption)
    | with_reducible refine Slice.ensureShadow_good ?_ (by with_reducible assumption)
    | with_reducible refine Slice.demandLook_good ?_ (by with_reducible assumption)
    | fail_if_no_progress ((with_reducible apply Slice.good_mk) <;> (first | with_reducible assumption | with_reducible rfl | skip))
    | split
    | with_reducible refine Kept.of_snd (by with_reducible assumption) ?_
    | dsimp +zetaDelta only)

theorem substitute_kept {z0 : State} (n : Nat) (p : Member) (rule : Nat) (s : State)
    (hK : Kept z0 s) : Kept z0 (substitute n p rule s) := by
  unfold substitute
  repeat' (first
    | with_reducible assumption
    | with_reducible apply sendMsg_kept
    | with_reducible apply homeWrite_kept
    | with_reducible apply poisonedAt_kept
    | with_reducible apply modT_kept
    | with_reducible apply nack_kept
    | with_reducible apply memLine_kept
    | with_reducible apply advance_kept
    | with_reducible refine Kept.ite (fun _ => ?_) (fun _ => ?_)
    | fail_if_no_progress ((with_reducible apply Kept.mk1) <;> (first | with_reducible assumption | with_reducible rfl | skip))
    | with_reducible refine Kept.each (fun _ _ _ => ?_) ?_
    | with_reducible refine Kept.foldl2 (fun _ _ _ => ?_) ?_
    | with_reducible refine Kept.foldl (fun _ _ _ => ?_) ?_
    | extract_lets
    | with_reducible refine Kept.slGood (z0 := z0) ?_ ?_
    | with_reducible apply Slice.good_slots
    | with_reducible apply Slice.putBlock_good
    | with_reducible apply Slice.putWord_good
    | with_reducible apply Slice.putPlru_good
    | with_reducible apply Slice.touchWay_good
    | with_reducible apply Slice.mendSlot_good
    | with_reducible apply Slice.mendTS_good
    | with_reducible apply Slice.hitWay_good
    | with_reducible apply Slice.dropMove_good
    | with_reducible apply Slice.outcome_good
    | with_reducible apply Slice.hintFill_good
    | with_reducible apply Slice.predFix_good
    | with_reducible apply Slice.hintSeen_good
    | with_reducible apply Slice.predAdd_good
    | with_reducible apply Slice.closeLow_good
    | with_reducible apply Slice.setLock_good
    | with_reducible apply Slice.flushPlru_good
    | with_reducible refine Slice.shAlloc_good ?_ (by with_reducible assumption)
    | with_reducible refine Slice.ensureShadow_good ?_ (by with_reducible assumption)
    | with_reducible refine Slice.demandLook_good ?_ (by with_reducible assumption)
    | fail_if_no_progress ((with_reducible apply Slice.good_mk) <;> (first | with_reducible assumption | with_reducible rfl | skip))
    | split
    | with_reducible refine Kept.of_snd (by with_reducible assumption) ?_
    | dsimp +zetaDelta only)

theorem onPut_kept {z0 : State} (k : BKind) (m : BMsg) (s : State)
    (hK : Kept z0 s) : Kept z0 (onPut k m s) := by
  unfold onPut
  repeat' (first
    | with_reducible assumption
    | with_reducible apply State.modHome_kept
    | with_reducible apply evProto_kept
    | with_reducible apply dirLook_kept
    | with_reducible apply homeWrite_kept
    | with_reducible apply dirStore_kept
    | with_reducible apply modT_kept
    | with_reducible apply wbAck_kept
    | with_reducible apply substitute_kept
    | with_reducible refine Kept.ite (fun _ => ?_) (fun _ => ?_)
    | fail_if_no_progress ((with_reducible apply Kept.mk1) <;> (first | with_reducible assumption | with_reducible rfl | skip))
    | with_reducible refine Kept.each (fun _ _ _ => ?_) ?_
    | with_reducible refine Kept.foldl2 (fun _ _ _ => ?_) ?_
    | with_reducible refine Kept.foldl (fun _ _ _ => ?_) ?_
    | extract_lets
    | with_reducible refine Kept.slGood (z0 := z0) ?_ ?_
    | with_reducible apply Slice.good_slots
    | with_reducible apply Slice.putBlock_good
    | with_reducible apply Slice.putWord_good
    | with_reducible apply Slice.putPlru_good
    | with_reducible apply Slice.touchWay_good
    | with_reducible apply Slice.mendSlot_good
    | with_reducible apply Slice.mendTS_good
    | with_reducible apply Slice.hitWay_good
    | with_reducible apply Slice.dropMove_good
    | with_reducible apply Slice.outcome_good
    | with_reducible apply Slice.hintFill_good
    | with_reducible apply Slice.predFix_good
    | with_reducible apply Slice.hintSeen_good
    | with_reducible apply Slice.predAdd_good
    | with_reducible apply Slice.closeLow_good
    | with_reducible apply Slice.setLock_good
    | with_reducible apply Slice.flushPlru_good
    | with_reducible refine Slice.shAlloc_good ?_ (by with_reducible assumption)
    | with_reducible refine Slice.ensureShadow_good ?_ (by with_reducible assumption)
    | with_reducible refine Slice.demandLook_good ?_ (by with_reducible assumption)
    | fail_if_no_progress ((with_reducible apply Slice.good_mk) <;> (first | with_reducible assumption | with_reducible rfl | skip))
    | split)

theorem answered_kept {z0 : State} (m : BMsg) (s : State) (f : HTxn → State)
    (hf : ∀ x0, Kept z0 (f x0)) (hK : Kept z0 s) : Kept z0 (answered m s f) := by
  unfold answered
  repeat' (first
    | with_reducible assumption
    | with_reducible apply hf
    | with_reducible apply evProto_kept
    | with_reducible refine Kept.ite (fun _ => ?_) (fun _ => ?_)
    | fail_if_no_progress ((with_reducible apply Kept.mk1) <;> (first | with_reducible assumption | with_reducible rfl | skip))
    | with_reducible refine Kept.each (fun _ _ _ => ?_) ?_
    | with_reducible refine Kept.foldl2 (fun _ _ _ => ?_) ?_
    | with_reducible refine Kept.foldl (fun _ _ _ => ?_) ?_
    | extract_lets
    | with_reducible refine Kept.slGood (z0 := z0) ?_ ?_
    | with_reducible apply Slice.good_slots
    | with_reducible apply Slice.putBlock_good
    | with_reducible apply Slice.putWord_good
    | with_reducible apply Slice.putPlru_good
    | with_reducible apply Slice.touchWay_good
    | with_reducible apply Slice.mendSlot_good
    | with_reducible apply Slice.mendTS_good
    | with_reducible apply Slice.hitWay_good
    | with_reducible apply Slice.dropMove_good
    | with_reducible apply Slice.outcome_good
    | with_reducible apply Slice.hintFill_good
    | with_reducible apply Slice.predFix_good
    | with_reducible apply Slice.hintSeen_good
    | with_reducible apply Slice.predAdd_good
    | with_reducible apply Slice.closeLow_good
    | with_reducible apply Slice.setLock_good
    | with_reducible apply Slice.flushPlru_good
    | with_reducible refine Slice.shAlloc_good ?_ (by with_reducible assumption)
    | with_reducible refine Slice.ensureShadow_good ?_ (by with_reducible assumption)
    | with_reducible refine Slice.demandLook_good ?_ (by with_reducible assumption)
    | fail_if_no_progress ((with_reducible apply Slice.good_mk) <;> (first | with_reducible assumption | with_reducible rfl | skip))
    | split)

theorem onAck_kept {z0 : State} (m : BMsg) (s : State)
    (hK : Kept z0 s) : Kept z0 (onAck m s) := by
  unfold onAck
  repeat' (first
    | with_reducible assumption
    | with_reducible apply modT_kept
    | with_reducible apply advance_kept
    | with_reducible apply answered_kept
    | with_reducible refine Kept.ite (fun _ => ?_) (fun _ => ?_)
    | fail_if_no_progress ((with_reducible apply Kept.mk1) <;> (first | with_reducible assumption | with_reducible rfl | skip))
    | with_reducible refine Kept.each (fun _ _ _ => ?_) ?_
    | with_reducible refine Kept.foldl2 (fun _ _ _ => ?_) ?_
    | with_reducible refine Kept.foldl (fun _ _ _ => ?_) ?_
    | extract_lets
    | with_reducible refine Kept.slGood (z0 := z0) ?_ ?_
    | with_reducible apply Slice.good_slots
    | with_reducible apply Slice.putBlock_good
    | with_reducible apply Slice.putWord_good
    | with_reducible apply Slice.putPlru_good
    | with_reducible apply Slice.touchWay_good
    | with_reducible apply Slice.mendSlot_good
    | with_reducible apply Slice.mendTS_good
    | with_reducible apply Slice.hitWay_good
    | with_reducible apply Slice.dropMove_good
    | with_reducible apply Slice.outcome_good
    | with_reducible apply Slice.hintFill_good
    | with_reducible apply Slice.predFix_good
    | with_reducible apply Slice.hintSeen_good
    | with_reducible apply Slice.predAdd_good
    | with_reducible apply Slice.closeLow_good
    | with_reducible apply Slice.setLock_good
    | with_reducible apply Slice.flushPlru_good
    | with_reducible refine Slice.shAlloc_good ?_ (by with_reducible assumption)
    | with_reducible refine Slice.ensureShadow_good ?_ (by with_reducible assumption)
    | with_reducible refine Slice.demandLook_good ?_ (by with_reducible assumption)
    | fail_if_no_progress ((with_reducible apply Slice.good_mk) <;> (first | with_reducible assumption | with_reducible rfl | skip))
    | split
    | with_reducible refine Kept.of_snd (by with_reducible assumption) ?_
    | dsimp +zetaDelta only
    | intro)

theorem onInvAck_kept {z0 : State} (m : BMsg) (comb : Bool) (s : State)
    (hK : Kept z0 s) : Kept z0 (onInvAck m comb s) := by
  unfold onInvAck
  repeat' (first
    | with_reducible assumption
    | with_reducible apply modT_kept
    | with_reducible apply advance_kept
    | with_reducible apply substitute_kept
    | with_reducible apply answered_kept
    | with_reducible refine Kept.ite (fun _ => ?_) (fun _ => ?_)
    | fail_if_no_progress ((with_reducible apply Kept.mk1) <;> (first | with_reducible assumption | with_reducible rfl | skip))
    | with_reducible refine Kept.each (fun _ _ _ => ?_) ?_
    | with_reducible refine Kept.foldl2 (fun _ _ _ => ?_) ?_
    | with_reducible refine Kept.foldl (fun _ _ _ => ?_) ?_
    | extract_lets
    | with_reducible refine Kept.slGood (z0 := z0) ?_ ?_
    | with_reducible apply Slice.good_slots
    | with_reducible apply Slice.putBlock_good
    | with_reducible apply Slice.putWord_good
    | with_reducible apply Slice.putPlru_good
    | with_reducible apply Slice.touchWay_good
    | with_reducible apply Slice.mendSlot_good
    | with_reducible apply Slice.mendTS_good
    | with_reducible apply Slice.hitWay_good
    | with_reducible apply Slice.dropMove_good
    | with_reducible apply Slice.outcome_good
    | with_reducible apply Slice.hintFill_good
    | with_reducible apply Slice.predFix_good
    | with_reducible apply Slice.hintSeen_good
    | with_reducible apply Slice.predAdd_good
    | with_reducible apply Slice.closeLow_good
    | with_reducible apply Slice.setLock_good
    | with_reducible apply Slice.flushPlru_good
    | with_reducible refine Slice.shAlloc_good ?_ (by with_reducible assumption)
    | with_reducible refine Slice.ensureShadow_good ?_ (by with_reducible assumption)
    | with_reducible refine Slice.demandLook_good ?_ (by with_reducible assumption)
    | fail_if_no_progress ((with_reducible apply Slice.good_mk) <;> (first | with_reducible assumption | with_reducible rfl | skip))
    | split
    | with_reducible refine Kept.of_snd (by with_reducible assumption) ?_
    | dsimp +zetaDelta only
    | intro)

theorem onProbe_kept {z0 : State} (m : BMsg) (dirty : Bool) (s : State)
    (hK : Kept z0 s) : Kept z0 (onProbe m dirty s) := by
  unfold onProbe
  repeat' (first
    | with_reducible assumption
    | with_reducible apply modT_kept
    | with_reducible apply advance_kept
    | with_reducible apply answered_kept
    | with_reducible refine Kept.ite (fun _ => ?_) (fun _ => ?_)
    | fail_if_no_progress ((with_reducible apply Kept.mk1) <;> (first | with_reducible assumption | with_reducible rfl | skip))
    | with_reducible refine Kept.each (fun _ _ _ => ?_) ?_
    | with_reducible refine Kept.foldl2 (fun _ _ _ => ?_) ?_
    | with_reducible refine Kept.foldl (fun _ _ _ => ?_) ?_
    | extract_lets
    | with_reducible refine Kept.slGood (z0 := z0) ?_ ?_
    | with_reducible apply Slice.good_slots
    | with_reducible apply Slice.putBlock_good
    | with_reducible apply Slice.putWord_good
    | with_reducible apply Slice.putPlru_good
    | with_reducible apply Slice.touchWay_good
    | with_reducible apply Slice.mendSlot_good
    | with_reducible apply Slice.mendTS_good
    | with_reducible apply Slice.hitWay_good
    | with_reducible apply Slice.dropMove_good
    | with_reducible apply Slice.outcome_good
    | with_reducible apply Slice.hintFill_good
    | with_reducible apply Slice.predFix_good
    | with_reducible apply Slice.hintSeen_good
    | with_reducible apply Slice.predAdd_good
    | with_reducible apply Slice.closeLow_good
    | with_reducible apply Slice.setLock_good
    | with_reducible apply Slice.flushPlru_good
    | with_reducible refine Slice.shAlloc_good ?_ (by with_reducible assumption)
    | with_reducible refine Slice.ensureShadow_good ?_ (by with_reducible assumption)
    | with_reducible refine Slice.demandLook_good ?_ (by with_reducible assumption)
    | fail_if_no_progress ((with_reducible apply Slice.good_mk) <;> (first | with_reducible assumption | with_reducible rfl | skip))
    | split
    | with_reducible refine Kept.of_snd (by with_reducible assumption) ?_
    | dsimp +zetaDelta only
    | intro)

theorem claimLapse_kept {z0 : State} (n : Nat) (s : State)
    (hK : Kept z0 s) : Kept z0 (claimLapse n s) := by
  unfold claimLapse
  repeat' (first
    | with_reducible assumption
    | with_reducible apply freeEntry_kept
    | with_reducible refine Kept.ite (fun _ => ?_) (fun _ => ?_)
    | fail_if_no_progress ((with_reducible apply Kept.mk1) <;> (first | with_reducible assumption | with_reducible rfl | skip))
    | with_reducible refine Kept.each (fun _ _ _ => ?_) ?_
    | with_reducible refine Kept.foldl2 (fun _ _ _ => ?_) ?_
    | with_reducible refine Kept.foldl (fun _ _ _ => ?_) ?_
    | extract_lets
    | with_reducible refine Kept.slGood (z0 := z0) ?_ ?_
    | with_reducible apply Slice.good_slots
    | with_reducible apply Slice.putBlock_good
    | with_reducible apply Slice.putWord_good
    | with_reducible apply Slice.putPlru_good
    | with_reducible apply Slice.touchWay_good
    | with_reducible apply Slice.mendSlot_good
    | with_reducible apply Slice.mendTS_good
    | with_reducible apply Slice.hitWay_good
    | with_reducible apply Slice.dropMove_good
    | with_reducible apply Slice.outcome_good
    | with_reducible apply Slice.hintFill_good
    | with_reducible apply Slice.predFix_good
    | with_reducible apply Slice.hintSeen_good
    | with_reducible apply Slice.predAdd_good
    | with_reducible apply Slice.closeLow_good
    | with_reducible apply Slice.setLock_good
    | with_reducible apply Slice.flushPlru_good
    | with_reducible refine Slice.shAlloc_good ?_ (by with_reducible assumption)
    | with_reducible refine Slice.ensureShadow_good ?_ (by with_reducible assumption)
    | with_reducible refine Slice.demandLook_good ?_ (by with_reducible assumption)
    | fail_if_no_progress ((with_reducible apply Slice.good_mk) <;> (first | with_reducible assumption | with_reducible rfl | skip))
    | split)

theorem putTimeout_kept {z0 : State} (n : Nat) (s : State)
    (hK : Kept z0 s) : Kept z0 (putTimeout n s) := by
  unfold putTimeout
  repeat' (first
    | with_reducible assumption
    | with_reducible apply evProto_kept
    | with_reducible apply substitute_kept
    | with_reducible refine Kept.ite (fun _ => ?_) (fun _ => ?_)
    | fail_if_no_progress ((with_reducible apply Kept.mk1) <;> (first | with_reducible assumption | with_reducible rfl | skip))
    | with_reducible refine Kept.each (fun _ _ _ => ?_) ?_
    | with_reducible refine Kept.foldl2 (fun _ _ _ => ?_) ?_
    | with_reducible refine Kept.foldl (fun _ _ _ => ?_) ?_
    | extract_lets
    | with_reducible refine Kept.slGood (z0 := z0) ?_ ?_
    | with_reducible apply Slice.good_slots
    | with_reducible apply Slice.putBlock_good
    | with_reducible apply Slice.putWord_good
    | with_reducible apply Slice.putPlru_good
    | with_reducible apply Slice.touchWay_good
    | with_reducible apply Slice.mendSlot_good
    | with_reducible apply Slice.mendTS_good
    | with_reducible apply Slice.hitWay_good
    | with_reducible apply Slice.dropMove_good
    | with_reducible apply Slice.outcome_good
    | with_reducible apply Slice.hintFill_good
    | with_reducible apply Slice.predFix_good
    | with_reducible apply Slice.hintSeen_good
    | with_reducible apply Slice.predAdd_good
    | with_reducible apply Slice.closeLow_good
    | with_reducible apply Slice.setLock_good
    | with_reducible apply Slice.flushPlru_good
    | with_reducible refine Slice.shAlloc_good ?_ (by with_reducible assumption)
    | with_reducible refine Slice.ensureShadow_good ?_ (by with_reducible assumption)
    | with_reducible refine Slice.demandLook_good ?_ (by with_reducible assumption)
    | fail_if_no_progress ((with_reducible apply Slice.good_mk) <;> (first | with_reducible assumption | with_reducible rfl | skip))
    | split)

theorem ackTimeout_kept {z0 : State} (n : Nat) (s : State)
    (hK : Kept z0 s) : Kept z0 (ackTimeout n s) := by
  unfold ackTimeout
  repeat' (first
    | with_reducible assumption
    | with_reducible apply substitute_kept
    | with_reducible refine Kept.ite (fun _ => ?_) (fun _ => ?_)
    | fail_if_no_progress ((with_reducible apply Kept.mk1) <;> (first | with_reducible assumption | with_reducible rfl | skip))
    | with_reducible refine Kept.each (fun _ _ _ => ?_) ?_
    | with_reducible refine Kept.foldl2 (fun _ _ _ => ?_) ?_
    | with_reducible refine Kept.foldl (fun _ _ _ => ?_) ?_
    | extract_lets
    | with_reducible refine Kept.slGood (z0 := z0) ?_ ?_
    | with_reducible apply Slice.good_slots
    | with_reducible apply Slice.putBlock_good
    | with_reducible apply Slice.putWord_good
    | with_reducible apply Slice.putPlru_good
    | with_reducible apply Slice.touchWay_good
    | with_reducible apply Slice.mendSlot_good
    | with_reducible apply Slice.mendTS_good
    | with_reducible apply Slice.hitWay_good
    | with_reducible apply Slice.dropMove_good
    | with_reducible apply Slice.outcome_good
    | with_reducible apply Slice.hintFill_good
    | with_reducible apply Slice.predFix_good
    | with_reducible apply Slice.hintSeen_good
    | with_reducible apply Slice.predAdd_good
    | with_reducible apply Slice.closeLow_good
    | with_reducible apply Slice.setLock_good
    | with_reducible apply Slice.flushPlru_good
    | with_reducible refine Slice.shAlloc_good ?_ (by with_reducible assumption)
    | with_reducible refine Slice.ensureShadow_good ?_ (by with_reducible assumption)
    | with_reducible refine Slice.demandLook_good ?_ (by with_reducible assumption)
    | fail_if_no_progress ((with_reducible apply Slice.good_mk) <;> (first | with_reducible assumption | with_reducible rfl | skip))
    | split)

theorem txnDead_kept {z0 : State} (n : NodeId) (t0 : HTxn) (s : State)
    (hK : Kept z0 s) : Kept z0 (txnDead n t0 s) := by
  unfold txnDead
  repeat' (first
    | with_reducible assumption
    | with_reducible apply modT_kept
    | with_reducible apply advance_kept
    | with_reducible apply substitute_kept
    | with_reducible refine Kept.ite (fun _ => ?_) (fun _ => ?_)
    | fail_if_no_progress ((with_reducible apply Kept.mk1) <;> (first | with_reducible assumption | with_reducible rfl | skip))
    | with_reducible refine Kept.each (fun _ _ _ => ?_) ?_
    | with_reducible refine Kept.foldl2 (fun _ _ _ => ?_) ?_
    | with_reducible refine Kept.foldl (fun _ _ _ => ?_) ?_
    | extract_lets
    | with_reducible refine Kept.slGood (z0 := z0) ?_ ?_
    | with_reducible apply Slice.good_slots
    | with_reducible apply Slice.putBlock_good
    | with_reducible apply Slice.putWord_good
    | with_reducible apply Slice.putPlru_good
    | with_reducible apply Slice.touchWay_good
    | with_reducible apply Slice.mendSlot_good
    | with_reducible apply Slice.mendTS_good
    | with_reducible apply Slice.hitWay_good
    | with_reducible apply Slice.dropMove_good
    | with_reducible apply Slice.outcome_good
    | with_reducible apply Slice.hintFill_good
    | with_reducible apply Slice.predFix_good
    | with_reducible apply Slice.hintSeen_good
    | with_reducible apply Slice.predAdd_good
    | with_reducible apply Slice.closeLow_good
    | with_reducible apply Slice.setLock_good
    | with_reducible apply Slice.flushPlru_good
    | with_reducible refine Slice.shAlloc_good ?_ (by with_reducible assumption)
    | with_reducible refine Slice.ensureShadow_good ?_ (by with_reducible assumption)
    | with_reducible refine Slice.demandLook_good ?_ (by with_reducible assumption)
    | fail_if_no_progress ((with_reducible apply Slice.good_mk) <;> (first | with_reducible assumption | with_reducible rfl | skip))
    | split)

theorem dirFix_kept {z0 : State} (p : Nat → Bool) (s : State)
    (hK : Kept z0 s) : Kept z0 (dirFix p s) := by
  unfold dirFix
  repeat' (first
    | with_reducible assumption
    | with_reducible apply dirReload_kept
    | with_reducible refine Kept.ite (fun _ => ?_) (fun _ => ?_)
    | fail_if_no_progress ((with_reducible apply Kept.mk1) <;> (first | with_reducible assumption | with_reducible rfl | skip))
    | with_reducible refine Kept.each (fun _ _ _ => ?_) ?_)

theorem sweepRec_kept {z0 : State} (p : Member) (l : LAddr) (r : DirRec) (s : State)
    (hK : Kept z0 s) : Kept z0 (sweepRec p l r s) := by
  unfold sweepRec
  repeat' (first
    | with_reducible assumption
    | with_reducible apply reclaimed_kept
    | with_reducible apply openT_kept
    | with_reducible refine Kept.ite (fun _ => ?_) (fun _ => ?_)
    | fail_if_no_progress ((with_reducible apply Kept.mk1) <;> (first | with_reducible assumption | with_reducible rfl | skip))
    | with_reducible refine Kept.each (fun _ _ _ => ?_) ?_
    | with_reducible refine Kept.foldl2 (fun _ _ _ => ?_) ?_
    | with_reducible refine Kept.foldl (fun _ _ _ => ?_) ?_
    | extract_lets
    | with_reducible refine Kept.slGood (z0 := z0) ?_ ?_
    | with_reducible apply Slice.good_slots
    | with_reducible apply Slice.putBlock_good
    | with_reducible apply Slice.putWord_good
    | with_reducible apply Slice.putPlru_good
    | with_reducible apply Slice.touchWay_good
    | with_reducible apply Slice.mendSlot_good
    | with_reducible apply Slice.mendTS_good
    | with_reducible apply Slice.hitWay_good
    | with_reducible apply Slice.dropMove_good
    | with_reducible apply Slice.outcome_good
    | with_reducible apply Slice.hintFill_good
    | with_reducible apply Slice.predFix_good
    | with_reducible apply Slice.hintSeen_good
    | with_reducible apply Slice.predAdd_good
    | with_reducible apply Slice.closeLow_good
    | with_reducible apply Slice.setLock_good
    | with_reducible apply Slice.flushPlru_good
    | with_reducible refine Slice.shAlloc_good ?_ (by with_reducible assumption)
    | with_reducible refine Slice.ensureShadow_good ?_ (by with_reducible assumption)
    | with_reducible refine Slice.demandLook_good ?_ (by with_reducible assumption)
    | fail_if_no_progress ((with_reducible apply Slice.good_mk) <;> (first | with_reducible assumption | with_reducible rfl | skip))
    | split)

theorem sweepLine_kept {z0 : State} (p : Member) (f : Nat) (s : State)
    (hK : Kept z0 s) : Kept z0 (sweepLine p f s) := by
  unfold sweepLine
  repeat' (first
    | with_reducible assumption
    | with_reducible apply dirReload_kept
    | with_reducible apply sweepRec_kept
    | with_reducible refine Kept.ite (fun _ => ?_) (fun _ => ?_)
    | fail_if_no_progress ((with_reducible apply Kept.mk1) <;> (first | with_reducible assumption | with_reducible rfl | skip))
    | with_reducible refine Kept.each (fun _ _ _ => ?_) ?_
    | with_reducible refine Kept.foldl2 (fun _ _ _ => ?_) ?_
    | with_reducible refine Kept.foldl (fun _ _ _ => ?_) ?_
    | extract_lets
    | with_reducible refine Kept.slGood (z0 := z0) ?_ ?_
    | with_reducible apply Slice.good_slots
    | with_reducible apply Slice.putBlock_good
    | with_reducible apply Slice.putWord_good
    | with_reducible apply Slice.putPlru_good
    | with_reducible apply Slice.touchWay_good
    | with_reducible apply Slice.mendSlot_good
    | with_reducible apply Slice.mendTS_good
    | with_reducible apply Slice.hitWay_good
    | with_reducible apply Slice.dropMove_good
    | with_reducible apply Slice.outcome_good
    | with_reducible apply Slice.hintFill_good
    | with_reducible apply Slice.predFix_good
    | with_reducible apply Slice.hintSeen_good
    | with_reducible apply Slice.predAdd_good
    | with_reducible apply Slice.closeLow_good
    | with_reducible apply Slice.setLock_good
    | with_reducible apply Slice.flushPlru_good
    | with_reducible refine Slice.shAlloc_good ?_ (by with_reducible assumption)
    | with_reducible refine Slice.ensureShadow_good ?_ (by with_reducible assumption)
    | with_reducible refine Slice.demandLook_good ?_ (by with_reducible assumption)
    | fail_if_no_progress ((with_reducible apply Slice.good_mk) <;> (first | with_reducible assumption | with_reducible rfl | skip))
    | split)

theorem sweepPass_kept {z0 : State} (p : Member) (s : State)
    (hK : Kept z0 s) : Kept z0 (sweepPass p s) := by
  unfold sweepPass
  repeat' (first
    | with_reducible assumption
    | with_reducible apply sweepLine_kept
    | with_reducible refine Kept.ite (fun _ => ?_) (fun _ => ?_)
    | fail_if_no_progress ((with_reducible apply Kept.mk1) <;> (first | with_reducible assumption | with_reducible rfl | skip))
    | with_reducible refine Kept.each (fun _ _ _ => ?_) ?_)

theorem homeDead_kept {z0 : State} (n : NodeId) (s : State)
    (hK : Kept z0 s) : Kept z0 (homeDead n s) := by
  unfold homeDead
  repeat' (first
    | with_reducible assumption
    | with_reducible apply State.modHome_kept
    | with_reducible apply txnDead_kept
    | with_reducible apply sweepPass_kept
    | with_reducible refine Kept.ite (fun _ => ?_) (fun _ => ?_)
    | fail_if_no_progress ((with_reducible apply Kept.mk1) <;> (first | with_reducible assumption | with_reducible rfl | skip))
    | with_reducible refine Kept.each (fun _ _ _ => ?_) ?_)

theorem ackRelocs_kept {z0 : State} (s : State)
    (hK : Kept z0 s) : Kept z0 (ackRelocs s) := by
  unfold ackRelocs
  repeat' (first
    | with_reducible assumption
    | with_reducible apply State.modHome_kept
    | with_reducible apply sendVc5_kept
    | with_reducible refine Kept.ite (fun _ => ?_) (fun _ => ?_)
    | fail_if_no_progress ((with_reducible apply Kept.mk1) <;> (first | with_reducible assumption | with_reducible rfl | skip))
    | with_reducible refine Kept.each (fun _ _ _ => ?_) ?_)

theorem take_kept {z0 : State} (k : BKind) (m : BMsg) (f : State → State) (s0 : State)
    (hf : ∀ x0, Kept z0 x0 → Kept z0 (f x0)) (hK : Kept z0 s0) : Kept z0 (take k m f s0) := by
  unfold take
  repeat' (first
    | with_reducible assumption
    | with_reducible apply hf
    | with_reducible apply evProto_kept
    | with_reducible apply discardTo_kept
    | with_reducible apply gotPkt_kept
    | with_reducible apply downMoves_kept
    | with_reducible apply ackRelocs_kept
    | with_reducible refine Kept.ite (fun _ => ?_) (fun _ => ?_))

theorem rspPass_kept {z0 : State} (m : BMsg) (f : State → State) (s : State)
    (hf : ∀ x0, Kept z0 x0 → Kept z0 (f x0)) (hK : Kept z0 s) : Kept z0 (rspPass m f s) := by
  unfold rspPass
  repeat' (first
    | with_reducible assumption
    | with_reducible apply hf
    | with_reducible apply arbPass_kept)

theorem retryGap_kept {z0 : State} (i : SliceNo) (rtid : BitVec 12) (s : State)
    (hK : Kept z0 s) : Kept z0 (retryGap i rtid s) := by
  unfold retryGap
  repeat' (first
    | with_reducible assumption
    | with_reducible apply resend_kept
    | with_reducible apply downMoves_kept
    | with_reducible refine Kept.ite (fun _ => ?_) (fun _ => ?_)
    | fail_if_no_progress ((with_reducible apply Kept.mk1) <;> (first | with_reducible assumption | with_reducible rfl | skip))
    | with_reducible refine Kept.each (fun _ _ _ => ?_) ?_
    | with_reducible refine Kept.foldl2 (fun _ _ _ => ?_) ?_
    | with_reducible refine Kept.foldl (fun _ _ _ => ?_) ?_
    | extract_lets
    | with_reducible refine Kept.slGood (z0 := z0) ?_ ?_
    | with_reducible apply Slice.good_slots
    | with_reducible apply Slice.putBlock_good
    | with_reducible apply Slice.putWord_good
    | with_reducible apply Slice.putPlru_good
    | with_reducible apply Slice.touchWay_good
    | with_reducible apply Slice.mendSlot_good
    | with_reducible apply Slice.mendTS_good
    | with_reducible apply Slice.hitWay_good
    | with_reducible apply Slice.dropMove_good
    | with_reducible apply Slice.outcome_good
    | with_reducible apply Slice.hintFill_good
    | with_reducible apply Slice.predFix_good
    | with_reducible apply Slice.hintSeen_good
    | with_reducible apply Slice.predAdd_good
    | with_reducible apply Slice.closeLow_good
    | with_reducible apply Slice.setLock_good
    | with_reducible apply Slice.flushPlru_good
    | with_reducible refine Slice.shAlloc_good ?_ (by with_reducible assumption)
    | with_reducible refine Slice.ensureShadow_good ?_ (by with_reducible assumption)
    | with_reducible refine Slice.demandLook_good ?_ (by with_reducible assumption)
    | fail_if_no_progress ((with_reducible apply Slice.good_mk) <;> (first | with_reducible assumption | with_reducible rfl | skip))
    | split)

theorem held_kept {z0 : State} (k : BKind) (m : BMsg) (s : State)
    (hK : Kept z0 s) : Kept z0 (held k m s) := by
  unfold held
  repeat' (first
    | with_reducible assumption
    | with_reducible apply holder_kept
    | with_reducible apply arbPass_kept
    | with_reducible apply settle_kept)

theorem outPar_kept {z0 : State} (p k : Port) (off n v : Nat) (s : State)
    (hK : Kept z0 s) : Kept z0 (outPar p k off n v s) := by
  unfold outPar
  repeat' (first
    | with_reducible assumption
    | with_reducible apply State.modMb_kept)

theorem fwDo_kept {z0 : State} (f : State → State) (s : State)
    (hf : ∀ x0, Kept z0 x0 → Kept z0 (f x0)) (hK : Kept z0 s) : Kept z0 (fwDo f s) := by
  unfold fwDo
  repeat' (first
    | with_reducible assumption
    | with_reducible apply hf
    | with_reducible refine Kept.ite (fun _ => ?_) (fun _ => ?_)
    | fail_if_no_progress ((with_reducible apply Kept.mk1) <;> (first | with_reducible assumption | with_reducible rfl | skip)))

theorem finish_kept {z0 : State} (p k : Port) (rc : Byte) (val : BitVec 16) (s : State)
    (hK : Kept z0 s) : Kept z0 (finish p k rc val s) := by
  unfold finish
  repeat' (first
    | with_reducible assumption
    | with_reducible apply State.modMb_kept
    | with_reducible apply postCmd_kept
    | with_reducible refine Kept.ite (fun _ => ?_) (fun _ => ?_)
    | fail_if_no_progress ((with_reducible apply Kept.mk1) <;> (first | with_reducible assumption | with_reducible rfl | skip))
    | with_reducible refine Kept.each (fun _ _ _ => ?_) ?_
    | with_reducible refine Kept.foldl2 (fun _ _ _ => ?_) ?_
    | with_reducible refine Kept.foldl (fun _ _ _ => ?_) ?_
    | extract_lets
    | with_reducible refine Kept.slGood (z0 := z0) ?_ ?_
    | with_reducible apply Slice.good_slots
    | with_reducible apply Slice.putBlock_good
    | with_reducible apply Slice.putWord_good
    | with_reducible apply Slice.putPlru_good
    | with_reducible apply Slice.touchWay_good
    | with_reducible apply Slice.mendSlot_good
    | with_reducible apply Slice.mendTS_good
    | with_reducible apply Slice.hitWay_good
    | with_reducible apply Slice.dropMove_good
    | with_reducible apply Slice.outcome_good
    | with_reducible apply Slice.hintFill_good
    | with_reducible apply Slice.predFix_good
    | with_reducible apply Slice.hintSeen_good
    | with_reducible apply Slice.predAdd_good
    | with_reducible apply Slice.closeLow_good
    | with_reducible apply Slice.setLock_good
    | with_reducible apply Slice.flushPlru_good
    | with_reducible refine Slice.shAlloc_good ?_ (by with_reducible assumption)
    | with_reducible refine Slice.ensureShadow_good ?_ (by with_reducible assumption)
    | with_reducible refine Slice.demandLook_good ?_ (by with_reducible assumption)
    | fail_if_no_progress ((with_reducible apply Slice.good_mk) <;> (first | with_reducible assumption | with_reducible rfl | skip))
    | split)

theorem finishAs_kept {z0 : State} (p : Port) (k : Option Port) (rc : Byte) (val : BitVec 16) (s : State)
    (hK : Kept z0 s) : Kept z0 (finishAs p k rc val s) := by
  unfold finishAs
  repeat' (first
    | with_reducible assumption
    | with_reducible apply finish_kept
    | with_reducible refine Kept.ite (fun _ => ?_) (fun _ => ?_)
    | fail_if_no_progress ((with_reducible apply Kept.mk1) <;> (first | with_reducible assumption | with_reducible rfl | skip))
    | with_reducible refine Kept.each (fun _ _ _ => ?_) ?_
    | with_reducible refine Kept.foldl2 (fun _ _ _ => ?_) ?_
    | with_reducible refine Kept.foldl (fun _ _ _ => ?_) ?_
    | extract_lets
    | with_reducible refine Kept.slGood (z0 := z0) ?_ ?_
    | with_reducible apply Slice.good_slots
    | with_reducible apply Slice.putBlock_good
    | with_reducible apply Slice.putWord_good
    | with_reducible apply Slice.putPlru_good
    | with_reducible apply Slice.touchWay_good
    | with_reducible apply Slice.mendSlot_good
    | with_reducible apply Slice.mendTS_good
    | with_reducible apply Slice.hitWay_good
    | with_reducible apply Slice.dropMove_good
    | with_reducible apply Slice.outcome_good
    | with_reducible apply Slice.hintFill_good
    | with_reducible apply Slice.predFix_good
    | with_reducible apply Slice.hintSeen_good
    | with_reducible apply Slice.predAdd_good
    | with_reducible apply Slice.closeLow_good
    | with_reducible apply Slice.setLock_good
    | with_reducible apply Slice.flushPlru_good
    | with_reducible refine Slice.shAlloc_good ?_ (by with_reducible assumption)
    | with_reducible refine Slice.ensureShadow_good ?_ (by with_reducible assumption)
    | with_reducible refine Slice.demandLook_good ?_ (by with_reducible assumption)
    | fail_if_no_progress ((with_reducible apply Slice.good_mk) <;> (first | with_reducible assumption | with_reducible rfl | skip))
    | split)

theorem taken_kept {z0 : State} (p k : Port) (s : State)
    (hK : Kept z0 s) : Kept z0 (taken p k s) := by
  unfold taken
  repeat' (first
    | with_reducible assumption
    | with_reducible apply State.modMb_kept
    | with_reducible refine Kept.ite (fun _ => ?_) (fun _ => ?_)
    | fail_if_no_progress ((with_reducible apply Kept.mk1) <;> (first | with_reducible assumption | with_reducible rfl | skip)))

theorem command_kept {z0 : State} (p k : Port) (opc : Byte) (form : BitVec 16 → Bool) (f : BitVec 16 → State → State) (s : State)
    (hf : ∀ x0 x1, Kept z0 x1 → Kept z0 (f x0 x1)) (hK : Kept z0 s) : Kept z0 (command p k opc form f s) := by
  unfold command
  repeat' (first
    | with_reducible assumption
    | with_reducible apply hf
    | with_reducible apply finish_kept
    | with_reducible apply taken_kept
    | with_reducible refine Kept.ite (fun _ => ?_) (fun _ => ?_)
    | fail_if_no_progress ((with_reducible apply Kept.mk1) <;> (first | with_reducible assumption | with_reducible rfl | skip))
    | with_reducible refine Kept.each (fun _ _ _ => ?_) ?_
    | with_reducible refine Kept.foldl2 (fun _ _ _ => ?_) ?_
    | with_reducible refine Kept.foldl (fun _ _ _ => ?_) ?_
    | extract_lets
    | with_reducible refine Kept.slGood (z0 := z0) ?_ ?_
    | with_reducible apply Slice.good_slots
    | with_reducible apply Slice.putBlock_good
    | with_reducible apply Slice.putWord_good
    | with_reducible apply Slice.putPlru_good
    | with_reducible apply Slice.touchWay_good
    | with_reducible apply Slice.mendSlot_good
    | with_reducible apply Slice.mendTS_good
    | with_reducible apply Slice.hitWay_good
    | with_reducible apply Slice.dropMove_good
    | with_reducible apply Slice.outcome_good
    | with_reducible apply Slice.hintFill_good
    | with_reducible apply Slice.predFix_good
    | with_reducible apply Slice.hintSeen_good
    | with_reducible apply Slice.predAdd_good
    | with_reducible apply Slice.closeLow_good
    | with_reducible apply Slice.setLock_good
    | with_reducible apply Slice.flushPlru_good
    | with_reducible refine Slice.shAlloc_good ?_ (by with_reducible assumption)
    | with_reducible refine Slice.ensureShadow_good ?_ (by with_reducible assumption)
    | with_reducible refine Slice.demandLook_good ?_ (by with_reducible assumption)
    | fail_if_no_progress ((with_reducible apply Slice.good_mk) <;> (first | with_reducible assumption | with_reducible rfl | skip))
    | split)

theorem outAck_kept {z0 : State} (p k : Port) (w : RWr) (late : Bool) (s : State)
    (hK : Kept z0 s) : Kept z0 (outAck p k w late s) := by
  unfold outAck
  repeat' (first
    | with_reducible assumption
    | (simp only [id_eq]; with_reducible assumption)
    | with_reducible apply State.modMb_kept
    | with_reducible apply msixCheck_kept
    | with_reducible apply postCmd_kept
    | with_reducible apply postBacklog_kept
    | with_reducible apply fwDo_kept
    | with_reducible refine Kept.ite (fun _ => ?_) (fun _ => ?_)
    | fail_if_no_progress ((with_reducible apply Kept.mk1) <;> (first | with_reducible assumption | with_reducible rfl | skip))
    | with_reducible refine Kept.each (fun _ _ _ => ?_) ?_
    | with_reducible refine Kept.foldl2 (fun _ _ _ => ?_) ?_
    | with_reducible refine Kept.foldl (fun _ _ _ => ?_) ?_
    | extract_lets
    | with_reducible refine Kept.slGood (z0 := z0) ?_ ?_
    | with_reducible apply Slice.good_slots
    | with_reducible apply Slice.putBlock_good
    | with_reducible apply Slice.putWord_good
    | with_reducible apply Slice.putPlru_good
    | with_reducible apply Slice.touchWay_good
    | with_reducible apply Slice.mendSlot_good
    | with_reducible apply Slice.mendTS_good
    | with_reducible apply Slice.hitWay_good
    | with_reducible apply Slice.dropMove_good
    | with_reducible apply Slice.outcome_good
    | with_reducible apply Slice.hintFill_good
    | with_reducible apply Slice.predFix_good
    | with_reducible apply Slice.hintSeen_good
    | with_reducible apply Slice.predAdd_good
    | with_reducible apply Slice.closeLow_good
    | with_reducible apply Slice.setLock_good
    | with_reducible apply Slice.flushPlru_good
    | with_reducible refine Slice.shAlloc_good ?_ (by with_reducible assumption)
    | with_reducible refine Slice.ensureShadow_good ?_ (by with_reducible assumption)
    | with_reducible refine Slice.demandLook_good ?_ (by with_reducible assumption)
    | fail_if_no_progress ((with_reducible apply Slice.good_mk) <;> (first | with_reducible assumption | with_reducible rfl | skip))
    | split
    | with_reducible refine Kept.of_snd (by with_reducible assumption) ?_
    | dsimp +zetaDelta only
    | intro)

theorem walkCarry_kept {z0 : State} (i : SliceNo) (k : WalkKind) (s0 : State)
    (hK : Kept z0 s0) : Kept z0 (walkCarry i k s0) := by
  unfold walkCarry
  repeat' (first
    | with_reducible assumption
    | with_reducible apply State.modSl_kept
    | with_reducible apply giveUpRb_kept
    | with_reducible apply pumpWalks_kept
    | with_reducible refine Kept.ite (fun _ => ?_) (fun _ => ?_)
    | fail_if_no_progress ((with_reducible apply Kept.mk1) <;> (first | with_reducible assumption | with_reducible rfl | skip))
    | with_reducible refine Kept.each (fun _ _ _ => ?_) ?_
    | with_reducible refine Kept.foldl2 (fun _ _ _ => ?_) ?_
    | with_reducible refine Kept.foldl (fun _ _ _ => ?_) ?_
    | extract_lets
    | with_reducible refine Kept.slGood (z0 := z0) ?_ ?_
    | with_reducible apply Slice.good_slots
    | with_reducible apply Slice.putBlock_good
    | with_reducible apply Slice.putWord_good
    | with_reducible apply Slice.putPlru_good
    | with_reducible apply Slice.touchWay_good
    | with_reducible apply Slice.mendSlot_good
    | with_reducible apply Slice.mendTS_good
    | with_reducible apply Slice.hitWay_good
    | with_reducible apply Slice.dropMove_good
    | with_reducible apply Slice.outcome_good
    | with_reducible apply Slice.hintFill_good
    | with_reducible apply Slice.predFix_good
    | with_reducible apply Slice.hintSeen_good
    | with_reducible apply Slice.predAdd_good
    | with_reducible apply Slice.closeLow_good
    | with_reducible apply Slice.setLock_good
    | with_reducible apply Slice.flushPlru_good
    | with_reducible refine Slice.shAlloc_good ?_ (by with_reducible assumption)
    | with_reducible refine Slice.ensureShadow_good ?_ (by with_reducible assumption)
    | with_reducible refine Slice.demandLook_good ?_ (by with_reducible assumption)
    | fail_if_no_progress ((with_reducible apply Slice.good_mk) <;> (first | with_reducible assumption | with_reducible rfl | skip))
    | split
    | with_reducible refine Kept.of_snd (by with_reducible assumption) ?_
    | dsimp +zetaDelta only
    | intro)

theorem endWalk_kept {z0 : State} (k : WalkKind) (i : SliceNo) (s : State)
    (hK : Kept z0 s) : Kept z0 (endWalk k i s) := by
  unfold endWalk
  repeat' (first
    | with_reducible assumption
    | with_reducible apply State.modSl_kept
    | with_reducible refine Kept.ite (fun _ => ?_) (fun _ => ?_)
    | fail_if_no_progress ((with_reducible apply Kept.mk1) <;> (first | with_reducible assumption | with_reducible rfl | skip))
    | with_reducible refine Kept.each (fun _ _ _ => ?_) ?_
    | with_reducible refine Kept.foldl2 (fun _ _ _ => ?_) ?_
    | with_reducible refine Kept.foldl (fun _ _ _ => ?_) ?_
    | extract_lets
    | with_reducible refine Kept.slGood (z0 := z0) ?_ ?_
    | with_reducible apply Slice.good_slots
    | with_reducible apply Slice.putBlock_good
    | with_reducible apply Slice.putWord_good
    | with_reducible apply Slice.putPlru_good
    | with_reducible apply Slice.touchWay_good
    | with_reducible apply Slice.mendSlot_good
    | with_reducible apply Slice.mendTS_good
    | with_reducible apply Slice.hitWay_good
    | with_reducible apply Slice.dropMove_good
    | with_reducible apply Slice.outcome_good
    | with_reducible apply Slice.hintFill_good
    | with_reducible apply Slice.predFix_good
    | with_reducible apply Slice.hintSeen_good
    | with_reducible apply Slice.predAdd_good
    | with_reducible apply Slice.closeLow_good
    | with_reducible apply Slice.setLock_good
    | with_reducible apply Slice.flushPlru_good
    | with_reducible refine Slice.shAlloc_good ?_ (by with_reducible assumption)
    | with_reducible refine Slice.ensureShadow_good ?_ (by with_reducible assumption)
    | with_reducible refine Slice.demandLook_good ?_ (by with_reducible assumption)
    | fail_if_no_progress ((with_reducible apply Slice.good_mk) <;> (first | with_reducible assumption | with_reducible rfl | skip))
    | split
    | with_reducible refine Kept.of_snd (by with_reducible assumption) ?_
    | dsimp +zetaDelta only
    | intro)

theorem disableDone_kept {z0 : State} (i : SliceNo) (region w : Nat) (s : State)
    (hK : Kept z0 s) : Kept z0 (disableDone i region w s) := by
  unfold disableDone
  repeat' (first
    | with_reducible assumption
    | with_reducible apply State.modSl_kept
    | with_reducible apply postEvent_kept
    | with_reducible apply recWay_kept
    | with_reducible apply walkCarry_kept
    | with_reducible apply endWalk_kept
    | with_reducible refine Kept.ite (fun _ => ?_) (fun _ => ?_)
    | fail_if_no_progress ((with_reducible apply Kept.mk1) <;> (first | with_reducible assumption | with_reducible rfl | skip))
    | with_reducible refine Kept.each (fun _ _ _ => ?_) ?_
    | with_reducible refine Kept.foldl2 (fun _ _ _ => ?_) ?_
    | with_reducible refine Kept.foldl (fun _ _ _ => ?_) ?_
    | extract_lets
    | with_reducible refine Kept.slGood (z0 := z0) ?_ ?_
    | with_reducible apply Slice.good_slots
    | with_reducible apply Slice.putBlock_good
    | with_reducible apply Slice.putWord_good
    | with_reducible apply Slice.putPlru_good
    | with_reducible apply Slice.touchWay_good
    | with_reducible apply Slice.mendSlot_good
    | with_reducible apply Slice.mendTS_good
    | with_reducible apply Slice.hitWay_good
    | with_reducible apply Slice.dropMove_good
    | with_reducible apply Slice.outcome_good
    | with_reducible apply Slice.hintFill_good
    | with_reducible apply Slice.predFix_good
    | with_reducible apply Slice.hintSeen_good
    | with_reducible apply Slice.predAdd_good
    | with_reducible apply Slice.closeLow_good
    | with_reducible apply Slice.setLock_good
    | with_reducible apply Slice.flushPlru_good
    | with_reducible refine Slice.shAlloc_good ?_ (by with_reducible assumption)
    | with_reducible refine Slice.ensureShadow_good ?_ (by with_reducible assumption)
    | with_reducible refine Slice.demandLook_good ?_ (by with_reducible assumption)
    | fail_if_no_progress ((with_reducible apply Slice.good_mk) <;> (first | with_reducible assumption | with_reducible rfl | skip))
    | split
    | with_reducible refine Kept.of_snd (by with_reducible assumption) ?_
    | dsimp +zetaDelta only
    | intro)

theorem drainDone_kept {z0 : State} (i : SliceNo) (s : State)
    (hK : Kept z0 s) : Kept z0 (drainDone i s) := by
  unfold drainDone
  repeat' (first
    | with_reducible assumption
    | with_reducible apply State.modSl_kept
    | with_reducible apply rbFree_kept
    | with_reducible apply issueAll_kept
    | with_reducible apply walkCarry_kept
    | with_reducible apply endWalk_kept
    | with_reducible refine Kept.ite (fun _ => ?_) (fun _ => ?_)
    | fail_if_no_progress ((with_reducible apply Kept.mk1) <;> (first | with_reducible assumption | with_reducible rfl | skip))
    | with_reducible refine Kept.each (fun _ _ _ => ?_) ?_
    | with_reducible refine Kept.foldl2 (fun _ _ _ => ?_) ?_
    | with_reducible refine Kept.foldl (fun _ _ _ => ?_) ?_
    | extract_lets
    | with_reducible refine Kept.slGood (z0 := z0) ?_ ?_
    | with_reducible apply Slice.good_slots
    | with_reducible apply Slice.putBlock_good
    | with_reducible apply Slice.putWord_good
    | with_reducible apply Slice.putPlru_good
    | with_reducible apply Slice.touchWay_good
    | with_reducible apply Slice.mendSlot_good
    | with_reducible apply Slice.mendTS_good
    | with_reducible apply Slice.hitWay_good
    | with_reducible apply Slice.dropMove_good
    | with_reducible apply Slice.outcome_good
    | with_reducible apply Slice.hintFill_good
    | with_reducible apply Slice.predFix_good
    | with_reducible apply Slice.hintSeen_good
    | with_reducible apply Slice.predAdd_good
    | with_reducible apply Slice.closeLow_good
    | with_reducible apply Slice.setLock_good
    | with_reducible apply Slice.flushPlru_good
    | with_reducible refine Slice.shAlloc_good ?_ (by with_reducible assumption)
    | with_reducible refine Slice.ensureShadow_good ?_ (by with_reducible assumption)
    | with_reducible refine Slice.demandLook_good ?_ (by with_reducible assumption)
    | fail_if_no_progress ((with_reducible apply Slice.good_mk) <;> (first | with_reducible assumption | with_reducible rfl | skip))
    | split
    | with_reducible refine Kept.of_snd (by with_reducible assumption) ?_
    | dsimp +zetaDelta only
    | intro)

theorem endCmd_kept {z0 : State} (rc : Byte) (val : BitVec 16) (s : State)
    (hK : Kept z0 s) : Kept z0 (endCmd rc val s) := by
  unfold endCmd
  repeat' (first
    | with_reducible assumption
    | with_reducible apply finish_kept
    | with_reducible refine Kept.ite (fun _ => ?_) (fun _ => ?_)
    | fail_if_no_progress ((with_reducible apply Kept.mk1) <;> (first | with_reducible assumption | with_reducible rfl | skip))
    | with_reducible refine Kept.each (fun _ _ _ => ?_) ?_
    | with_reducible refine Kept.foldl2 (fun _ _ _ => ?_) ?_
    | with_reducible refine Kept.foldl (fun _ _ _ => ?_) ?_
    | extract_lets
    | with_reducible refine Kept.slGood (z0 := z0) ?_ ?_
    | with_reducible apply Slice.good_slots
    | with_reducible apply Slice.putBlock_good
    | with_reducible apply Slice.putWord_good
    | with_reducible apply Slice.putPlru_good
    | with_reducible apply Slice.touchWay_good
    | with_reducible apply Slice.mendSlot_good
    | with_reducible apply Slice.mendTS_good
    | with_reducible apply Slice.hitWay_good
    | with_reducible apply Slice.dropMove_good
    | with_reducible apply Slice.outcome_good
    | with_reducible apply Slice.hintFill_good
    | with_reducible apply Slice.predFix_good
    | with_reducible apply Slice.hintSeen_good
    | with_reducible apply Slice.predAdd_good
    | with_reducible apply Slice.closeLow_good
    | with_reducible apply Slice.setLock_good
    | with_reducible apply Slice.flushPlru_good
    | with_reducible refine Slice.shAlloc_good ?_ (by with_reducible assumption)
    | with_reducible refine Slice.ensureShadow_good ?_ (by with_reducible assumption)
    | with_reducible refine Slice.demandLook_good ?_ (by with_reducible assumption)
    | fail_if_no_progress ((with_reducible apply Slice.good_mk) <;> (first | with_reducible assumption | with_reducible rfl | skip))
    | split)

theorem cmdOut_kept {z0 : State} (c : WalkCmd) (off n v : Nat) (s : State)
    (hK : Kept z0 s) : Kept z0 (cmdOut c off n v s) := by
  unfold cmdOut
  repeat' (first
    | with_reducible assumption
    | with_reducible apply outPar_kept
    | with_reducible refine Kept.ite (fun _ => ?_) (fun _ => ?_)
    | fail_if_no_progress ((with_reducible apply Kept.mk1) <;> (first | with_reducible assumption | with_reducible rfl | skip))
    | with_reducible refine Kept.each (fun _ _ _ => ?_) ?_
    | with_reducible refine Kept.foldl2 (fun _ _ _ => ?_) ?_
    | with_reducible refine Kept.foldl (fun _ _ _ => ?_) ?_
    | extract_lets
    | with_reducible refine Kept.slGood (z0 := z0) ?_ ?_
    | with_reducible apply Slice.good_slots
    | with_reducible apply Slice.putBlock_good
    | with_reducible apply Slice.putWord_good
    | with_reducible apply Slice.putPlru_good
    | with_reducible apply Slice.touchWay_good
    | with_reducible apply Slice.mendSlot_good
    | with_reducible apply Slice.mendTS_good
    | with_reducible apply Slice.hitWay_good
    | with_reducible apply Slice.dropMove_good
    | with_reducible apply Slice.outcome_good
    | with_reducible apply Slice.hintFill_good
    | with_reducible apply Slice.predFix_good
    | with_reducible apply Slice.hintSeen_good
    | with_reducible apply Slice.predAdd_good
    | with_reducible apply Slice.closeLow_good
    | with_reducible apply Slice.setLock_good
    | with_reducible apply Slice.flushPlru_good
    | with_reducible refine Slice.shAlloc_good ?_ (by with_reducible assumption)
    | with_reducible refine Slice.ensureShadow_good ?_ (by with_reducible assumption)
    | with_reducible refine Slice.demandLook_good ?_ (by with_reducible assumption)
    | fail_if_no_progress ((with_reducible apply Slice.good_mk) <;> (first | with_reducible assumption | with_reducible rfl | skip))
    | split)

theorem rangeStart_kept {z0 : State} (c : WalkCmd) (k : WalkKind) (s : State)
    (hK : Kept z0 s) : Kept z0 (rangeStart c k s) := by
  unfold rangeStart
  repeat' (first
    | with_reducible assumption
    | with_reducible apply State.modSl_kept
    | with_reducible apply rbFree_kept
    | with_reducible apply issueEvery_kept
    | with_reducible apply closeEntries_kept
    | with_reducible apply startWalk_kept
    | with_reducible refine Kept.ite (fun _ => ?_) (fun _ => ?_)
    | fail_if_no_progress ((with_reducible apply Kept.mk1) <;> (first | with_reducible assumption | with_reducible rfl | skip))
    | with_reducible refine Kept.each (fun _ _ _ => ?_) ?_
    | with_reducible refine Kept.foldl2 (fun _ _ _ => ?_) ?_
    | with_reducible refine Kept.foldl (fun _ _ _ => ?_) ?_
    | extract_lets
    | with_reducible refine Kept.slGood (z0 := z0) ?_ ?_
    | with_reducible apply Slice.good_slots
    | with_reducible apply Slice.putBlock_good
    | with_reducible apply Slice.putWord_good
    | with_reducible apply Slice.putPlru_good
    | with_reducible apply Slice.touchWay_good
    | with_reducible apply Slice.mendSlot_good
    | with_reducible apply Slice.mendTS_good
    | with_reducible apply Slice.hitWay_good
    | with_reducible apply Slice.dropMove_good
    | with_reducible apply Slice.outcome_good
    | with_reducible apply Slice.hintFill_good
    | with_reducible apply Slice.predFix_good
    | with_reducible apply Slice.hintSeen_good
    | with_reducible apply Slice.predAdd_good
    | with_reducible apply Slice.closeLow_good
    | with_reducible apply Slice.setLock_good
    | with_reducible apply Slice.flushPlru_good)

theorem rangeCmd_kept {z0 : State} (p k : Port) (opc : Byte) (kind : WalkKind) (arg : BitVec 16) (s : State)
    (hK : Kept z0 s) : Kept z0 (rangeCmd p k opc kind arg s) := by
  unfold rangeCmd
  repeat' (first
    | with_reducible assumption
    | with_reducible apply finish_kept
    | with_reducible apply rangeStart_kept
    | with_reducible refine Kept.ite (fun _ => ?_) (fun _ => ?_)
    | fail_if_no_progress ((with_reducible apply Kept.mk1) <;> (first | with_reducible assumption | with_reducible rfl | skip))
    | with_reducible refine Kept.each (fun _ _ _ => ?_) ?_
    | with_reducible refine Kept.foldl2 (fun _ _ _ => ?_) ?_
    | with_reducible refine Kept.foldl (fun _ _ _ => ?_) ?_
    | extract_lets
    | with_reducible refine Kept.slGood (z0 := z0) ?_ ?_
    | with_reducible apply Slice.good_slots
    | with_reducible apply Slice.putBlock_good
    | with_reducible apply Slice.putWord_good
    | with_reducible apply Slice.putPlru_good
    | with_reducible apply Slice.touchWay_good
    | with_reducible apply Slice.mendSlot_good
    | with_reducible apply Slice.mendTS_good
    | with_reducible apply Slice.hitWay_good
    | with_reducible apply Slice.dropMove_good
    | with_reducible apply Slice.outcome_good
    | with_reducible apply Slice.hintFill_good
    | with_reducible apply Slice.predFix_good
    | with_reducible apply Slice.hintSeen_good
    | with_reducible apply Slice.predAdd_good
    | with_reducible apply Slice.closeLow_good
    | with_reducible apply Slice.setLock_good
    | with_reducible apply Slice.flushPlru_good
    | with_reducible refine Slice.shAlloc_good ?_ (by with_reducible assumption)
    | with_reducible refine Slice.ensureShadow_good ?_ (by with_reducible assumption)
    | with_reducible refine Slice.demandLook_good ?_ (by with_reducible assumption)
    | fail_if_no_progress ((with_reducible apply Slice.good_mk) <;> (first | with_reducible assumption | with_reducible rfl | skip))
    | split
    | with_reducible refine Kept.of_snd (by with_reducible assumption) ?_
    | dsimp +zetaDelta only)

theorem liftRange_kept {z0 : State} (c : WalkCmd) (s : State)
    (hK : Kept z0 s) : Kept z0 (liftRange c s) := by
  unfold liftRange
  repeat' (first
    | with_reducible assumption
    | with_reducible apply dirStore_kept
    | with_reducible refine Kept.ite (fun _ => ?_) (fun _ => ?_)
    | fail_if_no_progress ((with_reducible apply Kept.mk1) <;> (first | with_reducible assumption | with_reducible rfl | skip))
    | with_reducible refine Kept.each (fun _ _ _ => ?_) ?_)

theorem waylockCmd_kept {z0 : State} (p k : Port) (arg : BitVec 16) (s : State)
    (hK : Kept z0 s) : Kept z0 (waylockCmd p k arg s) := by
  unfold waylockCmd
  repeat' (first
    | with_reducible assumption
    | with_reducible apply State.modSl_kept
    | with_reducible apply finish_kept
    | with_reducible refine Kept.ite (fun _ => ?_) (fun _ => ?_)
    | fail_if_no_progress ((with_reducible apply Kept.mk1) <;> (first | with_reducible assumption | with_reducible rfl | skip))
    | with_reducible refine Kept.each (fun _ _ _ => ?_) ?_
    | with_reducible refine Kept.foldl2 (fun _ _ _ => ?_) ?_
    | with_reducible refine Kept.foldl (fun _ _ _ => ?_) ?_
    | extract_lets
    | with_reducible refine Kept.slGood (z0 := z0) ?_ ?_
    | with_reducible apply Slice.good_slots
    | with_reducible apply Slice.putBlock_good
    | with_reducible apply Slice.putWord_good
    | with_reducible apply Slice.putPlru_good
    | with_reducible apply Slice.touchWay_good
    | with_reducible apply Slice.mendSlot_good
    | with_reducible apply Slice.mendTS_good
    | with_reducible apply Slice.hitWay_good
    | with_reducible apply Slice.dropMove_good
    | with_reducible apply Slice.outcome_good
    | with_reducible apply Slice.hintFill_good
    | with_reducible apply Slice.predFix_good
    | with_reducible apply Slice.hintSeen_good
    | with_reducible apply Slice.predAdd_good
    | with_reducible apply Slice.closeLow_good
    | with_reducible apply Slice.setLock_good
    | with_reducible apply Slice.flushPlru_good
    | with_reducible refine Slice.shAlloc_good ?_ (by with_reducible assumption)
    | with_reducible refine Slice.ensureShadow_good ?_ (by with_reducible assumption)
    | with_reducible refine Slice.demandLook_good ?_ (by with_reducible assumption)
    | fail_if_no_progress ((with_reducible apply Slice.good_mk) <;> (first | with_reducible assumption | with_reducible rfl | skip))
    | split
    | with_reducible refine Kept.of_snd (by with_reducible assumption) ?_
    | dsimp +zetaDelta only
    | intro)

theorem waylockLoadCmd_kept {z0 : State} (p k : Port) (arg : BitVec 16) (s : State)
    (hK : Kept z0 s) : Kept z0 (waylockLoadCmd p k arg s) := by
  unfold waylockLoadCmd
  repeat' (first
    | with_reducible assumption
    | with_reducible apply State.modSl_kept
    | with_reducible apply lockPump_kept
    | with_reducible apply finish_kept
    | with_reducible refine Kept.ite (fun _ => ?_) (fun _ => ?_)
    | fail_if_no_progress ((with_reducible apply Kept.mk1) <;> (first | with_reducible assumption | with_reducible rfl | skip))
    | with_reducible refine Kept.each (fun _ _ _ => ?_) ?_
    | with_reducible refine Kept.foldl2 (fun _ _ _ => ?_) ?_
    | with_reducible refine Kept.foldl (fun _ _ _ => ?_) ?_
    | extract_lets
    | with_reducible refine Kept.slGood (z0 := z0) ?_ ?_
    | with_reducible apply Slice.good_slots
    | with_reducible apply Slice.putBlock_good
    | with_reducible apply Slice.putWord_good
    | with_reducible apply Slice.putPlru_good
    | with_reducible apply Slice.touchWay_good
    | with_reducible apply Slice.mendSlot_good
    | with_reducible apply Slice.mendTS_good
    | with_reducible apply Slice.hitWay_good
    | with_reducible apply Slice.dropMove_good
    | with_reducible apply Slice.outcome_good
    | with_reducible apply Slice.hintFill_good
    | with_reducible apply Slice.predFix_good
    | with_reducible apply Slice.hintSeen_good
    | with_reducible apply Slice.predAdd_good
    | with_reducible apply Slice.closeLow_good
    | with_reducible apply Slice.setLock_good
    | with_reducible apply Slice.flushPlru_good
    | with_reducible refine Slice.shAlloc_good ?_ (by with_reducible assumption)
    | with_reducible refine Slice.ensureShadow_good ?_ (by with_reducible assumption)
    | with_reducible refine Slice.demandLook_good ?_ (by with_reducible assumption)
    | fail_if_no_progress ((with_reducible apply Slice.good_mk) <;> (first | with_reducible assumption | with_reducible rfl | skip))
    | split
    | with_reducible refine Kept.of_snd (by with_reducible assumption) ?_
    | dsimp +zetaDelta only
    | intro)

theorem rangeWalkDone_kept {z0 : State} (s : State)
    (hK : Kept z0 s) : Kept z0 (rangeWalkDone s) := by
  unfold rangeWalkDone
  repeat' (first
    | with_reducible assumption
    | with_reducible apply rbFree_kept
    | with_reducible apply issueAll_kept
    | with_reducible apply lockPump_kept
    | with_reducible apply walkCarry_kept
    | with_reducible apply endWalk_kept
    | with_reducible apply endCmd_kept
    | with_reducible apply cmdOut_kept
    | with_reducible apply liftRange_kept
    | with_reducible refine Kept.ite (fun _ => ?_) (fun _ => ?_)
    | fail_if_no_progress ((with_reducible apply Kept.mk1) <;> (first | with_reducible assumption | with_reducible rfl | skip))
    | with_reducible refine Kept.each (fun _ _ _ => ?_) ?_
    | with_reducible refine Kept.foldl2 (fun _ _ _ => ?_) ?_
    | with_reducible refine Kept.foldl (fun _ _ _ => ?_) ?_
    | extract_lets
    | with_reducible refine Kept.slGood (z0 := z0) ?_ ?_
    | with_reducible apply Slice.good_slots
    | with_reducible apply Slice.putBlock_good
    | with_reducible apply Slice.putWord_good
    | with_reducible apply Slice.putPlru_good
    | with_reducible apply Slice.touchWay_good
    | with_reducible apply Slice.mendSlot_good
    | with_reducible apply Slice.mendTS_good
    | with_reducible apply Slice.hitWay_good
    | with_reducible apply Slice.dropMove_good
    | with_reducible apply Slice.outcome_good
    | with_reducible apply Slice.hintFill_good
    | with_reducible apply Slice.predFix_good
    | with_reducible apply Slice.hintSeen_good
    | with_reducible apply Slice.predAdd_good
    | with_reducible apply Slice.closeLow_good
    | with_reducible apply Slice.setLock_good
    | with_reducible apply Slice.flushPlru_good
    | with_reducible refine Slice.shAlloc_good ?_ (by with_reducible assumption)
    | with_reducible refine Slice.ensureShadow_good ?_ (by with_reducible assumption)
    | with_reducible refine Slice.demandLook_good ?_ (by with_reducible assumption)
    | fail_if_no_progress ((with_reducible apply Slice.good_mk) <;> (first | with_reducible assumption | with_reducible rfl | skip))
    | split)

theorem groupCmd_kept {z0 : State} (p k : Port) (up : Bool) (arg : BitVec 16) (s : State)
    (hK : Kept z0 s) : Kept z0 (groupCmd p k up arg s) := by
  unfold groupCmd
  repeat' (first
    | with_reducible assumption
    | with_reducible apply State.modSl_kept
    | with_reducible apply startWalk_kept
    | with_reducible apply finish_kept
    | with_reducible refine Kept.ite (fun _ => ?_) (fun _ => ?_)
    | fail_if_no_progress ((with_reducible apply Kept.mk1) <;> (first | with_reducible assumption | with_reducible rfl | skip))
    | with_reducible refine Kept.each (fun _ _ _ => ?_) ?_
    | with_reducible refine Kept.foldl2 (fun _ _ _ => ?_) ?_
    | with_reducible refine Kept.foldl (fun _ _ _ => ?_) ?_
    | extract_lets
    | with_reducible refine Kept.slGood (z0 := z0) ?_ ?_
    | with_reducible apply Slice.good_slots
    | with_reducible apply Slice.putBlock_good
    | with_reducible apply Slice.putWord_good
    | with_reducible apply Slice.putPlru_good
    | with_reducible apply Slice.touchWay_good
    | with_reducible apply Slice.mendSlot_good
    | with_reducible apply Slice.mendTS_good
    | with_reducible apply Slice.hitWay_good
    | with_reducible apply Slice.dropMove_good
    | with_reducible apply Slice.outcome_good
    | with_reducible apply Slice.hintFill_good
    | with_reducible apply Slice.predFix_good
    | with_reducible apply Slice.hintSeen_good
    | with_reducible apply Slice.predAdd_good
    | with_reducible apply Slice.closeLow_good
    | with_reducible apply Slice.setLock_good
    | with_reducible apply Slice.flushPlru_good
    | with_reducible refine Slice.shAlloc_good ?_ (by with_reducible assumption)
    | with_reducible refine Slice.ensureShadow_good ?_ (by with_reducible assumption)
    | with_reducible refine Slice.demandLook_good ?_ (by with_reducible assumption)
    | fail_if_no_progress ((with_reducible apply Slice.good_mk) <;> (first | with_reducible assumption | with_reducible rfl | skip))
    | split
    | with_reducible refine Kept.of_snd (by with_reducible assumption) ?_
    | dsimp +zetaDelta only
    | intro)

theorem groupOffIn_kept {z0 : State} (n : Nat) (i : SliceNo) (s : State)
    (hK : Kept z0 s) : Kept z0 (groupOffIn n i s) := by
  unfold groupOffIn
  repeat' (first
    | with_reducible assumption
    | with_reducible apply State.modSl_kept
    | with_reducible apply walkCarry_kept
    | with_reducible apply endWalk_kept
    | with_reducible refine Kept.ite (fun _ => ?_) (fun _ => ?_)
    | fail_if_no_progress ((with_reducible apply Kept.mk1) <;> (first | with_reducible assumption | with_reducible rfl | skip))
    | with_reducible refine Kept.each (fun _ _ _ => ?_) ?_
    | with_reducible refine Kept.foldl2 (fun _ _ _ => ?_) ?_
    | with_reducible refine Kept.foldl (fun _ _ _ => ?_) ?_
    | extract_lets
    | with_reducible refine Kept.slGood (z0 := z0) ?_ ?_
    | with_reducible apply Slice.good_slots
    | with_reducible apply Slice.putBlock_good
    | with_reducible apply Slice.putWord_good
    | with_reducible apply Slice.putPlru_good
    | with_reducible apply Slice.touchWay_good
    | with_reducible apply Slice.mendSlot_good
    | with_reducible apply Slice.mendTS_good
    | with_reducible apply Slice.hitWay_good
    | with_reducible apply Slice.dropMove_good
    | with_reducible apply Slice.outcome_good
    | with_reducible apply Slice.hintFill_good
    | with_reducible apply Slice.predFix_good
    | with_reducible apply Slice.hintSeen_good
    | with_reducible apply Slice.predAdd_good
    | with_reducible apply Slice.closeLow_good
    | with_reducible apply Slice.setLock_good
    | with_reducible apply Slice.flushPlru_good
    | with_reducible refine Slice.shAlloc_good ?_ (by with_reducible assumption)
    | with_reducible refine Slice.ensureShadow_good ?_ (by with_reducible assumption)
    | with_reducible refine Slice.demandLook_good ?_ (by with_reducible assumption)
    | fail_if_no_progress ((with_reducible apply Slice.good_mk) <;> (first | with_reducible assumption | with_reducible rfl | skip))
    | split
    | with_reducible refine Kept.of_snd (by with_reducible assumption) ?_
    | dsimp +zetaDelta only
    | intro)

theorem powerDownDone_kept {z0 : State} (g : BitVec 2) (s : State)
    (hK : Kept z0 s) : Kept z0 (powerDownDone g s) := by
  unfold powerDownDone
  repeat' (first
    | with_reducible assumption
    | with_reducible apply endCmd_kept
    | with_reducible apply groupOffIn_kept
    | with_reducible refine Kept.ite (fun _ => ?_) (fun _ => ?_)
    | fail_if_no_progress ((with_reducible apply Kept.mk1) <;> (first | with_reducible assumption | with_reducible rfl | skip))
    | with_reducible refine Kept.each (fun _ _ _ => ?_) ?_
    | with_reducible refine Kept.foldl2 (fun _ _ _ => ?_) ?_
    | with_reducible refine Kept.foldl (fun _ _ _ => ?_) ?_
    | extract_lets
    | with_reducible refine Kept.slGood (z0 := z0) ?_ ?_
    | with_reducible apply Slice.good_slots
    | with_reducible apply Slice.putBlock_good
    | with_reducible apply Slice.putWord_good
    | with_reducible apply Slice.putPlru_good
    | with_reducible apply Slice.touchWay_good
    | with_reducible apply Slice.mendSlot_good
    | with_reducible apply Slice.mendTS_good
    | with_reducible apply Slice.hitWay_good
    | with_reducible apply Slice.dropMove_good
    | with_reducible apply Slice.outcome_good
    | with_reducible apply Slice.hintFill_good
    | with_reducible apply Slice.predFix_good
    | with_reducible apply Slice.hintSeen_good
    | with_reducible apply Slice.predAdd_good
    | with_reducible apply Slice.closeLow_good
    | with_reducible apply Slice.setLock_good
    | with_reducible apply Slice.flushPlru_good
    | with_reducible refine Slice.shAlloc_good ?_ (by with_reducible assumption)
    | with_reducible refine Slice.ensureShadow_good ?_ (by with_reducible assumption)
    | with_reducible refine Slice.demandLook_good ?_ (by with_reducible assumption)
    | fail_if_no_progress ((with_reducible apply Slice.good_mk) <;> (first | with_reducible assumption | with_reducible rfl | skip))
    | split)

theorem powerUpDone_kept {z0 : State} (g : BitVec 2) (s : State)
    (hK : Kept z0 s) : Kept z0 (powerUpDone g s) := by
  unfold powerUpDone
  repeat' (first
    | with_reducible assumption
    | with_reducible apply State.modSl_kept
    | with_reducible apply endCmd_kept
    | with_reducible refine Kept.ite (fun _ => ?_) (fun _ => ?_)
    | fail_if_no_progress ((with_reducible apply Kept.mk1) <;> (first | with_reducible assumption | with_reducible rfl | skip))
    | with_reducible refine Kept.each (fun _ _ _ => ?_) ?_
    | with_reducible refine Kept.foldl2 (fun _ _ _ => ?_) ?_
    | with_reducible refine Kept.foldl (fun _ _ _ => ?_) ?_
    | extract_lets
    | with_reducible refine Kept.slGood (z0 := z0) ?_ ?_
    | with_reducible apply Slice.good_slots
    | with_reducible apply Slice.putBlock_good
    | with_reducible apply Slice.putWord_good
    | with_reducible apply Slice.putPlru_good
    | with_reducible apply Slice.touchWay_good
    | with_reducible apply Slice.mendSlot_good
    | with_reducible apply Slice.mendTS_good
    | with_reducible apply Slice.hitWay_good
    | with_reducible apply Slice.dropMove_good
    | with_reducible apply Slice.outcome_good
    | with_reducible apply Slice.hintFill_good
    | with_reducible apply Slice.predFix_good
    | with_reducible apply Slice.hintSeen_good
    | with_reducible apply Slice.predAdd_good
    | with_reducible apply Slice.closeLow_good
    | with_reducible apply Slice.setLock_good
    | with_reducible apply Slice.flushPlru_good
    | with_reducible refine Slice.shAlloc_good ?_ (by with_reducible assumption)
    | with_reducible refine Slice.ensureShadow_good ?_ (by with_reducible assumption)
    | with_reducible refine Slice.demandLook_good ?_ (by with_reducible assumption)
    | fail_if_no_progress ((with_reducible apply Slice.good_mk) <;> (first | with_reducible assumption | with_reducible rfl | skip))
    | split
    | with_reducible refine Kept.of_snd (by with_reducible assumption) ?_
    | dsimp +zetaDelta only
    | intro)

theorem reportSteps_kept {z0 : State} (n : NodeId) (s : State)
    (hK : Kept z0 s) : Kept z0 (reportSteps n s) := by
  unfold reportSteps
  repeat' (first
    | with_reducible assumption
    | with_reducible apply sendVc5_kept
    | with_reducible refine Kept.ite (fun _ => ?_) (fun _ => ?_)
    | fail_if_no_progress ((with_reducible apply Kept.mk1) <;> (first | with_reducible assumption | with_reducible rfl | skip))
    | with_reducible refine Kept.each (fun _ _ _ => ?_) ?_)

theorem modLive_kept {z0 : State} (n : NodeId) (f : NodeSt → NodeSt) (s : State)
    (hK : Kept z0 s) : Kept z0 (modLive n f s) := by
  unfold modLive
  repeat' (first
    | with_reducible assumption
    | with_reducible refine Kept.ite (fun _ => ?_) (fun _ => ?_)
    | fail_if_no_progress ((with_reducible apply Kept.mk1) <;> (first | with_reducible assumption | with_reducible rfl | skip)))

theorem purgeDone_kept {z0 : State} (n : NodeId) (s : State)
    (hK : Kept z0 s) : Kept z0 (purgeDone n s) := by
  unfold purgeDone
  repeat' (first
    | with_reducible assumption
    | with_reducible apply walkCarry_kept
    | with_reducible apply endWalk_kept
    | with_reducible apply reportSteps_kept
    | with_reducible apply modLive_kept
    | with_reducible refine Kept.ite (fun _ => ?_) (fun _ => ?_)
    | fail_if_no_progress ((with_reducible apply Kept.mk1) <;> (first | with_reducible assumption | with_reducible rfl | skip))
    | with_reducible refine Kept.each (fun _ _ _ => ?_) ?_)

theorem modFw_kept {z0 : State} (f : Fw → Fw) (s : State)
    (hK : Kept z0 s) : Kept z0 (modFw f s) := by
  unfold modFw
  repeat' (first
    | with_reducible assumption
    | with_reducible refine Kept.ite (fun _ => ?_) (fun _ => ?_)
    | fail_if_no_progress ((with_reducible apply Kept.mk1) <;> (first | with_reducible assumption | with_reducible rfl | skip)))

theorem setPolicy_kept {z0 : State} (m : Member) (r : BitVec 10) (wt : Bool) (s : State)
    (hK : Kept z0 s) : Kept z0 (setPolicy m r wt s) := by
  unfold setPolicy
  repeat' (first
    | with_reducible assumption
    | with_reducible refine Kept.ite (fun _ => ?_) (fun _ => ?_)
    | fail_if_no_progress ((with_reducible apply Kept.mk1) <;> (first | with_reducible assumption | with_reducible rfl | skip)))

theorem applyPolicy_kept {z0 : State} (m : Member) (r : BitVec 10) (wt : Bool) (src : NodeId) (s : State)
    (hK : Kept z0 s) : Kept z0 (applyPolicy m r wt src s) := by
  unfold applyPolicy
  repeat' (first
    | with_reducible assumption
    | with_reducible apply issueEvery_kept
    | with_reducible apply closeEntries_kept
    | with_reducible apply startWalk_kept
    | with_reducible apply endWalk_kept
    | with_reducible apply modFw_kept
    | with_reducible apply setPolicy_kept
    | with_reducible refine Kept.ite (fun _ => ?_) (fun _ => ?_)
    | fail_if_no_progress ((with_reducible apply Kept.mk1) <;> (first | with_reducible assumption | with_reducible rfl | skip))
    | with_reducible refine Kept.each (fun _ _ _ => ?_) ?_)

theorem policyAcked_kept {z0 : State} (n : NodeId) (s : State)
    (hK : Kept z0 s) : Kept z0 (policyAcked n s) := by
  unfold policyAcked
  repeat' (first
    | with_reducible assumption
    | with_reducible apply endCmd_kept
    | with_reducible apply modFw_kept
    | with_reducible refine Kept.ite (fun _ => ?_) (fun _ => ?_)
    | fail_if_no_progress ((with_reducible apply Kept.mk1) <;> (first | with_reducible assumption | with_reducible rfl | skip))
    | with_reducible refine Kept.each (fun _ _ _ => ?_) ?_
    | with_reducible refine Kept.foldl2 (fun _ _ _ => ?_) ?_
    | with_reducible refine Kept.foldl (fun _ _ _ => ?_) ?_
    | extract_lets
    | with_reducible refine Kept.slGood (z0 := z0) ?_ ?_
    | with_reducible apply Slice.good_slots
    | with_reducible apply Slice.putBlock_good
    | with_reducible apply Slice.putWord_good
    | with_reducible apply Slice.putPlru_good
    | with_reducible apply Slice.touchWay_good
    | with_reducible apply Slice.mendSlot_good
    | with_reducible apply Slice.mendTS_good
    | with_reducible apply Slice.hitWay_good
    | with_reducible apply Slice.dropMove_good
    | with_reducible apply Slice.outcome_good
    | with_reducible apply Slice.hintFill_good
    | with_reducible apply Slice.predFix_good
    | with_reducible apply Slice.hintSeen_good
    | with_reducible apply Slice.predAdd_good
    | with_reducible apply Slice.closeLow_good
    | with_reducible apply Slice.setLock_good
    | with_reducible apply Slice.flushPlru_good
    | with_reducible refine Slice.shAlloc_good ?_ (by with_reducible assumption)
    | with_reducible refine Slice.ensureShadow_good ?_ (by with_reducible assumption)
    | with_reducible refine Slice.demandLook_good ?_ (by with_reducible assumption)
    | fail_if_no_progress ((with_reducible apply Slice.good_mk) <;> (first | with_reducible assumption | with_reducible rfl | skip))
    | split)

theorem policySkip_kept {z0 : State} (n : NodeId) (s : State)
    (hK : Kept z0 s) : Kept z0 (policySkip n s) := by
  unfold policySkip
  repeat' (first
    | with_reducible assumption
    | with_reducible apply endCmd_kept
    | with_reducible apply modFw_kept
    | with_reducible refine Kept.ite (fun _ => ?_) (fun _ => ?_)
    | fail_if_no_progress ((with_reducible apply Kept.mk1) <;> (first | with_reducible assumption | with_reducible rfl | skip))
    | with_reducible refine Kept.each (fun _ _ _ => ?_) ?_
    | with_reducible refine Kept.foldl2 (fun _ _ _ => ?_) ?_
    | with_reducible refine Kept.foldl (fun _ _ _ => ?_) ?_
    | extract_lets
    | with_reducible refine Kept.slGood (z0 := z0) ?_ ?_
    | with_reducible apply Slice.good_slots
    | with_reducible apply Slice.putBlock_good
    | with_reducible apply Slice.putWord_good
    | with_reducible apply Slice.putPlru_good
    | with_reducible apply Slice.touchWay_good
    | with_reducible apply Slice.mendSlot_good
    | with_reducible apply Slice.mendTS_good
    | with_reducible apply Slice.hitWay_good
    | with_reducible apply Slice.dropMove_good
    | with_reducible apply Slice.outcome_good
    | with_reducible apply Slice.hintFill_good
    | with_reducible apply Slice.predFix_good
    | with_reducible apply Slice.hintSeen_good
    | with_reducible apply Slice.predAdd_good
    | with_reducible apply Slice.closeLow_good
    | with_reducible apply Slice.setLock_good
    | with_reducible apply Slice.flushPlru_good
    | with_reducible refine Slice.shAlloc_good ?_ (by with_reducible assumption)
    | with_reducible refine Slice.ensureShadow_good ?_ (by with_reducible assumption)
    | with_reducible refine Slice.demandLook_good ?_ (by with_reducible assumption)
    | fail_if_no_progress ((with_reducible apply Slice.good_mk) <;> (first | with_reducible assumption | with_reducible rfl | skip))
    | split)

theorem policyTimeout_kept {z0 : State} (s : State)
    (hK : Kept z0 s) : Kept z0 (policyTimeout s) := by
  unfold policyTimeout
  repeat' (first
    | with_reducible assumption
    | with_reducible apply endCmd_kept
    | with_reducible apply modFw_kept
    | with_reducible refine Kept.ite (fun _ => ?_) (fun _ => ?_)
    | fail_if_no_progress ((with_reducible apply Kept.mk1) <;> (first | with_reducible assumption | with_reducible rfl | skip))
    | with_reducible refine Kept.each (fun _ _ _ => ?_) ?_
    | with_reducible refine Kept.foldl2 (fun _ _ _ => ?_) ?_
    | with_reducible refine Kept.foldl (fun _ _ _ => ?_) ?_
    | extract_lets
    | with_reducible refine Kept.slGood (z0 := z0) ?_ ?_
    | with_reducible apply Slice.good_slots
    | with_reducible apply Slice.putBlock_good
    | with_reducible apply Slice.putWord_good
    | with_reducible apply Slice.putPlru_good
    | with_reducible apply Slice.touchWay_good
    | with_reducible apply Slice.mendSlot_good
    | with_reducible apply Slice.mendTS_good
    | with_reducible apply Slice.hitWay_good
    | with_reducible apply Slice.dropMove_good
    | with_reducible apply Slice.outcome_good
    | with_reducible apply Slice.hintFill_good
    | with_reducible apply Slice.predFix_good
    | with_reducible apply Slice.hintSeen_good
    | with_reducible apply Slice.predAdd_good
    | with_reducible apply Slice.closeLow_good
    | with_reducible apply Slice.setLock_good
    | with_reducible apply Slice.flushPlru_good
    | with_reducible refine Slice.shAlloc_good ?_ (by with_reducible assumption)
    | with_reducible refine Slice.ensureShadow_good ?_ (by with_reducible assumption)
    | with_reducible refine Slice.demandLook_good ?_ (by with_reducible assumption)
    | fail_if_no_progress ((with_reducible apply Slice.good_mk) <;> (first | with_reducible assumption | with_reducible rfl | skip))
    | split)

theorem policyDone_kept {z0 : State} (m : Member) (r : BitVec 10) (s : State)
    (hK : Kept z0 s) : Kept z0 (policyDone m r s) := by
  unfold policyDone
  repeat' (first
    | with_reducible assumption
    | with_reducible apply sendVc5_kept
    | with_reducible apply issueAll_kept
    | with_reducible apply walkCarry_kept
    | with_reducible apply endWalk_kept
    | with_reducible apply modFw_kept
    | with_reducible apply policyAcked_kept
    | with_reducible refine Kept.ite (fun _ => ?_) (fun _ => ?_)
    | fail_if_no_progress ((with_reducible apply Kept.mk1) <;> (first | with_reducible assumption | with_reducible rfl | skip))
    | with_reducible refine Kept.each (fun _ _ _ => ?_) ?_
    | with_reducible refine Kept.foldl2 (fun _ _ _ => ?_) ?_
    | with_reducible refine Kept.foldl (fun _ _ _ => ?_) ?_
    | extract_lets
    | with_reducible refine Kept.slGood (z0 := z0) ?_ ?_
    | with_reducible apply Slice.good_slots
    | with_reducible apply Slice.putBlock_good
    | with_reducible apply Slice.putWord_good
    | with_reducible apply Slice.putPlru_good
    | with_reducible apply Slice.touchWay_good
    | with_reducible apply Slice.mendSlot_good
    | with_reducible apply Slice.mendTS_good
    | with_reducible apply Slice.hitWay_good
    | with_reducible apply Slice.dropMove_good
    | with_reducible apply Slice.outcome_good
    | with_reducible apply Slice.hintFill_good
    | with_reducible apply Slice.predFix_good
    | with_reducible apply Slice.hintSeen_good
    | with_reducible apply Slice.predAdd_good
    | with_reducible apply Slice.closeLow_good
    | with_reducible apply Slice.setLock_good
    | with_reducible apply Slice.flushPlru_good
    | with_reducible refine Slice.shAlloc_good ?_ (by with_reducible assumption)
    | with_reducible refine Slice.ensureShadow_good ?_ (by with_reducible assumption)
    | with_reducible refine Slice.demandLook_good ?_ (by with_reducible assumption)
    | fail_if_no_progress ((with_reducible apply Slice.good_mk) <;> (first | with_reducible assumption | with_reducible rfl | skip))
    | split)

theorem regionSetCmd_kept {z0 : State} (p k : Port) (arg : BitVec 16) (s : State)
    (hK : Kept z0 s) : Kept z0 (regionSetCmd p k arg s) := by
  unfold regionSetCmd
  repeat' (first
    | with_reducible assumption
    | with_reducible apply sendVc5_kept
    | with_reducible apply finish_kept
    | with_reducible apply modFw_kept
    | with_reducible apply applyPolicy_kept
    | with_reducible refine Kept.ite (fun _ => ?_) (fun _ => ?_)
    | fail_if_no_progress ((with_reducible apply Kept.mk1) <;> (first | with_reducible assumption | with_reducible rfl | skip))
    | with_reducible refine Kept.each (fun _ _ _ => ?_) ?_)

theorem regionGetCmd_kept {z0 : State} (p k : Port) (arg : BitVec 16) (s : State)
    (hK : Kept z0 s) : Kept z0 (regionGetCmd p k arg s) := by
  unfold regionGetCmd
  repeat' (first
    | with_reducible assumption
    | with_reducible apply outPar_kept
    | with_reducible apply finish_kept
    | with_reducible refine Kept.ite (fun _ => ?_) (fun _ => ?_))

theorem shareGrant_kept {z0 : State} (n : NodeId) (p : Port) (missr : BitVec 11) (depth : Nat) (s : State)
    (hK : Kept z0 s) : Kept z0 (shareGrant n p missr depth s).2 := by
  unfold shareGrant
  repeat' (first
    | with_reducible assumption
    | with_reducible apply State.modHome_kept
    | with_reducible refine Kept.ite (fun _ => ?_) (fun _ => ?_)
    | fail_if_no_progress ((with_reducible apply Kept.mk1) <;> (first | with_reducible assumption | with_reducible rfl | skip))
    | with_reducible refine Kept.each (fun _ _ _ => ?_) ?_
    | with_reducible refine Kept.foldl2 (fun _ _ _ => ?_) ?_
    | with_reducible refine Kept.foldl (fun _ _ _ => ?_) ?_
    | extract_lets
    | with_reducible refine Kept.slGood (z0 := z0) ?_ ?_
    | with_reducible apply Slice.good_slots
    | with_reducible apply Slice.putBlock_good
    | with_reducible apply Slice.putWord_good
    | with_reducible apply Slice.putPlru_good
    | with_reducible apply Slice.touchWay_good
    | with_reducible apply Slice.mendSlot_good
    | with_reducible apply Slice.mendTS_good
    | with_reducible apply Slice.hitWay_good
    | with_reducible apply Slice.dropMove_good
    | with_reducible apply Slice.outcome_good
    | with_reducible apply Slice.hintFill_good
    | with_reducible apply Slice.predFix_good
    | with_reducible apply Slice.hintSeen_good
    | with_reducible apply Slice.predAdd_good
    | with_reducible apply Slice.closeLow_good
    | with_reducible apply Slice.setLock_good
    | with_reducible apply Slice.flushPlru_good
    | with_reducible refine Slice.shAlloc_good ?_ (by with_reducible assumption)
    | with_reducible refine Slice.ensureShadow_good ?_ (by with_reducible assumption)
    | with_reducible refine Slice.demandLook_good ?_ (by with_reducible assumption)
    | fail_if_no_progress ((with_reducible apply Slice.good_mk) <;> (first | with_reducible assumption | with_reducible rfl | skip))
    | split)

theorem shareFree_kept {z0 : State} (n : NodeId) (p : Port) (s : State)
    (hK : Kept z0 s) : Kept z0 (shareFree n p s) := by
  unfold shareFree
  repeat' (first
    | with_reducible assumption
    | with_reducible apply State.modHome_kept)

theorem sharesDrop_kept {z0 : State} (p : Port) (homes : List NodeId) (s : State)
    (hK : Kept z0 s) : Kept z0 (sharesDrop p homes s) := by
  unfold sharesDrop
  repeat' (first
    | with_reducible assumption
    | with_reducible apply sendVc5_kept
    | with_reducible apply shareFree_kept
    | with_reducible refine Kept.ite (fun _ => ?_) (fun _ => ?_)
    | fail_if_no_progress ((with_reducible apply Kept.mk1) <;> (first | with_reducible assumption | with_reducible rfl | skip))
    | with_reducible refine Kept.each (fun _ _ _ => ?_) ?_)

theorem ctrGrant_kept {z0 : State} (op : CtrOp) (s : State)
    (hK : Kept z0 s) : Kept z0 (ctrGrant op s) := by
  unfold ctrGrant
  repeat' (first
    | with_reducible assumption
    | with_reducible apply State.setHp_kept
    | with_reducible apply finishAs_kept
    | with_reducible apply modFw_kept
    | with_reducible apply sharesDrop_kept
    | with_reducible refine Kept.ite (fun _ => ?_) (fun _ => ?_))

theorem ctrCheck_kept {z0 : State} (op : CtrOp) (s : State)
    (hK : Kept z0 s) : Kept z0 (ctrCheck op s) := by
  unfold ctrCheck
  repeat' (first
    | with_reducible assumption
    | with_reducible apply finishAs_kept
    | with_reducible apply modFw_kept
    | with_reducible apply sharesDrop_kept
    | with_reducible apply ctrGrant_kept
    | with_reducible refine Kept.ite (fun _ => ?_) (fun _ => ?_))

theorem contractReqCmd_kept {z0 : State} (p k : Port) (arg : BitVec 16) (s : State)
    (hK : Kept z0 s) : Kept z0 (contractReqCmd p k arg s) := by
  unfold contractReqCmd
  repeat' (first
    | with_reducible assumption
    | with_reducible apply sendVc5_kept
    | with_reducible apply finish_kept
    | with_reducible apply shareGrant_kept
    | with_reducible apply ctrCheck_kept
    | with_reducible refine Kept.ite (fun _ => ?_) (fun _ => ?_)
    | fail_if_no_progress ((with_reducible apply Kept.mk1) <;> (first | with_reducible assumption | with_reducible rfl | skip))
    | with_reducible refine Kept.each (fun _ _ _ => ?_) ?_)

theorem shareAnswer_kept {z0 : State} (n : NodeId) (p : Port) (ok : Bool) (s : State)
    (hK : Kept z0 s) : Kept z0 (shareAnswer n p ok s) := by
  unfold shareAnswer
  repeat' (first
    | with_reducible assumption
    | with_reducible apply sharesDrop_kept
    | with_reducible apply ctrCheck_kept
    | with_reducible refine Kept.ite (fun _ => ?_) (fun _ => ?_)
    | fail_if_no_progress ((with_reducible apply Kept.mk1) <;> (first | with_reducible assumption | with_reducible rfl | skip))
    | with_reducible refine Kept.each (fun _ _ _ => ?_) ?_
    | with_reducible refine Kept.foldl2 (fun _ _ _ => ?_) ?_
    | with_reducible refine Kept.foldl (fun _ _ _ => ?_) ?_
    | extract_lets
    | with_reducible refine Kept.slGood (z0 := z0) ?_ ?_
    | with_reducible apply Slice.good_slots
    | with_reducible apply Slice.putBlock_good
    | with_reducible apply Slice.putWord_good
    | with_reducible apply Slice.putPlru_good
    | with_reducible apply Slice.touchWay_good
    | with_reducible apply Slice.mendSlot_good
    | with_reducible apply Slice.mendTS_good
    | with_reducible apply Slice.hitWay_good
    | with_reducible apply Slice.dropMove_good
    | with_reducible apply Slice.outcome_good
    | with_reducible apply Slice.hintFill_good
    | with_reducible apply Slice.predFix_good
    | with_reducible apply Slice.hintSeen_good
    | with_reducible apply Slice.predAdd_good
    | with_reducible apply Slice.closeLow_good
    | with_reducible apply Slice.setLock_good
    | with_reducible apply Slice.flushPlru_good
    | with_reducible refine Slice.shAlloc_good ?_ (by with_reducible assumption)
    | with_reducible refine Slice.ensureShadow_good ?_ (by with_reducible assumption)
    | with_reducible refine Slice.demandLook_good ?_ (by with_reducible assumption)
    | fail_if_no_progress ((with_reducible apply Slice.good_mk) <;> (first | with_reducible assumption | with_reducible rfl | skip))
    | split)

theorem shareSkip_kept {z0 : State} (n : NodeId) (s : State)
    (hK : Kept z0 s) : Kept z0 (shareSkip n s) := by
  unfold shareSkip
  repeat' (first
    | with_reducible assumption
    | with_reducible apply ctrCheck_kept
    | with_reducible refine Kept.ite (fun _ => ?_) (fun _ => ?_)
    | fail_if_no_progress ((with_reducible apply Kept.mk1) <;> (first | with_reducible assumption | with_reducible rfl | skip))
    | with_reducible refine Kept.each (fun _ _ _ => ?_) ?_)

theorem ctrTimeout_kept {z0 : State} (p : Port) (s : State)
    (hK : Kept z0 s) : Kept z0 (ctrTimeout p s) := by
  unfold ctrTimeout
  repeat' (first
    | with_reducible assumption
    | with_reducible apply finishAs_kept
    | with_reducible apply modFw_kept
    | with_reducible apply sharesDrop_kept
    | with_reducible refine Kept.ite (fun _ => ?_) (fun _ => ?_)
    | fail_if_no_progress ((with_reducible apply Kept.mk1) <;> (first | with_reducible assumption | with_reducible rfl | skip))
    | with_reducible refine Kept.each (fun _ _ _ => ?_) ?_
    | with_reducible refine Kept.foldl2 (fun _ _ _ => ?_) ?_
    | with_reducible refine Kept.foldl (fun _ _ _ => ?_) ?_
    | extract_lets
    | with_reducible refine Kept.slGood (z0 := z0) ?_ ?_
    | with_reducible apply Slice.good_slots
    | with_reducible apply Slice.putBlock_good
    | with_reducible apply Slice.putWord_good
    | with_reducible apply Slice.putPlru_good
    | with_reducible apply Slice.touchWay_good
    | with_reducible apply Slice.mendSlot_good
    | with_reducible apply Slice.mendTS_good
    | with_reducible apply Slice.hitWay_good
    | with_reducible apply Slice.dropMove_good
    | with_reducible apply Slice.outcome_good
    | with_reducible apply Slice.hintFill_good
    | with_reducible apply Slice.predFix_good
    | with_reducible apply Slice.hintSeen_good
    | with_reducible apply Slice.predAdd_good
    | with_reducible apply Slice.closeLow_good
    | with_reducible apply Slice.setLock_good
    | with_reducible apply Slice.flushPlru_good
    | with_reducible refine Slice.shAlloc_good ?_ (by with_reducible assumption)
    | with_reducible refine Slice.ensureShadow_good ?_ (by with_reducible assumption)
    | with_reducible refine Slice.demandLook_good ?_ (by with_reducible assumption)
    | fail_if_no_progress ((with_reducible apply Slice.good_mk) <;> (first | with_reducible assumption | with_reducible rfl | skip))
    | split)

theorem relComplete_kept {z0 : State} (p : Port) (s : State)
    (hK : Kept z0 s) : Kept z0 (relComplete p s) := by
  unfold relComplete
  repeat' (first
    | with_reducible assumption
    | with_reducible apply State.setHp_kept
    | with_reducible apply downMoves_kept
    | with_reducible apply finish_kept
    | with_reducible apply modFw_kept
    | with_reducible apply sharesDrop_kept
    | with_reducible refine Kept.ite (fun _ => ?_) (fun _ => ?_)
    | fail_if_no_progress ((with_reducible apply Kept.mk1) <;> (first | with_reducible assumption | with_reducible rfl | skip))
    | with_reducible refine Kept.each (fun _ _ _ => ?_) ?_)

theorem contractRelCmd_kept {z0 : State} (p k : Port) (arg : BitVec 16) (s : State)
    (hK : Kept z0 s) : Kept z0 (contractRelCmd p k arg s) := by
  unfold contractRelCmd
  repeat' (first
    | with_reducible assumption
    | with_reducible apply State.setHp_kept
    | with_reducible apply finish_kept
    | with_reducible apply modFw_kept
    | with_reducible apply relComplete_kept
    | with_reducible refine Kept.ite (fun _ => ?_) (fun _ => ?_))

theorem listChange_kept {z0 : State} (g : BitVec 6) (n : NodeId) (join : Bool) (s : State)
    (hK : Kept z0 s) : Kept z0 (listChange g n join s) := by
  unfold listChange
  repeat' (first
    | with_reducible assumption
    | with_reducible refine Kept.ite (fun _ => ?_) (fun _ => ?_)
    | fail_if_no_progress ((with_reducible apply Kept.mk1) <;> (first | with_reducible assumption | with_reducible rfl | skip)))

theorem memberChange_kept {z0 : State} (g : BitVec 6) (n : NodeId) (join : Bool) (s : State)
    (hK : Kept z0 s) : Kept z0 (memberChange g n join s) := by
  unfold memberChange
  repeat' (first
    | with_reducible assumption
    | with_reducible apply sendVc5_kept
    | with_reducible apply listChange_kept
    | with_reducible refine Kept.ite (fun _ => ?_) (fun _ => ?_))

theorem tellMembers_kept {z0 : State} (g : BitVec 6) (join : Bool) (s : State)
    (hK : Kept z0 s) : Kept z0 (tellMembers g join s) := by
  unfold tellMembers
  repeat' (first
    | with_reducible assumption
    | with_reducible apply sendVc5_kept
    | with_reducible apply listChange_kept
    | with_reducible refine Kept.ite (fun _ => ?_) (fun _ => ?_)
    | fail_if_no_progress ((with_reducible apply Kept.mk1) <;> (first | with_reducible assumption | with_reducible rfl | skip))
    | with_reducible refine Kept.each (fun _ _ _ => ?_) ?_)

theorem joinPort_kept {z0 : State} (p : Port) (k : Option Port) (s : State)
    (hK : Kept z0 s) : Kept z0 (joinPort p k s) := by
  unfold joinPort
  repeat' (first
    | with_reducible assumption
    | with_reducible apply State.modHp_kept
    | with_reducible apply finishAs_kept)

theorem firstJoin_kept {z0 : State} (p : Port) (k : Option Port) (g : BitVec 6) (s : State)
    (hK : Kept z0 s) : Kept z0 (firstJoin p k g s) := by
  unfold firstJoin
  repeat' (first
    | with_reducible assumption
    | with_reducible apply startWalk_kept
    | with_reducible apply finishAs_kept
    | with_reducible apply modFw_kept
    | with_reducible refine Kept.ite (fun _ => ?_) (fun _ => ?_)
    | fail_if_no_progress ((with_reducible apply Kept.mk1) <;> (first | with_reducible assumption | with_reducible rfl | skip))
    | with_reducible refine Kept.each (fun _ _ _ => ?_) ?_)

theorem joinGo_kept {z0 : State} (p : Port) (k : Option Port) (g : BitVec 6) (s : State)
    (hK : Kept z0 s) : Kept z0 (joinGo p k g s) := by
  unfold joinGo
  repeat' (first
    | with_reducible assumption
    | with_reducible apply finishAs_kept
    | with_reducible apply modFw_kept
    | with_reducible apply joinPort_kept
    | with_reducible apply firstJoin_kept
    | with_reducible refine Kept.ite (fun _ => ?_) (fun _ => ?_))

theorem stampJoinCmd_kept {z0 : State} (p k : Port) (arg : BitVec 16) (s : State)
    (hK : Kept z0 s) : Kept z0 (stampJoinCmd p k arg s) := by
  unfold stampJoinCmd
  repeat' (first
    | with_reducible assumption
    | with_reducible apply finish_kept
    | with_reducible apply joinGo_kept
    | with_reducible refine Kept.ite (fun _ => ?_) (fun _ => ?_))

theorem joinWaiters_kept {z0 : State} (s : State)
    (hK : Kept z0 s) : Kept z0 (joinWaiters s) := by
  unfold joinWaiters
  repeat' (first
    | with_reducible assumption
    | with_reducible apply modFw_kept
    | with_reducible apply joinGo_kept
    | with_reducible refine Kept.ite (fun _ => ?_) (fun _ => ?_)
    | fail_if_no_progress ((with_reducible apply Kept.mk1) <;> (first | with_reducible assumption | with_reducible rfl | skip))
    | with_reducible refine Kept.each (fun _ _ _ => ?_) ?_
    | with_reducible refine Kept.foldl2 (fun _ _ _ => ?_) ?_
    | with_reducible refine Kept.foldl (fun _ _ _ => ?_) ?_)

theorem joinDone_kept {z0 : State} (p : Port) (told : W64) (s : State)
    (hK : Kept z0 s) : Kept z0 (joinDone p told s) := by
  unfold joinDone
  repeat' (first
    | with_reducible assumption
    | with_reducible apply State.modHp_kept
    | with_reducible apply settle_kept
    | with_reducible apply walkCarry_kept
    | with_reducible apply endWalk_kept
    | with_reducible apply endCmd_kept
    | with_reducible apply modFw_kept
    | with_reducible apply tellMembers_kept
    | with_reducible apply joinWaiters_kept
    | with_reducible refine Kept.ite (fun _ => ?_) (fun _ => ?_)
    | fail_if_no_progress ((with_reducible apply Kept.mk1) <;> (first | with_reducible assumption | with_reducible rfl | skip))
    | with_reducible refine Kept.each (fun _ _ _ => ?_) ?_
    | with_reducible refine Kept.foldl2 (fun _ _ _ => ?_) ?_
    | with_reducible refine Kept.foldl (fun _ _ _ => ?_) ?_
    | extract_lets
    | with_reducible refine Kept.slGood (z0 := z0) ?_ ?_
    | with_reducible apply Slice.good_slots
    | with_reducible apply Slice.putBlock_good
    | with_reducible apply Slice.putWord_good
    | with_reducible apply Slice.putPlru_good
    | with_reducible apply Slice.touchWay_good
    | with_reducible apply Slice.mendSlot_good
    | with_reducible apply Slice.mendTS_good
    | with_reducible apply Slice.hitWay_good
    | with_reducible apply Slice.dropMove_good
    | with_reducible apply Slice.outcome_good
    | with_reducible apply Slice.hintFill_good
    | with_reducible apply Slice.predFix_good
    | with_reducible apply Slice.hintSeen_good
    | with_reducible apply Slice.predAdd_good
    | with_reducible apply Slice.closeLow_good
    | with_reducible apply Slice.setLock_good
    | with_reducible apply Slice.flushPlru_good
    | with_reducible refine Slice.shAlloc_good ?_ (by with_reducible assumption)
    | with_reducible refine Slice.ensureShadow_good ?_ (by with_reducible assumption)
    | with_reducible refine Slice.demandLook_good ?_ (by with_reducible assumption)
    | fail_if_no_progress ((with_reducible apply Slice.good_mk) <;> (first | with_reducible assumption | with_reducible rfl | skip))
    | split)

theorem leaveDone_kept {z0 : State} (p : Port) (s : State)
    (hK : Kept z0 s) : Kept z0 (leaveDone p s) := by
  unfold leaveDone
  repeat' (first
    | with_reducible assumption
    | with_reducible apply State.modHp_kept
    | with_reducible apply settle_kept
    | with_reducible apply downMoves_kept
    | with_reducible apply finish_kept
    | with_reducible apply modFw_kept
    | with_reducible apply tellMembers_kept
    | with_reducible refine Kept.ite (fun _ => ?_) (fun _ => ?_)
    | fail_if_no_progress ((with_reducible apply Kept.mk1) <;> (first | with_reducible assumption | with_reducible rfl | skip))
    | with_reducible refine Kept.each (fun _ _ _ => ?_) ?_)

theorem stampLeaveCmd_kept {z0 : State} (p k : Port) (arg : BitVec 16) (s : State)
    (hK : Kept z0 s) : Kept z0 (stampLeaveCmd p k arg s) := by
  unfold stampLeaveCmd
  repeat' (first
    | with_reducible assumption
    | with_reducible apply State.modHp_kept
    | with_reducible apply finish_kept
    | with_reducible apply modFw_kept
    | with_reducible apply leaveDone_kept
    | with_reducible refine Kept.ite (fun _ => ?_) (fun _ => ?_))

theorem dropReloc_kept {z0 : State} (x : Reloc) (s : State)
    (hK : Kept z0 s) : Kept z0 (dropReloc x s) := by
  unfold dropReloc
  repeat' (first
    | with_reducible assumption
    | with_reducible apply State.modHome_kept)

theorem modReloc_kept {z0 : State} (x : Reloc) (f : Reloc → Reloc) (s : State)
    (hK : Kept z0 s) : Kept z0 (modReloc x f s) := by
  unfold modReloc
  repeat' (first
    | with_reducible assumption
    | with_reducible apply State.modHome_kept)

theorem relocEnd_kept {z0 : State} (x : Reloc) (rc : Byte) (val : BitVec 16) (s : State)
    (hK : Kept z0 s) : Kept z0 (relocEnd x rc val s) := by
  unfold relocEnd
  repeat' (first
    | with_reducible assumption
    | with_reducible apply finish_kept
    | with_reducible refine Kept.ite (fun _ => ?_) (fun _ => ?_)
    | fail_if_no_progress ((with_reducible apply Kept.mk1) <;> (first | with_reducible assumption | with_reducible rfl | skip))
    | with_reducible refine Kept.each (fun _ _ _ => ?_) ?_
    | with_reducible refine Kept.foldl2 (fun _ _ _ => ?_) ?_
    | with_reducible refine Kept.foldl (fun _ _ _ => ?_) ?_
    | extract_lets
    | with_reducible refine Kept.slGood (z0 := z0) ?_ ?_
    | with_reducible apply Slice.good_slots
    | with_reducible apply Slice.putBlock_good
    | with_reducible apply Slice.putWord_good
    | with_reducible apply Slice.putPlru_good
    | with_reducible apply Slice.touchWay_good
    | with_reducible apply Slice.mendSlot_good
    | with_reducible apply Slice.mendTS_good
    | with_reducible apply Slice.hitWay_good
    | with_reducible apply Slice.dropMove_good
    | with_reducible apply Slice.outcome_good
    | with_reducible apply Slice.hintFill_good
    | with_reducible apply Slice.predFix_good
    | with_reducible apply Slice.hintSeen_good
    | with_reducible apply Slice.predAdd_good
    | with_reducible apply Slice.closeLow_good
    | with_reducible apply Slice.setLock_good
    | with_reducible apply Slice.flushPlru_good
    | with_reducible refine Slice.shAlloc_good ?_ (by with_reducible assumption)
    | with_reducible refine Slice.ensureShadow_good ?_ (by with_reducible assumption)
    | with_reducible refine Slice.demandLook_good ?_ (by with_reducible assumption)
    | fail_if_no_progress ((with_reducible apply Slice.good_mk) <;> (first | with_reducible assumption | with_reducible rfl | skip))
    | split)

theorem rtabLower_kept {z0 : State} (m : Member) (r : BitVec 10) (gen : BitVec 8) (s : State)
    (hK : Kept z0 s) : Kept z0 (rtabLower m r gen s) := by
  unfold rtabLower
  repeat' (first
    | with_reducible assumption
    | with_reducible apply State.modHome_kept)

theorem oweAck_kept {z0 : State} (src : NodeId) (m : Member) (r : BitVec 10) (gen : BitVec 8) (s : State)
    (hK : Kept z0 s) : Kept z0 (oweAck src m r gen s) := by
  unfold oweAck
  repeat' (first
    | with_reducible assumption
    | with_reducible apply State.modHome_kept)

theorem rtabCount_kept {z0 : State} (m : Member) (r : BitVec 10) (c : BitVec 8 × Member) (s : State)
    (hK : Kept z0 s) : Kept z0 (rtabCount m r c s) := by
  unfold rtabCount
  repeat' (first
    | with_reducible assumption
    | with_reducible apply State.modHome_kept)

theorem relocNote_kept {z0 : State} (src : NodeId) (m : Member) (r : BitVec 10) (gen : BitVec 8) (home : Member) (s : State)
    (hK : Kept z0 s) : Kept z0 (relocNote src m r gen home s) := by
  unfold relocNote
  repeat' (first
    | with_reducible assumption
    | with_reducible apply rtabSet_kept
    | with_reducible apply endMoving_kept
    | with_reducible apply setMoving_kept
    | with_reducible apply ackRelocs_kept
    | with_reducible apply oweAck_kept
    | with_reducible apply rtabCount_kept
    | with_reducible refine Kept.ite (fun _ => ?_) (fun _ => ?_))

theorem freeFrame_kept {z0 : State} (m : Member) (r : BitVec 10) (s : State)
    (hK : Kept z0 s) : Kept z0 (freeFrame m r s) := by
  unfold freeFrame
  repeat' (first
    | with_reducible assumption
    | with_reducible apply State.modHome_kept)

theorem clearFrame_kept {z0 : State} (n : Nat) (s : State)
    (hK : Kept z0 s) : Kept z0 (clearFrame n s) := by
  unfold clearFrame
  extract_lets inF out src s1 drop
  have h1 : Kept z0 s1 := Kept.mem hK fun g => spWf_filter (hK.good g).1
  exact State.modHome_kept _ _ h1

theorem stubCheck_kept {z0 : State} (s : State)
    (hK : Kept z0 s) : Kept z0 (stubCheck s) := by
  unfold stubCheck
  repeat' (first
    | with_reducible assumption
    | with_reducible apply State.modHome_kept
    | with_reducible apply sendVc5_kept
    | with_reducible apply rtabLower_kept
    | with_reducible refine Kept.ite (fun _ => ?_) (fun _ => ?_)
    | fail_if_no_progress ((with_reducible apply Kept.mk1) <;> (first | with_reducible assumption | with_reducible rfl | skip))
    | with_reducible refine Kept.each (fun _ _ _ => ?_) ?_)

theorem relocOver_kept {z0 : State} (x : Reloc) (s : State)
    (hK : Kept z0 s) : Kept z0 (relocOver x s) := by
  unfold relocOver
  repeat' (first
    | with_reducible assumption
    | with_reducible apply dropReloc_kept
    | with_reducible apply relocEnd_kept
    | with_reducible apply freeFrame_kept
    | with_reducible apply clearFrame_kept
    | with_reducible apply stubCheck_kept
    | with_reducible refine Kept.ite (fun _ => ?_) (fun _ => ?_))

theorem readyNote_kept {z0 : State} (src : NodeId) (m : Member) (r : BitVec 10) (gen : BitVec 8) (s : State)
    (hK : Kept z0 s) : Kept z0 (readyNote src m r gen s) := by
  unfold readyNote
  repeat' (first
    | with_reducible assumption
    | with_reducible apply rtabSet_kept
    | with_reducible apply endMoving_kept
    | with_reducible apply ackRelocs_kept
    | with_reducible apply relocOver_kept
    | with_reducible refine Kept.ite (fun _ => ?_) (fun _ => ?_)
    | fail_if_no_progress ((with_reducible apply Kept.mk1) <;> (first | with_reducible assumption | with_reducible rfl | skip))
    | with_reducible refine Kept.each (fun _ _ _ => ?_) ?_
    | with_reducible refine Kept.foldl2 (fun _ _ _ => ?_) ?_
    | with_reducible refine Kept.foldl (fun _ _ _ => ?_) ?_
    | extract_lets
    | with_reducible refine Kept.slGood (z0 := z0) ?_ ?_
    | with_reducible apply Slice.good_slots
    | with_reducible apply Slice.putBlock_good
    | with_reducible apply Slice.putWord_good
    | with_reducible apply Slice.putPlru_good
    | with_reducible apply Slice.touchWay_good
    | with_reducible apply Slice.mendSlot_good
    | with_reducible apply Slice.mendTS_good
    | with_reducible apply Slice.hitWay_good
    | with_reducible apply Slice.dropMove_good
    | with_reducible apply Slice.outcome_good
    | with_reducible apply Slice.hintFill_good
    | with_reducible apply Slice.predFix_good
    | with_reducible apply Slice.hintSeen_good
    | with_reducible apply Slice.predAdd_good
    | with_reducible apply Slice.closeLow_good
    | with_reducible apply Slice.setLock_good
    | with_reducible apply Slice.flushPlru_good
    | with_reducible refine Slice.shAlloc_good ?_ (by with_reducible assumption)
    | with_reducible refine Slice.ensureShadow_good ?_ (by with_reducible assumption)
    | with_reducible refine Slice.demandLook_good ?_ (by with_reducible assumption)
    | fail_if_no_progress ((with_reducible apply Slice.good_mk) <;> (first | with_reducible assumption | with_reducible rfl | skip))
    | split)

theorem onNotice_kept {z0 : State} (x : RNote) (s : State)
    (hK : Kept z0 s) : Kept z0 (onNotice x s) := by
  unfold onNotice
  repeat' (first
    | with_reducible assumption
    | with_reducible apply State.modHome_kept
    | with_reducible apply rtabLower_kept
    | with_reducible apply relocNote_kept
    | with_reducible apply readyNote_kept
    | with_reducible refine Kept.ite (fun _ => ?_) (fun _ => ?_)
    | fail_if_no_progress ((with_reducible apply Kept.mk1) <;> (first | with_reducible assumption | with_reducible rfl | skip))
    | with_reducible refine Kept.each (fun _ _ _ => ?_) ?_
    | with_reducible refine Kept.foldl2 (fun _ _ _ => ?_) ?_
    | with_reducible refine Kept.foldl (fun _ _ _ => ?_) ?_
    | extract_lets
    | with_reducible refine Kept.slGood (z0 := z0) ?_ ?_
    | with_reducible apply Slice.good_slots
    | with_reducible apply Slice.putBlock_good
    | with_reducible apply Slice.putWord_good
    | with_reducible apply Slice.putPlru_good
    | with_reducible apply Slice.touchWay_good
    | with_reducible apply Slice.mendSlot_good
    | with_reducible apply Slice.mendTS_good
    | with_reducible apply Slice.hitWay_good
    | with_reducible apply Slice.dropMove_good
    | with_reducible apply Slice.outcome_good
    | with_reducible apply Slice.hintFill_good
    | with_reducible apply Slice.predFix_good
    | with_reducible apply Slice.hintSeen_good
    | with_reducible apply Slice.predAdd_good
    | with_reducible apply Slice.closeLow_good
    | with_reducible apply Slice.setLock_good
    | with_reducible apply Slice.flushPlru_good
    | with_reducible refine Slice.shAlloc_good ?_ (by with_reducible assumption)
    | with_reducible refine Slice.ensureShadow_good ?_ (by with_reducible assumption)
    | with_reducible refine Slice.demandLook_good ?_ (by with_reducible assumption)
    | fail_if_no_progress ((with_reducible apply Slice.good_mk) <;> (first | with_reducible assumption | with_reducible rfl | skip))
    | split)

theorem applyNotices_kept {z0 : State} (s : State)
    (hK : Kept z0 s) : Kept z0 (applyNotices s) := by
  unfold applyNotices
  repeat' (first
    | with_reducible assumption
    | with_reducible apply State.modHome_kept
    | with_reducible apply onNotice_kept
    | with_reducible refine Kept.ite (fun _ => ?_) (fun _ => ?_)
    | fail_if_no_progress ((with_reducible apply Kept.mk1) <;> (first | with_reducible assumption | with_reducible rfl | skip))
    | with_reducible refine Kept.each (fun _ _ _ => ?_) ?_)

theorem stubAck_kept {z0 : State} (n : NodeId) (m : Member) (r : BitVec 10) (gen : BitVec 8) (s : State)
    (hK : Kept z0 s) : Kept z0 (stubAck n m r gen s) := by
  unfold stubAck
  repeat' (first
    | with_reducible assumption
    | with_reducible apply State.modHome_kept
    | with_reducible apply stubCheck_kept)

theorem relocateCmd_kept {z0 : State} (p k : Port) (arg : BitVec 16) (s : State)
    (hK : Kept z0 s) : Kept z0 (relocateCmd p k arg s) := by
  unfold relocateCmd
  repeat' (first
    | with_reducible assumption
    | with_reducible apply State.modHome_kept
    | with_reducible apply sendVc5_kept
    | with_reducible apply stampLostOf_kept
    | with_reducible apply finish_kept
    | with_reducible refine Kept.ite (fun _ => ?_) (fun _ => ?_)
    | fail_if_no_progress ((with_reducible apply Kept.mk1) <;> (first | with_reducible assumption | with_reducible rfl | skip))
    | with_reducible refine Kept.each (fun _ _ _ => ?_) ?_)

theorem frameAnswer_kept {z0 : State} (n : NodeId) (m : Member) (r : BitVec 10) (ok : Bool) (s : State)
    (hK : Kept z0 s) : Kept z0 (frameAnswer n m r ok s) := by
  unfold frameAnswer
  repeat' (first
    | with_reducible assumption
    | with_reducible apply dropReloc_kept
    | with_reducible apply modReloc_kept
    | with_reducible apply relocEnd_kept
    | with_reducible refine Kept.ite (fun _ => ?_) (fun _ => ?_)
    | fail_if_no_progress ((with_reducible apply Kept.mk1) <;> (first | with_reducible assumption | with_reducible rfl | skip))
    | with_reducible refine Kept.each (fun _ _ _ => ?_) ?_
    | with_reducible refine Kept.foldl2 (fun _ _ _ => ?_) ?_
    | with_reducible refine Kept.foldl (fun _ _ _ => ?_) ?_
    | extract_lets
    | with_reducible refine Kept.slGood (z0 := z0) ?_ ?_
    | with_reducible apply Slice.good_slots
    | with_reducible apply Slice.putBlock_good
    | with_reducible apply Slice.putWord_good
    | with_reducible apply Slice.putPlru_good
    | with_reducible apply Slice.touchWay_good
    | with_reducible apply Slice.mendSlot_good
    | with_reducible apply Slice.mendTS_good
    | with_reducible apply Slice.hitWay_good
    | with_reducible apply Slice.dropMove_good
    | with_reducible apply Slice.outcome_good
    | with_reducible apply Slice.hintFill_good
    | with_reducible apply Slice.predFix_good
    | with_reducible apply Slice.hintSeen_good
    | with_reducible apply Slice.predAdd_good
    | with_reducible apply Slice.closeLow_good
    | with_reducible apply Slice.setLock_good
    | with_reducible apply Slice.flushPlru_good
    | with_reducible refine Slice.shAlloc_good ?_ (by with_reducible assumption)
    | with_reducible refine Slice.ensureShadow_good ?_ (by with_reducible assumption)
    | with_reducible refine Slice.demandLook_good ?_ (by with_reducible assumption)
    | fail_if_no_progress ((with_reducible apply Slice.good_mk) <;> (first | with_reducible assumption | with_reducible rfl | skip))
    | split)

theorem frameTimeout_kept {z0 : State} (m : Member) (r : BitVec 10) (s : State)
    (hK : Kept z0 s) : Kept z0 (frameTimeout m r s) := by
  unfold frameTimeout
  repeat' (first
    | with_reducible assumption
    | with_reducible apply dropReloc_kept
    | with_reducible apply relocEnd_kept
    | with_reducible refine Kept.ite (fun _ => ?_) (fun _ => ?_)
    | fail_if_no_progress ((with_reducible apply Kept.mk1) <;> (first | with_reducible assumption | with_reducible rfl | skip))
    | with_reducible refine Kept.each (fun _ _ _ => ?_) ?_
    | with_reducible refine Kept.foldl2 (fun _ _ _ => ?_) ?_
    | with_reducible refine Kept.foldl (fun _ _ _ => ?_) ?_
    | extract_lets
    | with_reducible refine Kept.slGood (z0 := z0) ?_ ?_
    | with_reducible apply Slice.good_slots
    | with_reducible apply Slice.putBlock_good
    | with_reducible apply Slice.putWord_good
    | with_reducible apply Slice.putPlru_good
    | with_reducible apply Slice.touchWay_good
    | with_reducible apply Slice.mendSlot_good
    | with_reducible apply Slice.mendTS_good
    | with_reducible apply Slice.hitWay_good
    | with_reducible apply Slice.dropMove_good
    | with_reducible apply Slice.outcome_good
    | with_reducible apply Slice.hintFill_good
    | with_reducible apply Slice.predFix_good
    | with_reducible apply Slice.hintSeen_good
    | with_reducible apply Slice.predAdd_good
    | with_reducible apply Slice.closeLow_good
    | with_reducible apply Slice.setLock_good
    | with_reducible apply Slice.flushPlru_good
    | with_reducible refine Slice.shAlloc_good ?_ (by with_reducible assumption)
    | with_reducible refine Slice.ensureShadow_good ?_ (by with_reducible assumption)
    | with_reducible refine Slice.demandLook_good ?_ (by with_reducible assumption)
    | fail_if_no_progress ((with_reducible apply Slice.good_mk) <;> (first | with_reducible assumption | with_reducible rfl | skip))
    | split)

theorem frameReserve_kept {z0 : State} (n : NodeId) (m : Member) (r : BitVec 10) (s : State)
    (hK : Kept z0 s) : Kept z0 (frameReserve n m r s) := by
  unfold frameReserve
  repeat' (first
    | with_reducible assumption
    | with_reducible apply State.modHome_kept
    | with_reducible apply sendVc5_kept
    | with_reducible apply take_kept
    | with_reducible apply clearFrame_kept
    | with_reducible refine Kept.ite (fun _ => ?_) (fun _ => ?_)
    | fail_if_no_progress ((with_reducible apply Kept.mk1) <;> (first | with_reducible assumption | with_reducible rfl | skip))
    | with_reducible refine Kept.each (fun _ _ _ => ?_) ?_
    | with_reducible refine Kept.foldl2 (fun _ _ _ => ?_) ?_
    | with_reducible refine Kept.foldl (fun _ _ _ => ?_) ?_
    | extract_lets
    | with_reducible refine Kept.slGood (z0 := z0) ?_ ?_
    | with_reducible apply Slice.good_slots
    | with_reducible apply Slice.putBlock_good
    | with_reducible apply Slice.putWord_good
    | with_reducible apply Slice.putPlru_good
    | with_reducible apply Slice.touchWay_good
    | with_reducible apply Slice.mendSlot_good
    | with_reducible apply Slice.mendTS_good
    | with_reducible apply Slice.hitWay_good
    | with_reducible apply Slice.dropMove_good
    | with_reducible apply Slice.outcome_good
    | with_reducible apply Slice.hintFill_good
    | with_reducible apply Slice.predFix_good
    | with_reducible apply Slice.hintSeen_good
    | with_reducible apply Slice.predAdd_good
    | with_reducible apply Slice.closeLow_good
    | with_reducible apply Slice.setLock_good
    | with_reducible apply Slice.flushPlru_good
    | with_reducible refine Slice.shAlloc_good ?_ (by with_reducible assumption)
    | with_reducible refine Slice.ensureShadow_good ?_ (by with_reducible assumption)
    | with_reducible refine Slice.demandLook_good ?_ (by with_reducible assumption)
    | fail_if_no_progress ((with_reducible apply Slice.good_mk) <;> (first | with_reducible assumption | with_reducible rfl | skip))
    | split)

theorem regionLines_kept {z0 : State} (m : Member) (r : BitVec 10) (p : Nat → Bool) (s : State)
    (hK : Kept z0 s) : Kept z0 (regionLines m r p s).2 := by
  unfold regionLines
  repeat' (first
    | with_reducible assumption
    | with_reducible apply ddrRead_kept
    | with_reducible refine Kept.ite (fun _ => ?_) (fun _ => ?_)
    | fail_if_no_progress ((with_reducible apply Kept.mk1) <;> (first | with_reducible assumption | with_reducible rfl | skip))
    | with_reducible refine Kept.each (fun _ _ _ => ?_) ?_
    | with_reducible refine Kept.foldl2 (fun _ _ _ => ?_) ?_)

theorem writeRegion_kept {z0 : State} (m : Member) (r : BitVec 10) (ls : List RegLine) (s : State)
    (hK : Kept z0 s) : Kept z0 (writeRegion m r ls s) := by
  unfold writeRegion
  repeat' (first
    | with_reducible assumption
    | with_reducible apply ddrPut_kept
    | with_reducible apply dirDrop_kept
    | with_reducible refine Kept.ite (fun _ => ?_) (fun _ => ?_)
    | fail_if_no_progress ((with_reducible apply Kept.mk1) <;> (first | with_reducible assumption | with_reducible rfl | skip))
    | with_reducible refine Kept.each (fun _ _ _ => ?_) ?_)

theorem regionFix_kept {z0 : State} (m : Member) (r : BitVec 10) (s : State)
    (hK : Kept z0 s) : Kept z0 (regionFix m r s) := by
  unfold regionFix
  repeat' (first
    | with_reducible assumption
    | with_reducible apply dirFix_kept)

theorem copyDone_kept {z0 : State} (x : Reloc) (s0 : State)
    (hK : Kept z0 s0) : Kept z0 (copyDone x s0) := by
  unfold copyDone
  repeat' (first
    | with_reducible assumption
    | with_reducible apply State.modHome_kept
    | with_reducible apply sendVc5_kept
    | with_reducible apply dropReloc_kept
    | with_reducible apply modReloc_kept
    | with_reducible apply relocEnd_kept
    | with_reducible apply relocNote_kept
    | with_reducible apply regionLines_kept
    | with_reducible apply regionFix_kept
    | with_reducible refine Kept.ite (fun _ => ?_) (fun _ => ?_)
    | fail_if_no_progress ((with_reducible apply Kept.mk1) <;> (first | with_reducible assumption | with_reducible rfl | skip))
    | with_reducible refine Kept.each (fun _ _ _ => ?_) ?_)

theorem relocCopy_kept {z0 : State} (m : Member) (r : BitVec 10) (copied : List RegLine) (s : State)
    (hK : Kept z0 s) : Kept z0 (relocCopy m r copied s) := by
  unfold relocCopy
  repeat' (first
    | with_reducible assumption
    | with_reducible apply writeRegion_kept
    | with_reducible apply copyDone_kept
    | with_reducible refine Kept.ite (fun _ => ?_) (fun _ => ?_)
    | fail_if_no_progress ((with_reducible apply Kept.mk1) <;> (first | with_reducible assumption | with_reducible rfl | skip))
    | with_reducible refine Kept.each (fun _ _ _ => ?_) ?_
    | with_reducible refine Kept.foldl2 (fun _ _ _ => ?_) ?_
    | with_reducible refine Kept.foldl (fun _ _ _ => ?_) ?_
    | extract_lets
    | with_reducible refine Kept.slGood (z0 := z0) ?_ ?_
    | with_reducible apply Slice.good_slots
    | with_reducible apply Slice.putBlock_good
    | with_reducible apply Slice.putWord_good
    | with_reducible apply Slice.putPlru_good
    | with_reducible apply Slice.touchWay_good
    | with_reducible apply Slice.mendSlot_good
    | with_reducible apply Slice.mendTS_good
    | with_reducible apply Slice.hitWay_good
    | with_reducible apply Slice.dropMove_good
    | with_reducible apply Slice.outcome_good
    | with_reducible apply Slice.hintFill_good
    | with_reducible apply Slice.predFix_good
    | with_reducible apply Slice.hintSeen_good
    | with_reducible apply Slice.predAdd_good
    | with_reducible apply Slice.closeLow_good
    | with_reducible apply Slice.setLock_good
    | with_reducible apply Slice.flushPlru_good
    | with_reducible refine Slice.shAlloc_good ?_ (by with_reducible assumption)
    | with_reducible refine Slice.ensureShadow_good ?_ (by with_reducible assumption)
    | with_reducible refine Slice.demandLook_good ?_ (by with_reducible assumption)
    | fail_if_no_progress ((with_reducible apply Slice.good_mk) <;> (first | with_reducible assumption | with_reducible rfl | skip))
    | split)

theorem recallAll_kept {z0 : State} (x : Reloc) (s0 : State)
    (hK : Kept z0 s0) : Kept z0 (recallAll x s0) := by
  unfold recallAll
  repeat' (first
    | with_reducible assumption
    | with_reducible apply openT_kept
    | with_reducible apply sweepRec_kept
    | with_reducible apply regionFix_kept
    | with_reducible refine Kept.ite (fun _ => ?_) (fun _ => ?_)
    | fail_if_no_progress ((with_reducible apply Kept.mk1) <;> (first | with_reducible assumption | with_reducible rfl | skip))
    | with_reducible refine Kept.each (fun _ _ _ => ?_) ?_
    | with_reducible refine Kept.foldl2 (fun _ _ _ => ?_) ?_
    | with_reducible refine Kept.foldl (fun _ _ _ => ?_) ?_
    | extract_lets
    | with_reducible refine Kept.slGood (z0 := z0) ?_ ?_
    | with_reducible apply Slice.good_slots
    | with_reducible apply Slice.putBlock_good
    | with_reducible apply Slice.putWord_good
    | with_reducible apply Slice.putPlru_good
    | with_reducible apply Slice.touchWay_good
    | with_reducible apply Slice.mendSlot_good
    | with_reducible apply Slice.mendTS_good
    | with_reducible apply Slice.hitWay_good
    | with_reducible apply Slice.dropMove_good
    | with_reducible apply Slice.outcome_good
    | with_reducible apply Slice.hintFill_good
    | with_reducible apply Slice.predFix_good
    | with_reducible apply Slice.hintSeen_good
    | with_reducible apply Slice.predAdd_good
    | with_reducible apply Slice.closeLow_good
    | with_reducible apply Slice.setLock_good
    | with_reducible apply Slice.flushPlru_good
    | with_reducible refine Slice.shAlloc_good ?_ (by with_reducible assumption)
    | with_reducible refine Slice.ensureShadow_good ?_ (by with_reducible assumption)
    | with_reducible refine Slice.demandLook_good ?_ (by with_reducible assumption)
    | fail_if_no_progress ((with_reducible apply Slice.good_mk) <;> (first | with_reducible assumption | with_reducible rfl | skip))
    | split)

theorem drainRelocDone_kept {z0 : State} (m : Member) (r : BitVec 10) (s : State)
    (hK : Kept z0 s) : Kept z0 (drainRelocDone m r s) := by
  unfold drainRelocDone
  repeat' (first
    | with_reducible assumption
    | with_reducible apply modReloc_kept
    | with_reducible apply recallAll_kept
    | with_reducible refine Kept.ite (fun _ => ?_) (fun _ => ?_)
    | fail_if_no_progress ((with_reducible apply Kept.mk1) <;> (first | with_reducible assumption | with_reducible rfl | skip))
    | with_reducible refine Kept.each (fun _ _ _ => ?_) ?_
    | with_reducible refine Kept.foldl2 (fun _ _ _ => ?_) ?_
    | with_reducible refine Kept.foldl (fun _ _ _ => ?_) ?_
    | extract_lets
    | with_reducible refine Kept.slGood (z0 := z0) ?_ ?_
    | with_reducible apply Slice.good_slots
    | with_reducible apply Slice.putBlock_good
    | with_reducible apply Slice.putWord_good
    | with_reducible apply Slice.putPlru_good
    | with_reducible apply Slice.touchWay_good
    | with_reducible apply Slice.mendSlot_good
    | with_reducible apply Slice.mendTS_good
    | with_reducible apply Slice.hitWay_good
    | with_reducible apply Slice.dropMove_good
    | with_reducible apply Slice.outcome_good
    | with_reducible apply Slice.hintFill_good
    | with_reducible apply Slice.predFix_good
    | with_reducible apply Slice.hintSeen_good
    | with_reducible apply Slice.predAdd_good
    | with_reducible apply Slice.closeLow_good
    | with_reducible apply Slice.setLock_good
    | with_reducible apply Slice.flushPlru_good
    | with_reducible refine Slice.shAlloc_good ?_ (by with_reducible assumption)
    | with_reducible refine Slice.ensureShadow_good ?_ (by with_reducible assumption)
    | with_reducible refine Slice.demandLook_good ?_ (by with_reducible assumption)
    | fail_if_no_progress ((with_reducible apply Slice.good_mk) <;> (first | with_reducible assumption | with_reducible rfl | skip))
    | split)

theorem finalCopy_kept {z0 : State} (x : Reloc) (s0 : State)
    (hK : Kept z0 s0) : Kept z0 (finalCopy x s0) := by
  unfold finalCopy
  repeat' (first
    | with_reducible assumption
    | with_reducible apply sendVc5_kept
    | with_reducible apply modReloc_kept
    | with_reducible apply regionLines_kept
    | with_reducible apply regionFix_kept
    | with_reducible apply recallAll_kept
    | with_reducible refine Kept.ite (fun _ => ?_) (fun _ => ?_))

theorem relocFinal_kept {z0 : State} (m : Member) (r : BitVec 10) (copied : List RegLine) (s : State)
    (hK : Kept z0 s) : Kept z0 (relocFinal m r copied s) := by
  unfold relocFinal
  repeat' (first
    | with_reducible assumption
    | with_reducible apply sendVc5_kept
    | with_reducible apply dropReloc_kept
    | with_reducible apply readyNote_kept
    | with_reducible apply writeRegion_kept
    | with_reducible apply finalCopy_kept
    | with_reducible refine Kept.ite (fun _ => ?_) (fun _ => ?_)
    | fail_if_no_progress ((with_reducible apply Kept.mk1) <;> (first | with_reducible assumption | with_reducible rfl | skip))
    | with_reducible refine Kept.each (fun _ _ _ => ?_) ?_
    | with_reducible refine Kept.foldl2 (fun _ _ _ => ?_) ?_
    | with_reducible refine Kept.foldl (fun _ _ _ => ?_) ?_
    | extract_lets
    | with_reducible refine Kept.slGood (z0 := z0) ?_ ?_
    | with_reducible apply Slice.good_slots
    | with_reducible apply Slice.putBlock_good
    | with_reducible apply Slice.putWord_good
    | with_reducible apply Slice.putPlru_good
    | with_reducible apply Slice.touchWay_good
    | with_reducible apply Slice.mendSlot_good
    | with_reducible apply Slice.mendTS_good
    | with_reducible apply Slice.hitWay_good
    | with_reducible apply Slice.dropMove_good
    | with_reducible apply Slice.outcome_good
    | with_reducible apply Slice.hintFill_good
    | with_reducible apply Slice.predFix_good
    | with_reducible apply Slice.hintSeen_good
    | with_reducible apply Slice.predAdd_good
    | with_reducible apply Slice.closeLow_good
    | with_reducible apply Slice.setLock_good
    | with_reducible apply Slice.flushPlru_good
    | with_reducible refine Slice.shAlloc_good ?_ (by with_reducible assumption)
    | with_reducible refine Slice.ensureShadow_good ?_ (by with_reducible assumption)
    | with_reducible refine Slice.demandLook_good ?_ (by with_reducible assumption)
    | fail_if_no_progress ((with_reducible apply Slice.good_mk) <;> (first | with_reducible assumption | with_reducible rfl | skip))
    | split)

theorem abandon_kept {z0 : State} (n : NodeId) (s : State)
    (hK : Kept z0 s) : Kept z0 (abandon n s) := by
  unfold abandon
  repeat' (first
    | with_reducible assumption
    | with_reducible apply sendVc5_kept
    | with_reducible apply dropReloc_kept
    | with_reducible apply relocEnd_kept
    | with_reducible apply relocNote_kept
    | with_reducible apply freeFrame_kept
    | with_reducible refine Kept.ite (fun _ => ?_) (fun _ => ?_)
    | fail_if_no_progress ((with_reducible apply Kept.mk1) <;> (first | with_reducible assumption | with_reducible rfl | skip))
    | with_reducible refine Kept.each (fun _ _ _ => ?_) ?_)

theorem movingDead_kept {z0 : State} (n : NodeId) (s : State)
    (hK : Kept z0 s) : Kept z0 (movingDead n s) := by
  unfold movingDead
  repeat' (first
    | with_reducible assumption
    | with_reducible apply State.modHome_kept)

theorem domainDead_kept {z0 : State} (n : NodeId) (s : State)
    (hK : Kept z0 s) : Kept z0 (domainDead n s) := by
  unfold domainDead
  repeat' (first
    | with_reducible assumption
    | with_reducible apply State.modHome_kept
    | with_reducible apply policySkip_kept
    | with_reducible apply shareSkip_kept
    | with_reducible apply stubCheck_kept)

theorem askTables_kept {z0 : State} (s : State)
    (hK : Kept z0 s) : Kept z0 (askTables s) := by
  unfold askTables
  repeat' (first
    | with_reducible assumption
    | with_reducible apply sendVc5_kept
    | with_reducible apply modFw_kept
    | with_reducible refine Kept.ite (fun _ => ?_) (fun _ => ?_)
    | fail_if_no_progress ((with_reducible apply Kept.mk1) <;> (first | with_reducible assumption | with_reducible rfl | skip))
    | with_reducible refine Kept.each (fun _ _ _ => ?_) ?_
    | with_reducible refine Kept.foldl2 (fun _ _ _ => ?_) ?_
    | with_reducible refine Kept.foldl (fun _ _ _ => ?_) ?_)

theorem tableAnswer_kept {z0 : State} (n : NodeId) (s : State)
    (hK : Kept z0 s) : Kept z0 (tableAnswer n s) := by
  unfold tableAnswer
  repeat' (first
    | with_reducible assumption
    | with_reducible apply sendVc5_kept)

theorem vc5Do_kept {z0 : State} (n : NodeId) (m : Vc5) (s : State)
    (hK : Kept z0 s) : Kept z0 (vc5Do n m s) := by
  unfold vc5Do
  repeat' (first
    | with_reducible assumption
    | with_reducible apply sendVc5_kept
    | with_reducible apply modLive_kept
    | with_reducible apply applyPolicy_kept
    | with_reducible apply policyAcked_kept
    | with_reducible apply shareGrant_kept
    | with_reducible apply shareFree_kept
    | with_reducible apply shareAnswer_kept
    | with_reducible apply memberChange_kept
    | with_reducible apply onNotice_kept
    | with_reducible apply stubAck_kept
    | with_reducible apply frameAnswer_kept
    | with_reducible apply frameReserve_kept
    | with_reducible apply tableAnswer_kept
    | with_reducible refine Kept.ite (fun _ => ?_) (fun _ => ?_)
    | fail_if_no_progress ((with_reducible apply Kept.mk1) <;> (first | with_reducible assumption | with_reducible rfl | skip))
    | with_reducible refine Kept.each (fun _ _ _ => ?_) ?_
    | with_reducible refine Kept.foldl2 (fun _ _ _ => ?_) ?_
    | with_reducible refine Kept.foldl (fun _ _ _ => ?_) ?_
    | extract_lets
    | with_reducible refine Kept.slGood (z0 := z0) ?_ ?_
    | with_reducible apply Slice.good_slots
    | with_reducible apply Slice.putBlock_good
    | with_reducible apply Slice.putWord_good
    | with_reducible apply Slice.putPlru_good
    | with_reducible apply Slice.touchWay_good
    | with_reducible apply Slice.mendSlot_good
    | with_reducible apply Slice.mendTS_good
    | with_reducible apply Slice.hitWay_good
    | with_reducible apply Slice.dropMove_good
    | with_reducible apply Slice.outcome_good
    | with_reducible apply Slice.hintFill_good
    | with_reducible apply Slice.predFix_good
    | with_reducible apply Slice.hintSeen_good
    | with_reducible apply Slice.predAdd_good
    | with_reducible apply Slice.closeLow_good
    | with_reducible apply Slice.setLock_good
    | with_reducible apply Slice.flushPlru_good
    | with_reducible refine Slice.shAlloc_good ?_ (by with_reducible assumption)
    | with_reducible refine Slice.ensureShadow_good ?_ (by with_reducible assumption)
    | with_reducible refine Slice.demandLook_good ?_ (by with_reducible assumption)
    | fail_if_no_progress ((with_reducible apply Slice.good_mk) <;> (first | with_reducible assumption | with_reducible rfl | skip))
    | split)

theorem vc5In_kept {z0 : State} (n : NodeId) (m : Vc5) (s : State)
    (hK : Kept z0 s) : Kept z0 (vc5In n m s) := by
  unfold vc5In
  repeat' (first
    | with_reducible assumption
    | with_reducible apply gotVc5_kept
    | with_reducible apply fwDo_kept
    | with_reducible apply vc5Do_kept
    | with_reducible refine Kept.ite (fun _ => ?_) (fun _ => ?_)
    | fail_if_no_progress ((with_reducible apply Kept.mk1) <;> (first | with_reducible assumption | with_reducible rfl | skip)))

theorem ringRun_kept {z0 : State} (s : State)
    (hK : Kept z0 s) : Kept z0 (ringRun s) := by
  unfold ringRun
  repeat' (first
    | with_reducible assumption
    | with_reducible apply gotVc5_kept
    | with_reducible apply fwDo_kept
    | with_reducible apply vc5Do_kept
    | with_reducible refine Kept.ite (fun _ => ?_) (fun _ => ?_)
    | fail_if_no_progress ((with_reducible apply Kept.mk1) <;> (first | with_reducible assumption | with_reducible rfl | skip))
    | with_reducible refine Kept.each (fun _ _ _ => ?_) ?_
    | with_reducible refine Kept.foldl2 (fun _ _ _ => ?_) ?_
    | with_reducible refine Kept.foldl (fun _ _ _ => ?_) ?_)

end Sys2Proof.Machine
end

