-- ==== Sys2Proof/Laws/KeptLinks.lean ====
section
/-! SUPPORT. `Kept` of the functions of the fabric, the horizons, the integrity block and the packets of the switch: one lemma per function. -/

set_option linter.unusedVariables false
set_option linter.unusedTactic false
set_option linter.unreachableTactic false

namespace Sys2Proof.Machine

theorem sendVc4_kept {z0 : State} (f : FPortNo) (m : Vc4) (s : State)
    (hK : Kept z0 s) : Kept z0 (sendVc4 f m s) := by
  unfold sendVc4
  repeat' (first
    | with_reducible assumption
    | with_reducible apply State.emit_kept
    | with_reducible refine Kept.ite (fun _ => ?_) (fun _ => ?_))

theorem flood_kept {z0 : State} (but : Option FPortNo) (m : Vc4) (s : State)
    (hK : Kept z0 s) : Kept z0 (flood but m s) := by
  unfold flood
  repeat' (first
    | with_reducible assumption
    | with_reducible apply sendVc4_kept
    | with_reducible refine Kept.ite (fun _ => ?_) (fun _ => ?_)
    | fail_if_no_progress ((with_reducible apply Kept.mk1) <;> (first | with_reducible assumption | with_reducible rfl | skip))
    | with_reducible refine Kept.each (fun _ _ _ => ?_) ?_)

theorem askReplay_kept {z0 : State} (f : FPortNo) (s : State)
    (hK : Kept z0 s) : Kept z0 (askReplay f s) := by
  unfold askReplay
  repeat' (first
    | with_reducible assumption
    | with_reducible apply State.modFp_kept)

theorem flitIn_kept {z0 : State} (f : FPortNo) (x : FlitIn) (s : State)
    (hK : Kept z0 s) : Kept z0 (flitIn f x s) := by
  unfold flitIn
  repeat' (first
    | with_reducible assumption
    | with_reducible apply State.modFp_kept
    | with_reducible apply sendVc4_kept
    | with_reducible apply askReplay_kept
    | with_reducible refine Kept.ite (fun _ => ?_) (fun _ => ?_))

theorem pktFreed_kept {z0 : State} (f : FPortNo) (x : Packet) (s : State)
    (hK : Kept z0 s) : Kept z0 (pktFreed f x s) := by
  unfold pktFreed
  repeat' (first
    | with_reducible assumption
    | with_reducible apply bufferFreed_kept)

theorem txFreed_kept {z0 : State} (s : State) (x : TxPkt)
    (hK : Kept z0 s) : Kept z0 (txFreed s x) := by
  unfold txFreed
  repeat' (first
    | with_reducible assumption
    | with_reducible apply bufferFreed_kept
    | with_reducible refine Kept.ite (fun _ => ?_) (fun _ => ?_)
    | fail_if_no_progress ((with_reducible apply Kept.mk1) <;> (first | with_reducible assumption | with_reducible rfl | skip))
    | with_reducible refine Kept.each (fun _ _ _ => ?_) ?_
    | with_reducible refine Kept.foldl2 (fun _ _ _ => ?_) ?_
    | with_reducible refine Kept.foldl (fun _ _ _ => ?_) ?_
    | extract_lets
    | with_reducible refine Kept.slGood (z0 := z0) ?_ ?_
    | with_reducible apply Slice.good_slots
    | with_reducible apply Slice.putBlock_good
    | with_reducible apply Slice.putWord_good
    | with_reducible apply Slice.putPlru_good
    | with_reducible apply Slice.touchWay_good
    | with_reducible apply Slice.mendSlot_good
    | with_reducible apply Slice.mendTS_good
    | with_reducible apply Slice.hitWay_good
    | with_reducible apply Slice.dropMove_good
    | with_reducible apply Slice.outcome_good
    | with_reducible apply Slice.hintFill_good
    | with_reducible apply Slice.predFix_good
    | with_reducible apply Slice.hintSeen_good
    | with_reducible apply Slice.predAdd_good
    | with_reducible apply Slice.closeLow_good
    | with_reducible apply Slice.setLock_good
    | with_reducible apply Slice.flushPlru_good
    | with_reducible refine Slice.shAlloc_good ?_ (by with_reducible assumption)
    | with_reducible refine Slice.ensureShadow_good ?_ (by with_reducible assumption)
    | with_reducible refine Slice.demandLook_good ?_ (by with_reducible assumption)
    | fail_if_no_progress ((with_reducible apply Slice.good_mk) <;> (first | with_reducible assumption | with_reducible rfl | skip))
    | split)

theorem transit_kept {z0 : State} (f : FPortNo) (x : Packet) (s : State)
    (hK : Kept z0 s) : Kept z0 (transit f x s) := by
  unfold transit
  repeat' (first
    | with_reducible assumption
    | with_reducible apply State.modFp_kept
    | with_reducible apply State.emit_kept
    | with_reducible apply pktFreed_kept
    | with_reducible refine Kept.ite (fun _ => ?_) (fun _ => ?_)
    | fail_if_no_progress ((with_reducible apply Kept.mk1) <;> (first | with_reducible assumption | with_reducible rfl | skip))
    | with_reducible refine Kept.each (fun _ _ _ => ?_) ?_
    | with_reducible refine Kept.foldl2 (fun _ _ _ => ?_) ?_
    | with_reducible refine Kept.foldl (fun _ _ _ => ?_) ?_
    | extract_lets
    | with_reducible refine Kept.slGood (z0 := z0) ?_ ?_
    | with_reducible apply Slice.good_slots
    | with_reducible apply Slice.putBlock_good
    | with_reducible apply Slice.putWord_good
    | with_reducible apply Slice.putPlru_good
    | with_reducible apply Slice.touchWay_good
    | with_reducible apply Slice.mendSlot_good
    | with_reducible apply Slice.mendTS_good
    | with_reducible apply Slice.hitWay_good
    | with_reducible apply Slice.dropMove_good
    | with_reducible apply Slice.outcome_good
    | with_reducible apply Slice.hintFill_good
    | with_reducible apply Slice.predFix_good
    | with_reducible apply Slice.hintSeen_good
    | with_reducible apply Slice.predAdd_good
    | with_reducible apply Slice.closeLow_good
    | with_reducible apply Slice.setLock_good
    | with_reducible apply Slice.flushPlru_good
    | with_reducible refine Slice.shAlloc_good ?_ (by with_reducible assumption)
    | with_reducible refine Slice.ensureShadow_good ?_ (by with_reducible assumption)
    | with_reducible refine Slice.demandLook_good ?_ (by with_reducible assumption)
    | fail_if_no_progress ((with_reducible apply Slice.good_mk) <;> (first | with_reducible assumption | with_reducible rfl | skip))
    | split)

theorem originate_kept {z0 : State} (o : Out) (s : State)
    (hK : Kept z0 s) : Kept z0 (originate o s) := by
  unfold originate
  repeat' (first
    | with_reducible assumption
    | with_reducible apply State.emit_kept
    | with_reducible refine Kept.ite (fun _ => ?_) (fun _ => ?_)
    | fail_if_no_progress ((with_reducible apply Kept.mk1) <;> (first | with_reducible assumption | with_reducible rfl | skip)))

theorem combSend_kept {z0 : State} (e : Comb) (s : State)
    (hK : Kept z0 s) : Kept z0 (combSend e s) := by
  unfold combSend
  repeat' (first
    | with_reducible assumption
    | with_reducible apply State.emit_kept
    | with_reducible apply originate_kept
    | with_reducible refine Kept.ite (fun _ => ?_) (fun _ => ?_)
    | fail_if_no_progress ((with_reducible apply Kept.mk1) <;> (first | with_reducible assumption | with_reducible rfl | skip))
    | with_reducible refine Kept.each (fun _ _ _ => ?_) ?_
    | with_reducible refine Kept.foldl2 (fun _ _ _ => ?_) ?_
    | with_reducible refine Kept.foldl (fun _ _ _ => ?_) ?_
    | extract_lets
    | with_reducible refine Kept.slGood (z0 := z0) ?_ ?_
    | with_reducible apply Slice.good_slots
    | with_reducible apply Slice.putBlock_good
    | with_reducible apply Slice.putWord_good
    | with_reducible apply Slice.putPlru_good
    | with_reducible apply Slice.touchWay_good
    | with_reducible apply Slice.mendSlot_good
    | with_reducible apply Slice.mendTS_good
    | with_reducible apply Slice.hitWay_good
    | with_reducible apply Slice.dropMove_good
    | with_reducible apply Slice.outcome_good
    | with_reducible apply Slice.hintFill_good
    | with_reducible apply Slice.predFix_good
    | with_reducible apply Slice.hintSeen_good
    | with_reducible apply Slice.predAdd_good
    | with_reducible apply Slice.closeLow_good
    | with_reducible apply Slice.setLock_good
    | with_reducible apply Slice.flushPlru_good
    | with_reducible refine Slice.shAlloc_good ?_ (by with_reducible assumption)
    | with_reducible refine Slice.ensureShadow_good ?_ (by with_reducible assumption)
    | with_reducible refine Slice.demandLook_good ?_ (by with_reducible assumption)
    | fail_if_no_progress ((with_reducible apply Slice.good_mk) <;> (first | with_reducible assumption | with_reducible rfl | skip))
    | split)

theorem bcRun_kept {z0 : State} (f : Option FPortNo) (x : Packet) (s0 : State)
    (hK : Kept z0 s0) : Kept z0 (bcRun f x s0) := by
  unfold bcRun
  repeat' (first
    | with_reducible assumption
    | with_reducible apply State.emit_kept
    | with_reducible apply pktFreed_kept
    | with_reducible apply originate_kept
    | with_reducible apply combSend_kept
    | with_reducible refine Kept.ite (fun _ => ?_) (fun _ => ?_)
    | fail_if_no_progress ((with_reducible apply Kept.mk1) <;> (first | with_reducible assumption | with_reducible rfl | skip))
    | with_reducible refine Kept.each (fun _ _ _ => ?_) ?_
    | with_reducible refine Kept.foldl2 (fun _ _ _ => ?_) ?_
    | with_reducible refine Kept.foldl (fun _ _ _ => ?_) ?_
    | extract_lets
    | with_reducible refine Kept.slGood (z0 := z0) ?_ ?_
    | with_reducible apply Slice.good_slots
    | with_reducible apply Slice.putBlock_good
    | with_reducible apply Slice.putWord_good
    | with_reducible apply Slice.putPlru_good
    | with_reducible apply Slice.touchWay_good
    | with_reducible apply Slice.mendSlot_good
    | with_reducible apply Slice.mendTS_good
    | with_reducible apply Slice.hitWay_good
    | with_reducible apply Slice.dropMove_good
    | with_reducible apply Slice.outcome_good
    | with_reducible apply Slice.hintFill_good
    | with_reducible apply Slice.predFix_good
    | with_reducible apply Slice.hintSeen_good
    | with_reducible apply Slice.predAdd_good
    | with_reducible apply Slice.closeLow_good
    | with_reducible apply Slice.setLock_good
    | with_reducible apply Slice.flushPlru_good
    | with_reducible refine Slice.shAlloc_good ?_ (by with_reducible assumption)
    | with_reducible refine Slice.ensureShadow_good ?_ (by with_reducible assumption)
    | with_reducible refine Slice.demandLook_good ?_ (by with_reducible assumption)
    | fail_if_no_progress ((with_reducible apply Slice.good_mk) <;> (first | with_reducible assumption | with_reducible rfl | skip))
    | split)

theorem bcArrive_kept {z0 : State} (f : Option FPortNo) (x : Packet) (s : State)
    (hK : Kept z0 s) : Kept z0 (bcArrive f x s) := by
  unfold bcArrive
  repeat' (first
    | with_reducible assumption
    | with_reducible apply State.modFp_kept
    | with_reducible apply pktFreed_kept
    | with_reducible apply bcRun_kept
    | with_reducible refine Kept.ite (fun _ => ?_) (fun _ => ?_)
    | fail_if_no_progress ((with_reducible apply Kept.mk1) <;> (first | with_reducible assumption | with_reducible rfl | skip))
    | with_reducible refine Kept.each (fun _ _ _ => ?_) ?_
    | with_reducible refine Kept.foldl2 (fun _ _ _ => ?_) ?_
    | with_reducible refine Kept.foldl (fun _ _ _ => ?_) ?_
    | extract_lets
    | with_reducible refine Kept.slGood (z0 := z0) ?_ ?_
    | with_reducible apply Slice.good_slots
    | with_reducible apply Slice.putBlock_good
    | with_reducible apply Slice.putWord_good
    | with_reducible apply Slice.putPlru_good
    | with_reducible apply Slice.touchWay_good
    | with_reducible apply Slice.mendSlot_good
    | with_reducible apply Slice.mendTS_good
    | with_reducible apply Slice.hitWay_good
    | with_reducible apply Slice.dropMove_good
    | with_reducible apply Slice.outcome_good
    | with_reducible apply Slice.hintFill_good
    | with_reducible apply Slice.predFix_good
    | with_reducible apply Slice.hintSeen_good
    | with_reducible apply Slice.predAdd_good
    | with_reducible apply Slice.closeLow_good
    | with_reducible apply Slice.setLock_good
    | with_reducible apply Slice.flushPlru_good
    | with_reducible refine Slice.shAlloc_good ?_ (by with_reducible assumption)
    | with_reducible refine Slice.ensureShadow_good ?_ (by with_reducible assumption)
    | with_reducible refine Slice.demandLook_good ?_ (by with_reducible assumption)
    | fail_if_no_progress ((with_reducible apply Slice.good_mk) <;> (first | with_reducible assumption | with_reducible rfl | skip))
    | split)

theorem bcPump_kept {z0 : State} (n : Nat) (s : State) (hK : Kept z0 s) : Kept z0 (bcPump n s) := by
  induction n generalizing s with
  | zero => exact hK
  | succ n ih =>
    unfold bcPump
    repeat' (first
    | with_reducible assumption
    | with_reducible apply ih
    | with_reducible apply bcRun_kept
    | with_reducible refine Kept.ite (fun _ => ?_) (fun _ => ?_)
    | fail_if_no_progress ((with_reducible apply Kept.mk1) <;> (first | with_reducible assumption | with_reducible rfl | skip))
    | with_reducible refine Kept.each (fun _ _ _ => ?_) ?_
    | with_reducible refine Kept.foldl2 (fun _ _ _ => ?_) ?_
    | with_reducible refine Kept.foldl (fun _ _ _ => ?_) ?_
    | extract_lets
    | with_reducible refine Kept.slGood (z0 := z0) ?_ ?_
    | with_reducible apply Slice.good_slots
    | with_reducible apply Slice.putBlock_good
    | with_reducible apply Slice.putWord_good
    | with_reducible apply Slice.putPlru_good
    | with_reducible apply Slice.touchWay_good
    | with_reducible apply Slice.mendSlot_good
    | with_reducible apply Slice.mendTS_good
    | with_reducible apply Slice.hitWay_good
    | with_reducible apply Slice.dropMove_good
    | with_reducible apply Slice.outcome_good
    | with_reducible apply Slice.hintFill_good
    | with_reducible apply Slice.predFix_good
    | with_reducible apply Slice.hintSeen_good
    | with_reducible apply Slice.predAdd_good
    | with_reducible apply Slice.closeLow_good
    | with_reducible apply Slice.setLock_good
    | with_reducible apply Slice.flushPlru_good
    | with_reducible refine Slice.shAlloc_good ?_ (by with_reducible assumption)
    | with_reducible refine Slice.ensureShadow_good ?_ (by with_reducible assumption)
    | with_reducible refine Slice.demandLook_good ?_ (by with_reducible assumption)
    | fail_if_no_progress ((with_reducible apply Slice.good_mk) <;> (first | with_reducible assumption | with_reducible rfl | skip))
    | split)

theorem combFlush_kept {z0 : State} (s : State)
    (hK : Kept z0 s) : Kept z0 (combFlush s) := by
  unfold combFlush
  repeat' (first
    | with_reducible assumption
    | with_reducible apply combSend_kept
    | with_reducible apply bcPump_kept
    | with_reducible refine Kept.ite (fun _ => ?_) (fun _ => ?_)
    | fail_if_no_progress ((with_reducible apply Kept.mk1) <;> (first | with_reducible assumption | with_reducible rfl | skip))
    | with_reducible refine Kept.each (fun _ _ _ => ?_) ?_)

theorem combGot_kept {z0 : State} (m : BMsg) (cnt : Nat) (s0 : State)
    (hK : Kept z0 s0) : Kept z0 (combGot m cnt s0) := by
  unfold combGot
  repeat' (first
    | with_reducible assumption
    | with_reducible apply State.modFp_kept
    | with_reducible apply gotPkt_kept
    | with_reducible apply combFlush_kept
    | with_reducible refine Kept.ite (fun _ => ?_) (fun _ => ?_)
    | fail_if_no_progress ((with_reducible apply Kept.mk1) <;> (first | with_reducible assumption | with_reducible rfl | skip))
    | with_reducible refine Kept.each (fun _ _ _ => ?_) ?_
    | with_reducible refine Kept.foldl2 (fun _ _ _ => ?_) ?_
    | with_reducible refine Kept.foldl (fun _ _ _ => ?_) ?_
    | extract_lets
    | with_reducible refine Kept.slGood (z0 := z0) ?_ ?_
    | with_reducible apply Slice.good_slots
    | with_reducible apply Slice.putBlock_good
    | with_reducible apply Slice.putWord_good
    | with_reducible apply Slice.putPlru_good
    | with_reducible apply Slice.touchWay_good
    | with_reducible apply Slice.mendSlot_good
    | with_reducible apply Slice.mendTS_good
    | with_reducible apply Slice.hitWay_good
    | with_reducible apply Slice.dropMove_good
    | with_reducible apply Slice.outcome_good
    | with_reducible apply Slice.hintFill_good
    | with_reducible apply Slice.predFix_good
    | with_reducible apply Slice.hintSeen_good
    | with_reducible apply Slice.predAdd_good
    | with_reducible apply Slice.closeLow_good
    | with_reducible apply Slice.setLock_good
    | with_reducible apply Slice.flushPlru_good
    | with_reducible refine Slice.shAlloc_good ?_ (by with_reducible assumption)
    | with_reducible refine Slice.ensureShadow_good ?_ (by with_reducible assumption)
    | with_reducible refine Slice.demandLook_good ?_ (by with_reducible assumption)
    | fail_if_no_progress ((with_reducible apply Slice.good_mk) <;> (first | with_reducible assumption | with_reducible rfl | skip))
    | split)

theorem heartbeatIn_kept {z0 : State} (f : FPortNo) (time : W64) (dist : BitVec 7) (delay : W64) (s : State)
    (hK : Kept z0 s) : Kept z0 (heartbeatIn f time dist delay s) := by
  unfold heartbeatIn
  repeat' (first
    | with_reducible assumption
    | with_reducible apply State.modFp_kept
    | with_reducible apply gotVc4_kept
    | with_reducible refine Kept.ite (fun _ => ?_) (fun _ => ?_)
    | fail_if_no_progress ((with_reducible apply Kept.mk1) <;> (first | with_reducible assumption | with_reducible rfl | skip)))

theorem heartbeatOut_kept {z0 : State} (s : State)
    (hK : Kept z0 s) : Kept z0 (heartbeatOut s) := by
  unfold heartbeatOut
  repeat' (first
    | with_reducible assumption
    | with_reducible apply State.modFp_kept
    | with_reducible apply stopFabric_kept
    | with_reducible apply sendVc4_kept
    | with_reducible refine Kept.ite (fun _ => ?_) (fun _ => ?_)
    | fail_if_no_progress ((with_reducible apply Kept.mk1) <;> (first | with_reducible assumption | with_reducible rfl | skip))
    | with_reducible refine Kept.each (fun _ _ _ => ?_) ?_)

theorem sliceLost_kept {z0 : State} (n : NodeId) (i : SliceNo) (s : State)
    (hK : Kept z0 s) : Kept z0 (sliceLost n i s) := by
  unfold sliceLost
  repeat' (first
    | with_reducible assumption
    | with_reducible apply State.modSl_kept
    | with_reducible apply State.modHome_kept
    | with_reducible apply evDeadDone_kept
    | with_reducible apply startWalk_kept
    | with_reducible apply resend_kept
    | with_reducible refine Kept.ite (fun _ => ?_) (fun _ => ?_)
    | fail_if_no_progress ((with_reducible apply Kept.mk1) <;> (first | with_reducible assumption | with_reducible rfl | skip))
    | with_reducible refine Kept.each (fun _ _ _ => ?_) ?_
    | with_reducible refine Kept.foldl2 (fun _ _ _ => ?_) ?_
    | with_reducible refine Kept.foldl (fun _ _ _ => ?_) ?_
    | extract_lets
    | with_reducible refine Kept.slGood (z0 := z0) ?_ ?_
    | with_reducible apply Slice.good_slots
    | with_reducible apply Slice.putBlock_good
    | with_reducible apply Slice.putWord_good
    | with_reducible apply Slice.putPlru_good
    | with_reducible apply Slice.touchWay_good
    | with_reducible apply Slice.mendSlot_good
    | with_reducible apply Slice.mendTS_good
    | with_reducible apply Slice.hitWay_good
    | with_reducible apply Slice.dropMove_good
    | with_reducible apply Slice.outcome_good
    | with_reducible apply Slice.hintFill_good
    | with_reducible apply Slice.predFix_good
    | with_reducible apply Slice.hintSeen_good
    | with_reducible apply Slice.predAdd_good
    | with_reducible apply Slice.closeLow_good
    | with_reducible apply Slice.setLock_good
    | with_reducible apply Slice.flushPlru_good
    | with_reducible refine Slice.shAlloc_good ?_ (by with_reducible assumption)
    | with_reducible refine Slice.ensureShadow_good ?_ (by with_reducible assumption)
    | with_reducible refine Slice.demandLook_good ?_ (by with_reducible assumption)
    | fail_if_no_progress ((with_reducible apply Slice.good_mk) <;> (first | with_reducible assumption | with_reducible rfl | skip))
    | split
    | with_reducible refine Kept.of_snd (by with_reducible assumption) ?_
    | dsimp +zetaDelta only
    | intro)

theorem portLost_kept {z0 : State} (n : NodeId) (p : Port) (s : State)
    (hK : Kept z0 s) : Kept z0 (portLost n p s) := by
  unfold portLost
  repeat' (first
    | with_reducible assumption
    | with_reducible apply State.modHp_kept
    | with_reducible apply evDeadDone_kept
    | with_reducible refine Kept.ite (fun _ => ?_) (fun _ => ?_)
    | fail_if_no_progress ((with_reducible apply Kept.mk1) <;> (first | with_reducible assumption | with_reducible rfl | skip))
    | with_reducible refine Kept.each (fun _ _ _ => ?_) ?_)

theorem nodeLost_kept {z0 : State} (n : NodeId) (s : State)
    (hK : Kept z0 s) : Kept z0 (nodeLost n s) := by
  unfold nodeLost
  repeat' (first
    | with_reducible assumption
    | with_reducible apply homeDead_kept
    | with_reducible apply abandon_kept
    | with_reducible apply movingDead_kept
    | with_reducible apply domainDead_kept
    | with_reducible apply sliceLost_kept
    | with_reducible apply portLost_kept
    | with_reducible refine Kept.ite (fun _ => ?_) (fun _ => ?_)
    | fail_if_no_progress ((with_reducible apply Kept.mk1) <;> (first | with_reducible assumption | with_reducible rfl | skip))
    | with_reducible refine Kept.each (fun _ _ _ => ?_) ?_)

theorem stampDead_kept {z0 : State} (n : NodeId) (s : State)
    (hK : Kept z0 s) : Kept z0 (stampDead n s) := by
  unfold stampDead
  repeat' (first
    | with_reducible assumption
    | with_reducible apply stampLost_kept
    | with_reducible apply listChange_kept
    | with_reducible refine Kept.ite (fun _ => ?_) (fun _ => ?_)
    | fail_if_no_progress ((with_reducible apply Kept.mk1) <;> (first | with_reducible assumption | with_reducible rfl | skip))
    | with_reducible refine Kept.each (fun _ _ _ => ?_) ?_)

theorem selfDeclare_kept {z0 : State} (s : State)
    (hK : Kept z0 s) : Kept z0 (selfDeclare s) := by
  unfold selfDeclare
  repeat' (first
    | with_reducible assumption
    | with_reducible apply evNodeDead_kept
    | with_reducible apply stopDevice_kept
    | with_reducible refine Kept.ite (fun _ => ?_) (fun _ => ?_))

theorem declareApply_kept {z0 : State} (n : NodeId) (s : State)
    (hK : Kept z0 s) : Kept z0 (declareApply n s) := by
  unfold declareApply
  repeat' (first
    | with_reducible assumption
    | with_reducible apply evNodeDead_kept
    | with_reducible apply downMoves_kept
    | with_reducible apply ackRelocs_kept
    | with_reducible apply modLive_kept
    | with_reducible apply combFlush_kept
    | with_reducible apply nodeLost_kept
    | with_reducible apply stampDead_kept
    | with_reducible apply selfDeclare_kept
    | with_reducible refine Kept.ite (fun _ => ?_) (fun _ => ?_)
    | fail_if_no_progress ((with_reducible apply Kept.mk1) <;> (first | with_reducible assumption | with_reducible rfl | skip))
    | with_reducible refine Kept.each (fun _ _ _ => ?_) ?_)

theorem declare_kept {z0 : State} (n : NodeId) (s : State)
    (hK : Kept z0 s) : Kept z0 (declare n s) := by
  unfold declare
  repeat' (first
    | with_reducible assumption
    | with_reducible apply flood_kept
    | with_reducible apply declareApply_kept
    | with_reducible refine Kept.ite (fun _ => ?_) (fun _ => ?_))

theorem declarationIn_kept {z0 : State} (f : FPortNo) (n : NodeId) (s0 : State)
    (hK : Kept z0 s0) : Kept z0 (declarationIn f n s0) := by
  unfold declarationIn
  repeat' (first
    | with_reducible assumption
    | with_reducible apply gotVc4_kept
    | with_reducible apply flood_kept
    | with_reducible apply selfDeclare_kept
    | with_reducible apply declareApply_kept
    | with_reducible refine Kept.ite (fun _ => ?_) (fun _ => ?_))

theorem deadTimeout_kept {z0 : State} (n : NodeId) (s : State)
    (hK : Kept z0 s) : Kept z0 (deadTimeout n s) := by
  unfold deadTimeout
  repeat' (first
    | with_reducible assumption
    | with_reducible apply settle_kept
    | with_reducible apply deadTxn_kept
    | with_reducible apply onNack_kept
    | with_reducible apply downMoves_kept
    | with_reducible apply ackRelocs_kept
    | with_reducible refine Kept.ite (fun _ => ?_) (fun _ => ?_)
    | fail_if_no_progress ((with_reducible apply Kept.mk1) <;> (first | with_reducible assumption | with_reducible rfl | skip))
    | with_reducible refine Kept.each (fun _ _ _ => ?_) ?_)

theorem sweepDoneFor_kept {z0 : State} (n : NodeId) (s : State)
    (hK : Kept z0 s) : Kept z0 (sweepDoneFor n s) := by
  unfold sweepDoneFor
  repeat' (first
    | with_reducible assumption
    | with_reducible apply State.modHome_kept
    | with_reducible apply peatEnter_kept
    | with_reducible apply sweepPass_kept
    | with_reducible apply reportSteps_kept
    | with_reducible apply modLive_kept
    | with_reducible refine Kept.ite (fun _ => ?_) (fun _ => ?_))

theorem noteReport_kept {z0 : State} (r : NodeId × NodeId × W64) (s : State)
    (hK : Kept z0 s) : Kept z0 (noteReport r s) := by
  unfold noteReport
  repeat' (first
    | with_reducible assumption
    | with_reducible refine Kept.ite (fun _ => ?_) (fun _ => ?_)
    | fail_if_no_progress ((with_reducible apply Kept.mk1) <;> (first | with_reducible assumption | with_reducible rfl | skip)))

theorem loseLink_kept {z0 : State} (f : FPortNo) (c : LossCause) (s : State)
    (hK : Kept z0 s) : Kept z0 (loseLink f c s) := by
  unfold loseLink
  repeat' (first
    | with_reducible assumption
    | with_reducible apply State.setFp_kept
    | with_reducible apply flood_kept
    | with_reducible apply noteReport_kept
    | with_reducible refine Kept.ite (fun _ => ?_) (fun _ => ?_)
    | fail_if_no_progress ((with_reducible apply Kept.mk1) <;> (first | with_reducible assumption | with_reducible rfl | skip)))

theorem linklostIn_kept {z0 : State} (f : FPortNo) (n peer : NodeId) (t : W64) (s0 : State)
    (hK : Kept z0 s0) : Kept z0 (linklostIn f n peer t s0) := by
  unfold linklostIn
  repeat' (first
    | with_reducible assumption
    | with_reducible apply gotVc4_kept
    | with_reducible apply flood_kept
    | with_reducible apply noteReport_kept
    | with_reducible refine Kept.ite (fun _ => ?_) (fun _ => ?_))

theorem endPause_kept {z0 : State} (s : State)
    (hK : Kept z0 s) : Kept z0 (endPause s) := by
  unfold endPause
  repeat' (first
    | with_reducible assumption
    | with_reducible apply State.emit_kept
    | with_reducible apply sendMsg_kept
    | with_reducible apply sendVc5_kept
    | with_reducible refine Kept.ite (fun _ => ?_) (fun _ => ?_)
    | fail_if_no_progress ((with_reducible apply Kept.mk1) <;> (first | with_reducible assumption | with_reducible rfl | skip))
    | with_reducible refine Kept.each (fun _ _ _ => ?_) ?_
    | with_reducible refine Kept.foldl2 (fun _ _ _ => ?_) ?_
    | with_reducible refine Kept.foldl (fun _ _ _ => ?_) ?_
    | extract_lets
    | with_reducible refine Kept.slGood (z0 := z0) ?_ ?_
    | with_reducible apply Slice.good_slots
    | with_reducible apply Slice.putBlock_good
    | with_reducible apply Slice.putWord_good
    | with_reducible apply Slice.putPlru_good
    | with_reducible apply Slice.touchWay_good
    | with_reducible apply Slice.mendSlot_good
    | with_reducible apply Slice.mendTS_good
    | with_reducible apply Slice.hitWay_good
    | with_reducible apply Slice.dropMove_good
    | with_reducible apply Slice.outcome_good
    | with_reducible apply Slice.hintFill_good
    | with_reducible apply Slice.predFix_good
    | with_reducible apply Slice.hintSeen_good
    | with_reducible apply Slice.predAdd_good
    | with_reducible apply Slice.closeLow_good
    | with_reducible apply Slice.setLock_good
    | with_reducible apply Slice.flushPlru_good
    | with_reducible refine Slice.shAlloc_good ?_ (by with_reducible assumption)
    | with_reducible refine Slice.ensureShadow_good ?_ (by with_reducible assumption)
    | with_reducible refine Slice.demandLook_good ?_ (by with_reducible assumption)
    | fail_if_no_progress ((with_reducible apply Slice.good_mk) <;> (first | with_reducible assumption | with_reducible rfl | skip))
    | split)

theorem linkDecision_kept {z0 : State} (f : FPortNo) (s : State)
    (hK : Kept z0 s) : Kept z0 (linkDecision f s) := by
  unfold linkDecision
  repeat' (first
    | with_reducible assumption
    | with_reducible apply State.setFp_kept
    | with_reducible apply selfDeclare_kept
    | with_reducible apply declare_kept
    | with_reducible apply endPause_kept
    | with_reducible refine Kept.ite (fun _ => ?_) (fun _ => ?_)
    | fail_if_no_progress ((with_reducible apply Kept.mk1) <;> (first | with_reducible assumption | with_reducible rfl | skip)))

theorem agedPacket_kept {z0 : State} (f : FPortNo) (x : Packet) (s : State)
    (hK : Kept z0 s) : Kept z0 (agedPacket f x s) := by
  unfold agedPacket
  repeat' (first
    | with_reducible assumption
    | with_reducible apply State.modFp_kept
    | with_reducible apply postEvent_kept
    | with_reducible apply stopDevice_kept
    | with_reducible apply txFreed_kept
    | with_reducible refine Kept.ite (fun _ => ?_) (fun _ => ?_)
    | fail_if_no_progress ((with_reducible apply Kept.mk1) <;> (first | with_reducible assumption | with_reducible rfl | skip))
    | with_reducible refine Kept.each (fun _ _ _ => ?_) ?_)

theorem warmIn_kept {z0 : State} (f : FPortNo) (s : State)
    (hK : Kept z0 s) : Kept z0 (warmIn f s) := by
  unfold warmIn
  repeat' (first
    | with_reducible assumption
    | with_reducible apply State.modFp_kept
    | with_reducible apply held_kept
    | with_reducible apply declare_kept
    | with_reducible refine Kept.ite (fun _ => ?_) (fun _ => ?_))

theorem fabricTrained_kept {z0 : State} (f : FPortNo) (neigh : NodeId) (s : State)
    (hK : Kept z0 s) : Kept z0 (fabricTrained f neigh s) := by
  unfold fabricTrained
  repeat' (first
    | with_reducible assumption
    | with_reducible apply State.setFp_kept
    | with_reducible apply held_kept
    | with_reducible refine Kept.ite (fun _ => ?_) (fun _ => ?_)
    | fail_if_no_progress ((with_reducible apply Kept.mk1) <;> (first | with_reducible assumption | with_reducible rfl | skip)))

theorem trainTimeout_kept {z0 : State} (f : FPortNo) (s : State)
    (hK : Kept z0 s) : Kept z0 (trainTimeout f s) := by
  unfold trainTimeout
  repeat' (first
    | with_reducible assumption
    | with_reducible apply State.setFp_kept
    | with_reducible apply declare_kept
    | with_reducible refine Kept.ite (fun _ => ?_) (fun _ => ?_)
    | fail_if_no_progress ((with_reducible apply Kept.mk1) <;> (first | with_reducible assumption | with_reducible rfl | skip))
    | with_reducible refine Kept.each (fun _ _ _ => ?_) ?_
    | with_reducible refine Kept.foldl2 (fun _ _ _ => ?_) ?_
    | with_reducible refine Kept.foldl (fun _ _ _ => ?_) ?_
    | extract_lets
    | with_reducible refine Kept.slGood (z0 := z0) ?_ ?_
    | with_reducible apply Slice.good_slots
    | with_reducible apply Slice.putBlock_good
    | with_reducible apply Slice.putWord_good
    | with_reducible apply Slice.putPlru_good
    | with_reducible apply Slice.touchWay_good
    | with_reducible apply Slice.mendSlot_good
    | with_reducible apply Slice.mendTS_good
    | with_reducible apply Slice.hitWay_good
    | with_reducible apply Slice.dropMove_good
    | with_reducible apply Slice.outcome_good
    | with_reducible apply Slice.hintFill_good
    | with_reducible apply Slice.predFix_good
    | with_reducible apply Slice.hintSeen_good
    | with_reducible apply Slice.predAdd_good
    | with_reducible apply Slice.closeLow_good
    | with_reducible apply Slice.setLock_good
    | with_reducible apply Slice.flushPlru_good
    | with_reducible refine Slice.shAlloc_good ?_ (by with_reducible assumption)
    | with_reducible refine Slice.ensureShadow_good ?_ (by with_reducible assumption)
    | with_reducible refine Slice.demandLook_good ?_ (by with_reducible assumption)
    | fail_if_no_progress ((with_reducible apply Slice.good_mk) <;> (first | with_reducible assumption | with_reducible rfl | skip))
    | split)

theorem readmit_kept {z0 : State} (n : NodeId) (s : State)
    (hK : Kept z0 s) : Kept z0 (readmit n s) := by
  unfold readmit
  repeat' (first
    | with_reducible assumption
    | with_reducible apply State.modFp_kept
    | with_reducible apply State.modHome_kept
    | with_reducible apply postEvent_kept
    | with_reducible refine Kept.ite (fun _ => ?_) (fun _ => ?_)
    | fail_if_no_progress ((with_reducible apply Kept.mk1) <;> (first | with_reducible assumption | with_reducible rfl | skip))
    | with_reducible refine Kept.each (fun _ _ _ => ?_) ?_)

theorem sendFloor_kept {z0 : State} (g : BitVec 6) (f : FPortNo) (m : Vc4) (s : State)
    (hK : Kept z0 s) : Kept z0 (sendFloor g f m s) := by
  unfold sendFloor
  repeat' (first
    | with_reducible assumption
    | with_reducible apply sendVc4_kept
    | with_reducible apply originate_kept
    | with_reducible refine Kept.ite (fun _ => ?_) (fun _ => ?_))

theorem horizonResult_kept {z0 : State} (g : BitVec 6) (k h v : W64) (s : State)
    (hK : Kept z0 s) : Kept z0 (horizonResult g k h v s) := by
  unfold horizonResult
  repeat' (first
    | with_reducible assumption
    | with_reducible apply applyDue_kept
    | with_reducible apply settle_kept
    | with_reducible apply downMoves_kept
    | with_reducible apply sendFloor_kept
    | with_reducible refine Kept.ite (fun _ => ?_) (fun _ => ?_)
    | fail_if_no_progress ((with_reducible apply Kept.mk1) <;> (first | with_reducible assumption | with_reducible rfl | skip))
    | with_reducible refine Kept.each (fun _ _ _ => ?_) ?_
    | with_reducible refine Kept.foldl2 (fun _ _ _ => ?_) ?_
    | with_reducible refine Kept.foldl (fun _ _ _ => ?_) ?_
    | extract_lets
    | with_reducible refine Kept.slGood (z0 := z0) ?_ ?_
    | with_reducible apply Slice.good_slots
    | with_reducible apply Slice.putBlock_good
    | with_reducible apply Slice.putWord_good
    | with_reducible apply Slice.putPlru_good
    | with_reducible apply Slice.touchWay_good
    | with_reducible apply Slice.mendSlot_good
    | with_reducible apply Slice.mendTS_good
    | with_reducible apply Slice.hitWay_good
    | with_reducible apply Slice.dropMove_good
    | with_reducible apply Slice.outcome_good
    | with_reducible apply Slice.hintFill_good
    | with_reducible apply Slice.predFix_good
    | with_reducible apply Slice.hintSeen_good
    | with_reducible apply Slice.predAdd_good
    | with_reducible apply Slice.closeLow_good
    | with_reducible apply Slice.setLock_good
    | with_reducible apply Slice.flushPlru_good
    | with_reducible refine Slice.shAlloc_good ?_ (by with_reducible assumption)
    | with_reducible refine Slice.ensureShadow_good ?_ (by with_reducible assumption)
    | with_reducible refine Slice.demandLook_good ?_ (by with_reducible assumption)
    | fail_if_no_progress ((with_reducible apply Slice.good_mk) <;> (first | with_reducible assumption | with_reducible rfl | skip))
    | split)

theorem floorCombine_kept {z0 : State} (g : BitVec 6) (k d v : W64) (cnt : Nat) (s : State)
    (hK : Kept z0 s) : Kept z0 (floorCombine g k d v cnt s) := by
  unfold floorCombine
  repeat' (first
    | with_reducible assumption
    | with_reducible apply sendFloor_kept
    | with_reducible apply horizonResult_kept
    | with_reducible refine Kept.ite (fun _ => ?_) (fun _ => ?_)
    | fail_if_no_progress ((with_reducible apply Kept.mk1) <;> (first | with_reducible assumption | with_reducible rfl | skip))
    | with_reducible refine Kept.each (fun _ _ _ => ?_) ?_
    | with_reducible refine Kept.foldl2 (fun _ _ _ => ?_) ?_
    | with_reducible refine Kept.foldl (fun _ _ _ => ?_) ?_
    | extract_lets
    | with_reducible refine Kept.slGood (z0 := z0) ?_ ?_
    | with_reducible apply Slice.good_slots
    | with_reducible apply Slice.putBlock_good
    | with_reducible apply Slice.putWord_good
    | with_reducible apply Slice.putPlru_good
    | with_reducible apply Slice.touchWay_good
    | with_reducible apply Slice.mendSlot_good
    | with_reducible apply Slice.mendTS_good
    | with_reducible apply Slice.hitWay_good
    | with_reducible apply Slice.dropMove_good
    | with_reducible apply Slice.outcome_good
    | with_reducible apply Slice.hintFill_good
    | with_reducible apply Slice.predFix_good
    | with_reducible apply Slice.hintSeen_good
    | with_reducible apply Slice.predAdd_good
    | with_reducible apply Slice.closeLow_good
    | with_reducible apply Slice.setLock_good
    | with_reducible apply Slice.flushPlru_good
    | with_reducible refine Slice.shAlloc_good ?_ (by with_reducible assumption)
    | with_reducible refine Slice.ensureShadow_good ?_ (by with_reducible assumption)
    | with_reducible refine Slice.demandLook_good ?_ (by with_reducible assumption)
    | fail_if_no_progress ((with_reducible apply Slice.good_mk) <;> (first | with_reducible assumption | with_reducible rfl | skip))
    | split
    | with_reducible refine Kept.of_snd (by with_reducible assumption) ?_
    | dsimp +zetaDelta only)

theorem periodStart_kept {z0 : State} (k : W64) (late : List (BitVec 6)) (s : State)
    (hK : Kept z0 s) : Kept z0 (periodStart k late s) := by
  unfold periodStart
  repeat' (first
    | with_reducible assumption
    | with_reducible apply floorCombine_kept
    | with_reducible refine Kept.ite (fun _ => ?_) (fun _ => ?_)
    | fail_if_no_progress ((with_reducible apply Kept.mk1) <;> (first | with_reducible assumption | with_reducible rfl | skip)))

theorem stampStalled_kept {z0 : State} (s : State)
    (hK : Kept z0 s) : Kept z0 (stampStalled s) := by
  unfold stampStalled
  repeat' (first
    | with_reducible assumption
    | with_reducible apply evStampStall_kept
    | with_reducible refine Kept.ite (fun _ => ?_) (fun _ => ?_)
    | fail_if_no_progress ((with_reducible apply Kept.mk1) <;> (first | with_reducible assumption | with_reducible rfl | skip)))

theorem State.mapVs_kept {z0 : State} (s : State) (f : Nat → W32 → VReg → VReg)
    (hK : Kept z0 s) : Kept z0 (s.mapVs f) :=
  Kept.mk2 hK rfl rfl rfl rfl rfl rfl (fun g => (hK.good g).1) fun g i => by
    unfold State.mapVs State.sl
    rw [Vector.getElem_mapFinIdx]
    exact Slice.good_of ((hK.good g).2 i) rfl rfl

theorem State.mapV_kept {z0 : State} (s : State) (f : W32 → VReg → VReg)
    (hK : Kept z0 s) : Kept z0 (s.mapV f) := State.mapVs_kept _ _ hK

theorem voteRepair_kept {z0 : State} (s : State)
    (hK : Kept z0 s) : Kept z0 (voteRepair s) := by
  unfold voteRepair
  repeat' (first
    | with_reducible assumption
    | with_reducible apply State.mapV_kept
    | with_reducible refine Kept.ite (fun _ => ?_) (fun _ => ?_)
    | fail_if_no_progress ((with_reducible apply Kept.mk1) <;> (first | with_reducible assumption | with_reducible rfl | skip)))

theorem scrubbed_kept {z0 : State} (i : SliceNo) (again : Bool) (s : State)
    (hK : Kept z0 s) : Kept z0 (scrubbed i again s) := by
  unfold scrubbed
  repeat' (first
    | with_reducible assumption
    | with_reducible apply arbPass_kept
    | with_reducible refine Kept.ite (fun _ => ?_) (fun _ => ?_))

theorem scrubTS_kept {z0 : State} (i : SliceNo) (set : Nat) (s : State)
    (hK : Kept z0 s) : Kept z0 (scrubTS i set s) := by
  unfold scrubTS
  repeat' (first
    | with_reducible assumption
    | with_reducible apply State.modSl_kept
    | with_reducible apply noteRepeat_kept
    | with_reducible apply counted_kept
    | with_reducible apply recordSev_kept
    | with_reducible apply readTags_kept
    | with_reducible apply scrubbed_kept
    | with_reducible refine Kept.ite (fun _ => ?_) (fun _ => ?_)
    | fail_if_no_progress ((with_reducible apply Kept.mk1) <;> (first | with_reducible assumption | with_reducible rfl | skip))
    | with_reducible refine Kept.each (fun _ _ _ => ?_) ?_
    | with_reducible refine Kept.foldl2 (fun _ _ _ => ?_) ?_
    | with_reducible refine Kept.foldl (fun _ _ _ => ?_) ?_
    | extract_lets
    | with_reducible refine Kept.slGood (z0 := z0) ?_ ?_
    | with_reducible apply Slice.good_slots
    | with_reducible apply Slice.putBlock_good
    | with_reducible apply Slice.putWord_good
    | with_reducible apply Slice.putPlru_good
    | with_reducible apply Slice.touchWay_good
    | with_reducible apply Slice.mendSlot_good
    | with_reducible apply Slice.mendTS_good
    | with_reducible apply Slice.hitWay_good
    | with_reducible apply Slice.dropMove_good
    | with_reducible apply Slice.outcome_good
    | with_reducible apply Slice.hintFill_good
    | with_reducible apply Slice.predFix_good
    | with_reducible apply Slice.hintSeen_good
    | with_reducible apply Slice.predAdd_good
    | with_reducible apply Slice.closeLow_good
    | with_reducible apply Slice.setLock_good
    | with_reducible apply Slice.flushPlru_good
    | with_reducible refine Slice.shAlloc_good ?_ (by with_reducible assumption)
    | with_reducible refine Slice.ensureShadow_good ?_ (by with_reducible assumption)
    | with_reducible refine Slice.demandLook_good ?_ (by with_reducible assumption)
    | fail_if_no_progress ((with_reducible apply Slice.good_mk) <;> (first | with_reducible assumption | with_reducible rfl | skip))
    | split
    | with_reducible refine Kept.of_snd (by with_reducible assumption) ?_
    | dsimp +zetaDelta only
    | intro)

theorem scrubSlot_kept {z0 : State} (i : SliceNo) (set w : Nat) (s : State)
    (hK : Kept z0 s) : Kept z0 (scrubSlot i set w s) := by
  unfold scrubSlot
  repeat' (first
    | with_reducible assumption
    | with_reducible apply State.modSl_kept
    | with_reducible apply readSlot_kept
    | with_reducible apply scrubbed_kept
    | with_reducible refine Kept.ite (fun _ => ?_) (fun _ => ?_)
    | fail_if_no_progress ((with_reducible apply Kept.mk1) <;> (first | with_reducible assumption | with_reducible rfl | skip))
    | with_reducible refine Kept.each (fun _ _ _ => ?_) ?_
    | with_reducible refine Kept.foldl2 (fun _ _ _ => ?_) ?_
    | with_reducible refine Kept.foldl (fun _ _ _ => ?_) ?_
    | extract_lets
    | with_reducible refine Kept.slGood (z0 := z0) ?_ ?_
    | with_reducible apply Slice.good_slots
    | with_reducible apply Slice.putBlock_good
    | with_reducible apply Slice.putWord_good
    | with_reducible apply Slice.putPlru_good
    | with_reducible apply Slice.touchWay_good
    | with_reducible apply Slice.mendSlot_good
    | with_reducible apply Slice.mendTS_good
    | with_reducible apply Slice.hitWay_good
    | with_reducible apply Slice.dropMove_good
    | with_reducible apply Slice.outcome_good
    | with_reducible apply Slice.hintFill_good
    | with_reducible apply Slice.predFix_good
    | with_reducible apply Slice.hintSeen_good
    | with_reducible apply Slice.predAdd_good
    | with_reducible apply Slice.closeLow_good
    | with_reducible apply Slice.setLock_good
    | with_reducible apply Slice.flushPlru_good
    | with_reducible refine Slice.shAlloc_good ?_ (by with_reducible assumption)
    | with_reducible refine Slice.ensureShadow_good ?_ (by with_reducible assumption)
    | with_reducible refine Slice.demandLook_good ?_ (by with_reducible assumption)
    | fail_if_no_progress ((with_reducible apply Slice.good_mk) <;> (first | with_reducible assumption | with_reducible rfl | skip))
    | split
    | with_reducible refine Kept.of_snd (by with_reducible assumption) ?_
    | dsimp +zetaDelta only
    | intro)

theorem scrubDdr_kept {z0 : State} (f : Nat) (s : State)
    (hK : Kept z0 s) : Kept z0 (scrubDdr f s) := by
  unfold scrubDdr
  repeat' (first
    | with_reducible assumption
    | with_reducible apply ddrQueue_kept
    | with_reducible apply ddrRead_kept
    | with_reducible apply sweepRec_kept
    | with_reducible refine Kept.ite (fun _ => ?_) (fun _ => ?_)
    | fail_if_no_progress ((with_reducible apply Kept.mk1) <;> (first | with_reducible assumption | with_reducible rfl | skip))
    | with_reducible refine Kept.each (fun _ _ _ => ?_) ?_
    | with_reducible refine Kept.foldl2 (fun _ _ _ => ?_) ?_
    | with_reducible refine Kept.foldl (fun _ _ _ => ?_) ?_
    | extract_lets
    | with_reducible refine Kept.slGood (z0 := z0) ?_ ?_
    | with_reducible apply Slice.good_slots
    | with_reducible apply Slice.putBlock_good
    | with_reducible apply Slice.putWord_good
    | with_reducible apply Slice.putPlru_good
    | with_reducible apply Slice.touchWay_good
    | with_reducible apply Slice.mendSlot_good
    | with_reducible apply Slice.mendTS_good
    | with_reducible apply Slice.hitWay_good
    | with_reducible apply Slice.dropMove_good
    | with_reducible apply Slice.outcome_good
    | with_reducible apply Slice.hintFill_good
    | with_reducible apply Slice.predFix_good
    | with_reducible apply Slice.hintSeen_good
    | with_reducible apply Slice.predAdd_good
    | with_reducible apply Slice.closeLow_good
    | with_reducible apply Slice.setLock_good
    | with_reducible apply Slice.flushPlru_good
    | with_reducible refine Slice.shAlloc_good ?_ (by with_reducible assumption)
    | with_reducible refine Slice.ensureShadow_good ?_ (by with_reducible assumption)
    | with_reducible refine Slice.demandLook_good ?_ (by with_reducible assumption)
    | fail_if_no_progress ((with_reducible apply Slice.good_mk) <;> (first | with_reducible assumption | with_reducible rfl | skip))
    | split)

theorem bufError_kept {z0 : State} (unit : Nat) (l : Option LAddr) (unc : Bool) (mark : State → State) (s : State)
    (hmark : ∀ x0, Kept z0 x0 → Kept z0 (mark x0)) (hK : Kept z0 s) : Kept z0 (bufError unit l unc mark s) := by
  unfold bufError
  repeat' (first
    | with_reducible assumption
    | with_reducible apply hmark
    | with_reducible apply postEvent_kept
    | with_reducible apply bufCorrected_kept
    | with_reducible refine Kept.ite (fun _ => ?_) (fun _ => ?_)
    | fail_if_no_progress ((with_reducible apply Kept.mk1) <;> (first | with_reducible assumption | with_reducible rfl | skip)))

theorem poisonQueued_kept {z0 : State} (f : Nat) (s : State)
    (hK : Kept z0 s) : Kept z0 (poisonQueued f s) := by
  unfold poisonQueued
  repeat' (first
    | with_reducible assumption
    | with_reducible apply State.modHome_kept
    | with_reducible apply stampHit_kept
    | with_reducible apply dirSet_kept
    | with_reducible refine Kept.ite (fun _ => ?_) (fun _ => ?_)
    | fail_if_no_progress ((with_reducible apply Kept.mk1) <;> (first | with_reducible assumption | with_reducible rfl | skip))
    | with_reducible refine Kept.each (fun _ _ _ => ?_) ?_
    | with_reducible refine Kept.foldl2 (fun _ _ _ => ?_) ?_
    | with_reducible refine Kept.foldl (fun _ _ _ => ?_) ?_
    | extract_lets
    | with_reducible refine Kept.slGood (z0 := z0) ?_ ?_
    | with_reducible apply Slice.good_slots
    | with_reducible apply Slice.putBlock_good
    | with_reducible apply Slice.putWord_good
    | with_reducible apply Slice.putPlru_good
    | with_reducible apply Slice.touchWay_good
    | with_reducible apply Slice.mendSlot_good
    | with_reducible apply Slice.mendTS_good
    | with_reducible apply Slice.hitWay_good
    | with_reducible apply Slice.dropMove_good
    | with_reducible apply Slice.outcome_good
    | with_reducible apply Slice.hintFill_good
    | with_reducible apply Slice.predFix_good
    | with_reducible apply Slice.hintSeen_good
    | with_reducible apply Slice.predAdd_good
    | with_reducible apply Slice.closeLow_good
    | with_reducible apply Slice.setLock_good
    | with_reducible apply Slice.flushPlru_good
    | with_reducible refine Slice.shAlloc_good ?_ (by with_reducible assumption)
    | with_reducible refine Slice.ensureShadow_good ?_ (by with_reducible assumption)
    | with_reducible refine Slice.demandLook_good ?_ (by with_reducible assumption)
    | fail_if_no_progress ((with_reducible apply Slice.good_mk) <;> (first | with_reducible assumption | with_reducible rfl | skip))
    | split)

theorem upset_kept {z0 : State} (u : Upset) (s : State)
    (hK : Kept z0 s) : Kept z0 (upset u s) := by
  unfold upset
  repeat' (first
    | with_reducible assumption
    | with_reducible apply State.modHp_kept
    | with_reducible apply State.modSl_kept
    | with_reducible apply State.modHome_kept
    | with_reducible apply modTxn_kept
    | with_reducible apply modT_kept
    | with_reducible apply State.mapVs_kept
    | with_reducible apply bufError_kept
    | with_reducible apply poisonQueued_kept
    | with_reducible refine Kept.ite (fun _ => ?_) (fun _ => ?_)
    | fail_if_no_progress ((with_reducible apply Kept.mk1) <;> (first | with_reducible assumption | with_reducible rfl | skip))
    | with_reducible refine Kept.each (fun _ _ _ => ?_) ?_
    | with_reducible refine Kept.foldl2 (fun _ _ _ => ?_) ?_
    | with_reducible refine Kept.foldl (fun _ _ _ => ?_) ?_
    | extract_lets
    | with_reducible refine Kept.slGood (z0 := z0) ?_ ?_
    | with_reducible apply Slice.good_slots
    | with_reducible apply Slice.putBlock_good
    | with_reducible apply Slice.putWord_good
    | with_reducible apply Slice.putPlru_good
    | with_reducible apply Slice.touchWay_good
    | with_reducible apply Slice.mendSlot_good
    | with_reducible apply Slice.mendTS_good
    | with_reducible apply Slice.hitWay_good
    | with_reducible apply Slice.dropMove_good
    | with_reducible apply Slice.outcome_good
    | with_reducible apply Slice.hintFill_good
    | with_reducible apply Slice.predFix_good
    | with_reducible apply Slice.hintSeen_good
    | with_reducible apply Slice.predAdd_good
    | with_reducible apply Slice.closeLow_good
    | with_reducible apply Slice.setLock_good
    | with_reducible apply Slice.flushPlru_good
    | with_reducible refine Slice.shAlloc_good ?_ (by with_reducible assumption)
    | with_reducible refine Slice.ensureShadow_good ?_ (by with_reducible assumption)
    | with_reducible refine Slice.demandLook_good ?_ (by with_reducible assumption)
    | fail_if_no_progress ((with_reducible apply Slice.good_mk) <;> (first | with_reducible assumption | with_reducible rfl | skip))
    | split
    | with_reducible refine Kept.of_snd (by with_reducible assumption) ?_
    | dsimp +zetaDelta only
    | intro)

theorem arrayCount_kept {z0 : State} (row : BitVec 16) (s : State)
    (hK : Kept z0 s) : Kept z0 (arrayCount row s) := by
  unfold arrayCount
  repeat' (first
    | with_reducible assumption
    | with_reducible apply enterMap_kept
    | with_reducible refine Kept.ite (fun _ => ?_) (fun _ => ?_)
    | fail_if_no_progress ((with_reducible apply Kept.mk1) <;> (first | with_reducible assumption | with_reducible rfl | skip)))

theorem passEnd_kept {z0 : State} (ddr : Bool) (s : State)
    (hK : Kept z0 s) : Kept z0 (passEnd ddr s) := by
  unfold passEnd
  repeat' (first
    | with_reducible assumption
    | with_reducible refine Kept.ite (fun _ => ?_) (fun _ => ?_)
    | fail_if_no_progress ((with_reducible apply Kept.mk1) <;> (first | with_reducible assumption | with_reducible rfl | skip)))

theorem scrubRead_kept {z0 : State} (ddr : Bool) (s : State)
    (hK : Kept z0 s) : Kept z0 (scrubRead ddr s) := by
  unfold scrubRead
  repeat' (first
    | with_reducible assumption
    | with_reducible apply scrubTS_kept
    | with_reducible apply scrubSlot_kept
    | with_reducible apply scrubDdr_kept
    | with_reducible apply passEnd_kept
    | with_reducible refine Kept.ite (fun _ => ?_) (fun _ => ?_)
    | fail_if_no_progress ((with_reducible apply Kept.mk1) <;> (first | with_reducible assumption | with_reducible rfl | skip))
    | with_reducible refine Kept.each (fun _ _ _ => ?_) ?_
    | with_reducible refine Kept.foldl2 (fun _ _ _ => ?_) ?_
    | with_reducible refine Kept.foldl (fun _ _ _ => ?_) ?_
    | extract_lets
    | with_reducible refine Kept.slGood (z0 := z0) ?_ ?_
    | with_reducible apply Slice.good_slots
    | with_reducible apply Slice.putBlock_good
    | with_reducible apply Slice.putWord_good
    | with_reducible apply Slice.putPlru_good
    | with_reducible apply Slice.touchWay_good
    | with_reducible apply Slice.mendSlot_good
    | with_reducible apply Slice.mendTS_good
    | with_reducible apply Slice.hitWay_good
    | with_reducible apply Slice.dropMove_good
    | with_reducible apply Slice.outcome_good
    | with_reducible apply Slice.hintFill_good
    | with_reducible apply Slice.predFix_good
    | with_reducible apply Slice.hintSeen_good
    | with_reducible apply Slice.predAdd_good
    | with_reducible apply Slice.closeLow_good
    | with_reducible apply Slice.setLock_good
    | with_reducible apply Slice.flushPlru_good
    | with_reducible refine Slice.shAlloc_good ?_ (by with_reducible assumption)
    | with_reducible refine Slice.ensureShadow_good ?_ (by with_reducible assumption)
    | with_reducible refine Slice.demandLook_good ?_ (by with_reducible assumption)
    | fail_if_no_progress ((with_reducible apply Slice.good_mk) <;> (first | with_reducible assumption | with_reducible rfl | skip))
    | split)

theorem periodEnd_kept {z0 : State} (ddr : Bool) (s : State)
    (hK : Kept z0 s) : Kept z0 (periodEnd ddr s) := by
  unfold periodEnd
  repeat' (first
    | with_reducible assumption
    | with_reducible apply State.modSl_kept
    | with_reducible apply postEvent_kept
    | with_reducible refine Kept.ite (fun _ => ?_) (fun _ => ?_)
    | fail_if_no_progress ((with_reducible apply Kept.mk1) <;> (first | with_reducible assumption | with_reducible rfl | skip))
    | with_reducible refine Kept.each (fun _ _ _ => ?_) ?_
    | with_reducible refine Kept.foldl2 (fun _ _ _ => ?_) ?_
    | with_reducible refine Kept.foldl (fun _ _ _ => ?_) ?_
    | extract_lets
    | with_reducible refine Kept.slGood (z0 := z0) ?_ ?_
    | with_reducible apply Slice.good_slots
    | with_reducible apply Slice.putBlock_good
    | with_reducible apply Slice.putWord_good
    | with_reducible apply Slice.putPlru_good
    | with_reducible apply Slice.touchWay_good
    | with_reducible apply Slice.mendSlot_good
    | with_reducible apply Slice.mendTS_good
    | with_reducible apply Slice.hitWay_good
    | with_reducible apply Slice.dropMove_good
    | with_reducible apply Slice.outcome_good
    | with_reducible apply Slice.hintFill_good
    | with_reducible apply Slice.predFix_good
    | with_reducible apply Slice.hintSeen_good
    | with_reducible apply Slice.predAdd_good
    | with_reducible apply Slice.closeLow_good
    | with_reducible apply Slice.setLock_good
    | with_reducible apply Slice.flushPlru_good
    | with_reducible refine Slice.shAlloc_good ?_ (by with_reducible assumption)
    | with_reducible refine Slice.ensureShadow_good ?_ (by with_reducible assumption)
    | with_reducible refine Slice.demandLook_good ?_ (by with_reducible assumption)
    | fail_if_no_progress ((with_reducible apply Slice.good_mk) <;> (first | with_reducible assumption | with_reducible rfl | skip))
    | split
    | with_reducible refine Kept.of_snd (by with_reducible assumption) ?_
    | dsimp +zetaDelta only
    | intro)

theorem respared_kept {z0 : State} (r : RepLoc) (s : State)
    (hK : Kept z0 s) : Kept z0 (respared r s) := by
  unfold respared
  repeat' (first
    | with_reducible assumption
    | with_reducible apply rewriteRow_kept
    | with_reducible refine Kept.ite (fun _ => ?_) (fun _ => ?_)
    | fail_if_no_progress ((with_reducible apply Kept.mk1) <;> (first | with_reducible assumption | with_reducible rfl | skip))
    | with_reducible refine Kept.each (fun _ _ _ => ?_) ?_
    | with_reducible refine Kept.foldl2 (fun _ _ _ => ?_) ?_
    | with_reducible refine Kept.foldl (fun _ _ _ => ?_) ?_
    | extract_lets
    | with_reducible refine Kept.slGood (z0 := z0) ?_ ?_
    | with_reducible apply Slice.good_slots
    | with_reducible apply Slice.putBlock_good
    | with_reducible apply Slice.putWord_good
    | with_reducible apply Slice.putPlru_good
    | with_reducible apply Slice.touchWay_good
    | with_reducible apply Slice.mendSlot_good
    | with_reducible apply Slice.mendTS_good
    | with_reducible apply Slice.hitWay_good
    | with_reducible apply Slice.dropMove_good
    | with_reducible apply Slice.outcome_good
    | with_reducible apply Slice.hintFill_good
    | with_reducible apply Slice.predFix_good
    | with_reducible apply Slice.hintSeen_good
    | with_reducible apply Slice.predAdd_good
    | with_reducible apply Slice.closeLow_good
    | with_reducible apply Slice.setLock_good
    | with_reducible apply Slice.flushPlru_good
    | with_reducible refine Slice.shAlloc_good ?_ (by with_reducible assumption)
    | with_reducible refine Slice.ensureShadow_good ?_ (by with_reducible assumption)
    | with_reducible refine Slice.demandLook_good ?_ (by with_reducible assumption)
    | fail_if_no_progress ((with_reducible apply Slice.good_mk) <;> (first | with_reducible assumption | with_reducible rfl | skip))
    | split)

theorem repairEnd_kept {z0 : State} (r : RepLoc) (ok : Bool) (s : State)
    (hK : Kept z0 s) : Kept z0 (repairEnd r ok s) := by
  unfold repairEnd
  repeat' (first
    | with_reducible assumption
    | with_reducible apply peatEnter_kept
    | with_reducible apply evRepair_kept
    | with_reducible apply repState_kept
    | with_reducible apply respared_kept
    | with_reducible refine Kept.ite (fun _ => ?_) (fun _ => ?_)
    | fail_if_no_progress ((with_reducible apply Kept.mk1) <;> (first | with_reducible assumption | with_reducible rfl | skip)))

theorem liveEnd_kept {z0 : State} (ok : Bool) (s : State)
    (hK : Kept z0 s) : Kept z0 (liveEnd ok s) := by
  unfold liveEnd
  repeat' (first
    | with_reducible assumption
    | with_reducible apply repairEnd_kept
    | with_reducible refine Kept.ite (fun _ => ?_) (fun _ => ?_)
    | fail_if_no_progress ((with_reducible apply Kept.mk1) <;> (first | with_reducible assumption | with_reducible rfl | skip))
    | with_reducible refine Kept.each (fun _ _ _ => ?_) ?_
    | with_reducible refine Kept.foldl2 (fun _ _ _ => ?_) ?_
    | with_reducible refine Kept.foldl (fun _ _ _ => ?_) ?_
    | extract_lets
    | with_reducible refine Kept.slGood (z0 := z0) ?_ ?_
    | with_reducible apply Slice.good_slots
    | with_reducible apply Slice.putBlock_good
    | with_reducible apply Slice.putWord_good
    | with_reducible apply Slice.putPlru_good
    | with_reducible apply Slice.touchWay_good
    | with_reducible apply Slice.mendSlot_good
    | with_reducible apply Slice.mendTS_good
    | with_reducible apply Slice.hitWay_good
    | with_reducible apply Slice.dropMove_good
    | with_reducible apply Slice.outcome_good
    | with_reducible apply Slice.hintFill_good
    | with_reducible apply Slice.predFix_good
    | with_reducible apply Slice.hintSeen_good
    | with_reducible apply Slice.predAdd_good
    | with_reducible apply Slice.closeLow_good
    | with_reducible apply Slice.setLock_good
    | with_reducible apply Slice.flushPlru_good
    | with_reducible refine Slice.shAlloc_good ?_ (by with_reducible assumption)
    | with_reducible refine Slice.ensureShadow_good ?_ (by with_reducible assumption)
    | with_reducible refine Slice.demandLook_good ?_ (by with_reducible assumption)
    | fail_if_no_progress ((with_reducible apply Slice.good_mk) <;> (first | with_reducible assumption | with_reducible rfl | skip))
    | split)

theorem leakOne_kept {z0 : State} (s : State)
    (hK : Kept z0 s) : Kept z0 (leakOne s) := by
  unfold leakOne
  repeat' (first
    | with_reducible assumption
    | with_reducible refine Kept.ite (fun _ => ?_) (fun _ => ?_)
    | fail_if_no_progress ((with_reducible apply Kept.mk1) <;> (first | with_reducible assumption | with_reducible rfl | skip)))

theorem fillBlock_kept {z0 : State} (s : State)
    (hK : Kept z0 s) : Kept z0 (fillBlock s) := by
  unfold fillBlock
  repeat' (first
    | with_reducible assumption
    | with_reducible apply fillAdvance_kept
    | with_reducible refine Kept.ite (fun _ => ?_) (fun _ => ?_)
    | fail_if_no_progress ((with_reducible apply Kept.mk1) <;> (first | with_reducible assumption | with_reducible rfl | skip)))

theorem heldRelease_kept {z0 : State} (s : State)
    (hK : Kept z0 s) : Kept z0 (heldRelease s) := by
  unfold heldRelease
  repeat' (first
    | with_reducible assumption
    | with_reducible apply takeSlot_kept
    | with_reducible refine Kept.ite (fun _ => ?_) (fun _ => ?_)
    | fail_if_no_progress ((with_reducible apply Kept.mk1) <;> (first | with_reducible assumption | with_reducible rfl | skip))
    | with_reducible refine Kept.each (fun _ _ _ => ?_) ?_
    | with_reducible refine Kept.foldl2 (fun _ _ _ => ?_) ?_
    | with_reducible refine Kept.foldl (fun _ _ _ => ?_) ?_
    | extract_lets
    | with_reducible refine Kept.slGood (z0 := z0) ?_ ?_
    | with_reducible apply Slice.good_slots
    | with_reducible apply Slice.putBlock_good
    | with_reducible apply Slice.putWord_good
    | with_reducible apply Slice.putPlru_good
    | with_reducible apply Slice.touchWay_good
    | with_reducible apply Slice.mendSlot_good
    | with_reducible apply Slice.mendTS_good
    | with_reducible apply Slice.hitWay_good
    | with_reducible apply Slice.dropMove_good
    | with_reducible apply Slice.outcome_good
    | with_reducible apply Slice.hintFill_good
    | with_reducible apply Slice.predFix_good
    | with_reducible apply Slice.hintSeen_good
    | with_reducible apply Slice.predAdd_good
    | with_reducible apply Slice.closeLow_good
    | with_reducible apply Slice.setLock_good
    | with_reducible apply Slice.flushPlru_good
    | with_reducible refine Slice.shAlloc_good ?_ (by with_reducible assumption)
    | with_reducible refine Slice.ensureShadow_good ?_ (by with_reducible assumption)
    | with_reducible refine Slice.demandLook_good ?_ (by with_reducible assumption)
    | fail_if_no_progress ((with_reducible apply Slice.good_mk) <;> (first | with_reducible assumption | with_reducible rfl | skip))
    | split)

theorem inject_kept {z0 : State} (s : State) (o : Out)
    (hK : Kept z0 s) : Kept z0 (inject s o) := by
  unfold inject
  repeat' (first
    | with_reducible assumption
    | with_reducible apply State.modHp_kept
    | with_reducible apply State.modFp_kept
    | with_reducible apply State.tick1_kept
    | with_reducible apply txFreed_kept
    | with_reducible refine Kept.ite (fun _ => ?_) (fun _ => ?_)
    | fail_if_no_progress ((with_reducible apply Kept.mk1) <;> (first | with_reducible assumption | with_reducible rfl | skip))
    | with_reducible refine Kept.each (fun _ _ _ => ?_) ?_
    | with_reducible refine Kept.foldl2 (fun _ _ _ => ?_) ?_
    | with_reducible refine Kept.foldl (fun _ _ _ => ?_) ?_
    | extract_lets
    | with_reducible refine Kept.slGood (z0 := z0) ?_ ?_
    | with_reducible apply Slice.good_slots
    | with_reducible apply Slice.putBlock_good
    | with_reducible apply Slice.putWord_good
    | with_reducible apply Slice.putPlru_good
    | with_reducible apply Slice.touchWay_good
    | with_reducible apply Slice.mendSlot_good
    | with_reducible apply Slice.mendTS_good
    | with_reducible apply Slice.hitWay_good
    | with_reducible apply Slice.dropMove_good
    | with_reducible apply Slice.outcome_good
    | with_reducible apply Slice.hintFill_good
    | with_reducible apply Slice.predFix_good
    | with_reducible apply Slice.hintSeen_good
    | with_reducible apply Slice.predAdd_good
    | with_reducible apply Slice.closeLow_good
    | with_reducible apply Slice.setLock_good
    | with_reducible apply Slice.flushPlru_good
    | with_reducible refine Slice.shAlloc_good ?_ (by with_reducible assumption)
    | with_reducible refine Slice.ensureShadow_good ?_ (by with_reducible assumption)
    | with_reducible refine Slice.demandLook_good ?_ (by with_reducible assumption)
    | fail_if_no_progress ((with_reducible apply Slice.good_mk) <;> (first | with_reducible assumption | with_reducible rfl | skip))
    | split)

theorem injectAll_kept {z0 : State} (s : State)
    (hK : Kept z0 s) : Kept z0 (injectAll s) := by
  unfold injectAll
  repeat' (first
    | with_reducible assumption
    | with_reducible apply State.modFabric_kept
    | with_reducible apply inject_kept
    | with_reducible refine Kept.ite (fun _ => ?_) (fun _ => ?_)
    | fail_if_no_progress ((with_reducible apply Kept.mk1) <;> (first | with_reducible assumption | with_reducible rfl | skip))
    | with_reducible refine Kept.each (fun _ _ _ => ?_) ?_
    | with_reducible refine Kept.foldl2 (fun _ _ _ => ?_) ?_
    | with_reducible refine Kept.foldl (fun _ _ _ => ?_) ?_)

theorem hostTick_kept {z0 : State} (s : State) (p : Port)
    (hK : Kept z0 s) : Kept z0 (hostTick s p) := by
  unfold hostTick
  repeat' (first
    | with_reducible assumption
    | with_reducible apply State.setHp_kept
    | with_reducible apply State.modHp_kept
    | with_reducible refine Kept.ite (fun _ => ?_) (fun _ => ?_)
    | fail_if_no_progress ((with_reducible apply Kept.mk1) <;> (first | with_reducible assumption | with_reducible rfl | skip))
    | with_reducible refine Kept.each (fun _ _ _ => ?_) ?_)

theorem oweBack_kept {z0 : State} (s : State) (xs : List TxPkt)
    (hK : Kept z0 s) : Kept z0 (oweBack s xs) := by
  unfold oweBack
  repeat' (first
    | with_reducible assumption
    | with_reducible apply bufferFreed_kept
    | with_reducible refine Kept.ite (fun _ => ?_) (fun _ => ?_)
    | fail_if_no_progress ((with_reducible apply Kept.mk1) <;> (first | with_reducible assumption | with_reducible rfl | skip))
    | with_reducible refine Kept.each (fun _ _ _ => ?_) ?_
    | with_reducible refine Kept.foldl2 (fun _ _ _ => ?_) ?_
    | with_reducible refine Kept.foldl (fun _ _ _ => ?_) ?_
    | extract_lets
    | with_reducible refine Kept.slGood (z0 := z0) ?_ ?_
    | with_reducible apply Slice.good_slots
    | with_reducible apply Slice.putBlock_good
    | with_reducible apply Slice.putWord_good
    | with_reducible apply Slice.putPlru_good
    | with_reducible apply Slice.touchWay_good
    | with_reducible apply Slice.mendSlot_good
    | with_reducible apply Slice.mendTS_good
    | with_reducible apply Slice.hitWay_good
    | with_reducible apply Slice.dropMove_good
    | with_reducible apply Slice.outcome_good
    | with_reducible apply Slice.hintFill_good
    | with_reducible apply Slice.predFix_good
    | with_reducible apply Slice.hintSeen_good
    | with_reducible apply Slice.predAdd_good
    | with_reducible apply Slice.closeLow_good
    | with_reducible apply Slice.setLock_good
    | with_reducible apply Slice.flushPlru_good
    | with_reducible refine Slice.shAlloc_good ?_ (by with_reducible assumption)
    | with_reducible refine Slice.ensureShadow_good ?_ (by with_reducible assumption)
    | with_reducible refine Slice.demandLook_good ?_ (by with_reducible assumption)
    | fail_if_no_progress ((with_reducible apply Slice.good_mk) <;> (first | with_reducible assumption | with_reducible rfl | skip))
    | split)

theorem sendFlit_kept {z0 : State} (f : FPortNo) (s : State)
    (hK : Kept z0 s) : Kept z0 (sendFlit f s) := by
  unfold sendFlit
  repeat' (first
    | with_reducible assumption
    | with_reducible apply State.setFp_kept
    | with_reducible apply State.modFabric_kept
    | with_reducible apply State.tick1_kept
    | with_reducible apply oweBack_kept
    | with_reducible refine Kept.ite (fun _ => ?_) (fun _ => ?_)
    | fail_if_no_progress ((with_reducible apply Kept.mk1) <;> (first | with_reducible assumption | with_reducible rfl | skip))
    | with_reducible refine Kept.each (fun _ _ _ => ?_) ?_
    | with_reducible refine Kept.foldl2 (fun _ _ _ => ?_) ?_
    | with_reducible refine Kept.foldl (fun _ _ _ => ?_) ?_)

theorem dropQueued_kept {z0 : State} (f : FPortNo) (q : TxPkt → Bool) (s : State)
    (hK : Kept z0 s) : Kept z0 (dropQueued f q s) := by
  unfold dropQueued
  repeat' (first
    | with_reducible assumption
    | with_reducible apply State.modFp_kept
    | with_reducible apply txFreed_kept
    | with_reducible refine Kept.ite (fun _ => ?_) (fun _ => ?_)
    | fail_if_no_progress ((with_reducible apply Kept.mk1) <;> (first | with_reducible assumption | with_reducible rfl | skip))
    | with_reducible refine Kept.each (fun _ _ _ => ?_) ?_)

theorem dropLost_kept {z0 : State} (f : FPortNo) (s : State)
    (hK : Kept z0 s) : Kept z0 (dropLost f s) := by
  unfold dropLost
  repeat' (first
    | with_reducible assumption
    | with_reducible apply State.modFp_kept
    | with_reducible apply dropQueued_kept)

theorem portTick_kept {z0 : State} (s : State) (f : FPortNo)
    (hK : Kept z0 s) : Kept z0 (portTick s f) := by
  unfold portTick
  repeat' (first
    | with_reducible assumption
    | with_reducible apply pmu_kept
    | with_reducible apply sendFlit_kept
    | with_reducible apply dropQueued_kept
    | with_reducible apply dropLost_kept
    | with_reducible refine Kept.ite (fun _ => ?_) (fun _ => ?_)
    | fail_if_no_progress ((with_reducible apply Kept.mk1) <;> (first | with_reducible assumption | with_reducible rfl | skip))
    | with_reducible refine Kept.each (fun _ _ _ => ?_) ?_)

theorem switchTick_kept {z0 : State} (s : State)
    (hK : Kept z0 s) : Kept z0 (switchTick s) := by
  unfold switchTick
  repeat' (first
    | with_reducible assumption
    | with_reducible apply injectAll_kept
    | with_reducible apply hostTick_kept
    | with_reducible apply portTick_kept
    | with_reducible refine Kept.ite (fun _ => ?_) (fun _ => ?_)
    | fail_if_no_progress ((with_reducible apply Kept.mk1) <;> (first | with_reducible assumption | with_reducible rfl | skip))
    | with_reducible refine Kept.each (fun _ _ _ => ?_) ?_)

end Sys2Proof.Machine
end

