-- ==== Sys2Proof/Laws/KeptRegs.lean ====
section
/-! SUPPORT. `Kept` of the functions of the registers, the records and the firmware: one lemma per function. -/

set_option linter.unusedVariables false
set_option linter.unusedTactic false
set_option linter.unreachableTactic false

namespace Sys2Proof.Machine

theorem State.setV_kept {z0 : State} (s : State) (r : Reg) (v : VReg)
    (hK : Kept z0 s) : Kept z0 (State.setV s r v) := by
  unfold State.setV
  repeat' (first
    | with_reducible assumption
    | with_reducible apply State.modHp_kept
    | with_reducible apply State.modSl_kept
    | with_reducible apply State.modFp_kept
    | with_reducible apply State.modHome_kept
    | with_reducible apply scrubDdr_kept
    | with_reducible refine Kept.ite (fun _ => ?_) (fun _ => ?_)
    | fail_if_no_progress ((with_reducible apply Kept.mk1) <;> (first | with_reducible assumption | with_reducible rfl | skip))
    | with_reducible refine Kept.each (fun _ _ _ => ?_) ?_
    | with_reducible refine Kept.foldl2 (fun _ _ _ => ?_) ?_
    | with_reducible refine Kept.foldl (fun _ _ _ => ?_) ?_
    | extract_lets
    | with_reducible refine Kept.slGood (z0 := z0) ?_ ?_
    | with_reducible apply Slice.good_slots
    | with_reducible apply Slice.putBlock_good
    | with_reducible apply Slice.putWord_good
    | with_reducible apply Slice.putPlru_good
    | with_reducible apply Slice.touchWay_good
    | with_reducible apply Slice.mendSlot_good
    | with_reducible apply Slice.mendTS_good
    | with_reducible apply Slice.hitWay_good
    | with_reducible apply Slice.dropMove_good
    | with_reducible apply Slice.outcome_good
    | with_reducible apply Slice.hintFill_good
    | with_reducible apply Slice.predFix_good
    | with_reducible apply Slice.hintSeen_good
    | with_reducible apply Slice.predAdd_good
    | with_reducible apply Slice.closeLow_good
    | with_reducible apply Slice.setLock_good
    | with_reducible apply Slice.flushPlru_good
    | with_reducible refine Slice.shAlloc_good ?_ (by with_reducible assumption)
    | with_reducible refine Slice.ensureShadow_good ?_ (by with_reducible assumption)
    | with_reducible refine Slice.demandLook_good ?_ (by with_reducible assumption)
    | fail_if_no_progress ((with_reducible apply Slice.good_mk) <;> (first | with_reducible assumption | with_reducible rfl | skip))
    | split
    | with_reducible refine Kept.of_snd (by with_reducible assumption) ?_
    | dsimp +zetaDelta only
    | intro)

theorem voteRead_kept {z0 : State} (r : Reg) (s : State)
    (hK : Kept z0 s) : Kept z0 (voteRead r s) := by
  unfold voteRead
  repeat' (first
    | with_reducible assumption
    | with_reducible apply State.setV_kept
    | with_reducible refine Kept.ite (fun _ => ?_) (fun _ => ?_)
    | fail_if_no_progress ((with_reducible apply Kept.mk1) <;> (first | with_reducible assumption | with_reducible rfl | skip))
    | with_reducible refine Kept.each (fun _ _ _ => ?_) ?_
    | with_reducible refine Kept.foldl2 (fun _ _ _ => ?_) ?_
    | with_reducible refine Kept.foldl (fun _ _ _ => ?_) ?_
    | extract_lets
    | with_reducible refine Kept.slGood (z0 := z0) ?_ ?_
    | with_reducible apply Slice.good_slots
    | with_reducible apply Slice.putBlock_good
    | with_reducible apply Slice.putWord_good
    | with_reducible apply Slice.putPlru_good
    | with_reducible apply Slice.touchWay_good
    | with_reducible apply Slice.mendSlot_good
    | with_reducible apply Slice.mendTS_good
    | with_reducible apply Slice.hitWay_good
    | with_reducible apply Slice.dropMove_good
    | with_reducible apply Slice.outcome_good
    | with_reducible apply Slice.hintFill_good
    | with_reducible apply Slice.predFix_good
    | with_reducible apply Slice.hintSeen_good
    | with_reducible apply Slice.predAdd_good
    | with_reducible apply Slice.closeLow_good
    | with_reducible apply Slice.setLock_good
    | with_reducible apply Slice.flushPlru_good
    | with_reducible refine Slice.shAlloc_good ?_ (by with_reducible assumption)
    | with_reducible refine Slice.ensureShadow_good ?_ (by with_reducible assumption)
    | with_reducible refine Slice.demandLook_good ?_ (by with_reducible assumption)
    | fail_if_no_progress ((with_reducible apply Slice.good_mk) <;> (first | with_reducible assumption | with_reducible rfl | skip))
    | split)

theorem State.modGen_kept {z0 : State} (s : State) (f : Gen → Gen)
    (hK : Kept z0 s) : Kept z0 (State.modGen s f) := by
  unfold State.modGen
  repeat' (first
    | with_reducible assumption
    | with_reducible refine Kept.ite (fun _ => ?_) (fun _ => ?_)
    | fail_if_no_progress ((with_reducible apply Kept.mk1) <;> (first | with_reducible assumption | with_reducible rfl | skip)))

theorem modInd_kept {z0 : State} (m : Master) (f : Ind → Ind) (s : State)
    (hK : Kept z0 s) : Kept z0 (modInd m f s) := by
  unfold modInd
  repeat' (first
    | with_reducible assumption
    | with_reducible apply State.modGen_kept)

theorem accErr_kept {z0 : State} (m : Master) (off kind : Nat) (s : State)
    (hK : Kept z0 s) : Kept z0 (accErr m off kind s) := by
  unfold accErr
  repeat' (first
    | with_reducible assumption
    | with_reducible apply State.modGen_kept)

theorem setKey_kept {z0 : State} (m : Master) (b : Bool) (s : State)
    (hK : Kept z0 s) : Kept z0 (setKey m b s) := by
  unfold setKey
  repeat' (first
    | with_reducible assumption
    | with_reducible apply State.modGen_kept)

theorem doneWr_kept {z0 : State} (m : Master) (etag : BitVec 12) (ok : Bool) (s : State)
    (hK : Kept z0 s) : Kept z0 (doneWr m etag ok s) := by
  unfold doneWr
  repeat' (first
    | with_reducible assumption
    | with_reducible apply State.emit_kept
    | with_reducible apply toHost_kept
    | with_reducible refine Kept.ite (fun _ => ?_) (fun _ => ?_)
    | fail_if_no_progress ((with_reducible apply Kept.mk1) <;> (first | with_reducible assumption | with_reducible rfl | skip))
    | with_reducible refine Kept.each (fun _ _ _ => ?_) ?_
    | with_reducible refine Kept.foldl2 (fun _ _ _ => ?_) ?_
    | with_reducible refine Kept.foldl (fun _ _ _ => ?_) ?_
    | extract_lets
    | with_reducible refine Kept.slGood (z0 := z0) ?_ ?_
    | with_reducible apply Slice.good_slots
    | with_reducible apply Slice.putBlock_good
    | with_reducible apply Slice.putWord_good
    | with_reducible apply Slice.putPlru_good
    | with_reducible apply Slice.touchWay_good
    | with_reducible apply Slice.mendSlot_good
    | with_reducible apply Slice.mendTS_good
    | with_reducible apply Slice.hitWay_good
    | with_reducible apply Slice.dropMove_good
    | with_reducible apply Slice.outcome_good
    | with_reducible apply Slice.hintFill_good
    | with_reducible apply Slice.predFix_good
    | with_reducible apply Slice.hintSeen_good
    | with_reducible apply Slice.predAdd_good
    | with_reducible apply Slice.closeLow_good
    | with_reducible apply Slice.setLock_good
    | with_reducible apply Slice.flushPlru_good
    | with_reducible refine Slice.shAlloc_good ?_ (by with_reducible assumption)
    | with_reducible refine Slice.ensureShadow_good ?_ (by with_reducible assumption)
    | with_reducible refine Slice.demandLook_good ?_ (by with_reducible assumption)
    | fail_if_no_progress ((with_reducible apply Slice.good_mk) <;> (first | with_reducible assumption | with_reducible rfl | skip))
    | split)

theorem doneRd_kept {z0 : State} (m : Master) (etag : BitVec 12) (ok : Bool) (size : Nat) (v : W64) (s : State)
    (hK : Kept z0 s) : Kept z0 (doneRd m etag ok size v s) := by
  unfold doneRd
  repeat' (first
    | with_reducible assumption
    | with_reducible apply State.emit_kept
    | with_reducible apply toHost_kept
    | with_reducible refine Kept.ite (fun _ => ?_) (fun _ => ?_)
    | fail_if_no_progress ((with_reducible apply Kept.mk1) <;> (first | with_reducible assumption | with_reducible rfl | skip))
    | with_reducible refine Kept.each (fun _ _ _ => ?_) ?_
    | with_reducible refine Kept.foldl2 (fun _ _ _ => ?_) ?_
    | with_reducible refine Kept.foldl (fun _ _ _ => ?_) ?_
    | extract_lets
    | with_reducible refine Kept.slGood (z0 := z0) ?_ ?_
    | with_reducible apply Slice.good_slots
    | with_reducible apply Slice.putBlock_good
    | with_reducible apply Slice.putWord_good
    | with_reducible apply Slice.putPlru_good
    | with_reducible apply Slice.touchWay_good
    | with_reducible apply Slice.mendSlot_good
    | with_reducible apply Slice.mendTS_good
    | with_reducible apply Slice.hitWay_good
    | with_reducible apply Slice.dropMove_good
    | with_reducible apply Slice.outcome_good
    | with_reducible apply Slice.hintFill_good
    | with_reducible apply Slice.predFix_good
    | with_reducible apply Slice.hintSeen_good
    | with_reducible apply Slice.predAdd_good
    | with_reducible apply Slice.closeLow_good
    | with_reducible apply Slice.setLock_good
    | with_reducible apply Slice.flushPlru_good
    | with_reducible refine Slice.shAlloc_good ?_ (by with_reducible assumption)
    | with_reducible refine Slice.ensureShadow_good ?_ (by with_reducible assumption)
    | with_reducible refine Slice.demandLook_good ?_ (by with_reducible assumption)
    | fail_if_no_progress ((with_reducible apply Slice.good_mk) <;> (first | with_reducible assumption | with_reducible rfl | skip))
    | split)

theorem putV_kept {z0 : State} (r : Reg) (k : Nat) (v : W32) (s : State)
    (hK : Kept z0 s) : Kept z0 (putV r k v s) := by
  unfold putV
  repeat' (first
    | with_reducible assumption
    | with_reducible apply State.setV_kept)

theorem drainStart_kept {z0 : State} (i : SliceNo) (s : State)
    (hK : Kept z0 s) : Kept z0 (drainStart i s) := by
  unfold drainStart
  repeat' (first
    | with_reducible assumption
    | with_reducible apply State.modSl_kept
    | with_reducible apply rbFree_kept
    | with_reducible apply issueEvery_kept
    | with_reducible apply closeEntries_kept
    | with_reducible apply startWalk_kept
    | with_reducible refine Kept.ite (fun _ => ?_) (fun _ => ?_)
    | fail_if_no_progress ((with_reducible apply Kept.mk1) <;> (first | with_reducible assumption | with_reducible rfl | skip))
    | with_reducible refine Kept.each (fun _ _ _ => ?_) ?_
    | with_reducible refine Kept.foldl2 (fun _ _ _ => ?_) ?_
    | with_reducible refine Kept.foldl (fun _ _ _ => ?_) ?_
    | extract_lets
    | with_reducible refine Kept.slGood (z0 := z0) ?_ ?_
    | with_reducible apply Slice.good_slots
    | with_reducible apply Slice.putBlock_good
    | with_reducible apply Slice.putWord_good
    | with_reducible apply Slice.putPlru_good
    | with_reducible apply Slice.touchWay_good
    | with_reducible apply Slice.mendSlot_good
    | with_reducible apply Slice.mendTS_good
    | with_reducible apply Slice.hitWay_good
    | with_reducible apply Slice.dropMove_good
    | with_reducible apply Slice.outcome_good
    | with_reducible apply Slice.hintFill_good
    | with_reducible apply Slice.predFix_good
    | with_reducible apply Slice.hintSeen_good
    | with_reducible apply Slice.predAdd_good
    | with_reducible apply Slice.closeLow_good
    | with_reducible apply Slice.setLock_good
    | with_reducible apply Slice.flushPlru_good
    | with_reducible refine Slice.shAlloc_good ?_ (by with_reducible assumption)
    | with_reducible refine Slice.ensureShadow_good ?_ (by with_reducible assumption)
    | with_reducible refine Slice.demandLook_good ?_ (by with_reducible assumption)
    | fail_if_no_progress ((with_reducible apply Slice.good_mk) <;> (first | with_reducible assumption | with_reducible rfl | skip))
    | split
    | with_reducible refine Kept.of_snd (by with_reducible assumption) ?_
    | dsimp +zetaDelta only
    | intro)

theorem writeCacheCtl_kept {z0 : State} (off : Nat) (i : SliceNo) (m : Master) (raw v : W32) (s : State)
    (hK : Kept z0 s) : Kept z0 (writeCacheCtl off i m raw v s) := by
  unfold writeCacheCtl
  repeat' (first
    | with_reducible assumption
    | with_reducible apply State.modSl_kept
    | with_reducible apply evCfgDiscard_kept
    | with_reducible apply endWalk_kept
    | with_reducible apply putV_kept
    | with_reducible apply drainStart_kept
    | with_reducible refine Kept.ite (fun _ => ?_) (fun _ => ?_)
    | fail_if_no_progress ((with_reducible apply Kept.mk1) <;> (first | with_reducible assumption | with_reducible rfl | skip))
    | with_reducible refine Kept.each (fun _ _ _ => ?_) ?_
    | with_reducible refine Kept.foldl2 (fun _ _ _ => ?_) ?_
    | with_reducible refine Kept.foldl (fun _ _ _ => ?_) ?_
    | extract_lets
    | with_reducible refine Kept.slGood (z0 := z0) ?_ ?_
    | with_reducible apply Slice.good_slots
    | with_reducible apply Slice.putBlock_good
    | with_reducible apply Slice.putWord_good
    | with_reducible apply Slice.putPlru_good
    | with_reducible apply Slice.touchWay_good
    | with_reducible apply Slice.mendSlot_good
    | with_reducible apply Slice.mendTS_good
    | with_reducible apply Slice.hitWay_good
    | with_reducible apply Slice.dropMove_good
    | with_reducible apply Slice.outcome_good
    | with_reducible apply Slice.hintFill_good
    | with_reducible apply Slice.predFix_good
    | with_reducible apply Slice.hintSeen_good
    | with_reducible apply Slice.predAdd_good
    | with_reducible apply Slice.closeLow_good
    | with_reducible apply Slice.setLock_good
    | with_reducible apply Slice.flushPlru_good
    | with_reducible refine Slice.shAlloc_good ?_ (by with_reducible assumption)
    | with_reducible refine Slice.ensureShadow_good ?_ (by with_reducible assumption)
    | with_reducible refine Slice.demandLook_good ?_ (by with_reducible assumption)
    | fail_if_no_progress ((with_reducible apply Slice.good_mk) <;> (first | with_reducible assumption | with_reducible rfl | skip))
    | split
    | with_reducible refine Kept.of_snd (by with_reducible assumption) ?_
    | dsimp +zetaDelta only
    | intro)

theorem writeLookupCtl_kept {z0 : State} (i : SliceNo) (v : W32) (s : State)
    (hK : Kept z0 s) : Kept z0 (writeLookupCtl i v s) := by
  unfold writeLookupCtl
  repeat' (first
    | with_reducible assumption
    | with_reducible apply State.modSl_kept
    | with_reducible apply bufCorrected_kept
    | with_reducible refine Kept.ite (fun _ => ?_) (fun _ => ?_)
    | fail_if_no_progress ((with_reducible apply Kept.mk1) <;> (first | with_reducible assumption | with_reducible rfl | skip))
    | with_reducible refine Kept.each (fun _ _ _ => ?_) ?_
    | with_reducible refine Kept.foldl2 (fun _ _ _ => ?_) ?_
    | with_reducible refine Kept.foldl (fun _ _ _ => ?_) ?_
    | extract_lets
    | with_reducible refine Kept.slGood (z0 := z0) ?_ ?_
    | with_reducible apply Slice.good_slots
    | with_reducible apply Slice.putBlock_good
    | with_reducible apply Slice.putWord_good
    | with_reducible apply Slice.putPlru_good
    | with_reducible apply Slice.touchWay_good
    | with_reducible apply Slice.mendSlot_good
    | with_reducible apply Slice.mendTS_good
    | with_reducible apply Slice.hitWay_good
    | with_reducible apply Slice.dropMove_good
    | with_reducible apply Slice.outcome_good
    | with_reducible apply Slice.hintFill_good
    | with_reducible apply Slice.predFix_good
    | with_reducible apply Slice.hintSeen_good
    | with_reducible apply Slice.predAdd_good
    | with_reducible apply Slice.closeLow_good
    | with_reducible apply Slice.setLock_good
    | with_reducible apply Slice.flushPlru_good
    | with_reducible refine Slice.shAlloc_good ?_ (by with_reducible assumption)
    | with_reducible refine Slice.ensureShadow_good ?_ (by with_reducible assumption)
    | with_reducible refine Slice.demandLook_good ?_ (by with_reducible assumption)
    | fail_if_no_progress ((with_reducible apply Slice.good_mk) <;> (first | with_reducible assumption | with_reducible rfl | skip))
    | split
    | with_reducible refine Kept.of_snd (by with_reducible assumption) ?_
    | dsimp +zetaDelta only
    | intro)

theorem writeLaneCtl_kept {z0 : State} (off : Nat) (m : Master) (raw v : W32) (s : State)
    (hK : Kept z0 s) : Kept z0 (writeLaneCtl off m raw v s) := by
  unfold writeLaneCtl
  repeat' (first
    | with_reducible assumption
    | with_reducible apply evCfgDiscard_kept
    | with_reducible apply putV_kept
    | with_reducible refine Kept.ite (fun _ => ?_) (fun _ => ?_))

theorem writeRetryCtl_kept {z0 : State} (off : Nat) (i : SliceNo) (m : Master) (raw v : W32) (s : State)
    (hK : Kept z0 s) : Kept z0 (writeRetryCtl off i m raw v s) := by
  unfold writeRetryCtl
  repeat' (first
    | with_reducible assumption
    | with_reducible apply State.modSl_kept
    | with_reducible apply evCfgDiscard_kept
    | with_reducible refine Kept.ite (fun _ => ?_) (fun _ => ?_)
    | fail_if_no_progress ((with_reducible apply Kept.mk1) <;> (first | with_reducible assumption | with_reducible rfl | skip))
    | with_reducible refine Kept.each (fun _ _ _ => ?_) ?_
    | with_reducible refine Kept.foldl2 (fun _ _ _ => ?_) ?_
    | with_reducible refine Kept.foldl (fun _ _ _ => ?_) ?_
    | extract_lets
    | with_reducible refine Kept.slGood (z0 := z0) ?_ ?_
    | with_reducible apply Slice.good_slots
    | with_reducible apply Slice.putBlock_good
    | with_reducible apply Slice.putWord_good
    | with_reducible apply Slice.putPlru_good
    | with_reducible apply Slice.touchWay_good
    | with_reducible apply Slice.mendSlot_good
    | with_reducible apply Slice.mendTS_good
    | with_reducible apply Slice.hitWay_good
    | with_reducible apply Slice.dropMove_good
    | with_reducible apply Slice.outcome_good
    | with_reducible apply Slice.hintFill_good
    | with_reducible apply Slice.predFix_good
    | with_reducible apply Slice.hintSeen_good
    | with_reducible apply Slice.predAdd_good
    | with_reducible apply Slice.closeLow_good
    | with_reducible apply Slice.setLock_good
    | with_reducible apply Slice.flushPlru_good
    | with_reducible refine Slice.shAlloc_good ?_ (by with_reducible assumption)
    | with_reducible refine Slice.ensureShadow_good ?_ (by with_reducible assumption)
    | with_reducible refine Slice.demandLook_good ?_ (by with_reducible assumption)
    | fail_if_no_progress ((with_reducible apply Slice.good_mk) <;> (first | with_reducible assumption | with_reducible rfl | skip))
    | split
    | with_reducible refine Kept.of_snd (by with_reducible assumption) ?_
    | dsimp +zetaDelta only
    | intro)

theorem writeSnpCtl_kept {z0 : State} (off : Nat) (p : Port) (m : Master) (raw v : W32) (s : State)
    (hK : Kept z0 s) : Kept z0 (writeSnpCtl off p m raw v s) := by
  unfold writeSnpCtl
  repeat' (first
    | with_reducible assumption
    | with_reducible apply evCfgDiscard_kept
    | with_reducible apply putV_kept
    | with_reducible refine Kept.ite (fun _ => ?_) (fun _ => ?_))

theorem writeLinkCtl_kept {z0 : State} (p : Port) (act v : W32) (s : State)
    (hK : Kept z0 s) : Kept z0 (writeLinkCtl p act v s) := by
  unfold writeLinkCtl
  repeat' (first
    | with_reducible assumption
    | with_reducible apply State.modHp_kept
    | with_reducible apply portDown_kept
    | with_reducible apply enterRecovery_kept
    | with_reducible apply linkKept_kept
    | with_reducible apply putV_kept
    | with_reducible refine Kept.ite (fun _ => ?_) (fun _ => ?_))

theorem writeSluice_kept {z0 : State} (v : W32) (s : State)
    (hK : Kept z0 s) : Kept z0 (writeSluice v s) := by
  unfold writeSluice
  repeat' (first
    | with_reducible assumption
    | with_reducible apply issueEvery_kept
    | with_reducible apply closeEntries_kept
    | with_reducible refine Kept.ite (fun _ => ?_) (fun _ => ?_)
    | fail_if_no_progress ((with_reducible apply Kept.mk1) <;> (first | with_reducible assumption | with_reducible rfl | skip)))

theorem writeFrzCtl_kept {z0 : State} (act v : W32) (s : State)
    (hK : Kept z0 s) : Kept z0 (writeFrzCtl act v s) := by
  unfold writeFrzCtl
  repeat' (first
    | with_reducible assumption
    | with_reducible apply freezeDie_kept
    | with_reducible apply putV_kept
    | with_reducible refine Kept.ite (fun _ => ?_) (fun _ => ?_))

theorem writePmuCtl_kept {z0 : State} (act v : W32) (s : State)
    (hK : Kept z0 s) : Kept z0 (writePmuCtl act v s) := by
  unfold writePmuCtl
  repeat' (first
    | with_reducible assumption
    | with_reducible refine Kept.ite (fun _ => ?_) (fun _ => ?_)
    | fail_if_no_progress ((with_reducible apply Kept.mk1) <;> (first | with_reducible assumption | with_reducible rfl | skip)))

theorem writeEvqCtl_kept {z0 : State} (p : Port) (act v : W32) (s : State)
    (hK : Kept z0 s) : Kept z0 (writeEvqCtl p act v s) := by
  unfold writeEvqCtl
  repeat' (first
    | with_reducible assumption
    | with_reducible apply State.setEq_kept
    | with_reducible apply msixCheck_kept)

theorem writeEvqRd_kept {z0 : State} (p : Port) (v : W32) (s : State)
    (hK : Kept z0 s) : Kept z0 (writeEvqRd p v s) := by
  unfold writeEvqRd
  repeat' (first
    | with_reducible assumption
    | with_reducible apply State.setEq_kept
    | with_reducible apply msixCheck_kept
    | with_reducible refine Kept.ite (fun _ => ?_) (fun _ => ?_))

theorem writeEvqMark_kept {z0 : State} (p : Port) (v : W32) (s : State)
    (hK : Kept z0 s) : Kept z0 (writeEvqMark p v s) := by
  unfold writeEvqMark
  repeat' (first
    | with_reducible assumption
    | with_reducible apply State.setEq_kept
    | with_reducible refine Kept.ite (fun _ => ?_) (fun _ => ?_))

theorem writeMbxIn_kept {z0 : State} (p k : Port) (be : BitVec 4) (v : W32) (s : State)
    (hK : Kept z0 s) : Kept z0 (writeMbxIn p k be v s) := by
  unfold writeMbxIn
  repeat' (first
    | with_reducible assumption
    | (simp only [id_eq]; with_reducible assumption)
    | with_reducible apply State.modMb_kept
    | with_reducible apply postCmd_kept
    | with_reducible apply fwDo_kept
    | with_reducible refine Kept.ite (fun _ => ?_) (fun _ => ?_)
    | fail_if_no_progress ((with_reducible apply Kept.mk1) <;> (first | with_reducible assumption | with_reducible rfl | skip))
    | with_reducible refine Kept.each (fun _ _ _ => ?_) ?_
    | with_reducible refine Kept.foldl2 (fun _ _ _ => ?_) ?_
    | with_reducible refine Kept.foldl (fun _ _ _ => ?_) ?_
    | extract_lets
    | with_reducible refine Kept.slGood (z0 := z0) ?_ ?_
    | with_reducible apply Slice.good_slots
    | with_reducible apply Slice.putBlock_good
    | with_reducible apply Slice.putWord_good
    | with_reducible apply Slice.putPlru_good
    | with_reducible apply Slice.touchWay_good
    | with_reducible apply Slice.mendSlot_good
    | with_reducible apply Slice.mendTS_good
    | with_reducible apply Slice.hitWay_good
    | with_reducible apply Slice.dropMove_good
    | with_reducible apply Slice.outcome_good
    | with_reducible apply Slice.hintFill_good
    | with_reducible apply Slice.predFix_good
    | with_reducible apply Slice.hintSeen_good
    | with_reducible apply Slice.predAdd_good
    | with_reducible apply Slice.closeLow_good
    | with_reducible apply Slice.setLock_good
    | with_reducible apply Slice.flushPlru_good
    | with_reducible refine Slice.shAlloc_good ?_ (by with_reducible assumption)
    | with_reducible refine Slice.ensureShadow_good ?_ (by with_reducible assumption)
    | with_reducible refine Slice.demandLook_good ?_ (by with_reducible assumption)
    | fail_if_no_progress ((with_reducible apply Slice.good_mk) <;> (first | with_reducible assumption | with_reducible rfl | skip))
    | split
    | with_reducible refine Kept.of_snd (by with_reducible assumption) ?_
    | dsimp +zetaDelta only
    | intro)

theorem writeParam_kept {z0 : State} (p : Port) (n : Nat) (m : Master) (be : BitVec 4) (v : W32) (s : State)
    (hK : Kept z0 s) : Kept z0 (writeParam p n m be v s) := by
  unfold writeParam
  repeat' (first
    | with_reducible assumption
    | with_reducible apply State.modMb_kept
    | with_reducible refine Kept.ite (fun _ => ?_) (fun _ => ?_))

theorem slowWrite_kept {z0 : State} (m : Master) (s : State)
    (hK : Kept z0 s) : Kept z0 (slowWrite m s) := by
  unfold slowWrite
  repeat' (first
    | with_reducible assumption
    | with_reducible apply modInd_kept
    | with_reducible refine Kept.ite (fun _ => ?_) (fun _ => ?_)
    | fail_if_no_progress ((with_reducible apply Kept.mk1) <;> (first | with_reducible assumption | with_reducible rfl | skip))
    | with_reducible refine Kept.each (fun _ _ _ => ?_) ?_
    | with_reducible refine Kept.foldl2 (fun _ _ _ => ?_) ?_
    | with_reducible refine Kept.foldl (fun _ _ _ => ?_) ?_
    | extract_lets
    | with_reducible refine Kept.slGood (z0 := z0) ?_ ?_
    | with_reducible apply Slice.good_slots
    | with_reducible apply Slice.putBlock_good
    | with_reducible apply Slice.putWord_good
    | with_reducible apply Slice.putPlru_good
    | with_reducible apply Slice.touchWay_good
    | with_reducible apply Slice.mendSlot_good
    | with_reducible apply Slice.mendTS_good
    | with_reducible apply Slice.hitWay_good
    | with_reducible apply Slice.dropMove_good
    | with_reducible apply Slice.outcome_good
    | with_reducible apply Slice.hintFill_good
    | with_reducible apply Slice.predFix_good
    | with_reducible apply Slice.hintSeen_good
    | with_reducible apply Slice.predAdd_good
    | with_reducible apply Slice.closeLow_good
    | with_reducible apply Slice.setLock_good
    | with_reducible apply Slice.flushPlru_good
    | with_reducible refine Slice.shAlloc_good ?_ (by with_reducible assumption)
    | with_reducible refine Slice.ensureShadow_good ?_ (by with_reducible assumption)
    | with_reducible refine Slice.demandLook_good ?_ (by with_reducible assumption)
    | fail_if_no_progress ((with_reducible apply Slice.good_mk) <;> (first | with_reducible assumption | with_reducible rfl | skip))
    | split)

theorem indRead_kept {z0 : State} (m : Master) (s : State)
    (hK : Kept z0 s) : Kept z0 (indRead m s).2 := by
  unfold indRead
  repeat' (first
    | with_reducible assumption
    | with_reducible apply State.tick1_kept
    | with_reducible apply advance_kept
    | with_reducible apply modInd_kept
    | with_reducible apply slowWrite_kept)

theorem indWrite_kept {z0 : State} (m : Master) (v : W32) (s : State)
    (hK : Kept z0 s) : Kept z0 (indWrite m v s) := by
  unfold indWrite
  repeat' (first
    | with_reducible assumption
    | with_reducible apply advance_kept
    | with_reducible apply modInd_kept
    | with_reducible apply slowWrite_kept)

theorem writeSem_kept {z0 : State} (n : Fin 8) (m : Master) (v : W32) (s : State)
    (hK : Kept z0 s) : Kept z0 (writeSem n m v s) := by
  unfold writeSem
  repeat' (first
    | with_reducible assumption
    | with_reducible apply State.modGen_kept
    | with_reducible refine Kept.ite (fun _ => ?_) (fun _ => ?_))

theorem genWrite_kept {z0 : State} (r : Reg) (m : Master) (be : BitVec 4) (late : Bool) (act v : W32) (s : State)
    (hK : Kept z0 s) : Kept z0 (genWrite r m be late act v s) := by
  unfold genWrite
  repeat' (first
    | with_reducible assumption
    | with_reducible apply State.modMb_kept
    | with_reducible apply State.setEq_kept
    | with_reducible apply msixCheck_kept
    | with_reducible apply outAck_kept
    | with_reducible apply State.modGen_kept
    | with_reducible apply modInd_kept
    | with_reducible apply writeEvqCtl_kept
    | with_reducible apply writeEvqRd_kept
    | with_reducible apply writeEvqMark_kept
    | with_reducible apply writeMbxIn_kept
    | with_reducible apply writeParam_kept
    | with_reducible apply indWrite_kept
    | with_reducible apply writeSem_kept
    | with_reducible refine Kept.ite (fun _ => ?_) (fun _ => ?_)
    | fail_if_no_progress ((with_reducible apply Kept.mk1) <;> (first | with_reducible assumption | with_reducible rfl | skip))
    | with_reducible refine Kept.each (fun _ _ _ => ?_) ?_
    | with_reducible refine Kept.foldl2 (fun _ _ _ => ?_) ?_
    | with_reducible refine Kept.foldl (fun _ _ _ => ?_) ?_
    | extract_lets
    | with_reducible refine Kept.slGood (z0 := z0) ?_ ?_
    | with_reducible apply Slice.good_slots
    | with_reducible apply Slice.putBlock_good
    | with_reducible apply Slice.putWord_good
    | with_reducible apply Slice.putPlru_good
    | with_reducible apply Slice.touchWay_good
    | with_reducible apply Slice.mendSlot_good
    | with_reducible apply Slice.mendTS_good
    | with_reducible apply Slice.hitWay_good
    | with_reducible apply Slice.dropMove_good
    | with_reducible apply Slice.outcome_good
    | with_reducible apply Slice.hintFill_good
    | with_reducible apply Slice.predFix_good
    | with_reducible apply Slice.hintSeen_good
    | with_reducible apply Slice.predAdd_good
    | with_reducible apply Slice.closeLow_good
    | with_reducible apply Slice.setLock_good
    | with_reducible apply Slice.flushPlru_good
    | with_reducible refine Slice.shAlloc_good ?_ (by with_reducible assumption)
    | with_reducible refine Slice.ensureShadow_good ?_ (by with_reducible assumption)
    | with_reducible refine Slice.demandLook_good ?_ (by with_reducible assumption)
    | fail_if_no_progress ((with_reducible apply Slice.good_mk) <;> (first | with_reducible assumption | with_reducible rfl | skip))
    | split)

theorem slcWrite_kept {z0 : State} (off : Nat) (r : Reg) (m : Master) (raw v : W32) (s : State)
    (hK : Kept z0 s) : Kept z0 (slcWrite off r m raw v s) := by
  unfold slcWrite
  repeat' (first
    | with_reducible assumption
    | with_reducible apply State.modSl_kept
    | with_reducible apply evCfgDiscard_kept
    | with_reducible apply issueAll_kept
    | with_reducible apply putV_kept
    | with_reducible apply writeCacheCtl_kept
    | with_reducible apply writeLookupCtl_kept
    | with_reducible apply writeRetryCtl_kept
    | with_reducible refine Kept.ite (fun _ => ?_) (fun _ => ?_)
    | fail_if_no_progress ((with_reducible apply Kept.mk1) <;> (first | with_reducible assumption | with_reducible rfl | skip))
    | with_reducible refine Kept.each (fun _ _ _ => ?_) ?_
    | with_reducible refine Kept.foldl2 (fun _ _ _ => ?_) ?_
    | with_reducible refine Kept.foldl (fun _ _ _ => ?_) ?_
    | extract_lets
    | with_reducible refine Kept.slGood (z0 := z0) ?_ ?_
    | with_reducible apply Slice.good_slots
    | with_reducible apply Slice.putBlock_good
    | with_reducible apply Slice.putWord_good
    | with_reducible apply Slice.putPlru_good
    | with_reducible apply Slice.touchWay_good
    | with_reducible apply Slice.mendSlot_good
    | with_reducible apply Slice.mendTS_good
    | with_reducible apply Slice.hitWay_good
    | with_reducible apply Slice.dropMove_good
    | with_reducible apply Slice.outcome_good
    | with_reducible apply Slice.hintFill_good
    | with_reducible apply Slice.predFix_good
    | with_reducible apply Slice.hintSeen_good
    | with_reducible apply Slice.predAdd_good
    | with_reducible apply Slice.closeLow_good
    | with_reducible apply Slice.setLock_good
    | with_reducible apply Slice.flushPlru_good
    | with_reducible refine Slice.shAlloc_good ?_ (by with_reducible assumption)
    | with_reducible refine Slice.ensureShadow_good ?_ (by with_reducible assumption)
    | with_reducible refine Slice.demandLook_good ?_ (by with_reducible assumption)
    | fail_if_no_progress ((with_reducible apply Slice.good_mk) <;> (first | with_reducible assumption | with_reducible rfl | skip))
    | split
    | with_reducible refine Kept.of_snd (by with_reducible assumption) ?_
    | dsimp +zetaDelta only
    | intro)

theorem partWrite_kept {z0 : State} (off : Nat) (r : Reg) (m : Master) (raw act v : W32) (s : State)
    (hK : Kept z0 s) : Kept z0 (partWrite off r m raw act v s) := by
  unfold partWrite
  repeat' (first
    | with_reducible assumption
    | with_reducible apply State.modHp_kept
    | with_reducible apply evCfgDiscard_kept
    | with_reducible apply putV_kept
    | with_reducible apply writeLaneCtl_kept
    | with_reducible apply writeSnpCtl_kept
    | with_reducible apply writeLinkCtl_kept
    | with_reducible apply writeSluice_kept
    | with_reducible apply writeFrzCtl_kept
    | with_reducible apply writePmuCtl_kept
    | with_reducible refine Kept.ite (fun _ => ?_) (fun _ => ?_)
    | fail_if_no_progress ((with_reducible apply Kept.mk1) <;> (first | with_reducible assumption | with_reducible rfl | skip))
    | with_reducible refine Kept.each (fun _ _ _ => ?_) ?_
    | with_reducible refine Kept.foldl2 (fun _ _ _ => ?_) ?_
    | with_reducible refine Kept.foldl (fun _ _ _ => ?_) ?_
    | extract_lets
    | with_reducible refine Kept.slGood (z0 := z0) ?_ ?_
    | with_reducible apply Slice.good_slots
    | with_reducible apply Slice.putBlock_good
    | with_reducible apply Slice.putWord_good
    | with_reducible apply Slice.putPlru_good
    | with_reducible apply Slice.touchWay_good
    | with_reducible apply Slice.mendSlot_good
    | with_reducible apply Slice.mendTS_good
    | with_reducible apply Slice.hitWay_good
    | with_reducible apply Slice.dropMove_good
    | with_reducible apply Slice.outcome_good
    | with_reducible apply Slice.hintFill_good
    | with_reducible apply Slice.predFix_good
    | with_reducible apply Slice.hintSeen_good
    | with_reducible apply Slice.predAdd_good
    | with_reducible apply Slice.closeLow_good
    | with_reducible apply Slice.setLock_good
    | with_reducible apply Slice.flushPlru_good
    | with_reducible refine Slice.shAlloc_good ?_ (by with_reducible assumption)
    | with_reducible refine Slice.ensureShadow_good ?_ (by with_reducible assumption)
    | with_reducible refine Slice.demandLook_good ?_ (by with_reducible assumption)
    | fail_if_no_progress ((with_reducible apply Slice.good_mk) <;> (first | with_reducible assumption | with_reducible rfl | skip))
    | split)

theorem write32_kept {z0 : State} (off : Nat) (m : Master) (be : BitVec 4) (late : Bool) (raw : W32) (s : State)
    (hK : Kept z0 s) : Kept z0 (write32 off m be late raw s) := by
  unfold write32
  repeat' (first
    | with_reducible assumption
    | with_reducible apply evCfgDiscard_kept
    | with_reducible apply State.modGen_kept
    | with_reducible apply accErr_kept
    | with_reducible apply setKey_kept
    | with_reducible apply genWrite_kept
    | with_reducible apply slcWrite_kept
    | with_reducible apply partWrite_kept
    | with_reducible refine Kept.ite (fun _ => ?_) (fun _ => ?_))

theorem readReg_kept {z0 : State} (off : Nat) (m : Master) (s : State)
    (hK : Kept z0 s) : Kept z0 (readReg off m s).2 := by
  unfold readReg
  repeat' (first
    | with_reducible assumption
    | with_reducible apply voteRead_kept
    | with_reducible apply State.modGen_kept
    | with_reducible apply indRead_kept
    | with_reducible refine Kept.ite (fun _ => ?_) (fun _ => ?_)
    | fail_if_no_progress ((with_reducible apply Kept.mk1) <;> (first | with_reducible assumption | with_reducible rfl | skip))
    | with_reducible refine Kept.each (fun _ _ _ => ?_) ?_
    | with_reducible refine Kept.foldl2 (fun _ _ _ => ?_) ?_
    | with_reducible refine Kept.foldl (fun _ _ _ => ?_) ?_
    | extract_lets
    | with_reducible refine Kept.slGood (z0 := z0) ?_ ?_
    | with_reducible apply Slice.good_slots
    | with_reducible apply Slice.putBlock_good
    | with_reducible apply Slice.putWord_good
    | with_reducible apply Slice.putPlru_good
    | with_reducible apply Slice.touchWay_good
    | with_reducible apply Slice.mendSlot_good
    | with_reducible apply Slice.mendTS_good
    | with_reducible apply Slice.hitWay_good
    | with_reducible apply Slice.dropMove_good
    | with_reducible apply Slice.outcome_good
    | with_reducible apply Slice.hintFill_good
    | with_reducible apply Slice.predFix_good
    | with_reducible apply Slice.hintSeen_good
    | with_reducible apply Slice.predAdd_good
    | with_reducible apply Slice.closeLow_good
    | with_reducible apply Slice.setLock_good
    | with_reducible apply Slice.flushPlru_good
    | with_reducible refine Slice.shAlloc_good ?_ (by with_reducible assumption)
    | with_reducible refine Slice.ensureShadow_good ?_ (by with_reducible assumption)
    | with_reducible refine Slice.demandLook_good ?_ (by with_reducible assumption)
    | fail_if_no_progress ((with_reducible apply Slice.good_mk) <;> (first | with_reducible assumption | with_reducible rfl | skip))
    | split)

theorem setShadow_kept {z0 : State} (m : Master) (x : Option (Nat × W32)) (s : State)
    (hK : Kept z0 s) : Kept z0 (setShadow m x s) := by
  unfold setShadow
  repeat' (first
    | with_reducible assumption
    | with_reducible apply State.modGen_kept)

theorem read32_kept {z0 : State} (off : Nat) (m : Master) (s : State)
    (hK : Kept z0 s) : Kept z0 (read32 off m s).2 := by
  unfold read32
  repeat' (first
    | with_reducible assumption
    | with_reducible apply readReg_kept
    | with_reducible apply setShadow_kept
    | with_reducible refine Kept.ite (fun _ => ?_) (fun _ => ?_)
    | fail_if_no_progress ((with_reducible apply Kept.mk1) <;> (first | with_reducible assumption | with_reducible rfl | skip))
    | with_reducible refine Kept.each (fun _ _ _ => ?_) ?_
    | with_reducible refine Kept.foldl2 (fun _ _ _ => ?_) ?_
    | with_reducible refine Kept.foldl (fun _ _ _ => ?_) ?_
    | extract_lets
    | with_reducible refine Kept.slGood (z0 := z0) ?_ ?_
    | with_reducible apply Slice.good_slots
    | with_reducible apply Slice.putBlock_good
    | with_reducible apply Slice.putWord_good
    | with_reducible apply Slice.putPlru_good
    | with_reducible apply Slice.touchWay_good
    | with_reducible apply Slice.mendSlot_good
    | with_reducible apply Slice.mendTS_good
    | with_reducible apply Slice.hitWay_good
    | with_reducible apply Slice.dropMove_good
    | with_reducible apply Slice.outcome_good
    | with_reducible apply Slice.hintFill_good
    | with_reducible apply Slice.predFix_good
    | with_reducible apply Slice.hintSeen_good
    | with_reducible apply Slice.predAdd_good
    | with_reducible apply Slice.closeLow_good
    | with_reducible apply Slice.setLock_good
    | with_reducible apply Slice.flushPlru_good
    | with_reducible refine Slice.shAlloc_good ?_ (by with_reducible assumption)
    | with_reducible refine Slice.ensureShadow_good ?_ (by with_reducible assumption)
    | with_reducible refine Slice.demandLook_good ?_ (by with_reducible assumption)
    | fail_if_no_progress ((with_reducible apply Slice.good_mk) <;> (first | with_reducible assumption | with_reducible rfl | skip))
    | split)

theorem read64_kept {z0 : State} (off : Nat) (m : Master) (s : State)
    (hK : Kept z0 s) : Kept z0 (read64 off m s).2 := by
  unfold read64
  repeat' (first
    | with_reducible assumption
    | with_reducible apply read32_kept
    | with_reducible refine Kept.ite (fun _ => ?_) (fun _ => ?_)
    | fail_if_no_progress ((with_reducible apply Kept.mk1) <;> (first | with_reducible assumption | with_reducible rfl | skip))
    | with_reducible refine Kept.each (fun _ _ _ => ?_) ?_
    | with_reducible refine Kept.foldl2 (fun _ _ _ => ?_) ?_
    | with_reducible refine Kept.foldl (fun _ _ _ => ?_) ?_
    | extract_lets
    | with_reducible refine Kept.slGood (z0 := z0) ?_ ?_
    | with_reducible apply Slice.good_slots
    | with_reducible apply Slice.putBlock_good
    | with_reducible apply Slice.putWord_good
    | with_reducible apply Slice.putPlru_good
    | with_reducible apply Slice.touchWay_good
    | with_reducible apply Slice.mendSlot_good
    | with_reducible apply Slice.mendTS_good
    | with_reducible apply Slice.hitWay_good
    | with_reducible apply Slice.dropMove_good
    | with_reducible apply Slice.outcome_good
    | with_reducible apply Slice.hintFill_good
    | with_reducible apply Slice.predFix_good
    | with_reducible apply Slice.hintSeen_good
    | with_reducible apply Slice.predAdd_good
    | with_reducible apply Slice.closeLow_good
    | with_reducible apply Slice.setLock_good
    | with_reducible apply Slice.flushPlru_good
    | with_reducible refine Slice.shAlloc_good ?_ (by with_reducible assumption)
    | with_reducible refine Slice.ensureShadow_good ?_ (by with_reducible assumption)
    | with_reducible refine Slice.demandLook_good ?_ (by with_reducible assumption)
    | fail_if_no_progress ((with_reducible apply Slice.good_mk) <;> (first | with_reducible assumption | with_reducible rfl | skip))
    | split)

theorem regWriteNow_kept {z0 : State} (a : RAcc) (late : Bool) (s : State)
    (hK : Kept z0 s) : Kept z0 (regWriteNow a late s) := by
  unfold regWriteNow
  repeat' (first
    | with_reducible assumption
    | with_reducible apply accErr_kept
    | with_reducible apply setKey_kept
    | with_reducible apply doneWr_kept
    | with_reducible apply write32_kept
    | with_reducible refine Kept.ite (fun _ => ?_) (fun _ => ?_))

theorem regReadNow_kept {z0 : State} (a : RAcc) (s : State)
    (hK : Kept z0 s) : Kept z0 (regReadNow a s) := by
  unfold regReadNow
  repeat' (first
    | with_reducible assumption
    | with_reducible apply accErr_kept
    | with_reducible apply doneRd_kept
    | with_reducible apply read32_kept
    | with_reducible apply read64_kept
    | with_reducible refine Kept.ite (fun _ => ?_) (fun _ => ?_))

theorem RegOp.run_kept {z0 : State} (q : RegOp) (s : State)
    (hK : Kept z0 s) : Kept z0 (RegOp.run q s) := by
  unfold RegOp.run
  repeat' (first
    | with_reducible assumption
    | with_reducible apply regWriteNow_kept
    | with_reducible apply regReadNow_kept
    | with_reducible refine Kept.ite (fun _ => ?_) (fun _ => ?_))

theorem runRegs_kept {z0 : State} (p : Port) (n : Nat) (s : State) (hK : Kept z0 s) : Kept z0 (runRegs p n s) := by
  induction n generalizing s with
  | zero => exact hK
  | succ n ih =>
    unfold runRegs
    repeat' (first
    | with_reducible assumption
    | with_reducible apply ih
    | with_reducible apply RegOp.run_kept
    | with_reducible apply State.modHp_kept
    | with_reducible refine Kept.ite (fun _ => ?_) (fun _ => ?_)
    | fail_if_no_progress ((with_reducible apply Kept.mk1) <;> (first | with_reducible assumption | with_reducible rfl | skip))
    | with_reducible refine Kept.each (fun _ _ _ => ?_) ?_
    | with_reducible refine Kept.foldl2 (fun _ _ _ => ?_) ?_
    | with_reducible refine Kept.foldl (fun _ _ _ => ?_) ?_
    | extract_lets
    | with_reducible refine Kept.slGood (z0 := z0) ?_ ?_
    | with_reducible apply Slice.good_slots
    | with_reducible apply Slice.putBlock_good
    | with_reducible apply Slice.putWord_good
    | with_reducible apply Slice.putPlru_good
    | with_reducible apply Slice.touchWay_good
    | with_reducible apply Slice.mendSlot_good
    | with_reducible apply Slice.mendTS_good
    | with_reducible apply Slice.hitWay_good
    | with_reducible apply Slice.dropMove_good
    | with_reducible apply Slice.outcome_good
    | with_reducible apply Slice.hintFill_good
    | with_reducible apply Slice.predFix_good
    | with_reducible apply Slice.hintSeen_good
    | with_reducible apply Slice.predAdd_good
    | with_reducible apply Slice.closeLow_good
    | with_reducible apply Slice.setLock_good
    | with_reducible apply Slice.flushPlru_good
    | with_reducible refine Slice.shAlloc_good ?_ (by with_reducible assumption)
    | with_reducible refine Slice.ensureShadow_good ?_ (by with_reducible assumption)
    | with_reducible refine Slice.demandLook_good ?_ (by with_reducible assumption)
    | fail_if_no_progress ((with_reducible apply Slice.good_mk) <;> (first | with_reducible assumption | with_reducible rfl | skip))
    | split)

theorem regAccess_kept {z0 : State} (a : RAcc) (read late : Bool) (s : State)
    (hK : Kept z0 s) : Kept z0 (regAccess a read late s) := by
  unfold regAccess
  repeat' (first
    | with_reducible assumption
    | with_reducible apply State.setHp_kept
    | with_reducible apply RegOp.run_kept
    | with_reducible apply runRegs_kept
    | with_reducible refine Kept.ite (fun _ => ?_) (fun _ => ?_)
    | fail_if_no_progress ((with_reducible apply Kept.mk1) <;> (first | with_reducible assumption | with_reducible rfl | skip))
    | with_reducible refine Kept.each (fun _ _ _ => ?_) ?_
    | with_reducible refine Kept.foldl2 (fun _ _ _ => ?_) ?_
    | with_reducible refine Kept.foldl (fun _ _ _ => ?_) ?_
    | extract_lets
    | with_reducible refine Kept.slGood (z0 := z0) ?_ ?_
    | with_reducible apply Slice.good_slots
    | with_reducible apply Slice.putBlock_good
    | with_reducible apply Slice.putWord_good
    | with_reducible apply Slice.putPlru_good
    | with_reducible apply Slice.touchWay_good
    | with_reducible apply Slice.mendSlot_good
    | with_reducible apply Slice.mendTS_good
    | with_reducible apply Slice.hitWay_good
    | with_reducible apply Slice.dropMove_good
    | with_reducible apply Slice.outcome_good
    | with_reducible apply Slice.hintFill_good
    | with_reducible apply Slice.predFix_good
    | with_reducible apply Slice.hintSeen_good
    | with_reducible apply Slice.predAdd_good
    | with_reducible apply Slice.closeLow_good
    | with_reducible apply Slice.setLock_good
    | with_reducible apply Slice.flushPlru_good
    | with_reducible refine Slice.shAlloc_good ?_ (by with_reducible assumption)
    | with_reducible refine Slice.ensureShadow_good ?_ (by with_reducible assumption)
    | with_reducible refine Slice.demandLook_good ?_ (by with_reducible assumption)
    | fail_if_no_progress ((with_reducible apply Slice.good_mk) <;> (first | with_reducible assumption | with_reducible rfl | skip))
    | split)

theorem regWrite_kept {z0 : State} (a : RAcc) (late : Bool) (s : State)
    (hK : Kept z0 s) : Kept z0 (regWrite a late s) := by
  unfold regWrite
  repeat' (first
    | with_reducible assumption
    | with_reducible apply regAccess_kept)

theorem regRead_kept {z0 : State} (a : RAcc) (s : State)
    (hK : Kept z0 s) : Kept z0 (regRead a s) := by
  unfold regRead
  repeat' (first
    | with_reducible assumption
    | with_reducible apply regAccess_kept)

theorem barDoneRun_kept {z0 : State} (p : Port) (etag : BitVec 12) (s : State)
    (hK : Kept z0 s) : Kept z0 (barDoneRun p etag s) := by
  unfold barDoneRun
  repeat' (first
    | with_reducible assumption
    | with_reducible apply barDone_kept
    | with_reducible apply runRegs_kept)

theorem softWrite_kept {z0 : State} (off : Nat) (w : RWr) (s : State)
    (hK : Kept z0 s) : Kept z0 (softWrite off w s) := by
  unfold softWrite
  repeat' (first
    | with_reducible assumption
    | with_reducible apply regWrite_kept)

theorem evqHold_kept {z0 : State} (p : Port) (s : State)
    (hK : Kept z0 s) : Kept z0 (evqHold p s) := by
  unfold evqHold
  repeat' (first
    | with_reducible assumption
    | with_reducible apply State.setEq_kept
    | with_reducible apply msixCheck_kept)

theorem summarize_kept {z0 : State} (s : State)
    (hK : Kept z0 s) : Kept z0 (summarize s) := by
  unfold summarize
  repeat' (first
    | with_reducible assumption
    | with_reducible apply peatEnter_kept
    | with_reducible refine Kept.ite (fun _ => ?_) (fun _ => ?_)
    | fail_if_no_progress ((with_reducible apply Kept.mk1) <;> (first | with_reducible assumption | with_reducible rfl | skip)))

theorem smbWarm_kept {z0 : State} (ms : BitVec 16) (s : State)
    (hK : Kept z0 s) : Kept z0 (smbWarm ms s) := by
  unfold smbWarm
  repeat' (first
    | with_reducible assumption
    | with_reducible apply postNotice_kept
    | with_reducible apply fwDo_kept
    | with_reducible refine Kept.ite (fun _ => ?_) (fun _ => ?_)
    | fail_if_no_progress ((with_reducible apply Kept.mk1) <;> (first | with_reducible assumption | with_reducible rfl | skip))
    | with_reducible refine Kept.each (fun _ _ _ => ?_) ?_
    | with_reducible refine Kept.foldl2 (fun _ _ _ => ?_) ?_
    | with_reducible refine Kept.foldl (fun _ _ _ => ?_) ?_
    | extract_lets
    | with_reducible refine Kept.slGood (z0 := z0) ?_ ?_
    | with_reducible apply Slice.good_slots
    | with_reducible apply Slice.putBlock_good
    | with_reducible apply Slice.putWord_good
    | with_reducible apply Slice.putPlru_good
    | with_reducible apply Slice.touchWay_good
    | with_reducible apply Slice.mendSlot_good
    | with_reducible apply Slice.mendTS_good
    | with_reducible apply Slice.hitWay_good
    | with_reducible apply Slice.dropMove_good
    | with_reducible apply Slice.outcome_good
    | with_reducible apply Slice.hintFill_good
    | with_reducible apply Slice.predFix_good
    | with_reducible apply Slice.hintSeen_good
    | with_reducible apply Slice.predAdd_good
    | with_reducible apply Slice.closeLow_good
    | with_reducible apply Slice.setLock_good
    | with_reducible apply Slice.flushPlru_good
    | with_reducible refine Slice.shAlloc_good ?_ (by with_reducible assumption)
    | with_reducible refine Slice.ensureShadow_good ?_ (by with_reducible assumption)
    | with_reducible refine Slice.demandLook_good ?_ (by with_reducible assumption)
    | fail_if_no_progress ((with_reducible apply Slice.good_mk) <;> (first | with_reducible assumption | with_reducible rfl | skip))
    | split
    | with_reducible refine Kept.of_snd (by with_reducible assumption) ?_
    | dsimp +zetaDelta only
    | intro)

theorem pingCmd_kept {z0 : State} (p k : Port) (arg : BitVec 16) (s : State)
    (hK : Kept z0 s) : Kept z0 (pingCmd p k arg s) := by
  unfold pingCmd
  repeat' (first
    | with_reducible assumption
    | with_reducible apply finish_kept)

theorem peatReadCmd_kept {z0 : State} (p k : Port) (arg : BitVec 16) (s : State)
    (hK : Kept z0 s) : Kept z0 (peatReadCmd p k arg s) := by
  unfold peatReadCmd
  repeat' (first
    | with_reducible assumption
    | with_reducible apply outPar_kept
    | with_reducible apply finish_kept
    | with_reducible refine Kept.ite (fun _ => ?_) (fun _ => ?_)
    | fail_if_no_progress ((with_reducible apply Kept.mk1) <;> (first | with_reducible assumption | with_reducible rfl | skip))
    | with_reducible refine Kept.each (fun _ _ _ => ?_) ?_
    | with_reducible refine Kept.foldl2 (fun _ _ _ => ?_) ?_
    | with_reducible refine Kept.foldl (fun _ _ _ => ?_) ?_
    | extract_lets
    | with_reducible refine Kept.slGood (z0 := z0) ?_ ?_
    | with_reducible apply Slice.good_slots
    | with_reducible apply Slice.putBlock_good
    | with_reducible apply Slice.putWord_good
    | with_reducible apply Slice.putPlru_good
    | with_reducible apply Slice.touchWay_good
    | with_reducible apply Slice.mendSlot_good
    | with_reducible apply Slice.mendTS_good
    | with_reducible apply Slice.hitWay_good
    | with_reducible apply Slice.dropMove_good
    | with_reducible apply Slice.outcome_good
    | with_reducible apply Slice.hintFill_good
    | with_reducible apply Slice.predFix_good
    | with_reducible apply Slice.hintSeen_good
    | with_reducible apply Slice.predAdd_good
    | with_reducible apply Slice.closeLow_good
    | with_reducible apply Slice.setLock_good
    | with_reducible apply Slice.flushPlru_good
    | with_reducible refine Slice.shAlloc_good ?_ (by with_reducible assumption)
    | with_reducible refine Slice.ensureShadow_good ?_ (by with_reducible assumption)
    | with_reducible refine Slice.demandLook_good ?_ (by with_reducible assumption)
    | fail_if_no_progress ((with_reducible apply Slice.good_mk) <;> (first | with_reducible assumption | with_reducible rfl | skip))
    | split)

theorem errlogCmd_kept {z0 : State} (p k : Port) (arg : BitVec 16) (s : State)
    (hK : Kept z0 s) : Kept z0 (errlogCmd p k arg s) := by
  unfold errlogCmd
  repeat' (first
    | with_reducible assumption
    | with_reducible apply outPar_kept
    | with_reducible apply finish_kept
    | with_reducible refine Kept.ite (fun _ => ?_) (fun _ => ?_)
    | fail_if_no_progress ((with_reducible apply Kept.mk1) <;> (first | with_reducible assumption | with_reducible rfl | skip))
    | with_reducible refine Kept.each (fun _ _ _ => ?_) ?_)

theorem nodeStatusCmd_kept {z0 : State} (p k : Port) (arg : BitVec 16) (s : State)
    (hK : Kept z0 s) : Kept z0 (nodeStatusCmd p k arg s) := by
  unfold nodeStatusCmd
  repeat' (first
    | with_reducible assumption
    | with_reducible apply finish_kept
    | with_reducible refine Kept.ite (fun _ => ?_) (fun _ => ?_))

theorem fwInfoCmd_kept {z0 : State} (p k : Port) (arg : BitVec 16) (s : State)
    (hK : Kept z0 s) : Kept z0 (fwInfoCmd p k arg s) := by
  unfold fwInfoCmd
  repeat' (first
    | with_reducible assumption
    | with_reducible apply outPar_kept
    | with_reducible apply finish_kept
    | with_reducible refine Kept.ite (fun _ => ?_) (fun _ => ?_))

theorem fwIdle_kept {z0 : State} (s : State)
    (hK : Kept z0 s) : Kept z0 (fwIdle s) := by
  unfold fwIdle
  repeat' (first
    | with_reducible assumption
    | with_reducible refine Kept.ite (fun _ => ?_) (fun _ => ?_)
    | fail_if_no_progress ((with_reducible apply Kept.mk1) <;> (first | with_reducible assumption | with_reducible rfl | skip)))

theorem severWalk_kept {z0 : State} (s : State)
    (hK : Kept z0 s) : Kept z0 (severWalk s) := by
  unfold severWalk
  repeat' (first
    | with_reducible assumption
    | with_reducible apply State.modSl_kept
    | with_reducible apply modFw_kept
    | with_reducible refine Kept.ite (fun _ => ?_) (fun _ => ?_)
    | fail_if_no_progress ((with_reducible apply Kept.mk1) <;> (first | with_reducible assumption | with_reducible rfl | skip))
    | with_reducible refine Kept.each (fun _ _ _ => ?_) ?_
    | with_reducible refine Kept.foldl2 (fun _ _ _ => ?_) ?_
    | with_reducible refine Kept.foldl (fun _ _ _ => ?_) ?_
    | extract_lets
    | with_reducible refine Kept.slGood (z0 := z0) ?_ ?_
    | with_reducible apply Slice.good_slots
    | with_reducible apply Slice.putBlock_good
    | with_reducible apply Slice.putWord_good
    | with_reducible apply Slice.putPlru_good
    | with_reducible apply Slice.touchWay_good
    | with_reducible apply Slice.mendSlot_good
    | with_reducible apply Slice.mendTS_good
    | with_reducible apply Slice.hitWay_good
    | with_reducible apply Slice.dropMove_good
    | with_reducible apply Slice.outcome_good
    | with_reducible apply Slice.hintFill_good
    | with_reducible apply Slice.predFix_good
    | with_reducible apply Slice.hintSeen_good
    | with_reducible apply Slice.predAdd_good
    | with_reducible apply Slice.closeLow_good
    | with_reducible apply Slice.setLock_good
    | with_reducible apply Slice.flushPlru_good
    | with_reducible refine Slice.shAlloc_good ?_ (by with_reducible assumption)
    | with_reducible refine Slice.ensureShadow_good ?_ (by with_reducible assumption)
    | with_reducible refine Slice.demandLook_good ?_ (by with_reducible assumption)
    | fail_if_no_progress ((with_reducible apply Slice.good_mk) <;> (first | with_reducible assumption | with_reducible rfl | skip))
    | split
    | with_reducible refine Kept.of_snd (by with_reducible assumption) ?_
    | dsimp +zetaDelta only
    | intro)

theorem severOps_kept {z0 : State} (s : State)
    (hK : Kept z0 s) : Kept z0 (severOps s) := by
  unfold severOps
  repeat' (first
    | with_reducible assumption
    | with_reducible apply State.modHome_kept
    | with_reducible apply modFw_kept
    | with_reducible apply severWalk_kept)

theorem fwFault_kept {z0 : State} (exc again : Bool) (s : State)
    (hK : Kept z0 s) : Kept z0 (fwFault exc again s) := by
  unfold fwFault
  repeat' (first
    | with_reducible assumption
    | with_reducible apply State.modHp_kept
    | with_reducible apply State.modMb_kept
    | with_reducible apply msixAll_kept
    | with_reducible apply peatEnter_kept
    | with_reducible apply postEvent_kept
    | with_reducible apply masterGone_kept
    | with_reducible apply finish_kept
    | with_reducible apply modFw_kept
    | with_reducible apply severOps_kept
    | with_reducible refine Kept.ite (fun _ => ?_) (fun _ => ?_)
    | fail_if_no_progress ((with_reducible apply Kept.mk1) <;> (first | with_reducible assumption | with_reducible rfl | skip))
    | with_reducible refine Kept.each (fun _ _ _ => ?_) ?_
    | with_reducible refine Kept.foldl2 (fun _ _ _ => ?_) ?_
    | with_reducible refine Kept.foldl (fun _ _ _ => ?_) ?_)

theorem postAll_kept {z0 : State} (p : Port) (s : State)
    (hK : Kept z0 s) : Kept z0 (postAll p s) := by
  unfold postAll
  repeat' (first
    | with_reducible assumption
    | with_reducible apply postBacklog_kept)

theorem fwBack_kept {z0 : State} (s : State)
    (hK : Kept z0 s) : Kept z0 (fwBack s) := by
  unfold fwBack
  repeat' (first
    | with_reducible assumption
    | with_reducible apply State.modMb_kept
    | with_reducible apply msixAll_kept
    | with_reducible apply postNotice_kept
    | with_reducible apply modFw_kept
    | with_reducible apply ringRun_kept
    | with_reducible apply postAll_kept
    | with_reducible refine Kept.ite (fun _ => ?_) (fun _ => ?_)
    | fail_if_no_progress ((with_reducible apply Kept.mk1) <;> (first | with_reducible assumption | with_reducible rfl | skip))
    | with_reducible refine Kept.each (fun _ _ _ => ?_) ?_)

theorem watchdog_kept {z0 : State} (s : State)
    (hK : Kept z0 s) : Kept z0 (watchdog s) := by
  unfold watchdog
  repeat' (first
    | with_reducible assumption
    | with_reducible apply stopDevice_kept
    | with_reducible refine Kept.ite (fun _ => ?_) (fun _ => ?_))

theorem learnSelf_kept {z0 : State} (s : State)
    (hK : Kept z0 s) : Kept z0 (learnSelf s) := by
  unfold learnSelf
  repeat' (first
    | with_reducible assumption
    | with_reducible apply State.modFp_kept
    | with_reducible apply modLive_kept
    | with_reducible refine Kept.ite (fun _ => ?_) (fun _ => ?_)
    | fail_if_no_progress ((with_reducible apply Kept.mk1) <;> (first | with_reducible assumption | with_reducible rfl | skip))
    | with_reducible refine Kept.each (fun _ _ _ => ?_) ?_)

theorem learnDead_kept {z0 : State} (ns : List NodeId) (s : State)
    (hK : Kept z0 s) : Kept z0 (learnDead ns s) := by
  unfold learnDead
  repeat' (first
    | with_reducible assumption
    | with_reducible apply declareApply_kept
    | with_reducible apply learnSelf_kept
    | with_reducible refine Kept.ite (fun _ => ?_) (fun _ => ?_)
    | fail_if_no_progress ((with_reducible apply Kept.mk1) <;> (first | with_reducible assumption | with_reducible rfl | skip))
    | with_reducible refine Kept.each (fun _ _ _ => ?_) ?_)

theorem tableAnswers_kept {z0 : State} (a : List TabAnswer) (s : State)
    (hK : Kept z0 s) : Kept z0 (tableAnswers a s) := by
  unfold tableAnswers
  repeat' (first
    | with_reducible assumption
    | with_reducible apply State.modHome_kept
    | with_reducible apply modFw_kept
    | with_reducible apply applyNotices_kept
    | with_reducible apply learnDead_kept
    | with_reducible refine Kept.ite (fun _ => ?_) (fun _ => ?_)
    | fail_if_no_progress ((with_reducible apply Kept.mk1) <;> (first | with_reducible assumption | with_reducible rfl | skip))
    | with_reducible refine Kept.each (fun _ _ _ => ?_) ?_
    | with_reducible refine Kept.foldl2 (fun _ _ _ => ?_) ?_
    | with_reducible refine Kept.foldl (fun _ _ _ => ?_) ?_
    | extract_lets
    | with_reducible refine Kept.slGood (z0 := z0) ?_ ?_
    | with_reducible apply Slice.good_slots
    | with_reducible apply Slice.putBlock_good
    | with_reducible apply Slice.putWord_good
    | with_reducible apply Slice.putPlru_good
    | with_reducible apply Slice.touchWay_good
    | with_reducible apply Slice.mendSlot_good
    | with_reducible apply Slice.mendTS_good
    | with_reducible apply Slice.hitWay_good
    | with_reducible apply Slice.dropMove_good
    | with_reducible apply Slice.outcome_good
    | with_reducible apply Slice.hintFill_good
    | with_reducible apply Slice.predFix_good
    | with_reducible apply Slice.hintSeen_good
    | with_reducible apply Slice.predAdd_good
    | with_reducible apply Slice.closeLow_good
    | with_reducible apply Slice.setLock_good
    | with_reducible apply Slice.flushPlru_good
    | with_reducible refine Slice.shAlloc_good ?_ (by with_reducible assumption)
    | with_reducible refine Slice.ensureShadow_good ?_ (by with_reducible assumption)
    | with_reducible refine Slice.demandLook_good ?_ (by with_reducible assumption)
    | fail_if_no_progress ((with_reducible apply Slice.good_mk) <;> (first | with_reducible assumption | with_reducible rfl | skip))
    | split)

end Sys2Proof.Machine
end

