-- ==== Sys2Proof/Laws/KeptPower.lean ====
section
/-! SUPPORT. `Kept` of the functions of starts, drains and the clocks: one lemma per function. -/

set_option linter.unusedVariables false
set_option linter.unusedTactic false
set_option linter.unreachableTactic false

namespace Sys2Proof.Machine

theorem coldReset_kept {z0 : State} (kind : BitVec 2) (s : State)
    (hK : Kept z0 s) : Kept z0 (coldReset kind s) :=
  Kept.mk2 hK rfl rfl rfl rfl rfl rfl (fun _ => rfl)
    fun g i => map_good i ((hK.good g).2 i) fun _ _ => rfl

theorem warmReset_kept {z0 : State} (s : State)
    (hK : Kept z0 s) : Kept z0 (warmReset s) :=
  Kept.mk2 hK rfl rfl rfl rfl rfl rfl (fun g => (hK.good g).1)
    fun g i => map_good i ((hK.good g).2 i) fun _ h => Slice.good_of h rfl rfl

theorem beginCold_kept {z0 : State} (s : State)
    (hK : Kept z0 s) : Kept z0 (beginCold s) := by
  unfold beginCold
  repeat' (first
    | with_reducible assumption
    | with_reducible refine Kept.ite (fun _ => ?_) (fun _ => ?_)
    | fail_if_no_progress ((with_reducible apply Kept.mk1) <;> (first | with_reducible assumption | with_reducible rfl | skip)))

theorem restartCold_kept {z0 : State} (s : State)
    (hK : Kept z0 s) : Kept z0 (restartCold s) := by
  unfold restartCold
  repeat' (first
    | with_reducible assumption
    | with_reducible apply coldReset_kept
    | with_reducible apply beginCold_kept)

theorem startFail_kept {z0 : State} (unit idx : Nat) (s : State)
    (hK : Kept z0 s) : Kept z0 (startFail unit idx s) := by
  unfold startFail
  repeat' (first
    | with_reducible assumption
    | with_reducible apply recStop_kept
    | with_reducible refine Kept.ite (fun _ => ?_) (fun _ => ?_)
    | fail_if_no_progress ((with_reducible apply Kept.mk1) <;> (first | with_reducible assumption | with_reducible rfl | skip)))

theorem pllLocked_kept {z0 : State} (s : State)
    (hK : Kept z0 s) : Kept z0 (pllLocked s) := by
  unfold pllLocked
  repeat' (first
    | with_reducible assumption
    | with_reducible refine Kept.ite (fun _ => ?_) (fun _ => ?_)
    | fail_if_no_progress ((with_reducible apply Kept.mk1) <;> (first | with_reducible assumption | with_reducible rfl | skip)))

theorem again_kept {z0 : State} (p : RepLoc → Bool) (s : State)
    (hK : Kept z0 s) : Kept z0 (again p s) := by
  unfold again
  repeat' (first
    | with_reducible assumption
    | with_reducible refine Kept.ite (fun _ => ?_) (fun _ => ?_)
    | fail_if_no_progress ((with_reducible apply Kept.mk1) <;> (first | with_reducible assumption | with_reducible rfl | skip)))

theorem startRepairs_kept {z0 : State} (p : RepLoc → Bool) (s : State)
    (hK : Kept z0 s) : Kept z0 (startRepairs p s) := by
  unfold startRepairs
  repeat' (first
    | with_reducible assumption
    | with_reducible apply State.tick1_kept
    | with_reducible apply repairEnd_kept
    | with_reducible apply again_kept
    | with_reducible refine Kept.ite (fun _ => ?_) (fun _ => ?_)
    | fail_if_no_progress ((with_reducible apply Kept.mk1) <;> (first | with_reducible assumption | with_reducible rfl | skip))
    | with_reducible refine Kept.each (fun _ _ _ => ?_) ?_)

theorem arrayFails_kept {z0 : State} (l : List (BitVec 16 × Bool)) (s : State) (hK : Kept z0 s) : Kept z0 (arrayFails l s) := by
  induction l generalizing s with
  | nil => exact hK
  | cons c t ih =>
    obtain ⟨i, b⟩ := c
    cases b <;> unfold arrayFails
    · repeat' (first
    | with_reducible assumption
    | with_reducible apply startFail_kept
    | with_reducible apply peatEnter_kept)
    · repeat' (first
    | with_reducible assumption
    | with_reducible apply ih
    | with_reducible apply repairEnd_kept
    | with_reducible apply mapIsFull_kept
    | with_reducible apply repNew_kept
    | with_reducible refine Kept.ite (fun _ => ?_) (fun _ => ?_))

theorem selfTested_kept {z0 : State} (r : SelfTest) (s : State)
    (hK : Kept z0 s) : Kept z0 (selfTested r s) := by
  unfold selfTested
  repeat' (first
    | with_reducible assumption
    | with_reducible apply startFail_kept
    | with_reducible apply arrayFails_kept
    | with_reducible refine Kept.ite (fun _ => ?_) (fun _ => ?_)
    | fail_if_no_progress ((with_reducible apply Kept.mk1) <;> (first | with_reducible assumption | with_reducible rfl | skip))
    | with_reducible refine Kept.each (fun _ _ _ => ?_) ?_
    | with_reducible refine Kept.foldl2 (fun _ _ _ => ?_) ?_
    | with_reducible refine Kept.foldl (fun _ _ _ => ?_) ?_
    | extract_lets
    | with_reducible refine Kept.slGood (z0 := z0) ?_ ?_
    | with_reducible apply Slice.good_slots
    | with_reducible apply Slice.putBlock_good
    | with_reducible apply Slice.putWord_good
    | with_reducible apply Slice.putPlru_good
    | with_reducible apply Slice.touchWay_good
    | with_reducible apply Slice.mendSlot_good
    | with_reducible apply Slice.mendTS_good
    | with_reducible apply Slice.hitWay_good
    | with_reducible apply Slice.dropMove_good
    | with_reducible apply Slice.outcome_good
    | with_reducible apply Slice.hintFill_good
    | with_reducible apply Slice.predFix_good
    | with_reducible apply Slice.hintSeen_good
    | with_reducible apply Slice.predAdd_good
    | with_reducible apply Slice.closeLow_good
    | with_reducible apply Slice.setLock_good
    | with_reducible apply Slice.flushPlru_good
    | with_reducible refine Slice.shAlloc_good ?_ (by with_reducible assumption)
    | with_reducible refine Slice.ensureShadow_good ?_ (by with_reducible assumption)
    | with_reducible refine Slice.demandLook_good ?_ (by with_reducible assumption)
    | fail_if_no_progress ((with_reducible apply Slice.good_mk) <;> (first | with_reducible assumption | with_reducible rfl | skip))
    | split)

theorem nextPhase_kept {z0 : State} (s : State)
    (hK : Kept z0 s) : Kept z0 (nextPhase s) := by
  unfold nextPhase
  repeat' (first
    | with_reducible assumption
    | with_reducible refine Kept.ite (fun _ => ?_) (fun _ => ?_)
    | fail_if_no_progress ((with_reducible apply Kept.mk1) <;> (first | with_reducible assumption | with_reducible rfl | skip)))

theorem loadDesc_kept {z0 : State} (d : SysDesc) (s : State)
    (hK : Kept z0 s) : Kept z0 (loadDesc d s) := by
  unfold loadDesc
  repeat' (first
    | with_reducible assumption
    | with_reducible apply State.modFp_kept
    | with_reducible refine Kept.ite (fun _ => ?_) (fun _ => ?_)
    | fail_if_no_progress ((with_reducible apply Kept.mk1) <;> (first | with_reducible assumption | with_reducible rfl | skip))
    | with_reducible refine Kept.each (fun _ _ _ => ?_) ?_
    | with_reducible refine Kept.foldl2 (fun _ _ _ => ?_) ?_
    | with_reducible refine Kept.foldl (fun _ _ _ => ?_) ?_
    | extract_lets
    | with_reducible refine Kept.slGood (z0 := z0) ?_ ?_
    | with_reducible apply Slice.good_slots
    | with_reducible apply Slice.putBlock_good
    | with_reducible apply Slice.putWord_good
    | with_reducible apply Slice.putPlru_good
    | with_reducible apply Slice.touchWay_good
    | with_reducible apply Slice.mendSlot_good
    | with_reducible apply Slice.mendTS_good
    | with_reducible apply Slice.hitWay_good
    | with_reducible apply Slice.dropMove_good
    | with_reducible apply Slice.outcome_good
    | with_reducible apply Slice.hintFill_good
    | with_reducible apply Slice.predFix_good
    | with_reducible apply Slice.hintSeen_good
    | with_reducible apply Slice.predAdd_good
    | with_reducible apply Slice.closeLow_good
    | with_reducible apply Slice.setLock_good
    | with_reducible apply Slice.flushPlru_good
    | with_reducible refine Slice.shAlloc_good ?_ (by with_reducible assumption)
    | with_reducible refine Slice.ensureShadow_good ?_ (by with_reducible assumption)
    | with_reducible refine Slice.demandLook_good ?_ (by with_reducible assumption)
    | fail_if_no_progress ((with_reducible apply Slice.good_mk) <;> (first | with_reducible assumption | with_reducible rfl | skip))
    | split)

theorem flashRead_kept {z0 : State} (b : Bool) (s : State)
    (hK : Kept z0 s) : Kept z0 (flashRead b s) := by
  unfold flashRead
  repeat' (first
    | with_reducible assumption
    | with_reducible refine Kept.ite (fun _ => ?_) (fun _ => ?_)
    | fail_if_no_progress ((with_reducible apply Kept.mk1) <;> (first | with_reducible assumption | with_reducible rfl | skip)))

theorem imageLoaded_kept {z0 : State} (r : ImageResult) (s : State)
    (hK : Kept z0 s) : Kept z0 (imageLoaded r s) := by
  unfold imageLoaded
  repeat' (first
    | with_reducible assumption
    | with_reducible apply startFail_kept
    | with_reducible apply nextPhase_kept
    | with_reducible apply loadDesc_kept
    | with_reducible apply flashRead_kept
    | with_reducible refine Kept.ite (fun _ => ?_) (fun _ => ?_)
    | fail_if_no_progress ((with_reducible apply Kept.mk1) <;> (first | with_reducible assumption | with_reducible rfl | skip)))

theorem hbmTrained_kept {z0 : State} (t : BitVec 4) (s : State)
    (hK : Kept z0 s) : Kept z0 (hbmTrained t s) := by
  unfold hbmTrained
  repeat' (first
    | with_reducible assumption
    | with_reducible apply startFail_kept
    | with_reducible apply startRepairs_kept
    | with_reducible apply nextPhase_kept
    | with_reducible refine Kept.ite (fun _ => ?_) (fun _ => ?_)
    | fail_if_no_progress ((with_reducible apply Kept.mk1) <;> (first | with_reducible assumption | with_reducible rfl | skip)))

theorem hbmFill_kept {z0 : State} (s : State)
    (hK : Kept z0 s) : Kept z0 (hbmFill s) := by
  unfold hbmFill
  repeat' (first
    | with_reducible assumption
    | with_reducible apply nextPhase_kept
    | with_reducible refine Kept.ite (fun _ => ?_) (fun _ => ?_)
    | fail_if_no_progress ((with_reducible apply Kept.mk1) <;> (first | with_reducible assumption | with_reducible rfl | skip)))

theorem wayTested_kept {z0 : State} (i : SliceNo) (region : BitVec 6) (w : Way) (clean : Bool) (s : State)
    (hK : Kept z0 s) : Kept z0 (wayTested i region w clean s) := by
  unfold wayTested
  repeat' (first
    | with_reducible assumption
    | with_reducible apply State.modSl_kept
    | with_reducible apply postEvent_kept
    | with_reducible refine Kept.ite (fun _ => ?_) (fun _ => ?_)
    | fail_if_no_progress ((with_reducible apply Kept.mk1) <;> (first | with_reducible assumption | with_reducible rfl | skip))
    | with_reducible refine Kept.each (fun _ _ _ => ?_) ?_
    | with_reducible refine Kept.foldl2 (fun _ _ _ => ?_) ?_
    | with_reducible refine Kept.foldl (fun _ _ _ => ?_) ?_
    | extract_lets
    | with_reducible refine Kept.slGood (z0 := z0) ?_ ?_
    | with_reducible apply Slice.good_slots
    | with_reducible apply Slice.putBlock_good
    | with_reducible apply Slice.putWord_good
    | with_reducible apply Slice.putPlru_good
    | with_reducible apply Slice.touchWay_good
    | with_reducible apply Slice.mendSlot_good
    | with_reducible apply Slice.mendTS_good
    | with_reducible apply Slice.hitWay_good
    | with_reducible apply Slice.dropMove_good
    | with_reducible apply Slice.outcome_good
    | with_reducible apply Slice.hintFill_good
    | with_reducible apply Slice.predFix_good
    | with_reducible apply Slice.hintSeen_good
    | with_reducible apply Slice.predAdd_good
    | with_reducible apply Slice.closeLow_good
    | with_reducible apply Slice.setLock_good
    | with_reducible apply Slice.flushPlru_good
    | with_reducible refine Slice.shAlloc_good ?_ (by with_reducible assumption)
    | with_reducible refine Slice.ensureShadow_good ?_ (by with_reducible assumption)
    | with_reducible refine Slice.demandLook_good ?_ (by with_reducible assumption)
    | fail_if_no_progress ((with_reducible apply Slice.good_mk) <;> (first | with_reducible assumption | with_reducible rfl | skip))
    | split
    | with_reducible refine Kept.of_snd (by with_reducible assumption) ?_
    | dsimp +zetaDelta only
    | intro)

theorem ddrTrain_kept {z0 : State} (dimms : List (Option Dimm)) (s : State)
    (hK : Kept z0 s) : Kept z0 (ddrTrain dimms s) := by
  unfold ddrTrain
  repeat' (first
    | with_reducible assumption
    | with_reducible apply startFail_kept
    | with_reducible apply startRepairs_kept
    | with_reducible apply nextPhase_kept
    | with_reducible refine Kept.ite (fun _ => ?_) (fun _ => ?_)
    | fail_if_no_progress ((with_reducible apply Kept.mk1) <;> (first | with_reducible assumption | with_reducible rfl | skip))
    | with_reducible refine Kept.each (fun _ _ _ => ?_) ?_
    | with_reducible refine Kept.foldl2 (fun _ _ _ => ?_) ?_
    | with_reducible refine Kept.foldl (fun _ _ _ => ?_) ?_
    | extract_lets
    | with_reducible refine Kept.slGood (z0 := z0) ?_ ?_
    | with_reducible apply Slice.good_slots
    | with_reducible apply Slice.putBlock_good
    | with_reducible apply Slice.putWord_good
    | with_reducible apply Slice.putPlru_good
    | with_reducible apply Slice.touchWay_good
    | with_reducible apply Slice.mendSlot_good
    | with_reducible apply Slice.mendTS_good
    | with_reducible apply Slice.hitWay_good
    | with_reducible apply Slice.dropMove_good
    | with_reducible apply Slice.outcome_good
    | with_reducible apply Slice.hintFill_good
    | with_reducible apply Slice.predFix_good
    | with_reducible apply Slice.hintSeen_good
    | with_reducible apply Slice.predAdd_good
    | with_reducible apply Slice.closeLow_good
    | with_reducible apply Slice.setLock_good
    | with_reducible apply Slice.flushPlru_good
    | with_reducible refine Slice.shAlloc_good ?_ (by with_reducible assumption)
    | with_reducible refine Slice.ensureShadow_good ?_ (by with_reducible assumption)
    | with_reducible refine Slice.demandLook_good ?_ (by with_reducible assumption)
    | fail_if_no_progress ((with_reducible apply Slice.good_mk) <;> (first | with_reducible assumption | with_reducible rfl | skip))
    | split)

theorem firstFill_kept {z0 : State} (s : State)
    (hK : Kept z0 s) : Kept z0 (firstFill s) := by
  unfold firstFill
  repeat' (first
    | with_reducible assumption
    | with_reducible apply nextPhase_kept
    | with_reducible refine Kept.ite (fun _ => ?_) (fun _ => ?_)
    | fail_if_no_progress ((with_reducible apply Kept.mk1) <;> (first | with_reducible assumption | with_reducible rfl | skip)))

theorem loadPolicy_kept {z0 : State} (s : State)
    (hK : Kept z0 s) : Kept z0 (loadPolicy s) := by
  unfold loadPolicy
  repeat' (first
    | with_reducible assumption
    | with_reducible refine Kept.ite (fun _ => ?_) (fun _ => ?_)
    | fail_if_no_progress ((with_reducible apply Kept.mk1) <;> (first | with_reducible assumption | with_reducible rfl | skip)))

theorem loadModes_kept {z0 : State} (s : State)
    (hK : Kept z0 s) : Kept z0 (loadModes s) := by
  unfold loadModes
  repeat' (first
    | with_reducible assumption
    | with_reducible apply State.modHp_kept
    | with_reducible refine Kept.ite (fun _ => ?_) (fun _ => ?_)
    | fail_if_no_progress ((with_reducible apply Kept.mk1) <;> (first | with_reducible assumption | with_reducible rfl | skip))
    | with_reducible refine Kept.each (fun _ _ _ => ?_) ?_)

theorem sendQuiet_kept {z0 : State} (s : State)
    (hK : Kept z0 s) : Kept z0 (sendQuiet s) := by
  unfold sendQuiet
  repeat' (first
    | with_reducible assumption
    | with_reducible apply sendVc5_kept
    | with_reducible refine Kept.ite (fun _ => ?_) (fun _ => ?_)
    | fail_if_no_progress ((with_reducible apply Kept.mk1) <;> (first | with_reducible assumption | with_reducible rfl | skip))
    | with_reducible refine Kept.each (fun _ _ _ => ?_) ?_
    | with_reducible refine Kept.foldl2 (fun _ _ _ => ?_) ?_
    | with_reducible refine Kept.foldl (fun _ _ _ => ?_) ?_)

theorem fwRelease_kept {z0 : State} (s : State)
    (hK : Kept z0 s) : Kept z0 (fwRelease s) := by
  unfold fwRelease
  repeat' (first
    | with_reducible assumption
    | with_reducible apply msixAll_kept
    | with_reducible apply modFw_kept
    | with_reducible apply askTables_kept
    | with_reducible apply ringRun_kept
    | with_reducible apply postAll_kept
    | with_reducible apply loadPolicy_kept
    | with_reducible apply loadModes_kept
    | with_reducible refine Kept.ite (fun _ => ?_) (fun _ => ?_)
    | fail_if_no_progress ((with_reducible apply Kept.mk1) <;> (first | with_reducible assumption | with_reducible rfl | skip))
    | with_reducible refine Kept.each (fun _ _ _ => ?_) ?_)

theorem quietStep_kept {z0 : State} (s : State)
    (hK : Kept z0 s) : Kept z0 (quietStep s) := by
  unfold quietStep
  repeat' (first
    | with_reducible assumption
    | with_reducible apply fwDo_kept
    | with_reducible apply sendQuiet_kept
    | with_reducible refine Kept.ite (fun _ => ?_) (fun _ => ?_)
    | fail_if_no_progress ((with_reducible apply Kept.mk1) <;> (first | with_reducible assumption | with_reducible rfl | skip))
    | with_reducible refine Kept.each (fun _ _ _ => ?_) ?_
    | with_reducible refine Kept.foldl2 (fun _ _ _ => ?_) ?_
    | with_reducible refine Kept.foldl (fun _ _ _ => ?_) ?_
    | extract_lets
    | with_reducible refine Kept.slGood (z0 := z0) ?_ ?_
    | with_reducible apply Slice.good_slots
    | with_reducible apply Slice.putBlock_good
    | with_reducible apply Slice.putWord_good
    | with_reducible apply Slice.putPlru_good
    | with_reducible apply Slice.touchWay_good
    | with_reducible apply Slice.mendSlot_good
    | with_reducible apply Slice.mendTS_good
    | with_reducible apply Slice.hitWay_good
    | with_reducible apply Slice.dropMove_good
    | with_reducible apply Slice.outcome_good
    | with_reducible apply Slice.hintFill_good
    | with_reducible apply Slice.predFix_good
    | with_reducible apply Slice.hintSeen_good
    | with_reducible apply Slice.predAdd_good
    | with_reducible apply Slice.closeLow_good
    | with_reducible apply Slice.setLock_good
    | with_reducible apply Slice.flushPlru_good
    | with_reducible refine Slice.shAlloc_good ?_ (by with_reducible assumption)
    | with_reducible refine Slice.ensureShadow_good ?_ (by with_reducible assumption)
    | with_reducible refine Slice.demandLook_good ?_ (by with_reducible assumption)
    | fail_if_no_progress ((with_reducible apply Slice.good_mk) <;> (first | with_reducible assumption | with_reducible rfl | skip))
    | split
    | with_reducible refine Kept.of_snd (by with_reducible assumption) ?_
    | dsimp +zetaDelta only
    | intro)

theorem openAdmission_kept {z0 : State} (p : Port) (s : State)
    (hK : Kept z0 s) : Kept z0 (openAdmission p s) := by
  unfold openAdmission
  repeat' (first
    | with_reducible assumption
    | with_reducible apply State.modHp_kept
    | with_reducible refine Kept.ite (fun _ => ?_) (fun _ => ?_)
    | fail_if_no_progress ((with_reducible apply Kept.mk1) <;> (first | with_reducible assumption | with_reducible rfl | skip)))

theorem latchCounts_kept {z0 : State} (s : State)
    (hK : Kept z0 s) : Kept z0 (latchCounts s) := by
  unfold latchCounts
  repeat' (first
    | with_reducible assumption
    | with_reducible refine Kept.ite (fun _ => ?_) (fun _ => ?_)
    | fail_if_no_progress ((with_reducible apply Kept.mk1) <;> (first | with_reducible assumption | with_reducible rfl | skip)))

theorem drainRec_kept {z0 : State} (cause left : Nat) (s : State)
    (hK : Kept z0 s) : Kept z0 (drainRec cause left s) := by
  unfold drainRec
  repeat' (first
    | with_reducible assumption
    | with_reducible apply peatOwn_kept)

theorem dropEntries_kept {z0 : State} (s : State)
    (hK : Kept z0 s) : Kept z0 (dropEntries s) :=
  Kept.mk2 hK rfl rfl rfl rfl rfl rfl (fun g => (hK.good g).1)
    fun g i => map_good i ((hK.good g).2 i) fun _ h => Slice.good_of h rfl rfl

theorem drainBegin_kept {z0 : State} (warm : Bool) (s : State)
    (hK : Kept z0 s) : Kept z0 (drainBegin warm s) := by
  unfold drainBegin
  repeat' (first
    | with_reducible assumption
    | with_reducible apply State.modSl_kept
    | with_reducible apply rbFree_kept
    | with_reducible apply issueEvery_kept
    | with_reducible apply closeEntries_kept
    | with_reducible refine Kept.ite (fun _ => ?_) (fun _ => ?_)
    | fail_if_no_progress ((with_reducible apply Kept.mk1) <;> (first | with_reducible assumption | with_reducible rfl | skip))
    | with_reducible refine Kept.each (fun _ _ _ => ?_) ?_
    | with_reducible refine Kept.foldl2 (fun _ _ _ => ?_) ?_
    | with_reducible refine Kept.foldl (fun _ _ _ => ?_) ?_
    | extract_lets
    | with_reducible refine Kept.slGood (z0 := z0) ?_ ?_
    | with_reducible apply Slice.good_slots
    | with_reducible apply Slice.putBlock_good
    | with_reducible apply Slice.putWord_good
    | with_reducible apply Slice.putPlru_good
    | with_reducible apply Slice.touchWay_good
    | with_reducible apply Slice.mendSlot_good
    | with_reducible apply Slice.mendTS_good
    | with_reducible apply Slice.hitWay_good
    | with_reducible apply Slice.dropMove_good
    | with_reducible apply Slice.outcome_good
    | with_reducible apply Slice.hintFill_good
    | with_reducible apply Slice.predFix_good
    | with_reducible apply Slice.hintSeen_good
    | with_reducible apply Slice.predAdd_good
    | with_reducible apply Slice.closeLow_good
    | with_reducible apply Slice.setLock_good
    | with_reducible apply Slice.flushPlru_good
    | with_reducible refine Slice.shAlloc_good ?_ (by with_reducible assumption)
    | with_reducible refine Slice.ensureShadow_good ?_ (by with_reducible assumption)
    | with_reducible refine Slice.demandLook_good ?_ (by with_reducible assumption)
    | fail_if_no_progress ((with_reducible apply Slice.good_mk) <;> (first | with_reducible assumption | with_reducible rfl | skip))
    | split
    | with_reducible refine Kept.of_snd (by with_reducible assumption) ?_
    | dsimp +zetaDelta only
    | intro)

theorem portsDrop_kept {z0 : State} (s : State)
    (hK : Kept z0 s) : Kept z0 (portsDrop s) := by
  unfold portsDrop
  repeat' (first
    | with_reducible assumption
    | with_reducible apply State.setHp_kept
    | with_reducible apply snoopEnds_kept
    | with_reducible apply masterGone_kept
    | with_reducible apply quarEnds_kept
    | with_reducible refine Kept.ite (fun _ => ?_) (fun _ => ?_)
    | fail_if_no_progress ((with_reducible apply Kept.mk1) <;> (first | with_reducible assumption | with_reducible rfl | skip))
    | with_reducible refine Kept.each (fun _ _ _ => ?_) ?_)

theorem assertCold_kept {z0 : State} (s : State)
    (hK : Kept z0 s) : Kept z0 (assertCold s) := by
  unfold assertCold
  repeat' (first
    | with_reducible assumption
    | with_reducible apply coldReset_kept
    | with_reducible apply latchCounts_kept
    | with_reducible refine Kept.ite (fun _ => ?_) (fun _ => ?_)
    | fail_if_no_progress ((with_reducible apply Kept.mk1) <;> (first | with_reducible assumption | with_reducible rfl | skip)))

theorem quietResult_kept {z0 : State} (a : List QuietAnswer) (s : State)
    (hK : Kept z0 s) : Kept z0 (quietResult a s) := by
  unfold quietResult
  repeat' (first
    | with_reducible assumption
    | with_reducible apply learnDead_kept
    | with_reducible apply restartCold_kept
    | with_reducible refine Kept.ite (fun _ => ?_) (fun _ => ?_)
    | fail_if_no_progress ((with_reducible apply Kept.mk1) <;> (first | with_reducible assumption | with_reducible rfl | skip)))

theorem failDrain_kept {z0 : State} (s : State)
    (hK : Kept z0 s) : Kept z0 (failDrain s) := by
  unfold failDrain
  repeat' (first
    | with_reducible assumption
    | with_reducible apply held_kept
    | with_reducible apply latchCounts_kept
    | with_reducible apply drainRec_kept
    | with_reducible apply drainBegin_kept
    | with_reducible refine Kept.ite (fun _ => ?_) (fun _ => ?_)
    | fail_if_no_progress ((with_reducible apply Kept.mk1) <;> (first | with_reducible assumption | with_reducible rfl | skip)))

theorem failDeadline_kept {z0 : State} (s : State)
    (hK : Kept z0 s) : Kept z0 (failDeadline s) := by
  unfold failDeadline
  split
  · extract_lets left s1 src srcP s2 s3
    have h1 : Kept z0 s1 := drainAll_kept _ hK
    have h2 : Kept z0 s2 := dropEntries_kept _ (h1.trans ⟨rfl, rfl, rfl, rfl, rfl, rfl, id⟩)
    have h3 : Kept z0 s3 := stopFabric_kept _ (drainRec_kept _ _ _ h2)
    exact h3.trans ⟨rfl, rfl, rfl, rfl, rfl, rfl, id⟩
  · exact hK

theorem refLoss_kept {z0 : State} (s : State)
    (hK : Kept z0 s) : Kept z0 (refLoss s) := by
  unfold refLoss
  repeat' (first
    | with_reducible assumption
    | with_reducible apply stopDevice_kept
    | with_reducible refine Kept.ite (fun _ => ?_) (fun _ => ?_)
    | fail_if_no_progress ((with_reducible apply Kept.mk1) <;> (first | with_reducible assumption | with_reducible rfl | skip)))

theorem fullCycles_kept {z0 : State} (s : State)
    (hK : Kept z0 s) : Kept z0 (fullCycles s) := by
  unfold fullCycles
  repeat' (first
    | with_reducible assumption
    | with_reducible apply pmu_kept
    | with_reducible refine Kept.ite (fun _ => ?_) (fun _ => ?_)
    | fail_if_no_progress ((with_reducible apply Kept.mk1) <;> (first | with_reducible assumption | with_reducible rfl | skip))
    | with_reducible refine Kept.each (fun _ _ _ => ?_) ?_)

theorem startLive_kept {z0 : State} (s : State)
    (hK : Kept z0 s) : Kept z0 (startLive s) := by
  unfold startLive
  repeat' (first
    | with_reducible assumption
    | with_reducible refine Kept.ite (fun _ => ?_) (fun _ => ?_)
    | fail_if_no_progress ((with_reducible apply Kept.mk1) <;> (first | with_reducible assumption | with_reducible rfl | skip))
    | with_reducible refine Kept.each (fun _ _ _ => ?_) ?_
    | with_reducible refine Kept.foldl2 (fun _ _ _ => ?_) ?_
    | with_reducible refine Kept.foldl (fun _ _ _ => ?_) ?_
    | extract_lets
    | with_reducible refine Kept.slGood (z0 := z0) ?_ ?_
    | with_reducible apply Slice.good_slots
    | with_reducible apply Slice.putBlock_good
    | with_reducible apply Slice.putWord_good
    | with_reducible apply Slice.putPlru_good
    | with_reducible apply Slice.touchWay_good
    | with_reducible apply Slice.mendSlot_good
    | with_reducible apply Slice.mendTS_good
    | with_reducible apply Slice.hitWay_good
    | with_reducible apply Slice.dropMove_good
    | with_reducible apply Slice.outcome_good
    | with_reducible apply Slice.hintFill_good
    | with_reducible apply Slice.predFix_good
    | with_reducible apply Slice.hintSeen_good
    | with_reducible apply Slice.predAdd_good
    | with_reducible apply Slice.closeLow_good
    | with_reducible apply Slice.setLock_good
    | with_reducible apply Slice.flushPlru_good
    | with_reducible refine Slice.shAlloc_good ?_ (by with_reducible assumption)
    | with_reducible refine Slice.ensureShadow_good ?_ (by with_reducible assumption)
    | with_reducible refine Slice.demandLook_good ?_ (by with_reducible assumption)
    | fail_if_no_progress ((with_reducible apply Slice.good_mk) <;> (first | with_reducible assumption | with_reducible rfl | skip))
    | split)

theorem arbTick_kept {z0 : State} (s : State)
    (hK : Kept z0 s) : Kept z0 (arbTick s) := by
  unfold arbTick
  repeat' (first
    | with_reducible assumption
    | with_reducible apply arbIdle_kept
    | with_reducible refine Kept.ite (fun _ => ?_) (fun _ => ?_)
    | fail_if_no_progress ((with_reducible apply Kept.mk1) <;> (first | with_reducible assumption | with_reducible rfl | skip))
    | with_reducible refine Kept.each (fun _ _ _ => ?_) ?_)

theorem queueTick_kept {z0 : State} (s : State)
    (hK : Kept z0 s) : Kept z0 (queueTick s) := by
  unfold queueTick
  repeat' (first
    | with_reducible assumption
    | with_reducible apply drainOne_kept
    | with_reducible refine Kept.ite (fun _ => ?_) (fun _ => ?_)
    | fail_if_no_progress ((with_reducible apply Kept.mk1) <;> (first | with_reducible assumption | with_reducible rfl | skip))
    | with_reducible refine Kept.each (fun _ _ _ => ?_) ?_)

end Sys2Proof.Machine
end

