-- ==== Sys2Proof/Laws/State.lean ====
section
/-! SUPPORT. One lemma per field and update of the state: what an update of one part leaves of the others, and what it leaves in its own. -/

set_option Elab.async false

namespace Sys2Proof.Machine

@[simp] theorem State.setHp_pending (s : State) (p : Port) (h : HPort) : (s.setHp p h).pending = s.pending := rfl
@[simp] theorem State.setHp_out (s : State) (p : Port) (h : HPort) : (s.setHp p h).out = s.out := rfl
@[simp] theorem State.setHp_freeCtr (s : State) (p : Port) (h : HPort) : (s.setHp p h).freeCtr = s.freeCtr := rfl
@[simp] theorem State.setHp_sent (s : State) (p : Port) (h : HPort) : (s.setHp p h).sent = s.sent := rfl
@[simp] theorem State.setHp_seqNo (s : State) (p : Port) (h : HPort) : (s.setHp p h).seqNo = s.seqNo := rfl
@[simp] theorem State.setHp_node (s : State) (p : Port) (h : HPort) : (s.setHp p h).node = s.node := rfl
@[simp] theorem State.setHp_slices (s : State) (p : Port) (h : HPort) : (s.setHp p h).slices = s.slices := rfl
@[simp] theorem State.setHp_home (s : State) (p : Port) (h : HPort) : (s.setHp p h).home = s.home := rfl
@[simp] theorem State.setHp_stamp (s : State) (p : Port) (h : HPort) : (s.setHp p h).stamp = s.stamp := rfl
@[simp] theorem State.setHp_arb (s : State) (p : Port) (h : HPort) : (s.setHp p h).arb = s.arb := rfl
@[simp] theorem State.setHp_fports (s : State) (p : Port) (h : HPort) : (s.setHp p h).fports = s.fports := rfl
@[simp] theorem State.setHp_fabric (s : State) (p : Port) (h : HPort) : (s.setHp p h).fabric = s.fabric := rfl
@[simp] theorem State.setHp_mem (s : State) (p : Port) (h : HPort) : (s.setHp p h).mem = s.mem := rfl
@[simp] theorem State.setHp_integ (s : State) (p : Port) (h : HPort) : (s.setHp p h).integ = s.integ := rfl
@[simp] theorem State.setHp_fw (s : State) (p : Port) (h : HPort) : (s.setHp p h).fw = s.fw := rfl
@[simp] theorem State.setHp_mbx (s : State) (p : Port) (h : HPort) : (s.setHp p h).mbx = s.mbx := rfl
@[simp] theorem State.setHp_evq (s : State) (p : Port) (h : HPort) : (s.setHp p h).evq = s.evq := rfl
@[simp] theorem State.setHp_gen (s : State) (p : Port) (h : HPort) : (s.setHp p h).gen = s.gen := rfl
@[simp] theorem State.setHp_aon (s : State) (p : Port) (h : HPort) : (s.setHp p h).aon = s.aon := rfl
@[simp] theorem State.setHp_peat (s : State) (p : Port) (h : HPort) : (s.setHp p h).peat = s.peat := rfl
@[simp] theorem State.setHp_dbg (s : State) (p : Port) (h : HPort) : (s.setHp p h).dbg = s.dbg := rfl
@[simp] theorem State.setHp_tap (s : State) (p : Port) (h : HPort) : (s.setHp p h).tap = s.tap := rfl
@[simp] theorem State.setHp_crp (s : State) (p : Port) (h : HPort) : (s.setHp p h).crp = s.crp := rfl
@[simp] theorem State.setHp_pins (s : State) (p : Port) (h : HPort) : (s.setHp p h).pins = s.pins := rfl

@[simp] theorem State.modHp_pending (s : State) (p : Port) (f : HPort → HPort) : (s.modHp p f).pending = s.pending := rfl
@[simp] theorem State.modHp_out (s : State) (p : Port) (f : HPort → HPort) : (s.modHp p f).out = s.out := rfl
@[simp] theorem State.modHp_freeCtr (s : State) (p : Port) (f : HPort → HPort) : (s.modHp p f).freeCtr = s.freeCtr := rfl
@[simp] theorem State.modHp_sent (s : State) (p : Port) (f : HPort → HPort) : (s.modHp p f).sent = s.sent := rfl
@[simp] theorem State.modHp_seqNo (s : State) (p : Port) (f : HPort → HPort) : (s.modHp p f).seqNo = s.seqNo := rfl
@[simp] theorem State.modHp_node (s : State) (p : Port) (f : HPort → HPort) : (s.modHp p f).node = s.node := rfl
@[simp] theorem State.modHp_slices (s : State) (p : Port) (f : HPort → HPort) : (s.modHp p f).slices = s.slices := rfl
@[simp] theorem State.modHp_home (s : State) (p : Port) (f : HPort → HPort) : (s.modHp p f).home = s.home := rfl
@[simp] theorem State.modHp_stamp (s : State) (p : Port) (f : HPort → HPort) : (s.modHp p f).stamp = s.stamp := rfl
@[simp] theorem State.modHp_arb (s : State) (p : Port) (f : HPort → HPort) : (s.modHp p f).arb = s.arb := rfl
@[simp] theorem State.modHp_fports (s : State) (p : Port) (f : HPort → HPort) : (s.modHp p f).fports = s.fports := rfl
@[simp] theorem State.modHp_fabric (s : State) (p : Port) (f : HPort → HPort) : (s.modHp p f).fabric = s.fabric := rfl
@[simp] theorem State.modHp_mem (s : State) (p : Port) (f : HPort → HPort) : (s.modHp p f).mem = s.mem := rfl
@[simp] theorem State.modHp_integ (s : State) (p : Port) (f : HPort → HPort) : (s.modHp p f).integ = s.integ := rfl
@[simp] theorem State.modHp_fw (s : State) (p : Port) (f : HPort → HPort) : (s.modHp p f).fw = s.fw := rfl
@[simp] theorem State.modHp_mbx (s : State) (p : Port) (f : HPort → HPort) : (s.modHp p f).mbx = s.mbx := rfl
@[simp] theorem State.modHp_evq (s : State) (p : Port) (f : HPort → HPort) : (s.modHp p f).evq = s.evq := rfl
@[simp] theorem State.modHp_gen (s : State) (p : Port) (f : HPort → HPort) : (s.modHp p f).gen = s.gen := rfl
@[simp] theorem State.modHp_aon (s : State) (p : Port) (f : HPort → HPort) : (s.modHp p f).aon = s.aon := rfl
@[simp] theorem State.modHp_peat (s : State) (p : Port) (f : HPort → HPort) : (s.modHp p f).peat = s.peat := rfl
@[simp] theorem State.modHp_dbg (s : State) (p : Port) (f : HPort → HPort) : (s.modHp p f).dbg = s.dbg := rfl
@[simp] theorem State.modHp_tap (s : State) (p : Port) (f : HPort → HPort) : (s.modHp p f).tap = s.tap := rfl
@[simp] theorem State.modHp_crp (s : State) (p : Port) (f : HPort → HPort) : (s.modHp p f).crp = s.crp := rfl
@[simp] theorem State.modHp_pins (s : State) (p : Port) (f : HPort → HPort) : (s.modHp p f).pins = s.pins := rfl

@[simp] theorem State.setSl_pending (s : State) (i : SliceNo) (x : Slice) : (s.setSl i x).pending = s.pending := rfl
@[simp] theorem State.setSl_out (s : State) (i : SliceNo) (x : Slice) : (s.setSl i x).out = s.out := rfl
@[simp] theorem State.setSl_freeCtr (s : State) (i : SliceNo) (x : Slice) : (s.setSl i x).freeCtr = s.freeCtr := rfl
@[simp] theorem State.setSl_sent (s : State) (i : SliceNo) (x : Slice) : (s.setSl i x).sent = s.sent := rfl
@[simp] theorem State.setSl_seqNo (s : State) (i : SliceNo) (x : Slice) : (s.setSl i x).seqNo = s.seqNo := rfl
@[simp] theorem State.setSl_node (s : State) (i : SliceNo) (x : Slice) : (s.setSl i x).node = s.node := rfl
@[simp] theorem State.setSl_hports (s : State) (i : SliceNo) (x : Slice) : (s.setSl i x).hports = s.hports := rfl
@[simp] theorem State.setSl_home (s : State) (i : SliceNo) (x : Slice) : (s.setSl i x).home = s.home := rfl
@[simp] theorem State.setSl_stamp (s : State) (i : SliceNo) (x : Slice) : (s.setSl i x).stamp = s.stamp := rfl
@[simp] theorem State.setSl_arb (s : State) (i : SliceNo) (x : Slice) : (s.setSl i x).arb = s.arb := rfl
@[simp] theorem State.setSl_fports (s : State) (i : SliceNo) (x : Slice) : (s.setSl i x).fports = s.fports := rfl
@[simp] theorem State.setSl_fabric (s : State) (i : SliceNo) (x : Slice) : (s.setSl i x).fabric = s.fabric := rfl
@[simp] theorem State.setSl_mem (s : State) (i : SliceNo) (x : Slice) : (s.setSl i x).mem = s.mem := rfl
@[simp] theorem State.setSl_integ (s : State) (i : SliceNo) (x : Slice) : (s.setSl i x).integ = s.integ := rfl
@[simp] theorem State.setSl_fw (s : State) (i : SliceNo) (x : Slice) : (s.setSl i x).fw = s.fw := rfl
@[simp] theorem State.setSl_mbx (s : State) (i : SliceNo) (x : Slice) : (s.setSl i x).mbx = s.mbx := rfl
@[simp] theorem State.setSl_evq (s : State) (i : SliceNo) (x : Slice) : (s.setSl i x).evq = s.evq := rfl
@[simp] theorem State.setSl_gen (s : State) (i : SliceNo) (x : Slice) : (s.setSl i x).gen = s.gen := rfl
@[simp] theorem State.setSl_aon (s : State) (i : SliceNo) (x : Slice) : (s.setSl i x).aon = s.aon := rfl
@[simp] theorem State.setSl_peat (s : State) (i : SliceNo) (x : Slice) : (s.setSl i x).peat = s.peat := rfl
@[simp] theorem State.setSl_dbg (s : State) (i : SliceNo) (x : Slice) : (s.setSl i x).dbg = s.dbg := rfl
@[simp] theorem State.setSl_tap (s : State) (i : SliceNo) (x : Slice) : (s.setSl i x).tap = s.tap := rfl
@[simp] theorem State.setSl_crp (s : State) (i : SliceNo) (x : Slice) : (s.setSl i x).crp = s.crp := rfl
@[simp] theorem State.setSl_pins (s : State) (i : SliceNo) (x : Slice) : (s.setSl i x).pins = s.pins := rfl

@[simp] theorem State.modSl_pending (s : State) (i : SliceNo) (f : Slice → Slice) : (s.modSl i f).pending = s.pending := rfl
@[simp] theorem State.modSl_out (s : State) (i : SliceNo) (f : Slice → Slice) : (s.modSl i f).out = s.out := rfl
@[simp] theorem State.modSl_freeCtr (s : State) (i : SliceNo) (f : Slice → Slice) : (s.modSl i f).freeCtr = s.freeCtr := rfl
@[simp] theorem State.modSl_sent (s : State) (i : SliceNo) (f : Slice → Slice) : (s.modSl i f).sent = s.sent := rfl
@[simp] theorem State.modSl_seqNo (s : State) (i : SliceNo) (f : Slice → Slice) : (s.modSl i f).seqNo = s.seqNo := rfl
@[simp] theorem State.modSl_node (s : State) (i : SliceNo) (f : Slice → Slice) : (s.modSl i f).node = s.node := rfl
@[simp] theorem State.modSl_hports (s : State) (i : SliceNo) (f : Slice → Slice) : (s.modSl i f).hports = s.hports := rfl
@[simp] theorem State.modSl_home (s : State) (i : SliceNo) (f : Slice → Slice) : (s.modSl i f).home = s.home := rfl
@[simp] theorem State.modSl_stamp (s : State) (i : SliceNo) (f : Slice → Slice) : (s.modSl i f).stamp = s.stamp := rfl
@[simp] theorem State.modSl_arb (s : State) (i : SliceNo) (f : Slice → Slice) : (s.modSl i f).arb = s.arb := rfl
@[simp] theorem State.modSl_fports (s : State) (i : SliceNo) (f : Slice → Slice) : (s.modSl i f).fports = s.fports := rfl
@[simp] theorem State.modSl_fabric (s : State) (i : SliceNo) (f : Slice → Slice) : (s.modSl i f).fabric = s.fabric := rfl
@[simp] theorem State.modSl_mem (s : State) (i : SliceNo) (f : Slice → Slice) : (s.modSl i f).mem = s.mem := rfl
@[simp] theorem State.modSl_integ (s : State) (i : SliceNo) (f : Slice → Slice) : (s.modSl i f).integ = s.integ := rfl
@[simp] theorem State.modSl_fw (s : State) (i : SliceNo) (f : Slice → Slice) : (s.modSl i f).fw = s.fw := rfl
@[simp] theorem State.modSl_mbx (s : State) (i : SliceNo) (f : Slice → Slice) : (s.modSl i f).mbx = s.mbx := rfl
@[simp] theorem State.modSl_evq (s : State) (i : SliceNo) (f : Slice → Slice) : (s.modSl i f).evq = s.evq := rfl
@[simp] theorem State.modSl_gen (s : State) (i : SliceNo) (f : Slice → Slice) : (s.modSl i f).gen = s.gen := rfl
@[simp] theorem State.modSl_aon (s : State) (i : SliceNo) (f : Slice → Slice) : (s.modSl i f).aon = s.aon := rfl
@[simp] theorem State.modSl_peat (s : State) (i : SliceNo) (f : Slice → Slice) : (s.modSl i f).peat = s.peat := rfl
@[simp] theorem State.modSl_dbg (s : State) (i : SliceNo) (f : Slice → Slice) : (s.modSl i f).dbg = s.dbg := rfl
@[simp] theorem State.modSl_tap (s : State) (i : SliceNo) (f : Slice → Slice) : (s.modSl i f).tap = s.tap := rfl
@[simp] theorem State.modSl_crp (s : State) (i : SliceNo) (f : Slice → Slice) : (s.modSl i f).crp = s.crp := rfl
@[simp] theorem State.modSl_pins (s : State) (i : SliceNo) (f : Slice → Slice) : (s.modSl i f).pins = s.pins := rfl

@[simp] theorem State.setFp_pending (s : State) (f : FPortNo) (x : FPort) : (s.setFp f x).pending = s.pending := rfl
@[simp] theorem State.setFp_out (s : State) (f : FPortNo) (x : FPort) : (s.setFp f x).out = s.out := rfl
@[simp] theorem State.setFp_freeCtr (s : State) (f : FPortNo) (x : FPort) : (s.setFp f x).freeCtr = s.freeCtr := rfl
@[simp] theorem State.setFp_sent (s : State) (f : FPortNo) (x : FPort) : (s.setFp f x).sent = s.sent := rfl
@[simp] theorem State.setFp_seqNo (s : State) (f : FPortNo) (x : FPort) : (s.setFp f x).seqNo = s.seqNo := rfl
@[simp] theorem State.setFp_node (s : State) (f : FPortNo) (x : FPort) : (s.setFp f x).node = s.node := rfl
@[simp] theorem State.setFp_hports (s : State) (f : FPortNo) (x : FPort) : (s.setFp f x).hports = s.hports := rfl
@[simp] theorem State.setFp_slices (s : State) (f : FPortNo) (x : FPort) : (s.setFp f x).slices = s.slices := rfl
@[simp] theorem State.setFp_home (s : State) (f : FPortNo) (x : FPort) : (s.setFp f x).home = s.home := rfl
@[simp] theorem State.setFp_stamp (s : State) (f : FPortNo) (x : FPort) : (s.setFp f x).stamp = s.stamp := rfl
@[simp] theorem State.setFp_arb (s : State) (f : FPortNo) (x : FPort) : (s.setFp f x).arb = s.arb := rfl
@[simp] theorem State.setFp_fabric (s : State) (f : FPortNo) (x : FPort) : (s.setFp f x).fabric = s.fabric := rfl
@[simp] theorem State.setFp_mem (s : State) (f : FPortNo) (x : FPort) : (s.setFp f x).mem = s.mem := rfl
@[simp] theorem State.setFp_integ (s : State) (f : FPortNo) (x : FPort) : (s.setFp f x).integ = s.integ := rfl
@[simp] theorem State.setFp_fw (s : State) (f : FPortNo) (x : FPort) : (s.setFp f x).fw = s.fw := rfl
@[simp] theorem State.setFp_mbx (s : State) (f : FPortNo) (x : FPort) : (s.setFp f x).mbx = s.mbx := rfl
@[simp] theorem State.setFp_evq (s : State) (f : FPortNo) (x : FPort) : (s.setFp f x).evq = s.evq := rfl
@[simp] theorem State.setFp_gen (s : State) (f : FPortNo) (x : FPort) : (s.setFp f x).gen = s.gen := rfl
@[simp] theorem State.setFp_aon (s : State) (f : FPortNo) (x : FPort) : (s.setFp f x).aon = s.aon := rfl
@[simp] theorem State.setFp_peat (s : State) (f : FPortNo) (x : FPort) : (s.setFp f x).peat = s.peat := rfl
@[simp] theorem State.setFp_dbg (s : State) (f : FPortNo) (x : FPort) : (s.setFp f x).dbg = s.dbg := rfl
@[simp] theorem State.setFp_tap (s : State) (f : FPortNo) (x : FPort) : (s.setFp f x).tap = s.tap := rfl
@[simp] theorem State.setFp_crp (s : State) (f : FPortNo) (x : FPort) : (s.setFp f x).crp = s.crp := rfl
@[simp] theorem State.setFp_pins (s : State) (f : FPortNo) (x : FPort) : (s.setFp f x).pins = s.pins := rfl

@[simp] theorem State.modFp_pending (s : State) (f : FPortNo) (g : FPort → FPort) : (s.modFp f g).pending = s.pending := rfl
@[simp] theorem State.modFp_out (s : State) (f : FPortNo) (g : FPort → FPort) : (s.modFp f g).out = s.out := rfl
@[simp] theorem State.modFp_freeCtr (s : State) (f : FPortNo) (g : FPort → FPort) : (s.modFp f g).freeCtr = s.freeCtr := rfl
@[simp] theorem State.modFp_sent (s : State) (f : FPortNo) (g : FPort → FPort) : (s.modFp f g).sent = s.sent := rfl
@[simp] theorem State.modFp_seqNo (s : State) (f : FPortNo) (g : FPort → FPort) : (s.modFp f g).seqNo = s.seqNo := rfl
@[simp] theorem State.modFp_node (s : State) (f : FPortNo) (g : FPort → FPort) : (s.modFp f g).node = s.node := rfl
@[simp] theorem State.modFp_hports (s : State) (f : FPortNo) (g : FPort → FPort) : (s.modFp f g).hports = s.hports := rfl
@[simp] theorem State.modFp_slices (s : State) (f : FPortNo) (g : FPort → FPort) : (s.modFp f g).slices = s.slices := rfl
@[simp] theorem State.modFp_home (s : State) (f : FPortNo) (g : FPort → FPort) : (s.modFp f g).home = s.home := rfl
@[simp] theorem State.modFp_stamp (s : State) (f : FPortNo) (g : FPort → FPort) : (s.modFp f g).stamp = s.stamp := rfl
@[simp] theorem State.modFp_arb (s : State) (f : FPortNo) (g : FPort → FPort) : (s.modFp f g).arb = s.arb := rfl
@[simp] theorem State.modFp_fabric (s : State) (f : FPortNo) (g : FPort → FPort) : (s.modFp f g).fabric = s.fabric := rfl
@[simp] theorem State.modFp_mem (s : State) (f : FPortNo) (g : FPort → FPort) : (s.modFp f g).mem = s.mem := rfl
@[simp] theorem State.modFp_integ (s : State) (f : FPortNo) (g : FPort → FPort) : (s.modFp f g).integ = s.integ := rfl
@[simp] theorem State.modFp_fw (s : State) (f : FPortNo) (g : FPort → FPort) : (s.modFp f g).fw = s.fw := rfl
@[simp] theorem State.modFp_mbx (s : State) (f : FPortNo) (g : FPort → FPort) : (s.modFp f g).mbx = s.mbx := rfl
@[simp] theorem State.modFp_evq (s : State) (f : FPortNo) (g : FPort → FPort) : (s.modFp f g).evq = s.evq := rfl
@[simp] theorem State.modFp_gen (s : State) (f : FPortNo) (g : FPort → FPort) : (s.modFp f g).gen = s.gen := rfl
@[simp] theorem State.modFp_aon (s : State) (f : FPortNo) (g : FPort → FPort) : (s.modFp f g).aon = s.aon := rfl
@[simp] theorem State.modFp_peat (s : State) (f : FPortNo) (g : FPort → FPort) : (s.modFp f g).peat = s.peat := rfl
@[simp] theorem State.modFp_dbg (s : State) (f : FPortNo) (g : FPort → FPort) : (s.modFp f g).dbg = s.dbg := rfl
@[simp] theorem State.modFp_tap (s : State) (f : FPortNo) (g : FPort → FPort) : (s.modFp f g).tap = s.tap := rfl
@[simp] theorem State.modFp_crp (s : State) (f : FPortNo) (g : FPort → FPort) : (s.modFp f g).crp = s.crp := rfl
@[simp] theorem State.modFp_pins (s : State) (f : FPortNo) (g : FPort → FPort) : (s.modFp f g).pins = s.pins := rfl

@[simp] theorem State.setMb_pending (s : State) (p : Port) (x : Mbx) : (s.setMb p x).pending = s.pending := rfl
@[simp] theorem State.setMb_out (s : State) (p : Port) (x : Mbx) : (s.setMb p x).out = s.out := rfl
@[simp] theorem State.setMb_freeCtr (s : State) (p : Port) (x : Mbx) : (s.setMb p x).freeCtr = s.freeCtr := rfl
@[simp] theorem State.setMb_sent (s : State) (p : Port) (x : Mbx) : (s.setMb p x).sent = s.sent := rfl
@[simp] theorem State.setMb_seqNo (s : State) (p : Port) (x : Mbx) : (s.setMb p x).seqNo = s.seqNo := rfl
@[simp] theorem State.setMb_node (s : State) (p : Port) (x : Mbx) : (s.setMb p x).node = s.node := rfl
@[simp] theorem State.setMb_hports (s : State) (p : Port) (x : Mbx) : (s.setMb p x).hports = s.hports := rfl
@[simp] theorem State.setMb_slices (s : State) (p : Port) (x : Mbx) : (s.setMb p x).slices = s.slices := rfl
@[simp] theorem State.setMb_home (s : State) (p : Port) (x : Mbx) : (s.setMb p x).home = s.home := rfl
@[simp] theorem State.setMb_stamp (s : State) (p : Port) (x : Mbx) : (s.setMb p x).stamp = s.stamp := rfl
@[simp] theorem State.setMb_arb (s : State) (p : Port) (x : Mbx) : (s.setMb p x).arb = s.arb := rfl
@[simp] theorem State.setMb_fports (s : State) (p : Port) (x : Mbx) : (s.setMb p x).fports = s.fports := rfl
@[simp] theorem State.setMb_fabric (s : State) (p : Port) (x : Mbx) : (s.setMb p x).fabric = s.fabric := rfl
@[simp] theorem State.setMb_mem (s : State) (p : Port) (x : Mbx) : (s.setMb p x).mem = s.mem := rfl
@[simp] theorem State.setMb_integ (s : State) (p : Port) (x : Mbx) : (s.setMb p x).integ = s.integ := rfl
@[simp] theorem State.setMb_fw (s : State) (p : Port) (x : Mbx) : (s.setMb p x).fw = s.fw := rfl
@[simp] theorem State.setMb_evq (s : State) (p : Port) (x : Mbx) : (s.setMb p x).evq = s.evq := rfl
@[simp] theorem State.setMb_gen (s : State) (p : Port) (x : Mbx) : (s.setMb p x).gen = s.gen := rfl
@[simp] theorem State.setMb_aon (s : State) (p : Port) (x : Mbx) : (s.setMb p x).aon = s.aon := rfl
@[simp] theorem State.setMb_peat (s : State) (p : Port) (x : Mbx) : (s.setMb p x).peat = s.peat := rfl
@[simp] theorem State.setMb_dbg (s : State) (p : Port) (x : Mbx) : (s.setMb p x).dbg = s.dbg := rfl
@[simp] theorem State.setMb_tap (s : State) (p : Port) (x : Mbx) : (s.setMb p x).tap = s.tap := rfl
@[simp] theorem State.setMb_crp (s : State) (p : Port) (x : Mbx) : (s.setMb p x).crp = s.crp := rfl
@[simp] theorem State.setMb_pins (s : State) (p : Port) (x : Mbx) : (s.setMb p x).pins = s.pins := rfl

@[simp] theorem State.modMb_pending (s : State) (p : Port) (f : Mbx → Mbx) : (s.modMb p f).pending = s.pending := rfl
@[simp] theorem State.modMb_out (s : State) (p : Port) (f : Mbx → Mbx) : (s.modMb p f).out = s.out := rfl
@[simp] theorem State.modMb_freeCtr (s : State) (p : Port) (f : Mbx → Mbx) : (s.modMb p f).freeCtr = s.freeCtr := rfl
@[simp] theorem State.modMb_sent (s : State) (p : Port) (f : Mbx → Mbx) : (s.modMb p f).sent = s.sent := rfl
@[simp] theorem State.modMb_seqNo (s : State) (p : Port) (f : Mbx → Mbx) : (s.modMb p f).seqNo = s.seqNo := rfl
@[simp] theorem State.modMb_node (s : State) (p : Port) (f : Mbx → Mbx) : (s.modMb p f).node = s.node := rfl
@[simp] theorem State.modMb_hports (s : State) (p : Port) (f : Mbx → Mbx) : (s.modMb p f).hports = s.hports := rfl
@[simp] theorem State.modMb_slices (s : State) (p : Port) (f : Mbx → Mbx) : (s.modMb p f).slices = s.slices := rfl
@[simp] theorem State.modMb_home (s : State) (p : Port) (f : Mbx → Mbx) : (s.modMb p f).home = s.home := rfl
@[simp] theorem State.modMb_stamp (s : State) (p : Port) (f : Mbx → Mbx) : (s.modMb p f).stamp = s.stamp := rfl
@[simp] theorem State.modMb_arb (s : State) (p : Port) (f : Mbx → Mbx) : (s.modMb p f).arb = s.arb := rfl
@[simp] theorem State.modMb_fports (s : State) (p : Port) (f : Mbx → Mbx) : (s.modMb p f).fports = s.fports := rfl
@[simp] theorem State.modMb_fabric (s : State) (p : Port) (f : Mbx → Mbx) : (s.modMb p f).fabric = s.fabric := rfl
@[simp] theorem State.modMb_mem (s : State) (p : Port) (f : Mbx → Mbx) : (s.modMb p f).mem = s.mem := rfl
@[simp] theorem State.modMb_integ (s : State) (p : Port) (f : Mbx → Mbx) : (s.modMb p f).integ = s.integ := rfl
@[simp] theorem State.modMb_fw (s : State) (p : Port) (f : Mbx → Mbx) : (s.modMb p f).fw = s.fw := rfl
@[simp] theorem State.modMb_evq (s : State) (p : Port) (f : Mbx → Mbx) : (s.modMb p f).evq = s.evq := rfl
@[simp] theorem State.modMb_gen (s : State) (p : Port) (f : Mbx → Mbx) : (s.modMb p f).gen = s.gen := rfl
@[simp] theorem State.modMb_aon (s : State) (p : Port) (f : Mbx → Mbx) : (s.modMb p f).aon = s.aon := rfl
@[simp] theorem State.modMb_peat (s : State) (p : Port) (f : Mbx → Mbx) : (s.modMb p f).peat = s.peat := rfl
@[simp] theorem State.modMb_dbg (s : State) (p : Port) (f : Mbx → Mbx) : (s.modMb p f).dbg = s.dbg := rfl
@[simp] theorem State.modMb_tap (s : State) (p : Port) (f : Mbx → Mbx) : (s.modMb p f).tap = s.tap := rfl
@[simp] theorem State.modMb_crp (s : State) (p : Port) (f : Mbx → Mbx) : (s.modMb p f).crp = s.crp := rfl
@[simp] theorem State.modMb_pins (s : State) (p : Port) (f : Mbx → Mbx) : (s.modMb p f).pins = s.pins := rfl

@[simp] theorem State.setEq_pending (s : State) (p : Port) (x : Evq) : (s.setEq p x).pending = s.pending := rfl
@[simp] theorem State.setEq_out (s : State) (p : Port) (x : Evq) : (s.setEq p x).out = s.out := rfl
@[simp] theorem State.setEq_freeCtr (s : State) (p : Port) (x : Evq) : (s.setEq p x).freeCtr = s.freeCtr := rfl
@[simp] theorem State.setEq_sent (s : State) (p : Port) (x : Evq) : (s.setEq p x).sent = s.sent := rfl
@[simp] theorem State.setEq_seqNo (s : State) (p : Port) (x : Evq) : (s.setEq p x).seqNo = s.seqNo := rfl
@[simp] theorem State.setEq_node (s : State) (p : Port) (x : Evq) : (s.setEq p x).node = s.node := rfl
@[simp] theorem State.setEq_hports (s : State) (p : Port) (x : Evq) : (s.setEq p x).hports = s.hports := rfl
@[simp] theorem State.setEq_slices (s : State) (p : Port) (x : Evq) : (s.setEq p x).slices = s.slices := rfl
@[simp] theorem State.setEq_home (s : State) (p : Port) (x : Evq) : (s.setEq p x).home = s.home := rfl
@[simp] theorem State.setEq_stamp (s : State) (p : Port) (x : Evq) : (s.setEq p x).stamp = s.stamp := rfl
@[simp] theorem State.setEq_arb (s : State) (p : Port) (x : Evq) : (s.setEq p x).arb = s.arb := rfl
@[simp] theorem State.setEq_fports (s : State) (p : Port) (x : Evq) : (s.setEq p x).fports = s.fports := rfl
@[simp] theorem State.setEq_fabric (s : State) (p : Port) (x : Evq) : (s.setEq p x).fabric = s.fabric := rfl
@[simp] theorem State.setEq_mem (s : State) (p : Port) (x : Evq) : (s.setEq p x).mem = s.mem := rfl
@[simp] theorem State.setEq_integ (s : State) (p : Port) (x : Evq) : (s.setEq p x).integ = s.integ := rfl
@[simp] theorem State.setEq_fw (s : State) (p : Port) (x : Evq) : (s.setEq p x).fw = s.fw := rfl
@[simp] theorem State.setEq_mbx (s : State) (p : Port) (x : Evq) : (s.setEq p x).mbx = s.mbx := rfl
@[simp] theorem State.setEq_gen (s : State) (p : Port) (x : Evq) : (s.setEq p x).gen = s.gen := rfl
@[simp] theorem State.setEq_aon (s : State) (p : Port) (x : Evq) : (s.setEq p x).aon = s.aon := rfl
@[simp] theorem State.setEq_peat (s : State) (p : Port) (x : Evq) : (s.setEq p x).peat = s.peat := rfl
@[simp] theorem State.setEq_dbg (s : State) (p : Port) (x : Evq) : (s.setEq p x).dbg = s.dbg := rfl
@[simp] theorem State.setEq_tap (s : State) (p : Port) (x : Evq) : (s.setEq p x).tap = s.tap := rfl
@[simp] theorem State.setEq_crp (s : State) (p : Port) (x : Evq) : (s.setEq p x).crp = s.crp := rfl
@[simp] theorem State.setEq_pins (s : State) (p : Port) (x : Evq) : (s.setEq p x).pins = s.pins := rfl

@[simp] theorem State.modHome_pending (s : State) (f : Home → Home) : (s.modHome f).pending = s.pending := rfl
@[simp] theorem State.modHome_out (s : State) (f : Home → Home) : (s.modHome f).out = s.out := rfl
@[simp] theorem State.modHome_freeCtr (s : State) (f : Home → Home) : (s.modHome f).freeCtr = s.freeCtr := rfl
@[simp] theorem State.modHome_sent (s : State) (f : Home → Home) : (s.modHome f).sent = s.sent := rfl
@[simp] theorem State.modHome_seqNo (s : State) (f : Home → Home) : (s.modHome f).seqNo = s.seqNo := rfl
@[simp] theorem State.modHome_node (s : State) (f : Home → Home) : (s.modHome f).node = s.node := rfl
@[simp] theorem State.modHome_hports (s : State) (f : Home → Home) : (s.modHome f).hports = s.hports := rfl
@[simp] theorem State.modHome_slices (s : State) (f : Home → Home) : (s.modHome f).slices = s.slices := rfl
@[simp] theorem State.modHome_stamp (s : State) (f : Home → Home) : (s.modHome f).stamp = s.stamp := rfl
@[simp] theorem State.modHome_arb (s : State) (f : Home → Home) : (s.modHome f).arb = s.arb := rfl
@[simp] theorem State.modHome_fports (s : State) (f : Home → Home) : (s.modHome f).fports = s.fports := rfl
@[simp] theorem State.modHome_fabric (s : State) (f : Home → Home) : (s.modHome f).fabric = s.fabric := rfl
@[simp] theorem State.modHome_mem (s : State) (f : Home → Home) : (s.modHome f).mem = s.mem := rfl
@[simp] theorem State.modHome_integ (s : State) (f : Home → Home) : (s.modHome f).integ = s.integ := rfl
@[simp] theorem State.modHome_fw (s : State) (f : Home → Home) : (s.modHome f).fw = s.fw := rfl
@[simp] theorem State.modHome_mbx (s : State) (f : Home → Home) : (s.modHome f).mbx = s.mbx := rfl
@[simp] theorem State.modHome_evq (s : State) (f : Home → Home) : (s.modHome f).evq = s.evq := rfl
@[simp] theorem State.modHome_gen (s : State) (f : Home → Home) : (s.modHome f).gen = s.gen := rfl
@[simp] theorem State.modHome_aon (s : State) (f : Home → Home) : (s.modHome f).aon = s.aon := rfl
@[simp] theorem State.modHome_peat (s : State) (f : Home → Home) : (s.modHome f).peat = s.peat := rfl
@[simp] theorem State.modHome_dbg (s : State) (f : Home → Home) : (s.modHome f).dbg = s.dbg := rfl
@[simp] theorem State.modHome_tap (s : State) (f : Home → Home) : (s.modHome f).tap = s.tap := rfl
@[simp] theorem State.modHome_crp (s : State) (f : Home → Home) : (s.modHome f).crp = s.crp := rfl
@[simp] theorem State.modHome_pins (s : State) (f : Home → Home) : (s.modHome f).pins = s.pins := rfl

@[simp] theorem State.emit_pending (s : State) (o : Out) : (s.emit o).pending = s.pending := rfl
@[simp] theorem State.emit_freeCtr (s : State) (o : Out) : (s.emit o).freeCtr = s.freeCtr := rfl
@[simp] theorem State.emit_sent (s : State) (o : Out) : (s.emit o).sent = s.sent := rfl
@[simp] theorem State.emit_seqNo (s : State) (o : Out) : (s.emit o).seqNo = s.seqNo := rfl
@[simp] theorem State.emit_node (s : State) (o : Out) : (s.emit o).node = s.node := rfl
@[simp] theorem State.emit_hports (s : State) (o : Out) : (s.emit o).hports = s.hports := rfl
@[simp] theorem State.emit_slices (s : State) (o : Out) : (s.emit o).slices = s.slices := rfl
@[simp] theorem State.emit_home (s : State) (o : Out) : (s.emit o).home = s.home := rfl
@[simp] theorem State.emit_stamp (s : State) (o : Out) : (s.emit o).stamp = s.stamp := rfl
@[simp] theorem State.emit_arb (s : State) (o : Out) : (s.emit o).arb = s.arb := rfl
@[simp] theorem State.emit_fports (s : State) (o : Out) : (s.emit o).fports = s.fports := rfl
@[simp] theorem State.emit_fabric (s : State) (o : Out) : (s.emit o).fabric = s.fabric := rfl
@[simp] theorem State.emit_mem (s : State) (o : Out) : (s.emit o).mem = s.mem := rfl
@[simp] theorem State.emit_integ (s : State) (o : Out) : (s.emit o).integ = s.integ := rfl
@[simp] theorem State.emit_fw (s : State) (o : Out) : (s.emit o).fw = s.fw := rfl
@[simp] theorem State.emit_mbx (s : State) (o : Out) : (s.emit o).mbx = s.mbx := rfl
@[simp] theorem State.emit_evq (s : State) (o : Out) : (s.emit o).evq = s.evq := rfl
@[simp] theorem State.emit_gen (s : State) (o : Out) : (s.emit o).gen = s.gen := rfl
@[simp] theorem State.emit_aon (s : State) (o : Out) : (s.emit o).aon = s.aon := rfl
@[simp] theorem State.emit_peat (s : State) (o : Out) : (s.emit o).peat = s.peat := rfl
@[simp] theorem State.emit_dbg (s : State) (o : Out) : (s.emit o).dbg = s.dbg := rfl
@[simp] theorem State.emit_tap (s : State) (o : Out) : (s.emit o).tap = s.tap := rfl
@[simp] theorem State.emit_crp (s : State) (o : Out) : (s.emit o).crp = s.crp := rfl
@[simp] theorem State.emit_pins (s : State) (o : Out) : (s.emit o).pins = s.pins := rfl

@[simp] theorem State.tick1_pending (s : State)  : (s.tick1).pending = s.pending := rfl
@[simp] theorem State.tick1_out (s : State)  : (s.tick1).out = s.out := rfl
@[simp] theorem State.tick1_seqNo (s : State)  : (s.tick1).seqNo = s.seqNo := rfl
@[simp] theorem State.tick1_node (s : State)  : (s.tick1).node = s.node := rfl
@[simp] theorem State.tick1_hports (s : State)  : (s.tick1).hports = s.hports := rfl
@[simp] theorem State.tick1_slices (s : State)  : (s.tick1).slices = s.slices := rfl
@[simp] theorem State.tick1_home (s : State)  : (s.tick1).home = s.home := rfl
@[simp] theorem State.tick1_stamp (s : State)  : (s.tick1).stamp = s.stamp := rfl
@[simp] theorem State.tick1_arb (s : State)  : (s.tick1).arb = s.arb := rfl
@[simp] theorem State.tick1_fports (s : State)  : (s.tick1).fports = s.fports := rfl
@[simp] theorem State.tick1_fabric (s : State)  : (s.tick1).fabric = s.fabric := rfl
@[simp] theorem State.tick1_mem (s : State)  : (s.tick1).mem = s.mem := rfl
@[simp] theorem State.tick1_integ (s : State)  : (s.tick1).integ = s.integ := rfl
@[simp] theorem State.tick1_fw (s : State)  : (s.tick1).fw = s.fw := rfl
@[simp] theorem State.tick1_mbx (s : State)  : (s.tick1).mbx = s.mbx := rfl
@[simp] theorem State.tick1_evq (s : State)  : (s.tick1).evq = s.evq := rfl
@[simp] theorem State.tick1_gen (s : State)  : (s.tick1).gen = s.gen := rfl
@[simp] theorem State.tick1_aon (s : State)  : (s.tick1).aon = s.aon := rfl
@[simp] theorem State.tick1_peat (s : State)  : (s.tick1).peat = s.peat := rfl
@[simp] theorem State.tick1_dbg (s : State)  : (s.tick1).dbg = s.dbg := rfl
@[simp] theorem State.tick1_tap (s : State)  : (s.tick1).tap = s.tap := rfl
@[simp] theorem State.tick1_crp (s : State)  : (s.tick1).crp = s.crp := rfl
@[simp] theorem State.tick1_pins (s : State)  : (s.tick1).pins = s.pins := rfl

@[simp] theorem State.emit_out (s : State) (o : Out) : (s.emit o).out = s.out ++ [o] := rfl
@[simp] theorem State.tick1_freeCtr (s : State) : s.tick1.freeCtr = s.freeCtr + 1 := rfl
@[simp] theorem State.modHome_home (s : State) (f : Home → Home) : (s.modHome f).home = f s.home := rfl

@[simp] theorem State.setHp_hp (s : State) (p : Port) (x : HPort) : (s.setHp p x).hp p = x := by
  simp [State.hp, State.setHp]
@[simp] theorem State.modHp_hp (s : State) (p : Port) (k : HPort → HPort) : (s.modHp p k).hp p = k (s.hp p) :=
  State.setHp_hp s p _
theorem State.setHp_hp_other (s : State) {p q : Port} (x : HPort) (h : q ≠ p) : (s.setHp p x).hp q = s.hp q := by
  simp only [State.hp, State.setHp]
  exact Vector.getElem_set_ne _ _ fun e => h (Fin.ext e.symm)
theorem State.modHp_hp_other (s : State) {p q : Port} (k : HPort → HPort) (h : q ≠ p) :
    (s.modHp p k).hp q = s.hp q := State.setHp_hp_other s _ h
@[simp] theorem State.setHp_self (s : State) (p : Port) : s.setHp p (s.hp p) = s := by
  cases s; simp [State.setHp, State.hp]

@[simp] theorem State.setSl_sl (s : State) (i : SliceNo) (x : Slice) : (s.setSl i x).sl i = x := by
  simp [State.sl, State.setSl]
@[simp] theorem State.modSl_sl (s : State) (i : SliceNo) (k : Slice → Slice) : (s.modSl i k).sl i = k (s.sl i) :=
  State.setSl_sl s i _
theorem State.setSl_sl_other (s : State) {i q : SliceNo} (x : Slice) (h : q ≠ i) : (s.setSl i x).sl q = s.sl q := by
  simp only [State.sl, State.setSl]
  exact Vector.getElem_set_ne _ _ fun e => h (Fin.ext e.symm)
theorem State.modSl_sl_other (s : State) {i q : SliceNo} (k : Slice → Slice) (h : q ≠ i) :
    (s.modSl i k).sl q = s.sl q := State.setSl_sl_other s _ h
@[simp] theorem State.setSl_self (s : State) (i : SliceNo) : s.setSl i (s.sl i) = s := by
  cases s; simp [State.setSl, State.sl]

@[simp] theorem State.setFp_fp (s : State) (f : FPortNo) (x : FPort) : (s.setFp f x).fp f = x := by
  simp [State.fp, State.setFp]
@[simp] theorem State.modFp_fp (s : State) (f : FPortNo) (k : FPort → FPort) : (s.modFp f k).fp f = k (s.fp f) :=
  State.setFp_fp s f _
theorem State.setFp_fp_other (s : State) {f q : FPortNo} (x : FPort) (h : q ≠ f) : (s.setFp f x).fp q = s.fp q := by
  simp only [State.fp, State.setFp]
  exact Vector.getElem_set_ne _ _ fun e => h (Fin.ext e.symm)
theorem State.modFp_fp_other (s : State) {f q : FPortNo} (k : FPort → FPort) (h : q ≠ f) :
    (s.modFp f k).fp q = s.fp q := State.setFp_fp_other s _ h
@[simp] theorem State.setFp_self (s : State) (f : FPortNo) : s.setFp f (s.fp f) = s := by
  cases s; simp [State.setFp, State.fp]

@[simp] theorem State.setMb_mb (s : State) (p : Port) (x : Mbx) : (s.setMb p x).mb p = x := by
  simp [State.mb, State.setMb]
@[simp] theorem State.modMb_mb (s : State) (p : Port) (k : Mbx → Mbx) : (s.modMb p k).mb p = k (s.mb p) :=
  State.setMb_mb s p _
theorem State.setMb_mb_other (s : State) {p q : Port} (x : Mbx) (h : q ≠ p) : (s.setMb p x).mb q = s.mb q := by
  simp only [State.mb, State.setMb]
  exact Vector.getElem_set_ne _ _ fun e => h (Fin.ext e.symm)
theorem State.modMb_mb_other (s : State) {p q : Port} (k : Mbx → Mbx) (h : q ≠ p) :
    (s.modMb p k).mb q = s.mb q := State.setMb_mb_other s _ h
@[simp] theorem State.setMb_self (s : State) (p : Port) : s.setMb p (s.mb p) = s := by
  cases s; simp [State.setMb, State.mb]

@[simp] theorem State.setHp_sl (s : State) (p : Port) (h : HPort) (q : SliceNo) : (s.setHp p h).sl q = s.sl q := rfl
@[simp] theorem State.setHp_fp (s : State) (p : Port) (h : HPort) (q : FPortNo) : (s.setHp p h).fp q = s.fp q := rfl
@[simp] theorem State.setHp_mb (s : State) (p : Port) (h : HPort) (q : Port) : (s.setHp p h).mb q = s.mb q := rfl
@[simp] theorem State.setHp_eq (s : State) (p : Port) (h : HPort) (q : Port) : (s.setHp p h).eq q = s.eq q := rfl
@[simp] theorem State.modHp_sl (s : State) (p : Port) (f : HPort → HPort) (q : SliceNo) : (s.modHp p f).sl q = s.sl q := rfl
@[simp] theorem State.modHp_fp (s : State) (p : Port) (f : HPort → HPort) (q : FPortNo) : (s.modHp p f).fp q = s.fp q := rfl
@[simp] theorem State.modHp_mb (s : State) (p : Port) (f : HPort → HPort) (q : Port) : (s.modHp p f).mb q = s.mb q := rfl
@[simp] theorem State.modHp_eq (s : State) (p : Port) (f : HPort → HPort) (q : Port) : (s.modHp p f).eq q = s.eq q := rfl
@[simp] theorem State.setSl_hp (s : State) (i : SliceNo) (x : Slice) (q : Port) : (s.setSl i x).hp q = s.hp q := rfl
@[simp] theorem State.setSl_fp (s : State) (i : SliceNo) (x : Slice) (q : FPortNo) : (s.setSl i x).fp q = s.fp q := rfl
@[simp] theorem State.setSl_mb (s : State) (i : SliceNo) (x : Slice) (q : Port) : (s.setSl i x).mb q = s.mb q := rfl
@[simp] theorem State.setSl_eq (s : State) (i : SliceNo) (x : Slice) (q : Port) : (s.setSl i x).eq q = s.eq q := rfl
@[simp] theorem State.modSl_hp (s : State) (i : SliceNo) (f : Slice → Slice) (q : Port) : (s.modSl i f).hp q = s.hp q := rfl
@[simp] theorem State.modSl_fp (s : State) (i : SliceNo) (f : Slice → Slice) (q : FPortNo) : (s.modSl i f).fp q = s.fp q := rfl
@[simp] theorem State.modSl_mb (s : State) (i : SliceNo) (f : Slice → Slice) (q : Port) : (s.modSl i f).mb q = s.mb q := rfl
@[simp] theorem State.modSl_eq (s : State) (i : SliceNo) (f : Slice → Slice) (q : Port) : (s.modSl i f).eq q = s.eq q := rfl
@[simp] theorem State.setFp_hp (s : State) (f : FPortNo) (x : FPort) (q : Port) : (s.setFp f x).hp q = s.hp q := rfl
@[simp] theorem State.setFp_sl (s : State) (f : FPortNo) (x : FPort) (q : SliceNo) : (s.setFp f x).sl q = s.sl q := rfl
@[simp] theorem State.setFp_mb (s : State) (f : FPortNo) (x : FPort) (q : Port) : (s.setFp f x).mb q = s.mb q := rfl
@[simp] theorem State.setFp_eq (s : State) (f : FPortNo) (x : FPort) (q : Port) : (s.setFp f x).eq q = s.eq q := rfl
@[simp] theorem State.modFp_hp (s : State) (f : FPortNo) (g : FPort → FPort) (q : Port) : (s.modFp f g).hp q = s.hp q := rfl
@[simp] theorem State.modFp_sl (s : State) (f : FPortNo) (g : FPort → FPort) (q : SliceNo) : (s.modFp f g).sl q = s.sl q := rfl
@[simp] theorem State.modFp_mb (s : State) (f : FPortNo) (g : FPort → FPort) (q : Port) : (s.modFp f g).mb q = s.mb q := rfl
@[simp] theorem State.modFp_eq (s : State) (f : FPortNo) (g : FPort → FPort) (q : Port) : (s.modFp f g).eq q = s.eq q := rfl
@[simp] theorem State.setMb_hp (s : State) (p : Port) (x : Mbx) (q : Port) : (s.setMb p x).hp q = s.hp q := rfl
@[simp] theorem State.setMb_sl (s : State) (p : Port) (x : Mbx) (q : SliceNo) : (s.setMb p x).sl q = s.sl q := rfl
@[simp] theorem State.setMb_fp (s : State) (p : Port) (x : Mbx) (q : FPortNo) : (s.setMb p x).fp q = s.fp q := rfl
@[simp] theorem State.setMb_eq (s : State) (p : Port) (x : Mbx) (q : Port) : (s.setMb p x).eq q = s.eq q := rfl
@[simp] theorem State.modMb_hp (s : State) (p : Port) (f : Mbx → Mbx) (q : Port) : (s.modMb p f).hp q = s.hp q := rfl
@[simp] theorem State.modMb_sl (s : State) (p : Port) (f : Mbx → Mbx) (q : SliceNo) : (s.modMb p f).sl q = s.sl q := rfl
@[simp] theorem State.modMb_fp (s : State) (p : Port) (f : Mbx → Mbx) (q : FPortNo) : (s.modMb p f).fp q = s.fp q := rfl
@[simp] theorem State.modMb_eq (s : State) (p : Port) (f : Mbx → Mbx) (q : Port) : (s.modMb p f).eq q = s.eq q := rfl
@[simp] theorem State.setEq_hp (s : State) (p : Port) (x : Evq) (q : Port) : (s.setEq p x).hp q = s.hp q := rfl
@[simp] theorem State.setEq_sl (s : State) (p : Port) (x : Evq) (q : SliceNo) : (s.setEq p x).sl q = s.sl q := rfl
@[simp] theorem State.setEq_fp (s : State) (p : Port) (x : Evq) (q : FPortNo) : (s.setEq p x).fp q = s.fp q := rfl
@[simp] theorem State.setEq_mb (s : State) (p : Port) (x : Evq) (q : Port) : (s.setEq p x).mb q = s.mb q := rfl
@[simp] theorem State.modHome_hp (s : State) (f : Home → Home) (q : Port) : (s.modHome f).hp q = s.hp q := rfl
@[simp] theorem State.modHome_sl (s : State) (f : Home → Home) (q : SliceNo) : (s.modHome f).sl q = s.sl q := rfl
@[simp] theorem State.modHome_fp (s : State) (f : Home → Home) (q : FPortNo) : (s.modHome f).fp q = s.fp q := rfl
@[simp] theorem State.modHome_mb (s : State) (f : Home → Home) (q : Port) : (s.modHome f).mb q = s.mb q := rfl
@[simp] theorem State.modHome_eq (s : State) (f : Home → Home) (q : Port) : (s.modHome f).eq q = s.eq q := rfl
@[simp] theorem State.emit_hp (s : State) (o : Out) (q : Port) : (s.emit o).hp q = s.hp q := rfl
@[simp] theorem State.emit_sl (s : State) (o : Out) (q : SliceNo) : (s.emit o).sl q = s.sl q := rfl
@[simp] theorem State.emit_fp (s : State) (o : Out) (q : FPortNo) : (s.emit o).fp q = s.fp q := rfl
@[simp] theorem State.emit_mb (s : State) (o : Out) (q : Port) : (s.emit o).mb q = s.mb q := rfl
@[simp] theorem State.emit_eq (s : State) (o : Out) (q : Port) : (s.emit o).eq q = s.eq q := rfl
@[simp] theorem State.tick1_hp (s : State)  (q : Port) : (s.tick1).hp q = s.hp q := rfl
@[simp] theorem State.tick1_sl (s : State)  (q : SliceNo) : (s.tick1).sl q = s.sl q := rfl
@[simp] theorem State.tick1_fp (s : State)  (q : FPortNo) : (s.tick1).fp q = s.fp q := rfl
@[simp] theorem State.tick1_mb (s : State)  (q : Port) : (s.tick1).mb q = s.mb q := rfl
@[simp] theorem State.tick1_eq (s : State)  (q : Port) : (s.tick1).eq q = s.eq q := rfl

@[simp] theorem State.setEq_eq (s : State) (p : Port) (x : Evq) : (s.setEq p x).eq p = x := by simp [State.eq, State.setEq]
theorem State.setEq_eq_other (s : State) {p q : Port} (x : Evq) (h : q ≠ p) : (s.setEq p x).eq q = s.eq q := by
  simp only [State.eq, State.setEq]
  exact Vector.getElem_set_ne _ _ fun e => h (Fin.ext e.symm)

/-- With the clocks running a command has its effect. -/
theorem onClock_run {s : State} (h : s.clk = true) (f : State → State) : onClock s f = .next (f s) := by simp [onClock, h]
/-- With the clocks stopped the die keeps its state (R488). -/
theorem onClock_stopped {s : State} (h : s.clk = false) (f : State → State) : onClock s f = .next s := by simp [onClock, h]
/-- A command of the clocked domains always answers. -/
theorem onClock_next (s : State) (f : State → State) : onClock s f = .next (if s.clk then f s else s) := rfl
/-- A command of the always-on domain with its supply up. -/
theorem onAon_run {s : State} (h : s.aon.up = true) (f : State → State) : onAon s f = .next (f s) := by simp [onAon, h]
/-- A frozen die has no clocks. -/
theorem clk_of_frozen {s : State} (h : s.dbg.frozen = true) : s.clk = false := by simp [State.clk, h]

/-! ### A change of every slice, or of every port -/

theorem State.each_modSl_sl (g : SliceNo → Slice → Slice) (l : List SliceNo) (hn : l.Nodup) (s : State) (i : SliceNo) :
    (s.each l (fun s i => s.modSl i (g i))).sl i = if i ∈ l then g i (s.sl i) else s.sl i := by
  induction l generalizing s with
  | nil => rfl
  | cons a t ih =>
    have hat : a ∉ t := (List.nodup_cons.1 hn).1
    show ((s.modSl a (g a)).each t (fun s i => s.modSl i (g i))).sl i = _
    rw [ih (List.nodup_cons.1 hn).2]
    by_cases e : i = a
    · subst e; simp [hat]
    · simp [e, State.modSl_sl_other _ _ e]
theorem State.each_modSl_only (g : SliceNo → Slice → Slice) (l : List SliceNo) (s : State) :
    s.each l (fun s i => s.modSl i (g i)) = { s with slices := (s.each l (fun s i => s.modSl i (g i))).slices } := by
  induction l generalizing s with
  | nil => rfl
  | cons a t ih => exact ih (s.modSl a (g a))
/-- A change of every one of them, one after another, is the change of all. -/
theorem State.each_modSl (s : State) (g : Slice → Slice) : s.each sliceNos (fun s i => s.modSl i g) = { s with slices := s.slices.map g } := by
  rw [State.each_modSl_only (fun _ => g)]
  have e : (s.each sliceNos (fun s i => s.modSl i g)).slices = s.slices.map g := by
    ext k hk
    have := State.each_modSl_sl (fun _ => g) sliceNos (by decide) s ⟨k, hk⟩
    rw [if_pos ((by decide : ∀ x, x ∈ sliceNos) _)] at this
    simpa [State.sl] using this
  rw [e]
@[simp] theorem State.map_sl (s : State) (g : Slice → Slice) (i : SliceNo) : ({ s with slices := s.slices.map g } : State).sl i = g (s.sl i) := by
  simp [State.sl]

theorem State.each_modHp_hp (g : Port → HPort → HPort) (l : List Port) (hn : l.Nodup) (s : State) (i : Port) :
    (s.each l (fun s i => s.modHp i (g i))).hp i = if i ∈ l then g i (s.hp i) else s.hp i := by
  induction l generalizing s with
  | nil => rfl
  | cons a t ih =>
    have hat : a ∉ t := (List.nodup_cons.1 hn).1
    show ((s.modHp a (g a)).each t (fun s i => s.modHp i (g i))).hp i = _
    rw [ih (List.nodup_cons.1 hn).2]
    by_cases e : i = a
    · subst e; simp [hat]
    · simp [e, State.modHp_hp_other _ _ e]
theorem State.each_modHp_only (g : Port → HPort → HPort) (l : List Port) (s : State) :
    s.each l (fun s i => s.modHp i (g i)) = { s with hports := (s.each l (fun s i => s.modHp i (g i))).hports } := by
  induction l generalizing s with
  | nil => rfl
  | cons a t ih => exact ih (s.modHp a (g a))
/-- A change of every one of them, one after another, is the change of all. -/
theorem State.each_modHp (s : State) (g : HPort → HPort) : s.each ports (fun s i => s.modHp i g) = { s with hports := s.hports.map g } := by
  rw [State.each_modHp_only (fun _ => g)]
  have e : (s.each ports (fun s i => s.modHp i g)).hports = s.hports.map g := by
    ext k hk
    have := State.each_modHp_hp (fun _ => g) ports (by decide) s ⟨k, hk⟩
    rw [if_pos ((by decide : ∀ x, x ∈ ports) _)] at this
    simpa [State.hp] using this
  rw [e]
@[simp] theorem State.map_hp (s : State) (g : HPort → HPort) (i : Port) : ({ s with hports := s.hports.map g } : State).hp i = g (s.hp i) := by
  simp [State.hp]

@[simp] theorem State.each_nil {α : Type} (s : State) (f : State → α → State) : s.each [] f = s := rfl
theorem State.each_id {α : Type} (s : State) (l : List α) (f : State → α → State) (h : ∀ x ∈ l, f s x = s) : s.each l f = s := by
  induction l with
  | nil => rfl
  | cons a t ih =>
    have h1 : f s a = s := h a (by simp)
    show (f s a).each t f = s
    rw [h1]; exact ih (fun x hx => h x (by simp [hx]))

@[simp] theorem State.modFabric_pending (s : State) (f : Fabric → Fabric) : (s.modFabric f).pending = s.pending := rfl
@[simp] theorem State.modFabric_out (s : State) (f : Fabric → Fabric) : (s.modFabric f).out = s.out := rfl
@[simp] theorem State.modFabric_freeCtr (s : State) (f : Fabric → Fabric) : (s.modFabric f).freeCtr = s.freeCtr := rfl
@[simp] theorem State.modFabric_sent (s : State) (f : Fabric → Fabric) : (s.modFabric f).sent = s.sent := rfl
@[simp] theorem State.modFabric_seqNo (s : State) (f : Fabric → Fabric) : (s.modFabric f).seqNo = s.seqNo := rfl
@[simp] theorem State.modFabric_node (s : State) (f : Fabric → Fabric) : (s.modFabric f).node = s.node := rfl
@[simp] theorem State.modFabric_hports (s : State) (f : Fabric → Fabric) : (s.modFabric f).hports = s.hports := rfl
@[simp] theorem State.modFabric_slices (s : State) (f : Fabric → Fabric) : (s.modFabric f).slices = s.slices := rfl
@[simp] theorem State.modFabric_stamp (s : State) (f : Fabric → Fabric) : (s.modFabric f).stamp = s.stamp := rfl
@[simp] theorem State.modFabric_arb (s : State) (f : Fabric → Fabric) : (s.modFabric f).arb = s.arb := rfl
@[simp] theorem State.modFabric_fports (s : State) (f : Fabric → Fabric) : (s.modFabric f).fports = s.fports := rfl
@[simp] theorem State.modFabric_mem (s : State) (f : Fabric → Fabric) : (s.modFabric f).mem = s.mem := rfl
@[simp] theorem State.modFabric_integ (s : State) (f : Fabric → Fabric) : (s.modFabric f).integ = s.integ := rfl
@[simp] theorem State.modFabric_fw (s : State) (f : Fabric → Fabric) : (s.modFabric f).fw = s.fw := rfl
@[simp] theorem State.modFabric_mbx (s : State) (f : Fabric → Fabric) : (s.modFabric f).mbx = s.mbx := rfl
@[simp] theorem State.modFabric_evq (s : State) (f : Fabric → Fabric) : (s.modFabric f).evq = s.evq := rfl
@[simp] theorem State.modFabric_gen (s : State) (f : Fabric → Fabric) : (s.modFabric f).gen = s.gen := rfl
@[simp] theorem State.modFabric_aon (s : State) (f : Fabric → Fabric) : (s.modFabric f).aon = s.aon := rfl
@[simp] theorem State.modFabric_peat (s : State) (f : Fabric → Fabric) : (s.modFabric f).peat = s.peat := rfl
@[simp] theorem State.modFabric_dbg (s : State) (f : Fabric → Fabric) : (s.modFabric f).dbg = s.dbg := rfl
@[simp] theorem State.modFabric_tap (s : State) (f : Fabric → Fabric) : (s.modFabric f).tap = s.tap := rfl
@[simp] theorem State.modFabric_crp (s : State) (f : Fabric → Fabric) : (s.modFabric f).crp = s.crp := rfl
@[simp] theorem State.modFabric_pins (s : State) (f : Fabric → Fabric) : (s.modFabric f).pins = s.pins := rfl
@[simp] theorem State.modFabric_home (s : State) (f : Fabric → Fabric) : (s.modFabric f).home = s.home := rfl
@[simp] theorem State.modFabric_hp (s : State) (f : Fabric → Fabric) (q : Port) : (s.modFabric f).hp q = s.hp q := rfl
@[simp] theorem State.modFabric_sl (s : State) (f : Fabric → Fabric) (q : SliceNo) : (s.modFabric f).sl q = s.sl q := rfl
@[simp] theorem State.modFabric_fp (s : State) (f : Fabric → Fabric) (q : FPortNo) : (s.modFabric f).fp q = s.fp q := rfl
@[simp] theorem State.modFabric_mb (s : State) (f : Fabric → Fabric) (q : Port) : (s.modFabric f).mb q = s.mb q := rfl
@[simp] theorem State.modFabric_eq (s : State) (f : Fabric → Fabric) (q : Port) : (s.modFabric f).eq q = s.eq q := rfl
@[simp] theorem State.modFabric_fabric (s : State) (f : Fabric → Fabric) : (s.modFabric f).fabric = f s.fabric := rfl

@[simp] theorem State.modGen_pending (s : State) (f : Gen → Gen) : (s.modGen f).pending = s.pending := rfl
@[simp] theorem State.modGen_out (s : State) (f : Gen → Gen) : (s.modGen f).out = s.out := rfl
@[simp] theorem State.modGen_freeCtr (s : State) (f : Gen → Gen) : (s.modGen f).freeCtr = s.freeCtr := rfl
@[simp] theorem State.modGen_sent (s : State) (f : Gen → Gen) : (s.modGen f).sent = s.sent := rfl
@[simp] theorem State.modGen_seqNo (s : State) (f : Gen → Gen) : (s.modGen f).seqNo = s.seqNo := rfl
@[simp] theorem State.modGen_node (s : State) (f : Gen → Gen) : (s.modGen f).node = s.node := rfl
@[simp] theorem State.modGen_hports (s : State) (f : Gen → Gen) : (s.modGen f).hports = s.hports := rfl
@[simp] theorem State.modGen_slices (s : State) (f : Gen → Gen) : (s.modGen f).slices = s.slices := rfl
@[simp] theorem State.modGen_stamp (s : State) (f : Gen → Gen) : (s.modGen f).stamp = s.stamp := rfl
@[simp] theorem State.modGen_arb (s : State) (f : Gen → Gen) : (s.modGen f).arb = s.arb := rfl
@[simp] theorem State.modGen_fports (s : State) (f : Gen → Gen) : (s.modGen f).fports = s.fports := rfl
@[simp] theorem State.modGen_fabric (s : State) (f : Gen → Gen) : (s.modGen f).fabric = s.fabric := rfl
@[simp] theorem State.modGen_mem (s : State) (f : Gen → Gen) : (s.modGen f).mem = s.mem := rfl
@[simp] theorem State.modGen_integ (s : State) (f : Gen → Gen) : (s.modGen f).integ = s.integ := rfl
@[simp] theorem State.modGen_fw (s : State) (f : Gen → Gen) : (s.modGen f).fw = s.fw := rfl
@[simp] theorem State.modGen_mbx (s : State) (f : Gen → Gen) : (s.modGen f).mbx = s.mbx := rfl
@[simp] theorem State.modGen_evq (s : State) (f : Gen → Gen) : (s.modGen f).evq = s.evq := rfl
@[simp] theorem State.modGen_aon (s : State) (f : Gen → Gen) : (s.modGen f).aon = s.aon := rfl
@[simp] theorem State.modGen_peat (s : State) (f : Gen → Gen) : (s.modGen f).peat = s.peat := rfl
@[simp] theorem State.modGen_dbg (s : State) (f : Gen → Gen) : (s.modGen f).dbg = s.dbg := rfl
@[simp] theorem State.modGen_tap (s : State) (f : Gen → Gen) : (s.modGen f).tap = s.tap := rfl
@[simp] theorem State.modGen_crp (s : State) (f : Gen → Gen) : (s.modGen f).crp = s.crp := rfl
@[simp] theorem State.modGen_pins (s : State) (f : Gen → Gen) : (s.modGen f).pins = s.pins := rfl
@[simp] theorem State.modGen_home (s : State) (f : Gen → Gen) : (s.modGen f).home = s.home := rfl
@[simp] theorem State.modGen_hp (s : State) (f : Gen → Gen) (q : Port) : (s.modGen f).hp q = s.hp q := rfl
@[simp] theorem State.modGen_sl (s : State) (f : Gen → Gen) (q : SliceNo) : (s.modGen f).sl q = s.sl q := rfl
@[simp] theorem State.modGen_fp (s : State) (f : Gen → Gen) (q : FPortNo) : (s.modGen f).fp q = s.fp q := rfl
@[simp] theorem State.modGen_mb (s : State) (f : Gen → Gen) (q : Port) : (s.modGen f).mb q = s.mb q := rfl
@[simp] theorem State.modGen_eq (s : State) (f : Gen → Gen) (q : Port) : (s.modGen f).eq q = s.eq q := rfl
@[simp] theorem State.modGen_gen (s : State) (f : Gen → Gen) : (s.modGen f).gen = f s.gen := rfl

end Sys2Proof.Machine
end

