-- ==== Sys2Proof/Laws/Held.lean ====
section
/-! SUPPORT. What the commands of the always-on parts keep all the same: the queue, and the canonical form of the memories. -/

set_option Elab.async false

namespace Sys2Proof.Machine

/-- From state s to state t the queue stays as it is, and the memories stay good. -/
structure Held (s t : State) : Prop where
  pending : t.pending = s.pending
  good    : s.good → t.good

theorem Held.refl (s : State) : Held s s := ⟨rfl, id⟩
theorem Held.trans {a b c : State} (h : Held a b) (g : Held b c) : Held a c := ⟨g.1.trans h.1, fun x => g.2 (h.2 x)⟩
theorem Kept.held {s t : State} (h : Kept s t) : Held s t := ⟨h.pending, h.good⟩

/-- An update of the always-on parts, the die's memories untouched. -/
theorem Held.of_eq {a s t : State} (h : Held a s) (e1 : t.pending = s.pending) (e2 : t.mem = s.mem) (e3 : t.slices = s.slices) :
    Held a t :=
  ⟨e1.trans h.1, fun g => ⟨by rw [e2]; exact (h.2 g).1, fun i => by
    have := (h.2 g).2 i; simp only [State.sl] at this ⊢; rw [e3]; exact this⟩⟩

theorem Held.ite {a x y : State} {c : Prop} [Decidable c] (h1 : Held a x) (h2 : Held a y) : Held a (if c then x else y) := by
  split
  · exact h1
  · exact h2

theorem peatStore_held (r : PRec) (s : State) : Held s (peatStore r s) := (Held.refl s).of_eq rfl rfl rfl

theorem peatWrite_held (s : State) : Held s (peatWrite s) := by
  unfold peatWrite
  split
  · exact Held.refl s
  · split
    · refine Held.trans ?_ (peatStore_held _ _)
      exact (Held.refl s).of_eq rfl rfl rfl
    · refine Held.trans ?_ (peatStore_held _ _)
      exact (Held.refl s).of_eq rfl rfl rfl
    · exact Held.refl s

theorem smbData_held (s : State) : Held s (smbData s) := by
  unfold smbData
  split
  · exact (Held.refl s).of_eq rfl rfl rfl
  · exact (Held.refl s).of_eq rfl rfl rfl

theorem setIr_held (c : Byte) (s : State) : Held s (setIr c s) := (Held.refl s).of_eq rfl rfl rfl
theorem viaBypass_held (l : List Bool) (s : State) : Held s (viaBypass l s) := (Held.refl s).of_eq rfl rfl rfl
theorem viaBscan_held (l : List Bool) (s : State) : Held s (viaBscan l s) := (Held.refl s).of_eq rfl rfl rfl
theorem chainSelect_held (v : W32) (s : State) : Held s (chainSelect v s) := (Held.refl s).of_eq rfl rfl rfl
theorem chainShift_held (l : List Bool) (s : State) : Held s (chainShift l s) := (Held.refl s).of_eq rfl rfl rfl
theorem arraySelect_held (v : W32) (s : State) : Held s (arraySelect v s) := (Held.refl s).of_eq rfl rfl rfl
theorem arrayRead_held (s : State) : Held s (arrayRead s) := (Held.refl s).of_eq rfl rfl rfl

theorem tapIf_held (c : Byte) (b : Bool) (l : List Bool) (f : State → State) (s : State) (hf : ∀ t, Held t (f t)) :
    Held s (tapIf c b l f s) := by
  unfold tapIf
  split
  · exact (setIr_held c s).trans (hf _)
  · exact (setIr_held c s).trans (viaBypass_held _ _)

theorem mramRead_held (s : State) : Held s (mramRead s) := by
  unfold mramRead
  split
  · refine Held.trans ?_ (startRepairs_kept RepLoc.onDie _ (Kept.refl _)).held
    exact (Held.refl s).of_eq rfl rfl rfl
  · exact Held.refl s

theorem warmPin_held (s : State) : Held s (warmPin s) := by
  have h1 : Held s { s with pins := { s.pins with wrstN := false } } := (Held.refl s).of_eq rfl rfl rfl
  have h2 := h1.trans (assertCold_kept _ (Kept.refl _)).held
  unfold warmPin
  refine Held.ite h1 (Held.ite h2 (Held.ite h1 (Held.ite h2 ?_)))
  refine Held.trans ?_ (drainBegin_kept true _ (portsDrop_kept _ (Kept.refl _))).held
  exact (Held.refl s).of_eq rfl rfl rfl

theorem warmStart_held (s : State) : Held s (warmStart s) := by
  have h1 : Held s { s with aon := { s.aon with warmCnt := satInc16 s.aon.warmCnt } } := (Held.refl s).of_eq rfl rfl rfl
  have h2 := h1.trans (warmReset_kept _ (Kept.refl _)).held
  unfold warmStart
  exact Held.ite (Held.ite (h2.of_eq rfl rfl rfl) (h1.trans (restartCold_kept _ (Kept.refl _)).held)) h2

theorem warmDeadline_held (s : State) : Held s (warmDeadline s) := by
  unfold warmDeadline
  split
  · extract_lets left q s1 srcA s2 s3 srcC src s4
    have h1 : Held s s1 := (Kept.each (fun _ _ h => State.modSl_kept h fun _ => Slice.flushPlru_good) (Kept.refl s)).held
    have hA : Held s { s1 with aon := { s1.aon with quiet := q } } := h1.of_eq rfl rfl rfl
    have h2 : Held s s2 := hA.trans (flood_kept _ _ _ (Kept.refl _)).held
    clear_value s1 s2
    have h3 : Held s s3 := h2.trans (drainRec_kept _ _ _ (Kept.refl _)).held
    have h5 : Held s srcC := h3.trans (dropEntries_kept _ (Kept.refl _)).held
    clear_value srcC
    have hC : Held s { srcC with crp := { s3.crp with drained := true } } := h5.of_eq rfl rfl rfl
    have h4 : Held s s4 := hC.trans (stopFabric_kept _ (Kept.refl _)).held
    clear_value s4
    exact Held.ite (h4.trans (warmStart_held _)) h4
  · exact Held.refl s

theorem warmRelease_held (s : State) : Held s (warmRelease s) := by
  have h0 : Held s { s with pins := { s.pins with wrstN := true } } := (Held.refl s).of_eq rfl rfl rfl
  unfold warmRelease
  refine Held.ite (Held.ite ?_ h0) (Held.ite (Held.ite ?_ (Held.ite (h0.trans (warmStart_held _)) h0)) h0)
  · exact h0.trans (beginCold_kept _ (Kept.refl _)).held
  · exact h0.trans (beginCold_kept _ (assertCold_kept _ (Kept.refl _))).held

theorem railsDown_held (b : Bool) (s : State) : Held s (railsDown b s) := by
  have h := (coldReset_kept 1 s (Kept.refl s)).held
  unfold railsDown
  dsimp only
  split
  · exact h.of_eq rfl rfl rfl
  · exact h.of_eq rfl rfl rfl

theorem supplyRise_held (s : State) : Held s (supplyRise s) := ((coldReset_kept 0 s (Kept.refl s)).held).of_eq rfl rfl rfl

theorem railTrip_held (b : Bool) (s : State) : Held s (railTrip b s) := by
  unfold railTrip
  split
  · exact railsDown_held _ _
  · split
    · exact (failDrain_kept _ (Kept.refl _)).held
    · exact Held.refl s

theorem tempSample_held (t : List Byte) (s : State) : Held s (tempSample t s) := by
  unfold tempSample
  dsimp only
  split
  · split
    · refine Held.trans ?_ (stopAt_kept _ _ _ _ _ (Kept.refl _)).held
      refine Held.ite ?_ ?_
      · exact ⟨rfl, fun g => g⟩
      · exact (Held.refl s).of_eq rfl rfl rfl
    · refine Held.ite ?_ ?_
      · exact ⟨rfl, fun g => g⟩
      · exact (Held.refl s).of_eq rfl rfl rfl
  · refine Held.ite ?_ ?_
    · exact ⟨rfl, fun g => g⟩
    · exact (Held.refl s).of_eq rfl rfl rfl

theorem aonTick_held (s : State) : Held s (aonTick s) := by
  unfold aonTick
  dsimp only
  split
  · exact (Held.refl s).of_eq rfl rfl rfl
  · exact Held.refl s

theorem clockTick_held (s : State) : Held s (clockTick s) := by
  unfold clockTick
  extract_lets u srcH srcG s1
  have h0 : Kept s u := voteRepair_kept _ (Kept.refl s)
  have h1 : Kept s s1 := Kept.mk1 h0 rfl rfl rfl rfl rfl rfl rfl
  clear_value s1
  exact (quietStep_kept _ (downMoves_kept _ (startLive_kept _ (queueTick_kept _ (fullCycles_kept _ (arbTick_kept _ (switchTick_kept _
    (Kept.each (fun _ _ h => runRegs_kept _ _ _ h) h1)))))))).held

theorem tick_held (s : State) : Held s (tick s) := by
  unfold tick
  split
  · exact (aonTick_held s).trans (clockTick_held _)
  · exact aonTick_held s

end Sys2Proof.Machine
end

