-- ==== Sys2Proof/Laws/HomeKept.lean ====
section
/-! SUPPORT. How `HomeKept` is proved of a function: by the updates, choices and runs it is made of. -/

set_option Elab.async false

namespace Sys2Proof.Machine

theorem HomeKept.refl (s : State) : HomeKept s s := ⟨rfl, rfl⟩

theorem HomeKept.trans {a b c : State} (h : HomeKept a b) (g : HomeKept b c) : HomeKept a c := ⟨g.1.trans h.1, g.2.trans h.2⟩

/-- An update of other parts. -/
theorem HomeKept.mk1 {a s : State} {out sent freeCtr seqNo node hports slices home stamp arb fports fabric mem integ fw mbx evq gen aon peat dbg tap crp pins}
    (h : HomeKept a s) (e1 : home.core = s.home.core) (e2 : mem.lines = s.mem.lines) :
    HomeKept a (State.mk s.pending out sent freeCtr seqNo node hports slices home stamp arb fports fabric mem integ fw mbx evq gen aon peat
      dbg tap crp pins) := ⟨e1.trans h.1, e2.trans h.2⟩

/-- A run over a list. -/
theorem HomeKept.foldl {α : Type} {a s : State} {l : List α} {f : State → α → State} (hf : ∀ t x, HomeKept a t → HomeKept a (f t x))
    (h : HomeKept a s) : HomeKept a (l.foldl f s) := by
  induction l generalizing s with
  | nil => exact h
  | cons x l ih => exact ih (hf s x h)

theorem HomeKept.foldl2 {α β : Type} {a : State} {z : β × State} {l : List α} {f : β × State → α → β × State}
    (hf : ∀ y x, HomeKept a y.2 → HomeKept a (f y x).2) (h : HomeKept a z.2) : HomeKept a (l.foldl f z).2 := by
  induction l generalizing z with
  | nil => exact h
  | cons x l ih => exact ih (hf z x h)

theorem HomeKept.each {α : Type} {a s : State} {l : List α} {f : State → α → State} (hf : ∀ t x, HomeKept a t → HomeKept a (f t x))
    (h : HomeKept a s) : HomeKept a (s.each l f) := HomeKept.foldl hf h

/-- The state of a pair. -/
theorem HomeKept.of_snd {α : Type} {a s : State} {p : α × State} {x : α} (e : p = (x, s)) (h : HomeKept a p.2) : HomeKept a s := by
  rw [e] at h; exact h

/-- A choice. -/
theorem HomeKept.ite {a x y : State} {c : Prop} [Decidable c] (h1 : c → HomeKept a x) (h2 : ¬c → HomeKept a y) :
    HomeKept a (if c then x else y) := by
  split
  · exact h1 ‹_›
  · exact h2 ‹_›

/-- A change of the home agent's counters. -/
theorem HomeKept.counters {z0 s : State} {f : Home → Home} (h : HomeKept z0 s) (hf : ∀ x : Home, (f x).core = x.core) :
    HomeKept z0 (s.modHome f) := ⟨(hf _).trans h.1, h.2⟩

end Sys2Proof.Machine
end

