-- ==== Sys2Proof/Laws/HomeKeptOps.lean ====
section
/-! SUPPORT. `HomeKept` of the functions of the named operations, completions, stops, and reads and writes of the memories: one lemma per function. -/

set_option linter.unusedVariables false
set_option linter.unusedTactic false
set_option linter.unreachableTactic false

namespace Sys2Proof.Machine

theorem State.setHp_homeKept {z0 : State} (s : State) (p : Port) (h : HPort)
    (hK : HomeKept z0 s) : HomeKept z0 (State.setHp s p h) := by
  unfold State.setHp
  repeat' (first
    | with_reducible assumption
    | with_reducible refine HomeKept.ite (fun _ => ?_) (fun _ => ?_)
    | fail_if_no_progress ((with_reducible apply HomeKept.mk1) <;> (first | with_reducible assumption | with_reducible rfl | skip)))

theorem State.modHp_homeKept {z0 : State} (s : State) (p : Port) (f : HPort → HPort)
    (hK : HomeKept z0 s) : HomeKept z0 (State.modHp s p f) := by
  unfold State.modHp
  repeat' (first
    | with_reducible assumption
    | with_reducible apply State.setHp_homeKept)

theorem State.setSl_homeKept {z0 : State} (s : State) (i : SliceNo) (x : Slice)
    (hK : HomeKept z0 s) : HomeKept z0 (State.setSl s i x) := by
  unfold State.setSl
  repeat' (first
    | with_reducible assumption
    | with_reducible refine HomeKept.ite (fun _ => ?_) (fun _ => ?_)
    | fail_if_no_progress ((with_reducible apply HomeKept.mk1) <;> (first | with_reducible assumption | with_reducible rfl | skip)))

theorem State.modSl_homeKept {z0 : State} (s : State) (i : SliceNo) (f : Slice → Slice)
    (hK : HomeKept z0 s) : HomeKept z0 (State.modSl s i f) := by
  unfold State.modSl
  repeat' (first
    | with_reducible assumption
    | with_reducible apply State.setSl_homeKept)

theorem State.setFp_homeKept {z0 : State} (s : State) (f : FPortNo) (x : FPort)
    (hK : HomeKept z0 s) : HomeKept z0 (State.setFp s f x) := by
  unfold State.setFp
  repeat' (first
    | with_reducible assumption
    | with_reducible refine HomeKept.ite (fun _ => ?_) (fun _ => ?_)
    | fail_if_no_progress ((with_reducible apply HomeKept.mk1) <;> (first | with_reducible assumption | with_reducible rfl | skip)))

theorem State.modFp_homeKept {z0 : State} (s : State) (f : FPortNo) (g : FPort → FPort)
    (hK : HomeKept z0 s) : HomeKept z0 (State.modFp s f g) := by
  unfold State.modFp
  repeat' (first
    | with_reducible assumption
    | with_reducible apply State.setFp_homeKept)

theorem State.setMb_homeKept {z0 : State} (s : State) (p : Port) (x : Mbx)
    (hK : HomeKept z0 s) : HomeKept z0 (State.setMb s p x) := by
  unfold State.setMb
  repeat' (first
    | with_reducible assumption
    | with_reducible refine HomeKept.ite (fun _ => ?_) (fun _ => ?_)
    | fail_if_no_progress ((with_reducible apply HomeKept.mk1) <;> (first | with_reducible assumption | with_reducible rfl | skip)))

theorem State.modMb_homeKept {z0 : State} (s : State) (p : Port) (f : Mbx → Mbx)
    (hK : HomeKept z0 s) : HomeKept z0 (State.modMb s p f) := by
  unfold State.modMb
  repeat' (first
    | with_reducible assumption
    | with_reducible apply State.setMb_homeKept)

theorem State.setEq_homeKept {z0 : State} (s : State) (p : Port) (x : Evq)
    (hK : HomeKept z0 s) : HomeKept z0 (State.setEq s p x) := by
  unfold State.setEq
  repeat' (first
    | with_reducible assumption
    | with_reducible refine HomeKept.ite (fun _ => ?_) (fun _ => ?_)
    | fail_if_no_progress ((with_reducible apply HomeKept.mk1) <;> (first | with_reducible assumption | with_reducible rfl | skip)))

theorem State.modFabric_homeKept {z0 : State} (s : State) (f : Fabric → Fabric)
    (hK : HomeKept z0 s) : HomeKept z0 (State.modFabric s f) := by
  unfold State.modFabric
  repeat' (first
    | with_reducible assumption
    | with_reducible refine HomeKept.ite (fun _ => ?_) (fun _ => ?_)
    | fail_if_no_progress ((with_reducible apply HomeKept.mk1) <;> (first | with_reducible assumption | with_reducible rfl | skip)))

theorem State.emit_homeKept {z0 : State} (s : State) (o : Out)
    (hK : HomeKept z0 s) : HomeKept z0 (State.emit s o) := by
  unfold State.emit
  repeat' (first
    | with_reducible assumption
    | with_reducible refine HomeKept.ite (fun _ => ?_) (fun _ => ?_)
    | fail_if_no_progress ((with_reducible apply HomeKept.mk1) <;> (first | with_reducible assumption | with_reducible rfl | skip)))

theorem State.tick1_homeKept {z0 : State} (s : State)
    (hK : HomeKept z0 s) : HomeKept z0 (State.tick1 s) := by
  unfold State.tick1
  repeat' (first
    | with_reducible assumption
    | with_reducible refine HomeKept.ite (fun _ => ?_) (fun _ => ?_)
    | fail_if_no_progress ((with_reducible apply HomeKept.mk1) <;> (first | with_reducible assumption | with_reducible rfl | skip)))

theorem toHost_homeKept {z0 : State} (p : Port) (m : ToHost) (s : State)
    (hK : HomeKept z0 s) : HomeKept z0 (toHost p m s) := by
  unfold toHost
  repeat' (first
    | with_reducible assumption
    | with_reducible apply State.setHp_homeKept
    | with_reducible apply State.emit_homeKept
    | with_reducible refine HomeKept.ite (fun _ => ?_) (fun _ => ?_)
    | fail_if_no_progress ((with_reducible apply HomeKept.mk1) <;> (first | with_reducible assumption | with_reducible rfl | skip))
    | with_reducible refine HomeKept.each (fun _ _ _ => ?_) ?_
    | with_reducible refine HomeKept.foldl2 (fun _ _ _ => ?_) ?_
    | with_reducible refine HomeKept.foldl (fun _ _ _ => ?_) ?_
    | extract_lets
    | with_reducible apply HomeKept.counters
    | with_reducible rfl
    | split)

theorem msixCheck_homeKept {z0 : State} (p : Port) (s : State)
    (hK : HomeKept z0 s) : HomeKept z0 (msixCheck p s) := by
  unfold msixCheck
  repeat' (first
    | with_reducible assumption
    | with_reducible apply State.modHp_homeKept
    | with_reducible apply toHost_homeKept
    | with_reducible refine HomeKept.ite (fun _ => ?_) (fun _ => ?_))

theorem msixAll_homeKept {z0 : State} (s : State)
    (hK : HomeKept z0 s) : HomeKept z0 (msixAll s) := by
  unfold msixAll
  repeat' (first
    | with_reducible assumption
    | with_reducible apply msixCheck_homeKept
    | with_reducible refine HomeKept.ite (fun _ => ?_) (fun _ => ?_)
    | fail_if_no_progress ((with_reducible apply HomeKept.mk1) <;> (first | with_reducible assumption | with_reducible rfl | skip))
    | with_reducible refine HomeKept.each (fun _ _ _ => ?_) ?_)

theorem peatOwn_homeKept {z0 : State} (r : PRec) (s : State)
    (hK : HomeKept z0 s) : HomeKept z0 (peatOwn r s) := by
  unfold peatOwn
  repeat' (first
    | with_reducible assumption
    | with_reducible refine HomeKept.ite (fun _ => ?_) (fun _ => ?_)
    | fail_if_no_progress ((with_reducible apply HomeKept.mk1) <;> (first | with_reducible assumption | with_reducible rfl | skip)))

theorem peatEnter_homeKept {z0 : State} (r : PRec) (s : State)
    (hK : HomeKept z0 s) : HomeKept z0 (peatEnter r s) := by
  unfold peatEnter
  repeat' (first
    | with_reducible assumption
    | with_reducible refine HomeKept.ite (fun _ => ?_) (fun _ => ?_)
    | fail_if_no_progress ((with_reducible apply HomeKept.mk1) <;> (first | with_reducible assumption | with_reducible rfl | skip)))

theorem freezeDie_homeKept {z0 : State} (src : BitVec 3) (code : Byte) (s : State)
    (hK : HomeKept z0 s) : HomeKept z0 (freezeDie src code s) := by
  unfold freezeDie
  repeat' (first
    | with_reducible assumption
    | with_reducible apply peatOwn_homeKept
    | with_reducible refine HomeKept.ite (fun _ => ?_) (fun _ => ?_)
    | fail_if_no_progress ((with_reducible apply HomeKept.mk1) <;> (first | with_reducible assumption | with_reducible rfl | skip)))

theorem freezeOnEvent_homeKept {z0 : State} (code : Byte) (s : State)
    (hK : HomeKept z0 s) : HomeKept z0 (freezeOnEvent code s) := by
  unfold freezeOnEvent
  repeat' (first
    | with_reducible assumption
    | with_reducible apply freezeDie_homeKept
    | with_reducible refine HomeKept.ite (fun _ => ?_) (fun _ => ?_))

theorem postTo_homeKept {z0 : State} (p : Port) (code : Byte) (cls : Nat) (pl : List W64) (s : State)
    (hK : HomeKept z0 s) : HomeKept z0 (postTo p code cls pl s) := by
  unfold postTo
  repeat' (first
    | with_reducible assumption
    | with_reducible apply State.setEq_homeKept
    | with_reducible apply msixCheck_homeKept
    | with_reducible refine HomeKept.ite (fun _ => ?_) (fun _ => ?_))

theorem postEvent_homeKept {z0 : State} (code : Byte) (cls : Nat) (pl : List W64) (s : State)
    (hK : HomeKept z0 s) : HomeKept z0 (postEvent code cls pl s) := by
  unfold postEvent
  repeat' (first
    | with_reducible assumption
    | with_reducible apply freezeOnEvent_homeKept
    | with_reducible apply postTo_homeKept
    | with_reducible refine HomeKept.ite (fun _ => ?_) (fun _ => ?_)
    | fail_if_no_progress ((with_reducible apply HomeKept.mk1) <;> (first | with_reducible assumption | with_reducible rfl | skip))
    | with_reducible refine HomeKept.each (fun _ _ _ => ?_) ?_)

theorem postCmd_homeKept {z0 : State} (p : Port) (code : Byte) (pl : List W64) (s : State)
    (hK : HomeKept z0 s) : HomeKept z0 (postCmd p code pl s) := by
  unfold postCmd
  repeat' (first
    | with_reducible assumption
    | with_reducible apply freezeOnEvent_homeKept
    | with_reducible apply postTo_homeKept)

theorem evCfgDiscard_homeKept {z0 : State} (off : Nat) (m : Master) (v : W32) (s : State)
    (hK : HomeKept z0 s) : HomeKept z0 (evCfgDiscard off m v s) := by
  unfold evCfgDiscard
  repeat' (first
    | with_reducible assumption
    | with_reducible apply postEvent_homeKept)

theorem evProto_homeKept {z0 : State} (cause : Nat) (src : NodeId) (l : LAddr) (s : State)
    (hK : HomeKept z0 s) : HomeKept z0 (evProto cause src l s) := by
  unfold evProto
  repeat' (first
    | with_reducible assumption
    | with_reducible apply postEvent_homeKept
    | with_reducible refine HomeKept.ite (fun _ => ?_) (fun _ => ?_)
    | fail_if_no_progress ((with_reducible apply HomeKept.mk1) <;> (first | with_reducible assumption | with_reducible rfl | skip)))

theorem evQuarantine_homeKept {z0 : State} (l : LAddr) (s : State)
    (hK : HomeKept z0 s) : HomeKept z0 (evQuarantine l s) := by
  unfold evQuarantine
  repeat' (first
    | with_reducible assumption
    | with_reducible apply postEvent_homeKept)

theorem evPoisoned_homeKept {z0 : State} (l : LAddr) (rule : Nat) (s : State)
    (hK : HomeKept z0 s) : HomeKept z0 (evPoisoned l rule s) := by
  unfold evPoisoned
  repeat' (first
    | with_reducible assumption
    | with_reducible apply postEvent_homeKept)

theorem evAddrErr_homeKept {z0 : State} (a : GAddr) (p : Port) (s : State)
    (hK : HomeKept z0 s) : HomeKept z0 (evAddrErr a p s) := by
  unfold evAddrErr
  repeat' (first
    | with_reducible assumption
    | with_reducible apply postEvent_homeKept)

theorem evDeadDone_homeKept {z0 : State} (l : LAddr) (p : Port) (store : Bool) (s : State)
    (hK : HomeKept z0 s) : HomeKept z0 (evDeadDone l p store s) := by
  unfold evDeadDone
  repeat' (first
    | with_reducible assumption
    | with_reducible apply postEvent_homeKept)

theorem evSnoopLate_homeKept {z0 : State} (l : LAddr) (p : Port) (timedOut : Bool) (s : State)
    (hK : HomeKept z0 s) : HomeKept z0 (evSnoopLate l p timedOut s) := by
  unfold evSnoopLate
  repeat' (first
    | with_reducible assumption
    | with_reducible apply postEvent_homeKept)

theorem hostErr_homeKept {z0 : State} (p : Port) (cause : Nat) (opc : BitVec 6) (l : Option LAddr) (s : State)
    (hK : HomeKept z0 s) : HomeKept z0 (hostErr p cause opc l s) := by
  unfold hostErr
  repeat' (first
    | with_reducible assumption
    | with_reducible apply State.modHp_homeKept
    | with_reducible apply postEvent_homeKept)

theorem evNodeDead_homeKept {z0 : State} (n : NodeId) (s : State)
    (hK : HomeKept z0 s) : HomeKept z0 (evNodeDead n s) := by
  unfold evNodeDead
  repeat' (first
    | with_reducible assumption
    | with_reducible apply postEvent_homeKept)

theorem evStampStall_homeKept {z0 : State} (g : BitVec 6) (mask : BitVec 4) (cause : Nat) (s : State)
    (hK : HomeKept z0 s) : HomeKept z0 (evStampStall g mask cause s) := by
  unfold evStampStall
  repeat' (first
    | with_reducible assumption
    | with_reducible apply postEvent_homeKept)

theorem recLine_homeKept {z0 : State} (cause : Nat) (l : LAddr) (loc : Nat) (port : Nat) (s : State)
    (hK : HomeKept z0 s) : HomeKept z0 (recLine cause l loc port s) := by
  unfold recLine
  repeat' (first
    | with_reducible assumption
    | with_reducible apply peatEnter_homeKept)

theorem pmu_homeKept {z0 : State} (ev : Nat) (inst : Option Nat) (s : State)
    (hK : HomeKept z0 s) : HomeKept z0 (pmu ev inst s) := by
  unfold pmu
  repeat' (first
    | with_reducible assumption
    | with_reducible refine HomeKept.ite (fun _ => ?_) (fun _ => ?_)
    | fail_if_no_progress ((with_reducible apply HomeKept.mk1) <;> (first | with_reducible assumption | with_reducible rfl | skip)))

theorem postNotice_homeKept {z0 : State} (p : Port) (code : Byte) (arg : BitVec 16) (s : State)
    (hK : HomeKept z0 s) : HomeKept z0 (postNotice p code arg s) := by
  unfold postNotice
  repeat' (first
    | with_reducible assumption
    | with_reducible apply State.modHp_homeKept
    | with_reducible apply State.setMb_homeKept
    | with_reducible apply msixCheck_homeKept
    | with_reducible refine HomeKept.ite (fun _ => ?_) (fun _ => ?_)
    | fail_if_no_progress ((with_reducible apply HomeKept.mk1) <;> (first | with_reducible assumption | with_reducible rfl | skip))
    | with_reducible refine HomeKept.each (fun _ _ _ => ?_) ?_
    | with_reducible refine HomeKept.foldl2 (fun _ _ _ => ?_) ?_
    | with_reducible refine HomeKept.foldl (fun _ _ _ => ?_) ?_
    | extract_lets
    | with_reducible apply HomeKept.counters
    | with_reducible rfl
    | split)

theorem postBacklog_homeKept {z0 : State} (p : Port) (s : State)
    (hK : HomeKept z0 s) : HomeKept z0 (postBacklog p s) := by
  unfold postBacklog
  repeat' (first
    | with_reducible assumption
    | with_reducible apply State.setMb_homeKept
    | with_reducible apply State.modMb_homeKept
    | with_reducible apply postNotice_homeKept
    | with_reducible refine HomeKept.ite (fun _ => ?_) (fun _ => ?_)
    | fail_if_no_progress ((with_reducible apply HomeKept.mk1) <;> (first | with_reducible assumption | with_reducible rfl | skip))
    | with_reducible refine HomeKept.each (fun _ _ _ => ?_) ?_
    | with_reducible refine HomeKept.foldl2 (fun _ _ _ => ?_) ?_
    | with_reducible refine HomeKept.foldl (fun _ _ _ => ?_) ?_
    | extract_lets
    | with_reducible apply HomeKept.counters
    | with_reducible rfl
    | split)

theorem noteQuarantine_homeKept {z0 : State} (s : State) (p : Port)
    (hK : HomeKept z0 s) : HomeKept z0 (noteQuarantine s p) := by
  unfold noteQuarantine
  repeat' (first
    | with_reducible assumption
    | with_reducible apply State.setHp_homeKept
    | with_reducible apply postNotice_homeKept
    | with_reducible refine HomeKept.ite (fun _ => ?_) (fun _ => ?_))

theorem policyFix_homeKept {z0 : State} (l : LAddr) (s : State)
    (hK : HomeKept z0 s) : HomeKept z0 (policyFix l s) := by
  unfold policyFix
  repeat' (first
    | with_reducible assumption
    | with_reducible refine HomeKept.ite (fun _ => ?_) (fun _ => ?_)
    | fail_if_no_progress ((with_reducible apply HomeKept.mk1) <;> (first | with_reducible assumption | with_reducible rfl | skip)))

theorem discardTo_homeKept {z0 : State} (n : NodeId) (s : State)
    (hK : HomeKept z0 s) : HomeKept z0 (discardTo n s) := by
  unfold discardTo
  repeat' (first
    | with_reducible assumption
    | with_reducible apply State.modFp_homeKept
    | with_reducible refine HomeKept.ite (fun _ => ?_) (fun _ => ?_)
    | fail_if_no_progress ((with_reducible apply HomeKept.mk1) <;> (first | with_reducible assumption | with_reducible rfl | skip))
    | with_reducible refine HomeKept.each (fun _ _ _ => ?_) ?_
    | with_reducible refine HomeKept.foldl2 (fun _ _ _ => ?_) ?_
    | with_reducible refine HomeKept.foldl (fun _ _ _ => ?_) ?_
    | extract_lets
    | with_reducible apply HomeKept.counters
    | with_reducible rfl
    | split)

theorem sendMsg_homeKept {z0 : State} (k : BKind) (m : BMsg) (s : State)
    (hK : HomeKept z0 s) : HomeKept z0 (sendMsg k m s) := by
  unfold sendMsg
  repeat' (first
    | with_reducible assumption
    | with_reducible apply State.emit_homeKept
    | with_reducible apply discardTo_homeKept
    | with_reducible refine HomeKept.ite (fun _ => ?_) (fun _ => ?_)
    | fail_if_no_progress ((with_reducible apply HomeKept.mk1) <;> (first | with_reducible assumption | with_reducible rfl | skip)))

theorem sendVc5_homeKept {z0 : State} (n : NodeId) (m : Vc5) (s : State)
    (hK : HomeKept z0 s) : HomeKept z0 (sendVc5 n m s) := by
  unfold sendVc5
  repeat' (first
    | with_reducible assumption
    | with_reducible apply State.emit_homeKept
    | with_reducible refine HomeKept.ite (fun _ => ?_) (fun _ => ?_)
    | fail_if_no_progress ((with_reducible apply HomeKept.mk1) <;> (first | with_reducible assumption | with_reducible rfl | skip)))

theorem retireReq_homeKept {z0 : State} (r : Req) (s : State)
    (hK : HomeKept z0 s) : HomeKept z0 (retireReq r s) := by
  unfold retireReq
  repeat' (first
    | with_reducible assumption
    | with_reducible apply State.modHp_homeKept)

theorem endBound_homeKept {z0 : State} (r : Req) (s : State)
    (hK : HomeKept z0 s) : HomeKept z0 (endBound r s) := by
  unfold endBound
  repeat' (first
    | with_reducible assumption
    | with_reducible apply State.modHp_homeKept
    | with_reducible apply postEvent_homeKept
    | with_reducible refine HomeKept.ite (fun _ => ?_) (fun _ => ?_))

theorem answer_homeKept {z0 : State} (r : Req) (m : ToHost) (s : State)
    (hK : HomeKept z0 s) : HomeKept z0 (answer r m s) := by
  unfold answer
  repeat' (first
    | with_reducible assumption
    | with_reducible apply toHost_homeKept)

theorem complete_homeKept {z0 : State} (r : Req) (st : BitVec 3) (grant : BitVec 2) (cmpeq poison : Bool) (s : State)
    (hK : HomeKept z0 s) : HomeKept z0 (complete r st grant cmpeq poison s) := by
  unfold complete
  repeat' (first
    | with_reducible assumption
    | with_reducible apply State.setHp_homeKept
    | with_reducible apply retireReq_homeKept
    | with_reducible apply endBound_homeKept
    | with_reducible apply answer_homeKept
    | with_reducible refine HomeKept.ite (fun _ => ?_) (fun _ => ?_)
    | fail_if_no_progress ((with_reducible apply HomeKept.mk1) <;> (first | with_reducible assumption | with_reducible rfl | skip))
    | with_reducible refine HomeKept.each (fun _ _ _ => ?_) ?_
    | with_reducible refine HomeKept.foldl2 (fun _ _ _ => ?_) ?_
    | with_reducible refine HomeKept.foldl (fun _ _ _ => ?_) ?_
    | extract_lets
    | with_reducible apply HomeKept.counters
    | with_reducible rfl
    | split)

theorem completeData_homeKept {z0 : State} (r : Req) (st : BitVec 3) (grant : BitVec 2) (cmpeq poison : Bool) (len : Nat) (d : Line) (s : State)
    (hK : HomeKept z0 s) : HomeKept z0 (completeData r st grant cmpeq poison len d s) := by
  unfold completeData
  repeat' (first
    | with_reducible assumption
    | with_reducible apply State.setHp_homeKept
    | with_reducible apply retireReq_homeKept
    | with_reducible apply endBound_homeKept
    | with_reducible apply answer_homeKept
    | with_reducible refine HomeKept.ite (fun _ => ?_) (fun _ => ?_)
    | fail_if_no_progress ((with_reducible apply HomeKept.mk1) <;> (first | with_reducible assumption | with_reducible rfl | skip))
    | with_reducible refine HomeKept.each (fun _ _ _ => ?_) ?_
    | with_reducible refine HomeKept.foldl2 (fun _ _ _ => ?_) ?_
    | with_reducible refine HomeKept.foldl (fun _ _ _ => ?_) ?_
    | extract_lets
    | with_reducible apply HomeKept.counters
    | with_reducible rfl
    | split)

theorem completeErr_homeKept {z0 : State} (r : Req) (st : BitVec 3) (s : State)
    (hK : HomeKept z0 s) : HomeKept z0 (completeErr r st s) := by
  unfold completeErr
  repeat' (first
    | with_reducible assumption
    | with_reducible apply complete_homeKept
    | with_reducible apply completeData_homeKept
    | with_reducible refine HomeKept.ite (fun _ => ?_) (fun _ => ?_))

theorem bufferFreed_homeKept {z0 : State} (i : FPortNo) (c cost n : Nat) (s : State)
    (hK : HomeKept z0 s) : HomeKept z0 (bufferFreed i c cost n s) := by
  unfold bufferFreed
  repeat' (first
    | with_reducible assumption
    | with_reducible apply State.modFp_homeKept
    | with_reducible refine HomeKept.ite (fun _ => ?_) (fun _ => ?_))

theorem gotPkt_homeKept {z0 : State} (src : NodeId) (cls : Nat) (len : BitVec 7) (s : State)
    (hK : HomeKept z0 s) : HomeKept z0 (gotPkt src cls len s) := by
  unfold gotPkt
  repeat' (first
    | with_reducible assumption
    | with_reducible apply bufferFreed_homeKept
    | with_reducible refine HomeKept.ite (fun _ => ?_) (fun _ => ?_)
    | fail_if_no_progress ((with_reducible apply HomeKept.mk1) <;> (first | with_reducible assumption | with_reducible rfl | skip))
    | with_reducible refine HomeKept.each (fun _ _ _ => ?_) ?_
    | with_reducible refine HomeKept.foldl2 (fun _ _ _ => ?_) ?_
    | with_reducible refine HomeKept.foldl (fun _ _ _ => ?_) ?_
    | extract_lets
    | with_reducible apply HomeKept.counters
    | with_reducible rfl
    | split)

theorem gotVc5_homeKept {z0 : State} (src : NodeId) (s : State)
    (hK : HomeKept z0 s) : HomeKept z0 (gotVc5 src s) := by
  unfold gotVc5
  repeat' (first
    | with_reducible assumption
    | with_reducible apply State.tick1_homeKept
    | with_reducible apply gotPkt_homeKept
    | with_reducible refine HomeKept.ite (fun _ => ?_) (fun _ => ?_))

theorem gotVc4_homeKept {z0 : State} (i : FPortNo) (s : State)
    (hK : HomeKept z0 s) : HomeKept z0 (gotVc4 i s) := by
  unfold gotVc4
  repeat' (first
    | with_reducible assumption
    | with_reducible apply State.tick1_homeKept
    | with_reducible apply bufferFreed_homeKept)

theorem stampLostOf_homeKept {z0 : State} (g : BitVec 6) (cause : Nat) (l : LAddr) (s : State)
    (hK : HomeKept z0 s) : HomeKept z0 (stampLostOf g cause l s) := by
  unfold stampLostOf
  repeat' (first
    | with_reducible assumption
    | with_reducible apply peatEnter_homeKept
    | with_reducible apply postEvent_homeKept
    | with_reducible apply postNotice_homeKept
    | with_reducible refine HomeKept.ite (fun _ => ?_) (fun _ => ?_)
    | fail_if_no_progress ((with_reducible apply HomeKept.mk1) <;> (first | with_reducible assumption | with_reducible rfl | skip))
    | with_reducible refine HomeKept.each (fun _ _ _ => ?_) ?_)

theorem stampLost_homeKept {z0 : State} (cause : Nat) (l : LAddr) (s : State)
    (hK : HomeKept z0 s) : HomeKept z0 (stampLost cause l s) := by
  unfold stampLost
  repeat' (first
    | with_reducible assumption
    | with_reducible apply stampLostOf_homeKept
    | with_reducible refine HomeKept.ite (fun _ => ?_) (fun _ => ?_))

theorem stampHit_homeKept {z0 : State} (l : LAddr) (s : State)
    (hK : HomeKept z0 s) : HomeKept z0 (stampHit l s) := by
  unfold stampHit
  repeat' (first
    | with_reducible assumption
    | with_reducible apply stampLostOf_homeKept
    | with_reducible refine HomeKept.ite (fun _ => ?_) (fun _ => ?_)
    | fail_if_no_progress ((with_reducible apply HomeKept.mk1) <;> (first | with_reducible assumption | with_reducible rfl | skip))
    | with_reducible refine HomeKept.each (fun _ _ _ => ?_) ?_)

theorem stampCheck_homeKept {z0 : State} (r : Req) (bad : Bool) (s : State)
    (hK : HomeKept z0 s) : HomeKept z0 (stampCheck r bad s) := by
  unfold stampCheck
  repeat' (first
    | with_reducible assumption
    | with_reducible apply stampLost_homeKept
    | with_reducible refine HomeKept.ite (fun _ => ?_) (fun _ => ?_))

theorem completeStop_homeKept {z0 : State} (r : Req) (s : State)
    (hK : HomeKept z0 s) : HomeKept z0 (completeStop r s) := by
  unfold completeStop
  repeat' (first
    | with_reducible assumption
    | with_reducible apply completeErr_homeKept
    | with_reducible apply stampCheck_homeKept)

theorem endBar_homeKept {z0 : State} (p : Port) (b : Bar) (st : BitVec 3) (s : State)
    (hK : HomeKept z0 s) : HomeKept z0 (endBar p b st s) := by
  unfold endBar
  repeat' (first
    | with_reducible assumption
    | with_reducible apply State.modHp_homeKept
    | with_reducible apply toHost_homeKept)

theorem completeAllDead_homeKept {z0 : State} (s : State)
    (hK : HomeKept z0 s) : HomeKept z0 (completeAllDead s) := by
  unfold completeAllDead
  repeat' (first
    | with_reducible assumption
    | with_reducible apply State.modHp_homeKept
    | with_reducible apply State.modSl_homeKept
    | with_reducible apply completeStop_homeKept
    | with_reducible apply endBar_homeKept
    | with_reducible refine HomeKept.ite (fun _ => ?_) (fun _ => ?_)
    | fail_if_no_progress ((with_reducible apply HomeKept.mk1) <;> (first | with_reducible assumption | with_reducible rfl | skip))
    | with_reducible refine HomeKept.each (fun _ _ _ => ?_) ?_)

theorem recStop_homeKept {z0 : State} (cause unit idx loc : Nat) (s : State)
    (hK : HomeKept z0 s) : HomeKept z0 (recStop cause unit idx loc s) := by
  unfold recStop
  repeat' (first
    | with_reducible assumption
    | with_reducible apply peatOwn_homeKept)

theorem stopFabric_homeKept {z0 : State} (s : State)
    (hK : HomeKept z0 s) : HomeKept z0 (stopFabric s) := by
  unfold stopFabric
  repeat' (first
    | with_reducible assumption
    | with_reducible refine HomeKept.ite (fun _ => ?_) (fun _ => ?_)
    | fail_if_no_progress ((with_reducible apply HomeKept.mk1) <;> (first | with_reducible assumption | with_reducible rfl | skip)))

theorem countPass_homeKept {z0 : State} (i : SliceNo) (g : Option Cand) (aged : Bool) (s : State)
    (hK : HomeKept z0 s) : HomeKept z0 (countPass i g aged s) := by
  unfold countPass
  repeat' (first
    | with_reducible assumption
    | with_reducible apply pmu_homeKept
    | with_reducible refine HomeKept.ite (fun _ => ?_) (fun _ => ?_)
    | fail_if_no_progress ((with_reducible apply HomeKept.mk1) <;> (first | with_reducible assumption | with_reducible rfl | skip))
    | with_reducible refine HomeKept.each (fun _ _ _ => ?_) ?_
    | with_reducible refine HomeKept.foldl2 (fun _ _ _ => ?_) ?_
    | with_reducible refine HomeKept.foldl (fun _ _ _ => ?_) ?_
    | extract_lets
    | with_reducible apply HomeKept.counters
    | with_reducible rfl
    | split)

theorem decideIn_homeKept {z0 : State} (i : SliceNo) (cs : List Cand) (s : State)
    (hK : HomeKept z0 s) : HomeKept z0 (decideIn i cs s).2 := by
  unfold decideIn
  repeat' (first
    | with_reducible assumption
    | with_reducible apply countPass_homeKept
    | with_reducible refine HomeKept.ite (fun _ => ?_) (fun _ => ?_)
    | fail_if_no_progress ((with_reducible apply HomeKept.mk1) <;> (first | with_reducible assumption | with_reducible rfl | skip)))

theorem stopAt_homeKept {z0 : State} (aonCause : BitVec 3) (cause : Nat) (idx loc : Nat) (s : State)
    (hK : HomeKept z0 s) : HomeKept z0 (stopAt aonCause cause idx loc s) := by
  unfold stopAt
  repeat' (first
    | with_reducible assumption
    | with_reducible apply freezeDie_homeKept
    | with_reducible apply completeAllDead_homeKept
    | with_reducible apply recStop_homeKept
    | with_reducible apply stopFabric_homeKept
    | with_reducible refine HomeKept.ite (fun _ => ?_) (fun _ => ?_)
    | fail_if_no_progress ((with_reducible apply HomeKept.mk1) <;> (first | with_reducible assumption | with_reducible rfl | skip)))

theorem stopDevice_homeKept {z0 : State} (aonCause : BitVec 3) (cause : Nat) (loc : Nat) (s : State)
    (hK : HomeKept z0 s) : HomeKept z0 (stopDevice aonCause cause loc s) := by
  unfold stopDevice
  repeat' (first
    | with_reducible assumption
    | with_reducible apply stopAt_homeKept)

theorem integrityStop_homeKept {z0 : State} (loc : Nat) (s : State)
    (hK : HomeKept z0 s) : HomeKept z0 (integrityStop loc s) := by
  unfold integrityStop
  repeat' (first
    | with_reducible assumption
    | with_reducible apply stopDevice_homeKept)

theorem fillAdvance_homeKept {z0 : State} (s : State)
    (hK : HomeKept z0 s) : HomeKept z0 (fillAdvance s) := by
  unfold fillAdvance
  repeat' (first
    | with_reducible assumption
    | with_reducible refine HomeKept.ite (fun _ => ?_) (fun _ => ?_)
    | fail_if_no_progress ((with_reducible apply HomeKept.mk1) <;> (first | with_reducible assumption | with_reducible rfl | skip)))

theorem slotDone_homeKept {z0 : State} (blk : Nat) (s : State)
    (hK : HomeKept z0 s) : HomeKept z0 (slotDone blk s) := by
  unfold slotDone
  repeat' (first
    | with_reducible assumption
    | with_reducible apply fillAdvance_homeKept
    | with_reducible refine HomeKept.ite (fun _ => ?_) (fun _ => ?_)
    | fail_if_no_progress ((with_reducible apply HomeKept.mk1) <;> (first | with_reducible assumption | with_reducible rfl | skip))
    | with_reducible refine HomeKept.each (fun _ _ _ => ?_) ?_
    | with_reducible refine HomeKept.foldl2 (fun _ _ _ => ?_) ?_
    | with_reducible refine HomeKept.foldl (fun _ _ _ => ?_) ?_
    | extract_lets
    | with_reducible apply HomeKept.counters
    | with_reducible rfl
    | split)

theorem takeSlot_homeKept {z0 : State} (f : Nat) (s : State)
    (hK : HomeKept z0 s) : HomeKept z0 (takeSlot f s) := by
  unfold takeSlot
  repeat' (first
    | with_reducible assumption
    | with_reducible refine HomeKept.ite (fun _ => ?_) (fun _ => ?_)
    | fail_if_no_progress ((with_reducible apply HomeKept.mk1) <;> (first | with_reducible assumption | with_reducible rfl | skip)))

theorem scrubPass_homeKept {z0 : State} (i : SliceNo) (s : State)
    (hK : HomeKept z0 s) : HomeKept z0 (scrubPass i s) := by
  unfold scrubPass
  repeat' (first
    | with_reducible assumption
    | with_reducible apply decideIn_homeKept)

theorem tsLost_homeKept {z0 : State} (i : SliceNo) (set : Nat) (s : State)
    (hK : HomeKept z0 s) : HomeKept z0 (tsLost i set s) := by
  unfold tsLost
  repeat' (first
    | with_reducible assumption
    | with_reducible apply postEvent_homeKept
    | with_reducible apply integrityStop_homeKept
    | with_reducible refine HomeKept.ite (fun _ => ?_) (fun _ => ?_)
    | fail_if_no_progress ((with_reducible apply HomeKept.mk1) <;> (first | with_reducible assumption | with_reducible rfl | skip)))

theorem slotLost_homeKept {z0 : State} (i : SliceNo) (set w : Nat) (s : State)
    (hK : HomeKept z0 s) : HomeKept z0 (slotLost i set w s) := by
  unfold slotLost
  repeat' (first
    | with_reducible assumption
    | with_reducible apply State.modSl_homeKept
    | with_reducible apply postEvent_homeKept
    | with_reducible apply recLine_homeKept
    | with_reducible apply scrubPass_homeKept
    | with_reducible refine HomeKept.ite (fun _ => ?_) (fun _ => ?_)
    | fail_if_no_progress ((with_reducible apply HomeKept.mk1) <;> (first | with_reducible assumption | with_reducible rfl | skip)))

theorem evRepair_homeKept {z0 : State} (what loc : Nat) (s : State)
    (hK : HomeKept z0 s) : HomeKept z0 (evRepair what loc s) := by
  unfold evRepair
  repeat' (first
    | with_reducible assumption
    | with_reducible apply postEvent_homeKept)

theorem repState_homeKept {z0 : State} (r : RepLoc) (st : RepSt) (s : State)
    (hK : HomeKept z0 s) : HomeKept z0 (repState r st s) := by
  unfold repState
  repeat' (first
    | with_reducible assumption
    | with_reducible refine HomeKept.ite (fun _ => ?_) (fun _ => ?_)
    | fail_if_no_progress ((with_reducible apply HomeKept.mk1) <;> (first | with_reducible assumption | with_reducible rfl | skip)))

theorem repNew_homeKept {z0 : State} (r : RepLoc) (s : State)
    (hK : HomeKept z0 s) : HomeKept z0 (repNew r s) := by
  unfold repNew
  repeat' (first
    | with_reducible assumption
    | with_reducible refine HomeKept.ite (fun _ => ?_) (fun _ => ?_)
    | fail_if_no_progress ((with_reducible apply HomeKept.mk1) <;> (first | with_reducible assumption | with_reducible rfl | skip))
    | with_reducible refine HomeKept.each (fun _ _ _ => ?_) ?_
    | with_reducible refine HomeKept.foldl2 (fun _ _ _ => ?_) ?_
    | with_reducible refine HomeKept.foldl (fun _ _ _ => ?_) ?_
    | extract_lets
    | with_reducible apply HomeKept.counters
    | with_reducible rfl
    | split)

theorem mapIsFull_homeKept {z0 : State} (r : RepLoc) (s : State)
    (hK : HomeKept z0 s) : HomeKept z0 (mapIsFull r s) := by
  unfold mapIsFull
  repeat' (first
    | with_reducible assumption
    | with_reducible apply peatEnter_homeKept
    | with_reducible apply evRepair_homeKept)

theorem enterMap_homeKept {z0 : State} (r : RepLoc) (s : State)
    (hK : HomeKept z0 s) : HomeKept z0 (enterMap r s) := by
  unfold enterMap
  repeat' (first
    | with_reducible assumption
    | with_reducible apply repState_homeKept
    | with_reducible apply repNew_homeKept
    | with_reducible apply mapIsFull_homeKept
    | with_reducible refine HomeKept.ite (fun _ => ?_) (fun _ => ?_)
    | fail_if_no_progress ((with_reducible apply HomeKept.mk1) <;> (first | with_reducible assumption | with_reducible rfl | skip))
    | with_reducible refine HomeKept.each (fun _ _ _ => ?_) ?_
    | with_reducible refine HomeKept.foldl2 (fun _ _ _ => ?_) ?_
    | with_reducible refine HomeKept.foldl (fun _ _ _ => ?_) ?_
    | extract_lets
    | with_reducible apply HomeKept.counters
    | with_reducible rfl
    | split)

theorem requestRepair_homeKept {z0 : State} (ddr : Bool) (loc : BitVec 28) (s : State)
    (hK : HomeKept z0 s) : HomeKept z0 (requestRepair ddr loc s) := by
  unfold requestRepair
  repeat' (first
    | with_reducible assumption
    | with_reducible apply evRepair_homeKept
    | with_reducible apply enterMap_homeKept
    | with_reducible refine HomeKept.ite (fun _ => ?_) (fun _ => ?_))

theorem mendRowSlot_homeKept {z0 : State} (i : SliceNo) (set w : Nat) (s : State)
    (hK : HomeKept z0 s) : HomeKept z0 (mendRowSlot i set w s) := by
  unfold mendRowSlot
  repeat' (first
    | with_reducible assumption
    | with_reducible apply State.modSl_homeKept
    | with_reducible apply scrubPass_homeKept
    | with_reducible apply slotLost_homeKept
    | with_reducible refine HomeKept.ite (fun _ => ?_) (fun _ => ?_)
    | fail_if_no_progress ((with_reducible apply HomeKept.mk1) <;> (first | with_reducible assumption | with_reducible rfl | skip))
    | with_reducible refine HomeKept.each (fun _ _ _ => ?_) ?_
    | with_reducible refine HomeKept.foldl2 (fun _ _ _ => ?_) ?_
    | with_reducible refine HomeKept.foldl (fun _ _ _ => ?_) ?_
    | extract_lets
    | with_reducible apply HomeKept.counters
    | with_reducible rfl
    | split)

theorem mendRowTS_homeKept {z0 : State} (i : SliceNo) (set : Nat) (s : State)
    (hK : HomeKept z0 s) : HomeKept z0 (mendRowTS i set s) := by
  unfold mendRowTS
  repeat' (first
    | with_reducible assumption
    | with_reducible apply State.modSl_homeKept
    | with_reducible apply scrubPass_homeKept
    | with_reducible apply tsLost_homeKept
    | with_reducible refine HomeKept.ite (fun _ => ?_) (fun _ => ?_)
    | fail_if_no_progress ((with_reducible apply HomeKept.mk1) <;> (first | with_reducible assumption | with_reducible rfl | skip))
    | with_reducible refine HomeKept.each (fun _ _ _ => ?_) ?_
    | with_reducible refine HomeKept.foldl2 (fun _ _ _ => ?_) ?_
    | with_reducible refine HomeKept.foldl (fun _ _ _ => ?_) ?_
    | extract_lets
    | with_reducible apply HomeKept.counters
    | with_reducible rfl
    | split)

theorem rewriteRow_homeKept {z0 : State} (loc : BitVec 28) (s : State)
    (hK : HomeKept z0 s) : HomeKept z0 (rewriteRow false loc s) :=
  HomeKept.each (fun _ _ h => mendRowSlot_homeKept _ _ _ _ h) (HomeKept.each (fun _ _ h => mendRowTS_homeKept _ _ _ h) hK)

theorem rowWriteback_homeKept {z0 : State} (loc : BitVec 28) (row : HistRow) (s : State)
    (hK : HomeKept z0 s) : HomeKept z0 (rowWriteback false loc row s) := by
  unfold rowWriteback
  repeat' (first
    | with_reducible assumption
    | with_reducible apply rewriteRow_homeKept
    | with_reducible apply postEvent_homeKept
    | with_reducible refine HomeKept.ite (fun _ => ?_) (fun _ => ?_)
    | fail_if_no_progress ((with_reducible apply HomeKept.mk1) <;> (first | with_reducible assumption | with_reducible rfl | skip)))

theorem bucketAdd_homeKept {z0 : State} (s : State)
    (hK : HomeKept z0 s) : HomeKept z0 (bucketAdd s) := by
  unfold bucketAdd
  repeat' (first
    | with_reducible assumption
    | with_reducible apply postEvent_homeKept
    | with_reducible refine HomeKept.ite (fun _ => ?_) (fun _ => ?_)
    | fail_if_no_progress ((with_reducible apply HomeKept.mk1) <;> (first | with_reducible assumption | with_reducible rfl | skip)))

theorem bufCorrected_homeKept {z0 : State} (s : State)
    (hK : HomeKept z0 s) : HomeKept z0 (bufCorrected s) := by
  unfold bufCorrected
  repeat' (first
    | with_reducible assumption
    | with_reducible apply bucketAdd_homeKept
    | with_reducible refine HomeKept.ite (fun _ => ?_) (fun _ => ?_)
    | fail_if_no_progress ((with_reducible apply HomeKept.mk1) <;> (first | with_reducible assumption | with_reducible rfl | skip)))

theorem histCount_homeKept {z0 : State} (loc : BitVec 28) (line : BitVec 8) (syn : BitVec 16) (s : State)
    (hK : HomeKept z0 s) : HomeKept z0 (histCount false loc line syn s) := by
  unfold histCount
  repeat' (first
    | with_reducible assumption
    | with_reducible apply rowWriteback_homeKept
    | with_reducible apply requestRepair_homeKept
    | with_reducible apply postEvent_homeKept
    | with_reducible refine HomeKept.ite (fun _ => ?_) (fun _ => ?_)
    | fail_if_no_progress ((with_reducible apply HomeKept.mk1) <;> (first | with_reducible assumption | with_reducible rfl | skip))
    | with_reducible refine HomeKept.each (fun _ _ _ => ?_) ?_
    | with_reducible refine HomeKept.foldl2 (fun _ _ _ => ?_) ?_
    | with_reducible refine HomeKept.foldl (fun _ _ _ => ?_) ?_
    | extract_lets
    | with_reducible apply HomeKept.counters
    | with_reducible rfl
    | split
    | with_reducible refine HomeKept.of_snd (by with_reducible assumption) ?_
    | dsimp +zetaDelta only)

theorem noteRepeat_homeKept {z0 : State} (ddr : Bool) (loc : BitVec 28) (s : State)
    (hK : HomeKept z0 s) : HomeKept z0 (noteRepeat ddr loc s) := by
  unfold noteRepeat
  repeat' (first
    | with_reducible assumption
    | with_reducible refine HomeKept.ite (fun _ => ?_) (fun _ => ?_)
    | fail_if_no_progress ((with_reducible apply HomeKept.mk1) <;> (first | with_reducible assumption | with_reducible rfl | skip)))

theorem counted_homeKept {z0 : State} (loc : BitVec 28) (line : BitVec 8) (syn : BitVec 16) (s : State)
    (hK : HomeKept z0 s) : HomeKept z0 (counted false loc line syn s) := by
  unfold counted
  repeat' (first
    | with_reducible assumption
    | with_reducible apply histCount_homeKept
    | with_reducible apply bucketAdd_homeKept
    | with_reducible refine HomeKept.ite (fun _ => ?_) (fun _ => ?_)
    | fail_if_no_progress ((with_reducible apply HomeKept.mk1) <;> (first | with_reducible assumption | with_reducible rfl | skip)))

theorem recWay_homeKept {z0 : State} (cause : Nat) (i : SliceNo) (region w cnt : Nat) (s : State)
    (hK : HomeKept z0 s) : HomeKept z0 (recWay cause i region w cnt s) := by
  unfold recWay
  repeat' (first
    | with_reducible assumption
    | with_reducible apply peatEnter_homeKept)

theorem disableStart_homeKept {z0 : State} (i : SliceNo) (region w cnt : Nat) (s : State)
    (hK : HomeKept z0 s) : HomeKept z0 (disableStart i region w cnt s) := by
  unfold disableStart
  repeat' (first
    | with_reducible assumption
    | with_reducible apply State.modSl_homeKept
    | with_reducible apply postEvent_homeKept
    | with_reducible apply stampLost_homeKept
    | with_reducible apply recWay_homeKept
    | with_reducible refine HomeKept.ite (fun _ => ?_) (fun _ => ?_))

theorem countWay_homeKept {z0 : State} (i : SliceNo) (set w : Nat) (s : State)
    (hK : HomeKept z0 s) : HomeKept z0 (countWay i set w s) := by
  unfold countWay
  repeat' (first
    | with_reducible assumption
    | with_reducible apply State.setSl_homeKept
    | with_reducible apply disableStart_homeKept
    | with_reducible refine HomeKept.ite (fun _ => ?_) (fun _ => ?_))

theorem recordSev_homeKept {z0 : State} (i : SliceNo) (set slot : Nat) (sv : Sev) (clean : Bool) (s : State)
    (hK : HomeKept z0 s) : HomeKept z0 (recordSev i set slot sv clean s) := by
  unfold recordSev
  repeat' (first
    | with_reducible assumption
    | with_reducible apply counted_homeKept
    | with_reducible apply countWay_homeKept
    | with_reducible refine HomeKept.ite (fun _ => ?_) (fun _ => ?_)
    | fail_if_no_progress ((with_reducible apply HomeKept.mk1) <;> (first | with_reducible assumption | with_reducible rfl | skip))
    | with_reducible refine HomeKept.each (fun _ _ _ => ?_) ?_
    | with_reducible refine HomeKept.foldl2 (fun _ _ _ => ?_) ?_
    | with_reducible refine HomeKept.foldl (fun _ _ _ => ?_) ?_
    | extract_lets
    | with_reducible apply HomeKept.counters
    | with_reducible rfl
    | split)

theorem rowOpen_homeKept {z0 : State} (set : Nat) (s : State)
    (hK : HomeKept z0 s) : HomeKept z0 (rowOpen set s) := by
  unfold rowOpen
  repeat' (first
    | with_reducible assumption
    | with_reducible apply pmu_homeKept)

theorem readSlot_homeKept {z0 : State} (i : SliceNo) (set w : Nat) (s : State)
    (hK : HomeKept z0 s) : HomeKept z0 (readSlot i set w s).2.2 := by
  unfold readSlot
  repeat' (first
    | with_reducible assumption
    | with_reducible apply State.modSl_homeKept
    | with_reducible apply scrubPass_homeKept
    | with_reducible apply slotLost_homeKept
    | with_reducible apply noteRepeat_homeKept
    | with_reducible apply counted_homeKept
    | with_reducible apply countWay_homeKept
    | with_reducible apply recordSev_homeKept
    | with_reducible apply rowOpen_homeKept
    | with_reducible refine HomeKept.ite (fun _ => ?_) (fun _ => ?_)
    | fail_if_no_progress ((with_reducible apply HomeKept.mk1) <;> (first | with_reducible assumption | with_reducible rfl | skip))
    | with_reducible refine HomeKept.each (fun _ _ _ => ?_) ?_
    | with_reducible refine HomeKept.foldl2 (fun _ _ _ => ?_) ?_
    | with_reducible refine HomeKept.foldl (fun _ _ _ => ?_) ?_
    | extract_lets
    | with_reducible apply HomeKept.counters
    | with_reducible rfl
    | split
    | with_reducible refine HomeKept.of_snd (by with_reducible assumption) ?_
    | dsimp +zetaDelta only)

theorem writeSlot_homeKept {z0 : State} (i : SliceNo) (set w : Nat) (d : Slot) (s : State)
    (hK : HomeKept z0 s) : HomeKept z0 (writeSlot i set w d s) := by
  unfold writeSlot
  repeat' (first
    | with_reducible assumption
    | with_reducible apply State.modSl_homeKept)

theorem readTS_homeKept {z0 : State} (i : SliceNo) (set : Nat) (s : State)
    (hK : HomeKept z0 s) : HomeKept z0 (readTS i set s).2 := by
  unfold readTS
  repeat' (first
    | with_reducible assumption
    | with_reducible apply State.modSl_homeKept
    | with_reducible apply scrubPass_homeKept
    | with_reducible apply tsLost_homeKept
    | with_reducible apply noteRepeat_homeKept
    | with_reducible apply counted_homeKept
    | with_reducible apply recordSev_homeKept
    | with_reducible refine HomeKept.ite (fun _ => ?_) (fun _ => ?_)
    | fail_if_no_progress ((with_reducible apply HomeKept.mk1) <;> (first | with_reducible assumption | with_reducible rfl | skip))
    | with_reducible refine HomeKept.each (fun _ _ _ => ?_) ?_
    | with_reducible refine HomeKept.foldl2 (fun _ _ _ => ?_) ?_
    | with_reducible refine HomeKept.foldl (fun _ _ _ => ?_) ?_
    | extract_lets
    | with_reducible apply HomeKept.counters
    | with_reducible rfl
    | split
    | with_reducible refine HomeKept.of_snd (by with_reducible assumption) ?_
    | dsimp +zetaDelta only)

theorem shadowError_homeKept {z0 : State} (i : SliceNo) (set : Nat) (s : State)
    (hK : HomeKept z0 s) : HomeKept z0 (shadowError i set s) := by
  unfold shadowError
  repeat' (first
    | with_reducible assumption
    | with_reducible apply State.modSl_homeKept
    | with_reducible apply bufCorrected_homeKept
    | with_reducible refine HomeKept.ite (fun _ => ?_) (fun _ => ?_)
    | fail_if_no_progress ((with_reducible apply HomeKept.mk1) <;> (first | with_reducible assumption | with_reducible rfl | skip))
    | with_reducible refine HomeKept.each (fun _ _ _ => ?_) ?_)

theorem shadowFor_homeKept {z0 t : State} {i : SliceNo} {set : Nat} {s : State} (hK : HomeKept z0 s) (e : shadowFor i set s = some t) :
    HomeKept z0 t := by
  obtain ⟨x, hx, rfl⟩ := Option.map_eq_some_iff.1 e
  have h := shadowError_homeKept i set s hK
  exact State.setSl_homeKept _ _ _ h

theorem tsRow_homeKept {z0 : State} (i : SliceNo) (set : Nat) (hit : Bool) (before s : State)
    (hK : HomeKept z0 s) : HomeKept z0 (tsRow i set hit before s) := by
  unfold tsRow
  repeat' (first
    | with_reducible assumption
    | with_reducible apply rowOpen_homeKept
    | with_reducible refine HomeKept.ite (fun _ => ?_) (fun _ => ?_))

theorem readTags_homeKept {z0 : State} (i : SliceNo) (set : Nat) (s : State)
    (hK : HomeKept z0 s) : HomeKept z0 (readTags i set s).2 := by
  unfold readTags
  repeat' (first
    | with_reducible assumption
    | with_reducible apply readTS_homeKept
    | with_reducible apply shadowError_homeKept
    | with_reducible refine HomeKept.ite (fun _ => ?_) (fun _ => ?_)
    | fail_if_no_progress ((with_reducible apply HomeKept.mk1) <;> (first | with_reducible assumption | with_reducible rfl | skip))
    | with_reducible refine HomeKept.each (fun _ _ _ => ?_) ?_
    | with_reducible refine HomeKept.foldl2 (fun _ _ _ => ?_) ?_
    | with_reducible refine HomeKept.foldl (fun _ _ _ => ?_) ?_
    | extract_lets
    | with_reducible apply HomeKept.counters
    | with_reducible rfl
    | split)

theorem dropBars_homeKept {z0 : State} (s : State) (p : Port)
    (hK : HomeKept z0 s) : HomeKept z0 (dropBars s p) := by
  unfold dropBars
  repeat' (first
    | with_reducible assumption
    | with_reducible apply State.modHp_homeKept)

theorem clearRsv_homeKept {z0 : State} (p : Port) (g : LAddr) (but : Option Nat) (s : State)
    (hK : HomeKept z0 s) : HomeKept z0 (clearRsv p g but s) := by
  unfold clearRsv
  repeat' (first
    | with_reducible assumption
    | with_reducible apply State.modHp_homeKept)

theorem clearRsvAll_homeKept {z0 : State} (p : Port) (s : State)
    (hK : HomeKept z0 s) : HomeKept z0 (clearRsvAll p s) := by
  unfold clearRsvAll
  repeat' (first
    | with_reducible assumption
    | with_reducible apply State.modHp_homeKept)

end Sys2Proof.Machine
end

