-- ==== Sys2Proof/Laws/HomeKeptSlices.lean ====
section
/-! SUPPORT. `HomeKept` of the functions of the slices: one lemma per function. -/

set_option linter.unusedVariables false
set_option linter.unusedTactic false
set_option linter.unreachableTactic false

namespace Sys2Proof.Machine

theorem modWord_homeKept {z0 : State} (i : SliceNo) (l : LAddr) (f : TagWord → TagWord) (s : State)
    (hK : HomeKept z0 s) : HomeKept z0 (modWord i l f s) := by
  unfold modWord
  repeat' (first
    | with_reducible assumption
    | with_reducible apply State.modSl_homeKept
    | with_reducible refine HomeKept.ite (fun _ => ?_) (fun _ => ?_)
    | fail_if_no_progress ((with_reducible apply HomeKept.mk1) <;> (first | with_reducible assumption | with_reducible rfl | skip))
    | with_reducible refine HomeKept.each (fun _ _ _ => ?_) ?_
    | with_reducible refine HomeKept.foldl2 (fun _ _ _ => ?_) ?_
    | with_reducible refine HomeKept.foldl (fun _ _ _ => ?_) ?_
    | extract_lets
    | with_reducible apply HomeKept.counters
    | with_reducible rfl
    | split)

theorem dropHp_homeKept {z0 : State} (i : SliceNo) (l : LAddr) (p : Port) (s : State)
    (hK : HomeKept z0 s) : HomeKept z0 (dropHp i l p s) := by
  unfold dropHp
  repeat' (first
    | with_reducible assumption
    | with_reducible apply State.modSl_homeKept
    | with_reducible apply modWord_homeKept)

theorem poisonLine_homeKept {z0 : State} (i : SliceNo) (l : LAddr) (rule : Nat) (s : State)
    (hK : HomeKept z0 s) : HomeKept z0 (poisonLine i l rule s) := by
  unfold poisonLine
  repeat' (first
    | with_reducible assumption
    | with_reducible apply evPoisoned_homeKept
    | with_reducible apply modWord_homeKept)

theorem breakCs_homeKept {z0 : State} (p : Port) (l : LAddr) (s : State)
    (hK : HomeKept z0 s) : HomeKept z0 (breakCs p l s) := by
  unfold breakCs
  repeat' (first
    | with_reducible assumption
    | with_reducible apply State.modHp_homeKept
    | with_reducible apply State.modSl_homeKept)

theorem sendSnoop_homeKept {z0 : State} (i : SliceNo) (l : LAddr) (grp : Nat) (excl : Option Port) (q : SnpReq) (s : State)
    (hK : HomeKept z0 s) : HomeKept z0 (sendSnoop i l grp excl q s).2 := by
  unfold sendSnoop
  repeat' (first
    | with_reducible assumption
    | with_reducible apply State.setHp_homeKept
    | with_reducible apply toHost_homeKept
    | with_reducible apply pmu_homeKept
    | with_reducible apply clearRsv_homeKept
    | with_reducible apply dropHp_homeKept
    | with_reducible apply poisonLine_homeKept
    | with_reducible apply breakCs_homeKept
    | with_reducible refine HomeKept.ite (fun _ => ?_) (fun _ => ?_)
    | fail_if_no_progress ((with_reducible apply HomeKept.mk1) <;> (first | with_reducible assumption | with_reducible rfl | skip))
    | with_reducible refine HomeKept.each (fun _ _ _ => ?_) ?_
    | with_reducible refine HomeKept.foldl2 (fun _ _ _ => ?_) ?_
    | with_reducible refine HomeKept.foldl (fun _ _ _ => ?_) ?_
    | extract_lets
    | with_reducible apply HomeKept.counters
    | with_reducible rfl
    | split)

theorem snoopFor_homeKept {z0 : State} (i : SliceNo) (l : LAddr) (a : Act) (excl : Option Port) (qs : List SnpReq) (s : State)
    (hK : HomeKept z0 s) : HomeKept z0 (snoopFor i l a excl qs s).2 := by
  unfold snoopFor
  repeat' (first
    | with_reducible assumption
    | with_reducible apply State.modSl_homeKept
    | with_reducible apply sendSnoop_homeKept
    | with_reducible refine HomeKept.ite (fun _ => ?_) (fun _ => ?_)
    | fail_if_no_progress ((with_reducible apply HomeKept.mk1) <;> (first | with_reducible assumption | with_reducible rfl | skip))
    | with_reducible refine HomeKept.each (fun _ _ _ => ?_) ?_
    | with_reducible refine HomeKept.foldl2 (fun _ _ _ => ?_) ?_
    | with_reducible refine HomeKept.foldl (fun _ _ _ => ?_) ?_
    | extract_lets
    | with_reducible apply HomeKept.counters
    | with_reducible rfl
    | split)

theorem sendPut_homeKept {z0 : State} (i : SliceNo) (l : LAddr) (st : LState) (d : Slot) (poison discard retain : Bool) (s : State)
    (hK : HomeKept z0 s) : HomeKept z0 (sendPut i l st d poison discard retain s) := by
  unfold sendPut
  repeat' (first
    | with_reducible assumption
    | with_reducible apply State.modSl_homeKept
    | with_reducible apply pmu_homeKept
    | with_reducible apply sendMsg_homeKept
    | with_reducible refine HomeKept.ite (fun _ => ?_) (fun _ => ?_)
    | fail_if_no_progress ((with_reducible apply HomeKept.mk1) <;> (first | with_reducible assumption | with_reducible rfl | skip))
    | with_reducible refine HomeKept.each (fun _ _ _ => ?_) ?_
    | with_reducible refine HomeKept.foldl2 (fun _ _ _ => ?_) ?_
    | with_reducible refine HomeKept.foldl (fun _ _ _ => ?_) ?_
    | extract_lets
    | with_reducible apply HomeKept.counters
    | with_reducible rfl
    | split
    | with_reducible refine HomeKept.of_snd (by with_reducible assumption) ?_
    | dsimp +zetaDelta only
    | intro)

theorem evictWay_homeKept {z0 : State} (i : SliceNo) (set w : Nat) (discard : Bool) (s : State)
    (hK : HomeKept z0 s) : HomeKept z0 (evictWay i set w discard s) := by
  unfold evictWay
  repeat' (first
    | with_reducible assumption
    | with_reducible apply State.modSl_homeKept
    | with_reducible apply readSlot_homeKept
    | with_reducible apply sendPut_homeKept
    | with_reducible refine HomeKept.ite (fun _ => ?_) (fun _ => ?_))

theorem dropWay_homeKept {z0 : State} (i : SliceNo) (set w : Nat) (s : State)
    (hK : HomeKept z0 s) : HomeKept z0 (dropWay i set w s) := by
  unfold dropWay
  repeat' (first
    | with_reducible assumption
    | with_reducible apply State.modSl_homeKept)

theorem pendWay_homeKept {z0 : State} (i : SliceNo) (set w : Nat) (l : LAddr) (s : State)
    (hK : HomeKept z0 s) : HomeKept z0 (pendWay i set w l s).2 := by
  unfold pendWay
  repeat' (first
    | with_reducible assumption
    | refine shadowFor_homeKept ?_ (by with_reducible assumption)
    | with_reducible apply State.modSl_homeKept
    | with_reducible apply dropWay_homeKept
    | with_reducible refine HomeKept.ite (fun _ => ?_) (fun _ => ?_)
    | fail_if_no_progress ((with_reducible apply HomeKept.mk1) <;> (first | with_reducible assumption | with_reducible rfl | skip))
    | with_reducible refine HomeKept.each (fun _ _ _ => ?_) ?_
    | with_reducible refine HomeKept.foldl2 (fun _ _ _ => ?_) ?_
    | with_reducible refine HomeKept.foldl (fun _ _ _ => ?_) ?_
    | extract_lets
    | with_reducible apply HomeKept.counters
    | with_reducible rfl
    | split)

theorem mergeHost_homeKept {z0 : State} (i : SliceNo) (l : LAddr) (d : Line) (poison wb : Bool) (s : State)
    (hK : HomeKept z0 s) : HomeKept z0 (mergeHost i l d poison wb s) := by
  unfold mergeHost
  repeat' (first
    | with_reducible assumption
    | with_reducible apply State.modSl_homeKept
    | with_reducible apply rowOpen_homeKept
    | with_reducible apply writeSlot_homeKept
    | with_reducible refine HomeKept.ite (fun _ => ?_) (fun _ => ?_)
    | fail_if_no_progress ((with_reducible apply HomeKept.mk1) <;> (first | with_reducible assumption | with_reducible rfl | skip))
    | with_reducible refine HomeKept.each (fun _ _ _ => ?_) ?_
    | with_reducible refine HomeKept.foldl2 (fun _ _ _ => ?_) ?_
    | with_reducible refine HomeKept.foldl (fun _ _ _ => ?_) ?_
    | extract_lets
    | with_reducible apply HomeKept.counters
    | with_reducible rfl
    | split)

theorem useFar_homeKept {z0 : State} (l : LAddr) (s : State)
    (hK : HomeKept z0 s) : HomeKept z0 (useFar l s) := by
  unfold useFar
  repeat' (first
    | with_reducible assumption
    | with_reducible refine HomeKept.ite (fun _ => ?_) (fun _ => ?_)
    | fail_if_no_progress ((with_reducible apply HomeKept.mk1) <;> (first | with_reducible assumption | with_reducible rfl | skip))
    | with_reducible refine HomeKept.each (fun _ _ _ => ?_) ?_
    | with_reducible refine HomeKept.foldl2 (fun _ _ _ => ?_) ?_
    | with_reducible refine HomeKept.foldl (fun _ _ _ => ?_) ?_
    | extract_lets
    | with_reducible apply HomeKept.counters
    | with_reducible rfl
    | split
    | with_reducible refine HomeKept.of_snd (by with_reducible assumption) ?_
    | dsimp +zetaDelta only
    | intro)

theorem openTxn_homeKept {z0 : State} (i : SliceNo) (t : STxn) (s : State)
    (hK : HomeKept z0 s) : HomeKept z0 (openTxn i t s) := by
  unfold openTxn
  repeat' (first
    | with_reducible assumption
    | with_reducible apply State.modSl_homeKept
    | with_reducible apply sendMsg_homeKept
    | with_reducible apply useFar_homeKept)

theorem modTxn_homeKept {z0 : State} (i : SliceNo) (rtid : BitVec 12) (f : STxn → STxn) (s : State)
    (hK : HomeKept z0 s) : HomeKept z0 (modTxn i rtid f s) := by
  unfold modTxn
  repeat' (first
    | with_reducible assumption
    | with_reducible apply State.modSl_homeKept)

theorem closeTxn_homeKept {z0 : State} (i : SliceNo) (rtid : BitVec 12) (s : State)
    (hK : HomeKept z0 s) : HomeKept z0 (closeTxn i rtid s) := by
  unfold closeTxn
  repeat' (first
    | with_reducible assumption
    | with_reducible apply State.modSl_homeKept)

theorem waitIn_homeKept {z0 : State} (i : SliceNo) (r : Req) (s : State)
    (hK : HomeKept z0 s) : HomeKept z0 (waitIn i r s) := by
  unfold waitIn
  repeat' (first
    | with_reducible assumption
    | with_reducible apply State.modHp_homeKept
    | with_reducible apply State.modSl_homeKept
    | with_reducible refine HomeKept.ite (fun _ => ?_) (fun _ => ?_))

theorem completeDead_homeKept {z0 : State} (r : Req) (s : State)
    (hK : HomeKept z0 s) : HomeKept z0 (completeDead r s) := by
  unfold completeDead
  repeat' (first
    | with_reducible assumption
    | with_reducible apply evDeadDone_homeKept
    | with_reducible apply completeErr_homeKept
    | with_reducible apply stampCheck_homeKept)

theorem requestFor_homeKept {z0 : State} (i : SliceNo) (k : BKind) (r : Req) (way : Option Nat) (amo : BitVec 256) (s : State)
    (hK : HomeKept z0 s) : HomeKept z0 (requestFor i k r way amo s) := by
  unfold requestFor
  repeat' (first
    | with_reducible assumption
    | with_reducible apply State.modSl_homeKept
    | with_reducible apply pmu_homeKept
    | with_reducible apply openTxn_homeKept
    | with_reducible apply waitIn_homeKept
    | with_reducible apply completeDead_homeKept
    | with_reducible refine HomeKept.ite (fun _ => ?_) (fun _ => ?_)
    | fail_if_no_progress ((with_reducible apply HomeKept.mk1) <;> (first | with_reducible assumption | with_reducible rfl | skip))
    | with_reducible refine HomeKept.each (fun _ _ _ => ?_) ?_
    | with_reducible refine HomeKept.foldl2 (fun _ _ _ => ?_) ?_
    | with_reducible refine HomeKept.foldl (fun _ _ _ => ?_) ?_
    | extract_lets
    | with_reducible apply HomeKept.counters
    | with_reducible rfl
    | split)

theorem missInto_homeKept {z0 : State} (i : SliceNo) (set w : Nat) (k : BKind) (r : Req) (s : State)
    (hK : HomeKept z0 s) : HomeKept z0 (missInto i set w k r s) := by
  unfold missInto
  repeat' (first
    | with_reducible assumption
    | refine shadowFor_homeKept ?_ (by with_reducible assumption)
    | with_reducible apply State.modSl_homeKept
    | with_reducible apply waitIn_homeKept
    | with_reducible apply completeDead_homeKept
    | with_reducible apply requestFor_homeKept
    | with_reducible refine HomeKept.ite (fun _ => ?_) (fun _ => ?_)
    | fail_if_no_progress ((with_reducible apply HomeKept.mk1) <;> (first | with_reducible assumption | with_reducible rfl | skip))
    | with_reducible refine HomeKept.each (fun _ _ _ => ?_) ?_
    | with_reducible refine HomeKept.foldl2 (fun _ _ _ => ?_) ?_
    | with_reducible refine HomeKept.foldl (fun _ _ _ => ?_) ?_
    | extract_lets
    | with_reducible apply HomeKept.counters
    | with_reducible rfl
    | split)

theorem missFill_homeKept {z0 : State} (i : SliceNo) (r : Req) (s : State)
    (hK : HomeKept z0 s) : HomeKept z0 (missFill i r s) := by
  unfold missFill
  repeat' (first
    | with_reducible assumption
    | with_reducible apply snoopFor_homeKept
    | with_reducible apply evictWay_homeKept
    | with_reducible apply waitIn_homeKept
    | with_reducible apply missInto_homeKept
    | with_reducible refine HomeKept.ite (fun _ => ?_) (fun _ => ?_)
    | fail_if_no_progress ((with_reducible apply HomeKept.mk1) <;> (first | with_reducible assumption | with_reducible rfl | skip))
    | with_reducible refine HomeKept.each (fun _ _ _ => ?_) ?_
    | with_reducible refine HomeKept.foldl2 (fun _ _ _ => ?_) ?_
    | with_reducible refine HomeKept.foldl (fun _ _ _ => ?_) ?_
    | extract_lets
    | with_reducible apply HomeKept.counters
    | with_reducible rfl
    | split)

theorem dropRb_homeKept {z0 : State} (i : SliceNo) (l : LAddr) (s : State)
    (hK : HomeKept z0 s) : HomeKept z0 (dropRb i l s) := by
  unfold dropRb
  repeat' (first
    | with_reducible assumption
    | with_reducible apply State.modSl_homeKept)

theorem giveUpRb_homeKept {z0 : State} (i : SliceNo) (e : RbEnt) (s : State)
    (hK : HomeKept z0 s) : HomeKept z0 (giveUpRb i e s) := by
  unfold giveUpRb
  repeat' (first
    | with_reducible assumption
    | with_reducible apply State.modSl_homeKept
    | with_reducible apply sendPut_homeKept
    | with_reducible apply dropRb_homeKept
    | with_reducible refine HomeKept.ite (fun _ => ?_) (fun _ => ?_))

theorem rbFree_homeKept {z0 : State} (p : LAddr → Bool) (i : SliceNo) (s : State)
    (hK : HomeKept z0 s) : HomeKept z0 (rbFree p i s) := by
  unfold rbFree
  repeat' (first
    | with_reducible assumption
    | with_reducible apply giveUpRb_homeKept
    | with_reducible refine HomeKept.ite (fun _ => ?_) (fun _ => ?_)
    | fail_if_no_progress ((with_reducible apply HomeKept.mk1) <;> (first | with_reducible assumption | with_reducible rfl | skip))
    | with_reducible refine HomeKept.each (fun _ _ _ => ?_) ?_)

theorem refund_homeKept {z0 : State} (r : Req) (s : State)
    (hK : HomeKept z0 s) : HomeKept z0 (refund r s) := by
  unfold refund
  repeat' (first
    | with_reducible assumption
    | with_reducible apply State.modHp_homeKept
    | with_reducible refine HomeKept.ite (fun _ => ?_) (fun _ => ?_))

theorem prefetchTry_homeKept {z0 : State} (p : Port) (strm : BitVec 4) (stamp : Option W64) (ctr : Bool) (l : LAddr) (s0 : State)
    (hK : HomeKept z0 s0) : HomeKept z0 (prefetchTry p strm stamp ctr l s0).2 := by
  unfold prefetchTry
  extract_lets i drop y s x f absent seen room
  have hd : ∀ t, HomeKept z0 t → HomeKept z0 (drop t).2 := fun t h => refund_homeKept _ _ h
  split
  · exact hd _ hK
  · have hs : HomeKept z0 s := tsRow_homeKept _ _ _ _ _ (readTags_homeKept _ _ _ hK)
    have hse : ∀ t, HomeKept z0 t → HomeKept z0 (seen t) := by
      intro t h
      unfold seen
      generalize f = g
      cases g with
      | none => exact h
      | some c => exact State.modSl_homeKept _ _ _ h
    have hr : ∀ t, room = some t → HomeKept z0 t := by
      intro t e
      simp only [room] at e
      split at e
      · cases e; exact hs
      · obtain ⟨y, -, e2⟩ := Option.bind_eq_some_iff.1 e
        split at e2
        · cases e2; exact giveUpRb_homeKept _ _ _ hs
        · cases e2
    split
    · exact hs
    · split
      · exact hd _ (hse _ hs)
      · split
        · rename_i s1 n e1 e2
          exact openTxn_homeKept _ _ _ (State.modSl_homeKept _ _ _ (hr s1 e1))
        · split
          · exact hs
          · exact hd _ hs

theorem prefetch_homeKept {z0 : State} (p : Port) (strm : BitVec 4) (ctr : Bool) (l : LAddr) (s : State)
    (hK : HomeKept z0 s) : HomeKept z0 (prefetch p strm ctr l s) := by
  unfold prefetch
  repeat' (first
    | with_reducible assumption
    | with_reducible apply prefetchTry_homeKept)

theorem rbMove_homeKept {z0 : State} (i : SliceNo) (e : RbEnt) (w : Nat) (hp : BitVec 4) (s : State)
    (hK : HomeKept z0 s) : HomeKept z0 (rbMove i e w hp s) := by
  unfold rbMove
  repeat' (first
    | with_reducible assumption
    | with_reducible apply State.modSl_homeKept
    | with_reducible apply rowOpen_homeKept
    | with_reducible apply writeSlot_homeKept
    | with_reducible apply dropRb_homeKept)

theorem rbStep_homeKept {z0 : State} (i : SliceNo) (e : RbEnt) (hp : BitVec 4) (act : Nat → Act) (s : State)
    (hK : HomeKept z0 s) : HomeKept z0 (rbStep i e hp act s).2 := by
  unfold rbStep
  repeat' (first
    | with_reducible assumption
    | with_reducible apply snoopFor_homeKept
    | with_reducible apply evictWay_homeKept
    | with_reducible apply rbMove_homeKept
    | with_reducible refine HomeKept.ite (fun _ => ?_) (fun _ => ?_)
    | fail_if_no_progress ((with_reducible apply HomeKept.mk1) <;> (first | with_reducible assumption | with_reducible rfl | skip))
    | with_reducible refine HomeKept.each (fun _ _ _ => ?_) ?_
    | with_reducible refine HomeKept.foldl2 (fun _ _ _ => ?_) ?_
    | with_reducible refine HomeKept.foldl (fun _ _ _ => ?_) ?_
    | extract_lets
    | with_reducible apply HomeKept.counters
    | with_reducible rfl
    | split)

theorem rbCarry_homeKept {z0 : State} (i : SliceNo) (l : LAddr) (hp : BitVec 4) (s : State)
    (hK : HomeKept z0 s) : HomeKept z0 (rbCarry i l hp s) := by
  unfold rbCarry
  repeat' (first
    | with_reducible assumption
    | with_reducible apply State.modSl_homeKept
    | with_reducible apply rbMove_homeKept
    | with_reducible apply rbStep_homeKept
    | with_reducible refine HomeKept.ite (fun _ => ?_) (fun _ => ?_)
    | fail_if_no_progress ((with_reducible apply HomeKept.mk1) <;> (first | with_reducible assumption | with_reducible rfl | skip))
    | with_reducible refine HomeKept.each (fun _ _ _ => ?_) ?_
    | with_reducible refine HomeKept.foldl2 (fun _ _ _ => ?_) ?_
    | with_reducible refine HomeKept.foldl (fun _ _ _ => ?_) ?_
    | extract_lets
    | with_reducible apply HomeKept.counters
    | with_reducible rfl
    | split)

theorem rbRetry_homeKept {z0 : State} (i : SliceNo) (s : State)
    (hK : HomeKept z0 s) : HomeKept z0 (rbRetry i s) := by
  unfold rbRetry
  repeat' (first
    | with_reducible assumption
    | with_reducible apply State.modSl_homeKept
    | with_reducible apply rbMove_homeKept
    | with_reducible apply rbCarry_homeKept
    | with_reducible refine HomeKept.ite (fun _ => ?_) (fun _ => ?_)
    | fail_if_no_progress ((with_reducible apply HomeKept.mk1) <;> (first | with_reducible assumption | with_reducible rfl | skip))
    | with_reducible refine HomeKept.each (fun _ _ _ => ?_) ?_
    | with_reducible refine HomeKept.foldl2 (fun _ _ _ => ?_) ?_
    | with_reducible refine HomeKept.foldl (fun _ _ _ => ?_) ?_
    | extract_lets
    | with_reducible apply HomeKept.counters
    | with_reducible rfl
    | split)

theorem freeWmb_homeKept {z0 : State} (i : SliceNo) (id : Nat) (s : State)
    (hK : HomeKept z0 s) : HomeKept z0 (freeWmb i id s) := by
  unfold freeWmb
  repeat' (first
    | with_reducible assumption
    | with_reducible apply State.modSl_homeKept)

theorem freeNtc_homeKept {z0 : State} (p : Port) (id : Nat) (s : State)
    (hK : HomeKept z0 s) : HomeKept z0 (freeNtc p id s) := by
  unfold freeNtc
  repeat' (first
    | with_reducible assumption
    | with_reducible apply State.modHp_homeKept)

theorem writeWay_homeKept {z0 : State} (i : SliceNo) (set w : Nat) (data : Line) (m : W64) (poison : Bool) (st : LState → LState) (s : State)
    (hK : HomeKept z0 s) : HomeKept z0 (writeWay i set w data m poison st s) := by
  unfold writeWay
  repeat' (first
    | with_reducible assumption
    | with_reducible apply State.modSl_homeKept
    | with_reducible apply readSlot_homeKept
    | with_reducible apply writeSlot_homeKept)

theorem sendWrU_homeKept {z0 : State} (i : SliceNo) (e : BufEnt) (n : BitVec 12) (keep : Bool) (wmb : Option Nat) (ntc : Option (Port × Nat)) (s : State)
    (hK : HomeKept z0 s) : HomeKept z0 (sendWrU i e n keep wmb ntc s) := by
  unfold sendWrU
  repeat' (first
    | with_reducible assumption
    | with_reducible apply openTxn_homeKept)

theorem lookEntry_homeKept {z0 : State} (i : SliceNo) (l : LAddr) (s : State)
    (hK : HomeKept z0 s) : HomeKept z0 (lookEntry i l s).2 := by
  unfold lookEntry
  split
  · exact hK
  · extract_lets y hit s1
    have h1 : HomeKept z0 s1 := tsRow_homeKept _ _ _ _ _ (readTags_homeKept _ _ _ hK)
    clear_value hit s1
    cases hit with
    | none => exact h1
    | some c => exact State.modSl_homeKept _ _ (fun x => x.hintSeen (setOf l).toNat (tagOf l) c.1) h1

theorem wmbSend_homeKept {z0 : State} (i : SliceNo) (e : BufEnt) (keep : Bool) (s : State)
    (hK : HomeKept z0 s) : HomeKept z0 (wmbSend i e keep s) := by
  unfold wmbSend
  repeat' (first
    | with_reducible assumption
    | with_reducible apply State.modSl_homeKept
    | with_reducible apply evDeadDone_homeKept
    | with_reducible apply freeWmb_homeKept
    | with_reducible apply sendWrU_homeKept
    | with_reducible refine HomeKept.ite (fun _ => ?_) (fun _ => ?_)
    | fail_if_no_progress ((with_reducible apply HomeKept.mk1) <;> (first | with_reducible assumption | with_reducible rfl | skip))
    | with_reducible refine HomeKept.each (fun _ _ _ => ?_) ?_
    | with_reducible refine HomeKept.foldl2 (fun _ _ _ => ?_) ?_
    | with_reducible refine HomeKept.foldl (fun _ _ _ => ?_) ?_
    | extract_lets
    | with_reducible apply HomeKept.counters
    | with_reducible rfl
    | split)

theorem wmbGo_homeKept {z0 : State} (i : SliceNo) (e : BufEnt) (snooped : Bool) (s0 : State)
    (hK : HomeKept z0 s0) : HomeKept z0 (wmbGo i e snooped s0) := by
  unfold wmbGo
  repeat' (first
    | with_reducible assumption
    | with_reducible apply snoopFor_homeKept
    | with_reducible apply openTxn_homeKept
    | with_reducible apply giveUpRb_homeKept
    | with_reducible apply rbMove_homeKept
    | with_reducible apply rbStep_homeKept
    | with_reducible apply freeWmb_homeKept
    | with_reducible apply writeWay_homeKept
    | with_reducible apply lookEntry_homeKept
    | with_reducible apply wmbSend_homeKept
    | with_reducible refine HomeKept.ite (fun _ => ?_) (fun _ => ?_)
    | fail_if_no_progress ((with_reducible apply HomeKept.mk1) <;> (first | with_reducible assumption | with_reducible rfl | skip))
    | with_reducible refine HomeKept.each (fun _ _ _ => ?_) ?_
    | with_reducible refine HomeKept.foldl2 (fun _ _ _ => ?_) ?_
    | with_reducible refine HomeKept.foldl (fun _ _ _ => ?_) ?_
    | extract_lets
    | with_reducible apply HomeKept.counters
    | with_reducible rfl
    | split
    | with_reducible refine HomeKept.of_snd (by with_reducible assumption) ?_
    | dsimp +zetaDelta only)

theorem ntcIssued_homeKept {z0 : State} (p : Port) (id : Nat) (v : Bool) (s : State)
    (hK : HomeKept z0 s) : HomeKept z0 (ntcIssued p id v s) := by
  unfold ntcIssued
  repeat' (first
    | with_reducible assumption
    | with_reducible apply State.modHp_homeKept)

theorem ntcSend_homeKept {z0 : State} (p : Port) (e : BufEnt) (s : State)
    (hK : HomeKept z0 s) : HomeKept z0 (ntcSend p e s) := by
  unfold ntcSend
  repeat' (first
    | with_reducible assumption
    | with_reducible apply evDeadDone_homeKept
    | with_reducible apply freeNtc_homeKept
    | with_reducible apply sendWrU_homeKept
    | with_reducible apply ntcIssued_homeKept
    | with_reducible refine HomeKept.ite (fun _ => ?_) (fun _ => ?_)
    | fail_if_no_progress ((with_reducible apply HomeKept.mk1) <;> (first | with_reducible assumption | with_reducible rfl | skip))
    | with_reducible refine HomeKept.each (fun _ _ _ => ?_) ?_
    | with_reducible refine HomeKept.foldl2 (fun _ _ _ => ?_) ?_
    | with_reducible refine HomeKept.foldl (fun _ _ _ => ?_) ?_
    | extract_lets
    | with_reducible apply HomeKept.counters
    | with_reducible rfl
    | split)

theorem ntcGo_homeKept {z0 : State} (p : Port) (e : BufEnt) (snooped : Bool) (s0 : State)
    (hK : HomeKept z0 s0) : HomeKept z0 (ntcGo p e snooped s0) := by
  unfold ntcGo
  repeat' (first
    | with_reducible assumption
    | with_reducible apply evDeadDone_homeKept
    | with_reducible apply snoopFor_homeKept
    | with_reducible apply evictWay_homeKept
    | with_reducible apply dropWay_homeKept
    | with_reducible apply giveUpRb_homeKept
    | with_reducible apply freeNtc_homeKept
    | with_reducible apply writeWay_homeKept
    | with_reducible apply lookEntry_homeKept
    | with_reducible apply ntcIssued_homeKept
    | with_reducible apply ntcSend_homeKept
    | with_reducible refine HomeKept.ite (fun _ => ?_) (fun _ => ?_)
    | fail_if_no_progress ((with_reducible apply HomeKept.mk1) <;> (first | with_reducible assumption | with_reducible rfl | skip))
    | with_reducible refine HomeKept.each (fun _ _ _ => ?_) ?_
    | with_reducible refine HomeKept.foldl2 (fun _ _ _ => ?_) ?_
    | with_reducible refine HomeKept.foldl (fun _ _ _ => ?_) ?_
    | extract_lets
    | with_reducible apply HomeKept.counters
    | with_reducible rfl
    | split
    | with_reducible refine HomeKept.of_snd (by with_reducible assumption) ?_
    | dsimp +zetaDelta only)

theorem issueAll_homeKept {z0 : State} (i : SliceNo) (s : State)
    (hK : HomeKept z0 s) : HomeKept z0 (issueAll i s) := by
  unfold issueAll
  repeat' (first
    | with_reducible assumption
    | with_reducible apply wmbGo_homeKept
    | with_reducible apply ntcGo_homeKept
    | with_reducible refine HomeKept.ite (fun _ => ?_) (fun _ => ?_)
    | fail_if_no_progress ((with_reducible apply HomeKept.mk1) <;> (first | with_reducible assumption | with_reducible rfl | skip))
    | with_reducible refine HomeKept.each (fun _ _ _ => ?_) ?_
    | with_reducible refine HomeKept.foldl2 (fun _ _ _ => ?_) ?_
    | with_reducible refine HomeKept.foldl (fun _ _ _ => ?_) ?_
    | extract_lets
    | with_reducible apply HomeKept.counters
    | with_reducible rfl
    | split)

theorem issueEvery_homeKept {z0 : State} (s : State)
    (hK : HomeKept z0 s) : HomeKept z0 (issueEvery s) := by
  unfold issueEvery
  repeat' (first
    | with_reducible assumption
    | with_reducible apply issueAll_homeKept
    | with_reducible refine HomeKept.ite (fun _ => ?_) (fun _ => ?_)
    | fail_if_no_progress ((with_reducible apply HomeKept.mk1) <;> (first | with_reducible assumption | with_reducible rfl | skip))
    | with_reducible refine HomeKept.each (fun _ _ _ => ?_) ?_)

theorem closeEntries_homeKept {z0 : State} (pw pn : BufEnt → Bool) (s : State)
    (hK : HomeKept z0 s) : HomeKept z0 (closeEntries pw pn s) := by
  unfold closeEntries
  repeat' (first
    | with_reducible assumption
    | with_reducible apply State.modHp_homeKept
    | with_reducible apply State.modSl_homeKept
    | with_reducible refine HomeKept.ite (fun _ => ?_) (fun _ => ?_)
    | fail_if_no_progress ((with_reducible apply HomeKept.mk1) <;> (first | with_reducible assumption | with_reducible rfl | skip))
    | with_reducible refine HomeKept.each (fun _ _ _ => ?_) ?_)

theorem wmbStore_homeKept {z0 : State} (i : SliceNo) (r : Req) (s : State)
    (hK : HomeKept z0 s) : HomeKept z0 (wmbStore i r s) := by
  unfold wmbStore
  repeat' (first
    | with_reducible assumption
    | with_reducible apply State.setSl_homeKept
    | with_reducible apply complete_homeKept
    | with_reducible apply waitIn_homeKept
    | with_reducible apply refund_homeKept
    | with_reducible apply issueAll_homeKept
    | with_reducible refine HomeKept.ite (fun _ => ?_) (fun _ => ?_)
    | fail_if_no_progress ((with_reducible apply HomeKept.mk1) <;> (first | with_reducible assumption | with_reducible rfl | skip)))

theorem ntcStore_homeKept {z0 : State} (r : Req) (s : State)
    (hK : HomeKept z0 s) : HomeKept z0 (ntcStore r s) := by
  unfold ntcStore
  repeat' (first
    | with_reducible assumption
    | with_reducible apply State.setHp_homeKept
    | with_reducible apply State.modHp_homeKept
    | with_reducible apply complete_homeKept
    | with_reducible apply refund_homeKept
    | with_reducible apply issueAll_homeKept
    | with_reducible apply issueEvery_homeKept
    | with_reducible refine HomeKept.ite (fun _ => ?_) (fun _ => ?_)
    | fail_if_no_progress ((with_reducible apply HomeKept.mk1) <;> (first | with_reducible assumption | with_reducible rfl | skip)))

theorem setRsv_homeKept {z0 : State} (p : Port) (k : Nat) (g : LAddr) (s : State)
    (hK : HomeKept z0 s) : HomeKept z0 (setRsv p k g s) := by
  unfold setRsv
  repeat' (first
    | with_reducible assumption
    | with_reducible apply State.modHp_homeKept)

theorem giveRead_homeKept {z0 : State} (r : Req) (d : Line) (poison : Bool) (grant : BitVec 2) (s : State)
    (hK : HomeKept z0 s) : HomeKept z0 (giveRead r d poison grant s) := by
  unfold giveRead
  repeat' (first
    | with_reducible assumption
    | with_reducible apply completeData_homeKept
    | with_reducible apply stampCheck_homeKept
    | with_reducible apply setRsv_homeKept
    | with_reducible refine HomeKept.ite (fun _ => ?_) (fun _ => ?_)
    | fail_if_no_progress ((with_reducible apply HomeKept.mk1) <;> (first | with_reducible assumption | with_reducible rfl | skip))
    | with_reducible refine HomeKept.each (fun _ _ _ => ?_) ?_
    | with_reducible refine HomeKept.foldl2 (fun _ _ _ => ?_) ?_
    | with_reducible refine HomeKept.foldl (fun _ _ _ => ?_) ?_
    | extract_lets
    | with_reducible apply HomeKept.counters
    | with_reducible rfl
    | split)

theorem demandHit_homeKept {z0 : State} (i : SliceNo) (set w : Nat) (r : Req) (s : State)
    (hK : HomeKept z0 s) : HomeKept z0 (demandHit i set w r s) := by
  unfold demandHit
  repeat' (first
    | with_reducible assumption
    | with_reducible apply State.modSl_homeKept
    | with_reducible refine HomeKept.ite (fun _ => ?_) (fun _ => ?_))

theorem addHp_homeKept {z0 : State} (i : SliceNo) (set w : Nat) (p : Port) (only : Bool) (s : State)
    (hK : HomeKept z0 s) : HomeKept z0 (addHp i set w p only s) := by
  unfold addHp
  repeat' (first
    | with_reducible assumption
    | with_reducible apply State.modSl_homeKept
    | with_reducible refine HomeKept.ite (fun _ => ?_) (fun _ => ?_))

theorem atomErr_homeKept {z0 : State} (r : Req) (s : State)
    (hK : HomeKept z0 s) : HomeKept z0 (atomErr r s) := by
  unfold atomErr
  repeat' (first
    | with_reducible assumption
    | with_reducible apply State.modHp_homeKept
    | with_reducible apply complete_homeKept)

theorem endCs_homeKept {z0 : State} (r : Req) (st : BitVec 3) (clear : Bool) (s : State)
    (hK : HomeKept z0 s) : HomeKept z0 (endCs r st clear s) := by
  unfold endCs
  repeat' (first
    | with_reducible assumption
    | with_reducible apply State.modHp_homeKept
    | with_reducible apply complete_homeKept)

theorem nearAtomic_homeKept {z0 : State} (i : SliceNo) (set w : Nat) (r : Req) (s : State)
    (hK : HomeKept z0 s) : HomeKept z0 (nearAtomic i set w r s) := by
  unfold nearAtomic
  repeat' (first
    | with_reducible assumption
    | with_reducible apply State.modSl_homeKept
    | with_reducible apply completeData_homeKept
    | with_reducible apply stampCheck_homeKept
    | with_reducible apply readSlot_homeKept
    | with_reducible apply writeSlot_homeKept
    | with_reducible apply demandHit_homeKept
    | with_reducible refine HomeKept.ite (fun _ => ?_) (fun _ => ?_))

theorem storeWay_homeKept {z0 : State} (i : SliceNo) (set w : Nat) (r : Req) (s : State)
    (hK : HomeKept z0 s) : HomeKept z0 (storeWay i set w r s) := by
  unfold storeWay
  repeat' (first
    | with_reducible assumption
    | with_reducible apply State.modSl_homeKept
    | with_reducible apply writeWay_homeKept
    | with_reducible apply demandHit_homeKept)

theorem sharedAfter_homeKept {z0 : State} (i : SliceNo) (t : TagWord) (r : Req) (snooped : Bool) (k : State → State) (s : State)
    (hk : ∀ x0, HomeKept z0 x0 → HomeKept z0 (k x0)) (hK : HomeKept z0 s) : HomeKept z0 (sharedAfter i t r snooped k s) := by
  unfold sharedAfter
  repeat' (first
    | with_reducible assumption
    | with_reducible apply hk
    | with_reducible apply snoopFor_homeKept
    | with_reducible refine HomeKept.ite (fun _ => ?_) (fun _ => ?_)
    | fail_if_no_progress ((with_reducible apply HomeKept.mk1) <;> (first | with_reducible assumption | with_reducible rfl | skip))
    | with_reducible refine HomeKept.each (fun _ _ _ => ?_) ?_
    | with_reducible refine HomeKept.foldl2 (fun _ _ _ => ?_) ?_
    | with_reducible refine HomeKept.foldl (fun _ _ _ => ?_) ?_
    | extract_lets
    | with_reducible apply HomeKept.counters
    | with_reducible rfl
    | split)

theorem hitRead_homeKept {z0 : State} (i : SliceNo) (set w : Nat) (t : TagWord) (r : Req) (snooped : Bool) (grant : BitVec 2) (addBit : Bool) (s : State)
    (hK : HomeKept z0 s) : HomeKept z0 (hitRead i set w t r snooped grant addBit s) := by
  unfold hitRead
  repeat' (first
    | with_reducible assumption
    | with_reducible apply readSlot_homeKept
    | with_reducible apply giveRead_homeKept
    | with_reducible apply demandHit_homeKept
    | with_reducible apply addHp_homeKept
    | with_reducible apply sharedAfter_homeKept
    | with_reducible refine HomeKept.ite (fun _ => ?_) (fun _ => ?_)
    | fail_if_no_progress ((with_reducible apply HomeKept.mk1) <;> (first | with_reducible assumption | with_reducible rfl | skip))
    | with_reducible refine HomeKept.each (fun _ _ _ => ?_) ?_
    | with_reducible refine HomeKept.foldl2 (fun _ _ _ => ?_) ?_
    | with_reducible refine HomeKept.foldl (fun _ _ _ => ?_) ?_
    | extract_lets
    | with_reducible apply HomeKept.counters
    | with_reducible rfl
    | split
    | with_reducible refine HomeKept.of_snd (by with_reducible assumption) ?_
    | dsimp +zetaDelta only
    | intro)

theorem askUpg_homeKept {z0 : State} (i : SliceNo) (r : Req) (s : State)
    (hK : HomeKept z0 s) : HomeKept z0 (askUpg i r s) := by
  unfold askUpg
  repeat' (first
    | with_reducible assumption
    | with_reducible apply requestFor_homeKept)

theorem hit_homeKept {z0 : State} (i : SliceNo) (w : Nat) (t : TagWord) (r0 : Req) (snooped : Bool) (s0 : State)
    (hK : HomeKept z0 s0) : HomeKept z0 (hit i w t r0 snooped s0) := by
  unfold hit
  repeat' (first
    | with_reducible assumption
    | with_reducible apply complete_homeKept
    | with_reducible apply readSlot_homeKept
    | with_reducible apply snoopFor_homeKept
    | with_reducible apply refund_homeKept
    | with_reducible apply giveRead_homeKept
    | with_reducible apply demandHit_homeKept
    | with_reducible apply addHp_homeKept
    | with_reducible apply endCs_homeKept
    | with_reducible apply nearAtomic_homeKept
    | with_reducible apply storeWay_homeKept
    | with_reducible apply sharedAfter_homeKept
    | with_reducible apply hitRead_homeKept
    | with_reducible apply askUpg_homeKept
    | with_reducible refine HomeKept.ite (fun _ => ?_) (fun _ => ?_)
    | fail_if_no_progress ((with_reducible apply HomeKept.mk1) <;> (first | with_reducible assumption | with_reducible rfl | skip))
    | with_reducible refine HomeKept.each (fun _ _ _ => ?_) ?_
    | with_reducible refine HomeKept.foldl2 (fun _ _ _ => ?_) ?_
    | with_reducible refine HomeKept.foldl (fun _ _ _ => ?_) ?_
    | extract_lets
    | with_reducible apply HomeKept.counters
    | with_reducible rfl
    | split
    | with_reducible refine HomeKept.of_snd (by with_reducible assumption) ?_
    | dsimp +zetaDelta only
    | intro)

theorem sendAmoF_homeKept {z0 : State} (i : SliceNo) (r : Req) (s : State)
    (hK : HomeKept z0 s) : HomeKept z0 (sendAmoF i r s) := by
  unfold sendAmoF
  repeat' (first
    | with_reducible assumption
    | with_reducible apply requestFor_homeKept)

theorem farAtomic_homeKept {z0 : State} (i : SliceNo) (r : Req) (snooped : Bool) (s : State)
    (hK : HomeKept z0 s) : HomeKept z0 (farAtomic i r snooped s) := by
  unfold farAtomic
  repeat' (first
    | with_reducible assumption
    | with_reducible apply snoopFor_homeKept
    | with_reducible apply dropWay_homeKept
    | with_reducible apply sendAmoF_homeKept
    | with_reducible refine HomeKept.ite (fun _ => ?_) (fun _ => ?_)
    | fail_if_no_progress ((with_reducible apply HomeKept.mk1) <;> (first | with_reducible assumption | with_reducible rfl | skip))
    | with_reducible refine HomeKept.each (fun _ _ _ => ?_) ?_
    | with_reducible refine HomeKept.foldl2 (fun _ _ _ => ?_) ?_
    | with_reducible refine HomeKept.foldl (fun _ _ _ => ?_) ?_
    | extract_lets
    | with_reducible apply HomeKept.counters
    | with_reducible rfl
    | split)

theorem chooseNear_homeKept {z0 : State} (i : SliceNo) (r : Req) (st : LState) (s : State)
    (hK : HomeKept z0 s) : HomeKept z0 (chooseNear i r st s).2.2 := by
  unfold chooseNear
  repeat' (first
    | with_reducible assumption
    | with_reducible apply State.setSl_homeKept
    | with_reducible refine HomeKept.ite (fun _ => ?_) (fun _ => ?_)
    | fail_if_no_progress ((with_reducible apply HomeKept.mk1) <;> (first | with_reducible assumption | with_reducible rfl | skip))
    | with_reducible refine HomeKept.each (fun _ _ _ => ?_) ?_
    | with_reducible refine HomeKept.foldl2 (fun _ _ _ => ?_) ?_
    | with_reducible refine HomeKept.foldl (fun _ _ _ => ?_) ?_
    | extract_lets
    | with_reducible apply HomeKept.counters
    | with_reducible rfl
    | split)

theorem readU_homeKept {z0 : State} (i : SliceNo) (r : Req) (s : State)
    (hK : HomeKept z0 s) : HomeKept z0 (readU i r s) := by
  unfold readU
  repeat' (first
    | with_reducible assumption
    | with_reducible apply requestFor_homeKept)

theorem miss_homeKept {z0 : State} (i : SliceNo) (r : Req) (s : State)
    (hK : HomeKept z0 s) : HomeKept z0 (miss i r s) := by
  unfold miss
  repeat' (first
    | with_reducible assumption
    | with_reducible apply missFill_homeKept
    | with_reducible apply readU_homeKept
    | with_reducible refine HomeKept.ite (fun _ => ?_) (fun _ => ?_)
    | fail_if_no_progress ((with_reducible apply HomeKept.mk1) <;> (first | with_reducible assumption | with_reducible rfl | skip))
    | with_reducible refine HomeKept.each (fun _ _ _ => ?_) ?_
    | with_reducible refine HomeKept.foldl2 (fun _ _ _ => ?_) ?_
    | with_reducible refine HomeKept.foldl (fun _ _ _ => ?_) ?_
    | extract_lets
    | with_reducible apply HomeKept.counters
    | with_reducible rfl
    | split)

theorem csEnd_homeKept {z0 t : State} {r : Req} {s : State} {k : State → State} (e : csEnd r s = some k) (hK : HomeKept z0 t) :
    HomeKept z0 (k t) := by
  unfold csEnd at e
  dsimp only at e
  split at e
  · cases e; exact endCs_homeKept _ _ _ _ hK
  · split at e
    · cases e; exact endCs_homeKept _ _ _ _ hK
    · split at e
      · cases e; exact endCs_homeKept _ _ _ _ hK
      · cases e

theorem csEnd_homeKept2 {z0 t : State} {r : Req} {s : State} {k : State → State} {c : Prop} [Decidable c]
    (e : (if c then csEnd r s else none) = some k) (hK : HomeKept z0 t) : HomeKept z0 (k t) := by
  split at e
  · exact csEnd_homeKept e hK
  · cases e

theorem serveHit_homeKept {z0 : State} (i : SliceNo) (w : Nat) (t : TagWord) (r : Req) (snooped : Bool) (s : State)
    (hK : HomeKept z0 s) : HomeKept z0 (serveHit i w t r snooped s) := by
  unfold serveHit
  repeat' (first
    | with_reducible assumption
    | with_reducible apply hit_homeKept
    | with_reducible apply farAtomic_homeKept
    | with_reducible apply chooseNear_homeKept
    | with_reducible refine HomeKept.ite (fun _ => ?_) (fun _ => ?_))

theorem serveMiss_homeKept {z0 : State} (i : SliceNo) (r : Req) (snooped : Bool) (s : State)
    (hK : HomeKept z0 s) : HomeKept z0 (serveMiss i r snooped s) := by
  unfold serveMiss
  repeat' (first
    | with_reducible assumption
    | with_reducible apply farAtomic_homeKept
    | with_reducible apply chooseNear_homeKept
    | with_reducible apply miss_homeKept
    | with_reducible refine HomeKept.ite (fun _ => ?_) (fun _ => ?_))

theorem serveRb_homeKept {z0 : State} (i : SliceNo) (e : RbEnt) (r : Req) (k : Nat → Req → State → State) (s : State)
    (hk : ∀ x0 x1 x2, HomeKept z0 x2 → HomeKept z0 (k x0 x1 x2)) (hK : HomeKept z0 s) : HomeKept z0 (serveRb i e r k s) := by
  unfold serveRb
  repeat' (first
    | with_reducible assumption
    | with_reducible apply hk
    | with_reducible apply waitIn_homeKept
    | with_reducible apply giveUpRb_homeKept
    | with_reducible apply refund_homeKept
    | with_reducible apply rbStep_homeKept
    | with_reducible apply rbCarry_homeKept
    | with_reducible apply giveRead_homeKept
    | with_reducible apply serveMiss_homeKept
    | with_reducible refine HomeKept.ite (fun _ => ?_) (fun _ => ?_)
    | fail_if_no_progress ((with_reducible apply HomeKept.mk1) <;> (first | with_reducible assumption | with_reducible rfl | skip))
    | with_reducible refine HomeKept.each (fun _ _ _ => ?_) ?_
    | with_reducible refine HomeKept.foldl2 (fun _ _ _ => ?_) ?_
    | with_reducible refine HomeKept.foldl (fun _ _ _ => ?_) ?_
    | extract_lets
    | with_reducible apply HomeKept.counters
    | with_reducible rfl
    | split)

theorem lookupServe_homeKept {z0 : State} (i : SliceNo) (r : Req) (snooped : Bool) (s : State)
    (hK : HomeKept z0 s) : HomeKept z0 (lookupServe i r snooped s) := by
  unfold lookupServe
  repeat' (first
    | with_reducible assumption
    | with_reducible apply waitIn_homeKept
    | with_reducible apply serveHit_homeKept
    | with_reducible apply serveMiss_homeKept
    | with_reducible apply serveRb_homeKept
    | with_reducible refine HomeKept.ite (fun _ => ?_) (fun _ => ?_)
    | fail_if_no_progress ((with_reducible apply HomeKept.mk1) <;> (first | with_reducible assumption | with_reducible rfl | skip))
    | with_reducible refine HomeKept.each (fun _ _ _ => ?_) ?_
    | with_reducible refine HomeKept.foldl2 (fun _ _ _ => ?_) ?_
    | with_reducible refine HomeKept.foldl (fun _ _ _ => ?_) ?_
    | extract_lets
    | with_reducible apply HomeKept.counters
    | with_reducible rfl
    | split
    | with_reducible refine HomeKept.of_snd (by with_reducible assumption) ?_
    | dsimp +zetaDelta only
    | intro)

theorem storeBuffered_homeKept {z0 : State} (i : SliceNo) (r : Req) (s : State)
    (hK : HomeKept z0 s) : HomeKept z0 (storeBuffered i r s) := by
  unfold storeBuffered
  repeat' (first
    | with_reducible assumption
    | with_reducible apply wmbStore_homeKept
    | with_reducible apply serveRb_homeKept
    | with_reducible refine HomeKept.ite (fun _ => ?_) (fun _ => ?_)
    | fail_if_no_progress ((with_reducible apply HomeKept.mk1) <;> (first | with_reducible assumption | with_reducible rfl | skip))
    | with_reducible refine HomeKept.each (fun _ _ _ => ?_) ?_
    | with_reducible refine HomeKept.foldl2 (fun _ _ _ => ?_) ?_
    | with_reducible refine HomeKept.foldl (fun _ _ _ => ?_) ?_
    | extract_lets
    | with_reducible apply HomeKept.counters
    | with_reducible rfl
    | split
    | with_reducible refine HomeKept.of_snd (by with_reducible assumption) ?_
    | dsimp +zetaDelta only
    | intro)

theorem demandOnce_homeKept {z0 : State} (i : SliceNo) (r : Req) (snooped : Bool) (s : State)
    (hK : HomeKept z0 s) : HomeKept z0 (demandOnce i r snooped s).2 := by
  unfold demandOnce
  repeat' (first
    | with_reducible assumption
    | with_reducible apply State.setSl_homeKept
    | with_reducible apply completeStop_homeKept
    | with_reducible apply tsRow_homeKept
    | with_reducible apply readTags_homeKept
    | with_reducible apply waitIn_homeKept
    | with_reducible refine HomeKept.ite (fun _ => ?_) (fun _ => ?_)
    | fail_if_no_progress ((with_reducible apply HomeKept.mk1) <;> (first | with_reducible assumption | with_reducible rfl | skip))
    | with_reducible refine HomeKept.each (fun _ _ _ => ?_) ?_
    | with_reducible refine HomeKept.foldl2 (fun _ _ _ => ?_) ?_
    | with_reducible refine HomeKept.foldl (fun _ _ _ => ?_) ?_
    | extract_lets
    | with_reducible apply HomeKept.counters
    | with_reducible rfl
    | split)

theorem serveLine_homeKept {z0 : State} (i : SliceNo) (r : Req) (snooped : Bool) (s : State)
    (hK : HomeKept z0 s) : HomeKept z0 (serveLine i r snooped s) := by
  unfold serveLine
  repeat' (first
    | with_reducible assumption
    | with_reducible apply modTxn_homeKept
    | with_reducible apply waitIn_homeKept
    | with_reducible apply farAtomic_homeKept
    | with_reducible apply readU_homeKept
    | with_reducible apply lookupServe_homeKept
    | with_reducible apply storeBuffered_homeKept
    | with_reducible refine HomeKept.ite (fun _ => ?_) (fun _ => ?_)
    | fail_if_no_progress ((with_reducible apply HomeKept.mk1) <;> (first | with_reducible assumption | with_reducible rfl | skip))
    | with_reducible refine HomeKept.each (fun _ _ _ => ?_) ?_
    | with_reducible refine HomeKept.foldl2 (fun _ _ _ => ?_) ?_
    | with_reducible refine HomeKept.foldl (fun _ _ _ => ?_) ?_
    | extract_lets
    | with_reducible apply HomeKept.counters
    | with_reducible rfl
    | split)

theorem access_homeKept {z0 : State} (r : Req) (snooped : Bool) (s : State)
    (hK : HomeKept z0 s) : HomeKept z0 (access r snooped s) := by
  unfold access
  repeat' (first
    | with_reducible assumption
    | refine csEnd_homeKept2 (by with_reducible assumption) ?_
    | with_reducible apply evAddrErr_homeKept
    | with_reducible apply complete_homeKept
    | with_reducible apply completeErr_homeKept
    | with_reducible apply completeStop_homeKept
    | with_reducible apply waitIn_homeKept
    | with_reducible apply prefetch_homeKept
    | with_reducible apply ntcStore_homeKept
    | with_reducible apply atomErr_homeKept
    | with_reducible apply demandOnce_homeKept
    | with_reducible apply serveLine_homeKept
    | with_reducible refine HomeKept.ite (fun _ => ?_) (fun _ => ?_)
    | fail_if_no_progress ((with_reducible apply HomeKept.mk1) <;> (first | with_reducible assumption | with_reducible rfl | skip))
    | with_reducible refine HomeKept.each (fun _ _ _ => ?_) ?_
    | with_reducible refine HomeKept.foldl2 (fun _ _ _ => ?_) ?_
    | with_reducible refine HomeKept.foldl (fun _ _ _ => ?_) ?_
    | extract_lets
    | with_reducible apply HomeKept.counters
    | with_reducible rfl
    | split)

theorem stampFar_homeKept {z0 : State} (i : SliceNo) (r : Req) (snooped : Bool) (s : State)
    (hK : HomeKept z0 s) : HomeKept z0 (stampFar i r snooped s) := by
  unfold stampFar
  repeat' (first
    | with_reducible assumption
    | with_reducible apply waitIn_homeKept
    | with_reducible apply giveUpRb_homeKept
    | with_reducible apply farAtomic_homeKept
    | with_reducible apply serveRb_homeKept
    | with_reducible refine HomeKept.ite (fun _ => ?_) (fun _ => ?_)
    | fail_if_no_progress ((with_reducible apply HomeKept.mk1) <;> (first | with_reducible assumption | with_reducible rfl | skip))
    | with_reducible refine HomeKept.each (fun _ _ _ => ?_) ?_
    | with_reducible refine HomeKept.foldl2 (fun _ _ _ => ?_) ?_
    | with_reducible refine HomeKept.foldl (fun _ _ _ => ?_) ?_
    | extract_lets
    | with_reducible apply HomeKept.counters
    | with_reducible rfl
    | split
    | with_reducible refine HomeKept.of_snd (by with_reducible assumption) ?_
    | dsimp +zetaDelta only
    | intro)

theorem stampSend_homeKept {z0 : State} (i : SliceNo) (r : Req) (snooped : Bool) (s : State)
    (hK : HomeKept z0 s) : HomeKept z0 (stampSend i r snooped s) := by
  unfold stampSend
  repeat' (first
    | with_reducible assumption
    | with_reducible apply waitIn_homeKept
    | with_reducible apply requestFor_homeKept
    | with_reducible apply storeBuffered_homeKept
    | with_reducible apply stampFar_homeKept
    | with_reducible refine HomeKept.ite (fun _ => ?_) (fun _ => ?_))

theorem stampAccess_homeKept {z0 : State} (r : Req) (snooped : Bool) (s : State)
    (hK : HomeKept z0 s) : HomeKept z0 (stampAccess r snooped s) := by
  unfold stampAccess
  repeat' (first
    | with_reducible assumption
    | refine csEnd_homeKept2 (by with_reducible assumption) ?_
    | with_reducible apply evAddrErr_homeKept
    | with_reducible apply complete_homeKept
    | with_reducible apply completeErr_homeKept
    | with_reducible apply completeStop_homeKept
    | with_reducible apply waitIn_homeKept
    | with_reducible apply prefetchTry_homeKept
    | with_reducible apply ntcStore_homeKept
    | with_reducible apply atomErr_homeKept
    | with_reducible apply endCs_homeKept
    | with_reducible apply demandOnce_homeKept
    | with_reducible apply stampSend_homeKept
    | with_reducible refine HomeKept.ite (fun _ => ?_) (fun _ => ?_)
    | fail_if_no_progress ((with_reducible apply HomeKept.mk1) <;> (first | with_reducible assumption | with_reducible rfl | skip))
    | with_reducible refine HomeKept.each (fun _ _ _ => ?_) ?_
    | with_reducible refine HomeKept.foldl2 (fun _ _ _ => ?_) ?_
    | with_reducible refine HomeKept.foldl (fun _ _ _ => ?_) ?_
    | extract_lets
    | with_reducible apply HomeKept.counters
    | with_reducible rfl
    | split)

theorem sendAck_homeKept {z0 : State} (i : SliceNo) (t : STxn) (home : NodeId) (htid : BitVec 12) (fwdr : Bool) (s : State)
    (hK : HomeKept z0 s) : HomeKept z0 (sendAck i t home htid fwdr s) := by
  unfold sendAck
  repeat' (first
    | with_reducible assumption
    | with_reducible apply sendMsg_homeKept)

theorem performOn_homeKept {z0 : State} (r : Req) (d : Line) (poison : Bool) (st : LState) (s : State)
    (hK : HomeKept z0 s) : HomeKept z0 (performOn r d poison st s).2.2.2 := by
  unfold performOn
  repeat' (first
    | with_reducible assumption
    | refine csEnd_homeKept (by with_reducible assumption) ?_
    | with_reducible apply State.modSl_homeKept
    | with_reducible apply complete_homeKept
    | with_reducible apply completeData_homeKept
    | with_reducible apply stampCheck_homeKept
    | with_reducible apply giveRead_homeKept
    | with_reducible apply endCs_homeKept
    | with_reducible refine HomeKept.ite (fun _ => ?_) (fun _ => ?_)
    | fail_if_no_progress ((with_reducible apply HomeKept.mk1) <;> (first | with_reducible assumption | with_reducible rfl | skip))
    | with_reducible refine HomeKept.each (fun _ _ _ => ?_) ?_
    | with_reducible refine HomeKept.foldl2 (fun _ _ _ => ?_) ?_
    | with_reducible refine HomeKept.foldl (fun _ _ _ => ?_) ?_
    | extract_lets
    | with_reducible apply HomeKept.counters
    | with_reducible rfl
    | split)

theorem performed_homeKept {z0 : State} (i : SliceNo) (t : STxn) (hp : BitVec 4) (s : State)
    (hK : HomeKept z0 s) : HomeKept z0 (performed i t hp s) := by
  unfold performed
  repeat' (first
    | with_reducible assumption
    | with_reducible apply modTxn_homeKept
    | with_reducible apply sendAck_homeKept)

theorem performWay_homeKept {z0 : State} (i : SliceNo) (t : STxn) (r : Req) (w : Nat) (tw : TagWord) (snooped : Bool) (s : State)
    (hK : HomeKept z0 s) : HomeKept z0 (performWay i t r w tw snooped s) := by
  unfold performWay
  repeat' (first
    | with_reducible assumption
    | with_reducible apply State.modSl_homeKept
    | with_reducible apply readSlot_homeKept
    | with_reducible apply writeSlot_homeKept
    | with_reducible apply snoopFor_homeKept
    | with_reducible apply performOn_homeKept
    | with_reducible apply performed_homeKept
    | with_reducible refine HomeKept.ite (fun _ => ?_) (fun _ => ?_)
    | fail_if_no_progress ((with_reducible apply HomeKept.mk1) <;> (first | with_reducible assumption | with_reducible rfl | skip))
    | with_reducible refine HomeKept.each (fun _ _ _ => ?_) ?_
    | with_reducible refine HomeKept.foldl2 (fun _ _ _ => ?_) ?_
    | with_reducible refine HomeKept.foldl (fun _ _ _ => ?_) ?_
    | extract_lets
    | with_reducible apply HomeKept.counters
    | with_reducible rfl
    | split)

theorem performOther_homeKept {z0 : State} (i : SliceNo) (t u : STxn) (r : Req) (s : State)
    (hK : HomeKept z0 s) : HomeKept z0 (performOther i t u r s) := by
  unfold performOther
  repeat' (first
    | with_reducible assumption
    | with_reducible apply modTxn_homeKept
    | with_reducible apply performOn_homeKept
    | with_reducible apply performed_homeKept)

theorem performEntry_homeKept {z0 : State} (i : SliceNo) (t : STxn) (r : Req) (s : State)
    (hK : HomeKept z0 s) : HomeKept z0 (performEntry i t r s) := by
  unfold performEntry
  repeat' (first
    | with_reducible assumption
    | with_reducible apply modTxn_homeKept
    | with_reducible apply performOn_homeKept
    | with_reducible apply performed_homeKept)

theorem stampPerform_homeKept {z0 : State} (i : SliceNo) (rtid : BitVec 12) (snooped : Bool) (s : State)
    (hK : HomeKept z0 s) : HomeKept z0 (stampPerform i rtid snooped s) := by
  unfold stampPerform
  repeat' (first
    | with_reducible assumption
    | with_reducible apply State.modSl_homeKept
    | with_reducible apply closeTxn_homeKept
    | with_reducible apply dropRb_homeKept
    | with_reducible apply performWay_homeKept
    | with_reducible apply performOther_homeKept
    | with_reducible apply performEntry_homeKept
    | with_reducible refine HomeKept.ite (fun _ => ?_) (fun _ => ?_)
    | fail_if_no_progress ((with_reducible apply HomeKept.mk1) <;> (first | with_reducible assumption | with_reducible rfl | skip))
    | with_reducible refine HomeKept.each (fun _ _ _ => ?_) ?_
    | with_reducible refine HomeKept.foldl2 (fun _ _ _ => ?_) ?_
    | with_reducible refine HomeKept.foldl (fun _ _ _ => ?_) ?_
    | extract_lets
    | with_reducible apply HomeKept.counters
    | with_reducible rfl
    | split)

theorem stampGrant_homeKept {z0 : State} (i : SliceNo) (t : STxn) (htid : BitVec 12) (s : State)
    (hK : HomeKept z0 s) : HomeKept z0 (stampGrant i t htid s) := by
  unfold stampGrant
  repeat' (first
    | with_reducible assumption
    | with_reducible apply modTxn_homeKept
    | with_reducible apply stampPerform_homeKept
    | with_reducible refine HomeKept.ite (fun _ => ?_) (fun _ => ?_))

theorem placeApplied_homeKept {z0 : State} (i : SliceNo) (t : STxn) (w : Nat) (s : State)
    (hK : HomeKept z0 s) : HomeKept z0 (placeApplied i t w s) := by
  unfold placeApplied
  repeat' (first
    | with_reducible assumption
    | with_reducible apply State.modSl_homeKept
    | with_reducible apply rowOpen_homeKept
    | with_reducible apply readSlot_homeKept
    | with_reducible apply writeSlot_homeKept
    | with_reducible apply closeTxn_homeKept
    | with_reducible refine HomeKept.ite (fun _ => ?_) (fun _ => ?_)
    | fail_if_no_progress ((with_reducible apply HomeKept.mk1) <;> (first | with_reducible assumption | with_reducible rfl | skip))
    | with_reducible refine HomeKept.each (fun _ _ _ => ?_) ?_
    | with_reducible refine HomeKept.foldl2 (fun _ _ _ => ?_) ?_
    | with_reducible refine HomeKept.foldl (fun _ _ _ => ?_) ?_
    | extract_lets
    | with_reducible apply HomeKept.counters
    | with_reducible rfl
    | split)

theorem applyOne_homeKept {z0 : State} (i : SliceNo) (t : STxn) (s : State)
    (hK : HomeKept z0 s) : HomeKept z0 (applyOne i t s) := by
  unfold applyOne
  repeat' (first
    | with_reducible assumption
    | with_reducible apply snoopFor_homeKept
    | with_reducible apply evictWay_homeKept
    | with_reducible apply closeTxn_homeKept
    | with_reducible apply placeApplied_homeKept
    | with_reducible refine HomeKept.ite (fun _ => ?_) (fun _ => ?_)
    | fail_if_no_progress ((with_reducible apply HomeKept.mk1) <;> (first | with_reducible assumption | with_reducible rfl | skip))
    | with_reducible refine HomeKept.each (fun _ _ _ => ?_) ?_
    | with_reducible refine HomeKept.foldl2 (fun _ _ _ => ?_) ?_
    | with_reducible refine HomeKept.foldl (fun _ _ _ => ?_) ?_
    | extract_lets
    | with_reducible apply HomeKept.counters
    | with_reducible rfl
    | split)

theorem applyDue_homeKept {z0 : State} (i : SliceNo) (s : State)
    (hK : HomeKept z0 s) : HomeKept z0 (applyDue i s) := by
  unfold applyDue
  repeat' (first
    | with_reducible assumption
    | with_reducible apply stampPerform_homeKept
    | with_reducible apply applyOne_homeKept
    | with_reducible refine HomeKept.ite (fun _ => ?_) (fun _ => ?_)
    | fail_if_no_progress ((with_reducible apply HomeKept.mk1) <;> (first | with_reducible assumption | with_reducible rfl | skip))
    | with_reducible refine HomeKept.each (fun _ _ _ => ?_) ?_)

theorem dataToQ_homeKept {z0 : State} (i : SliceNo) (k : BKind) (m : BMsg) (fwdr poison : Bool) (osn : BitVec 12) (d : Line) (s : State)
    (hK : HomeKept z0 s) : HomeKept z0 (dataToQ i k m fwdr poison osn d s) := by
  unfold dataToQ
  repeat' (first
    | with_reducible assumption
    | with_reducible apply sendMsg_homeKept)

theorem dataToH_homeKept {z0 : State} (i : SliceNo) (k : BKind) (m : BMsg) (poison : Bool) (osn : BitVec 12) (d : Line) (s : State)
    (hK : HomeKept z0 s) : HomeKept z0 (dataToH i k m poison osn d s) := by
  unfold dataToH
  repeat' (first
    | with_reducible assumption
    | with_reducible apply sendMsg_homeKept)

theorem invAckTo_homeKept {z0 : State} (i : SliceNo) (k : BKind) (m : BMsg) (s : State)
    (hK : HomeKept z0 s) : HomeKept z0 (invAckTo i k m s) := by
  unfold invAckTo
  repeat' (first
    | with_reducible assumption
    | with_reducible apply State.emit_homeKept
    | with_reducible apply sendMsg_homeKept
    | with_reducible refine HomeKept.ite (fun _ => ?_) (fun _ => ?_))

theorem protoErr_homeKept {z0 : State} (k : BKind) (m : BMsg) (s : State)
    (hK : HomeKept z0 s) : HomeKept z0 (protoErr k m s) := by
  unfold protoErr
  repeat' (first
    | with_reducible assumption
    | with_reducible apply evProto_homeKept
    | with_reducible apply recLine_homeKept)

theorem cannotArise_homeKept {z0 : State} (i : SliceNo) (k : BKind) (m : BMsg) (s : State)
    (hK : HomeKept z0 s) : HomeKept z0 (cannotArise i k m s) := by
  unfold cannotArise
  repeat' (first
    | with_reducible assumption
    | with_reducible apply invAckTo_homeKept
    | with_reducible apply protoErr_homeKept)

theorem answerCopy_homeKept {z0 : State} (i : SliceNo) (k : BKind) (m : BMsg) (st : LState) (d : Slot) (poison : Bool) (s : State)
    (hK : HomeKept z0 s) : HomeKept z0 (answerCopy i k m st d poison s).2 := by
  unfold answerCopy
  repeat' (first
    | with_reducible assumption
    | with_reducible apply dataToQ_homeKept
    | with_reducible apply dataToH_homeKept
    | with_reducible apply invAckTo_homeKept
    | with_reducible refine HomeKept.ite (fun _ => ?_) (fun _ => ?_)
    | fail_if_no_progress ((with_reducible apply HomeKept.mk1) <;> (first | with_reducible assumption | with_reducible rfl | skip))
    | with_reducible refine HomeKept.each (fun _ _ _ => ?_) ?_
    | with_reducible refine HomeKept.foldl2 (fun _ _ _ => ?_) ?_
    | with_reducible refine HomeKept.foldl (fun _ _ _ => ?_) ?_
    | extract_lets
    | with_reducible apply HomeKept.counters
    | with_reducible rfl
    | split)

theorem holderEntry_homeKept {z0 : State} (i : SliceNo) (k : BKind) (m : BMsg) (t : STxn) (s : State)
    (hK : HomeKept z0 s) : HomeKept z0 (holderEntry i k m t s) := by
  unfold holderEntry
  repeat' (first
    | with_reducible assumption
    | with_reducible apply snoopFor_homeKept
    | with_reducible apply modTxn_homeKept
    | with_reducible apply cannotArise_homeKept
    | with_reducible apply answerCopy_homeKept
    | with_reducible refine HomeKept.ite (fun _ => ?_) (fun _ => ?_))

theorem holderCw_homeKept {z0 : State} (i : SliceNo) (k : BKind) (m : BMsg) (e : CwEnt) (s : State)
    (hK : HomeKept z0 s) : HomeKept z0 (holderCw i k m e s) := by
  unfold holderCw
  repeat' (first
    | with_reducible assumption
    | with_reducible apply State.modSl_homeKept
    | with_reducible apply invAckTo_homeKept
    | with_reducible apply cannotArise_homeKept
    | with_reducible apply answerCopy_homeKept
    | with_reducible refine HomeKept.ite (fun _ => ?_) (fun _ => ?_))

theorem holderRb_homeKept {z0 : State} (i : SliceNo) (k : BKind) (m : BMsg) (e : RbEnt) (s : State)
    (hK : HomeKept z0 s) : HomeKept z0 (holderRb i k m e s) := by
  unfold holderRb
  repeat' (first
    | with_reducible assumption
    | with_reducible apply State.modSl_homeKept
    | with_reducible apply dropRb_homeKept
    | with_reducible apply cannotArise_homeKept
    | with_reducible apply answerCopy_homeKept
    | with_reducible refine HomeKept.ite (fun _ => ?_) (fun _ => ?_))

theorem holderWay_homeKept {z0 : State} (i : SliceNo) (k : BKind) (m : BMsg) (w : Nat) (s : State)
    (hK : HomeKept z0 s) : HomeKept z0 (holderWay i k m w s) := by
  unfold holderWay
  repeat' (first
    | with_reducible assumption
    | with_reducible apply State.modSl_homeKept
    | with_reducible apply readSlot_homeKept
    | with_reducible apply dropWay_homeKept
    | with_reducible apply pendWay_homeKept
    | with_reducible apply modTxn_homeKept
    | with_reducible apply answerCopy_homeKept
    | with_reducible refine HomeKept.ite (fun _ => ?_) (fun _ => ?_)
    | fail_if_no_progress ((with_reducible apply HomeKept.mk1) <;> (first | with_reducible assumption | with_reducible rfl | skip))
    | with_reducible refine HomeKept.each (fun _ _ _ => ?_) ?_
    | with_reducible refine HomeKept.foldl2 (fun _ _ _ => ?_) ?_
    | with_reducible refine HomeKept.foldl (fun _ _ _ => ?_) ?_
    | extract_lets
    | with_reducible apply HomeKept.counters
    | with_reducible rfl
    | split)

theorem holderNone_homeKept {z0 : State} (i : SliceNo) (k : BKind) (m : BMsg) (s : State)
    (hK : HomeKept z0 s) : HomeKept z0 (holderNone i k m s) := by
  unfold holderNone
  repeat' (first
    | with_reducible assumption
    | with_reducible apply modTxn_homeKept
    | with_reducible apply invAckTo_homeKept
    | with_reducible apply cannotArise_homeKept
    | with_reducible apply answerCopy_homeKept
    | with_reducible refine HomeKept.ite (fun _ => ?_) (fun _ => ?_)
    | fail_if_no_progress ((with_reducible apply HomeKept.mk1) <;> (first | with_reducible assumption | with_reducible rfl | skip))
    | with_reducible refine HomeKept.each (fun _ _ _ => ?_) ?_
    | with_reducible refine HomeKept.foldl2 (fun _ _ _ => ?_) ?_
    | with_reducible refine HomeKept.foldl (fun _ _ _ => ?_) ?_
    | extract_lets
    | with_reducible apply HomeKept.counters
    | with_reducible rfl
    | split)

theorem holderGo_homeKept {z0 : State} (i : SliceNo) (k : BKind) (m : BMsg) (snooped : Bool) (s0 : State)
    (hK : HomeKept z0 s0) : HomeKept z0 (holderGo i k m snooped s0) := by
  unfold holderGo
  repeat' (first
    | with_reducible assumption
    | with_reducible apply snoopFor_homeKept
    | with_reducible apply lookEntry_homeKept
    | with_reducible apply cannotArise_homeKept
    | with_reducible apply holderEntry_homeKept
    | with_reducible apply holderCw_homeKept
    | with_reducible apply holderRb_homeKept
    | with_reducible apply holderWay_homeKept
    | with_reducible apply holderNone_homeKept
    | with_reducible refine HomeKept.ite (fun _ => ?_) (fun _ => ?_)
    | fail_if_no_progress ((with_reducible apply HomeKept.mk1) <;> (first | with_reducible assumption | with_reducible rfl | skip))
    | with_reducible refine HomeKept.each (fun _ _ _ => ?_) ?_
    | with_reducible refine HomeKept.foldl2 (fun _ _ _ => ?_) ?_
    | with_reducible refine HomeKept.foldl (fun _ _ _ => ?_) ?_
    | extract_lets
    | with_reducible apply HomeKept.counters
    | with_reducible rfl
    | split
    | with_reducible refine HomeKept.of_snd (by with_reducible assumption) ?_
    | dsimp +zetaDelta only)

theorem holder_homeKept {z0 : State} (i : SliceNo) (k : BKind) (m : BMsg) (s : State)
    (hK : HomeKept z0 s) : HomeKept z0 (holder i k m s) := by
  unfold holder
  repeat' (first
    | with_reducible assumption
    | with_reducible apply State.modSl_homeKept
    | with_reducible apply holderGo_homeKept
    | with_reducible refine HomeKept.ite (fun _ => ?_) (fun _ => ?_))

theorem countCmd_homeKept {z0 : State} (wr disc : Nat) (s : State)
    (hK : HomeKept z0 s) : HomeKept z0 (countCmd wr disc s) := by
  unfold countCmd
  repeat' (first
    | with_reducible assumption
    | with_reducible refine HomeKept.ite (fun _ => ?_) (fun _ => ?_)
    | fail_if_no_progress ((with_reducible apply HomeKept.mk1) <;> (first | with_reducible assumption | with_reducible rfl | skip)))

theorem walkEvict_homeKept {z0 : State} (i : SliceNo) (set w : Nat) (discard cmd : Bool) (s : State)
    (hK : HomeKept z0 s) : HomeKept z0 (walkEvict i set w discard cmd s) := by
  unfold walkEvict
  repeat' (first
    | with_reducible assumption
    | with_reducible apply evictWay_homeKept
    | with_reducible apply countCmd_homeKept
    | with_reducible refine HomeKept.ite (fun _ => ?_) (fun _ => ?_))

theorem cleanStep_homeKept {z0 : State} (i : SliceNo) (set w : Nat) (cmd : Bool) (s : State)
    (hK : HomeKept z0 s) : HomeKept z0 (cleanStep i set w cmd s) := by
  unfold cleanStep
  repeat' (first
    | with_reducible assumption
    | with_reducible apply State.modSl_homeKept
    | with_reducible apply readSlot_homeKept
    | with_reducible apply sendPut_homeKept
    | with_reducible apply evictWay_homeKept
    | with_reducible apply countCmd_homeKept
    | with_reducible refine HomeKept.ite (fun _ => ?_) (fun _ => ?_)
    | fail_if_no_progress ((with_reducible apply HomeKept.mk1) <;> (first | with_reducible assumption | with_reducible rfl | skip))
    | with_reducible refine HomeKept.each (fun _ _ _ => ?_) ?_
    | with_reducible refine HomeKept.foldl2 (fun _ _ _ => ?_) ?_
    | with_reducible refine HomeKept.foldl (fun _ _ _ => ?_) ?_
    | extract_lets
    | with_reducible apply HomeKept.counters
    | with_reducible rfl
    | split)

theorem visit_homeKept {z0 : State} (i : SliceNo) (k : WalkKind) (set w : Nat) (s : State)
    (hK : HomeKept z0 s) : HomeKept z0 (visit i k set w s).2 := by
  unfold visit
  repeat' (first
    | with_reducible assumption
    | with_reducible apply snoopFor_homeKept
    | with_reducible apply performed_homeKept
    | with_reducible apply walkEvict_homeKept
    | with_reducible apply cleanStep_homeKept
    | with_reducible refine HomeKept.ite (fun _ => ?_) (fun _ => ?_)
    | fail_if_no_progress ((with_reducible apply HomeKept.mk1) <;> (first | with_reducible assumption | with_reducible rfl | skip))
    | with_reducible refine HomeKept.each (fun _ _ _ => ?_) ?_
    | with_reducible refine HomeKept.foldl2 (fun _ _ _ => ?_) ?_
    | with_reducible refine HomeKept.foldl (fun _ _ _ => ?_) ?_
    | extract_lets
    | with_reducible apply HomeKept.counters
    | with_reducible rfl
    | split)

theorem visitNext_homeKept {z0 t : State} {i : SliceNo} {k : WalkKind} {s : State} (hK : HomeKept z0 s) (e : visitNext i k s = some t) :
    HomeKept z0 t := by
  unfold visitNext at e
  split at e
  · cases e
  · split at e
    · cases e
    · dsimp only at e
      split at e
      · cases e
        exact State.modSl_homeKept _ _ _ (visit_homeKept _ _ _ _ _ hK)
      · cases e

theorem walkRun_homeKept {z0 : State} (i : SliceNo) (k : WalkKind) (n : Nat) (s : State) (hK : HomeKept z0 s) : HomeKept z0 (walkRun i k n s) := by
  induction n generalizing s with
  | zero => exact hK
  | succ n ih =>
    unfold walkRun
    split
    · exact ih _ (visitNext_homeKept hK ‹_›)
    · exact hK

theorem pumpWalks_homeKept {z0 : State} (i : SliceNo) (s : State)
    (hK : HomeKept z0 s) : HomeKept z0 (pumpWalks i s) := by
  unfold pumpWalks
  repeat' (first
    | with_reducible assumption
    | with_reducible apply walkRun_homeKept
    | with_reducible refine HomeKept.ite (fun _ => ?_) (fun _ => ?_)
    | fail_if_no_progress ((with_reducible apply HomeKept.mk1) <;> (first | with_reducible assumption | with_reducible rfl | skip))
    | with_reducible refine HomeKept.each (fun _ _ _ => ?_) ?_)

theorem startWalk_homeKept {z0 : State} (i : SliceNo) (k : WalkKind) (s : State)
    (hK : HomeKept z0 s) : HomeKept z0 (startWalk i k s) := by
  unfold startWalk
  repeat' (first
    | with_reducible assumption
    | with_reducible apply State.modSl_homeKept)

theorem modCmd_homeKept {z0 : State} (f : WalkCmd → WalkCmd) (s : State)
    (hK : HomeKept z0 s) : HomeKept z0 (modCmd f s) := by
  unfold modCmd
  repeat' (first
    | with_reducible assumption
    | with_reducible refine HomeKept.ite (fun _ => ?_) (fun _ => ?_)
    | fail_if_no_progress ((with_reducible apply HomeKept.mk1) <;> (first | with_reducible assumption | with_reducible rfl | skip)))

theorem lockLine_homeKept {z0 : State} (l : LAddr) (s : State)
    (hK : HomeKept z0 s) : HomeKept z0 (lockLine l s).2 := by
  unfold lockLine
  repeat' (first
    | with_reducible assumption
    | refine shadowFor_homeKept ?_ (by with_reducible assumption)
    | with_reducible apply State.modSl_homeKept
    | with_reducible apply readSlot_homeKept
    | with_reducible apply writeSlot_homeKept
    | with_reducible apply openTxn_homeKept
    | with_reducible apply giveUpRb_homeKept
    | with_reducible refine HomeKept.ite (fun _ => ?_) (fun _ => ?_)
    | fail_if_no_progress ((with_reducible apply HomeKept.mk1) <;> (first | with_reducible assumption | with_reducible rfl | skip))
    | with_reducible refine HomeKept.each (fun _ _ _ => ?_) ?_
    | with_reducible refine HomeKept.foldl2 (fun _ _ _ => ?_) ?_
    | with_reducible refine HomeKept.foldl (fun _ _ _ => ?_) ?_
    | extract_lets
    | with_reducible apply HomeKept.counters
    | with_reducible rfl
    | split)

theorem lockCount_homeKept {z0 : State} (l : LAddr) (y : LockStep × State) (hK : HomeKept z0 y.2) : HomeKept z0 (lockCount l y) := by
  unfold lockCount
  repeat' (first
    | with_reducible assumption
    | with_reducible apply modCmd_homeKept
    | with_reducible refine HomeKept.ite (fun _ => ?_) (fun _ => ?_)
    | fail_if_no_progress ((with_reducible apply HomeKept.mk1) <;> (first | with_reducible assumption | with_reducible rfl | skip))
    | with_reducible refine HomeKept.each (fun _ _ _ => ?_) ?_
    | with_reducible refine HomeKept.foldl2 (fun _ _ _ => ?_) ?_
    | with_reducible refine HomeKept.foldl (fun _ _ _ => ?_) ?_
    | extract_lets
    | with_reducible apply HomeKept.counters
    | with_reducible rfl
    | split)

theorem lockPump_homeKept {z0 : State} (s : State)
    (hK : HomeKept z0 s) : HomeKept z0 (lockPump s) := by
  unfold lockPump
  repeat' (first
    | with_reducible assumption
    | with_reducible apply lockLine_homeKept
    | with_reducible apply lockCount_homeKept
    | with_reducible refine HomeKept.ite (fun _ => ?_) (fun _ => ?_)
    | fail_if_no_progress ((with_reducible apply HomeKept.mk1) <;> (first | with_reducible assumption | with_reducible rfl | skip))
    | with_reducible refine HomeKept.each (fun _ _ _ => ?_) ?_
    | with_reducible refine HomeKept.foldl2 (fun _ _ _ => ?_) ?_
    | with_reducible refine HomeKept.foldl (fun _ _ _ => ?_) ?_
    | extract_lets
    | with_reducible apply HomeKept.counters
    | with_reducible rfl
    | split)

theorem lockNext_homeKept {z0 t : State} (i : SliceNo) (s : State) (hK : HomeKept z0 s) (e : lockNext i s = some t) : HomeKept z0 t := by
  unfold lockNext at e
  split at e
  · cases e
  · split at e
    · cases e
    · split at e
      · cases e
      · dsimp only at e
        split at e
        · cases e
        · cases e; exact lockCount_homeKept _ _ (lockLine_homeKept _ _ hK)

theorem walkPass_homeKept {z0 t : State} (i : SliceNo) (s : State) (hK : HomeKept z0 s) (e : walkPass i s = some t) : HomeKept z0 t := by
  unfold walkPass at e
  split at e
  · cases e
  · split at e
    · rename_i u h
      cases e
      obtain ⟨k, -, hk⟩ := List.exists_of_findSome?_eq_some h
      exact visitNext_homeKept hK hk
    · exact lockNext_homeKept _ _ hK e

theorem walkPass_getD_homeKept {z0 : State} (i : SliceNo) (s : State) (hK : HomeKept z0 s) : HomeKept z0 ((walkPass i s).getD s) := by
  cases e : walkPass i s with
  | none => exact hK
  | some t => exact walkPass_homeKept _ _ hK e

theorem arbPass_homeKept {z0 : State} (i : SliceNo) (cls : Cls) (p : Port) (s : State)
    (hK : HomeKept z0 s) : HomeKept z0 (arbPass i cls p s) := by
  unfold arbPass
  repeat' (first
    | with_reducible assumption
    | apply walkPass_getD_homeKept
    | with_reducible apply decideIn_homeKept
    | with_reducible refine HomeKept.ite (fun _ => ?_) (fun _ => ?_)
    | fail_if_no_progress ((with_reducible apply HomeKept.mk1) <;> (first | with_reducible assumption | with_reducible rfl | skip))
    | with_reducible refine HomeKept.each (fun _ _ _ => ?_) ?_
    | with_reducible refine HomeKept.foldl2 (fun _ _ _ => ?_) ?_
    | with_reducible refine HomeKept.foldl (fun _ _ _ => ?_) ?_
    | extract_lets
    | with_reducible apply HomeKept.counters
    | with_reducible rfl
    | split)

theorem arbIdle_homeKept {z0 : State} (i : SliceNo) (s : State)
    (hK : HomeKept z0 s) : HomeKept z0 (arbIdle i s) := by
  unfold arbIdle
  repeat' (first
    | with_reducible assumption
    | apply walkPass_getD_homeKept
    | with_reducible apply decideIn_homeKept
    | with_reducible refine HomeKept.ite (fun _ => ?_) (fun _ => ?_)
    | fail_if_no_progress ((with_reducible apply HomeKept.mk1) <;> (first | with_reducible assumption | with_reducible rfl | skip))
    | with_reducible refine HomeKept.each (fun _ _ _ => ?_) ?_
    | with_reducible refine HomeKept.foldl2 (fun _ _ _ => ?_) ?_
    | with_reducible refine HomeKept.foldl (fun _ _ _ => ?_) ?_
    | extract_lets
    | with_reducible apply HomeKept.counters
    | with_reducible rfl
    | split)

theorem exceptionOf_homeKept {z0 : State} (r : Req) (s : State)
    (hK : HomeKept z0 s) : HomeKept z0 (exceptionOf r s) := by
  unfold exceptionOf
  repeat' (first
    | with_reducible assumption
    | with_reducible apply complete_homeKept
    | with_reducible apply clearRsvAll_homeKept
    | with_reducible apply issueEvery_homeKept
    | with_reducible apply closeEntries_homeKept)

theorem anyAccess_homeKept {z0 : State} (r : Req) (snooped : Bool) (s : State)
    (hK : HomeKept z0 s) : HomeKept z0 (anyAccess r snooped s) := by
  unfold anyAccess
  repeat' (first
    | with_reducible assumption
    | with_reducible apply access_homeKept
    | with_reducible apply stampAccess_homeKept
    | with_reducible apply exceptionOf_homeKept
    | with_reducible refine HomeKept.ite (fun _ => ?_) (fun _ => ?_))

theorem rbInto_homeKept {z0 t : State} {i : SliceNo} {l : LAddr} {set w : Nat} {hp : BitVec 4} {s : State} (hK : HomeKept z0 s)
    (e : rbInto i l set w hp s = some t) : HomeKept z0 t := by
  obtain ⟨y, -, rfl⟩ := Option.map_eq_some_iff.1 e
  exact rbMove_homeKept _ _ _ _ _ (evictWay_homeKept _ _ _ _ _ hK)

theorem rbInto_getD_homeKept {z0 d : State} {i : SliceNo} {l : LAddr} {set w : Nat} {hp : BitVec 4} {s : State} (hK : HomeKept z0 s)
    (hd : HomeKept z0 d) : HomeKept z0 ((rbInto i l set w hp s).getD d) := by
  cases e : rbInto i l set w hp s with
  | none => exact hd
  | some t => exact rbInto_homeKept hK e

theorem runAct_homeKept {z0 : State} (i : SliceNo) (a : Act) (s : State)
    (hK : HomeKept z0 s) : HomeKept z0 (runAct i a s) := by
  unfold runAct
  repeat' (first
    | with_reducible assumption
    | refine rbInto_homeKept (by with_reducible assumption) (by with_reducible assumption)
    | refine rbInto_getD_homeKept ?_ ?_
    | with_reducible apply evictWay_homeKept
    | with_reducible apply missInto_homeKept
    | with_reducible apply rbMove_homeKept
    | with_reducible apply rbCarry_homeKept
    | with_reducible apply wmbGo_homeKept
    | with_reducible apply ntcGo_homeKept
    | with_reducible apply stampPerform_homeKept
    | with_reducible apply placeApplied_homeKept
    | with_reducible apply holderGo_homeKept
    | with_reducible apply holder_homeKept
    | with_reducible apply walkEvict_homeKept
    | with_reducible apply cleanStep_homeKept
    | with_reducible apply anyAccess_homeKept
    | with_reducible refine HomeKept.ite (fun _ => ?_) (fun _ => ?_)
    | fail_if_no_progress ((with_reducible apply HomeKept.mk1) <;> (first | with_reducible assumption | with_reducible rfl | skip))
    | with_reducible refine HomeKept.each (fun _ _ _ => ?_) ?_
    | with_reducible refine HomeKept.foldl2 (fun _ _ _ => ?_) ?_
    | with_reducible refine HomeKept.foldl (fun _ _ _ => ?_) ?_
    | extract_lets
    | with_reducible apply HomeKept.counters
    | with_reducible rfl
    | split)

theorem runBlocked_homeKept {z0 : State} (i : SliceNo) (n : Nat) (s : State)
    (hK : HomeKept z0 s) : HomeKept z0 (runBlocked i n s) := by
  induction n generalizing s with
  | zero => exact hK
  | succ n ih =>
    unfold runBlocked
    repeat' (first
    | with_reducible assumption
    | with_reducible apply ih
    | with_reducible apply holderGo_homeKept
    | with_reducible apply runAct_homeKept
    | with_reducible apply State.modSl_homeKept
    | with_reducible refine HomeKept.ite (fun _ => ?_) (fun _ => ?_)
    | fail_if_no_progress ((with_reducible apply HomeKept.mk1) <;> (first | with_reducible assumption | with_reducible rfl | skip))
    | with_reducible refine HomeKept.each (fun _ _ _ => ?_) ?_
    | with_reducible refine HomeKept.foldl2 (fun _ _ _ => ?_) ?_
    | with_reducible refine HomeKept.foldl (fun _ _ _ => ?_) ?_
    | extract_lets
    | with_reducible apply HomeKept.counters
    | with_reducible rfl
    | split)

theorem rerun_homeKept {z0 : State} (rs : List Req) (s : State)
    (hK : HomeKept z0 s) : HomeKept z0 (rerun rs s) := by
  unfold rerun
  repeat' (first
    | with_reducible assumption
    | with_reducible apply anyAccess_homeKept
    | with_reducible refine HomeKept.ite (fun _ => ?_) (fun _ => ?_)
    | fail_if_no_progress ((with_reducible apply HomeKept.mk1) <;> (first | with_reducible assumption | with_reducible rfl | skip))
    | with_reducible refine HomeKept.each (fun _ _ _ => ?_) ?_)

theorem unfill_homeKept {z0 : State} (i : SliceNo) (t : STxn) (s : State)
    (hK : HomeKept z0 s) : HomeKept z0 (unfill i t s) := by
  unfold unfill
  repeat' (first
    | with_reducible assumption
    | with_reducible apply State.modSl_homeKept
    | with_reducible refine HomeKept.ite (fun _ => ?_) (fun _ => ?_)
    | fail_if_no_progress ((with_reducible apply HomeKept.mk1) <;> (first | with_reducible assumption | with_reducible rfl | skip))
    | with_reducible refine HomeKept.each (fun _ _ _ => ?_) ?_
    | with_reducible refine HomeKept.foldl2 (fun _ _ _ => ?_) ?_
    | with_reducible refine HomeKept.foldl (fun _ _ _ => ?_) ?_
    | extract_lets
    | with_reducible apply HomeKept.counters
    | with_reducible rfl
    | split)

theorem predGrant_homeKept {z0 : State} (i : SliceNo) (t : STxn) (fromHome waitcmp : Bool) (s : State)
    (hK : HomeKept z0 s) : HomeKept z0 (predGrant i t fromHome waitcmp s) := by
  unfold predGrant
  repeat' (first
    | with_reducible assumption
    | with_reducible apply State.modSl_homeKept
    | with_reducible refine HomeKept.ite (fun _ => ?_) (fun _ => ?_))

theorem serveOnce_homeKept {z0 : State} (rs : List Req) (d : Line) (poison : Bool) (s : State)
    (hK : HomeKept z0 s) : HomeKept z0 (serveOnce rs d poison s) := by
  unfold serveOnce
  repeat' (first
    | with_reducible assumption
    | with_reducible apply giveRead_homeKept
    | with_reducible apply anyAccess_homeKept
    | with_reducible refine HomeKept.ite (fun _ => ?_) (fun _ => ?_)
    | fail_if_no_progress ((with_reducible apply HomeKept.mk1) <;> (first | with_reducible assumption | with_reducible rfl | skip))
    | with_reducible refine HomeKept.each (fun _ _ _ => ?_) ?_)

theorem lockFilled_homeKept {z0 : State} (l : LAddr) (s : State)
    (hK : HomeKept z0 s) : HomeKept z0 (lockFilled l s) := by
  unfold lockFilled
  repeat' (first
    | with_reducible assumption
    | with_reducible refine HomeKept.ite (fun _ => ?_) (fun _ => ?_)
    | fail_if_no_progress ((with_reducible apply HomeKept.mk1) <;> (first | with_reducible assumption | with_reducible rfl | skip)))

theorem fill_homeKept {z0 : State} (i : SliceNo) (t : STxn) (st : LState) (d : Slot) (poison : Bool) (s : State)
    (hK : HomeKept z0 s) : HomeKept z0 (fill i t st d poison s) := by
  unfold fill
  repeat' (first
    | with_reducible assumption
    | with_reducible apply State.modSl_homeKept
    | with_reducible apply rowOpen_homeKept
    | with_reducible apply writeSlot_homeKept
    | with_reducible apply sendPut_homeKept
    | with_reducible apply modTxn_homeKept
    | with_reducible apply closeTxn_homeKept
    | with_reducible apply rerun_homeKept
    | with_reducible apply unfill_homeKept
    | with_reducible apply serveOnce_homeKept
    | with_reducible apply lockFilled_homeKept
    | with_reducible refine HomeKept.ite (fun _ => ?_) (fun _ => ?_)
    | fail_if_no_progress ((with_reducible apply HomeKept.mk1) <;> (first | with_reducible assumption | with_reducible rfl | skip))
    | with_reducible refine HomeKept.each (fun _ _ _ => ?_) ?_
    | with_reducible refine HomeKept.foldl2 (fun _ _ _ => ?_) ?_
    | with_reducible refine HomeKept.foldl (fun _ _ _ => ?_) ?_
    | extract_lets
    | with_reducible apply HomeKept.counters
    | with_reducible rfl
    | split)

theorem grantIn_homeKept {z0 : State} (i : SliceNo) (t : STxn) (ack : Bool) (htid : BitVec 12) (s : State)
    (hK : HomeKept z0 s) : HomeKept z0 (grantIn i t ack htid s) := by
  unfold grantIn
  repeat' (first
    | with_reducible assumption
    | with_reducible apply modTxn_homeKept
    | with_reducible apply sendAck_homeKept
    | with_reducible apply fill_homeKept
    | with_reducible refine HomeKept.ite (fun _ => ?_) (fun _ => ?_))

theorem fillRetry_homeKept {z0 : State} (i : SliceNo) (s : State)
    (hK : HomeKept z0 s) : HomeKept z0 (fillRetry i s) := by
  unfold fillRetry
  repeat' (first
    | with_reducible assumption
    | with_reducible apply grantIn_homeKept
    | with_reducible refine HomeKept.ite (fun _ => ?_) (fun _ => ?_)
    | fail_if_no_progress ((with_reducible apply HomeKept.mk1) <;> (first | with_reducible assumption | with_reducible rfl | skip))
    | with_reducible refine HomeKept.each (fun _ _ _ => ?_) ?_)

theorem settle_homeKept {z0 : State} (i : SliceNo) (s : State)
    (hK : HomeKept z0 s) : HomeKept z0 (settle i s) := by
  unfold settle
  repeat' (first
    | with_reducible assumption
    | with_reducible apply rbFree_homeKept
    | with_reducible apply rbRetry_homeKept
    | with_reducible apply issueAll_homeKept
    | with_reducible apply applyDue_homeKept
    | with_reducible apply runBlocked_homeKept
    | with_reducible apply fillRetry_homeKept
    | with_reducible refine HomeKept.ite (fun _ => ?_) (fun _ => ?_))

theorem groupAnswer_homeKept {z0 : State} (i : SliceNo) (grp : Nat) (p : Port) (s : State)
    (hK : HomeKept z0 s) : HomeKept z0 (groupAnswer i grp p s) := by
  unfold groupAnswer
  repeat' (first
    | with_reducible assumption
    | with_reducible apply State.modSl_homeKept
    | with_reducible apply runAct_homeKept
    | with_reducible apply runBlocked_homeKept
    | with_reducible apply settle_homeKept
    | with_reducible refine HomeKept.ite (fun _ => ?_) (fun _ => ?_)
    | fail_if_no_progress ((with_reducible apply HomeKept.mk1) <;> (first | with_reducible assumption | with_reducible rfl | skip))
    | with_reducible refine HomeKept.each (fun _ _ _ => ?_) ?_
    | with_reducible refine HomeKept.foldl2 (fun _ _ _ => ?_) ?_
    | with_reducible refine HomeKept.foldl (fun _ _ _ => ?_) ?_
    | extract_lets
    | with_reducible apply HomeKept.counters
    | with_reducible rfl
    | split)

theorem snoopEnds_homeKept {z0 : State} (p : Port) (n : Snp) (gone : Bool) (data : Option (Line × Bool)) (opc : BitVec 6) (s : State)
    (hK : HomeKept z0 s) : HomeKept z0 (snoopEnds p n gone data opc s) := by
  unfold snoopEnds
  repeat' (first
    | with_reducible assumption
    | with_reducible apply State.modHp_homeKept
    | with_reducible apply hostErr_homeKept
    | with_reducible apply dropHp_homeKept
    | with_reducible apply mergeHost_homeKept
    | with_reducible apply groupAnswer_homeKept
    | with_reducible refine HomeKept.ite (fun _ => ?_) (fun _ => ?_)
    | fail_if_no_progress ((with_reducible apply HomeKept.mk1) <;> (first | with_reducible assumption | with_reducible rfl | skip))
    | with_reducible refine HomeKept.each (fun _ _ _ => ?_) ?_
    | with_reducible refine HomeKept.foldl2 (fun _ _ _ => ?_) ?_
    | with_reducible refine HomeKept.foldl (fun _ _ _ => ?_) ?_
    | extract_lets
    | with_reducible apply HomeKept.counters
    | with_reducible rfl
    | split)

theorem strayData_homeKept {z0 : State} (i : SliceNo) (k : BKind) (m : BMsg) (s : State)
    (hK : HomeKept z0 s) : HomeKept z0 (strayData i k m s) := by
  unfold strayData
  repeat' (first
    | with_reducible assumption
    | with_reducible apply invAckTo_homeKept
    | with_reducible apply protoErr_homeKept)

theorem pfqData_homeKept {z0 : State} (i : SliceNo) (t : STxn) (st : LState) (m : BMsg) (ack : Bool) (s : State)
    (hK : HomeKept z0 s) : HomeKept z0 (pfqData i t st m ack s) := by
  unfold pfqData
  repeat' (first
    | with_reducible assumption
    | with_reducible apply State.modSl_homeKept
    | with_reducible apply stampLost_homeKept
    | with_reducible apply closeTxn_homeKept
    | with_reducible apply dropRb_homeKept
    | with_reducible apply sendAck_homeKept
    | with_reducible apply rerun_homeKept
    | with_reducible apply serveOnce_homeKept
    | with_reducible refine HomeKept.ite (fun _ => ?_) (fun _ => ?_))

theorem grantSeen_homeKept {z0 : State} (t : STxn) (s : State)
    (hK : HomeKept z0 s) : HomeKept z0 (grantSeen t s) := by
  unfold grantSeen
  repeat' (first
    | with_reducible assumption
    | with_reducible refine HomeKept.ite (fun _ => ?_) (fun _ => ?_)
    | fail_if_no_progress ((with_reducible apply HomeKept.mk1) <;> (first | with_reducible assumption | with_reducible rfl | skip))
    | with_reducible refine HomeKept.each (fun _ _ _ => ?_) ?_
    | with_reducible refine HomeKept.foldl2 (fun _ _ _ => ?_) ?_
    | with_reducible refine HomeKept.foldl (fun _ _ _ => ?_) ?_
    | extract_lets
    | with_reducible apply HomeKept.counters
    | with_reducible rfl
    | split
    | with_reducible refine HomeKept.of_snd (by with_reducible assumption) ?_
    | dsimp +zetaDelta only
    | intro)

theorem onData_homeKept {z0 : State} (k : BKind) (m : BMsg) (s0 : State)
    (hK : HomeKept z0 s0) : HomeKept z0 (onData k m s0) := by
  unfold onData
  repeat' (first
    | with_reducible assumption
    | with_reducible apply modTxn_homeKept
    | with_reducible apply closeTxn_homeKept
    | with_reducible apply giveRead_homeKept
    | with_reducible apply stampGrant_homeKept
    | with_reducible apply predGrant_homeKept
    | with_reducible apply grantIn_homeKept
    | with_reducible apply settle_homeKept
    | with_reducible apply strayData_homeKept
    | with_reducible apply pfqData_homeKept
    | with_reducible apply grantSeen_homeKept
    | with_reducible refine HomeKept.ite (fun _ => ?_) (fun _ => ?_)
    | fail_if_no_progress ((with_reducible apply HomeKept.mk1) <;> (first | with_reducible assumption | with_reducible rfl | skip))
    | with_reducible refine HomeKept.each (fun _ _ _ => ?_) ?_
    | with_reducible refine HomeKept.foldl2 (fun _ _ _ => ?_) ?_
    | with_reducible refine HomeKept.foldl (fun _ _ _ => ?_) ?_
    | extract_lets
    | with_reducible apply HomeKept.counters
    | with_reducible rfl
    | split)

theorem endReqs_homeKept {z0 : State} (t : STxn) (dead : Bool) (s : State)
    (hK : HomeKept z0 s) : HomeKept z0 (endReqs t dead s) := by
  unfold endReqs
  repeat' (first
    | with_reducible assumption
    | with_reducible apply completeErr_homeKept
    | with_reducible apply completeDead_homeKept
    | with_reducible refine HomeKept.ite (fun _ => ?_) (fun _ => ?_)
    | fail_if_no_progress ((with_reducible apply HomeKept.mk1) <;> (first | with_reducible assumption | with_reducible rfl | skip))
    | with_reducible refine HomeKept.each (fun _ _ _ => ?_) ?_)

theorem endEntries_homeKept {z0 : State} (i : SliceNo) (t : STxn) (s : State)
    (hK : HomeKept z0 s) : HomeKept z0 (endEntries i t s) := by
  unfold endEntries
  repeat' (first
    | with_reducible assumption
    | with_reducible apply freeWmb_homeKept
    | with_reducible apply freeNtc_homeKept
    | with_reducible refine HomeKept.ite (fun _ => ?_) (fun _ => ?_)
    | fail_if_no_progress ((with_reducible apply HomeKept.mk1) <;> (first | with_reducible assumption | with_reducible rfl | skip))
    | with_reducible refine HomeKept.each (fun _ _ _ => ?_) ?_
    | with_reducible refine HomeKept.foldl2 (fun _ _ _ => ?_) ?_
    | with_reducible refine HomeKept.foldl (fun _ _ _ => ?_) ?_
    | extract_lets
    | with_reducible apply HomeKept.counters
    | with_reducible rfl
    | split
    | with_reducible refine HomeKept.of_snd (by with_reducible assumption) ?_
    | dsimp +zetaDelta only)

theorem endTxn_homeKept {z0 : State} (i : SliceNo) (t : STxn) (s : State)
    (hK : HomeKept z0 s) : HomeKept z0 (endTxn i t s) := by
  unfold endTxn
  repeat' (first
    | with_reducible assumption
    | with_reducible apply modTxn_homeKept
    | with_reducible apply closeTxn_homeKept
    | with_reducible apply dropRb_homeKept
    | with_reducible apply unfill_homeKept
    | with_reducible apply endEntries_homeKept
    | with_reducible refine HomeKept.ite (fun _ => ?_) (fun _ => ?_))

theorem deadTxn_homeKept {z0 : State} (i : SliceNo) (t : STxn) (s : State)
    (hK : HomeKept z0 s) : HomeKept z0 (deadTxn i t s) := by
  unfold deadTxn
  repeat' (first
    | with_reducible assumption
    | with_reducible apply evDeadDone_homeKept
    | with_reducible apply rerun_homeKept
    | with_reducible apply endReqs_homeKept
    | with_reducible apply endTxn_homeKept
    | with_reducible refine HomeKept.ite (fun _ => ?_) (fun _ => ?_))

theorem upgCmp_homeKept {z0 : State} (i : SliceNo) (t : STxn) (m : BMsg) (s : State)
    (hK : HomeKept z0 s) : HomeKept z0 (upgCmp i t m s) := by
  unfold upgCmp
  repeat' (first
    | with_reducible assumption
    | with_reducible apply State.modSl_homeKept
    | with_reducible apply readSlot_homeKept
    | with_reducible apply writeSlot_homeKept
    | with_reducible apply closeTxn_homeKept
    | with_reducible apply sendAck_homeKept
    | with_reducible apply rerun_homeKept
    | with_reducible apply predGrant_homeKept
    | with_reducible apply strayData_homeKept
    | with_reducible refine HomeKept.ite (fun _ => ?_) (fun _ => ?_)
    | fail_if_no_progress ((with_reducible apply HomeKept.mk1) <;> (first | with_reducible assumption | with_reducible rfl | skip))
    | with_reducible refine HomeKept.each (fun _ _ _ => ?_) ?_
    | with_reducible refine HomeKept.foldl2 (fun _ _ _ => ?_) ?_
    | with_reducible refine HomeKept.foldl (fun _ _ _ => ?_) ?_
    | extract_lets
    | with_reducible apply HomeKept.counters
    | with_reducible rfl
    | split)

theorem wrUCmp_homeKept {z0 : State} (i : SliceNo) (t : STxn) (m : BMsg) (s : State)
    (hK : HomeKept z0 s) : HomeKept z0 (wrUCmp i t m s) := by
  unfold wrUCmp
  repeat' (first
    | with_reducible assumption
    | with_reducible apply closeTxn_homeKept
    | with_reducible apply writeWay_homeKept
    | with_reducible apply sendAck_homeKept
    | with_reducible apply endEntries_homeKept
    | with_reducible refine HomeKept.ite (fun _ => ?_) (fun _ => ?_)
    | fail_if_no_progress ((with_reducible apply HomeKept.mk1) <;> (first | with_reducible assumption | with_reducible rfl | skip))
    | with_reducible refine HomeKept.each (fun _ _ _ => ?_) ?_
    | with_reducible refine HomeKept.foldl2 (fun _ _ _ => ?_) ?_
    | with_reducible refine HomeKept.foldl (fun _ _ _ => ?_) ?_
    | extract_lets
    | with_reducible apply HomeKept.counters
    | with_reducible rfl
    | split)

theorem amoCmp_homeKept {z0 : State} (i : SliceNo) (t : STxn) (m : BMsg) (s : State)
    (hK : HomeKept z0 s) : HomeKept z0 (amoCmp i t m s) := by
  unfold amoCmp
  repeat' (first
    | with_reducible assumption
    | with_reducible apply completeData_homeKept
    | with_reducible apply stampCheck_homeKept
    | with_reducible apply closeTxn_homeKept
    | with_reducible apply atomErr_homeKept
    | with_reducible apply sendAck_homeKept
    | with_reducible refine HomeKept.ite (fun _ => ?_) (fun _ => ?_)
    | fail_if_no_progress ((with_reducible apply HomeKept.mk1) <;> (first | with_reducible assumption | with_reducible rfl | skip))
    | with_reducible refine HomeKept.each (fun _ _ _ => ?_) ?_)

theorem onCmp_homeKept {z0 : State} (m : BMsg) (s0 : State)
    (hK : HomeKept z0 s0) : HomeKept z0 (onCmp m s0) := by
  unfold onCmp
  repeat' (first
    | with_reducible assumption
    | with_reducible apply sendAck_homeKept
    | with_reducible apply stampGrant_homeKept
    | with_reducible apply rerun_homeKept
    | with_reducible apply grantIn_homeKept
    | with_reducible apply settle_homeKept
    | with_reducible apply strayData_homeKept
    | with_reducible apply grantSeen_homeKept
    | with_reducible apply endReqs_homeKept
    | with_reducible apply endTxn_homeKept
    | with_reducible apply upgCmp_homeKept
    | with_reducible apply wrUCmp_homeKept
    | with_reducible apply amoCmp_homeKept
    | with_reducible refine HomeKept.ite (fun _ => ?_) (fun _ => ?_)
    | fail_if_no_progress ((with_reducible apply HomeKept.mk1) <;> (first | with_reducible assumption | with_reducible rfl | skip))
    | with_reducible refine HomeKept.each (fun _ _ _ => ?_) ?_
    | with_reducible refine HomeKept.foldl2 (fun _ _ _ => ?_) ?_
    | with_reducible refine HomeKept.foldl (fun _ _ _ => ?_) ?_
    | extract_lets
    | with_reducible apply HomeKept.counters
    | with_reducible rfl
    | split)

theorem resend_homeKept {z0 : State} (i : SliceNo) (t : STxn) (s : State)
    (hK : HomeKept z0 s) : HomeKept z0 (resend i t s) := by
  unfold resend
  repeat' (first
    | with_reducible assumption
    | with_reducible apply sendMsg_homeKept
    | with_reducible apply useFar_homeKept
    | with_reducible apply modTxn_homeKept
    | with_reducible apply settle_homeKept
    | with_reducible apply deadTxn_homeKept
    | with_reducible refine HomeKept.ite (fun _ => ?_) (fun _ => ?_))

theorem endMoving_homeKept {z0 : State} (m : Member) (r : BitVec 10) (s : State)
    (hK : HomeKept z0 s) : HomeKept z0 (endMoving m r s) := by
  unfold endMoving
  repeat' (first
    | with_reducible assumption
    | with_reducible refine HomeKept.ite (fun _ => ?_) (fun _ => ?_)
    | fail_if_no_progress ((with_reducible apply HomeKept.mk1) <;> (first | with_reducible assumption | with_reducible rfl | skip))
    | with_reducible refine HomeKept.each (fun _ _ _ => ?_) ?_
    | with_reducible refine HomeKept.foldl2 (fun _ _ _ => ?_) ?_
    | with_reducible refine HomeKept.foldl (fun _ _ _ => ?_) ?_
    | extract_lets
    | with_reducible apply HomeKept.counters
    | with_reducible rfl
    | split
    | with_reducible refine HomeKept.of_snd (by with_reducible assumption) ?_
    | dsimp +zetaDelta only
    | intro)

theorem setMoving_homeKept {z0 : State} (m : Member) (r : BitVec 10) (gen : BitVec 8) (old : Member) (s : State)
    (hK : HomeKept z0 s) : HomeKept z0 (setMoving m r gen old s) := by
  unfold setMoving
  repeat' (first
    | with_reducible assumption
    | with_reducible refine HomeKept.ite (fun _ => ?_) (fun _ => ?_)
    | fail_if_no_progress ((with_reducible apply HomeKept.mk1) <;> (first | with_reducible assumption | with_reducible rfl | skip))
    | with_reducible refine HomeKept.each (fun _ _ _ => ?_) ?_
    | with_reducible refine HomeKept.foldl2 (fun _ _ _ => ?_) ?_
    | with_reducible refine HomeKept.foldl (fun _ _ _ => ?_) ?_
    | extract_lets
    | with_reducible apply HomeKept.counters
    | with_reducible rfl
    | split
    | with_reducible refine HomeKept.of_snd (by with_reducible assumption) ?_
    | dsimp +zetaDelta only
    | intro)

theorem onWback_homeKept {z0 : State} (m : BMsg) (s : State)
    (hK : HomeKept z0 s) : HomeKept z0 (onWback m s) := by
  unfold onWback
  repeat' (first
    | with_reducible assumption
    | with_reducible apply State.modHp_homeKept
    | with_reducible apply State.setSl_homeKept
    | with_reducible apply settle_homeKept
    | with_reducible refine HomeKept.ite (fun _ => ?_) (fun _ => ?_)
    | fail_if_no_progress ((with_reducible apply HomeKept.mk1) <;> (first | with_reducible assumption | with_reducible rfl | skip))
    | with_reducible refine HomeKept.each (fun _ _ _ => ?_) ?_)

end Sys2Proof.Machine
end

