-- ==== Sys2Proof/Laws/HomeKeptPorts.lean ====
section
/-! SUPPORT. `HomeKept` of the functions of the host ports: one lemma per function. -/

set_option linter.unusedVariables false
set_option linter.unusedTactic false
set_option linter.unreachableTactic false

namespace Sys2Proof.Machine

theorem charge_homeKept {z0 : State} (p : Port) (l : LAddr) (s : State)
    (hK : HomeKept z0 s) : HomeKept z0 (charge p l s) := by
  unfold charge
  repeat' (first
    | with_reducible assumption
    | with_reducible apply State.modHp_homeKept)

theorem refuse_homeKept {z0 : State} (r : Req) (byContract : Bool) (s : State)
    (hK : HomeKept z0 s) : HomeKept z0 (refuse r byContract s) := by
  unfold refuse
  repeat' (first
    | with_reducible assumption
    | with_reducible apply State.modHp_homeKept
    | with_reducible apply pmu_homeKept
    | with_reducible apply retireReq_homeKept
    | with_reducible apply answer_homeKept
    | with_reducible refine HomeKept.ite (fun _ => ?_) (fun _ => ?_))

theorem stride_homeKept {z0 : State} (r : Req) (s : State)
    (hK : HomeKept z0 s) : HomeKept z0 (stride r s) := by
  unfold stride
  repeat' (first
    | with_reducible assumption
    | with_reducible apply State.setHp_homeKept
    | with_reducible apply prefetch_homeKept
    | with_reducible apply arbPass_homeKept
    | with_reducible refine HomeKept.ite (fun _ => ?_) (fun _ => ?_)
    | fail_if_no_progress ((with_reducible apply HomeKept.mk1) <;> (first | with_reducible assumption | with_reducible rfl | skip))
    | with_reducible refine HomeKept.each (fun _ _ _ => ?_) ?_)

theorem noteAcc_homeKept {z0 : State} (s0 : State) (r : Req) (s : State)
    (hK : HomeKept z0 s) : HomeKept z0 (noteAcc s0 r s) := by
  unfold noteAcc
  repeat' (first
    | with_reducible assumption
    | with_reducible apply State.modHp_homeKept)

theorem acceptRsv_homeKept {z0 : State} (r : Req) (s : State)
    (hK : HomeKept z0 s) : HomeKept z0 (acceptRsv r s) := by
  unfold acceptRsv
  repeat' (first
    | with_reducible assumption
    | with_reducible apply clearRsv_homeKept
    | with_reducible refine HomeKept.ite (fun _ => ?_) (fun _ => ?_)
    | fail_if_no_progress ((with_reducible apply HomeKept.mk1) <;> (first | with_reducible assumption | with_reducible rfl | skip))
    | with_reducible refine HomeKept.each (fun _ _ _ => ?_) ?_
    | with_reducible refine HomeKept.foldl2 (fun _ _ _ => ?_) ?_
    | with_reducible refine HomeKept.foldl (fun _ _ _ => ?_) ?_
    | extract_lets
    | with_reducible apply HomeKept.counters
    | with_reducible rfl
    | split)

theorem closeOwn_homeKept {z0 : State} (r : Req) (s : State)
    (hK : HomeKept z0 s) : HomeKept z0 (closeOwn r s) := by
  unfold closeOwn
  repeat' (first
    | with_reducible assumption
    | with_reducible apply closeEntries_homeKept)

theorem passOf_homeKept {z0 : State} (r : Req) (s : State)
    (hK : HomeKept z0 s) : HomeKept z0 (passOf r s) := by
  unfold passOf
  repeat' (first
    | with_reducible assumption
    | with_reducible apply arbPass_homeKept
    | with_reducible refine HomeKept.ite (fun _ => ?_) (fun _ => ?_))

theorem enter_homeKept {z0 : State} (r : Req) (s : State)
    (hK : HomeKept z0 s) : HomeKept z0 (enter r s) := by
  unfold enter
  repeat' (first
    | with_reducible assumption
    | with_reducible apply State.modHp_homeKept
    | with_reducible apply issueAll_homeKept
    | with_reducible apply anyAccess_homeKept
    | with_reducible apply acceptRsv_homeKept
    | with_reducible apply closeOwn_homeKept
    | with_reducible apply passOf_homeKept
    | with_reducible refine HomeKept.ite (fun _ => ?_) (fun _ => ?_))

theorem accept_homeKept {z0 : State} (r : Req) (bound : Bool) (s : State)
    (hK : HomeKept z0 s) : HomeKept z0 (accept r bound s) := by
  unfold accept
  repeat' (first
    | with_reducible assumption
    | with_reducible apply policyFix_homeKept
    | with_reducible apply retireReq_homeKept
    | with_reducible apply complete_homeKept
    | with_reducible apply atomErr_homeKept
    | with_reducible apply charge_homeKept
    | with_reducible apply stride_homeKept
    | with_reducible apply noteAcc_homeKept
    | with_reducible apply enter_homeKept
    | with_reducible refine HomeKept.ite (fun _ => ?_) (fun _ => ?_)
    | fail_if_no_progress ((with_reducible apply HomeKept.mk1) <;> (first | with_reducible assumption | with_reducible rfl | skip))
    | with_reducible refine HomeKept.each (fun _ _ _ => ?_) ?_
    | with_reducible refine HomeKept.foldl2 (fun _ _ _ => ?_) ?_
    | with_reducible refine HomeKept.foldl (fun _ _ _ => ?_) ?_
    | extract_lets
    | with_reducible apply HomeKept.counters
    | with_reducible rfl
    | split)

theorem admitReq_homeKept {z0 : State} (r : Req) (s : State)
    (hK : HomeKept z0 s) : HomeKept z0 (admitReq r s) := by
  unfold admitReq
  repeat' (first
    | with_reducible assumption
    | with_reducible apply State.modHp_homeKept
    | with_reducible apply pmu_homeKept
    | with_reducible apply refuse_homeKept
    | with_reducible apply accept_homeKept
    | with_reducible refine HomeKept.ite (fun _ => ?_) (fun _ => ?_)
    | fail_if_no_progress ((with_reducible apply HomeKept.mk1) <;> (first | with_reducible assumption | with_reducible rfl | skip))
    | with_reducible refine HomeKept.each (fun _ _ _ => ?_) ?_
    | with_reducible refine HomeKept.foldl2 (fun _ _ _ => ?_) ?_
    | with_reducible refine HomeKept.foldl (fun _ _ _ => ?_) ?_
    | extract_lets
    | with_reducible apply HomeKept.counters
    | with_reducible rfl
    | split)

theorem breach_homeKept {z0 : State} (p : Port) (s : State)
    (hK : HomeKept z0 s) : HomeKept z0 (breach p s) := by
  unfold breach
  repeat' (first
    | with_reducible assumption
    | with_reducible apply evStampStall_homeKept
    | with_reducible apply stampLost_homeKept
    | with_reducible refine HomeKept.ite (fun _ => ?_) (fun _ => ?_)
    | fail_if_no_progress ((with_reducible apply HomeKept.mk1) <;> (first | with_reducible assumption | with_reducible rfl | skip)))

theorem gives_homeKept {z0 : State} (m : EMsg) (s : State)
    (hK : HomeKept z0 s) : HomeKept z0 (gives m s) := by
  unfold gives
  repeat' (first
    | with_reducible assumption
    | with_reducible apply State.modHp_homeKept
    | with_reducible refine HomeKept.ite (fun _ => ?_) (fun _ => ?_))

theorem undecoded_homeKept {z0 : State} (r : Req) (s : State)
    (hK : HomeKept z0 s) : HomeKept z0 (undecoded r s) := by
  unfold undecoded
  repeat' (first
    | with_reducible assumption
    | with_reducible apply evAddrErr_homeKept
    | with_reducible apply completeErr_homeKept)

theorem arrive_homeKept {z0 : State} (r0 : Req) (s : State)
    (hK : HomeKept z0 s) : HomeKept z0 (arrive r0 s) := by
  unfold arrive
  repeat' (first
    | with_reducible assumption
    | with_reducible apply State.modHp_homeKept
    | with_reducible apply complete_homeKept
    | with_reducible apply completeStop_homeKept
    | with_reducible apply noteAcc_homeKept
    | with_reducible apply admitReq_homeKept
    | with_reducible apply breach_homeKept
    | with_reducible apply undecoded_homeKept
    | with_reducible refine HomeKept.ite (fun _ => ?_) (fun _ => ?_)
    | fail_if_no_progress ((with_reducible apply HomeKept.mk1) <;> (first | with_reducible assumption | with_reducible rfl | skip))
    | with_reducible refine HomeKept.each (fun _ _ _ => ?_) ?_
    | with_reducible refine HomeKept.foldl2 (fun _ _ _ => ?_) ?_
    | with_reducible refine HomeKept.foldl (fun _ _ _ => ?_) ?_
    | extract_lets
    | with_reducible apply HomeKept.counters
    | with_reducible rfl
    | split)

theorem barrier_homeKept {z0 : State} (m : EMsg) (s : State)
    (hK : HomeKept z0 s) : HomeKept z0 (barrier m s) := by
  unfold barrier
  repeat' (first
    | with_reducible assumption
    | with_reducible apply State.modHp_homeKept
    | with_reducible apply dropBars_homeKept
    | with_reducible apply issueEvery_homeKept
    | with_reducible apply closeEntries_homeKept
    | with_reducible apply hit_homeKept
    | with_reducible refine HomeKept.ite (fun _ => ?_) (fun _ => ?_)
    | fail_if_no_progress ((with_reducible apply HomeKept.mk1) <;> (first | with_reducible assumption | with_reducible rfl | skip)))

theorem barDone_homeKept {z0 : State} (p : Port) (etag : BitVec 12) (s : State)
    (hK : HomeKept z0 s) : HomeKept z0 (barDone p etag s) := by
  unfold barDone
  repeat' (first
    | with_reducible assumption
    | with_reducible apply endBar_homeKept
    | with_reducible refine HomeKept.ite (fun _ => ?_) (fun _ => ?_)
    | fail_if_no_progress ((with_reducible apply HomeKept.mk1) <;> (first | with_reducible assumption | with_reducible rfl | skip))
    | with_reducible refine HomeKept.each (fun _ _ _ => ?_) ?_
    | with_reducible refine HomeKept.foldl2 (fun _ _ _ => ?_) ?_
    | with_reducible refine HomeKept.foldl (fun _ _ _ => ?_) ?_
    | extract_lets
    | with_reducible apply HomeKept.counters
    | with_reducible rfl
    | split)

theorem hostWb_homeKept {z0 : State} (p : Port) (l : LAddr) (d : Line) (poison keep : Bool) (s : State)
    (hK : HomeKept z0 s) : HomeKept z0 (hostWb p l d poison keep s) := by
  unfold hostWb
  repeat' (first
    | with_reducible assumption
    | with_reducible apply State.modSl_homeKept
    | with_reducible apply dropHp_homeKept
    | with_reducible apply mergeHost_homeKept
    | with_reducible apply lookEntry_homeKept
    | with_reducible refine HomeKept.ite (fun _ => ?_) (fun _ => ?_))

theorem evictNotice_homeKept {z0 : State} (p : Port) (l : LAddr) (s : State)
    (hK : HomeKept z0 s) : HomeKept z0 (evictNotice p l s) := by
  unfold evictNotice
  repeat' (first
    | with_reducible assumption
    | with_reducible apply dropHp_homeKept
    | with_reducible refine HomeKept.ite (fun _ => ?_) (fun _ => ?_))

theorem resume_homeKept {z0 : State} (w : WaitRef) (s : State)
    (hK : HomeKept z0 s) : HomeKept z0 (resume w s) := by
  unfold resume
  repeat' (first
    | with_reducible assumption
    | with_reducible apply State.modHp_homeKept
    | with_reducible apply State.modSl_homeKept
    | with_reducible apply anyAccess_homeKept
    | with_reducible apply settle_homeKept
    | with_reducible apply passOf_homeKept
    | with_reducible apply admitReq_homeKept
    | with_reducible refine HomeKept.ite (fun _ => ?_) (fun _ => ?_)
    | fail_if_no_progress ((with_reducible apply HomeKept.mk1) <;> (first | with_reducible assumption | with_reducible rfl | skip))
    | with_reducible refine HomeKept.each (fun _ _ _ => ?_) ?_
    | with_reducible refine HomeKept.foldl2 (fun _ _ _ => ?_) ?_
    | with_reducible refine HomeKept.foldl (fun _ _ _ => ?_) ?_
    | extract_lets
    | with_reducible apply HomeKept.counters
    | with_reducible rfl
    | split)

theorem ctrLost_homeKept {z0 : State} (p : Port) (s : State)
    (hK : HomeKept z0 s) : HomeKept z0 (ctrLost p s) := by
  unfold ctrLost
  repeat' (first
    | with_reducible assumption
    | with_reducible apply State.modHp_homeKept
    | with_reducible apply postEvent_homeKept
    | with_reducible apply postNotice_homeKept
    | with_reducible refine HomeKept.ite (fun _ => ?_) (fun _ => ?_))

theorem masterGone_homeKept {z0 : State} (m : Master) (s : State)
    (hK : HomeKept z0 s) : HomeKept z0 (masterGone m s) := by
  unfold masterGone
  repeat' (first
    | with_reducible assumption
    | with_reducible refine HomeKept.ite (fun _ => ?_) (fun _ => ?_)
    | fail_if_no_progress ((with_reducible apply HomeKept.mk1) <;> (first | with_reducible assumption | with_reducible rfl | skip)))

theorem quarEnds_homeKept {z0 : State} (p : Port) (s : State)
    (hK : HomeKept z0 s) : HomeKept z0 (quarEnds p s) := by
  unfold quarEnds
  repeat' (first
    | with_reducible assumption
    | with_reducible apply State.modHp_homeKept
    | with_reducible apply State.modMb_homeKept)

theorem discardReq_homeKept {z0 : State} (s : State) (r : Req)
    (hK : HomeKept z0 s) : HomeKept z0 (discardReq s r) := by
  unfold discardReq
  repeat' (first
    | with_reducible assumption
    | with_reducible apply State.setHp_homeKept
    | with_reducible apply State.modHp_homeKept
    | with_reducible apply retireReq_homeKept
    | with_reducible refine HomeKept.ite (fun _ => ?_) (fun _ => ?_))

theorem dropMoves_homeKept {z0 : State} (p : Port) (s : State)
    (hK : HomeKept z0 s) : HomeKept z0 (dropMoves p s) := by
  unfold dropMoves
  repeat' (first
    | with_reducible assumption
    | with_reducible apply State.modSl_homeKept
    | with_reducible apply evPoisoned_homeKept
    | with_reducible refine HomeKept.ite (fun _ => ?_) (fun _ => ?_)
    | fail_if_no_progress ((with_reducible apply HomeKept.mk1) <;> (first | with_reducible assumption | with_reducible rfl | skip))
    | with_reducible refine HomeKept.each (fun _ _ _ => ?_) ?_)

theorem portDown_homeKept {z0 : State} (p : Port) (s : State)
    (hK : HomeKept z0 s) : HomeKept z0 (portDown p s) := by
  unfold portDown
  repeat' (first
    | with_reducible assumption
    | with_reducible apply State.setHp_homeKept
    | with_reducible apply State.modHp_homeKept
    | with_reducible apply msixCheck_homeKept
    | with_reducible apply peatEnter_homeKept
    | with_reducible apply postEvent_homeKept
    | with_reducible apply stampLost_homeKept
    | with_reducible apply dropHp_homeKept
    | with_reducible apply poisonLine_homeKept
    | with_reducible apply issueEvery_homeKept
    | with_reducible apply closeEntries_homeKept
    | with_reducible apply groupAnswer_homeKept
    | with_reducible apply ctrLost_homeKept
    | with_reducible apply masterGone_homeKept
    | with_reducible apply quarEnds_homeKept
    | with_reducible apply discardReq_homeKept
    | with_reducible apply dropMoves_homeKept
    | with_reducible refine HomeKept.ite (fun _ => ?_) (fun _ => ?_)
    | fail_if_no_progress ((with_reducible apply HomeKept.mk1) <;> (first | with_reducible assumption | with_reducible rfl | skip))
    | with_reducible refine HomeKept.each (fun _ _ _ => ?_) ?_)

theorem downMove_homeKept {z0 : State} (s : State) (p : Port)
    (hK : HomeKept z0 s) : HomeKept z0 (downMove s p) := by
  unfold downMove
  repeat' (first
    | with_reducible assumption
    | with_reducible apply State.setHp_homeKept
    | with_reducible refine HomeKept.ite (fun _ => ?_) (fun _ => ?_))

theorem downMoves_homeKept {z0 : State} (s : State)
    (hK : HomeKept z0 s) : HomeKept z0 (downMoves s) := by
  unfold downMoves
  repeat' (first
    | with_reducible assumption
    | with_reducible apply downMove_homeKept
    | with_reducible refine HomeKept.ite (fun _ => ?_) (fun _ => ?_)
    | fail_if_no_progress ((with_reducible apply HomeKept.mk1) <;> (first | with_reducible assumption | with_reducible rfl | skip))
    | with_reducible refine HomeKept.each (fun _ _ _ => ?_) ?_)

theorem portWalkDone_homeKept {z0 : State} (p : Port) (s : State)
    (hK : HomeKept z0 s) : HomeKept z0 (portWalkDone p s) := by
  unfold portWalkDone
  repeat' (first
    | with_reducible assumption
    | with_reducible apply State.modHp_homeKept
    | with_reducible apply dropHp_homeKept
    | with_reducible apply poisonLine_homeKept
    | with_reducible apply downMove_homeKept
    | with_reducible refine HomeKept.ite (fun _ => ?_) (fun _ => ?_)
    | fail_if_no_progress ((with_reducible apply HomeKept.mk1) <;> (first | with_reducible assumption | with_reducible rfl | skip))
    | with_reducible refine HomeKept.each (fun _ _ _ => ?_) ?_)

theorem enterRecovery_homeKept {z0 : State} (p : Port) (s : State)
    (hK : HomeKept z0 s) : HomeKept z0 (enterRecovery p s) := by
  unfold enterRecovery
  repeat' (first
    | with_reducible assumption
    | with_reducible apply State.setHp_homeKept
    | with_reducible refine HomeKept.ite (fun _ => ?_) (fun _ => ?_))

theorem linkUpAt_homeKept {z0 : State} (p : Port) (x16 g6 : Bool) (s : State)
    (hK : HomeKept z0 s) : HomeKept z0 (linkUpAt p x16 g6 s) := by
  unfold linkUpAt
  repeat' (first
    | with_reducible assumption
    | with_reducible apply State.modHp_homeKept
    | with_reducible apply State.emit_homeKept
    | with_reducible apply postEvent_homeKept
    | with_reducible apply ctrLost_homeKept
    | with_reducible refine HomeKept.ite (fun _ => ?_) (fun _ => ?_)
    | fail_if_no_progress ((with_reducible apply HomeKept.mk1) <;> (first | with_reducible assumption | with_reducible rfl | skip))
    | with_reducible refine HomeKept.each (fun _ _ _ => ?_) ?_)

theorem linkTrained_homeKept {z0 : State} (p : Port) (x16 g6 : Bool) (s : State)
    (hK : HomeKept z0 s) : HomeKept z0 (linkTrained p x16 g6 s) := by
  unfold linkTrained
  repeat' (first
    | with_reducible assumption
    | with_reducible apply State.setHp_homeKept
    | with_reducible apply linkUpAt_homeKept
    | with_reducible refine HomeKept.ite (fun _ => ?_) (fun _ => ?_))

theorem linkRecovered_homeKept {z0 : State} (p : Port) (x16 g6 : Bool) (flits : W64) (s : State)
    (hK : HomeKept z0 s) : HomeKept z0 (linkRecovered p x16 g6 flits s) := by
  unfold linkRecovered
  repeat' (first
    | with_reducible assumption
    | with_reducible apply State.setHp_homeKept
    | with_reducible apply portDown_homeKept
    | with_reducible apply linkUpAt_homeKept
    | with_reducible refine HomeKept.ite (fun _ => ?_) (fun _ => ?_))

theorem linkKept_homeKept {z0 : State} (p : Port) (s : State)
    (hK : HomeKept z0 s) : HomeKept z0 (linkKept p s) := by
  unfold linkKept
  repeat' (first
    | with_reducible assumption
    | with_reducible apply portDown_homeKept
    | with_reducible refine HomeKept.ite (fun _ => ?_) (fun _ => ?_))

theorem snoopTmo_homeKept {z0 : State} (p : Port) (etag : BitVec 12) (s : State)
    (hK : HomeKept z0 s) : HomeKept z0 (snoopTmo p etag s) := by
  unfold snoopTmo
  repeat' (first
    | with_reducible assumption
    | with_reducible apply evSnoopLate_homeKept
    | with_reducible apply recLine_homeKept
    | with_reducible apply poisonLine_homeKept
    | with_reducible apply snoopEnds_homeKept
    | with_reducible apply portDown_homeKept
    | with_reducible refine HomeKept.ite (fun _ => ?_) (fun _ => ?_)
    | fail_if_no_progress ((with_reducible apply HomeKept.mk1) <;> (first | with_reducible assumption | with_reducible rfl | skip))
    | with_reducible refine HomeKept.each (fun _ _ _ => ?_) ?_
    | with_reducible refine HomeKept.foldl2 (fun _ _ _ => ?_) ?_
    | with_reducible refine HomeKept.foldl (fun _ _ _ => ?_) ?_
    | extract_lets
    | with_reducible apply HomeKept.counters
    | with_reducible rfl
    | split)

theorem snoopAnswer_homeKept {z0 : State} (p : Port) (etag : BitVec 12) (gone : Bool) (data : Option (Line × Bool)) (opc : BitVec 6) (s : State)
    (hK : HomeKept z0 s) : HomeKept z0 (snoopAnswer p etag gone data opc s) := by
  unfold snoopAnswer
  repeat' (first
    | with_reducible assumption
    | with_reducible apply evSnoopLate_homeKept
    | with_reducible apply hostErr_homeKept
    | with_reducible apply snoopEnds_homeKept
    | with_reducible refine HomeKept.ite (fun _ => ?_) (fun _ => ?_)
    | fail_if_no_progress ((with_reducible apply HomeKept.mk1) <;> (first | with_reducible assumption | with_reducible rfl | skip))
    | with_reducible refine HomeKept.each (fun _ _ _ => ?_) ?_
    | with_reducible refine HomeKept.foldl2 (fun _ _ _ => ?_) ?_
    | with_reducible refine HomeKept.foldl (fun _ _ _ => ?_) ?_
    | extract_lets
    | with_reducible apply HomeKept.counters
    | with_reducible rfl
    | split)

theorem hdmCommit_homeKept {z0 : State} (p : Port) (d : Fin 4) (base size : W64) (s : State)
    (hK : HomeKept z0 s) : HomeKept z0 (hdmCommit p d base size s) := by
  unfold hdmCommit
  repeat' (first
    | with_reducible assumption
    | with_reducible apply State.setHp_homeKept
    | with_reducible apply postEvent_homeKept
    | with_reducible refine HomeKept.ite (fun _ => ?_) (fun _ => ?_))

theorem wbDirty_homeKept {z0 : State} (m : EMsg) (s : State)
    (hK : HomeKept z0 s) : HomeKept z0 (wbDirty m s) := by
  unfold wbDirty
  repeat' (first
    | with_reducible assumption
    | with_reducible apply hostErr_homeKept
    | with_reducible apply hostWb_homeKept
    | with_reducible refine HomeKept.ite (fun _ => ?_) (fun _ => ?_))

theorem barrierMsg_homeKept {z0 : State} (m : EMsg) (s : State)
    (hK : HomeKept z0 s) : HomeKept z0 (barrierMsg m s) := by
  unfold barrierMsg
  repeat' (first
    | with_reducible assumption
    | with_reducible apply State.setHp_homeKept
    | with_reducible apply toHost_homeKept
    | with_reducible apply breach_homeKept
    | with_reducible apply barrier_homeKept
    | with_reducible refine HomeKept.ite (fun _ => ?_) (fun _ => ?_)
    | fail_if_no_progress ((with_reducible apply HomeKept.mk1) <;> (first | with_reducible assumption | with_reducible rfl | skip))
    | with_reducible refine HomeKept.each (fun _ _ _ => ?_) ?_
    | with_reducible refine HomeKept.foldl2 (fun _ _ _ => ?_) ?_
    | with_reducible refine HomeKept.foldl (fun _ _ _ => ?_) ?_
    | extract_lets
    | with_reducible apply HomeKept.counters
    | with_reducible rfl
    | split)

theorem floorMsg_homeKept {z0 : State} (m : EMsg) (s : State)
    (hK : HomeKept z0 s) : HomeKept z0 (floorMsg m s) := by
  unfold floorMsg
  repeat' (first
    | with_reducible assumption
    | with_reducible apply State.setHp_homeKept
    | with_reducible apply breach_homeKept
    | with_reducible refine HomeKept.ite (fun _ => ?_) (fun _ => ?_)
    | fail_if_no_progress ((with_reducible apply HomeKept.mk1) <;> (first | with_reducible assumption | with_reducible rfl | skip))
    | with_reducible refine HomeKept.each (fun _ _ _ => ?_) ?_
    | with_reducible refine HomeKept.foldl2 (fun _ _ _ => ?_) ?_
    | with_reducible refine HomeKept.foldl (fun _ _ _ => ?_) ?_
    | extract_lets
    | with_reducible apply HomeKept.counters
    | with_reducible rfl
    | split)

theorem admitCxl_homeKept {z0 : State} (p : Port) (l : LAddr) (done : State → State) (s : State)
    (hdone : ∀ x0, HomeKept z0 x0 → HomeKept z0 (done x0)) (hK : HomeKept z0 s) : HomeKept z0 (admitCxl p l done s) := by
  unfold admitCxl
  repeat' (first
    | with_reducible assumption
    | with_reducible apply hdone
    | with_reducible apply State.modHp_homeKept
    | with_reducible apply pmu_homeKept
    | with_reducible apply charge_homeKept
    | with_reducible apply refuse_homeKept
    | with_reducible apply accept_homeKept
    | with_reducible refine HomeKept.ite (fun _ => ?_) (fun _ => ?_)
    | fail_if_no_progress ((with_reducible apply HomeKept.mk1) <;> (first | with_reducible assumption | with_reducible rfl | skip))
    | with_reducible refine HomeKept.each (fun _ _ _ => ?_) ?_
    | with_reducible refine HomeKept.foldl2 (fun _ _ _ => ?_) ?_
    | with_reducible refine HomeKept.foldl (fun _ _ _ => ?_) ?_
    | extract_lets
    | with_reducible apply HomeKept.counters
    | with_reducible rfl
    | split)

theorem memWr_homeKept {z0 : State} (c : CMsg) (s : State)
    (hK : HomeKept z0 s) : HomeKept z0 (memWr c s) := by
  unfold memWr
  repeat' (first
    | with_reducible assumption
    | with_reducible apply toHost_homeKept
    | with_reducible apply arrive_homeKept
    | with_reducible apply hostWb_homeKept
    | with_reducible apply admitCxl_homeKept
    | with_reducible refine HomeKept.ite (fun _ => ?_) (fun _ => ?_)
    | fail_if_no_progress ((with_reducible apply HomeKept.mk1) <;> (first | with_reducible assumption | with_reducible rfl | skip))
    | with_reducible refine HomeKept.each (fun _ _ _ => ?_) ?_
    | with_reducible refine HomeKept.foldl2 (fun _ _ _ => ?_) ?_
    | with_reducible refine HomeKept.foldl (fun _ _ _ => ?_) ?_
    | extract_lets
    | with_reducible apply HomeKept.counters
    | with_reducible rfl
    | split
    | with_reducible refine HomeKept.of_snd (by with_reducible assumption) ?_
    | dsimp +zetaDelta only
    | intro)

theorem memSpecRd_homeKept {z0 : State} (c : CMsg) (s : State)
    (hK : HomeKept z0 s) : HomeKept z0 (memSpecRd c s) := by
  unfold memSpecRd
  repeat' (first
    | with_reducible assumption
    | (simp only [id_eq]; with_reducible assumption)
    | with_reducible apply admitCxl_homeKept
    | with_reducible refine HomeKept.ite (fun _ => ?_) (fun _ => ?_)
    | fail_if_no_progress ((with_reducible apply HomeKept.mk1) <;> (first | with_reducible assumption | with_reducible rfl | skip))
    | with_reducible refine HomeKept.each (fun _ _ _ => ?_) ?_
    | with_reducible refine HomeKept.foldl2 (fun _ _ _ => ?_) ?_
    | with_reducible refine HomeKept.foldl (fun _ _ _ => ?_) ?_
    | extract_lets
    | with_reducible apply HomeKept.counters
    | with_reducible rfl
    | split
    | with_reducible refine HomeKept.of_snd (by with_reducible assumption) ?_
    | dsimp +zetaDelta only
    | intro)

end Sys2Proof.Machine
end

