-- ==== Sys2Proof/Laws/HomeKeptRegs.lean ====
section
/-! SUPPORT. `HomeKept` of the functions of the mailboxes and the registers: one lemma per function. -/

set_option linter.unusedVariables false
set_option linter.unusedTactic false
set_option linter.unreachableTactic false

namespace Sys2Proof.Machine

theorem outPar_homeKept {z0 : State} (p k : Port) (off n v : Nat) (s : State)
    (hK : HomeKept z0 s) : HomeKept z0 (outPar p k off n v s) := by
  unfold outPar
  repeat' (first
    | with_reducible assumption
    | with_reducible apply State.modMb_homeKept)

theorem fwDo_homeKept {z0 : State} (f : State → State) (s : State)
    (hf : ∀ x0, HomeKept z0 x0 → HomeKept z0 (f x0)) (hK : HomeKept z0 s) : HomeKept z0 (fwDo f s) := by
  unfold fwDo
  repeat' (first
    | with_reducible assumption
    | with_reducible apply hf
    | with_reducible refine HomeKept.ite (fun _ => ?_) (fun _ => ?_)
    | fail_if_no_progress ((with_reducible apply HomeKept.mk1) <;> (first | with_reducible assumption | with_reducible rfl | skip)))

theorem finish_homeKept {z0 : State} (p k : Port) (rc : Byte) (val : BitVec 16) (s : State)
    (hK : HomeKept z0 s) : HomeKept z0 (finish p k rc val s) := by
  unfold finish
  repeat' (first
    | with_reducible assumption
    | with_reducible apply State.modMb_homeKept
    | with_reducible apply postCmd_homeKept
    | with_reducible refine HomeKept.ite (fun _ => ?_) (fun _ => ?_)
    | fail_if_no_progress ((with_reducible apply HomeKept.mk1) <;> (first | with_reducible assumption | with_reducible rfl | skip))
    | with_reducible refine HomeKept.each (fun _ _ _ => ?_) ?_
    | with_reducible refine HomeKept.foldl2 (fun _ _ _ => ?_) ?_
    | with_reducible refine HomeKept.foldl (fun _ _ _ => ?_) ?_
    | extract_lets
    | with_reducible apply HomeKept.counters
    | with_reducible rfl
    | split)

theorem finishAs_homeKept {z0 : State} (p : Port) (k : Option Port) (rc : Byte) (val : BitVec 16) (s : State)
    (hK : HomeKept z0 s) : HomeKept z0 (finishAs p k rc val s) := by
  unfold finishAs
  repeat' (first
    | with_reducible assumption
    | with_reducible apply finish_homeKept
    | with_reducible refine HomeKept.ite (fun _ => ?_) (fun _ => ?_)
    | fail_if_no_progress ((with_reducible apply HomeKept.mk1) <;> (first | with_reducible assumption | with_reducible rfl | skip))
    | with_reducible refine HomeKept.each (fun _ _ _ => ?_) ?_
    | with_reducible refine HomeKept.foldl2 (fun _ _ _ => ?_) ?_
    | with_reducible refine HomeKept.foldl (fun _ _ _ => ?_) ?_
    | extract_lets
    | with_reducible apply HomeKept.counters
    | with_reducible rfl
    | split)

theorem taken_homeKept {z0 : State} (p k : Port) (s : State)
    (hK : HomeKept z0 s) : HomeKept z0 (taken p k s) := by
  unfold taken
  repeat' (first
    | with_reducible assumption
    | with_reducible apply State.modMb_homeKept
    | with_reducible refine HomeKept.ite (fun _ => ?_) (fun _ => ?_)
    | fail_if_no_progress ((with_reducible apply HomeKept.mk1) <;> (first | with_reducible assumption | with_reducible rfl | skip)))

theorem command_homeKept {z0 : State} (p k : Port) (opc : Byte) (form : BitVec 16 → Bool) (f : BitVec 16 → State → State) (s : State)
    (hf : ∀ x0 x1, HomeKept z0 x1 → HomeKept z0 (f x0 x1)) (hK : HomeKept z0 s) : HomeKept z0 (command p k opc form f s) := by
  unfold command
  repeat' (first
    | with_reducible assumption
    | with_reducible apply hf
    | with_reducible apply finish_homeKept
    | with_reducible apply taken_homeKept
    | with_reducible refine HomeKept.ite (fun _ => ?_) (fun _ => ?_)
    | fail_if_no_progress ((with_reducible apply HomeKept.mk1) <;> (first | with_reducible assumption | with_reducible rfl | skip))
    | with_reducible refine HomeKept.each (fun _ _ _ => ?_) ?_
    | with_reducible refine HomeKept.foldl2 (fun _ _ _ => ?_) ?_
    | with_reducible refine HomeKept.foldl (fun _ _ _ => ?_) ?_
    | extract_lets
    | with_reducible apply HomeKept.counters
    | with_reducible rfl
    | split)

theorem outAck_homeKept {z0 : State} (p k : Port) (w : RWr) (late : Bool) (s : State)
    (hK : HomeKept z0 s) : HomeKept z0 (outAck p k w late s) := by
  unfold outAck
  repeat' (first
    | with_reducible assumption
    | (simp only [id_eq]; with_reducible assumption)
    | with_reducible apply State.modMb_homeKept
    | with_reducible apply msixCheck_homeKept
    | with_reducible apply postCmd_homeKept
    | with_reducible apply postBacklog_homeKept
    | with_reducible apply fwDo_homeKept
    | with_reducible refine HomeKept.ite (fun _ => ?_) (fun _ => ?_)
    | fail_if_no_progress ((with_reducible apply HomeKept.mk1) <;> (first | with_reducible assumption | with_reducible rfl | skip))
    | with_reducible refine HomeKept.each (fun _ _ _ => ?_) ?_
    | with_reducible refine HomeKept.foldl2 (fun _ _ _ => ?_) ?_
    | with_reducible refine HomeKept.foldl (fun _ _ _ => ?_) ?_
    | extract_lets
    | with_reducible apply HomeKept.counters
    | with_reducible rfl
    | split
    | with_reducible refine HomeKept.of_snd (by with_reducible assumption) ?_
    | dsimp +zetaDelta only
    | intro)

theorem endWalk_homeKept {z0 : State} (k : WalkKind) (i : SliceNo) (s : State)
    (hK : HomeKept z0 s) : HomeKept z0 (endWalk k i s) := by
  unfold endWalk
  repeat' (first
    | with_reducible assumption
    | with_reducible apply State.modSl_homeKept)

theorem State.setV_homeKept {z0 : State} (s : State) (r : Reg) (v : VReg)
    (hK : HomeKept z0 s) : HomeKept z0 (State.setV s r v) := by
  unfold State.setV
  repeat' (first
    | with_reducible assumption
    | with_reducible apply State.modHp_homeKept
    | with_reducible apply State.modSl_homeKept
    | with_reducible apply State.modFp_homeKept
    | with_reducible refine HomeKept.ite (fun _ => ?_) (fun _ => ?_)
    | fail_if_no_progress ((with_reducible apply HomeKept.mk1) <;> (first | with_reducible assumption | with_reducible rfl | skip))
    | with_reducible refine HomeKept.each (fun _ _ _ => ?_) ?_
    | with_reducible refine HomeKept.foldl2 (fun _ _ _ => ?_) ?_
    | with_reducible refine HomeKept.foldl (fun _ _ _ => ?_) ?_
    | extract_lets
    | with_reducible apply HomeKept.counters
    | with_reducible rfl
    | split
    | with_reducible refine HomeKept.of_snd (by with_reducible assumption) ?_
    | dsimp +zetaDelta only
    | intro)

theorem voteRead_homeKept {z0 : State} (r : Reg) (s : State)
    (hK : HomeKept z0 s) : HomeKept z0 (voteRead r s) := by
  unfold voteRead
  repeat' (first
    | with_reducible assumption
    | with_reducible apply State.setV_homeKept
    | with_reducible refine HomeKept.ite (fun _ => ?_) (fun _ => ?_)
    | fail_if_no_progress ((with_reducible apply HomeKept.mk1) <;> (first | with_reducible assumption | with_reducible rfl | skip))
    | with_reducible refine HomeKept.each (fun _ _ _ => ?_) ?_
    | with_reducible refine HomeKept.foldl2 (fun _ _ _ => ?_) ?_
    | with_reducible refine HomeKept.foldl (fun _ _ _ => ?_) ?_
    | extract_lets
    | with_reducible apply HomeKept.counters
    | with_reducible rfl
    | split)

theorem State.modGen_homeKept {z0 : State} (s : State) (f : Gen → Gen)
    (hK : HomeKept z0 s) : HomeKept z0 (State.modGen s f) := by
  unfold State.modGen
  repeat' (first
    | with_reducible assumption
    | with_reducible refine HomeKept.ite (fun _ => ?_) (fun _ => ?_)
    | fail_if_no_progress ((with_reducible apply HomeKept.mk1) <;> (first | with_reducible assumption | with_reducible rfl | skip)))

theorem modInd_homeKept {z0 : State} (m : Master) (f : Ind → Ind) (s : State)
    (hK : HomeKept z0 s) : HomeKept z0 (modInd m f s) := by
  unfold modInd
  repeat' (first
    | with_reducible assumption
    | with_reducible apply State.modGen_homeKept)

theorem accErr_homeKept {z0 : State} (m : Master) (off kind : Nat) (s : State)
    (hK : HomeKept z0 s) : HomeKept z0 (accErr m off kind s) := by
  unfold accErr
  repeat' (first
    | with_reducible assumption
    | with_reducible apply State.modGen_homeKept)

theorem setKey_homeKept {z0 : State} (m : Master) (b : Bool) (s : State)
    (hK : HomeKept z0 s) : HomeKept z0 (setKey m b s) := by
  unfold setKey
  repeat' (first
    | with_reducible assumption
    | with_reducible apply State.modGen_homeKept)

theorem doneWr_homeKept {z0 : State} (m : Master) (etag : BitVec 12) (ok : Bool) (s : State)
    (hK : HomeKept z0 s) : HomeKept z0 (doneWr m etag ok s) := by
  unfold doneWr
  repeat' (first
    | with_reducible assumption
    | with_reducible apply State.emit_homeKept
    | with_reducible apply toHost_homeKept
    | with_reducible refine HomeKept.ite (fun _ => ?_) (fun _ => ?_)
    | fail_if_no_progress ((with_reducible apply HomeKept.mk1) <;> (first | with_reducible assumption | with_reducible rfl | skip))
    | with_reducible refine HomeKept.each (fun _ _ _ => ?_) ?_
    | with_reducible refine HomeKept.foldl2 (fun _ _ _ => ?_) ?_
    | with_reducible refine HomeKept.foldl (fun _ _ _ => ?_) ?_
    | extract_lets
    | with_reducible apply HomeKept.counters
    | with_reducible rfl
    | split)

theorem doneRd_homeKept {z0 : State} (m : Master) (etag : BitVec 12) (ok : Bool) (size : Nat) (v : W64) (s : State)
    (hK : HomeKept z0 s) : HomeKept z0 (doneRd m etag ok size v s) := by
  unfold doneRd
  repeat' (first
    | with_reducible assumption
    | with_reducible apply State.emit_homeKept
    | with_reducible apply toHost_homeKept
    | with_reducible refine HomeKept.ite (fun _ => ?_) (fun _ => ?_)
    | fail_if_no_progress ((with_reducible apply HomeKept.mk1) <;> (first | with_reducible assumption | with_reducible rfl | skip))
    | with_reducible refine HomeKept.each (fun _ _ _ => ?_) ?_
    | with_reducible refine HomeKept.foldl2 (fun _ _ _ => ?_) ?_
    | with_reducible refine HomeKept.foldl (fun _ _ _ => ?_) ?_
    | extract_lets
    | with_reducible apply HomeKept.counters
    | with_reducible rfl
    | split)

theorem putV_homeKept {z0 : State} (r : Reg) (k : Nat) (v : W32) (s : State)
    (hK : HomeKept z0 s) : HomeKept z0 (putV r k v s) := by
  unfold putV
  repeat' (first
    | with_reducible assumption
    | with_reducible apply State.setV_homeKept)

theorem drainStart_homeKept {z0 : State} (i : SliceNo) (s : State)
    (hK : HomeKept z0 s) : HomeKept z0 (drainStart i s) := by
  unfold drainStart
  repeat' (first
    | with_reducible assumption
    | with_reducible apply State.modSl_homeKept
    | with_reducible apply rbFree_homeKept
    | with_reducible apply issueEvery_homeKept
    | with_reducible apply closeEntries_homeKept
    | with_reducible apply startWalk_homeKept
    | with_reducible refine HomeKept.ite (fun _ => ?_) (fun _ => ?_))

theorem writeCacheCtl_homeKept {z0 : State} (off : Nat) (i : SliceNo) (m : Master) (raw v : W32) (s : State)
    (hK : HomeKept z0 s) : HomeKept z0 (writeCacheCtl off i m raw v s) := by
  unfold writeCacheCtl
  repeat' (first
    | with_reducible assumption
    | with_reducible apply State.modSl_homeKept
    | with_reducible apply evCfgDiscard_homeKept
    | with_reducible apply endWalk_homeKept
    | with_reducible apply putV_homeKept
    | with_reducible apply drainStart_homeKept
    | with_reducible refine HomeKept.ite (fun _ => ?_) (fun _ => ?_))

theorem writeLookupCtl_homeKept {z0 : State} (i : SliceNo) (v : W32) (s : State)
    (hK : HomeKept z0 s) : HomeKept z0 (writeLookupCtl i v s) := by
  unfold writeLookupCtl
  repeat' (first
    | with_reducible assumption
    | with_reducible apply State.modSl_homeKept
    | with_reducible apply bufCorrected_homeKept
    | with_reducible refine HomeKept.ite (fun _ => ?_) (fun _ => ?_)
    | fail_if_no_progress ((with_reducible apply HomeKept.mk1) <;> (first | with_reducible assumption | with_reducible rfl | skip))
    | with_reducible refine HomeKept.each (fun _ _ _ => ?_) ?_)

theorem writeLaneCtl_homeKept {z0 : State} (off : Nat) (m : Master) (raw v : W32) (s : State)
    (hK : HomeKept z0 s) : HomeKept z0 (writeLaneCtl off m raw v s) := by
  unfold writeLaneCtl
  repeat' (first
    | with_reducible assumption
    | with_reducible apply evCfgDiscard_homeKept
    | with_reducible apply putV_homeKept
    | with_reducible refine HomeKept.ite (fun _ => ?_) (fun _ => ?_))

theorem writeRetryCtl_homeKept {z0 : State} (off : Nat) (i : SliceNo) (m : Master) (raw v : W32) (s : State)
    (hK : HomeKept z0 s) : HomeKept z0 (writeRetryCtl off i m raw v s) := by
  unfold writeRetryCtl
  repeat' (first
    | with_reducible assumption
    | with_reducible apply State.modSl_homeKept
    | with_reducible apply evCfgDiscard_homeKept
    | with_reducible refine HomeKept.ite (fun _ => ?_) (fun _ => ?_))

theorem writeSnpCtl_homeKept {z0 : State} (off : Nat) (p : Port) (m : Master) (raw v : W32) (s : State)
    (hK : HomeKept z0 s) : HomeKept z0 (writeSnpCtl off p m raw v s) := by
  unfold writeSnpCtl
  repeat' (first
    | with_reducible assumption
    | with_reducible apply evCfgDiscard_homeKept
    | with_reducible apply putV_homeKept
    | with_reducible refine HomeKept.ite (fun _ => ?_) (fun _ => ?_))

theorem writeLinkCtl_homeKept {z0 : State} (p : Port) (act v : W32) (s : State)
    (hK : HomeKept z0 s) : HomeKept z0 (writeLinkCtl p act v s) := by
  unfold writeLinkCtl
  repeat' (first
    | with_reducible assumption
    | with_reducible apply State.modHp_homeKept
    | with_reducible apply portDown_homeKept
    | with_reducible apply enterRecovery_homeKept
    | with_reducible apply linkKept_homeKept
    | with_reducible apply putV_homeKept
    | with_reducible refine HomeKept.ite (fun _ => ?_) (fun _ => ?_))

theorem writeSluice_homeKept {z0 : State} (v : W32) (s : State)
    (hK : HomeKept z0 s) : HomeKept z0 (writeSluice v s) := by
  unfold writeSluice
  repeat' (first
    | with_reducible assumption
    | with_reducible apply issueEvery_homeKept
    | with_reducible apply closeEntries_homeKept
    | with_reducible refine HomeKept.ite (fun _ => ?_) (fun _ => ?_)
    | fail_if_no_progress ((with_reducible apply HomeKept.mk1) <;> (first | with_reducible assumption | with_reducible rfl | skip)))

theorem writeFrzCtl_homeKept {z0 : State} (act v : W32) (s : State)
    (hK : HomeKept z0 s) : HomeKept z0 (writeFrzCtl act v s) := by
  unfold writeFrzCtl
  repeat' (first
    | with_reducible assumption
    | with_reducible apply freezeDie_homeKept
    | with_reducible apply putV_homeKept
    | with_reducible refine HomeKept.ite (fun _ => ?_) (fun _ => ?_))

theorem writePmuCtl_homeKept {z0 : State} (act v : W32) (s : State)
    (hK : HomeKept z0 s) : HomeKept z0 (writePmuCtl act v s) := by
  unfold writePmuCtl
  repeat' (first
    | with_reducible assumption
    | with_reducible refine HomeKept.ite (fun _ => ?_) (fun _ => ?_)
    | fail_if_no_progress ((with_reducible apply HomeKept.mk1) <;> (first | with_reducible assumption | with_reducible rfl | skip)))

theorem writeEvqCtl_homeKept {z0 : State} (p : Port) (act v : W32) (s : State)
    (hK : HomeKept z0 s) : HomeKept z0 (writeEvqCtl p act v s) := by
  unfold writeEvqCtl
  repeat' (first
    | with_reducible assumption
    | with_reducible apply State.setEq_homeKept
    | with_reducible apply msixCheck_homeKept)

theorem writeEvqRd_homeKept {z0 : State} (p : Port) (v : W32) (s : State)
    (hK : HomeKept z0 s) : HomeKept z0 (writeEvqRd p v s) := by
  unfold writeEvqRd
  repeat' (first
    | with_reducible assumption
    | with_reducible apply State.setEq_homeKept
    | with_reducible apply msixCheck_homeKept
    | with_reducible refine HomeKept.ite (fun _ => ?_) (fun _ => ?_))

theorem writeEvqMark_homeKept {z0 : State} (p : Port) (v : W32) (s : State)
    (hK : HomeKept z0 s) : HomeKept z0 (writeEvqMark p v s) := by
  unfold writeEvqMark
  repeat' (first
    | with_reducible assumption
    | with_reducible apply State.setEq_homeKept
    | with_reducible refine HomeKept.ite (fun _ => ?_) (fun _ => ?_))

theorem writeMbxIn_homeKept {z0 : State} (p k : Port) (be : BitVec 4) (v : W32) (s : State)
    (hK : HomeKept z0 s) : HomeKept z0 (writeMbxIn p k be v s) := by
  unfold writeMbxIn
  repeat' (first
    | with_reducible assumption
    | (simp only [id_eq]; with_reducible assumption)
    | with_reducible apply State.modMb_homeKept
    | with_reducible apply postCmd_homeKept
    | with_reducible apply fwDo_homeKept
    | with_reducible refine HomeKept.ite (fun _ => ?_) (fun _ => ?_)
    | fail_if_no_progress ((with_reducible apply HomeKept.mk1) <;> (first | with_reducible assumption | with_reducible rfl | skip))
    | with_reducible refine HomeKept.each (fun _ _ _ => ?_) ?_
    | with_reducible refine HomeKept.foldl2 (fun _ _ _ => ?_) ?_
    | with_reducible refine HomeKept.foldl (fun _ _ _ => ?_) ?_
    | extract_lets
    | with_reducible apply HomeKept.counters
    | with_reducible rfl
    | split
    | with_reducible refine HomeKept.of_snd (by with_reducible assumption) ?_
    | dsimp +zetaDelta only
    | intro)

theorem writeParam_homeKept {z0 : State} (p : Port) (n : Nat) (m : Master) (be : BitVec 4) (v : W32) (s : State)
    (hK : HomeKept z0 s) : HomeKept z0 (writeParam p n m be v s) := by
  unfold writeParam
  repeat' (first
    | with_reducible assumption
    | with_reducible apply State.modMb_homeKept
    | with_reducible refine HomeKept.ite (fun _ => ?_) (fun _ => ?_))

theorem slowWrite_homeKept {z0 : State} (m : Master) (s : State)
    (hK : HomeKept z0 s) : HomeKept z0 (slowWrite m s) := by
  unfold slowWrite
  repeat' (first
    | with_reducible assumption
    | with_reducible apply modInd_homeKept
    | with_reducible refine HomeKept.ite (fun _ => ?_) (fun _ => ?_)
    | fail_if_no_progress ((with_reducible apply HomeKept.mk1) <;> (first | with_reducible assumption | with_reducible rfl | skip))
    | with_reducible refine HomeKept.each (fun _ _ _ => ?_) ?_
    | with_reducible refine HomeKept.foldl2 (fun _ _ _ => ?_) ?_
    | with_reducible refine HomeKept.foldl (fun _ _ _ => ?_) ?_
    | extract_lets
    | with_reducible apply HomeKept.counters
    | with_reducible rfl
    | split)

theorem indRead_homeKept {z0 : State} (m : Master) (s : State)
    (hK : HomeKept z0 s) : HomeKept z0 (indRead m s).2 := by
  unfold indRead
  repeat' (first
    | with_reducible assumption
    | with_reducible apply State.tick1_homeKept
    | with_reducible apply modInd_homeKept
    | with_reducible apply slowWrite_homeKept)

theorem indWrite_homeKept {z0 : State} (m : Master) (v : W32) (s : State)
    (hK : HomeKept z0 s) : HomeKept z0 (indWrite m v s) := by
  unfold indWrite
  repeat' (first
    | with_reducible assumption
    | with_reducible apply modInd_homeKept
    | with_reducible apply slowWrite_homeKept)

theorem writeSem_homeKept {z0 : State} (n : Fin 8) (m : Master) (v : W32) (s : State)
    (hK : HomeKept z0 s) : HomeKept z0 (writeSem n m v s) := by
  unfold writeSem
  repeat' (first
    | with_reducible assumption
    | with_reducible apply State.modGen_homeKept
    | with_reducible refine HomeKept.ite (fun _ => ?_) (fun _ => ?_))

theorem genWrite_homeKept {z0 : State} (r : Reg) (m : Master) (be : BitVec 4) (late : Bool) (act v : W32) (s : State)
    (hK : HomeKept z0 s) : HomeKept z0 (genWrite r m be late act v s) := by
  unfold genWrite
  repeat' (first
    | with_reducible assumption
    | with_reducible apply State.modMb_homeKept
    | with_reducible apply State.setEq_homeKept
    | with_reducible apply msixCheck_homeKept
    | with_reducible apply outAck_homeKept
    | with_reducible apply State.modGen_homeKept
    | with_reducible apply modInd_homeKept
    | with_reducible apply writeEvqCtl_homeKept
    | with_reducible apply writeEvqRd_homeKept
    | with_reducible apply writeEvqMark_homeKept
    | with_reducible apply writeMbxIn_homeKept
    | with_reducible apply writeParam_homeKept
    | with_reducible apply indWrite_homeKept
    | with_reducible apply writeSem_homeKept
    | with_reducible refine HomeKept.ite (fun _ => ?_) (fun _ => ?_)
    | fail_if_no_progress ((with_reducible apply HomeKept.mk1) <;> (first | with_reducible assumption | with_reducible rfl | skip))
    | with_reducible refine HomeKept.each (fun _ _ _ => ?_) ?_
    | with_reducible refine HomeKept.foldl2 (fun _ _ _ => ?_) ?_
    | with_reducible refine HomeKept.foldl (fun _ _ _ => ?_) ?_
    | extract_lets
    | with_reducible apply HomeKept.counters
    | with_reducible rfl
    | split)

theorem slcWrite_homeKept {z0 : State} (off : Nat) (r : Reg) (m : Master) (raw v : W32) (s : State)
    (hK : HomeKept z0 s) : HomeKept z0 (slcWrite off r m raw v s) := by
  unfold slcWrite
  repeat' (first
    | with_reducible assumption
    | with_reducible apply State.modSl_homeKept
    | with_reducible apply evCfgDiscard_homeKept
    | with_reducible apply issueAll_homeKept
    | with_reducible apply putV_homeKept
    | with_reducible apply writeCacheCtl_homeKept
    | with_reducible apply writeLookupCtl_homeKept
    | with_reducible apply writeRetryCtl_homeKept
    | with_reducible refine HomeKept.ite (fun _ => ?_) (fun _ => ?_)
    | fail_if_no_progress ((with_reducible apply HomeKept.mk1) <;> (first | with_reducible assumption | with_reducible rfl | skip))
    | with_reducible refine HomeKept.each (fun _ _ _ => ?_) ?_
    | with_reducible refine HomeKept.foldl2 (fun _ _ _ => ?_) ?_
    | with_reducible refine HomeKept.foldl (fun _ _ _ => ?_) ?_
    | extract_lets
    | with_reducible apply HomeKept.counters
    | with_reducible rfl
    | split)

theorem partWrite_homeKept {z0 : State} (off : Nat) (r : Reg) (m : Master) (raw act v : W32) (s : State)
    (hK : HomeKept z0 s) : HomeKept z0 (partWrite off r m raw act v s) := by
  unfold partWrite
  repeat' (first
    | with_reducible assumption
    | with_reducible apply State.modHp_homeKept
    | with_reducible apply evCfgDiscard_homeKept
    | with_reducible apply putV_homeKept
    | with_reducible apply writeLaneCtl_homeKept
    | with_reducible apply writeSnpCtl_homeKept
    | with_reducible apply writeLinkCtl_homeKept
    | with_reducible apply writeSluice_homeKept
    | with_reducible apply writeFrzCtl_homeKept
    | with_reducible apply writePmuCtl_homeKept
    | with_reducible refine HomeKept.ite (fun _ => ?_) (fun _ => ?_)
    | fail_if_no_progress ((with_reducible apply HomeKept.mk1) <;> (first | with_reducible assumption | with_reducible rfl | skip))
    | with_reducible refine HomeKept.each (fun _ _ _ => ?_) ?_
    | with_reducible refine HomeKept.foldl2 (fun _ _ _ => ?_) ?_
    | with_reducible refine HomeKept.foldl (fun _ _ _ => ?_) ?_
    | extract_lets
    | with_reducible apply HomeKept.counters
    | with_reducible rfl
    | split)

theorem write32_homeKept {z0 : State} (off : Nat) (m : Master) (be : BitVec 4) (late : Bool) (raw : W32) (s : State)
    (hK : HomeKept z0 s) : HomeKept z0 (write32 off m be late raw s) := by
  unfold write32
  repeat' (first
    | with_reducible assumption
    | with_reducible apply evCfgDiscard_homeKept
    | with_reducible apply State.modGen_homeKept
    | with_reducible apply accErr_homeKept
    | with_reducible apply setKey_homeKept
    | with_reducible apply genWrite_homeKept
    | with_reducible apply slcWrite_homeKept
    | with_reducible apply partWrite_homeKept
    | with_reducible refine HomeKept.ite (fun _ => ?_) (fun _ => ?_))

theorem readReg_homeKept {z0 : State} (off : Nat) (m : Master) (s : State)
    (hK : HomeKept z0 s) : HomeKept z0 (readReg off m s).2 := by
  unfold readReg
  repeat' (first
    | with_reducible assumption
    | with_reducible apply voteRead_homeKept
    | with_reducible apply State.modGen_homeKept
    | with_reducible apply indRead_homeKept
    | with_reducible refine HomeKept.ite (fun _ => ?_) (fun _ => ?_)
    | fail_if_no_progress ((with_reducible apply HomeKept.mk1) <;> (first | with_reducible assumption | with_reducible rfl | skip))
    | with_reducible refine HomeKept.each (fun _ _ _ => ?_) ?_
    | with_reducible refine HomeKept.foldl2 (fun _ _ _ => ?_) ?_
    | with_reducible refine HomeKept.foldl (fun _ _ _ => ?_) ?_
    | extract_lets
    | with_reducible apply HomeKept.counters
    | with_reducible rfl
    | split)

theorem setShadow_homeKept {z0 : State} (m : Master) (x : Option (Nat × W32)) (s : State)
    (hK : HomeKept z0 s) : HomeKept z0 (setShadow m x s) := by
  unfold setShadow
  repeat' (first
    | with_reducible assumption
    | with_reducible apply State.modGen_homeKept)

theorem read32_homeKept {z0 : State} (off : Nat) (m : Master) (s : State)
    (hK : HomeKept z0 s) : HomeKept z0 (read32 off m s).2 := by
  unfold read32
  repeat' (first
    | with_reducible assumption
    | with_reducible apply readReg_homeKept
    | with_reducible apply setShadow_homeKept
    | with_reducible refine HomeKept.ite (fun _ => ?_) (fun _ => ?_)
    | fail_if_no_progress ((with_reducible apply HomeKept.mk1) <;> (first | with_reducible assumption | with_reducible rfl | skip))
    | with_reducible refine HomeKept.each (fun _ _ _ => ?_) ?_
    | with_reducible refine HomeKept.foldl2 (fun _ _ _ => ?_) ?_
    | with_reducible refine HomeKept.foldl (fun _ _ _ => ?_) ?_
    | extract_lets
    | with_reducible apply HomeKept.counters
    | with_reducible rfl
    | split)

theorem read64_homeKept {z0 : State} (off : Nat) (m : Master) (s : State)
    (hK : HomeKept z0 s) : HomeKept z0 (read64 off m s).2 := by
  unfold read64
  repeat' (first
    | with_reducible assumption
    | with_reducible apply read32_homeKept
    | with_reducible refine HomeKept.ite (fun _ => ?_) (fun _ => ?_)
    | fail_if_no_progress ((with_reducible apply HomeKept.mk1) <;> (first | with_reducible assumption | with_reducible rfl | skip))
    | with_reducible refine HomeKept.each (fun _ _ _ => ?_) ?_
    | with_reducible refine HomeKept.foldl2 (fun _ _ _ => ?_) ?_
    | with_reducible refine HomeKept.foldl (fun _ _ _ => ?_) ?_
    | extract_lets
    | with_reducible apply HomeKept.counters
    | with_reducible rfl
    | split)

theorem regWriteNow_homeKept {z0 : State} (a : RAcc) (late : Bool) (s : State)
    (hK : HomeKept z0 s) : HomeKept z0 (regWriteNow a late s) := by
  unfold regWriteNow
  repeat' (first
    | with_reducible assumption
    | with_reducible apply accErr_homeKept
    | with_reducible apply setKey_homeKept
    | with_reducible apply doneWr_homeKept
    | with_reducible apply write32_homeKept
    | with_reducible refine HomeKept.ite (fun _ => ?_) (fun _ => ?_))

theorem regReadNow_homeKept {z0 : State} (a : RAcc) (s : State)
    (hK : HomeKept z0 s) : HomeKept z0 (regReadNow a s) := by
  unfold regReadNow
  repeat' (first
    | with_reducible assumption
    | with_reducible apply accErr_homeKept
    | with_reducible apply doneRd_homeKept
    | with_reducible apply read32_homeKept
    | with_reducible apply read64_homeKept
    | with_reducible refine HomeKept.ite (fun _ => ?_) (fun _ => ?_))

theorem RegOp.run_homeKept {z0 : State} (q : RegOp) (s : State)
    (hK : HomeKept z0 s) : HomeKept z0 (RegOp.run q s) := by
  unfold RegOp.run
  repeat' (first
    | with_reducible assumption
    | with_reducible apply regWriteNow_homeKept
    | with_reducible apply regReadNow_homeKept
    | with_reducible refine HomeKept.ite (fun _ => ?_) (fun _ => ?_))

theorem runRegs_homeKept {z0 : State} (p : Port) (n : Nat) (s : State) (hK : HomeKept z0 s) : HomeKept z0 (runRegs p n s) := by
  induction n generalizing s with
  | zero => exact hK
  | succ n ih =>
    unfold runRegs
    repeat' (first
    | with_reducible assumption
    | with_reducible apply ih
    | with_reducible apply RegOp.run_homeKept
    | with_reducible apply State.modHp_homeKept
    | with_reducible refine HomeKept.ite (fun _ => ?_) (fun _ => ?_)
    | fail_if_no_progress ((with_reducible apply HomeKept.mk1) <;> (first | with_reducible assumption | with_reducible rfl | skip))
    | with_reducible refine HomeKept.each (fun _ _ _ => ?_) ?_
    | with_reducible refine HomeKept.foldl2 (fun _ _ _ => ?_) ?_
    | with_reducible refine HomeKept.foldl (fun _ _ _ => ?_) ?_
    | extract_lets
    | with_reducible apply HomeKept.counters
    | with_reducible rfl
    | split)

theorem regAccess_homeKept {z0 : State} (a : RAcc) (read late : Bool) (s : State)
    (hK : HomeKept z0 s) : HomeKept z0 (regAccess a read late s) := by
  unfold regAccess
  repeat' (first
    | with_reducible assumption
    | with_reducible apply State.setHp_homeKept
    | with_reducible apply RegOp.run_homeKept
    | with_reducible apply runRegs_homeKept
    | with_reducible refine HomeKept.ite (fun _ => ?_) (fun _ => ?_)
    | fail_if_no_progress ((with_reducible apply HomeKept.mk1) <;> (first | with_reducible assumption | with_reducible rfl | skip))
    | with_reducible refine HomeKept.each (fun _ _ _ => ?_) ?_
    | with_reducible refine HomeKept.foldl2 (fun _ _ _ => ?_) ?_
    | with_reducible refine HomeKept.foldl (fun _ _ _ => ?_) ?_
    | extract_lets
    | with_reducible apply HomeKept.counters
    | with_reducible rfl
    | split)

theorem regWrite_homeKept {z0 : State} (a : RAcc) (late : Bool) (s : State)
    (hK : HomeKept z0 s) : HomeKept z0 (regWrite a late s) := by
  unfold regWrite
  repeat' (first
    | with_reducible assumption
    | with_reducible apply regAccess_homeKept)

theorem regRead_homeKept {z0 : State} (a : RAcc) (s : State)
    (hK : HomeKept z0 s) : HomeKept z0 (regRead a s) := by
  unfold regRead
  repeat' (first
    | with_reducible assumption
    | with_reducible apply regAccess_homeKept)

theorem barDoneRun_homeKept {z0 : State} (p : Port) (etag : BitVec 12) (s : State)
    (hK : HomeKept z0 s) : HomeKept z0 (barDoneRun p etag s) := by
  unfold barDoneRun
  repeat' (first
    | with_reducible assumption
    | with_reducible apply barDone_homeKept
    | with_reducible apply runRegs_homeKept)

theorem softWrite_homeKept {z0 : State} (off : Nat) (w : RWr) (s : State)
    (hK : HomeKept z0 s) : HomeKept z0 (softWrite off w s) := by
  unfold softWrite
  repeat' (first
    | with_reducible assumption
    | with_reducible apply regWrite_homeKept)

theorem evqHold_homeKept {z0 : State} (p : Port) (s : State)
    (hK : HomeKept z0 s) : HomeKept z0 (evqHold p s) := by
  unfold evqHold
  repeat' (first
    | with_reducible assumption
    | with_reducible apply State.setEq_homeKept
    | with_reducible apply msixCheck_homeKept)

end Sys2Proof.Machine
end

