-- ==== Sys2Proof/Laws/PerInstr.lean ====
section
/-! SUPPORT. One lemma per command of the table: no word spells it, since no row of the table gives bits. -/

namespace Sys2Proof.Laws.NoWord

/-- No word of any length spells the command. -/
def Statement (i : Instr) : Prop := ∀ nbits w : Nat, decodeTableWord nbits w ≠ some i

theorem rdshared (m : EMsg) : Statement (.rdshared m) := nofun
theorem rdown (m : EMsg) : Statement (.rdown m) := nofun
theorem upgrade (m : EMsg) : Statement (.upgrade m) := nofun
theorem rdcur (m : EMsg) : Statement (.rdcur m) := nofun
theorem write (m : EMsg) : Statement (.write m) := nofun
theorem writent (m : EMsg) : Statement (.writent m) := nofun
theorem wbdirty (m : EMsg) : Statement (.wbdirty m) := nofun
theorem evictclean (m : EMsg) : Statement (.evictclean m) := nofun
theorem atomic (m : EMsg) : Statement (.atomic m) := nofun
theorem rsvload (m : EMsg) : Statement (.rsvload m) := nofun
theorem condstore (m : EMsg) : Statement (.condstore m) := nofun
theorem barrier (m : EMsg) : Statement (.barrier m) := nofun
theorem barDoneComplete (p : Port) (etag : BitVec 12) : Statement (.barDoneComplete p etag) := nofun
theorem pfhint (m : EMsg) : Statement (.pfhint m) := nofun
theorem floor (m : EMsg) : Statement (.floor m) := nofun
theorem exception (m : EMsg) : Statement (.exception m) := nofun
theorem snprsp (m : EMsg) : Statement (.snprsp m) := nofun
theorem memrd (c : CMsg) : Statement (.memrd c) := nofun
theorem memwr (c : CMsg) : Statement (.memwr c) := nofun
theorem memwrptl (c : CMsg) : Statement (.memwrptl c) := nofun
theorem memspecrd (c : CMsg) : Statement (.memspecrd c) := nofun
theorem birsp (p : Port) (etag : BitVec 12) (rsp : BitVec 2) : Statement (.birsp p etag rsp) := nofun
theorem biconflict (p : Port) (etag : BitVec 12) : Statement (.biconflict p etag) := nofun
theorem hdmDecoderCommit (p : Port) (d : Fin 4) (base : W64) (size : W64) : Statement (.hdmDecoderCommit p d base size) := nofun
theorem snoopTimeout (p : Port) (etag : BitVec 12) : Statement (.snoopTimeout p etag) := nofun
theorem hostLinkTrained (p : Port) (x16 : Bool) (g6 : Bool) : Statement (.hostLinkTrained p x16 g6) := nofun
theorem hostLinkRecovery (p : Port) : Statement (.hostLinkRecovery p) := nofun
theorem recoveryTimeout (p : Port) : Statement (.recoveryTimeout p) := nofun
theorem ltssmExit (p : Port) : Statement (.ltssmExit p) := nofun
theorem portDownWalkDone (p : Port) : Statement (.portDownWalkDone p) := nofun
theorem retrain (p : Port) (w : RWr) : Statement (.retrain p w) := nofun
theorem hportLinkModeWrite (p : Port) (w : RWr) : Statement (.hportLinkModeWrite p w) := nofun
theorem rds (m : BMsg) : Statement (.rds m) := nofun
theorem rdx (m : BMsg) : Statement (.rdx m) := nofun
theorem upg (m : BMsg) : Statement (.upg m) := nofun
theorem rdu (m : BMsg) : Statement (.rdu m) := nofun
theorem wru (m : BMsg) : Statement (.wru m) := nofun
theorem amof (m : BMsg) : Statement (.amof m) := nofun
theorem pfq (m : BMsg) : Statement (.pfq m) := nofun
theorem putm (m : BMsg) : Statement (.putm m) := nofun
theorem puto (m : BMsg) : Statement (.puto m) := nofun
theorem pute (m : BMsg) : Statement (.pute m) := nofun
theorem puts (m : BMsg) : Statement (.puts m) := nofun
theorem ack (m : BMsg) : Statement (.ack m) := nofun
theorem invack (m : BMsg) (comb : Bool) : Statement (.invack m comb) := nofun
theorem probeResponse (m : BMsg) (dirty : Bool) : Statement (.probeResponse m dirty) := nofun
theorem datas (m : BMsg) : Statement (.datas m) := nofun
theorem datae (m : BMsg) : Statement (.datae m) := nofun
theorem datam (m : BMsg) : Statement (.datam m) := nofun
theorem cmp (m : BMsg) : Statement (.cmp m) := nofun
theorem nack (m : BMsg) : Statement (.nack m) := nofun
theorem nackRetry (s : SliceNo) (rtid : BitVec 12) : Statement (.nackRetry s rtid) := nofun
theorem wback (m : BMsg) : Statement (.wback m) := nofun
theorem fwds (m : BMsg) : Statement (.fwds m) := nofun
theorem fwdx (m : BMsg) : Statement (.fwdx m) := nofun
theorem inv (m : BMsg) : Statement (.inv m) := nofun
theorem binv (m : BMsg) : Statement (.binv m) := nofun
theorem probe (m : BMsg) : Statement (.probe m) := nofun
theorem claimWindowExpiry (num : BitVec 12) : Statement (.claimWindowExpiry num) := nofun
theorem ownerPutTimeout (num : BitVec 12) : Statement (.ownerPutTimeout num) := nofun
theorem forwardedAckTimeout (num : BitVec 12) : Statement (.forwardedAckTimeout num) := nofun
theorem wmbHoldExpiry (s : SliceNo) (id : Nat) : Statement (.wmbHoldExpiry s id) := nofun
theorem ntcHoldExpiry (p : Port) (id : Nat) : Statement (.ntcHoldExpiry p id) := nofun
theorem waiterResume (w : WaitRef) : Statement (.waiterResume w) := nofun
theorem prefetchWindowClose (s : SliceNo) : Statement (.prefetchWindowClose s) := nofun
theorem wayDisableDone (s : SliceNo) (region : BitVec 6) (way : Way) : Statement (.wayDisableDone s region way) := nofun
theorem waygroupPowerdownDone (g : BitVec 2) : Statement (.waygroupPowerdownDone g) := nofun
theorem waygroupPowerupDone (g : BitVec 2) : Statement (.waygroupPowerupDone g) := nofun
theorem cacheDrainDone (s : SliceNo) : Statement (.cacheDrainDone s) := nofun
theorem rangeWalkDone : Statement .rangeWalkDone := nofun
theorem policyWalkDone (m : Member) (region : BitVec 10) : Statement (.policyWalkDone m region) := nofun
theorem purgeWalkDone (n : NodeId) : Statement (.purgeWalkDone n) := nofun
theorem deadRequestTimeout (n : NodeId) : Statement (.deadRequestTimeout n) := nofun
theorem sweepPassDone (n : NodeId) : Statement (.sweepPassDone n) := nofun
theorem readmission (n : NodeId) : Statement (.readmission n) := nofun
theorem horizonPeriod (k : W64) (pendingLists : List (BitVec 6)) : Statement (.horizonPeriod k pendingLists) := nofun
theorem floorReport (g : BitVec 6) (k : W64) (d : W64) (s : W64) (cnt : Nat) : Statement (.floorReport g k d s cnt) := nofun
theorem horizonResult (g : BitVec 6) (k : W64) (h : W64) (s : W64) : Statement (.horizonResult g k h s) := nofun
theorem stampStall : Statement .stampStall := nofun
theorem memberListUpdate (g : BitVec 6) (n : NodeId) (join : Bool) : Statement (.memberListUpdate g n join) := nofun
theorem flit (f : FPortNo) (x : FlitIn) : Statement (.flit f x) := nofun
theorem transitBypass (f : FPortNo) (x : Packet) : Statement (.transitBypass f x) := nofun
theorem broadcastReplicate (f : Option FPortNo) (x : Packet) : Statement (.broadcastReplicate f x) := nofun
theorem combinedInvack (m : BMsg) (cnt : Nat) : Statement (.combinedInvack m cnt) := nofun
theorem heartbeatSend : Statement .heartbeatSend := nofun
theorem heartbeat (f : FPortNo) (time : W64) (dist : BitVec 7) (delay : W64) : Statement (.heartbeat f time dist delay) := nofun
theorem linkLost (f : FPortNo) (c : LossCause) : Statement (.linkLost f c) := nofun
theorem linklost (f : FPortNo) (n : NodeId) (peer : NodeId) (t : W64) : Statement (.linklost f n peer t) := nofun
theorem linklostDecision (f : FPortNo) : Statement (.linklostDecision f) := nofun
theorem declaration (f : FPortNo) (n : NodeId) : Statement (.declaration f n) := nofun
theorem packetAged (f : FPortNo) (x : Packet) : Statement (.packetAged f x) := nofun
theorem warm (f : FPortNo) : Statement (.warm f) := nofun
theorem fabricLinkTrained (f : FPortNo) (neigh : NodeId) : Statement (.fabricLinkTrained f neigh) := nofun
theorem fabricTrainingTimeout (f : FPortNo) : Statement (.fabricTrainingTimeout f) := nofun
theorem regionPolicyChange (m : Member) (region : BitVec 10) (wt : Bool) (src : NodeId) : Statement (.regionPolicyChange m region wt src) := nofun
theorem regionSetAck (n : NodeId) : Statement (.regionSetAck n) := nofun
theorem regionSetTimeout : Statement .regionSetTimeout := nofun
theorem contractShareReserve (n : NodeId) (p : Port) (missr : BitVec 11) (depth : Nat) : Statement (.contractShareReserve n p missr depth) := nofun
theorem contractShareAnswer (n : NodeId) (p : Port) (ok : Bool) : Statement (.contractShareAnswer n p ok) := nofun
theorem contractReqTimeout (p : Port) : Statement (.contractReqTimeout p) := nofun
theorem contractRelComplete (p : Port) : Statement (.contractRelComplete p) := nofun
theorem stampJoinCleanDone (p : Port) (hzn : W64) : Statement (.stampJoinCleanDone p hzn) := nofun
theorem stampLeaveComplete (p : Port) : Statement (.stampLeaveComplete p) := nofun
theorem frameReservationAnswer (n : NodeId) (orig : Member) (region : BitVec 10) (ok : Bool) : Statement (.frameReservationAnswer n orig region ok) := nofun
theorem frameReservationTimeout (orig : Member) (region : BitVec 10) : Statement (.frameReservationTimeout orig region) := nofun
theorem relocationCopyDone (orig : Member) (region : BitVec 10) (copied : List RegLine) : Statement (.relocationCopyDone orig region copied) := nofun
theorem relocationNotice (src : NodeId) (orig : Member) (region : BitVec 10) (gen : BitVec 8) (home : Member) : Statement (.relocationNotice src orig region gen home) := nofun
theorem relocationDrainDone (orig : Member) (region : BitVec 10) : Statement (.relocationDrainDone orig region) := nofun
theorem relocationFinalCopyDone (orig : Member) (region : BitVec 10) (copied : List RegLine) : Statement (.relocationFinalCopyDone orig region copied) := nofun
theorem readyNotice (src : NodeId) (orig : Member) (region : BitVec 10) (gen : BitVec 8) : Statement (.readyNotice src orig region gen) := nofun
theorem relocationAck (n : NodeId) (orig : Member) (region : BitVec 10) (gen : BitVec 8) : Statement (.relocationAck n orig region gen) := nofun
theorem stubRelease (orig : Member) (region : BitVec 10) (gen : BitVec 8) : Statement (.stubRelease orig region gen) := nofun
theorem relocationTableAnswer (a : List TabAnswer) : Statement (.relocationTableAnswer a) := nofun
theorem relocationTableRetry : Statement .relocationTableRetry := nofun
theorem patrolScrubRead (ddr : Bool) (ups : List (BitVec 16 × Upset)) : Statement (.patrolScrubRead ddr ups) := nofun
theorem patrolPeriodEnd (ddr : Bool) : Statement (.patrolPeriodEnd ddr) := nofun
theorem liveRepairDone (ok : Bool) : Statement (.liveRepairDone ok) := nofun
theorem leak : Statement .leak := nofun
theorem backgroundFillBlock : Statement .backgroundFillBlock := nofun
theorem fillSlotDone (block : BitVec 20) : Statement (.fillSlotDone block) := nofun
theorem heldWriteRelease : Statement .heldWriteRelease := nofun
theorem voteCheck : Statement .voteCheck := nofun
theorem ping (p : Port) (k : Port) : Statement (.ping p k) := nofun
theorem regionSet (p : Port) (k : Port) : Statement (.regionSet p k) := nofun
theorem regionGet (p : Port) (k : Port) : Statement (.regionGet p k) := nofun
theorem flushRange (p : Port) (k : Port) : Statement (.flushRange p k) := nofun
theorem invalRange (p : Port) (k : Port) : Statement (.invalRange p k) := nofun
theorem cleanAll (p : Port) (k : Port) : Statement (.cleanAll p k) := nofun
theorem waylock (p : Port) (k : Port) : Statement (.waylock p k) := nofun
theorem waylockLoad (p : Port) (k : Port) : Statement (.waylockLoad p k) := nofun
theorem waygroupPowerDown (p : Port) (k : Port) : Statement (.waygroupPowerDown p k) := nofun
theorem waygroupPowerUp (p : Port) (k : Port) : Statement (.waygroupPowerUp p k) := nofun
theorem contractReq (p : Port) (k : Port) : Statement (.contractReq p k) := nofun
theorem contractRel (p : Port) (k : Port) : Statement (.contractRel p k) := nofun
theorem stampJoin (p : Port) (k : Port) : Statement (.stampJoin p k) := nofun
theorem stampLeave (p : Port) (k : Port) : Statement (.stampLeave p k) := nofun
theorem homeRelocate (p : Port) (k : Port) : Statement (.homeRelocate p k) := nofun
theorem peatRead (p : Port) (k : Port) : Statement (.peatRead p k) := nofun
theorem errlogRead (p : Port) (k : Port) : Statement (.errlogRead p k) := nofun
theorem nodeStatus (p : Port) (k : Port) : Statement (.nodeStatus p k) := nofun
theorem fwInfo (p : Port) (k : Port) : Statement (.fwInfo p k) := nofun
theorem mbxOutack (p : Port) (k : Port) (w : RWr) (late : Bool) : Statement (.mbxOutack p k w late) := nofun
theorem fwIdle : Statement .fwIdle := nofun
theorem fwRestart (exc : Bool) (again : Bool) : Statement (.fwRestart exc again) := nofun
theorem fwRestartComplete : Statement .fwRestartComplete := nofun
theorem watchdog : Statement .watchdog := nofun
theorem genUnlock (w : RWr) : Statement (.genUnlock w) := nofun
theorem keyTimeout (m : Master) : Statement (.keyTimeout m) := nofun
theorem genSemRead (a : RAcc) (n : Fin 8) : Statement (.genSemRead a n) := nofun
theorem genSemRelease (n : Fin 8) (w : RWr) : Statement (.genSemRelease n w) := nofun
theorem counterLoRead (a : RAcc) : Statement (.counterLoRead a) := nofun
theorem indDataRead (a : RAcc) : Statement (.indDataRead a) := nofun
theorem indDataWrite (a : RAcc) : Statement (.indDataWrite a) := nofun
theorem slowWriteDone (m : Master) : Statement (.slowWriteDone m) := nofun
theorem evqRdWrite (p : Port) (w : RWr) : Statement (.evqRdWrite p w) := nofun
theorem evqMarkWrite (p : Port) (w : RWr) : Statement (.evqMarkWrite p w) := nofun
theorem flush (p : Port) (w : RWr) : Statement (.flush p w) := nofun
theorem rewind (p : Port) (w : RWr) : Statement (.rewind p w) := nofun
theorem evqHoldExpiry (p : Port) : Statement (.evqHoldExpiry p) := nofun
theorem cacheDisable (s : SliceNo) (w : RWr) : Statement (.cacheDisable s w) := nofun
theorem cacheEnable (s : SliceNo) (w : RWr) : Statement (.cacheEnable s w) := nofun
theorem slcWaylockWrite (s : SliceNo) (w : RWr) : Statement (.slcWaylockWrite s w) := nofun
theorem shadowEnClear (s : SliceNo) (w : RWr) : Statement (.shadowEnClear s w) := nofun
theorem hportSnpCtlWrite (p : Port) (w : RWr) : Statement (.hportSnpCtlWrite p w) := nofun
theorem homeLaneCtlWrite (w : RWr) : Statement (.homeLaneCtlWrite w) := nofun
theorem slcRetryCtlWrite (s : SliceNo) (w : RWr) : Statement (.slcRetryCtlWrite s w) := nofun
theorem stampWaysWrite (w : RWr) : Statement (.stampWaysWrite w) := nofun
theorem sluiceClose (w : RWr) : Statement (.sluiceClose w) := nofun
theorem walkhold (w : RWr) : Statement (.walkhold w) := nofun
theorem fportCtlEnWrite (f : FPortNo) (w : RWr) : Statement (.fportCtlEnWrite f w) := nofun
theorem sw (w : RWr) : Statement (.sw w) := nofun
theorem clear (w : RWr) : Statement (.clear w) := nofun
theorem registerWrite (a : RAcc) : Statement (.registerWrite a) := nofun
theorem peatRecordWrite : Statement .peatRecordWrite := nofun
theorem summary : Statement .summary := nofun
theorem limitMinute : Statement .limitMinute := nofun
theorem peatPtr (b : SmbHdr) : Statement (.peatPtr b) := nofun
theorem peatSel (b : SmbHdr) (seq : W32) : Statement (.peatSel b seq) := nofun
theorem peatData (b : SmbHdr) : Statement (.peatData b) := nofun
theorem temp (b : SmbHdr) : Statement (.temp b) := nofun
theorem power (b : SmbHdr) : Statement (.power b) := nofun
theorem warmAnnounce (b : SmbHdr) (ms : BitVec 16) : Statement (.warmAnnounce b ms) := nofun
theorem extest (bits : List Bool) : Statement (.extest bits) := nofun
theorem samplePreload (bits : List Bool) : Statement (.samplePreload bits) := nofun
theorem idcode : Statement .idcode := nofun
theorem highz : Statement .highz := nofun
theorem clamp : Statement .clamp := nofun
theorem extestPulse (bits : List Bool) : Statement (.extestPulse bits) := nofun
theorem extestTrain (bits : List Bool) : Statement (.extestTrain bits) := nofun
theorem frzstat : Statement .frzstat := nofun
theorem chainsel (v : W32) : Statement (.chainsel v) := nofun
theorem chainscan (tdi : List Bool) : Statement (.chainscan tdi) := nofun
theorem arraysel (v : W32) : Statement (.arraysel v) := nofun
theorem arrayrd : Statement .arrayrd := nofun
theorem bypass (tdi : Bool) : Statement (.bypass tdi) := nofun
theorem powerOn : Statement .powerOn := nofun
theorem pwrOk (trstN : Bool) : Statement (.pwrOk trstN) := nofun
theorem resetN : Statement .resetN := nofun
theorem wrstN : Statement .wrstN := nofun
theorem warmDrainDeadline : Statement .warmDrainDeadline := nofun
theorem wrstNRelease : Statement .wrstNRelease := nofun
theorem quietExchangeResult (a : List QuietAnswer) : Statement (.quietExchangeResult a) := nofun
theorem quietTimeout : Statement .quietTimeout := nofun
theorem pfailN : Statement .pfailN := nofun
theorem pfailDrainDeadline : Statement .pfailDrainDeadline := nofun
theorem freezeN : Statement .freezeN := nofun
theorem railTrip (vaon : Bool) : Statement (.railTrip vaon) := nofun
theorem refclkLoss : Statement .refclkLoss := nofun
theorem temperatureSample (t : List Byte) : Statement (.temperatureSample t) := nofun
theorem pllLock : Statement .pllLock := nofun
theorem checkerSelfTestDone (r : SelfTest) : Statement (.checkerSelfTestDone r) := nofun
theorem imageLoadDone (r : ImageResult) : Statement (.imageLoadDone r) := nofun
theorem hbmTrainingDone (trained : BitVec 4) : Statement (.hbmTrainingDone trained) := nofun
theorem hbmZeroFillDone : Statement .hbmZeroFillDone := nofun
theorem ddr5TrainingDone (dimms : List (Option Dimm)) : Statement (.ddr5TrainingDone dimms) := nofun
theorem firstGibFillDone : Statement .firstGibFillDone := nofun
theorem firmwareRelease : Statement .firmwareRelease := nofun
theorem admissionOpen (p : Port) : Statement (.admissionOpen p) := nofun
theorem hostLinkRecovered (p : Port) (x16 : Bool) (g6 : Bool) (flits : W64) : Statement (.hostLinkRecovered p x16 g6 flits) := nofun
theorem disabledWayTestDone (s : SliceNo) (region : BitVec 6) (way : Way) (cleanRes : Bool) : Statement (.disabledWayTestDone s region way cleanRes) := nofun
theorem fuseAndMramReadDone : Statement .fuseAndMramReadDone := nofun
theorem relocationTableQuery (n : NodeId) : Statement (.relocationTableQuery n) := nofun
theorem frameReservationRequest (n : NodeId) (orig : Member) (region : BitVec 10) : Statement (.frameReservationRequest n orig region) := nofun
theorem contractShareRelease (n : NodeId) (p : Port) : Statement (.contractShareRelease n p) := nofun
theorem reservedEmhalOpcode (m : EMsg) (opc : BitVec 6) : Statement (.reservedEmhalOpcode m opc) := nofun
theorem backInvalidationEnable (p : Port) : Statement (.backInvalidationEnable p) := nofun
theorem msiXEnable (p : Port) : Statement (.msiXEnable p) := nofun
theorem powerDown (vaonToo : Bool) : Statement (.powerDown vaonToo) := nofun

end Sys2Proof.Laws.NoWord
end

