-- ==== Sys2Proof/Laws/Ways.lean ====
section
/-! SUPPORT. The tag words of a slice after a word is written or a way is touched: what reads back, and what stays (R34 to R38, R49). -/

set_option Elab.async false

namespace Sys2Proof.Machine

theorem vget_vset_same {α : Type} {n : Nat} (v : Vector α n) (i : Nat) (a d : α) (h : i < n) : vget (vset v i a) i d = a := by
  simp [vget, vset, h]
theorem vget_vset_other {α : Type} {n : Nat} (v : Vector α n) {i j : Nat} (a d : α) (h : j ≠ i) : vget (vset v i a) j d = vget v j d := by
  unfold vget vset
  by_cases hi : i < n
  · by_cases hj : j < n
    · simp [hi, hj, Ne.symm h]
    · simp [hj]
  · simp [hi]

theorem vset_get {α : Type} {n : Nat} (v : Vector α n) (i j : Nat) (a : α) (hj : j < n) : (vset v i a)[j] = if i = j then a else v[j] := by
  unfold vset
  split
  · rw [Vector.getElem_set]
  · rename_i h; rw [if_neg (by omega)]

/-- The entry that answers for a set is good, carries the set's tag, and is the first that does. -/
theorem shEntry_some {x : Slice} {set i : Nat} {e : ShEntry} (h : x.shEntry set = some (i, e)) :
    i < 8 ∧ e = vget (spGet {} x.shadow (shKey set)).ents i {} ∧ e.valid = true ∧ e.bad = false ∧ e.idx = shTag set := by
  unfold Slice.shEntry at h
  dsimp only at h
  rw [Option.map_eq_some_iff] at h
  obtain ⟨k, hk, he⟩ := h
  cases he
  rw [List.findIdx?_eq_some_iff_getElem] at hk
  obtain ⟨hl, hp, -⟩ := hk
  have hl8 : i < 8 := by simpa using hl
  have e1 : (spGet {} x.shadow (shKey set)).ents.toList[i] = vget (spGet {} x.shadow (shKey set)).ents i {} := by
    simp [vget, hl8]
  rw [e1] at hp
  simp only [Bool.and_eq_true, Bool.not_eq_true', decide_eq_true_eq] at hp
  exact ⟨hl8, rfl, hp.1.1, hp.1.2, hp.2⟩


/-- The shadow with entry i of a set's shadow set replaced. -/
def Slice.withEnt (x : Slice) (set i : Nat) (e : ShEntry) : Slice :=
  { x with shadow := spMod {} (shKey set) (fun q => { q with ents := vset q.ents i e }) x.shadow }

theorem withEnt_get {x : Slice} {set i : Nat} {e : ShEntry} (hi : i < 8) (hv : e.valid = true) (k : Nat) :
    spGet {} (x.withEnt set i e).shadow k =
      if k = shKey set then { spGet {} x.shadow k with ents := vset (spGet {} x.shadow k).ents i e } else spGet {} x.shadow k := by
  have hne : ({ spGet {} x.shadow (shKey set) with ents := vset (spGet {} x.shadow (shKey set)).ents i e } : ShSet) ≠ {} := by
    intro h
    have h2 := congrArg (fun q : ShSet => (vget q.ents i {}).valid) h
    simp only [vget_vset_same _ _ _ _ hi, hv] at h2
    revert h2
    have : (vget ({} : ShSet).ents i {}) = ({} : ShEntry) := by simp [vget, hi]
    rw [this]; decide
  unfold Slice.withEnt spMod spSet
  dsimp only
  rw [if_neg hne]
  split
  · rename_i h; subst h; exact spGet_spIns_same _ _ _ _
  · rename_i h; exact spGet_spIns_other _ _ _ h

theorem withEnt_same {x : Slice} {set i : Nat} {e e1 : ShEntry} (h : x.shEntry set = some (i, e)) (hv : e1.valid = true)
    (hb : e1.bad = false) (hx : e1.idx = e.idx) : (x.withEnt set i e1).shEntry set = some (i, e1) := by
  obtain ⟨hi, he, -, -, hidx⟩ := shEntry_some h
  unfold Slice.shEntry at h ⊢
  dsimp only at h ⊢
  rw [withEnt_get hi hv, if_pos rfl]
  rw [Option.map_eq_some_iff] at h ⊢
  obtain ⟨k, hk, hke⟩ := h
  cases hke
  refine ⟨i, ?_, ?_⟩
  · rw [List.findIdx?_eq_some_iff_getElem] at hk ⊢
    obtain ⟨hl, hp, hlt⟩ := hk
    refine ⟨by simpa using hi, ?_, ?_⟩
    · rw [Vector.getElem_toList, vset_get _ _ _ _ hi, if_pos rfl, hv, hb, hx, hidx]; simp
    · intro j hj
      have := hlt j hj
      have hji : i ≠ j := by omega
      rw [Vector.getElem_toList] at this ⊢
      rw [vset_get _ _ _ _ (by omega), if_neg hji]; exact this
  · simp [vget_vset_same _ _ _ _ hi]

theorem shKey_shTag {a b : Nat} (ha : a < 2 ^ 23) (hb : b < 2 ^ 23) (hk : shKey a = shKey b) (ht : shTag a = shTag b) : a = b := by
  unfold shKey at hk
  have h := congrArg BitVec.toNat ht
  simp only [shTag, BitVec.toNat_ofNat] at h
  omega

theorem withEnt_other {x : Slice} {set i : Nat} {e e1 : ShEntry} (h : x.shEntry set = some (i, e)) (hv : e1.valid = true)
    (hx : e1.idx = e.idx) {k : Nat} (hs : set < 2 ^ 23) (hk : k < 2 ^ 23) (hne : k ≠ set) : (x.withEnt set i e1).shEntry k = x.shEntry k := by
  obtain ⟨hi, he, -, -, hidx⟩ := shEntry_some h
  unfold Slice.shEntry
  dsimp only
  rw [withEnt_get hi hv]
  split
  · rename_i hkey
    have htag : shTag set ≠ shTag k := fun e => hne (shKey_shTag hk hs hkey e.symm)
    have hlist : ∀ P : ShEntry → Bool, P e1 = false → P e = false →
        (vset (spGet {} x.shadow (shKey k)).ents i e1).toList.findIdx? P = (spGet {} x.shadow (shKey k)).ents.toList.findIdx? P := by
      intro P h1 h2
      have e0 : e = (spGet {} x.shadow (shKey k)).ents[i] := by rw [he, ← hkey]; simp [vget, hi]
      have : (vset (spGet {} x.shadow (shKey k)).ents i e1).toList.map P = (spGet {} x.shadow (shKey k)).ents.toList.map P := by
        apply List.ext_getElem (by simp)
        intro j h3 h4
        simp only [List.length_map, Vector.length_toList] at h3 h4
        by_cases hji : i = j
        · subst hji
          rw [List.getElem_map, List.getElem_map, Vector.getElem_toList, Vector.getElem_toList, vset_get _ _ _ _ hi, if_pos rfl, ← e0, h1, h2]
        · rw [List.getElem_map, List.getElem_map, Vector.getElem_toList, Vector.getElem_toList, vset_get _ _ _ _ h3, if_neg hji]
      have q1 := List.findIdx?_map (p := id) (f := P) (l := (vset (spGet {} x.shadow (shKey k)).ents i e1).toList)
      have q2 := List.findIdx?_map (p := id) (f := P) (l := (spGet {} x.shadow (shKey k)).ents.toList)
      rw [this] at q1
      exact (q1.symm.trans q2)
    rw [hlist _ (by simp [hx, hidx, htag]) (by simp [hidx, htag])]
    cases hf : (spGet {} x.shadow (shKey k)).ents.toList.findIdx? (fun e => e.valid && !e.bad && decide (e.idx = shTag k)) with
    | none => rfl
    | some j =>
      simp only [Option.map_some]
      have hj : j ≠ i := by
        rintro rfl
        rw [List.findIdx?_eq_some_iff_getElem] at hf
        obtain ⟨hl, hp, -⟩ := hf
        have e0 : e = (spGet {} x.shadow (shKey k)).ents.toList[j] := by rw [he, ← hkey]; simp [vget, hi]
        rw [← e0] at hp
        simp [hidx, htag] at hp
      rw [vget_vset_other _ _ _ hj]
  · rfl


/-! ### Tag blocks -/

theorem block_of_entry {x : Slice} {k i : Nat} {e : ShEntry} (h : x.shEntry k = some (i, e)) : x.block k = e.block := by
  unfold Slice.block; rw [h]

theorem block_congr {x y : Slice} {k : Nat} (h1 : y.shEntry k = x.shEntry k) (h2 : spGet {} y.tags k = spGet {} x.tags k)
    (h3 : y.stt = x.stt) : y.block k = x.block k := by
  unfold Slice.block Slice.reread Slice.tsBlock
  rw [h1, h2, h3]

theorem shEntry_putBlock {x : Slice} {set i : Nat} {e : ShEntry} {b : TagBlock} (h : x.shEntry set = some (i, e)) (hs : x.shadowEn = true) :
    ∃ e1 : ShEntry, (x.putBlock set b).shEntry set = some (i, e1) ∧ e1.block = b := by
  have hb := (shEntry_some h).2.2.2.1
  unfold Slice.putBlock
  rw [h]
  dsimp only
  refine ⟨_, withEnt_same (e1 := { e with block := b, dirty := false, pin := b.ways.toList.any (fun t => decide (t.st = .P)), valid := b.ways.toList.any (fun t => decide (t.st = .P)) || x.shadowEn }) h ?_ hb rfl, rfl⟩
  simp [hs]

theorem block_putBlock {x : Slice} {set i : Nat} {e : ShEntry} {b : TagBlock} (h : x.shEntry set = some (i, e)) (hs : x.shadowEn = true) :
    (x.putBlock set b).block set = b := by
  obtain ⟨e1, h1, h2⟩ := shEntry_putBlock (b := b) h hs
  rw [block_of_entry h1, h2]

theorem block_putBlock_other {x : Slice} {set i : Nat} {e : ShEntry} {b : TagBlock} (h : x.shEntry set = some (i, e)) (hs : x.shadowEn = true)
    (hw : spWf {} x.tags = true) {k : Nat} (hset : set < 2 ^ 23) (hk : k < 2 ^ 23) (hne : k ≠ set) : (x.putBlock set b).block k = x.block k := by
  unfold Slice.putBlock
  rw [h]
  dsimp only
  have h1 := withEnt_other (e1 := { e with block := b, dirty := false, pin := b.ways.toList.any (fun t => decide (t.st = .P)), valid := b.ways.toList.any (fun t => decide (t.st = .P)) || x.shadowEn }) h (by simp [hs]) rfl hset hk hne
  exact block_congr h1 (spGet_spSet_other hw hne) rfl

theorem word_putWord {x : Slice} {set i : Nat} {e : ShEntry} (h : x.shEntry set = some (i, e)) (hs : x.shadowEn = true) {w : Nat}
    (hw : w < 15) (t : TagWord) : (x.putWord set w t).word set w = t := by
  unfold Slice.word Slice.putWord
  rw [block_putBlock h hs]
  exact vget_vset_same _ _ _ _ hw

theorem word_putWord_other {x : Slice} {set i : Nat} {e : ShEntry} (h : x.shEntry set = some (i, e)) (hs : x.shadowEn = true)
    (hw : spWf {} x.tags = true) {k w v : Nat} (t : TagWord) (hset : set < 2 ^ 23) (hk : k < 2 ^ 23) (hne : k ≠ set ∨ v ≠ w) :
    (x.putWord set w t).word k v = x.word k v := by
  unfold Slice.word Slice.putWord
  by_cases e : k = set
  · subst e
    rw [block_putBlock h hs]
    exact vget_vset_other _ _ _ (by tauto)
  · rw [block_putBlock_other h hs hw hset hk e]

theorem shEntry_putWord {x : Slice} {set i : Nat} {e : ShEntry} (h : x.shEntry set = some (i, e)) (hs : x.shadowEn = true) (w : Nat)
    (t : TagWord) : ∃ e1 : ShEntry, (x.putWord set w t).shEntry set = some (i, e1) := by
  obtain ⟨e1, h1, -⟩ := shEntry_putBlock (b := { x.block set with ways := vset (x.block set).ways w t }) h hs
  exact ⟨e1, h1⟩

/-- A touch of the PLRU changes no tag word. -/
theorem word_touchWay {x : Slice} {set i : Nat} {e : ShEntry} (h : x.shEntry set = some (i, e)) (w : Nat) {k v : Nat} (hset : set < 2 ^ 23)
    (hk : k < 2 ^ 23) : (x.touchWay set w).word k v = x.word k v := by
  obtain ⟨hi, he, hv, hb, hidx⟩ := shEntry_some h
  unfold Slice.touchWay Slice.putPlru Slice.word
  rw [h]
  dsimp only
  by_cases ek : k = set
  · subst ek
    have h1 := withEnt_same (e1 := { e with block := { e.block with plru := treeTouch 4 0 w (x.block k).plru }, dirty := true }) h hv hb rfl
    exact (congrArg (fun b : TagBlock => vget b.ways v {}) (block_of_entry h1)).trans
      (congrArg (fun b : TagBlock => vget b.ways v {}) (block_of_entry h)).symm
  · have h1 := withEnt_other (e1 := { e with block := { e.block with plru := treeTouch 4 0 w (x.block set).plru }, dirty := true }) h hv rfl hset hk ek
    exact congrArg (fun b : TagBlock => vget b.ways v {}) (block_congr (x := x) h1 rfl rfl)

end Sys2Proof.Machine
end

