-- ==== Sys2Proof/Tests/Slice0.lean ====
section
/-! SUPPORT. Small tests of one command each, and for every statement with hypotheses a state that meets them. -/

set_option Elab.async false

namespace Sys2Proof.Tests

open Sys2Proof.Machine

/-- A running part: node 0 of a torus of 4 x 4 x 4, 64 GiB, the firmware in RUN. -/
def base : State := { State.reset with
  crp := { State.reset.crp with pllLock := true, phase := .running, started := true, powered := true }
  node := { State.reset.node with loaded := true, xsz := 3, ysz := 3, zsz := 3 }
  mem := { State.reset.mem with
    size := 0x1000000000, chan := 0xFF, fill1g := true, filled := true, fillBlk := 0x8000, hbmFilled := true
    hbmTrained := 0xF, ddrTrained := 0xFF }
  pins := { State.reset.pins with trstN := true }
  fw := { State.reset.fw with st := .run } }

/-- The running part with every host link in L0, Emhal, and admission open. -/
def up : State := { base with hports := Vector.replicate 4 { HPort.reset with link := .up, linkCtl := .mk1 0x19, admOpen := true } }

/-- The neighbour of node 0 in the X direction. -/
def n1 : NodeId := 0x01000

/-- The running part before its firmware was released, in a phase of the start-up. -/
def starting (p : Phase) : State := { State.reset with crp := { State.reset.crp with pllLock := true, phase := p, started := true, powered := true } }

/-! ### The machine -/

theorem test_idle_queue : State.reset.pending = [] := rfl

theorem test_step_takes_the_front : ∃ t : State, step { State.reset with pending := [.idcode, .clamp] } = .next t ∧ t.pending = [.clamp] := ⟨_, rfl, rfl⟩

theorem test_good : base.good ∧ ∃ t : State, step base = .next t := ⟨⟨by decide, by decide⟩, _, rfl⟩

theorem test_leak_is_not_always_on : alwaysOn .leak = false := rfl

theorem test_frozen_as : ∃ t : State, FrozenAs { base with dbg := { base.dbg with frozen := true } } { base with dbg := { base.dbg with frozen := true }, pending := [.leak] } ∧
    step { base with dbg := { base.dbg with frozen := true }, pending := [.leak] } = .next t := ⟨_, ⟨rfl, rfl, rfl⟩, rfl⟩

theorem test_ring_canonical : spWf 0 base.peat.ring = true ∧ ∃ t : State, step base = .next t := ⟨rfl, _, rfl⟩

/-! ### The test port, SMBus, the Peat record, resets and drains -/

theorem test_test_logic : base.pins.trstN = true ∧ State.reset.pins.trstN = false ∧ (∃ b : SmbHdr, b.addr = 0x58 + base.aon.smbAd.setWidth 7 ∧ b.pec = true) ∧
    ∃ b : SmbHdr, b.addr ≠ 0x58 + base.aon.smbAd.setWidth 7 ∨ b.pec = false :=
  ⟨by decide, by decide, ⟨⟨0x58 + base.aon.smbAd.setWidth 7, true⟩, rfl, rfl⟩, ⟨⟨0, false⟩, .inr rfl⟩⟩

theorem test_frozen_or_not : ({ base with dbg := { base.dbg with frozen := true } } : State).dbg.frozen = true ∧ base.dbg.frozen = false ∧ base.aon.up = true := by decide

/-- A record that waits for the writer. -/
def rec0 : PRec := { type := 0x40, hw := true, cause := 0, body := 0 }

theorem test_peat_writer : base.aon.up = true ∧ base.crp.powered = true ∧ spWf 0 base.peat.ring = true ∧ base.clk = true ∧ base.peat.own = [] ∧ base.peat.queue = [] ∧
    ({ base.peat with own := [rec0] } : Peat).own ≠ [] ∧ ({ base.peat with queue := [rec0] } : Peat).queue ≠ [] ∧ summaryMin base ≠ 0 ∧
    summaryMin { base with peat := { base.peat with ctl := .mk1 0 } } = 0 := by decide

/-- A node alone in its system, whose warm start keeps the content. -/
def alone : State := { base with node := { base.node with xsz := 0, ysz := 0, zsz := 0 } }

theorem test_frozen_warm_release : ∀ s : State, s = { base with crp := { base.crp with phase := .warmDrain }, dbg := { base.dbg with frozen := true } } →
    s.aon.up = true ∧ s.crp.waitRst = false ∧ s.crp.phase = .warmDrain ∧ s.dbg.frozen = true ∧ s.crp.drained = false := by rintro s rfl; decide

theorem test_wrstn : base.dbg.frozen = false ∧ base.aon.up = true ∧ base.crp.waitOn = false ∧ base.crp.waitRst = false ∧ base.crp.started = true ∧ base.crp.phase ≠ .pfDrain ∧
    base.crp.phase ≠ .warmDrain ∧ warmAsCold base = false ∧ warmAsCold { base with crp := { base.crp with warmCtl := .mk1 0 } } = true ∧
    (∀ i : SliceNo, (base.sl i).wmb = [] ∧ (base.sl i).rb = []) ∧ (∀ p : Port, (base.hp p).ntc = [] ∧ (base.hp p).snps = []) := by decide

theorem test_pfailn : base.dbg.frozen = false ∧ base.pins.pfailN = true ∧ (∀ i : SliceNo, (base.sl i).wmb = []) ∧ (∀ p : Port, (base.hp p).ntc = []) ∧
    base.crp.phase = .running ∧ (starting .training).crp.phase ≠ .running ∧ (starting .training).aon.up = true := by decide

theorem test_warm_deadline : ∀ s : State, s = { base with crp := { base.crp with phase := .warmDrain } } →
    s.pins.wrstN = true ∧ ({ s.pins with wrstN := false } : Pins).wrstN = false ∧ standAlone s = false ∧ s.clk = true ∧ s.crp.phase = .warmDrain ∧ s.crp.drained = false ∧ leftOver s = 0 ∧ s.home.tt = [] ∧ ∀ i : SliceNo, (s.sl i).stt = [] := by
  rintro s rfl; decide

theorem test_pfail_deadline : ∀ s : State, s = { base with crp := { base.crp with phase := .pfDrain }, mem := { base.mem with wq := [(7, ⟨5, 0⟩)] } } →
    s.aon.up = true ∧ s.crp.phase = .pfDrain ∧ s.crp.waitOn = false ∧ s.dbg.frozen = false ∧ s.good ∧ s.pins.wrstN = true ∧
    s.mem.wq.reverse.find? (fun d => decide (d.1 = 7)) = some (7, ⟨5, 0⟩) ∧ ∀ c ∈ s.mem.wq, c.1 ≠ 8 := by
  rintro s rfl; exact ⟨by decide +kernel, by decide +kernel, by decide +kernel, by decide +kernel, ⟨by decide +kernel, by decide +kernel⟩, by decide +kernel, by decide +kernel, by decide +kernel⟩

theorem test_wrstn_release : ∀ s t : State, s = { State.reset with crp := { State.reset.crp with waitRst := true }, pins := { State.reset.pins with wrstN := false } } →
    t = { base with crp := { base.crp with phase := .warmDrain, drained := true } } →
    s.aon.up = true ∧ s.crp.waitRst = true ∧ s.pins.wrstN = false ∧ s.pins.resetN = true ∧
    t.crp.waitRst = false ∧ t.crp.phase = .warmDrain ∧ t.crp.drained = true ∧ standAlone t = false := by
  rintro s t rfl rfl; decide

theorem test_wrstn_release_alone : ∀ s : State, s = { alone with crp := { alone.crp with phase := .warmDrain, drained := true } } →
    s.aon.up = true ∧ s.crp.waitRst = false ∧ s.crp.phase = .warmDrain ∧ s.crp.drained = true ∧ standAlone s = true ∧ s.aon.quiet = false := by
  rintro s rfl; decide

/-- A warm start whose members answer. -/
def warmLinks : State := { base with crp := { base.crp with phase := .links, kind := 2 }, aon := { base.aon with quiet := true } }

theorem test_quiet_exchange : warmLinks.clk = true ∧ fwUp warmLinks = true ∧ warmLinks.crp.kind = 2 ∧ warmLinks.crp.kept = false ∧ warmLinks.crp.phase = .links ∧
    warmLinks.aon.quiet = true ∧ ∀ m ∈ members warmLinks.node, m ≠ self warmLinks →
      ∃ x ∈ (members warmLinks.node).map (fun m => ({ member := m, quiet := true, dead := [] } : QuietAnswer)), x.member = m := by
  refine ⟨by decide, by decide, by decide, by decide, by decide, by decide, ?_⟩
  intro m h _; exact ⟨_, List.mem_map.2 ⟨m, h, rfl⟩, rfl⟩

theorem test_monitors : base.aon.up = true ∧ base.crp.started = true ∧ base.crp.waitOn = false ∧ base.dbg.frozen = false ∧ base.fabric.selfDead = false ∧
    bit (base.dbg.frzCtl.get 0xE) 2 = false ∧ bit (({ base.dbg with frzCtl := .mk1 4 } : Dbg).frzCtl.get 0xE) 2 = true ∧ ([30, 86, 85, 0x80, 30] : List Byte).length = 5 ∧
    (∀ k : Fin 5, vget base.aon.hotMs k.val 0 = 0) := by decide

theorem test_hot_sample : hotLimit ≤ (([127, 0, 0, 0, 0] : List Byte).getD 0 0).toInt ∧ 1 ≤ vget (#v[1, 0, 0, 0, 0] : Vector Nat 5) 0 0 := by
  refine ⟨?_, by decide⟩
  unfold hotLimit; cases Config.gradeX <;> decide

/-! ### The start-up -/

/-- A start whose self-tests are good, in the parallel steps. -/
def steps (hbm ddr : Bool) : State := { starting .training with crp := { (starting .training).crp with testOk := true, hbmOk := hbm, ddrOk := ddr } }

theorem test_start_and_mram : (State.reset.crp.started = false ∧ State.reset.aon.up = true) ∧ ((starting .pll).crp.started = true ∧ (starting .pll).crp.phase = .pll) ∧
    (starting .fuses).clk = true ∧ (starting .fuses).crp.phase = .fuses ∧ (∀ e ∈ (starting .fuses).integ.repMap, e.loc.onDie = false ∨ e.st ≠ .pending) := by decide

theorem test_selftest : (starting .selfTest).clk = true ∧ (starting .selfTest).crp.phase = .selfTest ∧ ({} : SelfTest).checker = none ∧ ({} : SelfTest).arrays = [] ∧
    ({ checker := some 3 } : SelfTest).checker = some 3 ∧ ({ arrays := [(5, false)] } : SelfTest).arrays = (5, false) :: [] ∧
    ({ arrays := [(5, true)] } : SelfTest).arrays = [(5, true)] ∧ (starting .selfTest).integ.repMap.length < 4096 := by decide

theorem test_disabled_way : ∀ s : State, s = ({ steps true false with mem := { State.reset.mem with hbmFilled := true } } : State).modSl 2 (fun x => { x with wdis := [(6, 8)] }) →
    s.clk = true ∧ preparing s = true ∧ s.crp.hbmOk = true ∧ s.mem.hbmFilled = true ∧ s.crp.ddrOk = false ∧ bit ((s.sl 2).disMap 6) 3 = true ∧
    spWf 0 (s.sl 2).wdis = true := by rintro s rfl; decide

/-- A 32 GiB module of one rank. -/
def dimm : Dimm := { gib := 32, rank2 := false, dens := 0, slow := false }

theorem test_memory_steps : ((steps false false).clk = true ∧ preparing (steps false false) = true ∧ (∀ e ∈ (steps false false).integ.repMap, e.st ≠ .pending)) ∧
    (steps false false).crp.hbmOk = false ∧ (7 : BitVec 4) ≠ 0xF ∧ (steps true false).crp.hbmOk = true ∧ (steps true false).crp.ddrOk = false ∧
    (dimmLike (List.replicate 4 (some dimm)) 0 = some dimm ∧ (∀ c < 4, (dimmLike (List.replicate 4 (some dimm)) c).isSome)) ∧
    (∀ c < 8, (dimmLike (List.replicate 8 (some dimm)) c).isSome) ∧ (∃ c < 8, dimmLike (List.replicate 4 (some dimm)) c = none) ∧
    (∃ c < 4, dimmLike [some dimm, none, some dimm, some dimm] c = none) ∧ (steps true true).crp.ddrOk = true ∧ (steps true true).mem.fill1g = false := by decide

/-- A description with node 1,0,0 in a torus of 4 x 4 x 4. -/
def desc : SysDesc := { node := n1, xsz := 4, ysz := 4, zsz := 4 }

theorem test_image : (steps true true).crp.imageOk = false ∧ descOk desc = true ∧ descOk { desc with xsz := 1 } = false ∧ descOk { desc with xsz := 65 } = false ∧
    descOk { desc with node := 0x00003, xsz := 64, zsz := 4 } = true ∧
    (∃ (s : State) (r : ImageResult), preparing s = true ∧ s.crp.imageOk = false ∧ true = (decide (s.crp.kind = 2) && r.kept)) ∧
    (∃ r : ImageResult, false = (decide ((steps true true).crp.kind = 2) && r.kept) ∧ r.sigA = false ∧ r.sigB = false) :=
  ⟨by decide, by decide, by decide, by decide, by decide,
    ⟨{ steps true true with crp := { (steps true true).crp with kind := 2 } }, ⟨true, false, false, desc⟩, by decide, by decide, by decide⟩,
    ⟨⟨false, false, false, desc⟩, by decide⟩⟩

theorem test_only_member : ∀ m ∈ members (starting .fwInit).node, m = self (starting .fwInit) := by decide +kernel

theorem test_release : (starting .fwInit).clk = true ∧ (starting .fwInit).crp.phase = .fwInit ∧ (starting .fwInit).crp.kind ≠ 2 ∧ (starting .fwInit).fabric.ring = [] ∧
    (∀ p : Port, ((starting .fwInit).mb p).backlog = [] ∧ ((starting .fwInit).hp p).msix = false) := by decide

theorem test_admission : ∀ s : State, s = { up with fw := { up.fw with tabDone := true } } →
    s.clk = true ∧ mayOpen s 0 = true ∧ mayOpen base 0 = false ∧ s.crp.phase = .running := by rintro s rfl; decide

/-! ### Host ports -/

/-- The running part with the link of port 0 in a state. -/
def linkAt (l : HLink) : State := up.modHp 0 (fun h => { h with link := l })

theorem test_links_train : ((linkAt .training).clk = true ∧ ((linkAt .training).hp 0).link = .training) ∧ linkAllowed ((linkAt .training).hp 0) false true = true ∧
    linkAllowed { HPort.reset with linkCtl := .mk1 1 } false true = false ∧ linkAllowed { HPort.reset with linkCtl := .mk1 1 } true false = false := by decide

theorem test_links_recover : (up.clk = true ∧ (up.hp 0).link = .up) ∧ ((linkAt .recovery).hp 0).link = .recovery ∧
    linkAllowed (((linkAt .recovery).modHp 0 (fun h => { h with linkCtl := .mk1 1 })).hp 0) false false = false ∧ (up.hp 0).link ≠ .recovery := by decide

theorem test_ports_go_down : ((linkAt .down).hp 0).link = .down ∧ ((linkAt .downBusy).hp 0).link = .downBusy ∧ ((up.hp 0).stamped = false ∧ (up.hp 0).snps = [] ∧
    (∀ q : Port, (up.hp q).ntc = []) ∧ (∀ i : SliceNo, (up.sl i).wmb = []) ∧ NoMoves up ∧ NoneDown up) ∧ ((linkAt .downBusy).hp 0).hpWalk = [] := by decide

/-- A line of the device's own memory. -/
def la : LAddr := 0x1234
/-- Its set. -/
def lset : Nat := (setOf la).toNat
/-- A line's tag word in a way: E with no host. -/
def lword : TagWord := { tag := tagOf la, st := .E }

/-- The part with the line in way 2, its tag block in the shadow. -/
def held (x : TagWord) (s : State) : State :=
  let b : TagBlock := { ways := (Vector.replicate 15 {}).set 2 x, plru := 0, csum := csumOf ((Vector.replicate 15 {}).set 2 x) }
  s.modSl (sliceOf la) (fun y => { y with
    tags := [(lset, b)], slots := [(slotKey lset 2, ⟨0x77, 5⟩)]
    shadow := [(shKey lset, { ents := (Vector.replicate 8 {}).set 0 { valid := true, idx := shTag lset, block := b } })] })

theorem test_port_down_walk : ∀ (s : State) (x : TagWord), x = { lword with hp := 0b0011 } →
    s = ((held x (linkAt .downBusy)).modHp 0 (fun h => { h with hpWalk := [((sliceOf la).val, lset, 2)] })) →
    s.clk = true ∧ (s.hp 0).link = .downBusy ∧ (s.hp 0).hpWalk = [((sliceOf la).val, lset, 2)] ∧ lset < 2 ^ 23 ∧ (s.sl (sliceOf la)).word lset 2 = x ∧
    x.st ≠ .I ∧ x.st ≠ .P ∧ bit x.hp 0 = true ∧ exclHost x ≠ some 0 ∧ Shadowed (s.sl (sliceOf la)) lset ∧ NoMoves s ∧ s.wayOf (sliceOf la) (lineIn s (sliceOf la) lset x) = some (2, x) ∧
    setOf (lineIn s (sliceOf la) lset x) = BitVec.ofNat 23 lset := by rintro s x rfl rfl; decide

/-- The running part with CXL hosts. -/
def cxl : State := up.each ports (fun s p => s.modHp p (fun h => { h with proto := true, linkCtl := .mk1 0x1A }))

theorem test_cxl_configures : cxl.clk = true ∧ (cxl.hp 0).cxl = true ∧ (up.hp 0).cxl = false ∧
    ((0x100000 : W64).toNat + (0x40000000 : W64).toNat ≤ 2 ^ 58 ∧ domOf (homeOf ((0x100000 : W64).setWidth 58)) = domOf cxl.node.node ∧
      (0x100000 : W64).toNat / 2 ^ 44 = ((0x100000 : W64).toNat + (0x40000000 : W64).toNat - 1) / 2 ^ 44) ∧
    domOf (homeOf ((0x3C0000000000000 : W64).setWidth 58)) ≠ domOf cxl.node.node ∧ ((cxl.modHp 0 (fun h => { h with link := .recovery })).hp 0).cxl = true ∧
    irqLive cxl 0 = false ∧ irqLive ({ cxl with fw := { cxl.fw with st := .stopped } }.modMb 0 (fun m => { m with irqEn := 0xF })) 0 = true := by decide

/-- A snoop outstanding to port 0 for the line, of an action that also awaits port 1. -/
def snp0 : Snp := { etag := 9, line := la, inv := true, cur := false, excl := false, slice := sliceOf la, grp := 4 }
/-- The action. -/
def grp0 : SnpGrp := { id := 4, act := .nothing, line := la, await := [0, 1] }
/-- The part with the snoop out. -/
def snooped (s : State) : State := ((held { lword with hp := 0b0011 } s).modSl (sliceOf la) (fun x => { x with snpGrps := [grp0] })).modHp 0 (fun h => { h with snps := [snp0] })

theorem test_snoop_answers : ∀ (s : State) (c : Bool), (s, c) ∈ [(snooped up, false), (snooped cxl, true)] → s.clk = true ∧ receives s 0 c = true ∧
    (s.hp 0).snps.find? (fun q => decide (q.etag = 9)) = some snp0 ∧ snp0.excl = false ∧ (s.gen.time - snp0.sent).toNat ≤ 4 * (s.hp 0).limit ∧
    (s.sl snp0.slice).snpGrps.find? (fun h => decide (h.id = snp0.grp) && h.await.contains 0) = some grp0 ∧ grp0.await.filter (fun q => decide (q ≠ 0)) ≠ [] ∧
    NoMoves s ∧ Shadowed (s.sl snp0.slice) (setOf snp0.line).toNat ∧ s.wayOf snp0.slice snp0.line = some (2, { lword with hp := 0b0011 }) ∧ ((s.sl snp0.slice).shEntry (setOf snp0.line).toNat).isSome = true ∧
    (s.sl snp0.slice).shadowEn = true ∧ (∀ q : Port, (s.hp q).link ≠ .downBusy) := by
  intro s c h; simp only [List.mem_cons, Prod.mk.injEq, List.not_mem_nil, or_false] at h
  rcases h with ⟨rfl, rfl⟩ | ⟨rfl, rfl⟩ <;> decide

theorem test_snoop_timeout : NoMoves (snooped up) ∧ snp0.excl = false ∧ (snooped up).wayOf snp0.slice snp0.line = some (2, { lword with hp := 0b0011 }) ∧
    Shadowed ((snooped up).sl snp0.slice) (setOf snp0.line).toNat ∧ ((snooped up).hp 0).snps = [snp0] ∧ ((snooped up).hp 0).link = .up ∧ ((snooped up).hp 0).stamped = false ∧
    (∀ q : Port, ((snooped up).hp q).ntc = []) ∧ (∀ i : SliceNo, ((snooped up).sl i).wmb = []) ∧ (up.hp 0).snps.find? (fun q => decide (q.etag = 9)) = none := by decide

/-! ### Host requests -/

/-- The part with idle ports: no stride detector. -/
def idle (s : State) : State := s.each ports (fun s p => s.modHp p (fun h => { h with pfCtl := 0 }))
/-- The idle part in a torus of 64 x 4 x 4, so that other domains exist. -/
def wide (s : State) : State := { idle s with node := { s.node with xsz := 63 } }
/-- A byte address of the line, and of a line of a home in another domain. -/
def ga : GAddr := 0x48D00
/-- A far line's byte address. -/
def gf : GAddr := 0x100000000000040
/-- A decoder of port 0 that maps every address (the host never commits one this wide: it names the form of the rule alone). -/
def mapped (s : State) : State := s.modHp 0 (fun h => { h with hdm := h.hdm.set 0 ⟨0, 0x400000000000000, true, true, false⟩ })
/-- A decoder of port 0 that maps the first GiB of the device's memory. -/
def mappedNear (s : State) : State := s.modHp 0 (fun h => { h with hdm := h.hdm.set 0 ⟨0, 0x40000000, true, true, false⟩ })

theorem test_idle : Idle (wide up) 0 false ∧ Idle (wide cxl) 0 true ∧ Idle (held lword (idle up)) 0 false ∧ Idle (held lword (idle cxl)) 0 true ∧
    Idle (mapped (wide cxl)) 0 true ∧ Idle (held lword (mappedNear (idle cxl))) 0 true := by
  refine ⟨?_, ?_, ?_, ?_, ?_, ?_⟩ <;> constructor <;> decide +kernel

theorem test_decoders : decoded (mapped (wide cxl)) 0 (lineAddr (lineOf gf)) = true ∧ decoded (mappedNear (idle cxl)) 0 (lineAddr (lineOf ga)) = true ∧
    decoded (idle cxl) 0 (lineAddr (lineOf ga)) = false ∧ (∀ q : Port, ((idle cxl).hp q).msix = false) := by decide +kernel

theorem test_far : isFar (wide up) (lineOf gf) = true ∧ isFar (mapped (wide cxl)) (lineOf gf) = true ∧ Reachable (wide up) (lineOf gf) ∧ Reachable (mapped (wide cxl)) (lineOf gf) := by
  refine ⟨by decide +kernel, by decide +kernel, ?_, ?_⟩ <;> constructor <;> decide +kernel

theorem test_far_forms : natural 8 (offOf gf) = true ∧ offOf gf + 8 ≤ 64 ∧ ((wide up).sl (sliceOf (lineOf gf))).wmbHold ≠ 0 ∧ ((wide up).hp 0).ntcHold ≠ 0 ∧
    ((wide cxl).hp 0).ntcHold ≠ 0 ∧ (0xFF : W64) ≠ fullMask ∧ atomicOk 0 8 = true ∧ (0 : BitVec 5).toNat < 10 ∧ offOf gf % 8 = 0 := by decide +kernel

theorem test_resident : lineOf ga = la ∧ Resident (held lword (idle up)) la 2 lword ∧ (∀ i : SliceNo, ((held lword (idle up)).sl i).good = true) ∧
    ((held lword (idle up)).hp 0).proto = false := by
  refine ⟨by decide +kernel, ?_, by decide +kernel, by decide +kernel⟩
  constructor <;> decide +kernel

theorem test_hit_forms : natural 16 (offOf ga) = true ∧ natural 1 63 = true ∧ atomicOk 16 16 = true ∧ (lword.poison = false) ∧
    hasRsv { HPort.reset with rsv := [(3, la)] } 3 la = true := by decide +kernel

/-- The line's set empty, its tag block in the shadow. -/
def emptySet (s : State) : State := s.modSl (sliceOf la) (fun y => { y with
  shadow := [(shKey lset, { ents := (Vector.replicate 8 {}).set 0 { valid := true, idx := shTag lset } })] })

theorem test_near_hint : Idle (emptySet (idle up)) 0 false ∧ Reachable (emptySet (idle up)) la ∧ isFar (emptySet (idle up)) la = false ∧
    ((emptySet (idle up)).sl (sliceOf la)).enabled = true ∧ ((emptySet (idle up)).sl (sliceOf la)).pfEn = true ∧ 0 < ((emptySet (idle up)).sl (sliceOf la)).pfLimit ∧
    ((emptySet (idle up)).sl (sliceOf la)).find la = none ∧ Shadowed ((emptySet (idle up)).sl (sliceOf la)) lset := by
  refine ⟨?_, ?_, by decide +kernel⟩ <;> constructor <;> decide +kernel

/-- The line held alone by port 0. -/
def excl (s : State) : State := held { lword with hp := 1 } s

theorem test_writeback : ∀ (s : State) (c : Bool), (s, c) ∈ [(excl (mappedNear (idle up)), false), (excl (mappedNear (idle cxl)), true)] → s.clk = true ∧ receives s 0 c = true ∧ isExcl s 0 la = true ∧
    decoded s 0 (lineAddr la) = true ∧ s.fabric.selfDead = false ∧
    (∀ i : SliceNo, (s.sl i).good = true) ∧ (s.sl (sliceOf la)).find la = some (2, { lword with hp := 1 }) ∧
    Shadowed (s.sl (sliceOf la)) (setOf la).toNat ∧ isExcl s 1 la = false ∧ isFar s la = false ∧
    (∀ k ∈ (s.hp 0).rsv, k.2 ≠ la) ∧ (s.hp 0).admOpen = true ∧ s.arb.closed 0 = false ∧ (s.hp 0).ctr.valid = false := by
  intro s c h; simp only [List.mem_cons, Prod.mk.injEq, List.not_mem_nil, or_false] at h
  rcases h with ⟨rfl, rfl⟩ | ⟨rfl, rfl⟩ <;> decide +kernel

theorem test_eviction_of_a_reserved_line : ∀ s : State, s = (excl up).modHp 0 (fun h => { h with rsv := [(3, la)] }) →
    receives s 0 false = true ∧ ∃ k ∈ (s.hp 0).rsv, k.2 = la ∧ (s.hp 0).rsvBad.contains k.1 = false := by rintro s rfl; decide +kernel

theorem test_floor : ∀ s : State, s = up.modHp 0 (fun h => { h with stamped := true, floor := 10 }) → s.clk = true ∧ receives s 0 false = true ∧
    (s.hp 0).stamped = true ∧ 0 < (s.hp 0).hreq ∧ (10 : W64).ult (s.hp 0).floor = false ∧ (9 : W64).ult (s.hp 0).floor = true ∧ 0x11 < (0x12 : BitVec 6).toNat := by rintro s rfl; decide +kernel

/-- A barrier of the whole port. -/
def bar0 : Bar := { kind := 3, port := true, strm := 0, etag := 7, seq := 5 }

theorem test_barriers : ∀ s t : State, s = up.modHp 0 (fun h => { h with bars := [bar0] }) →
    t = s.modHp 0 (fun h => { h with accs := [{ etag := 1, strm := 0, seq := 4, op := .write, line := la, unbuf := false, bound := false }] }) →
    (s.hp 0).bars = [bar0] ∧ (t.hp 0).bars = [bar0] ∧ bar0.kind = 3 ∧ bar0.etag = 7 ∧ barMet s 0 bar0 = true ∧ barMet t 0 bar0 = false ∧ Reachable (wide up) la := by
  rintro s t rfl rfl; refine ⟨by decide +kernel, by decide +kernel, by decide +kernel, by decide +kernel, by decide +kernel, by decide +kernel, ?_⟩
  constructor <;> decide +kernel

/-- A speculative read under a contract with tokens. -/
def contracted (s : State) : State := s.modHp 0 (fun h => { h with
  ctr := { h.ctr with valid := true, hops := 9, out := 4, burst := 4, tok := 4 * tokenUnit, stok := Vector.replicate 8 (4 * tokenUnit), mtok := 4 * tokenUnit } })

theorem test_bounded_read : ∀ s : State, s = contracted (mappedNear (idle cxl)) → s.clk = true ∧ receives s 0 true = true ∧ (s.hp 0).admOpen = true ∧
    s.fabric.selfDead = false ∧ decoded s 0 (lineAddr (lineOf ga)) = true ∧ verdict s 0 (lineOf ga) = .accept true := by rintro s rfl; decide +kernel

/-- A closed store that has left for its home, and one of port 0 that waits behind it. -/
def held1 : BufEnt := { id := 1, line := la, port := 0, streams := 1, mask := 0xFF, data := 0x55 }

theorem test_waiting_exception : ∀ s t : State, s = up.modHp 0 (fun h => { h with accs := [{ etag := 1, strm := 0, seq := 4, op := .write, line := la, unbuf := false, bound := false }] }) →
    t = up.modSl 2 (fun x => { x with wmb := [held1], stt := [{ rtid := 0x33, line := la, kind := .wrU, dst := 0 }] }) →
    (∀ u ∈ [{ s with seqNo := 9 }, { t with seqNo := 9 }], u.clk = true ∧ receives u 0 false = true ∧ u.fabric.selfDead = false ∧ (u.hp 0).stamped = false ∧ (u.hp 0).queue = [] ∧
      (u.hp 0).regq = [] ∧ (u.hp 0).bars = [] ∧ (∀ q : Port, (u.hp q).ntc = [])) ∧ (∀ j : SliceNo, (s.sl j).wmb = []) ∧
    (∃ a ∈ (s.hp 0).accs, a.strm = 0 ∧ a.seq < 9) ∧ (∀ j : SliceNo, j ≠ 2 → (t.sl j).wmb = []) ∧ (t.sl 2).wmb = [held1] ∧ held1.st = .opened ∧ Room s 5 ∧
    held1.first < 9 ∧ bit held1.streams 0 = true ∧ ∃ x ∈ (t.sl 2).stt, x.holds held1 = true := by
  rintro s t rfl rfl; decide +kernel

/-! ### The home agent -/

/-- A message about the line from a unit of node n1. -/
def msg : BMsg := { src := n1, srcu := 2, laddr := la, rtid := 0x33, dst := 0, dstu := 0 }
/-- A record in the directory cache. -/
def recorded (r : DirRec) (s : State) : State := { s with home := { s.home with
  dir := [(dirSetIdx (frameOf s la), { ents := (Vector.replicate 16 none).set 0 (some ⟨dirTag (frameOf s la), r, false⟩) })] } }

theorem test_reaches (s : State) (h : s ∈ [recorded {} base, recorded { st := .E1, holders := [7], des := some 7, own := true } base]) : Reaches s msg := by
  simp only [List.mem_cons, List.not_mem_nil, or_false] at h
  rcases h with rfl | rfl <;> constructor <;> decide +kernel

theorem test_at_home_unheld : ∀ s : State, s = recorded { osn := 4 } base → AtHome s msg 0 ⟨dirTag (frameOf s la), { osn := 4 }, false⟩ ∧ s.good ∧
    isWt s la = false ∧ isWt { s with node := { s.node with wtMap := [(policyIdx 0 (regionOf la), ())] } } la = true ∧
    (ddrGet { s with mem := { s.mem with ddr := [(frameOf s la, ⟨0, packWord { osn := 4 }⟩)] } } (frameOf s la)).word = packWord { osn := 4 } ∧
    (amoUnpack (amoBlock 0 8 0 5 0)).isSome = true := by
  rintro s rfl
  refine ⟨⟨⟨?_, ?_, ?_, ?_, ?_, ?_, ?_, ?_, ?_⟩, ?_, ?_, ?_, ?_⟩, ⟨?_, ?_⟩, ?_, ?_, ?_, ?_⟩ <;> decide +kernel

theorem test_at_home_held : ∀ (s : State) (r : DirRec), (s = recorded r base ∧
    (r = { st := .E1, holders := [7], des := some 7, own := true, osn := 4 } ∨ r = { st := .SM, holders := [7, memOf n1], des := some 7, osn := 4 })) →
    AtHome s msg 0 ⟨dirTag (frameOf s la), r, false⟩ ∧ (7 : Member) ≠ memOf msg.src ∧ r.holders.filter (· ≠ memOf msg.src) ≠ [] ∧ r.st ≠ .QU := by
  rintro s r ⟨rfl, rfl | rfl⟩ <;> refine ⟨⟨⟨?_, ?_, ?_, ?_, ?_, ?_, ?_, ?_, ?_⟩, ?_, ?_, ?_, ?_⟩, ?_, ?_, ?_⟩ <;> decide +kernel

theorem test_busy_line : ∀ s : State, s = { base with home := { base.home with tt := [{ num := 3, line := la }] } } → Reaches s msg ∧
    s.home.txn la = some { num := 3, line := la } ∧ ({ num := 3, line := la } : HTxn).after.st ≠ .QU := by
  rintro s rfl; refine ⟨?_, by decide +kernel, by decide +kernel⟩; constructor <;> decide +kernel

theorem test_put_of_a_holder : ∀ r : DirRec, r = { st := .E1, holders := [memOf n1], des := some (memOf n1), own := true, osn := 4 } →
    r.names (memOf msg.src) = true ∧ ({ msg with osn := 4 } : BMsg).osn = r.osn ∧ ({} : DirRec).names (memOf msg.src) = false ∧ msg.osn ≠ r.osn := by
  rintro r rfl; decide +kernel

/-- An open transaction of the home for a request of n1. -/
def txn0 : HTxn := { num := 3, line := la, kind := .rdX, req := msg, waitAck := true, acted := true }
/-- The home with it. -/
def opened (x : HTxn) : State := { base with home := { base.home with tt := [x] } }
/-- An answer to it from a node. -/
def answer (n : NodeId) : BMsg := { msg with src := n, htid := 3 }

theorem test_opened : ∀ x : HTxn, x ∈ [txn0, { txn0 with acted := false, act := .cmp, waitInv := [memOf n1] }, { txn0 with acted := false, act := .cmp, waitB := true },
      { txn0 with acted := false, waitAck := false, probeOf := some (memOf n1), act := .grant .dataS false true },
      { txn0 with acted := false, waitAck := false, probeOf := some (memOf n1), act := .merge }] → Opened (opened x) (answer n1) x := by
  intro x h; simp only [List.mem_cons, List.not_mem_nil, or_false] at h
  rcases h with rfl | rfl | rfl | rfl | rfl <;> constructor <;> decide +kernel

theorem test_ack_of_the_requester : (answer n1).src = txn0.req.src ∧ (answer n1).srcu = txn0.req.srcu ∧ txn0.acted = true ∧ txn0.waitAck = true ∧ base.good :=
  ⟨rfl, rfl, rfl, rfl, by decide +kernel, by decide +kernel⟩

theorem test_home_timers : ∀ (x : HTxn) (s : State), x = { txn0 with fwdTo := some 1, fwdK := .fwdX } →
    s = { opened x with fabric := { base.fabric with live := [((nodeOf 0 1).toNat, { dead := true })] } } → s.clk = true ∧ s.home.tt = [x] ∧ x.num = (3 : BitVec 12).toNat ∧
    x.claim = none ∧ x.puts = [] ∧ x.acted = true ∧ x.waitAck = true ∧ x.read = false ∧ spGet {} s.mem.ddrFlaw (frameOf s x.line) = {} ∧ fld s.dbg.pmuCtl 0 8 = 0 ∧ s.home.tablePend = none ∧
    isLost s.node s.fabric x.req.src = false ∧ isLost s.node s.fabric (nodeOf (domOf s.node.node) 1) = true ∧ x.putOf = none ∧
    ({ x with putOf := some 1 } : HTxn).putOf = some 1 := by
  rintro x s rfl rfl
  refine ⟨?_, ?_, ?_, ?_, ?_, ?_, ?_, ?_, ?_, ?_, ?_, ?_, ?_, ?_, ?_⟩ <;> decide +kernel

/-! ### The slices -/

/-- The slice of the line. -/
def sn : SliceNo := sliceOf la
/-- A host's read of the line. -/
def req0 (o : Op) : Req := { port := 0, etag := 5, op := o, addr := ga, len := 64 }
/-- The slice's transaction for it. -/
def stxn (k : BKind) (o : Op) (w : Option Nat) : STxn := { rtid := 0x33, line := la, kind := k, dst := 0, way := w, req := some (req0 o) }
/-- The part with the transaction open and way 2 as given. -/
def asking (y : TagWord) (x : STxn) : State := (held y (idle up)).modSl sn (fun z => { z with stt := [x] })
/-- A message to the slice. -/
def toSlice : BMsg := { src := 0, laddr := la, rtid := 0x33, dst := 0, dstu := unitOf sn }

theorem test_for_txn : ∀ (y : TagWord) (x : STxn) (o : Op), (y, x, o) ∈ [({ lword with st := .P }, stxn .rdS .rdShared (some 2), Op.rdShared),
      ({ lword with st := .P }, stxn .rdX .rdOwn (some 2), .rdOwn), ({ lword with st := .S }, stxn .upg .rdOwn none, .rdOwn)] →
    ForTxn (asking y x) sn toSlice x (req0 o) ∧ (asking y x).good ∧ ((asking y x).sl sn).find la = some (2, y) := by
  intro y x o h; simp only [List.mem_cons, Prod.mk.injEq, List.not_mem_nil, or_false] at h
  rcases h with ⟨rfl, rfl, rfl⟩ | ⟨rfl, rfl, rfl⟩ | ⟨rfl, rfl, rfl⟩ <;>
    refine ⟨⟨⟨?_, ?_, ?_, ?_, ?_, ?_, ?_, ?_, ?_, ?_⟩, ?_, ?_, ?_, ?_, ?_, ?_⟩, ⟨?_, ?_⟩, ?_⟩ <;> decide +kernel

theorem test_for_txn_gap : ∀ x : STxn, x = { stxn .rdS .rdShared (some 2) with gap := true } → ForTxn (asking { lword with st := .P } x) sn toSlice x (req0 .rdShared) ∧
    x.gap = true ∧ ({ toSlice with reason := rsnBUSY } : BMsg).reason = rsnBUSY ∧ toSlice.waitcmp = false ∧ toSlice.aerr = false := by
  rintro x rfl; refine ⟨⟨⟨?_, ?_, ?_, ?_, ?_, ?_, ?_, ?_, ?_, ?_⟩, ?_, ?_, ?_, ?_, ?_, ?_⟩, ?_, ?_, ?_, ?_⟩ <;> decide +kernel

theorem test_put_acknowledged : ∀ (e : CwEnt) (s : State), e = { line := la, st := .M, osn := 0, data := 0 } → s = base.modSl sn (fun z => { z with cw := [e] }) →
    e.line = toSlice.laddr ∧ s.clk = true ∧ homeMute s = false ∧ isLost s.node s.fabric toSlice.src = false ∧ toSlice.rsv = none ∧ s.home.unacked = [] ∧
    sliceOfUnit toSlice.dstu la = sn ∧ (s.sl sn).wmb = [] ∧ (s.sl sn).walks = [] ∧ (s.sl sn).stt = [] ∧ (s.sl sn).snpGrps = [] ∧ (s.sl sn).rb = [] ∧ s.fw.walk = none ∧
    (∀ q : Port, (s.hp q).ntc = [] ∧ (s.hp q).link ≠ .downBusy) ∧ (s.sl sn).cw = [e] := by
  rintro e s rfl rfl; decide +kernel

theorem test_at_slice : ∀ y : TagWord, y ∈ [{ lword with st := .F }, lword, { lword with st := .O }, { lword with st := .M }, { lword with st := .S }] →
    AtSlice (held y (idle up)) sn toSlice ∧ (held y (idle up)).good ∧ ((held y (idle up)).sl sn).stt = [] ∧ isLost (idle up).node (idle up).fabric toSlice.rqn = false ∧
    (held y (idle up)).wayOf sn la = some (2, y) ∧ y.hp = 0 ∧ y.prefetched = false ∧ Shadowed ((held y (idle up)).sl sn) (setOf la).toNat := by
  intro y h; simp only [List.mem_cons, List.not_mem_nil, or_false] at h
  rcases h with rfl | rfl | rfl | rfl | rfl <;> refine ⟨⟨?_, ?_, ?_, ?_, ?_, ?_, ?_, ?_, ?_, ?_⟩, ⟨?_, ?_⟩, ?_, ?_, ?_, ?_, ?_, ?_⟩ <;> decide +kernel

theorem test_at_slice_without : AtSlice (emptySet (idle up)) sn toSlice ∧ (emptySet (idle up)).good ∧ (emptySet (idle up)).wayOf sn la = none ∧
    Shadowed ((emptySet (idle up)).sl sn) lset := by
  refine ⟨⟨?_, ?_, ?_, ?_, ?_, ?_, ?_, ?_, ?_, ?_⟩, ⟨?_, ?_⟩, ?_, ?_⟩ <;> decide +kernel

/-- A buffered store to a far line. -/
def ent0 : BufEnt := { id := 1, line := lineOf gf, port := 0, streams := 1, mask := 0xFF, data := 0x55 }

theorem test_hold_expiry : ∀ (s t : State), s = (wide up).modSl (sliceOf (lineOf gf)) (fun x => { x with wmb := [ent0] }) → t = (wide up).modHp 0 (fun h => { h with ntc := [ent0] }) →
    (∀ u ∈ [s, t], u.clk = true ∧ u.fabric.selfDead = false ∧ u.fabric.stopped = false ∧ u.fabric.pause = none ∧ fld u.dbg.pmuCtl 0 8 = 0 ∧
      (∀ j : SliceNo, (u.sl j).cw = [] ∧ (u.sl j).rb = [] ∧ (u.sl j).stt = [] ∧ (u.sl j).snpGrps = [] ∧ (u.sl j).walks = []) ∧
      isFar u ent0.line = true ∧ homeLost u ent0.line = false) ∧ ent0.st = .opened ∧ (s.sl (sliceOf ent0.line)).wmb = [ent0] ∧
    (∀ j : SliceNo, j ≠ sliceOf ent0.line → (s.sl j).wmb = []) ∧ (∀ q : Port, (s.hp q).ntc = []) ∧ (t.hp 0).ntc = [ent0] ∧
    (∀ q : Port, q ≠ 0 → (t.hp q).ntc = []) ∧ ∀ j : SliceNo, (t.sl j).wmb = [] := by
  rintro s t rfl rfl; decide +kernel

theorem test_prefetch_window : 1024 ≤ (500 : Nat) + 524 ∧ (Slice.reset.wasteThr < 1024 ∨ Slice.reset.wasteThr < 2000) := by decide +kernel

theorem test_waiting_read : ∀ (r : Req) (s t : State), r = { req0 .rdShared with missed := true } → s = (held lword (idle up)).modSl sn (fun x => { x with waiters := [r] }) →
    t = (held lword (idle up)).modHp 0 (fun h => { h with queue := [r] }) → (∀ u ∈ [s, t], mayGo u r = true ∧ Resident u (lineOf r.addr) 2 lword ∧
      (u.hp 0).link = .up ∧ (u.hp 0).proto = false ∧ (u.hp 0).stamped = false ∧ (∀ q : Port, (u.hp q).ntc = []) ∧ (∀ j : SliceNo, (u.sl j).wmb = [])) ∧
    (s.sl sn).waiters = [r] ∧ (t.hp 0).queue = [r] ∧ r.op = .rdShared ∧ r.missed = true ∧ r.bound = false ∧ r.part = 0 ∧ r.stamp = none ∧ r.wt = false ∧
    r.waitAdm = false ∧ sliceOf (lineOf r.addr) = sn ∧ s.fw.walk = none ∧ t.fw.walk = none ∧ (∀ q : Port, (s.hp q).link ≠ .downBusy ∧ (t.hp q).link ≠ .downBusy) := by
  rintro r s t rfl rfl rfl; refine ⟨?_, by decide +kernel⟩
  intro u h; simp only [List.mem_cons, List.not_mem_nil, or_false] at h
  rcases h with rfl | rfl <;> refine ⟨?_, ⟨?_, ?_, ?_, ?_, ?_, ?_, ?_⟩, ?_, ?_, ?_, ?_, ?_⟩ <;> decide +kernel

/-! ### Walks -/

/-- Every slice with one walk that has visited every place. -/
def walking (k : WalkKind) (s : State) : State := s.each sliceNos (fun s i => s.modSl i (fun x => { x with walks := [⟨k, 0⟩] }))
/-- A walk command of mailbox 0 of port 0. -/
def wcmd (opc : Byte) (a b : Nat) : WalkCmd := { pk := some (0, 0), opc := opc, written := 0, discarded := 0, filled := 0, refused := 0, first := a, last := b }

theorem test_walks_of_the_ways : Walked (walking (.disable 6 3 0) base) sn (.disable 6 3 0) ∧ (∀ j : SliceNo, Walked (walking (.powerDown 1) base) j (.powerDown 1) ∧
      ((walking (.powerDown 1) base).sl j).cw = []) ∧ (wcmd 0x31 1 0).first = (1 : BitVec 2).toNat ∧ (wcmd 0x31 1 1).last = 1 ∧ base.fw.st = .run := by
  decide +kernel

theorem test_walk_commands_running : ∀ s : State, s = { walking .clean base with fw := { base.fw with walk := some (wcmd 0x22 0 0) } } → s.clk = true ∧ NoWork s ∧ s.fw.st = .run ∧
    s.fw.walk = some (wcmd 0x22 0 0) ∧ (wcmd 0x22 0 0).pk = some (0, 0) ∧ ∀ j : SliceNo, Walked s j .clean := by
  rintro s rfl; unfold NoWork; decide +kernel

theorem test_drain : ∀ s : State, s = (walking .drain base).modSl 3 (fun x => { x with draining := true, cacheCtl := .mk1 0 }) → NoWork s ∧ (s.sl 3).rb = [] ∧ (s.sl 3).draining = true ∧
    Walked s 3 .drain ∧ (s.sl 3).dirty = 0 := by rintro s rfl; unfold NoWork; decide +kernel

theorem test_policy_walk : ∀ s : State, s = { walking (.policy 0 4) base with fw := { base.fw with polWalks := [⟨0, 4, n1⟩] }, node := { base.node with wtMap := [(policyIdx 0 4, ())] } } →
    s.clk = true ∧ s.fabric.stopped = false ∧ s.fabric.pause = none ∧ NoWork s ∧ s.fw.st = .run ∧ s.fw.polWalks = [⟨0, 4, n1⟩] ∧ n1 ≠ s.node.node ∧
    s.node.wtMap.any (fun c => decide (c.1 = policyIdx 0 4)) = true ∧ ∀ j : SliceNo, Walked s j (.policy 0 4) ∧ (s.sl j).rb = [] := by
  rintro s rfl; unfold NoWork; decide +kernel

/-- The part with node n1 declared dead, its steps as given. -/
def lost1 (d : NodeSt) (s : State) : State := { s with fabric := { s.fabric with live := [(n1.toNat, d)] } }

theorem test_walks_of_the_domain : NoWork (walking (.purge n1) (lost1 {} base)) ∧ (∀ j : SliceNo, Walked (walking (.purge n1) (lost1 {} base)) j (.purge n1)) ∧
    (lost1 ⟨true, true, true, []⟩ base).fabric.live = [(n1.toNat, ⟨true, true, true, []⟩)] ∧ NoWork (lost1 ⟨true, true, true, []⟩ base) ∧ ({ dead := true } : NodeSt).purge = false ∧
    ({ base.home with sweeps := [⟨n1, 0, 0, false⟩] } : Home).naming (memOf n1) = [] ∧ domOf (homeOf gf) ≠ domOf base.node.node ∧ homeOf gf ≠ base.node.node := by
  unfold NoWork; decide +kernel

/-- A ring of three nodes of which n1 is dead, every step of its readmission done, and reported by the third. -/
def trio : State := lost1 ⟨true, true, true, [0x02000]⟩ { base with node := { base.node with xsz := 2, ysz := 0, zsz := 0 } }

theorem test_readmission : NoWork trio ∧ trio.clk = true ∧ trio.fabric.stopped = false ∧ trio.fabric.pause = none ∧ trio.fw.st = .run ∧ n1 ≠ trio.node.node ∧
    trio.fabric.live = [(n1.toNat, ⟨true, true, true, [0x02000]⟩)] ∧ livePeers trio.node trio.fabric = [0x02000] ∧
    (∀ m ∈ members trio.node, memNode trio m ≠ n1 → isLost trio.node trio.fabric (memNode trio m) = false) := by unfold NoWork; decide +kernel

theorem test_dead_request : ∀ (x : STxn) (s : State), x = { stxn .rdU .rdCur none with dst := n1 } → s = (lost1 { dead := true } up).modSl sn (fun z => { z with stt := [x] }) →
    s.clk = true ∧ (∀ q : Port, (s.hp q).ntc = []) ∧ (∀ j : SliceNo, (s.sl j).wmb = [] ∧ (s.sl j).walks = []) ∧ isLost s.node s.fabric n1 = true ∧ (s.sl sn).stt = [x] ∧
    (∀ j : SliceNo, j ≠ sn → (s.sl j).stt = []) ∧ x.dst = n1 ∧ x.st = .open_ ∧ x.kind = .rdU ∧ x.req = some (req0 .rdCur) ∧ x.joined = [] ∧ x.wmb = none ∧ x.ntc = none ∧
    x.way = none ∧ (s.hp 0).link = .up ∧ (s.hp 0).stamped = false ∧ (s.sl sn).rb = [] ∧ (s.sl sn).snpGrps = [] ∧ (s.sl sn).waiters = [] ∧ NoneDown s ∧ s.home.unacked = [] := by rintro x s rfl rfl; decide +kernel

/-! ### Stamps, fabric and declarations -/

/-- The part in a system of two nodes, its fabric ports up. -/
def pair : State := { base with
  node := { base.node with xsz := 1, ysz := 0, zsz := 0 }
  fports := Vector.replicate 6 { FPort.reset 1 with link := .up, neigh := n1 } }
/-- A member of group 5 alone in it. -/
def grouped (s : State) : State := { s with stamp := { s.stamp with member := true, group := 5, lists := [(5, { cur := [s.node.node], next := [s.node.node] })] } }

theorem test_periods : NoneDown (grouped base) ∧ listFor (grouped base) 5 7 = [base.node.node] ∧ listFor base 5 7 = [] ∧ base.stamp.member = false ∧ base.clk = true ∧ base.fabric.stopped = false ∧ NoWork (grouped base) ∧ (∀ i : SliceNo, ((grouped base).sl i).walks = [] ∧ ((grouped base).sl i).rb = []) ∧
    (grouped base).stamp.member = true ∧ (grouped base).stamp.group = 5 ∧ (grouped base).stamp.slots = [] ∧
    (grouped base).stamp.lists = [((5 : BitVec 6).toNat, { cur := [base.node.node], next := [base.node.node] })] := by unfold NoWork; decide +kernel

/-- A group of this device and its neighbour, with a report held. -/
def reported (l : List (Nat × FSlot)) : State := { pair with stamp := { pair.stamp with lists := [(5, { cur := [0, n1], next := [0, n1] })], slots := l } }

theorem test_floor_reports : groupRoot (listFor (reported []) 5 3) = some 0 ∧ listFor (reported []) 5 3 = [0, n1] ∧ 1 ≠ (belowHere (reported []) 0 [0, n1]).length ∧
    (reported [(5, ⟨8, 3, 3, 1⟩)]).stamp.slots = [(5, ⟨8, 3, 3, 1⟩)] ∧ 1 + 2 ≠ (belowHere (reported [(5, ⟨8, 3, 3, 1⟩)]) 0 [0, n1]).length ∧ (7 : W64).ult 8 = true := by decide +kernel

theorem test_horizon_results : base.stamp.member = false ∧ (spGet {} base.stamp.lists 5).cur = [] ∧ (spGet {} (grouped base).stamp.lists 5).cur = [base.node.node] ∧
    (grouped base).stamp.hzn.ult 9 = true ∧ (grouped base).stamp.settle.ult 9 = true := by decide

theorem test_stamp_stall : ∀ s : State, s = (grouped base).modHp 0 (fun h => { h with stamped := true, queue := [{ req0 .write with stamp := some 4 }] }) →
    s.stamp.limit ≠ 0 ∧ s.stamp.stalled = false ∧ stampedOut s = true ∧ stampedOut (grouped base) = false := by rintro s rfl; decide +kernel

theorem test_member_lists : base.fabric.pause = none ∧ base.fw.st = .run ∧ n1 ∉ (spGet {} base.stamp.lists 5).next ∧ (spGet {} ({ base.stamp with lists := [(5, { next := [n1] })] } : Stamp).lists 5).next = [n1] := by decide

theorem test_flits : (pair.fp 0).carries = true ∧ ({ seq := 0 } : FlitIn).seq = (pair.fp 0).rxNext ∧ ({ fecUnc := true } : FlitIn).fecUnc = true ∧ pair.fabric.stopped = false := by decide

/-- A packet from the far neighbour on to another node. -/
def pkt : Packet := { src := n1, dst := 0x03000, len := 20 }

theorem test_transit : ∀ s t : State, s = { pair with node := base.node } → t = s.setFp 1 { s.fp 1 with link := .down } → pkt.dst ≠ s.node.node ∧ pkt.bcast = false ∧
    pkt.comb = false ∧ pkt.cls.toNat ≤ 3 ∧ routePort s.node s.node.node pkt.src pkt.dst = some 1 ∧ (s.fp 1).gone = false ∧ isLost s.node s.fabric pkt.dst = false ∧
    isLost s.node s.fabric pkt.src = false ∧ (t.fp 1).gone = true ∧ isLost s.node (lost1 { dead := true } s).fabric pkt.src = true := by rintro s t rfl rfl; decide +kernel

/-- A broadcast invalidation of node n1. -/
def bmsg : BMsg := { src := n1, laddr := 0x0400000000005, htid := 6, dst := 0, rqn := 0x3F000 }

theorem test_broadcasts : isLost pair.node pair.fabric bmsg.src = false ∧ pair.fabric.pause = none ∧ ({ msg := bmsg } : Packet).msg = bmsg ∧ pair.fabric.combs = [] ∧ pair.fabric.bcastQ = [] ∧ bcBelow pair bmsg = [pair.node.node] ∧
    bcBelow { pair with node := { pair.node with xsz := 0 } } { bmsg with src := 0, rqn := 0 } = [] := by decide +kernel

theorem test_combined_answers : ∀ (e : Comb) (m : BMsg) (s : State), e = ⟨bmsg, [], 0⟩ → m = { bmsg with src := 0, dst := n1 } → s = { pair with fabric := { pair.fabric with combs := [e] } } →
    isLost s.node s.fabric m.dst = false ∧ isLost s.node s.fabric m.src = false ∧ s.fabric.combs = [e] ∧ s.fabric.bcastQ = [] ∧ s.fabric.pause = none ∧ e.msg.src = m.dst ∧ e.msg.htid = m.htid ∧ e.msg.laddr = m.laddr ∧
    (bcBelow s e.msg).length ≤ ({ e with got := spMod 0 m.src.toNat (· + 1) e.got, allow := max e.allow m.allow } : Comb).count s ∧
    e.count s < (bcBelow s e.msg).length := by rintro e m s rfl rfl rfl; decide +kernel

theorem test_heartbeats : pair.fw.st ≠ .stopped ∧ (pair.fp 0).carries = true ∧ timeParent { pair with node := { pair.node with root := n1 } } = some 0 ∧ timeParent pair ≠ some 0 ∧
    (pair.fp 0).held = false ∧ LossCause.noFlit ≠ .replayLimit ∧ isDead pair.fabric (pair.fp 0).neigh = false ∧ pair.fabric.reports.contains (n1, 0, 5) = false := by decide +kernel

theorem test_link_states : ∀ s t : State, s = base.modFp 0 (fun f => { f with link := .training }) → t = pair.modFp 0 (fun f => { f with held := true }) →
    (s.fp 0).link = .training ∧ (s.fp 0).en = true ∧ (t.fp 0).held = true ∧ (pair.fp 0).link = .up ∧
    ({ pair.fabric with reports := [(n1, 0, 5)] } : Fabric).reports.contains (n1, 0, 5) = true ∧ ({ pair.crp with phase := .warmDrain } : Crp).phase = .warmDrain := by rintro s t rfl rfl; decide +kernel

theorem test_peer : Peer pair n1 ∧ (pair.fp 0).neigh = n1 ∧ pair.crp.phase ≠ .warmDrain ∧ neighbour pair.node pair.node.node 0 = some n1 := by
  refine ⟨?_, by decide, by decide, by decide +kernel⟩
  constructor <;> (try unfold NoWork) <;> decide +kernel

theorem test_peer_lost : ∀ (s : State) (l : FLink), l ∈ [FLink.training, .lost] → s = pair.modFp 0 (fun f => { f with link := l, lostRep := true }) → Peer s n1 ∧ (s.fp 0).link = l ∧
    (s.fp 0).lostRep = true ∧ (s.fp 0).neigh = n1 ∧ s.fabric.reports = [] := by
  intro s l h e; simp only [List.mem_cons, List.not_mem_nil, or_false] at h
  rcases h with rfl | rfl <;> subst e <;> refine ⟨⟨?_, ?_, ?_, ?_, ?_, ?_, ?_⟩, ?_, ?_, ?_, ?_⟩ <;> (try unfold NoWork) <;> decide +kernel

theorem test_declared_nodes : (pair.fp 0).link ≠ .lost ∧ isDead (lost1 { dead := true } pair).fabric n1 = true ∧ fld (pair.dbg.frzCtl.get 0xE) 2 2 = 0 ∧ pair.fabric.selfDead = false ∧
    isDead pair.fabric pair.node.node = false := by decide +kernel

/-- The part as node n1, its link to node 0 lost. -/
def loser : State := { pair with
  node := { pair.node with node := n1 }
  fports := Vector.replicate 6 { FPort.reset 1 with link := .lost, neigh := 0, lostRep := true }
  fabric := { pair.fabric with reports := [(0, n1, 5)] } }

theorem test_loser_of_a_link : (loser.fp 0).link = .lost ∧ (loser.fp 0).lostRep = true ∧ (loser.fp 0).neigh = 0 ∧ (0 : NodeId).toNat < loser.node.node.toNat ∧
    ((0 : NodeId), loser.node.node, (5 : W64)) ∈ loser.fabric.reports ∧ fld (loser.dbg.frzCtl.get 0xE) 2 2 = 0 ∧ loser.fabric.selfDead = false := by decide +kernel

theorem test_aged_packet : ∀ s : State, s = { pair with node := base.node } → s.fabric.stopped = false ∧ isLost s.node s.fabric pkt.dst = false ∧ isLost s.node s.fabric pkt.src = false ∧
    routePort s.node s.node.node pkt.src pkt.dst = some 1 ∧ (s.fp 1).carries = true ∧ isLost s.node (lost1 { dead := true } s).fabric n1 = true ∧
    ({ pkt with dst := n1 } : Packet).cls.toNat ≤ 3 ∧ ∀ g : FPortNo, ∀ y ∈ (s.fp g).txq, y.is { pkt with dst := n1 } = false := by rintro s rfl; decide +kernel

/-! ### Operations of the domain -/

/-- A command word in mailbox 0 of port 0. -/
def posted (w : W32) (s : State) : State := s.setMb 0 ((s.mb 0).modAt 0 (fun x => { x with full := true, inW := w }))
/-- A parameter of the area. -/
def param (o n v : Nat) (s : State) : State := s.setMb 0 ((s.mb 0).setPar 0 o n v)

theorem test_region_set : ∀ s : State, s = posted 0x10550405 pair → Posted s 0 0 0x10 0x0405 ∧ Sends s ∧ spSorted none s.node.wtMap = true ∧ spSorted none s.node.wtCopy = true ∧
    fld (0x0405 : BitVec 16) 11 5 = 0 ∧ memberOk s ((s.mb 0).par 0 0 2) = true ∧ (homeNow s (regionLine s 0 5)).1 = s.node.node ∧ s.fw.walk = none ∧ NothingCached s ∧
    s.fw.polWalks = [] ∧ s.fwUp = true := by
  rintro s rfl; refine ⟨⟨?_, ?_, ?_, ?_⟩, ⟨?_, ?_⟩, ?_, ?_, ?_, ?_, ?_, ?_, ⟨⟨?_, ?_⟩, ?_⟩, ?_, ?_⟩ <;> decide +kernel

theorem test_region_set_answers : ∀ (op : PolicyOp) (s : State), op = ⟨0, 5, true, [0, n1], 0⟩ → s = { pair with fw := { pair.fw with policy := some op, walk := some (wcmd 0x10 0 0) } } →
    s.fw.st = .run ∧ s.fw.policy = some op ∧ s.fw.walk = some (wcmd 0x10 0 0) ∧ n1 ∈ op.await ∧ op.await.filter (fun x => decide (x ≠ n1)) ≠ [] ∧
    ({ op with await := [n1] } : PolicyOp).await = [n1] := by rintro op s rfl rfl; decide

/-- A contract request posted: RATE 20, MISSR 10, OUT 4, BURST 4, HOPS as given. -/
def ctrReq (hops : Nat) (s : State) : State := posted 0x40550000 (param 7 1 hops (param 6 1 4 (param 4 2 4 (param 2 2 10 (param 0 2 20 s)))))

theorem test_contract_request : ∀ (s : State) (h : Nat), h ∈ [0, 1] → s = ctrReq h { pair with hports := up.hports } → Posted s 0 0 0x40 0 ∧ Sends s ∧ (ctrParams s 0 0).2 = true ∧
    ((livePeers s.node s.fabric).filter (fun n => decide (hops s.node s.node.node n ≤ (ctrParams s 0 0).1.hops.toNat)) = if h = 0 then [] else [n1]) ∧
    (∀ q : Port, (s.hp q).ctr.valid = false) ∧ s.fw.ctrOps = [] ∧ s.home.shares = [] ∧ (s.hp 0).ctrRel = false ∧ (s.hp 0).stamped = false ∧ (s.hp 0).degraded = false ∧
    (s.hp 0).linkUp = true ∧ s.mem.slow = false ∧ s.mem.filled = true := by
  intro s h m e; simp only [List.mem_cons, List.not_mem_nil, or_false] at m
  rcases m with rfl | rfl <;> subst e <;> refine ⟨⟨?_, ?_, ?_, ?_⟩, ⟨?_, ?_⟩, ?_, ?_, ?_, ?_, ?_, ?_, ?_, ?_, ?_, ?_, ?_⟩ <;> decide +kernel

/-- A contract in progress, its own share reserved. -/
def ctrOp (l : List NodeId) : State := { pair with
  hports := up.hports
  home := { pair.home with shares := [⟨0, 0, 10, 8, 25600⟩] }
  fw := { pair.fw with ctrOps := [⟨0, some 0, { Contract.none with rate := 20, burst := 4 }, l, [0], false⟩] } }

theorem test_contract_answers : (ctrOp [n1, 0x02000]).fw.st = .run ∧ (ctrOp [n1]).fw.ctrOps = [⟨0, some 0, { Contract.none with rate := 20, burst := 4 }, [n1], [0], false⟩] ∧
    n1 ∉ [(0x02000 : NodeId)] ∧ (ctrOp [n1]).home.shares = [⟨(ctrOp [n1]).node.node, BitVec.ofNat 2 0, 10, 8, 25600⟩] ∧ ((ctrOp [n1]).hp 0).stamped = false ∧
    ((ctrOp [n1]).hp 0).degraded = false ∧ ((ctrOp [n1]).hp 0).linkUp = true ∧ Sends (ctrOp [n1]) := by
  refine ⟨?_, ?_, ?_, ?_, ?_, ?_, ?_, ⟨?_, ?_⟩⟩ <;> decide +kernel

theorem test_contract_release : ∀ s t : State, s = posted 0x41550000 (up.modHp 0 (fun h => { h with ctr := { h.ctr with valid := true }, outst := 1 })) →
    t = { ctrOp [] with fw := { base.fw with ctrHomes := [(0, [0])], relCmd := [(0, 0)] }, hports := (up.modHp 0 (fun h => { h with ctrRel := true })).hports } →
    Posted s 0 0 0x41 0 ∧ (s.hp 0).ctr.valid = true ∧ (s.hp 0).outst ≠ 0 ∧ (up.hp 0).ctr.valid = false ∧ t.fw.st = .run ∧ (t.hp 0).ctrRel = true ∧ (t.hp 0).outst = 0 ∧ (∀ q : Port, (t.hp q).link ≠ .downBusy) ∧
    t.fw.ctrHomes = [(0, [t.node.node])] ∧ t.fw.relCmd = [(0, 0)] ∧ t.home.shares = [⟨t.node.node, BitVec.ofNat 2 0, 10, 8, 25600⟩] := by
  rintro s t rfl rfl; refine ⟨⟨?_, ?_, ?_, ?_⟩, ?_, ?_, ?_, ?_, ?_, ?_, ?_, ?_, ?_, ?_⟩ <;> decide +kernel

theorem test_stamp_join : ∀ s : State, s ∈ [posted 0x50550005 up, posted 0x50550005 (grouped up)] → Posted s 0 0 0x50 5 ∧ joinDenied s 0 = false ∧ fld (5 : BitVec 16) 6 10 = 0 ∧
    fld (5 : BitVec 16) 0 6 = (5 : BitVec 6) ∧ s.fw.joining = none ∧ s.fw.walk = none ∧ NothingCached s := by
  intro s m; simp only [List.mem_cons, List.not_mem_nil, or_false] at m
  rcases m with rfl | rfl <;> refine ⟨⟨?_, ?_, ?_, ?_⟩, ?_, ?_, ?_, ?_, ?_, ⟨⟨?_, ?_⟩, ?_⟩⟩ <;> decide +kernel

theorem test_stamp_join_clean : ∀ s : State, s = { walking .stampClean up with fw := { base.fw with joining := some 0, walk := some (wcmd 0x50 0 0) }, stamp := { base.stamp with group := 5 } } →
    s.fw.st = .run ∧ s.fw.joining = some 0 ∧ s.fw.joinWait = [] ∧ (∀ i : SliceNo, Walked s i .stampClean) ∧ joinDenied s 0 = false ∧ (s.hp 0).linkUp = true ∧
    s.stamp.member = false ∧ s.stamp.group = 5 := by rintro s rfl; unfold Walked; decide +kernel

theorem test_stamp_leave : ∀ s t : State, s = posted 0x51550000 ((grouped up).modHp 0 (fun h => { h with stamped := true, queue := [{ req0 .write with stamp := some 4 }] })) →
    t = ({ grouped up with fw := { base.fw with leaveCmd := [(0, 0)] } } : State).modHp 0 (fun h => { h with stamped := true, leaving := true }) →
    Posted s 0 0 0x51 0 ∧ (s.hp 0).stamped = true ∧ portApplied s 0 = false ∧ (up.hp 0).stamped = false ∧ t.fw.st = .run ∧ (∀ q : Port, (t.hp q).link ≠ .downBusy) ∧ (t.hp 0).leaving = true ∧ portApplied t 0 = true ∧
    t.fw.leaveCmd = [(0, 0)] ∧ t.stamp.group = 5 ∧ spSorted none t.stamp.lists = true ∧ (∀ q : Port, q ≠ 0 → (t.hp q).stamped = false) ∧
    ∃ q : Port, q ≠ 0 ∧ ((t.modHp 1 (fun h => { h with stamped := true })).hp q).stamped = true := by
  rintro s t rfl rfl; refine ⟨⟨?_, ?_, ?_, ?_⟩, ?_, ?_, ?_, ?_, ?_, ?_, ?_, ?_, ?_, ?_, ?_, ?_⟩ <;> decide +kernel

/-! ### Home relocation -/

/-- Region 3 of the own memory being given to node n1. -/
def giving (p : RPhase) : Reloc := { orig := 0, region := 3, gen := 0, peer := memOf n1, giving := true, phase := p, pk := some (0, 0), marks := [] }
/-- The old home in it. -/
def oldHome (p : RPhase) : State := { pair with home := { pair.home with relocs := [giving p] } }

theorem test_home_relocate : ∀ s : State, s = posted 0x60550000 (param 4 2 (memOf n1).toNat (param 2 2 3 pair)) → Posted s 0 0 0x60 0 ∧ memberOk s ((s.mb 0).par 0 0 2) = true ∧
    (s.mb 0).par 0 2 2 < 1024 ∧ memberOk s ((s.mb 0).par 0 4 2) = true ∧ BitVec.ofNat 12 ((s.mb 0).par 0 4 2) = memOf n1 ∧
    isLost s.node s.fabric (memNode s (memOf n1)) = false ∧ memOf n1 ≠ self s ∧ (homeNow s (regionLine s 0 3)).1 = s.node.node ∧ s.home.relocs = [] ∧ s.home.rtab = [] ∧
    s.home.stubs = [] ∧ s.home.seats = [] ∧ Sends s := by
  rintro s rfl; refine ⟨⟨?_, ?_, ?_, ?_⟩, ?_, ?_, ?_, ?_, ?_, ?_, ?_, ?_, ?_, ?_, ?_, ⟨?_, ?_⟩⟩ <;> decide +kernel

theorem test_old_home : (oldHome .idle).home.relocs = [giving .idle] ∧ (giving .idle).peer = memOf n1 ∧ (giving .copy).orig = self (oldHome .copy) ∧ (giving .copy).gen = 0 ∧
    (giving .copy).peer ≠ self (oldHome .copy) ∧ (oldHome .copy).home.rtab = [] ∧ (oldHome .copy).home.stubs = [] ∧ (oldHome .copy).home.moving = [] ∧
    (oldHome .copy).home.unacked = [] ∧ (oldHome .copy).fw.st = .run ∧ regionBusy (oldHome .switch_) 0 3 = false ∧ ownedLines (oldHome .switch_) 0 3 = [] ∧
    regionBusy { oldHome .switch_ with home := { (oldHome .switch_).home with tt := [{ num := 1, line := regionLine pair 0 3 }] } } 0 3 = true ∧
    (∀ z ∈ (oldHome .recall).home.stubs, z.await ≠ []) ∧ Sound (oldHome .copy) ∧ Sound (oldHome .switch_) ∧ Sound (oldHome .recall) ∧
    copying (oldHome .finalCopy) = false ∧ memNode (oldHome .finalCopy) (memOf n1) = n1 ∧ (giving .finalCopy).gen = (homeNow (oldHome .finalCopy) (regionLine pair 0 3)).2 ∧
    regionBusy (oldHome .recall) 0 3 = false ∧ ownedLines (oldHome .recall) 0 3 = [] := by decide +kernel

/-- The record of a line that node n1 owns. -/
def ownedRec : DirRec := { st := .E1, holders := [memOf n1], des := some (memOf n1), own := true, osn := 5 }

theorem test_owned_line : ∀ s : State, s = { oldHome .switch_ with mem := { pair.mem with ddr := [(3 * 2 ^ 24 + 5, ⟨7, packWord ownedRec⟩)] } } → s.home.tt = [] ∧
    ownedLines s 0 3 = [(3 * 2 ^ 24 + 5, ownedRec)] ∧ ownedRec.owner = some (memOf n1) ∧ isLost s.node s.fabric (nodeOf (domOf s.node.node) (memOf n1)) = false ∧
    Sound s := by rintro s rfl; decide +kernel

theorem test_stubs : ∀ (y : Stub) (s : State), y = ⟨0, 3, 1, memOf n1, [0, n1]⟩ → s = { pair with home := { pair.home with stubs := [y], rtab := [⟨0, 3, 1, memOf n1, [(1, memOf n1)]⟩] } } →
    s.fw.st = .run ∧ s.home.relocs = [] ∧ s.home.stubs = [y] ∧ y.await.filter (fun q => decide (q ≠ n1)) ≠ [] ∧ ({ y with await := [n1] } : Stub).await = [n1] ∧
    s.home.rtab = [⟨y.orig, y.region, 1, memOf n1, [(y.gen, memOf n1)]⟩] := by rintro y s rfl rfl; decide

/-- A member with two guest frames. -/
def newHome : State := { pair with node := { pair.node with guests := 2 } }
/-- Region 3 of node n1 being received. -/
def receiving : Reloc := { orig := memOf n1, region := 3, gen := 0, peer := memOf n1, giving := false, phase := .receiving, pk := none, marks := [] }

theorem test_frames : memOf n1 ≠ self newHome ∧ ((List.range newHome.node.guests).map (fun g => newHome.home.frames.getD g none)).findIdx? (fun f => decide (f = some (memOf n1, 3))) = none ∧
    ((List.range newHome.node.guests).map (fun g => newHome.home.frames.getD g none)).findIdx? (fun f => f.isNone) = some 0 ∧
    ((List.range pair.node.guests).map (fun g => pair.home.frames.getD g none)).findIdx? (fun f => f.isNone) = none ∧ newHome.good ∧ Sends newHome := by
  refine ⟨?_, ?_, ?_, ?_, ⟨?_, ?_⟩, ⟨?_, ?_⟩⟩ <;> decide +kernel

theorem test_received : ∀ s : State, s = { newHome with home := { newHome.home with relocs := [receiving], frames := [some (memOf n1, 3)], moving := [⟨memOf n1, 3, 0, memOf n1, []⟩] } } →
    s.home.relocs = [receiving] ∧ receiving.giving = false ∧ ([⟨5, 77, 0⟩, ⟨2, 78, 0⟩] : List RegLine).Pairwise (fun a b => a.idx ≠ b.idx) ∧ s.home.unacked = [] := by rintro s rfl; decide

theorem test_ready : ∀ s : State, s = { pair with home := { pair.home with rtab := [⟨memOf n1, 3, 1, 0, [(1, memOf n1)]⟩], moving := [⟨memOf n1, 3, 0, memOf n1, []⟩], unacked := [⟨memOf n1, 3, 1, memOf n1, []⟩] } } →
    NoWork s ∧ s.home.moving = [⟨memOf n1, 3, 0, memOf n1, []⟩] ∧ s.home.unacked = [⟨memOf n1, 3, 1, memOf n1, []⟩] ∧ (homeNow s (regionLine s (memOf n1) 3)).2 = 1 ∧
    s.home.rtab = [⟨memOf n1, 3, 1, 0, [(1, memOf n1)]⟩] ∧ (pair.home.rtab = [] ∧ pair.home.moving = [] ∧ pair.home.unacked = [] ∧ (0 : Member) ≠ memOf n1) ∧ copying s = false ∧ copying { s with fw := { s.fw with tabTry := true } } = true ∧ newerGen 0 1 = true ∧ newerGen 1 1 = false ∧
    s.home.relocs = [] ∧ newerGen 2 1 = false ∧ (pair.home.relocs = [] ∧ newerGen (homeNow pair (regionLine pair (memOf n1) 3)).2 0 = false) := by rintro s rfl; unfold NoWork; decide +kernel

theorem test_table_answers : ∀ s : State, s = { pair with fw := { pair.fw with tabTry := true } } → s.fw.tabTry = true ∧ s.fw.tabDone = false ∧ s.home.rtab = [] ∧ s.home.notices = [] ∧
    isLost s.node s.fabric (memNode s (memOf n1)) = false ∧ livePeers s.node s.fabric = [memNode s (memOf n1)] ∧ ({ s.fw with tabDone := true } : Fw).tabDone = true := by rintro s rfl; decide +kernel

/-! ### Integrity and the background fill -/

/-- The part with one wrong symbol in line 5 of DDR5. -/
def flawed : State := { base with mem := { base.mem with ddrFlaw := [(5, { errs := [(3, 1)] })] }, integ := { base.integ with posDdr := 5 } }

theorem test_patrol : base.home.tt = [] ∧ base.home.sweeps = [] ∧ base.good ∧ Sound base ∧ scrubOn base.integ true = true ∧ scrubOn base.integ false = true ∧
    base.integ.passDdr = false ∧ base.integ.passHbm = false ∧ base.mem.size ≠ 0 ∧ ddrNext base base.integ.posDdr = some 0 ∧ ddrNext base 0x3FFFFFFF = some 0x3FFFFFFF ∧
    ddrNext base 0x40000000 = none ∧ hbmNext base base.integ.posHbm = some (0, 0, 0) ∧ (hbmNext base (2 ^ 30)).isSome = false ∧
    (∀ j : SliceNo, (base.sl j).tsFlaw = [] ∧ (base.sl j).slotFlaw = [] ∧ (base.sl j).shadow.all (fun c => c.2.ents.toList.all (fun e => !e.bad)) = true) ∧
    scrubOn { base.integ with scrubDdr := .mk1 0 } true = false ∧ base.integ.lateDdr = false := by
  refine ⟨?_, ?_, ⟨?_, ?_⟩, ?_, ?_, ?_, ?_, ?_, ?_, ?_, ?_, ?_, ?_, ?_, ?_, ?_, ?_⟩ <;> decide +kernel

theorem test_patrol_corrects : flawed.good ∧ ddrNext flawed flawed.integ.posDdr = some 5 ∧ flawed.home.frames = [] ∧ flawed.mem.ddrFlaw = [(5, { errs := [(3, 1)] })] ∧
    inDram flawed 5 = true ∧ flawed.integ.hist = [] ∧ lineCode [(3, 1)] = .corr (Config.synFold true [(3, 1)]) :=
  ⟨⟨by decide +kernel, by decide +kernel⟩, by decide +kernel, rfl, rfl, by decide +kernel, rfl, rfl⟩

theorem test_repair_and_leak : ({ base.integ with live := some (.hbm 7) } : Integ).live = some (.hbm 7) ∧ ({ base.integ with lbCtl := .mk1 1 } : Integ).lbEn = true ∧ base.integ.lbEn = false ∧ ({ base.integ with level := 4 } : Integ).level ≠ 0 ∧
    base.integ.level = 0 := by decide

/-- The part while its fill runs, at block 600. -/
def filling : State := { base with mem := { base.mem with filled := false, fillBlk := 600 }, aon := { base.aon with fillBlk := 600 } }

theorem test_fill : filling.mem.fill1g = true ∧ filling.mem.filled = false ∧ filling.mem.fillSlots = [] ∧ filling.mem.fillMap = [] ∧ 600 < ddrBlocks filling ∧
    ({ filling.mem with fillSlots := [(700, [1])] } : Mem).fillSlots = (700, [1]) :: [] ∧ 700 < 2 ^ 20 ∧ filling.mem.fillBlk < 700 ∧
    filling.aon.fillBlk = BitVec.ofNat 20 filling.mem.fillBlk ∧ ({ filling.mem with wq := [(5, {}), (0x1400000, {})] } : Mem).open_ 5 = true ∧
    ({ filling.mem with wq := [(5, {}), (0x1400000, {})] } : Mem).open_ 0x1400000 = false := by decide +kernel

/-! ### Mailbox commands -/

theorem test_ping : Posted (posted 0x01550007 base) 0 0 0x01 7 ∧ spSorted none ((posted 0x01550007 base).mb 0).param = true ∧ bit ((posted 0x01550007 base).eq 0).filter 0 = true ∧
    2 ≤ evqFree ((posted 0x01550007 base).eq 0) ∧ opcodes.contains 0x02 = false := by
  refine ⟨⟨?_, ?_, ?_, ?_⟩, ?_, ?_, ?_, ?_⟩ <;> decide +kernel

theorem test_region_get : ∀ s : State, s = posted 0x11550005 base → Posted s 0 0 0x11 5 ∧ fld (5 : BitVec 16) 10 6 = 0 ∧ memberOk s ((s.mb 0).par 0 0 2) = true ∧
    ((rtabOf s 0 5).getD ⟨0, 5, 0, 0, []⟩).unack.length < 256 := by
  rintro s rfl; refine ⟨⟨?_, ?_, ?_, ?_⟩, ?_, ?_, ?_⟩ <;> decide +kernel

theorem test_peat_read : Posted (posted 0x70550003 base) 0 0 0x70 3 ∧ fld (3 : BitVec 16) 3 13 = 0 ∧ (fld (3 : BitVec 16) 0 3).toNat ≠ 0 ∧ base.peat.first 0 = none ∧
    ({ base.peat with next := 5 } : Peat).first 2 = some 2 := by refine ⟨⟨?_, ?_, ?_, ?_⟩, ?_, ?_, ?_, ?_⟩ <;> decide +kernel

theorem test_reports : Posted (posted 0x71550802 base) 0 0 0x71 0x0802 ∧ fld (0x0802 : BitVec 16) 10 6 ≠ 0 ∧ (fld (0x0802 : BitVec 16) 10 6).toNat ≤ 56 ∧
    Posted (posted 0x80550000 (param 0 4 n1.toNat base)) 0 0 0x80 0 ∧ ((posted 0x80550000 (param 0 4 n1.toNat base)).mb 0).par 0 0 4 = n1.toNat ∧
    Posted (posted 0xF0550000 base) 0 0 0xF0 0 := by refine ⟨⟨?_, ?_, ?_, ?_⟩, ?_, ?_, ⟨?_, ?_, ?_, ?_⟩, ?_, ⟨?_, ?_, ?_, ?_⟩⟩ <;> decide +kernel

/-- A range of one line posted with a command. -/
def range (w : W32) : State := posted w (param 8 8 64 (param 0 8 ga.toNat up))

theorem test_range_commands : ∀ (w : W32) (o : Byte), (w, o) ∈ [(0x20550000, 0x20), (0x21550000, 0x21), (0x22550000, 0x22)] → Posted (range w) 0 0 o 0 ∧
    rangeOf (range w) 0 0 = some (ga.toNat, ga.toNat + 64) ∧ rangeOf up 0 0 = none ∧ (range w).fw.walk = none ∧ NothingCached (range w) ∧
    ∀ i : SliceNo, ((range w).sl i).shadow = [] := by
  intro w o h; simp only [List.mem_cons, Prod.mk.injEq, List.not_mem_nil, or_false] at h
  rcases h with ⟨rfl, rfl⟩ | ⟨rfl, rfl⟩ | ⟨rfl, rfl⟩ <;> refine ⟨⟨?_, ?_, ?_, ?_⟩, ?_, ?_, ?_, ⟨⟨?_, ?_⟩, ?_⟩, ?_⟩ <;> decide +kernel

theorem test_waylock : Posted (range 0x30550001) 0 0 0x30 1 ∧ bit (1 : BitVec 16) 15 = false ∧ (∀ i : SliceNo, lockBad (range 0x30550001) ((range 0x30550001).sl i) 1 = false) ∧
    (∃ i : SliceNo, lockBad (range 0x30550001) ((range 0x30550001).sl i) 0x1FFF = true) ∧ lockBad (range 0x30550001) ((range 0x30550001).sl 0) 0x0FFF = false := by
  refine ⟨⟨?_, ?_, ?_, ?_⟩, ?_, ?_, ?_, ?_⟩ <;> decide +kernel

theorem test_waylock_load : ∀ s : State, s = range 0x30558001 → Posted s 0 0 0x30 0x8001 ∧ bit (0x8001 : BitVec 16) 15 = true ∧
    rangeOf s 0 0 = some (la.toNat * 64, la.toNat * 64 + 64) ∧ (s.sl (sliceOf la)).enabled = true ∧ isFar s la = false ∧ inTorus s.node (lineHome la) = true ∧ homeLost s la = false ∧
    s.arb.walkHold = false ∧ Sends s ∧ lockTarget ((s.sl (sliceOf la)).setLock 1) (setOf la).toNat = some 0 := by
  rintro s rfl; refine ⟨⟨?_, ?_, ?_, ?_⟩, ?_, ?_, ?_, ?_, ?_, ?_, ?_, ⟨?_, ?_⟩, ?_⟩ <;> decide +kernel

theorem test_waygroups : ∀ s t : State, s = posted 0x31550001 up → t = posted 0x31550101 up → Posted s 0 0 0x31 1 ∧ Posted t 0 0 0x31 0x101 ∧ groupIsOff s 1 = false ∧ groupDenied s 1 = false ∧
    groupDenied (s.modSl 2 (fun x => x.setLock 1)) 3 = false ∧ (∃ g : Nat, groupDenied (s.modSl 2 (fun x => x.setLock 0x7FFF)) g = true) ∧
    groupIsOff (s.each sliceNos (fun s i => s.modSl i (fun x => { x with wgOff := 1 }))) 1 = true ∧ fld (0x101 : BitVec 16) 2 6 = 0 ∧ fld (0x101 : BitVec 16) 9 7 = 0 := by
  rintro s t rfl rfl; refine ⟨⟨?_, ?_, ?_, ?_⟩, ⟨?_, ?_, ?_, ?_⟩, ?_, ?_, ?_, ⟨1, ?_⟩, ?_, ?_, ?_⟩ <;> decide +kernel

theorem test_firmware_states : (base.fw.st = .run ∧ base.fw.walk = none) ∧ (∀ p : Port, (base.mb p).backlog = [] ∧ ((base.mb p).at 0).outFull = false) ∧ base.aon.up = true ∧
    ({ base.fw with st := .restart } : Fw).st = .restart ∧ ({ base.fw with st := .stopped } : Fw).st = .stopped ∧ bit (base.dbg.frzCtl.get 0xE) 2 = false ∧ base.fabric.selfDead = false ∧ base.fabric.ring = [] := by decide

/-! ### Registers -/

/-- A write of software behind port 0. -/
def wr (v : W32) : RWr := { master := 0, val := v }

theorem test_notice_acknowledged : ∀ s : State, s = up.setMb 0 ((up.mb 0).modAt 0 (fun x => { x with outFull := true, outW := 0xA0050000 })) → Software s 0 (wr 0x05000000) ∧
    ((s.mb 0).at 0).outFull = true ∧ fld (wr 0x05000000).val 24 8 = fld ((s.mb 0).at 0).outW 16 8 ∧ fld (wr 0x06000000).val 24 8 ≠ fld ((s.mb 0).at 0).outW 16 8 ∧ (s.mb 0).backlog = [] := by
  rintro s rfl; refine ⟨⟨⟨?_, ⟨?_, ?_⟩⟩, ?_, ?_⟩, ?_, ?_, ?_, ?_⟩ <;> decide

/-- The part with every key open. -/
def keyed : State := { up with gen := { up.gen with keys := Vector.replicate 5 true } }

theorem test_software : Software keyed 0 (wr 0x7A3C) ∧ keyOpen keyed 0 = true ∧ keyOpen up 0 = false ∧ (up.hp 0).proto = false := by
  refine ⟨⟨⟨?_, ⟨?_, ?_⟩⟩, ?_, ?_⟩, ?_, ?_, ?_⟩ <;> decide

/-- A BAR.DONE of port 0 is open. -/
def barred : State := { keyed.modHp 0 (fun h => { h with bars := [bar0] }) with seqNo := 9 }

theorem test_behind_a_barrier : (barred.hp 0).link = .up ∧ (barred.hp 0).regq = [] ∧ barsBefore (barred.hp 0) barred.seqNo = true ∧ (barred.hp 0).hreq ≠ 0 ∧ (barred.hp 0).hdat ≠ 0 ∧
    Reaching keyed 0 ∧ (keyed.hp 0).proto = false := by
  refine ⟨?_, ?_, ?_, ?_, ?_, ⟨?_, ⟨?_, ?_⟩⟩, ?_⟩ <;> decide +kernel

theorem test_accesses : inBlock 0x40 = true ∧ (val64 up 0 0x40).isSome = true ∧ inBlock (0x40 + 4) = true ∧ val64 up 0 (0x40 + 4) = none ∧ accKind 0 0x14000 4 true ≠ 0 ∧
    accKind 0 0x11000 4 true ≠ 0 ∧ accKind 0 0x100048 4 true = 0 ∧ (regAt 0x100048).keyed = true := by decide +kernel

theorem test_indirect : (vget up.gen.ind 0 {}).wpend = none ∧ ({ wpend := some (0x20000000, 5) } : Ind).wpend = some (0x20000000, 5) ∧ fld (0x20000000 : W32) 28 4 = 2 ∧
    fld (0x10000000 : W32) 28 4 ≠ 2 ∧
    slowWrite.slowMapped 0x20000000 = true ∧ slowWrite.slowMapped 0x2FFFFFFC = false ∧ spSorted none up.integ.repRaw = true := by decide

/-- An event queue with one packet, unread. -/
def queued : State := up.setEq 0 { up.eq 0 with wr := 2, ring := [(0, 1)], heads := [(0, 0)], mark := 0, markV := true }

theorem test_event_queue : Software queued 0 (wr 1) ∧ (2 - (queued.eq 0).rd : BitVec 13).toNat ≤ evqUsed (queued.eq 0) ∧ evqUsed (queued.eq 0) < (3 - (queued.eq 0).rd : BitVec 13).toNat ∧
    (queued.eq 0).heads.any (fun h => decide (h.1 = 0)) = true ∧ bit (wr 0x200000).val 21 = true ∧ bit (wr 0x200000).val 22 = false ∧ (queued.eq 0).rd ≠ (queued.eq 0).wr ∧
    bit (wr 0x400000).val 21 = false ∧ bit (wr 0x400000).val 22 = true ∧ (queued.eq 0).markV = true := by
  refine ⟨⟨⟨?_, ⟨?_, ?_⟩⟩, ?_, ?_⟩, ?_, ?_, ?_, ?_, ?_, ?_, ?_, ?_, ?_⟩ <;> decide

theorem test_event_age : ∀ s : State, s = { queued with gen := { queued.gen with time := 4000 } } → s.clk = true ∧ ((0 : BitVec 13), (0 : W64)) ∈ (s.eq 0).heads ∧
    ((0 : BitVec 13) - (s.eq 0).rd).toNat < evqUsed (s.eq 0) ∧ 400 * max 1 (fld (s.eq 0).ctl 12 8).toNat ≤ (s.gen.time - (0 : W64)).toNat := by rintro s rfl; decide

theorem test_slice_controls : NothingCached keyed ∧ (keyed.sl 0).shadow.all (fun c => c.2.ents.toList.all (fun e => !e.bad)) = true ∧ (keyed.sl 0).draining = false ∧ (keyed.sl 0).disabled = false ∧ (∀ q : Port, (keyed.hp q).cxl = false) ∧
    lockBad keyed (keyed.sl 0) (fld (wr 0x1).val 0 15) = false ∧ lockBad keyed (keyed.sl 0) (fld (wr 0x1FFF).val 0 15) = true ∧ (keyed.sl 0).shadowEn = true ∧
    spSorted none (keyed.sl 0).shadow = true ∧ stampMaskBad keyed (fld (wr 0x7).val 0 15) = false ∧ keyed.fw.walk = none := by
  refine ⟨⟨⟨?_, ?_⟩, ?_⟩, ?_, ?_, ?_, ?_, ?_, ?_, ?_, ?_, ?_, ?_⟩ <;> decide +kernel

theorem test_bounds : max 1 (fld (wr 0x0A28).val 0 8).toNat < max 1 (fld (wr 0x0A28).val 8 8).toNat * 100 ∧ max 1 (fld (wr 0x0164).val 8 8).toNat * 100 ≤ max 1 (fld (wr 0x0164).val 0 8).toNat ∧
    (∀ j : SliceNo, max 1 (keyed.sl j).gap ≤ 5 * max 1 (fld (wr 0x40).val 0 8).toNat) ∧ max 1 (fld (wr 0x0F).val 0 8).toNat ≤ 5 * max 1 keyed.home.win := by decide +kernel

theorem test_port_controls : linkAllowed { keyed.hp 0 with linkCtl := .mk1 0x19 } (decide ((keyed.hp 0).width = 2)) (keyed.hp 0).rate = true ∧ bit (wr 0x1D).val 2 = true ∧ fld (wr 0x1D).val 0 2 = (keyed.hp 0).mode ∧ (keyed.hp 0).link = .up ∧ bit (wr 0x1A).val 2 = false ∧ fld (wr 0x1A).val 0 2 ≠ 3 ∧
    fld (wr 0x1A).val 0 2 ≠ (keyed.hp 1).mode ∧ ((linkAt .training).hp 0).link = .training ∧ bit (wr 1).val 0 = true ∧ bit (wr 0x100).val 8 = true ∧
    bit (wr 0x19).val 2 = false ∧ fld (wr 0x19).val 0 2 = (keyed.hp 0).mode ∧ (keyed.hp 0).linkUp = true ∧ ((linkAt .down).hp 0).link = .down := by decide +kernel

/-! ### Well-formed commands: what each check refuses -/

theorem test_wf_emhal : (Instr.rdshared { port := 0, len := 65 }).wf = false ∧ (Instr.rdshared { port := 0, len := 64 }).wf = true ∧ (Instr.snprsp { port := 0, len := 5 }).wf = false ∧
    (Instr.snprsp { port := 0, len := 64 }).wf = true ∧ (Instr.reservedEmhalOpcode { port := 0 } 0x11).wf = false ∧ (Instr.reservedEmhalOpcode { port := 0 } 0x12).wf = true := by decide

theorem test_wf_bervex : (Instr.rds { rsv := some 6 }).wf = false ∧ (Instr.rds { rsv := some 7 }).wf = true ∧ (Instr.inv { rsv := some 4 }).wf = false ∧
    (Instr.ack { rsv := some 7 }).wf = false ∧ (Instr.putm { rsv := some 3 }).wf = false ∧ (Instr.putm { rsv := some 4 }).wf = true ∧
    (Instr.broadcastReplicate none { msg := { rsv := some 9 } }).wf = false ∧ (Instr.combinedInvack {} 0).wf = false ∧ (Instr.combinedInvack {} 1).wf = true := by decide

theorem test_wf_fabric : (Instr.transitBypass 0 { len := 3 }).wf = false ∧ (Instr.transitBypass 0 { len := 4 }).wf = true ∧ (Instr.floorReport 0 0 0 0 0).wf = false ∧
    (Instr.relocationTableAnswer [⟨0, [⟨0, 0, 0, 0, List.replicate 9 (0, 0)⟩], [], false⟩]).wf = false ∧
    (Instr.relocationTableAnswer [⟨0, [⟨0, 0, 0, 0, List.replicate 8 (0, 0)⟩], [], false⟩]).wf = true := by decide

theorem test_wf_lists : (Instr.temperatureSample [1, 2, 3, 4]).wf = false ∧ (Instr.ddr5TrainingDone []).wf = false ∧ (Instr.registerWrite { master := 0, size := 65 }).wf = false ∧
    (Instr.genSemRead { master := 0, size := 65 } 0).wf = false := by decide

/-! ### The spec's worked examples -/

/-- The state after a command. -/
def run (c : Instr) (s : State) : State :=
  match exec c s with
  | .next t => t
  | _ => s

/-- 00_scope.md, placing a device and an address. -/
theorem test_placing_a_device : mkNode 19 5 41 = 0x13169 ∧ domOf 0x13169 = 0x12 ∧ memOf 0x13169 = 0x359 ∧ homeOf 0x131691234567840 = 0x13169 := by decide

/-- The line of 02_cache_sets_and_tags.md's example, homed at (22, 2, 44), and the line 4 GiB higher. -/
def lineA : LAddr := lineOf ((mkNode 22 2 44).setWidth 58 <<< 40 ||| 0x20000040)
/-- The line 4 GiB higher. -/
def lineB : LAddr := lineOf ((mkNode 22 2 44).setWidth 58 <<< 40 ||| 0x120000040)

theorem test_slice_set_tag : sliceOf lineA = 5 ∧ setOf lineA = 0x100000 ∧ tagOf lineA = 0x62C00 ∧ sliceOf lineB = 1 ∧ setOf lineB = 0x100001 ∧ tagOf lineB = 0x62C01 := by decide

/-- 02_cache_sets_and_tags.md, three misses to one set: the ways that may be filled. -/
def free6 (w : Nat) : Bool := [4, 5, 6, 7, 8, 10].contains w
/-- A set of valid lines with the tree. -/
def fullSet (t : BitVec 14) : TagBlock := { ways := Vector.replicate 15 { st := .S }, plru := t }

theorem test_three_misses : victim free6 (fullSet 0) = some 4 ∧ treeTouch 4 0 4 (0 : BitVec 14) = 0x0211 ∧ victim free6 (fullSet 0x0211) = some 8 ∧
    treeTouch 4 0 8 (0x0211 : BitVec 14) = 0x0A34 ∧ victim free6 (fullSet 0x0A34) = some 6 := by decide +kernel

/-- 06_atomics_and_ordering.md, the shared counter: its predictor index and the control word of its far ADD. -/
theorem test_shared_counter : predIdx lineA = 0xC00 ∧ fld (amoBlock 0 8 8 1 0) 0 64 = (0x460 : W64) ∧ fld (amoBlock 0 8 8 1 0) 64 64 = (1 : W64) := by decide +kernel

/-- 07_stamp_order_and_contracts.md, a contract for port HP2: what its registers read. -/
theorem test_contract_registers : ∀ s : State, s = up.modHp 2 (fun h => { h with ctr := { h.ctr with rate := 400, missr := 50, out := 128, hops := 9, burst := 32, unc := true, valid := true } }) →
    regVal s 4 (regAt 0x320110) = 0x00019190 ∧ regVal s 4 (regAt 0x320114) = 0x01901280 := by rintro s rfl; decide +kernel

/-- 08_emhal_and_utben_links.md, a far read with a dateline crossing: the hops and the first port on each axis. -/
theorem test_far_route : ∀ n : Node, n = { base.node with node := mkNode 19 5 41, xsz := 63, ysz := 63, zsz := 63 } →
    hops n (mkNode 19 5 41) (mkNode 50 60 44) = 43 ∧ routePort n (mkNode 19 5 41) (mkNode 19 5 41) (mkNode 50 60 44) = some 0 ∧
    routePort n (mkNode 50 5 41) (mkNode 19 5 41) (mkNode 50 60 44) = some 3 ∧ routePort n (mkNode 50 60 41) (mkNode 19 5 41) (mkNode 50 60 44) = some 4 := by rintro n rfl; decide +kernel

/-- 04_bervex_coherence.md, the hop counts of the example. -/
theorem test_hop_counts : ∀ n : Node, n = { base.node with node := mkNode 19 5 41, xsz := 63, ysz := 63, zsz := 63 } → hops n (mkNode 19 5 41) (mkNode 22 2 44) = 9 ∧
    hops n (mkNode 22 2 44) (mkNode 20 5 41) = 8 ∧ hops n (mkNode 20 5 41) (mkNode 19 5 41) = 1 ∧ hops n (mkNode 22 2 44) (mkNode 22 4 44) = 2 := by rintro n rfl; decide +kernel

/-- 11_register_behaviour_and_map.md, two ports contend for a semaphore: HP0 takes it. -/
theorem test_semaphore_taken : ((run (.genSemRead { master := 0 } 3) up).gen.sem)[3] = 1 ∧ (run (.genSemRead { master := 0 } 3) up).out = [.host 0 (.cmpData 0 stOK 0 false false 4 1)] := by decide +kernel
/-- HP2 has lost. -/
theorem test_semaphore_held : ∀ s : State, s = run (.genSemRead { master := 0 } 3) up → (run (.genSemRead { master := 2 } 3) s).gen.sem[3] = 1 := by rintro s rfl; decide +kernel
/-- HP0 gives it back. -/
theorem test_semaphore_released : (run (.genSemRelease 3 { master := 0, val := 0 }) { up with gen := { up.gen with sem := up.gen.sem.set 3 1 } }).gen.sem[3] = 0 := by decide +kernel

/-- 11_register_behaviour_and_map.md: the high word is the shadow's, whatever the live counter has become. -/
theorem test_shadow_word : ∀ s : State, s = (run (.counterLoRead { master := 0, off := 0x150080 }) (up.modSl 5 (fun x => { x with shHit := 0x3FFFFFFF2 }))) →
    s.out = [.host 0 (.cmpData 0 stOK 0 false false 4 0xFFFFFFF2)] ∧ (run (.counterLoRead { master := 0, off := 0x150084 }) (s.modSl 5 (fun x => { x with shHit := 0x400000001 }))).out.drop 1 =
      [.host 0 (.cmpData 0 stOK 0 false false 4 3)] := by rintro s rfl; decide +kernel

/-- 11_register_behaviour_and_map.md: IND_DATA reads AON_HELDCNT at offset 4, and the address steps by 4. -/
theorem test_indirect_read : ∀ s : State, s = run (.indDataRead { master := 0 }) { up with aon := { up.aon with heldCnt := 0x11 }, gen := { up.gen with ind := up.gen.ind.set 0 { addr := 4 } } } →
    s.out = [.host 0 (.cmpData 0 stOK 0 false false 4 0x11)] ∧ s.gen.ind[0].addr = 8 := by rintro s rfl; decide +kernel

/-- 13_peat_capture_and_limits.md, reading after the ring has wrapped. -/
theorem test_peat_oldest : ∀ x : Peat, x = { base.peat with next := 0x14A07, wraps := true } → x.oldest = 0x10A07 ∧ x.first 0xF000 = some 0x10A07 := by rintro x rfl; decide

/-- PEAT_READ of a ring that holds nothing is answered OK with no record, and with the sequence of the word (R394). -/
theorem test_peat_read_answer : (((run (.peatRead 0 0) (posted 0x70220007 base)).mb 0).at 0).inAck = 0x22000000 := by decide +kernel

/-- 10_firmware_mailboxes_and_events.md: the interim acknowledge of FLUSH_RANGE with sequence 0x15. -/
theorem test_flush_interim : (((run (.flushRange 0 0) (range 0x20150000)).mb 0).at 0).inAck = 0x15060000 ∧
    (((run (.flushRange 0 0) (range 0x20150000)).mb 0).at 0).full = false := by decide +kernel

/-! ### One step of a command on a small state -/

/-- A miss asks the home with RdS (R133). -/
theorem test_miss_asks_the_home : ((run (.rdshared { port := 0, etag := 5, addr := ga }) (idle up)).out.map (fun o => match o with | .msg k m => (k, m.laddr) | _ => (.putS, 0))) = [(.rdS, la)] := by decide +kernel
/-- A store that crosses no line and hits an E line makes it M (R117). -/
theorem test_store_makes_dirty : ((run (.write { port := 0, addr := ga, len := 8, data := 0x1122 }) (held lword (idle up))).sl sn).word lset 2 = { lword with st := .M } := by decide +kernel
/-- ADD of 5 to the line's 0x77 answers the old value (R199). -/
theorem test_atomic_add : (run (.atomic { port := 0, addr := ga, len := 8, data := 5 }) (held lword (idle up))).out = [.host 0 (.cmpData 0 stOK 0 false false 8 0x77)] ∧
    (spGet {} ((run (.atomic { port := 0, addr := ga, len := 8, data := 5 }) (held lword (idle up))).sl sn).slots (slotKey lset 2)).data = 0x7C := by decide +kernel
/-- A conditional store without its reservation fails (R214, R215). -/
theorem test_conditional_store_fails : ((run (.condstore { port := 0, addr := ga, len := 8 }) (held lword (idle up))).hp 0).cstFail = 1 := by decide +kernel
/-- An unheld line is granted DataE with the record E1 (R140). -/
theorem test_home_grants : ((run (.rdx msg) (recorded {} base)).out.map (fun o => match o with | .msg k m => (k, m.dst) | _ => (.putS, 0))) = [(.dataE, n1)] := by decide +kernel
/-- An Inv empties the way and is answered InvAck (R138). -/
theorem test_inv_empties : (((run (.inv toSlice) (held { lword with st := .S } (idle up))).sl sn).word lset 2).st = .I := by decide +kernel
/-- A link that leaves L0 is counted and loses its reservations (R297). -/
theorem test_port_down_clears : ((run (.ltssmExit 0) (up.modHp 0 (fun h => { h with rsv := [(3, la)] }))).hp 0).rsv = [] ∧ ((run (.ltssmExit 0) up).hp 0).down = 1 := by decide +kernel
/-- The key opens with 0x7A3C only (R414). -/
theorem test_key : keyOpen (run (.genUnlock (wr 0x7A3C)) up) 0 = true ∧ keyOpen (run (.genUnlock (wr 0x7A3D)) keyed) 0 = false := by decide +kernel
/-- PING is answered OK with its argument (R394). -/
theorem test_ping_answer : (((run (.ping 0 0) (posted 0x01770123 base)).mb 0).at 0).inAck = 0x77000123 := by decide +kernel
/-- The IDCODE instruction loads the instruction register (R491). -/
theorem test_idcode : (run .idcode base).tap.ir = 0x02 ∧ (run (.bypass true) base).tap.bypass = true := by decide
/-- Power-on leaves the start to PWR_OK (R464). -/
theorem test_start : (run (.pwrOk true) State.reset).crp.phase = .pll ∧ (run .pllLock (run (.pwrOk true) State.reset)).crp.phase = .fuses := by decide +kernel

/-! ### Further states that meet hypotheses -/

theorem test_at_home_owner : ∀ (s : State) (r : DirRec), r = { st := .E1, holders := [memOf n1], des := some (memOf n1), own := true, osn := 4 } → s = recorded r base →
    AtHome s { msg with osn := 4 } 0 ⟨dirTag (frameOf s la), r, false⟩ ∧ s.good ∧ r.names (memOf msg.src) = true ∧ r.st ≠ .QU := by
  rintro s r rfl rfl
  refine ⟨⟨⟨?_, ?_, ?_, ?_, ?_, ?_, ?_, ?_, ?_⟩, ?_, ?_, ?_, ?_⟩, ⟨?_, ?_⟩, ?_, ?_⟩ <;> decide +kernel

theorem test_claims : ∀ (x : HTxn) (c : Claim), c = ⟨n1, 2, 0, false⟩ → x = { num := 3, line := la, claim := some c } → (opened x).home.tt = [x] ∧ x.num = (3 : BitVec 12).toNat ∧
    x.claim = some c ∧ x.pend = none ∧ ({ x with pend := some c } : HTxn).pend = some c ∧ (opened x).home.tablePend = none := by rintro x c rfl rfl; decide +kernel

theorem test_pins_sampled : ({ State.reset.pins with resetN := false } : Pins).resetN = false ∧ (List.replicate 3 true).length = 3 := by decide

theorem test_one_line : domOf (lineHome lineA) = domOf (lineHome lineB) ∧ sliceOf lineA ≠ sliceOf lineB ∧ tagOf lineA ≠ tagOf lineB := by decide

theorem test_quiet_answer_missing : ∃ x ∈ [({ member := 1, quiet := false, dead := [] } : QuietAnswer)], x.quiet = false := by decide

/-- RSP stands above every host, HOSTC at 5 above HOSTU at 3, and a walk 15 decisions after the last is alone (R265, R268, R280). -/
theorem test_arbiter_grants :
    let c : List Cand := [⟨.hostU, 1, 0⟩, ⟨.walk, 0, 0⟩, ⟨.hostC, 2, 0⟩]
    let x := base.arbiter 0
    base.arb.choose x c = some ⟨.hostC, 2, 0⟩ ∧ base.arb.choose x (c ++ [⟨.fwd, 0, 0⟩]) = some ⟨.fwd, 0, 0⟩ ∧
      base.arb.choose x (c ++ [⟨.fwd, 0, 0⟩, ⟨.rsp, 0, 0⟩]) = some ⟨.rsp, 0, 0⟩ ∧ base.arb.choose x [⟨.walk, 0, 0⟩] = some ⟨.walk, 0, 0⟩ ∧
      base.arb.choose { x with gap := 3 } [⟨.walk, 0, 0⟩] = none ∧ x.burst = none ∧ base.arb.agedDue x = false := by decide +kernel

/-- Of packets that wait, one of VC4 goes before one of VC5 unless VC5 is owed its flit, and without credits none goes (R302, R304). -/
theorem test_packets_picked :
    let z (c : BitVec 3) : TxPkt := ⟨{ cls := c, dl := false, dst := 1, src := 0, len := 6 }, none, false, .tdo [true], 0⟩
    let q := { FPort.reset 1 with link := .up, txq := [z 5, z 4] }
    q.pick false = some (z 4) ∧ q.pick true = some (z 5) ∧ (q.takePkt (z 4)).txq = [z 5] ∧ q.passes 10 = true ∧ q.nextOf 10 = some (z 5) ∧
      q.canSend (z 5) = true ∧ { q with credits := Vector.replicate 12 0, pool := 2 }.pick false = none := by decide +kernel

end Sys2Proof.Tests
end

section
/-! PROOFS. The fields of node IDs and line addresses, and the words they give back (R17, R18, R30, R31). -/

set_option Elab.async false

namespace Sys2Proof.Machine

/-! ### Fields of a word -/

theorem fld_self {w : Nat} (x : BitVec w) : fld x 0 w = x := BitVec.extractLsb'_eq_self

theorem fld_fld {w : Nat} (x : BitVec w) {lo n k m : Nat} (h : k + m ≤ n) : fld (fld x lo n) k m = fld x (lo + k) m := by
  ext i hi
  simp [fld, show k + i < n by omega, Nat.add_assoc]

theorem fld_append_low {v w : Nat} (x : BitVec v) (y : BitVec w) {lo n : Nat} (h : lo + n ≤ w) : fld (x ++ y) lo n = fld y lo n :=
  BitVec.extractLsb'_append_eq_of_add_le h

theorem fld_append_high {v w : Nat} (x : BitVec v) (y : BitVec w) {lo n : Nat} (h : w ≤ lo) : fld (x ++ y) lo n = fld x (lo - w) n :=
  BitVec.extractLsb'_append_eq_of_le h

/-- Two fields side by side are one. -/
theorem fld_append_fld {w : Nat} (x : BitVec w) {lo hi m n : Nat} (h : hi = lo + n) : fld x hi m ++ fld x lo n = fld x lo (m + n) :=
  BitVec.extractLsb'_append_extractLsb'_eq_extractLsb' h

/-- The three fields of a word of three equal parts. -/
theorem fld_parts {k : Nat} (a b c : BitVec k) :
    fld (a ++ b ++ c) (k + k) k = a ∧ fld (a ++ b ++ c) k k = b ∧ fld (a ++ b ++ c) 0 k = c := by
  refine ⟨?_, ?_, ?_⟩
  · rw [fld_append_high _ _ (by omega), fld_append_high _ _ (by omega), show k + k - k - k = 0 by omega, fld_self]
  · rw [fld_append_high _ _ (by omega), fld_append_low _ _ (by omega), show k - k = 0 by omega, fld_self]
  · rw [fld_append_low _ _ (by omega), fld_self]

/-- A word of three equal parts is its fields. -/
theorem parts_eq {k : Nat} (x : BitVec (k + k + k)) : fld x (k + k) k ++ fld x k k ++ fld x 0 k = x := by
  rw [fld_append_fld x rfl, fld_append_fld x (Nat.zero_add k).symm, fld_self]

/-! ### Node IDs (R17) -/

/-- The fields of a node ID that its domain and its member number are made of. -/
theorem nodeOf_fields (d : BitVec 6) (m : Member) :
    (fld (nodeOf d m) 16 2 = fld d 4 2 ∧ fld (nodeOf d m) 10 2 = fld d 2 2 ∧ fld (nodeOf d m) 4 2 = fld d 0 2) ∧
    fld (nodeOf d m) 12 4 = fld m 8 4 ∧ fld (nodeOf d m) 6 4 = fld m 4 4 ∧ fld (nodeOf d m) 0 4 = fld m 0 4 := by
  unfold nodeOf
  refine ⟨⟨?_, ?_, ?_⟩, ?_, ?_, ?_⟩
  · iterate 5 rw [fld_append_high _ _ (by decide)]
    exact fld_self _
  · iterate 3 rw [fld_append_high _ _ (by decide)]
    rw [fld_append_low _ _ (by decide)]; exact fld_self _
  · rw [fld_append_high _ _ (by decide), fld_append_low _ _ (by decide)]; exact fld_self _
  · iterate 4 rw [fld_append_high _ _ (by decide)]
    rw [fld_append_low _ _ (by decide)]; exact fld_self _
  · iterate 2 rw [fld_append_high _ _ (by decide)]
    rw [fld_append_low _ _ (by decide)]; exact fld_self _
  · rw [fld_append_low _ _ (by decide)]; exact fld_self _

theorem domOf_nodeOf (d : BitVec 6) (m : Member) : domOf (nodeOf d m) = d := by
  obtain ⟨⟨h2, h1, h0⟩, -⟩ := nodeOf_fields d m
  rw [domOf, h2, h1, h0]
  exact parts_eq (k := 2) d

theorem memOf_nodeOf (d : BitVec 6) (m : Member) : memOf (nodeOf d m) = m := by
  obtain ⟨-, h2, h1, h0⟩ := nodeOf_fields d m
  rw [memOf, h2, h1, h0]
  exact parts_eq (k := 4) m

theorem domOf_fields (n : NodeId) : fld (domOf n) 4 2 = fld n 16 2 ∧ fld (domOf n) 2 2 = fld n 10 2 ∧ fld (domOf n) 0 2 = fld n 4 2 :=
  fld_parts (k := 2) _ _ _

theorem memOf_fields (n : NodeId) : fld (memOf n) 8 4 = fld n 12 4 ∧ fld (memOf n) 4 4 = fld n 6 4 ∧ fld (memOf n) 0 4 = fld n 0 4 :=
  fld_parts (k := 4) _ _ _

theorem nodeOf_domOf_memOf (n : NodeId) : nodeOf (domOf n) (memOf n) = n := by
  obtain ⟨d2, d1, d0⟩ := domOf_fields n
  obtain ⟨m2, m1, m0⟩ := memOf_fields n
  have h1 : fld n 16 2 ++ fld n 12 4 ++ fld n 10 2 = fld n 10 8 := by
    rw [fld_append_fld n (hi := 16) (lo := 12) rfl]; exact fld_append_fld n rfl
  have h0 : fld n 10 8 ++ fld n 6 4 ++ fld n 4 2 = fld n 4 14 := by
    rw [fld_append_fld n (hi := 10) (lo := 6) rfl]; exact fld_append_fld n rfl
  rw [nodeOf, d2, d1, d0, m2, m1, m0, h1, h0]
  exact (fld_append_fld n rfl).trans (fld_self n)

/-! ### Lines (R18, R30, R31) -/

/-- The XOR of the ten fields of three bits above the lowest of a domain-local line, which R30 adds to the lowest. -/
def sliceHash (x : BitVec 30) : BitVec 3 :=
  fld x 0 3 ^^^ fld x 3 3 ^^^ fld x 6 3 ^^^ fld x 9 3 ^^^ fld x 12 3 ^^^ fld x 15 3 ^^^ fld x 18 3 ^^^ fld x 21 3 ^^^ fld x 24 3 ^^^ fld x 27 3

theorem lineHome_append_low (l : LAddr) : lineHome l ++ fld l 0 34 = l :=
  (fld_append_fld l rfl).trans (fld_self l)

theorem dlaLine_low (l : LAddr) : fld (dlaLine l) 0 34 = fld l 0 34 :=
  (fld_append_low (memOf (lineHome l)) (fld l 0 34) (by decide)).trans (fld_self _)

theorem dlaLine_member (l : LAddr) : fld (dlaLine l) 34 12 = memOf (lineHome l) :=
  (fld_append_high (memOf (lineHome l)) (fld l 0 34) (by decide)).trans (fld_self _)

theorem tagOf_fld (l : LAddr) {k m : Nat} (h : k + m ≤ 20) : fld (tagOf l) k m = fld (dlaLine l) (26 + k) m := fld_fld _ h

/-- The set index gives the bits of the line it is formed of, the tag known. -/
theorem setOf_xor_tag (l : LAddr) : setOf l ^^^ (fld (tagOf l) 0 7).setWidth 23 = fld (dlaLine l) 3 23 := by
  rw [tagOf_fld l (by decide), setOf, BitVec.xor_assoc, BitVec.xor_self, BitVec.xor_zero]

theorem sliceOf_bits (l : LAddr) : BitVec.ofNat 3 (sliceOf l).val = fld (dlaLine l) 0 3 ^^^ sliceHash (fld (dlaLine l) 3 30) := by
  have h : (sliceOf l).val = (fld (dlaLine l) 0 3 ^^^ sliceHash (fld (dlaLine l) 3 30)).toNat := by
    simp (disch := decide) only [sliceHash, fld_fld, ← BitVec.xor_assoc]; rfl
  rw [h, BitVec.ofNat_toNat, BitVec.setWidth_eq]

theorem lineBack_fields (l : LAddr) : lineBack (domOf (lineHome l)) (sliceOf l) (setOf l) (tagOf l) = l := by
  have hup : fld (tagOf l) 0 7 ++ fld (dlaLine l) 3 23 = fld (dlaLine l) 3 30 := by
    rw [tagOf_fld l (by decide)]; exact fld_append_fld _ rfl
  have hlow : BitVec.ofNat 3 (sliceOf l).val ^^^ sliceHash (fld (dlaLine l) 3 30) = fld (dlaLine l) 0 3 := by
    rw [sliceOf_bits, BitVec.xor_assoc, BitVec.xor_self, BitVec.xor_zero]
  have hnode : nodeOf (domOf (lineHome l)) (fld (tagOf l) 8 12) = lineHome l := by
    rw [tagOf_fld l (by decide), dlaLine_member, nodeOf_domOf_memOf]
  have hoff : fld (tagOf l) 0 8 ++ fld (dlaLine l) 3 23 ++ fld (dlaLine l) 0 3 = fld l 0 34 := by
    rw [tagOf_fld l (by decide), fld_append_fld (dlaLine l) (hi := 26) (lo := 3) rfl]
    exact (fld_append_fld _ rfl).trans (dlaLine_low l)
  calc lineBack (domOf (lineHome l)) (sliceOf l) (setOf l) (tagOf l)
      = nodeOf (domOf (lineHome l)) (fld (tagOf l) 8 12) ++ (fld (tagOf l) 0 8 ++ fld (dlaLine l) 3 23 ++
          (BitVec.ofNat 3 (sliceOf l).val ^^^ sliceHash (fld (tagOf l) 0 7 ++ fld (dlaLine l) 3 23))) := by
        rw [← setOf_xor_tag]; rfl
    _ = lineHome l ++ fld l 0 34 := by rw [hup, hlow, hnode, hoff]
    _ = l := lineHome_append_low l

/-- A field of a domain-local address above its byte offset is a field of its line. -/
theorem fld_dlaLine_bytes (l : LAddr) {lo n : Nat} (h : 6 ≤ lo) :
    fld ((dlaLine l ++ (0 : BitVec 6) : BitVec 52)) lo n = fld (dlaLine l) (lo - 6) n := fld_append_high _ _ h

/-- Settles O57: slice, set index and tag are the fields R30 and R31 name, and `lineBack` undoes them. -/
theorem nodeAndLineNumbersDivide : Obligations.NodeAndLineNumbersDivide := by
  refine ⟨fun n => ⟨rfl, rfl, nodeOf_domOf_memOf n⟩, fun d m => ⟨domOf_nodeOf d m, memOf_nodeOf d m⟩, fun l a ha => ?_,
    fun l k hd hs hi ht => ?_⟩
  · have hf : ∀ lo n : Nat, 6 ≤ lo → fld a lo n = fld (dlaLine l) (lo - 6) n := fun lo n h => by rw [ha]; exact fld_dlaLine_bytes l h
    refine ⟨?_, ?_, ?_, lineBack_fields l⟩
    · rw [hf _ _ (by decide), hf _ _ (by decide)]; rfl
    · rw [hf _ _ (by decide)]; rfl
    · simp only [hf, Nat.reduceLeDiff]; rfl
  · rw [← lineBack_fields l, ← lineBack_fields k, hd, hs, hi, ht]
end Sys2Proof.Machine
end

section
/-! PROOFS. The configuration of a CXL host port: what reaches its host, what an event leaves of the decoders and the slices, and MSI-X (R22, R123, R289, R403). -/

set_option Elab.async false

namespace Sys2Proof.Machine

/-! ### Messages to a host -/

theorem State.setHp_setHp (s : State) (p : Port) (h k : HPort) : (s.setHp p h).setHp p k = s.setHp p k := by
  simp [State.setHp]

theorem State.modHp_modHp (s : State) (p : Port) (f g : HPort → HPort) : (s.modHp p f).modHp p g = s.modHp p (fun h => g (f h)) := by
  rw [State.modHp, State.modHp_hp, State.modHp, State.setHp_setHp, State.modHp]

theorem State.emit_modHp (s : State) (p : Port) (o : Out) (f : HPort → HPort) : (s.emit o).modHp p f = (s.modHp p f).emit o := rfl

theorem toHost_of_up {s : State} {p : Port} (h : (s.hp p).link = .up) (m : ToHost) : toHost p m s = s.emit (.host p m) := by
  simp [toHost, h]

theorem toHost_of_recovery {s : State} {p : Port} (h : (s.hp p).link = .recovery) (m : ToHost) :
    toHost p m s = s.modHp p (fun x => { x with heldOut := x.heldOut ++ [m] }) := by
  simp [toHost, h, State.modHp]

theorem link_of_cxl {h : HPort} (hc : h.cxl = true) : h.link = .up ∨ h.link = .recovery := by
  simp only [HPort.cxl, HPort.linkUp, Bool.and_eq_true, Bool.or_eq_true, decide_eq_true_eq] at hc
  exact hc.2

theorem proto_of_cxl {h : HPort} (hc : h.cxl = true) : h.proto = true := by
  simp only [HPort.cxl, Bool.and_eq_true] at hc
  exact hc.1

/-! ### What an event leaves alone -/

/-- From state s to state t the slices and every port's HDM decoders stay as they are. -/
structure DecodersKept (s t : State) : Prop where
  slices : t.slices = s.slices
  hdm    : ∀ q : Port, (t.hp q).hdm = (s.hp q).hdm

theorem DecodersKept.refl (s : State) : DecodersKept s s := ⟨rfl, fun _ => rfl⟩

theorem DecodersKept.trans {a b c : State} (h : DecodersKept a b) (g : DecodersKept b c) : DecodersKept a c :=
  ⟨g.slices.trans h.slices, fun q => (g.hdm q).trans (h.hdm q)⟩

theorem DecodersKept.each {α : Type} {f : State → α → State} (hf : ∀ s x, DecodersKept s (f s x)) (l : List α) (s : State) :
    DecodersKept s (s.each l f) := by
  induction l generalizing s with
  | nil => exact .refl s
  | cons x l ih => exact (hf s x).trans (ih (f s x))

/-- A change of a port that keeps its decoders. -/
theorem modHp_decodersKept (p : Port) {f : HPort → HPort} (hf : ∀ h, (f h).hdm = h.hdm) (s : State) : DecodersKept s (s.modHp p f) := by
  refine ⟨rfl, fun q => ?_⟩
  by_cases e : q = p
  · subst e; simp [hf]
  · rw [State.modHp_hp_other _ _ e]

theorem toHost_decodersKept (p : Port) (m : ToHost) (s : State) : DecodersKept s (toHost p m s) := by
  cases h : (s.hp p).link with
  | up => rw [toHost_of_up h]; exact ⟨rfl, fun _ => rfl⟩
  | recovery => rw [toHost_of_recovery h]; exact modHp_decodersKept p (fun _ => by rfl) s
  | down | training | downBusy => simpa [toHost, h] using DecodersKept.refl s

theorem msixCheck_decodersKept (p : Port) (s : State) : DecodersKept s (msixCheck p s) := by
  unfold msixCheck
  extract_lets h l s1
  have h1 : DecodersKept s s1 := by
    unfold s1
    split
    · exact toHost_decodersKept p .msix s
    · exact .refl s
  split
  · exact h1.trans (modHp_decodersKept p (fun _ => by rfl) s1)
  · exact .refl s

theorem freezeOnEvent_decodersKept (code : Byte) (s : State) : DecodersKept s (freezeOnEvent code s) := by
  unfold freezeOnEvent freezeDie
  dsimp only
  split
  · split
    · exact .refl s
    · exact ⟨rfl, fun _ => rfl⟩
  · exact .refl s

theorem postTo_decodersKept (p : Port) (code : Byte) (cls : Nat) (pl : List W64) (s : State) : DecodersKept s (postTo p code cls pl s) := by
  unfold postTo
  split
  · refine DecodersKept.trans ?_ (msixCheck_decodersKept p _)
    exact ⟨rfl, fun _ => rfl⟩
  · exact .refl s

theorem postEvent_decodersKept (code : Byte) (cls : Nat) (pl : List W64) (s : State) : DecodersKept s (postEvent code cls pl s) :=
  (DecodersKept.each (fun s p => postTo_decodersKept p code cls pl s) ports s).trans (freezeOnEvent_decodersKept code _)

/-! ### The commit of a decoder (R22) -/

/-- Every address of a decoder's range is homed in the device's own domain, or there is none. -/
def InDomain (s : State) (base size : W64) : Prop :=
  size = 0 ∨ (base.toNat + size.toNat ≤ 2 ^ 58 ∧ domOf (homeOf (base.setWidth 58)) = domOf s.node.node ∧
    base.toNat / 2 ^ 44 = (base.toNat + size.toNat - 1) / 2 ^ 44)

theorem hdmCommit_of_inDomain {s : State} {base size : W64} (h : InDomain s base size) (p : Port) (d : Fin 4) :
    hdmCommit p d base size s = s.setHp p { s.hp p with hdm := (s.hp p).hdm.set d.val ⟨base, size, true, true, false⟩ d.isLt } := by
  unfold hdmCommit
  extract_lets x last ok s1
  have hok : ok = true := by
    simp only [ok, Bool.or_eq_true, Bool.and_eq_true, decide_eq_true_eq]
    exact h.imp_right fun ⟨hr, hd, hq⟩ => ⟨⟨by omega, hd⟩, hq⟩
  rw [if_pos hok]
  simp only [s1, hok, Bool.not_true]
  rfl

/-- A range that begins in another domain is refused, with the event of an address error. -/
theorem hdmCommit_of_other_domain {s : State} {base size : W64} (h0 : size ≠ 0) (h : domOf (homeOf (base.setWidth 58)) ≠ domOf s.node.node)
    (p : Port) (d : Fin 4) : hdmCommit p d base size s = postEvent 0x43 4 [base, BitVec.ofNat 64 p.val]
      (s.setHp p { s.hp p with hdm := (s.hp p).hdm.set d.val ⟨base, size, true, false, true⟩ d.isLt }) := by
  unfold hdmCommit
  extract_lets x last ok s1
  have hok : ok = false := by simp only [ok, decide_eq_false h0, decide_eq_false h, Bool.and_false, Bool.false_and, Bool.or_false]
  rw [if_neg (by simp [hok])]
  simp only [s1, hok, Bool.not_false]
  rfl

/-! ### MSI-X (R403) -/

/-- With MSI-X on, the check notes whether a cause is live; a message goes to the host where none was live before. -/
theorem msixCheck_of_on {s : State} {p : Port} (hp : (s.hp p).proto = true) (hm : (s.hp p).msix = true) :
    msixCheck p s = (if irqLive s p && !(s.hp p).msixLive then toHost p .msix s else s).modHp p (fun h => { h with msixLive := irqLive s p }) := by
  simp [msixCheck, hp, hm]

/-- The port after a change of what is no cause of an interrupt has the same live causes. -/
theorem irqLive_modHp (s : State) (p q : Port) (f : HPort → HPort) : irqLive (s.modHp p f) q = irqLive s q := rfl

/-- What the enabling of MSI-X makes of the state. -/
def msixOn (p : Port) (s : State) : State := msixCheck p (s.modHp p (fun h => { h with msix := true }))

section
variable {s : State} {p : Port}

theorem msixOn_eq (hp : (s.hp p).proto = true) : msixOn p s =
    (if irqLive s p && !(s.hp p).msixLive then toHost p .msix (s.modHp p (fun h => { h with msix := true }))
      else s.modHp p (fun h => { h with msix := true })).modHp p (fun h => { h with msixLive := irqLive s p }) := by
  rw [msixOn, msixCheck_of_on (by rw [State.modHp_hp]; exact hp) (by rw [State.modHp_hp]), irqLive_modHp, State.modHp_hp]

theorem msixOn_of_no_rise (hp : (s.hp p).proto = true) (h : irqLive s p = false ∨ (s.hp p).msixLive = true) :
    msixOn p s = s.setHp p { s.hp p with msix := true, msixLive := irqLive s p } := by
  rw [msixOn_eq hp, if_neg (by rcases h with h | h <;> simp [h]), State.modHp_modHp, State.modHp]

theorem msixOn_of_rise_up (hp : (s.hp p).proto = true) (h : irqLive s p = true) (h0 : (s.hp p).msixLive = false) (hl : (s.hp p).link = .up) :
    msixOn p s = (s.setHp p { s.hp p with msix := true, msixLive := irqLive s p }).emit (.host p .msix) := by
  rw [msixOn_eq hp, if_pos (by simp [h, h0]), toHost_of_up (by rw [State.modHp_hp]; exact hl), State.emit_modHp, State.modHp_modHp, State.modHp]

theorem msixOn_of_rise_recovery (hp : (s.hp p).proto = true) (h : irqLive s p = true) (h0 : (s.hp p).msixLive = false)
    (hl : (s.hp p).link = .recovery) :
    msixOn p s = s.setHp p { s.hp p with msix := true, msixLive := irqLive s p, heldOut := (s.hp p).heldOut ++ [.msix] } := by
  rw [msixOn_eq hp, if_pos (by simp [h, h0]), toHost_of_recovery (by rw [State.modHp_hp]; exact hl), State.modHp_modHp, State.modHp_modHp, State.modHp]

/-- MSI-X of a CXL port is on, and its first message has left, or waits for the end of Recovery, where a cause has become live. -/
theorem msixOn_spec (hc : (s.hp p).cxl = true) :
    msixOn p s = { s.setHp p { s.hp p with msix := true, msixLive := irqLive s p, heldOut := ((msixOn p s).hp p).heldOut } with out := (msixOn p s).out } ∧
    (irqLive s p = false ∨ (s.hp p).msixLive = true → (msixOn p s).out = s.out ∧ ((msixOn p s).hp p).heldOut = (s.hp p).heldOut) ∧
    (irqLive s p = true → (s.hp p).msixLive = false → (s.hp p).link = .up →
      (msixOn p s).out = s.out ++ [.host p .msix] ∧ ((msixOn p s).hp p).heldOut = (s.hp p).heldOut) ∧
    (irqLive s p = true → (s.hp p).msixLive = false → (s.hp p).link = .recovery →
      (msixOn p s).out = s.out ∧ ((msixOn p s).hp p).heldOut = (s.hp p).heldOut ++ [.msix]) := by
  have hp := proto_of_cxl hc
  by_cases h : irqLive s p = false ∨ (s.hp p).msixLive = true
  · rw [msixOn_of_no_rise hp h]
    refine ⟨by rw [State.setHp_hp], fun _ => ⟨rfl, by rw [State.setHp_hp]⟩, fun h1 h0 => ?_, fun h1 h0 => ?_⟩ <;> simp [h1, h0] at h
  · obtain ⟨h1, h0⟩ : irqLive s p = true ∧ (s.hp p).msixLive = false := by simpa using h
    rcases link_of_cxl hc with hl | hl
    · rw [msixOn_of_rise_up hp h1 h0 hl]
      rw [State.emit_hp, State.setHp_hp]
      exact ⟨rfl, fun h' => absurd h' h, fun _ _ _ => ⟨rfl, rfl⟩, fun _ _ hr => by simp [hl] at hr⟩
    · rw [msixOn_of_rise_recovery hp h1 h0 hl]
      rw [State.setHp_hp]
      exact ⟨rfl, fun h' => absurd h' h, fun _ _ hu => by simp [hl] at hu, fun _ _ _ => ⟨rfl, rfl⟩⟩

end

/-! ### The commands of a host's configuration -/

section
variable {s : State} (hk : s.clk = true) (p : Port)
include hk

theorem exec_backInvalidationEnable : exec (.backInvalidationEnable p) s =
    .next (if (s.hp p).cxl then s.modHp p (fun h => { h with biEn := true }) else s) := onClock_run hk _

theorem exec_msiXEnable : exec (.msiXEnable p) s = .next (if (s.hp p).cxl then msixOn p s else s) := onClock_run hk _

theorem exec_hdmDecoderCommit (d : Fin 4) (base size : W64) : exec (.hdmDecoderCommit p d base size) s =
    .next (if (s.hp p).cxl then hdmCommit p d base size s else s) := onClock_run hk _

end

/-- Settles O25: each command is a change of the port where its link is up in CXL mode, and none elsewhere. -/
theorem cxlHostConfigures : Obligations.CxlHostConfigures := by
  intro s p d base size hk
  rw [exec_backInvalidationEnable hk, exec_msiXEnable hk, exec_hdmDecoderCommit hk]
  refine ⟨fun hc => ?_, fun hc => by simp [hc]⟩
  simp only [hc, if_true]
  refine ⟨rfl, ⟨_, rfl, msixOn_spec hc⟩, fun h => by rw [hdmCommit_of_inDomain h], fun h0 hd => ⟨_, rfl, ?_, ?_, ?_⟩⟩
  · rw [hdmCommit_of_other_domain h0 hd, (postEvent_decodersKept _ _ _ _).hdm, State.setHp_hp]
  · rw [hdmCommit_of_other_domain h0 hd, (postEvent_decodersKept _ _ _ _).slices, State.setHp_slices]
  · exact hdmCommit_homeKept p d base size s (.refl s)

end Sys2Proof.Machine
end

section
/-! PROOFS. A far read of a slice whose transaction table is full of waiting requests (R20, R495). -/

set_option Elab.async false

namespace Sys2Proof.Machine

/-- A request for a line of the device itself, which waits in its slice. -/
def waitingRead : Req := { port := 1, etag := 0, op := .rdShared }

/-- An idle device of a torus of 64 x 4 x 4 where 512 requests wait in the transaction table of each slice, as they do until they are resumed
after what held them back has ended (R495). -/
def tablesFull : State := { State.reset with
  crp := { State.reset.crp with pllLock := true }
  node := { State.reset.node with xsz := 63, ysz := 3, zsz := 3 }
  hports := Vector.replicate 4 { HPort.reset with link := .up, admOpen := true, pfCtl := 0 }
  slices := Vector.replicate 8 { Slice.reset with waiters := List.replicate 512 waitingRead } }

/-- A shared read of a line whose home is in another domain. -/
def farRead : EMsg := { port := 0, addr := 0x100000000000040 }

theorem tablesFull_idle : Idle tablesFull farRead.port false := by constructor <;> decide +kernel

theorem tablesFull_reachable : Reachable tablesFull (lineOf farRead.addr) := by constructor <;> decide +kernel

theorem farRead_far : isFar tablesFull (lineOf farRead.addr) = true := by decide +kernel

/-- The transactions a command leaves in a slice. -/
def sttAfter (c : Instr) (s : State) (i : SliceNo) : List STxn :=
  match exec c s with
  | .next t => (t.sl i).stt
  | .fault _ | .refused _ => []

theorem sttAfter_of_next {c : Instr} {s t : State} (h : exec c s = .next t) (i : SliceNo) : sttAfter c s i = (t.sl i).stt := by
  rw [sttAfter, h]

/-- No entry is free for the read, and it opens no transaction: it waits in the queue of its port (R495). -/
theorem farRead_opens_nothing : sttAfter (.rdshared farRead) tablesFull (sliceOf (lineOf farRead.addr)) = [] := by decide +kernel

/-- Refutes O27: `Idle` leaves the requests that wait in a slice open, and with 512 of them a far read finds no entry of the transaction
table, so that it waits in its port and no RdU leaves. -/
theorem not_farAccessesAskTheHomeOrAreBuffered : ¬ Obligations.FarAccessesAskTheHomeOrAreBuffered := by
  intro h
  obtain ⟨hreads, -⟩ := h
  obtain ⟨t, x, b, hexec, hstt, -⟩ := hreads tablesFull farRead { port := 0 } (.rdshared farRead) farRead.port farRead.addr false (by simp)
    tablesFull_idle farRead_far tablesFull_reachable nofun nofun nofun
  rw [← sttAfter_of_next hexec, farRead_opens_nothing] at hstt
  exact List.cons_ne_nil x [] hstt.symm

end Sys2Proof.Machine
end

section
/-! PROOFS. The MSI-X message of an event whose host link is in Recovery waits in its port (R289, R403), so that a command which posts an event changes
more of that port than `SamePorts` allows. -/

set_option Elab.async false

namespace Sys2Proof.Machine

/-! ### A device with a host link in Recovery -/

theorem heldOut_of_samePorts {s t : State} (h : SamePorts s t) (q : Port) : (t.hp q).heldOut = (s.hp q).heldOut := by rw [h q]

/-- A CXL port of full width and rate whose link is in Recovery, MSI-X enabled by its host. -/
def recoveringPort : HPort := { HPort.reset with
  linkCtl := .mk1 0x1A, link := .recovery, proto := true, width := 2, rate := true, admOpen := true, msix := true }

/-- A running device with HP0 up in Emhal mode and HP1 in Recovery; one unread word raises the attention of an event queue (THRESH 1). -/
def recoveringHost : State := { State.reset with
  crp := { State.reset.crp with pllLock := true, phase := .running, started := true, powered := true }
  fw := { State.reset.fw with st := .run }
  hports := #v[{ HPort.reset with linkCtl := .mk1 0x19, link := .up, width := 2, rate := true, admOpen := true }, recoveringPort, .reset, .reset]
  evq := Vector.replicate 4 { Evq.reset with ctl := 0xA001 } }

/-- The messages a command leaves held back at a port. -/
def heldAfter (c : Instr) (s : State) (q : Port) : List ToHost :=
  match exec c s with
  | .next t => (t.hp q).heldOut
  | .fault _ | .refused _ => []

/-- A command that leaves another list of messages held back at a port does not leave the ports the same. -/
theorem not_samePorts_of_heldAfter {c : Instr} {s t : State} (he : exec c s = .next t) {q : Port} (hne : heldAfter c s q ≠ (s.hp q).heldOut) :
    ¬ SamePorts s t := by
  intro h
  rw [heldAfter, he] at hne
  exact hne (heldOut_of_samePorts h q)

/-! ### The end of a way's disable clean -/

/-- The device where the clean of way 3 in region 6 of every slice has nothing left. -/
def wayCleaned : State := { recoveringHost with
  slices := Vector.replicate 8 { Slice.reset with walks := [⟨.disable 6 3 0, 0⟩] } }

theorem wayCleaned_walked : Walked wayCleaned 0 (.disable 6 3 0) := by decide +kernel

/-- The event of the disabled way raises the attention of HP1, whose MSI-X message waits for the end of Recovery. -/
theorem wayDisableDone_holds_msix : heldAfter (.wayDisableDone 0 6 3) wayCleaned 1 = [.msix] := by decide +kernel

/-- Refutes O37: the event that WAY_DISABLE_DONE posts may raise MSI-X on a CXL port in Recovery, and the message is then held in that port (R289). -/
theorem not_walksOfTheWaysEnd : ¬ Obligations.WalksOfTheWaysEnd := by
  intro h
  obtain ⟨hdisable, -⟩ := h wayCleaned 0 0 0 (newCmd 0 0 0x31 1 0 wayCleaned) (by decide +kernel)
  obtain ⟨t, he, -, -, -, -, hports⟩ := hdisable 6 3 0 wayCleaned_walked
  exact not_samePorts_of_heldAfter (q := 1) he (by rw [wayDisableDone_holds_msix]; decide) hports

/-! ### The acknowledge of a walk command -/

/-- The device with FLUSH_RANGE posted in mailbox 0 of HP1, its length 0. -/
def emptyRangePosted : State := { recoveringHost with
  mbx := Vector.replicate 4 Mbx.reset |>.set 1 (Mbx.reset.modAt 0 fun x => { x with inW := 0x20550000, full := true }) }

theorem emptyRangePosted_posted : Posted emptyRangePosted 1 0 0x20 0 := by constructor <;> decide +kernel

theorem emptyRangePosted_range : rangeOf emptyRangePosted 1 0 = none := by decide +kernel

/-- The event CMD_DONE of the refused command raises the attention of HP1, whose MSI-X message waits for the end of Recovery. -/
theorem flushRange_holds_msix : heldAfter (.flushRange 1 0) emptyRangePosted 1 = [.msix] := by decide +kernel

/-- Refutes O51: the CMD_DONE of a command answered BADARG may raise MSI-X on its own port while that is in Recovery, and the message is then held
in the port (R289). -/
theorem not_walkCommandsStart : ¬ Obligations.WalkCommandsStart := by
  intro h
  obtain ⟨hrange, -⟩ := h emptyRangePosted 1 0 0x20 0 emptyRangePosted_posted
  obtain ⟨hbad, -⟩ := hrange (.flushRange 1 0) .flush none (.inl ⟨rfl, rfl, rfl, emptyRangePosted_range.symm⟩)
  obtain ⟨t, he, -, -, hmail⟩ := hbad (.inl rfl)
  exact not_samePorts_of_heldAfter (q := 1) he (by rw [flushRange_holds_msix]; decide) hmail.hports

/-! ### A register write out of bounds -/

/-- The device with the key of every master open. -/
def keysOpen : State := { recoveringHost with gen := { recoveringHost.gen with keys := Vector.replicate 5 true } }

/-- A write by the host of HP0 with every LOCK bit set. -/
def lockAllWays : RWr := { master := 0, val := 0x7FFF }

theorem keysOpen_software : Software keysOpen 0 lockAllWays := by refine ⟨⟨?_, ?_⟩, ?_, ?_⟩ <;> decide +kernel

/-- Fifteen locked ways are more than the twelve that R50 allows. -/
theorem lockAllWays_bad : lockBad keysOpen (keysOpen.sl 0) (fld lockAllWays.val 0 15) = true := by decide +kernel

/-- The event CFG_DISCARD of the refused write raises the attention of HP1, whose MSI-X message waits for the end of Recovery. -/
theorem slcWaylockWrite_holds_msix : heldAfter (.slcWaylockWrite 0 lockAllWays) keysOpen 1 = [.msix] := by decide +kernel

/-- Refutes O56: the CFG_DISCARD of a write out of bounds may raise MSI-X on another port that is in Recovery, and the message is then held in that
port (R289). -/
theorem not_controlRegistersWork : ¬ Obligations.ControlRegistersWork := by
  intro h
  obtain ⟨-, -, -, hlock, -⟩ := h keysOpen 0 lockAllWays 0 keysOpen_software
  obtain ⟨t, he, -, -, -, -, hports⟩ := hlock (by decide +kernel) lockAllWays_bad
  exact not_samePorts_of_heldAfter (q := 1) he (by rw [slcWaylockWrite_holds_msix]; decide) hports

end Sys2Proof.Machine
end

section
/-! PROOFS. A policy change that is not answered in time, its port in Recovery (R71, R289). -/

set_option Elab.async false

namespace Sys2Proof.Machine

/-- REGION_SET of mailbox 0 of HP1, which still awaits one member. -/
def policyAsked : PolicyOp := ⟨0, 5, true, [0x01000], 1⟩

/-- The walk command of that REGION_SET. -/
def policyCmd : WalkCmd := newCmd 1 0 0x10 0 0 recoveringHost

/-- The device with HP1 in Recovery while that policy change is under way. -/
def policyPending : State := { recoveringHost with
  mbx := Vector.replicate 4 Mbx.reset |>.set 1 (Mbx.reset.modAt 0 fun x => { x with running := some 0x10550005 })
  fw := { recoveringHost.fw with policy := some policyAsked, walk := some policyCmd } }

theorem policyPending_sends : Sends policyPending := by constructor <;> decide +kernel

/-- The CMD_DONE of the REGION_SET raises the attention of HP1, whose MSI-X message waits for the end of Recovery. -/
theorem regionSetTimeout_holds_msix : heldAfter .regionSetTimeout policyPending 1 = [.msix] := by decide +kernel

/-- Refutes O43: the CMD_DONE of a REGION_SET may raise MSI-X on its own port while that is in Recovery, and the message is then held in the port
(R289). -/
theorem not_regionPoliciesChange : ¬ Obligations.RegionPoliciesChange := by
  intro h
  obtain ⟨-, -, hanswers⟩ := h policyPending 0x01000 1 0 (by decide +kernel) policyPending_sends (by decide +kernel) (by decide +kernel)
  obtain ⟨-, -, t, he, -, -, hmail⟩ := hanswers policyAsked policyCmd (by decide +kernel) rfl rfl rfl
  exact not_samePorts_of_heldAfter (q := 1) he (by rw [regionSetTimeout_holds_msix]; decide) hmail.hports

end Sys2Proof.Machine
end

section
/-! PROOFS. A prefetch hint and a HOLD timer at a full transaction table (R20, R495). -/

set_option Elab.async false

namespace Sys2Proof.Machine

/-- A prefetch hint for a line of this device. -/
def nearHint : EMsg := { port := 0, addr := 0x40 }

/-- The device whose tables are full, with the set of the hinted line in the tag shadow. -/
def tablesFullShadowed : State := tablesFull.modSl (sliceOf (lineOf nearHint.addr)) (fun x => { x with
  shadow := [(shKey (setOf (lineOf nearHint.addr)).toNat, { ents := (Vector.replicate 8 {}).set 0 { valid := true, idx := shTag (setOf (lineOf nearHint.addr)).toNat } })] })

theorem tablesFullShadowed_idle : Idle tablesFullShadowed nearHint.port false := by constructor <;> decide +kernel

theorem tablesFullShadowed_reachable : Reachable tablesFullShadowed (lineOf nearHint.addr) := by constructor <;> decide +kernel

theorem tablesFullShadowed_shadowed : Shadowed (tablesFullShadowed.sl (sliceOf (lineOf nearHint.addr))) (setOf (lineOf nearHint.addr)).toNat := by
  decide +kernel

/-- No entry is free for the prefetch, and it is dropped (R89). -/
theorem nearHint_opens_nothing : sttAfter (.pfhint nearHint) tablesFullShadowed (sliceOf (lineOf nearHint.addr)) = [] := by decide +kernel

/-- Refutes O30: `Idle` leaves the requests that wait in a slice open, and with 512 of them a prefetch hint finds no entry of the transaction table, so
that no Pfq leaves. -/
theorem not_otherHostMessagesAndBarriersComplete : ¬ Obligations.OtherHostMessagesAndBarriersComplete := by
  intro h
  obtain ⟨hhints, -⟩ := h
  obtain ⟨-, hnear⟩ := hhints tablesFullShadowed nearHint _ _ rfl rfl tablesFullShadowed_idle tablesFullShadowed_reachable
  obtain ⟨t, x, e, b, hexec, hstt, -⟩ := hnear (by decide +kernel) (by decide +kernel) (by decide +kernel) (by decide +kernel) (by decide +kernel)
    tablesFullShadowed_shadowed
  rw [← sttAfter_of_next hexec, nearHint_opens_nothing] at hstt
  exact List.cons_ne_nil x [] hstt.symm

/-- A write-merge entry for a line whose home is in another domain. -/
def farEntry : BufEnt := { id := 1, line := lineOf farRead.addr, port := 0, streams := 1, mask := 0xFF, data := 0x55 }

/-- The device whose tables are full, with that entry in its slice. -/
def tablesFullMerging : State := tablesFull.modSl (sliceOf farEntry.line) (fun x => { x with wmb := [farEntry] })

/-- No entry is free for the WrU of the entry, which stays closed until one is. -/
theorem farEntry_opens_nothing : sttAfter (.wmbHoldExpiry (sliceOf farEntry.line) farEntry.id) tablesFullMerging (sliceOf farEntry.line) = [] := by
  decide +kernel

/-- Refutes O36: with 512 requests waiting in a slice an entry whose HOLD is over finds no entry of the transaction table, so that no WrU leaves. -/
theorem not_heldWorkGoesOn : ¬ Obligations.HeldWorkGoesOn := by
  intro h
  obtain ⟨hhold, -⟩ := h tablesFullMerging (sliceOf farEntry.line) farEntry.port farEntry waitingRead 0 {} (by decide +kernel) (by decide +kernel)
    (by decide +kernel) (by decide +kernel) (by decide +kernel) (by decide +kernel)
  obtain ⟨hmerge, -⟩ := hhold rfl rfl rfl farRead_far tablesFull_reachable.home
  obtain ⟨t, y, b, hexec, -, -, -, -, -, -, hstt, -⟩ := hmerge (by decide +kernel) (by decide +kernel) (by decide +kernel)
  rw [← sttAfter_of_next hexec, farEntry_opens_nothing] at hstt
  exact List.cons_ne_nil y [] hstt.symm

end Sys2Proof.Machine
end

section
/-! PROOFS. The input buffer that the answer of a home leaves (R302, R305). -/

set_option Elab.async false

namespace Sys2Proof.Machine

/-- A line written back whose Causeway entry awaits the answer of its home. -/
def writtenBack : CwEnt := { line := 0x40, st := .M, osn := 0, data := 0 }

/-- The WbAck for that line from the neighbour. -/
def writebackDone : BMsg := { src := 0x01000, laddr := writtenBack.line, dstu := 8 }

/-- A device of a torus of two, every link of its fabric up to the neighbour, the Causeway entry in its slice. -/
def writingBack : State := { State.reset with
  crp := { State.reset.crp with pllLock := true }
  node := { State.reset.node with xsz := 1 }
  fports := Vector.replicate 6 { FPort.reset 1 with link := .up, neigh := 0x01000 }
  slices := Vector.replicate 8 { Slice.reset with cw := [writtenBack] } }

theorem writingBack_good : writingBack.good := ⟨by decide +kernel, by decide +kernel⟩

/-- What a command leaves owed to the neighbour of a fabric port. -/
def oweAfter (c : Instr) (s : State) (f : FPortNo) : List (BitVec 4 × Nat) :=
  match exec c s with
  | .next t => (t.fp f).owe
  | .fault _ | .refused _ => []

theorem oweAfter_of_next {c : Instr} {s t : State} (h : exec c s = .next t) (f : FPortNo) : oweAfter c s f = (t.fp f).owe := by
  rw [oweAfter, h]

/-- The buffer of the WbAck is owed to the neighbour. -/
theorem wback_owes : oweAfter (.wback writebackDone) writingBack 1 ≠ (writingBack.fp 1).owe := by decide +kernel

/-- Refutes O34: the answer leaves its input buffer, and the credits for it are owed to the neighbour that sent it (R302), so that more of the state
changes than the Causeway and the arbiter. -/
theorem not_answersReachTheSlice : ¬ Obligations.AnswersReachTheSlice := by
  intro h
  obtain ⟨-, -, -, -, hack⟩ := h writingBack (sliceOfUnit writebackDone.dstu writebackDone.laddr) writebackDone
    { rtid := 0, line := 0, kind := .rdS, dst := 0 } waitingRead 0 {} _ rfl writingBack_good
  obtain ⟨t, he, ht⟩ := hack writtenBack rfl (by decide +kernel) (by decide +kernel) rfl (by decide +kernel) (by decide +kernel) (by decide +kernel) (by decide +kernel)
  refine wback_owes ?_
  rw [oweAfter_of_next he, ht]
  rfl

end Sys2Proof.Machine
end

section
/-! PROOFS. What a reset that loses everything but MRAM and the always-on registers leaves (R101, R455). -/

set_option Elab.async false

namespace Sys2Proof.Machine

/-! ### A cold reset, and the changes of the supplies and pins around it -/

theorem coldReset_coldFrom (kind : BitVec 2) (s : State) : ColdFrom kind s (coldReset kind s) where
  lost := rfl
  fabric := rfl
  slices i := State.map_sl s _ i
  fports f := by simp [State.fp, coldReset, fportsKept]
  integ := rfl
  gen := rfl
  record := rfl
  chains := rfl
  kind := rfl
  out := rfl

theorem supplyRise_coldFrom (s : State) : ColdFrom 0 s (supplyRise s) := { coldReset_coldFrom 0 s with chains := rfl }

theorem railsDown_coldFrom (v : Bool) (s : State) : ColdFrom 1 s (railsDown v s) := by
  cases v
  · exact { coldReset_coldFrom 1 s with chains := rfl }
  · exact { coldReset_coldFrom 1 s with chains := rfl }

/-- With the counts latched, and the cause kept or not, what a reset pin asserts is a cold reset that waits for the pin's release. -/
theorem assertCold_pins_coldFrom (s : State) (x : Pins) : ColdFrom 1 s (assertCold { s with pins := x }) :=
  { coldReset_coldFrom 1 s with chains := rfl }

/-! ### The commands -/

theorem exec_powerOn (s : State) : exec .powerOn s = .next (supplyRise s) := rfl

section
variable {s : State} (hup : s.aon.up = true)
include hup

theorem exec_powerDown (v : Bool) : exec (.powerDown v) s = .next (railsDown v s) := onAon_run hup _

theorem exec_railTrip_vaon : exec (.railTrip true) s = .next (railsDown true s) := onAon_run hup _

theorem exec_resetN : exec .resetN s = .next (assertCold { s with pins := { s.pins with resetN := false } }) :=
  onAon_run hup (fun s => assertCold { s with pins := { s.pins with resetN := false } })

end

/-- Settles O14: each of the four is a cold reset, with the supplies, pins and counts of its own. -/
theorem resetsLoseAllButMramAndAon : Obligations.ResetsLoseAllButMramAndAon := by
  intro s v
  refine ⟨⟨_, exec_powerOn s, supplyRise_coldFrom s, rfl, rfl, rfl, rfl, rfl, rfl, rfl, rfl⟩, fun hup => ⟨_, exec_powerDown hup v, railsDown_coldFrom v s, ?_⟩,
    fun hup => ?_, fun hup => ⟨_, exec_resetN hup, assertCold_pins_coldFrom s _, rfl, rfl, rfl, rfl, rfl, rfl, rfl, rfl⟩⟩
  · cases v
    · exact ⟨rfl, rfl, rfl, rfl, fun _ => ⟨rfl, rfl, rfl⟩, nofun⟩
    · exact ⟨rfl, rfl, rfl, rfl, nofun, fun _ => ⟨rfl, rfl, rfl⟩⟩
  · rw [exec_railTrip_vaon hup, exec_powerDown hup]
    exact ⟨rfl, _, rfl, railsDown_coldFrom true s, rfl, rfl, rfl, rfl, rfl⟩

end Sys2Proof.Machine
end

section
/-! PROOFS. The deadlines of the two drains: what leaves, what is recorded, and what reaches DDR5 (R102, R336, R459, R460, R472, R482). -/

set_option Elab.async false

namespace Sys2Proof.Machine

/-! ### Changes of what leaves, and of the counters -/

theorem sendVc4_eq (f : FPortNo) (m : Vc4) (s : State) : ∃ o : List Out, sendVc4 f m s = { s with out := s.out ++ o } := by
  unfold sendVc4
  split
  · exact ⟨[], by rw [List.append_nil]⟩
  · exact ⟨_, rfl⟩

theorem State.each_out {α : Type} {f : State → α → State} (hf : ∀ s x, ∃ o : List Out, f s x = { s with out := s.out ++ o }) (l : List α) (s : State) :
    ∃ o : List Out, s.each l f = { s with out := s.out ++ o } := by
  induction l generalizing s with
  | nil => exact ⟨[], by rw [List.append_nil]; rfl⟩
  | cons x t ih =>
    obtain ⟨o, ho⟩ := hf s x
    obtain ⟨o', ho'⟩ := ih (f s x)
    refine ⟨o ++ o', ?_⟩
    rw [show s.each (x :: t) f = (f s x).each t f from rfl, ho', ho, List.append_assoc]

/-- A flood changes nothing but what has left the device. -/
theorem flood_eq (but : Option FPortNo) (m : Vc4) (s : State) : ∃ o : List Out, flood but m s = { s with out := s.out ++ o } :=
  State.each_out (fun s f => sendVc4_eq f m s) _ s

/-- A count of the performance counters changes no part but DBG. -/
theorem pmu_eq (ev : Nat) (inst : Option Nat) (s : State) : ∃ d : Dbg, pmu ev inst s = { s with dbg := d } := by
  unfold pmu
  split
  · exact ⟨s.dbg, rfl⟩
  · exact ⟨_, rfl⟩

/-! ### The DRAIN record (R482) -/

/-- A DRAIN record of a cause, with the count of entries left over. -/
structure IsDrain (cause left : Nat) (r : PRec) : Prop where
  type  : r.type = 0x20
  cause : r.cause = BitVec.ofNat 32 cause
  left  : fld r.body 0 32 = BitVec.ofNat 32 left

theorem fld_bodyAt_toNat (b v : Nat) : (fld (bodyAt b v) 0 32).toNat = v * 2 ^ (8 * (b - 24)) % 2 ^ 32 := by
  rw [fld, bodyAt, BitVec.extractLsb'_toNat, Nat.shiftRight_zero, BitVec.toNat_ofNat, Nat.mod_mod_of_dvd _ (Nat.pow_dvd_pow 2 (show 32 ≤ 288 by decide))]

theorem fld_bodyAt_first (v : Nat) : fld (bodyAt 24 v) 0 32 = BitVec.ofNat 32 v := by
  apply BitVec.eq_of_toNat_eq
  rw [fld_bodyAt_toNat, Nat.sub_self, Nat.mul_zero, Nat.pow_zero, Nat.mul_one, BitVec.toNat_ofNat]

/-- A value that begins four bytes later or more leaves the first four bytes 0. -/
theorem fld_bodyAt_later {b : Nat} (hb : 28 ≤ b) (v : Nat) : fld (bodyAt b v) 0 32 = 0 := by
  have hdvd : 2 ^ 32 ∣ v * 2 ^ (8 * (b - 24)) := (Nat.pow_dvd_pow 2 (by omega)).mul_left v
  apply BitVec.eq_of_toNat_eq
  rw [fld_bodyAt_toNat, Nat.mod_eq_zero_of_dvd hdvd]
  rfl

theorem fld_or {w : Nat} (x y : BitVec w) (lo n : Nat) : fld (x ||| y) lo n = fld x lo n ||| fld y lo n := BitVec.extractLsb'_or

theorem drainRec_eq (cause left : Nat) (s : State) : ∃ r : PRec, IsDrain cause left r ∧ drainRec cause left s = peatOwn r s := by
  refine ⟨_, ⟨rfl, rfl, ?_⟩, rfl⟩
  simp only [fld_or, fld_bodyAt_first, fld_bodyAt_later (Nat.le_refl 28), fld_bodyAt_later (show 28 ≤ 32 by decide), fld_bodyAt_later (show 28 ≤ 33 by decide),
    show ∀ x : W32, x ||| 0 = x from fun _ => BitVec.or_zero]

/-! ### Entries dropped -/

theorem dropEntries_sl (s : State) (i : SliceNo) : (dropEntries s).sl i = { s.sl i with wmb := [], cw := [], rb := [] } := by
  simp [dropEntries, State.sl]

theorem dropEntries_hp (s : State) (p : Port) : (dropEntries s).hp p = { s.hp p with ntc := [] } := by
  simp [dropEntries, State.hp]

theorem dropEntries_empty (s : State) : (∀ i : SliceNo, ((dropEntries s).sl i).wmb = [] ∧ ((dropEntries s).sl i).cw = [] ∧ ((dropEntries s).sl i).rb = []) ∧
    ∀ p : Port, ((dropEntries s).hp p).ntc = [] :=
  ⟨fun i => by rw [dropEntries_sl]; exact ⟨rfl, rfl, rfl⟩, fun p => by rw [dropEntries_hp]⟩

/-! ### The warm drain (R102, R459, R460) -/

/-- The device is quiet: nothing is left in its buffers, and no transaction is open. -/
def quietNow (s : State) : Bool := decide (leftOver s = 0) && s.slices.toList.all (fun x => x.stt.isEmpty) && s.home.tt.isEmpty

theorem quietNow_iff (s : State) : quietNow s = true ↔ leftOver s = 0 ∧ s.home.tt = [] ∧ ∀ i : SliceNo, (s.sl i).stt = [] := by
  have hall : s.slices.toList.all (fun x => x.stt.isEmpty) = true ↔ ∀ i : SliceNo, (s.sl i).stt = [] := by
    simp only [List.all_eq_true, List.isEmpty_iff, Vector.mem_toList_iff]
    exact ⟨fun h i => h _ (Vector.getElem_mem i.isLt), fun h => Vector.forall_mem_iff_forall_getElem.2 fun i hi => h ⟨i, hi⟩⟩
  rw [quietNow, Bool.and_eq_true, Bool.and_eq_true, hall, decide_eq_true_eq, List.isEmpty_iff]
  tauto

/-- The device with the PLRU of its shadow written back and QUIET recorded. -/
def warmQuiet (s : State) : State := { s with slices := s.slices.map Slice.flushPlru, aon := { s.aon with quiet := quietNow s } }

/-- The silence after the warm drain. -/
def warmSilence (s : State) : State := stopFabric { dropEntries s with crp := { s.crp with drained := true } }

/-- The device after the deadline of the warm drain: o has left, and r is the record. -/
def warmSilent (o : List Out) (r : PRec) (s : State) : State := warmSilence (peatOwn r { warmQuiet s with out := s.out ++ o })

theorem warmDeadline_steps {s : State} (hp : s.crp.phase = .warmDrain) (hd : s.crp.drained = false) : warmDeadline s =
    if s.pins.wrstN then warmStart (warmSilence (drainRec 1 (leftOver s) (flood none .warm (warmQuiet s))))
    else warmSilence (drainRec 1 (leftOver s) (flood none .warm (warmQuiet s))) := by
  unfold warmDeadline
  rw [if_pos ⟨hp, by rw [hd]; rfl⟩, State.each_modSl]
  rfl

theorem warmDeadline_eq {s : State} (hp : s.crp.phase = .warmDrain) (hd : s.crp.drained = false) : ∃ (o : List Out) (r : PRec), IsDrain 1 (leftOver s) r ∧
    warmDeadline s = if s.pins.wrstN then warmStart (warmSilent o r s) else warmSilent o r s := by
  obtain ⟨o, ho⟩ := flood_eq none .warm (warmQuiet s)
  obtain ⟨r, hr, he⟩ := drainRec_eq 1 (leftOver s) (flood none .warm (warmQuiet s))
  refine ⟨o, r, hr, ?_⟩
  rw [warmDeadline_steps hp hd, he, ho]
  rfl

theorem warmStart_started (s : State) : (warmStart s).aon.warmCnt = satInc16 s.aon.warmCnt ∧ (warmStart s).crp.started = true ∧ (warmStart s).out = s.out := by
  unfold warmStart
  split
  · split
    · exact ⟨rfl, rfl, rfl⟩
    · exact ⟨rfl, rfl, rfl⟩
  · exact ⟨rfl, rfl, rfl⟩

/-- A device that is not alone starts warm, its DDR5 as it is. -/
theorem warmStart_of_torus {s : State} (h : standAlone s = false) :
    (warmStart s).crp.kind = 2 ∧ (warmStart s).crp.phase = .fuses ∧ (warmStart s).crp.kept = false ∧ (warmStart s).mem.lines = s.mem.lines := by
  unfold warmStart
  rw [if_neg (by simp [h])]
  exact ⟨rfl, rfl, rfl, rfl⟩

/-! ### The writes of the queues (R336) -/

/-- DDR5 after a list of writes, in their order. -/
def written (l : List (Nat × DLine)) (m : Sparse DLine) : Sparse DLine := l.foldl (fun m c => spSet {} c.1 c.2 m) m

theorem spWf_written {m : Sparse DLine} (h : spWf {} m = true) (l : List (Nat × DLine)) : spWf {} (written l m) = true := by
  induction l generalizing m with
  | nil => exact h
  | cons c t ih => exact ih (spWf_spSet h)

theorem spGet_written_other {m : Sparse DLine} (h : spWf {} m = true) {l : List (Nat × DLine)} {n : Nat} (hl : ∀ c ∈ l, c.1 ≠ n) :
    spGet {} (written l m) n = spGet {} m n := by
  induction l generalizing m with
  | nil => rfl
  | cons c t ih =>
    obtain ⟨hc, ht⟩ := List.forall_mem_cons.1 hl
    exact (ih (spWf_spSet h) ht).trans (spGet_spSet_other h hc.symm)

/-- A line written has the data of its last write. -/
theorem spGet_written_last {m : Sparse DLine} (h : spWf {} m = true) {l : List (Nat × DLine)} {n : Nat} {c : Nat × DLine}
    (hc : l.reverse.find? (fun d => decide (d.1 = n)) = some c) : spGet {} (written l m) n = c.2 := by
  induction l using List.reverseRecOn with
  | nil => simp at hc
  | append_singleton t a ih =>
    have e : written (t ++ [a]) m = spSet {} a.1 a.2 (written t m) := List.foldl_concat ..
    rw [List.reverse_concat, List.find?_cons] at hc
    rw [e]
    by_cases ha : a.1 = n
    · obtain rfl : a = c := by simpa [ha] using hc
      rw [← ha, spGet_spSet_same (spWf_written h t)]
    · rw [spGet_spSet_other (spWf_written h t) (Ne.symm ha)]
      exact ih (by simpa [ha] using hc)

/-- One more write of a queue in DDR5. -/
def drainStep (s : State) (c : Nat × DLine) : State := pmu 0x42 (some (chanOf s c.1)) { s with mem := s.mem.toDram c.1 c.2 }

theorem drainStep_foldl (l : List (Nat × DLine)) (s : State) : ∃ (d : Dbg) (m : Mem), l.foldl drainStep s = { s with dbg := d, mem := m } ∧
    m.ddr = written l s.mem.ddr ∧ m.wq = s.mem.wq := by
  induction l generalizing s with
  | nil => exact ⟨_, _, rfl, rfl, rfl⟩
  | cons c t ih =>
    obtain ⟨d, hd⟩ := pmu_eq 0x42 (some (chanOf s c.1)) { s with mem := s.mem.toDram c.1 c.2 }
    obtain ⟨d', m, he, hm, hq⟩ := ih (drainStep s c)
    have hs : drainStep s c = _ := hd
    refine ⟨d', m, ?_, ?_, ?_⟩
    · rw [List.foldl_cons, he, hs]
    · rw [hm, hs]; rfl
    · rw [hq, hs]; rfl

/-- With the queues empty, every write of them is in DDR5, and nothing else has changed but the counters of the writes. -/
theorem drainAll_eq (s : State) : ∃ (d : Dbg) (m : Mem), drainAll s = { s with dbg := d, mem := m } ∧ m.ddr = written s.mem.wq s.mem.ddr ∧ m.wq = [] :=
  drainStep_foldl s.mem.wq { s with mem := { s.mem with wq := [] } }

/-! ### The power-fail drain (R336, R472) -/

/-- The device after the deadline of the power-fail drain: DBG is d, the memories m, and r is the record. -/
def failSilent (d : Dbg) (m : Mem) (r : PRec) (s : State) : State :=
  { stopFabric (peatOwn r (dropEntries { s with
      dbg := d, mem := { m with selfRef := true }
      peat := { s.peat with queue := s.peat.queue.filter keepRec, source := s.peat.source.filter keepRec } })) with
    crp := { s.crp with phase := .stopped, waitOn := true }
    aon := { s.aon with cause := if s.aon.stopHeld then s.aon.cause else 3 } }

theorem failDeadline_eq {s : State} (hp : s.crp.phase = .pfDrain) (hw : s.crp.waitOn = false) (hf : s.dbg.frozen = false) :
    ∃ (d : Dbg) (m : Mem) (r : PRec), IsDrain 2 (leftOver s) r ∧ m.ddr = written s.mem.wq s.mem.ddr ∧ m.wq = [] ∧ failDeadline s = failSilent d m r s := by
  unfold failDeadline
  rw [if_pos ⟨hp, by rw [hw]; rfl, by rw [hf]; rfl⟩]
  obtain ⟨d, m, he, hm, hq⟩ := drainAll_eq s
  obtain ⟨r, hr, hrec⟩ := drainRec_eq 2 (leftOver s) (dropEntries { s with
      dbg := d, mem := { m with selfRef := true }
      peat := { s.peat with queue := s.peat.queue.filter keepRec, source := s.peat.source.filter keepRec } })
  refine ⟨d, m, r, hr, hm, hq, ?_⟩
  simp only [he, hrec]
  rfl

/-- Settles O16: each deadline is one state, with the record, the counts and the memories as said. -/
theorem drainDeadlinesEndTheDrains : Obligations.DrainDeadlinesEndTheDrains := by
  refine ⟨fun s hk hp hd hw => ?_, fun s hk hp hd hw => ?_, fun s hup hp hw hf hg => ?_⟩
  · obtain ⟨o, r, -, he⟩ := warmDeadline_eq hp hd
    rw [if_pos hw] at he
    obtain ⟨hcnt, hst, hout⟩ := warmStart_started (warmSilent o r s)
    refine ⟨_, (onClock_run hk _).trans (congrArg _ he), hcnt, hst, ?_, fun ha => warmStart_of_torus (s := warmSilent o r s) ha⟩
    rw [hout]
    exact Nat.le.intro List.length_append.symm
  · obtain ⟨o, r, hr, he⟩ := warmDeadline_eq hp hd
    rw [if_neg (by simp [hw])] at he
    refine ⟨_, (onClock_run hk _).trans (congrArg _ he), rfl, rfl, (dropEntries_empty (warmQuiet s)).1, (dropEntries_empty (warmQuiet s)).2, (quietNow_iff s).1, ?_, rfl, ⟨r, hr.type, hr.cause, hr.left, rfl⟩,
      rfl, rfl, rfl⟩
    exact fun hl ht hs => (quietNow_iff s).2 ⟨hl, ht, hs⟩
  · obtain ⟨d, m, r, hr, hm, hq, he⟩ := failDeadline_eq hp hw hf
    refine ⟨_, (onAon_run hup _).trans (congrArg _ he), ?_, rfl, rfl, rfl, (dropEntries_empty s).1, (dropEntries_empty s).2, hq, rfl, fun n hn => ?_, fun c hc => ?_,
      ⟨r, hr.type, hr.cause, hr.left, rfl⟩, rfl, rfl⟩
    · exact Bool.and_false _
    · exact (congrArg (fun x => spGet {} x n) hm).trans (spGet_written_other hg.1 hn)
    · exact (congrArg (fun x => spGet {} x c.1) hm).trans (spGet_written_last hg.1 hc)

end Sys2Proof.Machine
end

section
/-! PROOFS. Lists of changes of which few change anything, and what an event or an answer to a host leaves as it was (R175, R397, R403). -/

set_option Elab.async false

namespace Sys2Proof.Machine

/-! ### Changes of a list in order -/

theorem State.each_append {α : Type} (s : State) (l m : List α) (f : State → α → State) : s.each (l ++ m) f = (s.each l f).each m f := List.foldl_append

/-- Where one element alone changes the state, it gives the change of the list. -/
theorem State.each_once {α : Type} {f : State → α → State} {l : List α} (hn : l.Nodup) {x : α} (hx : x ∈ l) {s : State}
    (hs : ∀ y ∈ l, y ≠ x → f s y = s) (ht : ∀ y ∈ l, y ≠ x → f (f s x) y = f s x) : s.each l f = f s x := by
  obtain ⟨a, b, rfl⟩ := List.append_of_mem hx
  have hxab : x ∉ a ++ b := (List.nodup_middle.1 hn).notMem
  rw [State.each_append, State.each_id s a f fun y hy => hs y (by simp [hy]) fun e => hxab (by simp [← e, hy])]
  exact State.each_id (f s x) b f fun y hy => ht y (by simp [hy]) fun e => hxab (by simp [← e, hy])

theorem State.each_modFp_fp (g : FPort → FPort) (l : List FPortNo) (hn : l.Nodup) (s : State) (i : FPortNo) :
    (s.each l (fun s i => s.modFp i g)).fp i = if i ∈ l then g (s.fp i) else s.fp i := by
  induction l generalizing s with
  | nil => rfl
  | cons a t ih =>
    obtain ⟨hat, ht⟩ := List.nodup_cons.1 hn
    rw [show s.each (a :: t) (fun s i => s.modFp i g) = (s.modFp a g).each t (fun s i => s.modFp i g) from rfl, ih ht]
    by_cases e : i = a
    · subst e; simp [hat]
    · simp [e, State.modFp_fp_other _ _ e]

theorem State.each_modFp_only (g : FPort → FPort) (l : List FPortNo) (s : State) :
    s.each l (fun s i => s.modFp i g) = { s with fports := (s.each l (fun s i => s.modFp i g)).fports } := by
  induction l generalizing s with
  | nil => rfl
  | cons a t ih => exact ih (s.modFp a g)

/-! ### What leaves for other nodes -/

section
variable {s : State} (h1 : s.fabric.stopped = false) (h2 : s.fabric.pause = none)
include h1 h2

theorem sendVc5_of_sends (n : NodeId) (m : Vc5) : sendVc5 n m s = s.emit (.vc5 n m) := by simp [sendVc5, h1, h2]

theorem each_sendVc5_of_sends (m : Vc5) (l : List NodeId) : s.each l (fun s n => sendVc5 n m s) = { s with out := s.out ++ l.map (fun n => .vc5 n m) } := by
  induction l generalizing s with
  | nil => simp
  | cons n t ih =>
    rw [show s.each (n :: t) (fun s n => sendVc5 n m s) = (sendVc5 n m s).each t (fun s n => sendVc5 n m s) from rfl, sendVc5_of_sends h1 h2, ih (s := s.emit (.vc5 n m)) h1 h2]
    simp [State.emit]

theorem reportSteps_of_sends (n : NodeId) : reportSteps n s = { s with
    out := s.out ++ (livePeers s.node s.fabric).map (fun x => .vc5 x (.steps n (spGet {} s.fabric.live n.toNat).purge (spGet {} s.fabric.live n.toNat).pass)) } :=
  each_sendVc5_of_sends h1 h2 _ _

end

/-! ### What hosts see -/

/-- From s to t only what hosts and tools see has changed: messages to hosts, event queues, the debug parts and the Peat record; links, stamp mode and
combining entries of the ports are as they were. -/
structure HostSide (s t : State) : Prop where
  rest  : t = { s with
    hports := t.hports, evq := t.evq, dbg := t.dbg, tap := t.tap, peat := t.peat, freeCtr := t.freeCtr, out := t.out }
  ports : ∀ q : Port, (t.hp q).link = (s.hp q).link ∧ (t.hp q).stamped = (s.hp q).stamped ∧ (t.hp q).ntc = (s.hp q).ntc
  out   : ∃ o : List Out, t.out = s.out ++ o

namespace HostSide

theorem refl (s : State) : HostSide s s := ⟨rfl, fun _ => ⟨rfl, rfl, rfl⟩, [], (List.append_nil _).symm⟩

theorem trans {s t u : State} (h : HostSide s t) (h' : HostSide t u) : HostSide s u where
  rest := h'.rest.trans (congrArg (fun z : State => { z with
    hports := u.hports, evq := u.evq, dbg := u.dbg, tap := u.tap, peat := u.peat, freeCtr := u.freeCtr, out := u.out }) h.rest)
  ports q := by
    obtain ⟨a, b, c⟩ := h.ports q
    obtain ⟨a', b', c'⟩ := h'.ports q
    exact ⟨a'.trans a, b'.trans b, c'.trans c⟩
  out := by
    obtain ⟨o, ho⟩ := h.out
    obtain ⟨o', ho'⟩ := h'.out
    exact ⟨o ++ o', by rw [ho', ho, List.append_assoc]⟩

theorem each {α : Type} {f : State → α → State} (hf : ∀ s x, HostSide s (f s x)) (l : List α) (s : State) : HostSide s (s.each l f) := by
  induction l generalizing s with
  | nil => exact .refl s
  | cons x t ih => exact (hf s x).trans (ih (f s x))

/-- A change of a port that keeps its link, stamp mode and combining entries. -/
theorem modHp (s : State) (p : Port) {f : HPort → HPort} (hf : ∀ h, (f h).link = h.link ∧ (f h).stamped = h.stamped ∧ (f h).ntc = h.ntc) :
    HostSide s (s.modHp p f) where
  rest := rfl
  ports q := by
    by_cases e : q = p
    · subst e; rw [State.modHp_hp]; exact hf _
    · rw [State.modHp_hp_other _ _ e]; exact ⟨rfl, rfl, rfl⟩
  out := ⟨[], (List.append_nil _).symm⟩

theorem slices {s t : State} (h : HostSide s t) : t.slices = s.slices := by rw [h.rest]
theorem home {s t : State} (h : HostSide s t) : t.home = s.home := by rw [h.rest]
theorem mem {s t : State} (h : HostSide s t) : t.mem = s.mem := by rw [h.rest]
theorem node {s t : State} (h : HostSide s t) : t.node = s.node := by rw [h.rest]
theorem fabric {s t : State} (h : HostSide s t) : t.fabric = s.fabric := by rw [h.rest]
theorem fports {s t : State} (h : HostSide s t) : t.fports = s.fports := by rw [h.rest]
theorem fp {s t : State} (h : HostSide s t) (f : FPortNo) : t.fp f = s.fp f := by rw [State.fp, h.fports]; rfl
theorem sl {s t : State} (h : HostSide s t) (i : SliceNo) : t.sl i = s.sl i := by rw [State.sl, h.slices]; rfl

end HostSide

/-- What leaves for the host of a port. -/
theorem emit_hostSide (s : State) (o : Out) : HostSide s (s.emit o) := ⟨rfl, fun _ => ⟨rfl, rfl, rfl⟩, [o], rfl⟩

theorem toHost_hostSide (p : Port) (m : ToHost) (s : State) : HostSide s (toHost p m s) := by
  unfold toHost
  extract_lets h
  split
  · exact emit_hostSide s _
  · exact .modHp s p (f := fun h => { h with heldOut := h.heldOut ++ [m] }) fun _ => ⟨rfl, rfl, rfl⟩
  all_goals exact .refl s

theorem msixCheck_hostSide (p : Port) (s : State) : HostSide s (msixCheck p s) := by
  unfold msixCheck
  extract_lets h l s1
  have h1 : HostSide s s1 := by
    unfold s1
    split
    · exact toHost_hostSide p _ s
    · exact .refl s
  split
  · exact h1.trans (.modHp s1 p fun _ => ⟨rfl, rfl, rfl⟩)
  · exact .refl s

theorem postTo_hostSide (p : Port) (code : Byte) (cls : Nat) (pl : List W64) (s : State) : HostSide s (postTo p code cls pl s) := by
  unfold postTo
  split
  · have hpush : HostSide s (s.setEq p (evqPush s.gen.time code cls pl (s.eq p))) := ⟨rfl, fun _ => ⟨rfl, rfl, rfl⟩, [], (List.append_nil _).symm⟩
    exact hpush.trans (msixCheck_hostSide p _)
  · exact .refl s

theorem freezeOnEvent_hostSide (code : Byte) (s : State) : HostSide s (freezeOnEvent code s) := by
  unfold freezeOnEvent freezeDie
  extract_lets c
  split
  · split
    · exact .refl s
    · exact ⟨rfl, fun _ => ⟨rfl, rfl, rfl⟩, [], (List.append_nil _).symm⟩
  · exact .refl s

/-- An event changes only what hosts and tools see. -/
theorem postEvent_hostSide (code : Byte) (cls : Nat) (pl : List W64) (s : State) : HostSide s (postEvent code cls pl s) :=
  (HostSide.each (fun s p => postTo_hostSide p code cls pl s) ports s).trans (freezeOnEvent_hostSide code _)

/-! ### A read that a lost home never answered (R165, R175) -/

theorem retireReq_hostSide (r : Req) (s : State) : HostSide s (retireReq r s) := .modHp s _ fun _ => ⟨rfl, rfl, rfl⟩

section
variable {r : Req} {s : State} (hop : opReads r.op = true) (hpart : r.part = 0) (hbound : r.bound = false)
include hop hpart hbound

theorem completeErr_dead_read (hst : (s.hp r.port).stamped = false) (hl : (s.hp r.port).link = .up) :
    completeErr r stDEAD s = (retireReq r s).emit (.host r.port (.cmpData r.etag stDEAD 0 false true r.len 0)) := by
  unfold completeErr
  rw [if_pos (by simp [hop])]
  unfold completeData
  have hl' : ((retireReq r s).hp r.port).link = .up := by rw [retireReq, State.modHp_hp]; exact hl
  simp [grantFor, hst, hpart, endBound, hbound, answer, toHost_of_up hl']

/-- The read gets poisoned data; beside it, only an event is posted. -/
theorem completeDead_read (hstamp : r.stamp = none) (hst : (s.hp r.port).stamped = false) (hl : (s.hp r.port).link = .up) :
    HostSide s (completeDead r s) ∧ ∃ o : List Out, (completeDead r s).out = s.out ++ o ∧ .host r.port (.cmpData r.etag stDEAD 0 false true r.len 0) ∈ o := by
  have he : HostSide s (evDeadDone (lineOf r.addr) r.port (opStores r.op) s) := postEvent_hostSide ..
  obtain ⟨hl', hst', -⟩ := he.ports r.port
  have e : completeDead r s = (retireReq r (evDeadDone (lineOf r.addr) r.port (opStores r.op) s)).emit
      (.host r.port (.cmpData r.etag stDEAD 0 false true r.len 0)) := by
    rw [completeDead, stampCheck, if_neg (by simp [hstamp]), completeErr_dead_read hop hpart hbound (hst'.trans hst) (hl'.trans hl)]
  obtain ⟨o, ho⟩ := he.out
  rw [e]
  refine ⟨he.trans ((retireReq_hostSide _ _).trans (emit_hostSide _ _)), o ++ [_], ?_, List.mem_append_right o (List.mem_singleton_self _)⟩
  exact (congrArg (· ++ [_]) ho).trans (List.append_assoc ..)

end

end Sys2Proof.Machine
end

section
/-! PROOFS. Walks that have nothing left, and the ends of the domain's walks (R71, R175, R178, R181). -/

set_option Elab.async false

namespace Sys2Proof.Machine

/-! ### Nothing to issue, nothing to visit -/

theorem issueAll_idle {s : State} {i : SliceNo} (hw : (s.sl i).wmb = []) (hn : ∀ q : Port, (s.hp q).ntc = []) : issueAll i s = s := by
  unfold issueAll
  simp only [hw, List.map_nil, State.each_nil]
  exact State.each_id s ports _ fun p _ => by rw [hn p]; rfl

theorem walkRun_of_visitNext_none {s : State} {i : SliceNo} {k : WalkKind} (h : visitNext i k s = none) (n : Nat) : walkRun i k n s = s := by
  cases n with
  | zero => rfl
  | succ n => rw [walkRun, h]

section
variable {s : State} {i : SliceNo} {k : WalkKind} (h : Walked s i k)
include h

/-- The walk is the only one of the slice, and has no place left. -/
theorem walked_only : ∃ w : Walk, (s.sl i).walks = [w] ∧ w.kind = k ∧ nextPlace s i w = none := by
  obtain ⟨-, -, hk, hn⟩ := h
  obtain ⟨w, hw, rfl⟩ := List.map_eq_singleton_iff.1 hk
  exact ⟨w, hw, rfl, hn w (by rw [hw]; exact List.mem_singleton_self w)⟩

theorem pumpWalks_walked : pumpWalks i s = s := by
  obtain ⟨w, hw, rfl, hn⟩ := walked_only h
  unfold pumpWalks
  split
  · rfl
  · rw [hw]
    exact walkRun_of_visitNext_none (by simp [visitNext, hw, hn]) _

theorem visitedAll_walked : visitedAll s i k = true := by
  obtain ⟨w, hw, rfl, hn⟩ := walked_only h
  simp [visitedAll, hw, hn]

theorem walkCarry_walked (hrb : (∃ m r, k = .policy m r) → (s.sl i).rb = []) : walkCarry i k s = s := by
  obtain ⟨-, hp, -, -⟩ := id h
  have hgo : (if visitedAll s i k && !(walkPlaces s i k).isEmpty then
      pumpWalks i (s.modSl i (fun x => { x with walks := x.walks.map (fun j => if j.kind = k then { j with pos := 0 } else j) }))
    else pumpWalks i s) = s := by rw [hp]; simp [pumpWalks_walked h]
  unfold walkCarry
  cases k
  case policy m r =>
    simp only [hrb ⟨m, r, rfl⟩, List.filter_nil, State.each_nil]
    exact hgo
  all_goals exact hgo

theorem walkDone_walked (hrb : (∃ m r, k = .policy m r) → (s.sl i).rb = []) : walkDone s i k = true := by
  obtain ⟨hh, hp, -, -⟩ := id h
  unfold walkDone
  rw [hh, hp, visitedAll_walked h]
  cases k
  case policy m r => simp [hrb ⟨m, r, rfl⟩]
  all_goals rfl

end

/-- A slice without its walks of a kind. -/
def Slice.endWalk (k : WalkKind) (x : Slice) : Slice := { x with walks := x.walks.filter (fun j => decide (j.kind ≠ k)) }

theorem each_endWalk (k : WalkKind) (s : State) : s.each sliceNos (fun s i => endWalk k i s) = { s with slices := s.slices.map (Slice.endWalk k) } :=
  State.each_modSl s (Slice.endWalk k)

/-- A walk that was the only one of its slice leaves none. -/
theorem Slice.endWalk_walked {s : State} {j : SliceNo} {k : WalkKind} (h : Walked s j k) : (s.sl j).endWalk k = { s.sl j with walks := [] } := by
  obtain ⟨w, hw, hk, -⟩ := walked_only h
  simp [Slice.endWalk, hw, hk]

theorem sl_of_slices_map {s t : State} {f : Slice → Slice} (h : t.slices = s.slices.map f) (j : SliceNo) : t.sl j = f (s.sl j) := by
  simp [State.sl, h]

/-- The firmware in RUN does what it is asked. -/
theorem fwDo_of_run {s : State} (h : s.fw.st = .run) (f : State → State) : fwDo f s = f s := by
  have hs : ({ s with fw := { s.fw with st := .run } } : State) = s := by rw [← h]
  rw [fwDo, if_pos (by simp [fwUp, State.fwUp, h]), hs]

/-! ### The end of a policy walk (R71) -/

section
variable {s : State} {n : NodeId} (h1 : s.fabric.stopped = false) (h2 : s.fabric.pause = none) (hwork : NoWork s)
include h1 h2 hwork

theorem policyDone_of_walked {m : Member} {r : BitVec 10} (hpol : s.fw.polWalks = [⟨m, r, n⟩]) (hn : n ≠ s.node.node)
    (hwt : s.node.wtMap.any (fun c => decide (c.1 = policyIdx m r)) = true) (hw : ∀ j : SliceNo, Walked s j (.policy m r) ∧ (s.sl j).rb = []) :
    policyDone m r s = { s with
      slices := s.slices.map (Slice.endWalk (.policy m r)), fw := { s.fw with polWalks := [] }, out := s.out ++ [.vc5 n .policyAck] } := by
  obtain ⟨hntc, hsl⟩ := hwork
  have hcarry : s.each sliceNos (fun s i => walkCarry i (.policy m r) (issueAll i s)) = s :=
    State.each_id s _ _ fun i _ => by rw [issueAll_idle (hsl i).1 hntc, walkCarry_walked (hw i).1 fun _ => (hw i).2]
  have hdone : sliceNos.all (fun i => walkDone s i (.policy m r)) = true := List.all_eq_true.2 fun i _ => walkDone_walked (hw i).1 fun _ => (hw i).2
  unfold policyDone
  simp only [hpol, List.find?_cons, decide_true, Bool.and_self, hcarry, hwt, hdone, if_true, if_neg hn, each_endWalk]
  rw [sendVc5_of_sends (by exact h1) (by exact h2)]
  simp [modFw, State.emit, hpol]

end

/-! ### The progress kept for a node (R175, R178) -/

/-- A content that is not the default is what a change leaves at its index. -/
theorem spGet_spMod_same {α : Type} [DecidableEq α] {d : α} {n : Nat} {f : α → α} {m : Sparse α} (h : f (spGet d m n) ≠ d) :
    spGet d (spMod d n f m) n = f (spGet d m n) := by
  rw [spMod, spSet, if_neg h, spGet_spIns_same]

theorem modLive_purged (n : NodeId) (s : State) : (spGet {} (modLive n (fun d => { d with purge := true }) s).fabric.live n.toNat).purge = true := by
  have h : ({ spGet {} s.fabric.live n.toNat with purge := true } : NodeSt) ≠ {} := fun e => Bool.noConfusion (congrArg NodeSt.purge e)
  exact congrArg NodeSt.purge (spGet_spMod_same (f := fun d : NodeSt => { d with purge := true }) h)

theorem modLive_passed (n : NodeId) (s : State) : (spGet {} (modLive n (fun d => { d with pass := true }) s).fabric.live n.toNat).pass = true := by
  have h : ({ spGet {} s.fabric.live n.toNat with pass := true } : NodeSt) ≠ {} := fun e => Bool.noConfusion (congrArg NodeSt.pass e)
  exact congrArg NodeSt.pass (spGet_spMod_same (f := fun d : NodeSt => { d with pass := true }) h)

/-! ### The end of a purge walk (R175) -/

theorem purgeDone_of_walked {s : State} {n : NodeId} (hw : ∀ j : SliceNo, Walked s j (.purge n)) :
    purgeDone n s = reportSteps n (modLive n (fun d => { d with purge := true }) { s with slices := s.slices.map (Slice.endWalk (.purge n)) }) := by
  have hcarry : s.each sliceNos (fun s i => walkCarry i (.purge n) s) = s := State.each_id s _ _ fun i _ => walkCarry_walked (hw i) nofun
  have hdone : sliceNos.all (fun i => walkDone s i (.purge n)) = true := List.all_eq_true.2 fun i _ => walkDone_walked (hw i) nofun
  unfold purgeDone
  simp only [hcarry, hdone, if_true, each_endWalk]

/-! ### The end of a sweep pass (R178) -/

theorem peatEnter_eq (r : PRec) (s : State) : ∃ x : Peat, peatEnter r s = { s with peat := x } := by
  unfold peatEnter
  extract_lets p
  split
  · split
    · exact ⟨_, rfl⟩
    · exact ⟨_, rfl⟩
  · split
    · exact ⟨_, rfl⟩
    · exact ⟨_, rfl⟩

theorem sweepDoneFor_of_nothing {s : State} {n : NodeId} {a b : Nat} (hs : s.home.sweeps = [⟨n, a, b, false⟩]) (hn : s.home.naming (memOf n) = [])
    (ht : s.home.tt = []) : ∃ x : Peat, sweepDoneFor n s = reportSteps n (modLive n (fun d => { d with pass := true })
      { s with home := { s.home with sweeps := [⟨n, a, b, true⟩] }, peat := x }) := by
  have hpass : sweepPass (memOf n) s = s := by rw [sweepPass, hn]; rfl
  unfold sweepDoneFor
  rw [if_neg (by simp [hs])]
  extract_lets s1 s2 w
  have h1 : s1 = s := hpass
  have h2 : s2 = { s with home := { s.home with sweeps := [⟨n, a, b, true⟩] } } := by simp [s2, h1, State.modHome, hs]
  rw [if_neg (by simp [h1, sweepDone, hn, ht]), h2]
  obtain ⟨x, hx⟩ := peatEnter_eq (mkRec 0x40 1 (bodyAt 24 n.toNat ||| bodyAt 28 w.reclaimed ||| bodyAt 36 w.poisoned))
    { s with home := { s.home with sweeps := [⟨n, a, b, true⟩] } }
  exact ⟨x, by rw [hx]⟩

end Sys2Proof.Machine
end

section
/-! PROOFS. The readmission of a node, and a read whose home is lost (R165, R175, R181). -/

set_option Elab.async false

namespace Sys2Proof.Machine

/-! ### Readmission (R181) -/

theorem spGet_single {α : Type} (d v : α) (n : Nat) : spGet d [(n, v)] n = v := by simp [spGet]

/-- A link held to management traffic toward a node carries all traffic again. -/
def FPort.freed (n : NodeId) (x : FPort) : FPort := if x.link = .upMgmt ∧ x.neigh = n then { x with link := .up } else x

theorem FPort.freed_eq (n : NodeId) (x : FPort) : x.freed n = { x with link := if x.link = .upMgmt ∧ x.neigh = n then .up else x.link } := by
  unfold FPort.freed
  split
  · rfl
  · rfl

/-- The device without the entry of its one declared node, and without the sweep for it. -/
def readmitted (n : NodeId) (s : State) : State := { s with
  fabric := { s.fabric with live := [] }
  home := { s.home with sweeps := s.home.sweeps.filter (fun w => decide (w.node ≠ n)) } }

/-- Every link toward the node freed. -/
def linksFreed (n : NodeId) (s : State) : State := s.each fportNos (fun s f => s.modFp f (FPort.freed n))

theorem linksFreed_eq (n : NodeId) (s : State) : linksFreed n s = { s with fports := (linksFreed n s).fports } := State.each_modFp_only _ _ s

theorem linksFreed_fp (n : NodeId) (s : State) (f : FPortNo) : (linksFreed n s).fp f = (s.fp f).freed n := by
  rw [linksFreed, State.each_modFp_fp _ _ (by decide), if_pos ((by decide : ∀ f, f ∈ fportNos) f)]

theorem isLost_of_no_live {fb : Fabric} (h : fb.live = []) (x : Node) (n : NodeId) : isLost x fb n = false := by
  simp [isLost, isDead, isCut, h]

section
variable {s : State} {n : NodeId} {d : NodeSt} (hn : n ≠ s.node.node) (hl : s.fabric.live = [(n.toNat, d)])
include hn hl

/-- A node of the domain whose steps are not all done stays out. -/
theorem readmit_of_not_done (hdom : domOf n = domOf s.node.node) (h : d.purge = false ∨ d.pass = false ∨ ∃ x ∈ livePeers s.node s.fabric, x ∉ d.told) :
    readmit n s = s := by
  unfold readmit
  extract_lets e fab s1 back told ready gone fab' s2 s3
  have he : e = d := by simp only [e, hl, spGet_single]
  have hready : (ready n && told) = false := by
    have hr : ready n = (d.purge && d.pass) := by simp [ready, hl, spGet_single, hdom]
    rcases h with h | h | ⟨x, hx, hxd⟩
    · simp [hr, h]
    · simp [hr, h]
    · have ht : told = false := List.all_eq_false.2 ⟨x, hx, by simp [hdom, he, hxd]⟩
      rw [ht, Bool.and_false]
  by_cases hd : (!e.dead) = true
  · rw [if_pos hd]
  · rw [if_neg hd, if_neg hn, if_pos (by rw [hready]; rfl)]

/-- A node that cuts off no other is readmitted when its steps are done, or when it is of another domain. -/
theorem readmit_of_done (hdead : d.dead = true) (hcut : ∀ m ∈ members s.node, memNode s m ≠ n → isLost s.node s.fabric (memNode s m) = false)
    (h : domOf n ≠ domOf s.node.node ∨ (d.purge = true ∧ d.pass = true ∧ ∀ x ∈ livePeers s.node s.fabric, x ∈ d.told)) :
    readmit n s = postEvent 0x61 6 [n.setWidth 64] (linksFreed n (readmitted n s)) := by
  unfold readmit
  extract_lets e fab s1 back told ready gone fab' s2 s3
  have he : e = d := by simp only [e, hl, spGet_single]
  have hback : back = [] := by
    refine List.filter_eq_nil_iff.2 fun x hx => ?_
    rw [List.mem_dedup, List.mem_append, hl] at hx
    rcases hx with hx | hx
    · obtain rfl : x = n := by simpa using hx
      simp
    · obtain ⟨m, hm, rfl⟩ := List.mem_map.1 hx
      by_cases e : memNode s m = n
      · simp [e]
      · simp [hcut m hm e]
  have htold : told = true := by
    refine List.all_eq_true.2 fun x hx => ?_
    rcases h with h | ⟨-, -, h⟩
    · simp [h]
    · simp [he, h x hx]
  have hready : ready n = true := by
    rcases h with h | ⟨hp, hq, -⟩
    · simp [ready, h]
    · simp [ready, hl, spGet_single, hp, hq]
  rw [if_neg (by simp [he, hdead]), if_neg hn, if_neg (by rw [hready, htold, hback]; exact Bool.false_ne_true)]
  have hgone : ∀ x, gone x = decide (x = n) := fun x => by simp [gone, hback]
  have h3 : s3 = readmitted n s := by
    simp [readmitted, s3, s2, s1, fab, fab', State.modHome, hl, spDel, hgone]
  rw [h3]
  rfl

end

/-! ### A request that a lost home has not answered (R165, R175) -/

/-- In a slice with nothing under way, nothing follows a change. -/
theorem settle_idle {s : State} {i : SliceNo} (hn : ∀ q : Port, (s.hp q).ntc = []) (hw : (s.sl i).wmb = []) (ht : (s.sl i).stt = [])
    (hg : (s.sl i).snpGrps = []) (hr : (s.sl i).rb = []) : settle i s = s := by
  have happly : applyDue i s = s := by simp [applyDue, dueApply, ht]
  unfold settle
  rw [issueAll_idle hw hn]
  simp [fillRetry, rbRetry, runBlocked, rbFree, ht, hg, hr, happly]

theorem sliceOfUnit_unitOf (i : SliceNo) (l : LAddr) : sliceOfUnit (unitOf i) l = i := by
  have hi : (unitOf i).toNat = i.val := by rw [unitOf, BitVec.toNat_ofNat]; omega
  rw [sliceOfUnit, dif_pos (by omega)]
  exact Fin.ext hi

/-- The Nack that the end of the wait for a lost node stands for. -/
def deadNack (s : State) (i : SliceNo) (n : NodeId) (x : STxn) : BMsg :=
  { dst := s.node.node, dstu := unitOf i, src := n, srcu := homeUnit, rtid := x.rtid, laddr := x.line, reason := rsnDEAD }

theorem State.setSl_setSl (s : State) (i : SliceNo) (x y : Slice) : (s.setSl i x).setSl i y = s.setSl i y := by
  unfold State.setSl
  rw [Vector.set_set]

/-- A transaction that holds no way and no buffered entry, the only one of its slice, leaves it without one. -/
theorem endTxn_of_single {s : State} {i : SliceNo} {t y : STxn} (hs : (s.sl i).stt = [y]) (hy : y.rtid = t.rtid) (hk : t.kind ≠ .pfq)
    (hway : t.way = none) (hwmb : t.wmb = none) (hntc : t.ntc = none) : endTxn i t s = s.setSl i { s.sl i with stt := [] } := by
  unfold endTxn endEntries unfill
  simp only [hway, hwmb, hntc, if_neg hk]
  simp [closeTxn, modTxn, State.modSl, State.setSl_setSl, hs, hy, modFirst, rmFirst]

/-- A Nack DEAD ends the transaction it names (R165). -/
theorem onNack_of_dead {s : State} {m : BMsg} {i : SliceNo} {t : STxn} (hi : sliceOfUnit m.dstu m.laddr = i) (hf : txnFor s i m = some t)
    (hst : t.st = .open_) (hr : m.reason = rsnDEAD) : onNack m s =
    settle i (deadTxn i { t with nacked := true } (if t.predict && !t.nacked then s.modSl i (fun x => x.predAdd t.line true) else s)) := by
  unfold onNack
  simp only [hi, hf]
  rw [if_neg (by simp [hst]), if_pos hr]

/-- Transaction x of a slice asks for the data of a read r alone, and holds no way and no buffered entry. -/
structure ReadAlone (s : State) (i : SliceNo) (x : STxn) (r : Req) : Prop where
  alone : (s.sl i).stt = [x]
  kind  : x.kind = .rdU
  reqs  : x.req = some r ∧ x.joined = []
  holds : x.way = none ∧ x.wmb = none ∧ x.ntc = none

section
variable {s : State} {i : SliceNo} {n : NodeId} {x : STxn} {r : Req} (h : ReadAlone s i x r)
include h

theorem deadTxn_of_readAlone (p : Sparse Cell4) : deadTxn i { x.peers 0 with nacked := true } (s.setSl i { s.sl i with predict := p }) =
    completeDead { r with missed := true } (s.setSl i { s.sl i with stt := [], predict := p }) := by
  obtain ⟨hreq, hjoin⟩ := h.reqs
  obtain ⟨hway, hwmb, hntc⟩ := h.holds
  have hend : endTxn i { x.peers 0 with nacked := true } (s.setSl i { s.sl i with predict := p }) = s.setSl i { s.sl i with stt := [], predict := p } := by
    have hne : x.kind ≠ .pfq := by rw [h.kind]; decide
    refine (endTxn_of_single (t := { x.peers 0 with nacked := true }) (y := x) ?_ rfl hne hway hwmb hntc).trans ?_
    · rw [State.setSl_sl]; exact h.alone
    · rw [State.setSl_setSl, State.setSl_sl]
  unfold deadTxn
  rw [hend]
  simp [STxn.peers, STxn.all, endReqs, h.kind, hreq, hjoin, hwmb, hntc, State.each]

/-- The read ends with DEAD, its transaction gone before; only the predictor of the slice may have learnt of it. -/
theorem onNack_dead (hst : x.st = .open_) : ∃ p : Sparse Cell4, onNack (deadNack s i n x) s =
    settle i (completeDead { r with missed := true } (s.setSl i { s.sl i with stt := [], predict := p })) := by
  have hfind : txnFor s i (deadNack s i n x) = some (x.peers 0) := by simp [txnFor, deadNack, h.alone, hst]
  have hpred : ∃ p, (if x.predict && !x.nacked then s.modSl i (fun y => y.predAdd x.line true) else s) = s.setSl i { s.sl i with predict := p } := by
    split
    · exact ⟨_, rfl⟩
    · exact ⟨(s.sl i).predict, (State.setSl_self s i).symm⟩
  obtain ⟨p, hp⟩ := hpred
  refine ⟨p, ?_⟩
  rw [onNack_of_dead (i := i) (sliceOfUnit_unitOf i x.line) hfind hst rfl, ← deadTxn_of_readAlone h p, ← hp]
  rfl

end

/-- A read of one line, without a bound or a stamp, of a port that is up and not in stamp mode. -/
structure PlainRead (s : State) (r : Req) : Prop where
  load  : opReads r.op = true
  whole : r.part = 0
  free  : r.bound = false ∧ r.stamp = none
  port  : (s.hp r.port).link = .up ∧ (s.hp r.port).stamped = false

/-- The read has its poisoned data, and beside that only what hosts and tools see, the transaction and the predictor have changed. -/
theorem onNack_dead_read {s : State} {i : SliceNo} {n : NodeId} {x : STxn} {r : Req} (h : ReadAlone s i x r) (hst : x.st = .open_) (hr : PlainRead s r)
    (hntc : ∀ q : Port, (s.hp q).ntc = []) (hwmb : (s.sl i).wmb = []) (hrb : (s.sl i).rb = []) (hgrp : (s.sl i).snpGrps = []) :
    ∃ p : Sparse Cell4, HostSide (s.setSl i { s.sl i with stt := [], predict := p }) (onNack (deadNack s i n x) s) ∧
      ∃ o : List Out, (onNack (deadNack s i n x) s).out = s.out ++ o ∧ .host r.port (.cmpData r.etag stDEAD 0 false true r.len 0) ∈ o := by
  obtain ⟨p, hp⟩ := onNack_dead (n := n) h hst
  obtain ⟨hbound, hstamp⟩ := hr.free
  obtain ⟨hl, hst'⟩ := hr.port
  have hread := completeDead_read (r := { r with missed := true }) (s := s.setSl i { s.sl i with stt := [], predict := p }) hr.load hr.whole hbound hstamp hst' hl
  have hsl := (hread.1.sl i).trans (State.setSl_sl s i _)
  have hidle := settle_idle (s := completeDead { r with missed := true } (s.setSl i { s.sl i with stt := [], predict := p })) (i := i)
    (fun q => (hread.1.ports q).2.2.trans (hntc q)) (by rw [hsl]; exact hwmb) (by rw [hsl]) (by rw [hsl]; exact hgrp) (by rw [hsl]; exact hrb)
  rw [hidle] at hp
  exact ⟨p, by rw [hp]; exact hread⟩

/-- With no port going down and no acknowledge owed, nothing follows the end of the wait. -/
theorem downMoves_id {s : State} (h : NoneDown s) : downMoves s = s :=
  State.each_id s _ _ fun p _ => by rw [downMove, if_neg fun hd => h p hd.1]

theorem ackRelocs_id {s : State} (h : s.home.unacked = []) : ackRelocs s = s := by rw [ackRelocs, h]; rfl

/-- What the end of the wait for a node does in a slice: its requests there that have no answer end with DEAD. -/
def deadSlice (n : NodeId) (s : State) (i : SliceNo) : State :=
  s.each ((s.sl i).stt.filter (fun t => decide (t.dst = n) && (decide (t.st = .open_) || decide (t.st = .cmpAwaited)))) (fun s t =>
    if t.st = .cmpAwaited then settle i (deadTxn i t s) else onNack (deadNack s i n t) s)

theorem deadTimeout_of_lost {s : State} {n : NodeId} (h : isLost s.node s.fabric n = true) :
    deadTimeout n s = downMoves (ackRelocs (s.each sliceNos (deadSlice n))) := by
  unfold deadTimeout
  rw [if_neg (by simp [h])]
  rfl

theorem deadSlice_of_none {s : State} {i : SliceNo} (n : NodeId) (h : (s.sl i).stt = []) : deadSlice n s i = s := by
  rw [deadSlice, h]
  rfl

theorem deadSlice_of_single {s : State} {i : SliceNo} {x : STxn} (h : (s.sl i).stt = [x]) (hst : x.st = .open_) :
    deadSlice x.dst s i = onNack (deadNack s i x.dst x) s := by
  rw [deadSlice, h]
  simp [hst, State.each]

/-- Where one read alone waits for a lost node, the end of the wait is the end of that read. -/
theorem deadTimeout_of_readAlone {s : State} {i : SliceNo} {x : STxn} {r : Req} (h : ReadAlone s i x r) (hlost : isLost s.node s.fabric x.dst = true)
    (hst : x.st = .open_) (hothers : ∀ j : SliceNo, j ≠ i → (s.sl j).stt = []) (hafter : ∀ j : SliceNo, j ≠ i → ((onNack (deadNack s i x.dst x) s).sl j).stt = []) :
    deadTimeout x.dst s = downMoves (ackRelocs (onNack (deadNack s i x.dst x) s)) := by
  have hi := deadSlice_of_single h.alone hst
  rw [deadTimeout_of_lost hlost, State.each_once (f := deadSlice x.dst) (l := sliceNos) (by decide) ((by decide : ∀ i, i ∈ sliceNos) i), hi]
  · exact fun j _ hj => deadSlice_of_none _ (hothers j hj)
  · rw [hi]; exact fun j _ hj => deadSlice_of_none _ (hafter j hj)

/-! ### The commands -/

section
variable {s : State} (hk : s.clk = true)
include hk

theorem exec_purgeWalkDone (n : NodeId) : exec (.purgeWalkDone n) s = .next (purgeDone n s) := onClock_run hk (purgeDone n)

theorem exec_sweepPassDone (n : NodeId) : exec (.sweepPassDone n) s = .next (sweepDoneFor n s) := onClock_run hk (sweepDoneFor n)

theorem exec_deadRequestTimeout (n : NodeId) : exec (.deadRequestTimeout n) s = .next (deadTimeout n s) := onClock_run hk (deadTimeout n)

theorem exec_policyWalkDone (hrun : s.fw.st = .run) (m : Member) (r : BitVec 10) : exec (.policyWalkDone m r) s = .next (policyDone m r s) :=
  (onClock_run hk (fwDo (policyDone m r))).trans (congrArg _ (fwDo_of_run hrun (policyDone m r)))

theorem exec_readmission (hrun : s.fw.st = .run) (n : NodeId) : exec (.readmission n) s = .next (readmit n s) :=
  (onClock_run hk (fwDo (readmit n))).trans (congrArg _ (fwDo_of_run hrun (readmit n)))

end

/-- Settles O38: each walk that has nothing left ends at once, and a read of a lost node ends with an event and its answer. -/
theorem walksOfTheDomainAndLostRequestsEnd : Obligations.WalksOfTheDomainAndLostRequestsEnd := by
  refine ⟨fun s n hk hs hp hwork => ⟨?_, ?_, ?_, ?_, ?_⟩, ?_⟩
  · intro m r hrun hpol hn hwt hw
    rw [exec_policyWalkDone hk hrun, policyDone_of_walked hs hp hwork hpol hn hwt hw]
    exact ⟨_, rfl, rfl, rfl, fun j => (sl_of_slices_map (s := s) rfl j).trans (Slice.endWalk_walked (hw j).1), rfl, rfl, rfl⟩
  · intro hw
    rw [exec_purgeWalkDone hk, purgeDone_of_walked hw, reportSteps_of_sends (by exact hs) (by exact hp), modLive_purged]
    exact ⟨_, rfl, rfl, rfl, fun j => (sl_of_slices_map (s := s) rfl j).trans (Slice.endWalk_walked (hw j)), rfl, rfl, rfl⟩
  · intro a b hsw hnm htt
    obtain ⟨x, hx⟩ := sweepDoneFor_of_nothing hsw hnm htt
    rw [exec_sweepPassDone hk, hx, reportSteps_of_sends (by exact hs) (by exact hp), modLive_passed]
    exact ⟨_, rfl, rfl, rfl, rfl, rfl, rfl, rfl⟩
  · intro d hrun hn hl hdead hcut hdone
    rw [exec_readmission hk hrun, readmit_of_done hn hl hdead hcut hdone]
    have h := postEvent_hostSide 0x61 6 [n.setWidth 64] (linksFreed n (readmitted n s))
    have hfab : (linksFreed n (readmitted n s)).fabric = { s.fabric with live := [] } := by rw [linksFreed_eq]; rfl
    refine ⟨_, rfl, h.fabric.trans hfab, isLost_of_no_live (by rw [h.fabric, hfab]) _ n, fun f => ?_, h.home.trans ?_, h.slices.trans ?_, h.mem.trans ?_⟩
    · rw [h.fp, linksFreed_fp, FPort.freed_eq]
      rfl
    all_goals rw [linksFreed_eq]; rfl
  · intro hrun hn hdom d hl h
    rw [exec_readmission hk hrun, readmit_of_not_done hn hl hdom h]
  · intro s i n x r hk hntc hsl hrb hgrp hwait hnone hun hlost hstt hothers hdst hst hkind hreq hjoin hxw hxn hway hop hpart hstamp hbound hl hst'
    subst hdst
    have hx : ReadAlone s i x r := ⟨hstt, hkind, ⟨hreq, hjoin⟩, hway, hxw, hxn⟩
    have hr : PlainRead s r := ⟨by rcases hop with h | h <;> rw [h] <;> rfl, hpart, ⟨hbound, hstamp⟩, hl, hst'⟩
    obtain ⟨p, hside, o, ho, hm⟩ := onNack_dead_read hx hst hr hntc (hsl i).1 hrb hgrp
    have hothers' : ∀ j : SliceNo, j ≠ i → (onNack (deadNack s i x.dst x) s).sl j = s.sl j := fun j hj =>
      (hside.sl j).trans (State.setSl_sl_other s _ hj)
    have hend := deadTimeout_of_readAlone hx hlost hst hothers fun j hj => by rw [hothers' j hj, hothers j hj]
    rw [ackRelocs_id (by rw [hside.home]; exact hun), downMoves_id fun q => by rw [(hside.ports q).1]; exact hnone q] at hend
    rw [exec_deadRequestTimeout hk, hend]
    refine ⟨_, o, rfl, ho, hm, ?_, ?_, hothers', hside.home, hside.mem⟩
    · rw [hside.sl i, State.setSl_sl]
    · rw [hside.sl i, State.setSl_sl]

end Sys2Proof.Machine
end

section
/-! PROOFS. The timeout of a snoop that is no more is not without effect: a port that went down is looked at with it (R297). -/

set_option Elab.async false

namespace Sys2Proof.Machine

/-- A running device whose host ports have gone down, each with every action of R297 complete. -/
def portsAllDown : State := { State.reset with
  crp := { State.reset.crp with pllLock := true }
  hports := Vector.replicate 4 { HPort.reset with link := .downBusy } }

theorem portsAllDown_clk : portsAllDown.clk = true := by decide +kernel

theorem portsAllDown_no_snoop : (portsAllDown.hp 0).snps.find? (fun q => decide (q.etag = 0)) = none := by decide +kernel

/-- The state of a host link after a command. -/
def linkAfter (c : Instr) (s : State) (q : Port) : HLink :=
  match exec c s with
  | .next t => (t.hp q).link
  | .fault _ | .refused _ => .down

theorem linkAfter_of_next {c : Instr} {s t : State} (h : exec c s = .next t) (q : Port) : linkAfter c s q = (t.hp q).link := by
  rw [linkAfter, h]

/-- The port may train again from then on. -/
theorem snoopTimeout_ends_down : linkAfter (.snoopTimeout 0 0) portsAllDown 0 ≠ (portsAllDown.hp 0).link := by decide +kernel

/-- Refutes O26: at the timeout of an ETAG of no snoop a port that has gone down, and whose actions of R297 are complete, takes its next state. -/
theorem not_snoopsEnd : ¬ Obligations.SnoopsEnd := by
  intro h
  obtain ⟨-, htimeout⟩ := h
  obtain ⟨hnone, -⟩ := htimeout portsAllDown 0 0 { etag := 0, line := 0, inv := false, cur := false, excl := false, slice := 0, grp := 0 }
    { id := 0, act := .ntc 0 0, line := 0, await := [] } 0 {} portsAllDown_clk
  exact snoopTimeout_ends_down (linkAfter_of_next (hnone portsAllDown_no_snoop) 0)

end Sys2Proof.Machine
end

section
/-! PROOFS. A store of the home does not take the quarantine from the directory word of its line (R155), whatever record the directory cache holds. -/

set_option Elab.async false

namespace Sys2Proof.Machine

/-- A running device of 64 GiB, its DDR5 filled, alone in its domain, whose directory cache records line 0 as held by no device. -/
def uncachedLine : State := { State.reset with
  crp := { State.reset.crp with pllLock := true }
  mem := { State.reset.mem with size := 0x1000000000, filled := true, fillBlk := 0x8000, ddr := [(0, { data := 0, word := packWord { st := .QU } })] }
  home := { State.reset.home with dir := [(0, { ents := Vector.replicate 16 none |>.set 0 (some { tag := 0, recd := {} }) })] } }

/-- A write of a whole line by the device itself. -/
def wholeWrite : BMsg := { mask := fullMask }

theorem wholeWrite_atHome : AtHome uncachedLine wholeWrite 0 { tag := 0, recd := {} } := by
  refine ⟨⟨?_, ?_, ?_, ?_, ?_, ?_, ?_, ?_, ?_⟩, ?_, ?_, ?_, ?_⟩ <;> decide +kernel

theorem uncachedLine_good : uncachedLine.good := ⟨by decide +kernel, by decide +kernel⟩

theorem uncachedLine_room : Room uncachedLine (frameOf uncachedLine wholeWrite.laddr) := by decide +kernel

/-- The directory word of a frame line after a command. -/
def wordAfter (c : Instr) (s : State) (f : Nat) : W32 :=
  match exec c s with
  | .next t => (ddrGet t f).word
  | .fault _ | .refused _ => 0

theorem wordAfter_of_next {c : Instr} {s t : State} (h : exec c s = .next t) (f : Nat) : wordAfter c s f = (ddrGet t f).word := by
  rw [wordAfter, h]

/-- A word that says neither the record nor that it was never written does not keep the record. -/
theorem not_keeps_of_wordAfter {c : Instr} {s t : State} (he : exec c s = .next t) {f i : Nat} {r : DirRec}
    (hr : wordAfter c s f ≠ packWord r) (hw : bit (wordAfter c s f) 30 = true) : ¬ Keeps t f i r := by
  rintro ⟨-, hword⟩
  rw [wordAfter_of_next he] at hr hw
  exact hword.elim hr fun h => by simp [hw] at h

/-- The word of the line still says that the line is quarantined. -/
theorem wru_leaves_quarantine : wordAfter (.wru wholeWrite) uncachedLine 0 = packWord { st := .QU } := by decide +kernel

/-- Refutes O31: `AtHome` lets the directory cache hold a record that the word of the line contradicts; a write to a line whose word is QU leaves the
word QU (R155), so that the record it ends with is not kept there. -/
theorem not_requestsAreServedByTheHome : ¬ Obligations.RequestsAreServedByTheHome := by
  intro h
  obtain ⟨hfree, -⟩ := h
  obtain ⟨-, -, -, hwru, -⟩ := hfree uncachedLine wholeWrite 0 { tag := 0, recd := {} } 0 { data := 0, word := packWord { st := .QU } }
    wholeWrite_atHome uncachedLine_good (by decide +kernel) (by decide +kernel) rfl
  obtain ⟨t, b, he, -, -, -, -, hkeeps, -⟩ := hwru uncachedLine_room
  exact not_keeps_of_wordAfter he (by rw [wru_leaves_quarantine]; decide +kernel) (by rw [wru_leaves_quarantine]; decide +kernel) hkeeps

end Sys2Proof.Machine
end

section
/-! PROOFS. What every message of a live node does on its way to its unit, and how a message leaves for a live node (R302, R314, R187, R297). -/

set_option Elab.async false

namespace Sys2Proof.Machine

theorem pmu_off {s : State} (h : fld s.dbg.pmuCtl 0 8 = 0) (ev : Nat) (inst : Option Nat) : pmu ev inst s = s := if_pos h

theorem bufferFreed_eq (i : FPortNo) (c cost n : Nat) (s : State) : ∃ fp : Vector FPort 6, bufferFreed i c cost n s = { s with fports := fp } := by
  unfold bufferFreed
  by_cases h : (s.fp i).link = .up ∨ (s.fp i).link = .upMgmt
  · exact ⟨_, if_pos h⟩
  · exact ⟨s.fports, if_neg h⟩

/-- The input buffer of a packet is a fabric port's. -/
theorem gotPkt_eq (src : NodeId) (cls : Nat) (len : BitVec 7) (s : State) : ∃ fp : Vector FPort 6, gotPkt src cls len s = { s with fports := fp } := by
  unfold gotPkt
  split
  · exact bufferFreed_eq _ _ _ _ s
  · exact ⟨s.fports, rfl⟩

/-- A message of a live node, unrefused, is taken out of its input buffer and goes to its unit. -/
theorem take_eq {s : State} {m : BMsg} (h : homeMute s = false ∧ isLost s.node s.fabric m.src = false ∧ m.rsv = none) (k : BKind) (f : State → State) :
    ∃ fp : Vector FPort 6, take k m f s = downMoves (ackRelocs (f { s with fports := fp })) := by
  obtain ⟨hmute, hlost, hrsv⟩ := h
  obtain ⟨fp, hgot⟩ := gotPkt_eq m.src (bkCode k).1.toNat (packetWords k m) s
  refine ⟨fp, ?_⟩
  rw [take, hmute, hgot]
  simp [hlost, hrsv]

/-- The unit's work is all that happens where no relocation is unacknowledged and no port goes down. -/
theorem take_quiet {s : State} {m : BMsg} (h : homeMute s = false ∧ isLost s.node s.fabric m.src = false ∧ m.rsv = none) (k : BKind) (f : State → State)
    (hf : ∀ fp : Vector FPort 6, (f { s with fports := fp }).home.unacked = [] ∧ NoneDown (f { s with fports := fp })) :
    ∃ fp : Vector FPort 6, take k m f s = f { s with fports := fp } := by
  obtain ⟨fp, htake⟩ := take_eq h k f
  obtain ⟨hun, hnone⟩ := hf fp
  exact ⟨fp, by rw [htake, ackRelocs_id hun, downMoves_id hnone]⟩

/-- A message leaves at once for a live node while transmission is neither stopped nor paused. -/
theorem sendMsg_of_sends {s : State} (hs : s.fabric.stopped = false ∧ s.fabric.pause = none) (k : BKind) {m : BMsg}
    (hl : isLost s.node s.fabric m.dst = false) : sendMsg k m s = s.emit (.msg k m) := by
  obtain ⟨hstop, hpause⟩ := hs
  unfold sendMsg
  simp [hstop, hpause, hl]

end Sys2Proof.Machine
end

section
/-! PROOFS. What the home agent changes of memory and of its directory cache: a lookup, a line written, a record kept (R148, R152, R336, R364). -/

set_option Elab.async false

namespace Sys2Proof.Machine

/-! ### The write queue -/

/-- A line put last in the write queue. -/
def enqueue (f : Nat) (d : DLine) (s : State) : State := { s with mem := { s.mem with wq := s.mem.wq ++ [(f, d)] } }

theorem queued_enqueue (f : Nat) (d : DLine) (s : State) (ch : Nat) :
    queued (enqueue f d s) ch = queued s ch + if chanOf s f = ch then 1 else 0 := by
  change ((s.mem.wq ++ [(f, d)]).filter (fun c => decide (chanOf s c.1 = ch))).length = _
  rw [List.filter_append, List.length_append]
  by_cases h : chanOf s f = ch <;> simp [queued, h]

theorem ddrGet_enqueue_same (f : Nat) (d : DLine) (s : State) : ddrGet (enqueue f d s) f = d := by
  rw [ddrGet, enqueue]
  simp

theorem ddrGet_enqueue_other {f g : Nat} (h : g ≠ f) (d : DLine) (s : State) : ddrGet (enqueue f d s) g = ddrGet s g := by
  have hf : ¬ f = g := fun e => h e.symm
  simp only [ddrGet, enqueue, List.reverse_append, List.reverse_cons, List.reverse_nil, List.nil_append, List.singleton_append, List.find?_cons,
    decide_eq_false hf]
  rfl

/-- A fill slot taken has no line yet: the lines of its block read as before (R362, R363). -/
theorem ddrGet_takeSlot (f : Nat) (s : State) (g : Nat) : ddrGet (takeSlot f s) g = ddrGet s g := by
  unfold takeSlot
  split
  · rfl
  · next h =>
    simp only [Mem.open_, Bool.or_eq_true, not_or, Bool.not_eq_true] at h
    obtain ⟨⟨hfill, hslot⟩, -⟩ := h
    unfold ddrGet
    simp only [Mem.isFilled, List.find?_append] at *
    by_cases hg : blockOf g = blockOf f
    · have hnone : s.mem.fillSlots.find? (fun c => decide (c.1 = blockOf f)) = none := by
        rw [List.find?_eq_none]
        simpa using hslot
      simp only [hg, hnone, Option.none_or, List.find?_cons, decide_true, List.contains_nil, Bool.false_eq_true, if_false]
    · have hg' : ¬ blockOf f = blockOf g := fun e => hg e.symm
      simp only [List.find?_cons, decide_eq_false hg', List.find?_nil, Option.or_none]
      rfl

theorem takeSlot_eq (f : Nat) (s : State) : ∃ sl : List (Nat × List Nat), takeSlot f s = { s with mem := { s.mem with fillSlots := sl } } := by
  unfold takeSlot
  split
  · exact ⟨s.mem.fillSlots, rfl⟩
  · exact ⟨_, rfl⟩

/-- A write to a channel with room, while no region moves, enters the queue. -/
theorem ddrPut_of_room {f : Nat} {s : State} (hr : s.home.relocs = []) (hroom : queued s (chanOf s f) < 256) (d : DLine) :
    ddrPut f d s = enqueue f d (takeSlot f s) := by
  simp [ddrPut, hr, ddrQueue, makeRoom, hroom, enqueue]

/-! ### What a store of the home changes -/

/-- From s to t only the directory cache and the write queue change, and of the lines of DDR5 line f alone; n lines have entered the queue. -/
structure Stores (s t : State) (f n : Nat) : Prop where
  only  : ∃ (dir : Sparse DirSet) (wq : List (Nat × DLine)) (sl : List (Nat × List Nat)),
    t = { s with home := { s.home with dir := dir }, mem := { s.mem with wq := wq, fillSlots := sl } }
  lines : ∀ g : Nat, g ≠ f → ddrGet t g = ddrGet s g
  queue : ∀ ch : Nat, queued t ch ≤ queued s ch + n

namespace Stores

theorem refl (s : State) (f : Nat) : Stores s s f 0 := ⟨⟨_, _, _, rfl⟩, fun _ _ => rfl, fun _ => Nat.le_refl _⟩

theorem trans {s t u : State} {f n k : Nat} (h : Stores s t f n) (h' : Stores t u f k) : Stores s u f (n + k) := by
  refine ⟨?_, fun g hg => (h'.lines g hg).trans (h.lines g hg), fun ch => ?_⟩
  · obtain ⟨_, _, _, rfl⟩ := h.only
    obtain ⟨_, _, _, rfl⟩ := h'.only
    exact ⟨_, _, _, rfl⟩
  · have h1 := h.queue ch
    have h2 := h'.queue ch
    omega

variable {s t : State} {f n : Nat} (h : Stores s t f n)
include h

/-- The parts that no store of the home reaches. -/
theorem parts : t.slices = s.slices ∧ t.hports = s.hports ∧ t.stamp = s.stamp ∧ t.aon = s.aon ∧ t.pins = s.pins ∧ t.crp = s.crp ∧ t.node = s.node ∧
    t.fabric = s.fabric ∧ t.dbg = s.dbg ∧ t.out = s.out := by
  obtain ⟨_, _, _, rfl⟩ := h.only
  exact ⟨rfl, rfl, rfl, rfl, rfl, rfl, rfl, rfl, rfl, rfl⟩

theorem home : t.home = { s.home with dir := t.home.dir } := by
  obtain ⟨_, _, _, rfl⟩ := h.only
  rfl

theorem frameOf_eq (l : LAddr) : frameOf t l = frameOf s l := by
  obtain ⟨_, _, _, rfl⟩ := h.only
  rfl

theorem chanOf_eq (g : Nat) : chanOf t g = chanOf s g := by
  obtain ⟨_, _, _, rfl⟩ := h.only
  rfl

theorem ddrFlaw_eq : t.mem.ddrFlaw = s.mem.ddrFlaw := by
  obtain ⟨_, _, _, rfl⟩ := h.only
  rfl

theorem homeAlone : HomeAlone s t f := by
  obtain ⟨hsl, hhp, hst, haon, hpins, hcrp, -⟩ := h.parts
  exact ⟨hsl, hhp, hst, ⟨haon, hpins, hcrp⟩, h.lines⟩

end Stores

theorem stores_enqueue (f : Nat) (d : DLine) (s : State) : Stores s (enqueue f d s) f 1 :=
  ⟨⟨_, _, _, rfl⟩, fun _ hg => ddrGet_enqueue_other hg d s, fun ch => by rw [queued_enqueue]; split <;> omega⟩

theorem stores_takeSlot (f : Nat) (s : State) : Stores s (takeSlot f s) f 0 := by
  refine ⟨?_, fun g _ => ddrGet_takeSlot f s g, fun ch => ?_⟩
  all_goals obtain ⟨_, hsl⟩ := takeSlot_eq f s; rw [hsl]
  · exact ⟨_, _, _, rfl⟩
  · exact Nat.le_refl _

theorem stores_ddrPut {f : Nat} {s : State} (hr : s.home.relocs = []) (hroom : queued s (chanOf s f) < 256) (d : DLine) :
    Stores s (ddrPut f d s) f 1 ∧ ddrGet (ddrPut f d s) f = d := by
  rw [ddrPut_of_room hr hroom]
  exact ⟨by simpa using (stores_takeSlot f s).trans (stores_enqueue f d _), ddrGet_enqueue_same f d _⟩

/-- The tree of a set of the directory cache after a hit of an entry (R148). -/
def touchDir (f i : Nat) (s : State) : State :=
  s.modHome (fun h => { h with dir := spMod {} (dirSetIdx f) (fun q => { q with tree := treeTouch 4 0 i q.tree }) h.dir })

theorem stores_touchDir (f i g : Nat) (s : State) : Stores s (touchDir f i s) g 0 :=
  ⟨⟨_, _, _, rfl⟩, fun _ _ => rfl, fun _ => Nat.le_refl _⟩

/-- A lookup that finds a good entry reads no memory. -/
theorem dirLook_of_entry {s : State} {l : LAddr} {i : Nat} {e : DirEnt} (hc : s.home.entry (frameOf s l) = some (i, e) ∧ e.bad = false) :
    dirLook l s = (e.recd, false, touchDir (frameOf s l) i s) := by
  obtain ⟨hentry, hgood⟩ := hc
  simp [dirLook, hentry, hgood, touchDir]

theorem stores_dirSet (f : Nat) (r : DirRec) (s : State) : Stores s (dirSet f r s) f 0 ∧ (dirSet f r s).mem = s.mem := by
  unfold dirSet
  split
  · exact ⟨⟨⟨_, _, _, rfl⟩, fun _ _ => rfl, fun _ => Nat.le_refl _⟩, rfl⟩
  · exact ⟨.refl s f, rfl⟩

/-- A line that reads clean, or is served from the write queue. -/
theorem ddrCond_of_clean {s : State} {f : Nat} (h : spGet {} s.mem.ddrFlaw f = {}) : ddrCond s f = .clean := by
  unfold ddrCond
  split
  · rw [h]; rfl
  · rfl

/-- The data of a line is written; its word stays. -/
theorem stores_homeWrite {s : State} {l : LAddr} (hr : s.home.relocs = []) (hroom : queued s (chanOf s (frameOf s l)) < 256) (d : Line) :
    Stores s (homeWrite l d s) (frameOf s l) 1 ∧ ddrGet (homeWrite l d s) (frameOf s l) = { ddrGet s (frameOf s l) with data := d } :=
  stores_ddrPut hr hroom _

/-- A record is kept, and the data of its line stays. -/
theorem stores_dirStore {s : State} {l : LAddr} (hr : s.home.relocs = []) (hroom : queued s (chanOf s (frameOf s l)) < 256)
    (hclean : spGet {} s.mem.ddrFlaw (frameOf s l) = {}) (r : DirRec) :
    Stores s (dirStore l r s) (frameOf s l) 1 ∧ Recorded (dirStore l r s) (frameOf s l) r ∧
      (ddrGet (dirStore l r s) (frameOf s l)).data = (ddrGet s (frameOf s l)).data := by
  have hset (t : State) : ddrGet (dirSet (frameOf s l) r t) (frameOf s l) = ddrGet t (frameOf s l) := by
    simp only [ddrGet, (stores_dirSet (frameOf s l) r t).2]
  unfold dirStore
  simp only [ddrCond_of_clean hclean]
  split
  · next hword =>
    refine ⟨?_, ?_, ?_⟩
    · obtain ⟨hst, -⟩ := stores_dirSet (frameOf s l) r s
      exact ⟨hst.only, hst.lines, fun ch => Nat.le_succ_of_le (hst.queue ch)⟩
    · rw [Recorded, hset]
      simpa using hword
    · rw [hset]
  · obtain ⟨hput, hget⟩ := stores_ddrPut hr hroom { ddrGet s (frameOf s l) with word := packWord r }
    refine ⟨hput.trans (stores_dirSet _ r _).1, .inl ?_, ?_⟩ <;> simp [hset, hget]

end Sys2Proof.Machine
end


section
/-! PROOFS. A Put reaches the home (R134, R141, R159, R160). -/

set_option Elab.async false

namespace Sys2Proof.Machine

theorem Reaches.withFports {s : State} {m : BMsg} (h : Reaches s m) (fp : Vector FPort 6) : Reaches { s with fports := fp } m :=
  ⟨h.clk, h.heard, h.region, h.near, h.plain, h.told, h.ports, h.sends, h.pmu⟩

theorem AtHome.withFports {s : State} {m : BMsg} {i : Nat} {e : DirEnt} (h : AtHome s m i e) (fp : Vector FPort 6) :
    AtHome { s with fports := fp } m i e :=
  ⟨h.toReaches.withFports fp, h.idle, h.cached, h.alive, h.clean⟩

/-- What a Put with no transaction open does to its line, whose record is r, before it is answered. -/
def putLine (k : BKind) (m : BMsg) (r : DirRec) (s : State) : State :=
  let data := decide (k = .putM) || decide (k = .putO)
  if isCurrent k m r then
    if data then dirStore m.laddr { r.put k (retains k m) (memOf m.src) with poison := m.poison } (homeWrite m.laddr m.data s)
    else dirStore m.laddr (r.put k (retains k m) (memOf m.src)) s
  else if data then s.modHome (fun h => { h with stalePut := h.stalePut + 1 })
  else s

/-- A Put with no transaction open looks its line up, does what its kind says, and is answered. -/
theorem onPut_eq {s : State} {m : BMsg} {i : Nat} {e : DirEnt} (h : AtHome s m i e) (hq : e.recd.st ≠ .QU) (k : BKind) :
    onPut k m s = wbAck m (putLine k m e.recd (touchDir (frameOf s m.laddr) i s)) := by
  obtain ⟨hmute, hlost, -⟩ := h.heard
  obtain ⟨-, htaken, -⟩ := h.region
  have htxn : s.home.txn m.laddr = none := by rw [Home.txn, h.idle.1]; rfl
  unfold onPut putLine
  simp only [hmute, hlost, htaken, htxn, dirLook_of_entry h.cached, hq, if_false, Bool.or_self, Bool.false_eq_true]
  cases isCurrent k m e.recd <;> cases decide (k = .putM) || decide (k = .putO) <;> simp

/-- The WbAck leaves for the sender. -/
theorem wbAck_of_reaches {s t : State} {m : BMsg} (h : Reaches s m) (hn : t.node = s.node) (hf : t.fabric = s.fabric) :
    ∃ b : BMsg, wbAck m t = t.emit (.msg .wbAck b) ∧ Answers s m b := by
  have hs : t.fabric.stopped = false ∧ t.fabric.pause = none := by rw [hf]; exact h.sends
  have hl : isLost t.node t.fabric m.src = false := by rw [hn, hf]; exact h.heard.2.1
  exact ⟨_, sendMsg_of_sends hs .wbAck hl, ⟨rfl, rfl⟩, ⟨by rw [← hn], rfl⟩, rfl, rfl⟩

theorem exec_put {s : State} (hk : s.clk = true) {m : BMsg} {k : BKind} {c : Instr}
    (hc : (k, c) ∈ [(BKind.putM, Instr.putm m), (.putO, .puto m), (.putE, .pute m), (.putS, .puts m)]) :
    exec c s = .next (take k m (onPut k m) s) := by
  simp only [List.mem_cons, Prod.mk.injEq, List.not_mem_nil, or_false] at hc
  obtain ⟨rfl, rfl⟩ | ⟨rfl, rfl⟩ | ⟨rfl, rfl⟩ | ⟨rfl, rfl⟩ := hc <;> exact onClock_run hk _

section
variable {s : State} {m : BMsg} {f : Nat} {r : DirRec} {k : BKind} (hr : s.home.relocs = []) (hf : f = frameOf s m.laddr) (hroom : Room s f)
  (hclean : spGet {} s.mem.ddrFlaw f = {})
include hr hf hroom hclean

/-- A current Put with data. -/
theorem putLine_data (hcur : isCurrent k m r = true) (hk : k = .putM ∨ k = .putO) :
    Stores s (putLine k m r s) f 2 ∧ (ddrGet (putLine k m r s) f).data = m.data ∧
      Recorded (putLine k m r s) f { r.put k m.retain (memOf m.src) with poison := m.poison } := by
  subst hf
  have hdata : (decide (k = .putM) || decide (k = .putO)) = true := by simpa using hk
  have hret : retains k m = m.retain := by rw [retains, hdata, Bool.and_true]
  obtain ⟨hw, hget⟩ := stores_homeWrite (l := m.laddr) hr (by omega) m.data
  have hq := hw.queue (chanOf s (frameOf s m.laddr))
  have hd := stores_dirStore (s := homeWrite m.laddr m.data s) (l := m.laddr) (by rw [hw.home]; exact hr)
    (by rw [hw.frameOf_eq, hw.chanOf_eq]; omega) (by rw [hw.frameOf_eq, hw.ddrFlaw_eq]; exact hclean)
    { r.put k m.retain (memOf m.src) with poison := m.poison }
  rw [hw.frameOf_eq, hget] at hd
  obtain ⟨hst, hrec, hkept⟩ := hd
  simp only [putLine, hcur, hdata, hret, if_true]
  exact ⟨hw.trans hst, hkept, hrec⟩

/-- A current Put without data. -/
theorem putLine_clean (hcur : isCurrent k m r = true) (hk : k = .putE ∨ k = .putS) :
    Stores s (putLine k m r s) f 1 ∧ (ddrGet (putLine k m r s) f).data = (ddrGet s f).data ∧
      Recorded (putLine k m r s) f (r.put k false (memOf m.src)) := by
  subst hf
  have hdata : (decide (k = .putM) || decide (k = .putO)) = false := by rcases hk with rfl | rfl <;> rfl
  have hret : retains k m = false := by rw [retains, hdata, Bool.and_false]
  obtain ⟨hst, hrec, hkept⟩ := stores_dirStore (l := m.laddr) hr (by omega) hclean (r.put k false (memOf m.src))
  simp only [putLine, hcur, hdata, hret, if_true, Bool.false_eq_true, if_false]
  exact ⟨hst, hkept, hrec⟩

end

/-- A Put that is not current. -/
theorem putLine_stale {s : State} {m : BMsg} {r : DirRec} {k : BKind} (hcur : isCurrent k m r = false) :
    putLine k m r s = s.modHome (fun h => { h with stalePut := h.stalePut + if k = .putM ∨ k = .putO then 1 else 0 }) := by
  by_cases hk : k = .putM ∨ k = .putO
  · have hdata : (decide (k = .putM) || decide (k = .putO)) = true := by simpa using hk
    simp only [putLine, hcur, hdata, hk, if_true, Bool.false_eq_true, if_false]
  · have hdata : (decide (k = .putM) || decide (k = .putO)) = false := by simpa using hk
    simp [putLine, hcur, hdata, hk, State.modHome]

theorem isCurrent_iff {k : BKind} {m : BMsg} {r : DirRec} :
    isCurrent k m r = true ↔ r.names (memOf m.src) = true ∧ (k = .putS ∨ m.osn = r.osn) := by
  simp [isCurrent]

/-- From s to t a Put k with no transaction open has done its work on frame line f, whose record was r. -/
structure PutDone (s t : State) (m : BMsg) (k : BKind) (r : DirRec) (f : Nat) : Prop where
  alone : HomeAlone s t f
  home  : t.home.tt = s.home.tt ∧ t.home.unacked = s.home.unacked
  rest  : t.node = s.node ∧ t.fabric = s.fabric ∧ t.out = s.out
  taken : isCurrent k m r = true → t.home.stalePut = s.home.stalePut ∧
    (k = .putM ∨ k = .putO → (ddrGet t f).data = m.data ∧ Recorded t f { r.put k m.retain (memOf m.src) with poison := m.poison }) ∧
    (k = .putE ∨ k = .putS → (ddrGet t f).data = (ddrGet s f).data ∧ Recorded t f (r.put k false (memOf m.src)))
  stale : isCurrent k m r = false → t.mem = s.mem ∧ t.home.stalePut = s.home.stalePut + if k = .putM ∨ k = .putO then 1 else 0

theorem PutDone.of_stores {s t : State} {m : BMsg} {k : BKind} {r : DirRec} {f n : Nat} (hcur : isCurrent k m r = true) (h : Stores s t f n)
    (hd : k = .putM ∨ k = .putO → (ddrGet t f).data = m.data ∧ Recorded t f { r.put k m.retain (memOf m.src) with poison := m.poison })
    (he : k = .putE ∨ k = .putS → (ddrGet t f).data = (ddrGet s f).data ∧ Recorded t f (r.put k false (memOf m.src))) : PutDone s t m k r f := by
  obtain ⟨-, -, -, -, -, -, hn, hfab, -, hout⟩ := h.parts
  exact ⟨h.homeAlone, ⟨by rw [h.home], by rw [h.home]⟩, ⟨hn, hfab, hout⟩, fun _ => ⟨by rw [h.home], hd, he⟩, fun hno => by simp [hcur] at hno⟩

theorem putLine_done {s : State} {m : BMsg} {f : Nat} {r : DirRec} (hr : s.home.relocs = []) (hf : f = frameOf s m.laddr) (hroom : Room s f)
    (hclean : spGet {} s.mem.ddrFlaw f = {}) {k : BKind} (hk : k = .putM ∨ k = .putO ∨ k = .putE ∨ k = .putS) :
    PutDone s (putLine k m r s) m k r f := by
  cases hcur : isCurrent k m r
  · rw [putLine_stale hcur]
    exact ⟨⟨rfl, rfl, rfl, ⟨rfl, rfl, rfl⟩, fun _ _ => rfl⟩, ⟨rfl, rfl⟩, ⟨rfl, rfl, rfl⟩, fun h => by simp [hcur] at h, fun _ => ⟨rfl, rfl⟩⟩
  · rcases or_assoc.2 hk with hd | he
    · obtain ⟨hst, hput⟩ := putLine_data hr hf hroom hclean hcur hd
      exact .of_stores hcur hst (fun _ => hput) fun he => by rcases hd with rfl | rfl <;> simp at he
    · obtain ⟨hst, hput⟩ := putLine_clean hr hf hroom hclean hcur he
      exact .of_stores hcur hst (fun hd => by rcases he with rfl | rfl <;> simp at hd) fun _ => hput

theorem noneDown_of_hports {s t : State} (h : t.hports = s.hports) (hs : NoneDown s) : NoneDown t := fun q => by
  have hp : t.hp q = s.hp q := by rw [State.hp, State.hp, h]
  rw [hp]
  exact hs q

/-- A Put's way from the fabric to its answer. -/
theorem exec_put_done {s : State} {m : BMsg} {i : Nat} {e : DirEnt} {f : Nat} {k : BKind} {c : Instr} (hat : AtHome s m i e) (hf : f = frameOf s m.laddr)
    (hq : e.recd.st ≠ .QU) (hroom : Room s f)
    (hc : (k, c) ∈ [(BKind.putM, Instr.putm m), (.putO, .puto m), (.putE, .pute m), (.putS, .puts m)]) :
    ∃ (t : State) (b : BMsg), exec c s = .next (t.emit (.msg .wbAck b)) ∧ Answers s m b ∧ PutDone s t m k e.recd f := by
  have hk : k = .putM ∨ k = .putO ∨ k = .putE ∨ k = .putS := by
    simp only [List.mem_cons, Prod.mk.injEq, List.not_mem_nil, or_false] at hc
    tauto
  have hput (fp : Vector FPort 6) : ∃ (t : State) (b : BMsg), onPut k m { s with fports := fp } = t.emit (.msg .wbAck b) ∧ Answers s m b ∧
      PutDone s t m k e.recd f := by
    obtain ⟨⟨hsl, hhp, hst, haon, hlines⟩, hhome, ⟨hn, hfab, hout⟩, htaken, hstale⟩ := putLine_done (s := touchDir f i { s with fports := fp })
      (r := e.recd) hat.told.2 hf hroom (by rw [hf]; exact hat.clean) hk
    obtain ⟨b, hb, hans⟩ := wbAck_of_reaches (hat.toReaches.withFports fp) hn hfab
    refine ⟨_, b, ?_, ⟨hans.dst, hans.src, hans.line⟩, ⟨hsl, hhp, hst, haon, hlines⟩, hhome, ⟨hn, hfab, hout⟩, htaken, hstale⟩
    subst hf
    exact (onPut_eq (hat.withFports fp) hq k).trans hb
  obtain ⟨fp, htake⟩ := take_quiet hat.heard k (onPut k m) fun fp => by
    obtain ⟨t, b, hb, -, hdone⟩ := hput fp
    rw [hb]
    exact ⟨hdone.home.2.trans hat.told.1, noneDown_of_hports hdone.alone.hports hat.ports⟩
  obtain ⟨t, b, hb, hans, hdone⟩ := hput fp
  exact ⟨t, b, by rw [exec_put hat.clk hc, htake, hb], hans, hdone⟩

/-- Settles O32: the Put finds its record in the directory cache, and memory and the record take what its kind gives. -/
theorem putsAreTakenOrStale : Obligations.PutsAreTakenOrStale := by
  intro s m i e f k c hat _ hf hq hroom hc
  obtain ⟨t, b, hexec, hans, halone, ⟨htt, -⟩, ⟨-, -, hout⟩, htaken, hstale⟩ := exec_put_done hat hf hq hroom hc
  refine ⟨t.emit (.msg .wbAck b), b, hexec, by rw [State.emit, hout], hans, htt.trans hat.idle.1,
    ⟨halone.slices, halone.hports, halone.stamp, halone.aon, halone.lines⟩, fun hnames hosn => htaken (isCurrent_iff.2 ⟨hnames, hosn⟩),
    fun hnot => hstale ?_⟩
  rw [← Bool.not_eq_true, isCurrent_iff]
  rintro ⟨hnames, hosn⟩
  rcases hnot with h | ⟨hs, ho⟩
  · simp [h] at hnames
  · exact hosn.elim hs ho

end Sys2Proof.Machine
end

section
/-! PROOFS. The transaction table with one entry: what an answer and a timer make of it (R133, R140, R157, R160, R162, R168, R176). -/

set_option Elab.async false

namespace Sys2Proof.Machine

/-! ### A table of one entry -/

/-- The home's table with these entries. -/
def withTt (l : List HTxn) (s : State) : State := { s with home := { s.home with tt := l } }

/-- The table after what was done on a transaction that is now y: closed when nothing is left to await. -/
def closeDone (n : Nat) (s : State) : State :=
  match s.home.at_ n with
  | none => s
  | some u => if u.acted && !u.waitAck && u.putOf.isNone then closeT u s else s

/-- A transaction that awaits no answer before it acts. -/
def HTxn.ready (t : HTxn) : Bool := !t.acted && t.waitInv.isEmpty && !t.waitB && t.probeOf.isNone && (t.putOf.isNone || t.fwdTo.isSome)

section
variable {s : State} {y : HTxn} (ht : s.home.tt = [y])
include ht

theorem modT_single (g : HTxn → HTxn) : modT y.num g s = withTt [g y] s := by
  simp [modT, ht, modFirst, State.modHome, withTt]

theorem at_single (hc : y.claim = none) : s.home.at_ y.num = some y := by
  simp [Home.at_, ht, hc]

theorem advance_single (hc : y.claim = none) : advance y.num s = closeDone y.num (if y.ready then doAct y s else s) := by
  rw [advance, at_single ht hc]
  rfl

theorem closeDone_waits (hc : y.claim = none) (hw : y.waitAck = true) : closeDone y.num s = s := by
  simp [closeDone, at_single ht hc, hw]

theorem closeDone_closes (hc : y.claim = none) (hd : y.acted = true ∧ y.waitAck = false ∧ y.putOf = none) : closeDone y.num s = closeT y s := by
  obtain ⟨hacted, hwait, hput⟩ := hd
  simp [closeDone, at_single ht hc, hacted, hwait, hput]

/-- Nothing is done for a transaction that has acted and awaits the requester's Ack. -/
theorem advance_waits (hc : y.claim = none) (hacted : y.acted = true) (hw : y.waitAck = true) : advance y.num s = s := by
  have hready : y.ready = false := by simp [HTxn.ready, hacted]
  rw [advance_single ht hc, hready, if_neg Bool.false_ne_true, closeDone_waits ht hc hw]

end

/-- The table holds one transaction y, without Put or claimant, of a line whose word is not QU and with which nothing is wrong in memory. -/
structure Lone (s : State) (y : HTxn) : Prop where
  table : s.home.tt = [y] ∧ s.home.tablePend = none ∧ s.home.relocs = []
  plain : y.claim = none ∧ y.puts = [] ∧ y.pend = none
  clean : spGet {} s.mem.ddrFlaw (frameOf s y.line) = {} ∧ wordQU s y.line = false

/-- The entry of a closed transaction is free, and its record is kept. -/
theorem closeT_lone {s : State} {y : HTxn} (h : Lone s y) (hroom : queued s (chanOf s (frameOf s y.line)) < 256) :
    ∃ u : State, closeT y s = withTt [] u ∧ Stores s u (frameOf s y.line) 1 ∧ Recorded u (frameOf s y.line) y.after ∧
      (ddrGet u (frameOf s y.line)).data = (ddrGet s (frameOf s y.line)).data := by
  obtain ⟨⟨ht, htab, hr⟩, ⟨-, hputs, hpend⟩, hclean, hqu⟩ := h
  obtain ⟨hst, hrec⟩ := stores_dirStore (l := y.line) hr hroom hclean y.after
  have htt : (dirStore y.line y.after s).home.tt = [y] := by rw [hst.home]; exact ht
  have htab' : (dirStore y.line y.after s).home.tablePend = none := by rw [hst.home]; exact htab
  refine ⟨_, ?_, hst, hrec⟩
  simp only [closeT, hputs, hqu, List.foldl_nil, Bool.false_and, Bool.false_eq_true, if_false, State.each_nil, freeEntry, hpend]
  simp [State.modHome, htt, htab', withTt]

/-! ### What a transaction does when its answers are in -/

/-- A transaction that has done what it waited to do. -/
def HTxn.done (t : HTxn) : HTxn := { t with acted := true }

theorem doAct_merge_eq {s : State} {y : HTxn} {d : Line × Bool × Bool} (hact : y.act = .merge) (hgot : y.got = some d) :
    doAct y s = sendMsg .cmp (toReq s y) (modT y.num (fun u => { u with after := { u.after with poison := poisonAfter d.2.1 y.req.poison y.req.mask } })
      (homeWrite y.line (mergeLine d.1 y.req.data y.req.mask) (modT y.num HTxn.done s))) := by
  simp only [doAct, hact, hgot]
  rfl

section
variable {s : State} {y : HTxn} (ht : s.home.tt = [y]) (hl : isLost s.node s.fabric y.req.src = false)
  (hs : s.fabric.stopped = false ∧ s.fabric.pause = none)
include ht hl hs

theorem doAct_cmp (hact : y.act = .cmp) : doAct y s = (withTt [y.done] s).emit (.msg .cmp (toReq s y)) := by
  simp only [doAct, hact, modT_single ht]
  rw [sendMsg_of_sends (by exact hs) _ (by exact hl), HTxn.done, hact]

/-- A grant with no allocation sends the data that has come. -/
theorem doAct_grant_nc {k : BKind} {fwdr : Bool} {d : Line × Bool × Bool} (hact : y.act = .grant k fwdr true) (hgot : y.got = some d) :
    doAct y s = (withTt [y.done] s).emit (.msg k { toReq s y with data := d.1, poison := d.2.1, fwdr := fwdr, nc := true }) := by
  simp only [doAct, hact, hgot, modT_single ht]
  rw [sendMsg_of_sends (by exact hs) _ (by exact hl), HTxn.done, hact, hgot]
  rfl

/-- A write's bytes are merged into the data that has come. -/
theorem doAct_merge {d : Line × Bool × Bool} (hact : y.act = .merge) (hgot : y.got = some d) (hr : s.home.relocs = [])
    (hroom : queued s (chanOf s (frameOf s y.line)) < 256) :
    ∃ u : State, doAct y s =
        (withTt [{ y.done with after := { y.after with poison := poisonAfter d.2.1 y.req.poison y.req.mask } }] u).emit (.msg .cmp (toReq s y)) ∧
      Stores (withTt [y.done] s) u (frameOf s y.line) 1 ∧
      ddrGet u (frameOf s y.line) = { ddrGet s (frameOf s y.line) with data := mergeLine d.1 y.req.data y.req.mask } := by
  obtain ⟨hw, hget⟩ := stores_homeWrite (s := withTt [y.done] s) (l := y.line) hr hroom (mergeLine d.1 y.req.data y.req.mask)
  refine ⟨_, ?_, hw, hget⟩
  obtain ⟨-, -, -, -, -, -, hn, hfab, -, -⟩ := hw.parts
  rw [doAct_merge_eq hact hgot, modT_single ht]
  have htt : (homeWrite y.line (mergeLine d.1 y.req.data y.req.mask) (withTt [y.done] s)).home.tt = [y.done] := by rw [hw.home]; rfl
  rw [show modT y.num _ _ = _ from modT_single (y := y.done) htt _, sendMsg_of_sends (by rw [withTt, hfab]; exact hs) _ (by rw [withTt, hfab, hn]; exact hl)]
  rfl

end

/-! ### The answers of an open transaction -/

theorem Opened.withFports {s : State} {m : BMsg} {x : HTxn} (h : Opened s m x) (fp : Vector FPort 6) : Opened { s with fports := fp } m x :=
  ⟨h.clk, h.heard, h.table, h.names, h.plain, h.alive, h.clean, h.ports, h.sends, h.pmu⟩

/-- The message is of its transaction. -/
theorem answered_opened {s : State} {m : BMsg} {x : HTxn} (h : Opened s m x) (g : HTxn → State) : answered m s g = g x := by
  obtain ⟨hmute, hlost, -⟩ := h.heard
  obtain ⟨hnum, hline⟩ := h.names
  simp [answered, hmute, hlost, h.table.1, hnum, hline, h.plain.1]

/-- A message of the transaction is carried out, where that leaves the relocations and the host ports as they are. -/
theorem exec_opened {s : State} {m : BMsg} {x : HTxn} (h : Opened s m x) {c : Instr} {k : BKind} {g : State → State}
    (hc : exec c s = .next (take k m g s)) {Q : State → BMsg → Prop}
    (hg : ∀ fp : Vector FPort 6, ∃ (t : State) (b : BMsg), g { s with fports := fp } = t ∧ t.home.unacked = s.home.unacked ∧ t.hports = s.hports ∧ Q t b) :
    ∃ (t : State) (b : BMsg), exec c s = .next t ∧ Q t b := by
  obtain ⟨fp, htake⟩ := take_quiet h.heard k g fun fp => by
    obtain ⟨t, b, ht, hun, hhp, -⟩ := hg fp
    rw [ht]
    exact ⟨hun.trans h.table.2.2.1, noneDown_of_hports hhp h.ports⟩
  obtain ⟨t, b, ht, -, -, hq⟩ := hg fp
  exact ⟨t, b, by rw [hc, htake, ht], hq⟩

/-- The record that the requester's Ack leaves: one for a shared read forwarded to E1 says whether the copy was clean (R140). -/
def ackRec (m : BMsg) (x : HTxn) : DirRec :=
  if m.fwdr = true ∧ x.recd.st = .E1 ∧ x.kind = .rdS then x.after.shared x.after.holders (some (memOf m.src)) else x.after

/-- The transaction with its requester's Ack in. -/
def HTxn.acked (x : HTxn) (m : BMsg) : HTxn := { x with waitAck := false, after := ackRec m x }
/-- The transaction with the last answer of its holders in. -/
def HTxn.invAcked (x : HTxn) (m : BMsg) : HTxn := { x with waitInv := [], waitB := false, allow := max x.allow m.allow }
/-- The transaction with the data of its probed owner in. -/
def HTxn.probed (x : HTxn) (m : BMsg) (dirty : Bool) : HTxn :=
  { x with probeOf := none, got := some (m.data, m.poison, dirty), allow := max x.allow m.allow }

section
variable {s : State} {m : BMsg} {x : HTxn} (h : Opened s m x)
include h

theorem Opened.lone {y : HTxn} (hy : y.line = x.line ∧ y.claim = none ∧ y.puts = [] ∧ y.pend = none) : Lone (withTt [y] s) y := by
  obtain ⟨hline, hplain⟩ := hy
  refine ⟨⟨rfl, h.table.2.1, h.table.2.2.2⟩, hplain, ?_, ?_⟩
  · rw [hline]; exact h.clean.1
  · rw [hline]; exact h.clean.2

theorem onAck_eq (hw : x.waitAck = true) (hsrc : m.src = x.req.src ∧ m.srcu = x.req.srcu) :
    onAck m s = advance x.num (withTt [x.acked m] s) := by
  have hact : (x.waitAck && decide (m.src = x.req.src) && decide (m.srcu = x.req.srcu)) = true := by simp [hw, hsrc]
  rw [onAck, answered_opened h, if_pos hact]
  extract_lets after
  have hafter : after = ackRec m x := by simp [after, ackRec, and_assoc]
  rw [modT_single h.table.1, hafter]
  rfl

theorem onInvAck_eq {comb : Bool} (hcomb : comb = true → x.waitInv = []) (hone : comb = false → x.waitB = false ∧ x.waitInv = [memOf m.src]) :
    onInvAck m comb s = advance x.num (withTt [x.invAcked m] s) := by
  rw [onInvAck, answered_opened h]
  cases comb
  · obtain ⟨hb, hinv⟩ := hone rfl
    rw [if_neg Bool.false_ne_true, if_pos (by simp [hinv]), modT_single h.table.1, HTxn.invAcked, ← hb]
    simp [hinv]
  · rw [if_pos rfl, modT_single h.table.1, HTxn.invAcked, ← hcomb rfl]

theorem onProbe_eq (dirty : Bool) (hp : x.probeOf = some (memOf m.src)) :
    onProbe m dirty s = advance x.num (withTt [x.probed m dirty] s) := by
  rw [onProbe, answered_opened h, if_pos hp, modT_single h.table.1, HTxn.probed]

/-- The requester's Ack closes a transaction that has acted. -/
theorem onAck_closes (hroom : Room s (frameOf s x.line)) (hacted : x.acted = true) (hw : x.waitAck = true)
    (hsrc : m.src = x.req.src ∧ m.srcu = x.req.srcu) :
    ∃ u : State, onAck m s = withTt [] u ∧ Stores (withTt [x.acked m] s) u (frameOf s x.line) 1 ∧
      Recorded u (frameOf s x.line) (ackRec m x) ∧ (ddrGet u (frameOf s x.line)).data = (ddrGet s (frameOf s x.line)).data := by
  obtain ⟨hclaim, hpend, hputs, -, hput, -⟩ := h.plain
  have hready : (x.acked m).ready = false := by simp [HTxn.ready, HTxn.acked, hacted]
  have hone : (withTt [x.acked m] s).home.tt = [x.acked m] := rfl
  have hadv : advance x.num (withTt [x.acked m] s) = closeT (x.acked m) (withTt [x.acked m] s) := by
    have h1 := advance_single hone hclaim
    rwa [hready, if_neg Bool.false_ne_true, closeDone_closes hone hclaim ⟨hacted, rfl, hput⟩] at h1
  rw [onAck_eq h hw hsrc, hadv]
  exact closeT_lone (h.lone ⟨rfl, hclaim, hputs, hpend⟩) (by exact (by omega : queued s (chanOf s (frameOf s x.line)) < 256))

/-- The last answer that an upgrade awaits from the holders lets it be granted; the requester's Ack is still awaited. -/
theorem onInvAck_grants {comb : Bool} (hcomb : comb = true → x.waitInv = []) (hone : comb = false → x.waitB = false ∧ x.waitInv = [memOf m.src])
    (hacted : x.acted = false) (hact : x.act = .cmp) (hw : x.waitAck = true) (hto : x.probeOf = none) :
    onInvAck m comb s = (withTt [(x.invAcked m).done] s).emit (.msg .cmp (toReq s (x.invAcked m))) := by
  obtain ⟨hclaim, -, -, -, hput, -⟩ := h.plain
  have hready : (x.invAcked m).ready = true := by simp [HTxn.ready, HTxn.invAcked, hacted, hto, hput]
  have h1 := advance_single (s := withTt [x.invAcked m] s) rfl (by exact hclaim)
  rw [hready, if_pos rfl, doAct_cmp (s := withTt [x.invAcked m] s) rfl h.alive h.sends hact] at h1
  rw [onInvAck_eq h hcomb hone]
  exact h1.trans (closeDone_waits (y := (x.invAcked m).done) rfl hclaim hw)

section
variable {dirty : Bool} (hprobe : x.probeOf = some (memOf m.src)) (hacted : x.acted = false) (hw : x.waitAck = false)
  (hinv : x.waitInv = [] ∧ x.waitB = false)
include hprobe hacted hinv

theorem onProbe_acts : onProbe m dirty s = closeDone x.num (doAct (x.probed m dirty) (withTt [x.probed m dirty] s)) := by
  obtain ⟨hclaim, -, -, -, hput, -⟩ := h.plain
  have hready : (x.probed m dirty).ready = true := by simp [HTxn.ready, HTxn.probed, hacted, hinv, hput]
  have h1 := advance_single (s := withTt [x.probed m dirty] s) rfl (by exact hclaim)
  rw [hready, if_pos rfl] at h1
  rw [onProbe_eq h dirty hprobe]
  exact h1

include hw

/-- The data of a probed owner goes to the requester of a read with no allocation, and the record stays. -/
theorem onProbe_grants (hroom : Room s (frameOf s x.line)) (hact : x.act = .grant .dataS false true) :
    ∃ (u : State) (b : BMsg), onProbe m dirty s = withTt [] u ∧
      Stores ((withTt [(x.probed m dirty).done] s).emit (.msg .dataS b)) u (frameOf s x.line) 1 ∧ Recorded u (frameOf s x.line) x.after ∧
      (ddrGet u (frameOf s x.line)).data = (ddrGet s (frameOf s x.line)).data ∧
      b = { toReq s (x.probed m dirty) with data := m.data, poison := m.poison, fwdr := false, nc := true } := by
  obtain ⟨hclaim, hpend, hputs, -, hput, -⟩ := h.plain
  rw [onProbe_acts h hprobe hacted hinv, doAct_grant_nc (s := withTt [x.probed m dirty] s) rfl h.alive h.sends hact rfl]
  have h1 := h.lone (y := (x.probed m dirty).done) ⟨rfl, hclaim, hputs, hpend⟩
  obtain ⟨u, hu, hst, hrec, hdata⟩ := closeT_lone (s := (withTt [(x.probed m dirty).done] s).emit _) ⟨h1.table, h1.plain, h1.clean⟩
    (by exact (by omega : queued s (chanOf s (frameOf s x.line)) < 256))
  exact ⟨u, _, (closeDone_closes (y := (x.probed m dirty).done) rfl hclaim ⟨rfl, hw, hput⟩).trans hu, hst, hrec, hdata, rfl⟩

/-- The transaction of a write whose bytes were merged. -/
def HTxn.merged (x : HTxn) (m : BMsg) (dirty : Bool) : HTxn :=
  { (x.probed m dirty).done with after := { x.after with poison := poisonAfter m.poison x.req.poison x.req.mask } }

/-- A write's bytes are merged with the data of the probed owner in memory. -/
theorem onProbe_merges (hroom : Room s (frameOf s x.line)) (hact : x.act = .merge) (hr : s.home.relocs = []) :
    ∃ (v u : State) (b : BMsg), onProbe m dirty s = withTt [] u ∧ b = toReq s (x.probed m dirty) ∧
      Stores (withTt [(x.probed m dirty).done] s) v (frameOf s x.line) 1 ∧
      Stores ((withTt [x.merged m dirty] v).emit (.msg .cmp b)) u (frameOf s x.line) 1 ∧ Recorded u (frameOf s x.line) (x.merged m dirty).after ∧
      (ddrGet u (frameOf s x.line)).data = mergeLine m.data x.req.data x.req.mask := by
  obtain ⟨hclaim, hpend, hputs, -, hput, -⟩ := h.plain
  obtain ⟨v, hv, hst, hget⟩ := doAct_merge (s := withTt [x.probed m dirty] s) rfl h.alive h.sends hact rfl hr
    (by exact (by omega : queued s (chanOf s (frameOf s x.line)) < 256))
  have hf : frameOf v x.line = frameOf s x.line := hst.frameOf_eq x.line
  have hq : queued v (chanOf s (frameOf s x.line)) ≤ queued s (chanOf s (frameOf s x.line)) + 1 := hst.queue _
  have hch : chanOf v (frameOf s x.line) = chanOf s (frameOf s x.line) := hst.chanOf_eq _
  have hlone : Lone ((withTt [x.merged m dirty] v).emit (.msg .cmp (toReq s (x.probed m dirty)))) (x.merged m dirty) := by
    refine ⟨⟨rfl, ?_, ?_⟩, ⟨hclaim, hputs, hpend⟩, ?_, ?_⟩
    · exact (congrArg Home.tablePend hst.home).trans h.table.2.1
    · exact (congrArg Home.relocs hst.home).trans hr
    · change spGet {} v.mem.ddrFlaw (frameOf v x.line) = {}
      rw [hf, hst.ddrFlaw_eq]
      exact h.clean.1
    · change wordQU v x.line = false
      rw [wordQU, hf]
      rw [show ddrGet v (frameOf s x.line) = _ from hget]
      exact h.clean.2
  obtain ⟨u, hu, hst', hrec, hdata⟩ := closeT_lone hlone (by
    change queued v (chanOf v (frameOf v x.line)) < 256
    rw [hf, hch]
    omega)
  rw [show frameOf ((withTt [x.merged m dirty] v).emit (.msg .cmp (toReq s (x.probed m dirty)))) (x.merged m dirty).line = _ from hf] at hst' hrec hdata
  rw [onProbe_acts h hprobe hacted hinv, hv]
  refine ⟨v, u, _, (closeDone_closes (y := x.merged m dirty) rfl hclaim ⟨rfl, hw, hput⟩).trans hu, rfl, hst, hst', hrec, hdata.trans ?_⟩
  exact congrArg DLine.data hget

end

end

end Sys2Proof.Machine
end

section
/-! PROOFS. An owner or a dead node that has sent nothing in time is replaced by memory's data, poisoned (R162, R176); a claim lapses (R168). -/

set_option Elab.async false

namespace Sys2Proof.Machine

/-! ### Poisoned data of the home -/

/-- From s to t the home agent, the slices, memory, the node and the fabric stay; messages may have left. What an event, a record and a notice do. -/
structure NoteSide (s t : State) : Prop where
  home   : t.home = s.home
  slices : t.slices = s.slices
  mem    : t.mem = s.mem
  node   : t.node = s.node
  fabric : t.fabric = s.fabric
  out    : ∃ o : List Out, t.out = s.out ++ o

namespace NoteSide

theorem refl (s : State) : NoteSide s s := ⟨rfl, rfl, rfl, rfl, rfl, [], (List.append_nil _).symm⟩

theorem trans {s t u : State} (h : NoteSide s t) (h' : NoteSide t u) : NoteSide s u := by
  obtain ⟨o, ho⟩ := h.out
  obtain ⟨o', ho'⟩ := h'.out
  exact ⟨h'.home.trans h.home, h'.slices.trans h.slices, h'.mem.trans h.mem, h'.node.trans h.node, h'.fabric.trans h.fabric, o ++ o',
    by rw [ho', ho, List.append_assoc]⟩

theorem each {α : Type} {f : State → α → State} (hf : ∀ s x, NoteSide s (f s x)) (l : List α) (s : State) : NoteSide s (s.each l f) := by
  induction l generalizing s with
  | nil => exact .refl s
  | cons x t ih => exact (hf s x).trans (ih (f s x))

end NoteSide

theorem HostSide.noteSide {s t : State} (h : HostSide s t) : NoteSide s t := ⟨h.home, h.slices, h.mem, h.node, h.fabric, h.out⟩

theorem setMb_noteSide (p : Port) (m : Mbx) (s : State) : NoteSide s (s.setMb p m) := ⟨rfl, rfl, rfl, rfl, rfl, [], (List.append_nil _).symm⟩

theorem modHp_noteSide (p : Port) (g : HPort → HPort) (s : State) : NoteSide s (s.modHp p g) := ⟨rfl, rfl, rfl, rfl, rfl, [], (List.append_nil _).symm⟩

theorem peatEnter_noteSide (r : PRec) (s : State) : NoteSide s (peatEnter r s) := by
  obtain ⟨x, hx⟩ := peatEnter_eq r s
  rw [hx]
  exact ⟨rfl, rfl, rfl, rfl, rfl, [], (List.append_nil _).symm⟩

theorem postNotice_noteSide (p : Port) (code : Byte) (arg : BitVec 16) (s : State) : NoteSide s (postNotice p code arg s) := by
  have hback : NoteSide s (if (s.mb p).backlog.length < 32 then s.setMb p { s.mb p with backlog := (s.mb p).backlog ++ [(code, arg)] }
      else s.setMb p { s.mb p with dropped := (s.mb p).dropped + 1 }) := by
    split <;> exact setMb_noteSide p _ s
  have hquar : NoteSide s (if code = 0xA3 then s.modHp p (fun h => { h with quarCnt := 0, quarWait := false }) else s) := by
    split
    · exact modHp_noteSide p _ s
    · exact .refl s
  unfold postNotice
  extract_lets m wait
  split
  · split
    · refine (hquar.trans ?_).trans (msixCheck_hostSide p _).noteSide
      exact ⟨rfl, rfl, rfl, rfl, rfl, [], (List.append_nil _).symm⟩
    · exact hback
  · exact hback

theorem lost_noteSide (s : State) : NoteSide s { s with stamp := { s.stamp with lost := true } } := ⟨rfl, rfl, rfl, rfl, rfl, [], (List.append_nil _).symm⟩

theorem stampLostOf_noteSide (g : BitVec 6) (cause : Nat) (l : LAddr) (s : State) : NoteSide s (stampLostOf g cause l s) := by
  have hrec := (postEvent_hostSide 0x70 7 [g.setWidth 64, BitVec.ofNat 64 cause] s).noteSide.trans
    (peatEnter_noteSide (mkRec 0x41 cause (bodyAt 24 g.toNat ||| bodyAt 28 (lineAddr l).toNat)) _)
  unfold stampLostOf
  extract_lets s1
  split
  · refine (hrec.trans (lost_noteSide _)).trans (NoteSide.each (fun s p => ?_) ports _)
    split
    · exact postNotice_noteSide p _ _ s
    · exact .refl s
  · exact hrec

theorem stampHit_noteSide (l : LAddr) (s : State) : NoteSide s (stampHit l s) := .each (fun s g => stampLostOf_noteSide g 1 l s) _ s

/-- Poison at the home is counted, and an event; the rest is what a lost stamp guarantee does. -/
theorem poisonedAt_noteSide (l : LAddr) (rule : Nat) (s : State) :
    NoteSide (s.modHome (fun h => { h with poisoned := h.poisoned + 1 })) (poisonedAt l rule s) :=
  (postEvent_hostSide 0x42 4 [(lineAddr l).setWidth 64, BitVec.ofNat 64 rule] _).noteSide.trans (stampHit_noteSide l _)

theorem evProto_noteSide (cause : Nat) (n : NodeId) (l : LAddr) (s : State) :
    NoteSide { s with home := { s.home with protoErr := s.home.protoErr + 1 } } (evProto cause n l s) :=
  (postEvent_hostSide 0x40 4 _ _).noteSide

/-- A line in which nothing is wrong is read as it is. -/
theorem ddrRead_of_clean {s : State} {l : LAddr} (h : spGet {} s.mem.ddrFlaw (frameOf s l) = {}) :
    ∃ d : Dbg, ddrRead l s = (some (ddrGet s (frameOf s l)), { s with dbg := d }) := by
  unfold ddrRead
  simp only [ddrCond_of_clean h]
  split
  · obtain ⟨d, hd⟩ := pmu_eq 0x41 (some (chanOf s (frameOf s l))) s
    exact ⟨d, by rw [hd]⟩
  · exact ⟨s.dbg, rfl⟩

theorem frameOf_congr {s t : State} (hn : t.node = s.node) (hh : t.home.frames = s.home.frames) (hm : t.mem = s.mem) (l : LAddr) :
    frameOf t l = frameOf s l := by
  simp only [frameOf, hn, hh, hm]

theorem ddrGet_congr {s t : State} (hm : t.mem = s.mem) (f : Nat) : ddrGet t f = ddrGet s f := by simp only [ddrGet, hm]

/-! ### The timers -/

/-- The transaction with the data of memory substituted for what member p has not sent. -/
def HTxn.substituted (x : HTxn) (p : Member) : HTxn :=
  { x with after := x.after.remove p, putOf := none, probeOf := none, fwdTo := none }

/-- The transaction with the data of its line poisoned. -/
def HTxn.poisoned (x : HTxn) : HTxn := { x with after := { x.after with poison := true } }

/-- What memory gives for a member that has sent nothing: to the requester of a forward, or to the transaction itself. -/
def substituted (n : Nat) (p : Member) (u : HTxn) (s : State) : State :=
  let y := memLine u s
  match y.1 with
  | none =>
    advance n (nack u.req rsnDEAD 0 u.req.gen u.req.age (modT n (fun v => { v with
      after := { st := .QU, poison := true }, waitAck := false, acted := true, putOf := none, probeOf := none, fwdTo := none }) y.2))
  | some d =>
    let s2 := modT n (fun v => v.substituted p) y.2
    if u.fwdTo.isSome then
      advance n (sendMsg (if u.fwdK = .fwdS then .dataS else .dataE) { toReq s2 u with
        data := d.1, poison := d.2.1, fwdr := u.fwdr && decide (u.fwdK = .fwdS), waitcmp := u.waitcmp && !u.acted } s2)
    else advance n (modT n (fun v => { v with got := some (d.1, d.2.1, false) }) s2)

theorem substitute_of_rule {s : State} {n : Nat} {x u : HTxn} (hat : s.home.at_ n = some x) {rule : Nat} (hrule : rule ≠ 0)
    (hu : (poisonedAt x.line rule (modT n HTxn.poisoned s)).home.at_ n = some u) (p : Member) :
    substitute n p rule s = substituted n p u (poisonedAt x.line rule (modT n HTxn.poisoned s)) := by
  have hpois : (fun u : HTxn => { u with after := { u.after with poison := true } }) = HTxn.poisoned := rfl
  rw [substitute, hat]
  simp only [hrule, ne_eq, not_false_eq_true, if_true, hpois, hu]
  rfl

/-- Memory's data for the requester of an ownership forward. -/
theorem substituted_forward {s : State} {u : HTxn} (ht : s.home.tt = [u]) (hread : u.read = false) {q : Member} (hto : u.fwdTo = some q) (hk : u.fwdK = .fwdX)
    (hclean : spGet {} s.mem.ddrFlaw (frameOf s u.line) = {}) (hc : u.claim = none) (hacted : u.acted = true) (hw : u.waitAck = true)
    (hl : isLost s.node s.fabric u.req.src = false) (hs : s.fabric.stopped = false ∧ s.fabric.pause = none) (p : Member) :
    ∃ (d : Dbg) (b : BMsg), substituted u.num p u s = (withTt [u.substituted p] { s with dbg := d }).emit (.msg .dataE b) ∧
      b.dst = u.req.src ∧ b.rtid = u.req.rtid ∧ b.data = (ddrGet s (frameOf s u.line)).data ∧ b.poison = u.after.poison := by
  obtain ⟨d, hd⟩ := ddrRead_of_clean hclean
  have hmem : memLine u s = (some ((ddrGet s (frameOf s u.line)).data, u.after.poison, false), { s with dbg := d }) := by
    rw [memLine, hread, hd]
    rfl
  have hmod : modT u.num (fun v => v.substituted p) { s with dbg := d } = withTt [u.substituted p] { s with dbg := d } := modT_single (by exact ht) _
  refine ⟨d, { toReq (withTt [u.substituted p] { s with dbg := d }) u with
    data := (ddrGet s (frameOf s u.line)).data, poison := u.after.poison, fwdr := u.fwdr && decide (u.fwdK = .fwdS), waitcmp := u.waitcmp && !u.acted },
    ?_, rfl, rfl, rfl, rfl⟩
  have hfwd : ¬ BKind.fwdX = BKind.fwdS := nofun
  simp only [substituted, hmem, hto, Option.isSome_some, if_true, hmod]
  rw [sendMsg_of_sends (by exact hs) _ (by exact hl), hk, if_neg hfwd]
  exact advance_waits (y := u.substituted p) rfl hc hacted hw

/-- A forward's requester gets memory's data, poisoned, in place of the owner's; its Ack is still awaited (R162, R176). -/
theorem substitute_forwarded {s : State} {x : HTxn} {p : Member} {rule : Nat} (ht : s.home.tt = [x]) (hrule : rule ≠ 0)
    (hplain : x.claim = none ∧ x.puts = [] ∧ x.read = false) (hacted : x.acted = true) (hw : x.waitAck = true) (hto : x.fwdTo = some p)
    (hk : x.fwdK = .fwdX) (hclean : spGet {} s.mem.ddrFlaw (frameOf s x.line) = {}) (hl : isLost s.node s.fabric x.req.src = false)
    (hs : s.fabric.stopped = false ∧ s.fabric.pause = none) :
    ∃ (t : State) (b : BMsg) (o : List Out), substitute x.num p rule s = t.emit (.msg .dataE b) ∧ t.out = s.out ++ o ∧
      t.home = { s.home with tt := [x.poisoned.substituted p], poisoned := s.home.poisoned + 1 } ∧ t.slices = s.slices ∧ t.mem = s.mem ∧
      b.dst = x.req.src ∧ b.rtid = x.req.rtid ∧ b.data = (ddrGet s (frameOf s x.line)).data ∧ b.poison = true := by
  obtain ⟨hc, hputs, hread⟩ := hplain
  have hside := poisonedAt_noteSide x.line rule (withTt [x.poisoned] s)
  have hmod : modT x.num HTxn.poisoned s = withTt [x.poisoned] s := modT_single ht _
  have hsub := substitute_of_rule (u := x.poisoned) (at_single ht hc) hrule (by
    rw [hmod]
    exact at_single (y := x.poisoned) (congrArg Home.tt hside.home) hc) p
  rw [hsub, hmod]
  generalize poisonedAt x.line rule (withTt [x.poisoned] s) = u at hside
  have hhome : u.home = { s.home with tt := [x.poisoned], poisoned := s.home.poisoned + 1 } := hside.home
  have hmem : u.mem = s.mem := hside.mem
  have hf : frameOf u x.line = frameOf s x.line := frameOf_congr hside.node (congrArg Home.frames hside.home) hmem x.line
  obtain ⟨o, ho⟩ := hside.out
  obtain ⟨d, b, hb, hdst, hrtid, hdata, hpois⟩ := substituted_forward (s := u) (u := x.poisoned) (congrArg Home.tt hhome) hread hto hk
    (by rw [hmem]; exact (congrArg _ hf).trans hclean) hc hacted hw (by rw [hside.node, hside.fabric]; exact hl) (by rw [hside.fabric]; exact hs) p
  refine ⟨_, b, o, hb, ho, ?_, hside.slices, hmem, hdst, hrtid, ?_, hpois⟩
  · rw [withTt, hhome]
  · rw [hdata, ddrGet_congr hmem]
    exact congrArg (fun f => (ddrGet s f).data) hf

/-- The home's one transaction x is an ownership forward to member p, with nothing else to do but the requester's Ack to await, and its requester can be
reached. -/
structure Forwarded (s : State) (x : HTxn) (p : Member) : Prop where
  table  : s.home.tt = [x]
  plain  : x.claim = none ∧ x.puts = [] ∧ x.read = false
  state  : x.acted = true ∧ x.waitAck = true ∧ x.fwdTo = some p ∧ x.fwdK = .fwdX
  clean  : spGet {} s.mem.ddrFlaw (frameOf s x.line) = {}
  alive  : isLost s.node s.fabric x.req.src = false
  sends  : s.fabric.stopped = false ∧ s.fabric.pause = none

/-- From s to t the home has substituted memory's data for what member p has not sent to its transaction x; it now counts e protocol errors. -/
structure Replaced (s t : State) (x : HTxn) (p : Member) (e : W64) : Prop where
  home   : t.home = { s.home with tt := [x.poisoned.substituted p], poisoned := s.home.poisoned + 1, protoErr := e }
  sent   : ∃ (b : BMsg) (o : List Out), t.out = s.out ++ o ∧ .msg .dataE b ∈ o ∧ b.dst = x.req.src ∧ b.rtid = x.req.rtid ∧
    b.data = (ddrGet s (frameOf s x.line)).data ∧ b.poison = true
  slices : t.slices = s.slices
  mem    : t.mem = s.mem

/-- What is left when the substitution follows an event that counts protocol errors. -/
theorem substitute_replaces {s s1 : State} {x : HTxn} {p : Member} (h : Forwarded s x p) {e : W64}
    (h1 : NoteSide { s with home := { s.home with protoErr := e } } s1) {rule : Nat} (hrule : rule ≠ 0) :
    Replaced s (substitute x.num p rule s1) x p e := by
  obtain ⟨hacted, hw, hto, hk⟩ := h.state
  have hf : frameOf s1 x.line = frameOf s x.line := frameOf_congr h1.node (congrArg Home.frames h1.home) h1.mem x.line
  obtain ⟨t, b, o, ht, hout, hhome, hsl, hmem, hdst, hrtid, hdata, hpois⟩ := substitute_forwarded (s := s1) (p := p)
    ((congrArg Home.tt h1.home).trans h.table) hrule h.plain hacted hw hto hk (by rw [h1.mem, hf]; exact h.clean)
    (by rw [h1.node, h1.fabric]; exact h.alive) (by rw [h1.fabric]; exact h.sends)
  obtain ⟨o1, ho1⟩ := h1.out
  rw [ht]
  refine ⟨?_, ⟨b, o1 ++ o ++ [.msg .dataE b], ?_, by simp, hdst, hrtid, ?_, hpois⟩, hsl.trans h1.slices, hmem.trans h1.mem⟩
  · rw [State.emit_home, hhome, h1.home]
  · rw [State.emit, hout, ho1]
    simp
  · rw [hdata, hf, ddrGet_congr h1.mem]
    rfl

/-- The owner has sent no Put in time: a protocol error, and memory's data in its place (R162). -/
theorem putTimeout_replaces {s : State} {x : HTxn} {p : Member} (h : Forwarded s x p) (hput : x.putOf = some p) :
    Replaced s (putTimeout x.num s) x p (s.home.protoErr + 1) := by
  simp only [putTimeout, at_single h.table h.plain.1, hput]
  exact substitute_replaces h (evProto_noteSide 4 _ x.line s) (by decide)

/-- The dead node's data has not come in time (R176). -/
theorem ackTimeout_replaces {s : State} {x : HTxn} {p : Member} (h : Forwarded s x p)
    (hdead : isLost s.node s.fabric (nodeOf (domOf s.node.node) p) = true) : Replaced s (ackTimeout x.num s) x p s.home.protoErr := by
  obtain ⟨-, hw, hto, -⟩ := h.state
  simp only [ackTimeout, at_single h.table h.plain.1, hto, hw, hdead, Bool.and_self, if_true]
  exact substitute_replaces h (.refl s) (by decide)

/-! ### The window of a claim -/

section
variable {s : State} {x : HTxn} {c : Claim} (ht : s.home.tt = [x]) (hc : x.claim = some c)
include ht hc

theorem claimLapse_single : claimLapse x.num s = freeEntry x s := by
  simp [claimLapse, ht, hc]

/-- A claim that no one waits for lapses. -/
theorem claimLapse_free (hpend : x.pend = none) (htab : s.home.tablePend = none) : claimLapse x.num s = { s with home := { s.home with tt := [] } } := by
  rw [claimLapse_single ht hc]
  simp [freeEntry, hpend, htab, ht, State.modHome]

/-- A claim that lapses goes to the line's pending claimant. -/
theorem claimLapse_next (hpmu : fld s.dbg.pmuCtl 0 8 = 0) {d : Claim} (hpend : x.pend = some d) :
    claimLapse x.num s = { s with home := { s.home with
      tt := [{ num := x.num, line := x.line, claim := some d }], lastClaim := spIns x.line.toNat (d.node, d.unit) s.home.lastClaim } } := by
  rw [claimLapse_single ht hc]
  simp only [freeEntry, hpend, holdClaim]
  rw [pmu_off (by exact hpmu)]
  simp [ht, State.modHome]

end

/-! ### The obligation -/

theorem Stores.unacked_eq {s t : State} {f n : Nat} (h : Stores s t f n) : t.home.unacked = s.home.unacked := by rw [h.home]

theorem Stores.out_eq {s t : State} {f n : Nat} (h : Stores s t f n) : t.out = s.out := by
  obtain ⟨_, _, _, rfl⟩ := h.only
  rfl

section
variable {s : State} {m : BMsg} (hk : s.clk = true)
include hk

theorem exec_ack : exec (.ack m) s = .next (take .ack m (onAck m) s) := onClock_run hk _
theorem exec_invack (comb : Bool) : exec (.invack m comb) s = .next (take .invAck m (onInvAck m comb) s) := onClock_run hk _
theorem exec_probeResponse (dirty : Bool) :
    exec (.probeResponse m dirty) s = .next (take (if dirty then .dataM else .dataE) m (onProbe m dirty) s) := onClock_run hk _
theorem exec_claimWindowExpiry (n : BitVec 12) : exec (.claimWindowExpiry n) s = .next (claimLapse n.toNat s) := onClock_run hk _
theorem exec_ownerPutTimeout (n : BitVec 12) : exec (.ownerPutTimeout n) s = .next (putTimeout n.toNat s) := onClock_run hk _
theorem exec_forwardedAckTimeout (n : BitVec 12) : exec (.forwardedAckTimeout n) s = .next (ackTimeout n.toNat s) := onClock_run hk _

end

section
variable {s : State} {m : BMsg} {x : HTxn} {f : Nat} (h : Opened s m x) (hf : f = frameOf s x.line)
include h hf

theorem exec_ack_done (hroom : Room s f) (hacted : x.acted = true) (hw : x.waitAck = true) (hsrc : m.src = x.req.src ∧ m.srcu = x.req.srcu) :
    ∃ t : State, exec (.ack m) s = .next t ∧ t.home.tt = [] ∧ t.out = s.out ∧ (ddrGet t f).data = (ddrGet s f).data ∧
      Recorded t f (ackRec m x) ∧ HomeAlone s t f := by
  subst hf
  obtain ⟨t, -, hdone⟩ := exec_opened h (exec_ack h.clk) (Q := fun t _ => t.home.tt = [] ∧ t.out = s.out ∧
      (ddrGet t (frameOf s x.line)).data = (ddrGet s (frameOf s x.line)).data ∧ Recorded t (frameOf s x.line) (ackRec m x) ∧
      HomeAlone s t (frameOf s x.line)) fun fp => by
    obtain ⟨u, hu, hst, hrec, hdata⟩ := onAck_closes (h.withFports fp) hroom hacted hw hsrc
    obtain ⟨hsl, hhp, hstamp, haon, hlines⟩ := hst.homeAlone
    exact ⟨_, {}, hu, hst.unacked_eq, hhp, rfl, hst.out_eq, hdata, hrec, hsl, hhp, hstamp, haon, hlines⟩
  exact ⟨t, hdone⟩

omit hf in
theorem exec_invack_done (f : Nat) {comb : Bool} (hcomb : comb = true → x.waitInv = []) (hone : comb = false → x.waitB = false ∧ x.waitInv = [memOf m.src])
    (hacted : x.acted = false) (hact : x.act = .cmp) (hw : x.waitAck = true) (hto : x.probeOf = none) :
    ∃ (t : State) (b : BMsg), exec (.invack m comb) s = .next t ∧
      t.home.tt = [{ x with acted := true, waitInv := [], waitB := false, allow := max x.allow m.allow }] ∧
      t.out = s.out ++ [.msg .cmp b] ∧ b.dst = x.req.src ∧ b.dstu = x.req.srcu ∧ b.rtid = x.req.rtid ∧ b.osn = x.after.osn ∧ t.mem = s.mem ∧
      HomeAlone s t f :=
  exec_opened h (exec_invack h.clk comb) fun fp =>
    ⟨_, _, onInvAck_grants (h.withFports fp) hcomb hone hacted hact hw hto, rfl, rfl, rfl, rfl, rfl, rfl, rfl, rfl, rfl,
      rfl, rfl, rfl, ⟨rfl, rfl, rfl⟩, fun _ _ => rfl⟩

section
variable (hroom : Room s f) {dirty : Bool} (hprobe : x.probeOf = some (memOf m.src)) (hacted : x.acted = false) (hw : x.waitAck = false)
  (hinv : x.waitInv = [] ∧ x.waitB = false)
include hroom hprobe hacted hw hinv

theorem exec_probe_grants (hact : x.act = .grant .dataS false true) :
    ∃ (t : State) (b : BMsg), exec (.probeResponse m dirty) s = .next t ∧ t.home.tt = [] ∧ t.out = s.out ++ [.msg .dataS b] ∧ b.dst = x.req.src ∧
      b.dstu = x.req.srcu ∧ b.rtid = x.req.rtid ∧ b.nc = true ∧ b.data = m.data ∧ b.poison = m.poison ∧
      (ddrGet t f).data = (ddrGet s f).data ∧ Recorded t f x.after ∧ HomeAlone s t f := by
  subst hf
  refine exec_opened h (exec_probeResponse h.clk dirty) fun fp => ?_
  obtain ⟨u, b, hu, hst, hrec, hdata, hb⟩ := onProbe_grants (h.withFports fp) hprobe hacted hw hinv hroom hact
  obtain ⟨hsl, hhp, hstamp, haon, hlines⟩ := hst.homeAlone
  exact ⟨_, b, hu, hst.unacked_eq, hhp, rfl, hst.out_eq, by rw [hb]; rfl, by rw [hb]; rfl, by rw [hb]; rfl, by rw [hb], by rw [hb], by rw [hb],
    hdata, hrec, hsl, hhp, hstamp, haon, hlines⟩

theorem exec_probe_merges (hact : x.act = .merge) (hr : s.home.relocs = []) :
    ∃ (t : State) (b : BMsg), exec (.probeResponse m dirty) s = .next t ∧ t.home.tt = [] ∧ t.out = s.out ++ [.msg .cmp b] ∧ b.dst = x.req.src ∧
      b.dstu = x.req.srcu ∧ b.rtid = x.req.rtid ∧ (ddrGet t f).data = mergeLine m.data x.req.data x.req.mask ∧
      Recorded t f { x.after with poison := poisonAfter m.poison x.req.poison x.req.mask } ∧ HomeAlone s t f := by
  subst hf
  refine exec_opened h (exec_probeResponse h.clk dirty) fun fp => ?_
  obtain ⟨v, u, b, hu, hb, hst, hst', hrec, hdata⟩ := onProbe_merges (h.withFports fp) hprobe hacted hw hinv hroom hact hr
  obtain ⟨hsl, hhp, hstamp, haon, hlines⟩ := hst.homeAlone
  obtain ⟨hsl', hhp', hstamp', haon', hlines'⟩ := hst'.homeAlone
  have hout : u.out = v.out ++ [.msg .cmp b] := hst'.out_eq
  obtain ⟨h1, h2, h3⟩ := haon
  obtain ⟨h1', h2', h3'⟩ := haon'
  exact ⟨_, b, hu, hst'.unacked_eq.trans hst.unacked_eq, hhp'.trans hhp, rfl, by rw [withTt, hout, hst.out_eq]; rfl, by rw [hb]; rfl, by rw [hb]; rfl, by rw [hb]; rfl,
    hdata, hrec, hsl'.trans hsl, hhp'.trans hhp, hstamp'.trans hstamp, ⟨h1'.trans h1, h2'.trans h2, h3'.trans h3⟩,
    fun g hg => (hlines' g hg).trans (hlines g hg)⟩

end

end

/-- Settles O33: an answer completes what its transaction awaits, which acts or closes; a timer puts memory's data, poisoned, in place of what has not come, or
lets a claim lapse. -/
theorem answersAndTimersAdvanceTransactions : Obligations.AnswersAndTimersAdvanceTransactions := by
  refine ⟨fun s m x f h _ hf hroom => ?_, fun s n x p hk hpmu ht hnum => ⟨?_, ?_, ?_⟩⟩
  · have hf' : f = frameOf s x.line := by rw [hf, h.names.2]
    obtain ⟨-, -, -, hr⟩ := h.table
    refine ⟨fun hacted hw hsrc hsrcu => exec_ack_done h hf' hroom hacted hw ⟨hsrc, hsrcu⟩, fun comb hacted hact hw _ hto hcomb hone => ?_,
      fun dirty hacted hw _ hinv hb hprobe => ⟨exec_probe_grants h hf' hroom hprobe hacted hw ⟨hinv, hb⟩, fun hact => ?_⟩⟩
    · exact exec_invack_done h f (fun hc => (hcomb hc).2) hone hacted hact hw hto
    · exact exec_probe_merges h hf' hroom hprobe hacted hw ⟨hinv, hb⟩ hact hr
  · intro c hc hpend htab
    rw [← claimLapse_free ht hc hpend htab, hnum]
    exact exec_claimWindowExpiry hk n
  · intro c d hc hpend
    rw [← claimLapse_next ht hc hpmu hpend, hnum]
    exact exec_claimWindowExpiry hk n
  · intro hclaim hputs hacted hw hto hfk hread hclean hl hstop hpause c hc hput hdead
    have h : Forwarded s x p := ⟨ht, ⟨hclaim, hputs, hread⟩, ⟨hacted, hw, hto, hfk⟩, hclean, hl, hstop, hpause⟩
    have hdone : ∃ t : State, exec c s = .next t ∧ Replaced s t x p (s.home.protoErr + if c = .ownerPutTimeout n then 1 else 0) := by
      rcases List.mem_pair.1 hc with rfl | rfl
      · exact ⟨_, exec_ownerPutTimeout hk n, by rw [if_pos rfl, ← hnum]; exact putTimeout_replaces h (hput rfl)⟩
      · exact ⟨_, exec_forwardedAckTimeout hk n, by rw [if_neg nofun, ← hnum, show s.home.protoErr + 0 = s.home.protoErr from BitVec.add_zero _]; exact ackTimeout_replaces h (hdead rfl).2⟩
    obtain ⟨t, hexec, hhome, ⟨b, o, hout, hmem, hdst, hrtid, hdata, hpois⟩, hsl, hm⟩ := hdone
    exact ⟨t, x.poisoned.substituted p, b, o, hexec, congrArg Home.tt hhome, rfl, rfl, hw, rfl, hout, hmem, hdst, hrtid, hdata, hpois,
      congrArg Home.poisoned hhome, congrArg Home.protoErr hhome, hsl, rfl, by rw [hm]⟩

end Sys2Proof.Machine
end

section
/-! PROOFS. What a slice finds in a set that its tag shadow holds, and what a pass of its pipeline changes (R35, R38, R40, R118, R265, R331). -/

set_option Elab.async false

namespace Sys2Proof.Machine

/-! ### Lookups -/

theorem shadowError_of_shadowed {s : State} {i : SliceNo} {set : Nat} (h : Shadowed (s.sl i) set) : shadowError i set s = s := by
  obtain ⟨-, -, hpar⟩ := h
  have hnone : (spGet {} (s.sl i).shadow (shKey set)).ents.toList.filter (fun e => e.valid && e.bad) = [] := by
    rw [List.filter_eq_nil_iff]
    intro e he
    have hgood := List.all_eq_true.1 hpar e he
    simp only [Bool.not_eq_true'] at hgood
    simp [hgood]
  simp only [shadowError, hnone, List.isEmpty_nil, if_true]

/-- The tag block of a set in the shadow is read there. -/
theorem readTags_of_shadowed {s : State} {i : SliceNo} {set : Nat} (h : Shadowed (s.sl i) set) : readTags i set s = (true, s) := by
  obtain ⟨⟨k, e⟩, hent⟩ := Option.isSome_iff_exists.1 h.1
  simp only [readTags, shadowError_of_shadowed h, hent]

/-- The lookup of a line in a set of the shadow, or of a line that no way holds, changes nothing. -/
theorem lookEntry_of_shadowed {s : State} {i : SliceNo} {l : LAddr} (h : isFar s l = true ∨ Shadowed (s.sl i) (setOf l).toNat) :
    lookEntry i l s = (true, s) := by
  cases hfar : isFar s l
  case true => simp [lookEntry, hfar]
  case false =>
    have hsh : Shadowed (s.sl i) (setOf l).toNat := h.resolve_left (by simp [hfar])
    have hent : ((s.sl i).shEntry (setOf l).toNat).isNone = false := by simpa using hsh.1
    have hseen (w : Nat) : s.modSl i (fun x => x.hintSeen (setOf l).toNat (tagOf l) w) = s := by
      rw [State.modSl, Slice.hintSeen, if_pos hsh.1, State.setSl_self]
    simp only [lookEntry, hfar, Bool.false_eq_true, if_false, readTags_of_shadowed hsh, tsRow, hent, Bool.false_and]
    split
    · rw [hseen]
    · rfl

/-- A line is found in one of the fifteen ways, under its tag word. -/
theorem Slice.find_some {x : Slice} {l : LAddr} {w : Nat} {t : TagWord} (h : x.find l = some (w, t)) :
    w < 15 ∧ t = x.word (setOf l).toNat w := by
  unfold Slice.find at h
  obtain ⟨v, hv, heq⟩ := Option.map_eq_some_iff.1 h
  cases heq
  exact ⟨List.mem_range.1 (List.mem_of_find?_eq_some hv), rfl⟩

theorem wayOf_some {s : State} {i : SliceNo} {l : LAddr} {c : Nat × TagWord} (h : s.wayOf i l = some c) : isFar s l = false ∧ (s.sl i).find l = some c := by
  unfold State.wayOf at h
  split at h
  · cases h
  · next hfar => exact ⟨by simpa using hfar, h⟩

theorem hpPorts_of_none {t : TagWord} (h : t.hp = 0) : hpPorts t = [] := by
  rw [hpPorts, List.filter_eq_nil_iff, h]
  decide

theorem exclHost_of_none {t : TagWord} (h : t.hp = 0) : exclHost t = none := by
  rw [exclHost, hpPorts_of_none h]
  split <;> rfl

/-- An action that snoops no host needs no answer. -/
theorem snoopFor_nil (i : SliceNo) (l : LAddr) (a : Act) (excl : Option Port) (s : State) :
    snoopFor i l a excl [] s = (true, { s with seqNo := s.seqNo + 1 }) := rfl

/-- A slot with which nothing is wrong is read as it is. -/
theorem readSlot_of_clean {s : State} {i : SliceNo} {set w : Nat} (hpmu : fld s.dbg.pmuCtl 0 8 = 0)
    (h : spGet {} (s.sl i).slotFlaw (slotKey set w) = {}) :
    readSlot i set w s = (spGet {} (s.sl i).slots (slotKey set w), ((s.sl i).word set w).poison, s) := by
  have hcond : (s.sl i).slotCond set w = .clean := by rw [Slice.slotCond, h]; rfl
  simp only [readSlot, hcond, h, rowOpen, pmu_off hpmu]
  rfl

/-! ### Passes -/

theorem countPass_off {s : State} (hpmu : fld s.dbg.pmuCtl 0 8 = 0) (i : SliceNo) (g : Option Cand) (aged : Bool) : countPass i g aged s = s := by
  unfold countPass
  split
  · rfl
  · simp only [pmu_off hpmu, ite_self]

/-- A pass moves the arbiter of its slice on, where no walk runs. -/
theorem arbPass_quiet {s : State} {i : SliceNo} (hw : (s.sl i).walks = [] ∧ s.fw.walk = none) (hpmu : fld s.dbg.pmuCtl 0 8 = 0) (cls : Cls) (p : Port) :
    ∃ u : Vector Arbiter 8, arbPass i cls p s = { s with arb := { s.arb with units := u } } := by
  obtain ⟨hwalks, hfill⟩ := hw
  have hnone : walkPass i s = none := by simp [walkPass, hwalks, lockNext, hfill]
  simp only [arbPass, hnone, decideIn]
  exact ⟨_, countPass_off (by exact hpmu) _ _ _⟩

end Sys2Proof.Machine
end

section
/-! PROOFS. A slice answers a forward, an invalidation or a probe: from the way that holds the line, or without it (R136, R137, R138). -/

set_option Elab.async false

namespace Sys2Proof.Machine

/-! ### A tag word written -/

/-- Slot TS, what is wrong with it and the tag shadow are all that a tag word is written to. -/
theorem Slice.putWord_eq (x : Slice) (set w : Nat) (t : TagWord) :
    ∃ (tags : Sparse TagBlock) (flaw : Sparse Flaw) (sh : Sparse ShSet), x.putWord set w t = { x with tags := tags, tsFlaw := flaw, shadow := sh } := by
  unfold Slice.putWord Slice.putBlock
  extract_lets b x1
  split
  · exact ⟨_, _, _, rfl⟩
  · exact ⟨_, _, _, rfl⟩

theorem Slice.word_putWord_of_shadowed {x : Slice} {set : Nat} (h : Shadowed x set) {w : Nat} (hw : w < 15) (t : TagWord) :
    (x.putWord set w t).word set w = t := by
  obtain ⟨⟨k, e⟩, hent⟩ := Option.isSome_iff_exists.1 h.1
  exact word_putWord hent h.2.1 hw t

/-! ### What a copy's answer leaves in its way -/

/-- The way of a copy in state y.st after the slice has answered message k as st'. -/
def leaveWay (i : SliceNo) (k : BKind) (set w : Nat) (y : TagWord) (st' : LState) (s : State) : State :=
  if st' = .I then dropWay i set w s
  else if k = .probe || decide (st' = y.st) then s
  else s.modSl i (fun x => x.putWord set w { y with st := st' })

/-- A slice with nothing of its own under way: no buffered store, Causeway or Reedbed entry, transaction or action. -/
def Slice.still (x : Slice) : Prop := x.wmb = [] ∧ x.cw = [] ∧ x.rb = [] ∧ x.stt = [] ∧ x.snpGrps = []

theorem Slice.still_putWord {x : Slice} (h : x.still) (set w : Nat) (t : TagWord) : (x.putWord set w t).still := by
  obtain ⟨_, _, _, heq⟩ := x.putWord_eq set w t
  rw [heq]
  exact h

/-- What leaving the way changes: the slice's tags, nothing when the copy stays as it is. -/
theorem leaveWay_spec {s : State} {i : SliceNo} {set w : Nat} {y : TagWord} (hsh : Shadowed (s.sl i) set) (hw : w < 15)
    (hy : (s.sl i).word set w = y) {k : BKind} {st' : LState} (hk : k = .probe → st' = .I ∨ st' = y.st) :
    ∃ x : Slice, leaveWay i k set w y st' s = s.setSl i x ∧ x.word set w = (if st' = .I then {} else { y with st := st' }) ∧
      x.slots = (s.sl i).slots ∧ ((s.sl i).still → x.still) := by
  have hput (t : TagWord) : ((s.sl i).putWord set w t).slots = (s.sl i).slots := by
    obtain ⟨_, _, _, heq⟩ := (s.sl i).putWord_eq set w t
    rw [heq]
  unfold leaveWay
  by_cases hI : st' = .I
  · rw [if_pos hI, if_pos hI]
    exact ⟨_, rfl, Slice.word_putWord_of_shadowed hsh hw _, hput _, (Slice.still_putWord · _ _ _)⟩
  · rw [if_neg hI, if_neg hI]
    by_cases hsame : st' = y.st
    · refine ⟨s.sl i, ?_, by rw [hy, hsame], rfl, id⟩
      simp [hsame]
    · have hkn : k ≠ .probe := fun e => (hk e).elim hI hsame
      rw [if_neg (by simp [hsame, hkn])]
      exact ⟨_, rfl, Slice.word_putWord_of_shadowed hsh hw _, hput _, (Slice.still_putWord · _ _ _)⟩

/-- The next action number is taken. -/
def State.nextSeq (s : State) : State := { s with seqNo := s.seqNo + 1 }

/-! ### The holder -/

section
variable {s : State} {i : SliceNo} {k : BKind} {m : BMsg}

theorem retainSt_still {x : Slice} (h : x.still) (l : LAddr) (st : LState) : retainSt x l st = st := by
  obtain ⟨-, -, -, hstt, -⟩ := h
  simp [retainSt, hstt]

theorem holderSnoops_of_none {y : TagWord} (h : y.hp = 0) : holderSnoops k m y = [] := by
  have hall : snpInvAll y none = [] := by rw [snpInvAll, hpPorts_of_none h]; rfl
  unfold holderSnoops
  rw [exclHost_of_none h, hall]
  cases k <;> simp

/-- A message for a line that no way holds. -/
theorem holder_without_way (hstill : (s.sl i).still) (hlook : isFar s m.laddr = true ∨ Shadowed (s.sl i) (setOf m.laddr).toNat)
    (hway : s.wayOf i m.laddr = none) : holder i k m s = invAckTo i k m s := by
  obtain ⟨-, hcw, hrb, hstt, hgrp⟩ := hstill
  simp [holder, Slice.grpOn, hgrp, holderGo, lookEntry_of_shadowed hlook, hstt, Slice.cwOf, hcw, hrb, hway, holderNone, Slice.txnOf]

variable {w : Nat} {y : TagWord} (hstill : (s.sl i).still) (hway : s.wayOf i m.laddr = some (w, y)) (hsh : Shadowed (s.sl i) (setOf m.laddr).toNat)
include hstill hway hsh

/-- A message for a copy that a way holds and no host has: one that can arise for its state is answered from the way. -/
theorem holder_of_way (hst : y.st ≠ .P) (hhp : y.hp = 0) :
    holder i k m s = if arises k y.st then holderWay i k m w s.nextSeq else cannotArise i k m s := by
  have hret := retainSt_still hstill m.laddr y.st
  have hheld : (s.wayOf i m.laddr).filter (fun c => decide (c.2.st ≠ .P)) = some (w, y) := by
    rw [hway]
    simp [Option.filter, hst]
  obtain ⟨-, hcw, hrb, hstt, hgrp⟩ := hstill
  simp only [holder, Slice.grpOn, hgrp, List.any_nil, Bool.false_eq_true, if_false, holderGo, lookEntry_of_shadowed (.inr hsh), Bool.not_true, hstt,
    List.find?_nil, Slice.cwOf, hcw, hrb, hheld, hret, Bool.and_false, Bool.or_false, holderSnoops_of_none hhp, exclHost_of_none hhp, snoopFor_nil, if_true]
  cases arises k y.st <;> rfl

omit hsh in
/-- The copy's answer leaves, and its way is left as the answer says. -/
theorem holderWay_of_answer (hpmu : fld s.dbg.pmuCtl 0 8 = 0) (hclean : (s.sl i).slotFlaw = []) {st' : LState} {o : Out}
    (ha : answerCopy i k m y.st (spGet {} (s.sl i).slots (slotKey (setOf m.laddr).toNat w)) y.poison s = (st', s.emit o)) :
    holderWay i k m w s = leaveWay i k (setOf m.laddr).toNat w y st' (s.emit o) := by
  obtain ⟨-, hfind⟩ := wayOf_some hway
  obtain ⟨-, hword⟩ := Slice.find_some hfind
  have hread := readSlot_of_clean (s := s) (i := i) (set := (setOf m.laddr).toNat) (w := w) hpmu (by rw [hclean]; rfl)
  have hret := retainSt_still hstill m.laddr y.st
  obtain ⟨-, -, -, hstt, -⟩ := hstill
  have hkept (t : State) (g : STxn → STxn) (ht : (t.sl i).stt = []) : t.modSl i (fun x => { x with stt := x.stt.map g }) = t := by
    rw [State.modSl, ht, List.map_nil, ← ht]
    exact t.setSl_self i
  have hdrop : (dropWay i (setOf m.laddr).toNat w (s.emit o)).sl i = (s.sl i).putWord (setOf m.laddr).toNat w {} := State.modSl_sl _ _ _
  unfold holderWay leaveWay
  simp only [hread, ← hword, hret, ha, State.emit_sl, hstt, List.find?_nil, Option.filter_none]
  split
  · refine hkept _ _ ?_
    obtain ⟨_, _, _, heq⟩ := (s.sl i).putWord_eq (setOf m.laddr).toNat w {}
    rw [hdrop, heq]
    exact hstt
  · rfl

end

/-! ### The answers -/

section
variable {s : State} (hs : s.fabric.stopped = false ∧ s.fabric.pause = none) (i : SliceNo) (m : BMsg)
include hs

theorem dataToQ_sends (hl : isLost s.node s.fabric m.rqn = false) (k : BKind) (fwdr poison : Bool) (osn : BitVec 12) (d : Line) :
    ∃ b : BMsg, dataToQ i k m fwdr poison osn d s = s.emit (.msg k b) ∧ (b.dst = m.rqn ∧ b.dstu = m.rqu ∧ b.rtid = m.rtid ∧ b.htid = m.htid) ∧
      (b.data = d ∧ b.poison = poison ∧ b.osn = osn) ∧ b.fwdr = fwdr ∧ b.waitcmp = (m.waitcmp && decide (k ≠ .dataS)) :=
  ⟨_, sendMsg_of_sends hs k hl, ⟨rfl, rfl, rfl, rfl⟩, ⟨rfl, rfl, rfl⟩, rfl, rfl⟩

variable (hl : isLost s.node s.fabric m.src = false)
include hl

theorem dataToH_sends (k : BKind) (poison : Bool) (osn : BitVec 12) (d : Line) :
    ∃ b : BMsg, dataToH i k m poison osn d s = s.emit (.msg k b) ∧ (b.dst = m.src ∧ b.dstu = homeUnit ∧ b.htid = m.htid) ∧
      b.data = d ∧ b.poison = poison ∧ b.osn = osn :=
  ⟨_, sendMsg_of_sends hs k hl, ⟨rfl, rfl, rfl⟩, rfl, rfl, rfl⟩

theorem invAckTo_sends {k : BKind} (hk : k ≠ .bInv) :
    ∃ b : BMsg, invAckTo i k m s = s.emit (.msg .invAck b) ∧ b.dst = m.src ∧ b.dstu = homeUnit ∧ b.htid = m.htid := by
  unfold invAckTo
  rw [if_neg hk]
  exact ⟨_, sendMsg_of_sends hs .invAck hl, rfl, rfl, rfl⟩

omit hl in
/-- The answer to a broadcast is combined in this node's switch. -/
theorem invAckTo_combines : ∃ b : BMsg, invAckTo i .bInv m s = s.emit (.comb (some s.node.node) b 1) ∧ b.dst = m.src ∧ b.htid = m.htid := by
  unfold invAckTo
  rw [if_pos rfl, if_neg (by rw [hs.1]; exact Bool.false_ne_true)]
  exact ⟨_, rfl, rfl, rfl⟩

end

/-! ### From the fabric to the slice and back -/

/-- The state after a message has left its input buffer and the arbiter of its slice has moved on. -/
def passed (s : State) (fp : Vector FPort 6) (u : Vector Arbiter 8) : State := { s with fports := fp, arb := { s.arb with units := u } }

/-- The slice and the ports have nothing to follow a message: its work is done. -/
structure Calm (s t : State) (i : SliceNo) : Prop where
  still : (t.sl i).still
  ports : ∀ q : Port, (t.hp q).ntc = [] ∧ (t.hp q).link ≠ .downBusy
  told  : t.home.unacked = s.home.unacked

section
variable {s : State} {i : SliceNo} {m : BMsg} (h : AtSlice s i m) (hstt : (s.sl i).stt = [])
include h hstt

theorem AtSlice.still : (s.sl i).still := by
  obtain ⟨hwmb, hcw, hrb, hgrp, -⟩ := h.quiet
  exact ⟨hwmb, hcw, hrb, hstt, hgrp⟩

omit hstt in
/-- A message of the slice is carried out, where that leaves nothing to follow it. -/
theorem exec_held {c : Instr} {k : BKind} (hc : exec c s = .next (take k m (held k m) s)) {Q : State → BMsg → Prop}
    (hg : ∀ (fp : Vector FPort 6) (u : Vector Arbiter 8), ∃ (t : State) (b : BMsg), holder i k m (passed s fp u) = t ∧ Calm s t i ∧ Q t b) :
    ∃ (t : State) (b : BMsg), exec c s = .next t ∧ Q t b := by
  obtain ⟨hmute, hlost, hrsv, hun, -⟩ := h.heard
  have hheld (fp : Vector FPort 6) : ∃ (t : State) (b : BMsg), held k m { s with fports := fp } = t ∧ Calm s t i ∧ Q t b := by
    obtain ⟨u, hu⟩ := arbPass_quiet (s := { s with fports := fp }) (i := i) ⟨h.quiet.2.2.2.2.1, h.fill⟩ h.pmu .fwd 0
    obtain ⟨t, b, ht, hcalm, hq⟩ := hg fp u
    obtain ⟨hwmb, -, hrb, hst, hgrp⟩ := hcalm.still
    refine ⟨t, b, ?_, hcalm, hq⟩
    simp only [held, h.unit.1, hu]
    rw [passed] at ht
    rw [ht]
    exact settle_idle (fun q => (hcalm.ports q).1) hwmb hst hgrp hrb
  obtain ⟨fp, htake⟩ := take_quiet ⟨hmute, hlost, hrsv⟩ k (held k m) fun fp => by
    obtain ⟨t, -, ht, hcalm, -⟩ := hheld fp
    rw [ht]
    exact ⟨hcalm.told.trans hun, fun q => (hcalm.ports q).2⟩
  obtain ⟨t, b, ht, -, hq⟩ := hheld fp
  exact ⟨t, b, by rw [hc, htake, ht], hq⟩

/-- A message answered from the copy that a way holds, which no host has: the answer o leaves, and the way is left in st'. -/
theorem exec_copy {w : Nat} {y : TagWord} (hway : s.wayOf i m.laddr = some (w, y)) (hhp : y.hp = 0) (hsh : Shadowed (s.sl i) (setOf m.laddr).toNat)
    {c : Instr} {k : BKind} (hc : exec c s = .next (take k m (held k m) s)) (hst : y.st ≠ .P) (ha : arises k y.st = true) {st' : LState}
    (hk : k = .probe → st' = .I ∨ st' = y.st) {out : BMsg → Out} {P : BMsg → Prop}
    (hans : ∀ t : State, t.node = s.node → t.fabric = s.fabric → ∃ b : BMsg,
      answerCopy i k m y.st (spGet {} (s.sl i).slots (slotKey (setOf m.laddr).toNat w)) y.poison t = (st', t.emit (out b)) ∧ P b) :
    ∃ (t : State) (b : BMsg), exec c s = .next t ∧ t.out = s.out ++ [out b] ∧ P b ∧
      (t.sl i).word (setOf m.laddr).toNat w = (if st' = .I then {} else { y with st := st' }) ∧ (t.sl i).slots = (s.sl i).slots ∧ SliceAlone s t i 0 := by
  refine exec_held h hc fun fp u => ?_
  have hstill := h.still hstt
  obtain ⟨hw, hword⟩ := Slice.find_some (wayOf_some hway).2
  obtain ⟨b, hb, hp⟩ := hans (passed s fp u).nextSeq rfl rfl
  have hwayOf := holder_of_way (s := passed s fp u) (k := k) hstill hway hsh hst hhp
  rw [ha, if_pos rfl, holderWay_of_answer (s := (passed s fp u).nextSeq) hstill hway h.pmu h.clean.1 hb] at hwayOf
  obtain ⟨x, hx, hxw, hxs, hxt⟩ := leaveWay_spec (s := (passed s fp u).nextSeq.emit (out b)) hsh hw hword.symm hk
  rw [hx] at hwayOf
  refine ⟨_, b, hwayOf, ⟨?_, h.ntc, rfl⟩, rfl, hp, ?_, ?_, ⟨fun j hj => State.setSl_sl_other _ _ hj, fun q => ⟨rfl, fun _ => rfl⟩, rfl, rfl, ⟨rfl, rfl, rfl⟩, rfl⟩⟩
  · rw [State.setSl_sl]
    exact hxt hstill
  · rw [State.setSl_sl, hxw]
  · rw [State.setSl_sl, hxs]
    rfl

end

/-! ### The states a copy answers in (R137) -/

section
variable (i : SliceNo) (m : BMsg) (d : Slot) (p : Bool) (s : State) {st : LState}

theorem answerCopy_fwdS {st' : LState} {fw : Bool}
    (h : (st, st', fw) ∈ [(LState.F, if m.fwdr then LState.S else .F, m.fwdr), (.E, .S, true), (.O, .O, false), (.M, .O, false)]) :
    answerCopy i .fwdS m st d p s = (st', dataToQ i .dataS m fw p m.osn d.data s) ∧ arises .fwdS st = true ∧ st ≠ .P ∧ st' ≠ .I := by
  simp only [List.mem_cons, Prod.mk.injEq, List.not_mem_nil, or_false] at h
  obtain ⟨rfl, rfl, rfl⟩ | ⟨rfl, rfl, rfl⟩ | ⟨rfl, rfl, rfl⟩ | ⟨rfl, rfl, rfl⟩ := h
  · refine ⟨rfl, rfl, nofun, ?_⟩
    split <;> decide
  all_goals exact ⟨rfl, rfl, nofun, nofun⟩

theorem answerCopy_owned {k : BKind} (h : (st, k) ∈ [(LState.E, BKind.dataE), (.O, .dataM), (.M, .dataM)]) :
    answerCopy i .fwdX m st d p s = (.I, dataToQ i k m false p m.osn d.data s) ∧
      answerCopy i .probe m st d p s = (if m.keep then st else .I, dataToH i k m p d.osn d.data s) ∧
      arises .fwdX st = true ∧ arises .probe st = true ∧ st ≠ .P ∧ st ≠ .I ∧ k ≠ .dataS := by
  simp only [List.mem_cons, Prod.mk.injEq, List.not_mem_nil, or_false] at h
  obtain ⟨rfl, rfl⟩ | ⟨rfl, rfl⟩ | ⟨rfl, rfl⟩ := h <;> exact ⟨rfl, rfl, rfl, rfl, nofun, nofun, nofun⟩

theorem arises_inv (h : st = .S ∨ st = .F ∨ st = .O) : arises .inv st = true ∧ arises .bInv st = true ∧ st ≠ .P := by
  obtain rfl | rfl | rfl := h <;> exact ⟨rfl, rfl, nofun⟩

end

/-! ### The commands -/

section
variable {s : State} {m : BMsg} (hk : s.clk = true)
include hk

theorem exec_fwds : exec (.fwds m) s = .next (take .fwdS m (held .fwdS m) s) := onClock_run hk _
theorem exec_fwdx : exec (.fwdx m) s = .next (take .fwdX m (held .fwdX m) s) := onClock_run hk _
theorem exec_inv : exec (.inv m) s = .next (take .inv m (held .inv m) s) := onClock_run hk _
theorem exec_binv : exec (.binv m) s = .next (take .bInv m (held .bInv m) s) := onClock_run hk _
theorem exec_probe : exec (.probe m) s = .next (take .probe m (held .probe m) s) := onClock_run hk _

end

/-- A message that cannot arise is a protocol error, with an event and a record. -/
theorem protoErr_hostSide (k : BKind) (m : BMsg) (s : State) :
    ∃ (t : State) (x : Peat), HostSide { s with home := { s.home with protoErr := s.home.protoErr + 1 } } t ∧ protoErr k m s = { t with peat := x } := by
  obtain ⟨x, hx⟩ := peatEnter_eq (mkRec 0x30 4 (bodyAt 24 (lineAddr m.laddr).toNat ||| bodyAt 32 m.src.toNat |||
    bodyAt 36 ((bkCode k).1.toNat * 32 + (bkCode k).2.toNat))) (evProto 2 m.src m.laddr s)
  exact ⟨_, x, postEvent_hostSide 0x40 4 _ _, hx⟩

section
variable {s : State} {i : SliceNo} {m : BMsg} (h : AtSlice s i m) (hstt : (s.sl i).stt = [])
include h hstt

/-- A message for a line that the slice does not hold is answered all the same. -/
theorem exec_without_copy {c : Instr} {k : BKind} (hc : exec c s = .next (take k m (held k m) s)) (hk : k ≠ .bInv) (hway : s.wayOf i m.laddr = none)
    (hlook : isFar s m.laddr = true ∨ Shadowed (s.sl i) (setOf m.laddr).toNat) :
    ∃ (t : State) (b : BMsg), exec c s = .next t ∧ t.out = s.out ++ [.msg .invAck b] ∧ b.dst = m.src ∧ b.htid = m.htid ∧ t.slices = s.slices ∧
      SliceAlone s t i 0 := by
  refine exec_held h hc fun fp u => ?_
  obtain ⟨b, hb, hdst, -, hhtid⟩ := invAckTo_sends (s := passed s fp u) h.sends i m h.heard.2.1 hk
  refine ⟨_, b, (holder_without_way (s := passed s fp u) (h.still hstt) hlook hway).trans hb, ⟨h.still hstt, h.ntc, rfl⟩, rfl, hdst, hhtid, rfl, ?_⟩
  exact ⟨fun _ _ => rfl, fun q => ⟨rfl, fun _ => rfl⟩, rfl, rfl, ⟨rfl, rfl, rfl⟩, rfl⟩

/-- A message that cannot arise for the copy that a way holds is answered as for a line not held, and counted. -/
theorem exec_cannotArise {w : Nat} {y : TagWord} (hway : s.wayOf i m.laddr = some (w, y)) (hhp : y.hp = 0) (hsh : Shadowed (s.sl i) (setOf m.laddr).toNat)
    {c : Instr} {k : BKind} (hc : exec c s = .next (take k m (held k m) s)) (hst : y.st ≠ .P) (ha : arises k y.st = false) (hk : k ≠ .bInv) :
    ∃ (t : State) (b : BMsg), exec c s = .next t ∧ ∃ o : List Out, t.out = s.out ++ o ∧ .msg .invAck b ∈ o ∧ b.dst = m.src ∧ b.htid = m.htid ∧
      t.home.protoErr = s.home.protoErr + 1 ∧ t.slices = s.slices := by
  refine exec_held h hc fun fp u => ?_
  obtain ⟨v, x, hside, hv⟩ := protoErr_hostSide k m (passed s fp u)
  obtain ⟨b, hb, hdst, -, hhtid⟩ := invAckTo_sends (s := { v with peat := x }) (by rw [hside.fabric]; exact h.sends) i m
    (by rw [hside.node, hside.fabric]; exact h.heard.2.1) hk
  have hwayOf := holder_of_way (s := passed s fp u) (k := k) (h.still hstt) hway hsh hst hhp
  rw [ha, if_neg Bool.false_ne_true, cannotArise, hv, hb] at hwayOf
  obtain ⟨o, ho⟩ := hside.out
  have hsl : v.sl i = s.sl i := hside.sl i
  have hhome : v.home = { s.home with protoErr := s.home.protoErr + 1 } := hside.home
  have hun : v.home.unacked = s.home.unacked := by rw [hhome]
  have herr : v.home.protoErr = s.home.protoErr + 1 := by rw [hhome]
  refine ⟨_, b, hwayOf, ⟨?_, fun q => ?_, hun⟩, o ++ [.msg .invAck b], ?_, by simp, hdst, hhtid,
    herr, hside.slices⟩
  · exact (congrArg Slice.still hsl).mpr (h.still hstt)
  · obtain ⟨hlink, -, hntc⟩ := hside.ports q
    obtain ⟨hn, hd⟩ := h.ntc q
    exact ⟨hntc.trans hn, fun e => hd (hlink.symm.trans e)⟩
  · rw [State.emit, ho, List.append_assoc]
    rfl

end

section
variable {s : State} {i : SliceNo} {m : BMsg} (h : AtSlice s i m) (hstt : (s.sl i).stt = []) {w : Nat} {y : TagWord}
  (hway : s.wayOf i m.laddr = some (w, y)) (hhp : y.hp = 0) (hsh : Shadowed (s.sl i) (setOf m.laddr).toNat)
include h hstt hway hhp hsh

/-- A shared forward takes the data from the way to the requester. -/
theorem exec_fwds_copy (hq : isLost s.node s.fabric m.rqn = false) {st' : LState} {fw : Bool}
    (hmem : (y.st, st', fw) ∈ [(LState.F, if m.fwdr then LState.S else .F, m.fwdr), (.E, .S, true), (.O, .O, false), (.M, .O, false)]) :
    ∃ (t : State) (b : BMsg), exec (.fwds m) s = .next t ∧ t.out = s.out ++ [.msg .dataS b] ∧
      ((b.dst = m.rqn ∧ b.dstu = m.rqu ∧ b.rtid = m.rtid ∧ b.htid = m.htid) ∧
        b.data = (spGet {} (s.sl i).slots (slotKey (setOf m.laddr).toNat w)).data ∧ b.poison = y.poison ∧ b.fwdr = fw) ∧
      (t.sl i).word (setOf m.laddr).toNat w = { y with st := st' } ∧ (t.sl i).slots = (s.sl i).slots ∧ SliceAlone s t i 0 := by
  obtain ⟨-, ha, hP, hI⟩ := answerCopy_fwdS i m (spGet {} (s.sl i).slots (slotKey (setOf m.laddr).toNat w)) y.poison s hmem
  have hkeep : (if st' = .I then {} else { y with st := st' } : TagWord) = { y with st := st' } := if_neg hI
  rw [← hkeep]
  refine exec_copy h hstt hway hhp hsh (exec_fwds h.clk) hP ha nofun fun t hn hf => ?_
  obtain ⟨b, hb, hdst, ⟨hdata, hpois, -⟩, hfw, -⟩ := dataToQ_sends (s := t) (by rw [hf]; exact h.sends) i m (by rw [hn, hf]; exact hq) .dataS fw y.poison
    m.osn (spGet {} (s.sl i).slots (slotKey (setOf m.laddr).toNat w)).data
  exact ⟨b, by rw [(answerCopy_fwdS i m _ y.poison t hmem).1, hb], hdst, hdata, hpois, hfw⟩

/-- An exclusive forward takes the line from the way to the requester. -/
theorem exec_fwdx_copy (hq : isLost s.node s.fabric m.rqn = false) {k : BKind} (hmem : (y.st, k) ∈ [(LState.E, BKind.dataE), (.O, .dataM), (.M, .dataM)]) :
    ∃ (t : State) (b : BMsg), exec (.fwdx m) s = .next t ∧ t.out = s.out ++ [.msg k b] ∧
      ((b.dst = m.rqn ∧ b.dstu = m.rqu ∧ b.rtid = m.rtid ∧ b.htid = m.htid) ∧
        b.data = (spGet {} (s.sl i).slots (slotKey (setOf m.laddr).toNat w)).data ∧ b.poison = y.poison ∧ b.osn = m.osn ∧ b.waitcmp = m.waitcmp) ∧
      (t.sl i).word (setOf m.laddr).toNat w = {} ∧ SliceAlone s t i 0 := by
  obtain ⟨-, -, ha, -, hP, -, hkS⟩ := answerCopy_owned i m (spGet {} (s.sl i).slots (slotKey (setOf m.laddr).toNat w)) y.poison s hmem
  obtain ⟨t, b, hexec, hout, hb, hword, -, halone⟩ := exec_copy h hstt hway hhp hsh (exec_fwdx h.clk) hP ha nofun (out := fun b => .msg k b)
    (P := fun b => (b.dst = m.rqn ∧ b.dstu = m.rqu ∧ b.rtid = m.rtid ∧ b.htid = m.htid) ∧
      b.data = (spGet {} (s.sl i).slots (slotKey (setOf m.laddr).toNat w)).data ∧ b.poison = y.poison ∧ b.osn = m.osn ∧ b.waitcmp = m.waitcmp)
    fun t hn hf => by
      obtain ⟨b, hb, hdst, ⟨hdata, hpois, hosn⟩, -, hwait⟩ := dataToQ_sends (s := t) (by rw [hf]; exact h.sends) i m (by rw [hn, hf]; exact hq) k false
        y.poison m.osn (spGet {} (s.sl i).slots (slotKey (setOf m.laddr).toNat w)).data
      exact ⟨b, by rw [(answerCopy_owned i m _ y.poison t hmem).1, hb], hdst, hdata, hpois, hosn, by rw [hwait]; simp [hkS]⟩
  exact ⟨t, b, hexec, hout, hb, by rw [hword, if_pos rfl], halone⟩

/-- A probe sends the data to the home; the copy stays with KEEP. -/
theorem exec_probe_copy {k : BKind} (hmem : (y.st, k) ∈ [(LState.E, BKind.dataE), (.O, .dataM), (.M, .dataM)]) :
    ∃ (t : State) (b : BMsg), exec (.probe m) s = .next t ∧ t.out = s.out ++ [.msg k b] ∧
      ((b.dst = m.src ∧ b.dstu = homeUnit ∧ b.htid = m.htid) ∧ b.data = (spGet {} (s.sl i).slots (slotKey (setOf m.laddr).toNat w)).data ∧
        b.poison = y.poison ∧ b.osn = (spGet {} (s.sl i).slots (slotKey (setOf m.laddr).toNat w)).osn) ∧
      (t.sl i).word (setOf m.laddr).toNat w = (if m.keep then y else {}) ∧ SliceAlone s t i 0 := by
  obtain ⟨-, -, -, ha, hP, hI, -⟩ := answerCopy_owned i m (spGet {} (s.sl i).slots (slotKey (setOf m.laddr).toNat w)) y.poison s hmem
  obtain ⟨t, b, hexec, hout, hb, hword, -, halone⟩ := exec_copy h hstt hway hhp hsh (exec_probe h.clk) hP ha (st' := if m.keep then y.st else .I)
    (fun _ => by cases m.keep <;> simp) (out := fun b => .msg k b)
    (P := fun b => (b.dst = m.src ∧ b.dstu = homeUnit ∧ b.htid = m.htid) ∧ b.data = (spGet {} (s.sl i).slots (slotKey (setOf m.laddr).toNat w)).data ∧
        b.poison = y.poison ∧ b.osn = (spGet {} (s.sl i).slots (slotKey (setOf m.laddr).toNat w)).osn)
    fun t hn hf => by
      obtain ⟨b, hb, hp⟩ := dataToH_sends (s := t) (by rw [hf]; exact h.sends) i m (by rw [hn, hf]; exact h.heard.2.1) k y.poison
        (spGet {} (s.sl i).slots (slotKey (setOf m.laddr).toNat w)).osn (spGet {} (s.sl i).slots (slotKey (setOf m.laddr).toNat w)).data
      exact ⟨b, by rw [(answerCopy_owned i m _ y.poison t hmem).2.1, hb], hp⟩
  refine ⟨t, b, hexec, hout, hb, ?_, halone⟩
  rw [hword]
  cases m.keep <;> simp [hI]

/-- An invalidation empties the way. -/
theorem exec_inv_copy (hst : y.st = .S ∨ y.st = .F ∨ y.st = .O) :
    ∃ (t : State) (b : BMsg), exec (.inv m) s = .next t ∧ t.out = s.out ++ [.msg .invAck b] ∧ (b.dst = m.src ∧ b.dstu = homeUnit ∧ b.htid = m.htid) ∧
      (t.sl i).word (setOf m.laddr).toNat w = {} ∧ SliceAlone s t i 0 := by
  obtain ⟨ha, -, hP⟩ := arises_inv hst
  obtain ⟨t, b, hexec, hout, hb, hword, -, halone⟩ := exec_copy h hstt hway hhp hsh (exec_inv h.clk) hP ha nofun (st' := .I) (out := fun b => .msg .invAck b)
    (P := fun b => b.dst = m.src ∧ b.dstu = homeUnit ∧ b.htid = m.htid) fun t hn hf => by
      obtain ⟨b, hb, hp⟩ := invAckTo_sends (s := t) (k := .inv) (by rw [hf]; exact h.sends) i m (by rw [hn, hf]; exact h.heard.2.1) (by decide)
      exact ⟨b, by rw [← hb]; rfl, hp⟩
  exact ⟨t, b, hexec, hout, hb, by rw [hword, if_pos rfl], halone⟩

/-- So does a broadcast invalidation, whose answer is combined in this node's switch. -/
theorem exec_binv_copy (hst : y.st = .S ∨ y.st = .F ∨ y.st = .O) :
    ∃ (t : State) (b : BMsg), exec (.binv m) s = .next t ∧ t.out = s.out ++ [.comb (some s.node.node) b 1] ∧ (b.dst = m.src ∧ b.htid = m.htid) ∧
      (t.sl i).word (setOf m.laddr).toNat w = {} ∧ SliceAlone s t i 0 := by
  obtain ⟨-, ha, hP⟩ := arises_inv hst
  obtain ⟨t, b, hexec, hout, hb, hword, -, halone⟩ := exec_copy h hstt hway hhp hsh (exec_binv h.clk) hP ha nofun (st' := .I)
    (out := fun b => .comb (some s.node.node) b 1) (P := fun b => b.dst = m.src ∧ b.htid = m.htid) fun t hn hf => by
      obtain ⟨b, hb, hp⟩ := invAckTo_combines (s := t) (by rw [hf]; exact h.sends) i m
      exact ⟨b, by rw [← hn, ← hb]; rfl, hp⟩
  exact ⟨t, b, hexec, hout, hb, by rw [hword, if_pos rfl], halone⟩

end

/-- Settles O35: the message finds the line's copy in its way, or none; the answer leaves, and the way is left as the message says. -/
theorem forwardsAndInvalidations : Obligations.ForwardsAndInvalidations := by
  intro s i m w y set d hset _ h hstt hd hq
  subst hset hd
  refine ⟨fun hway hhp _ hsh => ⟨fun st st' fw hmem hst => ?_, fun st k hmem hst => ⟨?_, ?_⟩, fun hst => ⟨?_, ?_⟩, fun hst => ?_⟩, fun hway hlook c hc => ?_⟩
  · obtain ⟨t, b, hexec, hout, ⟨⟨hdst, hdstu, hrtid, hhtid⟩, hdata, hpois, hfw⟩, hrest⟩ := exec_fwds_copy h hstt hway hhp hsh hq (hst ▸ hmem)
    exact ⟨t, b, hexec, hout, hdst, hdstu, hrtid, hhtid, hdata, hpois, hfw, hrest⟩
  · obtain ⟨t, b, hexec, hout, ⟨⟨hdst, hdstu, hrtid, hhtid⟩, hdata, hpois, hosn, hwait⟩, hrest⟩ := exec_fwdx_copy h hstt hway hhp hsh hq (hst ▸ hmem)
    exact ⟨t, b, hexec, hout, hdst, hdstu, hrtid, hhtid, hdata, hpois, hosn, hwait, hrest⟩
  · obtain ⟨t, b, hexec, hout, ⟨⟨hdst, hdstu, hhtid⟩, hdata, hpois, hosn⟩, hrest⟩ := exec_probe_copy h hstt hway hhp hsh (hst ▸ hmem)
    exact ⟨t, b, hexec, hout, hdst, hdstu, hhtid, hdata, hpois, hosn, hrest⟩
  · obtain ⟨t, b, hexec, hout, ⟨hdst, hdstu, hhtid⟩, hrest⟩ := exec_inv_copy h hstt hway hhp hsh hst
    exact ⟨t, b, hexec, hout, hdst, hdstu, hhtid, hrest⟩
  · obtain ⟨t, b, hexec, hout, ⟨hdst, hhtid⟩, hrest⟩ := exec_binv_copy h hstt hway hhp hsh hst
    exact ⟨t, b, hexec, hout, hdst, hhtid, hrest⟩
  · obtain ⟨t, b, hexec, o, hrest⟩ := exec_cannotArise h hstt hway hhp hsh (exec_fwdx h.clk) (by rw [hst]; decide) (by rw [hst]; decide) (by decide)
    exact ⟨t, b, o, hexec, hrest⟩
  · simp only [List.mem_cons, List.not_mem_nil, or_false] at hc
    obtain rfl | rfl | rfl | rfl := hc
    · exact exec_without_copy h hstt (exec_inv h.clk) (by decide) hway hlook
    · exact exec_without_copy h hstt (exec_fwds h.clk) (by decide) hway hlook
    · exact exec_without_copy h hstt (exec_fwdx h.clk) (by decide) hway hlook
    · exact exec_without_copy h hstt (exec_probe h.clk) (by decide) hway hlook

end Sys2Proof.Machine
end

section
/-! PROOFS. Writebacks and clean evictions of hosts, on the line their slice holds (R117, R121, R213, R523). -/

set_option Elab.async false

namespace Sys2Proof.Machine

/-! ### Tag words of a set in the shadow -/

/-- A set is held in the tag shadow, which is on: what a tag word is written to is read back from it. -/
def Slice.shows (x : Slice) (set : Nat) : Prop := (x.shEntry set).isSome = true ∧ x.shadowEn = true

theorem setOf_lt (l : LAddr) : (setOf l).toNat < 2 ^ 23 := (setOf l).isLt

section
variable {x : Slice} {set w : Nat} (h : x.shows set)
include h

theorem Slice.shows.word_putWord (hw : w < 15) (t : TagWord) : (x.putWord set w t).word set w = t := by
  obtain ⟨⟨k, e⟩, hent⟩ := Option.isSome_iff_exists.1 h.1
  exact Sys2Proof.Machine.word_putWord hent h.2 hw t

theorem Slice.shows.word_putWord_other (hg : x.good = true) (hset : set < 2 ^ 23) {k v : Nat} (t : TagWord) (hk : k < 2 ^ 23) (hne : k ≠ set ∨ v ≠ w) :
    (x.putWord set w t).word k v = x.word k v := by
  obtain ⟨⟨k, e⟩, hent⟩ := Option.isSome_iff_exists.1 h.1
  exact Sys2Proof.Machine.word_putWord_other hent h.2 ((Slice.good_iff x).1 hg).1 t hset hk hne

theorem Slice.shows.putWord (t : TagWord) : (x.putWord set w t).shows set := by
  obtain ⟨⟨k, e⟩, hent⟩ := Option.isSome_iff_exists.1 h.1
  obtain ⟨e1, hent1⟩ := shEntry_putWord hent h.2 w t
  obtain ⟨_, _, _, heq⟩ := x.putWord_eq set w t
  refine ⟨by rw [hent1]; rfl, ?_⟩
  rw [heq]
  exact h.2

end

/-- Way w of a set hits a line of the set under tag word t: it holds a line of this tag, and is neither disabled nor off (R60). -/
def Slice.hits (x : Slice) (l : LAddr) (w : Nat) (t : TagWord) : Bool :=
  decide (t.st ≠ .I) && decide (t.tag = tagOf l) && !bit (x.disMap (hbmRegion (setOf l).toNat)) w && !x.groupOff w

theorem Slice.find_eq (x : Slice) (l : LAddr) : x.find l =
    ((List.range 15).find? (fun w => x.hits l w (x.word (setOf l).toNat w))).map (fun w => (w, x.word (setOf l).toNat w)) := rfl

/-- A line found stays found in its way under a word with its tag. -/
theorem Slice.find_putWord {x : Slice} {l : LAddr} {w : Nat} {t u : TagWord} (h : x.shows (setOf l).toNat) (hf : x.find l = some (w, t))
    (htag : u.tag = t.tag) (hst : u.st ≠ .I) : (x.putWord (setOf l).toNat w u).find l = some (w, u) := by
  obtain ⟨hw, ht⟩ := Slice.find_some hf
  obtain ⟨⟨k, e⟩, hent⟩ := Option.isSome_iff_exists.1 h.1
  have hword (v : Nat) : (x.putWord (setOf l).toNat w u).word (setOf l).toNat v = if v = w then u else x.word (setOf l).toNat v := by
    split
    · next hv => rw [hv, h.word_putWord hw]
    · next hv =>
      rw [Slice.word, Slice.putWord, block_putBlock hent h.2]
      exact vget_vset_other _ _ _ hv
  have hhits (v : Nat) (c : TagWord) : (x.putWord (setOf l).toNat w u).hits l v c = x.hits l v c := by
    obtain ⟨_, _, _, heq⟩ := x.putWord_eq (setOf l).toNat w u
    rw [heq]
    rfl
  rw [Slice.find_eq] at hf ⊢
  obtain ⟨v, hv, heq⟩ := Option.map_eq_some_iff.1 hf
  obtain rfl : v = w := congrArg Prod.fst heq
  obtain ⟨hhit, pre, post, hrange, hpre⟩ := List.find?_eq_some_iff_append.1 hv
  refine Option.map_eq_some_iff.2 ⟨v, List.find?_eq_some_iff_append.2 ⟨?_, pre, post, hrange, fun a ha => ?_⟩, by rw [hword, if_pos rfl]⟩
  · rw [hhits, hword, if_pos rfl]
    rw [← ht] at hhit
    simp only [Slice.hits, htag, Bool.and_eq_true, decide_eq_true_eq] at hhit ⊢
    exact ⟨⟨⟨hst, hhit.1.1.2⟩, hhit.1.2⟩, hhit.2⟩
  · have hne : a ≠ v := by
      rintro rfl
      simpa [hhit] using hpre a ha
    rw [hhits, hword, if_neg hne]
    exact hpre a ha

/-! ### What a writeback and an eviction make of their slice -/

/-- The way that holds a line for a lookup: none for a far line. -/
def Slice.wayFor (x : Slice) (far : Bool) (l : LAddr) : Option (Nat × TagWord) := if far then none else x.find l

/-- The data of a writeback is merged into the line's way. -/
def Slice.merged (x : Slice) (far : Bool) (l : LAddr) (d : Line) (poison : Bool) : Slice :=
  match x.wayFor far l with
  | none => x
  | some (w, t) =>
    let key := slotKey (setOf l).toNat w
    (({ x with slots := spSet {} key { spGet {} x.slots key with data := d } x.slots } : Slice).mendSlot (setOf l).toNat w).putWord (setOf l).toNat w
      { t with st := if t.st = .E then .M else t.st, poison := poison }

/-- Port p holds the line no more. -/
def Slice.dropped (x : Slice) (far : Bool) (l : LAddr) (p : Port) : Slice :=
  (match x.wayFor far l with
    | none => x
    | some (w, t) => x.putWord (setOf l).toNat w { t with hp := setBit t.hp p.val false }).dropMove (fun e => decide (e = l)) p

/-- The slice after the writeback of its exclusive host. -/
def Slice.wroteBack (x : Slice) (far : Bool) (p : Port) (l : LAddr) (d : Line) (poison keep : Bool) : Slice :=
  let y := x.merged far l d poison
  let z := { y with rb := modFirst (fun e => decide (e.line = l) && y.exclMove p e) (fun e => { e with st := .M, data := d, poison := poison }) y.rb }
  if keep then z else z.dropped far l p

theorem dropHp_eq (i : SliceNo) (l : LAddr) (p : Port) (s : State) : dropHp i l p s = s.setSl i ((s.sl i).dropped (isFar s l) l p) := by
  have hway : s.wayOf i l = (s.sl i).wayFor (isFar s l) l := rfl
  rw [dropHp, modWord, hway, Slice.dropped]
  cases (s.sl i).wayFor (isFar s l) l with
  | none => rfl
  | some c => simp only [State.modSl, State.setSl_sl, State.setSl_setSl]

theorem mergeHost_eq (i : SliceNo) (l : LAddr) (d : Line) (poison : Bool) (s : State) :
    ∃ g : Dbg, mergeHost i l d poison true s = ({ s with dbg := g } : State).setSl i ((s.sl i).merged (isFar s l) l d poison) := by
  have hway : s.wayOf i l = (s.sl i).wayFor (isFar s l) l := rfl
  rw [mergeHost, hway, Slice.merged]
  cases (s.sl i).wayFor (isFar s l) l with
  | none => exact ⟨s.dbg, (s.setSl_self i).symm⟩
  | some c =>
    obtain ⟨g, hg⟩ := pmu_eq 0x40 (some ((setOf l).toNat % 4)) s
    refine ⟨g, ?_⟩
    simp only [rowOpen, hg, writeSlot, State.modSl, State.setSl_sl, State.setSl_setSl, Bool.not_true, Bool.and_false, Bool.or_false]
    rfl

/-- A writeback whose lookup changes nothing is the slice's work alone; an event of the counters may come with it. -/
theorem hostWb_eq {p : Port} {l : LAddr} {s : State} (h : isFar s l = true ∨ Shadowed (s.sl (sliceOf l)) (setOf l).toNat) (d : Line) (poison keep : Bool) :
    ∃ g : Dbg, hostWb p l d poison keep s =
      ({ s with dbg := g } : State).setSl (sliceOf l) ((s.sl (sliceOf l)).wroteBack (isFar s l) p l d poison keep) := by
  obtain ⟨g, hg⟩ := mergeHost_eq (sliceOf l) l d poison s
  refine ⟨g, ?_⟩
  simp only [hostWb, lookEntry_of_shadowed h, Bool.not_true, Bool.false_eq_true, if_false, hg, Slice.wroteBack]
  cases keep
  · simp only [Bool.false_eq_true, if_false, dropHp_eq, State.modSl, State.setSl_sl, State.setSl_setSl]
    rfl
  · simp only [if_true, State.modSl, State.setSl_sl, State.setSl_setSl]

/-! ### On a near line that a way holds -/

/-- The line's way has word t, and what else the slice holds in tags is as in x. -/
structure OneWord (x y : Slice) (set w : Nat) (t : TagWord) : Prop where
  word  : y.word set w = t
  words : x.good = true → ∀ k v : Nat, k < 2 ^ 23 → (k ≠ set ∨ v ≠ w) → y.word k v = x.word k v

theorem Slice.shows.oneWord {x : Slice} {l : LAddr} {w : Nat} (h : x.shows (setOf l).toNat) (hw : w < 15) (t : TagWord) :
    OneWord x (x.putWord (setOf l).toNat w t) (setOf l).toNat w t :=
  ⟨h.word_putWord hw t, fun hg _ _ hk hne => h.word_putWord_other hg (setOf_lt l) t hk hne⟩

theorem Slice.slots_putWord (x : Slice) (set w : Nat) (t : TagWord) : (x.putWord set w t).slots = x.slots := by
  obtain ⟨_, _, _, heq⟩ := x.putWord_eq set w t
  rw [heq]

section
variable {x : Slice} {l : LAddr} {w : Nat} {t : TagWord} (h : x.shows (setOf l).toNat) (hf : x.find l = some (w, t)) (p : Port)
include h hf

theorem Slice.dropped_spec : OneWord x (x.dropped false l p) (setOf l).toNat w { t with hp := setBit t.hp p.val false } ∧
    (x.dropped false l p).slots = x.slots := by
  have hway : x.wayFor false l = some (w, t) := hf
  have hone := h.oneWord (Slice.find_some hf).1 { t with hp := setBit t.hp p.val false }
  rw [Slice.dropped, hway]
  exact ⟨⟨hone.word, hone.words⟩, x.slots_putWord _ _ _⟩

omit h hf in
/-- After the slice has become y, a change of its Reedbed and, unless the host keeps the line, of its HP bit. -/
theorem Slice.keptOrDropped_spec {y : Slice} {u : TagWord} (hy : OneWord x y (setOf l).toNat w u) (hs : y.shows (setOf l).toNat)
    (hfy : y.find l = some (w, u)) (hgood : x.good = true → y.good = true) (r : List RbEnt) (keep : Bool) :
    OneWord x (if keep then { y with rb := r } else ({ y with rb := r } : Slice).dropped false l p) (setOf l).toNat w
        { u with hp := if keep then u.hp else setBit u.hp p.val false } ∧
      (if keep then { y with rb := r } else ({ y with rb := r } : Slice).dropped false l p).slots = y.slots := by
  cases keep
  · obtain ⟨hone, hslots⟩ := Slice.dropped_spec (x := { y with rb := r }) hs hfy p
    exact ⟨⟨hone.word, fun hg k v hk hne => (hone.words (hgood hg) k v hk hne).trans (hy.words hg k v hk hne)⟩, hslots⟩
  · exact ⟨⟨hy.word, hy.words⟩, rfl⟩

/-- The slice with the data of a writeback in the line's slot. -/
def Slice.withData (x : Slice) (l : LAddr) (w : Nat) (d : Line) : Slice :=
  ({ x with slots := spSet {} (slotKey (setOf l).toNat w) { spGet {} x.slots (slotKey (setOf l).toNat w) with data := d } x.slots } : Slice).mendSlot
    (setOf l).toNat w

omit h in
theorem Slice.merged_spec (hst : t.st = .E ∨ t.st = .M) (d : Line) (poison : Bool) :
    x.merged false l d poison = (x.withData l w d).putWord (setOf l).toNat w { t with st := .M, poison := poison } := by
  have hway : x.wayFor false l = some (w, t) := hf
  have hM : (if t.st = .E then .M else t.st) = LState.M := by rcases hst with e | e <;> rw [e] <;> rfl
  rw [Slice.merged, hway]
  simp only [hM]
  rfl

/-- The writeback of the exclusive host leaves the line M, with its data. -/
theorem Slice.wroteBack_spec (hst : t.st = .E ∨ t.st = .M) (d : Line) (poison keep : Bool) :
    OneWord x (x.wroteBack false p l d poison keep) (setOf l).toNat w
        { t with st := .M, poison := poison, hp := if keep then t.hp else setBit t.hp p.val false } ∧
      (x.wroteBack false p l d poison keep).slots = (x.withData l w d).slots := by
  have hone := Slice.shows.oneWord (x := x.withData l w d) h (Slice.find_some hf).1 { t with st := .M, poison := poison }
  have hfind := Slice.find_putWord (x := x.withData l w d) (u := { t with st := .M, poison := poison }) h hf rfl nofun
  have hshows := Slice.shows.putWord (x := x.withData l w d) (w := w) h { t with st := .M, poison := poison }
  have hgood (hg : x.good = true) : (x.withData l w d).good = true := Slice.good_slots hg
  rw [Slice.wroteBack, Slice.merged_spec hf hst d poison]
  obtain ⟨hdone, hslots⟩ := Slice.keptOrDropped_spec (x := x) p ⟨hone.word, fun hg => hone.words (hgood hg)⟩ hshows hfind
    (fun hg => Slice.putWord_good (hgood hg)) _ keep
  exact ⟨hdone, hslots.trans ((x.withData l w d).slots_putWord _ _ _)⟩

end

/-! ### The messages -/

theorem exclHost_some {t : TagWord} {p : Port} (h : exclHost t = some p) : t.st = .E ∨ t.st = .M := by
  unfold exclHost at h
  split at h
  · next hst => exact hst
  · cases h

/-- The credits that come with a message are its port's. -/
theorem gives_eq (m : EMsg) (s : State) : ∃ a b : Nat, gives m s = s.setHp m.port { s.hp m.port with dcmp := a, dsnp := b } := by
  unfold gives
  split
  · exact ⟨_, _, rfl⟩
  · exact ⟨(s.hp m.port).dcmp, (s.hp m.port).dsnp, (s.setHp_self m.port).symm⟩

theorem receives_gives (m : EMsg) (s : State) : receives (gives m s) m.port false = receives s m.port false := by
  obtain ⟨a, b, hg⟩ := gives_eq m s
  rw [hg, receives, receives, State.setHp_hp]
  rfl

/-- An event may send MSI-X on a host port; of the ports nothing else changes. -/
def EventPorts (s t : State) : Prop := ∀ q : Port, t.hp q = { s.hp q with heldOut := (t.hp q).heldOut, msixLive := (t.hp q).msixLive }

namespace EventPorts

theorem refl (s : State) : EventPorts s s := fun _ => rfl

theorem trans {s t u : State} (h : EventPorts s t) (h' : EventPorts t u) : EventPorts s u := fun q => by
  rw [h' q, h q]

theorem modHp {s : State} {p : Port} {f : HPort → HPort} (hf : ∀ h, f h = { h with heldOut := (f h).heldOut, msixLive := (f h).msixLive }) :
    EventPorts s (s.modHp p f) := fun q => by
  by_cases e : q = p
  · rw [e, State.modHp_hp]
    exact hf _
  · rw [State.modHp_hp_other _ _ e]

theorem each {α : Type} {f : State → α → State} (hf : ∀ s x, EventPorts s (f s x)) (l : List α) (s : State) : EventPorts s (s.each l f) := by
  induction l generalizing s with
  | nil => exact .refl s
  | cons x t ih => exact (hf s x).trans (ih (f s x))

end EventPorts

theorem toHost_eventPorts (p : Port) (m : ToHost) (s : State) : EventPorts s (toHost p m s) := by
  unfold toHost
  extract_lets h
  split
  · exact fun _ => rfl
  · exact .modHp (s := s) (p := p) (f := fun h => { h with heldOut := h.heldOut ++ [m] }) fun _ => rfl
  all_goals exact .refl s

theorem msixCheck_eventPorts (p : Port) (s : State) : EventPorts s (msixCheck p s) := by
  unfold msixCheck
  extract_lets h l s1
  have h1 : EventPorts s s1 := by
    unfold s1
    split
    · exact toHost_eventPorts p _ s
    · exact .refl s
  split
  · exact h1.trans (.modHp fun _ => rfl)
  · exact .refl s

theorem postEvent_eventPorts (code : Byte) (cls : Nat) (pl : List W64) (s : State) : EventPorts s (postEvent code cls pl s) := by
  have hpost (s : State) (p : Port) : EventPorts s (postTo p code cls pl s) := by
    unfold postTo
    split
    · exact EventPorts.trans (fun _ => rfl) (msixCheck_eventPorts p _)
    · exact .refl s
  have hfreeze (s : State) : EventPorts s (freezeOnEvent code s) := by
    unfold freezeOnEvent freezeDie
    extract_lets c
    split
    · split <;> exact fun _ => rfl
    · exact .refl s
  exact (EventPorts.each hpost ports s).trans (hfreeze _)

/-- A host error is counted at its port, and touches no slice. -/
theorem hostErr_counted (p : Port) (cause : Nat) (opc : BitVec 6) (l : Option LAddr) (s : State) :
    ((hostErr p cause opc l s).hp p).hostErr = (s.hp p).hostErr + 1 ∧ (hostErr p cause opc l s).slices = s.slices := by
  unfold hostErr
  refine ⟨?_, (postEvent_hostSide 0x54 5 _ _).slices⟩
  rw [postEvent_eventPorts 0x54 5 _ _ p, State.modHp_hp]

section
variable {s : State} {m : EMsg} (hk : s.clk = true)
include hk

theorem exec_wbdirty : exec (.wbdirty m) s = .next (wbDirty m (gives m s)) := onClock_run hk (fun s => wbDirty m (gives m s))

theorem exec_evictclean (hrec : receives s m.port false = true) : exec (.evictclean m) s = .next (evictNotice m.port (lineOf m.addr) (gives m s)) := by
  refine (onClock_run hk _).trans ?_
  rw [if_pos hrec]

theorem exec_memwr (c : CMsg) : exec (.memwr c) s = .next (memWr c s) := onClock_run hk _

end

theorem ServedAlone.of_setHp {s t : State} {p : Port} {l : LAddr} {w : Nat} {h : HPort} (ha : ServedAlone (s.setHp p h) t p l w) :
    ServedAlone s t p l w where
  home := ha.home
  ddr := ha.ddr
  ports q hq := (ha.ports q hq).trans (State.setHp_hp_other s h hq)
  slices := ha.slices
  slots := ha.slots
  words := ha.words
  pins := ha.pins
  arb := ha.arb

/-- The writeback of the exclusive host of a line in its way. -/
theorem hostWb_excl {s : State} {p : Port} {l : LAddr} {w : Nat} {x : TagWord} (hst : x.st = .E ∨ x.st = .M)
    (hgood : (s.sl (sliceOf l)).good = true) (hfind : (s.sl (sliceOf l)).find l = some (w, x)) (hsh : Shadowed (s.sl (sliceOf l)) (setOf l).toNat)
    (hfar : isFar s l = false) (d : Line) (poison keep : Bool) {t : State} (ht : hostWb p l d poison keep s = t) :
    (t.sl (sliceOf l)).word (setOf l).toNat w = { x with st := .M, poison := poison, hp := if keep then x.hp else setBit x.hp p.val false } ∧
      (spGet {} (t.sl (sliceOf l)).slots (slotKey (setOf l).toNat w)).data = d ∧ ServedAlone s t p l w ∧ t.out = s.out := by
  obtain ⟨g, hwb⟩ := hostWb_eq (p := p) (.inr hsh) d poison keep
  rw [hfar] at hwb
  obtain rfl := hwb.symm.trans ht
  obtain ⟨hone, hslots⟩ := Slice.wroteBack_spec (p := p) ⟨hsh.1, hsh.2.1⟩ hfind hst d poison keep
  have hwf := ((Slice.good_iff _).1 hgood).2.1
  refine ⟨by rw [State.setSl_sl, hone.word], ?_, ⟨rfl, rfl, fun _ _ => rfl, fun j hj => State.setSl_sl_other _ _ hj, fun k hk => ?_, fun k v hlt hne => ?_,
    ⟨rfl, rfl, rfl⟩, rfl⟩, rfl⟩
  · rw [State.setSl_sl, hslots]
    exact congrArg Slot.data (spGet_spSet_same hwf)
  · rw [State.setSl_sl, hslots]
    exact spGet_spSet_other hwf hk
  · rw [State.setSl_sl]
    exact hone.words hgood k v hlt hne

section
variable {s : State} {m : EMsg} {l : LAddr} {i : SliceNo} {w : Nat} {x : TagWord} (hl : l = lineOf m.addr) (hi : i = sliceOf l)
  (hk : s.clk = true) (hrec : receives s m.port false = true)
include hl hk hrec

theorem exec_wbdirty_of (u : State → State) (hu : ∀ t, (if isExcl s m.port l then hostWb m.port l m.data m.poison (decide (m.grant = 1)) t
    else hostErr m.port 4 opcWbDirty (some l) t) = u t) : exec (.wbdirty m) s = .next (u (gives m s)) := by
  obtain ⟨a, b, hg⟩ := gives_eq m s
  have hex : isExcl (gives m s) m.port l = isExcl s m.port l := by
    rw [hg]
    rfl
  rw [exec_wbdirty hk, wbDirty, receives_gives, hrec, ← hl, hex, ← hu]
  rfl

include hi

/-- A dirty writeback of the exclusive host. -/
theorem exec_wbdirty_excl (hex : isExcl s m.port l = true) (hgood : (s.sl i).good = true) (hfind : (s.sl i).find l = some (w, x))
    (hsh : Shadowed (s.sl i) (setOf l).toNat) (hfar : isFar s l = false) :
    ∃ t : State, exec (.wbdirty m) s = .next t ∧ (t.sl i).word (setOf l).toNat w =
        { x with st := .M, poison := m.poison, hp := if m.grant = 1 then x.hp else setBit x.hp m.port.val false } ∧
      (spGet {} (t.sl i).slots (slotKey (setOf l).toNat w)).data = m.data ∧ ServedAlone s t m.port l w ∧ t.out = s.out := by
  subst hi
  obtain ⟨a, b, hg⟩ := gives_eq m s
  have hst : x.st = .E ∨ x.st = .M := by
    have hway : s.wayOf (sliceOf l) l = some (w, x) := by rw [State.wayOf, hfar, if_neg Bool.false_ne_true, hfind]
    rw [isExcl, hway] at hex
    exact exclHost_some (of_decide_eq_true hex)
  refine ⟨_, exec_wbdirty_of hl hk hrec _ (fun t => if_pos hex), ?_⟩
  rw [hg]
  generalize { s.hp m.port with dcmp := a, dsnp := b } = h
  obtain ⟨hword, hdata, halone, hout⟩ := hostWb_excl (s := s.setHp m.port h) (p := m.port) hst hgood hfind hsh hfar m.data m.poison (decide (m.grant = 1)) rfl
  refine ⟨?_, hdata, halone.of_setHp, hout⟩
  rw [hword]
  by_cases e : m.grant = 1 <;> simp [e]

omit hi in
/-- A dirty writeback of another host is a host error. -/
theorem exec_wbdirty_other (hex : isExcl s m.port l = false) : ∃ t : State, exec (.wbdirty m) s = .next t ∧
    (t.hp m.port).hostErr = (s.hp m.port).hostErr + 1 ∧ t.slices = s.slices ∧ HomeKept s t := by
  obtain ⟨a, b, hg⟩ := gives_eq m s
  refine ⟨_, exec_wbdirty_of hl hk hrec _ (fun t => if_neg (by simp [hex])), ?_⟩
  obtain ⟨hcount, hslices⟩ := hostErr_counted m.port 4 opcWbDirty (some l) (gives m s)
  have hkept : HomeKept s (gives m s) := by rw [hg]; exact ⟨rfl, rfl⟩
  refine ⟨?_, ?_, hostErr_homeKept _ _ _ _ _ hkept⟩
  · rw [hcount, hg, State.setHp_hp]
  · rw [hslices, hg]
    rfl

/-- A clean eviction of a port without a reservation on the line. -/
theorem exec_evictclean_dropped (hfar : isFar s l = false) (hrsv : ∀ k ∈ (s.hp m.port).rsv, k.2 ≠ l) (hfind : (s.sl i).find l = some (w, x))
    (hsh : Shadowed (s.sl i) (setOf l).toNat) :
    ∃ t : State, exec (.evictclean m) s = .next t ∧ t = { gives m s with slices := t.slices } ∧
      (t.sl i).word (setOf l).toNat w = { x with hp := setBit x.hp m.port.val false } ∧ (t.sl i).slots = (s.sl i).slots ∧
      ∀ j : SliceNo, j ≠ i → t.sl j = s.sl j := by
  subst hi
  obtain ⟨a, b, hg⟩ := gives_eq m s
  have hnone : ((gives m s).hp m.port).goodRsv.any (fun c => decide (c.2 = l)) = false := by
    rw [hg, State.setHp_hp, List.any_eq_false]
    intro k hmem
    simpa using hrsv k (List.mem_of_mem_filter hmem)
  have hsame : isFar (gives m s) l = false ∧ (gives m s).sl = s.sl := by rw [hg]; exact ⟨hfar, rfl⟩
  obtain ⟨hone, hslots⟩ := Slice.dropped_spec ⟨hsh.1, hsh.2.1⟩ hfind m.port
  refine ⟨_, by rw [exec_evictclean hk hrec, ← hl, evictNotice, hnone, if_neg Bool.false_ne_true, dropHp_eq, hsame.1, hsame.2], rfl, ?_, ?_, fun j hj => ?_⟩
  · rw [State.setSl_sl, hone.word]
  · rw [State.setSl_sl, hslots]
  · rw [State.setSl_sl_other _ _ hj, hsame.2]

omit hi in
/-- A clean eviction of a port with a reservation on the line. -/
theorem exec_evictclean_reserved (hrsv : ∃ k ∈ (s.hp m.port).rsv, k.2 = l ∧ (s.hp m.port).rsvBad.contains k.1 = false) :
    exec (.evictclean m) s = .next (gives m s) := by
  obtain ⟨k, hmem, hline, hok⟩ := hrsv
  obtain ⟨a, b, hg⟩ := gives_eq m s
  have hany : ((gives m s).hp m.port).goodRsv.any (fun c => decide (c.2 = l)) = true := by
    rw [hg, State.setHp_hp, List.any_eq_true]
    exact ⟨k, List.mem_filter.2 ⟨hmem, by simpa using hok⟩, by simpa using hline⟩
  rw [exec_evictclean hk hrec, ← hl, evictNotice, if_pos hany]

end

/-! ### The writeback of a CXL host (R121) -/

/-- The writeback of the exclusive CXL host, then its Cmp: an event of the counters before it makes no difference. -/
theorem memWr_done {s u : State} {c : CMsg} {d : Dbg} (hu : u = { s with dbg := d }) (hup : (s.hp c.port).link = .up)
    (hsh : Shadowed (s.sl (sliceOf (lineOf c.addr))) (setOf (lineOf c.addr)).toNat) (keep : Bool) {t : State}
    (ht : toHost c.port (.cmp c.tag stOK 0 false false) (hostWb c.port (lineOf c.addr) c.data c.poison keep u) = t) :
    t.out = s.out ++ [.host c.port (.cmp c.tag stOK 0 false false)] ∧
      t.slices = (hostWb c.port (lineOf c.addr) c.data c.poison keep s).slices ∧ t.home = s.home ∧ ∀ q : Port, t.hp q = s.hp q := by
  subst hu
  obtain ⟨g, hwb⟩ := hostWb_eq (p := c.port) (s := s) (.inr hsh) c.data c.poison keep
  obtain ⟨g1, hwb1⟩ := hostWb_eq (p := c.port) (s := { s with dbg := d }) (.inr hsh) c.data c.poison keep
  rw [hwb1, toHost_of_up] at ht
  · obtain rfl := ht
    rw [hwb]
    exact ⟨rfl, rfl, rfl, fun _ => rfl⟩
  · exact hup

theorem exec_memwr_excl {s : State} {c : CMsg} {l : LAddr} (hl : l = lineOf c.addr) (hk : s.clk = true) (hrec : receives s c.port true = true)
    (halive : s.fabric.selfDead = false) (hdec : decoded s c.port (lineAddr l) = true) (hex : isExcl s c.port l = true)
    (hopen : (s.hp c.port).admOpen = true) (hshut : s.arb.closed c.port = false) (hctr : (s.hp c.port).ctr.valid = false)
    (hsh : Shadowed (s.sl (sliceOf l)) (setOf l).toNat) :
    ∃ t : State, exec (.memwr c) s = .next t ∧ t.out = s.out ++ [.host c.port (.cmp c.tag stOK 0 false false)] ∧
      t.slices = (hostWb c.port l c.data c.poison (decide (c.meta_ ≠ .invalid)) s).slices ∧ t.home = s.home ∧ ∀ q : Port, t.hp q = s.hp q := by
  subst hl
  have hup : (s.hp c.port).link = .up := by
    simp only [receives, Bool.and_eq_true, decide_eq_true_eq] at hrec
    exact hrec.1.1
  have haccept : verdict s c.port (lineOf c.addr) = .accept false := by simp [verdict, hshut, hctr]
  obtain ⟨d, hd⟩ := pmu_eq 0x20 (some c.port.val) s
  refine ⟨_, exec_memwr hk c, ?_⟩
  simp only [memWr, hrec, halive, hdec, hex, hopen, Bool.not_true, Bool.or_false, Bool.false_eq_true, if_false, admitCxl, haccept, hd]
  split
  · exact memWr_done (d := s.dbg) rfl hup hsh _ rfl
  · exact memWr_done rfl hup hsh _ rfl

/-- Settles O29: a writeback is the merge of its data into the line's way, and a clean eviction the clearing of an HP bit, after a lookup that
reads the set in the tag shadow. -/
theorem writebacksAreMerged : Obligations.WritebacksAreMerged := by
  intro s m c w x hk
  refine ⟨fun hrec hex hgood hfind hsh hfar => exec_wbdirty_excl rfl rfl hk hrec hex (hgood _) hfind hsh hfar,
    fun hrec hex => exec_wbdirty_other rfl hk hrec hex,
    fun hrec hfar hrsv hfind hsh => exec_evictclean_dropped rfl rfl hk hrec hfar hrsv hfind hsh,
    fun hrec hrsv => exec_evictclean_reserved rfl hk hrec hrsv,
    fun hrec halive hdec hex hopen hshut hctr hsh => exec_memwr_excl rfl hk hrec halive hdec hex hopen hshut hctr hsh⟩

end Sys2Proof.Machine
end

section
/-! PROOFS. The demand lookup of a line in the tag shadow: what it touches, and what it leaves (R33, R35, R49). -/

set_option Elab.async false

namespace Sys2Proof.Machine

/-! ### The tag shadow, its entries kept -/

theorem spGet_spMod_of_ne {α : Type} [DecidableEq α] {d : α} {n : Nat} {f : α → α} {m : Sparse α} (h : f (spGet d m n) ≠ d) (k : Nat) :
    spGet d (spMod d n f m) k = if k = n then f (spGet d m n) else spGet d m k := by
  rw [spMod, spSet, if_neg h]
  split
  · next e => rw [e, spGet_spIns_same]
  · next e => exact spGet_spIns_other _ _ _ e

/-- A shadow set with its tree touched. -/
def ShSet.turned (q : ShSet) (i : Nat) : ShSet := { q with tree := treeTouch 3 0 i q.tree }

/-- A slice after a lookup of a set that the shadow holds in entry i. -/
def Slice.turned (x : Slice) (set i : Nat) : Slice := { x with shHit := x.shHit + 1, shadow := spMod {} (shKey set) (·.turned i) x.shadow }

theorem shEntry_turned {x : Slice} {set i : Nat} {e : ShEntry} (h : x.shEntry set = some (i, e)) (k : Nat) : (x.turned set i).shEntry k = x.shEntry k := by
  have hents (k : Nat) : (spGet {} (x.turned set i).shadow k).ents = (spGet {} x.shadow k).ents := by
    obtain ⟨hi, he, hv, -, -⟩ := shEntry_some h
    have hne : (spGet {} x.shadow (shKey set)).turned i ≠ {} := by
      intro hempty
      have hnone : ((spGet {} x.shadow (shKey set)).turned i).ents = ({} : ShSet).ents := congrArg ShSet.ents hempty
      have hget : vget ({} : ShSet).ents i {} = ({} : ShEntry) := by simp [vget, hi]
      rw [he, show (spGet {} x.shadow (shKey set)).ents = _ from hnone, hget] at hv
      cases hv
    rw [Slice.turned, spGet_spMod_of_ne hne]
    split
    · next ek => rw [ek, ShSet.turned]
    · rfl
  simp only [Slice.shEntry, hents]

/-! ### A slice whose counters and shadow a lookup has changed -/

/-- The tag words of x stand in y, whose set has its shadow entry; the rest of y but the shadow's counters is x's. -/
structure Looked (x y : Slice) (set : Nat) : Prop where
  frame : ∃ sh n, y = { x with shadow := sh, shHit := n }
  entry : (y.shEntry set).isSome = true
  words : ∀ k v : Nat, k < 2 ^ 23 → y.word k v = x.word k v

namespace Looked

variable {x y z : Slice} {set : Nat}

theorem trans (h : Looked x y set) (h' : Looked y z set) : Looked x z set := by
  obtain ⟨sh, n, rfl⟩ := h.frame
  obtain ⟨sh', n', hz⟩ := h'.frame
  exact ⟨⟨sh', n', hz⟩, h'.entry, fun k v hk => (h'.words k v hk).trans (h.words k v hk)⟩

theorem find (h : Looked x y set) (l : LAddr) : y.find l = x.find l := by
  obtain ⟨sh, n, hy⟩ := h.frame
  have hhits (v : Nat) (t : TagWord) : y.hits l v t = x.hits l v t := by
    rw [hy]
    rfl
  rw [Slice.find_eq, Slice.find_eq]
  simp only [h.words _ _ (setOf_lt l), hhits]

theorem demandLook {i : Nat} {e : ShEntry} (h : x.shEntry set = some (i, e)) (tag : BitVec 20) (way : Option Nat) :
    ∃ y : Slice, x.demandLook set tag way = some y ∧ Looked x y set := by
  have hlook : x.demandLook set tag way = some (x.turned set i) := by
    simp only [Slice.demandLook, h]
    rfl
  refine ⟨_, hlook, ⟨_, _, rfl⟩, ?_, fun k v _ => ?_⟩
  · rw [shEntry_turned h, h]
    rfl
  · exact congrArg (fun b : TagBlock => vget b.ways v {}) (block_congr (x := x) (shEntry_turned h k) rfl rfl)

theorem hitWay {w : Nat} {i : Nat} {e : ShEntry} (h : x.shEntry set = some (i, e)) (hset : set < 2 ^ 23) (hp : (x.word set w).prefetched = false) :
    Looked x (x.hitWay set w) set := by
  have hhit : x.hitWay set w = x.touchWay set w := by
    rw [Slice.hitWay, hp]
    rfl
  rw [hhit]
  refine ⟨?_, ?_, fun k v hk => word_touchWay h w hset hk⟩
  · rw [Slice.touchWay, Slice.putPlru, h]
    exact ⟨_, _, rfl⟩
  · obtain ⟨hi, he, hv, hb, hidx⟩ := shEntry_some h
    have h1 := withEnt_same (e1 := { e with block := { e.block with plru := treeTouch 4 0 w (x.block set).plru }, dirty := true }) h hv hb rfl
    rw [Slice.touchWay, Slice.putPlru, h]
    exact congrArg Option.isSome h1

end Looked

end Sys2Proof.Machine
end

section
/-! PROOFS. What a served request leaves alone, when a line can be served, and what a request changes on its way to its slice (R97, R212, R218, R257). -/

set_option Elab.async false

namespace Sys2Proof.Machine

/-! ### What a served request leaves alone -/

namespace ServedAlone

variable {s t u : State} {p : Port} {l : LAddr} {w : Nat}

theorem refl (s : State) (p : Port) (l : LAddr) (w : Nat) : ServedAlone s s p l w :=
  ⟨rfl, rfl, fun _ _ => rfl, fun _ _ => rfl, fun _ _ => rfl, fun _ _ _ _ => rfl, ⟨rfl, rfl, rfl⟩, rfl⟩

theorem trans (h : ServedAlone s t p l w) (h' : ServedAlone t u p l w) : ServedAlone s u p l w where
  home := h'.home.trans h.home
  ddr := h'.ddr.trans h.ddr
  ports q hq := (h'.ports q hq).trans (h.ports q hq)
  slices i hi := (h'.slices i hi).trans (h.slices i hi)
  slots k hk := (h'.slots k hk).trans (h.slots k hk)
  words k v hk hv := (h'.words k v hk hv).trans (h.words k v hk hv)
  pins := ⟨h'.pins.1.trans h.pins.1, h'.pins.2.1.trans h.pins.2.1, h'.pins.2.2.trans h.pins.2.2⟩
  arb := by rw [h'.arb, h.arb]

theorem modHp (s : State) (p : Port) (f : HPort → HPort) (l : LAddr) (w : Nat) : ServedAlone s (s.modHp p f) p l w :=
  (refl (s.modHp p f) p l w).of_setHp (s := s) (h := f (s.hp p))

/-- The line's slice becomes y, which has the same other lines. -/
theorem setSl {y : Slice} (hslots : ∀ k : Nat, k ≠ slotKey (setOf l).toNat w → spGet {} y.slots k = spGet {} (s.sl (sliceOf l)).slots k)
    (hwords : ∀ k v : Nat, k < 2 ^ 23 → (k ≠ (setOf l).toNat ∨ v ≠ w) → y.word k v = (s.sl (sliceOf l)).word k v) :
    ServedAlone s (s.setSl (sliceOf l) y) p l w where
  home := rfl
  ddr := rfl
  ports _ _ := rfl
  slices _ hi := State.setSl_sl_other _ _ hi
  slots k hk := by rw [State.setSl_sl, hslots k hk]
  words k v hk hv := by rw [State.setSl_sl, hwords k v hk hv]
  pins := ⟨rfl, rfl, rfl⟩
  arb := rfl

end ServedAlone

/-! ### A line that is served -/

/-- Way w of an ENABLED slice holds the line under word x, reads clean, and nothing of the slice's buffers is in use. -/
structure Slice.Serves (y : Slice) (l : LAddr) (w : Nat) (x : TagWord) : Prop where
  enabled : y.enabled = true
  good    : y.good = true
  shows   : y.shows (setOf l).toNat
  found   : y.find l = some (w, x)
  clean   : spGet {} y.slotFlaw (slotKey (setOf l).toNat w) = {}
  still   : y.still
  walks   : y.walks = []

/-- A request of port p for the line can be served from way w: nothing else is under way, and its answer can leave. -/
structure Ready (s : State) (p : Port) (l : LAddr) (w : Nat) (x : TagWord) : Prop where
  alive  : s.fabric.selfDead = false
  pmu    : fld s.dbg.pmuCtl 0 8 = 0
  walk   : s.fw.walk = none
  near   : isFar s l = false
  inside : inTorus s.node (lineHome l) = true
  link   : (s.hp p).link = .up
  plain  : (s.hp p).stamped = false ∧ (s.hp p).strideEn = false
  bars   : (s.hp p).bars = []
  ntc    : ∀ q : Port, (s.hp q).ntc = []
  wmb    : ∀ j : SliceNo, (s.sl j).wmb = []
  serves : (s.sl (sliceOf l)).Serves l w x

section
variable {s : State} {p : Port} {l : LAddr} {w : Nat} {x : TagWord}

theorem Ready.of_idle {cxl : Bool} (h : Idle s p cxl) (hr : Resident s l w x) (hgood : (s.sl (sliceOf l)).good = true) : Ready s p l w x where
  alive := h.alive
  pmu := h.pmu
  walk := h.walks.1
  near := hr.near.1
  inside := hr.inside
  link := by
    have hlink := h.link
    simp only [receives, Bool.and_eq_true, decide_eq_true_eq] at hlink
    exact hlink.1.1
  plain := ⟨h.plain.1, h.plain.2.2⟩
  bars := h.order.2.1
  ntc := h.ntc
  wmb j := (h.slices j).1
  serves := ⟨hr.enabled, hgood, ⟨hr.shadow.1, hr.shadow.2.1⟩, hr.found, hr.clean, h.slices _, h.walks.2 _⟩

/-- The port keeps what the service of a request reads of it. -/
theorem Ready.setHp (h : Ready s p l w x) {a : HPort} (hlink : a.link = (s.hp p).link) (hstamped : a.stamped = (s.hp p).stamped)
    (hstride : a.strideEn = (s.hp p).strideEn) (hbars : a.bars = (s.hp p).bars) (hntc : a.ntc = (s.hp p).ntc) : Ready (s.setHp p a) p l w x where
  alive := h.alive
  pmu := h.pmu
  walk := h.walk
  near := h.near
  inside := h.inside
  link := by rw [State.setHp_hp, hlink, h.link]
  plain := by rw [State.setHp_hp, hstamped, hstride]; exact h.plain
  bars := by rw [State.setHp_hp, hbars, h.bars]
  ntc q := by
    by_cases hq : q = p
    · rw [hq, State.setHp_hp, hntc, h.ntc]
    · rw [State.setHp_hp_other _ _ hq, h.ntc]
  wmb := h.wmb
  serves := h.serves

theorem Ready.setSl (h : Ready s p l w x) {y : Slice} {x' : TagWord} (hy : y.Serves l w x') : Ready (s.setSl (sliceOf l) y) p l w x' where
  alive := h.alive
  pmu := h.pmu
  walk := h.walk
  near := h.near
  inside := h.inside
  link := h.link
  plain := h.plain
  bars := h.bars
  ntc := h.ntc
  wmb j := by
    by_cases hj : j = sliceOf l
    · rw [hj, State.setSl_sl, hy.still.1]
    · rw [State.setSl_sl_other _ _ hj, h.wmb]
  serves := by rw [State.setSl_sl]; exact hy

end

/-! ### A request takes its turn -/

/-- What a request changes on its way to its slice: its place in its port's order, the port's reservations, the arbiters' units and the policy map. -/
structure Turn where
  seqNo  : Nat
  units  : Vector Arbiter 8
  wtMap  : Sparse Unit
  wtBad  : List Nat
  accs   : List Acc
  rsv    : Sparse LAddr
  rsvBad : List Nat

def HPort.took (h : HPort) (n : Turn) : HPort := { h with accs := n.accs, rsv := n.rsv, rsvBad := n.rsvBad }

def State.took (s : State) (p : Port) (n : Turn) : State :=
  ({ s with seqNo := n.seqNo, arb := { s.arb with units := n.units }, node := { s.node with wtMap := n.wtMap, wtBad := n.wtBad } } : State).setHp p
    ((s.hp p).took n)

theorem State.took_hp (s : State) (p : Port) (n : Turn) : (s.took p n).hp p = (s.hp p).took n := State.setHp_hp _ _ _

theorem Ready.took {s : State} {p : Port} {l : LAddr} {w : Nat} {x : TagWord} (h : Ready s p l w x) (n : Turn) : Ready (s.took p n) p l w x := by
  have hturn : Ready ({ s with seqNo := n.seqNo, arb := { s.arb with units := n.units }, node := { s.node with wtMap := n.wtMap, wtBad := n.wtBad } } : State)
      p l w x :=
    ⟨h.alive, h.pmu, h.walk, h.near, h.inside, h.link, h.plain, h.bars, h.ntc, h.wmb, h.serves⟩
  exact hturn.setHp rfl rfl rfl rfl rfl

theorem ServedAlone.took (s : State) (p : Port) (n : Turn) (l : LAddr) (w : Nat) : ServedAlone s (s.took p n) p l w where
  home := rfl
  ddr := rfl
  ports _ hq := State.setHp_hp_other _ _ hq
  slices _ _ := rfl
  slots _ _ := rfl
  words _ _ _ _ := rfl
  pins := ⟨rfl, rfl, rfl⟩
  arb := rfl

theorem policyFix_eq (l : LAddr) (s : State) : ∃ a b, policyFix l s = { s with node := { s.node with wtMap := a, wtBad := b } } := by
  unfold policyFix
  extract_lets b n
  split
  · exact ⟨s.node.wtMap, s.node.wtBad, rfl⟩
  · exact ⟨_, _, rfl⟩

/-- The acceptance of a request changes its port's reservations alone, and no conditional store clears its own. -/
theorem acceptRsv_eq (r : Req) (s : State) : ∃ a b, acceptRsv r s = s.setHp r.port { s.hp r.port with rsv := a, rsvBad := b } ∧
    (r.op = .condStore → hasRsv (s.hp r.port) r.rslot.toNat (lineOf r.addr) = true →
      hasRsv { s.hp r.port with rsv := a, rsvBad := b } r.rslot.toNat (lineOf r.addr) = true) := by
  have hnone : s = s.setHp r.port { s.hp r.port with rsv := (s.hp r.port).rsv, rsvBad := (s.hp r.port).rsvBad } := (s.setHp_self r.port).symm
  unfold acceptRsv
  cases hop : r.op
  case condStore =>
    refine ⟨_, _, rfl, fun _ hrsv => ?_⟩
    simp only [hasRsv, Bool.and_eq_true, Bool.not_eq_true', List.any_eq_true, decide_eq_true_eq] at hrsv ⊢
    obtain ⟨hok, k, hmem, hslot, hline⟩ := hrsv
    refine ⟨rfl, k, List.mem_filter.2 ⟨List.mem_filter.2 ⟨hmem, ?_⟩, ?_⟩, hslot, hline⟩
    · rw [hslot, hok]
      rfl
    · simp [hslot]
  case write | writeNT | atomic => exact ⟨_, _, rfl, nofun⟩
  all_goals exact ⟨_, _, hnone, nofun⟩

theorem closeIf_nil (p : BufEnt → Bool) : closeIf p [] = [] := rfl

/-- No entry is there to be closed. -/
theorem closeOwn_idle {s : State} (hw : ∀ j : SliceNo, (s.sl j).wmb = []) (hn : ∀ q : Port, (s.hp q).ntc = []) (r : Req) : closeOwn r s = s := by
  unfold closeOwn closeEntries
  extract_lets _ w n s1
  have h1 : s1 = s := State.each_id s sliceNos _ fun j _ => by
    have hsame : ({ s.sl j with wmb := closeIf (fun e => w && (decide (e.port = r.port) && decide (e.line = lineOf r.addr))) (s.sl j).wmb } : Slice) = s.sl j := by
      rw [hw j, closeIf_nil, ← hw j]
    exact (congrArg (s.setSl j) hsame).trans (s.setSl_self j)
  rw [h1]
  refine State.each_id s ports _ fun q _ => ?_
  have hsame : ({ s.hp q with ntc := closeIf (fun e => n && (decide (e.port = r.port) && decide (e.line = lineOf r.addr))) (s.hp q).ntc } : HPort) = s.hp q := by
    rw [hn q, closeIf_nil, ← hn q]
  exact (congrArg (s.setHp q) hsame).trans (s.setHp_self q)

end Sys2Proof.Machine
end

section
/-! PROOFS. The arrival of a request at an idle port, and its lookup and service in the slice that holds its line (R33, R40, R97, R198, R218, R257). -/

set_option Elab.async false

namespace Sys2Proof.Machine

/-! ### From the port to the slice -/

/-- A request as it is accepted from a port outside stamp mode and with no contract. -/
def Req.begun (r : Req) (s : State) : Req := { r with seq := s.seqNo, start := s.gen.time, stamp := none, bound := false }

/-- The one access it is performed as: the bytes it writes are in their places in the line, of a write-back region. -/
def Req.onePart (r : Req) (s : State) (d : Line) (m : W64) : Req := { r.begun s with data := d, mask := m, wt := false }

/-- The accesses of a port that order others, and the place of the next. -/
def State.ordered (s : State) (p : Port) (k : Nat) (as : List Acc) : State := ({ s with seqNo := k } : State).setHp p { s.hp p with accs := as }

theorem State.ordered_hp (s : State) (p : Port) (k : Nat) (as : List Acc) : (s.ordered p k as).hp p = { s.hp p with accs := as } := State.setHp_hp _ _ _

theorem State.ordered_modHp (s : State) (p : Port) (k : Nat) (as : List Acc) (f : HPort → HPort) :
    (s.ordered p k as).modHp p f = ({ s with seqNo := k } : State).setHp p (f { s.hp p with accs := as }) := by
  rw [State.modHp, State.ordered_hp, State.ordered, State.setHp_setHp]

/-- An access goes on where no other of its port is under way. -/
theorem mayGo_alone {s : State} {r : Req} {a : Acc} (hbars : (s.hp r.port).bars = []) (haccs : (s.hp r.port).accs = [a]) (hseq : a.seq = r.seq) :
    mayGo s r = true := by
  simp [mayGo, barHolds, hbars, haccs, hseq]

/-- The one part of a request, with the bytes it writes, in a line of a write-back region. -/
structure OnePart (r : Req) (l : LAddr) (d : Line) (m : W64) : Prop where
  form : badForm r = false
  part : ∀ t : State, partsOf t r = [{ r with data := d, mask := m, wt := !isFar t l && isWt t l }]

section
variable {s : State} {p : Port} {l : LAddr} {w : Nat} {x : TagWord} {r : Req} (hready : Ready s p l w x) (hport : r.port = p) (hline : lineOf r.addr = l)
include hready hport hline

/-- An access that nothing of its port holds back has its pass, and is made. -/
theorem enter_took {n : Turn} {a : Acc} (hop : r.op ≠ .exc ∧ r.op ≠ .writeNT) (haccs : n.accs = [a]) (hseq : a.seq = r.seq) :
    ∃ n' : Turn, enter r (s.took p n) = issueAll (sliceOf l) (access r false (s.took p n')) ∧
      (r.op = .condStore → hasRsv ((s.hp p).took n) r.rslot.toNat l = true → hasRsv ((s.hp p).took n') r.rslot.toNat l = true) := by
  subst hport hline
  obtain ⟨b, c, hrsv, hkeep⟩ := acceptRsv_eq r (s.took r.port n)
  rw [State.took_hp] at hrsv hkeep
  have htook : (s.took r.port n).setHp r.port { (s.hp r.port).took n with rsv := b, rsvBad := c } = s.took r.port { n with rsv := b, rsvBad := c } :=
    State.setHp_setHp _ _ _ _
  have hready' := hready.took { n with rsv := b, rsvBad := c }
  have hgo : mayGo (s.took r.port { n with rsv := b, rsvBad := c }) r = true :=
    mayGo_alone hready'.bars ((congrArg HPort.accs (State.took_hp _ _ _)).trans haccs) hseq
  obtain ⟨u, hpass⟩ := arbPass_quiet ⟨hready'.serves.walks, hready'.walk⟩ hready'.pmu (classOf r) r.port
  have htakes : passOf r (s.took r.port { n with rsv := b, rsvBad := c }) = s.took r.port { n with rsv := b, rsvBad := c, units := u } := by
    rw [passOf, if_neg (by simp [hop]), hpass]
    rfl
  have hmake : anyAccess r false (s.took r.port { n with rsv := b, rsvBad := c, units := u }) =
      access r false (s.took r.port { n with rsv := b, rsvBad := c, units := u }) := by
    rw [anyAccess, if_neg hop.1, (hready.took _).plain.1]
    rfl
  exact ⟨{ n with rsv := b, rsvBad := c, units := u },
    by rw [enter, hrsv, htook, closeOwn_idle hready'.wmb hready'.ntc, if_pos hgo, htakes, hmake], hkeep⟩

end
section
variable {s : State} {p : Port} {cxl : Bool} {l : LAddr} {w : Nat} {x : TagWord} {r : Req} {d : Line} {m : W64}
  (hidle : Idle s p cxl) (hready : Ready s p l w x) (hwt : isWt s l = false) (hport : r.port = p) (hline : lineOf r.addr = l)
  (hone : OnePart (r.begun s) l d m) (hop : r.op ≠ .exc ∧ r.op ≠ .writeNT)
include hready hwt hport hline hone hop

/-- An accepted request that nothing of its port holds back goes to its slice at once. -/
theorem accept_enters {k : Nat} {a : Acc} (ha : a.etag = r.etag ∧ a.seq = s.seqNo) :
    ∃ n : Turn, accept (r.begun s) false (s.ordered p k [a]) =
        stride (r.begun s) (issueAll (sliceOf l) (access (r.onePart s d m) false (s.took p n))) ∧
      (r.op = .condStore → hasRsv (s.hp p) r.rslot.toNat l = true → hasRsv ((s.hp p).took n) r.rslot.toNat l = true) := by
  subst hport hline
  obtain ⟨b, c, hfix⟩ := policyFix_eq (lineOf r.addr) (s.ordered r.port k [])
  let q : Req := r.onePart s d m
  let n : Turn := ⟨k, s.arb.units, b, c, [⟨q.etag, q.strm, q.seq, q.op, lineOf q.addr, isUnbuf (s.ordered r.port k []) q, q.bound⟩],
    (s.hp r.port).rsv, (s.hp r.port).rsvBad⟩
  have hretire : retireReq (r.begun s) (s.ordered r.port k [a]) = s.ordered r.port k [] := by
    refine (State.ordered_modHp s r.port k [a] _).trans ?_
    simp [Req.begun, ha, State.ordered]
  have hpart : partsOf (s.ordered r.port k []) (r.begun s) = [q] := by
    rw [hone.part, show isWt (s.ordered r.port k []) (lineOf r.addr) = false from hwt, Bool.and_false]
    rfl
  have hnote : noteAcc (s.ordered r.port k []) q (policyFix (lineOf r.addr) (s.ordered r.port k [])) = s.took r.port n := by
    rw [hfix, noteAcc]
    exact (State.setHp_setHp ({ s with seqNo := k, node := { s.node with wtMap := b, wtBad := c } } : State) r.port _ _).trans
      (congrArg (State.setHp _ r.port) (congrArg (fun h : HPort => { h with accs := h.accs ++ n.accs }) (State.ordered_hp s r.port k [])))
  obtain ⟨n', henter, hkeep⟩ := enter_took (r := q) hready rfl rfl (n := n) hop rfl rfl
  refine ⟨n', ?_, hkeep⟩
  have hnear : isFar (s.ordered r.port k []) (lineOf q.addr) = false := hready.near
  rw [← henter, ← hnote]
  have hform : badForm { r.begun s with bound := false } = false := hone.form
  have hretire' : retireReq { r.begun s with bound := false } (s.ordered r.port k [a]) = s.ordered r.port k [] := hretire
  have hpart' : partsOf (s.ordered r.port k []) { r.begun s with bound := false } = [q] := hpart
  simp only [accept, Bool.false_eq_true, if_false, hform, hretire', hpart', State.each, List.foldl_cons, List.foldl_nil, hnear]
  rfl

end

section
variable {s : State} {p : Port} {cxl : Bool} {l : LAddr} {w : Nat} {x : TagWord} {r : Req}

/-- The host of an idle port holds the credits of one request more. -/
theorem credited_idle (hidle : Idle s p cxl) (hport : r.port = p) : credited s r = true := by
  obtain ⟨-, -, -, hqueue, hregq⟩ := hidle.order
  have hhdat : hdatOf r.op ≤ 256 := by cases r.op <;> decide
  simpa [credited, hport, HPort.hreq, HPort.hdat, hqueue, hregq] using Or.inr hhdat

/-- A request that arrives at an idle port is accepted. -/
theorem arrive_accepts (hidle : Idle s p cxl) (hport : r.port = p) (hcxl : r.cxl = cxl) (hdec : cxl = true → decoded s p r.addr = true) (hop : r.op ≠ .exc) :
    ∃ a : Acc, (a.etag = r.etag ∧ a.seq = s.seqNo) ∧ arrive r s = accept (r.begun s) false (s.ordered p (s.seqNo + 2) [a]) := by
  have hcred := credited_idle hidle hport
  subst hport hcxl
  obtain ⟨haccs, -⟩ := hidle.order
  obtain ⟨hstamped, hctr, -⟩ := hidle.plain
  have hdec' : (r.cxl && !decoded s r.port r.addr) = false := by
    cases hc : r.cxl
    · rfl
    · rw [hdec hc]
      rfl
  let q : Req := { r with seq := s.seqNo, start := s.gen.time, stamp := none }
  let a : Acc := ⟨q.etag, q.strm, q.seq, q.op, lineOf q.addr, isUnbuf ({ s with seqNo := s.seqNo + 2 } : State) q, q.bound⟩
  have hbreach (q : Req) (hq : q.port = r.port) : breachOf s q = none := by
    rw [breachOf, hq, hstamped]
    rfl
  have hnote : noteAcc ({ s with seqNo := s.seqNo + 2 } : State) q ({ s with seqNo := s.seqNo + 2 } : State) = s.ordered r.port (s.seqNo + 2) [a] := by
    have hfirst : (s.hp r.port).accs ++ [a] = [a] := by rw [haccs]; rfl
    rw [← hfirst]
    rfl
  have hverdict : verdict (s.ordered r.port (s.seqNo + 2) [a]) r.port (lineOf r.addr) = .accept false := by
    rw [verdict, State.ordered_hp, show (s.ordered r.port (s.seqNo + 2) [a]).arb.closed r.port = false from hidle.shut, hctr]
    rfl
  have hadmit : admitReq q (s.ordered r.port (s.seqNo + 2) [a]) = accept (r.begun s) false (s.ordered r.port (s.seqNo + 2) [a]) := by
    rw [admitReq, if_neg (show q.op ≠ .exc from hop), show verdict _ q.port (lineOf q.addr) = _ from hverdict]
    exact congrArg (accept q false) (pmu_off (s := s.ordered r.port (s.seqNo + 2) [a]) hidle.pmu _ _)
  refine ⟨a, ⟨rfl, rfl⟩, ?_⟩
  simp only [arrive, hidle.link, hcred, hidle.alive, hstamped, hdec', hidle.admOpen, Bool.not_true, Bool.or_false, Bool.false_eq_true, if_false, hbreach,
    Bool.true_or, if_true]
  exact (congrArg (admitReq q) hnote).trans hadmit

end

/-! ### The lookup and the service -/

/-- A slice still serves a line after a lookup of its set. -/
theorem Slice.Serves.looked {y z : Slice} {l : LAddr} {w : Nat} {x : TagWord} (h : y.Serves l w x) (hl : Looked y z (setOf l).toNat) : z.Serves l w x := by
  have hfind := hl.find l
  obtain ⟨sh, n, hz⟩ := hl.frame
  refine ⟨?_, ?_, ⟨hl.entry, ?_⟩, hfind.trans h.found, ?_, ?_, ?_⟩ <;> rw [hz]
  exacts [h.enabled, h.good, h.shows.2, h.clean, h.still, h.walks]

/-- A request with which no more is done than its lookup and its service by the way of its line: an atomic is no CXL request, and the reservation of a
conditional store stands. -/
structure Servable (q : Req) (v : State) : Prop where
  op     : q.op ≠ .exc ∧ q.op ≠ .writeNT ∧ q.op ≠ .pfHint
  wt     : q.wt = false
  fresh  : q.looked = false ∧ q.csBroken = false
  atomic : q.op = .atomic → q.cxl = false
  rsv    : q.op = .condStore → hasRsv (v.hp q.port) q.rslot.toNat (lineOf q.addr) = true

/-- A request after the lookup that hits its line (R33, R49). -/
def Req.hitting (q : Req) : Req := { q with looked := true, touched := true }

section
variable {v : State} {p : Port} {l : LAddr} {w : Nat} {x : TagWord} {q : Req} (hready : Ready v p l w x) (hport : q.port = p) (hline : lineOf q.addr = l)
include hready hport hline

theorem demandOnce_hits (hsh : Shadowed (v.sl (sliceOf l)) (setOf l).toNat) (hst : x.st ≠ .P) (hpf : x.prefetched = false) (hfresh : q.looked = false) :
    ∃ y : Slice, Looked (v.sl (sliceOf l)) y (setOf l).toNat ∧ demandOnce (sliceOf l) q false v = (some q.hitting, v.setSl (sliceOf l) y) := by
  subst hport hline
  obtain ⟨⟨i, e⟩, hent⟩ := Option.isSome_iff_exists.1 hsh.1
  obtain ⟨y, hlook, hy⟩ := Looked.demandLook hent (tagOf (lineOf q.addr)) (some w)
  obtain ⟨⟨i', e'⟩, hent'⟩ := Option.isSome_iff_exists.1 hy.entry
  have hword : (y.word (setOf (lineOf q.addr)).toNat w).prefetched = false := by
    rw [hy.words _ _ (setOf_lt _), ← (Slice.find_some hready.serves.found).2, hpf]
  have hway : (((v.sl (sliceOf (lineOf q.addr))).find (lineOf q.addr)).filter (fun c => decide (c.2.st ≠ .P))).map (·.1) = some w := by
    rw [hready.serves.found]
    simp [hst]
  have hrow : tsRow (sliceOf (lineOf q.addr)) (setOf (lineOf q.addr)).toNat true v v = v := by simp [tsRow]
  refine ⟨_, hy.trans (Looked.hitWay hent' (setOf_lt _) hword), ?_⟩
  simp only [demandOnce, hready.near, hfresh, readTags_of_shadowed hsh, hway, Option.isSome_some, hrow, hlook, hready.plain.1, Bool.or_false, Bool.not_true,
    Bool.not_false, Bool.false_eq_true, if_false, Option.filter_some, if_true]
  rfl

theorem access_serves (hq : Servable q v) (hsh : Shadowed (v.sl (sliceOf l)) (setOf l).toNat) (hst : x.st ≠ .P) (hpf : x.prefetched = false) :
    ∃ y : Slice, Looked (v.sl (sliceOf l)) y (setOf l).toNat ∧
      access q false v = serveHit (sliceOf l) w x q.hitting false (v.setSl (sliceOf l) y) := by
  obtain ⟨y, hy, hdemand⟩ := demandOnce_hits hready hport hline hsh hst hpf hq.fresh.1
  have hserves := hready.serves.looked hy
  obtain ⟨hwmb, hcw, hrb, hstt, hgrp⟩ := hready.serves.still
  subst hport hline
  have hown : ownEntries v q = false := by
    unfold ownEntries
    simp only [hready.ntc, hwmb, List.any_nil, Bool.false_and, Bool.or_false]
    split <;> rfl
  have hcas : cas16Bad q v = false := by
    cases hop : decide (q.op = .atomic)
    · simp [cas16Bad, hop]
    · simp [cas16Bad, hq.wt, hready.near, hready.serves.enabled, hq.atomic (of_decide_eq_true hop)]
  have hcs : (if q.op = .condStore then csEnd q v else none) = none := by
    split
    · next hop => simp [csEnd, csUnsup, hready.near, hq.wt, hready.serves.enabled, hq.rsv hop, hq.fresh.2]
    · rfl
  refine ⟨y, hy, ?_⟩
  obtain ⟨-, hnt, hpf'⟩ := hq.op
  simp only [access, hready.alive, hready.inside, hnt, hpf', hown, hcas, hcs, hdemand, Bool.not_true, Bool.false_eq_true, if_false]
  have hnear : isFar (v.setSl (sliceOf (lineOf q.addr)) y) (lineOf q.addr) = false := hready.near
  obtain ⟨hwmb', hcw', hrb', hstt', hgrp'⟩ := hserves.still
  have hbuf : buffered (v.setSl (sliceOf (lineOf q.addr)) y) q.hitting = false := by
    simp [buffered, Req.hitting, hq.wt, hnear, hserves.enabled]
  simp only [serveLine, Req.hitting] at hbuf ⊢
  simp only [hnear, hbuf, State.setSl_sl, hwmb', Slice.cwOf, hcw', Slice.grpOn, hgrp', Slice.txnOf, hstt', List.any_nil, List.find?_nil, Option.isSome_none,
    Bool.and_false, Bool.false_eq_true, if_false, lookupServe, hserves.found, if_neg hst]

end

end Sys2Proof.Machine
end

section
/-! PROOFS. What the service of a hit makes of the line, and its answer (R117, R199, R203, R211, R214). -/

set_option Elab.async false

namespace Sys2Proof.Machine

/-! ### The answer -/

/-- The answer to a request of the port leaves at once, and nothing follows it. -/
structure Answerable (s : State) (p : Port) (l : LAddr) : Prop where
  link  : (s.hp p).link = .up
  plain : (s.hp p).stamped = false ∧ (s.hp p).strideEn = false
  ntc   : ∀ q : Port, (s.hp q).ntc = []
  wmb   : (s.sl (sliceOf l)).wmb = []

theorem Ready.answerable {s : State} {p : Port} {l : LAddr} {w : Nat} {x : TagWord} (h : Ready s p l w x) : Answerable s p l :=
  ⟨h.link, h.plain, h.ntc, h.wmb _⟩

theorem Answerable.setHp {s : State} {p : Port} {l : LAddr} (h : Answerable s p l) {a : HPort} (hlink : a.link = (s.hp p).link)
    (hstamped : a.stamped = (s.hp p).stamped) (hstride : a.strideEn = (s.hp p).strideEn) (hntc : a.ntc = (s.hp p).ntc) : Answerable (s.setHp p a) p l where
  link := by rw [State.setHp_hp, hlink, h.link]
  plain := by rw [State.setHp_hp, hstamped, hstride]; exact h.plain
  ntc q := by
    by_cases hq : q = p
    · rw [hq, State.setHp_hp, hntc, h.ntc]
    · rw [State.setHp_hp_other _ _ hq, h.ntc]
  wmb := h.wmb

theorem Answerable.setSl {s : State} {p : Port} {l : LAddr} (h : Answerable s p l) {y : Slice} (hy : y.wmb = []) :
    Answerable (s.setSl (sliceOf l) y) p l :=
  ⟨h.link, h.plain, h.ntc, by rw [State.setSl_sl, hy]⟩

/-- From v to u a request has been served by way w, whose word is now x; its answer is all that is left. -/
structure Hit (v u : State) (p : Port) (l : LAddr) (w : Nat) (x : TagWord) : Prop where
  alone  : ServedAlone v u p l w
  out    : u.out = v.out
  word   : (u.sl (sliceOf l)).word (setOf l).toNat w = x
  answer : Answerable u p l

/-- A state in which a request has its answer. -/
def State.answered (u : State) (q : Req) (m : ToHost) : State := (retireReq q u).emit (.host q.port m)

section
variable {u : State} {q : Req} {p : Port} {l : LAddr} (h : Answerable u p l) (hport : q.port = p) (hq : q.part = 0 ∧ q.bound = false)
include h hport hq

theorem complete_answers (st : BitVec 3) (g : BitVec 2) (c poison : Bool) : complete q st g c poison u = u.answered q (.cmp q.etag st g c poison) := by
  subst hport
  obtain ⟨hpart, hbound⟩ := hq
  have hup : ((retireReq q u).hp q.port).link = .up := by
    rw [retireReq, State.modHp_hp]
    exact h.link
  simp only [complete, hpart, if_true, grantFor, h.plain.1, Bool.false_eq_true, if_false, endBound, hbound, answer, toHost_of_up hup]
  rfl

theorem completeData_answers (st : BitVec 3) (g : BitVec 2) (c poison : Bool) (len : Nat) (d : Line) :
    completeData q st g c poison len d u = u.answered q (.cmpData q.etag st g c poison len d) := by
  subst hport
  obtain ⟨hpart, hbound⟩ := hq
  have hup : ((retireReq q u).hp q.port).link = .up := by
    rw [retireReq, State.modHp_hp]
    exact h.link
  simp only [completeData, hpart, if_true, grantFor, h.plain.1, Bool.false_eq_true, if_false, endBound, hbound, answer, toHost_of_up hup]
  rfl

omit hq in
theorem answered_answerable (m : ToHost) : Answerable (u.answered q m) p l := by
  subst hport
  have hretired : Answerable (retireReq q u) q.port l := h.setHp rfl rfl rfl rfl
  exact ⟨hretired.link, hretired.plain, hretired.ntc, hretired.wmb⟩

end

/-! ### From the arrival to the answer -/

section
variable {s : State} {p : Port} {cxl : Bool} {l : LAddr} {w : Nat} {x : TagWord} {r : Req} {d : Line} {m : W64}

/-- A request whose arrival brings it to the way of its line: of one part, in its form, and servable. -/
structure Arrives (r : Req) (s : State) (p : Port) (cxl : Bool) (l : LAddr) (d : Line) (m : W64) : Prop where
  port   : r.port = p
  proto  : r.cxl = cxl
  line   : lineOf r.addr = l
  one    : OnePart (r.begun s) l d m
  dec    : cxl = true → decoded s p r.addr = true
  op     : r.op ≠ .exc ∧ r.op ≠ .writeNT ∧ r.op ≠ .pfHint
  fresh  : r.looked = false ∧ r.csBroken = false
  whole  : r.part = 0 ∧ r.missed = false
  atomic : r.op = .atomic → r.cxl = false
  rsv    : r.op = .condStore → hasRsv (s.hp p) r.rslot.toNat l = true

/-- An idle port's request for a line in its slice is served by its way, and then it is over. -/
theorem arrive_serves (hidle : Idle s p cxl) (hres : Resident s l w x) (hgood : (s.sl (sliceOf l)).good = true) (hst : x.st ≠ .P) (ha : Arrives r s p cxl l d m) :
    ∃ v : State, Ready v p l w x ∧ ServedAlone s v p l w ∧ v.out = s.out ∧ (v.sl (sliceOf l)).slots = (s.sl (sliceOf l)).slots ∧
      (∃ n : Turn, v.hp p = (s.hp p).took n) ∧
      ∀ t : State, serveHit (sliceOf l) w x (r.onePart s d m).hitting false v = t → Answerable t p l → arrive r s = t := by
  have hready := Ready.of_idle hidle hres hgood
  obtain ⟨a, hacc, harrive⟩ := arrive_accepts hidle ha.port ha.proto ha.dec ha.op.1
  obtain ⟨n, haccept, hrsv⟩ := accept_enters hready hres.near.2 ha.port ha.line ha.one ⟨ha.op.1, ha.op.2.1⟩ (k := s.seqNo + 2) hacc
  have hserv : Servable (r.onePart s d m) (s.took p n) := by
    refine ⟨ha.op, rfl, ha.fresh, ha.atomic, fun hop => ?_⟩
    have hkept : hasRsv ((s.took p n).hp r.port) r.rslot.toNat (lineOf r.addr) = true := by
      rw [ha.port, State.took_hp, ha.line]
      exact hrsv hop (ha.rsv hop)
    exact hkept
  obtain ⟨y, hy, haccess⟩ := access_serves (q := r.onePart s d m) (hready.took n) ha.port ha.line hserv hres.shadow hst hres.alone.2
  refine ⟨(s.took p n).setSl (sliceOf l) y, (hready.took n).setSl ((hready.took n).serves.looked hy), ?_, rfl, ?_, ⟨n, State.took_hp s p n⟩, fun t ht hans => ?_⟩
  · obtain ⟨sh, k, hframe⟩ := hy.frame
    exact (ServedAlone.took s p n l w).trans (.setSl (fun _ _ => by rw [hframe]) fun k v hk _ => hy.words k v hk)
  · obtain ⟨sh, k, hframe⟩ := hy.frame
    rw [State.setSl_sl, hframe]
    rfl
  · have hstride : stride (r.begun s) t = t := by
      rw [stride, show (t.hp (r.begun s).port).strideEn = false from ha.port ▸ hans.plain.2, Bool.and_false]
      rfl
    rw [harrive, haccept, haccess, ht, issueAll_idle hans.wmb hans.ntc, hstride]

end

end Sys2Proof.Machine
end

section
/-! PROOFS. What each kind of request makes of the way that its line hits (R117, R199, R203, R211, R214, R217). -/

set_option Elab.async false

namespace Sys2Proof.Machine

/-- A request of port p at the way of its line: whole, outside stamp mode, without a bound, of a write-back region, its lookup made. -/
structure AtWay (q : Req) (p : Port) (l : LAddr) : Prop where
  port  : q.port = p
  line  : lineOf q.addr = l
  whole : q.part = 0 ∧ q.bound = false
  stamp : q.stamp = none
  wt    : q.wt = false
  met   : q.touched = true ∧ q.missed = false

theorem demandHit_touched {q : Req} (h : q.touched = true) (i : SliceNo) (set w : Nat) (s : State) : demandHit i set w q s = s := by
  rw [demandHit, h]
  rfl

theorem stampCheck_unstamped {q : Req} (h : q.stamp = none) (bad : Bool) (s : State) : stampCheck q bad s = s := by
  rw [stampCheck, h]
  simp

theorem refund_unbound {q : Req} (h : q.bound = false) (s : State) : refund q s = s := by
  rw [refund, h]
  rfl

/-- A line that no host has exclusively is read with no snoop. -/
theorem sharedAfter_unshared {t : TagWord} (h : exclHost t = none) (i : SliceNo) (r : Req) (b : Bool) (k : State → State) (s : State) :
    sharedAfter i t r b k s = k s := by
  simp only [sharedAfter, h, Option.isSome_none, Bool.and_false, Bool.false_and, Bool.false_eq_true, if_false, if_true]

/-- What a read is given of its line. -/
def Req.reads (q : Req) (d : Line) : Nat × Line :=
  match q.op with
  | .rdCur | .rsvLoad => (q.len, takeLine d (offOf q.addr) q.len)
  | _ => (64, d)

theorem Slice.wmb_putWord (x : Slice) (set w : Nat) (t : TagWord) : (x.putWord set w t).wmb = x.wmb := by
  obtain ⟨_, _, _, heq⟩ := x.putWord_eq set w t
  rw [heq]

theorem setBit_port_ne_zero (p : Port) : setBit (0 : BitVec 4) p.val true ≠ 0 := by
  revert p
  decide

theorem mem_spIns_self {α : Type} (n : Nat) (a : α) (m : Sparse α) : (n, a) ∈ spIns n a m := by
  induction m with
  | nil => exact List.mem_singleton.2 rfl
  | cons c t ih =>
    rw [spIns]
    split
    · exact List.mem_cons_self
    · split
      · exact List.mem_cons_self
      · exact List.mem_cons_of_mem _ ih

theorem hasRsv_setRsv (p : Port) (k : Nat) (g : LAddr) (s : State) : hasRsv ((setRsv p k g s).hp p) k g = true := by
  rw [setRsv, State.modHp_hp]
  simp only [hasRsv, Bool.and_eq_true, Bool.not_eq_true', List.any_eq_true]
  exact ⟨by simp, (k, g), mem_spIns_self k g _, by simp⟩

section
variable {v : State} {p : Port} {l : LAddr} {w : Nat} {x : TagWord} {q : Req}

/-- A read is answered with the line, which no entry of its port covers; a reserved load takes its slot. -/
theorem giveRead_answers (hans : Answerable v p l) (hat : AtWay q p l) (d : Line) (poison : Bool) (g : BitVec 2) :
    giveRead q d poison g v =
      (if q.op = .rsvLoad then setRsv p q.rslot.toNat l v else v).answered q (.cmpData q.etag stOK g false poison (q.reads d).1 (q.reads d).2) := by
  obtain ⟨hport, hline, hwhole, hstamp, -, -⟩ := hat
  have hover : overlay v q.port (lineOf q.addr) d = d := by rw [overlay, hline, hans.wmb, hans.ntc]; rfl
  have hbad : overlayPoison v q.port (lineOf q.addr) = false := by rw [overlayPoison, hline, hans.wmb, hans.ntc]; rfl
  have hans' : Answerable (if q.op = .rsvLoad then setRsv p q.rslot.toNat l v else v) p l := by
    split
    · exact hans.setHp rfl rfl rfl rfl
    · exact hans
  rw [giveRead, hover, hbad, Bool.or_false, hport, hline]
  simp only [stampCheck_unstamped hstamp, completeData_answers hans' hport hwhole, Req.reads]
  cases q.op <;> rfl

section
variable (hready : Ready v p l w x)
include hready

theorem readSlot_ready : readSlot (sliceOf l) (setOf l).toNat w v =
    (spGet {} (v.sl (sliceOf l)).slots (slotKey (setOf l).toNat w), x.poison, v) := by
  rw [readSlot_of_clean hready.pmu hready.serves.clean, ← (Slice.find_some hready.serves.found).2]

theorem Hit.refl : Hit v v p l w x := ⟨.refl .., rfl, ((Slice.find_some hready.serves.found).2).symm, hready.answerable⟩

/-- The way's word is written. -/
theorem Hit.putWord (u : TagWord) : Hit v (v.setSl (sliceOf l) ((v.sl (sliceOf l)).putWord (setOf l).toNat w u)) p l w u := by
  have hone := hready.serves.shows.oneWord (Slice.find_some hready.serves.found).1 u
  refine ⟨.setSl (fun _ _ => by rw [Slice.slots_putWord]) (hone.words hready.serves.good), rfl, by rw [State.setSl_sl, hone.word], hready.answerable.setSl ?_⟩
  rw [Slice.wmb_putWord]
  exact hready.wmb (sliceOf l)

theorem addHp_ready (hhp : x.hp = 0) (hbit : hpOf v p = setBit 0 p.val true) (only : Bool) :
    addHp (sliceOf l) (setOf l).toNat w p only v =
      v.setSl (sliceOf l) ((v.sl (sliceOf l)).putWord (setOf l).toNat w { x with hp := setBit 0 p.val true }) := by
  have hor : ∀ b : BitVec 4, (if only then b else 0 ||| b) = b := by intro b; split <;> simp
  rw [addHp, hbit, if_neg (setBit_port_ne_zero p), State.modSl, ← (Slice.find_some hready.serves.found).2]
  simp only [hhp, hor]

end

/-! ### Reads (R117, R211) -/

section
variable (hready : Ready v p l w x) (hat : AtWay q p l) (hhp : x.hp = 0)
include hready hat hhp

omit hready hat hhp in
theorem Hit.of_alone {v' u : State} {x : TagWord} (h : Hit v' u p l w x) (halone : ServedAlone v v' p l w) (hout : v'.out = v.out) : Hit v u p l w x :=
  ⟨halone.trans h.alone, h.out.trans hout, h.word, h.answer⟩

omit hready hat hhp in
theorem Hit.of_nextSeq {u : State} {x : TagWord} (h : Hit v.nextSeq u p l w x) : Hit v u p l w x :=
  h.of_alone ⟨rfl, rfl, fun _ _ => rfl, fun _ _ => rfl, fun _ _ => rfl, fun _ _ _ _ => rfl, ⟨rfl, rfl, rfl⟩, rfl⟩ rfl

/-- A read that hits is answered with the line of its way, the port's HP bit set where it asks for a copy. -/
theorem hitRead_answers (g : BitVec 2) (add : Bool) (hbit : add = true → hpOf v p = setBit 0 p.val true) :
    ∃ u : State, hitRead (sliceOf l) (setOf l).toNat w x q false g add v =
        u.answered q (.cmpData q.etag stOK g false x.poison (q.reads (spGet {} (v.sl (sliceOf l)).slots (slotKey (setOf l).toNat w)).data).1
          (q.reads (spGet {} (v.sl (sliceOf l)).slots (slotKey (setOf l).toNat w)).data).2) ∧
      Hit v u p l w (if add then { x with hp := setBit 0 p.val true } else x) ∧ (u.sl (sliceOf l)).slots = (v.sl (sliceOf l)).slots ∧
      (q.op = .rsvLoad → hasRsv (u.hp p) q.rslot.toNat l = true) := by
  have hread : hitRead (sliceOf l) (setOf l).toNat w x q false g add v =
      giveRead q (spGet {} (v.sl (sliceOf l)).slots (slotKey (setOf l).toNat w)).data x.poison g
        (if add then addHp (sliceOf l) (setOf l).toNat w p false v else v) := by
    simp only [hitRead, sharedAfter_unshared (exclHost_of_none hhp), readSlot_ready hready, demandHit_touched hat.met.1, hat.port]
  obtain ⟨v', hv', hhit, hslots⟩ : ∃ v' : State, (if add then addHp (sliceOf l) (setOf l).toNat w p false v else v) = v' ∧
      Hit v v' p l w (if add then { x with hp := setBit 0 p.val true } else x) ∧ (v'.sl (sliceOf l)).slots = (v.sl (sliceOf l)).slots := by
    cases add
    · exact ⟨v, rfl, Hit.refl hready, rfl⟩
    · refine ⟨_, addHp_ready hready hhp (hbit rfl) false, Hit.putWord hready _, ?_⟩
      rw [State.setSl_sl, Slice.slots_putWord]
  rw [hread, hv', giveRead_answers hhit.answer hat]
  refine ⟨_, rfl, ?_⟩
  split
  · next hop =>
    refine ⟨⟨hhit.alone.trans (.modHp _ _ _ _ _), hhit.out, hhit.word, hhit.answer.setHp rfl rfl rfl rfl⟩, hslots, fun _ => hasRsv_setRsv ..⟩
  · next hop => exact ⟨hhit, hslots, fun h => absurd h hop⟩

/-! ### The kinds of request -/

omit hready hhp in
theorem AtWay.refunded (b : Bool) : AtWay { q with refunded := b } p l := ⟨hat.port, hat.line, hat.whole, hat.stamp, hat.wt, hat.met⟩

omit hready hat in
theorem snpInvAll_of_none (but : Option Port) : snpInvAll x but = [] := by
  rw [snpInvAll, hpPorts_of_none hhp]
  rfl

omit hat hhp in
theorem Ready.nextSeq : Ready v.nextSeq p l w x :=
  ⟨hready.alive, hready.pmu, hready.walk, hready.near, hready.inside, hready.link, hready.plain, hready.bars, hready.ntc, hready.wmb, hready.serves⟩

omit hready hat hhp in
/-- A hit of a line held with write permission and by no host: no host is asked, and the line is read or written at once. -/
def ownHit (l : LAddr) (w : Nat) (x : TagWord) (r : Req) (v : State) : State :=
  let i := sliceOf l
  let set := (setOf l).toNat
  let d := (spGet {} (v.sl i).slots (slotKey set w)).data
  match r.op with
  | .rdShared | .rsvLoad => hitRead i set w x r false 1 true v
  | .rdCur => hitRead i set w x r false 0 false v
  | .rdOwn => giveRead r d x.poison 2 (addHp i set w r.port true v.nextSeq)
  | .upgrade => complete r stOK 2 false x.poison (addHp i set w r.port true v.nextSeq)
  | .write => complete r stOK 0 false false (storeWay i set w r v.nextSeq)
  | .atomic => nearAtomic i set w r v.nextSeq
  | .condStore => endCs r stOK true (storeWay i set w r v.nextSeq)
  | .writeNT | .pfHint | .exc => v

theorem hit_eq_ownHit (hown : x.st = .E ∨ x.st = .M) : ∃ b : Bool, hit (sliceOf l) w x q false v = ownHit l w x { q with refunded := b } v := by
  unfold hit
  extract_lets l' set on excl own here r s snp
  obtain rfl : l' = l := hat.line
  have hat' : AtWay r p l' := hat.refunded (b := q.refunded || here)
  have hs : s = v := by
    unfold s
    split
    · exact refund_unbound hat.whole.2 v
    · rfl
  have hon : on = true := hready.serves.enabled
  have hmay : own = true := by simpa [own] using hown
  have hsnp (k : State → State) (qs : List SnpReq) (hqs : qs = []) : snp qs k = k v.nextSeq := by
    unfold snp
    rw [hqs, snoopFor_nil, hs]
    rfl
  have hread : readSlot (sliceOf l') set w v.nextSeq = (spGet {} (v.sl (sliceOf l')).slots (slotKey set w), x.poison, v.nextSeq) :=
    readSlot_ready (Ready.nextSeq hready)
  have hnone := hsnp (qs := (hpPorts x).map (fun p => { port := p, inv := true, exempt := decide (p = r.port) })) (hqs := by rw [hpPorts_of_none hhp]; rfl)
  refine ⟨q.refunded || here, ?_⟩
  change _ = ownHit l' w x r v
  unfold ownHit
  cases hop : r.op
  case rdShared | rsvLoad | rdCur | writeNT | pfHint | exc => rw [hs]
  case rdOwn | upgrade =>
    simp only [hat'.wt, hon, hsnp _ _ (snpInvAll_of_none hhp _), hmay, hread, demandHit_touched hat'.met.1, hat'.met.2]
    rfl
  case write | atomic =>
    simp only [hsnp _ _ (snpInvAll_of_none hhp _), hmay, if_true]
    rfl
  case condStore =>
    simp only [hnone, hmay, if_true]
    rfl

omit hhp in
/-- An atomic on a line held with write permission is executed near (R203). -/
theorem chooseNear_own (hown : x.st = .E ∨ x.st = .M) : chooseNear (sliceOf l) q x.st v = (true, q, v) := by
  unfold chooseNear
  extract_lets l' y n s1
  obtain rfl : l' = l := hat.line
  have hhere : (isFar v l' || q.wt || !(v.sl (sliceOf l')).enabled) = false := by rw [hready.near, hat.wt, hready.serves.enabled]; rfl
  have howned : x.st = .E ∨ x.st = .M ∨ x.st = .O := hown.imp_right Or.inl
  simp only [hhere, howned, Bool.false_eq_true, if_false, if_true, ite_self]

theorem serveHit_eq_ownHit (hown : x.st = .E ∨ x.st = .M) : ∃ b : Bool, serveHit (sliceOf l) w x q false v = ownHit l w x { q with refunded := b } v := by
  obtain ⟨b, hhit⟩ := hit_eq_ownHit hready hat hhp hown
  refine ⟨b, ?_⟩
  rw [serveHit, chooseNear_own hready hat hown, ← hhit]
  simp

omit hat in
/-- An ownership request sets the HP bit of its port alone. -/
theorem addHp_hit (hbit : hpOf v p = setBit 0 p.val true) :
    Hit v (addHp (sliceOf l) (setOf l).toNat w p true v.nextSeq) p l w { x with hp := setBit 0 p.val true } ∧
      ((addHp (sliceOf l) (setOf l).toNat w p true v.nextSeq).sl (sliceOf l)).slots = (v.sl (sliceOf l)).slots := by
  have hnext := Ready.nextSeq hready
  have hhit := Hit.putWord hnext { x with hp := setBit 0 p.val true }
  rw [addHp_ready hnext hhp hbit]
  refine ⟨hhit.of_nextSeq, ?_⟩
  rw [State.setSl_sl, Slice.slots_putWord]
  rfl

/-! ### Writes (R199, R214, R217) -/

omit hat hhp in
/-- New data in the line's slot, then its word. -/
theorem Hit.withData (d : Line) (y : Slice) (hy : y.wmb = []) (u : TagWord) (hone : OneWord (v.sl (sliceOf l)) y (setOf l).toNat w u)
    (hslots : y.slots = ((v.sl (sliceOf l)).withData l w d).slots) :
    Hit v (v.setSl (sliceOf l) y) p l w u ∧ (spGet {} ((v.setSl (sliceOf l) y).sl (sliceOf l)).slots (slotKey (setOf l).toNat w)).data = d := by
  have hwf := ((Slice.good_iff _).1 hready.serves.good).2.1
  refine ⟨⟨.setSl (fun k hk => ?_) (hone.words hready.serves.good), rfl, by rw [State.setSl_sl, hone.word], hready.answerable.setSl hy⟩, ?_⟩
  · rw [hslots]
    exact spGet_spSet_other hwf hk
  · rw [State.setSl_sl, hslots]
    exact congrArg Slot.data (spGet_spSet_same hwf)

omit hat hhp in
/-- Two writes of the word: the later stands. -/
theorem Slice.Serves.twoWords (d : Line) (u u' : TagWord) :
    OneWord (v.sl (sliceOf l)) ((((v.sl (sliceOf l)).withData l w d).putWord (setOf l).toNat w u).putWord (setOf l).toNat w u') (setOf l).toNat w u' := by
  have hw := (Slice.find_some hready.serves.found).1
  have hgood : ((v.sl (sliceOf l)).withData l w d).good = true := Slice.good_slots hready.serves.good
  have hshows : ((v.sl (sliceOf l)).withData l w d).shows (setOf l).toNat := hready.serves.shows
  have hone := hshows.oneWord hw u
  have hone' := (Slice.shows.putWord (w := w) hshows u).oneWord hw u'
  exact ⟨hone'.word, fun _ k v hk hne => (hone'.words (Slice.putWord_good hgood) k v hk hne).trans (hone.words hgood k v hk hne)⟩

omit hready hat hhp in
theorem writeSlot_data (d : Line) : writeSlot (sliceOf l) (setOf l).toNat w { spGet {} (v.sl (sliceOf l)).slots (slotKey (setOf l).toNat w) with data := d } v =
    v.setSl (sliceOf l) ((v.sl (sliceOf l)).withData l w d) := rfl

/-- A store on the way: its bytes in the line, which is M. -/
theorem storeWay_hit : Hit v (storeWay (sliceOf l) (setOf l).toNat w q v) p l w { x with st := .M, poison := poisonAfter x.poison q.poison q.mask } ∧
    (spGet {} ((storeWay (sliceOf l) (setOf l).toNat w q v).sl (sliceOf l)).slots (slotKey (setOf l).toNat w)).data =
      mergeLine (spGet {} (v.sl (sliceOf l)).slots (slotKey (setOf l).toNat w)).data q.data q.mask ∧
    (storeWay (sliceOf l) (setOf l).toNat w q v).hp p = v.hp p := by
  have hw := (Slice.find_some hready.serves.found).1
  generalize hd : mergeLine (spGet {} (v.sl (sliceOf l)).slots (slotKey (setOf l).toNat w)).data q.data q.mask = d
  have hshows : ((v.sl (sliceOf l)).withData l w d).shows (setOf l).toNat := hready.serves.shows
  have hdata : ((v.sl (sliceOf l)).withData l w d).word (setOf l).toNat w = x := (Slice.find_some hready.serves.found).2.symm
  generalize hu : ({ x with st := .M, poison := poisonAfter x.poison q.poison q.mask } : TagWord) = u
  have hwrite : writeWay (sliceOf l) (setOf l).toNat w q.data q.mask q.poison (fun _ => .M) v =
      v.setSl (sliceOf l) (((v.sl (sliceOf l)).withData l w d).putWord (setOf l).toNat w u) := by
    rw [writeWay, readSlot_ready hready, ← hu]
    simp only [hd, writeSlot_data, State.modSl, State.setSl_sl, State.setSl_setSl, hdata]
  have hstore : storeWay (sliceOf l) (setOf l).toNat w q v =
      v.setSl (sliceOf l) ((((v.sl (sliceOf l)).withData l w d).putWord (setOf l).toNat w u).putWord (setOf l).toNat w u) := by
    have hzero : ({ u with hp := 0 } : TagWord) = u := by simp only [← hu, hhp]
    rw [storeWay, demandHit_touched hat.met.1, hwrite, State.modSl, State.setSl_sl, State.setSl_setSl, hshows.word_putWord hw, hzero]
  rw [hstore]
  suffices h : _ ∧ _ from ⟨h.1, h.2, rfl⟩
  refine Hit.withData hready d _ ?_ u (Slice.Serves.twoWords hready d u u) ?_
  · rw [Slice.wmb_putWord, Slice.wmb_putWord]
    exact hready.wmb (sliceOf l)
  · rw [Slice.slots_putWord, Slice.slots_putWord]

/-- A near atomic of a line that is not poisoned: its result in the line, which is M, and its old value in the answer. -/
theorem nearAtomic_answers (hpois : x.poison = false) (hpred : q.pred = false) {a : Line × BitVec 128 × Bool}
    (ha : atomicLine q.aop q.len (offOf q.addr) (q.data.setWidth 128) q.opB (spGet {} (v.sl (sliceOf l)).slots (slotKey (setOf l).toNat w)).data = a) :
    ∃ u : State, nearAtomic (sliceOf l) (setOf l).toNat w q v = u.answered q (.cmpData q.etag stOK 0 a.2.2 false q.len (a.2.1.setWidth 512)) ∧
      Hit v u p l w { x with st := .M } ∧ (spGet {} (u.sl (sliceOf l)).slots (slotKey (setOf l).toNat w)).data = a.1 := by
  generalize hy : ({ v.sl (sliceOf l) with amoNear := (v.sl (sliceOf l)).amoNear + 1 } : Slice) = y
  have hserves : y.Serves l w x := by
    rw [← hy]
    exact ⟨hready.serves.enabled, hready.serves.good, hready.serves.shows, hready.serves.found, hready.serves.clean, hready.serves.still, hready.serves.walks⟩
  have hready' := hready.setSl hserves
  have halone : ServedAlone v (v.setSl (sliceOf l) y) p l w := by
    rw [← hy]
    exact .setSl (fun _ _ => rfl) (fun _ _ _ _ => rfl)
  have hdata : (y.withData l w a.1).word (setOf l).toNat w = x := (Slice.find_some hserves.found).2.symm
  generalize hu : ({ x with st := .M } : TagWord) = u
  have hcount : v.modSl (sliceOf l) (fun y => { y with amoNear := y.amoNear + 1 }) = v.setSl (sliceOf l) y := by rw [State.modSl, hy]
  have hwrite : writeSlot (sliceOf l) (setOf l).toNat w { spGet {} (v.sl (sliceOf l)).slots (slotKey (setOf l).toNat w) with data := a.1 } (v.setSl (sliceOf l) y) =
      v.setSl (sliceOf l) (y.withData l w a.1) := by
    have hslots : (v.sl (sliceOf l)).slots = ((v.setSl (sliceOf l) y).sl (sliceOf l)).slots := by rw [State.setSl_sl, ← hy]
    rw [hslots, writeSlot_data, State.setSl_sl, State.setSl_setSl]
  have hfinal : ({ x with st := .M, hp := 0 } : TagWord) = u := by simp only [← hu, hhp]
  have hnear : nearAtomic (sliceOf l) (setOf l).toNat w q v =
      completeData q stOK 0 a.2.2 false q.len (a.2.1.setWidth 512) (v.setSl (sliceOf l) ((y.withData l w a.1).putWord (setOf l).toNat w u)) := by
    simp only [nearAtomic, readSlot_ready hready, hpred, hpois, ha, hcount, hwrite, demandHit_touched hat.met.1, Bool.false_eq_true, if_false]
    simp only [State.modSl, State.setSl_sl, State.setSl_setSl, hdata, hfinal]
  have hone := Slice.shows.oneWord (x := y.withData l w a.1) hserves.shows (Slice.find_some hserves.found).1 u
  have hword : OneWord ((v.setSl (sliceOf l) y).sl (sliceOf l)) ((y.withData l w a.1).putWord (setOf l).toNat w u) (setOf l).toNat w u := by
    rw [State.setSl_sl]
    exact ⟨hone.word, fun hg => hone.words (Slice.good_slots hg)⟩
  have hslots : ((y.withData l w a.1).putWord (setOf l).toNat w u).slots = (((v.setSl (sliceOf l) y).sl (sliceOf l)).withData l w a.1).slots := by
    rw [State.setSl_sl, Slice.slots_putWord]
  have hwmb : ((y.withData l w a.1).putWord (setOf l).toNat w u).wmb = [] := by
    rw [Slice.wmb_putWord]
    exact hserves.still.1
  obtain ⟨hhit, hline⟩ := Hit.withData hready' a.1 _ hwmb u hword hslots
  rw [State.setSl_setSl] at hhit hline
  exact ⟨_, hnear.trans (completeData_answers hhit.answer hat.port hat.whole _ _ _ _ _ _), hhit.of_alone halone rfl, hline⟩

omit hready hhp in
/-- The end of a conditional store that is performed counts it, and clears its reservation. -/
theorem endCs_answers {v' : State} (hhit : Hit v v' p l w x) : ∃ u : State, endCs q stOK true v' = u.answered q (.cmp q.etag stOK 0 false false) ∧
    Hit v u p l w x ∧ u.slices = v'.slices ∧ (u.hp p).cstOk = (v'.hp p).cstOk + 1 := by
  obtain ⟨f, hf, hcount, hlink, hstamped, hstride, hntc⟩ : ∃ a : HPort, endCs q stOK true v' = complete q stOK 0 false false (v'.setHp p a) ∧
      a.cstOk = (v'.hp p).cstOk + 1 ∧ a.link = (v'.hp p).link ∧ a.stamped = (v'.hp p).stamped ∧ a.strideEn = (v'.hp p).strideEn ∧ a.ntc = (v'.hp p).ntc := by
    rw [endCs, hat.port]
    exact ⟨_, rfl, rfl, rfl, rfl, rfl, rfl⟩
  have hans := hhit.answer.setHp hlink hstamped hstride hntc
  refine ⟨_, hf.trans (complete_answers hans hat.port hat.whole _ _ _ _), ⟨hhit.alone.trans (.modHp _ _ (fun _ => f) _ _), hhit.out, hhit.word, hans⟩, rfl, ?_⟩
  rw [State.setHp_hp, hcount]

end

end

end Sys2Proof.Machine
end

section
/-! PROOFS. Requests that hit a line held with write permission and by no host (R117, R121, R123, R199, R203, R211, R214). -/

set_option Elab.async false

namespace Sys2Proof.Machine

/-! ### From the message to the answer -/

/-- From s a request of port p has been served as from v to u, and it has its answer in t. -/
structure Done (s t : State) (p : Port) (l : LAddr) (w : Nat) (x : TagWord) (m : ToHost) (u : State) : Prop where
  out   : t.out = s.out ++ [.host p m]
  word  : (t.sl (sliceOf l)).word (setOf l).toNat w = x
  alone : ServedAlone s t p l w
  slice : t.sl (sliceOf l) = u.sl (sliceOf l)
  port  : ∃ a : List Acc, t.hp p = { u.hp p with accs := a }

theorem answered_hp (u : State) (q : Req) (m : ToHost) : ∃ a : List Acc, (u.answered q m).hp q.port = { u.hp q.port with accs := a } :=
  ⟨_, State.modHp_hp u q.port (fun h => { h with accs := h.accs.filter (fun a => !(decide (a.etag = q.etag) && decide (a.seq = q.seq))) })⟩

theorem answered_alone (u : State) (q : Req) (m : ToHost) (l : LAddr) (w : Nat) : ServedAlone u (u.answered q m) q.port l w := by
  have hretire : ServedAlone u (retireReq q u) q.port l w := .modHp ..
  exact ⟨hretire.home, hretire.ddr, hretire.ports, hretire.slices, hretire.slots, hretire.words, hretire.pins, hretire.arb⟩

section
variable {s : State} {p : Port} {cxl : Bool} {l : LAddr} {w : Nat} {x x' : TagWord} {r : Req} {d : Line} {k : W64} {m : ToHost} {Q : State → Prop}

/-- What a request comes to follows from what its hit comes to. -/
theorem arrive_done (hidle : Idle s p cxl) (hres : Resident s l w x) (hgood : (s.sl (sliceOf l)).good = true) (hown : x.st = .E ∨ x.st = .M)
    (ha : Arrives r s p cxl l d k)
    (hserve : ∀ (v : State) (n : Turn) (b : Bool), Ready v p l w x → (v.sl (sliceOf l)).slots = (s.sl (sliceOf l)).slots → v.hp p = (s.hp p).took n →
      AtWay { (r.onePart s d k).hitting with refunded := b } p l → ∃ u : State, ownHit l w x { (r.onePart s d k).hitting with refunded := b } v =
        u.answered { (r.onePart s d k).hitting with refunded := b } m ∧ Hit v u p l w x' ∧ Q u) :
    ∃ u : State, Done s (arrive r s) p l w x' m u ∧ Q u := by
  have hst : x.st ≠ .P := by rintro e; rw [e] at hown; simp at hown
  obtain ⟨v, hready, halone, hout, hslots, ⟨n, hn⟩, harrive⟩ := arrive_serves hidle hres hgood hst ha
  have hat : AtWay (r.onePart s d k).hitting p l := ⟨ha.port, ha.line, ⟨ha.whole.1, rfl⟩, rfl, rfl, ⟨rfl, ha.whole.2⟩⟩
  obtain ⟨b, hhit⟩ := serveHit_eq_ownHit hready hat hres.alone.1 hown
  have hat' := AtWay.refunded hat b
  obtain ⟨u, hu, hdone, hQ⟩ := hserve v n b hready hslots hn hat'
  have hport : r.port = p := ha.port
  have hans := answered_answerable (q := { (r.onePart s d k).hitting with refunded := b }) hdone.answer hport m
  rw [harrive _ (hhit.trans hu) hans]
  refine ⟨u, ⟨?_, hdone.word, ?_, rfl, ?_⟩, hQ⟩
  · subst hport
    exact congrArg (· ++ [Out.host r.port m]) (hdone.out.trans hout)
  · subst hport
    exact (halone.trans hdone.alone).trans (answered_alone ..)
  · subst hport
    exact answered_hp ..

end

/-! ### Emhal messages -/

section
variable {s : State} {m : EMsg} {l : LAddr} {w : Nat} {x : TagWord}

/-- The credits that come with a message keep the port idle, and the line where it is. -/
theorem Idle.gives (h : Idle s m.port false) : Idle (gives m s) m.port false := by
  have hrec := receives_gives m s
  obtain ⟨a, b, hg⟩ := gives_eq m s
  have hother (q : Port) : ((Machine.gives m s).hp q).ntc = (s.hp q).ntc := by
    rw [hg]
    by_cases hq : q = m.port
    · rw [hq, State.setHp_hp]
    · rw [State.setHp_hp_other _ _ hq]
  have hp : (Machine.gives m s).hp m.port = { s.hp m.port with dcmp := a, dsnp := b } := by rw [hg, State.setHp_hp]
  constructor
  case link => rw [hrec, h.link]
  case admOpen => rw [hp]; exact h.admOpen
  case plain => rw [hp]; exact h.plain
  case order => rw [hp]; exact h.order
  case ntc => exact fun q => (hother q).trans (h.ntc q)
  all_goals rw [hg]
  exacts [h.clk, h.alive, h.shut, h.walks, h.slices, h.pmu]

theorem Resident.gives (h : Resident s l w x) : Resident (gives m s) l w x := by
  obtain ⟨a, b, hg⟩ := gives_eq m s
  rw [hg]
  exact ⟨h.near, h.inside, h.enabled, h.shadow, h.found, h.alone, h.clean⟩

theorem hasRsv_gives (m : EMsg) (s : State) (k : Nat) (g : LAddr) : hasRsv ((gives m s).hp m.port) k g = hasRsv (s.hp m.port) k g := by
  obtain ⟨a, b, hg⟩ := gives_eq m s
  rw [hg, State.setHp_hp]
  rfl

end

section
variable {s : State} {m : EMsg} (hk : s.clk = true)
include hk

theorem exec_rdshared : exec (.rdshared m) s = .next (arrive (emReq .rdShared 64 m) (gives m s)) :=
  onClock_run hk (fun s => arrive (emReq .rdShared 64 m) (gives m s))

theorem exec_rdown : exec (.rdown m) s = .next (arrive (emReq .rdOwn 64 m) (gives m s)) :=
  onClock_run hk (fun s => arrive (emReq .rdOwn 64 m) (gives m s))

theorem exec_upgrade : exec (.upgrade m) s = .next (arrive (emReq .upgrade 64 m) (gives m s)) :=
  onClock_run hk (fun s => arrive (emReq .upgrade 64 m) (gives m s))

theorem exec_rdcur : exec (.rdcur m) s = .next (arrive (emReq .rdCur m.len.toNat m) (gives m s)) :=
  onClock_run hk (fun s => arrive (emReq .rdCur m.len.toNat m) (gives m s))

theorem exec_rsvload : exec (.rsvload m) s = .next (arrive (emReq .rsvLoad m.len.toNat m) (gives m s)) :=
  onClock_run hk (fun s => arrive (emReq .rsvLoad m.len.toNat m) (gives m s))

theorem exec_write : exec (.write m) s = .next (arrive (emReq .write m.len.toNat m) (gives m s)) :=
  onClock_run hk (fun s => arrive (emReq .write m.len.toNat m) (gives m s))

theorem exec_atomic : exec (.atomic m) s = .next (arrive (emReq .atomic m.len.toNat m) (gives m s)) :=
  onClock_run hk (fun s => arrive (emReq .atomic m.len.toNat m) (gives m s))

theorem exec_condstore : exec (.condstore m) s = .next (arrive (emReq .condStore m.len.toNat m) (gives m s)) :=
  onClock_run hk (fun s => arrive (emReq .condStore m.len.toNat m) (gives m s))

end

section
variable {s : State} {m : EMsg} {l : LAddr} {w : Nat} {x : TagWord}

/-- What an Emhal request comes to follows from what its hit comes to. -/
theorem exec_done {c : Instr} {op : Op} {len : Nat} (hc : exec c s = .next (arrive (emReq op len m) (gives m s))) (hidle : Idle s m.port false)
    (hline : lineOf m.addr = l) (hres : Resident s l w x) (hgood : (s.sl (sliceOf l)).good = true) (hown : x.st = .E ∨ x.st = .M)
    {d : Line} {k : W64} (hone : OnePart ((emReq op len m).begun (gives m s)) l d k) (hop : op ≠ .exc ∧ op ≠ .writeNT ∧ op ≠ .pfHint)
    (hrsv : op = .condStore → hasRsv (s.hp m.port) m.rslot.toNat l = true) {x' : TagWord} {o : ToHost} {Q : State → Prop}
    (hserve : ∀ (v : State) (b : Bool), Ready v m.port l w x → (v.sl (sliceOf l)).slots = (s.sl (sliceOf l)).slots →
      ((v.hp m.port).proto = (s.hp m.port).proto ∧ (v.hp m.port).cstOk = (s.hp m.port).cstOk) →
      AtWay { ((emReq op len m).onePart (gives m s) d k).hitting with refunded := b } m.port l →
      ∃ u : State, ownHit l w x { ((emReq op len m).onePart (gives m s) d k).hitting with refunded := b } v =
        u.answered { ((emReq op len m).onePart (gives m s) d k).hitting with refunded := b } o ∧ Hit v u m.port l w x' ∧ Q u) :
    ∃ t u : State, exec c s = .next t ∧ Done s t m.port l w x' o u ∧ Q u := by
  obtain ⟨a, b, hg⟩ := gives_eq m s
  have hslices : (gives m s).sl = s.sl := by rw [hg]; rfl
  have hport : (gives m s).hp m.port = { s.hp m.port with dcmp := a, dsnp := b } := by rw [hg, State.setHp_hp]
  obtain ⟨u, hdone, hQ⟩ := arrive_done hidle.gives hres.gives (by rw [hslices]; exact hgood) hown (r := emReq op len m) (d := d) (k := k) (m := o) (x' := x') (Q := Q)
    ⟨rfl, rfl, hline, hone, nofun, hop, ⟨rfl, rfl⟩, ⟨rfl, rfl⟩, fun _ => rfl, fun e => by rw [hasRsv_gives]; exact hrsv e⟩
    (fun v n b hready hslots hn hat => hserve v b hready (by rw [hslots, hslices]) (by rw [hn, hport]; exact ⟨rfl, rfl⟩) hat)
  refine ⟨_, u, hc, ⟨?_, hdone.word, ?_, hdone.slice, hdone.port⟩, hQ⟩
  · rw [hdone.out, hg]
    rfl
  · have halone := hdone.alone
    rw [hg] at halone ⊢
    exact halone.of_setHp

end

/-! ### The requests of an Emhal host -/

theorem hpOf_emhal {v : State} {p : Port} (h : (v.hp p).proto = false) : hpOf v p = setBit 0 p.val true := by
  rw [hpOf, h]
  rfl

section
variable {q : Req} {l : LAddr} {w : Nat} {x : TagWord} {v : State}

theorem ownHit_read (h : q.op = .rdShared ∨ q.op = .rsvLoad) : ownHit l w x q v = hitRead (sliceOf l) (setOf l).toNat w x q false 1 true v := by
  rcases h with h | h <;> rw [ownHit, h]

theorem ownHit_rdCur (h : q.op = .rdCur) : ownHit l w x q v = hitRead (sliceOf l) (setOf l).toNat w x q false 0 false v := by rw [ownHit, h]

theorem ownHit_rdOwn (h : q.op = .rdOwn) : ownHit l w x q v = giveRead q (spGet {} (v.sl (sliceOf l)).slots (slotKey (setOf l).toNat w)).data x.poison 2
    (addHp (sliceOf l) (setOf l).toNat w q.port true v.nextSeq) := by rw [ownHit, h]

theorem ownHit_upgrade (h : q.op = .upgrade) : ownHit l w x q v = complete q stOK 2 false x.poison (addHp (sliceOf l) (setOf l).toNat w q.port true v.nextSeq) := by
  rw [ownHit, h]

theorem ownHit_write (h : q.op = .write) : ownHit l w x q v = complete q stOK 0 false false (storeWay (sliceOf l) (setOf l).toNat w q v.nextSeq) := by rw [ownHit, h]

theorem ownHit_atomic (h : q.op = .atomic) : ownHit l w x q v = nearAtomic (sliceOf l) (setOf l).toNat w q v.nextSeq := by rw [ownHit, h]

theorem ownHit_condStore (h : q.op = .condStore) : ownHit l w x q v = endCs q stOK true (storeWay (sliceOf l) (setOf l).toNat w q v.nextSeq) := by rw [ownHit, h]

/-- An ownership read takes the line, and its HP bit. -/
theorem ownHit_rdOwn_answers {p : Port} (hready : Ready v p l w x) (hat : AtWay q p l) (hhp : x.hp = 0) (hbit : hpOf v p = setBit 0 p.val true) (h : q.op = .rdOwn) :
    ∃ u : State, ownHit l w x q v = u.answered q (.cmpData q.etag stOK 2 false x.poison 64 (spGet {} (v.sl (sliceOf l)).slots (slotKey (setOf l).toNat w)).data) ∧
      Hit v u p l w { x with hp := setBit 0 p.val true } ∧ (u.sl (sliceOf l)).slots = (v.sl (sliceOf l)).slots := by
  obtain ⟨hhit, hslots⟩ := addHp_hit hready hhp hbit
  refine ⟨_, ?_, hhit, hslots⟩
  have hreads (d : Line) : q.reads d = (64, d) := by rw [Req.reads, h]
  have hnot : q.op ≠ .rsvLoad := by rw [h]; decide
  rw [ownHit_rdOwn h, hat.port, giveRead_answers hhit.answer hat, hreads, if_neg hnot]

end

/-- A request that has no size of its own, or in a size and a place that are right, is one access. -/
theorem onePart_line {m : EMsg} {s : State} {l : LAddr} {op : Op} {len : Nat} (hline : lineOf m.addr = l) (hform : badForm (emReq op len m) = false)
    (hop : op ≠ .rdCur ∧ op ≠ .write ∧ op ≠ .writeNT ∧ op ≠ .condStore) : OnePart ((emReq op len m).begun s) l m.data 0 := by
  obtain ⟨h1, h2, h3, h4⟩ := hop
  subst hline
  refine ⟨hform, fun t => ?_⟩
  cases op
  case rdCur | write | writeNT | condStore => contradiction
  all_goals rfl

/-- A read or a store within a line is one access, its bytes in their places. -/
theorem onePart_bytes {m : EMsg} {s : State} {l : LAddr} {op : Op} (hline : lineOf m.addr = l) (hop : op = .rdCur ∨ op = .write)
    (hlen : 0 < m.len.toNat) (hin : offOf m.addr + m.len.toNat ≤ 64) :
    OnePart ((emReq op m.len.toNat m).begun s) l (placeLine m.data (offOf m.addr)) (rangeMask (offOf m.addr) m.len.toNat) := by
  subst hline
  have hsize : (decide (m.len.toNat = 0) || decide (64 < m.len.toNat)) = false := by simp; omega
  rcases hop with rfl | rfl <;> exact ⟨hsize, fun t => by rw [partsOf]; exact if_pos hin⟩

theorem onePart_condStore {m : EMsg} {s : State} {l : LAddr} (hline : lineOf m.addr = l) (hnat : natural m.len.toNat (offOf m.addr) = true) :
    OnePart ((emReq .condStore m.len.toNat m).begun s) l (placeLine m.data (offOf m.addr)) (rangeMask (offOf m.addr) m.len.toNat) := by
  subst hline
  have hform : (!natural m.len.toNat (offOf m.addr)) = false := by rw [hnat]; rfl
  exact ⟨hform, fun t => rfl⟩

section
variable {s : State} {m : EMsg} {l : LAddr} {i : SliceNo} {w : Nat} {x : TagWord} {d : Line} (hidle : Idle s m.port false)
  (hproto : (s.hp m.port).proto = false) (hline : lineOf m.addr = l) (hi : i = sliceOf l) (hres : Resident s l w x) (hgood : (s.sl i).good = true)
  (hown : x.st = .E ∨ x.st = .M) (hd : d = (spGet {} (s.sl i).slots (slotKey (setOf l).toNat w)).data)
include hidle hproto hline hi hres hgood hown hd

/-- A shared read or a reserved load. -/
theorem exec_read_hit {c : Instr} {op : Op} {len : Nat} (hc : exec c s = .next (arrive (emReq op len m) (gives m s))) (hop : op = .rdShared ∨ op = .rsvLoad)
    (hone : OnePart ((emReq op len m).begun (gives m s)) l m.data 0) : ∃ t : State, exec c s = .next t ∧
      t.out = s.out ++ [.host m.port (.cmpData (m.etag.setWidth 16) stOK 1 false x.poison ((emReq op len m).reads d).1 ((emReq op len m).reads d).2)] ∧
      (t.sl i).word (setOf l).toNat w = { x with hp := setBit 0 m.port.val true } ∧ (t.sl i).slots = (s.sl i).slots ∧ ServedAlone s t m.port l w ∧
      (op = .rsvLoad → hasRsv (t.hp m.port) m.rslot.toNat l = true) := by
  subst hi
  obtain ⟨t, u, ht, hdone, hslots, hrsv⟩ := exec_done hc hidle hline hres hgood hown hone (by rcases hop with h | h <;> rw [h] <;> decide)
    (by rcases hop with h | h <;> rw [h] <;> nofun) (x' := { x with hp := setBit 0 m.port.val true })
    (o := .cmpData (m.etag.setWidth 16) stOK 1 false x.poison ((emReq op len m).reads d).1 ((emReq op len m).reads d).2)
    (Q := fun u => (u.sl (sliceOf l)).slots = (s.sl (sliceOf l)).slots ∧ (op = .rsvLoad → hasRsv (u.hp m.port) m.rslot.toNat l = true))
    fun v b hready hslots hp hat => by
      obtain ⟨u, hu, hhit, hsl, hrsv⟩ := hitRead_answers hready hat hres.alone.1 1 true fun _ => hpOf_emhal (hp.1.trans hproto)
      rw [hslots, ← hd] at hu
      exact ⟨u, (ownHit_read hop).trans hu, hhit, hsl.trans hslots, hrsv⟩
  refine ⟨t, ht, hdone.out, hdone.word, by rw [hdone.slice, hslots], hdone.alone, fun h => ?_⟩
  obtain ⟨a, ha⟩ := hdone.port
  rw [ha]
  exact hrsv h

/-- An ownership read. -/
theorem exec_rdown_hit : ∃ t : State, exec (.rdown m) s = .next t ∧
      t.out = s.out ++ [.host m.port (.cmpData (m.etag.setWidth 16) stOK 2 false x.poison 64 d)] ∧
      (t.sl i).word (setOf l).toNat w = { x with hp := setBit 0 m.port.val true } ∧ (t.sl i).slots = (s.sl i).slots ∧ ServedAlone s t m.port l w := by
  subst hi
  obtain ⟨t, u, ht, hdone, hslots⟩ := exec_done (op := .rdOwn) (len := 64) (exec_rdown hidle.clk) hidle hline hres hgood hown
    (d := m.data) (k := 0) (onePart_line hline rfl (by decide)) (by decide) nofun (x' := { x with hp := setBit 0 m.port.val true })
    (o := .cmpData (m.etag.setWidth 16) stOK 2 false x.poison 64 d) (Q := fun u => (u.sl (sliceOf l)).slots = (s.sl (sliceOf l)).slots)
    fun v b hready hslots hp hat => by
      obtain ⟨u, hu, hhit, hsl⟩ := ownHit_rdOwn_answers hready hat hres.alone.1 (hpOf_emhal (hp.1.trans hproto)) rfl
      rw [hslots, ← hd] at hu
      exact ⟨u, hu, hhit, hsl.trans hslots⟩
  exact ⟨t, ht, hdone.out, hdone.word, by rw [hdone.slice, hslots], hdone.alone⟩

/-- An upgrade. -/
theorem exec_upgrade_hit : ∃ t : State, exec (.upgrade m) s = .next t ∧
      t.out = s.out ++ [.host m.port (.cmp (m.etag.setWidth 16) stOK 2 false x.poison)] ∧
      (t.sl i).word (setOf l).toNat w = { x with hp := setBit 0 m.port.val true } ∧ (t.sl i).slots = (s.sl i).slots ∧ ServedAlone s t m.port l w := by
  subst hi
  obtain ⟨t, u, ht, hdone, hslots⟩ := exec_done (op := .upgrade) (len := 64) (exec_upgrade hidle.clk) hidle hline hres hgood hown
    (d := m.data) (k := 0) (onePart_line hline rfl (by decide)) (by decide) nofun (x' := { x with hp := setBit 0 m.port.val true })
    (o := .cmp (m.etag.setWidth 16) stOK 2 false x.poison) (Q := fun u => (u.sl (sliceOf l)).slots = (s.sl (sliceOf l)).slots)
    fun v b hready hslots hp hat => by
      obtain ⟨hhit, hsl⟩ := addHp_hit hready hres.alone.1 (hpOf_emhal (hp.1.trans hproto))
      exact ⟨_, (ownHit_upgrade rfl).trans (complete_answers hhit.answer hat.port hat.whole _ _ _ _), hhit, hsl.trans hslots⟩
  exact ⟨t, ht, hdone.out, hdone.word, by rw [hdone.slice, hslots], hdone.alone⟩

omit hproto in
/-- A read of current data. -/
theorem exec_rdcur_hit (hlen : 0 < m.len.toNat) (hin : offOf m.addr + m.len.toNat ≤ 64) : ∃ t : State, exec (.rdcur m) s = .next t ∧
      t.out = s.out ++ [.host m.port (.cmpData (m.etag.setWidth 16) stOK 0 false x.poison m.len.toNat (takeLine d (offOf m.addr) m.len.toNat))] ∧
      (t.sl i).word (setOf l).toNat w = x ∧ (t.sl i).slots = (s.sl i).slots ∧ ServedAlone s t m.port l w := by
  subst hi
  obtain ⟨t, u, ht, hdone, hslots⟩ := exec_done (op := .rdCur) (len := m.len.toNat) (exec_rdcur hidle.clk) hidle hline hres hgood hown
    (onePart_bytes hline (.inl rfl) hlen hin) (by decide) nofun (x' := x)
    (o := .cmpData (m.etag.setWidth 16) stOK 0 false x.poison m.len.toNat (takeLine d (offOf m.addr) m.len.toNat))
    (Q := fun u => (u.sl (sliceOf l)).slots = (s.sl (sliceOf l)).slots)
    fun v b hready hslots hp hat => by
      obtain ⟨u, hu, hhit, hsl, -⟩ := hitRead_answers hready hat hres.alone.1 0 false nofun
      rw [hslots, ← hd] at hu
      exact ⟨u, (ownHit_rdCur rfl).trans hu, hhit, hsl.trans hslots⟩
  exact ⟨t, ht, hdone.out, hdone.word, by rw [hdone.slice, hslots], hdone.alone⟩

omit hproto

/-- A store. -/
theorem exec_write_hit (hlen : 0 < m.len.toNat) (hin : offOf m.addr + m.len.toNat ≤ 64) : ∃ t : State, exec (.write m) s = .next t ∧
      t.out = s.out ++ [.host m.port (.cmp (m.etag.setWidth 16) stOK 0 false false)] ∧
      (t.sl i).word (setOf l).toNat w = { x with st := .M, poison := poisonAfter x.poison m.poison (rangeMask (offOf m.addr) m.len.toNat) } ∧
      (spGet {} (t.sl i).slots (slotKey (setOf l).toNat w)).data =
        mergeLine d (placeLine m.data (offOf m.addr)) (rangeMask (offOf m.addr) m.len.toNat) ∧ ServedAlone s t m.port l w := by
  subst hi
  obtain ⟨t, u, ht, hdone, hdata⟩ := exec_done (op := .write) (len := m.len.toNat) (exec_write hidle.clk) hidle hline hres hgood hown
    (onePart_bytes hline (.inr rfl) hlen hin) (by decide) nofun
    (x' := { x with st := .M, poison := poisonAfter x.poison m.poison (rangeMask (offOf m.addr) m.len.toNat) })
    (o := .cmp (m.etag.setWidth 16) stOK 0 false false)
    (Q := fun u => (spGet {} (u.sl (sliceOf l)).slots (slotKey (setOf l).toNat w)).data =
      mergeLine d (placeLine m.data (offOf m.addr)) (rangeMask (offOf m.addr) m.len.toNat))
    fun v b hready hslots hp hat => by
      obtain ⟨hhit, hdata, -⟩ := storeWay_hit (Ready.nextSeq hready) hat hres.alone.1
      rw [show (v.nextSeq.sl (sliceOf l)).slots = _ from hslots, ← hd] at hdata
      exact ⟨_, (ownHit_write rfl).trans (complete_answers hhit.answer hat.port hat.whole _ _ _ _), hhit.of_nextSeq, hdata⟩
  exact ⟨t, ht, hdone.out, hdone.word, by rw [hdone.slice, hdata], hdone.alone⟩

/-- A conditional store whose reservation holds. -/
theorem exec_condstore_hit (hnat : natural m.len.toNat (offOf m.addr) = true) (hrsv : hasRsv (s.hp m.port) m.rslot.toNat l = true) :
    ∃ t : State, exec (.condstore m) s = .next t ∧
      t.out = s.out ++ [.host m.port (.cmp (m.etag.setWidth 16) stOK 0 false false)] ∧ (t.hp m.port).cstOk = (s.hp m.port).cstOk + 1 ∧
      (t.sl i).word (setOf l).toNat w = { x with st := .M, poison := poisonAfter x.poison m.poison (rangeMask (offOf m.addr) m.len.toNat) } ∧
      (spGet {} (t.sl i).slots (slotKey (setOf l).toNat w)).data =
        mergeLine d (placeLine m.data (offOf m.addr)) (rangeMask (offOf m.addr) m.len.toNat) ∧ ServedAlone s t m.port l w := by
  subst hi
  obtain ⟨t, u, ht, hdone, hdata, hcount⟩ := exec_done (op := .condStore) (len := m.len.toNat) (exec_condstore hidle.clk) hidle hline hres hgood hown
    (onePart_condStore hline hnat) (by decide) (fun _ => hrsv)
    (x' := { x with st := .M, poison := poisonAfter x.poison m.poison (rangeMask (offOf m.addr) m.len.toNat) })
    (o := .cmp (m.etag.setWidth 16) stOK 0 false false)
    (Q := fun u => (spGet {} (u.sl (sliceOf l)).slots (slotKey (setOf l).toNat w)).data =
      mergeLine d (placeLine m.data (offOf m.addr)) (rangeMask (offOf m.addr) m.len.toNat) ∧ (u.hp m.port).cstOk = (s.hp m.port).cstOk + 1)
    fun v b hready hslots hp hat => by
      obtain ⟨hhit, hdata, hsame⟩ := storeWay_hit (Ready.nextSeq hready) hat hres.alone.1
      rw [show (v.nextSeq.sl (sliceOf l)).slots = _ from hslots, ← hd] at hdata
      obtain ⟨u, hu, hend, hslices, hcount⟩ := endCs_answers hat hhit.of_nextSeq
      refine ⟨u, (ownHit_condStore rfl).trans hu, hend, ?_, ?_⟩
      · rw [State.sl, hslices]
        exact hdata
      · rw [hcount, hsame]
        exact congrArg (· + 1) hp.2
  obtain ⟨a, ha⟩ := hdone.port
  exact ⟨t, ht, hdone.out, by rw [ha, ← hcount], hdone.word, by rw [hdone.slice, hdata], hdone.alone⟩

/-- An atomic on a line that is not poisoned. -/
theorem exec_atomic_hit (hok : atomicOk m.aop m.len.toNat = true) (hoff : offOf m.addr % m.len.toNat = 0) (hpois : x.poison = false)
    {a : Line × BitVec 128 × Bool} (ha : a = atomicLine m.aop m.len.toNat (offOf m.addr) (m.data.setWidth 128) m.opB d) :
    ∃ t : State, exec (.atomic m) s = .next t ∧
      t.out = s.out ++ [.host m.port (.cmpData (m.etag.setWidth 16) stOK 0 a.2.2 false m.len.toNat (a.2.1.setWidth 512))] ∧
      (t.sl i).word (setOf l).toNat w = { x with st := .M } ∧ (spGet {} (t.sl i).slots (slotKey (setOf l).toNat w)).data = a.1 ∧
      ServedAlone s t m.port l w := by
  subst hi
  have hform : badForm (emReq .atomic m.len.toNat m) = false := by
    simp only [badForm, emReq, hok, hoff]
    decide
  obtain ⟨t, u, ht, hdone, hdata⟩ := exec_done (op := .atomic) (len := m.len.toNat) (exec_atomic hidle.clk) hidle hline hres hgood hown
    (onePart_line hline hform (by decide)) (by decide) nofun (x' := { x with st := .M })
    (o := .cmpData (m.etag.setWidth 16) stOK 0 a.2.2 false m.len.toNat (a.2.1.setWidth 512))
    (Q := fun u => (spGet {} (u.sl (sliceOf l)).slots (slotKey (setOf l).toNat w)).data = a.1)
    fun v b hready hslots hp hat => by
      obtain ⟨u, hu, hhit, hdata⟩ := nearAtomic_answers (Ready.nextSeq hready) hat hres.alone.1 hpois rfl (a := a)
        (by rw [show (v.nextSeq.sl (sliceOf l)).slots = _ from hslots, ← hd, ha]; rfl)
      exact ⟨u, (ownHit_atomic rfl).trans hu, hhit.of_nextSeq, hdata⟩
  exact ⟨t, ht, hdone.out, hdone.word, by rw [hdone.slice, hdata], hdone.alone⟩

end

/-! ### The read of a CXL host (R121, R123) -/

theorem getLsbD_lineAddr (l : LAddr) (i : Nat) : (lineAddr l).getLsbD i = if i < 6 then false else l.getLsbD (i - 6) :=
  (BitVec.getLsbD_append (x := l) (y := (0 : BitVec 6)) (i := i)).trans (by simp)

theorem lineOf_lineAddr (l : LAddr) : lineOf (lineAddr l) = l := by
  refine BitVec.eq_of_getLsbD_eq fun i hi => ?_
  simp [lineOf, fld, getLsbD_lineAddr, hi]

theorem offOf_lineAddr (l : LAddr) : offOf (lineAddr l) = 0 := by
  have hlow : fld (lineAddr l) 0 6 = 0 := by
    refine BitVec.eq_of_getLsbD_eq fun i hi => ?_
    simp [fld, getLsbD_lineAddr, hi]
  rw [offOf, hlow]
  rfl

/-- All 64 bytes of a line are the line. -/
theorem takeLine_whole (d : Line) : takeLine d 0 64 = d := by
  have hall : byteBits (rangeMask 0 64) 64 = BitVec.allOnes 512 := by decide +kernel
  rw [takeLine, hall, BitVec.and_allOnes]
  exact BitVec.ushiftRight_zero d

section
variable {s : State} {c : CMsg} {l : LAddr} {w : Nat} {x : TagWord} {d : Line} (hidle : Idle s c.port true) (hline : lineOf c.addr = l)
  (hdec : decoded s c.port (lineAddr l) = true) (hres : Resident s l w x) (hgood : (s.sl (sliceOf l)).good = true)
  (hown : x.st = .E ∨ x.st = .M) (hd : d = (spGet {} (s.sl (sliceOf l)).slots (slotKey (setOf l).toNat w)).data)
include hidle hline hdec hres hgood hown hd

/-- A read of a CXL host, by the operation it is performed as: of current data, shared or of ownership. -/
theorem exec_memrd_hit {op : Op} (hop : memRdOp s c = op) {g : BitVec 2} {x' : TagWord}
    (hkind : op = .rdCur ∧ g = 0 ∧ x' = x ∨
      (op = .rdShared ∧ g = 1 ∨ op = .rdOwn ∧ g = 2) ∧ (s.hp c.port).biEn = true ∧ x' = { x with hp := setBit 0 c.port.val true }) :
    ∃ t : State, exec (.memrd c) s = .next t ∧ t.out = s.out ++ [.host c.port (.cmpData c.tag stOK g false x.poison 64 d)] ∧
      (t.sl (sliceOf l)).word (setOf l).toNat w = x' ∧ (t.sl (sliceOf l)).slots = (s.sl (sliceOf l)).slots ∧ ServedAlone s t c.port l w := by
  have hexec : exec (.memrd c) s = .next (arrive (cxlReq op fullMask c) s) :=
    hop ▸ onClock_run hidle.clk (fun s => arrive (cxlReq (memRdOp s c) fullMask c) s)
  have haddr : lineOf (lineAddr (lineOf c.addr)) = l := by rw [lineOf_lineAddr, hline]
  have hdec' : decoded s c.port (lineAddr (lineOf c.addr)) = true := by rw [hline, hdec]
  have harr : Arrives (cxlReq op fullMask c) s c.port true l c.data fullMask := by
    have hone : OnePart ((cxlReq op fullMask c).begun s) l c.data fullMask := by
      subst hline
      rcases hkind with ⟨rfl, -⟩ | ⟨⟨rfl, -⟩ | ⟨rfl, -⟩, -⟩ <;> exact ⟨rfl, fun t => by rw [← haddr]; rfl⟩
    have hne : op ≠ .exc ∧ op ≠ .writeNT ∧ op ≠ .pfHint ∧ op ≠ .atomic ∧ op ≠ .condStore := by
      rcases hkind with ⟨rfl, -⟩ | ⟨⟨rfl, -⟩ | ⟨rfl, -⟩, -⟩ <;> decide
    exact ⟨rfl, rfl, haddr, hone, fun _ => hdec', ⟨hne.1, hne.2.1, hne.2.2.1⟩, ⟨rfl, rfl⟩, ⟨rfl, rfl⟩, fun e => absurd e hne.2.2.2.1,
      fun e => absurd e hne.2.2.2.2⟩
  obtain ⟨u, hdone, hslots⟩ := arrive_done hidle hres hgood hown harr (m := .cmpData c.tag stOK g false x.poison 64 d) (x' := x')
    (Q := fun u => (u.sl (sliceOf l)).slots = (s.sl (sliceOf l)).slots) fun v n b hready hslots hn hat => by
      have hbit (hbi : (s.hp c.port).biEn = true) : hpOf v c.port = setBit 0 c.port.val true := by
        rw [hpOf, hn, show ((s.hp c.port).took n).biEn = true from hbi]
        simp
      rcases hkind with ⟨rfl, rfl, rfl⟩ | ⟨⟨rfl, rfl⟩ | ⟨rfl, rfl⟩, hbi, rfl⟩
      · obtain ⟨u, hu, hhit, hsl, -⟩ := hitRead_answers hready hat hres.alone.1 0 false nofun
        have hreads : (Req.reads { ((cxlReq .rdCur fullMask c).onePart s c.data fullMask).hitting with refunded := b } d) = (64, d) :=
          congrArg (Prod.mk 64) ((congrArg (takeLine d · 64) (offOf_lineAddr _)).trans (takeLine_whole d))
        rw [hslots, ← hd, hreads] at hu
        exact ⟨u, (ownHit_rdCur rfl).trans hu, hhit, hsl.trans hslots⟩
      · obtain ⟨u, hu, hhit, hsl, -⟩ := hitRead_answers hready hat hres.alone.1 1 true fun _ => hbit hbi
        rw [hslots, ← hd] at hu
        exact ⟨u, (ownHit_read (.inl rfl)).trans hu, hhit, hsl.trans hslots⟩
      · obtain ⟨u, hu, hhit, hsl⟩ := ownHit_rdOwn_answers hready hat hres.alone.1 (hbit hbi) rfl
        rw [hslots, ← hd] at hu
        exact ⟨u, hu, hhit, hsl.trans hslots⟩
  exact ⟨_, hexec, hdone.out, hdone.word, by rw [hdone.slice, hslots], hdone.alone⟩

end

/-- Settles O28: an idle port's request goes to its slice at once, where no host is snooped; what is left is the read or the write of the way that
its line hits, and the answer. -/
theorem hitsAreServed : Obligations.HitsAreServed := by
  refine ⟨fun s c w x hidle hdec hres hown hgood => ?_, ?_⟩
  · refine exec_memrd_hit hidle rfl hdec hres (hgood _) hown rfl rfl ?_
    cases hbi : (s.hp c.port).biEn
    · exact .inl ⟨by simp [memRdOp, hbi], by simp, by simp⟩
    · cases hmeta : c.meta_
      case any => exact .inr ⟨.inr ⟨by simp [memRdOp, hbi, hmeta], by simp⟩, rfl, by simp⟩
      case shared => exact .inr ⟨.inl ⟨by simp [memRdOp, hbi, hmeta], by simp⟩, rfl, by simp⟩
      case invalid => exact .inl ⟨by simp [memRdOp, hbi, hmeta], by simp, by simp⟩
  · intro s m w x hidle hproto hres hown hgood l i off len d e hl hi hoff hlen hd he
    subst hl hoff hlen he
    refine ⟨?_, exec_rdown_hit hidle hproto rfl hi hres (hgood _) hown hd, exec_upgrade_hit hidle hproto rfl hi hres (hgood _) hown hd,
      exec_rdcur_hit hidle rfl hi hres (hgood _) hown hd, fun hnat => ?_, exec_write_hit hidle rfl hi hres (hgood _) hown hd,
      fun hok hoff hpois => exec_atomic_hit hidle rfl hi hres (hgood _) hown hd hok hoff hpois rfl,
      exec_condstore_hit hidle rfl hi hres (hgood _) hown hd⟩
    · obtain ⟨t, ht, hout, hword, hslots, halone, -⟩ :=
        exec_read_hit hidle hproto rfl hi hres (hgood _) hown hd (exec_rdshared hidle.clk) (.inl rfl) (onePart_line rfl rfl (by decide))
      exact ⟨t, ht, hout, hword, hslots, halone⟩
    · have hform : (!natural m.len.toNat (offOf m.addr)) = false := by rw [hnat]; rfl
      obtain ⟨t, ht, hout, hword, -, halone, hrsv⟩ :=
        exec_read_hit hidle hproto rfl hi hres (hgood _) hown hd (exec_rsvload hidle.clk) (.inr rfl) (onePart_line rfl hform (by decide))
      exact ⟨t, ht, hout, hrsv rfl, hword, halone⟩

end Sys2Proof.Machine
end

section
/-! PROOFS. Events of the domain while a host link is in Recovery: the MSI-X message of NODE_DEAD, and of the CMD_DONE of a relocation command, waits in
its port (R289, R403). -/

set_option Elab.async false

namespace Sys2Proof.Machine

/-! ### A declaration -/

/-- The one other node of a torus of two. -/
def neighbourNode : NodeId := 0x01000

/-- The device with HP1 in Recovery, alone with that neighbour in its domain, every link of its fabric up to it. -/
def recoveringPair : State := { recoveringHost with
  node := { recoveringHost.node with xsz := 1 }
  fports := Vector.replicate 6 { FPort.reset 1 with link := .up, neigh := neighbourNode } }

theorem recoveringPair_peer : Peer recoveringPair neighbourNode := by
  constructor
  case idle => exact ⟨⟨by decide +kernel, by decide +kernel⟩, by decide +kernel⟩
  all_goals decide +kernel

/-- The event NODE_DEAD raises the attention of HP1, whose MSI-X message waits for the end of Recovery. -/
theorem declaration_holds_msix : heldAfter (.declaration 1 neighbourNode) recoveringPair 1 = [.msix] := by decide +kernel

/-- Refutes O42: the event NODE_DEAD of a declaration may raise MSI-X on a CXL port in Recovery, and the message is then held in that port (R289). -/
theorem not_declarationsAreApplied : ¬ Obligations.DeclarationsAreApplied := by
  intro h
  obtain ⟨harrives, -⟩ := h recoveringPair 1 0 neighbourNode {} (by decide +kernel)
  obtain ⟨t, he, hdeclared, -⟩ := harrives recoveringPair_peer
  exact not_samePorts_of_heldAfter (q := 1) he (by rw [declaration_holds_msix]; decide) hdeclared.others.2

/-! ### A frame reservation that is not answered -/

/-- The relocation of region 0 to member 1 by mailbox 0 of HP1, which awaits the target's answer. -/
def frameAsked : Reloc :=
  { orig := 0, region := 0, gen := 0, peer := 1, giving := true, phase := .idle, pk := some (1, 0), marks := [] }

/-- The device with HP1 in Recovery while its HOME_RELOCATE awaits that answer. -/
def relocating : State := { recoveringHost with
  mbx := Vector.replicate 4 Mbx.reset |>.set 1 (Mbx.reset.modAt 0 fun x => { x with running := some 0x60550000 })
  home := { recoveringHost.home with relocs := [frameAsked] } }

theorem relocating_sends : Sends relocating := ⟨rfl, rfl⟩

/-- The CMD_DONE of the HOME_RELOCATE raises the attention of HP1, whose MSI-X message waits for the end of Recovery. -/
theorem frameReservationTimeout_holds_msix :
    heldAfter (.frameReservationTimeout frameAsked.orig frameAsked.region) relocating 1 = [.msix] := by decide +kernel

/-- Refutes O46: the CMD_DONE of a HOME_RELOCATE may raise MSI-X on its own port while that is in Recovery, and the message is then held in the port
(R289). -/
theorem not_regionIsGivenAway : ¬ Obligations.RegionIsGivenAway := by
  intro h
  obtain ⟨-, hgives, -⟩ := h relocating 0 1 0 frameAsked ⟨0, 0, 0, 0, []⟩ (by decide +kernel) relocating_sends
  obtain ⟨-, -, htimeout, -⟩ := hgives rfl rfl rfl rfl
  obtain ⟨t, he, -, -, -, -, -, hports⟩ := htimeout rfl
  exact not_samePorts_of_heldAfter (q := 1) he (by rw [frameReservationTimeout_holds_msix]; decide) hports

end Sys2Proof.Machine
end

section
/-! PROOFS. A copied line that finds the write queue of its channel full, every line of it held for the fill (R336, R363, R364). -/

set_option Elab.async false

namespace Sys2Proof.Machine

/-- A region that comes back to this device, whose copied lines are awaited. -/
def comingBack : Reloc :=
  { orig := 0, region := 0, gen := 0, peer := 1, giving := false, phase := .receiving, pk := none, marks := [] }

/-- The first line of that region, as copied. -/
def copiedLine : RegLine := { idx := 0, data := 0, word := 0 }

/-- The first line of DRAM block 1. -/
def staleLine : Nat := 2 ^ 15

/-- The device as that region is copied to it, before any block of DDR5 is filled. The queue of a channel is full of writes to line 0, whose block has
no fill slot; block 1 has one, and no line of it has been written, but DRAM holds something at its first line. -/
def fullOfHeldWrites : State := { State.reset with
  crp := { State.reset.crp with pllLock := true }
  fw := { State.reset.fw with st := .run }
  home := { State.reset.home with relocs := [comingBack] }
  mem := { State.reset.mem with
    wq := List.replicate 256 (0, {}), fillSlots := [(1, [])], size := 2 ^ 30, ddr := [(staleLine, { data := 1 })] } }

theorem fullOfHeldWrites_sends : Sends fullOfHeldWrites := ⟨rfl, rfl⟩

theorem fullOfHeldWrites_good : fullOfHeldWrites.good := ⟨by decide +kernel, by decide +kernel⟩

/-- What a command leaves to be read from a line of DDR5. -/
def ddrAfter (c : Instr) (s : State) (f : Nat) : DLine :=
  match exec c s with
  | .next t => ddrGet t f
  | .fault _ | .refused _ => {}

theorem ddrAfter_of_next {c : Instr} {s t : State} (h : exec c s = .next t) (f : Nat) : ddrAfter c s f = ddrGet t f := by
  rw [ddrAfter, h]

/-- The line of block 1 reads as zero until its block is filled (R362). -/
theorem staleLine_reads_zero : ddrGet fullOfHeldWrites staleLine = {} := by decide +kernel

/-- The copied line waits until block 1 is filled, which ends the slot, and the block reads from DRAM (R364; log 27). -/
theorem staleLine_after_copy : ddrAfter (.relocationCopyDone 0 0 [copiedLine]) fullOfHeldWrites staleLine = { data := 1 } := by decide +kernel

/-- Refutes O47: `good` leaves open what DRAM holds in a block that is not yet filled, and how full the write queues are. A copied line that finds
its queue full of held writes waits for the oldest fill slot's block, of which a line that was not copied reads otherwise from then on. -/
theorem not_regionIsReceived : ¬ Obligations.RegionIsReceived := by
  intro h
  obtain ⟨-, -, hcopies, -⟩ := h fullOfHeldWrites 0 0 0 0 (by decide +kernel) rfl fullOfHeldWrites_sends fullOfHeldWrites_good
  obtain ⟨⟨t, he, -, -, -, -, -, hothers⟩, -⟩ := hcopies comingBack [copiedLine] rfl rfl rfl rfl (by simp)
  have hsame : ddrGet t staleLine = ddrGet fullOfHeldWrites staleLine := hothers staleLine (by decide +kernel)
  rw [← ddrAfter_of_next he, staleLine_after_copy, staleLine_reads_zero] at hsame
  exact absurd hsame (by decide +kernel)

end Sys2Proof.Machine
end

section
/-! PROOFS. A write to a keyed register without the key, another host's port in Recovery (R289, R414). -/

set_option Elab.async false

namespace Sys2Proof.Machine

/-- The offset of SLC_WAYLOCK of slice 0, a keyed register. -/
def waylockOff : Nat := offSlc 0 0x40

/-- A write of that register by the host of HP0. -/
def waylockWrite : RAcc := { master := 0, off := BitVec.ofNat 58 waylockOff }

theorem recoveringHost_reaching : Reaching recoveringHost 0 := by constructor <;> decide +kernel

/-- After reset no master has the key, so the write is refused. -/
theorem recoveringHost_locked : keyOpen recoveringHost 0 = false := by decide +kernel

theorem waylock_keyed : (regAt waylockOff).keyed = true := by decide +kernel

theorem waylockWrite_inForm : accKind 0 waylockOff 4 true = 0 := by decide +kernel

/-- The CFG_DISCARD of the refused write raises the attention of HP1, whose MSI-X message waits for the end of Recovery. -/
theorem waylockWrite_holds_msix : heldAfter (.registerWrite waylockWrite) recoveringHost 1 = [.msix] := by decide +kernel

/-- Refutes O53: the CFG_DISCARD of a write without the key may raise MSI-X on another port that is in Recovery, and the message is then held in that
port (R289). -/
theorem not_registerAccessesComplete : ¬ Obligations.RegisterAccessesComplete := by
  intro h
  obtain ⟨-, -, -, -, -, -, -, -, hkeyed, -⟩ := h recoveringHost 0 { master := 0 } waylockWrite 0 (by decide +kernel) rfl rfl
  obtain ⟨t, he, -, -, -, -, -, -, -, -, hports⟩ :=
    hkeyed waylockOff recoveringHost_reaching rfl (by decide) waylockWrite_inForm rfl waylock_keyed recoveringHost_locked
  exact not_samePorts_of_heldAfter (q := 1) he (by rw [waylockWrite_holds_msix]; decide) hports

end Sys2Proof.Machine
end

section
/-! PROOFS. The stamp unit's stall event, and the commands that end a contract or leave a stamp group where there is none to end, with a CXL port
in Recovery (R233, R253, R255, R289). -/

set_option Elab.async false

namespace Sys2Proof.Machine

/-! ### A stall of the horizon -/

/-- The host of HP0 waits for an access with a stamp at the horizon of group 3. -/
def stampedPort : HPort := { HPort.reset with
  linkCtl := .mk1 0x19, link := .up, width := 2, rate := true, admOpen := true, stamped := true, floor := 5
  queue := [{ port := 0, etag := 0, op := .rdShared, stamp := some 5 }] }

/-- The device, alone in stamp group 3, whose horizon has not advanced for LIMIT µs while that access is outstanding. -/
def horizonStalls : State := { recoveringHost with
  hports := recoveringHost.hports.set 0 stampedPort
  stamp := { recoveringHost.stamp with
    member := true, group := 3, hzn := 5, settle := 5, stall := 100
    lists := [(3, { cur := [recoveringHost.node.node], next := [recoveringHost.node.node] })] } }

theorem horizonStalls_limit : horizonStalls.stamp.limit ≠ 0 := by decide +kernel

theorem horizonStalls_outstanding : stampedOut horizonStalls = true := by decide +kernel

/-- The stall event raises the attention of HP1, whose MSI-X message waits for the end of Recovery. -/
theorem stampStall_holds_msix : heldAfter .stampStall horizonStalls 1 = [.msix] := by decide +kernel

/-- Refutes O39: the stall event of R253 may raise MSI-X on a CXL port that is in Recovery, and the message is then held in that port (R289). -/
theorem not_horizonsAreCombined : ¬ Obligations.HorizonsAreCombined := by
  intro h
  obtain ⟨-, -, -, -, -, hstall, -⟩ :=
    h horizonStalls 0 0 0 0 0 0 ⟨0, 0, 0, 0⟩ 0 0 [] [] (by decide +kernel) (by decide +kernel)
  obtain ⟨hreported, -⟩ := hstall rfl horizonStalls_limit rfl
  obtain ⟨t, he, -, -, hports, -⟩ := hreported horizonStalls_outstanding
  exact not_samePorts_of_heldAfter (q := 1) he (by rw [stampStall_holds_msix]; decide) hports

/-! ### Commands with nothing to end -/

/-- The device with HP1 in Recovery and the word w posted in mailbox 0 of that port, the only one posted. -/
def postedInRecovery (w : W32) : State := { recoveringHost with
  mbx := Vector.replicate 4 Mbx.reset |>.set 1 (Mbx.reset.modAt 0 fun x => { x with inW := w, full := true }) }

/-- CONTRACT_REL with sequence 0x55. -/
def contractRelWord : W32 := 0x41550000

/-- STAMP_LEAVE with sequence 0x55. -/
def stampLeaveWord : W32 := 0x51550000

theorem postedInRecovery_sends (w : W32) : Sends (postedInRecovery w) := ⟨rfl, rfl⟩

theorem contractRelWord_posted : Posted (postedInRecovery contractRelWord) 1 0 0x41 0 := by constructor <;> decide +kernel

theorem stampLeaveWord_posted : Posted (postedInRecovery stampLeaveWord) 1 0 0x51 0 := by constructor <;> decide +kernel

/-- The CMD_DONE of the release, which finds no contract, raises the attention of HP1, whose MSI-X message waits for the end of Recovery. -/
theorem contractRel_holds_msix : heldAfter (.contractRel 1 0) (postedInRecovery contractRelWord) 1 = [.msix] := by decide +kernel

/-- The CMD_DONE of the leave, which finds the port in no group, raises the attention of HP1, whose MSI-X message waits for the end of Recovery. -/
theorem stampLeave_holds_msix : heldAfter (.stampLeave 1 0) (postedInRecovery stampLeaveWord) 1 = [.msix] := by decide +kernel

/-- Refutes O44: the CMD_DONE of a CONTRACT_REL of a port without a contract may raise MSI-X on its own port while that is in Recovery, and the
message is then held in the port (R289). -/
theorem not_contractsAreGranted : ¬ Obligations.ContractsAreGranted := by
  intro h
  obtain ⟨-, -, -, hnone, -⟩ := h (postedInRecovery contractRelWord) 0 1 0 ⟨1, none, .none, [], [], false⟩ 0 ⟨0, 0, 0, 0, 0⟩
    contractRelWord_posted.clk (postedInRecovery_sends _)
  obtain ⟨t, he, -, -, hmail⟩ := hnone contractRelWord_posted (by decide +kernel)
  exact not_samePorts_of_heldAfter (q := 1) he (by rw [contractRel_holds_msix]; decide) hmail.hports

/-- Refutes O45: the CMD_DONE of a STAMP_LEAVE of a port in no group may raise MSI-X on its own port while that is in Recovery, and the message is
then held in the port (R289). -/
theorem not_stampGroupsAreJoinedAndLeft : ¬ Obligations.StampGroupsAreJoinedAndLeft := by
  intro h
  obtain ⟨-, -, hleaves, -⟩ := h (postedInRecovery stampLeaveWord) 1 0 0 0 stampLeaveWord_posted.clk (postedInRecovery_sends _)
  obtain ⟨hnone, -⟩ := hleaves stampLeaveWord_posted
  obtain ⟨t, he, -, -, hmail⟩ := hnone (by decide +kernel)
  exact not_samePorts_of_heldAfter (q := 1) he (by rw [stampLeave_holds_msix]; decide) hmail.hports

end Sys2Proof.Machine
end

section
/-! PROOFS. Heartbeats and reports on the fabric links, and the loss and training of a link (R309, R311, R312, R315, R323, R459). -/

set_option Elab.async false

namespace Sys2Proof.Machine

/-! ### What leaves on the links -/

/-- The links that carry traffic, but for one that is left out. -/
def linksBut (but : Option FPortNo) (s : State) : List FPortNo := fportNos.filter (fun f => decide (some f ≠ but) && (s.fp f).carries)

theorem linksBut_none (s : State) : linksBut none s = fportNos.filter (fun f => (s.fp f).carries) :=
  List.filter_congr fun f _ => by simp

theorem linksBut_some (f : FPortNo) (s : State) : linksBut (some f) s = fportNos.filter (fun g => decide (g ≠ f) && (s.fp g).carries) :=
  List.filter_congr fun g _ => by simp

/-- Of the links that carry traffic, a port that does not is none. -/
theorem linksBut_of_only {s t : State} {f : FPortNo} (h : (t.fp f).carries = false) (ho : ∀ g : FPortNo, g ≠ f → t.fp g = s.fp g) :
    linksBut none t = linksBut (some f) s := by
  rw [linksBut_none, linksBut_some]
  refine List.filter_congr fun g _ => ?_
  by_cases e : g = f
  · subst e; simp [h]
  · simp [e, ho g e]

section
variable {s : State} (h : s.fabric.stopped = false)
include h

theorem sendVc4_of_sends (f : FPortNo) (m : Vc4) : sendVc4 f m s = s.emit (.vc4 f m) := by simp [sendVc4, h]

theorem each_sendVc4_of_sends (m : Vc4) (l : List FPortNo) :
    s.each l (fun s f => sendVc4 f m s) = { s with out := s.out ++ l.map (fun f => .vc4 f m) } := by
  induction l generalizing s with
  | nil => simp
  | cons f t ih =>
    rw [show s.each (f :: t) (fun s f => sendVc4 f m s) = (sendVc4 f m s).each t (fun s f => sendVc4 f m s) from rfl, sendVc4_of_sends h,
      ih (s := s.emit (.vc4 f m)) h]
    simp [State.emit]

theorem flood_of_sends (but : Option FPortNo) (m : Vc4) :
    flood but m s = { s with out := s.out ++ (linksBut but s).map (fun f => .vc4 f m) } :=
  each_sendVc4_of_sends h m _

end

/-! ### Heartbeats (R309, R311) -/

/-- The neighbour's next heartbeat is awaited. -/
def FPort.unseen (x : FPort) : FPort := { x with hbSeen := false }

/-- A heartbeat left on each of some links. -/
def beat (l : List FPortNo) (s : State) : State :=
  s.each l (fun s f => sendVc4 f (.heartbeat s.gen.time s.node.dist) (s.modFp f FPort.unseen))

/-- What heartbeats change: what leaves, and the ports of their links. -/
theorem beat_spec {l : List FPortNo} (hn : l.Nodup) {s : State} (h : s.fabric.stopped = false) :
    (beat l s).out = s.out ++ l.map (fun f => .vc4 f (.heartbeat s.gen.time s.node.dist)) ∧
    (∀ g : FPortNo, (beat l s).fp g = if g ∈ l then (s.fp g).unseen else s.fp g) ∧
    (beat l s).slices = s.slices ∧ (beat l s).home = s.home := by
  induction l generalizing s with
  | nil => exact ⟨(List.append_nil _).symm, fun _ => rfl, rfl, rfl⟩
  | cons f t ih =>
    obtain ⟨hft, ht⟩ := List.nodup_cons.1 hn
    have hcons : beat (f :: t) s = beat t ((s.modFp f FPort.unseen).emit (.vc4 f (.heartbeat s.gen.time s.node.dist))) :=
      congrArg (beat t) (sendVc4_of_sends (s := s.modFp f FPort.unseen) h _ _)
    obtain ⟨hout, hfp, hsl, hhome⟩ := ih ht (s := (s.modFp f FPort.unseen).emit (.vc4 f (.heartbeat s.gen.time s.node.dist))) h
    rw [hcons]
    refine ⟨hout.trans (List.append_assoc ..), fun g => ?_, hsl, hhome⟩
    rw [hfp, State.emit_fp]
    by_cases e : g = f
    · subst e; simp [hft]
    · simp [e, State.modFp_fp_other _ _ e]

theorem heartbeatOut_of_healthy {s : State} (h : s.fw.st ≠ .stopped) : heartbeatOut s = beat (linksBut none s) s := by
  rw [linksBut_none, heartbeatOut, if_neg (by simp [healthy, h])]
  rfl

theorem heartbeatOut_of_stopped {s : State} (h : s.fw.st = .stopped) : heartbeatOut s = stopFabric s := by simp [heartbeatOut, healthy, h]

/-- The buffer of a VC4 packet is a fabric port's, and its length a free value. -/
theorem gotVc4_eq (f : FPortNo) (s : State) : gotVc4 f s = { s with fports := (gotVc4 f s).fports, freeCtr := (gotVc4 f s).freeCtr } := by
  obtain ⟨fp, h⟩ := bufferFreed_eq f (8 + (if isWrap s.node s.node.node f then 1 else 0)) (((mgmtWords s).toNat + 1) / 2) 0 s
  rw [gotVc4, h]
  rfl

/-- A buffer given back leaves every port's link as it is. -/
theorem bufferFreed_link (i : FPortNo) (c cost n : Nat) (s : State) (g : FPortNo) : ((bufferFreed i c cost n s).fp g).link = (s.fp g).link := by
  unfold bufferFreed
  extract_lets held pool
  split
  · by_cases e : g = i
    · subst e; rw [State.modFp_fp]
    · rw [State.modFp_fp_other _ _ e]
  · rfl

@[simp] theorem gotVc4_fabric (f : FPortNo) (s : State) : (gotVc4 f s).fabric = s.fabric := by rw [gotVc4_eq]
@[simp] theorem gotVc4_out (f : FPortNo) (s : State) : (gotVc4 f s).out = s.out := by rw [gotVc4_eq]
@[simp] theorem gotVc4_gen (f : FPortNo) (s : State) : (gotVc4 f s).gen = s.gen := by rw [gotVc4_eq]
@[simp] theorem gotVc4_node (f : FPortNo) (s : State) : (gotVc4 f s).node = s.node := by rw [gotVc4_eq]
@[simp] theorem gotVc4_slices (f : FPortNo) (s : State) : (gotVc4 f s).slices = s.slices := by rw [gotVc4_eq]
@[simp] theorem gotVc4_home (f : FPortNo) (s : State) : (gotVc4 f s).home = s.home := by rw [gotVc4_eq]

theorem gotVc4_link (f g : FPortNo) (s : State) : ((gotVc4 f s).fp g).link = (s.fp g).link := bufferFreed_link ..

theorem linksBut_congr {s t : State} (h : ∀ g : FPortNo, (t.fp g).link = (s.fp g).link) (but : Option FPortNo) : linksBut but t = linksBut but s :=
  List.filter_congr fun g _ => by rw [FPort.carries, FPort.carries, h g]

section
variable {s : State} {f : FPortNo} (hc : (s.fp f).carries = true) {s1 : State}
  {time delay : W64} {dist : BitVec 7} (h1 : s1 = (gotVc4 f s).setFp f { (gotVc4 f s).fp f with hbSeen := true, hbDist := dist })
include hc h1

theorem heartbeatIn_eq : heartbeatIn f time dist delay s = if timeParent s1 = some f then
    { s1 with gen := { s1.gen with time := time + delay }, node := { s1.node with dist := if dist.toNat < 0x7E then dist + 1 else 0x7F } } else s1 := by
  rw [heartbeatIn, if_neg (by simp [hc]), h1]
  rfl

theorem heartbeatIn_of_parent (hp : timeParent s1 = some f) : heartbeatIn f time dist delay s = { s1 with
    gen := { s.gen with time := time + delay }, node := { s.node with dist := if dist.toNat < 0x7E then dist + 1 else 0x7F } } := by
  have hgen : s1.gen = s.gen := by rw [h1, State.setFp_gen, gotVc4_gen]
  have hnode : s1.node = s.node := by rw [h1, State.setFp_node, gotVc4_node]
  rw [heartbeatIn_eq hc h1, if_pos hp, hgen, hnode]

theorem heartbeatIn_of_other (hp : timeParent s1 ≠ some f) : heartbeatIn f time dist delay s = s1 := by
  rw [heartbeatIn_eq hc h1, if_neg hp]

end

/-! ### Lost links (R311, R312, R459) -/

/-- A report noted is among the last 256, and only they change. -/
theorem noteReport_spec (r : NodeId × NodeId × W64) (s : State) : ∃ l : List (NodeId × NodeId × W64),
    noteReport r s = { s with fabric := { s.fabric with reports := l } } ∧ r ∈ l ∧ l.length ≤ 256 := by
  refine ⟨(s.fabric.reports ++ [r]).drop ((s.fabric.reports ++ [r]).length - 256), by simp only [noteReport], ?_, ?_⟩
  · rw [List.drop_append_of_le_length (by simp)]
    simp
  · rw [List.length_drop]
    omega

/-- The port of a link that has been lost. -/
def FPort.cut (x : FPort) (t : W64) : FPort := { x with link := .lost, loss := t, lostRep := true }

/-- The device after the loss of a link: the port, the report kept and sent, and the pause. -/
theorem loseLink_of_live {s : State} {f : FPortNo} {c : LossCause} (hs : s.fabric.stopped = false) (hc : (s.fp f).carries = true)
    (hh : (s.fp f).held = false) (hl : c ≠ .replayLimit) (hd : isDead s.fabric (s.fp f).neigh = false) :
    ∃ fb : Fabric, loseLink f c s = { s.setFp f ((s.fp f).cut s.gen.time) with
        fabric := fb
        out := s.out ++ (linksBut (some f) s).map (fun g => .vc4 g (.linklost s.node.node (s.fp f).neigh s.gen.time)) } ∧
      (s.node.node, (s.fp f).neigh, s.gen.time) ∈ fb.reports ∧
      fb.pause = (if (s.fp f).neigh.toNat < s.node.node.toNat then some (f, s.gen.time) else s.fabric.pause) := by
  obtain ⟨l, hnote, hmem, -⟩ := noteReport_spec (s.node.node, (s.fp f).neigh, s.gen.time) (s.setFp f ((s.fp f).cut s.gen.time))
  have hlinks : linksBut none { s.setFp f ((s.fp f).cut s.gen.time) with fabric := { s.fabric with reports := l } } = linksBut (some f) s :=
    linksBut_of_only (congrArg FPort.carries (State.setFp_fp s f _)) fun g hg => State.setFp_fp_other s _ hg
  have hflood : flood none (.linklost s.node.node (s.fp f).neigh s.gen.time)
      (noteReport (s.node.node, (s.fp f).neigh, s.gen.time) (s.setFp f ((s.fp f).cut s.gen.time))) = { s.setFp f ((s.fp f).cut s.gen.time) with
        fabric := { s.fabric with reports := l }
        out := s.out ++ (linksBut (some f) s).map (fun g => .vc4 g (.linklost s.node.node (s.fp f).neigh s.gen.time)) } := by
    rw [hnote, flood_of_sends (by exact hs), ← hlinks]
    rfl
  have hlose (t : State) (ht : flood none (.linklost s.node.node (s.fp f).neigh s.gen.time)
      (noteReport (s.node.node, (s.fp f).neigh, s.gen.time) (s.setFp f ((s.fp f).cut s.gen.time))) = t) :
      loseLink f c s = if (s.fp f).neigh.toNat < s.node.node.toNat then { t with fabric := { t.fabric with pause := some (f, s.gen.time) } } else t := by
    rw [loseLink, if_neg (by simp [hc, hh, hl]), ← ht]
    exact if_neg (by simp [hd])
  rw [hlose _ hflood]
  split
  · exact ⟨_, rfl, hmem, rfl⟩
  · exact ⟨_, rfl, hmem, rfl⟩

theorem loseLink_of_held {s : State} {f : FPortNo} (hh : (s.fp f).held = true) (c : LossCause) : loseLink f c s = s := by
  simp [loseLink, hh]

section
variable {s : State} {n p : NodeId} {t0 : W64} (f : FPortNo)

theorem linklostIn_of_known (h : s.fabric.reports.contains (n, p, t0) = true) : linklostIn f n p t0 s = gotVc4 f s := by
  rw [linklostIn]
  exact if_pos (by rw [gotVc4_fabric]; exact h)

/-- A new report is kept, and goes on. -/
theorem linklostIn_of_new (hs : s.fabric.stopped = false) (h : s.fabric.reports.contains (n, p, t0) = false) :
    ∃ l : List (NodeId × NodeId × W64), linklostIn f n p t0 s = { gotVc4 f s with
        fabric := { s.fabric with reports := l }, out := s.out ++ (linksBut (some f) s).map (fun g => .vc4 g (.linklost n p t0)) } ∧
      (n, p, t0) ∈ l ∧ l.length ≤ 256 := by
  obtain ⟨l, hnote, hl⟩ := noteReport_spec (n, p, t0) (gotVc4 f s)
  have hlinks : linksBut (some f) { gotVc4 f s with fabric := { (gotVc4 f s).fabric with reports := l } } = linksBut (some f) s :=
    linksBut_congr (gotVc4_link f · s) _
  refine ⟨l, ?_, hl⟩
  unfold linklostIn
  extract_lets s1
  rw [if_neg (by rw [gotVc4_fabric, h]; exact Bool.false_ne_true), hnote, flood_of_sends (by rw [gotVc4_fabric]; exact hs), hlinks, gotVc4_out, gotVc4_fabric]

end

theorem warmIn_of_drain {s : State} {f : FPortNo} (hc : (s.fp f).carries = true) (hd : s.crp.phase = .warmDrain) :
    warmIn f s = s.setFp f { s.fp f with held := true } := by
  simp [warmIn, hc, hd, State.modFp]

/-! ### The training of a link (R315) -/

/-- A port whose link has trained toward a node, for all traffic or for that of management. -/
def FPort.trained (x : FPort) (n : NodeId) (mgmt : Bool) : FPort := { x with
  link := if mgmt then .upMgmt else .up
  neigh := n, txSeq := 0, rxNext := 0, unacked := [], askRep := false, credits := Vector.replicate 12 32, pool := 5760, rest := [], run := 0,
  vc5Gap := 0, owe := [], hbSeen := false, hbDist := 0x7F, held := false, lostRep := false }

theorem fabricTrained_of_training {s : State} {f : FPortNo} (n : NodeId) (h : (s.fp f).link = .training ∨ (s.fp f).link = .lost)
    (he : (s.fp f).en = true) : ∃ fb : Fabric, fabricTrained f n s =
      { s.setFp f ((s.fp f).trained n (isDead s.fabric n || isDead s.fabric s.node.node)) with fabric := fb } := by
  rw [fabricTrained, if_pos (by simpa [he] using h)]
  exact ⟨_, rfl⟩

theorem fabricTrained_of_up {s : State} {f : FPortNo} (n : NodeId) (h : (s.fp f).link = .up) : fabricTrained f n s = s := by
  simp [fabricTrained, h]

/-! ### The commands -/

/-- Settles O41: each command of the links has its effect on the port, the reports and what leaves. -/
theorem linksAreWatched : Obligations.LinksAreWatched := by
  intro s f c n p time delay t0 dist hk hs
  have hrun {g : State → State} {t : State} (h : g s = t) : onClock s g = .next t := by rw [onClock_run hk, h]
  refine ⟨fun hfw => ?_, fun hfw => ?_, fun hc s1 h1 => ⟨fun hp => ?_, fun hp => ?_⟩, fun hc hh hl hd => ?_, fun hh => ?_, fun hr => ?_, fun hr => ?_,
    fun hc hd => ?_, fun hl he => ?_, fun hl => ?_⟩
  · obtain ⟨hout, hfp, hrest⟩ := beat_spec (List.Nodup.filter _ (by decide)) (l := linksBut none s) hs
    refine ⟨_, hrun (heartbeatOut_of_healthy hfw), by rw [hout, linksBut_none], fun g => ?_, hrest⟩
    rw [hfp, linksBut_none]
    simp [(by decide : ∀ f, f ∈ fportNos) g, FPort.unseen]
  · exact hrun (heartbeatOut_of_stopped hfw)
  · exact hrun (heartbeatIn_of_parent hc h1 hp)
  · exact hrun (heartbeatIn_of_other hc h1 hp)
  · obtain ⟨fb, heq, hmem, hpause⟩ := loseLink_of_live hs hc hh hl hd
    refine ⟨_, hrun heq, State.setFp_fp .., fun g hg => State.setFp_fp_other s _ hg, hmem, ?_, hpause, rfl, rfl⟩
    rw [linksBut_some]
  · exact hrun (loseLink_of_held hh c)
  · exact hrun (linklostIn_of_known f hr)
  · obtain ⟨l, heq, hmem, hlen⟩ := linklostIn_of_new f hs hr
    refine ⟨_, hrun heq, hmem, hlen.trans (Nat.le_max_left ..), ?_, gotVc4_slices f s, gotVc4_home f s, rfl⟩
    rw [linksBut_some]
  · exact hrun (warmIn_of_drain hc hd)
  · obtain ⟨fb, heq⟩ := fabricTrained_of_training n hl he
    have hport : ({ s.setFp f ((s.fp f).trained n (isDead s.fabric n || isDead s.fabric s.node.node)) with fabric := fb } : State).fp f =
      (s.fp f).trained n (isDead s.fabric n || isDead s.fabric s.node.node) := State.setFp_fp ..
    refine ⟨_, hrun heq, ?_⟩
    rw [hport]
    exact ⟨rfl, rfl, rfl, rfl, rfl, rfl, rfl, fun g hg => State.setFp_fp_other s _ hg, rfl, rfl, rfl⟩
  · exact hrun (fabricTrained_of_up n hl)

end Sys2Proof.Machine
end

section
/-! PROOFS. Flits and packets of the switch: a flit received, transit, a broadcast and its combined answers, and the packet served next
(R298 to R300, R302 to R304, R306 to R308, R314). -/

set_option Elab.async false

namespace Sys2Proof.Machine

/-! ### Flits (R298 to R300) -/

theorem State.setFp_setFp (s : State) (f : FPortNo) (x y : FPort) : (s.setFp f x).setFp f y = s.setFp f y := by
  simp [State.setFp]

theorem State.modFp_modFp (s : State) (f : FPortNo) (g k : FPort → FPort) : (s.modFp f g).modFp f k = s.modFp f (fun x => k (g x)) := by
  rw [State.modFp, State.modFp_fp, State.modFp, State.setFp_setFp, State.modFp]

/-- An ACK and credits leave the number awaited as it is. -/
theorem FPort.rxNext_credited (x : FPort) (a : BitVec 10) (vc : BitVec 4) (n : BitVec 6) : ((x.acked a).credited vc n).rxNext = x.rxNext := by
  have hack : (x.acked a).rxNext = x.rxNext := by unfold FPort.acked; split <;> rfl
  rw [← hack]
  unfold FPort.credited
  split
  · rfl
  · split <;> rfl

/-- A good data flit in sequence is taken. -/
theorem flitIn_in_sequence {s : State} {f : FPortNo} {x : FlitIn} (hc : (s.fp f).carries = true) (hfec : x.fecUnc = false ∧ x.fecCor = false)
    (hcrc : x.crcOk = true) (hdata : x.replay = false ∧ x.ctrl = false) (hseq : x.seq = (s.fp f).rxNext) :
    flitIn f x s = s.setFp f { ((s.fp f).acked x.ack).credited x.crvc x.crcnt with rxNext := (s.fp f).rxNext + 1, askRep := false } := by
  obtain ⟨hunc, hcor⟩ := hfec
  obtain ⟨hrep, hctrl⟩ := hdata
  unfold flitIn
  simp only [hc, hunc, hcor, hcrc, hrep, hctrl, Bool.not_true, Bool.false_and, Bool.false_eq_true, false_and, if_false, State.modFp_fp,
    FPort.rxNext_credited, hseq, if_true, State.modFp_modFp]
  rw [State.modFp]

/-- A flit with an uncorrectable codeword is asked for again, and counted with the first flit of the pair. -/
theorem flitIn_uncorrectable {s : State} {f : FPortNo} {x : FlitIn} (hc : (s.fp f).carries = true) (hunc : x.fecUnc = true) :
    flitIn f x s = s.setFp f { s.fp f with fecUnc := (s.fp f).fecUnc + if x.slot = 0 then 1 else 0, askRep := true } := by
  rw [flitIn, if_neg (by simp [hc]), if_pos hunc, askReplay]
  split
  · rw [State.modFp_modFp, State.modFp]
  · rw [State.modFp, show (s.fp f).fecUnc + 0 = (s.fp f).fecUnc from BitVec.add_zero _]

/-! ### Transit (R306, R307, R314) -/

section
variable {s : State} {f o : FPortNo} {y : Packet} (hs : s.fabric.stopped = false) (hdst : y.dst ≠ s.node.node) (hplain : y.bcast = false ∧ y.comb = false)
  (hcls : y.cls.toNat ≤ 3) (hroute : routePort s.node s.node.node y.src y.dst = some o)
include hs hdst hplain hcls hroute

/-- What becomes of a packet for another node depends on the port of its route, and on its ends. -/
theorem transit_eq : transit f y s =
    if (s.fp o).gone || (isLost s.node s.fabric y.dst || isLost s.node s.fabric y.src) then
      pktFreed f y (s.modFp o (fun p => { p with discard := p.discard + 1 }))
    else (s.modFp o (fun p => { p with transit := p.transit + 1 })).emit (.pkt o (some (f, y.dl)) { y with dl := dlOut s (some f) o y.dl }) := by
  obtain ⟨hb, hcm⟩ := hplain
  have h4 : y.cls ≠ 4 := fun e => by rw [e] at hcls; exact absurd hcls (by decide)
  have h5 : ¬ 5 < y.cls.toNat := by omega
  rw [transit, if_neg (by simp only [hs, hdst, hb, hcm, h4, h5, decide_false, Bool.or_self, Bool.false_eq_true, not_false_eq_true]), hroute]
  simp only [hcls, decide_true, Bool.true_and]

theorem transit_forwards (hup : (s.fp o).gone = false) (hl : isLost s.node s.fabric y.dst = false) (hl' : isLost s.node s.fabric y.src = false) :
    transit f y s = { s.setFp o { s.fp o with transit := (s.fp o).transit + 1 } with
      out := s.out ++ [.pkt o (some (f, y.dl)) { y with dl := dlOut s (some f) o y.dl }] } := by
  rw [transit_eq hs hdst hplain hcls hroute, if_neg (by simp [hup, hl, hl'])]
  rfl

theorem transit_discards (h : (s.fp o).gone = true ∨ isLost s.node s.fabric y.dst = true ∨ isLost s.node s.fabric y.src = true) :
    transit f y s = pktFreed f y (s.setFp o { s.fp o with discard := (s.fp o).discard + 1 }) := by
  rw [transit_eq hs hdst hplain hcls hroute, if_pos (by simpa using h)]
  rfl

end

/-! ### A broadcast and its answers (R308) -/

theorem originate_of_sends {s : State} (hs : s.fabric.stopped = false) (hp : s.fabric.pause = none) (o : Out) : originate o s = s.emit o := by
  simp [originate, hs, hp]

/-- A combining entry's answer leaves up the tree, with the members that have answered. -/
theorem combSend_of_sends {s : State} (hs : s.fabric.stopped = false) (hp : s.fabric.pause = none) (e : Comb) :
    ∃ b : BMsg, combSend e s = s.emit (.comb (bcUp s e.msg.src) b (e.count s)) ∧
      b.dst = e.msg.src ∧ b.htid = e.msg.htid ∧ b.laddr = e.msg.laddr := by
  unfold combSend
  extract_lets m a
  refine ⟨a, ?_, rfl, rfl, rfl⟩
  split
  · next h => rw [h]
  · next n h => rw [h, originate_of_sends hs hp]

section
variable {s : State} {m : BMsg} {y : Packet} (hs : s.fabric.stopped = false) (hlost : isLost s.node s.fabric m.src = false)
  (hp : s.fabric.pause = none) (hc : s.fabric.combs = []) (hq : s.fabric.bcastQ = []) (hy : y.msg = m)
include hs hlost hp hc hq hy

omit hp in
/-- With nothing waiting a broadcast is replicated as it comes. -/
theorem bcArrive_of_room : bcArrive none y s = bcRun none y s := by
  rw [bcArrive, if_neg (by simp [hs]), if_neg (by simp [hy, hlost]), if_pos (by simp [combRoom, hc, hq])]

theorem bcArrive_covering_nothing (hb : bcBelow s m = []) : ∃ b : BMsg, bcArrive none y s = s.emit (.comb (bcUp s m.src) b 0) ∧
    b.dst = m.src ∧ b.htid = m.htid ∧ b.laddr = m.laddr := by
  rw [bcArrive_of_room hs hlost hc hq hy, bcRun]
  simp only [hs, hy, hb, Bool.false_eq_true, if_false, List.isEmpty_nil, if_true]
  exact combSend_of_sends hs hp ⟨m, [], 0⟩

omit hp in
theorem bcArrive_covering_here (hb : bcBelow s m = [s.node.node]) : bcArrive none y s = { s with
    fabric := { s.fabric with combs := [⟨m, [], 0⟩] }
    out := s.out ++ [.msg .bInv { m with dst := s.node.node, dstu := unitOf (sliceOf m.laddr) }] } := by
  have hnone : fportNos.filter (fun g => [s.node.node].any fun x => decide (x ≠ s.node.node) && decide (routePort s.node s.node.node m.src x = some g)) = [] :=
    List.filter_eq_nil_iff.2 fun g _ => by simp
  rw [bcArrive_of_room hs hlost hc hq hy, bcRun]
  simp only [hs, hy, hb, hc, hnone, Bool.false_eq_true, if_false, List.isEmpty_cons, State.each_nil, List.nil_append, List.contains_cons, beq_self_eq_true,
    Bool.true_or, if_true]
  rfl

end

/-- The state with other combining entries. -/
def withCombs (l : List Comb) (s : State) : State := { s with fabric := { s.fabric with combs := l } }

/-- The combining entries whose count is complete. -/
def combsDone (s : State) : List Comb := s.fabric.combs.filter (fun e => decide ((bcBelow s e.msg).length ≤ e.count s))

/-- With no broadcast waiting, a flush is the answers of the complete entries, which are gone. -/
theorem combFlush_of_none_waiting {s t : State} (hs : s.fabric.stopped = false)
    (ht : (withCombs (s.fabric.combs.filter (fun e => !(combsDone s).contains e)) s).each (combsDone s) (fun s e => combSend e s) = t)
    (hq : t.fabric.bcastQ = []) : combFlush s = t := by
  rw [combFlush, if_neg (by simp [hs])]
  refine (congrArg (fun t : State => bcPump t.fabric.bcastQ.length t) ht).trans ?_
  rw [hq]
  rfl

section
variable {s : State} {e : Comb} (hs : s.fabric.stopped = false) (hc : s.fabric.combs = [e])
include hs hc

/-- An entry whose count is complete is answered, and gone. -/
theorem combFlush_complete (hp : s.fabric.pause = none) (hq : s.fabric.bcastQ = []) (hn : (bcBelow s e.msg).length ≤ e.count s) :
    ∃ b : BMsg, combFlush s = (withCombs [] s).emit (.comb (bcUp s e.msg.src) b (e.count s)) ∧
      b.dst = e.msg.src ∧ b.htid = e.msg.htid ∧ b.laddr = e.msg.laddr := by
  obtain ⟨b, hsend, hb⟩ := combSend_of_sends (s := withCombs [] s) hs hp e
  have hdone : combsDone s = [e] := by simp [combsDone, hc, hn]
  have hrest : s.fabric.combs.filter (fun e => !(combsDone s).contains e) = [] := by simp [hdone, hc]
  exact ⟨b, combFlush_of_none_waiting hs (by rw [hrest, hdone]; exact hsend) hq, hb⟩

theorem combFlush_incomplete (hq : s.fabric.bcastQ = []) (hn : e.count s < (bcBelow s e.msg).length) : combFlush s = s := by
  have hdone : combsDone s = [] := by simp [combsDone, hc, hn]
  have hall : s.fabric.combs.filter (fun e => !([] : List Comb).contains e) = s.fabric.combs := List.filter_eq_self.2 fun _ _ => rfl
  exact combFlush_of_none_waiting hs (by rw [hdone, hall]; rfl) hq

end

section
variable {s s1 : State} {m : BMsg} {e e' : Comb} {cnt : Nat} (hs : s.fabric.stopped = false)
  (h1 : s1 = gotPkt m.src 2 (packetWords .invAck m) s) (hc : s.fabric.combs = [e]) (hq : s.fabric.bcastQ = [])
  (hl : isLost s.node s.fabric m.dst = false ∧ isLost s.node s.fabric m.src = false)
  (hmine : e.msg.src = m.dst ∧ e.msg.htid = m.htid ∧ e.msg.laddr = m.laddr)
  (he : e' = { e with got := spMod 0 m.src.toNat (· + cnt) e.got, allow := max e.allow m.allow })
include hs h1 hc hq hl hmine he

omit hs hq in
/-- An answer counts in its entry, and the entry goes on when it is complete. -/
theorem combGot_eq : combGot m cnt s = combFlush { s1 with fabric := { s.fabric with combs := [e'] } } := by
  obtain ⟨hsrc, hhtid, hline⟩ := hmine
  obtain ⟨fp, hgot⟩ := gotPkt_eq m.src 2 (packetWords .invAck m) s
  rw [h1, combGot, hgot]
  simp only [hl.1, hl.2, Bool.or_self, Bool.false_eq_true, if_false, hc, modFirst, hsrc, hhtid, hline, decide_true, Bool.and_self, if_true, he]

theorem combGot_complete (hp : s.fabric.pause = none) (hn : (bcBelow s e.msg).length ≤ e'.count s) :
    ∃ b : BMsg, combGot m cnt s = ({ s1 with fabric := { s.fabric with combs := [] } } : State).emit (.comb (bcUp s e.msg.src) b (e'.count s)) ∧
      b.dst = e.msg.src ∧ b.htid = m.htid ∧ b.laddr = m.laddr := by
  have hmsg : e'.msg = e.msg := by rw [he]
  have heq := combGot_eq h1 hc hl hmine he
  obtain ⟨fp, hgot⟩ := gotPkt_eq m.src 2 (packetWords .invAck m) s
  rw [hgot] at h1
  subst h1
  obtain ⟨b, hflush, hdst, hhtid, hline⟩ := combFlush_complete (s := { s with fports := fp, fabric := { s.fabric with combs := [e'] } }) hs rfl hp hq
    (by rw [hmsg]; exact hn)
  rw [hmsg] at hflush hdst hhtid hline
  exact ⟨b, heq.trans hflush, hdst, hhtid.trans hmine.2.1, hline.trans hmine.2.2⟩

theorem combGot_incomplete (hn : e'.count s < (bcBelow s e.msg).length) :
    combGot m cnt s = { s1 with fabric := { s.fabric with combs := [e'] } } := by
  have hmsg : e'.msg = e.msg := by rw [he]
  have heq := combGot_eq h1 hc hl hmine he
  obtain ⟨fp, hgot⟩ := gotPkt_eq m.src 2 (packetWords .invAck m) s
  rw [hgot] at h1
  subst h1
  exact heq.trans (combFlush_incomplete (s := { s with fports := fp, fabric := { s.fabric with combs := [e'] } }) hs rfl hq (by rw [hmsg]; exact hn))

end

/-! ### The packet served next (R302, R304) -/

/-- What a channel may send now: its next packet, where the link carries the class and there are credits. -/
def FPort.ready (p : FPort) (c : Nat) : Option TxPkt := if p.passes c then (p.nextOf c).filter p.canSend else none

theorem FPort.ready_eq_some {p : FPort} {c : Nat} {z : TxPkt} :
    p.ready c = some z ↔ p.passes c = true ∧ p.nextOf c = some z ∧ p.canSend z = true := by
  unfold FPort.ready
  split
  · next h => simp [h, Option.filter_eq_some_iff]
  · next h => simp [h]

/-- The channels in the order they are served in. -/
def serveOrder (owed : Bool) : List Nat := (if owed then [11, 10] else []) ++ chanOrder

theorem FPort.pick_eq (p : FPort) (owed : Bool) : p.pick owed = (serveOrder owed).findSome? p.ready := rfl

theorem serveOrder_lt {owed : Bool} {c : Nat} (h : c ∈ serveOrder owed) : c < 12 := by
  revert c
  cases owed <;> decide

/-- A channel's next packet waits in the port, on that channel. -/
theorem FPort.nextOf_spec {p : FPort} {c : Nat} {z : TxPkt} (h : p.nextOf c = some z) : z ∈ p.txq ∧ z.chan = c := by
  obtain ⟨n, -, hfind⟩ := List.exists_of_findSome?_eq_some h
  have htest := List.find?_some hfind
  simp only [Bool.and_eq_true, decide_eq_true_eq] at htest
  exact ⟨List.mem_of_find?_eq_some hfind, htest.1⟩

theorem FPort.pick_spec {p : FPort} {owed : Bool} {z : TxPkt} (h : p.pick owed = some z) : z ∈ p.txq ∧ z.chan < 12 ∧ p.canSend z = true := by
  obtain ⟨c, hc, hready⟩ := List.exists_of_findSome?_eq_some ((p.pick_eq owed).symm.trans h)
  obtain ⟨-, hnext, hsend⟩ := FPort.ready_eq_some.1 hready
  obtain ⟨hmem, rfl⟩ := FPort.nextOf_spec hnext
  exact ⟨hmem, serveOrder_lt hc, hsend⟩

/-- With a packet ready on one of the channels served first, the packet served is of those. -/
theorem FPort.pick_first {p : FPort} {owed : Bool} {z : TxPkt} (h : p.pick owed = some z) {first rest : List Nat} (ho : serveOrder owed = first ++ rest)
    {c : Nat} (hc : c ∈ first) {n : TxPkt} (hn : p.ready c = some n) : z.chan ∈ first := by
  rw [FPort.pick_eq, ho, List.findSome?_append] at h
  obtain ⟨y, hy⟩ := Option.isSome_iff_exists.1 (List.findSome?_isSome_iff (f := p.ready).2 ⟨c, hc, by rw [hn]; rfl⟩)
  rw [hy, Option.some_or] at h
  obtain rfl : y = z := Option.some.inj h
  obtain ⟨d, hd, hready⟩ := List.exists_of_findSome?_eq_some hy
  obtain ⟨-, hnext, -⟩ := FPort.ready_eq_some.1 hready
  obtain ⟨-, rfl⟩ := FPort.nextOf_spec hnext
  exact hd

/-- The class of a packet is that of its channel. -/
theorem TxPkt.cls_of_chan {z : TxPkt} {k : BitVec 3} (h : z.chan ∈ [2 * k.toNat + 1, 2 * k.toNat]) : z.hdr.cls = k := by
  refine BitVec.eq_of_toNat_eq ?_
  simp only [TxPkt.chan, List.mem_cons, List.not_mem_nil, or_false] at h
  split at h <;> omega

/-- A packet that can be sent spends credits of its channel and of the pool, its cost in all. -/
theorem FPort.takePkt_credits {p : FPort} {z : TxPkt} (hz : z.chan < 12) (hs : p.canSend z = true) :
    vget (p.takePkt z).credits z.chan 0 + (p.takePkt z).pool + z.cost = vget p.credits z.chan 0 + p.pool := by
  have hcost : z.cost ≤ vget p.credits z.chan 0 + p.pool := of_decide_eq_true hs
  have hown : vget (p.takePkt z).credits z.chan 0 = vget p.credits z.chan 0 - min z.cost (vget p.credits z.chan 0) := vget_vset_same _ _ _ _ hz
  have hpool : (p.takePkt z).pool = p.pool - (z.cost - min z.cost (vget p.credits z.chan 0)) := rfl
  omega

theorem FPort.takePkt_credits_other (p : FPort) (z : TxPkt) {c : Nat} (h : c ≠ z.chan) : vget (p.takePkt z).credits c 0 = vget p.credits c 0 :=
  vget_vset_other _ _ _ h

/-! ### The commands -/

/-- Settles O40: each command has its effect on the port, the combining entry and what leaves; the packet served is the first that is ready. -/
theorem packetsCrossTheSwitch : Obligations.PacketsCrossTheSwitch := by
  intro s f o x y m e e' cnt hk hs
  have hrun {g : State → State} {t : State} (h : g s = t) : onClock s g = .next t := by rw [onClock_run hk, h]
  refine ⟨fun hc hunc hcor hcrc hrep hctrl hseq => ?_, fun hc hunc => ?_, fun hdst hb hcm hcls hroute => ⟨fun hup hl hl' => ?_, fun h => ?_⟩,
    fun hl hp hc hq hy => ⟨fun hb => ?_, fun hb => ?_⟩, fun s1 h1 hp hc hq hl hl' hsrc hhtid hline he => ⟨fun hn => ?_, fun hn => ?_⟩,
    fun owed z q hqf hz => ?_⟩
  · exact hrun (flitIn_in_sequence hc ⟨hunc, hcor⟩ hcrc ⟨hrep, hctrl⟩ hseq)
  · exact hrun (flitIn_uncorrectable hc hunc)
  · exact hrun (transit_forwards hs hdst ⟨hb, hcm⟩ hcls hroute hup hl hl')
  · exact hrun (transit_discards hs hdst ⟨hb, hcm⟩ hcls hroute h)
  · obtain ⟨b, heq, hspec⟩ := bcArrive_covering_nothing hs hl hp hc hq hy hb
    exact ⟨_, b, hrun heq, rfl, rfl, hspec⟩
  · exact hrun (bcArrive_covering_here hs hl hc hq hy hb)
  · obtain ⟨b, heq, hspec⟩ := combGot_complete hs h1 hc hq ⟨hl, hl'⟩ ⟨hsrc, hhtid, hline⟩ he hp hn
    have hout : s1.out = s.out := by
      obtain ⟨fp, hgot⟩ := gotPkt_eq m.src 2 (packetWords .invAck m) s
      rw [h1, hgot]
    exact ⟨_, b, hrun heq, rfl, congrArg (· ++ _) hout, hspec⟩
  · exact hrun (combGot_incomplete hs h1 hc hq ⟨hl, hl'⟩ ⟨hsrc, hhtid, hline⟩ he hn)
  · obtain ⟨hmem, hchan, hsend⟩ := FPort.pick_spec hz
    refine ⟨hmem, of_decide_eq_true hsend, FPort.takePkt_credits hchan hsend, fun c hc => q.takePkt_credits_other z hc, fun c n hpass hnext hcan => ?_⟩
    have hready : q.ready c = some n := FPort.ready_eq_some.2 ⟨hpass, hnext, hcan⟩
    refine ⟨?_, ?_⟩
    · rintro rfl hc
      exact TxPkt.cls_of_chan (k := 5) (FPort.pick_first hz (first := [11, 10]) rfl (by simpa [or_comm] using hc) hready)
    · rintro rfl hc
      exact TxPkt.cls_of_chan (k := 4) (FPort.pick_first hz (first := [9, 8]) rfl (by simpa [or_comm] using hc) hready)

end Sys2Proof.Machine
end

section
/-! PROOFS. A host link that trains, recovers and goes down, and the walk over the HP bits of its port (R212, R288, R289, R297, R320, R414, R417). -/

set_option Elab.async false

namespace Sys2Proof.Machine

/-! ### What events and notices leave of the ports -/

/-- A port without what events, notices and discarded requests change of it; a message to a host whose port is going down is not held. -/
def HPort.core (h : HPort) : HPort := { h with
  accs := [], half := [], halves := [], outst := 0, ctrRel := false, quarCnt := 0, quarWait := false, msixLive := false
  heldOut := if h.link = .downBusy then h.heldOut else [] }

/-- From s to t the slices, the general registers and the core of every port stay as they are. -/
structure PortSide (s t : State) : Prop where
  slices : t.slices = s.slices
  gen    : t.gen = s.gen
  ports  : ∀ q : Port, (t.hp q).core = (s.hp q).core

namespace PortSide

theorem refl (s : State) : PortSide s s := ⟨rfl, rfl, fun _ => rfl⟩

theorem trans {s t u : State} (h : PortSide s t) (h' : PortSide t u) : PortSide s u :=
  ⟨h'.slices.trans h.slices, h'.gen.trans h.gen, fun q => (h'.ports q).trans (h.ports q)⟩

theorem each {α : Type} {f : State → α → State} (hf : ∀ s x, PortSide s (f s x)) (l : List α) (s : State) : PortSide s (s.each l f) := by
  induction l generalizing s with
  | nil => exact .refl s
  | cons x t ih => exact (hf s x).trans (ih (f s x))

/-- A change of a port that keeps its core. -/
theorem setHp {s : State} {p : Port} {h : HPort} (hc : h.core = (s.hp p).core) : PortSide s (s.setHp p h) := by
  refine ⟨rfl, rfl, fun q => ?_⟩
  by_cases e : q = p
  · rw [e, State.setHp_hp, hc]
  · rw [State.setHp_hp_other _ _ e]

/-- The same change of a port, of its core alone, on both sides. -/
theorem modHp_both {s t : State} (h : PortSide s t) (p : Port) {f : HPort → HPort} (hf : ∀ x, (f x).core = f x.core) :
    PortSide (s.modHp p f) (t.modHp p f) := by
  refine ⟨h.slices, h.gen, fun q => ?_⟩
  by_cases e : q = p
  · rw [e, State.modHp_hp, State.modHp_hp, hf, h.ports p, ← hf]
  · rw [State.modHp_hp_other _ _ e, State.modHp_hp_other _ _ e, h.ports q]

section
variable {s t : State} (h : PortSide s t)
include h

theorem sl (i : SliceNo) : t.sl i = s.sl i := by rw [State.sl, h.slices]; rfl

/-- What the core keeps of a port stays. -/
theorem kept {α : Type} (f : HPort → α) (hf : ∀ x, f x.core = f x) (q : Port) : f (t.hp q) = f (s.hp q) := by
  rw [← hf, h.ports q, hf]

end

end PortSide

theorem toHost_portSide (p : Port) (m : ToHost) (s : State) : PortSide s (toHost p m s) := by
  cases h : (s.hp p).link with
  | up => rw [toHost_of_up h]; exact ⟨rfl, rfl, fun _ => rfl⟩
  | recovery => rw [toHost_of_recovery h]; exact .setHp (by simp [HPort.core, h])
  | down | training | downBusy => simpa [toHost, h] using PortSide.refl s

theorem msixCheck_portSide (p : Port) (s : State) : PortSide s (msixCheck p s) := by
  unfold msixCheck
  extract_lets h l s1
  have h1 : PortSide s s1 := by
    unfold s1
    split
    · exact toHost_portSide p _ s
    · exact .refl s
  split
  · exact h1.trans (.setHp rfl)
  · exact .refl s

theorem postEvent_portSide (code : Byte) (cls : Nat) (pl : List W64) (s : State) : PortSide s (postEvent code cls pl s) := by
  have hpost (s : State) (p : Port) : PortSide s (postTo p code cls pl s) := by
    unfold postTo
    split
    · have hpush : PortSide s (s.setEq p (evqPush s.gen.time code cls pl (s.eq p))) := ⟨rfl, rfl, fun _ => rfl⟩
      exact hpush.trans (msixCheck_portSide p _)
    · exact .refl s
  have hfreeze (s : State) : PortSide s (freezeOnEvent code s) := by
    unfold freezeOnEvent freezeDie
    extract_lets c
    split
    · split
      · exact .refl s
      · exact ⟨rfl, rfl, fun _ => rfl⟩
    · exact .refl s
  exact (PortSide.each hpost ports s).trans (hfreeze _)

theorem peatEnter_portSide (r : PRec) (s : State) : PortSide s (peatEnter r s) := by
  obtain ⟨x, hx⟩ := peatEnter_eq r s
  rw [hx]
  exact ⟨rfl, rfl, fun _ => rfl⟩

theorem postNotice_portSide (p : Port) (code : Byte) (arg : BitVec 16) (s : State) : PortSide s (postNotice p code arg s) := by
  have hback : PortSide s (if (s.mb p).backlog.length < 32 then s.setMb p { s.mb p with backlog := (s.mb p).backlog ++ [(code, arg)] }
      else s.setMb p { s.mb p with dropped := (s.mb p).dropped + 1 }) := by
    split <;> exact ⟨rfl, rfl, fun _ => rfl⟩
  have hquar : PortSide s (if code = 0xA3 then s.modHp p (fun h => { h with quarCnt := 0, quarWait := false }) else s) := by
    split
    · exact .setHp rfl
    · exact .refl s
  unfold postNotice
  extract_lets m wait
  split
  · split
    · refine (hquar.trans ?_).trans (msixCheck_portSide p _)
      exact ⟨rfl, rfl, fun _ => rfl⟩
    · exact hback
  · exact hback

/-- A port whose contract has ended. -/
def HPort.uncontracted (h : HPort) : HPort := { h with ctr := { h.ctr with valid := false } }

theorem HPort.uncontracted_of_none {h : HPort} (hv : h.ctr.valid = false) : h.uncontracted = h := by
  rw [HPort.uncontracted, ← hv]

/-- The loss of a contract, but for its event and its notice, is that of the port. -/
theorem ctrLost_portSide (p : Port) (s : State) : PortSide (s.modHp p HPort.uncontracted) (ctrLost p s) := by
  unfold ctrLost
  split
  · have hrel : PortSide (s.modHp p HPort.uncontracted) (s.modHp p (fun h => { h with ctr := { h.ctr with valid := false }, ctrRel := true })) := by
      have h := PortSide.setHp (s := s.modHp p HPort.uncontracted) (p := p) (h := { (s.hp p).uncontracted with ctrRel := true }) (by rw [State.modHp_hp]; rfl)
      rwa [State.modHp, State.setHp_setHp] at h
    exact (hrel.trans (postEvent_portSide _ _ _ _)).trans (postNotice_portSide _ _ _ _)
  · next hv =>
    rw [State.modHp, HPort.uncontracted_of_none (by simpa using hv), State.setHp_self]
    exact .refl s

/-! ### Training and Recovery (R212, R288, R289, R320) -/

/-- A port whose link is up at a width and rate. -/
def HPort.upAt (h : HPort) (x16 g6 : Bool) : HPort :=
  { h with link := .up, width := if x16 then 2 else 1, rate := g6, degraded := !x16 || !g6, heldOut := [] }

/-- The port's link is up, and what waited for it has left. -/
def linkedAt (p : Port) (x16 g6 : Bool) (s : State) : State :=
  { s.modHp p (·.upAt x16 g6) with out := s.out ++ (s.hp p).heldOut.map (Out.host p) }

theorem State.each_emit {α : Type} (g : α → Out) (l : List α) (s : State) : s.each l (fun s x => s.emit (g x)) = { s with out := s.out ++ l.map g } := by
  induction l generalizing s with
  | nil => simp
  | cons x t ih => exact (ih (s.emit (g x))).trans (by simp [State.emit])

theorem linkUpAt_eq (p : Port) (x16 g6 : Bool) (s : State) : linkUpAt p x16 g6 s = if !x16 || !g6 then
    ctrLost p (postEvent 0x52 5 [BitVec.ofNat 64 (p.val + (if x16 then 2 else 1) * 2 ^ 4 + (if g6 then 1 else 0) * 2 ^ 6)] (linkedAt p x16 g6 s))
    else linkedAt p x16 g6 s := by
  rw [linkUpAt, State.each_emit]
  rfl

theorem linkUpAt_full (p : Port) (s : State) : linkUpAt p true true s = linkedAt p true true s := linkUpAt_eq p true true s

/-- Below x16 or 64 GT/s the port's contract goes, with the event of a degraded link. -/
theorem linkUpAt_degraded (p : Port) {x16 g6 : Bool} (h : x16 = false ∨ g6 = false) (s : State) :
    PortSide ((linkedAt p x16 g6 s).modHp p HPort.uncontracted) (linkUpAt p x16 g6 s) := by
  rw [linkUpAt_eq, if_pos (by simpa using h)]
  exact ((postEvent_portSide _ _ _ _).modHp_both p (f := HPort.uncontracted) fun _ => rfl).trans (ctrLost_portSide p _)

/-- A port that has trained: the protocol of its mode, and no back-invalidation yet. -/
def HPort.moded (h : HPort) : HPort := { h with proto := decide (h.mode = 2), biEn := false }

section
variable {s : State} {p : Port} {x16 g6 : Bool}

theorem linkTrained_refused (h : linkAllowed (s.hp p) x16 g6 = false) : linkTrained p x16 g6 s = s := by simp [linkTrained, h]

theorem linkTrained_allowed (hl : (s.hp p).link = .training) (h : linkAllowed (s.hp p) x16 g6 = true) :
    linkTrained p x16 g6 s = linkUpAt p x16 g6 (s.modHp p HPort.moded) := if_pos ⟨hl, h⟩

theorem linkAllowed_full (h : HPort) : linkAllowed h true true = true := rfl

theorem linkTrained_full (hl : (s.hp p).link = .training) : linkTrained p true true s = { s.setHp p { s.hp p with
    link := .up, width := 2, rate := true, degraded := false, proto := decide ((s.hp p).mode = 2), biEn := false, heldOut := [] } with
      out := s.out ++ (s.hp p).heldOut.map (Out.host p) } := by
  rw [linkTrained_allowed hl (linkAllowed_full _), linkUpAt_full, linkedAt, State.modHp_modHp, State.modHp_hp]
  rfl

theorem linkTrained_degraded (hl : (s.hp p).link = .training) (h : linkAllowed (s.hp p) x16 g6 = true) (hd : x16 = false ∨ g6 = false) :
    PortSide (s.modHp p (fun h => (h.moded.upAt x16 g6).uncontracted)) (linkTrained p x16 g6 s) := by
  rw [linkTrained_allowed hl h]
  refine PortSide.trans ?_ (linkUpAt_degraded p hd _)
  have heq : (linkedAt p x16 g6 (s.modHp p HPort.moded)).modHp p HPort.uncontracted =
      { s.modHp p (fun h => (h.moded.upAt x16 g6).uncontracted) with out := s.out ++ (s.hp p).heldOut.map (Out.host p) } := by
    have hout (t : State) (o : List Out) : ({ t with out := o } : State).modHp p HPort.uncontracted = { t.modHp p HPort.uncontracted with out := o } := rfl
    rw [linkedAt, hout, State.modHp_modHp, State.modHp_modHp, State.modHp_hp]
    rfl
  rw [heq]
  exact ⟨rfl, rfl, fun _ => rfl⟩

theorem linkRecovered_full (hl : (s.hp p).link = .recovery) (v : W64) : linkRecovered p true true v s = { s.setHp p { s.hp p with
    link := .up, width := 2, rate := true, degraded := false, replay := (s.hp p).replay + v, heldOut := [] } with
      out := s.out ++ (s.hp p).heldOut.map (Out.host p) } := by
  rw [linkRecovered, if_pos hl]
  dsimp only
  rw [if_pos (linkAllowed_full _), linkUpAt_full, linkedAt, State.modHp, State.setHp_hp, State.setHp_setHp]
  rfl

theorem linkRecovered_refused (hl : (s.hp p).link = .recovery) (h : linkAllowed (s.hp p) x16 g6 = false) (v : W64) :
    linkRecovered p x16 g6 v s = portDown p (s.setHp p { s.hp p with replay := (s.hp p).replay + v }) := by
  simp [linkRecovered, hl, h]

theorem linkRecovered_elsewhere (hl : (s.hp p).link ≠ .recovery) (v : W64) : linkRecovered p x16 g6 v s = s := if_neg hl

end

/-- Settles O23: a link that trains or recovers as it may be used is up, and one that is degraded loses its contract; else the port goes down. -/
theorem hostLinksTrainAndRecover : Obligations.HostLinksTrainAndRecover := by
  refine ⟨fun s p x16 g6 hk hl => ⟨fun ha => ?_, ?_, fun ha hd => ?_⟩, fun s p x16 g6 v hk => ⟨fun hl => ?_, fun hl => ?_, fun hl ha => ?_, fun hl => ?_, fun hl => ?_⟩⟩
  all_goals have hrun {g : State → State} {t : State} (h : g s = t) : onClock s g = .next t := by rw [onClock_run hk, h]
  · exact hrun (linkTrained_refused ha)
  · rintro rfl rfl
    exact hrun (linkTrained_full hl)
  · have hside := linkTrained_degraded hl ha hd
    have hp := hside.ports p
    rw [State.modHp_hp] at hp
    have hdeg : (!x16 || !g6) = true := by simpa using hd
    refine ⟨_, hrun rfl, congrArg HPort.link hp, (congrArg HPort.degraded hp).trans hdeg, congrArg HPort.width hp, congrArg HPort.rate hp,
      congrArg HPort.proto hp, congrArg HPort.biEn hp, congrArg (·.ctr.valid) hp, fun q hq => ?_, hside.slices, linkTrained_homeKept p x16 g6 s (.refl s)⟩
    have hlink := hside.kept HPort.link (fun _ => rfl) q
    have hctr := hside.kept HPort.ctr (fun _ => rfl) q
    rw [State.modHp_hp_other _ _ hq] at hlink hctr
    exact ⟨hlink, hctr⟩
  · exact hrun (if_pos hl)
  · exact hrun (linkRecovered_full hl v)
  · exact (hrun (linkRecovered_refused hl ha v)).trans (onClock_run (s := s.setHp p _) hk _).symm
  · exact (hrun (if_pos hl)).trans (onClock_run hk _).symm
  · exact ⟨hrun (if_neg hl), hrun (linkRecovered_elsewhere hl v)⟩

end Sys2Proof.Machine
end

section
/-! PROOFS. A host port that goes down, and the walk over its HP bits (R89, R289, R297, R414, R417). -/

set_option Elab.async false

namespace Sys2Proof.Machine

/-! ### What has nothing to do (R89, R297) -/

/-- No move from the Reedbed waits in the slice. -/
def Slice.noMoves (x : Slice) : Prop := ∀ g ∈ x.snpGrps, ∀ (l : LAddr) (hp : BitVec 4) (w : Option Nat), g.act ≠ .rbMove l hp w

theorem noMoves_sl {s : State} (h : NoMoves s) (i : SliceNo) : (s.sl i).noMoves := fun g hg l hp w ha => by
  have hall := List.all_eq_true.1 (h i) g hg
  simp [ha] at hall

theorem Slice.moveHp_of_noMoves {x : Slice} (h : x.noMoves) (l : LAddr) : x.moveHp l = none := by
  refine List.findSome?_eq_none_iff.2 fun g hg => ?_
  split
  · next e hp w ha => exact absurd ha (h g hg e hp w)
  · rfl

theorem Slice.dropMove_of_noMoves {x : Slice} (h : x.noMoves) (q : LAddr → Bool) (p : Port) : x.dropMove q p = x := by
  have hgrps : (x.dropMove q p).snpGrps = x.snpGrps := by
    refine (List.map_congr_left fun g hg => ?_).trans (List.map_id _)
    split
    · next e hp w ha => exact absurd ha (h g hg e hp w)
    · rfl
  calc x.dropMove q p = { x with snpGrps := (x.dropMove q p).snpGrps } := rfl
    _ = x := by rw [hgrps]

theorem dropMoves_of_noMoves {s : State} (h : NoMoves s) (p : Port) : dropMoves p s = s := by
  refine State.each_id s sliceNos _ fun i _ => ?_
  have hexcl (e : RbEnt) : (s.sl i).exclMove p e = false := by simp [Slice.exclMove, Slice.moveHp_of_noMoves (noMoves_sl h i)]
  have hlost : (s.sl i).rb.filter ((s.sl i).exclMove p) = [] := List.filter_eq_nil_iff.2 fun e _ => by simp [hexcl]
  dsimp only
  rw [hlost, State.each_nil, State.modSl]
  simp only [hexcl, Bool.false_eq_true, if_false, List.map_id']
  rw [Slice.dropMove_of_noMoves (x := s.sl i) (noMoves_sl h i), State.setSl_self]

/-- No buffered store waits in a slice or a port. -/
structure Unbuffered (s : State) : Prop where
  wmb : ∀ i : SliceNo, (s.sl i).wmb = []
  ntc : ∀ q : Port, (s.hp q).ntc = []

theorem PortSide.unbuffered {s t : State} (h : PortSide s t) (hu : Unbuffered s) : Unbuffered t :=
  ⟨fun i => by rw [h.sl i]; exact hu.wmb i, fun q => (h.kept HPort.ntc (fun _ => rfl) q).trans (hu.ntc q)⟩

section
variable {s : State} (h : Unbuffered s)
include h

theorem Unbuffered.modHp (p : Port) {f : HPort → HPort} (hf : ∀ x, (f x).ntc = x.ntc) : Unbuffered (s.modHp p f) := by
  refine ⟨h.wmb, fun q => ?_⟩
  by_cases e : q = p
  · rw [e, State.modHp_hp, hf]; exact h.ntc p
  · rw [State.modHp_hp_other _ _ e]; exact h.ntc q

theorem closeEntries_of_unbuffered (pw pn : BufEnt → Bool) : closeEntries pw pn s = s := by
  have hsl : s.each sliceNos (fun s i => s.modSl i (fun x => { x with wmb := closeIf pw x.wmb })) = s := State.each_id s _ _ fun i _ => by
    have hi : closeIf pw (s.sl i).wmb = (s.sl i).wmb := by rw [h.wmb i]; rfl
    exact (congrArg (fun l => s.setSl i { s.sl i with wmb := l }) hi).trans (s.setSl_self i)
  have hport : s.each ports (fun s p => s.modHp p (fun h => { h with ntc := closeIf pn h.ntc })) = s := State.each_id s _ _ fun p _ => by
    have hp : closeIf pn (s.hp p).ntc = (s.hp p).ntc := by rw [h.ntc p]; rfl
    exact (congrArg (fun l => s.setHp p { s.hp p with ntc := l }) hp).trans (s.setHp_self p)
  exact (congrArg (fun s1 : State => s1.each ports (fun s p => s.modHp p (fun h => { h with ntc := closeIf pn h.ntc }))) hsl).trans hport

theorem issueEvery_of_unbuffered : issueEvery s = s := State.each_id s _ _ fun i _ => issueAll_idle (h.wmb i) h.ntc

end

/-! ### A port that goes down (R297, R414, R417) -/

theorem quarEnds_portSide (p : Port) (s : State) : PortSide s (quarEnds p s) := by
  have hport : PortSide s (s.modHp p (fun h => { h with quarCnt := 0, quarWait := false })) := .setHp rfl
  exact hport.trans ⟨rfl, rfl, fun _ => rfl⟩

theorem discardReq_portSide (s : State) (r : Req) : PortSide s (discardReq s r) := by
  have hretire : PortSide s (retireReq r s) := .setHp rfl
  unfold discardReq
  extract_lets s1 give s2 h
  have hgive (t : State) : PortSide t (give t) := by
    unfold give
    split
    · exact .setHp rfl
    · exact .refl t
  have hhalf : PortSide s s2 := hretire.trans (.setHp rfl)
  split
  · exact hretire.trans (hgive _)
  · refine hhalf.trans ?_
    split
    · have hhalves : PortSide s2 (s2.setHp r.port { h with halves := spDel r.etag.toNat h.halves }) := .setHp rfl
      exact hhalves.trans (hgive _)
    · exact .setHp rfl

theorem masterGone_portSide {s t : State} (h : PortSide s t) (m : Master) : PortSide (masterGone m s) (masterGone m t) := by
  refine ⟨h.slices, ?_, h.ports⟩
  unfold masterGone
  dsimp only
  rw [h.gen]

/-- A port that has left L0 or Recovery, with the places its walk is to visit. -/
def HPort.wentDown (h : HPort) (walk : List (Nat × Nat × Nat)) : HPort := { h with
  link := .downBusy, proto := false, width := 0, rate := false, degraded := false, biEn := false, admOpen := false
  down := h.down + 1, queue := [], bars := [], snps := [], rsv := [], rsvBad := [], trackers := []
  msix := false, msixLive := false, hpWalk := walk, heldOut := [], txq := [], dcmp := 0, dsnp := 0, walking := true, regq := [] }

/-- The master of a host port. -/
def hostMaster (p : Port) : Master := ⟨p.val, by omega⟩

/-- Port p is in L0 or Recovery, and what its end would have to settle beyond it is not there: stamp mode, snoops, buffered stores and waiting moves. -/
structure Leaves (s : State) (p : Port) : Prop where
  link  : (s.hp p).link = .up ∨ (s.hp p).link = .recovery
  plain : (s.hp p).stamped = false ∧ (s.hp p).snps = []
  bufs  : Unbuffered s
  moves : NoMoves s

/-- The port that has gone down, without its contract, its key and its semaphores. -/
def portGone (p : Port) (s : State) : State := masterGone (hostMaster p) (s.modHp p (fun h => (h.wentDown (hpPlaces s p)).uncontracted))

theorem portGone_hp (p : Port) (s : State) : (portGone p s).hp p = ((s.hp p).wentDown (hpPlaces s p)).uncontracted :=
  s.modHp_hp p fun h => (h.wentDown (hpPlaces s p)).uncontracted

theorem portGone_hp_other {p q : Port} (h : q ≠ p) (s : State) : (portGone p s).hp q = s.hp q :=
  s.modHp_hp_other (fun h => (h.wentDown (hpPlaces s p)).uncontracted) h

/-- A port that goes down is that port alone; the rest is events, notices and requests discarded. -/
theorem portDown_portSide {s : State} {p : Port} (h : Leaves s p) : PortSide (portGone p s) (portDown p s) := by
  obtain ⟨hst, hsnp⟩ := h.plain
  unfold portDown
  extract_lets x s1 s2 mine s3 s4 s5 s6
  rw [if_neg (by rcases h.link with e | e <;> simp [x, e]), if_neg (by rcases h.link with e | e <;> simp [x, e])]
  have hu1 : Unbuffered s1 := h.bufs.modHp p (f := (·.wentDown (hpPlaces s p))) fun _ => rfl
  have hdisc : PortSide s1 ((quarEnds p s1).each x.queue discardReq) := (quarEnds_portSide p s1).trans (.each discardReq_portSide _ _)
  have h2 : s2 = (quarEnds p s1).each x.queue discardReq := dropMoves_of_noMoves (fun i => by rw [hdisc.sl i]; exact h.moves i) p
  have hside2 : PortSide s1 (closeEntries mine mine s2) := by
    rw [h2, closeEntries_of_unbuffered (hdisc.unbuffered hu1)]
    exact hdisc
  have hside3 : PortSide (portGone p s) s3 := by
    have hgone : portGone p s = (masterGone (hostMaster p) s1).modHp p HPort.uncontracted :=
      congrArg (masterGone (hostMaster p)) (State.modHp_modHp s p (·.wentDown (hpPlaces s p)) HPort.uncontracted).symm
    rw [hgone]
    exact ((masterGone_portSide hside2 _).modHp_both p (f := HPort.uncontracted) fun _ => rfl).trans (ctrLost_portSide p _)
  have h4 : s4 = s3 := if_neg (by simp [x, hst])
  have hside5 : PortSide s3 s5 := by
    unfold s5
    rw [h4]
    exact (postEvent_portSide _ _ _ _).trans (peatEnter_portSide _ _)
  have h6 : s6 = s5 := by
    unfold s6
    rw [show x.snps = [] from hsnp, State.each_nil]
  have hall : PortSide (portGone p s) (msixCheck p s6) := by
    rw [h6]
    exact (hside3.trans hside5).trans (msixCheck_portSide p s5)
  have hu : Unbuffered (portGone p s) :=
    ⟨h.bufs.wmb, (h.bufs.modHp p (f := fun h => (h.wentDown (hpPlaces s p)).uncontracted) fun _ => rfl).ntc⟩
  rw [issueEvery_of_unbuffered (hall.unbuffered hu)]
  exact hall

/-- No semaphore is a master's that is gone. -/
theorem masterGone_sem (m : Master) (s : State) (n : Fin 8) : ((masterGone m s).gen.sem[n]).toNat ≠ m.val + 1 := by
  have hsem : (masterGone m s).gen.sem[n] = if (s.gen.sem[n]).toNat = m.val + 1 then 0 else s.gen.sem[n] := by
    simp [masterGone]
  rw [hsem]
  split
  · simp
  · assumption

/-! ### The walk over the HP bits (R297) -/

/-- Looking at a port changes its link alone. -/
theorem downMove_eq (s : State) (p : Port) : ∃ l : HLink, downMove s p = s.setHp p { s.hp p with link := l } := by
  unfold downMove
  extract_lets h
  split
  · exact ⟨_, rfl⟩
  · exact ⟨(s.hp p).link, (s.setHp_self p).symm⟩

/-- A port whose walk is over may train when all else is done. -/
theorem downMove_of_walked {s : State} {p : Port} (hl : (s.hp p).link = .downBusy) (hw : (s.hp p).walking = false) :
    downMove s p = s.setHp p { s.hp p with link := if downDone s p then trainSt s (s.hp p) else .downBusy } := by
  rw [downMove]
  cases downDone s p with
  | true => simp [hl, hw]
  | false =>
    rw [if_neg (by simp), if_neg Bool.false_ne_true, ← hl]
    exact (s.setHp_self p).symm

/-- A port whose walk has visited every place. -/
def HPort.walked (h : HPort) : HPort := { h with hpWalk := [], walking := false }

theorem HPort.walked_of_nothing {h : HPort} (hw : h.hpWalk = []) : h.walked = { h with walking := false } := by rw [HPort.walked, ← hw]

section
variable {s : State} {p : Port} (hl : (s.hp p).link = .downBusy)
include hl

/-- A walk with nothing to visit is over, and the port may train when all else is done. -/
theorem portWalkDone_of_nothing (hw : (s.hp p).hpWalk = []) : portWalkDone p s = s.setHp p { s.hp p with
    walking := false, link := if downDone s p then trainSt s (s.hp p) else .downBusy } := by
  have hdone : downDone (s.setHp p (s.hp p).walked) p = downDone s p := by
    simp only [downDone, State.setHp_hp, State.setHp_slices]
    rfl
  have hwalk : portWalkDone p s = downMove (s.setHp p (s.hp p).walked) p := by
    rw [portWalkDone, if_pos hl]
    simp only [hw, State.each_nil]
    rfl
  rw [hwalk, downMove_of_walked (by rw [State.setHp_hp]; exact hl) (by rw [State.setHp_hp]; rfl), State.setHp_hp, State.setHp_setHp, hdone,
    HPort.walked_of_nothing hw]
  rfl

/-- The walk visits its one place, a line that the port does not hold exclusively: the port's HP bit goes, and nothing is left to visit. -/
theorem portWalkDone_of_one {i : SliceNo} {set w : Nat} {x : TagWord} (hw : (s.hp p).hpWalk = [(i.val, set, w)]) (hx : (s.sl i).word set w = x)
    (hst : x.st ≠ .I ∧ x.st ≠ .P) (hbit : bit x.hp p.val = true) (hex : exclHost x ≠ some p) :
    ∃ l : HLink, portWalkDone p s = (dropHp i (lineIn s i set x) p s).setHp p { s.hp p with hpWalk := [], walking := false, link := l } := by
  have hi : (BitVec.ofNat 3 i.val).toFin = i := by
    ext
    simp
  obtain ⟨l, hdown⟩ := downMove_eq ((dropHp i (lineIn s i set x) p s).modHp p HPort.walked) p
  have hport : (dropHp i (lineIn s i set x) p s).hp p = s.hp p := by rw [dropHp_eq, State.setSl_hp]
  rw [State.modHp_hp, hport, State.modHp, State.setHp_setHp, hport] at hdown
  have hcond : (bit x.hp p.val && decide (x.st ≠ .I) && decide (x.st ≠ .P)) = true := by simp [hbit, hst]
  refine ⟨l, Eq.trans ?_ hdown⟩
  rw [portWalkDone, if_pos hl, hw]
  simp only [State.each, List.foldl_cons, List.foldl_nil, hi, hx, hcond, if_true, if_neg hex]
  exact congrArg (fun h : HPort => downMove ((dropHp i (lineIn s i set x) p s).setHp p h.walked) p) hport

end

/-- The HP bit of a port goes from the word of the way that holds a line. -/
theorem dropHp_word {s : State} {i : SliceNo} {l : LAddr} {set w : Nat} {x : TagWord} (hsh : Shadowed (s.sl i) set) (hset : (setOf l).toNat = set)
    (hway : s.wayOf i l = some (w, x)) (p : Port) : ((dropHp i l p s).sl i).word set w = { x with hp := setBit x.hp p.val false } := by
  obtain ⟨hfar, hfind⟩ := wayOf_some hway
  subst hset
  rw [dropHp_eq, State.setSl_sl, hfar]
  exact (Slice.dropped_spec ⟨hsh.1, hsh.2.1⟩ hfind p).1.word

/-! ### The commands -/

/-- Settles O24: a port in L0 or Recovery goes down, and a walk that has one place or none left to visit ends. -/
theorem hostPortsGoDown : Obligations.HostPortsGoDown := by
  refine ⟨fun s p hk => ⟨fun hl => ?_, fun hl => ?_, fun c hc hl hst hsnp hn hw hm => ?_⟩,
    fun s p hk hl => ⟨fun hw => ?_, fun i set w x hw hset hway hx hI hP hbit hex hsh hm hof hline => ?_⟩⟩
  all_goals have hrun {g : State → State} {t : State} (h : g s = t) : onClock s g = .next t := by rw [onClock_run hk, h]
  · exact hrun (if_pos hl)
  · refine hrun ?_
    simp [portDown, hl]
  · have hlink : (s.hp p).link = .up ∨ (s.hp p).link = .recovery := hl.imp_left And.right
    have hdown : exec c.1 s = .next (portDown p s) := by
      rcases List.mem_pair.1 hc with rfl | rfl
      · exact hrun rfl
      · exact hrun (if_pos (hl.resolve_left (by simp)))
    have hside := portDown_portSide ⟨hlink, ⟨hst, hsnp⟩, ⟨hw, hn⟩, hm⟩
    have hp := hside.ports p
    rw [portGone_hp] at hp
    have hsem (n : Fin 8) : ((portDown p s).gen.sem[n]).toNat ≠ p.val + 1 := by rw [hside.gen]; exact masterGone_sem (hostMaster p) _ n
    refine ⟨_, hdown, congrArg HPort.link hp, congrArg HPort.admOpen hp, congrArg HPort.queue hp, congrArg HPort.bars hp, congrArg HPort.rsv hp, ?_,
      congrArg HPort.txq hp, congrArg HPort.msix hp, congrArg HPort.regq hp, congrArg HPort.walking hp, congrArg (·.ctr.valid) hp, congrArg HPort.down hp,
      congrArg HPort.hpWalk hp, congrArg Gen.keys hside.gen, hsem, fun q hq => ?_, hside.slices, portDown_homeKept p s (.refl s)⟩
    · have hheld : (if ((portDown p s).hp p).link = .downBusy then ((portDown p s).hp p).heldOut else []) = [] := congrArg HPort.heldOut hp
      rwa [show ((portDown p s).hp p).link = .downBusy from congrArg HPort.link hp, if_pos rfl] at hheld
    · have hkept {α : Type} (f : HPort → α) (hf : ∀ x, f x.core = f x) : f ((portDown p s).hp q) = f (s.hp q) := by
        rw [hside.kept f hf, portGone_hp_other hq]
      exact ⟨hkept _ fun _ => rfl, hkept _ fun _ => rfl, hkept _ fun _ => rfl⟩
  · exact hrun (portWalkDone_of_nothing hl hw)
  · obtain ⟨l, heq⟩ := portWalkDone_of_one hl hw hx ⟨hI, hP⟩ hbit hex
    have hset' : (setOf (lineIn s i set x)).toNat = set := by rw [hline]; simpa using Nat.mod_eq_of_lt hset
    refine ⟨_, hrun heq, dropHp_word hsh hset' hof p, by rw [State.setHp_hp], by rw [State.setHp_hp], fun j hj => ?_, ?_, ?_⟩
    · rw [State.setHp_sl, dropHp_eq, State.setSl_sl_other _ _ hj]
    · rw [State.setHp_home, dropHp_eq, State.setSl_home]
    · rw [State.setHp_mem, dropHp_eq, State.setSl_mem]

end Sys2Proof.Machine
end

section
/-! PROOFS. A write to DDR5 and a patrol read that find the write queue full, every line of it held for the fill (R336, R341, R363, R364). -/

set_option Elab.async false

namespace Sys2Proof.Machine

/-! ### A line written -/

/-- A write to line 0 waits until block 1 is filled, which ends its slot, and the block reads from DRAM (R364; log 27). -/
theorem staleLine_after_write : ddrGet (ddrPut 0 {} fullOfHeldWrites) staleLine = { data := 1 } := by decide +kernel

/-- Refutes O58: `good` leaves open what DRAM holds in a block that is not yet filled. A write that finds its queue full of held writes waits for the
oldest fill slot's block, and a line of that block that was never written reads otherwise from then on. -/
theorem not_ddrReadsWhatWasWritten : ¬ Obligations.DdrReadsWhatWasWritten := by
  intro h
  have hread := h fullOfHeldWrites 0 staleLine {} fullOfHeldWrites_good
  rw [if_neg (by decide), staleLine_after_write, staleLine_reads_zero] at hread
  exact absurd hread (by decide +kernel)

/-! ### A line scrubbed -/

/-- A line with one symbol in error, which the line code corrects. -/
def oneSymbol : Flaw := { errs := [(0, 1)] }

/-- The same device with no region on its way: block 0 is filled, its first line is the next of the patrol and has a symbol in error, and the writes
that fill the queue are to block 2, which has no fill slot. -/
def scrubbedWhileHeld : State := { fullOfHeldWrites with
  home := State.reset.home
  mem := { fullOfHeldWrites.mem with fillBlk := 1, wq := List.replicate 256 (2 ^ 16, {}), ddrFlaw := [(0, oneSymbol)] } }

theorem scrubbedWhileHeld_good : scrubbedWhileHeld.good := ⟨by decide +kernel, by decide +kernel⟩

/-- The line of block 1 reads as zero until its block is filled (R362). -/
theorem staleLine_before_scrub : ddrGet scrubbedWhileHeld staleLine = {} := by decide +kernel

/-- The corrected line waits until block 1 is filled (R341, R364; log 27). -/
theorem staleLine_after_scrub : ddrAfter (.patrolScrubRead true []) scrubbedWhileHeld staleLine = { data := 1 } := by decide +kernel

/-- Refutes O48: the corrected line that a patrol read rewrites finds its queue full of held writes and waits for the oldest fill slot's block; a line of
that block that was never written reads otherwise from then on. -/
theorem not_patrolRepairAndFillAdvance : ¬ Obligations.PatrolRepairAndFillAdvance := by
  intro h
  obtain ⟨hpatrol, -⟩ := h
  obtain ⟨-, -, -, hcor, -⟩ := hpatrol scrubbedWhileHeld _ (by decide +kernel) scrubbedWhileHeld_good rfl rfl rfl
  obtain ⟨t, -, he, -, -, -, -, -, -, -, -, -, hsame, -⟩ := hcor 0 _ oneSymbol (by decide +kernel) (by decide +kernel) rfl (by decide +kernel)
    (by decide +kernel) (by decide) rfl rfl (by decide +kernel) rfl rfl
  have hstale : ddrGet t staleLine = ddrGet scrubbedWhileHeld staleLine := hsame staleLine
  rw [← ddrAfter_of_next he, staleLine_after_scrub, staleLine_before_scrub] at hstale
  exact absurd hstale (by decide +kernel)

end Sys2Proof.Machine
end

section
/-! PROOFS. The self-test and the test of a disabled way: what fails stops the start, what a spare replaces is recorded (R353, R354, R366, R467). -/

set_option Elab.async false

namespace Sys2Proof.Machine

theorem HostSide.integ {s t : State} (h : HostSide s t) : t.integ = s.integ := by rw [h.rest]
theorem HostSide.crp {s t : State} (h : HostSide s t) : t.crp = s.crp := by rw [h.rest]
theorem HostSide.pins {s t : State} (h : HostSide s t) : t.pins = s.pins := by rw [h.rest]

/-! ### Bits of a word -/

/-- A bit of a word after one of its bits is set or cleared. -/
theorem bit_setBit {n : Nat} (x : BitVec n) (i : Nat) (b : Bool) {k : Nat} (hk : k < n) :
    bit (setBit x i b) k = if k = i then b else bit x k := by
  have hone : ((1 : BitVec n) <<< i).getLsbD k = decide (k = i) := by
    rw [show ((1 : BitVec n) <<< i).getLsbD k = _ from BitVec.getLsbD_twoPow i k, Bool.eq_iff_iff]
    simp only [Bool.and_eq_true, decide_eq_true_eq]
    omega
  cases b with
  | true =>
    rw [bit, setBit, if_pos rfl, BitVec.getLsbD_or, hone]
    by_cases h : k = i <;> simp [h, bit]
  | false =>
    rw [bit, setBit, if_neg (by simp), BitVec.getLsbD_and, BitVec.getLsbD_not, hone]
    by_cases h : k = i
    · simp [h]
    · simp only [h, hk, decide_true, decide_false, Bool.not_false, Bool.and_true, if_false]
      rfl

/-! ### A start that fails (R467) -/

/-- A start that has stopped, with its record: no link trains. -/
def failedStart (q : PRec) (s : State) : State := { s with
  peat := { s.peat with own := s.peat.own ++ [q] }
  crp := { s.crp with phase := .stopped }
  fports := s.fports.map (fun x => { x with link := .down })
  hports := s.hports.map (fun h => { h with link := .down }) }

theorem startFail_eq (unit idx : Nat) (s : State) : ∃ q : PRec, q.type = 0x10 ∧ q.cause = 6 ∧ startFail unit idx s = failedStart q s :=
  ⟨_, rfl, rfl, rfl⟩

theorem failedStart_fp_link (q : PRec) (s : State) (f : FPortNo) : ((failedStart q s).fp f).link = .down := by
  simp [failedStart, State.fp]

theorem failedStart_hp_link (q : PRec) (s : State) (p : Port) : ((failedStart q s).hp p).link = .down := by
  simp [failedStart, State.hp]

/-- A record of a limited type may enter the queue; of what the writer forms itself nothing changes. -/
theorem peatEnter_own (r : PRec) (s : State) : (peatEnter r s).peat.own = s.peat.own := by
  unfold peatEnter
  extract_lets p
  split <;> split <;> rfl

/-! ### The field repair map (R350) -/

/-- Of more numbers than a repair map has entries, one is free. -/
theorem exists_free_number {n : Nat} {l : List Repair} (h : l.length < n) :
    ∃ k, (List.range n).find? (fun k => !l.any (fun e => decide (e.no = k))) = some k := by
  refine Option.ne_none_iff_exists'.1 fun hnone => ?_
  have hsub : List.range n ⊆ l.map (·.no) := fun k hk => by simpa using List.find?_eq_none.1 hnone k hk
  have hle := (List.nodup_range.subperm hsub).length_le
  rw [List.length_range, List.length_map] at hle
  omega

/-- A repair map with room takes a row as pending. -/
theorem repNew_of_room {s : State} (h : s.integ.repMap.length < 4096) (r : RepLoc) : ∃ n : Nat, repNew r s = { s with integ := { s.integ with
    repMap := s.integ.repMap ++ [⟨n, r, .pending⟩], repRaw := rawDel n s.integ.repRaw } } := by
  obtain ⟨n, hn⟩ := exists_free_number h
  refine ⟨n, ?_⟩
  unfold repNew
  extract_lets x
  rw [hn]

/-- A row of an on-die array is repaired: its entry is applied, and its spare is in force. -/
def spareIn (i : BitVec 16) (s : State) : State := repState (.array i) .applied { s with integ := { s.integ with
  repairs := s.integ.repairs + 1
  inForce := if s.integ.inForce.contains (.array i) then s.integ.inForce else s.integ.inForce ++ [.array i] } }

/-- No row of the history is that of an array, so all stay. -/
theorem repairEnd_array (i : BitVec 16) (s : State) : repairEnd (.array i) true s = evRepair 1 i.toNat (spareIn i s) := by
  have hhist : s.integ.hist.filter (fun _ => true) = s.integ.hist := List.filter_eq_self.2 fun _ _ => rfl
  simp only [repairEnd, if_true, Bool.not_false, hhist]
  rfl

theorem repairEnd_array_hostSide (i : BitVec 16) (s : State) : HostSide (spareIn i s) (repairEnd (.array i) true s) := by
  rw [repairEnd_array]
  exact postEvent_hostSide _ _ _ _

theorem spareIn_inForce (i : BitVec 16) (s : State) : .array i ∈ (spareIn i s).integ.inForce := by
  by_cases h : RepLoc.array i ∈ s.integ.inForce <;> simp [spareIn, repState, h]

/-- A row with an entry has it applied. -/
theorem spareIn_applied {i : BitVec 16} {s : State} (h : ∃ e ∈ s.integ.repMap, e.loc = .array i) :
    ∃ e ∈ (spareIn i s).integ.repMap, e.loc = .array i ∧ e.st = .applied := by
  obtain ⟨e, he, hloc⟩ := h
  exact ⟨{ e with st := .applied }, List.mem_map.2 ⟨e, he, if_pos hloc⟩, hloc, rfl⟩

/-- The row of an array that fails with a spare left is repaired, in its entry or in a new one. -/
theorem arrayFails_spare {s : State} (i : BitVec 16) (h : s.integ.repMap.length < 4096) : ∃ m : List Repair, ∃ w : Sparse W32,
    (∃ e ∈ m, e.loc = .array i) ∧ HostSide (spareIn i { s with integ := { s.integ with repMap := m, repRaw := w } }) (arrayFails [(i, true)] s) := by
  simp only [arrayFails]
  split
  · next hany =>
    exact ⟨s.integ.repMap, s.integ.repRaw, by simpa using hany, repairEnd_array_hostSide i s⟩
  · obtain ⟨n, hn⟩ := repNew_of_room h (.array i)
    rw [if_neg (by omega), hn]
    exact ⟨_, _, ⟨_, List.mem_append_right _ (List.mem_singleton_self _), rfl⟩, repairEnd_array_hostSide i _⟩

/-! ### The self-test (R354, R366) -/

/-- The self-test has found every checker good. -/
def selfTestPassed (s : State) : State :=
  { s with integ := { s.integ with bistDone := true }, crp := { s.crp with testOk := true, phase := .training } }

theorem selfTested_of_good {s : State} {r : SelfTest} (hp : s.crp.phase = .selfTest) (h : r.checker = none) :
    selfTested r s = arrayFails r.arrays (selfTestPassed s) := by
  simp only [selfTested, hp, h, if_true]
  rfl

theorem selfTested_of_wrong {s : State} {r : SelfTest} {c : BitVec 10} (hp : s.crp.phase = .selfTest) (h : r.checker = some c) :
    selfTested r s = startFail 3 c.toNat { s with integ := { s.integ with bistFail := true, checker := c } } := by
  simp only [selfTested, hp, h, if_true]

/-! ### The test of a disabled way (R353) -/

/-- A way of a region is enabled in a slice. -/
def Slice.wayEnabled (x : Slice) (region : BitVec 6) (w : Way) : Slice :=
  { x with wdis := spSet 0 region.toNat (setBit (x.disMap region.toNat) w.val false) x.wdis }

section
variable {x : Slice} (h : spWf 0 x.wdis = true) (region : BitVec 6) (w : Way)
include h

theorem Slice.wayEnabled_bit (v : Way) :
    bit ((x.wayEnabled region w).disMap region.toNat) v.val = (decide (v ≠ w) && bit (x.disMap region.toNat) v.val) := by
  rw [Slice.disMap, Slice.wayEnabled, spGet_spSet_same h, bit_setBit _ _ _ v.isLt]
  by_cases e : v = w
  · simp [e]
  · simp [e, Fin.val_ne_of_ne e]

theorem Slice.wayEnabled_disMap_other {r : BitVec 6} (hr : r ≠ region) : (x.wayEnabled region w).disMap r.toNat = x.disMap r.toNat :=
  spGet_spSet_other h fun e => hr (BitVec.eq_of_toNat_eq e)

end

theorem wayTested_of_not_clean (i : SliceNo) (region : BitVec 6) (w : Way) (s : State) : wayTested i region w false s = s := by
  simp [wayTested]

/-- A disabled way that tests clean after the zero-fill of HBM and before DDR5 has trained is enabled, and an event says so. -/
theorem wayTested_of_clean {s : State} {i : SliceNo} {region : BitVec 6} {w : Way} (hp : preparing s = true) (hh : s.crp.hbmOk = true)
    (hf : s.mem.hbmFilled = true) (hd : s.crp.ddrOk = false) (hw : bit ((s.sl i).disMap region.toNat) w.val = true) :
    HostSide (s.modSl i (·.wayEnabled region w)) (wayTested i region w true s) := by
  rw [wayTested, if_pos (by simp [hp, hh, hf, hd, hw])]
  exact postEvent_hostSide _ _ _ _

/-! ### The commands -/

/-- Settles O20: each outcome of the self-test is one state, but for what hosts see of the event of a repair; so is that of a disabled way's test. -/
theorem selfTestsDecide : Obligations.SelfTestsDecide := by
  refine ⟨fun s r hk hp => ⟨fun hc ha => ?_, fun c hc => ?_, fun i l hc ha => ?_, fun i hc ha hroom => ?_⟩,
    fun s i region w hk hp hh hf hd hw hwf => ⟨?_, ?_⟩⟩
  all_goals have hrun {g : State → State} {t : State} (h : g s = t) : onClock s g = .next t := by rw [onClock_run hk, h]
  · exact hrun ((selfTested_of_good hp hc).trans (by rw [ha]; rfl))
  · obtain ⟨q, hq, hq', he⟩ := startFail_eq 3 c.toNat { s with integ := { s.integ with bistFail := true, checker := c } }
    exact ⟨_, hrun ((selfTested_of_wrong hp hc).trans he), rfl, rfl, failedStart_hp_link q _, failedStart_fp_link q _, q, hq, hq', rfl⟩
  · obtain ⟨q, hq, hq', he⟩ := startFail_eq 4 i.toNat (peatEnter (mkRec 0x32 3 (bodyAt 24 i.toNat)) (selfTestPassed s))
    have hown := peatEnter_own (mkRec 0x32 3 (bodyAt 24 i.toNat)) (selfTestPassed s)
    have hfail : arrayFails r.arrays (selfTestPassed s) = startFail 4 i.toNat (peatEnter (mkRec 0x32 3 (bodyAt 24 i.toNat)) (selfTestPassed s)) := by
      rw [ha]
      rfl
    exact ⟨_, hrun ((selfTested_of_good hp hc).trans (hfail.trans he)), rfl, failedStart_fp_link q _, q, hq, hq', congrArg (· ++ [q]) hown⟩
  · obtain ⟨m, u, hm, hside⟩ := arrayFails_spare (s := selfTestPassed s) i hroom
    refine ⟨_, hrun ((selfTested_of_good hp hc).trans (by rw [ha])), hside.crp, ?_⟩
    rw [hside.integ]
    exact ⟨rfl, spareIn_applied hm, spareIn_inForce i _, rfl⟩
  · exact hrun (wayTested_of_not_clean i region w s)
  · have hside := wayTested_of_clean hp hh hf hd hw
    refine ⟨_, hrun rfl, fun v => ?_, fun r hr => ?_, fun j hj => ?_, hside.home, hside.mem, hside.crp, hside.pins⟩
    · rw [hside.sl, State.modSl_sl, Slice.wayEnabled_bit hwf]
    · rw [hside.sl, State.modSl_sl, Slice.wayEnabled_disMap_other hwf region w hr]
    · rw [hside.sl, State.modSl_sl_other _ _ hj]

end Sys2Proof.Machine
end

section
/-! PROOFS. The steps of the start-up between the self-test and the release of the firmware: the memories and the firmware image (R24, R315, R328,
R332, R333, R361, R370, R464, R467, R469, R517). -/

set_option Elab.async false

namespace Sys2Proof.Machine

/-! ### The phase of the steps, and repairs none of which waits -/

theorem nextPhase_eq (s : State) : ∃ ph : Phase, nextPhase s = { s with crp := { s.crp with phase := ph } } := by
  unfold nextPhase
  extract_lets c
  split
  · exact ⟨s.crp.phase, rfl⟩
  · exact ⟨_, rfl⟩

theorem startRepairs_of_none_waiting {s : State} (h : ∀ e ∈ s.integ.repMap, e.st ≠ .pending) (p : RepLoc → Bool) : startRepairs p s = again p s := by
  have hnone : s.integ.repMap.filter (fun e => decide (e.st = .pending) && p e.loc) = [] :=
    List.filter_eq_nil_iff.2 fun e he => by simp [h e he]
  simp only [startRepairs, hnone, List.map_nil, State.each_nil]

/-- With no repair waiting, the repairs of a step and the phase after it change only the repairs in force, their count and the phase. -/
theorem nextPhase_startRepairs {s : State} (h : ∀ e ∈ s.integ.repMap, e.st ≠ .pending) (p : RepLoc → Bool) :
    ∃ (ph : Phase) (v : List RepLoc) (n : W64), nextPhase (startRepairs p s) =
      { s with crp := { s.crp with phase := ph }, integ := { s.integ with inForce := v, repairs := n } } := by
  rw [startRepairs_of_none_waiting h]
  obtain ⟨ph, hph⟩ := nextPhase_eq (again p s)
  exact ⟨ph, _, _, hph⟩

section
variable {s : State} (hp : preparing s = true)
include hp

/-! ### HBM (R328, R361) -/

theorem hbmTrained_all (ho : s.crp.hbmOk = false) : hbmTrained 0xF s =
    nextPhase (startRepairs RepLoc.inHbm { s with mem := { s.mem with hbmTrained := 0xF }, crp := { s.crp with hbmOk := true } }) := by
  simp [hbmTrained, hp, ho]

theorem hbmTrained_not_all (ho : s.crp.hbmOk = false) {x : BitVec 4} (hx : x ≠ 0xF) :
    hbmTrained x s = startFail 1 (~~~x).toNat { s with mem := { s.mem with hbmTrained := x } } := by
  simp only [hbmTrained, hp, ho, ne_eq, hx, not_false_eq_true, Bool.not_true, Bool.or_self, Bool.false_eq_true, if_false, if_true]

theorem hbmFill_of_trained (ho : s.crp.hbmOk = true) : hbmFill s = nextPhase { s with mem := { s.mem with hbmFilled := true } } := by
  simp [hbmFill, hp, ho]

/-! ### The first GiB of DDR5 (R361) -/

theorem firstFill_of_trained (ho : s.crp.ddrOk = true) (hf : s.mem.fill1g = false) : firstFill s =
    nextPhase { s with mem := { s.mem with fill1g := true, fillBlk := 512 }, aon := { s.aon with fillBlk := 512 } } := by
  simp [firstFill, hp, ho, hf]

end

/-! ### DIMMs and channels (R332, R333, R370) -/

/-- The channels of 8 whose DIMM trained, one bit each. -/
def channelsUp (dimms : List (Option Dimm)) : BitVec 8 := (List.range 8).foldl (fun b c => setBit b c (dimms.getD c none).isSome) 0

theorem foldl_setBit_bit {n : Nat} (f : Nat → Bool) (m : Nat) {k : Nat} (hk : k < n) :
    bit ((List.range m).foldl (fun b c => setBit b c (f c)) (0 : BitVec n)) k = (decide (k < m) && f k) := by
  induction m with
  | zero => simp [bit]
  | succ m ih =>
    rw [List.range_succ, List.foldl_concat, bit_setBit _ _ _ hk, ih]
    grind

theorem channelsUp_bit (dimms : List (Option Dimm)) (c : Fin 8) : (channelsUp dimms).getLsbD c.val = (dimms.getD c.val none).isSome := by
  have h := foldl_setBit_bit (fun c => (dimms.getD c none).isSome) 8 c.isLt
  rwa [decide_eq_true c.isLt, Bool.true_and] at h

theorem dimmLike_first {dimms : List (Option Dimm)} {d : Dimm} (h : dimmLike dimms 0 = some d) : dimms.getD 0 none = some d ∧ dimmOk d = true := by
  unfold dimmLike at h
  split at h
  · next a b ha hb =>
    split at h
    · next hok =>
      obtain rfl : a = d := by simpa using h
      exact ⟨ha, hok.1⟩
    · cases h
  · cases h

theorem badChannels_isEmpty {dimms : List (Option Dimm)} {n : Nat} : (badChannels dimms n).isEmpty = true ↔ ∀ c < n, (dimmLike dimms c).isSome := by
  simp [badChannels, List.isEmpty_iff, List.filter_eq_nil_iff, Option.isSome_iff_ne_none]

/-- How many channels are selected, where the DIMMs allow it: 8 if they all carry the same, else 4. -/
def channelsUsed (dimms : List (Option Dimm)) : Nat := if (badChannels dimms 8).isEmpty then 8 else 4

theorem channelsUsed_cases (dimms : List (Option Dimm)) : (channelsUsed dimms = 8 ∧ ∀ c < 8, (dimmLike dimms c).isSome) ∨
    (channelsUsed dimms = 4 ∧ ∃ c < 8, dimmLike dimms c = none) := by
  unfold channelsUsed
  split
  · next h => exact .inl ⟨rfl, badChannels_isEmpty.1 h⟩
  · next h =>
    rw [badChannels_isEmpty] at h
    push Not at h
    simpa using h

/-- The four or eight channels selected carry the same DIMM where the first four do. -/
theorem badChannels_used_isEmpty {dimms : List (Option Dimm)} :
    (badChannels dimms (channelsUsed dimms)).isEmpty = true ↔ ∀ c < 4, (dimmLike dimms c).isSome := by
  rw [badChannels_isEmpty]
  rcases channelsUsed_cases dimms with ⟨hn, hall⟩ | ⟨hn, -⟩
  · rw [hn]
    exact ⟨fun _ c hc => hall c (by omega), fun _ => hall⟩
  · rw [hn]

/-- The device whose DIMMs are trained. -/
def dimmsTrained (dimms : List (Option Dimm)) (s : State) : State := { s with mem := { s.mem with ddrTrained := channelsUp dimms, selfRef := false } }

/-- A channel selected carries a DIMM that trained below DDR5-6400 (R337). -/
def anySlow (dimms : List (Option Dimm)) : Bool := (List.range (channelsUsed dimms)).any (fun c => match dimmLike dimms c with
  | some x => x.slow
  | none => false)

/-- The device whose channels are selected, with DIMMs like d. -/
def channelsSelected (dimms : List (Option Dimm)) (d : Dimm) (s : State) : State := { s with
  mem := { s.mem with
    chan := if channelsUsed dimms = 8 then 0xFF else 0x0F, dimmGib := BitVec.ofNat 8 d.gib
    ranks2 := d.rank2, dens := d.dens, slow := anySlow dimms, size := BitVec.ofNat 64 (channelsUsed dimms * d.gib * 2 ^ 30) }
  crp := { s.crp with ddrOk := true } }

section
variable {s : State} (hp : preparing s = true) (ho : s.crp.ddrOk = false) {dimms : List (Option Dimm)}
include hp ho

theorem ddrTrain_of_like {d : Dimm} (hd : dimmLike dimms 0 = some d) (h4 : ∀ c < 4, (dimmLike dimms c).isSome) :
    ddrTrain dimms s = nextPhase (startRepairs RepLoc.inDdr (channelsSelected dimms d (dimmsTrained dimms s))) := by
  have hall := badChannels_used_isEmpty.2 h4
  rw [channelsUsed] at hall
  simp only [ddrTrain, hp, ho, hd, hall, Bool.not_true, Bool.or_self, Bool.false_eq_true, if_false, if_true]
  rfl

theorem ddrTrain_of_unlike (h4 : ∃ c < 4, dimmLike dimms c = none) : ∃ idx : Nat, ddrTrain dimms s = startFail 2 idx (dimmsTrained dimms s) := by
  have hbad : ¬ (badChannels dimms (channelsUsed dimms)).isEmpty = true := by
    obtain ⟨c, hc, hnone⟩ := h4
    exact fun h => by simpa [hnone] using badChannels_used_isEmpty.1 h c hc
  rw [channelsUsed] at hbad
  refine ⟨(badChannels dimms 4).foldl (fun a c => a + 2 ^ c) 0, ?_⟩
  simp only [ddrTrain, hp, ho, hbad, Bool.not_true, Bool.or_self, Bool.false_eq_true, if_false]
  split <;> rfl

end

/-! ### The firmware image (R24, R315, R464, R469, R517) -/

/-- The image is chosen: the kept one, or that of a slot, read from its flash address. -/
def imageRead (k : Bool) (r : ImageResult) (s : State) : State := { s with crp := { s.crp with
  slotB := if k then s.crp.slotB else !r.sigA
  flash := if k then s.crp.flash else ⟨true, true, slotAddr (!r.sigA)⟩ } }

theorem imageRead_eq {k : Bool} {r : ImageResult} {s : State} (hk : k = (decide (s.crp.kind = 2) && r.kept)) :
    (if s.crp.kind = 2 ∧ r.kept = true then s else if r.sigA then flashRead false s else flashRead true (flashRead false s)) = imageRead k r s := by
  have hiff : (s.crp.kind = 2 ∧ r.kept = true) ↔ k = true := by simp [hk]
  simp only [hiff]
  cases k
  · cases h : r.sigA <;> simp [imageRead, flashRead, h]
  · rfl

section
variable {s : State} (hp : preparing s = true) (ho : s.crp.imageOk = false) {k : Bool} {r : ImageResult}
  (hk : k = (decide (s.crp.kind = 2) && r.kept))
include hp ho hk

theorem imageLoaded_eq : imageLoaded r s = if !k && !r.sigA && !r.sigB then startFail 5 0 (imageRead k r s)
    else if !descOk r.desc then startFail 6 0 (imageRead k r s)
    else nextPhase (loadDesc r.desc { imageRead k r s with crp := { (imageRead k r s).crp with imageOk := true } }) := by
  simp only [imageLoaded, hp, ho, imageRead_eq hk, ← hk, Bool.not_true, Bool.or_self, Bool.false_eq_true, if_false]

theorem imageLoaded_of_bad (hb : k = false ∧ r.sigA = false ∧ r.sigB = false) : imageLoaded r s = startFail 5 0 (imageRead k r s) := by
  obtain ⟨h1, h2, h3⟩ := hb
  rw [imageLoaded_eq hp ho hk, if_pos (by simp [h1, h2, h3])]

variable (hg : k = true ∨ r.sigA = true ∨ r.sigB = true)
include hg

theorem imageLoaded_of_refused (hd : descOk r.desc = false) : imageLoaded r s = startFail 6 0 (imageRead k r s) := by
  rw [imageLoaded_eq hp ho hk, if_neg (by rcases hg with h | h | h <;> simp [h]), if_pos (by simp [hd])]

theorem imageLoaded_of_good (hd : descOk r.desc = true) :
    imageLoaded r s = nextPhase (loadDesc r.desc { imageRead k r s with crp := { (imageRead k r s).crp with imageOk := true } }) := by
  rw [imageLoaded_eq hp ho hk, if_neg (by rcases hg with h | h | h <;> simp [h]), if_neg (by simp [hd])]

end

/-- The identity a description gives a node. -/
def Node.described (d : SysDesc) (n : Node) : Node := { n with
  loaded := true, node := d.node, xsz := BitVec.ofNat 6 (d.xsz - 1), ysz := BitVec.ofNat 6 (d.ysz - 1), zsz := BitVec.ofNat 6 (d.zsz - 1)
  root := d.root, dist := if d.node = d.root then 0 else 0x7F, desc := d }

/-- A fabric port once the node is known: it trains where it is enabled and has a neighbour. -/
def FPort.identified (n : Node) (f : FPortNo) (x : FPort) : FPort :=
  match neighbour n n.node f with
  | some _ => if x.en then { x with link := .training } else x
  | none => x

/-- A change of every fabric port that depends on the port's number. -/
theorem State.each_modFp_at (g : FPortNo → FPort → FPort) (l : List FPortNo) (hn : l.Nodup) (s : State) (i : FPortNo) :
    (s.each l (fun s i => s.modFp i (g i))).fp i = if i ∈ l then g i (s.fp i) else s.fp i := by
  induction l generalizing s with
  | nil => rfl
  | cons a t ih =>
    obtain ⟨hat, ht⟩ := List.nodup_cons.1 hn
    rw [show s.each (a :: t) (fun s i => s.modFp i (g i)) = (s.modFp a (g a)).each t (fun s i => s.modFp i (g i)) from rfl, ih ht]
    by_cases e : i = a
    · subst e; simp [hat]
    · simp [e, State.modFp_fp_other _ _ e]

theorem State.each_modFp_at_only (g : FPortNo → FPort → FPort) (l : List FPortNo) (s : State) :
    s.each l (fun s i => s.modFp i (g i)) = { s with fports := (s.each l (fun s i => s.modFp i (g i))).fports } := by
  induction l generalizing s with
  | nil => rfl
  | cons a t ih => exact ih (s.modFp a (g a))

theorem modFp_identified (n : Node) (f : FPortNo) (u : State) : u.modFp f (FPort.identified n f) = match neighbour n n.node f with
    | some _ => if (u.fp f).en then u.modFp f (fun x => { x with link := .training }) else u
    | none => u := by
  unfold State.modFp FPort.identified
  split
  · split
    · rfl
    · rw [State.setFp_self]
  · rw [State.setFp_self]

theorem loadDesc_each (d : SysDesc) (s : State) : loadDesc d s =
    ({ s with node := s.node.described d } : State).each fportNos (fun u f => u.modFp f (FPort.identified (s.node.described d) f)) := by
  unfold loadDesc
  exact congrArg (State.each _ fportNos) (funext fun u => funext fun f => (modFp_identified (s.node.described d) f u).symm)

theorem loadDesc_fp (d : SysDesc) (s : State) (f : FPortNo) : (loadDesc d s).fp f = FPort.identified (s.node.described d) f (s.fp f) := by
  rw [loadDesc_each, State.each_modFp_at _ _ (by decide), if_pos ((by decide : ∀ f, f ∈ fportNos) f)]
  rfl

theorem loadDesc_eq (d : SysDesc) (s : State) : loadDesc d s = { s with node := s.node.described d, fports := (loadDesc d s).fports } := by
  rw [loadDesc_each]
  exact State.each_modFp_at_only _ _ _

/-- A description loaded, and the phase after it, change the node, the fabric ports and the phase. -/
theorem nextPhase_loadDesc (d : SysDesc) (s : State) : ∃ ph : Phase, nextPhase (loadDesc d s) =
    { s with node := s.node.described d, fports := (loadDesc d s).fports, crp := { s.crp with phase := ph } } := by
  obtain ⟨ph, he⟩ := nextPhase_eq (loadDesc d s)
  exact ⟨ph, he.trans (congrArg (fun u : State => { u with crp := { u.crp with phase := ph } }) (loadDesc_eq d s))⟩

theorem toNat_axis {n : Nat} (h : 1 ≤ n ∧ n ≤ 64) : (BitVec.ofNat 6 (n - 1)).toNat = n - 1 := by
  rw [BitVec.toNat_ofNat]
  omega

/-- A description that R24 admits has axes of 1 to 64. -/
theorem descOk_axes {d : SysDesc} (h : descOk d = true) :
    (1 ≤ d.xsz ∧ d.xsz ≤ 64) ∧ (1 ≤ d.ysz ∧ d.ysz ≤ 64) ∧ 1 ≤ d.zsz ∧ d.zsz ≤ 64 := by
  simp only [descOk, Bool.and_eq_true, decide_eq_true_eq] at h
  tauto

theorem Node.described_dist (d : SysDesc) (n : Node) : (n.described d).dist = 0 ↔ d.node = d.root := by
  by_cases h : d.node = d.root <;> simp [Node.described, h]

/-! ### The commands -/

/-- Settles O21: each step is one state, whose phase the steps done give, or the start-up fails. -/
theorem memoriesAndImageComeUp : Obligations.MemoriesAndImageComeUp := by
  refine ⟨fun s x dimms hk hp hrep => ⟨fun ho hx => ?_, fun ho hx => ?_, fun ho => ?_, fun ho hd h4 => ?_, fun ho h4 => ?_, fun ho hf => ?_⟩,
    fun s r k hk hp ho hkept => ⟨fun h1 h2 h3 => ?_, fun hg hd => ?_, fun hg hd => ?_⟩⟩
  all_goals have hrun {g : State → State} {t : State} (h : g s = t) : onClock s g = .next t := by rw [onClock_run hk, h]
  · obtain ⟨ph, v, n, he⟩ := nextPhase_startRepairs
      (s := { s with mem := { s.mem with hbmTrained := 0xF }, crp := { s.crp with hbmOk := true } }) hrep RepLoc.inHbm
    subst hx
    exact ⟨_, hrun ((hbmTrained_all hp ho).trans he), rfl, rfl⟩
  · obtain ⟨q, -, -, he⟩ := startFail_eq 1 (~~~x).toNat { s with mem := { s.mem with hbmTrained := x } }
    exact ⟨_, hrun ((hbmTrained_not_all hp ho hx).trans he), rfl, rfl, failedStart_fp_link q _⟩
  · obtain ⟨ph, he⟩ := nextPhase_eq { s with mem := { s.mem with hbmFilled := true } }
    exact ⟨_, hrun ((hbmFill_of_trained hp ho).trans he), rfl, rfl⟩
  · obtain ⟨d, hd⟩ := hd
    obtain ⟨hfirst, hok⟩ := dimmLike_first hd
    obtain ⟨ph, v, n, he⟩ := nextPhase_startRepairs (s := channelsSelected dimms d (dimmsTrained dimms s)) hrep RepLoc.inDdr
    exact ⟨_, d, channelsUsed dimms, hrun ((ddrTrain_of_like hp ho hd h4).trans he), hfirst, hok, channelsUsed_cases dimms,
      rfl, rfl, rfl, rfl, rfl, channelsUp_bit dimms, rfl⟩
  · obtain ⟨idx, htrain⟩ := ddrTrain_of_unlike hp ho h4
    obtain ⟨q, -, -, he⟩ := startFail_eq 2 idx (dimmsTrained dimms s)
    exact ⟨_, hrun (htrain.trans he), rfl, failedStart_fp_link q _, rfl, channelsUp_bit dimms⟩
  · obtain ⟨ph, he⟩ := nextPhase_eq { s with mem := { s.mem with fill1g := true, fillBlk := 512 }, aon := { s.aon with fillBlk := 512 } }
    exact ⟨_, hrun ((firstFill_of_trained hp ho hf).trans he), rfl, rfl, rfl⟩
  · obtain ⟨q, -, -, he⟩ := startFail_eq 5 0 (imageRead k r s)
    exact ⟨_, hrun ((imageLoaded_of_bad hp ho hkept ⟨h1, h2, h3⟩).trans he), rfl, ho, rfl, failedStart_fp_link q _⟩
  · obtain ⟨q, -, -, he⟩ := startFail_eq 6 0 (imageRead k r s)
    exact ⟨_, hrun ((imageLoaded_of_refused hp ho hkept hg hd).trans he), rfl, ho, rfl, failedStart_fp_link q _⟩
  · obtain ⟨ph, he⟩ := nextPhase_loadDesc r.desc { imageRead k r s with crp := { (imageRead k r s).crp with imageOk := true } }
    obtain ⟨hx, hy, hz⟩ := descOk_axes hd
    exact ⟨_, hrun ((imageLoaded_of_good hp ho hkept hg hd).trans he), rfl, rfl, rfl, rfl, rfl, toNat_axis hx, toNat_axis hy, toNat_axis hz, rfl,
      Node.described_dist r.desc s.node, loadDesc_fp r.desc _, rfl⟩

end Sys2Proof.Machine
end

section
/-! PROOFS. Commands of the mailboxes, the event queues and the firmware that raise MSI-X on a port in Recovery (R289, R382, R385, R399, R403). -/

set_option Elab.async false

namespace Sys2Proof.Machine

/-! ### The acknowledge of a PING -/

/-- PING with sequence 0x55. -/
def pingWord : W32 := 0x01550000

theorem pingWord_posted : Posted (postedInRecovery pingWord) 1 0 0x01 0 := by constructor <;> decide +kernel

/-- The CMD_DONE of the PING raises the attention of HP1, whose MSI-X message waits for the end of Recovery. -/
theorem ping_holds_msix : heldAfter (.ping 1 0) (postedInRecovery pingWord) 1 = [.msix] := by decide +kernel

/-- Refutes O50: the CMD_DONE of a PING may raise MSI-X on its own port while that is in Recovery, and the message is then held in the port (R289). -/
theorem not_commandsAreAnsweredAtTheTake : ¬ Obligations.CommandsAreAnsweredAtTheTake := by
  intro h
  obtain ⟨hping, -⟩ := h (postedInRecovery pingWord) 1 0 0x01 0 pingWord_posted (by decide +kernel)
  obtain ⟨t, he, -, -, hmail, -⟩ := hping rfl
  exact not_samePorts_of_heldAfter (q := 1) he (by rw [ping_holds_msix]; decide) hmail.hports

/-! ### The age of a packet -/

/-- An event queue with one packet of one word, published at time 0 and unread. -/
def unreadPacket : Evq := { Evq.reset with wr := 1, heads := [(0, 0)] }

/-- The device 10 µs later, which is the HOLD of its queues. -/
def packetAged : State := { recoveringHost with
  evq := Vector.replicate 4 unreadPacket
  gen := { recoveringHost.gen with time := 4000 } }

/-- The age of the packet raises the attention of HP1, whose MSI-X message waits for the end of Recovery. -/
theorem evqHoldExpiry_holds_msix : heldAfter (.evqHoldExpiry 1) packetAged 1 = [.msix] := by decide +kernel

/-- Refutes O55: the attention that the age of a packet raises may raise MSI-X on its port while that is in Recovery, and the message is then held in
the port (R289). -/
theorem not_eventQueueRegistersWork : ¬ Obligations.EventQueueRegistersWork := by
  intro h
  obtain ⟨-, -, -, -, hage⟩ := h packetAged 1 { master := 1 } _ rfl
  obtain ⟨t, he, -, -, hports, -⟩ := hage (0, 0) 10 (by decide +kernel) (by decide +kernel) (by decide +kernel) (by decide +kernel) (by decide +kernel)
    (by decide +kernel)
  exact not_samePorts_of_heldAfter (q := 1) he (by rw [evqHoldExpiry_holds_msix]; decide) hports

/-! ### The stop of the firmware -/

/-- A stopped firmware is an interrupt cause of HP1 (R402), whose MSI-X message waits for the end of Recovery. -/
theorem fwRestart_again_holds_msix : heldAfter (.fwRestart false true) recoveringHost 1 = [.msix] := by decide +kernel

/-- Refutes O52: the second fault, which leaves the firmware stopped, may raise MSI-X on a port in Recovery, and the message is then held in that port
(R289). -/
theorem not_firmwareChangesState : ¬ Obligations.FirmwareChangesState := by
  intro h
  obtain ⟨-, hfault, -⟩ := h recoveringHost (by decide +kernel)
  obtain ⟨hagain, -⟩ := hfault false true (.inl rfl)
  obtain ⟨t, he, -, -, -, -, -, hports⟩ := hagain rfl
  exact not_samePorts_of_heldAfter (q := 1) he (by rw [fwRestart_again_holds_msix]; decide) hports

end Sys2Proof.Machine
end

section
/-! PROOFS. The interrupt causes of a port and IRQ_N (R402 to R405). -/

set_option Elab.async false

namespace Sys2Proof.Machine

theorem bit_bit32 {i : Nat} (hi : i < 32) (b : Bool) (k : Nat) : bit (bit32 i b) k = (decide (k = i) && b) := by
  cases b with
  | false => simp [bit, bit32]
  | true =>
    have hone : ((1 : W32) <<< i).getLsbD k = _ := BitVec.getLsbD_twoPow i k
    rw [bit, bit32, if_pos rfl, hone]
    simp [hi, eq_comm]

theorem bit_or {w : Nat} (x y : BitVec w) (k : Nat) : bit (x ||| y) k = (bit x k || bit y k) := BitVec.getLsbD_or

/-- Each cause is its own bit (R402). -/
theorem bit_irqCauses (s : State) (p : Port) (k : Nat) : bit (irqCauses s p) k = (
    (decide (k = 0) && (s.mb p).box.toList.any (·.outFull)) || (decide (k = 1) && (s.eq p).attn) || (decide (k = 2) && (s.eq p).dropped) ||
      (decide (k = 3) && (decide (s.fw.st = .restart) || decide (s.fw.st = .stopped)))) := by
  rw [irqCauses, bit_or, bit_or, bit_or, bit_bit32 (by decide), bit_bit32 (by decide), bit_bit32 (by decide), bit_bit32 (by decide)]

/-! ### What the registers read -/

theorem regVal_mbxIrqStat (s : State) (m : Master) (p : Port) : regVal s m (.mbxIrqStat p) = irqCauses s p := BitVec.or_zero

theorem regVal_mbxIrqEn (s : State) (m : Master) (p : Port) : regVal s m (.mbxIrqEn p) = (s.mb p).irqEn := BitVec.or_zero

theorem regVal_integLbCtl (s : State) (m : Master) : regVal s m .integLbCtl = s.integ.lbCtl.get vmLb := rfl

/-- The level of the leaky bucket fills bits 15 to 0 of INTEG_LB_STAT, so that bit 16 is OVER alone. -/
theorem bit_integLbStat_over (s : State) (m : Master) : bit (regVal s m .integLbStat) 16 = s.integ.overThr := by
  have hval : regVal s m .integLbStat = BitVec.ofNat 32 (s.integ.level.toNat + nb 16 s.integ.overThr) := by
    refine BitVec.zero_or.trans ?_
    simp [slcRead, hportRead, unitRead, partRead]
  have hlev : s.integ.level.toNat < 2 ^ 16 := s.integ.level.isLt
  rw [hval, bit, BitVec.getLsbD_ofNat]
  cases s.integ.overThr with
  | false => simp [nb, Nat.testBit_lt_two_pow hlev]
  | true => simp [nb, Nat.add_comm _ 65536, Nat.testBit_two_pow_add_eq (i := 16), Nat.testBit_lt_two_pow hlev]

/-! ### IRQ_N -/

theorem irqLive_iff (s : State) (m : Master) (p : Port) : irqLive s p = true ↔ regVal s m (.mbxIrqStat p) &&& regVal s m (.mbxIrqEn p) ≠ 0 := by
  rw [irqLive, decide_eq_true_iff, regVal_mbxIrqStat, regVal_mbxIrqEn]

/-- A port sends MSI-X, or drives IRQ_N (R404). -/
theorem drivesIrqN_iff (h : HPort) : (!(h.proto && h.msix)) = true ↔ ¬(h.proto = true ∧ h.msix = true) := by
  rw [Bool.not_eq_true', Bool.eq_false_iff, Ne, Bool.and_eq_true]

theorem mem_ports : ∀ p : Port, p ∈ ports := by decide

/-- Settles O59: the causes are bits of one word, and IRQ_N is the test of that word and of the leaky bucket. -/
theorem interruptsFollowTheirCauses : Obligations.InterruptsFollowTheirCauses := by
  refine fun s p m => ⟨fun k => by rw [regVal_mbxIrqStat, bit_irqCauses], ?_⟩
  have hports : ports.any (fun q => !((s.hp q).proto && (s.hp q).msix) && irqLive s q) = true ↔
      ∃ q : Port, ¬((s.hp q).proto = true ∧ (s.hp q).msix = true) ∧ regVal s m (.mbxIrqStat q) &&& regVal s m (.mbxIrqEn q) ≠ 0 := by
    simp only [List.any_eq_true, mem_ports, true_and, Bool.and_eq_true, drivesIrqN_iff, irqLive_iff s m]
  rw [irqN, Bool.or_eq_true, hports, Bool.and_eq_true, bit_integLbStat_over, regVal_integLbCtl]
  rfl

end Sys2Proof.Machine
end

section
/-! PROOFS. The warm drain that WRST_N begins, the power-fail drain that PFAIL_N or a rail begins, and WRST_N as RESET_N (R457, R459, R472, R490). -/

set_option Elab.async false

namespace Sys2Proof.Machine

/-! ### A host port at WRST_N (R403, R414, R417, R461) -/

/-- A host port whose link WRST_N takes down. -/
def HPort.cut (h : HPort) : HPort := { h with link := .down, admOpen := false, msix := false, msixLive := false }

/-- A host port for which no notice of quarantines waits. -/
def HPort.unquarantined (h : HPort) : HPort := { h with quarCnt := 0, quarWait := false }

/-- A host port that WRST_N has taken down. -/
def HPort.dropped (h : HPort) : HPort := h.cut.unquarantined

/-- One port goes down at WRST_N, with its key, its semaphores and the notice that waits for it, and then the snoops it owes end. -/
def dropPort (s : State) (p : Port) : State :=
  (quarEnds p (masterGone (hostMaster p) (s.modHp p HPort.cut))).each
    (s.hp p).snps (fun s n => snoopEnds p n false none opcSnpRsp s)

theorem portsDrop_each (s : State) : portsDrop s = s.each ports dropPort := rfl

/-- From s to t the ports of a list have gone down: their masters have lost key and semaphores, and only notices that waited went besides. -/
structure Dropped (l : List Port) (s t : State) : Prop where
  port : ∀ q : Port, t.hp q = if q ∈ l then (s.hp q).dropped else s.hp q
  key  : ∀ q : Port, vget t.gen.keys q.val true = if q ∈ l then false else vget s.gen.keys q.val true
  sem  : ∀ n : Fin 8, t.gen.sem[n] = if ∃ q ∈ l, (s.gen.sem[n]).toNat = q.val + 1 then 0 else s.gen.sem[n]
  rest : t = { s with hports := t.hports, gen := t.gen, mbx := t.mbx }

theorem Dropped.refl (s : State) : Dropped [] s s where
  port _ := by simp
  key _ := by simp
  sem _ := by simp
  rest := rfl

theorem Dropped.cons {p : Port} {l : List Port} {s t u : State} (h : Dropped [p] s t) (h' : Dropped l t u) : Dropped (p :: l) s u where
  port q := by
    rw [h'.port, h.port]
    by_cases hq : q = p <;> by_cases hl : q ∈ l <;> simp [hq, hl, HPort.dropped, HPort.unquarantined, HPort.cut]
  key q := by
    rw [h'.key, h.key]
    by_cases hq : q = p <;> by_cases hl : q ∈ l <;> simp [hq, hl]
  sem n := by
    rw [h'.sem, h.sem]
    generalize s.gen.sem[n] = x
    by_cases hx : x.toNat = p.val + 1 <;> simp [hx]
  rest := by rw [h'.rest, h.rest]

/-- What is neither of the ports, of their masters nor of the mailboxes stays. -/
theorem Dropped.kept {l : List Port} {s t : State} (h : Dropped l s t) {α : Type} (f : State → α)
    (hf : ∀ (u : State) (x : Vector HPort 4) (g : Gen) (m : Vector Mbx 4), f { u with hports := x, gen := g, mbx := m } = f u) : f t = f s := by
  rw [h.rest, hf]

theorem masterGone_sem_get (m : Master) (s : State) (n : Fin 8) :
    (masterGone m s).gen.sem[n] = if (s.gen.sem[n]).toNat = m.val + 1 then 0 else s.gen.sem[n] := by
  simp [masterGone]

/-- A semaphore held by some host is 1 to 4 (R417). -/
theorem exists_port_sem_iff (x : BitVec 3) : (∃ q ∈ ports, x.toNat = q.val + 1) ↔ 1 ≤ x.toNat ∧ x.toNat ≤ 4 := by
  refine ⟨fun ⟨q, _, hq⟩ => ?_, fun h => ⟨⟨x.toNat - 1, by omega⟩, mem_ports _, ?_⟩⟩
  · have hlt := q.isLt
    omega
  · exact (Nat.sub_add_cancel h.1).symm

/-- A port that owes no snoop goes down alone. -/
theorem dropPort_dropped {s : State} {p : Port} (h : (s.hp p).snps = []) : Dropped [p] s (dropPort s p) := by
  unfold dropPort
  rw [h, State.each_nil]
  refine ⟨fun q => ?_, fun q => ?_, fun n => ?_, rfl⟩
  · have hport : (quarEnds p (masterGone (hostMaster p) (s.modHp p HPort.cut))).hp q = (s.modHp p HPort.dropped).hp q :=
      calc _ = ((s.modHp p HPort.cut).modHp p HPort.unquarantined).hp q := rfl
        _ = _ := by rw [State.modHp_modHp]; rfl
    rw [hport]
    by_cases hq : q = p
    · rw [hq, State.modHp_hp, if_pos (by simp)]
    · rw [State.modHp_hp_other _ _ hq, if_neg (by simp [hq])]
  · show vget (vset s.gen.keys p.val false) q.val true = _
    by_cases hq : q = p
    · rw [hq, vget_vset_same _ _ _ _ (by omega), if_pos (by simp)]
    · rw [vget_vset_other _ _ _ (fun e => hq (Fin.ext e)), if_neg (by simp [hq])]
  · refine (masterGone_sem_get (hostMaster p) s n).trans ?_
    by_cases hn : (s.gen.sem[n]).toNat = (hostMaster p).val + 1
    · rw [if_pos hn, if_pos ⟨p, List.mem_singleton_self p, hn⟩]
    · rw [if_neg hn, if_neg fun ⟨q, hq, he⟩ => hn (List.mem_singleton.1 hq ▸ he)]

theorem each_dropPort_dropped (l : List Port) (s : State) (h : ∀ p : Port, (s.hp p).snps = []) : Dropped l s (s.each l dropPort) := by
  induction l generalizing s with
  | nil => exact .refl s
  | cons p l ih =>
    have hp : Dropped [p] s (dropPort s p) := dropPort_dropped (h p)
    refine hp.cons (ih _ fun q => ?_)
    rw [hp.port]
    split <;> exact h q

/-! ### Empty buffers at the start of a drain (R100) -/

/-- The device with the admission of every port closed. -/
def admissionShut (s : State) : State := { s with arb := { s.arb with allShut := true } }

/-- A slice whose Reedbed has given up its lines to a power failure, those still on their way apart. -/
def Slice.failRb (x : Slice) : Slice := { x with rb := x.rb.filter (·.awaited) }

/-- What the start of a drain does in one slice. -/
def drainSlice (warm : Bool) (s : State) (i : SliceNo) : State :=
  if warm then (rbFree (fun _ => true) i s).modSl i Slice.flushPlru else s.modSl i Slice.failRb

theorem drainBegin_of_unbuffered {s : State} (h : Unbuffered s) (warm : Bool) : drainBegin warm s = (admissionShut s).each sliceNos (drainSlice warm) := by
  have hu : Unbuffered (admissionShut s) := ⟨h.wmb, h.ntc⟩
  calc drainBegin warm s = (issueEvery (closeEntries (fun _ => true) (fun _ => true) (admissionShut s))).each sliceNos (drainSlice warm) := rfl
    _ = (admissionShut s).each sliceNos (drainSlice warm) := by rw [closeEntries_of_unbuffered hu, issueEvery_of_unbuffered hu]

/-- In a power-fail drain the lines of the Reedbed are given up, those still on their way apart. -/
theorem drainBegin_fail {s : State} (h : Unbuffered s) : drainBegin false s =
    { admissionShut s with slices := s.slices.map Slice.failRb } :=
  calc drainBegin false s = (admissionShut s).each sliceNos (drainSlice false) := drainBegin_of_unbuffered h false
    _ = (admissionShut s).each sliceNos (fun s i => s.modSl i Slice.failRb) := rfl
    _ = _ := State.each_modSl (admissionShut s) _

/-- With nothing in the Reedbed there is nothing to give up. -/
theorem rbFree_of_empty {s : State} {i : SliceNo} (h : (s.sl i).rb = []) (f : LAddr → Bool) : rbFree f i s = s := by
  rw [rbFree, h]
  rfl

theorem each_drainSlice_of_empty (l : List SliceNo) (hn : l.Nodup) (s : State) (h : ∀ i ∈ l, (s.sl i).rb = []) :
    s.each l (drainSlice true) = s.each l (fun s i => s.modSl i Slice.flushPlru) := by
  induction l generalizing s with
  | nil => rfl
  | cons a t ih =>
    obtain ⟨hat, ht⟩ := List.nodup_cons.1 hn
    obtain ⟨ha, hall⟩ := List.forall_mem_cons.1 h
    have hslice : drainSlice true s a = s.modSl a Slice.flushPlru := by rw [drainSlice, if_pos rfl, rbFree_of_empty ha]
    have hrest : ∀ i ∈ t, ((s.modSl a Slice.flushPlru).sl i).rb = [] := fun i hi => by
      rw [State.modSl_sl_other _ _ fun e : i = a => hat (e ▸ hi)]
      exact hall i hi
    calc s.each (a :: t) (drainSlice true) = (drainSlice true s a).each t (drainSlice true) := rfl
      _ = (s.modSl a Slice.flushPlru).each t (drainSlice true) := by rw [hslice]
      _ = (s.modSl a Slice.flushPlru).each t (fun s i => s.modSl i Slice.flushPlru) := ih ht _ hrest

/-- In a warm drain with an empty Reedbed the shadow's PLRU is written, and nothing else changes in the slices. -/
theorem drainBegin_warm {s : State} (h : Unbuffered s) (hrb : ∀ i : SliceNo, (s.sl i).rb = []) :
    drainBegin true s = { admissionShut s with slices := s.slices.map Slice.flushPlru } :=
  calc drainBegin true s = (admissionShut s).each sliceNos (drainSlice true) := drainBegin_of_unbuffered h true
    _ = (admissionShut s).each sliceNos (fun s i => s.modSl i Slice.flushPlru) := each_drainSlice_of_empty sliceNos (by decide) _ fun i _ => hrb i
    _ = _ := State.each_modSl (admissionShut s) _

/-! ### The pins on a frozen die, and WRST_N (R457, R459, R490) -/

/-- The device in the warm drain, its ports still up. -/
def warmDraining (s : State) : State := { s with
  pins := { s.pins with wrstN := false }, aon := { s.aon with cause := 2 }, crp := { s.crp with phase := .warmDrain, drained := false } }

section
variable {s : State} (hon : s.crp.waitOn = false) (hrst : s.crp.waitRst = false) (hst : s.crp.started = true)
include hon hrst hst

/-- On a frozen die, and where the content is not kept, WRST_N acts as RESET_N. -/
theorem warmPin_cold (h : s.dbg.frozen = true ∨ s.crp.phase ≠ .pfDrain ∧ s.crp.phase ≠ .warmDrain ∧ warmAsCold s = true) :
    warmPin s = assertCold { s with pins := { s.pins with wrstN := false } } := by
  unfold warmPin
  rw [if_neg (by simp [hon, hrst, hst])]
  by_cases hf : s.dbg.frozen = true
  · rw [if_pos hf]
  · obtain ⟨hpf, hwd, hcold⟩ := h.resolve_left hf
    rw [if_neg hf, if_neg (not_or.2 ⟨hpf, hwd⟩), if_pos hcold]

theorem warmPin_warm (hf : s.dbg.frozen = false) (hpf : s.crp.phase ≠ .pfDrain) (hwd : s.crp.phase ≠ .warmDrain) (hcold : warmAsCold s = false) :
    warmPin s = drainBegin true (portsDrop (warmDraining s)) := by
  unfold warmPin
  rw [if_neg (by simp [hon, hrst, hst]), if_neg (by simp [hf]), if_neg (not_or.2 ⟨hpf, hwd⟩), if_neg (by simp [hcold])]
  rfl

theorem failDrain_frozen (hf : s.dbg.frozen = true) : failDrain s = drainRec 3 (leftOver s) (latchCounts s) := by
  unfold failDrain
  rw [if_neg (by simp [hon, hrst, hst]), if_pos hf]

end

/-- With empty buffers and no snoop owed the warm drain takes the ports down, closes admission and writes the PLRU. -/
theorem exec_wrstN_warm {s : State} (hup : s.aon.up = true) (hpin : warmPin s = drainBegin true (portsDrop (warmDraining s))) (hu : Unbuffered s)
    (hrb : ∀ i : SliceNo, (s.sl i).rb = []) (hsnp : ∀ p : Port, (s.hp p).snps = []) :
    ∃ t : State, Dropped ports (warmDraining s) t ∧ exec .wrstN s = .next { admissionShut t with slices := t.slices.map Slice.flushPlru } := by
  have hd : Dropped ports (warmDraining s) (portsDrop (warmDraining s)) := each_dropPort_dropped ports (warmDraining s) hsnp
  have hsl (i : SliceNo) : (portsDrop (warmDraining s)).sl i = s.sl i := hd.kept (State.sl · i) fun _ _ _ _ => rfl
  have hu' : Unbuffered (portsDrop (warmDraining s)) :=
    ⟨fun i => by rw [hsl]; exact hu.wmb i, fun q => by rw [hd.port, if_pos (mem_ports q)]; exact hu.ntc q⟩
  refine ⟨_, hd, (onAon_run hup warmPin).trans (congrArg _ ?_)⟩
  rw [hpin, drainBegin_warm hu' fun i => by rw [hsl]; exact hrb i]

/-! ### PFAIL_N and the trip of a rail (R457, R472, R508) -/

/-- A stop before the power failure stands as the cause, unless the failure comes in a start-up (R457). -/
def stopStands (ph : Phase) : Bool := decide (ph = .running) || decide (ph = .warmDrain) || decide (ph = .stopped)

theorem stopStands_eq (ph : Phase) : stopStands ph = [Phase.running, .warmDrain, .stopped].contains ph := by cases ph <;> rfl

/-- The device whose power-fail drain begins, before its buffers are looked at. -/
def failing (s : State) : State := { s with
  crp := { s.crp with phase := .pfDrain }
  aon := { s.aon with stopHeld := s.aon.stopHeld && stopStands s.crp.phase }
  hports := s.hports.map (fun h => { h with rsv := [], rsvBad := [] }) }

theorem failDrain_eq {s : State} (hon : s.crp.waitOn = false) (hrst : s.crp.waitRst = false) (hst : s.crp.started = true)
    (hf : s.dbg.frozen = false) (hpf : s.crp.phase ≠ .pfDrain) :
    failDrain s = if s.crp.phase = .running ∨ s.crp.phase = .warmDrain then drainBegin false (failing s) else failing s := by
  unfold failDrain
  rw [if_neg (by simp [hon, hrst, hst]), if_neg (by simp [hf]), if_neg hpf]
  rfl

theorem failing_hp (s : State) (p : Port) : (failing s).hp p = { s.hp p with rsv := [], rsvBad := [] } := by simp [failing, State.hp]

theorem failing_unbuffered {s : State} (h : Unbuffered s) : Unbuffered (failing s) := ⟨h.wmb, fun q => by rw [failing_hp]; exact h.ntc q⟩

/-- PFAIL_N, and the trip of a rail but AON's while PFAIL_N is high, begin the power-fail drain. -/
theorem exec_failDrain {s : State} (hup : s.aon.up = true) (hst : s.crp.started = true) {c : Instr × Pins}
    (hc : c ∈ [(Instr.pfailN, { s.pins with pfailN := false }), (Instr.railTrip false, s.pins)]) (hpin : c.1 = .railTrip false → s.pins.pfailN = true) :
    exec c.1 s = .next (failDrain { s with pins := c.2 }) := by
  rcases List.mem_pair.1 hc with rfl | rfl
  · exact onAon_run hup (fun s => failDrain { s with pins := { s.pins with pfailN := false } })
  · refine (onAon_run hup (railTrip false)).trans (congrArg _ ?_)
    rw [railTrip, if_neg (by simp), if_pos (by simp [hst, hpin rfl])]

/-- Settles O15: where the content is kept, the ports go down and the buffers have nothing to give up; a power failure ends the reservations and gives the
Reedbed up. -/
theorem pinsBeginTheDrains : Obligations.PinsBeginTheDrains := by
  refine ⟨fun s hup hon hrst hst => ⟨fun hcold => ?_, fun hf hpf hwd hkeep hbuf hport => ?_⟩, fun s hup hon hrst hst c hc hpin => ⟨fun hf => ?_, fun hf hpf hw hn => ?_⟩⟩
  · exact ⟨_, (onAon_run hup warmPin).trans (congrArg _ (warmPin_cold hon hrst hst hcold)), assertCold_pins_coldFrom s _, rfl, rfl, rfl⟩
  · obtain ⟨t, hd, hdrain⟩ := exec_wrstN_warm hup (warmPin_warm hon hrst hst hf hpf hwd hkeep) ⟨fun i => (hbuf i).1, fun q => (hport q).1⟩
      (fun i => (hbuf i).2) fun q => (hport q).2
    refine ⟨_, hdrain, ?_, ?_, ?_, ?_, fun p => ⟨?_, ?_⟩, fun n => ?_, ?_, ?_, ?_⟩
    · exact hd.kept State.pins fun _ _ _ _ => rfl
    · exact hd.kept State.aon fun _ _ _ _ => rfl
    · exact hd.kept State.crp fun _ _ _ _ => rfl
    · exact hd.kept (fun u => { u.arb with allShut := true }) fun _ _ _ _ => rfl
    · exact (hd.port p).trans (if_pos (mem_ports p))
    · exact (hd.key p).trans (if_pos (mem_ports p))
    · exact (hd.sem n).trans (if_congr (exists_port_sem_iff _) rfl rfl)
    · exact hd.kept State.home fun _ _ _ _ => rfl
    · exact hd.kept State.mem fun _ _ _ _ => rfl
    · exact hd.kept State.out fun _ _ _ _ => rfl
  · obtain ⟨r, hr, hrec⟩ := drainRec_eq 3 (leftOver { s with pins := c.2 }) (latchCounts { s with pins := c.2 })
    refine ⟨_, (exec_failDrain hup hst hc hpin).trans (congrArg _ (failDrain_frozen (s := { s with pins := c.2 }) hon hrst hst hf)), r, hr.type, hr.cause, hrec⟩
  · have hu : Unbuffered { s with pins := c.2 } := ⟨hw, hn⟩
    have hrun := (exec_failDrain hup hst hc hpin).trans (congrArg _ (failDrain_eq (s := { s with pins := c.2 }) hon hrst hst hf hpf))
    rw [drainBegin_fail (failing_unbuffered hu)] at hrun
    have hheld := congrArg (fun b => { s.aon with stopHeld := s.aon.stopHeld && b }) (stopStands_eq s.crp.phase)
    by_cases hdr : s.crp.phase = .running ∨ s.crp.phase = .warmDrain
    · rw [if_pos hdr] at hrun
      exact ⟨_, hrun, rfl, rfl, rfl, rfl, fun p => failing_hp _ p, rfl, hheld, fun _ => ⟨rfl, fun i => State.map_sl _ _ i⟩,
        fun hr hwd => absurd hdr (not_or.2 ⟨hr, hwd⟩)⟩
    · rw [if_neg hdr] at hrun
      exact ⟨_, hrun, rfl, rfl, rfl, rfl, fun p => failing_hp _ p, rfl, hheld, fun h => absurd h hdr, fun _ _ => rfl⟩

end Sys2Proof.Machine
end

section
/-! PROOFS. The voter check: a register rewritten from the majority of its copies (R416). -/

set_option Elab.async false

namespace Sys2Proof.Machine

/-! ### A rewritten register -/

/-- Within the mask every rewritten copy is the majority. -/
theorem rewritten_and (c m vm : W32) : ((c &&& ~~~vm) ||| (m &&& vm)) &&& vm = m &&& vm := by
  simp [BitVec.and_or_distrib_right, BitVec.and_assoc]

/-- Outside the mask a rewritten copy keeps its own bits. -/
theorem rewritten_and_not (c m vm : W32) : ((c &&& ~~~vm) ||| (m &&& vm)) &&& ~~~vm = c &&& ~~~vm := by
  simp [BitVec.and_or_distrib_right, BitVec.and_assoc]

theorem VReg.fixed_split (vm : W32) (v : VReg) : (v.fixed vm).split vm = false := by
  simp only [VReg.split, VReg.fixed, rewritten_and, ne_eq, not_true_eq_false, decide_false, Bool.or_self]

/-- The majority is taken bit by bit, so it may be taken within the mask. -/
theorem VReg.maj_and (vm : W32) (v : VReg) : v.maj &&& vm = VReg.maj ⟨v.c0 &&& vm, v.c1 &&& vm, v.c2 &&& vm⟩ := by
  apply BitVec.eq_of_getLsbD_eq
  intro i _
  simp only [VReg.maj, BitVec.getLsbD_and, BitVec.getLsbD_or]
  cases vm.getLsbD i <;> simp

theorem VReg.maj_mk1 (c : W32) : (VReg.mk1 c).maj = c := by simp [VReg.maj, VReg.mk1]

theorem VReg.fixed_get (vm : W32) (v : VReg) : (v.fixed vm).get vm = v.get vm := by
  have hmaj : (v.fixed vm).maj &&& vm = v.maj &&& vm := by
    rw [VReg.maj_and]
    simp only [VReg.fixed, rewritten_and]
    exact VReg.maj_mk1 _
  rw [VReg.get, hmaj, VReg.fixed, rewritten_and_not, VReg.get]

/-! ### The registers with voted fields, after a change of each -/

theorem mapFinIdx_eq_map {α β : Type} {n : Nat} (v : Vector α n) (f : α → β) : v.mapFinIdx (fun _ x _ => f x) = v.map f := by
  ext i hi
  simp

theorem State.mapV_vregs (s : State) (f : W32 → VReg → VReg) : (s.mapV f).vregs = s.vregs.map (fun c => (c.1, f c.1 c.2)) := by
  simp [State.mapV, State.mapVs, State.vregs, mapFinIdx_eq_map, Vector.toList_map, List.flatMap_map, List.map_flatMap, Function.comp_def]

/-- Settles O49: the check rewrites every register with voted fields in its place, and a rewritten one agrees and reads as before. -/
theorem voterCheckRepairsEveryRegister : Obligations.VoterCheckRepairsEveryRegister := by
  intro s hclk
  have hv : (voteRepair s).vregs = s.vregs.map (fun c => (c.1, c.2.fixed c.1)) := State.mapV_vregs s VReg.fixed
  refine ⟨voteRepair s, onClock_run hclk voteRepair, fun c hc => ?_, ?_, rfl, rfl, rfl, rfl, rfl, rfl, rfl, rfl, rfl⟩
  · rw [hv] at hc
    obtain ⟨d, -, rfl⟩ := List.mem_map.1 hc
    exact VReg.fixed_split d.1 d.2
  · rw [hv, List.map_map]
    exact List.map_congr_left fun c _ => VReg.fixed_get c.1 c.2

end Sys2Proof.Machine
end

section
/-! PROOFS. The indirect pair: accesses of IND_DATA, the posted write, and the words of the repair map (R421 to R423). -/

set_option Elab.async false

namespace Sys2Proof.Machine

/-! ### Accesses that reach the window (R221, R224, R411) -/

/-- The first four masters are the host ports (R408). -/
theorem masterPort_host {m : Master} {p : Port} (h : m.val = p.val) : masterPort m = some p := by
  simp [masterPort, h]

/-- Nothing holds the access of software that reaches the window. -/
theorem regAccess_reaching {s : State} {p : Port} {a : RAcc} (hr : Reaching s p) (hm : a.master.val = p.val) (read late : Bool) :
    regAccess a read late s = RegOp.run ⟨a, read, late, s.seqNo⟩ s := by
  obtain ⟨hup, hq, hb⟩ := hr
  simp [regAccess, reaches, masterPort_host hm, hup, hq, hb]

theorem doneRd_up {s : State} {p : Port} {m : Master} (hm : m.val = p.val) (hup : (s.hp p).link = .up) (etag : BitVec 12) (size : Nat) (v : W64) :
    doneRd m etag true size v s = { s with out := s.out ++ readAnswer p etag size v } := by
  simp [doneRd, masterPort_host hm, toHost_of_up hup, readAnswer, State.emit]

theorem doneWr_up {s : State} {p : Port} {m : Master} (hm : m.val = p.val) (hup : (s.hp p).link = .up) (hf : s.dbg.frozen = false)
    (etag : BitVec 12) : doneWr m etag true s = { s with out := s.out ++ writeAnswer s p etag } := by
  cases hp : (s.hp p).proto <;> simp [doneWr, hf, masterPort_host hm, toHost_of_up hup, writeAnswer, State.emit, hp]

/-- A write with all four bytes enabled leaves nothing of the old value. -/
theorem mergeBe_all (old new : W32) : mergeBe old new 15#4 = new := by
  simp only [mergeBe, BitVec.reduceGetLsb, if_true, BitVec.reduceOr]
  exact (congrArg₂ (· ||| ·) (BitVec.and_zero (x := old)) (BitVec.and_allOnes (x := new))).trans BitVec.zero_or

/-! ### The word IND_DATA of the window (R418, R420, R446) -/

/-- The window offset of IND_DATA. -/
def indDataOff : Nat := 0x30004

theorem regAt_indData : regAt indDataOff = .indData := by decide

/-- The IND block holds no 64-bit value. -/
theorem val64_ind (s : State) (m : Master) {o : Nat} (h : o < 0x10000) : val64 s m (0x30000 + o) = none := by
  have hblock : (0x30000 + o) / 0x10000 = 3 := by omega
  simp [val64, hblock]

theorem accKind_indData (m : Master) (wr : Bool) : accKind m indDataOff 4 wr = 0 := by
  have hmbx : mbxBlock indDataOff = none := by decide
  have hin : inBlock indDataOff = true := by decide
  have halign : indDataOff % 4 = 0 := by decide
  simp [accKind, hmbx, hin, halign]

theorem read32_indData (m : Master) (s : State) : read32 indDataOff m s = indRead m (setShadow m none s) := by
  have haddr : val64 s m (indDataOff - 4) = none := val64_ind s m (o := 0) (by decide)
  have hdata : val64 s m indDataOff = none := val64_ind s m (o := 4) (by decide)
  simp [read32, haddr, hdata, readReg, regAt_indData]

theorem write32_indData (m : Master) (late : Bool) (raw : W32) (s : State) :
    write32 indDataOff m 15#4 late raw s = setKey m false (indWrite m raw s) := by
  simp [write32, regAt_indData, Reg.keyed, mergeBe_all, genWrite, slcWrite, partWrite]

/-- An access to the whole of IND_DATA. -/
structure OnIndData (a : RAcc) : Prop where
  size : a.size = 4
  off  : a.off = BitVec.ofNat 58 indDataOff

theorem indAcc_onIndData {a : RAcc} (hs : a.size = 4) (ho : fld a.off 0 2 = 0) : OnIndData (indAcc a) :=
  ⟨hs, by simp [indAcc, hs, ho, indDataOff]⟩

section
variable {a : RAcc} (h : OnIndData a)
include h

theorem OnIndData.winOff : winOff a = indDataOff := by
  rw [Machine.winOff, h.off]
  decide

theorem OnIndData.not_beyondWindow (s : State) : beyondWindow s a = false := by
  have hfld : fld (BitVec.ofNat 58 indDataOff) 26 32 = 0 := by decide
  rw [beyondWindow, h.off, hfld]
  split <;> simp

theorem OnIndData.regReadNow (s : State) : regReadNow a s =
    doneRd a.master a.etag true 4 ((indRead a.master (setShadow a.master none s)).1.setWidth 64) (indRead a.master (setShadow a.master none s)).2 := by
  have hword : indDataOff % 4 = 0 ∧ indDataOff / 4 * 4 = indDataOff := by decide
  have hall (v : W32) : v &&& 4294967295#32 = v := BitVec.and_allOnes
  simp [Machine.regReadNow, h.not_beyondWindow, h.winOff, h.size, accKind_indData, hword, read32_indData, hall]

theorem OnIndData.regWriteNow (s : State) (late : Bool) : regWriteNow a late s =
    doneWr a.master a.etag true (setKey a.master false (indWrite a.master (fld a.val 0 32) s)) := by
  have hword : indDataOff % 4 = 0 ∧ indDataOff / 4 * 4 = indDataOff := by decide
  simp [Machine.regWriteNow, h.not_beyondWindow, h.winOff, h.size, accKind_indData, hword, write32_indData]

end

/-! ### The indirect pair with no write posted (R421) -/

theorem Ind.advance_eq (x : Ind) : x.advance = { x with addr := if bit x.ctl 0 then setFld x.addr 0 24 (fld x.addr 0 24 + 4) else x.addr } := by
  unfold Ind.advance
  split <;> rfl

theorem slowWrite_idle {m : Master} {s : State} (h : (vget s.gen.ind m.val {}).wpend = none) : slowWrite m s = s := by
  rw [slowWrite, h]

section
variable {s : State} {p : Port} {a : RAcc} (hr : Reaching s p) (hm : a.master.val = p.val) (ha : OnIndData a)
  (hw : (vget s.gen.ind p.val {}).wpend = none)
include hr hm ha hw

theorem regRead_indData {x : Ind} (hx : x = vget s.gen.ind p.val {}) : regRead a s = { s with
    gen := { s.gen with ind := vset s.gen.ind p.val ({ x with err := !slowWrite.slowMapped x.addr } : Ind).advance
                        shadow := vset s.gen.shadow p.val none }
    freeCtr := s.freeCtr + 1
    out := s.out ++ readAnswer p a.etag 4 ((slowVal s x.addr).setWidth 64) } := by
  subst hx
  rw [← hm] at hw
  have hidle : slowWrite a.master (setShadow a.master none s) = setShadow a.master none s := slowWrite_idle hw
  rw [regRead, regAccess_reaching hr hm, RegOp.run, if_pos rfl, ha.regReadNow, indRead, hidle, doneRd_up hm, ← hm]
  · rfl
  · exact hr.link

theorem regWrite_indData (hf : s.dbg.frozen = false) {x : Ind} (hx : x = vget s.gen.ind p.val {}) : regWrite a false s = { s with
    gen := { s.gen with ind := vset s.gen.ind p.val ({ x with wpend := some (x.addr, fld a.val 0 32) } : Ind).advance
                        keys := vset s.gen.keys p.val false }
    out := s.out ++ writeAnswer s p a.etag } := by
  subst hx
  rw [← hm] at hw
  rw [regWrite, regAccess_reaching hr hm, RegOp.run, if_neg Bool.false_ne_true, ha.regWriteNow, indWrite, slowWrite_idle hw, doneWr_up hm, ← hm]
  · rfl
  · exact hr.link
  · exact hf

end

/-! ### The words of the repair map (R422) -/

/-- Both words of an entry of the repair map written. -/
def Integ.putEntry (x : Integ) (n : Nat) (lo hi : W32) : Integ := { x with
  repMap := x.repMap.filter (fun e => decide (e.no ≠ n)) ++ (if Config.repairCode lo hi = 0 then [] else [repOf n (Config.repairCode lo hi - 1)])
  repRaw := spIns (2 * n) lo (spIns (2 * n + 1) hi x.repRaw) }

/-- A word of the repair map written, the other of its entry as it reads. -/
def Integ.putWord (x : Integ) (k : Nat) (v : W32) : Integ :=
  x.putEntry (k / 2) (if k % 2 = 0 then v else x.repWord (2 * (k / 2))) (if k % 2 = 0 then x.repWord (2 * (k / 2) + 1) else v)

theorem find?_spIns {α : Type} (n k : Nat) (v : α) (m : Sparse α) :
    (spIns n v m).find? (fun c => decide (c.1 = k)) = if k = n then some (n, v) else m.find? (fun c => decide (c.1 = k)) := by
  induction m with
  | nil => by_cases h : k = n <;> simp [spIns, h, Ne.symm]
  | cons x t ih =>
    rcases lt_trichotomy n x.1 with hbefore | hhere | hafter
    · grind [spIns]
    · grind [spIns]
    · grind [spIns]

theorem find?_putEntry_repMap (x : Integ) {n k : Nat} (lo hi : W32) (h : k ≠ n) :
    (x.putEntry n lo hi).repMap.find? (fun e => decide (e.no = k)) = x.repMap.find? (fun e => decide (e.no = k)) := by
  have hnew : (if Config.repairCode lo hi = 0 then [] else [repOf n (Config.repairCode lo hi - 1)]).find? (fun e => decide (e.no = k)) = none := by
    split <;> simp [repOf, h.symm]
  rw [Integ.putEntry, List.find?_append, hnew, Option.or_none, List.find?_filter]
  congr 1
  funext e
  by_cases he : e.no = k <;> simp [he, h]

theorem repWord_putEntry (x : Integ) (n k : Nat) (lo hi : W32) :
    (x.putEntry n lo hi).repWord k = if k = 2 * n then lo else if k = 2 * n + 1 then hi else x.repWord k := by
  unfold Integ.repWord
  rw [show (x.putEntry n lo hi).repRaw = spIns (2 * n) lo (spIns (2 * n + 1) hi x.repRaw) from rfl, find?_spIns, find?_spIns]
  split_ifs with hlo hhi
  · rfl
  · rfl
  · rw [find?_putEntry_repMap x lo hi (by omega)]

/-- The written word is the low or the high one of its entry, as its number is even or odd; the other keeps its reading. -/
theorem repWord_putWord (x : Integ) (n k : Nat) (v : W32) : (x.putWord n v).repWord k = if k = n then v else x.repWord k := by
  rw [Integ.putWord, repWord_putEntry]
  rcases Nat.mod_two_eq_zero_or_one n with heven | hodd
  · grind
  · grind

theorem mem_putEntry_repMap (x : Integ) {n : Nat} (lo hi : W32) {e : Repair} (h : e.no ≠ n) : e ∈ (x.putEntry n lo hi).repMap ↔ e ∈ x.repMap := by
  have hnew : e ∉ (if Config.repairCode lo hi = 0 then [] else [repOf n (Config.repairCode lo hi - 1)]) := by
    split
    · simp
    · exact fun hm => h (congrArg Repair.no (List.mem_singleton.1 hm))
  simp [Integ.putEntry, hnew, h]

/-! ### The posted write is made (R421) -/

section
variable {m : Master} {s : State} {a v : W32} (hw : (vget s.gen.ind m.val {}).wpend = some (a, v))
include hw

theorem slowWrite_nowhere (h : slowWrite.slowMapped a = false ∨ fld a 28 4 ≠ 2 ∨ m.val ≠ 4) :
    slowWrite m s = modInd m (fun x => { x with wpend := none, err := !slowWrite.slowMapped a }) s := by
  have hnot : ¬(slowWrite.slowMapped a && decide (fld a 28 4 = 2) && decide (m.val = 4)) = true := by
    rw [Bool.and_eq_true, Bool.and_eq_true, decide_eq_true_eq, decide_eq_true_eq]
    rintro ⟨⟨hmap, hrep⟩, hcore⟩
    simp [hmap, hrep, hcore] at h
  rw [slowWrite, hw]
  exact if_neg hnot

theorem slowWrite_repair (hmap : slowWrite.slowMapped a = true) (hrep : fld a 28 4 = 2) (hm : m.val = 4) :
    slowWrite m s = { modInd m (fun x => { x with wpend := none, err := false }) s with integ := s.integ.putWord ((fld a 0 24).toNat / 4) v } := by
  have halign : (fld a 0 24).toNat % 4 = 0 := by
    simp only [slowWrite.slowMapped, Bool.and_eq_true, decide_eq_true_eq] at hmap
    exact hmap.1
  have hentry : (fld a 0 24).toNat / 8 = (fld a 0 24).toNat / 4 / 2 := by omega
  have hlow : (fld a 0 24).toNat % 8 = 0 ↔ (fld a 0 24).toNat / 4 % 2 = 0 := by omega
  rw [slowWrite, hw]
  simp only [hmap, hrep, hm, hentry, hlow, decide_true, Bool.and_self, if_true, Bool.not_true]
  rfl

end

/-- Settles O54: with no write posted the access is one read or one posting of the pair's word; the posted write is one word of the repair map, or
nowhere. -/
theorem indirectAccessesComplete : Obligations.IndirectAccessesComplete := by
  intro s p a m x y hclk hmp hma hr hx hyaddr hyctl
  subst hma
  have hf : s.dbg.frozen = false := by
    simp only [State.clk, Bool.and_eq_true, Bool.not_eq_true'] at hclk
    exact hclk.1.2
  have hy (e : Bool) (w : Option (W32 × W32)) (he : y.err = e) (hw : y.wpend = w) : ({ x with wpend := w, err := e } : Ind).advance = y := by
    rw [Ind.advance_eq]
    cases y
    simp_all
  refine ⟨fun hidle hs ho hyw hye => ?_, fun hidle hs ho hyw hye => ?_, fun q b hb => ⟨fun hno => ?_, fun n hmap hrep hq hn _ => ?_⟩, fun q hidle => ?_⟩
  · have ha := indAcc_onIndData hs ho
    rw [← hy _ _ hye (hyw.trans hidle.symm)]
    exact (onClock_run hclk (regRead (indAcc a))).trans (congrArg _ (regRead_indData (a := indAcc a) hr hmp ha (hx ▸ hidle) hx))
  · have ha := indAcc_onIndData hs ho
    rw [← hy _ _ hye hyw]
    exact (onClock_run hclk (regWrite (indAcc a) false)).trans (congrArg _ (regWrite_indData (a := indAcc a) hr hmp ha (hx ▸ hidle) hf hx))
  · exact (onClock_run hclk (slowWrite q)).trans (congrArg _ (slowWrite_nowhere hb hno))
  · subst hn
    refine ⟨_, (onClock_run hclk (slowWrite q)).trans (congrArg _ (slowWrite_repair hb hmap hrep hq)), rfl, rfl, rfl, fun k => ?_, fun e he => ?_⟩
    · exact repWord_putWord s.integ _ k b.2
    · exact mem_putEntry_repMap s.integ _ _ he
  · exact (onClock_run hclk (slowWrite q)).trans (congrArg _ (slowWrite_idle hidle))

end Sys2Proof.Machine
end

section
/-! PROOFS. The registers right after reset (R425 to R449). -/

set_option Elab.async false

namespace Sys2Proof.Machine

/-- Settles O60: the reset state is closed, and what each listed offset reads in it is evaluated for each of the five masters. -/
theorem registersReadTheirResetValues : Obligations.RegistersReadTheirResetValues := by
  unfold Obligations.RegistersReadTheirResetValues
  decide +kernel

end Sys2Proof.Machine
end

section
/-! PROOFS. What every command keeps: those of the clocked domains run with the root-derived clocks alone, and the others belong to the pins, the
supplies, the monitors, SMBus, the Peat writer and the test port (R463, R472, R480, R487, R488, R491). -/

set_option Elab.async false

namespace Sys2Proof.Machine

/-! ### The commands of the clocked domains -/

/-- The commands taken whatever the root-derived clocks do: those of the pins, the supplies, the monitors, SMBus, the Peat writer and the test port. -/
def awake : Instr → Bool
  | .peatRecordWrite | .limitMinute | .peatPtr _ | .peatSel _ _ | .peatData _ | .temp _ | .power _ | .warmAnnounce _ _ | .extest _ | .samplePreload _
  | .idcode | .highz | .clamp | .extestPulse _ | .extestTrain _ | .frzstat | .chainsel _ | .chainscan _ | .arraysel _ | .arrayrd | .bypass _ | .powerOn
  | .pwrOk _ | .resetN | .wrstN | .wrstNRelease | .pfailN | .pfailDrainDeadline | .freezeN | .railTrip _ | .refclkLoss | .temperatureSample _ | .pllLock
  | .powerDown _ => true
  | _ => false

/-- A command is one change of the device, taken where the guard g lets it, and the change lies within R. -/
def Within (g : State → (State → State) → Host.Outcome State Fault Refusal) (R : State → State → Prop) (c : Instr) : Prop :=
  ∃ f : State → State, (∀ s, exec c s = g s f) ∧ ∀ s, R s (f s)

/-- A guard takes a change or leaves the device as it is. -/
def Guards (g : State → (State → State) → Host.Outcome State Fault Refusal) : Prop := ∀ s f, g s f = .next (f s) ∨ g s f = .next s

theorem onClock_guards : Guards onClock := fun s f => by
  rw [onClock_next]
  split
  · exact .inl rfl
  · exact .inr rfl

theorem onAon_guards : Guards onAon := fun s f => by
  unfold onAon
  split
  · exact .inl rfl
  · exact .inr rfl

theorem onTap_guards : Guards onTap := fun s f => by
  unfold onTap
  split
  · exact .inl rfl
  · exact .inr rfl

theorem onSmb_guards (b : SmbHdr) : Guards (onSmb b) := fun s f => by
  unfold onSmb onAon
  split
  · beta_reduce
    split
    · exact .inl rfl
    · exact .inr rfl
  · exact .inr rfl

/-- Taken or not, the command ends in a state that lies within R. -/
theorem Within.next {g : State → (State → State) → Host.Outcome State Fault Refusal} {R : State → State → Prop} {c : Instr} (h : Within g R c)
    (hg : Guards g) (hrefl : ∀ s, R s s) (s : State) : ∃ t : State, exec c s = .next t ∧ R s t := by
  obtain ⟨f, he, hR⟩ := h
  rw [he]
  rcases hg s f with hf | hf
  · exact ⟨_, hf, hR s⟩
  · exact ⟨_, hf, hrefl s⟩

theorem Within.mono {g : State → (State → State) → Host.Outcome State Fault Refusal} {R Q : State → State → Prop} {c : Instr} (h : Within g R c)
    (hRQ : ∀ s t, R s t → Q s t) : Within g Q c := by
  obtain ⟨f, he, hR⟩ := h
  exact ⟨f, he, fun s => hRQ s _ (hR s)⟩

/-- Without the clocks a clocked command does nothing (R488). -/
theorem Within.stopped {R : State → State → Prop} {c : Instr} (h : Within onClock R c) {s : State} (hc : s.clk = false) : exec c s = .next s := by
  obtain ⟨f, he, -⟩ := h
  exact (he s).trans (onClock_stopped hc f)

theorem Slice.closeWindow_good {x : Slice} (h : x.good = true) : x.closeWindow.good = true := by
  unfold Slice.closeWindow
  split
  · exact Slice.good_of h rfl rfl
  · exact h

/-- Each clocked command is one change of the device, which keeps what `Kept` names: the row of the command cites the lemma about that change. -/
theorem clocked_kept (c : Instr) (ha : awake c = false) (ho : alwaysOn c = false) : Within onClock Kept c := by
  cases c with
  | rdshared _ | rdown _ | upgrade _ | rdcur _ | write _ | writent _ | atomic _ | rsvload _ | condstore _ | pfhint _ | exception _ =>
    exact ⟨_, fun _ => rfl, fun s => arrive_kept _ _ (gives_kept _ _ (.refl s))⟩
  | wbdirty _ => exact ⟨_, fun _ => rfl, fun s => wbDirty_kept _ _ (gives_kept _ _ (.refl s))⟩
  | evictclean _ => exact ⟨_, fun _ => rfl, fun s => .ite (fun _ => evictNotice_kept _ _ _ (gives_kept _ _ (.refl s))) (fun _ => .refl s)⟩
  | barrier _ => exact ⟨_, fun _ => rfl, fun s => barrierMsg_kept _ _ (gives_kept _ _ (.refl s))⟩
  | barDoneComplete _ _ => exact ⟨_, fun _ => rfl, fun s => barDoneRun_kept _ _ _ (.refl s)⟩
  | floor _ => exact ⟨_, fun _ => rfl, fun s => floorMsg_kept _ _ (gives_kept _ _ (.refl s))⟩
  | snprsp _ =>
    exact ⟨_, fun _ => rfl, fun s => .ite (fun _ => downMoves_kept _ (snoopAnswer_kept _ _ _ _ _ _ (gives_kept _ _ (.refl s)))) (fun _ => .refl s)⟩
  | memrd _ | memwrptl _ => exact ⟨_, fun _ => rfl, fun s => arrive_kept _ _ (.refl s)⟩
  | memwr _ => exact ⟨_, fun _ => rfl, fun s => memWr_kept _ _ (.refl s)⟩
  | memspecrd _ => exact ⟨_, fun _ => rfl, fun s => memSpecRd_kept _ _ (.refl s)⟩
  | birsp _ _ _ => exact ⟨_, fun _ => rfl, fun s => .ite (fun _ => downMoves_kept _ (snoopAnswer_kept _ _ _ _ _ _ (.refl s))) (fun _ => .refl s)⟩
  | biconflict _ _ => exact ⟨_, fun _ => rfl, fun s => .ite (fun _ => toHost_kept _ _ _ (.refl s)) (fun _ => .refl s)⟩
  | hdmDecoderCommit _ _ _ _ => exact ⟨_, fun _ => rfl, fun s => .ite (fun _ => hdmCommit_kept _ _ _ _ _ (.refl s)) (fun _ => .refl s)⟩
  | snoopTimeout _ _ => exact ⟨_, fun _ => rfl, fun s => downMoves_kept _ (snoopTmo_kept _ _ _ (.refl s))⟩
  | hostLinkTrained _ _ _ => exact ⟨_, fun _ => rfl, fun s => linkTrained_kept _ _ _ _ (.refl s)⟩
  | hostLinkRecovery _ => exact ⟨_, fun _ => rfl, fun s => enterRecovery_kept _ _ (.refl s)⟩
  | recoveryTimeout _ => exact ⟨_, fun _ => rfl, fun s => .ite (fun _ => portDown_kept _ _ (.refl s)) (fun _ => .refl s)⟩
  | ltssmExit _ => exact ⟨_, fun _ => rfl, fun s => portDown_kept _ _ (.refl s)⟩
  | portDownWalkDone _ => exact ⟨_, fun _ => rfl, fun s => portWalkDone_kept _ _ (.refl s)⟩
  | retrain _ _ | hportLinkModeWrite _ _ | genUnlock _ | genSemRelease _ _ | evqRdWrite _ _ | evqMarkWrite _ _ | flush _ _ | rewind _ _
  | cacheDisable _ _ | cacheEnable _ _ | slcWaylockWrite _ _ | shadowEnClear _ _ | hportSnpCtlWrite _ _ | homeLaneCtlWrite _ | slcRetryCtlWrite _ _
  | stampWaysWrite _ | sluiceClose _ | walkhold _ | fportCtlEnWrite _ _ | sw _ | clear _ =>
    exact ⟨_, fun _ => rfl, fun s => softWrite_kept _ _ _ (.refl s)⟩
  | rds _ | rdx _ | upg _ | rdu _ | wru _ | amof _ | pfq _ =>
    exact ⟨_, fun _ => rfl, fun s => take_kept _ _ _ _ (fun _ h => onRequest_kept _ _ _ h) (.refl s)⟩
  | putm _ | puto _ | pute _ | puts _ => exact ⟨_, fun _ => rfl, fun s => take_kept _ _ _ _ (fun _ h => onPut_kept _ _ _ h) (.refl s)⟩
  | ack _ => exact ⟨_, fun _ => rfl, fun s => take_kept _ _ _ _ (fun _ h => onAck_kept _ _ h) (.refl s)⟩
  | invack _ _ => exact ⟨_, fun _ => rfl, fun s => take_kept _ _ _ _ (fun _ h => onInvAck_kept _ _ _ h) (.refl s)⟩
  | probeResponse _ _ => exact ⟨_, fun _ => rfl, fun s => take_kept _ _ _ _ (fun _ h => onProbe_kept _ _ _ h) (.refl s)⟩
  | datas _ | datae _ | datam _ =>
    exact ⟨_, fun _ => rfl, fun s => take_kept _ _ _ _ (fun _ h => rspPass_kept _ _ _ (fun _ h => onData_kept _ _ _ h) h) (.refl s)⟩
  | cmp _ => exact ⟨_, fun _ => rfl, fun s => take_kept _ _ _ _ (fun _ h => rspPass_kept _ _ _ (fun _ h => onCmp_kept _ _ h) h) (.refl s)⟩
  | nack _ => exact ⟨_, fun _ => rfl, fun s => take_kept _ _ _ _ (fun _ h => rspPass_kept _ _ _ (fun _ h => onNack_kept _ _ h) h) (.refl s)⟩
  | nackRetry _ _ => exact ⟨_, fun _ => rfl, fun s => retryGap_kept _ _ _ (.refl s)⟩
  | wback _ => exact ⟨_, fun _ => rfl, fun s => take_kept _ _ _ _ (fun _ h => rspPass_kept _ _ _ (fun _ h => onWback_kept _ _ h) h) (.refl s)⟩
  | fwds _ | fwdx _ | inv _ | binv _ | probe _ => exact ⟨_, fun _ => rfl, fun s => take_kept _ _ _ _ (fun _ h => held_kept _ _ _ h) (.refl s)⟩
  | claimWindowExpiry _ => exact ⟨_, fun _ => rfl, fun s => claimLapse_kept _ _ (.refl s)⟩
  | ownerPutTimeout _ => exact ⟨_, fun _ => rfl, fun s => putTimeout_kept _ _ (.refl s)⟩
  | forwardedAckTimeout _ => exact ⟨_, fun _ => rfl, fun s => ackTimeout_kept _ _ (.refl s)⟩
  | wmbHoldExpiry _ _ => exact ⟨_, fun _ => rfl, fun s => issueAll_kept _ _ (State.modSl_kept (.refl s) fun _ h => Slice.good_of h rfl rfl)⟩
  | ntcHoldExpiry _ _ => exact ⟨_, fun _ => rfl, fun s => issueEvery_kept _ (State.modHp_kept _ _ _ (.refl s))⟩
  | waiterResume _ => exact ⟨_, fun _ => rfl, fun s => downMoves_kept _ (resume_kept _ _ (.refl s))⟩
  | prefetchWindowClose _ => exact ⟨_, fun _ => rfl, fun s => State.modSl_kept (.refl s) fun _ => Slice.closeWindow_good⟩
  | wayDisableDone _ _ _ => exact ⟨_, fun _ => rfl, fun s => disableDone_kept _ _ _ _ (.refl s)⟩
  | waygroupPowerdownDone _ => exact ⟨_, fun _ => rfl, fun s => fwDo_kept _ _ (fun _ h => powerDownDone_kept _ _ h) (.refl s)⟩
  | waygroupPowerupDone _ => exact ⟨_, fun _ => rfl, fun s => fwDo_kept _ _ (fun _ h => powerUpDone_kept _ _ h) (.refl s)⟩
  | cacheDrainDone _ => exact ⟨_, fun _ => rfl, fun s => drainDone_kept _ _ (.refl s)⟩
  | rangeWalkDone => exact ⟨_, fun _ => rfl, fun s => fwDo_kept _ _ (fun _ h => rangeWalkDone_kept _ h) (.refl s)⟩
  | policyWalkDone _ _ => exact ⟨_, fun _ => rfl, fun s => fwDo_kept _ _ (fun _ h => policyDone_kept _ _ _ h) (.refl s)⟩
  | purgeWalkDone _ => exact ⟨_, fun _ => rfl, fun s => purgeDone_kept _ _ (.refl s)⟩
  | deadRequestTimeout _ => exact ⟨_, fun _ => rfl, fun s => deadTimeout_kept _ _ (.refl s)⟩
  | sweepPassDone _ => exact ⟨_, fun _ => rfl, fun s => sweepDoneFor_kept _ _ (.refl s)⟩
  | readmission _ => exact ⟨_, fun _ => rfl, fun s => fwDo_kept _ _ (fun _ h => readmit_kept _ _ h) (.refl s)⟩
  | horizonPeriod _ _ => exact ⟨_, fun _ => rfl, fun s => periodStart_kept _ _ _ (.refl s)⟩
  | floorReport _ _ _ _ _ => exact ⟨_, fun _ => rfl, fun s => floorCombine_kept _ _ _ _ _ _ (.refl s)⟩
  | horizonResult _ _ _ _ => exact ⟨_, fun _ => rfl, fun s => horizonResult_kept _ _ _ _ _ (.refl s)⟩
  | stampStall => exact ⟨_, fun _ => rfl, fun s => stampStalled_kept _ (.refl s)⟩
  | memberListUpdate _ _ _ | regionPolicyChange _ _ _ _ | regionSetAck _ | contractShareReserve _ _ _ _ | contractShareAnswer _ _ _
  | frameReservationAnswer _ _ _ _ | relocationNotice _ _ _ _ _ | readyNotice _ _ _ _ | relocationAck _ _ _ _ | stubRelease _ _ _
  | relocationTableQuery _ | frameReservationRequest _ _ _ | contractShareRelease _ _ => exact ⟨_, fun _ => rfl, fun s => vc5In_kept _ _ _ (.refl s)⟩
  | flit _ _ => exact ⟨_, fun _ => rfl, fun s => flitIn_kept _ _ _ (.refl s)⟩
  | transitBypass _ _ => exact ⟨_, fun _ => rfl, fun s => transit_kept _ _ _ (.refl s)⟩
  | broadcastReplicate _ _ => exact ⟨_, fun _ => rfl, fun s => bcArrive_kept _ _ _ (.refl s)⟩
  | combinedInvack _ _ => exact ⟨_, fun _ => rfl, fun s => combGot_kept _ _ _ (.refl s)⟩
  | heartbeatSend => exact ⟨_, fun _ => rfl, fun s => heartbeatOut_kept _ (.refl s)⟩
  | heartbeat _ _ _ _ => exact ⟨_, fun _ => rfl, fun s => heartbeatIn_kept _ _ _ _ _ (.refl s)⟩
  | linkLost _ _ => exact ⟨_, fun _ => rfl, fun s => loseLink_kept _ _ _ (.refl s)⟩
  | linklost _ _ _ _ => exact ⟨_, fun _ => rfl, fun s => linklostIn_kept _ _ _ _ _ (.refl s)⟩
  | linklostDecision _ => exact ⟨_, fun _ => rfl, fun s => linkDecision_kept _ _ (.refl s)⟩
  | declaration _ _ => exact ⟨_, fun _ => rfl, fun s => declarationIn_kept _ _ _ (.refl s)⟩
  | packetAged _ _ => exact ⟨_, fun _ => rfl, fun s => agedPacket_kept _ _ _ (.refl s)⟩
  | warm _ => exact ⟨_, fun _ => rfl, fun s => warmIn_kept _ _ (.refl s)⟩
  | fabricLinkTrained _ _ => exact ⟨_, fun _ => rfl, fun s => fabricTrained_kept _ _ _ (.refl s)⟩
  | fabricTrainingTimeout _ => exact ⟨_, fun _ => rfl, fun s => trainTimeout_kept _ _ (.refl s)⟩
  | regionSetTimeout => exact ⟨_, fun _ => rfl, fun s => fwDo_kept _ _ (fun _ h => policyTimeout_kept _ h) (.refl s)⟩
  | contractReqTimeout _ => exact ⟨_, fun _ => rfl, fun s => fwDo_kept _ _ (fun _ h => ctrTimeout_kept _ _ h) (.refl s)⟩
  | contractRelComplete _ => exact ⟨_, fun _ => rfl, fun s => fwDo_kept _ _ (fun _ h => relComplete_kept _ _ h) (.refl s)⟩
  | stampJoinCleanDone _ _ => exact ⟨_, fun _ => rfl, fun s => fwDo_kept _ _ (fun _ h => joinDone_kept _ _ _ h) (.refl s)⟩
  | stampLeaveComplete _ => exact ⟨_, fun _ => rfl, fun s => fwDo_kept _ _ (fun _ h => leaveDone_kept _ _ h) (.refl s)⟩
  | frameReservationTimeout _ _ => exact ⟨_, fun _ => rfl, fun s => fwDo_kept _ _ (fun _ h => frameTimeout_kept _ _ _ h) (.refl s)⟩
  | relocationCopyDone _ _ _ => exact ⟨_, fun _ => rfl, fun s => fwDo_kept _ _ (fun _ h => relocCopy_kept _ _ _ _ h) (.refl s)⟩
  | relocationDrainDone _ _ => exact ⟨_, fun _ => rfl, fun s => fwDo_kept _ _ (fun _ h => drainRelocDone_kept _ _ _ h) (.refl s)⟩
  | relocationFinalCopyDone _ _ _ => exact ⟨_, fun _ => rfl, fun s => fwDo_kept _ _ (fun _ h => relocFinal_kept _ _ _ _ h) (.refl s)⟩
  | relocationTableAnswer _ => exact ⟨_, fun _ => rfl, fun s => fwDo_kept _ _ (fun _ h => tableAnswers_kept _ _ h) (.refl s)⟩
  | relocationTableRetry => exact ⟨_, fun _ => rfl, fun s => fwDo_kept _ _ (fun t h => .ite (fun _ => h) (fun _ => askTables_kept t h)) (.refl s)⟩
  | patrolScrubRead _ _ =>
    exact ⟨_, fun _ => rfl, fun s => scrubRead_kept _ _ (.each (fun t u h => .ite (fun _ => arrayCount_kept _ _ (upset_kept _ _ h)) (fun _ => upset_kept _ _ h)) (.refl s))⟩
  | patrolPeriodEnd _ => exact ⟨_, fun _ => rfl, fun s => periodEnd_kept _ _ (.refl s)⟩
  | liveRepairDone _ => exact ⟨_, fun _ => rfl, fun s => liveEnd_kept _ _ (.refl s)⟩
  | leak => exact ⟨_, fun _ => rfl, fun s => leakOne_kept _ (.refl s)⟩
  | backgroundFillBlock => exact ⟨_, fun _ => rfl, fun s => fillBlock_kept _ (.refl s)⟩
  | fillSlotDone _ => exact ⟨_, fun _ => rfl, fun s => slotDone_kept _ _ (.refl s)⟩
  | heldWriteRelease => exact ⟨_, fun _ => rfl, fun s => heldRelease_kept _ (.refl s)⟩
  | voteCheck => exact ⟨_, fun _ => rfl, fun s => voteRepair_kept _ (.refl s)⟩
  | ping _ _ => exact ⟨_, fun _ => rfl, fun s => command_kept _ _ _ _ _ _ (fun _ _ h => pingCmd_kept _ _ _ _ h) (.refl s)⟩
  | regionSet _ _ => exact ⟨_, fun _ => rfl, fun s => command_kept _ _ _ _ _ _ (fun _ _ h => regionSetCmd_kept _ _ _ _ h) (.refl s)⟩
  | regionGet _ _ => exact ⟨_, fun _ => rfl, fun s => command_kept _ _ _ _ _ _ (fun _ _ h => regionGetCmd_kept _ _ _ _ h) (.refl s)⟩
  | flushRange _ _ | invalRange _ _ | cleanAll _ _ =>
    exact ⟨_, fun _ => rfl, fun s => command_kept _ _ _ _ _ _ (fun _ _ h => rangeCmd_kept _ _ _ _ _ _ h) (.refl s)⟩
  | waylock _ _ => exact ⟨_, fun _ => rfl, fun s => command_kept _ _ _ _ _ _ (fun _ _ h => waylockCmd_kept _ _ _ _ h) (.refl s)⟩
  | waylockLoad _ _ => exact ⟨_, fun _ => rfl, fun s => command_kept _ _ _ _ _ _ (fun _ _ h => waylockLoadCmd_kept _ _ _ _ h) (.refl s)⟩
  | waygroupPowerDown _ _ | waygroupPowerUp _ _ =>
    exact ⟨_, fun _ => rfl, fun s => command_kept _ _ _ _ _ _ (fun _ _ h => groupCmd_kept _ _ _ _ _ h) (.refl s)⟩
  | contractReq _ _ => exact ⟨_, fun _ => rfl, fun s => command_kept _ _ _ _ _ _ (fun _ _ h => contractReqCmd_kept _ _ _ _ h) (.refl s)⟩
  | contractRel _ _ => exact ⟨_, fun _ => rfl, fun s => command_kept _ _ _ _ _ _ (fun _ _ h => contractRelCmd_kept _ _ _ _ h) (.refl s)⟩
  | stampJoin _ _ => exact ⟨_, fun _ => rfl, fun s => command_kept _ _ _ _ _ _ (fun _ _ h => stampJoinCmd_kept _ _ _ _ h) (.refl s)⟩
  | stampLeave _ _ => exact ⟨_, fun _ => rfl, fun s => command_kept _ _ _ _ _ _ (fun _ _ h => stampLeaveCmd_kept _ _ _ _ h) (.refl s)⟩
  | homeRelocate _ _ => exact ⟨_, fun _ => rfl, fun s => command_kept _ _ _ _ _ _ (fun _ _ h => relocateCmd_kept _ _ _ _ h) (.refl s)⟩
  | peatRead _ _ => exact ⟨_, fun _ => rfl, fun s => command_kept _ _ _ _ _ _ (fun _ _ h => peatReadCmd_kept _ _ _ _ h) (.refl s)⟩
  | errlogRead _ _ => exact ⟨_, fun _ => rfl, fun s => command_kept _ _ _ _ _ _ (fun _ _ h => errlogCmd_kept _ _ _ _ h) (.refl s)⟩
  | nodeStatus _ _ => exact ⟨_, fun _ => rfl, fun s => command_kept _ _ _ _ _ _ (fun _ _ h => nodeStatusCmd_kept _ _ _ _ h) (.refl s)⟩
  | fwInfo _ _ => exact ⟨_, fun _ => rfl, fun s => command_kept _ _ _ _ _ _ (fun _ _ h => fwInfoCmd_kept _ _ _ _ h) (.refl s)⟩
  | mbxOutack _ _ _ _ | indDataWrite _ | registerWrite _ => exact ⟨_, fun _ => rfl, fun s => regWrite_kept _ _ _ (.refl s)⟩
  | fwIdle => exact ⟨_, fun _ => rfl, fun s => fwIdle_kept _ (.refl s)⟩
  | fwRestart _ _ => exact ⟨_, fun _ => rfl, fun s => fwFault_kept _ _ _ (.refl s)⟩
  | fwRestartComplete => exact ⟨_, fun _ => rfl, fun s => fwBack_kept _ (.refl s)⟩
  | watchdog => exact ⟨_, fun _ => rfl, fun s => watchdog_kept _ (.refl s)⟩
  | keyTimeout _ => exact ⟨_, fun _ => rfl, fun s => setKey_kept _ _ _ (.refl s)⟩
  | genSemRead _ _ | counterLoRead _ | indDataRead _ => exact ⟨_, fun _ => rfl, fun s => regRead_kept _ _ (.refl s)⟩
  | slowWriteDone _ => exact ⟨_, fun _ => rfl, fun s => slowWrite_kept _ _ (.refl s)⟩
  | evqHoldExpiry _ => exact ⟨_, fun _ => rfl, fun s => evqHold_kept _ _ (.refl s)⟩
  | summary => exact ⟨_, fun _ => rfl, fun s => summarize_kept _ (.refl s)⟩
  | quietExchangeResult _ => exact ⟨_, fun _ => rfl, fun s => fwDo_kept _ _ (fun _ h => quietResult_kept _ _ h) (.refl s)⟩
  | quietTimeout => exact ⟨_, fun _ => rfl, fun s => fwDo_kept _ _ (fun t h => .ite (fun _ => restartCold_kept t h) (fun _ => h)) (.refl s)⟩
  | checkerSelfTestDone _ => exact ⟨_, fun _ => rfl, fun s => selfTested_kept _ _ (.refl s)⟩
  | imageLoadDone _ => exact ⟨_, fun _ => rfl, fun s => imageLoaded_kept _ _ (.refl s)⟩
  | hbmTrainingDone _ => exact ⟨_, fun _ => rfl, fun s => hbmTrained_kept _ _ (.refl s)⟩
  | hbmZeroFillDone => exact ⟨_, fun _ => rfl, fun s => hbmFill_kept _ (.refl s)⟩
  | ddr5TrainingDone _ => exact ⟨_, fun _ => rfl, fun s => ddrTrain_kept _ _ (.refl s)⟩
  | firstGibFillDone => exact ⟨_, fun _ => rfl, fun s => firstFill_kept _ (.refl s)⟩
  | firmwareRelease => exact ⟨_, fun _ => rfl, fun s => fwRelease_kept _ (.refl s)⟩
  | admissionOpen _ => exact ⟨_, fun _ => rfl, fun s => openAdmission_kept _ _ (.refl s)⟩
  | hostLinkRecovered _ _ _ _ => exact ⟨_, fun _ => rfl, fun s => linkRecovered_kept _ _ _ _ _ (.refl s)⟩
  | disabledWayTestDone _ _ _ _ => exact ⟨_, fun _ => rfl, fun s => wayTested_kept _ _ _ _ _ (.refl s)⟩
  | reservedEmhalOpcode _ _ => exact ⟨_, fun _ => rfl, fun s => .ite (fun _ => hostErr_kept _ _ _ _ _ (gives_kept _ _ (.refl s))) (fun _ => .refl s)⟩
  | backInvalidationEnable _ => exact ⟨_, fun _ => rfl, fun s => .ite (fun _ => State.modHp_kept _ _ _ (.refl s)) (fun _ => .refl s)⟩
  | msiXEnable _ => exact ⟨_, fun _ => rfl, fun s => .ite (fun _ => msixCheck_kept _ _ (State.modHp_kept _ _ _ (.refl s))) (fun _ => .refl s)⟩
  | warmDrainDeadline | fuseAndMramReadDone => cases ho
  | _ => cases ha

/-- The two clocked commands that change an always-on part: the deadline of a warm drain, and the reading of MRAM at a start. -/
theorem eq_of_clocked_alwaysOn (c : Instr) (h : (!awake c && alwaysOn c) = true) : c = .warmDrainDeadline ∨ c = .fuseAndMramReadDone := by
  cases c with
  | warmDrainDeadline => exact .inl rfl
  | fuseAndMramReadDone => exact .inr rfl
  | _ => cases h

theorem clocked_held (c : Instr) (ha : awake c = false) : Within onClock Held c := by
  cases ho : alwaysOn c with
  | false => exact (clocked_kept c ha ho).mono fun _ _ => Kept.held
  | true =>
    rcases eq_of_clocked_alwaysOn c (by rw [ha, ho]; rfl) with rfl | rfl
    · exact ⟨_, fun _ => rfl, warmDeadline_held⟩
    · exact ⟨_, fun _ => rfl, mramRead_held⟩

/-! ### The test port and SMBus -/

/-- From s to t only what has left the device, the free-value count, the test port and the selected record number change. -/
structure Aside (s t : State) : Prop where
  only : t = { s with out := t.out, freeCtr := t.freeCtr, tap := t.tap, peat := { s.peat with sel := t.peat.sel } }

theorem Aside.refl (s : State) : Aside s s := ⟨rfl⟩

/-- The test instructions, and the SMBus commands but for WARM_ANNOUNCE, which the firmware takes. -/
def aside : Instr → Bool
  | .peatPtr _ | .peatSel _ _ | .peatData _ | .temp _ | .power _ | .extest _ | .samplePreload _ | .idcode | .highz | .clamp | .extestPulse _
  | .extestTrain _ | .frzstat | .chainsel _ | .chainscan _ | .arraysel _ | .arrayrd | .bypass _ => true
  | _ => false

theorem tapIf_aside (c : Byte) (ok : Bool) (tdi : List Bool) {f : State → State} (hf : ∀ t, Aside t (f t)) (s : State) :
    Aside s (tapIf c ok tdi f s) := by
  unfold tapIf
  split
  · obtain ⟨h⟩ := hf (setIr c s)
    exact ⟨h⟩
  · exact ⟨rfl⟩

theorem smbData_aside (s : State) : Aside s (smbData s) := by
  unfold smbData
  split <;> exact ⟨rfl⟩

theorem aside_next (c : Instr) (h : aside c = true) (s : State) : ∃ t : State, exec c s = .next t ∧ Aside s t := by
  have tap {c : Instr} (hw : Within onTap Aside c) : ∃ t : State, exec c s = .next t ∧ Aside s t := hw.next onTap_guards .refl s
  have smb {b : SmbHdr} {c : Instr} (hw : Within (onSmb b) Aside c) : ∃ t : State, exec c s = .next t ∧ Aside s t := hw.next (onSmb_guards b) .refl s
  cases c with
  | peatPtr _ | peatSel _ _ | temp _ | power _ => exact smb ⟨_, fun _ => rfl, fun _ => ⟨rfl⟩⟩
  | peatData _ => exact smb ⟨_, fun _ => rfl, smbData_aside⟩
  | samplePreload _ | idcode | highz | clamp | frzstat | bypass _ => exact tap ⟨_, fun _ => rfl, fun _ => ⟨rfl⟩⟩
  | extest _ | extestPulse _ | extestTrain _ | chainsel _ | chainscan _ | arraysel _ | arrayrd =>
    exact tap ⟨_, fun _ => rfl, fun s => tapIf_aside _ _ _ (fun _ => ⟨rfl⟩) s⟩
  | _ => cases h

namespace Aside
variable {s t : State} (h : Aside s t)
include h

theorem held : Held s t := by rw [h.only]; exact (Held.refl s).of_eq rfl rfl rfl
theorem ring : t.peat.ring = s.peat.ring := by rw [h.only]
theorem die : t.die = s.die := by rw [h.only]

end Aside

/-! ### The pins, the supplies, the monitors and the Peat writer -/

theorem pins_held (s : State) (x : Pins) : Held s { s with pins := x } := (Held.refl s).of_eq rfl rfl rfl

/-- What FREEZE_N does (R488). -/
def freezePin (s : State) : State :=
  if s.crp.started && !s.crp.waitOn then freezeDie 1 0 { s with pins := { s.pins with freezeN := false } }
  else { s with pins := { s.pins with freezeN := false } }

theorem freezePin_kept (s : State) : Kept { s with pins := { s.pins with freezeN := false } } (freezePin s) :=
  .ite (fun _ => freezeDie_kept _ _ _ (.refl _)) fun _ => .refl _

theorem awakePin_held (c : Instr) (h : (awake c && !aside c) = true) (s : State) : ∃ t : State, exec c s = .next t ∧ Held s t := by
  have aon {c : Instr} (hw : Within onAon Held c) : ∃ t : State, exec c s = .next t ∧ Held s t := hw.next onAon_guards .refl s
  cases c with
  | peatRecordWrite => exact ⟨_, rfl, peatWrite_held s⟩
  | limitMinute => exact aon ⟨_, fun _ => rfl, fun s => (Held.refl s).of_eq rfl rfl rfl⟩
  | warmAnnounce b _ => exact Within.next ⟨_, fun _ => rfl, fun s => (smbWarm_kept _ s (.refl s)).held⟩ (onSmb_guards b) .refl s
  | powerOn => exact ⟨_, rfl, supplyRise_held s⟩
  | pwrOk v => exact aon ⟨_, fun _ => rfl, fun s => .ite (.refl s) ((Held.refl s).of_eq rfl rfl rfl)⟩
  | resetN => exact aon ⟨_, fun _ => rfl, fun s => (pins_held s _).trans (assertCold_kept _ (.refl _)).held⟩
  | wrstN => exact aon ⟨_, fun _ => rfl, warmPin_held⟩
  | wrstNRelease => exact aon ⟨_, fun _ => rfl, warmRelease_held⟩
  | pfailN => exact aon ⟨_, fun _ => rfl, fun s => (pins_held s _).trans (failDrain_kept _ (.refl _)).held⟩
  | pfailDrainDeadline => exact aon ⟨_, fun _ => rfl, fun s => (failDeadline_kept s (.refl s)).held⟩
  | freezeN => exact aon ⟨freezePin, fun _ => rfl, fun s => (pins_held s _).trans (freezePin_kept s).held⟩
  | railTrip v => exact aon ⟨_, fun _ => rfl, railTrip_held v⟩
  | refclkLoss => exact aon ⟨_, fun _ => rfl, fun s => (refLoss_kept s (.refl s)).held⟩
  | temperatureSample x => exact aon ⟨_, fun _ => rfl, tempSample_held x⟩
  | pllLock => exact aon ⟨_, fun _ => rfl, fun s => (pllLocked_kept s (.refl s)).held⟩
  | powerDown v => exact aon ⟨_, fun _ => rfl, railsDown_held v⟩
  | _ => cases h

/-- Every command ends in a state with the queue as it was and the memories good. -/
theorem exec_holds (c : Instr) (s : State) : ∃ t : State, exec c s = .next t ∧ Held s t := by
  cases ha : awake c with
  | false => exact (clocked_held c ha).next onClock_guards .refl s
  | true =>
    cases hc : aside c with
    | false => exact awakePin_held c (by rw [ha, hc]; rfl) s
    | true =>
      obtain ⟨t, he, ht⟩ := aside_next c hc s
      exact ⟨t, he, ht.held⟩

theorem awake_kept (c : Instr) (h : (awake c && !alwaysOn c) = true) (s : State) : ∃ t : State, exec c s = .next t ∧ Kept s t := by
  have aon {c : Instr} (hw : Within onAon Kept c) : ∃ t : State, exec c s = .next t ∧ Kept s t := hw.next onAon_guards .refl s
  have smb {b : SmbHdr} {c : Instr} (hw : Within (onSmb b) Kept c) : ∃ t : State, exec c s = .next t ∧ Kept s t := hw.next (onSmb_guards b) .refl s
  cases c with
  | limitMinute => exact aon ⟨_, fun _ => rfl, fun s => .mk1 (.refl s) rfl rfl rfl rfl rfl rfl rfl⟩
  | peatPtr _ | temp _ => exact smb ⟨_, fun _ => rfl, fun s => State.emit_kept s _ (.refl s)⟩
  | power _ => exact smb ⟨_, fun _ => rfl, fun s => State.tick1_kept _ (State.emit_kept s _ (.refl s))⟩
  | warmAnnounce _ _ => exact smb ⟨_, fun _ => rfl, fun s => smbWarm_kept _ s (.refl s)⟩
  | pfailDrainDeadline => exact aon ⟨_, fun _ => rfl, fun s => failDeadline_kept s (.refl s)⟩
  | refclkLoss => exact aon ⟨_, fun _ => rfl, fun s => refLoss_kept s (.refl s)⟩
  | pllLock => exact aon ⟨_, fun _ => rfl, fun s => pllLocked_kept s (.refl s)⟩
  | _ => cases h

/-- Settles O7: a clocked command that is none of the always-on parts' own is one change that keeps them, and so are the eight others. -/
theorem onlyOwnCommandsChangeAlwaysOnParts : Obligations.OnlyOwnCommandsChangeAlwaysOnParts := by
  intro c s ho
  cases ha : awake c with
  | false => exact (clocked_kept c ha ho).next onClock_guards .refl s
  | true => exact awake_kept c (by rw [ha, ho]; rfl) s

/-! ### Steps -/

/-- Settles O1: a step looks at the front of the queue. -/
theorem stepRunsFrontCommand : Obligations.StepRunsFrontCommand := fun _ _ _ => rfl

/-- Settles O3: each command is a change of the state in the clocked domains, or one of its own part, and neither touches the queue. -/
theorem everyCommandAnswers : Obligations.EveryCommandAnswers := by
  intro c s
  obtain ⟨t, he, ht⟩ := exec_holds c s
  exact ⟨t, he, ht.pending⟩

/-- A step is a TIME cycle on an empty queue, or the front command on the rest. -/
theorem step_cases {s t : State} (h : step s = .next t) :
    (s.pending = [] ∧ t = tick s) ∨ ∃ (c : Instr) (rest : List Instr), s.pending = c :: rest ∧ exec c { s with pending := rest } = .next t := by
  unfold step at h
  split at h
  · next hp => exact .inl ⟨hp, (Host.Outcome.next.inj h).symm⟩
  · next c rest hp => exact .inr ⟨c, rest, hp, h⟩

/-- A command that ends within R ends in no other state. -/
theorem within_of_exec {R : State → State → Prop} {c : Instr} {s t : State} (h : ∃ u : State, exec c s = .next u ∧ R s u) (he : exec c s = .next t) :
    R s t := by
  obtain ⟨u, hu, hR⟩ := h
  obtain rfl := Host.Outcome.next.inj (hu.symm.trans he)
  exact hR

/-- Settles O4: no command touches what is left of the queue, and a TIME cycle leaves it empty. -/
theorem queueIsFirstInFirstOut : Obligations.QueueIsFirstInFirstOut := by
  intro s t h
  rcases step_cases h with ⟨hp, rfl⟩ | ⟨c, rest, hp, he⟩
  · rw [(tick_held s).pending, hp, List.tail_nil]
  · rw [(within_of_exec (exec_holds c _) he).pending, hp, List.tail_cons]

/-- Settles O5: every command and every TIME cycle keeps the memories good. -/
theorem everyStepKeepsMemoriesGood : Obligations.EveryStepKeepsMemoriesGood := by
  intro s t hs h
  rcases step_cases h with ⟨-, rfl⟩ | ⟨c, rest, -, he⟩
  · exact (tick_held s).good hs
  · exact (within_of_exec (exec_holds c _) he).good hs

/-- Settles O6: nothing is listed in a memory of the reset state, and an empty list is canonical. -/
theorem resetMemoriesAreGood : Obligations.ResetMemoriesAreGood :=
  ⟨⟨rfl, by decide⟩, rfl, by decide⟩

end Sys2Proof.Machine
end

section
/-! PROOFS. The slots of the Peat record under every step, and a die that stays frozen (R479, R485, R488, R489). -/

set_option Elab.async false

namespace Sys2Proof.Machine

/-! ### The slots of the Peat record -/

theorem Kept.ring {s t : State} (h : Kept s t) : t.peat.ring = s.peat.ring := congrArg (·.1) h.peat

theorem mramRead_ring (s : State) : (mramRead s).peat.ring = s.peat.ring := by
  unfold mramRead
  split
  · exact (startRepairs_kept RepLoc.onDie _ (.refl _)).ring
  · rfl

theorem warmPin_ring (s : State) : (warmPin s).peat.ring = s.peat.ring := by
  unfold warmPin
  extract_lets src s1
  have hcold : (assertCold s1).peat.ring = s.peat.ring := (assertCold_kept s1 (.refl s1)).ring
  have hdrain (x : State) : (drainBegin true (portsDrop x)).peat.ring = x.peat.ring := (drainBegin_kept true _ (portsDrop_kept x (.refl x))).ring
  repeat' split
  · rfl
  · exact hcold
  · rfl
  · exact hcold
  · exact hdrain _

theorem warmStart_ring (s : State) : (warmStart s).peat.ring = s.peat.ring := by
  unfold warmStart
  repeat' split
  · rfl
  · rfl
  · rfl

theorem warmDeadline_ring (s : State) : (warmDeadline s).peat.ring = s.peat.ring := by
  unfold warmDeadline
  split
  · extract_lets left q s1 srcA s2 s3 srcC src s4
    have h1 : s1.peat.ring = s.peat.ring := (Kept.each (fun _ _ h => State.modSl_kept h fun _ => Slice.flushPlru_good) (.refl s)).ring
    have h2 : s2.peat.ring = s1.peat.ring := (flood_kept _ _ _ (.refl _)).ring
    have h4 : s4.peat.ring = s.peat.ring := h2.trans h1
    split
    · exact (warmStart_ring s4).trans h4
    · exact h4
  · rfl

theorem warmRelease_ring (s : State) : (warmRelease s).peat.ring = s.peat.ring := by
  unfold warmRelease
  repeat' split
  · rfl
  · rfl
  · rfl
  · exact warmStart_ring _
  · rfl
  · rfl

theorem railsDown_ring (v : Bool) (s : State) : (railsDown v s).peat.ring = s.peat.ring := by cases v <;> rfl

theorem railTrip_ring (v : Bool) (s : State) : (railTrip v s).peat.ring = s.peat.ring := by
  unfold railTrip
  split
  · exact railsDown_ring true s
  · split
    · exact (failDrain_kept s (.refl s)).ring
    · rfl

theorem tempSample_ring (x : List Byte) (s : State) : (tempSample x s).peat.ring = s.peat.ring := by
  unfold tempSample
  extract_lets ts ms src s1 hot srcM s2
  have h2 : s2.peat.ring = s.peat.ring := by
    unfold s2
    split <;> rfl
  split
  · split
    · exact (stopAt_kept _ _ _ _ s2 (.refl s2)).ring.trans h2
    · exact h2
  · exact h2

/-- A record is written canonically. -/
theorem peatStore_wf (r : PRec) {s : State} (h : spWf 0 s.peat.ring = true) : spWf 0 (peatStore r s).peat.ring = true := spWf_spSet h

theorem peatWrite_wf {s : State} (h : spWf 0 s.peat.ring = true) : spWf 0 (peatWrite s).peat.ring = true := by
  unfold peatWrite
  split
  · exact h
  · split
    · exact peatStore_wf _ h
    · exact peatStore_wf _ h
    · exact h

/-- From state s to state t the slots of the Peat record stay canonical. -/
def RingWf (s t : State) : Prop := spWf 0 s.peat.ring = true → spWf 0 t.peat.ring = true

theorem RingWf.of_eq {s t : State} (h : t.peat.ring = s.peat.ring) : RingWf s t := fun hs => h ▸ hs

theorem clocked_ringWf (c : Instr) (ha : awake c = false) : Within onClock RingWf c := by
  cases ho : alwaysOn c with
  | false => exact (clocked_kept c ha ho).mono fun _ _ h => .of_eq h.ring
  | true =>
    rcases eq_of_clocked_alwaysOn c (by rw [ha, ho]; rfl) with rfl | rfl
    · exact ⟨_, fun _ => rfl, fun s => .of_eq (warmDeadline_ring s)⟩
    · exact ⟨_, fun _ => rfl, fun s => .of_eq (mramRead_ring s)⟩

theorem awakePin_ringWf (c : Instr) (h : (awake c && alwaysOn c && !aside c) = true) (s : State) : ∃ t : State, exec c s = .next t ∧ RingWf s t := by
  have aon {c : Instr} (hw : Within onAon RingWf c) : ∃ t : State, exec c s = .next t ∧ RingWf s t := hw.next onAon_guards (fun _ => id) s
  cases c with
  | peatRecordWrite => exact ⟨_, rfl, peatWrite_wf⟩
  | powerOn => exact ⟨_, rfl, id⟩
  | pwrOk v => exact aon ⟨_, fun _ => rfl, fun s => .of_eq (by split <;> rfl)⟩
  | resetN => exact aon ⟨_, fun _ => rfl, fun _ => id⟩
  | wrstN => exact aon ⟨_, fun _ => rfl, fun s => .of_eq (warmPin_ring s)⟩
  | wrstNRelease => exact aon ⟨_, fun _ => rfl, fun s => .of_eq (warmRelease_ring s)⟩
  | pfailN => exact aon ⟨_, fun _ => rfl, fun s => .of_eq (failDrain_kept _ (.refl { s with pins := { s.pins with pfailN := false } })).ring⟩
  | freezeN => exact aon ⟨freezePin, fun _ => rfl, fun s => .of_eq (freezePin_kept s).ring⟩
  | railTrip v => exact aon ⟨_, fun _ => rfl, fun s => .of_eq (railTrip_ring v s)⟩
  | temperatureSample x => exact aon ⟨_, fun _ => rfl, fun s => .of_eq (tempSample_ring x s)⟩
  | powerDown v => exact aon ⟨_, fun _ => rfl, fun s => .of_eq (railsDown_ring v s)⟩
  | _ => cases h

theorem exec_ringWf (c : Instr) (s : State) : ∃ t : State, exec c s = .next t ∧ RingWf s t := by
  cases ha : awake c with
  | false => exact (clocked_ringWf c ha).next onClock_guards (fun _ => id) s
  | true =>
    cases hc : aside c with
    | true =>
      obtain ⟨t, he, ht⟩ := aside_next c hc s
      exact ⟨t, he, .of_eq ht.ring⟩
    | false =>
      cases ho : alwaysOn c with
      | true => exact awakePin_ringWf c (by rw [ha, hc, ho]; rfl) s
      | false =>
        obtain ⟨t, he, ht⟩ := awake_kept c (by rw [ha, ho]; rfl) s
        exact ⟨t, he, .of_eq ht.ring⟩

/-- The root-derived clocks count and move on; the always-on parts change by the AON clock alone. -/
theorem clockTick_kept (s : State) : Kept s (clockTick s) := by
  unfold clockTick
  extract_lets u srcH srcG s1
  have h1 : Kept s s1 := .mk1 (voteRepair_kept _ (.refl s)) rfl rfl rfl rfl rfl rfl rfl
  clear_value s1
  exact quietStep_kept _ (downMoves_kept _ (startLive_kept _ (queueTick_kept _ (fullCycles_kept _ (arbTick_kept _ (switchTick_kept _
    (.each (fun _ _ h => runRegs_kept _ _ _ h) h1)))))))

theorem aonTick_eq (s : State) : aonTick s = { s with aon := (aonTick s).aon } := by
  unfold aonTick
  extract_lets a
  split <;> rfl

theorem tick_ring (s : State) : (tick s).peat.ring = s.peat.ring := by
  have ha : (aonTick s).peat.ring = s.peat.ring := by rw [aonTick_eq]
  unfold tick
  split
  · exact (clockTick_kept _).ring.trans ha
  · exact ha

/-- Settles O12: only the writer writes a slot, and what it writes keeps the slots canonical. -/
theorem everyStepKeepsPeatRingCanonical : Obligations.EveryStepKeepsPeatRingCanonical := by
  intro s t hs h
  rcases step_cases h with ⟨-, rfl⟩ | ⟨c, rest, -, he⟩
  · rw [tick_ring]; exact hs
  · exact within_of_exec (exec_ringWf c _) he hs

/-! ### The frozen die -/

/-- From a frozen state s to state t the die stays as it is. -/
def Dormant (s t : State) : Prop := s.dbg.frozen = true → t.die = s.die

theorem peatWrite_die (s : State) : (peatWrite s).die = s.die := by
  unfold peatWrite
  split
  · rfl
  · split <;> rfl

theorem freezeDie_of_frozen {s : State} (h : s.dbg.frozen = true) (src : BitVec 3) (code : Byte) : freezeDie src code s = s := if_pos h

/-- On a frozen die a stop changes the always-on parts alone (R343). -/
theorem stopAt_die {s : State} (h : s.dbg.frozen = true) (c : BitVec 3) (cause idx loc : Nat) : (stopAt c cause idx loc s).die = s.die := by
  unfold stopAt
  split
  · rfl
  · rfl

theorem refLoss_die {s : State} (h : s.dbg.frozen = true) : (refLoss s).die = s.die := by
  unfold refLoss
  split
  · exact stopAt_die (s := { s with crp := { s.crp with refLost := true } }) h 4 2 0 0
  · rfl

theorem tempSample_die (x : List Byte) {s : State} (h : s.dbg.frozen = true) : (tempSample x s).die = s.die := by
  unfold tempSample
  extract_lets ts ms src s1 hot srcM s2
  have h2 : s2 = s1 := if_neg (by rw [clk_of_frozen h]; simp)
  rw [h2]
  split
  · split
    · exact stopAt_die (s := s1) h _ _ _ _
    · rfl
  · rfl

theorem failDrain_die {s : State} (h : s.dbg.frozen = true) : (failDrain s).die = s.die := by
  unfold failDrain
  split
  · rfl
  · rfl

theorem failDeadline_die {s : State} (h : s.dbg.frozen = true) : (failDeadline s).die = s.die := by
  unfold failDeadline
  rw [if_neg (by simp [h])]

theorem railTrip_die {s : State} (h : s.dbg.frozen = true) : (railTrip false s).die = s.die := by
  unfold railTrip
  rw [if_neg (by simp)]
  split
  · exact failDrain_die h
  · rfl

theorem freezePin_die {s : State} (h : s.dbg.frozen = true) : (freezePin s).die = s.die := by
  unfold freezePin
  split
  · rw [freezeDie_of_frozen (by exact h)]
  · rfl

theorem smbWarm_die (ms : BitVec 16) {s : State} (h : s.dbg.frozen = true) : (smbWarm ms s).die = s.die := by
  unfold smbWarm
  rw [if_neg (by rw [clk_of_frozen h]; simp)]

theorem pllLocked_die (s : State) : (pllLocked s).die = s.die := by
  unfold pllLocked
  split <;> rfl

theorem awakePin_dormant (c : Instr) (h : (awake c && !aside c && !releases c) = true) (s : State) : ∃ t : State, exec c s = .next t ∧ Dormant s t := by
  have aon {c : Instr} (hw : Within onAon Dormant c) : ∃ t : State, exec c s = .next t ∧ Dormant s t := hw.next onAon_guards (fun _ _ => rfl) s
  cases c with
  | peatRecordWrite => exact ⟨_, rfl, fun _ => peatWrite_die s⟩
  | limitMinute => exact aon ⟨_, fun _ => rfl, fun _ _ => rfl⟩
  | warmAnnounce b ms => exact Within.next ⟨_, fun _ => rfl, fun _ => smbWarm_die ms⟩ (onSmb_guards b) (fun _ _ => rfl) s
  | pfailN => exact aon ⟨_, fun _ => rfl, fun s => failDrain_die (s := { s with pins := { s.pins with pfailN := false } })⟩
  | pfailDrainDeadline => exact aon ⟨_, fun _ => rfl, fun _ => failDeadline_die⟩
  | freezeN => exact aon ⟨freezePin, fun _ => rfl, fun _ => freezePin_die⟩
  | railTrip v =>
    cases v with
    | false => exact aon ⟨_, fun _ => rfl, fun _ => railTrip_die⟩
    | true => cases h
  | refclkLoss => exact aon ⟨_, fun _ => rfl, fun _ => refLoss_die⟩
  | temperatureSample x => exact aon ⟨_, fun _ => rfl, fun _ => tempSample_die x⟩
  | pllLock => exact aon ⟨_, fun _ => rfl, fun s _ => pllLocked_die s⟩
  | _ => cases h

theorem exec_dormant (c : Instr) (h : releases c = false) (s : State) : ∃ t : State, exec c s = .next t ∧ Dormant s t := by
  cases ha : awake c with
  | false =>
    obtain ⟨t, he, -⟩ := exec_holds c s
    refine ⟨t, he, fun hf => ?_⟩
    obtain rfl := Host.Outcome.next.inj (he.symm.trans ((clocked_held c ha).stopped (clk_of_frozen hf)))
    rfl
  | true =>
    cases hc : aside c with
    | true =>
      obtain ⟨t, he, ht⟩ := aside_next c hc s
      exact ⟨t, he, fun _ => ht.die⟩
    | false => exact awakePin_dormant c (by rw [ha, hc, h]; rfl) s

theorem tick_die {s : State} (h : s.dbg.frozen = true) : (tick s).die = s.die := by
  unfold tick
  rw [if_neg (by rw [clk_of_frozen h]; simp), aonTick_eq]

/-- The freeze state is part of the die. -/
theorem dbg_of_die {s t : State} (h : t.die = s.die) : t.dbg = s.dbg := by
  simp only [State.die, Prod.mk.injEq] at h
  obtain ⟨-, -, -, -, -, -, -, -, -, -, -, -, -, -, hdbg, -⟩ := h
  exact hdbg

/-- A step from a frozen device that keeps the die and takes nothing but the front of the queue leaves it frozen. -/
theorem FrozenAs.next {d s t : State} (h : FrozenAs d s) (hdie : t.die = s.die) (hp : t.pending = s.pending.tail) : FrozenAs d t := by
  obtain ⟨hf, hd, hq⟩ := h
  refine ⟨by rw [dbg_of_die hdie]; exact hf, hdie.trans hd, ?_⟩
  rw [hp]
  exact List.all_eq_true.2 fun c hc => List.all_eq_true.1 hq c (List.mem_of_mem_tail hc)

/-- Settles O8: with the clocks stopped only the commands of the always-on parts act, and of those that end no freeze none reaches the die. -/
theorem everyStepKeepsFrozenDie : Obligations.EveryStepKeepsFrozenDie := by
  intro d s t hs h
  refine hs.next ?_ (queueIsFirstInFirstOut s t h)
  obtain ⟨hf, -, hq⟩ := hs
  rcases step_cases h with ⟨-, rfl⟩ | ⟨c, rest, hp, he⟩
  · exact tick_die hf
  · have hc : releases c = false := by simpa using List.all_eq_true.1 hq c (by rw [hp]; exact List.mem_cons_self)
    have hdie : Dormant _ t := within_of_exec (exec_dormant c hc _) he
    exact hdie hf

end Sys2Proof.Machine
end

section
/-! PROOFS. The commands of the hosts and the events of their ports leave the home agent and DDR5 alone (R20, R117, R198, R288, R289, R292). -/

set_option Elab.async false

namespace Sys2Proof.Machine

/-- The commands that arrive from the hosts, and the events of their ports. -/
def fromHosts : Instr → Bool
  | .rdshared _ | .rdown _ | .upgrade _ | .rdcur _ | .write _ | .writent _ | .atomic _ | .rsvload _ | .condstore _ | .pfhint _ | .exception _
  | .wbdirty _ | .evictclean _ | .barrier _ | .barDoneComplete _ _ | .floor _ | .snprsp _ | .memrd _ | .memwrptl _ | .memwr _ | .memspecrd _
  | .birsp _ _ _ | .biconflict _ _ | .snoopTimeout _ _ | .hostLinkTrained _ _ _ | .hostLinkRecovery _ | .recoveryTimeout _ | .ltssmExit _
  | .portDownWalkDone _ | .waiterResume _ | .hostLinkRecovered _ _ _ _ | .reservedEmhalOpcode _ _ | .backInvalidationEnable _ | .msiXEnable _ => true
  | _ => false

/-- Each of them is one change of the device, which leaves the home agent alone: the row of the command cites the lemma about that change. -/
theorem fromHosts_homeKept (c : Instr) (h : fromHosts c = true) : Within onClock HomeKept c := by
  cases c with
  | rdshared _ | rdown _ | upgrade _ | rdcur _ | write _ | writent _ | atomic _ | rsvload _ | condstore _ | pfhint _ | exception _ =>
    exact ⟨_, fun _ => rfl, fun s => arrive_homeKept _ _ (gives_homeKept _ _ (.refl s))⟩
  | wbdirty _ => exact ⟨_, fun _ => rfl, fun s => wbDirty_homeKept _ _ (gives_homeKept _ _ (.refl s))⟩
  | evictclean _ => exact ⟨_, fun _ => rfl, fun s => .ite (fun _ => evictNotice_homeKept _ _ _ (gives_homeKept _ _ (.refl s))) (fun _ => .refl s)⟩
  | barrier _ => exact ⟨_, fun _ => rfl, fun s => barrierMsg_homeKept _ _ (gives_homeKept _ _ (.refl s))⟩
  | barDoneComplete _ _ => exact ⟨_, fun _ => rfl, fun s => barDoneRun_homeKept _ _ _ (.refl s)⟩
  | floor _ => exact ⟨_, fun _ => rfl, fun s => floorMsg_homeKept _ _ (gives_homeKept _ _ (.refl s))⟩
  | snprsp _ =>
    exact ⟨_, fun _ => rfl, fun s => .ite (fun _ => downMoves_homeKept _ (snoopAnswer_homeKept _ _ _ _ _ _ (gives_homeKept _ _ (.refl s)))) (fun _ => .refl s)⟩
  | memrd _ | memwrptl _ => exact ⟨_, fun _ => rfl, fun s => arrive_homeKept _ _ (.refl s)⟩
  | memwr _ => exact ⟨_, fun _ => rfl, fun s => memWr_homeKept _ _ (.refl s)⟩
  | memspecrd _ => exact ⟨_, fun _ => rfl, fun s => memSpecRd_homeKept _ _ (.refl s)⟩
  | birsp _ _ _ =>
    exact ⟨_, fun _ => rfl, fun s => .ite (fun _ => downMoves_homeKept _ (snoopAnswer_homeKept _ _ _ _ _ _ (.refl s))) (fun _ => .refl s)⟩
  | biconflict _ _ => exact ⟨_, fun _ => rfl, fun s => .ite (fun _ => toHost_homeKept _ _ _ (.refl s)) (fun _ => .refl s)⟩
  | snoopTimeout _ _ => exact ⟨_, fun _ => rfl, fun s => downMoves_homeKept _ (snoopTmo_homeKept _ _ _ (.refl s))⟩
  | hostLinkTrained _ _ _ => exact ⟨_, fun _ => rfl, fun s => linkTrained_homeKept _ _ _ _ (.refl s)⟩
  | hostLinkRecovery _ => exact ⟨_, fun _ => rfl, fun s => enterRecovery_homeKept _ _ (.refl s)⟩
  | recoveryTimeout _ => exact ⟨_, fun _ => rfl, fun s => .ite (fun _ => portDown_homeKept _ _ (.refl s)) (fun _ => .refl s)⟩
  | ltssmExit _ => exact ⟨_, fun _ => rfl, fun s => portDown_homeKept _ _ (.refl s)⟩
  | portDownWalkDone _ => exact ⟨_, fun _ => rfl, fun s => portWalkDone_homeKept _ _ (.refl s)⟩
  | waiterResume _ => exact ⟨_, fun _ => rfl, fun s => downMoves_homeKept _ (resume_homeKept _ _ (.refl s))⟩
  | hostLinkRecovered _ _ _ _ => exact ⟨_, fun _ => rfl, fun s => linkRecovered_homeKept _ _ _ _ _ (.refl s)⟩
  | reservedEmhalOpcode _ _ =>
    exact ⟨_, fun _ => rfl, fun s => .ite (fun _ => hostErr_homeKept _ _ _ _ _ (gives_homeKept _ _ (.refl s))) (fun _ => .refl s)⟩
  | backInvalidationEnable _ => exact ⟨_, fun _ => rfl, fun s => .ite (fun _ => State.modHp_homeKept _ _ _ (.refl s)) (fun _ => .refl s)⟩
  | msiXEnable _ => exact ⟨_, fun _ => rfl, fun s => .ite (fun _ => msixCheck_homeKept _ _ (State.modHp_homeKept _ _ _ (.refl s))) (fun _ => .refl s)⟩
  | _ => cases h

/-- Settles O9: every command listed is one of the hosts', and each of those leaves the home agent alone. -/
theorem hostCommandsLeaveTheHomeAlone : Obligations.HostCommandsLeaveTheHomeAlone := by
  intro s m c p e r o x16 g6 v w i hi
  exact (fromHosts_homeKept i (List.all_eq_true.1 (by rfl : List.all _ fromHosts = true) i hi)).next onClock_guards .refl s

end Sys2Proof.Machine
end

section
/-! PROOFS. The Peat record: what the writer stores and a read finds, and the minute and the summaries of its limits (R479 to R481, R483 to R486). -/

set_option Elab.async false

namespace Sys2Proof.Machine

/-! ### Records -/

theorem bytesOf_append {v w : Nat} (x : BitVec v) (y : BitVec w) {n : Nat} (h : 8 * n ≤ w) : bytesOf (x ++ y) n = bytesOf y n :=
  List.map_congr_left fun k hk => fld_append_low x y (by have := List.mem_range.1 hk; omega)

/-- 60 bytes closed by their CRC are the valid record of the number they begin with. -/
theorem recValid_closed {b : BitVec 480} {n : W32} (h : fld b 0 32 = n) : recValid (crc32c (bytesOf b 60) ++ b) n = true := by
  have hnum : fld (crc32c (bytesOf b 60) ++ b) 0 32 = n := (fld_append_low _ b (by decide)).trans h
  have hcrc : fld (crc32c (bytesOf b 60) ++ b) 480 32 = crc32c (bytesOf b 60) := (fld_append_high _ b (Nat.le_refl 480)).trans (fld_self _)
  rw [recValid, hnum, hcrc, bytesOf_append _ b (by decide)]
  simp

theorem voidRec_valid (n : W32) : recValid (voidRec n) n = true := by
  refine recValid_closed ?_
  ext i hi
  simp [fld, hi, show i < 480 by omega]

/-- Settles O11: a slot that does not hold the record reads as the void record of the number, closed by its CRC. -/
theorem recordReadCarriesItsNumber : Obligations.RecordReadCarriesItsNumber := by
  intro x n
  unfold Peat.recAt
  extract_lets w
  split
  · assumption
  · exact voidRec_valid n

theorem packPeat_number (r : PRec) (seq : W32) (start : BitVec 16) (tv : Bool) (time : W64) (nv : Bool) (node : NodeId) (d : Bool) :
    fld (packPeat r seq start tv time nv node d) 0 32 = seq := by
  unfold packPeat
  extract_lets flags nd body
  rw [fld_append_low _ _ (by decide), fld_append_low _ _ (by decide), fld_self]

/-! ### The writer -/

/-- From s to t the record r has been written at NEXT, and its copies have followed in turn. -/
structure Wrote (r : PRec) (s t : State) : Prop where
  slot   : spGet 0 t.peat.ring (s.peat.next.toNat % 16384) = packPeat r s.peat.next s.peat.starts (timeValid s)
    (if timeValid s then s.gen.time else s.aon.cycles) (nodeValid s) s.node.node (draining s || decide (r.type = 0x20))
  next   : t.peat.next = s.peat.next + 1
  others : ∀ k : Nat, k ≠ s.peat.next.toNat % 16384 → spGet 0 t.peat.ring k = spGet 0 s.peat.ring k
  copies : t.peat.copyA = t.peat.next ∧ t.peat.copyB = s.peat.copyB ∨ t.peat.copyA = s.peat.copyA ∧ t.peat.copyB = t.peat.next
  same   : t.peat.starts = s.peat.starts ∧ t.peat.sums = s.peat.sums ∧ t.peat.sel = s.peat.sel ∧ t.peat.ctl = s.peat.ctl

/-- The writer stores a record whatever its queues then hold. -/
theorem peatStore_wrote (r : PRec) {s : State} (h : spWf 0 s.peat.ring = true) (own queue source : List PRec) :
    Wrote r s (peatStore r { s with peat := { s.peat with own := own, queue := queue, source := source } }) where
  slot := spGet_spSet_same h
  next := rfl
  others _ hk := spGet_spSet_other h hk
  copies := by
    unfold peatStore
    extract_lets s1 x tv w n
    dsimp only
    split
    · exact .inr ⟨rfl, rfl⟩
    · exact .inl ⟨rfl, rfl⟩
  same := ⟨rfl, rfl, rfl, rfl⟩

theorem peatStore_only (r : PRec) (s : State) : peatStore r s = { s with peat := (peatStore r s).peat } := rfl

section
variable {s : State} (hup : s.aon.up = true) (hpow : s.crp.powered = true)
include hup hpow

theorem peatWrite_idle (ho : s.peat.own = []) (hq : s.peat.queue = []) : peatWrite s = s := by
  rw [peatWrite, if_neg (by simp [hup, hpow]), ho, hq]

theorem peatWrite_own {r : PRec} {l : List PRec} (ho : s.peat.own = r :: l) : peatWrite s = peatStore r { s with peat := { s.peat with own := l } } := by
  rw [peatWrite, if_neg (by simp [hup, hpow]), ho]

theorem peatWrite_queue {r : PRec} {l : List PRec} (ho : s.peat.own = []) (hq : s.peat.queue = r :: l) :
    peatWrite s = peatStore r { s with peat := ({ s.peat with queue := l } : Peat).admOpen } := by
  rw [peatWrite, if_neg (by simp [hup, hpow]), ho, hq]

/-- The writer's next record is the first of its own, else the front of the queue. -/
theorem peatWrite_wrote {r : PRec} {l : List PRec} (h : spWf 0 s.peat.ring = true) (hl : s.peat.own ++ s.peat.queue = r :: l) : Wrote r s (peatWrite s) := by
  cases ho : s.peat.own with
  | nil =>
    rw [ho, List.nil_append] at hl
    rw [peatWrite_queue hup hpow ho hl]
    exact peatStore_wrote r h s.peat.own _ _
  | cons q m =>
    rw [ho, List.cons_append] at hl
    obtain ⟨rfl, -⟩ := List.cons.inj hl
    rw [peatWrite_own hup hpow ho]
    exact peatStore_wrote q h m s.peat.queue s.peat.source

end

/-- What waits at its source enters the queue in order. -/
theorem admOpen_order (x : Peat) : x.admOpen.queue ++ x.admOpen.source = x.queue ++ x.source := by
  simp [Peat.admOpen, List.append_assoc]

theorem peatWrite_only (s : State) : peatWrite s = { s with peat := (peatWrite s).peat } := by
  unfold peatWrite
  split
  · rfl
  · split <;> rfl

/-! ### Summaries -/

/-- A record that is not limited enters the queue, or waits behind what waits at its source (R480). -/
theorem peatEnter_order {r : PRec} (h : peatLimited r.type = false) (s : State) : ∃ q w : List PRec,
    peatEnter r s = { s with peat := { s.peat with queue := q, source := w } } ∧ q ++ w = s.peat.queue ++ s.peat.source ++ [r] := by
  unfold peatEnter
  extract_lets p
  rw [if_neg (by simp [h])]
  split
  · exact ⟨_, _, rfl, (List.append_assoc ..).symm⟩
  · next hf =>
    have hsrc : s.peat.source = [] := by simp_all [p]
    exact ⟨_, _, rfl, by simp [p, hsrc]⟩

/-- Settles O13: each writing is one store of the first record that waits; a summary is one record entered. -/
theorem peatWriterAndLimitsWork : Obligations.PeatWriterAndLimitsWork := by
  refine ⟨fun s hup hpow hwf => ⟨_, rfl, peatWrite_only s, peatWrite_idle hup hpow, fun r l hl => ?_, fun ho => ?_, fun ho hq => ?_⟩,
    fun s hup => ⟨onAon_run hup fun s => { s with peat := { s.peat with used := 0 } }, fun hclk => ⟨_, onClock_run hclk summarize, ?_⟩⟩⟩
  · obtain ⟨hslot, hnext, hothers, hcopies, hsame⟩ := peatWrite_wrote hup hpow hwf hl
    exact ⟨hslot, hnext, by rw [hslot, packPeat_number], hothers, hcopies, hsame⟩
  · obtain ⟨r, l, hl⟩ := List.exists_cons_of_ne_nil ho
    rw [peatWrite_own hup hpow hl, hl]
    exact ⟨rfl, rfl, rfl⟩
  · obtain ⟨r, l, hl⟩ := List.exists_cons_of_ne_nil hq
    rw [peatWrite_queue hup hpow ho hl, hl]
    exact ⟨ho, admOpen_order { s.peat with queue := l }⟩
  · unfold summarize
    by_cases hmin : summaryMin s = 0
    · rw [if_pos hmin]
      exact ⟨rfl, fun _ => rfl, fun h => absurd hmin h⟩
    · rw [if_neg hmin]
      extract_lets now old cs body
      obtain ⟨q, w, he, horder⟩ := peatEnter_order (r := mkRec 0x50 (summaryMin s) body) rfl
        { s with peat := { s.peat with sums := now, suppr := 0, supprs := 0 } }
      rw [he]
      exact ⟨rfl, fun h => absurd h hmin, fun _ => ⟨rfl, rfl, rfl, rfl, rfl, rfl, _, rfl, horder⟩⟩

end Sys2Proof.Machine
end

section
/-! PROOFS. The instructions of the test port and the commands of SMBus, one by one (R487, R491, R492, R515, R518). -/

set_option Elab.async false

namespace Sys2Proof.Machine

/-! ### Bits through a register -/

/-- The bit left in the one-bit register is the last that came in. -/
theorem headD_drop_cons (b : Bool) (l : List Bool) : ((b :: l).drop l.length).headD b = (b :: l).getLastD false := by
  cases l with
  | nil => rfl
  | cons c m =>
    rw [List.drop_length_cons (List.cons_ne_nil c m), List.headD_cons, List.getLastD_cons, List.getLastD_cons]
    exact (List.getLast_eq_getLastD ..)

theorem viaBypass_eq (l : List Bool) (s : State) : viaBypass l s = { s with
    tap := { s.tap with bypass := (s.tap.bypass :: l).getLastD false }, out := s.out ++ [.tdo ((s.tap.bypass :: l).take l.length)] } := by
  rw [← headD_drop_cons]
  rfl

/-- A chain holds what was shifted into it (R492). -/
theorem chainBits_chainShift (l : List Bool) (s : State) :
    chainBits (chainShift l s) s.tap.chain.toNat = (chainBits s s.tap.chain.toNat ++ l).drop l.length := by
  rw [chainBits, show (chainShift l s).tap.chains = spIns s.tap.chain.toNat _ s.tap.chains from rfl, find?_spIns, if_pos rfl]
  rfl

/-! ### The test port -/

/-- The test instructions. -/
def tests : Instr → Bool
  | .extest _ | .samplePreload _ | .idcode | .highz | .clamp | .extestPulse _ | .extestTrain _ | .frzstat | .chainsel _ | .chainscan _ | .arraysel _
  | .arrayrd | .bypass _ => true
  | _ => false

theorem exec_tests (c : Instr) (h : tests c = true) : ∃ f : State → State, ∀ s, exec c s = onTap s f := by
  cases c with
  | extest _ | samplePreload _ | idcode | highz | clamp | extestPulse _ | extestTrain _ | frzstat | chainsel _ | chainscan _ | arraysel _
  | arrayrd | bypass _ => exact ⟨_, fun _ => rfl⟩
  | _ => cases h

/-- With TRST_N low the test logic takes no instruction (R515). -/
theorem exec_tests_low {s : State} (hlow : s.pins.trstN = false) {c : Instr} (h : tests c = true) : exec c s = .next s := by
  obtain ⟨f, he⟩ := exec_tests c h
  rw [he, onTap, if_neg (by simp [hlow])]

/-- With TRST_N high it takes them all. -/
theorem exec_onTap {s t : State} {c : Instr} {f : State → State} (he : ∀ s, exec c s = onTap s f) (h : s.pins.trstN = true) (ht : f s = t) :
    exec c s = .next t := by
  rw [he, onTap, if_pos h, ht]

/-- From s to t an instruction of code c has taken the boundary scan register where ok says so, and the bypass register where it does not. -/
structure Scanned (bits : List Bool) (c : Byte) (ok : Bool) (s t : State) : Prop where
  ir     : t.tap.ir = c
  only   : t = { s with tap := t.tap, out := t.out, freeCtr := t.freeCtr }
  bscan  : ok = true → t.tap = { s.tap with ir := c, bscan := t.tap.bscan } ∧ t.freeCtr = s.freeCtr + 1 ∧
    t.tap.bscan.length = Config.bscanLen ∧ (bits.length = Config.bscanLen → t.tap.bscan = bits) ∧
    ∃ d : List Bool, t.out = s.out ++ [.tdo d] ∧ d.length = bits.length
  bypass : ok = false → t.tap = { s.tap with ir := c, bypass := (s.tap.bypass :: bits).getLastD false } ∧ t.freeCtr = s.freeCtr ∧
    t.out = s.out ++ [.tdo ((s.tap.bypass :: bits).take bits.length)]

theorem tapIf_scanned (bits : List Bool) (c : Byte) (ok : Bool) (s : State) : Scanned bits c ok s (tapIf c ok bits (viaBscan bits) s) := by
  cases ok with
  | false =>
    rw [show tapIf c false bits (viaBscan bits) s = viaBypass bits (setIr c s) from rfl, viaBypass_eq]
    exact ⟨rfl, rfl, nofun, fun _ => ⟨rfl, rfl, rfl⟩⟩
  | true =>
    have hlen (k : Nat) : ((List.range Config.bscanLen).map (Config.pinSample k)).length = Config.bscanLen := by simp
    refine ⟨rfl, rfl, fun _ => ⟨rfl, rfl, ?_, fun hbits => ?_, _, rfl, ?_⟩, nofun⟩
    · exact (List.length_drop ..).trans (by rw [List.length_append, hlen]; omega)
    · exact List.drop_left' ((hlen _).trans hbits.symm)
    · exact (List.length_take ..).trans (by rw [List.length_append, hlen]; omega)

section
variable {s : State} (h : s.pins.trstN = true)
include h

/-- Each of the four is taken, as its condition says. -/
theorem exec_scan (bits : List Bool) : ∀ i ∈ [(Instr.samplePreload bits, (0x01 : Byte), true), (.extest bits, 0x00, !s.pins.resetN),
    (.extestPulse bits, 0x05, !s.pins.resetN), (.extestTrain bits, 0x06, !s.pins.resetN)],
    exec i.1 s = .next (tapIf i.2.1 i.2.2 bits (viaBscan bits) s) := by
  simp only [List.forall_mem_cons]
  exact ⟨exec_onTap (fun _ => rfl) h rfl, exec_onTap (fun _ => rfl) h rfl, exec_onTap (fun _ => rfl) h rfl, exec_onTap (fun _ => rfl) h rfl,
    List.forall_mem_nil _⟩

section
variable (hf : s.dbg.frozen = true)
include hf

theorem exec_chainsel (v : W32) : exec (.chainsel v) s = .next (chainSelect v (setIr 0xC1 s)) := exec_onTap (fun _ => rfl) h (by rw [hf]; rfl)
theorem exec_chainscan (bits : List Bool) : exec (.chainscan bits) s = .next (chainShift bits (setIr 0xC2 s)) :=
  exec_onTap (fun _ => rfl) h (by rw [hf]; rfl)
theorem exec_arraysel (v : W32) : exec (.arraysel v) s = .next (arraySelect v (setIr 0xC3 s)) := exec_onTap (fun _ => rfl) h (by rw [hf]; rfl)
theorem exec_arrayrd : exec .arrayrd s = .next (arrayRead (setIr 0xC4 s)) := exec_onTap (fun _ => rfl) h (by rw [hf]; rfl)

end

/-- Without a freeze each of the four acts as BYPASS (R491). -/
theorem exec_unfrozen (hf : s.dbg.frozen = false) (bits : List Bool) (v : W32) :
    ∀ i ∈ [(Instr.chainsel v, (0xC1 : Byte), wordBits v), (.chainscan bits, 0xC2, bits), (.arraysel v, 0xC3, wordBits v), (.arrayrd, 0xC4, [])],
      exec i.1 s = .next (viaBypass i.2.2 (setIr i.2.1 s)) := by
  have hby (c : Byte) (l : List Bool) (f : State → State) : tapIf c s.dbg.frozen l f s = viaBypass l (setIr c s) := by rw [hf]; rfl
  simp only [List.forall_mem_cons]
  exact ⟨exec_onTap (fun _ => rfl) h (hby ..), exec_onTap (fun _ => rfl) h (hby ..), exec_onTap (fun _ => rfl) h (hby ..),
    exec_onTap (fun _ => rfl) h (hby ..), List.forall_mem_nil _⟩

end

/-! ### SMBus -/

section
variable {s t : State} {c : Instr} {b : SmbHdr} {f : State → State} (he : ∀ s, exec c s = onSmb b s f) (hup : s.aon.up = true)
include he hup

/-- At its own address, and with its PEC, the target takes a command (R518). -/
theorem exec_onSmb (ha : b.addr = 0x58 + s.aon.smbAd.setWidth 7) (hp : b.pec = true) (ht : f s = t) : exec c s = .next t := by
  rw [he, onSmb, onAon, if_pos hup, if_pos ⟨ha, hp⟩, ht]

/-- To another address, or without its PEC, the target does nothing (R518). -/
theorem exec_onSmb_ignored (h : b.addr ≠ 0x58 + s.aon.smbAd.setWidth 7 ∨ b.pec = false) : exec c s = .next s := by
  have hno : ¬ (b.addr = 0x58 + s.aon.smbAd.setWidth 7 ∧ b.pec = true) := by
    rintro ⟨ha, hp⟩
    simp [ha, hp] at h
  rw [he, onSmb, onAon, if_pos hup, if_neg hno]

end

/-- Settles O10: each instruction and each command is one change of its own register, of what leaves the device and of the free-value count. -/
theorem testAndSmbusCommandsComplete : Obligations.TestAndSmbusCommandsComplete := by
  refine ⟨fun s bits tdi v hlow i hi => exec_tests_low hlow (List.all_eq_true.1 (by rfl : List.all _ tests = true) i hi), fun s bits tdi v h => ?_,
    fun s seq b ms hup hb => ?_, fun s seq b hup ha hp => ?_⟩
  · refine ⟨exec_onTap (fun _ => rfl) h rfl, exec_onTap (fun _ => rfl) h rfl, exec_onTap (fun _ => rfl) h rfl, exec_onTap (fun _ => rfl) h rfl,
    exec_onTap (fun _ => rfl) h rfl, fun i hi => ?_, fun hf => ⟨?_, ?_, ?_, ?_⟩, fun hf i hi => ?_⟩
    · obtain ⟨hir, honly, hbscan, hbypass⟩ := tapIf_scanned bits i.2.1 i.2.2 s
      exact ⟨_, exec_scan h bits i hi, hir, honly, hbscan, hbypass⟩
    · exact ⟨_, exec_chainsel h hf v, rfl, rfl, rfl⟩
    · exact ⟨_, exec_chainscan h hf bits, rfl, rfl, rfl, chainBits_chainShift bits (setIr 0xC2 s)⟩
    · exact ⟨_, exec_arraysel h hf v, rfl, rfl, rfl⟩
    · exact ⟨_, exec_arrayrd h hf, rfl, rfl, _, rfl, by simp [setIr]⟩
    · rw [exec_unfrozen h hf bits v i hi, viaBypass_eq]
      rfl
  · simp only [List.forall_mem_cons]
    exact ⟨exec_onSmb_ignored (fun _ => rfl) hup hb, exec_onSmb_ignored (fun _ => rfl) hup hb, exec_onSmb_ignored (fun _ => rfl) hup hb,
      exec_onSmb_ignored (fun _ => rfl) hup hb, exec_onSmb_ignored (fun _ => rfl) hup hb,
      exec_onSmb_ignored (fun _ => rfl) hup hb, List.forall_mem_nil _⟩
  · refine ⟨exec_onSmb (fun _ => rfl) hup ha hp rfl, exec_onSmb (fun _ => rfl) hup ha hp rfl, exec_onSmb (fun _ => rfl) hup ha hp rfl,
    exec_onSmb (fun _ => rfl) hup ha hp rfl, exec_onSmb (fun _ => rfl) hup ha hp ?_⟩
    unfold smbData
    cases s.peat.first s.peat.sel with
    | none => rfl
    | some n => rfl

end Sys2Proof.Machine
end

section
/-! PROOFS. The warm start, the read of MRAM at a start, and the end of the start-up (R454, R460, R462 to R466, R469, R482, R485, R490). -/

set_option Elab.async false

namespace Sys2Proof.Machine

/-! ### The release of WRST_N, and the QUIET exchange -/

/-- The device restarts as after RESET_N, and its start has begun. -/
theorem restartCold_coldFrom (s : State) : ColdFrom 1 s (restartCold s) := { coldReset_coldFrom 1 s with kind := rfl }

theorem beginCold_assertCold_coldFrom (s : State) (x : Pins) : ColdFrom 1 s (beginCold (assertCold { s with pins := x })) :=
  { assertCold_pins_coldFrom s x with kind := rfl }

theorem warmReset_warmFrom (s : State) : WarmFrom s (warmReset s) where
  lost := rfl
  fabric := rfl
  slices i := State.map_sl s _ i
  mem := rfl
  reloc := rfl
  home := ⟨rfl, rfl, rfl⟩
  integ := rfl
  record := rfl
  start := ⟨rfl, rfl, rfl, rfl⟩

theorem warmStart_warm {s : State} (h : standAlone s = false ∨ s.aon.quiet = true) :
    warmStart s = (let s1 := warmReset { s with aon := { s.aon with warmCnt := satInc16 s.aon.warmCnt } }
                   { s1 with crp := { s1.crp with kept := standAlone s } }) := by
  cases ha : standAlone s with
  | false => rw [warmStart, ha]; rfl
  | true =>
    have hq : s.aon.quiet = true := h.resolve_left (by simp [ha])
    rw [warmStart, ha, if_pos rfl, if_pos hq]

theorem warmStart_cold {s : State} (ha : standAlone s = true) (hq : s.aon.quiet = false) :
    warmStart s = restartCold { s with aon := { s.aon with warmCnt := satInc16 s.aon.warmCnt } } := by
  rw [warmStart, if_pos ha, if_neg (by simp [hq])]

section
variable {s : State}

theorem exec_quietExchangeResult (hclk : s.clk = true) (hfw : fwUp s = true) (a : List QuietAnswer) :
    exec (.quietExchangeResult a) s = .next (quietResult a { s with fw := { s.fw with st := .run } }) := by
  rw [show exec (.quietExchangeResult a) s = _ from onClock_run hclk _, fwDo, if_pos hfw]

theorem quietResult_cold {a : List QuietAnswer} (hw : quietWaits s = true)
    (h : s.aon.quiet = false ∨ (∃ x ∈ a, x.quiet = false) ∨ ∃ x ∈ a, s.node.node ∈ x.dead) : quietResult a s = restartCold s := by
  have hbad : ((a.flatMap (·.dead)).contains s.node.node || !s.aon.quiet || a.any (fun x => !x.quiet)) = true := by
    obtain hq | ⟨x, hx, hq⟩ | ⟨x, hx, hd⟩ := h
    · simp [hq]
    · have hany : a.any (fun x => !x.quiet) = true := List.any_eq_true.2 ⟨x, hx, by simp [hq]⟩
      simp [hany]
    · have hmem : s.node.node ∈ a.flatMap (·.dead) := List.mem_flatMap.2 ⟨x, hx, hd⟩
      rw [List.contains_iff_mem.2 hmem, Bool.true_or, Bool.true_or]
  rw [quietResult, if_neg (by simp [hw]), if_pos hbad]

theorem quietResult_all_quiet {a : List QuietAnswer} (hw : quietWaits s = true) (hq : s.aon.quiet = true)
    (ha : ∀ x ∈ a, x.quiet = true ∧ x.dead = []) (hall : ∀ m ∈ members s.node, m ≠ self s → ∃ x ∈ a, x.member = m) :
    quietResult a s = { s with crp := { s.crp with kept := true } } := by
  have hdead : a.flatMap (·.dead) = [] := List.flatMap_eq_nil_iff.2 fun x hx => (ha x hx).2
  have hany : a.any (fun x => !x.quiet) = false := List.any_eq_false.2 fun x hx => by simp [(ha x hx).1]
  have hothers : ((members s.node).filter (fun m => decide (m ≠ self s))).all (fun m => a.any (fun x => decide (x.member = m))) = true := by
    refine List.all_eq_true.2 fun m hm => ?_
    obtain ⟨hm, hne⟩ := List.mem_filter.1 hm
    obtain ⟨x, hx, he⟩ := hall m hm (of_decide_eq_true hne)
    exact List.any_eq_true.2 ⟨x, hx, decide_eq_true he⟩
  rw [quietResult, if_neg (by simp [hw]), hdead, if_neg (by simp [hq, hany]), if_pos hothers]
  rfl

end

/-- Settles O17: the branches of the release, then those of the exchange. -/
theorem warmStartAsksWhetherAllWereQuiet : Obligations.WarmStartAsksWhetherAllWereQuiet := by
  refine ⟨fun s hup => ?_, fun s a hclk hfw hkind hkept hphase => ?_⟩
  · have hex : exec .wrstNRelease s = .next (warmRelease s) := onAon_run hup _
    refine ⟨fun hw hl hr => ?_, fun hw hp hf => ?_, fun hw hp hd hf => ?_, fun hw hp hd hf => ?_⟩
    · rw [hex, warmRelease, if_pos hw, if_pos (by simp [hl, hr])]
      rfl
    · rw [hex, warmRelease, if_neg (by simp [hw]), if_pos hp, if_pos hf]
      exact ⟨_, rfl, beginCold_assertCold_coldFrom s _, rfl, rfl, rfl⟩
    · rw [hex, warmRelease, if_neg (by simp [hw]), if_pos hp, if_neg (by simp [hf]), if_neg (by simp [hd])]
    · rw [hex, warmRelease, if_neg (by simp [hw]), if_pos hp, if_neg (by simp [hf]), if_pos hd]
      by_cases h : standAlone s = false ∨ s.aon.quiet = true
      · exact ⟨_, congrArg _ (warmStart_warm h), rfl, rfl, fun _ => ⟨{ warmReset_warmFrom s with start := ⟨rfl, rfl, rfl, rfl⟩ }, rfl, rfl⟩,
          fun ha hq => by simp [ha, hq] at h⟩
      · obtain ⟨ha, hq⟩ := not_or.1 h
        exact ⟨_, congrArg _ (warmStart_cold (Bool.eq_true_of_not_eq_false ha) (Bool.eq_false_of_not_eq_true hq)), rfl, rfl,
          fun h' => absurd h' h, fun _ _ => ⟨{ restartCold_coldFrom s with kind := rfl }, rfl, rfl⟩⟩
  · have hw : quietWaits { s with fw := { s.fw with st := .run } } = true := by simp [quietWaits, hkind, hkept, hphase]
    have hcold : ColdFrom 1 s (restartCold { s with fw := { s.fw with st := .run } }) := { restartCold_coldFrom s with kind := rfl }
    rw [exec_quietExchangeResult hclk hfw]
    refine ⟨fun h => ?_, fun hq ha hall => ?_, _, ?_, hcold, rfl, rfl⟩
    · exact ⟨_, congrArg _ (quietResult_cold hw h), hcold, rfl, rfl⟩
    · rw [quietResult_all_quiet hw hq ha hall]
    · rw [show exec .quietTimeout s = _ from onClock_run hclk _, fwDo, if_pos hfw, if_pos hw]

/-! ### PWR_OK, the lock of the PLLs, and the read of MRAM -/

theorem exec_pwrOk {s : State} (hup : s.aon.up = true) (h : s.crp.started = false) (v : Bool) : exec (.pwrOk v) s = .next { s with
    pins := ⟨true, true, true, true, v⟩, tap := if v then s.tap else State.reset.tap
    crp := { s.crp with powered := true, started := true, waitRst := false, phase := .pll, startT := s.aon.cycles } } := by
  rw [show exec (.pwrOk v) s = execPwrOk v s from rfl, execPwrOk, onAon_run hup, if_neg (by simp [h])]
  rfl

theorem exec_pllLock {s : State} (hup : s.aon.up = true) (h : s.crp.started = true) (hp : s.crp.phase = .pll) :
    exec .pllLock s = .next { s with crp := { s.crp with pllLock := true, phase := .fuses } } := by
  rw [show exec .pllLock s = _ from onAon_run hup _, pllLocked, if_pos ⟨h, hp⟩]

/-- NEXT advances over valid records only, and as far as they go (R485). -/
theorem Peat.advance_spec (x : Peat) (m : Nat) (n : W32) : ∃ k ≤ m, x.advance m n = n + BitVec.ofNat 32 k ∧
    (∀ j < k, recValid (spGet 0 x.ring ((n + BitVec.ofNat 32 j).toNat % 16384)) (n + BitVec.ofNat 32 j) = true) ∧
    (k < m → recValid (spGet 0 x.ring ((x.advance m n).toNat % 16384)) (x.advance m n) = false) := by
  induction m generalizing n with
  | zero => exact ⟨0, le_rfl, (BitVec.add_zero n).symm, nofun, nofun⟩
  | succ m ih =>
    by_cases hv : recValid (spGet 0 x.ring (n.toNat % 16384)) n = true
    · have hadv : x.advance (m + 1) n = x.advance m (n + 1) := if_pos hv
      have hsucc (j : Nat) : n + BitVec.ofNat 32 (j + 1) = n + 1 + BitVec.ofNat 32 j := by
        rw [Nat.add_comm, BitVec.ofNat_add, ← BitVec.add_assoc]; rfl
      obtain ⟨k, hk, he, hall, hend⟩ := ih (n + 1)
      refine ⟨k + 1, Nat.succ_le_succ hk, by rw [hadv, he, hsucc], fun j hj => ?_, fun hlt => hadv ▸ hend (Nat.lt_of_succ_lt_succ hlt)⟩
      cases j with
      | zero => simpa using hv
      | succ j => rw [hsucc]; exact hall j (Nat.lt_of_succ_lt_succ hj)
    · have hadv : x.advance (m + 1) n = n := if_neg hv
      exact ⟨0, Nat.zero_le _, by rw [hadv]; exact (BitVec.add_zero n).symm, nofun, fun _ => by rw [hadv]; exact Bool.eq_false_of_not_eq_true hv⟩

/-- With no on-die repair waiting, the step of the on-die rows switches in the rows already repaired, and counts none (R354). -/
theorem startRepairs_onDie {s : State} (h : ∀ e ∈ s.integ.repMap, e.loc.onDie = false ∨ e.st ≠ .pending) :
    ∃ v : List RepLoc, startRepairs RepLoc.onDie s = { s with integ := { s.integ with inForce := v } } ∧
      ∀ r, r ∈ v ↔ r ∈ s.integ.inForce ∨ ∃ e ∈ s.integ.repMap, e.loc = r ∧ r.onDie = true ∧ e.st = .applied := by
  have hnone : s.integ.repMap.filter (fun e => decide (e.st = .pending) && e.loc.onDie) = [] :=
    List.filter_eq_nil_iff.2 fun e he => by rcases h e he with h | h <;> simp [h]
  have hrun : startRepairs RepLoc.onDie s = again RepLoc.onDie s := by
    simp only [startRepairs, hnone, List.map_nil, State.each_nil]
  let es := (s.integ.repMap.filter (fun e => decide (e.st = .applied) && e.loc.onDie && (e.loc.onDie || decide (s.crp.kind ≠ 2)))).map (·.loc)
  have hes (r : RepLoc) : r ∈ es ↔ ∃ e ∈ s.integ.repMap, e.loc = r ∧ r.onDie = true ∧ e.st = .applied := by
    simp only [es, List.mem_map, List.mem_filter, Bool.and_eq_true, decide_eq_true_eq, Bool.or_eq_true]
    constructor
    · rintro ⟨e, ⟨he, ⟨hst, hon⟩, -⟩, rfl⟩
      exact ⟨e, he, rfl, hon, hst⟩
    · rintro ⟨e, he, rfl, hon, hst⟩
      exact ⟨e, ⟨he, ⟨hst, hon⟩, .inl hon⟩, rfl⟩
  have hcount : es.filter (fun r => !r.onDie) = [] :=
    List.filter_eq_nil_iff.2 fun r hr => by obtain ⟨_, _, _, hon, _⟩ := (hes r).1 hr; simp [hon]
  refine ⟨s.integ.inForce ++ es.filter (fun r => !s.integ.inForce.contains r), ?_, fun r => ?_⟩
  · rw [hrun, again]
    simp only [show (s.integ.repMap.filter _).map (·.loc) = es from rfl, hcount, List.length_nil, BitVec.add_zero]
  · rw [List.mem_append, List.mem_filter, hes]
    by_cases hr : r ∈ s.integ.inForce <;> simp [hr]

/-- Settles O19: PWR_OK and the lock by their guards, the read of MRAM by what the pointer and the repairs do. -/
theorem coldStartReadsTheMram : Obligations.ColdStartReadsTheMram := by
  refine ⟨fun s hup => ⟨exec_pwrOk hup, exec_pllLock hup⟩, fun s hclk hp hrep => ?_⟩
  obtain ⟨k, hk, hnext, hall, hend⟩ := s.peat.advance_spec 16384 s.peat.higher
  obtain ⟨v, hv, hmem⟩ := startRepairs_onDie (s := { s with
    peat := { s.peat with next := s.peat.advance 16384 s.peat.higher, copyA := s.peat.advance 16384 s.peat.higher
                          copyB := s.peat.advance 16384 s.peat.higher, starts := s.peat.starts + 1, own := startRec s :: s.peat.own }
    aon := { s.aon with stopHeld := false }, crp := { s.crp with phase := .selfTest } }) hrep
  have hex : exec .fuseAndMramReadDone s = .next _ := onClock_run hclk mramRead
  rw [mramRead, if_pos hp] at hex
  exact ⟨_, k, hex.trans (congrArg _ hv), hnext, hk, hall, hend, rfl, hmem⟩

end Sys2Proof.Machine
end

section
/-! PROOFS. The release of the firmware, and the opening of admission (R288, R460, R464, R466, R477). -/

set_option Elab.async false

namespace Sys2Proof.Machine

/-! ### A host port takes its mode -/

theorem VReg.get_mk1 (vm v : W32) : (VReg.mk1 v).get vm = v := by
  ext i hi
  simp only [VReg.get, VReg.maj_mk1, BitVec.getElem_or, BitVec.getElem_and, BitVec.getElem_not, show (VReg.mk1 v).c0 = v from rfl]
  cases v[i] <;> cases vm[i] <;> rfl

theorem fld_setFld_low (x : W32) (m : BitVec 2) : fld (setFld x 0 2 m) 0 2 = m := by
  ext i hi
  obtain rfl | rfl : i = 0 ∨ i = 1 := by omega
  · simp [fld, setFld]
  · simp [fld, setFld]

/-- A port with the mode m of the description: one with a mode trains, the others stay down (R288). -/
def HPort.given (m : BitVec 2) (h : HPort) : HPort :=
  let h1 := { h with linkCtl := .mk1 (setFld (h.linkCtl.get vmLinkCtl) 0 2 m) }
  { h1 with link := if h1.mode = 0 then .down else .training }

theorem HPort.given_mode (m : BitVec 2) (h : HPort) : (h.given m).mode = if m = 3 then 0 else m := by
  simp only [HPort.mode, HPort.given, VReg.get_mk1, fld_setFld_low]

theorem HPort.given_link (m : BitVec 2) (h : HPort) : (h.given m).link = if (h.given m).mode = 0 then .down else .training := rfl

theorem State.each_cons {α : Type} (s : State) (x : α) (l : List α) (f : State → α → State) : s.each (x :: l) f = (f s x).each l f := List.foldl_cons ..

theorem each_given {v : List (BitVec 2)} (l : List Port) (s : State) (h : s.node.desc.modes = v) :
    s.each l (fun t p => t.modHp p (HPort.given (t.node.desc.modes.getD p.val 0))) = s.each l (fun t p => t.modHp p (HPort.given (v.getD p.val 0))) := by
  induction l generalizing s with
  | nil => rw [State.each_nil, State.each_nil]
  | cons a l ih =>
    rw [State.each_cons, State.each_cons, h]
    exact ih _ (by rw [State.modHp_node, h])

theorem loadModes_each (s : State) :
    loadModes s = s.each ports (fun t p => t.modHp p (HPort.given (s.node.desc.modes.getD p.val 0))) := each_given ports s rfl

theorem loadModes_hp (s : State) (p : Port) : (loadModes s).hp p = (s.hp p).given (s.node.desc.modes.getD p.val 0) := by
  rw [loadModes_each, State.each_modHp_hp (fun p => HPort.given (s.node.desc.modes.getD p.val 0)) ports (by decide), if_pos ((by decide : ∀ x, x ∈ ports) p)]

theorem loadModes_only (s : State) : loadModes s = { s with hports := (loadModes s).hports } := by
  rw [loadModes_each]
  exact State.each_modHp_only (fun p => HPort.given (s.node.desc.modes.getD p.val 0)) ports s

/-! ### Nothing waits for the firmware -/

theorem postBacklog_empty {s : State} {p : Port} (h : (s.mb p).backlog = []) : postBacklog p s = s := by
  simp only [postBacklog, h]

theorem postAll_empty {s : State} {p : Port} (h : (s.mb p).backlog = []) : postAll p s = s := by
  simp only [postAll, postBacklog_empty h]

theorem msixCheck_off {s : State} {p : Port} (h : (s.hp p).msix = false) : msixCheck p s = s := by
  simp only [msixCheck, h, Bool.and_false, Bool.false_eq_true, if_false]

theorem ringRun_empty {s : State} (h : s.fabric.ring = []) : ringRun s = s := by
  have hkeep : ringRun s = { s with fabric := { s.fabric with ring := [] } } := by simp only [ringRun, h, List.drop_nil, List.foldl_nil]
  rw [hkeep, ← h]

/-- With no notice, no message and no MSI-X waiting, the firmware's return to RUN brings nothing more. -/
theorem caughtUp {s : State} (h : ∀ p : Port, (s.mb p).backlog = [] ∧ (s.hp p).msix = false) (hr : s.fabric.ring = []) :
    ringRun (msixAll (s.each ports (fun s p => postAll p s))) = s := by
  rw [State.each_id s ports (fun s p => postAll p s) fun p _ => postAll_empty (h p).1, msixAll,
    State.each_id s ports (fun s p => msixCheck p s) fun p _ => msixCheck_off (h p).2, ringRun_empty hr]

/-! ### The release -/

/-- The released firmware has the policy of its description. -/
def released (s : State) : State := loadPolicy { s with fw := { s.fw with st := .run }, crp := { s.crp with phase := .links } }

/-- The released firmware has the ports' modes as well. -/
def described (s : State) : State := loadModes (released s)

theorem described_hp (s : State) (p : Port) : (described s).hp p = (s.hp p).given (s.node.desc.modes.getD p.val 0) := loadModes_hp _ p

theorem described_only (s : State) : described s = { released s with hports := (described s).hports } := loadModes_only _

theorem described_fw (s : State) : (described s).fw = { s.fw with st := .run } := congrArg State.fw (described_only s)

theorem described_node (s : State) : (described s).node = (released s).node := by rw [described_only]

theorem described_mb (s : State) (p : Port) : (described s).mb p = s.mb p := congrArg (·.mb p) (described_only s)

theorem described_ring (s : State) : (described s).fabric.ring = s.fabric.ring := congrArg (·.fabric.ring) (described_only s)

/-- The relocation table is asked for, where it must be (R190, R464 step 11). -/
def tablesAsked (s : State) : State :=
  if s.fw.tabDone then s
  else if (members s.node).all (fun m => decide (m = self s)) then modFw (fun f => { f with tabTry := true, tabDone := true }) s
  else askTables s

theorem fwRelease_eq {s : State} (hp : s.crp.phase = .fwInit) :
    fwRelease s = ringRun (msixAll ((tablesAsked (described s)).each ports (fun s p => postAll p s))) := if_pos hp

theorem fwRelease_caughtUp {s : State} (hp : s.crp.phase = .fwInit) (htab : s.fw.tabDone = true ∨ ∀ m ∈ members s.node, m = self s)
    (hq : ∀ p : Port, (s.mb p).backlog = [] ∧ (s.hp p).msix = false) (hr : s.fabric.ring = []) :
    ∃ b : Bool, fwRelease s = { released s with fw := { s.fw with st := .run, tabTry := b, tabDone := true }, hports := (described s).hports } := by
  have hall : ∀ p : Port, ((described s).mb p).backlog = [] ∧ ((described s).hp p).msix = false := fun p =>
    ⟨by rw [described_mb, (hq p).1], by rw [described_hp]; exact (hq p).2⟩
  have hring : (described s).fabric.ring = [] := (described_ring s).trans hr
  rw [fwRelease_eq hp, tablesAsked, described_fw]
  cases hd : s.fw.tabDone with
  | true =>
    refine ⟨s.fw.tabTry, ?_⟩
    rw [if_pos rfl, caughtUp hall hring, ← hd]
    exact described_only s
  | false =>
    have honly : (members (described s).node).all (fun m => decide (m = self (described s))) = true := by
      rw [self, described_node]
      exact List.all_eq_true.2 fun m hm => decide_eq_true ((htab.resolve_left (by simp [hd])) m hm)
    refine ⟨true, ?_⟩
    rw [if_neg Bool.false_ne_true, if_pos honly]
    have hkeep := caughtUp (s := modFw (fun f => { f with tabTry := true, tabDone := true }) (described s)) hall hring
    rw [hkeep, modFw, described_fw, described_only]

/-- A port with its admission open. -/
def HPort.opened (h : HPort) : HPort := { h with admOpen := true }

/-- Settles O22: the release finds nothing waiting; admission opens by its two guards. -/
theorem firmwareReleasesAndAdmissionOpens : Obligations.FirmwareReleasesAndAdmissionOpens := by
  refine ⟨fun s hclk hp htab hq hr => ?_, fun s p hclk => ⟨fun hno => ?_, fun hmay => ?_⟩⟩
  · obtain ⟨b, hb⟩ := fwRelease_caughtUp hp htab hq hr
    have hex : exec .firmwareRelease s = .next (fwRelease s) := onClock_run hclk _
    refine ⟨_, hex.trans (congrArg _ hb), rfl, rfl, rfl, fun p => ?_, rfl, rfl, rfl, rfl, rfl, rfl, rfl⟩
    have hgiven : (described s).hp p = (s.hp p).given (s.node.desc.modes.getD p.val 0) := described_hp s p
    exact ⟨(congrArg HPort.mode hgiven).trans (HPort.given_mode ..), (congrArg HPort.link hgiven).trans (by rw [HPort.given_link, ← hgiven]; rfl),
      (congrArg HPort.admOpen hgiven :)⟩
  · rw [show exec (.admissionOpen p) s = _ from onClock_run hclk (openAdmission p), openAdmission, if_neg (by simp [hno])]
  · rw [show exec (.admissionOpen p) s = _ from onClock_run hclk (openAdmission p), openAdmission, if_pos hmay]
    have hphase : s.crp.phase = .links ∨ s.crp.phase = .running := by
      simp only [mayOpen, Bool.and_eq_true, Bool.or_eq_true, decide_eq_true_eq] at hmay
      exact hmay.1.1.1.1.1
    have hself : (s.modHp p HPort.opened).hp p = (s.hp p).opened := State.modHp_hp ..
    have hother (q : Port) (hq : q ≠ p) : (s.modHp p HPort.opened).hp q = s.hp q := State.modHp_hp_other _ _ hq
    obtain hl | hr := hphase
    · rw [if_pos hl]
      exact ⟨_, rfl, hself, hother, rfl, fun h => absurd (hl.symm.trans h) (by decide), rfl⟩
    · rw [if_neg (by simp [hr])]
      exact ⟨_, rfl, hself, hother, hr, fun _ => rfl, rfl⟩

end Sys2Proof.Machine
end

section
/-! PROOFS. The freeze pin, the loss of REFCLK, and the temperature monitor (R182, R343, R453, R454, R488, R489, R513). -/

set_option Elab.async false

namespace Sys2Proof.Machine

/-! ### What the end of the host requests leaves alone when the device stops (R182) -/

/-- The parts of a stop that its completions with DEAD do not reach. -/
def stopParts (s : State) : Crp × Fabric × Pins × Aon × Mem := (s.crp, s.fabric, s.pins, s.aon, s.mem)

/-- From s to t those parts stay, and the records the writer forms itself are only added to. -/
structure StopSide (s t : State) : Prop where
  parts : stopParts t = stopParts s
  own   : ∃ l : List PRec, t.peat.own = s.peat.own ++ l

namespace StopSide
variable {s t u : State}

theorem of_own (h : stopParts t = stopParts s) (ho : t.peat.own = s.peat.own) : StopSide s t := ⟨h, [], by rw [ho, List.append_nil]⟩

theorem refl (s : State) : StopSide s s := of_own rfl rfl

theorem trans (h : StopSide s t) (h' : StopSide t u) : StopSide s u := by
  obtain ⟨l, hl⟩ := h.own
  obtain ⟨l', hl'⟩ := h'.own
  exact ⟨h'.parts.trans h.parts, l ++ l', by rw [hl', hl, List.append_assoc]⟩

theorem each {α : Type} {f : State → α → State} (hf : ∀ s x, StopSide s (f s x)) (l : List α) (s : State) : StopSide s (s.each l f) := by
  induction l generalizing s with
  | nil => exact .refl s
  | cons x l ih => exact (hf s x).trans (ih (f s x))

theorem ite {c : Prop} [Decidable c] (ht : StopSide s t) (hu : StopSide s u) : StopSide s (if c then t else u) := by
  split
  · exact ht
  · exact hu

theorem crp (h : StopSide s t) : t.crp = s.crp := congrArg (·.1) h.parts
theorem fabric (h : StopSide s t) : t.fabric = s.fabric := congrArg (·.2.1) h.parts
theorem pins (h : StopSide s t) : t.pins = s.pins := congrArg (·.2.2.1) h.parts
theorem aon (h : StopSide s t) : t.aon = s.aon := congrArg (·.2.2.2.1) h.parts
theorem mem (h : StopSide s t) : t.mem = s.mem := congrArg (·.2.2.2.2) h.parts

end StopSide

theorem setHp_stopSide (s : State) (p : Port) (h : HPort) : StopSide s (s.setHp p h) := .of_own rfl rfl

theorem modHp_stopSide (s : State) (p : Port) (f : HPort → HPort) : StopSide s (s.modHp p f) := .of_own rfl rfl

theorem toHost_stopSide (p : Port) (m : ToHost) (s : State) : StopSide s (toHost p m s) := by
  unfold toHost
  extract_lets h
  split
  · exact .of_own rfl rfl
  · exact .of_own rfl rfl
  all_goals exact .refl s

theorem msixCheck_stopSide (p : Port) (s : State) : StopSide s (msixCheck p s) :=
  .ite ((StopSide.ite (toHost_stopSide p _ s) (.refl s)).trans (modHp_stopSide _ p _)) (.refl s)

theorem setEq_stopSide (s : State) (p : Port) (q : Evq) : StopSide s (s.setEq p q) := .of_own rfl rfl

theorem postTo_stopSide (p : Port) (code : Byte) (cls : Nat) (pl : List W64) (s : State) : StopSide s (postTo p code cls pl s) :=
  .ite ((setEq_stopSide s p _).trans (msixCheck_stopSide p _)) (.refl s)

theorem freezeDie_stopSide (src : BitVec 3) (code : Byte) (s : State) : StopSide s (freezeDie src code s) := .ite (.refl s) ⟨rfl, _, rfl⟩

theorem freezeOnEvent_stopSide (code : Byte) (s : State) : StopSide s (freezeOnEvent code s) := .ite (freezeDie_stopSide 3 code s) (.refl s)

theorem postEvent_stopSide (code : Byte) (cls : Nat) (pl : List W64) (s : State) : StopSide s (postEvent code cls pl s) :=
  (StopSide.each (fun s p => postTo_stopSide p code cls pl s) ports s).trans (freezeOnEvent_stopSide code _)

theorem peatEnter_stopSide (r : PRec) (s : State) : StopSide s (peatEnter r s) :=
  .ite (.ite (.of_own rfl rfl) (.of_own rfl rfl)) (.ite (.of_own rfl rfl) (.of_own rfl rfl))

theorem postNotice_stopSide (p : Port) (code : Byte) (arg : BitVec 16) (s : State) : StopSide s (postNotice p code arg s) := by
  unfold postNotice
  extract_lets m wait
  have hwait : StopSide s (wait s) := .ite (.of_own rfl rfl) (.of_own rfl rfl)
  split
  · split
    · refine (StopSide.trans (t := if code = 0xA3 then s.modHp p (fun h => { h with quarCnt := 0, quarWait := false }) else s) ?_ ?_).trans
        (msixCheck_stopSide p _)
      · exact .ite (modHp_stopSide s p _) (.refl s)
      · exact .of_own rfl rfl
    · exact hwait
  · exact hwait

theorem stampLostOf_stopSide (g : BitVec 6) (cause : Nat) (l : LAddr) (s : State) : StopSide s (stampLostOf g cause l s) := by
  have hrec := (postEvent_stopSide 0x70 7 [g.setWidth 64, BitVec.ofNat 64 cause] s).trans
    (peatEnter_stopSide (mkRec 0x41 cause (bodyAt 24 g.toNat ||| bodyAt 28 (lineAddr l).toNat)) _)
  unfold stampLostOf
  extract_lets s1
  have hlost : StopSide s1 { s1 with stamp := { s1.stamp with lost := true } } := .of_own rfl rfl
  split
  · exact (hrec.trans hlost).trans (.each (fun s p => .ite (postNotice_stopSide p 0xA2 (g.setWidth 16) s) (.refl s)) ports _)
  · exact hrec

theorem stampCheck_stopSide (r : Req) (bad : Bool) (s : State) : StopSide s (stampCheck r bad s) :=
  .ite (.ite (stampLostOf_stopSide _ 1 _ s) (.refl s)) (.refl s)

theorem endBound_stopSide (r : Req) (s : State) : StopSide s (endBound r s) :=
  .ite (.ite (((modHp_stopSide s _ _).trans (modHp_stopSide _ _ _)).trans (postEvent_stopSide 0x80 8 _ _)) (modHp_stopSide s _ _)) (.refl s)

/-- The request's end and its answer. -/
theorem answered_stopSide (r : Req) (m : ToHost) (s : State) : StopSide s (answer r m (endBound r s)) :=
  (endBound_stopSide r s).trans (toHost_stopSide r.port m _)

theorem complete_stopSide (r : Req) (st : BitVec 3) (grant : BitVec 2) (cmpeq poison : Bool) (s : State) :
    StopSide s (complete r st grant cmpeq poison s) := by
  unfold complete
  extract_lets s1 g h
  have h1 : StopSide s s1 := modHp_stopSide s r.port _
  split
  · exact h1.trans (answered_stopSide r _ s1)
  · split
    · exact h1.trans (.of_own rfl rfl)
    · exact h1.trans (((setHp_stopSide s1 r.port _).trans (answered_stopSide r _ _)))

theorem completeData_stopSide (r : Req) (st : BitVec 3) (grant : BitVec 2) (cmpeq poison : Bool) (len : Nat) (d : Line) (s : State) :
    StopSide s (completeData r st grant cmpeq poison len d s) := by
  unfold completeData
  extract_lets s1 g h mine
  have h1 : StopSide s s1 := modHp_stopSide s r.port _
  split
  · exact h1.trans (answered_stopSide r _ s1)
  · split
    · exact h1.trans (.of_own rfl rfl)
    · exact h1.trans (((setHp_stopSide s1 r.port _).trans (answered_stopSide r _ _)))

theorem completeStop_stopSide (r : Req) (s : State) : StopSide s (completeStop r s) :=
  (StopSide.ite (completeData_stopSide r stDEAD 0 false true r.len 0 s) (complete_stopSide r stDEAD 0 false false s)).trans (stampCheck_stopSide r true _)

theorem endBar_stopSide (p : Port) (b : Bar) (st : BitVec 3) (s : State) : StopSide s (endBar p b st s) :=
  (modHp_stopSide s p _).trans (toHost_stopSide p _ _)

theorem completeAllDead_stopSide (s : State) : StopSide s (completeAllDead s) := by
  have hslice (s : State) (i : SliceNo) (f : Slice → Slice) : StopSide s ((s.each (s.sl i).reqs (fun s r => completeStop r s)).modSl i f) :=
    (StopSide.each (fun s r => completeStop_stopSide r s) _ s).trans (.of_own rfl rfl)
  have hqueue (s : State) (p : Port) : StopSide s (s.each (s.hp p).queue (fun s r => completeStop r s)) :=
    .each (fun s r => completeStop_stopSide r s) _ s
  have hport (s : State) (p : Port) (l : List Bar) : StopSide s ((s.each l (fun s b => endBar p b stDEAD s)).modHp p (fun h => { h with queue := [] })) :=
    (StopSide.each (fun s b => endBar_stopSide p b stDEAD s) l s).trans (modHp_stopSide _ p _)
  exact (StopSide.each (fun s i => hslice s i _) sliceNos s).trans (.each (fun s p => (hqueue s p).trans (hport _ p _)) ports _)

/-! ### A stop, and the monitors that bring it -/

/-- From s to t the device stops with a cause of the always-on domain and one of the STOP record: nothing else of the always-on state
changes, nor the pins and DDR5, and the die freezes where it is armed to. -/
structure Stopped (aonCause : BitVec 3) (cause : Nat) (s t : State) : Prop where
  aon    : t.aon = { s.aon with cause := aonCause, stopHeld := true }
  pins   : t.pins = s.pins
  mem    : t.mem = s.mem
  lost   : t.crp.refLost = s.crp.refLost
  record : ∃ (r : PRec) (l : List PRec), r.type = 0x10 ∧ r.cause = BitVec.ofNat 32 cause ∧ t.peat.own = s.peat.own ++ r :: l
  armed  : s.dbg.frozen = false → bit (s.dbg.frzCtl.get 0xE) 2 = true → t.dbg.frozen = true ∧ t.dbg.src = 4 ∧ t.dbg.code = BitVec.ofNat 8 cause
  free   : s.dbg.frozen = false → bit (s.dbg.frzCtl.get 0xE) 2 = false → t.crp.phase = .stopped ∧ t.fabric.stopped = true ∧ t.fabric.selfDead = true

theorem stopAt_stopped {s : State} (h : s.fabric.selfDead = false) (aonCause : BitVec 3) (cause idx loc : Nat) :
    Stopped aonCause cause s (stopAt aonCause cause idx loc s) := by
  unfold stopAt
  rw [if_neg (by simp [h])]
  extract_lets srcA s0 s1 srcF srcC s2
  split
  · next hf => exact ⟨rfl, rfl, rfl, rfl, ⟨_, [], rfl, rfl, rfl⟩, fun hn => absurd (hn.symm.trans hf) (by decide),
      fun hn => absurd (hn.symm.trans hf) (by decide)⟩
  · next hf =>
    have h0 : s0.dbg.frozen = false := Bool.eq_false_of_not_eq_true hf
    split
    · next ha =>
      rw [freezeDie, if_neg (by simp [h0])]
      exact ⟨rfl, rfl, rfl, rfl, ⟨_, [_], rfl, rfl, List.append_assoc ..⟩, fun _ _ => ⟨rfl, rfl, rfl⟩, fun _ hn => absurd (hn.symm.trans ha) (by decide)⟩
    · next ha =>
      have hside : StopSide s2 (completeAllDead s2) := completeAllDead_stopSide s2
      obtain ⟨l, hl⟩ := hside.own
      refine ⟨hside.aon, hside.pins, hside.mem, (congrArg Crp.refLost hside.crp :), ⟨_, l, rfl, rfl, hl.trans (List.append_assoc ..)⟩,
        fun _ hn => absurd hn ha, fun _ _ => ⟨congrArg Crp.phase hside.crp, congrArg Fabric.stopped hside.fabric, congrArg Fabric.selfDead hside.fabric⟩⟩

/-- FREEZE_N freezes the die (R488, R489). -/
theorem exec_freezeN {s : State} (hup : s.aon.up = true) (hst : s.crp.started = true) (hon : s.crp.waitOn = false) (hf : s.dbg.frozen = false) :
    exec .freezeN s = .next { s with
      pins := { s.pins with freezeN := false }, dbg := { s.dbg with frozen := true, src := 1, code := 0 }
      tap := { s.tap with chains := [], snap := s.freeCtr }, freeCtr := s.freeCtr + 1
      peat := { s.peat with own := s.peat.own ++ [{ type := 0x12, hw := true, cause := 1, body := 0 }] } } := by
  rw [show exec .freezeN s = .next (freezePin s) from onAon_run hup freezePin, freezePin, if_pos (by simp [hst, hon]), freezeDie, if_neg (by simp [hf])]
  rfl

theorem exec_refclkLoss {s : State} (hup : s.aon.up = true) (hst : s.crp.started = true) (hon : s.crp.waitOn = false) :
    exec .refclkLoss s = .next (stopAt 4 2 0 0 { s with crp := { s.crp with refLost := true } }) := by
  rw [show exec .refclkLoss s = _ from onAon_run hup refLoss, refLoss, if_pos (by simp [hst, hon]), stopDevice]

/-! ### The temperature sample -/

/-- The temperatures after a sample. -/
def sampledTemps (x : List Byte) (s : State) : Vector Byte 5 := s.aon.temps.mapFinIdx (fun i y _ => x.getD i y)

/-- The samples at the limit, in a row, after a sample. -/
def sampledHot (x : List Byte) (s : State) : Vector Nat 5 :=
  s.aon.hotMs.mapFinIdx (fun i n h => if hotLimit ≤ ((sampledTemps x s)[i]).toInt then n + 1 else 0)

/-- The stacks whose refresh is doubled after a sample. -/
def sampledRefresh (x : List Byte) (s : State) : BitVec 4 :=
  (List.range 4).foldl (fun b k => setBit b k (decide (85 < (vget (sampledTemps x s) (k + 1) 0).toInt))) 0

/-- The state with the sample recorded. -/
def sampled (x : List Byte) (s : State) : State :=
  { s with aon := { s.aon with temps := sampledTemps x s, hotMs := sampledHot x s }
           mem := if s.clk then { s.mem with hot := sampledRefresh x s } else s.mem }

/-- The first die at the limit in two samples in a row. -/
def hotDie (x : List Byte) (s : State) : Option Nat := (List.range 5).find? (fun i => decide (2 ≤ vget (sampledHot x s) i 0))

theorem tempSample_cases (x : List Byte) (s : State) : (hotDie x s = none ∧ tempSample x s = sampled x s) ∨
    ∃ i, hotDie x s = some i ∧ tempSample x s = if s.crp.started && !s.crp.waitOn then stopAt 4 1 i 0 (sampled x s) else sampled x s := by
  unfold tempSample
  extract_lets ts ms srcA s1 hot srcM s2
  have hs : s2 = sampled x s := by
    unfold s2 sampled
    split <;> rfl
  rw [hs]
  split
  · next i hi => exact .inr ⟨i, hi, rfl⟩
  · next hn => exact .inl ⟨hn, rfl⟩

theorem sampledTemps_toList {x : List Byte} (h : x.length = 5) (s : State) : (sampledTemps x s).toList = x := by
  refine List.ext_getElem (by simp [h]) fun i hi hx => ?_
  simp [sampledTemps, hx]

theorem sampledTemps_vget {x : List Byte} (h : x.length = 5) (s : State) {i : Nat} (hi : i < 5) : vget (sampledTemps x s) i 0 = x.getD i 0 := by
  simp [vget, sampledTemps, hi, h]

theorem sampledHot_vget {x : List Byte} (h : x.length = 5) (s : State) {i : Nat} (hi : i < 5) :
    vget (sampledHot x s) i 0 = if hotLimit ≤ (x.getD i 0).toInt then vget s.aon.hotMs i 0 + 1 else 0 := by
  simp [vget, sampledHot, sampledTemps, hi, h]

theorem sampledRefresh_bit {x : List Byte} (h : x.length = 5) (s : State) (k : Fin 4) :
    (sampledRefresh x s).getLsbD k.val = decide (85 < (x.getD (k.val + 1) 0).toInt) := by
  have hb := foldl_setBit_bit (fun k => decide (85 < (vget (sampledTemps x s) (k + 1) 0).toInt)) 4 k.isLt
  rw [decide_eq_true k.isLt, Bool.true_and, sampledTemps_vget h s (by omega)] at hb
  exact hb

theorem hotDie_none {x : List Byte} (h : x.length = 5) {s : State} (hot : ∀ k : Fin 5, vget s.aon.hotMs k.val 0 = 0) : hotDie x s = none := by
  refine List.find?_eq_none.2 fun i hi => ?_
  have hi5 : i < 5 := List.mem_range.1 hi
  rw [decide_eq_true_eq, sampledHot_vget h s hi5, hot ⟨i, hi5⟩]
  split <;> omega

theorem hotDie_isSome {x : List Byte} (h : x.length = 5) {s : State} {k : Fin 5} (hk : 1 ≤ vget s.aon.hotMs k.val 0)
    (hl : hotLimit ≤ (x.getD k.val 0).toInt) : hotDie x s ≠ none := fun hn => by
  have hcold := List.find?_eq_none.1 hn k.val (List.mem_range.2 k.isLt)
  rw [decide_eq_true_eq, sampledHot_vget h s k.isLt, if_pos hl] at hcold
  omega

theorem sampled_refreshed {x : List Byte} (h : x.length = 5) {s : State} (hclk : s.clk = true) (k : Fin 4) :
    (sampled x s).mem.hot.getLsbD k.val = decide (85 < (x.getD (k.val + 1) 0).toInt) := by
  rw [← sampledRefresh_bit h s k, sampled, if_pos hclk]

theorem sampled_ddr (x : List Byte) (s : State) : (sampled x s).mem.ddr = s.mem.ddr := by
  unfold sampled
  split <;> rfl

theorem exec_temperatureSample {s : State} (hup : s.aon.up = true) (x : List Byte) : exec (.temperatureSample x) s = .next (tempSample x s) :=
  onAon_run hup _

/-- Settles O18: the pin freezes; the loss and a die twice at the limit are stops, and any other sample is recorded only. -/
theorem pinsAndMonitorsStopTheDevice : Obligations.PinsAndMonitorsStopTheDevice := by
  refine ⟨fun s hup hst hon hf => ⟨_, exec_freezeN hup hst hon hf, ?_, _, rfl, rfl, rfl⟩, fun s x hup hst hon hself => ⟨?_, fun hx => ?_⟩⟩
  · simp [State.clk]
  · have hstop := stopAt_stopped (s := { s with crp := { s.crp with refLost := true } }) hself 4 2 0 0
    exact ⟨_, exec_refclkLoss hup hst hon, hstop.lost, hstop.aon, hstop.pins, congrArg Mem.ddr hstop.mem, hstop.record, hstop.armed, hstop.free⟩
  · refine ⟨_, exec_temperatureSample hup x, ?_⟩
    obtain ⟨hnone, he⟩ | ⟨i, hsome, he⟩ := tempSample_cases x s
    · rw [he]
      refine ⟨sampledTemps_toList hx s, rfl, sampled_ddr x s, sampled_refreshed hx, fun hot => ⟨fun k => ?_, rfl⟩,
        fun ⟨k, hk, hl⟩ => absurd hnone (hotDie_isSome hx hk hl)⟩
      exact (sampledHot_vget hx s k.isLt).trans (by rw [hot k])
    · have hstop := stopAt_stopped (s := sampled x s) hself 4 1 i 0
      rw [he, if_pos (by simp [hst, hon])]
      refine ⟨?_, hstop.pins, (congrArg Mem.ddr hstop.mem).trans (sampled_ddr x s), fun hclk k => ?_, fun hot => ?_, fun _ => ?_⟩
      · rw [hstop.aon]
        exact sampledTemps_toList hx s
      · rw [hstop.mem]
        exact sampled_refreshed hx hclk k
      · exact absurd ((hotDie_none hx hot).symm.trans hsome) nofun
      · exact ⟨congrArg Aon.cause hstop.aon, congrArg Aon.stopHeld hstop.aon, hstop.record, hstop.armed, hstop.free⟩

end Sys2Proof.Machine
end

section
/-! PROOFS. What one TIME cycle leaves alone: the time base, which counts by itself, and what the lines of DDR5 read as (R336, R361 to R364, R450; log 2).
`lasting` of a state is both; each function that the clocks run, register accesses and walks among them, keeps it, one lemma per function in the
order of the model's files. Only the write queues, as they empty into DRAM, change a part of it, and no line reads otherwise for that. -/

set_option Elab.async false

namespace Sys2Proof.Machine

/-- The time base, and what the lines of DDR5 are read from. -/
def State.lasting (s : State) : W64 × Nat × List Nat × List (Nat × List Nat) × Sparse DLine × List (Nat × DLine) :=
  (s.gen.time, s.mem.fillBlk, s.mem.fillMap, s.mem.fillSlots, s.mem.ddr, s.mem.wq)

theorem State.lasting_mk
    (s : State) {pending out sent freeCtr seqNo node hports slices home stamp arb fports fabric integ fw mbx evq aon peat dbg tap crp pins} :
    (State.mk pending out sent freeCtr seqNo node hports slices home stamp arb fports fabric s.mem integ fw mbx evq s.gen aon peat dbg tap crp pins).lasting =
      s.lasting := rfl

theorem State.lasting_ite {c : Prop} [Decidable c] (s t : State) : (if c then s else t).lasting = if c then s.lasting else t.lasting := apply_ite ..

theorem State.foldl_lasting {α : Type} {f : State → α → State} (hf : ∀ s x, (f s x).lasting = s.lasting) (l : List α) (s : State) :
    (l.foldl f s).lasting = s.lasting := by
  induction l generalizing s with
  | nil => rfl
  | cons x l ih => exact (ih (f s x)).trans (hf s x)

theorem State.each_lasting {α : Type} {f : State → α → State} (hf : ∀ s x, (f s x).lasting = s.lasting) (l : List α) (s : State) :
    (s.each l f).lasting = s.lasting := State.foldl_lasting hf l s

theorem State.foldl2_lasting {α β : Type} {f : β × State → α → β × State} (hf : ∀ y x, (f y x).2.lasting = y.2.lasting)
    (l : List α) (z : β × State) : (l.foldl f z).2.lasting = z.2.lasting := by
  induction l generalizing z with
  | nil => rfl
  | cons x l ih => exact (ih (f z x)).trans (hf z x)


/-! ### Updates, messages, events and notices -/

theorem State.setHp_lasting (s : State) (p : Port) (h : HPort) : (s.setHp p h).lasting = s.lasting := by
  simp only [State.setHp, State.lasting_mk]

theorem State.modHp_lasting (s : State) (p : Port) (f : HPort → HPort) : (s.modHp p f).lasting = s.lasting := by
  simp only [State.modHp, State.setHp_lasting]

theorem State.setSl_lasting (s : State) (i : SliceNo) (x : Slice) : (s.setSl i x).lasting = s.lasting := by
  simp only [State.setSl, State.lasting_mk]

theorem State.modSl_lasting (s : State) (i : SliceNo) (f : Slice → Slice) : (s.modSl i f).lasting = s.lasting := by
  simp only [State.modSl, State.setSl_lasting]

theorem State.setFp_lasting (s : State) (f : FPortNo) (x : FPort) : (s.setFp f x).lasting = s.lasting := by
  simp only [State.setFp, State.lasting_mk]

theorem State.modFp_lasting (s : State) (f : FPortNo) (g : FPort → FPort) : (s.modFp f g).lasting = s.lasting := by
  simp only [State.modFp, State.setFp_lasting]

theorem State.setMb_lasting (s : State) (p : Port) (x : Mbx) : (s.setMb p x).lasting = s.lasting := by
  simp only [State.setMb, State.lasting_mk]

theorem State.modMb_lasting (s : State) (p : Port) (f : Mbx → Mbx) : (s.modMb p f).lasting = s.lasting := by
  simp only [State.modMb, State.setMb_lasting]

theorem State.setEq_lasting (s : State) (p : Port) (x : Evq) : (s.setEq p x).lasting = s.lasting := by
  simp only [State.setEq, State.lasting_mk]

theorem State.modHome_lasting (s : State) (f : Home → Home) : (s.modHome f).lasting = s.lasting := by
  simp only [State.modHome, State.lasting_mk]

theorem State.modFabric_lasting (s : State) (f : Fabric → Fabric) : (s.modFabric f).lasting = s.lasting := by
  simp only [State.modFabric, State.lasting_mk]

theorem State.emit_lasting (s : State) (o : Out) : (s.emit o).lasting = s.lasting := by
  simp only [State.emit, State.lasting_mk]

theorem State.tick1_lasting (s : State) : s.tick1.lasting = s.lasting := by
  simp only [State.tick1, State.lasting_mk]

theorem toHost_lasting (p : Port) (m : ToHost) (s : State) : (toHost p m s).lasting = s.lasting := by
  simp only [toHost]
  split <;> simp only [State.emit_lasting, State.setHp_lasting]

theorem msixCheck_lasting (p : Port) (s : State) : (msixCheck p s).lasting = s.lasting := by
  simp only [msixCheck, toHost_lasting, State.modHp_lasting, State.lasting_ite, ite_self]

theorem peatOwn_lasting (r : PRec) (s : State) : (peatOwn r s).lasting = s.lasting := by
  simp only [peatOwn, State.lasting_mk]

theorem peatEnter_lasting (r : PRec) (s : State) : (peatEnter r s).lasting = s.lasting := by
  simp only [peatEnter, State.lasting_mk, State.lasting_ite, ite_self]

theorem freezeDie_lasting (src : BitVec 3) (code : Byte) (s : State) : (freezeDie src code s).lasting = s.lasting := by
  simp only [freezeDie, peatOwn_lasting, State.lasting_mk, State.lasting_ite, ite_self]

theorem freezeOnEvent_lasting (code : Byte) (s : State) : (freezeOnEvent code s).lasting = s.lasting := by
  simp only [freezeOnEvent, freezeDie_lasting, State.lasting_ite, ite_self]

theorem postTo_lasting (p : Port) (code : Byte) (cls : Nat) (pl : List W64) (s : State) : (postTo p code cls pl s).lasting = s.lasting := by
  simp only [postTo, msixCheck_lasting, State.setEq_lasting, State.lasting_ite, ite_self]

theorem postEvent_lasting (code : Byte) (cls : Nat) (pl : List W64) (s : State) : (postEvent code cls pl s).lasting = s.lasting := by
  simp only [postEvent, freezeOnEvent_lasting, postTo_lasting, State.each_lasting, implies_true]

theorem postCmd_lasting (p : Port) (code : Byte) (pl : List W64) (s : State) : (postCmd p code pl s).lasting = s.lasting := by
  simp only [postCmd, freezeOnEvent_lasting, postTo_lasting]

theorem evCfgDiscard_lasting (off : Nat) (m : Master) (v : W32) (s : State) : (evCfgDiscard off m v s).lasting = s.lasting := by
  simp only [evCfgDiscard, postEvent_lasting]

theorem evProto_lasting (cause : Nat) (src : NodeId) (l : LAddr) (s : State) : (evProto cause src l s).lasting = s.lasting := by
  simp only [evProto, postEvent_lasting, State.lasting_mk]

theorem evPoisoned_lasting (l : LAddr) (rule : Nat) (s : State) : (evPoisoned l rule s).lasting = s.lasting := by
  simp only [evPoisoned, postEvent_lasting]

theorem evAddrErr_lasting (a : GAddr) (p : Port) (s : State) : (evAddrErr a p s).lasting = s.lasting := by
  simp only [evAddrErr, postEvent_lasting]

theorem evDeadDone_lasting (l : LAddr) (p : Port) (store : Bool) (s : State) : (evDeadDone l p store s).lasting = s.lasting := by
  simp only [evDeadDone, postEvent_lasting]

theorem recLine_lasting (cause : Nat) (l : LAddr) (loc port : Nat) (s : State) : (recLine cause l loc port s).lasting = s.lasting := by
  simp only [recLine, peatEnter_lasting]

theorem pmu_lasting (ev : Nat) (inst : Option Nat) (s : State) : (pmu ev inst s).lasting = s.lasting := by
  simp only [pmu, State.lasting_mk, State.lasting_ite, ite_self]

theorem postNotice_lasting (p : Port) (code : Byte) (arg : BitVec 16) (s : State) : (postNotice p code arg s).lasting = s.lasting := by
  simp only [postNotice]
  split <;> simp only [State.setMb_lasting, State.modHp_lasting, msixCheck_lasting, State.lasting_mk, State.lasting_ite, ite_self]

theorem postBacklog_lasting (p : Port) (s : State) : (postBacklog p s).lasting = s.lasting := by
  simp only [postBacklog]
  split <;> simp only [postNotice_lasting, State.setMb_lasting, State.modMb_lasting, State.lasting_ite, ite_self]

theorem discardTo_lasting (n : NodeId) (s : State) : (discardTo n s).lasting = s.lasting := by
  unfold discardTo
  split <;> simp only [State.modFp_lasting]

theorem sendMsg_lasting (k : BKind) (m : BMsg) (s : State) : (sendMsg k m s).lasting = s.lasting := by
  simp only [sendMsg, State.emit_lasting, discardTo_lasting, State.lasting_mk, State.lasting_ite, ite_self]

theorem sendVc5_lasting (n : NodeId) (m : Vc5) (s : State) : (sendVc5 n m s).lasting = s.lasting := by
  simp only [sendVc5, State.emit_lasting, State.lasting_mk, State.lasting_ite, ite_self]

/-! ### Completions and stops -/

theorem retireReq_lasting (r : Req) (s : State) : (retireReq r s).lasting = s.lasting := by
  simp only [retireReq, State.modHp_lasting]

theorem endBound_lasting (r : Req) (s : State) : (endBound r s).lasting = s.lasting := by
  simp only [endBound, State.modHp_lasting, postEvent_lasting, State.lasting_ite, ite_self]

theorem answer_lasting (r : Req) (m : ToHost) (s : State) : (answer r m s).lasting = s.lasting := by
  simp only [answer, toHost_lasting]

theorem complete_lasting (r : Req) (st : BitVec 3) (grant : BitVec 2) (cmpeq poison : Bool) (s : State) :
    (complete r st grant cmpeq poison s).lasting = s.lasting := by
  simp only [complete]
  repeat' split
  all_goals simp only [retireReq_lasting, answer_lasting, endBound_lasting, State.setHp_lasting]

theorem completeData_lasting (r : Req) (st : BitVec 3) (grant : BitVec 2) (cmpeq poison : Bool) (len : Nat) (d : Line) (s : State) :
    (completeData r st grant cmpeq poison len d s).lasting = s.lasting := by
  simp only [completeData]
  repeat' split
  all_goals simp only [retireReq_lasting, answer_lasting, endBound_lasting, State.setHp_lasting]

theorem completeErr_lasting (r : Req) (st : BitVec 3) (s : State) : (completeErr r st s).lasting = s.lasting := by
  simp only [completeErr, completeData_lasting, complete_lasting, State.lasting_ite, ite_self]

theorem bufferFreed_lasting (i : FPortNo) (c cost n : Nat) (s : State) : (bufferFreed i c cost n s).lasting = s.lasting := by
  simp only [bufferFreed, State.modFp_lasting, State.lasting_ite, ite_self]

theorem stampLostOf_lasting (g : BitVec 6) (cause : Nat) (l : LAddr) (s : State) : (stampLostOf g cause l s).lasting = s.lasting := by
  simp only [stampLostOf, peatEnter_lasting, postEvent_lasting, postNotice_lasting, State.lasting_mk, State.lasting_ite, State.each_lasting,
    ite_self, implies_true]

theorem stampLost_lasting (cause : Nat) (l : LAddr) (s : State) : (stampLost cause l s).lasting = s.lasting := by
  simp only [stampLost, stampLostOf_lasting, State.lasting_ite, ite_self]

theorem stampCheck_lasting (r : Req) (bad : Bool) (s : State) : (stampCheck r bad s).lasting = s.lasting := by
  simp only [stampCheck, stampLost_lasting, State.lasting_ite, ite_self]

theorem completeStop_lasting (r : Req) (s : State) : (completeStop r s).lasting = s.lasting := by
  simp only [completeStop, stampCheck_lasting, completeErr_lasting]

theorem endBar_lasting (p : Port) (b : Bar) (st : BitVec 3) (s : State) : (endBar p b st s).lasting = s.lasting := by
  simp only [endBar, toHost_lasting, State.modHp_lasting]

theorem completeAllDead_lasting (s : State) : (completeAllDead s).lasting = s.lasting := by
  simp only [completeAllDead, State.modSl_lasting, completeStop_lasting, endBar_lasting, State.modHp_lasting, State.each_lasting, implies_true]

theorem recStop_lasting (cause unit idx loc : Nat) (s : State) : (recStop cause unit idx loc s).lasting = s.lasting := by
  simp only [recStop, peatOwn_lasting]

theorem stopFabric_lasting (s : State) : (stopFabric s).lasting = s.lasting := by
  simp only [stopFabric, State.lasting_mk]

/-! ### The arbiter -/

theorem countPass_lasting (i : SliceNo) (g : Option Cand) (aged : Bool) (s : State) : (countPass i g aged s).lasting = s.lasting := by
  unfold countPass
  split <;> simp only [pmu_lasting, State.lasting_ite, ite_self]

theorem decideIn_lasting (i : SliceNo) (cs : List Cand) (s : State) : (decideIn i cs s).2.lasting = s.lasting := by
  simp only [decideIn, countPass_lasting, State.lasting_mk]

/-! ### Reads of the memories, corrections and repairs -/

theorem stopAt_lasting (aonCause : BitVec 3) (cause idx loc : Nat) (s : State) : (stopAt aonCause cause idx loc s).lasting = s.lasting := by
  simp only [stopAt, recStop_lasting, freezeDie_lasting, stopFabric_lasting, completeAllDead_lasting, State.lasting_mk, State.lasting_ite, ite_self]

theorem stopDevice_lasting (aonCause : BitVec 3) (cause loc : Nat) (s : State) : (stopDevice aonCause cause loc s).lasting = s.lasting := by
  simp only [stopDevice, stopAt_lasting]

theorem integrityStop_lasting (loc : Nat) (s : State) : (integrityStop loc s).lasting = s.lasting := by
  simp only [integrityStop, stopDevice_lasting]

theorem scrubPass_lasting (i : SliceNo) (s : State) : (scrubPass i s).lasting = s.lasting := by
  simp only [scrubPass, decideIn_lasting]

theorem tsLost_lasting (i : SliceNo) (set : Nat) (s : State) : (tsLost i set s).lasting = s.lasting := by
  simp only [tsLost, integrityStop_lasting, postEvent_lasting, State.lasting_mk]

theorem slotLost_lasting (i : SliceNo) (set w : Nat) (s : State) : (slotLost i set w s).lasting = s.lasting := by
  simp only [slotLost, recLine_lasting, postEvent_lasting, State.modSl_lasting, scrubPass_lasting, State.lasting_mk]

theorem evRepair_lasting (what loc : Nat) (s : State) : (evRepair what loc s).lasting = s.lasting := by
  simp only [evRepair, postEvent_lasting]

theorem repState_lasting (r : RepLoc) (st : RepSt) (s : State) : (repState r st s).lasting = s.lasting := by
  simp only [repState, State.lasting_mk]

theorem repNew_lasting (r : RepLoc) (s : State) : (repNew r s).lasting = s.lasting := by
  unfold repNew
  extract_lets x
  generalize (List.range 4096).find? _ = n
  cases n <;> rfl

theorem mapIsFull_lasting (r : RepLoc) (s : State) : (mapIsFull r s).lasting = s.lasting := by
  simp only [mapIsFull, peatEnter_lasting, evRepair_lasting]

theorem enterMap_lasting (r : RepLoc) (s : State) : (enterMap r s).lasting = s.lasting := by
  simp only [enterMap]
  split <;> simp only [repState_lasting, mapIsFull_lasting, repNew_lasting, State.lasting_mk, State.lasting_ite, ite_self]

theorem requestRepair_lasting (ddr : Bool) (loc : BitVec 28) (s : State) : (requestRepair ddr loc s).lasting = s.lasting := by
  simp only [requestRepair, enterMap_lasting, evRepair_lasting, State.lasting_ite, ite_self]

theorem mendRowSlot_lasting (i : SliceNo) (set w : Nat) (s : State) : (mendRowSlot i set w s).lasting = s.lasting := by
  simp only [mendRowSlot]
  split <;> simp only [State.modSl_lasting, scrubPass_lasting, slotLost_lasting, State.lasting_ite, ite_self]

theorem mendRowTS_lasting (i : SliceNo) (set : Nat) (s : State) : (mendRowTS i set s).lasting = s.lasting := by
  simp only [mendRowTS]
  split <;> simp only [State.modSl_lasting, scrubPass_lasting, tsLost_lasting, State.lasting_ite, ite_self]

theorem rewriteRow_lasting (loc : BitVec 28) (s : State) : (rewriteRow false loc s).lasting = s.lasting := by
  simp only [rewriteRow, Bool.false_eq_true, if_false, State.each_lasting, mendRowSlot_lasting, mendRowTS_lasting, implies_true]

theorem rowWriteback_lasting (loc : BitVec 28) (row : HistRow) (s : State) : (rowWriteback false loc row s).lasting = s.lasting := by
  simp only [rowWriteback, rewriteRow_lasting, postEvent_lasting, State.lasting_mk, State.lasting_ite, ite_self]

theorem bucketAdd_lasting (s : State) : (bucketAdd s).lasting = s.lasting := by
  simp only [bucketAdd, postEvent_lasting, State.lasting_mk, State.lasting_ite, ite_self]

theorem bufCorrected_lasting (s : State) : (bufCorrected s).lasting = s.lasting := by
  simp only [bufCorrected, bucketAdd_lasting, State.lasting_mk]

theorem histCount_lasting (loc : BitVec 28) (line : BitVec 8) (syn : BitVec 16) (s : State) :
    (histCount false loc line syn s).lasting = s.lasting := by
  simp only [histCount]
  repeat' split
  all_goals simp only [requestRepair_lasting, rowWriteback_lasting, postEvent_lasting, State.lasting_mk]

theorem noteRepeat_lasting (ddr : Bool) (loc : BitVec 28) (s : State) : (noteRepeat ddr loc s).lasting = s.lasting := by
  simp only [noteRepeat, State.lasting_mk]

theorem counted_lasting (loc : BitVec 28) (line : BitVec 8) (syn : BitVec 16) (s : State) : (counted false loc line syn s).lasting = s.lasting := by
  simp only [counted, histCount_lasting, bucketAdd_lasting, State.lasting_mk]

theorem recWay_lasting (cause : Nat) (i : SliceNo) (region w cnt : Nat) (s : State) : (recWay cause i region w cnt s).lasting = s.lasting := by
  simp only [recWay, peatEnter_lasting]

theorem disableStart_lasting (i : SliceNo) (region w cnt : Nat) (s : State) : (disableStart i region w cnt s).lasting = s.lasting := by
  simp only [disableStart, recWay_lasting, postEvent_lasting, State.modSl_lasting, stampLost_lasting, State.lasting_ite, ite_self]

theorem countWay_lasting (i : SliceNo) (set w : Nat) (s : State) : (countWay i set w s).lasting = s.lasting := by
  simp only [countWay, State.setSl_lasting, disableStart_lasting, State.lasting_ite, ite_self]

theorem recordSev_lasting (i : SliceNo) (set : Nat) (slot : Nat) (sv : Sev) (clean : Bool) (s : State) :
    (recordSev i set slot sv clean s).lasting = s.lasting := by
  cases sv with
  | none_ => rfl
  | cor => rfl
  | unc =>
    simp only [recordSev, State.lasting_ite, countWay_lasting, counted_lasting, ite_self]
    rfl

theorem rowOpen_lasting (set : Nat) (s : State) : (rowOpen set s).lasting = s.lasting := by
  simp only [rowOpen, pmu_lasting]

theorem readSlot_lasting (i : SliceNo) (set w : Nat) (s : State) : (readSlot i set w s).2.2.lasting = s.lasting := by
  simp only [readSlot]
  repeat' split
  all_goals simp only [recordSev_lasting, rowOpen_lasting, noteRepeat_lasting, State.modSl_lasting, scrubPass_lasting, countWay_lasting,
    counted_lasting, slotLost_lasting]

theorem writeSlot_lasting (i : SliceNo) (set w : Nat) (d : Slot) (s : State) : (writeSlot i set w d s).lasting = s.lasting := by
  simp only [writeSlot, State.modSl_lasting]

theorem readTS_lasting (i : SliceNo) (set : Nat) (s : State) : (readTS i set s).2.lasting = s.lasting := by
  simp only [readTS]
  repeat' split
  all_goals simp only [recordSev_lasting, tsLost_lasting, noteRepeat_lasting, State.modSl_lasting, scrubPass_lasting, counted_lasting]

theorem shadowError_lasting (i : SliceNo) (set : Nat) (s : State) : (shadowError i set s).lasting = s.lasting := by
  simp only [shadowError, State.modSl_lasting, bufCorrected_lasting, State.lasting_ite, State.each_lasting, ite_self, implies_true]

theorem shadowFor_lasting {i : SliceNo} {set : Nat} {s t : State} (h : shadowFor i set s = some t) : t.lasting = s.lasting := by
  obtain ⟨x, -, rfl⟩ := Option.map_eq_some_iff.1 h
  exact (State.setSl_lasting ..).trans (shadowError_lasting ..)

theorem tsRow_lasting (i : SliceNo) (set : Nat) (hit : Bool) (before s : State) : (tsRow i set hit before s).lasting = s.lasting := by
  simp only [tsRow, rowOpen_lasting, State.lasting_ite, ite_self]

theorem readTags_lasting (i : SliceNo) (set : Nat) (s : State) : (readTags i set s).2.lasting = s.lasting := by
  simp only [readTags]
  split <;> simp only [shadowError_lasting, readTS_lasting]

/-! ### Conditional stores -/

theorem clearRsv_lasting (p : Port) (g : LAddr) (but : Option Nat) (s : State) : (clearRsv p g but s).lasting = s.lasting := by
  simp only [clearRsv, State.modHp_lasting]

theorem clearRsvAll_lasting (p : Port) (s : State) : (clearRsvAll p s).lasting = s.lasting := by
  simp only [clearRsvAll, State.modHp_lasting]

/-! ### Lines of the cache -/

theorem modWord_lasting (i : SliceNo) (l : LAddr) (f : TagWord → TagWord) (s : State) : (modWord i l f s).lasting = s.lasting := by
  unfold modWord
  split <;> simp only [State.modSl_lasting]

theorem dropHp_lasting (i : SliceNo) (l : LAddr) (p : Port) (s : State) : (dropHp i l p s).lasting = s.lasting := by
  simp only [dropHp, State.modSl_lasting, modWord_lasting]

theorem poisonLine_lasting (i : SliceNo) (l : LAddr) (rule : Nat) (s : State) : (poisonLine i l rule s).lasting = s.lasting := by
  simp only [poisonLine, evPoisoned_lasting, modWord_lasting]

theorem breakCs_lasting (p : Port) (l : LAddr) (s : State) : (breakCs p l s).lasting = s.lasting := by
  simp only [breakCs, State.modSl_lasting, State.modHp_lasting]

theorem sendSnoop_lasting (i : SliceNo) (l : LAddr) (grp : Nat) (excl : Option Port) (q : SnpReq) (s : State) :
    (sendSnoop i l grp excl q s).2.lasting = s.lasting := by
  simp only [sendSnoop]
  repeat' split
  all_goals simp only [breakCs_lasting, clearRsv_lasting, pmu_lasting, toHost_lasting, State.setHp_lasting, dropHp_lasting, poisonLine_lasting]

theorem snoopFor_lasting (i : SliceNo) (l : LAddr) (a : Act) (excl : Option Port) (qs : List SnpReq) (s : State) :
    (snoopFor i l a excl qs s).2.lasting = s.lasting := by
  unfold snoopFor
  extract_lets g r
  have hr : r.2.lasting = s.lasting := by
    refine (State.foldl2_lasting (fun z q => ?_) qs _).trans rfl
    exact sendSnoop_lasting i l g excl q z.2
  split
  · exact hr
  · exact (State.modSl_lasting ..).trans hr

theorem sendPut_lasting (i : SliceNo) (l : LAddr) (st : LState) (d : Slot) (poison discard retain : Bool) (s : State) :
    (sendPut i l st d poison discard retain s).lasting = s.lasting := by
  simp only [sendPut, State.modHome_lasting, State.modSl_lasting, sendMsg_lasting, pmu_lasting, State.lasting_ite, ite_self]

theorem evictWay_lasting (i : SliceNo) (set w : Nat) (discard : Bool) (s : State) : (evictWay i set w discard s).lasting = s.lasting := by
  simp only [evictWay, readSlot_lasting, State.modSl_lasting, sendPut_lasting, State.lasting_ite, ite_self]

theorem dropWay_lasting (i : SliceNo) (set w : Nat) (s : State) : (dropWay i set w s).lasting = s.lasting := by
  simp only [dropWay, State.modSl_lasting]

theorem pendWay_lasting (i : SliceNo) (set w : Nat) (l : LAddr) (s : State) : (pendWay i set w l s).2.lasting = s.lasting := by
  unfold pendWay
  split
  · exact (State.modSl_lasting ..).trans (shadowFor_lasting (by assumption))
  · exact dropWay_lasting ..

theorem useFar_lasting (l : LAddr) (s : State) : (useFar l s).lasting = s.lasting := by
  simp only [useFar, State.modHome_lasting, State.lasting_ite, ite_self]

theorem openTxn_lasting (i : SliceNo) (t : STxn) (s : State) : (openTxn i t s).lasting = s.lasting := by
  simp only [openTxn, sendMsg_lasting, useFar_lasting, State.modSl_lasting]

theorem modTxn_lasting (i : SliceNo) (rtid : BitVec 12) (f : STxn → STxn) (s : State) : (modTxn i rtid f s).lasting = s.lasting := by
  simp only [modTxn, State.modSl_lasting]

theorem closeTxn_lasting (i : SliceNo) (rtid : BitVec 12) (s : State) : (closeTxn i rtid s).lasting = s.lasting := by
  simp only [closeTxn, State.modSl_lasting]

theorem waitIn_lasting (i : SliceNo) (r : Req) (s : State) : (waitIn i r s).lasting = s.lasting := by
  simp only [waitIn, State.modSl_lasting, State.modHp_lasting, State.lasting_ite, ite_self]

theorem completeDead_lasting (r : Req) (s : State) : (completeDead r s).lasting = s.lasting := by
  simp only [completeDead, stampCheck_lasting, completeErr_lasting, evDeadDone_lasting]

theorem requestFor_lasting (i : SliceNo) (k : BKind) (r : Req) (way : Option Nat) (amo : BitVec 256) (s : State) :
    (requestFor i k r way amo s).lasting = s.lasting := by
  simp only [requestFor]
  repeat' split
  all_goals simp only [completeDead_lasting, waitIn_lasting, State.modSl_lasting, openTxn_lasting, pmu_lasting]

theorem missInto_lasting (i : SliceNo) (set w : Nat) (k : BKind) (r : Req) (s : State) : (missInto i set w k r s).lasting = s.lasting := by
  unfold missInto
  extract_lets l
  split
  · exact completeDead_lasting r s
  · split
    · exact (requestFor_lasting ..).trans ((State.modSl_lasting ..).trans (shadowFor_lasting (by assumption)))
    · exact waitIn_lasting ..
    · exact waitIn_lasting ..

theorem missFill_lasting (i : SliceNo) (r : Req) (s : State) : (missFill i r s).lasting = s.lasting := by
  unfold missFill
  split <;> simp only [waitIn_lasting, missInto_lasting, snoopFor_lasting, evictWay_lasting, State.lasting_ite, ite_self]

theorem dropRb_lasting (i : SliceNo) (l : LAddr) (s : State) : (dropRb i l s).lasting = s.lasting := by
  simp only [dropRb, State.modSl_lasting]

theorem giveUpRb_lasting (i : SliceNo) (e : RbEnt) (s : State) : (giveUpRb i e s).lasting = s.lasting := by
  simp only [giveUpRb, State.modSl_lasting, dropRb_lasting, sendPut_lasting, State.lasting_ite, ite_self]

theorem rbFree_lasting (p : LAddr → Bool) (i : SliceNo) (s : State) : (rbFree p i s).lasting = s.lasting := by
  simp only [rbFree, giveUpRb_lasting, State.lasting_ite, State.each_lasting, ite_self, implies_true]

theorem refund_lasting (r : Req) (s : State) : (refund r s).lasting = s.lasting := by
  simp only [refund, State.modHp_lasting, State.lasting_ite, ite_self]

theorem prefetchTry_lasting (p : Port) (strm : BitVec 4) (stamp : Option W64) (ctr : Bool) (l : LAddr) (s0 : State) :
    (prefetchTry p strm stamp ctr l s0).2.lasting = s0.lasting := by
  unfold prefetchTry
  extract_lets i drop y s x f absent seen room e
  clear_value f absent
  have hdrop (t : State) : (drop t).2.lasting = t.lasting := refund_lasting ..
  have hs : s.lasting = s0.lasting := (tsRow_lasting ..).trans (readTags_lasting ..)
  have hseen : (seen s).lasting = s.lasting := by
    simp only [seen]
    split
    · exact State.modSl_lasting ..
    · rfl
  have hroom {t : State} (h : room = some t) : t.lasting = s.lasting := by
    unfold room at h
    split at h
    · cases h; rfl
    · obtain ⟨e, -, he⟩ := Option.bind_eq_some_iff.1 h
      split at he
      · cases he; exact giveUpRb_lasting ..
      · cases he
  clear_value room seen
  repeat' split
  · exact hdrop s0
  · exact hs
  · exact (hdrop _).trans (hseen.trans hs)
  · exact (openTxn_lasting ..).trans ((State.modSl_lasting ..).trans ((hroom rfl).trans hs))
  · exact hs
  · exact (hdrop s).trans hs

theorem prefetch_lasting (p : Port) (strm : BitVec 4) (ctr : Bool) (l : LAddr) (s : State) : (prefetch p strm ctr l s).lasting = s.lasting := by
  simp only [prefetch, prefetchTry_lasting]

theorem rbMove_lasting (i : SliceNo) (e : RbEnt) (w : Nat) (hp : BitVec 4) (s : State) : (rbMove i e w hp s).lasting = s.lasting := by
  simp only [rbMove, writeSlot_lasting, rowOpen_lasting, dropRb_lasting, State.modSl_lasting]

theorem rbStep_lasting (i : SliceNo) (e : RbEnt) (hp : BitVec 4) (act : Nat → Act) (s : State) : (rbStep i e hp act s).2.lasting = s.lasting := by
  simp only [rbStep]
  repeat' split
  all_goals simp only [rbMove_lasting, snoopFor_lasting, evictWay_lasting]

theorem rbCarry_lasting (i : SliceNo) (l : LAddr) (hp : BitVec 4) (s : State) : (rbCarry i l hp s).lasting = s.lasting := by
  simp only [rbCarry]
  repeat' split
  all_goals simp only [rbStep_lasting, State.modSl_lasting, State.lasting_mk]

theorem rbRetry_lasting (i : SliceNo) (s : State) : (rbRetry i s).lasting = s.lasting := by
  refine State.each_lasting (fun t g => ?_) _ s
  split
  · exact (rbCarry_lasting ..).trans (State.modSl_lasting ..)
  · rfl

/-! ### The write-merge and combining buffers -/

theorem freeWmb_lasting (i : SliceNo) (id : Nat) (s : State) : (freeWmb i id s).lasting = s.lasting := by
  simp only [freeWmb, State.modSl_lasting]

theorem freeNtc_lasting (p : Port) (id : Nat) (s : State) : (freeNtc p id s).lasting = s.lasting := by
  simp only [freeNtc, State.modHp_lasting]

theorem writeWay_lasting (i : SliceNo) (set w : Nat) (data : Line) (m : W64) (poison : Bool) (st : LState → LState) (s : State) :
    (writeWay i set w data m poison st s).lasting = s.lasting := by
  simp only [writeWay, readSlot_lasting, writeSlot_lasting, State.modSl_lasting]

theorem sendWrU_lasting (i : SliceNo) (e : BufEnt) (n : BitVec 12) (keep : Bool) (wmb : Option Nat) (ntc : Option (Port × Nat)) (s : State) :
    (sendWrU i e n keep wmb ntc s).lasting = s.lasting := by
  simp only [sendWrU, openTxn_lasting]

theorem lookEntry_lasting (i : SliceNo) (l : LAddr) (s : State) : (lookEntry i l s).2.lasting = s.lasting := by
  simp only [lookEntry]
  repeat' split
  all_goals simp only [readTags_lasting, tsRow_lasting, State.modSl_lasting]

theorem wmbSend_lasting (i : SliceNo) (e : BufEnt) (keep : Bool) (s : State) : (wmbSend i e keep s).lasting = s.lasting := by
  unfold wmbSend
  repeat' split
  all_goals simp only [freeWmb_lasting, evDeadDone_lasting, sendWrU_lasting, State.modSl_lasting]

theorem wmbGo_lasting (i : SliceNo) (e : BufEnt) (snooped : Bool) (s0 : State) : (wmbGo i e snooped s0).lasting = s0.lasting := by
  simp only [wmbGo]
  repeat' split
  all_goals simp only [wmbSend_lasting, giveUpRb_lasting, rbStep_lasting, lookEntry_lasting, snoopFor_lasting, openTxn_lasting, freeWmb_lasting,
    writeWay_lasting]

theorem ntcIssued_lasting (p : Port) (id : Nat) (v : Bool) (s : State) : (ntcIssued p id v s).lasting = s.lasting := by
  simp only [ntcIssued, State.modHp_lasting]

theorem ntcSend_lasting (p : Port) (e : BufEnt) (s : State) : (ntcSend p e s).lasting = s.lasting := by
  simp only [ntcSend]
  repeat' split
  all_goals simp only [freeNtc_lasting, evDeadDone_lasting, sendWrU_lasting, ntcIssued_lasting]

theorem ntcGo_lasting (p : Port) (e : BufEnt) (snooped : Bool) (s0 : State) : (ntcGo p e snooped s0).lasting = s0.lasting := by
  unfold ntcGo
  extract_lets l i set z s
  split
  · exact ntcSend_lasting p e s0
  split
  · split
    · rfl
    · exact (ntcSend_lasting ..).trans (giveUpRb_lasting ..)
  have hz : z.2.lasting = s0.lasting := by
    unfold z
    split
    · rfl
    · exact lookEntry_lasting ..
  split
  · exact hz
  split
  · exact (ntcSend_lasting ..).trans hz
  extract_lets own y s1
  split
  · exact (ntcSend_lasting ..).trans hz
  split
  · exact hz
  have hy : y.2.lasting = s0.lasting := by
    unfold y
    split
    · exact hz
    · exact (snoopFor_lasting ..).trans hz
  split
  · exact hy
  split
  · exact (ntcSend_lasting ..).trans hy
  split
  · simp only [State.lasting_ite, freeNtc_lasting, evDeadDone_lasting, evictWay_lasting, writeWay_lasting, ntcIssued_lasting, ite_self]
    exact hy
  · simp only [State.lasting_ite, freeNtc_lasting, evDeadDone_lasting, evictWay_lasting, writeWay_lasting, ntcIssued_lasting, ite_self]
    exact hy
  · exact (ntcSend_lasting ..).trans ((evictWay_lasting ..).trans hy)
  · exact (ntcSend_lasting ..).trans ((dropWay_lasting ..).trans hy)

theorem issueAll_lasting (i : SliceNo) (s : State) : (issueAll i s).lasting = s.lasting := by
  unfold issueAll
  extract_lets s1
  have h1 : s1.lasting = s.lasting := by
    refine State.each_lasting (fun t id => ?_) _ s
    split
    · simp only [State.lasting_ite, wmbGo_lasting, ite_self]
    · rfl
  refine (State.each_lasting (fun t p => ?_) ports s1).trans h1
  refine State.each_lasting (fun t id => ?_) _ t
  split
  · simp only [State.lasting_ite, ntcGo_lasting, ite_self]
  · rfl

theorem issueEvery_lasting (s : State) : (issueEvery s).lasting = s.lasting := by
  simp only [issueEvery, issueAll_lasting, State.each_lasting, implies_true]

theorem closeEntries_lasting (pw pn : BufEnt → Bool) (s : State) : (closeEntries pw pn s).lasting = s.lasting := by
  simp only [closeEntries, State.modSl_lasting, State.modHp_lasting, State.each_lasting, implies_true]

theorem wmbStore_lasting (i : SliceNo) (r : Req) (s : State) : (wmbStore i r s).lasting = s.lasting := by
  simp only [wmbStore, issueAll_lasting, complete_lasting, State.setSl_lasting, refund_lasting, waitIn_lasting, State.lasting_mk, State.lasting_ite,
    ite_self]

theorem ntcStore_lasting (r : Req) (s : State) : (ntcStore r s).lasting = s.lasting := by
  simp only [ntcStore, issueAll_lasting, complete_lasting, State.modHp_lasting, refund_lasting, issueEvery_lasting, State.setHp_lasting,
    State.lasting_mk, State.lasting_ite, ite_self]

/-! ### Host accesses -/

theorem setRsv_lasting (p : Port) (k : Nat) (g : LAddr) (s : State) : (setRsv p k g s).lasting = s.lasting := by
  simp only [setRsv, State.modHp_lasting]

theorem giveRead_lasting (r : Req) (d : Line) (poison : Bool) (grant : BitVec 2) (s : State) : (giveRead r d poison grant s).lasting = s.lasting := by
  simp only [giveRead]
  split <;> simp only [setRsv_lasting, stampCheck_lasting, completeData_lasting, State.lasting_ite, ite_self]

theorem demandHit_lasting (i : SliceNo) (set w : Nat) (r : Req) (s : State) : (demandHit i set w r s).lasting = s.lasting := by
  simp only [demandHit, State.modSl_lasting, State.lasting_ite, ite_self]

theorem addHp_lasting (i : SliceNo) (set w : Nat) (p : Port) (only : Bool) (s : State) : (addHp i set w p only s).lasting = s.lasting := by
  simp only [addHp, State.modSl_lasting, State.lasting_ite, ite_self]

theorem atomErr_lasting (r : Req) (s : State) : (atomErr r s).lasting = s.lasting := by
  simp only [atomErr, complete_lasting, State.modHp_lasting]

theorem endCs_lasting (r : Req) (st : BitVec 3) (clear : Bool) (s : State) : (endCs r st clear s).lasting = s.lasting := by
  simp only [endCs, State.modHp_lasting, complete_lasting]

theorem nearAtomic_lasting (i : SliceNo) (set w : Nat) (r : Req) (s : State) : (nearAtomic i set w r s).lasting = s.lasting := by
  simp only [nearAtomic, readSlot_lasting, State.modSl_lasting, stampCheck_lasting, completeData_lasting, demandHit_lasting, writeSlot_lasting,
    State.lasting_ite, ite_self]

theorem storeWay_lasting (i : SliceNo) (set w : Nat) (r : Req) (s : State) : (storeWay i set w r s).lasting = s.lasting := by
  simp only [storeWay, writeWay_lasting, demandHit_lasting, State.modSl_lasting]

theorem sharedAfter_lasting (i : SliceNo) (t : TagWord) (r : Req) (snooped : Bool) {k : State → State} (hk : ∀ t, (k t).lasting = t.lasting)
    (s : State) :
    (sharedAfter i t r snooped k s).lasting = s.lasting := by
  unfold sharedAfter
  extract_lets q need cur y
  have hy : y.2.lasting = s.lasting := by
    unfold y
    split
    · exact snoopFor_lasting ..
    · rfl
  simp only [State.lasting_ite, hk, hy, ite_self]

theorem hitRead_lasting (i : SliceNo) (set w : Nat) (t : TagWord) (r : Req) (snooped : Bool) (grant : BitVec 2) (addBit : Bool) (s : State) :
    (hitRead i set w t r snooped grant addBit s).lasting = s.lasting := by
  simp only [hitRead, sharedAfter_lasting, readSlot_lasting, demandHit_lasting, giveRead_lasting, addHp_lasting, State.lasting_ite, ite_self,
    implies_true]

theorem askUpg_lasting (i : SliceNo) (r : Req) (s : State) : (askUpg i r s).lasting = s.lasting := by
  simp only [askUpg, requestFor_lasting]

theorem hit_lasting (i : SliceNo) (w : Nat) (t : TagWord) (r0 : Req) (snooped : Bool) (s0 : State) :
    (hit i w t r0 snooped s0).lasting = s0.lasting := by
  simp only [hit]
  split <;> simp only [refund_lasting, snoopFor_lasting, hitRead_lasting, sharedAfter_lasting, complete_lasting, addHp_lasting, demandHit_lasting,
    readSlot_lasting, giveRead_lasting, askUpg_lasting, storeWay_lasting, nearAtomic_lasting, endCs_lasting, State.lasting_ite, ite_self,
    implies_true]

theorem sendAmoF_lasting (i : SliceNo) (r : Req) (s : State) : (sendAmoF i r s).lasting = s.lasting := by
  simp only [sendAmoF, requestFor_lasting]

theorem farAtomic_lasting (i : SliceNo) (r : Req) (snooped : Bool) (s : State) : (farAtomic i r snooped s).lasting = s.lasting := by
  simp only [farAtomic]
  repeat' split
  all_goals simp only [sendAmoF_lasting, snoopFor_lasting, dropWay_lasting]

theorem chooseNear_lasting (i : SliceNo) (r : Req) (st : LState) (s : State) : (chooseNear i r st s).2.2.lasting = s.lasting := by
  simp only [chooseNear, apply_ite Prod.snd, State.lasting_ite, State.setSl_lasting, ite_self]

theorem readU_lasting (i : SliceNo) (r : Req) (s : State) : (readU i r s).lasting = s.lasting := by
  simp only [readU, requestFor_lasting]

theorem miss_lasting (i : SliceNo) (r : Req) (s : State) : (miss i r s).lasting = s.lasting := by
  unfold miss
  split <;> simp only [readU_lasting, missFill_lasting, State.lasting_ite, ite_self]

theorem csEnd_lasting {r : Req} {s : State} {k : State → State} (h : csEnd r s = some k) (t : State) : (k t).lasting = t.lasting := by
  unfold csEnd at h
  extract_lets l at h
  repeat' split at h
  all_goals cases h
  all_goals exact endCs_lasting ..

theorem serveHit_lasting (i : SliceNo) (w : Nat) (t : TagWord) (r : Req) (snooped : Bool) (s : State) :
    (serveHit i w t r snooped s).lasting = s.lasting := by
  simp only [serveHit, State.lasting_ite, hit_lasting, farAtomic_lasting, chooseNear_lasting, ite_self]

theorem serveMiss_lasting (i : SliceNo) (r : Req) (snooped : Bool) (s : State) : (serveMiss i r snooped s).lasting = s.lasting := by
  simp only [serveMiss, State.lasting_ite, miss_lasting, farAtomic_lasting, chooseNear_lasting, ite_self]

theorem serveRb_lasting (i : SliceNo) (e : RbEnt) (r : Req) {k : Nat → Req → State → State} (hk : ∀ w r t, (k w r t).lasting = t.lasting)
    (s : State) :
    (serveRb i e r k s).lasting = s.lasting := by
  unfold serveRb
  split
  · exact waitIn_lasting i r s
  · split
    · simp only [State.lasting_ite, serveMiss_lasting, giveUpRb_lasting, waitIn_lasting, ite_self]
    · split
      · simp only [rbCarry_lasting, giveRead_lasting, refund_lasting]
      · extract_lets y
        have hy : y.2.lasting = s.lasting := rbStep_lasting ..
        split
        · exact (hk ..).trans hy
        · exact hy
        · exact (waitIn_lasting ..).trans hy

theorem lookupServe_lasting (i : SliceNo) (r : Req) (snooped : Bool) (s : State) : (lookupServe i r snooped s).lasting = s.lasting := by
  simp only [lookupServe]
  repeat' split
  all_goals simp only [waitIn_lasting, serveHit_lasting, serveRb_lasting, serveMiss_lasting, implies_true]

theorem storeBuffered_lasting (i : SliceNo) (r : Req) (s : State) : (storeBuffered i r s).lasting = s.lasting := by
  simp only [storeBuffered]
  split <;> simp only [wmbStore_lasting, serveRb_lasting, State.lasting_ite, ite_self, implies_true]

theorem demandOnce_lasting (i : SliceNo) (r : Req) (snooped : Bool) (s : State) : (demandOnce i r snooped s).2.lasting = s.lasting := by
  unfold demandOnce
  extract_lets l y way s1
  have hy : y.2.lasting = s.lasting := readTags_lasting ..
  have hs : s1.lasting = s.lasting := (tsRow_lasting ..).trans hy
  repeat' split
  · rfl
  · exact (completeStop_lasting ..).trans hy
  · exact (waitIn_lasting ..).trans hs
  · exact (State.setSl_lasting ..).trans hs
  · exact (State.setSl_lasting ..).trans hs

theorem serveLine_lasting (i : SliceNo) (r : Req) (snooped : Bool) (s : State) : (serveLine i r snooped s).lasting = s.lasting := by
  simp only [serveLine]
  repeat' split
  all_goals simp only [waitIn_lasting, storeBuffered_lasting, farAtomic_lasting, readU_lasting, modTxn_lasting, lookupServe_lasting]

theorem access_lasting (r : Req) (snooped : Bool) (s : State) : (access r snooped s).lasting = s.lasting := by
  unfold access
  extract_lets l i y
  have hy : y.2.lasting = s.lasting := demandOnce_lasting ..
  have hcs {k : State → State} (h : (if r.op = .condStore then csEnd r s else none) = some k) : (k s).lasting = s.lasting := by
    split at h
    · exact csEnd_lasting h s
    · cases h
  repeat' split
  · exact completeStop_lasting ..
  · exact (completeErr_lasting ..).trans (evAddrErr_lasting ..)
  · exact ntcStore_lasting ..
  · exact (prefetch_lasting ..).trans (complete_lasting ..)
  · exact waitIn_lasting ..
  · exact atomErr_lasting ..
  · exact hcs (by assumption)
  · exact hy
  · exact (serveLine_lasting ..).trans hy

/-! ### Stamped accesses -/

theorem stampFar_lasting (i : SliceNo) (r : Req) (snooped : Bool) (s : State) : (stampFar i r snooped s).lasting = s.lasting := by
  unfold stampFar
  split <;> simp only [serveRb_lasting, farAtomic_lasting, giveUpRb_lasting, waitIn_lasting, State.lasting_ite, ite_self, implies_true]

theorem stampSend_lasting (i : SliceNo) (r : Req) (snooped : Bool) (s : State) : (stampSend i r snooped s).lasting = s.lasting := by
  simp only [stampSend, waitIn_lasting, storeBuffered_lasting, stampFar_lasting, requestFor_lasting, State.lasting_ite, ite_self]

theorem stampAccess_lasting (r : Req) (snooped : Bool) (s : State) : (stampAccess r snooped s).lasting = s.lasting := by
  simp only [stampAccess]
  repeat' split
  all_goals simp only [completeStop_lasting, completeErr_lasting, evAddrErr_lasting, ntcStore_lasting, prefetchTry_lasting, waitIn_lasting,
    complete_lasting, atomErr_lasting, endCs_lasting, demandOnce_lasting, stampSend_lasting]

theorem sendAck_lasting (i : SliceNo) (t : STxn) (home : NodeId) (htid : BitVec 12) (fwdr : Bool) (s : State) :
    (sendAck i t home htid fwdr s).lasting = s.lasting := by
  simp only [sendAck, sendMsg_lasting]

theorem performOn_lasting (r : Req) (d : Line) (poison : Bool) (st : LState) (s : State) : (performOn r d poison st s).2.2.2.lasting = s.lasting := by
  unfold performOn
  split
  · exact (stampCheck_lasting ..).trans (complete_lasting ..)
  · split
    · exact (stampCheck_lasting ..).trans (csEnd_lasting (by assumption) s)
    · exact (stampCheck_lasting ..).trans (endCs_lasting ..)
  · extract_lets a old s1
    split
    · exact (stampCheck_lasting ..).trans (completeData_lasting ..)
    · exact completeData_lasting ..
  · exact giveRead_lasting ..

theorem performed_lasting (i : SliceNo) (t : STxn) (hp : BitVec 4) (s : State) : (performed i t hp s).lasting = s.lasting := by
  simp only [performed, sendAck_lasting, modTxn_lasting]

theorem performWay_lasting (i : SliceNo) (t : STxn) (r : Req) (w : Nat) (tw : TagWord) (snooped : Bool) (s : State) :
    (performWay i t r w tw snooped s).lasting = s.lasting := by
  simp only [performWay]
  split <;> simp only [snoopFor_lasting, readSlot_lasting, performOn_lasting, writeSlot_lasting, performed_lasting, State.modSl_lasting,
    State.lasting_ite, ite_self]

theorem performOther_lasting (i : SliceNo) (t u : STxn) (r : Req) (s : State) : (performOther i t u r s).lasting = s.lasting := by
  simp only [performOther, performOn_lasting, performed_lasting, modTxn_lasting]

theorem performEntry_lasting (i : SliceNo) (t : STxn) (r : Req) (s : State) : (performEntry i t r s).lasting = s.lasting := by
  simp only [performEntry, performOn_lasting, performed_lasting, modTxn_lasting]

theorem stampPerform_lasting (i : SliceNo) (rtid : BitVec 12) (snooped : Bool) (s : State) : (stampPerform i rtid snooped s).lasting = s.lasting := by
  unfold stampPerform
  repeat' split
  all_goals simp only [closeTxn_lasting, performWay_lasting, performEntry_lasting, performOther_lasting, State.modSl_lasting, dropRb_lasting]

theorem placeApplied_lasting (i : SliceNo) (t : STxn) (w : Nat) (s : State) : (placeApplied i t w s).lasting = s.lasting := by
  simp only [placeApplied]
  split <;> simp only [readSlot_lasting, State.modSl_lasting, writeSlot_lasting, rowOpen_lasting, closeTxn_lasting, State.lasting_ite, ite_self]

theorem applyOne_lasting (i : SliceNo) (t : STxn) (s : State) : (applyOne i t s).lasting = s.lasting := by
  simp only [applyOne]
  repeat' split
  all_goals simp only [closeTxn_lasting, placeApplied_lasting, snoopFor_lasting, evictWay_lasting]

theorem applyDue_lasting (i : SliceNo) (s : State) : (applyDue i s).lasting = s.lasting := by
  simp only [applyDue, applyOne_lasting, stampPerform_lasting, State.lasting_ite, State.each_lasting, ite_self, implies_true]

/-! ### The slices -/

theorem dataToQ_lasting (i : SliceNo) (k : BKind) (m : BMsg) (fwdr poison : Bool) (osn : BitVec 12) (d : Line) (s : State) :
    (dataToQ i k m fwdr poison osn d s).lasting = s.lasting := by
  simp only [dataToQ, sendMsg_lasting]

theorem dataToH_lasting (i : SliceNo) (k : BKind) (m : BMsg) (poison : Bool) (osn : BitVec 12) (d : Line) (s : State) :
    (dataToH i k m poison osn d s).lasting = s.lasting := by
  simp only [dataToH, sendMsg_lasting]

theorem invAckTo_lasting (i : SliceNo) (k : BKind) (m : BMsg) (s : State) : (invAckTo i k m s).lasting = s.lasting := by
  simp only [invAckTo, State.emit_lasting, sendMsg_lasting, State.lasting_ite, ite_self]

theorem protoErr_lasting (k : BKind) (m : BMsg) (s : State) : (protoErr k m s).lasting = s.lasting := by
  simp only [protoErr, recLine_lasting, evProto_lasting]

theorem cannotArise_lasting (i : SliceNo) (k : BKind) (m : BMsg) (s : State) : (cannotArise i k m s).lasting = s.lasting := by
  simp only [cannotArise, invAckTo_lasting, protoErr_lasting]

theorem answerCopy_lasting (i : SliceNo) (k : BKind) (m : BMsg) (st : LState) (d : Slot) (poison : Bool) (s : State) :
    (answerCopy i k m st d poison s).2.lasting = s.lasting := by
  unfold answerCopy
  repeat' split
  all_goals simp only [dataToQ_lasting, dataToH_lasting, invAckTo_lasting]

theorem holderEntry_lasting (i : SliceNo) (k : BKind) (m : BMsg) (t : STxn) (s : State) : (holderEntry i k m t s).lasting = s.lasting := by
  simp only [holderEntry, answerCopy_lasting, modTxn_lasting, snoopFor_lasting, cannotArise_lasting, State.lasting_ite, ite_self]

theorem holderCw_lasting (i : SliceNo) (k : BKind) (m : BMsg) (e : CwEnt) (s : State) : (holderCw i k m e s).lasting = s.lasting := by
  simp only [holderCw, invAckTo_lasting, answerCopy_lasting, State.modSl_lasting, cannotArise_lasting, State.lasting_ite, ite_self]

theorem holderRb_lasting (i : SliceNo) (k : BKind) (m : BMsg) (e : RbEnt) (s : State) : (holderRb i k m e s).lasting = s.lasting := by
  simp only [holderRb, answerCopy_lasting, dropRb_lasting, State.modSl_lasting, cannotArise_lasting, State.lasting_ite, ite_self]

theorem holderWay_lasting (i : SliceNo) (k : BKind) (m : BMsg) (w : Nat) (s : State) : (holderWay i k m w s).lasting = s.lasting := by
  simp only [holderWay]
  repeat' split
  all_goals simp only [readSlot_lasting, answerCopy_lasting, State.modSl_lasting, pendWay_lasting, modTxn_lasting, dropWay_lasting]

theorem holderNone_lasting (i : SliceNo) (k : BKind) (m : BMsg) (s : State) : (holderNone i k m s).lasting = s.lasting := by
  simp only [holderNone]
  repeat' split
  all_goals simp only [answerCopy_lasting, modTxn_lasting, cannotArise_lasting, invAckTo_lasting]

theorem holderGo_lasting (i : SliceNo) (k : BKind) (m : BMsg) (snooped : Bool) (s0 : State) : (holderGo i k m snooped s0).lasting = s0.lasting := by
  simp only [holderGo]
  repeat' split
  all_goals simp only [lookEntry_lasting, holderEntry_lasting, holderCw_lasting, holderRb_lasting, cannotArise_lasting, snoopFor_lasting,
    holderWay_lasting, holderNone_lasting]

theorem countCmd_lasting (wr disc : Nat) (s : State) : (countCmd wr disc s).lasting = s.lasting := by
  simp only [countCmd, State.lasting_mk]

theorem walkEvict_lasting (i : SliceNo) (set w : Nat) (discard cmd : Bool) (s : State) : (walkEvict i set w discard cmd s).lasting = s.lasting := by
  simp only [walkEvict, countCmd_lasting, evictWay_lasting, State.lasting_ite, ite_self]

theorem cleanStep_lasting (i : SliceNo) (set w : Nat) (cmd : Bool) (s : State) : (cleanStep i set w cmd s).lasting = s.lasting := by
  unfold cleanStep
  split <;> simp only [evictWay_lasting, readSlot_lasting, State.modSl_lasting, sendPut_lasting, countCmd_lasting, State.lasting_ite, ite_self]

theorem visit_lasting (i : SliceNo) (k : WalkKind) (set w : Nat) (s : State) : (visit i k set w s).2.lasting = s.lasting := by
  simp only [visit]
  repeat' split
  all_goals simp only [snoopFor_lasting, cleanStep_lasting, walkEvict_lasting]

theorem visitNext_lasting {i : SliceNo} {k : WalkKind} {s t : State} (h : visitNext i k s = some t) : t.lasting = s.lasting := by
  unfold visitNext at h
  split at h
  · cases h
  · split at h
    · cases h
    · extract_lets n y at h
      split at h
      · cases h
        exact (State.modSl_lasting ..).trans (visit_lasting ..)
      · cases h

theorem startWalk_lasting (i : SliceNo) (k : WalkKind) (s : State) : (startWalk i k s).lasting = s.lasting := by
  simp only [startWalk, State.modSl_lasting]

theorem modCmd_lasting (f : WalkCmd → WalkCmd) (s : State) : (modCmd f s).lasting = s.lasting := by
  simp only [modCmd, State.lasting_mk]

theorem lockLine_lasting (l : LAddr) (s : State) : (lockLine l s).2.lasting = s.lasting := by
  unfold lockLine
  extract_lets i set x
  repeat' split
  · rfl
  · rfl
  · rfl
  · rfl
  · simp only [State.modSl_lasting, writeSlot_lasting, readSlot_lasting]
  · rfl
  · simp only [giveUpRb_lasting]
  · rfl
  · rfl
  · simp only [openTxn_lasting, State.modSl_lasting]
    exact shadowFor_lasting (by assumption)
  · rfl

theorem lockCount_lasting (l : LAddr) (y : LockStep × State) : (lockCount l y).lasting = y.2.lasting := by
  unfold lockCount
  split <;> simp only [modCmd_lasting]

theorem lockNext_lasting {i : SliceNo} {s t : State} (h : lockNext i s = some t) : t.lasting = s.lasting := by
  unfold lockNext at h
  split at h
  · cases h
  · split at h
    · cases h
    · split at h
      · cases h
      · extract_lets y at h
        split at h
        · cases h
        · cases h
          exact (lockCount_lasting ..).trans (lockLine_lasting ..)

theorem walkPass_lasting {i : SliceNo} {s t : State} (h : walkPass i s = some t) : t.lasting = s.lasting := by
  unfold walkPass at h
  split at h
  · cases h
  · split at h
    · next hv =>
      cases h
      obtain ⟨k, -, hk⟩ := List.exists_of_findSome?_eq_some hv
      exact visitNext_lasting hk
    · exact lockNext_lasting h

theorem walkPass_getD_lasting (i : SliceNo) (s : State) : ((walkPass i s).getD s).lasting = s.lasting := by
  cases h : walkPass i s with
  | none => rfl
  | some t => exact walkPass_lasting h

theorem arbIdle_lasting (i : SliceNo) (s : State) : (arbIdle i s).lasting = s.lasting := by
  unfold arbIdle
  split
  · exact decideIn_lasting i [] s
  · simp only [State.lasting_ite, walkPass_getD_lasting, decideIn_lasting, ite_self]

theorem exceptionOf_lasting (r : Req) (s : State) : (exceptionOf r s).lasting = s.lasting := by
  simp only [exceptionOf, complete_lasting, issueEvery_lasting, closeEntries_lasting, clearRsvAll_lasting]

theorem anyAccess_lasting (r : Req) (snooped : Bool) (s : State) : (anyAccess r snooped s).lasting = s.lasting := by
  simp only [anyAccess, exceptionOf_lasting, stampAccess_lasting, access_lasting, State.lasting_ite, ite_self]

theorem rbInto_lasting {i : SliceNo} {l : LAddr} {set w : Nat} {hp : BitVec 4} {s t : State} (h : rbInto i l set w hp s = some t) :
    t.lasting = s.lasting := by
  obtain ⟨e, -, rfl⟩ := Option.map_eq_some_iff.1 h
  exact (rbMove_lasting ..).trans (evictWay_lasting ..)

theorem rbInto_getD_lasting (i : SliceNo) (l : LAddr) (set w : Nat) (hp : BitVec 4) (s t : State) (ht : t.lasting = s.lasting) :
    ((rbInto i l set w hp s).getD t).lasting = s.lasting := by
  cases h : rbInto i l set w hp s with
  | none => exact ht
  | some u => exact rbInto_lasting h

theorem runAct_lasting (i : SliceNo) (a : Act) (s : State) : (runAct i a s).lasting = s.lasting := by
  unfold runAct
  split
  · exact anyAccess_lasting ..
  · exact holderGo_lasting ..
  · exact walkEvict_lasting ..
  · split
    · exact (anyAccess_lasting ..).trans (rbInto_lasting (by assumption))
    · exact (missInto_lasting ..).trans (evictWay_lasting ..)
  · exact rbInto_getD_lasting _ _ _ _ _ _ _ (evictWay_lasting ..)
  · exact rbCarry_lasting ..
  · exact cleanStep_lasting ..
  · split
    · exact wmbGo_lasting ..
    · rfl
  · split
    · exact ntcGo_lasting ..
    · rfl
  · split
    · exact (placeApplied_lasting ..).trans (evictWay_lasting ..)
    · exact evictWay_lasting ..
  · exact stampPerform_lasting ..
  · rfl

theorem runBlocked_lasting (i : SliceNo) (n : Nat) (s : State) : (runBlocked i n s).lasting = s.lasting := by
  induction n generalizing s with
  | zero => rfl
  | succ n ih =>
    unfold runBlocked
    split
    · rfl
    · extract_lets s1
      refine (ih _).trans ?_
      split
      · exact (holderGo_lasting ..).trans (State.modSl_lasting ..)
      · exact State.modSl_lasting ..

theorem rerun_lasting (rs : List Req) (s : State) : (rerun rs s).lasting = s.lasting := by
  simp only [rerun, anyAccess_lasting, State.each_lasting, implies_true]

theorem unfill_lasting (i : SliceNo) (t : STxn) (s : State) : (unfill i t s).lasting = s.lasting := by
  unfold unfill
  split <;> simp only [State.modSl_lasting]

theorem serveOnce_lasting (rs : List Req) (d : Line) (poison : Bool) (s : State) : (serveOnce rs d poison s).lasting = s.lasting := by
  simp only [serveOnce, giveRead_lasting, anyAccess_lasting, State.lasting_ite, State.each_lasting, ite_self, implies_true]

theorem lockFilled_lasting (l : LAddr) (s : State) : (lockFilled l s).lasting = s.lasting := by
  simp only [lockFilled, State.lasting_mk]

theorem fill_lasting (i : SliceNo) (t : STxn) (st : LState) (d : Slot) (poison : Bool) (s : State) :
    (fill i t st d poison s).lasting = s.lasting := by
  simp only [fill]
  repeat' split
  all_goals simp only [closeTxn_lasting, modTxn_lasting, serveOnce_lasting, unfill_lasting, sendPut_lasting, writeSlot_lasting, rowOpen_lasting,
    State.modSl_lasting, rerun_lasting, lockFilled_lasting]

theorem grantIn_lasting (i : SliceNo) (t : STxn) (ack : Bool) (htid : BitVec 12) (s : State) : (grantIn i t ack htid s).lasting = s.lasting := by
  simp only [grantIn, modTxn_lasting, fill_lasting, sendAck_lasting, State.lasting_ite, ite_self]

theorem fillRetry_lasting (i : SliceNo) (s : State) : (fillRetry i s).lasting = s.lasting := by
  simp only [fillRetry, grantIn_lasting, State.lasting_ite, State.each_lasting, ite_self, implies_true]

theorem settle_lasting (i : SliceNo) (s : State) : (settle i s).lasting = s.lasting := by
  simp only [settle, rbRetry_lasting, fillRetry_lasting, issueAll_lasting, runBlocked_lasting, rbFree_lasting, applyDue_lasting, State.lasting_ite,
    ite_self]

theorem groupAnswer_lasting (i : SliceNo) (grp : Nat) (p : Port) (s : State) : (groupAnswer i grp p s).lasting = s.lasting := by
  unfold groupAnswer
  split <;> simp only [runAct_lasting, State.modSl_lasting, settle_lasting, runBlocked_lasting, State.lasting_ite, ite_self]

/-! ### The host ports -/

theorem ctrLost_lasting (p : Port) (s : State) : (ctrLost p s).lasting = s.lasting := by
  simp only [ctrLost, postNotice_lasting, postEvent_lasting, State.modHp_lasting, State.lasting_ite, ite_self]

theorem masterGone_lasting (m : Master) (s : State) : (masterGone m s).lasting = s.lasting := rfl

theorem quarEnds_lasting (p : Port) (s : State) : (quarEnds p s).lasting = s.lasting := by
  simp only [quarEnds, State.modMb_lasting, State.modHp_lasting]

theorem discardReq_lasting (s : State) (r : Req) : (discardReq s r).lasting = s.lasting := by
  simp only [discardReq, retireReq_lasting, State.modHp_lasting, State.setHp_lasting, State.lasting_ite, ite_self]

theorem dropMoves_lasting (p : Port) (s : State) : (dropMoves p s).lasting = s.lasting := by
  simp only [dropMoves, State.modSl_lasting, evPoisoned_lasting, State.each_lasting, implies_true]

theorem portDown_lasting (p : Port) (s : State) : (portDown p s).lasting = s.lasting := by
  simp only [portDown, State.setHp_lasting, dropMoves_lasting, quarEnds_lasting, discardReq_lasting, ctrLost_lasting, masterGone_lasting,
    closeEntries_lasting, State.modHp_lasting, stampLost_lasting, peatEnter_lasting, postEvent_lasting, poisonLine_lasting, groupAnswer_lasting,
    dropHp_lasting, issueEvery_lasting, msixCheck_lasting, State.lasting_ite, State.each_lasting, ite_self, implies_true]

theorem downMove_lasting (s : State) (p : Port) : (downMove s p).lasting = s.lasting := by
  simp only [downMove, State.setHp_lasting, State.lasting_ite, ite_self]

theorem downMoves_lasting (s : State) : (downMoves s).lasting = s.lasting := by
  simp only [downMoves, downMove_lasting, State.each_lasting, implies_true]

theorem enterRecovery_lasting (p : Port) (s : State) : (enterRecovery p s).lasting = s.lasting := by
  simp only [enterRecovery, State.setHp_lasting, State.lasting_ite, ite_self]

theorem linkKept_lasting (p : Port) (s : State) : (linkKept p s).lasting = s.lasting := by
  simp only [linkKept, portDown_lasting, State.lasting_ite, ite_self]

/-! ### The mailboxes -/

theorem fwDo_lasting {f : State → State} (hf : ∀ t, (f t).lasting = t.lasting) (s : State) : (fwDo f s).lasting = s.lasting := by
  simp only [fwDo, State.lasting_ite, hf, State.lasting_mk, ite_self]

theorem outAck_lasting (p k : Port) (w : RWr) (late : Bool) (s : State) : (outAck p k w late s).lasting = s.lasting := by
  simp only [outAck, State.lasting_ite, msixCheck_lasting, fwDo_lasting (postBacklog_lasting p), fwDo_lasting (f := id) (fun _ => rfl),
    postCmd_lasting,
    State.modMb_lasting, ite_self]

/-! ### Walks of the firmware -/

theorem endWalk_lasting (k : WalkKind) (i : SliceNo) (s : State) : (endWalk k i s).lasting = s.lasting := by
  simp only [endWalk, State.modSl_lasting]

/-! ### Links -/

theorem txFreed_lasting (s : State) (x : TxPkt) : (txFreed s x).lasting = s.lasting := by
  unfold txFreed
  split <;> simp only [bufferFreed_lasting, State.lasting_ite, ite_self]

/-! ### Register values -/

theorem State.setV_lasting (s : State) (r : Reg) (v : VReg) : (s.setV r v).lasting = s.lasting := by
  unfold State.setV
  split <;> simp only [State.modSl_lasting, State.modHome_lasting, State.modHp_lasting, State.modFp_lasting, State.lasting_mk]

theorem voteRead_lasting (r : Reg) (s : State) : (voteRead r s).lasting = s.lasting := by
  unfold voteRead
  split
  · rfl
  · split
    · exact State.setV_lasting s r _
    · rfl

/-! ### Register accesses -/

theorem State.modGen_lasting (s : State) (f : Gen → Gen) (hf : ∀ g, (f g).time = g.time) : (s.modGen f).lasting = s.lasting := by
  simp only [State.lasting, State.modGen, hf]

theorem modInd_lasting (m : Master) (f : Ind → Ind) (s : State) : (modInd m f s).lasting = s.lasting := by
  simp only [modInd, State.modGen_lasting, implies_true]

theorem accErr_lasting (m : Master) (off kind : Nat) (s : State) : (accErr m off kind s).lasting = s.lasting := by
  simp only [accErr, State.modGen_lasting, implies_true]

theorem setKey_lasting (m : Master) (b : Bool) (s : State) : (setKey m b s).lasting = s.lasting := by
  simp only [setKey, State.modGen_lasting, implies_true]

theorem doneWr_lasting (m : Master) (etag : BitVec 12) (ok : Bool) (s : State) : (doneWr m etag ok s).lasting = s.lasting := by
  unfold doneWr
  repeat' split
  all_goals simp only [State.emit_lasting, toHost_lasting]

theorem doneRd_lasting (m : Master) (etag : BitVec 12) (ok : Bool) (size : Nat) (v : W64) (s : State) :
    (doneRd m etag ok size v s).lasting = s.lasting := by
  unfold doneRd
  split <;> simp only [State.emit_lasting, toHost_lasting, State.lasting_ite, ite_self]

theorem putV_lasting (r : Reg) (k : Nat) (v : W32) (s : State) : (putV r k v s).lasting = s.lasting := by
  simp only [putV, State.setV_lasting]

theorem drainStart_lasting (i : SliceNo) (s : State) : (drainStart i s).lasting = s.lasting := by
  simp only [drainStart, closeEntries_lasting, State.modSl_lasting, rbFree_lasting, startWalk_lasting, issueEvery_lasting, State.lasting_ite,
    ite_self]

theorem writeCacheCtl_lasting (off : Nat) (i : SliceNo) (m : Master) (raw v : W32) (s : State) :
    (writeCacheCtl off i m raw v s).lasting = s.lasting := by
  simp only [writeCacheCtl, putV_lasting, State.modSl_lasting, endWalk_lasting, evCfgDiscard_lasting, drainStart_lasting, State.lasting_ite, ite_self]

theorem writeLookupCtl_lasting (i : SliceNo) (v : W32) (s : State) : (writeLookupCtl i v s).lasting = s.lasting := by
  simp only [writeLookupCtl, State.modSl_lasting, bufCorrected_lasting, State.lasting_ite, State.each_lasting, ite_self, implies_true]

theorem writeLaneCtl_lasting (off : Nat) (m : Master) (raw v : W32) (s : State) : (writeLaneCtl off m raw v s).lasting = s.lasting := by
  simp only [writeLaneCtl, evCfgDiscard_lasting, putV_lasting, State.lasting_ite, ite_self]

theorem writeRetryCtl_lasting (off : Nat) (i : SliceNo) (m : Master) (raw v : W32) (s : State) :
    (writeRetryCtl off i m raw v s).lasting = s.lasting := by
  simp only [writeRetryCtl, evCfgDiscard_lasting, State.modSl_lasting, State.lasting_ite, ite_self]

theorem writeSnpCtl_lasting (off : Nat) (p : Port) (m : Master) (raw v : W32) (s : State) : (writeSnpCtl off p m raw v s).lasting = s.lasting := by
  simp only [writeSnpCtl, evCfgDiscard_lasting, putV_lasting, State.lasting_ite, ite_self]

theorem writeLinkCtl_lasting (p : Port) (act v : W32) (s : State) : (writeLinkCtl p act v s).lasting = s.lasting := by
  simp only [writeLinkCtl, putV_lasting, portDown_lasting, State.modHp_lasting, linkKept_lasting, enterRecovery_lasting, State.lasting_ite, ite_self]

theorem writeSluice_lasting (v : W32) (s : State) : (writeSluice v s).lasting = s.lasting := by
  simp only [writeSluice, issueEvery_lasting, closeEntries_lasting, State.lasting_mk]

theorem writeFrzCtl_lasting (act v : W32) (s : State) : (writeFrzCtl act v s).lasting = s.lasting := by
  simp only [writeFrzCtl, putV_lasting, freezeDie_lasting, State.lasting_ite, ite_self]

theorem writePmuCtl_lasting (act v : W32) (s : State) : (writePmuCtl act v s).lasting = s.lasting := by
  simp only [writePmuCtl, State.lasting_mk]

theorem writeEvqCtl_lasting (p : Port) (act v : W32) (s : State) : (writeEvqCtl p act v s).lasting = s.lasting := by
  simp only [writeEvqCtl, msixCheck_lasting, State.setEq_lasting]

theorem writeEvqRd_lasting (p : Port) (v : W32) (s : State) : (writeEvqRd p v s).lasting = s.lasting := by
  simp only [writeEvqRd, msixCheck_lasting, State.setEq_lasting, State.lasting_ite, ite_self]

theorem writeEvqMark_lasting (p : Port) (v : W32) (s : State) : (writeEvqMark p v s).lasting = s.lasting := by
  simp only [writeEvqMark, State.setEq_lasting, State.lasting_ite, ite_self]

theorem writeMbxIn_lasting (p k : Port) (be : BitVec 4) (v : W32) (s : State) : (writeMbxIn p k be v s).lasting = s.lasting := by
  have hrun : (fwDo id s).lasting = s.lasting := fwDo_lasting (fun _ => rfl) s
  simp only [writeMbxIn, State.lasting_ite, State.lasting_mk, postCmd_lasting, State.modMb_lasting, hrun, ite_self]

theorem writeParam_lasting (p : Port) (n : Nat) (m : Master) (be : BitVec 4) (v : W32) (s : State) :
    (writeParam p n m be v s).lasting = s.lasting := by
  simp only [writeParam, State.modMb_lasting, State.lasting_ite, ite_self]

theorem slowWrite_lasting (m : Master) (s : State) : (slowWrite m s).lasting = s.lasting := by
  unfold slowWrite
  split <;> simp only [modInd_lasting, State.lasting_mk, State.lasting_ite, ite_self]

theorem indRead_lasting (m : Master) (s : State) : (indRead m s).2.lasting = s.lasting := by
  simp only [indRead, slowWrite_lasting, State.tick1_lasting, modInd_lasting]

theorem indWrite_lasting (m : Master) (v : W32) (s : State) : (indWrite m v s).lasting = s.lasting := by
  simp only [indWrite, modInd_lasting, slowWrite_lasting]

theorem writeSem_lasting (n : Fin 8) (m : Master) (v : W32) (s : State) : (writeSem n m v s).lasting = s.lasting := by
  simp only [writeSem, State.modGen_lasting, State.lasting_ite, ite_self, implies_true]

theorem genWrite_lasting (r : Reg) (m : Master) (be : BitVec 4) (late : Bool) (act v : W32) (s : State) :
    (genWrite r m be late act v s).lasting = s.lasting := by
  unfold genWrite
  repeat' split
  all_goals simp only [State.modGen_lasting, writeSem_lasting, writeMbxIn_lasting, outAck_lasting, msixCheck_lasting, State.modMb_lasting,
    writeParam_lasting, writeEvqCtl_lasting, State.setEq_lasting, writeEvqRd_lasting, writeEvqMark_lasting, modInd_lasting, indWrite_lasting,
    implies_true]

theorem slcWrite_lasting (off : Nat) (r : Reg) (m : Master) (raw v : W32) (s : State) : (slcWrite off r m raw v s).lasting = s.lasting := by
  unfold slcWrite
  split <;> simp only [evCfgDiscard_lasting, putV_lasting, writeLookupCtl_lasting, writeCacheCtl_lasting, issueAll_lasting, State.modSl_lasting,
    writeRetryCtl_lasting, State.lasting_ite, ite_self]

theorem partWrite_lasting (off : Nat) (r : Reg) (m : Master) (raw act v : W32) (s : State) : (partWrite off r m raw act v s).lasting = s.lasting := by
  unfold partWrite
  split <;> simp only [writeLaneCtl_lasting, putV_lasting, evCfgDiscard_lasting, writeSluice_lasting, writeLinkCtl_lasting, State.modHp_lasting,
    writeSnpCtl_lasting, writeFrzCtl_lasting, writePmuCtl_lasting, State.lasting_mk, State.lasting_ite, ite_self]

theorem write32_lasting (off : Nat) (m : Master) (be : BitVec 4) (late : Bool) (raw : W32) (s : State) :
    (write32 off m be late raw s).lasting = s.lasting := by
  simp only [write32, setKey_lasting, evCfgDiscard_lasting, accErr_lasting, State.modGen_lasting, partWrite_lasting, slcWrite_lasting,
    genWrite_lasting, State.lasting_ite, ite_self, implies_true]

theorem readReg_lasting (off : Nat) (m : Master) (s : State) : (readReg off m s).2.lasting = s.lasting := by
  unfold readReg
  split <;> simp only [State.modGen_lasting, indRead_lasting, voteRead_lasting, implies_true]

theorem setShadow_lasting (m : Master) (x : Option (Nat × W32)) (s : State) : (setShadow m x s).lasting = s.lasting := by
  simp only [setShadow, State.modGen_lasting, implies_true]

theorem read32_lasting (off : Nat) (m : Master) (s : State) : (read32 off m s).2.lasting = s.lasting := by
  unfold read32
  repeat' split
  all_goals simp only [setShadow_lasting, readReg_lasting]

theorem read64_lasting (off : Nat) (m : Master) (s : State) : (read64 off m s).2.lasting = s.lasting := by
  unfold read64
  split <;> simp only [read32_lasting]

theorem regWriteNow_lasting (a : RAcc) (late : Bool) (s : State) : (regWriteNow a late s).lasting = s.lasting := by
  simp only [regWriteNow, doneWr_lasting, setKey_lasting, accErr_lasting, write32_lasting, State.lasting_ite, ite_self]

theorem regReadNow_lasting (a : RAcc) (s : State) : (regReadNow a s).lasting = s.lasting := by
  simp only [regReadNow, doneRd_lasting, accErr_lasting, read64_lasting, read32_lasting, State.lasting_ite, ite_self]

theorem RegOp.run_lasting (q : RegOp) (s : State) : (RegOp.run q s).lasting = s.lasting := by
  simp only [RegOp.run, regReadNow_lasting, regWriteNow_lasting, State.lasting_ite, ite_self]

theorem runRegs_lasting (p : Port) (n : Nat) (s : State) : (runRegs p n s).lasting = s.lasting := by
  induction n generalizing s with
  | zero => rfl
  | succ n ih =>
    unfold runRegs
    split
    · rfl
    · split
      · rfl
      · exact (ih _).trans ((RegOp.run_lasting ..).trans (State.modHp_lasting ..))

/-! ### The start-up -/

theorem sendQuiet_lasting (s : State) : (sendQuiet s).lasting = s.lasting := by
  simp only [sendQuiet, sendVc5_lasting, State.foldl_lasting, implies_true]

theorem quietStep_lasting (s : State) : (quietStep s).lasting = s.lasting := by
  simp only [quietStep, fwDo_lasting, sendQuiet_lasting, State.lasting_mk, State.lasting_ite, ite_self, implies_true]

/-! ### The switch -/

theorem inject_lasting (s : State) (o : Out) : (inject s o).lasting = s.lasting := by
  unfold inject
  repeat' split
  all_goals simp only [State.modHp_lasting, txFreed_lasting, State.modFp_lasting, State.tick1_lasting, State.lasting_ite, ite_self]

theorem injectAll_lasting (s : State) : (injectAll s).lasting = s.lasting := by
  simp only [injectAll, State.modFabric_lasting, inject_lasting, State.foldl_lasting, implies_true]

theorem hostTick_lasting (s : State) (p : Port) : (hostTick s p).lasting = s.lasting := by
  simp only [hostTick, State.modHp_lasting, State.setHp_lasting, State.lasting_mk, State.lasting_ite, State.each_lasting, ite_self, implies_true]

theorem oweBack_lasting (s : State) (xs : List TxPkt) : (oweBack s xs).lasting = s.lasting := by
  unfold oweBack
  repeat' split
  all_goals simp only [bufferFreed_lasting]

theorem sendFlit_lasting (f : FPortNo) (s : State) : (sendFlit f s).lasting = s.lasting := by
  simp only [sendFlit, State.tick1_lasting, State.modFabric_lasting, State.setFp_lasting, oweBack_lasting, State.lasting_ite, State.foldl_lasting,
    ite_self, implies_true]

theorem dropQueued_lasting (f : FPortNo) (q : TxPkt → Bool) (s : State) : (dropQueued f q s).lasting = s.lasting := by
  simp only [dropQueued, State.modFp_lasting, txFreed_lasting, State.each_lasting, implies_true]

theorem dropLost_lasting (f : FPortNo) (s : State) : (dropLost f s).lasting = s.lasting := by
  simp only [dropLost, State.modFp_lasting, dropQueued_lasting]

theorem portTick_lasting (s : State) (f : FPortNo) : (portTick s f).lasting = s.lasting := by
  simp only [portTick, dropLost_lasting, pmu_lasting, sendFlit_lasting, dropQueued_lasting, State.lasting_ite, State.each_lasting, ite_self,
    implies_true]

theorem switchTick_lasting (s : State) : (switchTick s).lasting = s.lasting := by
  simp only [switchTick, injectAll_lasting, hostTick_lasting, portTick_lasting, State.lasting_ite, State.each_lasting, ite_self, implies_true]

/-! ### The clocks -/

theorem fullCycles_lasting (s : State) : (fullCycles s).lasting = s.lasting := by
  simp only [fullCycles, pmu_lasting, State.lasting_ite, State.each_lasting, ite_self, implies_true]

theorem startLive_lasting (s : State) : (startLive s).lasting = s.lasting := by
  simp only [startLive]
  repeat' split
  all_goals simp only [State.lasting_mk]

theorem arbTick_lasting (s : State) : (arbTick s).lasting = s.lasting := by
  simp only [arbTick, arbIdle_lasting, State.each_lasting, implies_true]

end Sys2Proof.Machine
end

section
/-! PROOFS. The step on an empty queue: one cycle of the AON clock's count, and with the clocks running one of the TIME domain (log 2). -/

set_option Elab.async false

namespace Sys2Proof.Machine

/-! ### A write queue empties into DRAM, and every line reads as before -/

/-- The fill slot of a line's block, where there is one, has the line written (R363). -/
def Mem.slotHas (m : Mem) (f : Nat) : Bool := (m.fillSlots.find? (fun c => decide (c.1 = blockOf f))).any (fun c => c.2.contains (f % 2 ^ 15))

/-- The line of a frame as DRAM and the fill slots give it (R362, R363). -/
def Mem.dram (m : Mem) (f : Nat) : DLine := if m.isFilled (blockOf f) || m.slotHas f then spGet {} m.ddr f else {}

/-- The last write of a line that waits in a queue. -/
def lastWrite (q : List (Nat × DLine)) (f : Nat) : Option DLine := (q.reverse.find? (fun c => decide (c.1 = f))).map (·.2)

theorem ddrGet_eq (s : State) (f : Nat) : ddrGet s f = (lastWrite s.mem.wq f).getD (s.mem.dram f) := by
  unfold ddrGet lastWrite Mem.dram Mem.slotHas
  extract_lets m blk
  cases s.mem.wq.reverse.find? (fun c => decide (c.1 = f)) with
  | some c => rfl
  | none =>
    show (if m.isFilled blk then spGet {} m.ddr f else _) = if m.isFilled blk || _ then spGet {} m.ddr f else {}
    cases m.isFilled blk with
    | true => rfl
    | false =>
      cases hslot : m.fillSlots.find? (fun c => decide (c.1 = blk)) with
      | none => rfl
      | some c => rfl

theorem ddrGet_of_lasting {s t : State} (h : t.lasting = s.lasting) (f : Nat) : ddrGet t f = ddrGet s f := by
  simp only [State.lasting, Prod.mk.injEq] at h
  obtain ⟨-, hblk, hmap, hslots, hddr, hwq⟩ := h
  rw [ddrGet_eq, ddrGet_eq, Mem.dram, Mem.dram, Mem.slotHas, Mem.slotHas, Mem.isFilled, Mem.isFilled, hblk, hmap, hslots, hddr, hwq]

/-- A fill slot after line f has been written. -/
def slotWith (f : Nat) (c : Nat × List Nat) : Nat × List Nat :=
  if c.1 = blockOf f ∧ !c.2.contains (f % 2 ^ 15) then (c.1, c.2 ++ [f % 2 ^ 15]) else c

theorem slotWith_block (f : Nat) (c : Nat × List Nat) : (slotWith f c).1 = c.1 := by
  unfold slotWith
  split <;> rfl

theorem slotWith_contains_same {f : Nat} {c : Nat × List Nat} (h : c.1 = blockOf f) : (slotWith f c).2.contains (f % 2 ^ 15) = true := by
  unfold slotWith
  split <;> simp_all

theorem slotWith_contains_other {f g : Nat} {c : Nat × List Nat} (h : c.1 = blockOf g) (hg : g ≠ f) :
    (slotWith f c).2.contains (g % 2 ^ 15) = c.2.contains (g % 2 ^ 15) := by
  unfold slotWith
  split
  · next hc =>
    have hne : g % 2 ^ 15 ≠ f % 2 ^ 15 := by
      have hb : blockOf g = blockOf f := h.symm.trans hc.1
      unfold blockOf at hb
      omega
    simpa using fun he => absurd he hne
  · rfl

theorem toDram_slot (m : Mem) (f : Nat) (d : DLine) (g : Nat) : (m.toDram f d).fillSlots.find? (fun c => decide (c.1 = blockOf g)) =
    (m.fillSlots.find? (fun c => decide (c.1 = blockOf g))).map (slotWith f) := by
  rw [show (m.toDram f d).fillSlots = m.fillSlots.map (slotWith f) from rfl, List.find?_map]
  simp only [Function.comp_def, slotWith_block]

theorem dram_toDram_same {m : Mem} (h : spWf {} m.ddr = true) {f : Nat} (ho : m.open_ f = true) (d : DLine) : (m.toDram f d).dram f = d := by
  have hline : spGet {} (m.toDram f d).ddr f = d := spGet_spSet_same h
  have hopen : ((m.toDram f d).isFilled (blockOf f) || (m.toDram f d).slotHas f) = true := by
    rcases Bool.or_eq_true_iff.1 ho with hfill | hslot
    · rw [show (m.toDram f d).isFilled (blockOf f) = m.isFilled (blockOf f) from rfl, hfill, Bool.true_or]
    · obtain ⟨c, hc⟩ := Option.isSome_iff_exists.1
        ((List.find?_isSome (p := fun c : Nat × List Nat => decide (c.1 = blockOf f))).2 (List.any_eq_true.1 hslot))
      have hb : c.1 = blockOf f := by simpa using List.find?_some hc
      rw [Mem.slotHas, toDram_slot, hc]
      exact Bool.or_eq_true_iff.2 (.inr (slotWith_contains_same hb))
  rw [Mem.dram, if_pos hopen, hline]

theorem dram_toDram_other {m : Mem} (h : spWf {} m.ddr = true) {f g : Nat} (hg : g ≠ f) (d : DLine) : (m.toDram f d).dram g = m.dram g := by
  have hline : spGet {} (m.toDram f d).ddr g = spGet {} m.ddr g := spGet_spSet_other h hg
  have hslot : (m.toDram f d).slotHas g = m.slotHas g := by
    unfold Mem.slotHas
    rw [toDram_slot]
    cases hs : m.fillSlots.find? (fun c => decide (c.1 = blockOf g)) with
    | none => rfl
    | some c =>
      have hc : c.1 = blockOf g := by simpa using List.find?_some hs
      exact slotWith_contains_other hc hg
  rw [Mem.dram, hline, hslot]
  rfl

theorem rmFirst_append_cons {α : Type} {p : α → Bool} {c : α} (a b : List α) (ha : ∀ x ∈ a, (!p x) = true) (hc : p c = true) :
    rmFirst p (a ++ c :: b) = a ++ b := by
  induction a with
  | nil => exact if_pos hc
  | cons x a ih =>
    obtain ⟨hx, ha⟩ := List.forall_mem_cons.1 ha
    rw [List.cons_append, rmFirst, if_neg (by simpa using hx), ih ha, List.cons_append]

theorem lastWrite_append (a b : List (Nat × DLine)) (f : Nat) : lastWrite (a ++ b) f = (lastWrite b f).or (lastWrite a f) := by
  rw [lastWrite, List.reverse_append, List.find?_append, Option.map_or]
  rfl

theorem lastWrite_cons (c : Nat × DLine) (b : List (Nat × DLine)) (f : Nat) :
    lastWrite (c :: b) f = (lastWrite b f).or (if c.1 = f then some c.2 else none) := by
  rw [← List.singleton_append, lastWrite_append]
  by_cases h : c.1 = f <;> simp [lastWrite, h]

theorem lastWrite_none {a : List (Nat × DLine)} {f : Nat} (h : ∀ x ∈ a, x.1 ≠ f) : lastWrite a f = none := by
  rw [lastWrite, List.find?_eq_none.2 fun x hx => by simpa using h x (List.mem_reverse.1 hx)]
  rfl

theorem drainOne_ddrGet (ch : Nat) {s : State} (h : spWf {} s.mem.ddr = true) (f : Nat) : ddrGet (drainOne ch s) f = ddrGet s f := by
  unfold drainOne
  extract_lets go
  split
  · rfl
  · next c hc =>
    obtain ⟨hgo, a, b, hwq, hnot⟩ := List.find?_eq_some_iff_append.1 hc
    have hopen : s.mem.open_ c.1 = true := (Bool.and_eq_true_iff.1 hgo).2
    rw [ddrGet_of_lasting (pmu_lasting ..), ddrGet_eq, ddrGet_eq]
    have hq : lastWrite (({ s.mem with wq := rmFirst go s.mem.wq } : Mem).toDram c.1 c.2).wq f = (lastWrite b f).or (lastWrite a f) := by
      rw [← lastWrite_append, ← rmFirst_append_cons a b hnot hgo, ← hwq]
      rfl
    rw [show lastWrite _ f = (lastWrite b f).or (lastWrite a f) from hq, hwq, lastWrite_append, lastWrite_cons]
    by_cases hf : f = c.1
    · have ha : lastWrite a f = none := lastWrite_none fun x hx he => by
        have hgx : go x = go c := by simp only [go, he, hf]
        have hno := hnot x hx
        rw [hgx, hgo] at hno
        exact absurd hno (by decide)
      rw [ha, if_pos hf.symm, hf]
      cases lastWrite b c.1 with
      | some d => rfl
      | none => exact dram_toDram_same (m := { s.mem with wq := rmFirst go s.mem.wq }) h hopen c.2
    · rw [if_neg (Ne.symm hf), Option.or_none]
      exact congrArg _ (dram_toDram_other (m := { s.mem with wq := rmFirst go s.mem.wq }) h hf c.2)

theorem drainOne_time (ch : Nat) (s : State) : (drainOne ch s).gen.time = s.gen.time := by
  unfold drainOne
  extract_lets go
  split
  · rfl
  · exact congrArg (·.1) (pmu_lasting ..)

/-- From s to t the time base stays, and every line of DDR5 reads as before; a good state ends good. -/
structure Drains (s t : State) : Prop where
  time  : t.gen.time = s.gen.time
  good  : spWf {} s.mem.ddr = true → spWf {} t.mem.ddr = true
  lines : spWf {} s.mem.ddr = true → ∀ f : Nat, ddrGet t f = ddrGet s f

theorem Drains.refl (s : State) : Drains s s := ⟨rfl, id, fun _ _ => rfl⟩

theorem Drains.trans {s t u : State} (h : Drains s t) (h' : Drains t u) : Drains s u :=
  ⟨h'.time.trans h.time, h'.good ∘ h.good, fun hg f => (h'.lines (h.good hg) f).trans (h.lines hg f)⟩

theorem Drains.of_lasting {s t : State} (h : t.lasting = s.lasting) : Drains s t where
  time := congrArg (·.1) h
  good hg := by rw [show t.mem.ddr = s.mem.ddr from congrArg (·.2.2.2.2.1) h]; exact hg
  lines _ := ddrGet_of_lasting h

theorem drainOne_drains (ch : Nat) (s : State) : Drains s (drainOne ch s) where
  time := drainOne_time ch s
  good hg := by
    unfold drainOne
    extract_lets go
    split
    · exact hg
    · next c _ =>
      rw [show (pmu 0x42 (some ch) _).mem.ddr = _ from congrArg (·.2.2.2.2.1) (pmu_lasting ..)]
      exact spWf_spSet hg
  lines hg := drainOne_ddrGet ch hg

theorem queueTick_drains (s : State) : Drains s (queueTick s) := by
  have hrun (l : List Nat) (t : State) : Drains t (t.each l (fun s ch => drainOne ch s)) := by
    induction l generalizing t with
    | nil => exact .refl t
    | cons ch l ih => exact (drainOne_drains ch t).trans (ih _)
  exact hrun _ s

/-! ### One TIME cycle -/

theorem clockTick_time_lines (s : State) : (clockTick s).gen.time = s.gen.time + 1 ∧
    (spWf {} s.mem.ddr = true → ∀ f : Nat, ddrGet (clockTick s) f = ddrGet s f) := by
  unfold clockTick
  extract_lets u srcH srcG s1
  have htime : s1.gen.time = s.gen.time + 1 := rfl
  have hmem : s1.mem = s.mem := rfl
  clear_value s1
  have hbefore : (fullCycles (arbTick (switchTick (s1.each ports (fun s p => runRegs p (s.hp p).regq.length s))))).lasting = s1.lasting :=
    (fullCycles_lasting _).trans ((arbTick_lasting _).trans ((switchTick_lasting _).trans (State.each_lasting (fun s p => runRegs_lasting p _ s) ports s1)))
  have hafter (x : State) : (quietStep (downMoves (startLive x))).lasting = x.lasting :=
    (quietStep_lasting _).trans ((downMoves_lasting _).trans (startLive_lasting x))
  have hdrains := (Drains.of_lasting hbefore).trans ((queueTick_drains _).trans (.of_lasting (hafter _)))
  exact ⟨hdrains.time.trans htime, fun hg f => (hdrains.lines (by rw [hmem]; exact hg) f).trans (ddrGet_congr hmem f)⟩

theorem aonTick_cycles (s : State) : (aonTick s).aon.cycles = (if s.aon.up = true ∧ s.aon.sub = 15 then s.aon.cycles + 1 else s.aon.cycles) ∧
    (aonTick s).aon.sub = (if s.aon.up then s.aon.sub + 1 else s.aon.sub) := by
  unfold aonTick
  extract_lets a
  cases hup : s.aon.up with
  | true => simp [a]
  | false => simp

theorem tick_of_stopped {s : State} (h : s.clk = false) : tick s = aonTick s := if_neg (by simp [h])

theorem tick_of_clk {s : State} (h : s.clk = true) : tick s = clockTick (aonTick s) := if_pos h

/-- Settles O2: the AON clock ticks; with the clocks running, one cycle of the root-derived domains follows. -/
theorem idleStepIsOneTimeCycle : Obligations.IdleStepIsOneTimeCycle := by
  intro s hs
  obtain ⟨hcycles, hsub⟩ := aonTick_cycles s
  have hkept : Kept (aonTick s) (tick s) := by
    cases hclk : s.clk with
    | true => rw [tick_of_clk hclk]; exact clockTick_kept _
    | false => rw [tick_of_stopped hclk]; exact .refl _
  have hstill : (tick s).aon.still = (aonTick s).aon.still := hkept.aon
  simp only [Aon.still, Prod.mk.injEq] at hstill
  obtain ⟨-, hcyc, hsubs, -⟩ := hstill
  have hother : aonTick s = { s with aon := (aonTick s).aon } := aonTick_eq s
  have hmem : (aonTick s).mem = s.mem := by rw [hother]
  refine ⟨tick s, by rw [step, hs]; rfl, ?_, ?_, hcyc.trans hcycles, hsubs.trans hsub, fun hclk => ?_, ?_, tick_ring s, fun hg f => ?_⟩
  · rw [hkept.pending, hother]
    exact hs
  · cases hclk : s.clk with
    | true => rw [tick_of_clk hclk, (clockTick_time_lines _).1, hother, if_pos rfl]
    | false => rw [tick_of_stopped hclk, hother, if_neg Bool.false_ne_true]
  · rw [tick_of_stopped hclk]
    exact hother
  · rw [hkept.pins, hother]
  · have haon : ddrGet (aonTick s) f = ddrGet s f := ddrGet_congr hmem f
    cases hclk : s.clk with
    | true => rw [tick_of_clk hclk, (clockTick_time_lines _).2 (by rw [hmem]; exact hg.1), haon]
    | false => rw [tick_of_stopped hclk, haon]

end Sys2Proof.Machine
end
